-- ==== Sys2Proof/Word.lean ====
section
/-! DEFINITION. The word types of the YS-2400: registers, descriptors and completions are
little-endian 32-bit words (00 R12, R14). -/

namespace Sys2Proof

/-- One byte of memory. -/
abbrev Byte := BitVec 8

/-- A half word, for example a status code (09 R334). -/
abbrev W16 := BitVec 16

/-- A register or one word of a descriptor (00 R14, R20). -/
abbrev W32 := BitVec 32

/-- A 64-bit quantity: a lane of a VDE register, a Rope operand, a host address. -/
abbrev W64 := BitVec 64

end Sys2Proof
end

