-- ==== Sys2Proof/Machine/Bits.lean ====
section
/-! DEFINITION. Bit fields, sign extension and byte order: the helpers every register and
descriptor layout is read with (00 R11 to R13). -/

namespace Sys2Proof.Machine

/-- The value of bits `hi`:`lo` of a number, both ends included (00 R12). -/
def natField (w hi lo : Nat) : Nat := (w >>> lo) % 2 ^ (hi + 1 - lo)

/-- The value of bits `hi`:`lo` of a word. -/
def field (w : W32) (hi lo : Nat) : Nat := natField w.toNat hi lo

/-- Bit `i` of a word. -/
def bitOf (w : W32) (i : Nat) : Bool := w.toNat.testBit i

/-- The mask with ones at bits `hi`:`lo`. -/
def fieldMask (hi lo : Nat) : Nat := (2 ^ (hi + 1 - lo) - 1) <<< lo

/-- A word with bits `hi`:`lo` replaced by `v`, cut to the field. -/
def setField (w : W32) (hi lo v : Nat) : W32 :=
  BitVec.ofNat 32 (w.toNat - (field w hi lo) <<< lo + (v % 2 ^ (hi + 1 - lo)) <<< lo)

/-- A word with bit `i` set to `b`. -/
def setBit (w : W32) (i : Nat) (b : Bool) : W32 := setField w i i (if b then 1 else 0)

/-- The signed value of the low `n` bits of a number (two's complement). -/
def signedOf (n v : Nat) : Int :=
  let u := v % 2 ^ n
  if u < 2 ^ (n - 1) then (u : Int) else (u : Int) - (2 ^ n : Nat)

/-- The low `n` bits of an integer, as a number (two's complement). -/
def wrapOf (n : Nat) (v : Int) : Nat := (v % (2 ^ n : Nat)).toNat

/-- An integer saturated to `n`-bit two's complement. -/
def satSigned (n : Nat) (v : Int) : Int :=
  let top : Int := (2 ^ (n - 1) : Nat)
  if v ≥ top then top - 1 else if v < -top then -top else v

/-- A count that saturates at `top`. -/
def satAdd (top a b : Nat) : Nat := min top (a + b)

/-- The `n` little-endian bytes of a number (00 R12). -/
def leBytes : Nat → Nat → List Byte
  | 0, _ => []
  | n + 1, v => BitVec.ofNat 8 v :: leBytes n (v / 256)

/-- The number that little-endian bytes spell (00 R12). -/
def fromLE : List Byte → Nat
  | [] => 0
  | b :: t => b.toNat + 256 * fromLE t

/-- The little-endian bytes of a list of 32-bit words. -/
def wordsBytes : List W32 → List Byte
  | [] => []
  | w :: t => leBytes 4 w.toNat ++ wordsBytes t

/-- The first `n` 32-bit words that little-endian bytes spell. -/
def bytesWords : Nat → List Byte → List W32
  | 0, _ => []
  | n + 1, bs => BitVec.ofNat 32 (fromLE (bs.take 4)) :: bytesWords n (bs.drop 4)

/-- Word `i` of a list of words, zero past its end. -/
def wordAt (ws : List W32) (i : Nat) : W32 := ws.getD i 0

/-- Bits `hi`:`lo` of word `i` of a list of words. -/
def wfield (ws : List W32) (i hi lo : Nat) : Nat := field (wordAt ws i) hi lo

/-- The 64-bit value of words `i` and `i + 1`, low word first (00 R14). -/
def wpair (ws : List W32) (i : Nat) : Nat :=
  (wordAt ws i).toNat + 2 ^ 32 * (wordAt ws (i + 1)).toNat

/-- The low 32 bits of a number as a word. -/
def lo32 (v : Nat) : W32 := BitVec.ofNat 32 v

/-- Bits 63:32 of a number as a word. -/
def hi32 (v : Nat) : W32 := BitVec.ofNat 32 (v / 2 ^ 32)

/-- How many of the bits 0 to `n - 1` of a number are ones. -/
def popCount : Nat → Nat → Nat
  | 0, _ => 0
  | n + 1, v => (if v.testBit n then 1 else 0) + popCount n v

/-- The indices below `n` whose bit is set, in increasing order. -/
def setBits (n v : Nat) : List Nat := (List.range n).filter (fun i => v.testBit i)

end Sys2Proof.Machine
end

