-- ==== Sys2Proof/Machine/Float.lean ====
section
/-! DEFINITION. The number formats and their arithmetic, fixed to the bit (02 R50 to R71): exact dyadic
values, rounding to a format, conversions on store, packing, and block floating point. -/

namespace Sys2Proof.Machine

/-- A value of any format: NaN, an infinity, or (−1)^neg × m × 2^e with a signed zero. -/
inductive FVal where
  | nan
  | inf (neg : Bool)
  | fin (neg : Bool) (m : Nat) (e : Int)
  deriving DecidableEq, Repr

/-- +0. -/
def FVal.zero : FVal := .fin false 0 0

/-- An integer as a value. -/
def FVal.ofInt (v : Int) : FVal := .fin (decide (v < 0)) v.natAbs 0

/-- A value with its sign changed; a NaN stays a NaN. -/
def FVal.neg : FVal → FVal
  | .nan => .nan
  | .inf s => .inf (!s)
  | .fin s m e => .fin (!s) m e

/-- The magnitude of a value. -/
def FVal.abs : FVal → FVal
  | .nan => .nan
  | .inf _ => .inf false
  | .fin _ m e => .fin false m e

def FVal.isNan : FVal → Bool
  | .nan => true
  | _ => false
def FVal.isInf : FVal → Bool
  | .inf _ => true
  | _ => false
def FVal.isZero : FVal → Bool
  | .fin _ m _ => decide (m = 0)
  | _ => false
/-- The sign bit; false for a NaN. -/
def FVal.sign : FVal → Bool
  | .nan => false
  | .inf s => s
  | .fin s _ _ => s

/-- m × 2^e as a multiple of 2^q, for q at most e. -/
def alignTo (m : Nat) (e q : Int) : Nat := m <<< (e - q).toNat

/-- The signed multiple of 2^q. -/
def signedAt (s : Bool) (m : Nat) (e q : Int) : Int :=
  if s then -(alignTo m e q : Int) else (alignTo m e q : Int)

/-- The exact product. -/
def FVal.mul : FVal → FVal → FVal
  | .nan, _ => .nan
  | _, .nan => .nan
  | .inf s, .inf t => .inf (s != t)
  | .inf s, .fin t m _ => if m = 0 then .nan else .inf (s != t)
  | .fin s m _, .inf t => if m = 0 then .nan else .inf (s != t)
  | .fin s m e, .fin t n f => .fin (s != t) (m * n) (e + f)

/-- The exact sum; a sum of zeros is −0 only when both are −0, and an exact cancellation is +0. -/
def FVal.add : FVal → FVal → FVal
  | .nan, _ => .nan
  | _, .nan => .nan
  | .inf s, .inf t => if s = t then .inf s else .nan
  | .inf s, .fin _ _ _ => .inf s
  | .fin _ _ _, .inf t => .inf t
  | .fin s m e, .fin t n f =>
    if m = 0 ∧ n = 0 then .fin (s && t) 0 0
    else if m = 0 then .fin t n f
    else if n = 0 then .fin s m e
    else
      let q := min e f
      let v := signedAt s m e q + signedAt t n f q
      .fin (decide (v < 0)) v.natAbs q

/-- The value times 2^k. -/
def FVal.scale (v : FVal) (k : Int) : FVal :=
  match v with
  | .fin s m e => .fin s m (e + k)
  | x => x

/-- a ≤ b for two finite magnitudes. -/
def magLe (m : Nat) (e : Int) (n : Nat) (f : Int) : Bool :=
  let q := min e f
  decide (alignTo m e q ≤ alignTo n f q)

/-- a < b, false when either is a NaN; zeros are equal. -/
def FVal.lt : FVal → FVal → Bool
  | .nan, _ => false
  | _, .nan => false
  | .inf s, .inf t => s && !t
  | .inf s, .fin _ _ _ => s
  | .fin _ _ _, .inf t => !t
  | .fin s m e, .fin t n f =>
    let q := min e f
    decide (signedAt s m e q < signedAt t n f q)

/-- The larger of two values; a NaN propagates (R57). -/
def FVal.max (a b : FVal) : FVal :=
  if a.isNan || b.isNan then .nan else if a.lt b then b else a

/-- The smaller of two values; a NaN propagates. -/
def FVal.min (a b : FVal) : FVal :=
  if a.isNan || b.isNan then .nan else if b.lt a then b else a

-- Rounding (R69).

/-- The rounding rules: nearest with ties to even, and toward zero. -/
inductive Rnd where
  | near | zero
  deriving DecidableEq, Repr

/-- m ÷ 2^d rounded to an integer. -/
def roundShift (r : Rnd) (m d : Nat) : Nat :=
  if d = 0 then m
  else
    let n := m >>> d
    let rest := m - n <<< d
    let half := 1 <<< (d - 1)
    match r with
    | .zero => n
    | .near => if half < rest ∨ (rest = half ∧ n % 2 = 1) then n + 1 else n

/-- m × 2^e rounded to a multiple of 2^q. -/
def roundAt (r : Rnd) (m : Nat) (e q : Int) : Nat :=
  if q ≤ e then alignTo m e q else roundShift r m (q - e).toNat

/-- Bits of a number. -/
def bitLen (m : Nat) : Nat := if m = 0 then 0 else Nat.log2 m + 1

/-- What the all-ones exponent of a format encodes (R54). -/
inductive TopExp where
  /-- ordinary values -/
  | values
  /-- ordinary values but one NaN pattern a sign -/
  | oneNan
  /-- infinities and NaNs -/
  | ieee
  deriving DecidableEq, Repr

/-- A floating-point layout (R54). -/
structure FFmt where
  exp : Nat
  man : Nat
  bias : Nat
  top : TopExp
  deriving DecidableEq, Repr

def fp4 : FFmt := ⟨2, 1, 1, .values⟩
def fp6e3m2 : FFmt := ⟨3, 2, 3, .values⟩
def fp6e2m3 : FFmt := ⟨2, 3, 1, .values⟩
def fp8e4m3 : FFmt := ⟨4, 3, 7, .oneNan⟩
def fp8e5m2 : FFmt := ⟨5, 2, 15, .ieee⟩
def bf16 : FFmt := ⟨8, 7, 127, .ieee⟩
def fp16 : FFmt := ⟨5, 10, 15, .ieee⟩
def fp32 : FFmt := ⟨8, 23, 127, .ieee⟩

/-- Exponent of the last place of a subnormal. -/
def FFmt.eMin (f : FFmt) : Int := 1 - (f.bias : Int) - f.man

/-- Significand and exponent of the largest finite value. -/
def FFmt.maxFin (f : FFmt) : Nat × Int :=
  match f.top with
  | .values => (2 ^ (f.man + 1) - 1, (2 ^ f.exp - 2 : Nat) + f.eMin)
  | .oneNan => (2 ^ (f.man + 1) - 2, (2 ^ f.exp - 2 : Nat) + f.eMin)
  | .ieee => (2 ^ (f.man + 1) - 1, (2 ^ f.exp - 3 : Nat) + f.eMin)

/-- Exponent of the last place to which m × 2^e rounds in a format of unbounded range. -/
def FFmt.ulp (f : FFmt) (m : Nat) (e : Int) : Int :=
  if m = 0 then f.eMin
  else
    let q := e + (bitLen m : Int) - (f.man + 1 : Nat)
    if q < f.eMin then f.eMin else q

/-- A value rounded to a format of unbounded range. -/
def FFmt.round (f : FFmt) (r : Rnd) (v : FVal) : FVal :=
  match v with
  | .fin s m e => .fin s (roundAt r m e (f.ulp m e)) (f.ulp m e)
  | x => x

/-- The finite value lies beyond the format's largest finite value. -/
def FFmt.over (f : FFmt) (m : Nat) (e : Int) : Bool := !(magLe m e f.maxFin.1 f.maxFin.2)

/-- A value rounded by an arithmetic step: nearest even, overflow to an infinity (R65, R69). -/
def FFmt.arith (f : FFmt) (v : FVal) : FVal :=
  match f.round .near v with
  | .fin s m e => if f.over m e then .inf s else .fin s m e
  | x => x

/-- The bits of a value that the format holds. -/
def FFmt.encode (f : FFmt) (v : FVal) : Nat :=
  let w := f.exp + f.man
  let signed (s : Bool) (b : Nat) : Nat := (if s then 2 ^ w else 0) + b
  match v with
  | .nan =>
    match f.top with
    | .values => 0
    | .oneNan => 2 ^ w - 1
    | .ieee => (2 ^ f.exp - 1) <<< f.man + 2 ^ (f.man - 1)
  | .inf s => signed s (match f.top with
    | .ieee => (2 ^ f.exp - 1) <<< f.man
    | .values => 2 ^ w - 1
    | .oneNan => 2 ^ w - 2)
  | .fin s m e =>
    if m = 0 then signed s 0
    else
      let q := f.ulp m e
      let n := roundAt .near m e q
      let nq := if n = 2 ^ (f.man + 1) then (2 ^ f.man, q + 1) else (n, q)
      if nq.1 < 2 ^ f.man then signed s nq.1
      else signed s (((nq.2 - f.eMin).toNat + 1) <<< f.man + (nq.1 - 2 ^ f.man))

/-- The value that bits encode (R54, R55, R57). -/
def FFmt.decode (f : FFmt) (b : Nat) : FVal :=
  let w := f.exp + f.man
  let s := b.testBit w
  let x := natField b (w - 1) f.man
  let m := b % 2 ^ f.man
  let ones := 2 ^ f.exp - 1
  if x = ones ∧ f.top = .ieee then (if m = 0 then .inf s else .nan)
  else if x = ones ∧ f.top = .oneNan ∧ m = 2 ^ f.man - 1 then .nan
  else if x = 0 then .fin s m f.eMin
  else .fin s (2 ^ f.man + m) (f.eMin + (x - 1 : Nat))

/-- What a store conversion leaves: the bits, and whether it counts as a saturation or a NaN. -/
structure Stored where
  bits : Nat
  sat : Bool
  nan : Bool
  deriving DecidableEq, Repr

/-- Store to a float format: round, then saturate (R69, R71). -/
def FFmt.store (f : FFmt) (r : Rnd) (v : FVal) : Stored :=
  match f.round r v with
  | .nan => ⟨f.encode .nan, false, true⟩
  | .inf s => ⟨f.encode (.inf s), decide (f.top ≠ .ieee), false⟩
  | .fin s m e =>
    if f.over m e then ⟨f.encode (.fin s f.maxFin.1 f.maxFin.2), true, false⟩
    else ⟨f.encode (.fin s m e), false, false⟩

/-- A finite value rounded to an integer. -/
def roundInt (r : Rnd) (s : Bool) (m : Nat) (e : Int) : Int :=
  if s then -(roundAt r m e 0 : Int) else (roundAt r m e 0 : Int)

/-- Store to an integer format of `n` bits: round, then saturate (R69, R71). -/
def intStore (n : Nat) (r : Rnd) (v : FVal) : Stored :=
  match v with
  | .nan => ⟨0, false, true⟩
  | .inf s => ⟨wrapOf n (if s then -(2 ^ (n - 1) : Nat) else (2 ^ (n - 1) : Nat) - 1), true, false⟩
  | .fin s m e =>
    let i := roundInt r s m e
    ⟨wrapOf n (satSigned n i), decide (satSigned n i ≠ i), false⟩

/-- The integer a value holds, toward zero; 0 for a NaN or an infinity. -/
def FVal.toInt : FVal → Int
  | .fin s m e => roundInt .zero s m e
  | _ => 0

-- FP32 arithmetic: each step rounds to nearest even (R69, R132).

def r32 (v : FVal) : FVal := fp32.arith v
def fadd (a b : FVal) : FVal := r32 (a.add b)
def fsub (a b : FVal) : FVal := r32 (a.add b.neg)
def fmul (a b : FVal) : FVal := r32 (a.mul b)

/-- The quotient, correctly rounded: 96 quotient bits and a sticky bit. -/
def fdiv (a b : FVal) : FVal :=
  match a, b with
  | .nan, _ => .nan
  | _, .nan => .nan
  | .inf _, .inf _ => .nan
  | .inf s, .fin t _ _ => .inf (s != t)
  | .fin s _ _, .inf t => .fin (s != t) 0 0
  | .fin s m e, .fin t n f =>
    if n = 0 then (if m = 0 then .nan else .inf (s != t))
    else
      let k := bitLen n + 32
      let q := (m <<< k) / n
      let sticky := if (m <<< k) % n = 0 then 0 else 1
      r32 (.fin (s != t) (2 * q + sticky) (e - f - k - 1))

/-- The integer square root, bit by bit from bit `k` down. -/
def isqrtFrom : Nat → Nat → Nat → Nat
  | 0, _, r => r
  | k + 1, m, r =>
    let c := r + 1 <<< k
    isqrtFrom k m (if c * c ≤ m then c else r)

/-- The square root, correctly rounded; of a negative value the NaN. -/
def fsqrt (a : FVal) : FVal :=
  match a with
  | .nan => .nan
  | .inf s => if s then .nan else .inf false
  | .fin s m e =>
    if m = 0 then .fin s 0 0
    else if s then .nan
    else
      let k := 64 + (if (e % 2 : Int) = 0 then 0 else 1)
      let n := m <<< k
      let q := isqrtFrom 64 n 0
      let sticky := if q * q = n then 0 else 1
      r32 (.fin false (2 * q + sticky) ((e - k) / 2 - 1))

/-- The FP32 value of 32 bits, and the bits of a value in FP32. -/
def f32 (w : Nat) : FVal := fp32.decode w
def f32Bits (v : FVal) : Nat := fp32.encode v

/-- The larger of two FP32 magnitudes, by their bits; a NaN leaves the first (R73). DESIGN CHOICE, log entry 75: an
integer's magnitude that FP32 cannot hold is rounded to nearest even. -/
def maxAbsBits (a : Nat) (v : FVal) : Nat :=
  if v.isNan then a else
    let b := f32Bits (fp32.arith v).abs
    if a < b then b else a

-- Formats (R50).

/-- Bits of an element. -/
def fmtBits (f : Nat) : Nat :=
  match f with
  | 1 | 5 => 4
  | 2 | 8 | 9 => 8
  | 3 | 10 | 11 => 16
  | 4 | 12 | 13 | 14 => 32
  | 6 | 7 => 6
  | _ => 0

/-- The float layout of a format code. -/
def fmtFloat (f : Nat) : Option FFmt :=
  match f with
  | 5 => some fp4
  | 6 => some fp6e3m2
  | 7 => some fp6e2m3
  | 8 => some fp8e4m3
  | 9 => some fp8e5m2
  | 10 => some bf16
  | 11 => some fp16
  | 12 => some fp32
  | _ => none

/-- The format carries group scales. -/
def fmtScaled (f : Nat) : Bool := decide (f ∈ [1, 2, 5, 6, 7, 8, 9])
/-- A narrow float format. -/
def fmtNarrow (f : Nat) : Bool := decide (5 ≤ f) && decide (f ≤ 9)
/-- A complex format. -/
def fmtComplex (f : Nat) : Bool := decide (f = 13) || decide (f = 14)

/-- The pair of formats may meet in a matrix instruction (R51). -/
def fmtPair (a b : Nat) : Bool :=
  (decide (a ∈ [1, 2]) && decide (b ∈ [1, 2])) || (fmtNarrow a && fmtNarrow b)
    || (decide (a = b) && decide (a ∈ [10, 11, 12, 13, 14]))

/-- An element: real and imaginary part; a real element has the imaginary part +0. -/
structure Elem where
  re : FVal
  im : FVal
  deriving DecidableEq, Repr

def Elem.zero : Elem := ⟨.zero, .zero⟩

/-- The element that the bits of a format encode (R52, R54, R58). -/
def decodeElem (f b : Nat) : Elem :=
  match f with
  | 1 => ⟨.ofInt (signedOf 4 b), .zero⟩
  | 2 => ⟨.ofInt (signedOf 8 b), .zero⟩
  | 3 => ⟨.ofInt (signedOf 16 b), .zero⟩
  | 4 => ⟨.ofInt (signedOf 32 b), .zero⟩
  | 13 => ⟨.ofInt (signedOf 16 b), .ofInt (signedOf 16 (b / 2 ^ 16))⟩
  | 14 => ⟨fp16.decode (b % 2 ^ 16), fp16.decode (b / 2 ^ 16 % 2 ^ 16)⟩
  | _ =>
    match fmtFloat f with
    | some l => ⟨l.decode b, .zero⟩
    | none => .zero

/-- The first `n` elements of `w` bits of a packed row (R53). -/
def unpack (w : Nat) : Nat → Nat → List Nat
  | 0, _ => []
  | n + 1, v => v % 2 ^ w :: unpack w n (v >>> w)

/-- Bytes of a stored row of `n` elements (R53). -/
def rowBytes (f n : Nat) : Nat :=
  match fmtBits f with
  | 4 => (n + 1) / 2
  | 6 => (n + 3) / 4 * 3
  | w => n * w / 8

/-- The first `n` elements of a row. -/
def rowElems (f n : Nat) (bs : List Byte) : List Elem :=
  (unpack (fmtBits f) n (fromLE bs)).map (decodeElem f)

/-- Pack element bits from the least significant bit upward, with zero pad bits (R53). -/
def packBits (w : Nat) : List Nat → Nat
  | [] => 0
  | b :: t => b % 2 ^ w + (packBits w t) <<< w

/-- The bytes of a row of element bits. -/
def packRow (f : Nat) (bs : List Nat) : List Byte := leBytes (rowBytes f bs.length) (packBits (fmtBits f) bs)

/-- Store a real value to a format through a scale exponent (R69, R71): scaled formats round x ÷ scale
toward zero, the others to nearest even. -/
def storeElem (f : Nat) (e : Int) (v : FVal) : Stored :=
  match f with
  | 1 => intStore 4 .zero (v.scale (-e))
  | 2 => intStore 8 .zero (v.scale (-e))
  | 3 => intStore 16 .near v
  | 4 => intStore 32 .near v
  | _ =>
    match fmtFloat f with
    | some l => if fmtScaled f then l.store .zero (v.scale (-e)) else l.store .near v
    | none => ⟨0, false, false⟩

/-- Significand and exponent of the largest finite value of a scaled format. -/
def fmtMax (f : Nat) : Nat × Int :=
  match f with
  | 1 => (7, 0)
  | 2 => (127, 0)
  | _ =>
    match fmtFloat f with
    | some l => l.maxFin
    | none => (1, 0)

/-- The smallest exponent e for which m × 2^(x − e) does not exceed n × 2^f (R75, R154). -/
def fitExp (m : Nat) (x : Int) (n : Nat) (f : Int) : Int :=
  let e := x + (bitLen m : Int) - f - (bitLen n : Int)
  if magLe m (x - e) n f then e else e + 1

/-- The unbiased exponent of an E8M0 code, with 0xFF used as 0xFE, and whether it was clamped
(R61). -/
def scaleExp (c : Nat) : Int × Bool :=
  if c = 0xFF then (127, true) else ((c : Int) - 127, false)

/-- An exponent that the device computes, clamped to −127 to 127, and whether it was (R77). -/
def clampExp (e : Int) : Int × Bool :=
  if e < -127 then (-127, true) else if 127 < e then (127, true) else (e, false)

/-- The E8M0 code of an exponent. -/
def expCode (e : Int) : Nat := (e + 127).toNat

-- Block floating point (R59, R60).

/-- The big-endian number of a list of bytes. -/
def bitsBE (bs : List Byte) : Nat := bs.foldl (fun a b => a * 256 + b.toNat) 0

/-- Bytes of a BFP block of 24 mantissas of `w` bits. -/
def bfpBytes (w : Nat) : Nat := 1 + 3 * w

/-- The exponent and the 24 mantissas of a BFP block, most significant bit first (R59). -/
def bfpRead (w : Nat) (bs : List Byte) : Nat × List Int :=
  let v := bitsBE ((bs.drop 1).take (3 * w))
  ((bs.headD 0).toNat % 16,
   (List.range 24).map (fun i => signedOf w (v >>> (w * (23 - i)))))

/-- The bytes of a BFP block. -/
def bfpBlock (w e : Nat) (ms : List Int) : List Byte :=
  let v := ms.foldl (fun a m => a * 2 ^ w + wrapOf w m) 0
  BitVec.ofNat 8 e :: (leBytes (3 * w) v).reverse

/-- An integer shifted right by `e`, rounded toward zero. -/
def shiftZero (v : Int) (e : Nat) : Int :=
  if v < 0 then -((v.natAbs >>> e : Nat) : Int) else ((v.natAbs >>> e : Nat) : Int)

/-- The integer fits in `w` bits. -/
def fitsIn (w : Nat) (v : Int) : Bool := decide (satSigned w v = v)

/-- Expansion to CI16: the 24 components and how many saturated (R60). -/
def bfpExpand (w : Nat) (bs : List Byte) : List Int × Nat :=
  let x := bfpRead w bs
  let vs : List Int := x.2.map (fun (m : Int) => m * ((2 ^ x.1 : Nat) : Int))
  (vs.map (satSigned 16), (vs.filter (fun v => !(fitsIn 16 v))).length)

/-- Compression from CI16: the smallest exponent for which every component fits, and how many
components saturated (R60). -/
def bfpCompress (w : Nat) (cs : List Int) : List Byte × Nat :=
  let fits (e : Nat) : Bool := cs.all (fun c => fitsIn w (shiftZero c e))
  let e := ((List.range 16).find? fits).getD 15
  let ms := cs.map (fun c => shiftZero c e)
  (bfpBlock w e (ms.map (satSigned w)), (ms.filter (fun m => !(fitsIn w m))).length)

end Sys2Proof.Machine
end

