-- ==== Sys2Proof/Machine/SMap.lean ====
section
/-! DEFINITION. Sparse maps in one canonical form: keys strictly rising, and no entry equal to
what an unlisted key reads as. Memories, the register file and every numbered unit of the device
are held so, and equal contents are equal data. -/

namespace Sys2Proof.Machine

/-- A sparse map from numbers to values; what an unlisted key reads as is an argument of every
operation. -/
abbrev SMap (α : Type) := List (Nat × α)

/-- The value at a key: the listed one, else the default. -/
def SMap.get {α : Type} (d : Nat → α) : SMap α → Nat → α
  | [], k => d k
  | (j, v) :: t, k => if j = k then v else SMap.get d t k

/-- The map with key `k` at value `v`; a value equal to the default leaves no entry. -/
def SMap.put {α : Type} [DecidableEq α] (d : Nat → α) : SMap α → Nat → α → SMap α
  | [], k, v => if v = d k then [] else [(k, v)]
  | (j, u) :: t, k, v =>
    if k < j then (if v = d k then (j, u) :: t else (k, v) :: (j, u) :: t)
    else if k = j then (if v = d k then t else (k, v) :: t)
    else (j, u) :: SMap.put d t k v

/-- Every key of the map is above `k`. -/
def SMap.above {α : Type} (k : Nat) : SMap α → Bool
  | [] => true
  | (j, _) :: _ => decide (k < j)

/-- The canonical form: keys strictly rising, no entry equal to its default. -/
def SMap.wf {α : Type} [DecidableEq α] (d : Nat → α) : SMap α → Bool
  | [] => true
  | (j, v) :: t => decide (v ≠ d j) && SMap.above j t && SMap.wf d t

/-- Write a list of values at consecutive keys. -/
def SMap.putList {α : Type} [DecidableEq α] (d : Nat → α) : SMap α → Nat → List α → SMap α
  | m, _, [] => m
  | m, k, v :: vs => SMap.putList d (SMap.put d m k v) (k + 1) vs

/-- Read `n` values at consecutive keys. -/
def SMap.getList {α : Type} (d : Nat → α) (m : SMap α) : Nat → Nat → List α
  | _, 0 => []
  | k, n + 1 => SMap.get d m k :: SMap.getList d m (k + 1) n

/-- The map with every entry whose key lies in [`lo`, `lo + len`) back at its default. -/
def SMap.clearRange {α : Type} (m : SMap α) (lo len : Nat) : SMap α :=
  m.filter (fun e => decide (e.1 < lo) || decide (lo + len ≤ e.1))

/-- `dst` with the `len` values from `to` on replaced by those of `src` from `lo` on; both maps have
the same constant default. -/
def SMap.copyIn {α : Type} [DecidableEq α] (d : Nat → α) (dst : SMap α) (dest : Nat) (src : SMap α)
    (lo len : Nat) : SMap α :=
  (src.filter (fun e => decide (lo ≤ e.1) && decide (e.1 < lo + len))).foldl
    (fun m e => SMap.put d m (dest + (e.1 - lo)) e.2) (SMap.clearRange dst dest len)

/-- The map with every listed value changed; values equal to the default leave no entry. -/
def SMap.mapVals {α : Type} [DecidableEq α] (d : Nat → α) (f : α → α) (m : SMap α) : SMap α :=
  (m.map (fun e => (e.1, f e.2))).filter (fun e => decide (e.2 ≠ d e.1))

/-- The listed keys at which a condition holds, in increasing order. -/
def SMap.keysWhere {α : Type} (p : Nat → α → Bool) (m : SMap α) : List Nat :=
  (m.filter (fun e => p e.1 e.2)).map Prod.fst

end Sys2Proof.Machine
end

