-- ==== Sys2Proof/Machine/StHost.lean ====
section
/-! DEFINITION. State of the host side: rings with their descriptors in flight, results, waiting
events and indications, and the status codes (09_host_interface.md). -/

namespace Sys2Proof.Machine

/-- The status codes of completions (09 R334). -/
inductive Status where
  | success | badDescriptor | accessFault | hostWindowFault | engineReserved
  | scaleSkew | checksumMismatch | mediaError
  | splitTimeout | chainOrder | chainTimeout | layerTimeExceeded | holdExceeded
  | partitionReset | contextLost | ringDisabled | abandoned | belayRefused | deferred
  | imageRejected | tileLost
  | remoteTimeout | outcomeUnknown | staleEpoch | keyFault | cairnWriteFault | ropeLinkDown
  deriving DecidableEq, Repr

/-- What a descriptor finishes with: the status and words 1 and 3 to 7 of its completion entry
(09 R325, R336). -/
structure Result where
  status : Status
  /-- word 1 bits 31:16: OPLIST list_id or ACCEL cmd_id -/
  aux : Nat := 0
  /-- word 3: kernel index in bits 15:0, failing instruction or op in bits 31:16 -/
  loc : W32 := 0
  d4 : W32 := 0
  d5 : W32 := 0
  d6 : W32 := 0
  d7 : W32 := 0
  deriving DecidableEq, Repr

/-- Progress of a RUN job: which kernels of which image slot, and how many have reached their
boundary (09 R320, 08 R281). -/
structure Job where
  slot : Nat
  first : Nat
  count : Nat
  /-- kernels that have reached their boundary -/
  ran : Nat
  /-- a kernel of the job is running -/
  running : Bool
  /-- bits 1: the job is launched by a batch and reads its rows through the index block (08 R283) -/
  batched : Bool
  deriving DecidableEq, Repr

/-- A descriptor that the device has fetched and not completed (09 R324). -/
structure Desc where
  /-- its SQ index -/
  idx : Nat
  words : List W32
  /-- its arrival time (09 R317) -/
  arrival : Nat
  started : Bool
  result : Option Result
  job : Option Job
  /-- bytes of a COPY that have passed the link (09 R307) -/
  moved : Nat := 0
  /-- list_id or cmd_id of the op list or command that it runs (09 R325) -/
  aux : Nat := 0
  /-- how its job has failed while Rope commands of the job are outstanding (09 R330) -/
  ending : Option Result := none
  deriving DecidableEq, Repr

/-- An indication that waits for a buffer or for CQ room (09 R326). -/
structure Indication where
  msgId : Nat
  cell : Nat
  block : List Byte
  /-- when it was ready, in ns of `now` -/
  since : Nat
  deriving DecidableEq, Repr

/-- A partition or admin event that waits for CQ room (09 R328, R329). -/
structure EventEntry where
  kind : Nat
  /-- PTP time in ns -/
  time : Nat
  d4 : W32
  d5 : W32
  d6 : W32
  d7 : W32
  deriving DecidableEq, Repr

/-- What one ring holds beside its registers (09 R310 to R333). -/
structure Ring where
  /-- descriptors fetched and not completed, in ring order -/
  descs : List Desc
  /-- sq_tail and cq_head as last read from the doorbell (R316) -/
  sqTail : Nat
  cqHead : Nat
  /-- sq_tail values read, each with the stamp of its event (R317) -/
  stamps : List (Nat × Nat)
  /-- index of the next descriptor to fetch and of the next CQ entry to write (RING_STATE) -/
  sqHead : Nat
  cqTail : Nat
  /-- phase of the current CQ pass (R327) -/
  phase : Bool
  /-- ring generation (RING_CFG.gen) -/
  gen : Nat
  /-- ring error (RING_SQ_LO.error) -/
  error : Nat
  /-- enable = 0 was written and the last completion is not yet written (R313) -/
  disabling : Bool
  /-- stopped by the device with error 5 or 6: no completion is written any longer (R312) -/
  muted : Bool
  /-- the doorbell line the device holds in Shared state, by address (R312, R316) -/
  line : Option Nat
  /-- indications waiting (R326) -/
  inds : List Indication
  /-- descriptors at the end of `descs` that complete without having been fetched: sq_head advances as each completion
  is written (R333) -/
  unfetched : Nat
  deriving DecidableEq, Repr

/-- A ring as cold reset leaves it. -/
def Ring.reset : Ring :=
  { descs := [], sqTail := 0, cqHead := 0, stamps := [], sqHead := 0, cqTail := 0, phase := true,
    gen := 0, error := 0, disabling := false, muted := false, line := none, inds := [], unfetched := 0 }

end Sys2Proof.Machine
end

