-- ==== Sys2Proof/Machine/StMatrix.lean ====
section
/-! DEFINITION. State of the matrix tiles' work: the instructions of a running kernel between their
product and their commit (03_matrix_tiles.md), and the kernels that hold them (08 R277 to R281). -/

namespace Sys2Proof.Machine

/-- The addressed memories of the device: stack memory in the layout of the CXL.mem range
(09 R306), the weight stores and activation stages of the logical tiles (03 R96), and the ledge
buffers of the two dies. -/
inductive Space where
  | stack | weight | act | ledge
  deriving DecidableEq, Repr

/-- A store that waits for its instruction to commit (02 R80); in stack memory its address is an offset
in the issuer's stack memory. -/
structure HeldStore where
  space : Space
  /-- the location code it was named by (03 R96) -/
  code : Nat
  addr : Nat
  data : List Byte
  deriving DecidableEq, Repr

/-- The accumulator kinds (02 R65, R66, R68): FP32, exact 32-bit integers, complex pairs of 40-bit
integers, complex pairs of FP32. -/
inductive AccKind where
  | f32 | i32 | ci40 | cf32
  deriving DecidableEq, Repr

/-- Where an instruction stands between its issue and its commit. -/
inductive InsPhase where
  /-- a prologue waits for its buffer before the first K step (04 R143, R150) -/
  | waitPrologue
  /-- its block has drained and the epilogue or chain stage is due -/
  | drained
  /-- a split part that waits for its predecessor (03 R114) -/
  | waitSplit
  /-- a chain instruction that waits for a buffer header (04 R138) -/
  | waitChain
  /-- a TV-12 instruction whose payload stores are not all acknowledged (04 R156) -/
  | sending
  /-- a TV-12 instruction whose header store is not acknowledged -/
  | sendingHeader
  /-- a Rope FENCE that waits for the earlier commands of its context (11 R370) -/
  | ropeFence
  /-- done with its arithmetic; its stores wait for program order (02 R80) -/
  | held
  | committed
  /-- failed; it ends the job once every earlier instruction has committed (02 R79) -/
  | failed
  /-- abandoned with its unit and to be issued again on the spare (01 R39) -/
  | abandoned
  /-- to be issued again after the abandoned one before it (01 R39) -/
  | queued
  deriving DecidableEq, Repr

/-- What an instruction adds to a tensor statistics record (02 R72): max_abs as FP32 bits, and the four
counts. -/
structure StatDelta where
  maxAbs : Nat
  sat : Nat
  nan : Nat
  rescale : Nat
  clamp : Nat
  deriving DecidableEq, Repr

def StatDelta.zero : StatDelta := ⟨0, 0, 0, 0, 0⟩

/-- The outcome of the checksum comparison of a run (03 R119 to R121): mismatched rows and columns as
bit masks, rows and columns not compared, and the FP32 bits of the worst ratio. -/
structure CkRun where
  rows : Nat
  cols : Nat
  unchk : Nat
  worst : Nat
  deriving DecidableEq, Repr

def CkRun.none : CkRun := ⟨0, 0, 0, 0⟩

/-- A cell of the array that a fault upsets in one run of a block: the run, the cell, the component and
the value it drains instead. -/
structure CellFlip where
  run : Nat
  row : Nat
  col : Nat
  im : Bool
  value : FVal
  deriving DecidableEq, Repr

/-- An error that the fetch of an operand meets. Of an SRAM block: whether it was corrected, the K-group
that it belongs to, whether it hits a scale record, the place (1 weight store, 2 activation stage, 3
ledge buffer) and the row (14 R462, R477). Place 4 is the model's: a CRC failure of a die-to-die link that its wire
check traces to a wire, repeated by the link; the row is (link × 2 + direction) × 16,384 + wire (14 R462). Place 0 is a
block of stack memory whose read the code corrected, or found uncorrectable, with its number as the row (10 R346,
R350, R351). -/
structure SramErr where
  corrected : Bool
  group : Nat
  scale : Bool
  place : Nat
  row : Nat
  deriving DecidableEq, Repr

/-- One matrix instruction of a running kernel. -/
structure InsRec where
  /-- index in the kernel's program order -/
  idx : Nat
  die : Nat
  tile : Nat
  /-- its 32 words (03 R95) and those of its chain block, read at decode (04 R126) -/
  words : List W32
  chain : List W32
  phase : InsPhase
  kind : AccKind
  /-- the accumulator block of a fault-free run, row-major over n_count columns, real and imaginary
  parts -/
  re : List FVal
  im : List FVal
  /-- accumulator saturations: their count, and the rows and columns they lie in (02 R68) -/
  sats : Nat
  satRows : List Nat
  satCols : List Nat
  /-- operand scales read as 0xFF (02 R61) -/
  clamps : Nat
  /-- reference magnitudes of rows and columns, per component (03 R118) -/
  magRow : List Elem
  magCol : List Elem
  /-- how far rounding takes the checksum cells' predictions, where the accumulation rounds (03 R118) -/
  driftRow : List Elem
  driftCol : List Elem
  /-- masked rows (03 R116) -/
  masked : List Nat
  /-- index block of a GATHER: row indices (03 R103) and expert -/
  rows : List Nat
  expert : Nat
  /-- row sums of the exponentials of TV-08 stage 1 (04 R150) -/
  sums : List FVal
  /-- runs of the block so far, whether a mismatch re-run has been used, and the comparison of the last
  run (03 R120) -/
  runs : Nat
  rerun : Bool
  ck : CkRun
  /-- the accumulators of the accepted run -/
  accRe : List FVal
  accIm : List FVal
  /-- ns of `now` at which a wait began -/
  since : Nat
  /-- what a TV-12 instruction still has to store (04 R156) -/
  outstanding : Nat
  /-- its handshakes and MACs are in the accounting (03 R125) -/
  counted : Bool
  /-- the index that a completion shows in word 3 (09 R325): its own, or the row of an EXPAND (10 R355) -/
  loc : Nat
  stores : List HeldStore
  delta : StatDelta
  /-- how it failed -/
  fail : Option Result
  deriving DecidableEq, Repr

/-- What a kernel runs. -/
inductive KernelKind where
  | run | mlist | oplist | accel
  deriving DecidableEq, Repr

/-- A kernel from its start to its boundary (08 R278). -/
structure Kernel where
  id : Nat
  kind : KernelKind
  ring : Nat
  /-- SQ index of its descriptor -/
  desc : Nat
  /-- its partition, none for the physical function -/
  part : Option Nat
  ctx : Nat
  slot : Nat
  /-- its index within the job -/
  kidx : Nat
  /-- tiles it occupies: die and logical number, by rank -/
  tiles : List (Nat × Nat)
  /-- the other unit it occupies: die, class code, logical number -/
  unit : Option (Nat × Nat × Nat)
  /-- base0 to base7 as byte offsets of the issuer's stack memory -/
  bases : List Nat
  /-- byte offset of an instruction list in the issuer's stack memory, and its instructions (09 R321) -/
  listOff : Nat
  count : Nat
  /-- declared maximum layer time in µs -/
  maxUs : Nat
  /-- start in PTP ns (08 R278) -/
  start : Nat
  overrun : Bool
  /-- an accelerator's 16 command words; once its output is visible, the words of its result record and
  how its job completes (06 R224, R225) -/
  cmd : List W32
  res : Option (List W32 × Result)
  /-- instructions in program order -/
  ins : List InsRec
  deriving DecidableEq, Repr

end Sys2Proof.Machine
end

