-- ==== Sys2Proof/Machine/StUnits.lean ====
section
/-! DEFINITION. State of the engines: logical and physical units, spares, retirement and
substitution (01 R38 to R43, R505 to R507), fault events and known-answer tests (14 R462 to
R474), and the Summit register (14 R476 to R480). -/

namespace Sys2Proof.Machine

/-- The engine classes with their codes 0 to 6 (07 R234). -/
inductive EngineClass where
  | tile | vde | fft | ldpcDec | ldpcEnc | polar | prach
  deriving DecidableEq, Repr

/-- A logical unit (01 R505). -/
structure UnitId where
  die : Nat
  cls : EngineClass
  num : Nat
  deriving DecidableEq, Repr

/-- Enabled units of a class on one die (01 R33). -/
def EngineClass.perDie : EngineClass → Nat
  | .tile => 192 | .vde => 96 | .fft => 32 | .ldpcDec => 24 | .ldpcEnc => 24 | .polar => 8 | .prach => 4

/-- The number lies in the die's numbering of its kind (01 R505). -/
def UnitId.exists' (u : UnitId) : Bool := decide (u.die < 2) && decide (u.num < u.cls.perDie)

/-- A physical position: the one a logical number has in the fused map, or a spare. -/
structure PhysId where
  die : Nat
  cls : EngineClass
  spare : Bool
  /-- logical number of the fused map, or the spare's index in its island -/
  idx : Nat
  /-- the island it lies in -/
  island : Nat
  deriving DecidableEq, Repr

/-- One substitution that is declared and not yet at its step 5 (01 R39, R42). -/
structure Subst where
  unit : UnitId
  /-- when the fault was declared, in ns of `now` -/
  t0 : Nat
  /-- the spare that has taken the logical number, once step 3 is done -/
  spare : Option PhysId
  /-- a tile that has taken the place of a partition's retired one (R43) -/
  moved : Bool
  /-- the position that the logical number named before the spare took it -/
  old : PhysId
  deriving DecidableEq, Repr

/-- What a fault event is counted against (14 R462). -/
inductive FaultKey where
  | unit (p : PhysId)
  | sramRow (die place tile row : Nat)
  | stackRow (stack channel bank row : Nat)
  | stackLine (stack channel line : Nat)
  | wire (link dir idx : Nat)
  deriving DecidableEq, Repr

/-- A row of a tile store or ledge buffer: its die, place (1 weight store, 2 activation stage, 3 ledge buffer), physical
tile, zero for the ledge, and number. -/
structure SramRow where
  die : Nat
  place : Nat
  tile : Nat
  row : Nat
  deriving DecidableEq, Repr

/-- One counted fault event with its condition bins (14 R464, R465). -/
structure FaultEvt where
  key : FaultKey
  /-- the event's code (R478) tells its kind -/
  kind : Nat
  vbin : Nat
  tbin : Nat
  /-- ns of `now` -/
  time : Nat
  deriving DecidableEq, Repr

/-- The last pass of a unit in one pair of bins (14 R472). -/
structure KatPass where
  unit : PhysId
  vbin : Nat
  tbin : Nat
  time : Nat
  deriving DecidableEq, Repr

/-- An event as it enters the Summit register (14 R478). -/
structure SummitEvt where
  code : Nat
  site : W32
  ext : W32
  value : Int
  /-- PTP time in ns -/
  time : Nat
  deriving DecidableEq, Repr

/-- One record of the Summit register (14 R476). -/
structure SummitRec where
  code : Nat
  site : W32
  ext : W32
  first : Nat
  last : Nat
  count : Nat
  min : Int
  max : Int
  /-- 16 bins of 12 bits -/
  hist : List Nat
  deriving DecidableEq, Repr

/-- The Summit register (14 R479): records from the oldest to the last, the events held during a
freeze, and the flag full. -/
structure Summit where
  recs : List SummitRec
  full : Bool
  held : List SummitEvt
  deriving DecidableEq, Repr

/-- What one known-answer test of a unit shows. A mismatch is followed at once by a further run, which passes,
mismatches again or is abandoned (14 R466, R472). -/
inductive KatRun where
  | pass | mismatchPass | mismatchTwice | mismatchAbandoned | abandoned
  deriving DecidableEq, Repr

/-- What a known-answer test tests: a logical unit, or a spare that serves none (14 R470). -/
inductive KatTarget where
  | unit (u : UnitId)
  | spare (p : PhysId)
  deriving DecidableEq, Repr

/-- A SELFTEST request under way (14 R473, R474). -/
structure SelfTest where
  /-- SQ index of its descriptor on ring 0 -/
  idx : Nat
  kind : Nat
  /-- kinds 1 and 2: the units; each takes `runs` runs -/
  targets : List KatTarget
  runs : Nat
  /-- runs that are complete, of how many -/
  done : Nat
  total : Nat
  passed : Nat
  failed : Nat
  abandoned : Nat
  declared : Bool
  retired : Bool
  vbin : Nat
  tbin : Nat
  margin : Option Int
  deriving DecidableEq, Repr

/-- The units of the two Massif dies and what is known of their faults. -/
structure Units where
  /-- logical units now served by a spare -/
  served : List (UnitId × PhysId)
  /-- spares that work no longer -/
  lostSpares : List PhysId
  /-- logical numbers that name no unit any longer (R43, R505) -/
  retired : List UnitId
  /-- tile positions retired since reset, per island 8 d + i (ISLAND_STATE.tiles_retired) -/
  tilesRetired : SMap Nat
  /-- units under substitution, in the order they were declared (R42) -/
  substs : List Subst
  /-- fault events counted since reset (14 R465) -/
  faults : List FaultEvt
  passes : List KatPass
  selfTests : List SelfTest
  /-- tiles a partition lost and nothing replaced: partition, die, tile (R43) -/
  tilesLost : List (Nat × Nat × Nat)
  /-- die-to-die wires that a spare of their link and direction has replaced: link (0 M0–M1, 1 M0–Basecamp, 2
  M1–Basecamp), direction, wire (R25, R38) -/
  wires : List (Nat × Nat × Nat)
  /-- rows of tile stores and ledge buffers with a lasting fault, to be repaired at the next start-up self-test (14
  R467) -/
  sramFaulty : List SramRow
  /-- rows whose place a redundant row of their bank has taken (01 R38) -/
  sramRepaired : List SramRow
  /-- failing rows whose bank has no redundant row left, which fail their consumers (14 R475) -/
  sramBad : List SramRow
  deriving DecidableEq, Repr

/-- The fused map, no fault known (01 R507). -/
def Units.reset : Units :=
  { served := [], lostSpares := [], retired := [], tilesRetired := [], substs := [], faults := [],
    passes := [], selfTests := [], tilesLost := [], wires := [], sramFaulty := [], sramRepaired := [], sramBad := [] }

/-- An empty Summit register. -/
def Summit.reset : Summit := { recs := [], full := false, held := [] }

end Sys2Proof.Machine
end

