-- ==== Sys2Proof/Machine/StPart.lean ====
section
/-! DEFINITION. State of the partitions: contexts with their semaphores, image slots and batches,
kernels, the stages of a reset, a release and a tenant switch, and the accounting counts
(08_partitions_scheduling.md). -/

namespace Sys2Proof.Machine

/-- The states of a partition (08 R271). -/
inductive PartState where
  | disabled | running | stopped | resetting | releasing
  deriving DecidableEq, Repr

/-- How far a reset or release has come (08 R292, R293, R295). -/
inductive ResetStage where
  | idle
  /-- running kernels are waited for (quiesce) -/
  | draining
  /-- the scrub of the reset runs -/
  | scrubbing
  /-- the scrub of a release's owned resources runs -/
  | releaseScrub
  deriving DecidableEq, Repr

/-- How far a tenant switch has come (08 R290). -/
inductive SwitchStage where
  | none
  /-- steps 1 and 2: kernels run to their boundaries -/
  | draining
  /-- step 3: the save has started -/
  | saving
  /-- step 4: the scrub -/
  | scrubbing
  /-- step 5: the resume of the incoming context -/
  | resuming
  deriving DecidableEq, Repr

/-- A part of an image's weight manifest: the bytes that a kernel's tile, by its rank, holds at an offset of its weight
store, from an offset of the context window (08 R277, R288). -/
structure KernelWeight where
  rank : Nat
  dst : Nat
  src : Nat
  len : Nat
  deriving DecidableEq, Repr

/-- What a kernel of a program image declares (08 R277). -/
structure KernelDecl where
  maxUs : Nat
  /-- W_k, the widest tile width -/
  wMax : Nat
  /-- d_k in 0.01 W -/
  draw : Nat
  /-- the weights that it lists in the image's manifest -/
  weights : List KernelWeight
  deriving DecidableEq, Repr

/-- A loaded program image (08 R277, R289; 13 R453, R454). -/
structure Image where
  kernels : List KernelDecl
  /-- ranges of the context window that the weight manifest names: offset and length in bytes -/
  manifest : List (Nat × Nat)
  /-- Fleura's row-independence mark (R283) -/
  rowIndep : Bool
  /-- declared row size in bytes (09 R320) -/
  rowBytes : Nat
  /-- where the image's index block lies in the context window (R283) -/
  indexOff : Nat
  /-- SHA-256 of the program and of the weights, 32 bytes each (13 R454) -/
  programDigest : List Byte
  weightDigest : List Byte
  /-- ring and SQ index of the LOAD_IMAGE that loaded it -/
  loadedBy : Nat × Nat
  /-- an UNLOAD_IMAGE waits until no kernel of the slot runs (09 R322) -/
  unloading : Bool
  deriving DecidableEq, Repr

/-- An amount of a semaphore that a ring holds, with the end of its hold (08 R285). -/
structure Acquired where
  ring : Nat
  sem : Nat
  amount : Nat
  /-- ns of `now` at which the hold ends -/
  deadline : Nat
  deriving DecidableEq, Repr

/-- An acquire that waits (08 R285). -/
structure SemWait where
  ring : Nat
  idx : Nat
  sem : Nat
  amount : Nat
  holdUs : Nat
  deriving DecidableEq, Repr

/-- A batch that is open (08 R283): when it opened, and its requests by ring and SQ index with their
rows. -/
structure Batch where
  opened : Nat
  reqs : List (Nat × Nat × List Nat)
  deriving DecidableEq, Repr

/-- The counts of an accounting record (08 R300). -/
structure Acct where
  seq : Nat
  kernels : Nat
  tileNs : Nat
  tileHs : Nat
  macs : Nat
  engineHs : Nat
  stackBytes : Nat
  ropeTx : Nat
  ropeRx : Nat
  cxlBytes : Nat
  ethBytes : Nat
  energyNj : Nat
  overruns : Nat
  aborted : Nat
  deriving DecidableEq, Repr

/-- No count yet. -/
def Acct.zero : Acct := ⟨0, 0, 0, 0, 0, 0, 0, 0, 0, 0, 0, 0, 0, 0⟩

/-- What a context holds beside its table entry in stack memory (08 R275). -/
structure Ctx where
  /-- outcome of the check at first scheduling (R276), once made -/
  checked : Option Bool
  /-- counts of the 16 semaphores (R284) -/
  sems : List Nat
  held : List Acquired
  /-- start of the open section, ns of `now` (R285) -/
  sectionAt : Option Nat
  waits : List SemWait
  /-- its save area holds a save that a resume may use (R286, R294) -/
  saved : Bool
  /-- loaded images by slot 0 to 15 -/
  images : List (Nat × Image)
  batch : Option Batch
  /-- batches launched: the requests that complete with the job of the first (R283) -/
  groups : List (List (Nat × Nat))
  /-- tiles the context has occupied since it became resident: die and tile (R286) -/
  used : List (Nat × Nat)
  acct : Acct
  /-- Rope request credits held for the context have been returned at a save (R287) -/
  creditsReturned : Bool
  deriving DecidableEq, Repr

/-- A context that has never run. -/
def Ctx.reset : Ctx :=
  { checked := none, sems := List.replicate 16 0, held := [], sectionAt := none, waits := [],
    saved := false, images := [], batch := none, groups := [], used := [], acct := Acct.zero, creditsReturned := false }

/-- What a partition holds beside its registers. -/
structure Part where
  state : PartState
  /-- PART_STATUS.cfg_error (R273) -/
  cfgError : Nat
  stage : ResetStage
  /-- the reset under way is a generation discard -/
  discard : Bool
  /-- a release follows the reset under way (R295, R296) -/
  releaseNext : Bool
  /-- resident context and the start of its quantum, ns of `now` (R282) -/
  resident : Nat
  quantumAt : Nat
  switch : SwitchStage
  /-- context a switch brings in, and when the switch started, ns of `now` -/
  incoming : Nat
  switchAt : Nat
  /-- a reclaim's save has started for the resident context: no kernel and no section of it starts (R253, R285) -/
  reclaiming : Bool
  ctxs : SMap Ctx
  /-- partition events that wait (09 R328), and how many were dropped since the last delivered -/
  events : List EventEntry
  lost : Nat
  /-- ring served last by the scheduler (R281) -/
  lastRing : Nat
  acct : Acct
  /-- counts at the last attribution of energy, and since then the handshakes by island and class (R302) -/
  billed : Acct
  hs : SMap Nat
  /-- tokens of the CXL, Rope and Ethernet buckets, towards the outside and from it, in tenths of a byte,
  and when they were last filled (09 R307, 12 R412) -/
  cxlTok : Int × Int
  ropeTok : Int × Int
  ethTok : Int × Int
  tokAt : Nat
  /-- TSP binding of the partition (13 R450) -/
  tsp : Nat
  /-- IDE stream of the bound environment -/
  stream : Nat
  /-- pace_blind as it applies: while RUNNING, a write of it applies at the next kernel start (08 R273) -/
  blind : Bool
  /-- units added while STOPPED that no resume has checked yet (08 R268, R273) -/
  added : List UnitId
  deriving DecidableEq, Repr

/-- A partition after cold reset. -/
def Part.reset : Part :=
  { state := .disabled, cfgError := 0, stage := .idle, discard := false, releaseNext := false,
    resident := 0, quantumAt := 0, switch := .none, incoming := 0, switchAt := 0, reclaiming := false, ctxs := [],
    events := [], lost := 0, lastRing := 0, acct := Acct.zero, billed := Acct.zero, hs := [], cxlTok := (0, 0), ropeTok := (0, 0),
    ethTok := (0, 0), tokAt := 0, tsp := 0, stream := 0, blind := false, added := [] }

/-- What a partition may still move of control traffic: thousandths of a byte, and when that was counted, ns of `now`
(13 R458). -/
structure CtlBucket where
  tok : Int
  filled : Nat
  deriving DecidableEq, Repr

/-- A full bucket: what a µs allows (log entry 76). -/
def CtlBucket.reset : CtlBucket := ⟨128_000, 0⟩

/-- What the device reads from a program image (08 R277, R283, R289; 09 R320). -/
structure ImageInfo where
  kernels : List KernelDecl
  manifest : List (Nat × Nat)
  rowIndep : Bool
  rowBytes : Nat
  indexOff : Nat
  deriving DecidableEq, Repr

/-- The weight package that an image's manifest names, if any, byte for byte (13 R452). -/
inductive Package where
  | none
  | sealed (bytes : List Byte)
  deriving DecidableEq, Repr

/-- The scrubs of 13 R455. -/
inductive ScrubKind where
  | switch | reset | release
  | lease (id : Nat)
  deriving DecidableEq, Repr

/-- What the current sensors of an island show over 10 µs (08 R302): leakage and the rest, and the handshakes by
class of work that belongs to no partition. -/
structure IslandEnergy where
  die : Nat
  island : Nat
  leakNj : Nat
  restNj : Nat
  others : List (EngineClass × Nat)
  deriving DecidableEq, Repr

end Sys2Proof.Machine
end

