-- ==== Sys2Proof/Machine/StPorts.lean ====
section
/-! DEFINITION. State of the Ethernet ports, the local clock's servo, compare and capture units
(12_ports_time.md). -/

namespace Sys2Proof.Machine

/-- PTP messages that the device sends (12 R422). -/
inductive PtpKind where
  | sync | delayReq | announce
  deriving DecidableEq, Repr

/-- What a frame carries. -/
inductive FrameWhat where
  /-- C-plane of a cell's slot for one stream; uplink or downlink -/
  | cplane (cell slot stream : Nat) (ul : Bool)
  /-- U-plane of one symbol and stream -/
  | uplane (cell slot sym stream : Nat)
  | ptp (kind : PtpKind)
  /-- the answer to a Delay_Req -/
  | delayResp
  /-- entry of a partition's transmit ring -/
  | part (p idx : Nat)
  deriving DecidableEq, Repr

/-- A frame that waits in an egress queue (12 R409, R411). -/
structure Frame where
  what : FrameWhat
  dst : Nat
  src : Nat
  /-- VLAN of a tagged frame; its PCP is the queue number -/
  vlan : Option Nat
  queue : Nat
  /-- bytes from destination address through FCS -/
  len : Nat
  /-- EtherType and what follows, up to the FCS -/
  data : List Byte
  /-- eCPRI sequence ID, where it has one -/
  seq : Nat
  /-- PTP time before which it may not start, and by which it must have begun -/
  after : Nat
  by' : Option Nat
  deriving DecidableEq, Repr

/-- An operative gate list (12 R414): entries of gate states and interval, cycle, base time. -/
structure GateList where
  entries : List (Nat × Nat)
  cycle : Nat
  baseSec : Nat
  baseNs : Nat
  deriving DecidableEq, Repr

/-- One sub-port. -/
structure SubPort where
  frames : List Frame
  /-- tokens of queues 0 to 4 and of the ceiling bucket in thousandths of a bit, and when they were last
  filled -/
  tok : List Int
  ceilTok : Int
  tokAt : Nat
  /-- ns of `now` until which a frame is in transmission -/
  busy : Nat
  oper : Option GateList
  /-- a list is pending: time from its base at which it takes effect, in ns -/
  pend : Option Nat
  /-- gate states in force -/
  gates : Nat
  /-- sequence IDs by 2 × eAxC ID + plane (12 R404) -/
  seqs : SMap Nat
  /-- ns of `now` of the last Sync, Delay_Req and Announce sent -/
  syncAt : Nat
  delayAt : Nat
  announceAt : Nat
  /-- the local clock when the sub-port last went down (07 R262) -/
  downAt : Nat
  deriving DecidableEq, Repr

/-- A sub-port after reset: every gate open, buckets full (12 R412, R414). -/
def SubPort.reset : SubPort :=
  { frames := [], tok := List.replicate 5 (8000 * 0x2414), ceilTok := 8000 * 16384, tokAt := 0, busy := 0,
    oper := none, pend := none, gates := 0xFF, seqs := [], syncAt := 0, delayAt := 0, announceAt := 0, downAt := 0 }

/-- The servo states in the order of their codes (12 R424). -/
inductive ServoState where
  | freerun | acquiring | locked | holdover | exceeded
  deriving DecidableEq, Repr

/-- The PTP servo (12 R422 to R425). -/
structure Servo where
  state : ServoState
  /-- has been LOCKED since cold reset -/
  everLocked : Bool
  /-- consecutive Syncs within 50 ns; consecutive Syncs beyond 1 µs -/
  good : Nat
  bad : Nat
  /-- entry to HOLDOVER, ns of `now`, until the next LOCKED -/
  holdAt : Option Nat
  /-- HOLDOVER_EXCEEDED has been entered and LOCKED not again: the rules of R425 apply -/
  lost : Bool
  /-- the local clock when HOLDOVER_EXCEEDED was last entered -/
  lostAt : Nat
  /-- ACQUIRING was entered from HOLDOVER_EXCEEDED and the clock has not been stepped since (12 R424) -/
  mayStep : Bool
  /-- the slave port and sub-port -/
  slave : Option (Nat × Nat)
  /-- ns of `now` of the last acceptable Announce -/
  heardAt : Nat
  /-- ps: ingress time of a two-step Sync whose Follow_Up is to come, with its correction; master to slave difference of
  the latest Sync; egress time of the latest Delay_Req that has no answer; mean path delay (12 R423) -/
  syncRx : Option (Int × Int)
  msDiff : Option Int
  delayTx : Option Int
  path : Option Int
  deriving DecidableEq, Repr

def Servo.reset : Servo :=
  { state := .freerun, everLocked := false, good := 0, bad := 0, holdAt := none, lost := false, lostAt := 0,
    mayStep := false, slave := none, heardAt := 0,
    syncRx := none, msDiff := none, delayTx := none, path := none }

/-- Ports and time. -/
structure Ports where
  /-- sub-ports by 4 × port + sub-port -/
  subs : SMap SubPort
  servo : Servo
  /-- PPS_OUT0 and PPS_OUT1: ns of `now` at which the pulse ends, while high -/
  pps0 : Option Nat
  pps1 : Option Nat
  /-- level of PPS_IN -/
  ppsIn : Bool
  /-- capture units that wait for their event, each with the slot of its cell from which on the event counts -/
  armed : List (Nat × Nat)
  deriving DecidableEq, Repr

def Ports.reset : Ports :=
  { subs := [], servo := Servo.reset, pps0 := none, pps1 := none, ppsIn := false, armed := [] }

-- What arrives (12 R403 to R408, R422).

/-- One U-plane section as received. -/
structure SectionIn where
  startPrb : Nat
  prbs : Nat
  compMeth : Nat
  /-- mantissa width, 1 to 16 -/
  width : Nat
  data : List Byte
  deriving DecidableEq, Repr

/-- An eCPRI frame as received. -/
structure EcpriIn where
  rev : Nat
  concat : Bool
  type' : Nat
  /-- payload size of the common header -/
  size : Nat
  eaxc : Nat
  /-- byte 1 of ecpriSeqid: the E bit and the subsequence ID -/
  ebit : Bool
  subseq : Nat
  /-- frameId, subframeId, slotId, symbolId -/
  frameId : Nat
  subframe : Nat
  slotId : Nat
  sym : Nat
  filterIndex : Nat
  sections : List SectionIn
  deriving DecidableEq, Repr

/-- A PTP message as received, with its domain: an Announce, and whether the profile's best-master algorithm accepts it for
the slave port; a Sync with its origin time in ns, none where a Follow_Up brings it; a Follow_Up; a Delay_Req with the port
identity of its sender; a Delay_Resp to this device with the receive time in ns. `corr` is the correction field in ps. -/
inductive PtpIn where
  | announce (domain : Nat) (best : Bool)
  | sync (domain : Nat) (origin : Option Nat) (corr : Int)
  | followUp (domain origin : Nat) (corr : Int)
  | delayReq (domain : Nat) (asker : List Byte)
  | delayResp (domain received : Nat) (corr : Int)
  | other (domain : Nat)
  deriving DecidableEq, Repr

/-- The content of a received frame. -/
inductive FrameIn where
  | ecpri (e : EcpriIn)
  | ptp (m : PtpIn)
  | other
  deriving DecidableEq, Repr

/-- A received frame (12 R403). -/
structure RxFrame where
  port : Nat
  sub : Nat
  fcsOk : Bool
  /-- bytes from destination address through FCS -/
  len : Nat
  dst : Nat
  src : Nat
  vlan : Option Nat
  /-- more than one tag -/
  stacked : Bool
  /-- lane skew of the frame that forward error correction alignment shows, in ps (12 R423) -/
  skew : Int
  etherType : Nat
  body : FrameIn
  /-- the frame without its tag and FCS -/
  raw : List Byte
  deriving DecidableEq, Repr

end Sys2Proof.Machine
end

