-- ==== Sys2Proof/Machine/StBelay.lean ====
section
/-! DEFINITION. State of the Belay controller: leases, emergencies and shed steps
(07_belay_guarantee.md). -/

namespace Sys2Proof.Machine

/-- How far a lease has come (07 R253). -/
inductive LeaseStage where
  | active
  /-- in notice; the running layer continues -/
  | notice
  /-- its context is saved and the scrub runs -/
  | scrubbing
  /-- scrubbed; the end of the notice is waited for -/
  | scrubbed
  deriving DecidableEq, Repr

/-- A Bivouac lease (07 R251 to R255). -/
structure Lease where
  id : Nat
  part : Nat
  die : Nat
  /-- units lent, in increasing logical number within a class -/
  units : List UnitId
  noticeUs : Nat
  /-- when it was granted, ns of `now` (08 R291) -/
  granted : Nat
  stage : LeaseStage
  /-- start of the reclaim, ns of `now` -/
  t0 : Nat
  /-- why the reclaim started (R255) -/
  cause : Nat
  /-- PTP time of the end -/
  endPtp : Nat
  deriving DecidableEq, Repr

end Sys2Proof.Machine
end

