-- ==== Sys2Proof/Machine/StRadio.lean ====
section
/-! DEFINITION. State of radio layer 1 (05_radio_layer1.md) with the Belay book and sheds
(07_belay_guarantee.md): cells, the messages that reach them as the device reads them, slots in
flight, soft buffers and retained estimates. -/

namespace Sys2Proof.Machine

/-- A complex value of the layer-1 pipelines. -/
abbrev Cx := Rat × Rat

-- Messages as the device reads them (05 R174 to R177, 07 R247, 05 R195).

/-- The radio header of a message block (05 R174). -/
structure RadioHdr where
  msgId : Nat
  cell : Nat
  length : Nat
  sfn : Nat
  slot : Nat
  /-- word 2 bits 31:17 -/
  res : Nat
  seq : W32
  deriving DecidableEq, Repr

/-- The PRACH configuration of a cell: format (0 to 3 long; 4 A1, 5 A2, 6 A3, 7 B1, 8 B2, 9 B3, 10 B4, 11 C0, 12 C2),
first root, roots, N_CS, restricted set and preambles (05 R194, 06 R226). -/
structure PrachCfg where
  format : Nat
  root0 : Nat
  roots : Nat
  ncs : Nat
  set : Nat
  preambles : Nat
  deriving DecidableEq, Repr

/-- What the FAPI part of a CONFIG.request says of a cell (05 R164 to R167, R177). -/
structure FapiCfg where
  /-- sub-carrier spacing in kHz -/
  scs : Nat
  fr2 : Bool
  bwMhz : Nat
  grid : Nat
  tdd : Bool
  /-- slots of the pattern: downlink symbols at the start and uplink symbols at the end of each -/
  pattern : List (Nat × Nat)
  ssbScs : Nat
  extendedCp : Bool
  above52GHz : Bool
  nonTerrestrial : Bool
  multiTrp : Bool
  /-- lengths of the PRACH sequences -/
  prachLens : List Nat
  prach : PrachCfg
  /-- the precoding matrices of the list: index, and by stream the weights of the layers in units of 2^−15 (05 R176) -/
  precoding : List (Nat × List (List (Int × Int)))
  /-- transmit and receive antennas, or digital streams in FR2 -/
  tx : Nat
  rx : Nat
  dlLayers : Nat
  ulLayers : Nat
  dlLayersUe : Nat
  ulLayersUe : Nat
  /-- beamformed receive streams declared (12 R405) -/
  ulStreams : Nat
  deriving DecidableEq, Repr

/-- Compression of one direction: 0 none, 1 BFP, 4 modulation compression, and the width. -/
abbrev Comp := Nat × Nat

/-- The device TLVs of a CONFIG.request; `none` is a TLV that is absent (05 R177). -/
structure DevTlvs where
  fhPort : Option (Nat × Nat)
  /-- radio unit MAC address, VLAN, eAxC ID base -/
  fhPeer : Option (Nat × Nat × Nat)
  compUl : Option Comp
  compDl : Option Comp
  ta4Max : Option Nat
  t1aMaxUp : Option Nat
  t1aMinUp : Option Nat
  tcpAdvDl : Option Nat
  eqGroup : Option Nat
  nsSteps : Option Nat
  ldpcIter : Option Nat
  harqBytes : Option Nat
  /-- PDCCH, PDSCH, CSI-RS, PUSCH, PUCCH, SRS, PRACH -/
  pduMax : Option (List Nat)
  frameOffset : Option Nat
  slotIndLead : Option Nat
  /-- in 0.1 dB -/
  prachThresh : Option Nat
  uciDtxThresh : Option Nat
  diePin : Option Nat
  deriving DecidableEq, Repr

/-- The body of a CONFIG.request: what its SCF TLVs say, if it holds any, and the bytes of its device TLVs (05 R176,
R177). -/
structure ConfigBody where
  fapi : Option FapiCfg
  device : List Byte
  deriving DecidableEq, Repr

/-- The parameters of a cell, every default filled in (05 R177). -/
structure CellCfg where
  fapi : FapiCfg
  port : Nat
  sub : Nat
  peer : Nat
  vlan : Nat
  eaxc : Nat
  compUl : Comp
  compDl : Comp
  /-- µs -/
  ta4Max : Nat
  t1aMaxUp : Nat
  t1aMinUp : Nat
  tcpAdvDl : Nat
  eqGroup : Nat
  nsSteps : Nat
  ldpcIter : Nat
  /-- bytes; none: as priced from the declared maxima -/
  harqBytes : Option Nat
  pduMax : List Nat
  frameOffset : Nat
  lead : Nat
  prachThresh : Nat
  uciDtxThresh : Nat
  diePin : Nat
  deriving DecidableEq, Repr

/-- Downlink PDU kinds (05 R166). -/
inductive DlKind where
  | ssb | pdcch | pdsch | csirs
  deriving DecidableEq, Repr

/-- A codeword of a downlink PDU: base graph, modulation order, redundancy version, transport block in bytes,
limit of the circular buffer (0: none), and c_init and first position of its scrambling sequence. -/
structure Codeword where
  bg : Nat
  qm : Nat
  rv : Nat
  tbBytes : Nat
  limit : Nat
  gold : Nat × Nat
  deriving DecidableEq, Repr

/-- A PDU of a DL_TTI.request or UL_DCI.request. -/
structure DlPdu where
  kind : DlKind
  /-- PDU index -/
  index : Nat
  /-- first PRB and PRBs -/
  prb : Nat × Nat
  /-- first symbol and symbols -/
  sym : Nat × Nat
  layers : Nat
  /-- modulation order: 2, 4, 6, 8, 10 -/
  qm : Nat
  /-- precoding matrix index; 0xFFFF: weights from retained SRS estimates (05 R176) -/
  precoding : Nat
  srsHandles : List Nat
  beam : Nat
  rnti : Nat
  /-- antenna port of each layer: the stream that carries it where no matrix precodes it -/
  ports : List Nat
  /-- one codeword, or two above four layers; for PDCCH and SSB the one that its payload takes -/
  cws : List Codeword
  /-- payload of a DCI or MIB, its first bit first -/
  bits : List Bool
  /-- what else the mapping and the sequences depend on -/
  params : List Nat
  deriving DecidableEq, Repr

/-- Uplink PDU kinds. -/
inductive UlKind where
  | prach | pusch | pucch | srs
  deriving DecidableEq, Repr

/-- A PDU of an UL_TTI.request. -/
structure UlPdu where
  kind : UlKind
  index : Nat
  prb : Nat × Nat
  sym : Nat × Nat
  /-- DMRS symbols -/
  dmrs : List Nat
  layers : Nat
  qm : Nat
  ue : Nat
  harq : Nat
  ndi : Bool
  rv : Nat
  /-- base graph, transport block in bytes, and c_init of its scrambling sequence -/
  bg : Nat
  tbBytes : Nat
  gold : Nat
  transform : Bool
  /-- DMRS: type 1 or 2, symbols of an occasion, CDM groups without data, scrambling identity and its selector, and
  the port of each layer -/
  dmrsType : Nat
  dmrsLen : Nat
  cdmNoData : Nat
  dmrsId : Nat
  nscid : Nat
  ports : List Nat
  beam : Nat
  /-- SRS resource -/
  resource : Nat
  /-- UCI bits it carries, and what else its decoding depends on -/
  uciBits : Nat
  params : List Nat
  deriving DecidableEq, Repr

/-- One payload of a TX_DATA.request: PDU index, tag, host address, length in bytes, and the bytes that
the device reads (05 R176). -/
structure TxPayload where
  index : Nat
  tag : Nat
  addr : Nat
  bytes : List Byte
  deriving DecidableEq, Repr

/-- The quantities of a booking entry (07 R247). -/
structure Quant where
  dlPrb : Nat
  ulPrb : Nat
  dlLayers : Nat
  ulLayers : Nat
  dlQm : Nat
  ulQm : Nat
  pdcch : Nat
  pdsch : Nat
  pusch : Nat
  pucch : Nat
  srs : Nat
  prach : Nat
  csirs : Nat
  deriving DecidableEq, Repr

/-- A booking: the first slot covered, one past the last (none: every later slot), the quantities. -/
structure Booking where
  first : Nat
  stop : Option Nat
  q : Quant
  deriving DecidableEq, Repr

/-- A booking entry as read (07 R247): SFN, slot, repeat, quantities. -/
structure BookEntry where
  sfn : Nat
  slot : Nat
  rep : Nat
  q : Quant
  deriving DecidableEq, Repr

/-- An SSB_SEARCH.request (05 R195): sub-carrier offset, first slot and slots, identities (empty: all
1,008), and the samples captured so far, section by section. -/
structure SsbSearch where
  offset : Nat
  first : Nat
  count : Nat
  pcis : List Nat
  seq : W32
  iq : List Int
  deriving DecidableEq, Repr

/-- One detection of a search: PCI, SSB index, timing offset in ns, sss_power. -/
structure SsbHit where
  pci : Nat
  ssb : Nat
  offsetNs : Int
  power : Int
  deriving DecidableEq, Repr

-- Cells.

/-- The states of a cell (05 R170), in the order of their codes (07 R266). -/
inductive CellState where
  | idle | configured | running | stopping | shedding
  deriving DecidableEq, Repr

/-- The prices and terms of an admitted cell (07 R236, R237): classes 0 to 6 in BU, ledge in KiB, harq in
MiB, fronthaul in 10 Mb/s and traffic in MB/s per direction. -/
structure Prices where
  bu : List Nat
  ledge : Nat
  harq : Nat
  fhDl : Nat
  fhUl : Nat
  trafficDl : Nat
  trafficUl : Nat
  /-- radio traffic at the other arbiters of the cell's path, MB/s: the twelve stack controllers of its die, and the
  M0–M1 link in the two directions (01 R25, R47) -/
  paths : List Nat
  /-- radio share of the grants of each arbiter of the on-die networks, in ten-thousandths (01 R46, R47) -/
  grants : List Nat
  deriving DecidableEq, Repr

/-- No price: what an IDLE cell has (07 R266). -/
def Prices.zero : Prices := ⟨List.replicate 7 0, 0, 0, 0, 0, 0, 0, List.replicate 14 0, []⟩

/-- A U-plane section accepted and expanded (12 R408, R407): symbol, stream, filterIndex (not 0: PRACH, 12
R405), first PRB and PRBs, the CI16 components, and the ingress time. -/
structure RxSection where
  sym : Nat
  stream : Nat
  filter : Nat
  prb : Nat × Nat
  iq : List Int
  at' : Nat
  deriving DecidableEq, Repr

/-- LLRs of one PUSCH or PUCCH on one symbol. -/
structure Llrs where
  index : Nat
  sym : Nat
  vals : List Int
  deriving DecidableEq, Repr

/-- The estimates of a PUSCH at a DMRS occasion: the PDU, the occasion's first symbol, by stream and layer the
channel at every sub-carrier of the allocation, and the noise variance of each weight group (05 R186). -/
structure ChanEst where
  index : Nat
  occ : Nat
  h : List (List (List Cx))
  noise : List Rat
  deriving DecidableEq, Repr

/-- Least-squares estimates that an FFT engine has to bring to every sub-carrier: the PDU, the symbol at which they were
formed, for a PUSCH the first symbol of the occasion, the sub-carriers of the allocation, and by stream and port each estimate
with its place among them (05 R182 step 2, R186). -/
structure LsEst where
  index : Nat
  sym : Nat
  occ : Option Nat
  carriers : Nat
  vals : List (List (List (Nat × Cx)))
  deriving DecidableEq, Repr

/-- The equalised sub-carriers of a transform-precoded PUSCH on a symbol, layer by layer with their SINRs, which an FFT engine
has to transform (05 R182 step 4, R188). -/
structure EqRows where
  index : Nat
  sym : Nat
  rows : List (List (Cx × Rat))
  deriving DecidableEq, Repr

/-- The weights of a PUSCH for an occasion and a weight group: by layer over the streams, with the SINR of each
layer (05 R187, R188). -/
structure GroupW where
  index : Nat
  occ : Nat
  group : Nat
  w : List (List Cx)
  sinr : List Rat
  deriving DecidableEq, Repr

/-- What the decoding of an uplink PDU starts from: soft bits of each code block after combining, and
harq_overflow. -/
structure SoftPdu where
  index : Nat
  soft : List (List Int)
  overflow : Bool
  deriving DecidableEq, Repr

/-- A code block that an LDPC decoder has decoded: PDU, block, bits, iterations, CRC (05 R190). -/
structure BlockBits where
  index : Nat
  block : Nat
  bits : Nat
  iters : Nat
  ok : Bool
  deriving DecidableEq, Repr

-- Indications, as what leaves the device (05 R175).

/-- The codes of CONFIG.response and ERROR.indication (05 R178). -/
inductive MsgCode where
  | ok | invalidState | invalidConfig | slotErr | invalid
  | late | outOfWindow | belayRefused | pduOverDeclared | txDataLate
  deriving DecidableEq, Repr

/-- The result of a transport block as CRC.indication reports it, with that of each of its code blocks (05
R176). -/
structure CrcRep where
  index : Nat
  ok : Bool
  blocks : List Bool
  iters : Nat
  erased : Nat
  overflow : Bool
  deriving DecidableEq, Repr

/-- The content of an indication or response. -/
inductive IndBody where
  /-- PARAM.response: the limits of R164 to R168 -/
  | param (limits : List Nat)
  | config (code : MsgCode)
  | stop
  /-- ERROR.indication: the message refused, the code, PDU indices -/
  | error (msg : Nat) (code : MsgCode) (pdus : List Nat)
  /-- SLOT.indication with the air time of the slot -/
  | slot (air : Nat)
  | rxData (tbs : List (Nat × List Byte))
  | crc (tbs : List CrcRep)
  | uci (reps : List (Nat × List Int))
  | srs (snr : Int) (advance : Nat) (handle : Nat)
  /-- RACH.indication: preamble, timing advance, preamble_power, occasion_rssi of each detection -/
  | rach (hits : List (Nat × Nat × Int × Int))
  | notice (dir cause channels deadline : Nat)
  | shed (phase cause step cls die islands time : Nat)
  | ssb (hits : List SsbHit)
  deriving DecidableEq, Repr

/-- A retained SRS estimate (05 R189), named by its handle: by stream the channel at every sub-carrier of the grid,
and the noise variance. -/
structure SrsEst where
  ue : Nat
  resource : Nat
  handle : Nat
  est : List (List Cx)
  noise : Rat
  /-- ns of `now` -/
  at' : Nat
  deriving DecidableEq, Repr

/-- One slot of a cell in flight. -/
structure SlotWork where
  /-- slot number counted from PTP time frame_offset -/
  slot : Nat
  dl : Option (List DlPdu)
  ulDci : List DlPdu
  ul : Option (List UlPdu)
  data : List (Nat × List Byte)
  /-- a DL_TTI or UL_DCI.request, or an UL_TTI.request, came after its deadline (05 R180) -/
  lateDl : Bool
  lateUl : Bool
  /-- seq of the latest requests taken for the slot, downlink and uplink (05 R174) -/
  dlSeq : W32
  ulSeq : W32
  /-- coded bits of downlink PDUs: place of the PDU, codeword, bits (05 R166) -/
  coded : List (Nat × Nat × Nat)
  /-- downlink processing has started -/
  started : Bool
  /-- the estimates that the SRS handles of its PDUs named then, by PDU index (05 R189) -/
  csi : List (Nat × List SrsEst)
  /-- the downlink C-plane has been queued; the uplink C-plane has been queued -/
  cplane : Bool
  ulCplane : Bool
  /-- symbols whose U-plane frames are queued -/
  queued : List Nat
  /-- downlink channels with an undelivered frame -/
  lost : List Nat
  /-- a frame of the slot was discarded with its link down -/
  linkLost : Bool
  /-- commit points passed -/
  dlDone : Bool
  ulDone : Bool
  noticedDl : Bool
  noticedUl : Bool
  /-- channels that the uplink notice names (05 R197) -/
  ulChannels : Nat
  /-- a unit serving the slot had a fault (07 R262) -/
  fault : Bool
  rx : List RxSection
  /-- symbols whose window has closed, and streams erased -/
  closed : List Nat
  erased : List (Nat × Nat)
  /-- symbols with least-squares estimates, and those that wait for an FFT engine -/
  lsSyms : List Nat
  ls : List LsEst
  /-- symbols estimated, the estimates of PUSCH, and when the last DMRS symbol came -/
  estSyms : List Nat
  est : List ChanEst
  estAt : Nat
  weights : Option (List GroupW)
  weightsAt : Nat
  /-- symbols combined, and transform-precoded ones that wait for an FFT engine -/
  eqSyms : List Nat
  eqRows : List EqRows
  llrs : List Llrs
  /-- soft bits ready for decoding -/
  soft : Option (List SoftPdu)
  softAt : Nat
  /-- code blocks decoded, and UCI of 12 bits and more decoded: PDU, payload -/
  decoded : List BlockBits
  uci : List (Nat × Nat)
  /-- the uplink results are complete -/
  results : Bool
  /-- PRACH PDUs of which the detection has ended (05 R194) -/
  rached : List Nat
  /-- RACH and SRS indications that wait for what an earlier slot has to come (05 R179, 07 R261) -/
  waits : List IndBody
  /-- steps that ended after their bounds, with µs past the bound (07 R263) -/
  overs : List (Nat × Nat)
  deriving DecidableEq, Repr

/-- A slot of which nothing has arrived. -/
def SlotWork.fresh (n : Nat) : SlotWork :=
  { slot := n, dl := none, ulDci := [], ul := none, data := [], lateDl := false, lateUl := false, dlSeq := 0,
    ulSeq := 0, coded := [], started := false, csi := [], cplane := false, ulCplane := false, queued := [], lost := [], linkLost := false, dlDone := false,
    ulDone := false, noticedDl := false, noticedUl := false, ulChannels := 0, fault := false, rx := [],
    closed := [], erased := [], lsSyms := [], ls := [], estSyms := [], est := [], estAt := 0, weights := none, weightsAt := 0,
    eqSyms := [], eqRows := [], llrs := [], soft := none, softAt := 0, decoded := [], uci := [], results := false, rached := [], waits := [], overs := [] }

/-- A HARQ process (05 R191, R192): no soft bits stored when it overflowed. -/
structure HarqProc where
  ue : Nat
  proc : Nat
  ndi : Bool
  /-- of each code block -/
  soft : List (List Int)
  bytes : Nat
  overflow : Bool
  deriving DecidableEq, Repr

/-- A cell (05 R169 to R172). -/
structure Cell where
  state : CellState
  /-- it has been RUNNING since it was configured: its slots are processed -/
  begun : Bool
  die : Nat
  /-- the radio islands of its die that it is bound to, one bit each (05 R169) -/
  islands : Nat
  /-- the request ring it is bound to (09 R314) -/
  ring : Option Nat
  cfg : Option CellCfg
  price : Prices
  book : List Booking
  /-- order of admission (07 R257) -/
  order : Nat
  /-- slot at which a START takes effect; the stop slot; the shed slot -/
  startAt : Option Nat
  stopAt : Option Nat
  shedAt : Option Nat
  /-- seq of the STOP.request -/
  stopSeq : W32
  /-- step, shed_class and cause of its shed, and its island mask (07 R259) -/
  shedStep : Nat
  shedClass : Nat
  shedCause : Nat
  shedIslands : Nat
  /-- next slot to be announced by SLOT.indication -/
  nextInd : Nat
  /-- next slot whose downlink processing starts -/
  nextDl : Nat
  slots : List SlotWork
  harq : List HarqProc
  srs : List SrsEst
  nextHandle : Nat
  searches : List SsbSearch
  /-- media-error count: stored soft bits that could not be read (10 R350) -/
  mediaErrors : Nat
  deriving DecidableEq, Repr

/-- A cell after reset. -/
def Cell.reset : Cell :=
  { state := .idle, begun := false, die := 0, islands := 0, ring := none, cfg := none, price := Prices.zero, book := [], order := 0,
    startAt := none, stopAt := none, shedAt := none, stopSeq := 0, shedStep := 0, shedClass := 0,
    shedCause := 0, shedIslands := 0, nextInd := 0, nextDl := 0, slots := [], harq := [], srs := [],
    nextHandle := 0, searches := [], mediaErrors := 0 }

/-- Work of a slot that the layer-1 controller gives an engine (06 R223): cell, slot, PDU and its codeword or code
block. -/
structure L1Job where
  cell : Nat
  slot : Nat
  pdu : Nat
  part : Nat
  deriving DecidableEq, Repr

-- Emergencies (07 R256 to R258).

/-- The emergencies in the order of the codes of BELAY_EMERG (07 R264). -/
inductive EmergKind where
  | none | warning | thermal | power | pace | capacity
  deriving DecidableEq, Repr

/-- The emergencies of a die: the latest declared, and the earlier ones that had not ended then (07 R256). -/
structure Emerg where
  kind : EmergKind
  others : List EmergKind
  /-- islands concerned, for a pace emergency: a mask -/
  islands : Nat
  /-- those of them whose monitor reports above its real path (14 R474) -/
  monitors : Nat
  /-- shed steps since reset, saturating at 15 -/
  steps : Nat
  /-- by emergency, the end of the last shed slot of its latest step, PTP ns -/
  shedEnds : List (EmergKind × Nat)
  deriving DecidableEq, Repr

def Emerg.reset : Emerg := ⟨.none, [], 0, 0, 0, []⟩

/-- The end of the last shed slot of an emergency's latest step. -/
def Emerg.shedEnd (e : Emerg) (k : EmergKind) : Nat :=
  ((e.shedEnds.find? (fun x => decide (x.1 = k))).map Prod.snd).getD 0

/-- An island change that waits (07 R239): additions to apply, or a removal's end. -/
structure Radio where
  cells : SMap Cell
  nextOrder : Nat
  emerg0 : Emerg
  emerg1 : Emerg
  deriving DecidableEq, Repr

def Radio.reset : Radio := { cells := [], nextOrder := 0, emerg0 := Emerg.reset, emerg1 := Emerg.reset }

/-- An indication as the device sends it. -/
structure IndMsg where
  cell : Nat
  sfn : Nat
  slot : Nat
  seq : W32
  body : IndBody
  deriving DecidableEq, Repr

end Sys2Proof.Machine
end

