-- ==== Sys2Proof/Machine/StRope.lean ====
section
/-! DEFINITION. State of the Rope fabric (11_rope_fabric.md): commands outstanding with their request lines,
identifiers and credits, the replay windows of the homes, keys, the membership epoch under way, and what a
gateway holds. -/

namespace Sys2Proof.Machine

/-- What a request does at its home (11 R370). A TV-12 instruction stores bytes of a line (04 R156). -/
inductive RopeAct where
  | load | store
  | atomic (aop : Nat) (operand0 operand1 : Nat)
  /-- a line of a Cairn copy, with the home device and region of its original -/
  | publish (device region : Nat)
  | digest
  | genFence (gen : Nat)
  deriving DecidableEq, Repr

/-- One request as it travels (11 R366 to R375). -/
structure RopeReq where
  /-- source identity in the home's pod: member 0 to 511, or 512 + gateway index (R358, R381) -/
  source : Nat
  /-- device number of the source -/
  origin : Nat
  /-- pod epoch that the sender holds, and the global epoch, which requests between pods carry (11 R389) -/
  epoch : Nat
  globalEpoch : Nat
  /-- the global epoch of an earlier copy of it that got no reply (11 R376, R385) -/
  under : Option Nat
  /-- device number of the home, and region index there -/
  device : Nat
  region : Nat
  key : Nat
  gen : Nat
  /-- byte offset in the region, and bytes -/
  off : Nat
  len : Nat
  act : RopeAct
  data : List Byte
  /-- identifier in the source's sequence to the home stack -/
  id : Nat
  stack : Nat
  deriving DecidableEq, Repr

/-- The reply to a request. -/
structure RopeReply where
  source : Nat
  device : Nat
  stack : Nat
  id : Nat
  status : Status
  /-- STALE_EPOCH because the epochs differ (R387 step 5) -/
  byEpoch : Bool
  /-- data read, or the old value of an atomic -/
  data : List Byte
  deriving DecidableEq, Repr

/-- A chunk between gateways (11 R383). -/
structure RopeChunk where
  /-- pods of the outgoing and the incoming gateway, and the index of the incoming one (11 R382) -/
  src : Nat
  dst : Nat
  gw : Nat
  globalEpoch : Nat
  reqs : List RopeReq
  reps : List RopeReply
  deriving DecidableEq, Repr

/-- What leaves the device over Rope. -/
inductive RopeMsg where
  /-- a request, sent to a gateway member where its home lies in another pod -/
  | request (r : RopeReq) (via : Option Nat)
  | reply (r : RopeReply)
  | chunk (c : RopeChunk)
  | heartbeat (member epoch : Nat)
  | evict (member : Nat)
  | epoch (number : Nat) (members : List Nat)
  | ack (number : Nat)
  | join (device : Nat)
  /-- request credits for a source of a home stack (11 R378) -/
  | grant (source stack n : Nat)
  /-- the gateways of a pod, from its coordinator to the one that leads the agreement (11 R389) -/
  | gatewaySet (pod : Nat) (members : List Nat)
  /-- a global epoch that the coordinators agree, with the gateways of every pod (11 R389) -/
  | globalEpoch (number : Nat) (pods : List (Nat × List Nat))
  deriving DecidableEq, Repr

/-- One request line of a command (11 R373, R375, R376). -/
structure RopeLine where
  /-- order of issue on this device -/
  seq : Nat
  id : Nat
  stack : Nat
  off : Nat
  len : Nat
  act : RopeAct
  data : List Byte
  /-- ns of `now` at which it was last sent, and the pod and global epochs that it went under (R389) -/
  sent : Option Nat
  epoch : Nat
  globalEpoch : Nat
  /-- the global epoch of its first copy that got no reply (R376, R385) -/
  under : Option Nat
  /-- its home refused it under that epoch: it waits for another (R387 step 5) -/
  stale : Bool
  deriving DecidableEq, Repr

/-- A Rope command, or the stores of a TV-12 instruction, from its issue to its completion. -/
structure RopeCmd where
  seq : Nat
  part : Nat
  ctx : Nat
  ring : Nat
  desc : Nat
  kernel : Nat
  kidx : Nat
  /-- place in the kernel's program order -/
  idx : Nat
  /-- the TV-12 instruction waits for it itself -/
  peer : Bool
  device : Nat
  region : Nat
  key : Nat
  /-- the context's region number -/
  ctxRegion : Nat
  gen : Nat
  /-- region offset of its first byte -/
  off : Nat
  /-- local side: bases, die, location code and byte offset; none without local data -/
  bases : List Nat
  die : Nat
  local' : Option (Nat × Nat)
  first : Nat
  /-- lines not yet acknowledged; empty once the command is complete -/
  lines : List RopeLine
  fail : Option Result
  /-- its context is saved (R392): data for the ledge wait in the slot -/
  saved : Bool
  slot : List (Nat × List Byte)
  deriving DecidableEq, Repr

/-- The home stacks of a command's lines, which a remote home knows: one for offsets below a cut, another from
there on. -/
structure RopeHomes where
  first : Nat
  cut : Nat
  next : Nat
  deriving DecidableEq, Repr

/-- A replay window of a source at a home stack (11 R375): identifier, old value and time of each entry. -/
structure ReplayWindow where
  entries : List (Nat × Nat × Nat)
  floor : Nat
  deriving DecidableEq, Repr

def ReplayWindow.reset : ReplayWindow := ⟨[], 0⟩

/-- A relayed request of a gateway: the pod that it came from, its source there, its identifier, home and stack, and
the identifier that the gateway gave it (11 R383). -/
structure Relayed where
  pod : Nat
  source : Nat
  id : Nat
  device : Nat
  stack : Nat
  gwId : Nat
  time : Nat
  deriving DecidableEq, Repr

/-- An epoch that has been received or formed and is not committed (11 R387). -/
structure PendingEpoch where
  number : Nat
  members : List Nat
  at' : Nat
  deriving DecidableEq, Repr

/-- The Rope fabric. -/
structure Rope where
  cmds : List RopeCmd
  nextSeq : Nat
  /-- next identifier and credits by 24 × device + home stack (R375, R378) -/
  nextId : SMap Nat
  credits : SMap Nat
  /-- credits granted beyond the first 8 of each source, by 576 × stack + source (R378) -/
  granted : SMap Nat
  /-- ports that have trained since bring-up began, with the pod and member numbers that their planes report (R361) -/
  planes : List (Nat × Nat × Nat)
  /-- keys of the regions of this device -/
  keys : SMap Nat
  /-- windows by 576 × stack + source -/
  windows : SMap ReplayWindow
  /-- operations of the last µs: absolute line and time (R379) -/
  ops : List (Nat × Nat)
  /-- requests that carry the epoch to come (R387 step 3) -/
  held : List RopeReq
  /-- requests that wait during standby, oldest first (15 R491) -/
  waiting : List RopeReq
  pending : Option PendingEpoch
  /-- when the epoch in force was declared by this device as coordinator, and who has acknowledged it -/
  declaredAt : Option Nat
  acks : List Nat
  /-- ns of `now` of the last heartbeat of each member, its own the last it sent -/
  beats : SMap Nat
  /-- coordinators that have fallen silent (R386) -/
  deposed : List Nat
  /-- gateways of the pods, in increasing member number (R381) -/
  gateways : SMap (List Nat)
  /-- as a gateway: requests and replies gathered for each pod with the time of the first, the identifier maps with
  the next identifier by 24 × device + home stack, the floor of each source's identifiers that have left the maps, and
  the global epoch in which the device became this gateway -/
  chunks : SMap (Nat × List RopeReq)
  replies : SMap (Nat × List RopeReply)
  relayed : List Relayed
  gwNext : SMap Nat
  gwFloor : SMap Nat
  gwSince : Nat
  /-- cold start (R396, R397): 0 self-test, 1 port training, 2 membership, 3 PTP lock, 4 gateway formation, 5 global
  epoch agreement; when the stage began, whether it has been run again, and the retry budget left in ns -/
  stage : Nat
  stageAt : Nat
  again : Bool
  budget : Nat
  deriving DecidableEq, Repr

/-- The fabric after cold reset. -/
def Rope.reset : Rope :=
  { cmds := [], nextSeq := 0, nextId := [], credits := [], granted := [], planes := [], keys := [], windows := [], ops := [], held := [],
    waiting := [], pending := none, declaredAt := none, acks := [], beats := [], deposed := [], gateways := [], chunks := [],
    replies := [], relayed := [], gwNext := [], gwFloor := [], gwSince := 0, stage := 0, stageAt := 0, again := false, budget := 22_000_000_000 }

end Sys2Proof.Machine
end

