-- ==== Sys2Proof/Machine/StSec.lean ====
section
/-! DEFINITION. State of the security island (13_security.md): the firmware watchdog, the banks of the boot
flash and an update under way, the SPDM mailboxes with their sessions, and link encryption. -/

namespace Sys2Proof.Machine

/-- A Ryrn image as a bank of the boot flash holds it: SHA-256 digest and svn (13 R434, R435). -/
structure FwImage where
  digest : List Byte
  svn : Nat
  deriving DecidableEq, Repr

/-- SEC_FW_STATUS.state, in the order of its codes (13 R440). -/
inductive FwState where
  | idle | staging | staged | activating
  deriving DecidableEq, Repr

/-- SEC_FW_STATUS.last_result, in the order of its codes. -/
inductive FwResult where
  | none | committed | rolledBack | rejected
  deriving DecidableEq, Repr

/-- The header that an image carries (13 R434): the SHA-256 digest and the size of the image, its svn, the signing key
with the certificate of the root that covers it, and the signature. -/
structure FwHeader where
  digest : List Byte
  size : Nat
  svn : Nat
  signer : List Byte
  cert : List Byte
  sig : List Byte
  deriving DecidableEq, Repr

/-- An image as the island reads it from the host: whether the reading came to its end, the header and the bytes of
the image (13 R434, R437). -/
structure FwRead where
  readOk : Bool
  header : FwHeader
  body : List Byte
  deriving DecidableEq, Repr

/-- An SPDM session of a mailbox (13 R448). -/
structure Session where
  id : Nat
  /-- FINISH has been answered -/
  established : Bool
  /-- updates of its keys -/
  keyGen : Nat
  /-- ns of `now` of the last HEARTBEAT -/
  heardAt : Nat
  deriving DecidableEq, Repr

/-- How far the connection of a mailbox has come. -/
inductive SpdmStage where
  | start | versioned | capable | negotiated
  deriving DecidableEq, Repr

/-- A DOE mailbox (13 R443). -/
structure Mailbox where
  stage : SpdmStage
  sessions : List Session
  deriving DecidableEq, Repr

def Mailbox.reset : Mailbox := ⟨.start, []⟩

/-- The requests that an update holds (13 R447), with their nonces: a CHALLENGE of a slot; a
GET_MEASUREMENTS of an index (0xFF: every index), signed or not. -/
inductive SpdmHeld where
  | challenge (slot : Nat) (nonce : List Byte)
  | measurements (index : Nat) (signed : Bool) (nonce : List Byte)
  deriving DecidableEq, Repr

/-- SPDM ERROR codes that the device answers with. -/
inductive SpdmError where
  | invalidRequest | unexpectedRequest | sessionLimit | invalidSession
  deriving DecidableEq, Repr

/-- Capabilities of SPDM (13 R443): a device has the first eight. -/
inductive SpdmCap where
  | certificates | challenge | signedMeasurements | keyExchange | encryption | authentication | heartbeat | keyUpdate
  | presharedKeys | mutualAuthentication | measurementManifests
  deriving DecidableEq, Repr

/-- Algorithms that a requester can offer: those of the device (13 R443), or another one. -/
inductive SpdmAlg where
  | ecdsaP256 | sha256 | secp256r1 | aes256Gcm
  | other (id : Nat)
  deriving DecidableEq, Repr

/-- Answers of a mailbox (13 R443 to R448). -/
inductive SpdmReply where
  /-- the versions of SPDM: major and minor number -/
  | version (vs : List (Nat × Nat))
  | capabilities (cs : List SpdmCap)
  /-- the algorithms chosen -/
  | algorithms (as' : List SpdmAlg)
  /-- digests of the chains of slots 0 and 1 -/
  | digests (d0 d1 : List Byte)
  /-- a part of a chain, and how many bytes remain -/
  | certificate (slot : Nat) (bytes : List Byte) (left : Nat)
  | challengeAuth (slot : Nat) (chain : List Byte) (sig : List Byte)
  /-- how many measurements there are -/
  | count (n : Nat)
  /-- measurement blocks of DMTF with their indices, and the signature if one was asked for -/
  | measurements (blocks : List (Nat × List Byte)) (sig : Option (List Byte))
  | keyExchange (session : Nat) (exchange sig : List Byte)
  | finish | heartbeatAck | keyUpdateAck | endSessionAck | ideAck
  | tspAck
  | error (e : SpdmError)
  deriving DecidableEq, Repr

/-- Streams that IDE protects (13 R449): CXL.io, and CXL.cache with CXL.mem. -/
inductive IdeStream where
  | io | cacheMem
  deriving DecidableEq, Repr

/-- The security island. -/
structure Sec where
  /-- last heartbeat of Ryrn, ns of `now` (13 R433) -/
  heartbeatAt : Nat
  quiesced : Bool
  /-- SEC_WDOG.count -/
  quiesces : Nat
  /-- banks A and B; none: empty (13 R435) -/
  bankA : Option FwImage
  bankB : Option FwImage
  /-- the active-bank record: false A, true B -/
  activeB : Bool
  /-- the image that runs, as measured -/
  running : FwImage
  fw : FwState
  last : FwResult
  /-- SEC_FW_STATUS.reject_cause -/
  cause : Nat
  /-- svn of the staged image -/
  stagedSvn : Nat
  raiseSvn : Bool
  /-- SQ index on ring 0 of the STAGE or ACTIVATE that runs, and its t0, ns of `now` -/
  actIdx : Nat
  actAt : Nat
  /-- mailboxes by function: 0 the physical function, p + 1 virtual function p + 1 -/
  boxes : SMap Mailbox
  /-- requests held by an update, by function, oldest first -/
  held : List (Nat × SpdmHeld)
  /-- keys of the IDE streams, while IDE runs on them -/
  ideIo : Option Nat
  ideMem : Option Nat
  deriving DecidableEq, Repr

/-- An image that a part ships with, where the spec gives none (log entry 7). -/
def FwImage.shipped : FwImage := ⟨List.replicate 32 0, 0⟩

/-- The island before its first boot: bank A holds an image, bank B is empty (log entry 7). -/
def Sec.reset : Sec :=
  { heartbeatAt := 0, quiesced := false, quiesces := 0, bankA := some FwImage.shipped, bankB := none,
    activeB := false, running := FwImage.shipped, fw := .idle, last := .none, cause := 0,
    stagedSvn := 0, raiseSvn := false, actIdx := 0, actAt := 0, boxes := [], held := [], ideIo := none,
    ideMem := none }

end Sys2Proof.Machine
end

