-- ==== Sys2Proof/Machine/StStacks.lean ====
section
/-! DEFINITION. State of the memory stacks beside their contents and registers (10 R343 to R352): refresh,
repaired rows and spare lines. -/

namespace Sys2Proof.Machine

/-- The last refresh of a bank, in ns of `now`, and the band that it took effect in (10 R352). -/
structure BankRefresh where
  time : Nat
  band : Nat
  deriving DecidableEq, Repr

/-- A line of a pseudo-channel (10 R343). -/
structure LineId where
  stack : Nat
  channel : Nat
  line : Nat
  deriving DecidableEq, Repr

/-- A row of a bank. -/
structure RowId where
  stack : Nat
  channel : Nat
  bank : Nat
  row : Nat
  deriving DecidableEq, Repr

/-- What the patrol's read of a block meets (10 R349). -/
inductive PatrolRead where
  | clean | corrected | uncorrectable
  deriving DecidableEq, Repr

/-- The stacks. -/
structure Stacks where
  /-- by bank: (32 stack + channel) × 48 + bank -/
  refresh : SMap BankRefresh
  /-- rows that a spare row of their bank has replaced since manufacture (10 R348) -/
  repaired : List RowId
  /-- lines that their pseudo-channel's spare line has replaced (10 R347) -/
  replaced : List LineId
  /-- lines with a lasting fault, to be replaced at the next link training (10 R347, 14 R467) -/
  failing : List LineId
  deriving DecidableEq, Repr

/-- Nothing refreshed, no spare used but those of the fuses. -/
def Stacks.reset : Stacks := { refresh := [], repaired := [], replaced := [], failing := [] }

end Sys2Proof.Machine
end

