-- ==== Sys2Proof/Syntax.lean ====
section
/-! DEFINITION. The commands of the block: one constructor for every row of the table of operations
and events, with the operands that the world outside the device supplies: what the host writes, what a
frame or a request holds, what a sensor shows, and the choices that the physical world makes. -/

namespace Sys2Proof

open Machine

/-- The address space a host access goes through (09 R308, R309): BAR 0 or BAR 2 of the physical
function, or of the virtual function of a partition. -/
inductive View where
  | pf
  | vf (p : Fin 64)
  | pfTable
  | vfTable (p : Fin 64)
  deriving DecidableEq, Repr

/-- What a read of host memory returned: data, or a CXL.io error. -/
inductive HostRead where
  | words (w : List W32)
  | error
  deriving DecidableEq, Repr

/-- The commands, in the order of the table of operations. -/
inductive Instr where
  -- registers (00 R14 to R19)
  | registerWrite (v : View) (off : Nat) (value : W32) (be : BitVec 4)
  | rcRegisterRead (v : View) (off : Nat)
  | lowWordWrite (v : View) (off : Nat) (value : W32) (be : BitVec 4)
  | highWordWrite (v : View) (off : Nat) (value : W32) (be : BitVec 4)
  | lowWordRead (v : View) (off : Nat)
  -- faults, sampling (01)
  | stall (u : UnitId) (unserved : List (Nat × Nat × Bool))
  | substitutionReissue (u : UnitId)
  | partitionStopTileLost (p : Nat)
  | paceSample (d i : Nat) (rates : List Nat) (temp : Int)
  -- tile instructions and blocks (02)
  | load (k idx rank : Nat) (words : List W32) (sram : List SramErr)
  | mm (k idx rank : Nat) (words : List W32) (sram : List SramErr)
  | conv (k idx rank : Nat) (words : List W32) (sram : List SramErr)
  | gather (k idx rank : Nat) (words : List W32) (sram : List SramErr)
  | epilogue (k idx : Nat) (flips : List CellFlip)
  | blockCommit (k idx : Nat) (last : Bool)
  | splitPartResume (k idx : Nat) (flips : List CellFlip)
  | splitTimeout (k idx : Nat)
  -- epilogue chains (04)
  | biasAct (k idx : Nat) (flips : List CellFlip)
  | biasActRes (k idx : Nat) (flips : List CellFlip)
  | dequantAct (k idx : Nat) (flips : List CellFlip)
  | rowStats (k idx : Nat) (flips : List CellFlip)
  | layernormMm (k idx : Nat) (flips : List CellFlip)
  | rmsnormMm (k idx : Nat) (flips : List CellFlip)
  | gated (k idx : Nat) (flips : List CellFlip)
  | attentionOnline (k idx : Nat) (flips : List CellFlip)
  | attentionTwoPass (k idx : Nat) (flips : List CellFlip)
  | routerTopk (k idx : Nat) (flips : List CellFlip)
  | dynamicQuant (k idx : Nat) (flips : List CellFlip)
  | colPool (k idx : Nat) (flips : List CellFlip)
  | peerSend (k idx : Nat) (flips : List CellFlip) (h : RopeHomes)
  | peerSendPayloadAcked (k idx : Nat) (h : RopeHomes)
  | peerSendCommit (k idx : Nat) (last : Bool)
  | peerAccum (k idx : Nat) (flips : List CellFlip)
  | chainBufferReady (k idx : Nat) (flips : List CellFlip)
  | chainTimeout (k idx : Nat)
  -- layer 1: cells, requests, slots (05)
  | paramRequest (n : Nat) (h : RadioHdr)
  | configRequest (n : Nat) (h : RadioHdr) (body : ConfigBody)
  | cellRelease (n : Nat) (h : RadioHdr)
  | startRequest (n : Nat) (h : RadioHdr)
  | cellStart (c : Nat)
  | stopRequest (n : Nat) (h : RadioHdr)
  | stopIndication (c : Nat)
  | dlTtiRequest (n : Nat) (h : RadioHdr) (pdus : List DlPdu)
  | ulTtiRequest (n : Nat) (h : RadioHdr) (pdus : List UlPdu)
  | ulDciRequest (n : Nat) (h : RadioHdr) (pdus : List DlPdu)
  | txDataRequest (n : Nat) (h : RadioHdr) (ps : List TxPayload)
  | slotBookRequest (n : Nat) (h : RadioHdr) (ws : List W32)
  | ssbSearchRequest (n : Nat) (h : RadioHdr) (offset count : Nat) (pcis : List Nat)
  | ssbSearchIndication (c : Nat)
  | slotIndication (c : Nat)
  | downlinkProcessing (c : Nat) (lost : List (Nat × Nat))
  | cPlaneLaunch (c n : Nat)
  | uPlaneLaunch (c n k : Nat)
  | uPlaneDiscard (port sub : Nat)
  | uplinkCPlaneLaunch (c n : Nat)
  | symbolWindowClose (c n k : Nat)
  | channelEstimation (c n k : Nat)
  | mmseWeights (c n : Nat)
  | equalisation (c n k : Nat)
  | harqCombining (c n : Nat) (lost : List (Nat × Nat))
  | uplinkResults (c n : Nat)
  -- VDE operations (06 R209 to R222)
  | vLdv (die n : Nat)
  | vStv (die n : Nat)
  | vLdx (die n : Nat)
  | vSts (die n : Nat)
  | vExpb (die n : Nat)
  | vCmpb (die n : Nat)
  | vAgld (die n : Nat)
  | vMov (die n : Nat)
  | vSplat (die n : Nat)
  | vSets (die n : Nat)
  | vPerm (die n : Nat)
  | vAdd (die n : Nat)
  | vSub (die n : Nat)
  | vMul (die n : Nat)
  | vConj (die n : Nat)
  | vAbs2 (die n : Nat)
  | vShr (die n : Nat)
  | vCvt (die n : Nat)
  | vMaxv (die n : Nat)
  | vMinv (die n : Nat)
  | vAnd (die n : Nat)
  | vXor (die n : Nat)
  | vRecip (die n : Nat)
  | vMacz (die n : Nat)
  | vMac (die n : Nat)
  | vMsc (die n : Nat)
  | vNarrow (die n : Nat)
  | vGold (die n : Nat)
  | vCrc (die n : Nat)
  | vQmap (die n : Nat)
  | vDemap (die n : Nat)
  | vFht (die n : Nat)
  | vMaxs (die n : Nat)
  | vMins (die n : Nat)
  | vRsum (die n : Nat)
  | vAmm (die n : Nat)
  | vArd (die n : Nat)
  | vLoop (die n : Nat)
  | vNop (die n : Nat)
  | vFence (die n : Nat)
  | vBrk (die n : Nat)
  | vdeFreezeEnd (die n : Nat)
  | vdeHaltRequest
  | vdeHalt (die n : Nat)
  | vdeStep
  | vdeResume
  | vdeListEnd
  -- accelerators (06 R225 to R231)
  | fft (die n : Nat) (work : Option L1Job)
  | ldpcDecode (die n : Nat) (work : Option L1Job)
  | ldpcEncode (die n : Nat) (work : Option L1Job)
  | polarEncode (die n : Nat) (work : Option L1Job)
  | polarDecode (die n : Nat) (work : Option L1Job)
  | prach (die n : Nat) (occ : Option (Nat × Nat × Nat))
  | accelResult (k : Nat)
  -- Belay, governor, leases, shedding (07)
  | islandAdd (value : W32)
  | islandRemove (value : W32)
  | islandRemovalDone (d i : Nat)
  | belayRadioMemWrite (value : W32)
  | governorStep (d i : Nat) (unserved : List (Nat × Nat × Bool))
  | paceEmergency (d i : Nat)
  | limiterSample (sample avg volts : Nat) (temp : Int) (unserved : List (Nat × Nat × Bool))
  | throttleStep (d i : Nat)
  | leaseGrant
  | leaseRevoke
  | leaseReclaimSave (id : Nat)
  | leaseLayerAbandon (id : Nat)
  | leaseEnd (id : Nat)
  | thermalWarning (d : Nat)
  | thermalEmergency (d : Nat)
  | shedSlot (c : Nat)
  | cellShedComplete (c : Nat)
  | shedStepRepeat (d : Nat)
  | commitPoint (c n : Nat) (ul : Bool)
  -- partitions, contexts, kernels, accounting (08)
  | partitionEnable (p : Nat)
  | partitionResume (p : Nat)
  | quiesceReset (p : Nat)
  | resetDrainDone (p : Nat) (posted : List (Nat × List (List W32)))
  | generationDiscard (p : Nat)
  | partitionRelease (p : Nat)
  | scrubDone (p : Nat) (kind : ScrubKind) (bu : List UnitId) (bh : List Nat)
    (bl : List (Nat × Nat))
  | vfEnableCleared (n : Nat)
  | vfFlr (p : Nat)
  | kernelStart (p : Nat)
  | kernelOverrun (k : Nat)
  | kernelAbandon (k : Nat)
  | quantumExpiry (p : Nat)
  | contextSaveDone (p : Nat)
  | contextResumeDone (p : Nat) (posted : List (Nat × List (List W32)))
  | batchCloseTimeout (p c : Nat)
  | semSet (n : Nat)
  | semAcquire (n : Nat)
  | semRelease (n : Nat)
  | holdExceeded (p c : Nat)
  | accountingUpdate (p : Nat)
  | energyAttribution (isl : List IslandEnergy) (stackNj stackOthers ioNj portOthers : Nat)
  | paceBlindRelease
  -- CXL.mem (08 R289, 10 R350)
  | cxlMemWrite (a : Nat) (bs : List Byte) (stream : Option Nat) (trusted : Bool)
  | cxlMemRead (a n : Nat) (stream : Option Nat) (trusted : Bool)
  -- jobs, rings, doorbells, interrupts (09)
  | loadImage (n : Nat) (im : ImageInfo) (pkg : Package)
  | unloadImage (n : Nat)
  | unloadSlotIdle (n : Nat)
  | run (n : Nat)
  | mlist (n : Nat)
  | oplist (n : Nat)
  | accel (n : Nat)
  | copy (n : Nat) (data : List Byte)
  | l1Buf (n : Nat)
  | indicationDrop (n : Nat)
  | ringEnable (v : View) (n : Nat) (cfg db0 db1 : W32)
  | ringDisable (v : View) (n : Nat)
  | ringDisableComplete (n : Nat)
  | doorbellEvent (line : Nat) (words : List W32)
  | doorbellReacquireTimeout (n : Nat)
  | adminDbWrite (word : Nat) (value : W32) (be : BitVec 4)
  | descriptorFetch (n : Nat) (res : HostRead)
  | descriptorCompletion (n : Nat)
  | windowLock
  | intcSetWrite (n : Nat) (v : W32)
  | intcEnWrite (n : Nat) (v : W32)
  | msixUnmask (fn entry : Nat)
  | cxlLinkTrained (width rate : Nat)
  | ideFailure
  -- stacks (10)
  | refresh (stack channel bank : Nat) (temp base : Int) (lost : List (Nat × Bool))
  | patrolRead (block : Nat) (what : PatrolRead)
  | expand (k idx : Nat) (words : List W32)
  | bucket (k idx : Nat) (words : List W32)
  | gatherRows (k idx : Nat) (words : List W32)
  -- Rope (11)
  | ropeLoad (k idx : Nat) (words : List W32) (h : RopeHomes)
  | ropeStore (k idx : Nat) (words : List W32) (h : RopeHomes)
  | addI32 (k idx : Nat) (words : List W32) (h : RopeHomes)
  | addI64 (k idx : Nat) (words : List W32) (h : RopeHomes)
  | minI64 (k idx : Nat) (words : List W32) (h : RopeHomes)
  | maxI64 (k idx : Nat) (words : List W32) (h : RopeHomes)
  | and64 (k idx : Nat) (words : List W32) (h : RopeHomes)
  | or64 (k idx : Nat) (words : List W32) (h : RopeHomes)
  | xor64 (k idx : Nat) (words : List W32) (h : RopeHomes)
  | swap64 (k idx : Nat) (words : List W32) (h : RopeHomes)
  | cas64 (k idx : Nat) (words : List W32) (h : RopeHomes)
  | addF32 (k idx : Nat) (words : List W32) (h : RopeHomes)
  | publish (k idx : Nat) (words : List W32) (h : RopeHomes)
  | digest (k idx : Nat) (words : List W32) (h : RopeHomes)
  | genFence (k idx : Nat) (words : List W32) (h : RopeHomes)
  | ropeFence (k idx : Nat) (words : List W32) (h : RopeHomes)
  | ropeHomeRequest (r : RopeReq)
  | ropeReply (rep : RopeReply)
  | ropeRetry (device stack id : Nat)
  | remoteTimeout (device stack id : Nat)
  | replayWindowAgeout (stack source : Nat)
  | ropeCreditGrant (device stack n : Nat)
  | ropePortChange (p : Nat) (up : Bool) (pod member : Nat)
  | ropeEnableWrite (value : W32) (trained : List (Nat × Nat × Nat))
  | ropeHeartbeat (m e : Nat)
  | memberDead (m : Nat)
  | ropeEvict (m : Nat)
  | selfExclude
  | coordinatorLoss
  | epochReceive (e : Nat) (members : List Nat)
  | epochCommit
  | epochAckTimeout (m : Nat)
  | rejoin (asks : Option Nat)
  | globalEpochChange (e : Nat) (pods : List (Nat × List Nat))
  | chunkSend (pod : Nat) (fenced : Bool)
  | chunkReceive (c : RopeChunk)
  | launchGateArm (g : Nat) (value : W32)
  | launchGateFire (g : Nat)
  | coldStartStageTimeout
  -- ports and time (12)
  | frameReceive (f : RxFrame)
  | frameTransmit (n sub : Nat)
  | ptpTransmit (n sub : Nat) (k : PtpKind)
  | portEnable (n : Nat) (value : W32)
  | portLinkChange (n sub : Nat) (up : Bool)
  | gclChange (n sub : Nat) (value : W32)
  | gclTakeEffect (n sub : Nat)
  | gateIntervalEnd (n sub : Nat)
  | allowLock
  | pqEnable (p : Nat) (value : W32)
  | pqTxPoll (p : Nat)
  | todRead
  | timeSet (value : W32)
  | announceTimeout
  | holdoverExceeded
  | cmpArm (u : Nat) (value : W32)
  | cmpFire (u : Nat)
  | ppsPulseEnd (i : Nat)
  | captureArm (c : Nat) (value : W32)
  | captureEvent (c : Nat)
  -- security, firmware (13)
  | ryrnHeartbeat
  | watchdogQuiesce
  | stage (r : Option FwRead)
  | activate
  | discard
  | fwCommit
  | fwRollback
  | getVersion (fn : Nat)
  | getCapabilities (fn : Nat)
  | negotiateAlgorithms (fn : Nat) (offered : List SpdmAlg)
  | getDigests (fn : Nat)
  | getCertificate (fn slot off len : Nat)
  | challenge (fn slot : Nat) (nonce : List Byte)
  | getMeasurements (fn i : Nat) (signed : Bool) (nonce : List Byte)
  | keyExchange (fn : Nat) (share : List Byte)
  | finish (fn id : Nat)
  | spdmHeartbeat (fn id : Nat)
  | keyUpdate (fn id : Nat)
  | endSession (fn id : Nat)
  | ideKm (id : Nat) (stream : IdeStream) (key : Nat)
  | tspLock (p : Nat)
  | tspRun (p stream : Nat)
  -- self-test, event ring (14)
  | backgroundKat (t : KatTarget) (run : KatRun)
  | katUnit (idx : Nat) (outs : List KatRun)
  | katClass (idx : Nat) (outs : List KatRun)
  | monitorCheck (idx : Nat) (margins : List Int)
  | marginCheck (idx : Nat) (runs : List (List (Nat × Nat × Nat)))
  | selftestDeferred (idx : Nat)
  | startupSelftest (lines : List LineId) (units : List KatTarget) (wires : List (Nat × Nat × Nat))
    (rows : List SramRow) (late : Bool)
  | evrFreeze
  | evrUnfreeze
  | evrClear
  -- power, resets, standby (15)
  | auxPowerUp
  | regulatorStart
  | powerGood
  | resetRelease (addr : Nat) (ropeOff : Bool)
  | boot (okA okB : Bool)
  | brownOut
  | auxBrownOut
  | coldRstN (temp : Int)
  | perstN
  | warmRstN
  | pwrReset (value : W32)
  | pfFlr
  | cxlHotReset
  | thermalTrip (junction layer : Int)
  | profileChange (value : W32)
  | standbyRequest (value : W32)
  | standbyEntered
  | standbyWakeWrite (value : W32)
  | wakeN
  | wakeComplete (lines : List LineId)
  | mgmtRead (smbus a : Nat)
  -- writes with rows of their own and late rows (12, 11, 15, 13)
  | ptpEnableWrite (value : W32)
  | regionEnable (i : Nat)
  | warmRstNRelease
  | tspError (p : Nat)
  deriving DecidableEq, Repr

end Sys2Proof
end

