-- ==== Sys2Proof/Decode.lean ====
section
/-! DEFINITION. Reading a command from the bits of a table row. No row of the table of operations gives
bits: a command reaches the device as a register access, a pin, a frame or an event, and none of these
has an encoding as an instruction word. So no word spells a command. -/

namespace Sys2Proof

/-- The command that a word of `nbits` bits spells: none, for no row of the table has bits. -/
def decodeTableWord (_nbits _w : Nat) : Option Instr := none

end Sys2Proof
end

