-- ==== Sys2Proof/Config.lean ====
section
/-! DEFINITION. What an implementation fixes and the spec leaves open: free values. Each constant has
no body, so nothing can be proved of its value; log entry 4 names them. -/

namespace Sys2Proof

/-- The fixed hash by which a stack base die chooses bank and row of a 256-byte block (10 R344). -/
opaque Config.stackBank : Nat → Nat
opaque Config.stackRow : Nat → Nat

/-- The bank of a row of a tile store or ledge buffer, by place and row; how many redundant rows a bank has, by place and
bank; and the row that a byte lies in, by place and offset: the spec says only that every bank has some (01 R38). -/
opaque Config.sramBank : Nat → Nat → Nat
opaque Config.sramSpares : Nat → Nat → Nat
opaque Config.sramRow : Nat → Nat → Nat

/-- What an on-die memory holds after standby, by the count of free values at the loss, the memory and the address; what a
VDE's register holds, by that count, the engine and the register (15 R490). -/
opaque Config.lostByte : Nat → Nat → Nat → BitVec 8
opaque Config.lostLane : Nat → Nat → Nat → BitVec 64

/-- Byte `i` of the 4 KiB header of a save behind its digest, from what it holds: semaphore counts, ring positions and
the records of outstanding remote operations; its form is private to the firmware (08 R286). -/
opaque Config.saveHeader : List Nat → Nat → Byte

/-- The further request credits that a home stack grants a source while its queues have room, by the stack, the source,
the credits granted before and the requests that wait: the spec gives no number (11 R378). -/
opaque Config.creditGrant : Nat → Nat → Nat → Nat → Nat

/-- The fixed energy of a handshake of an engine class (08 R302). -/
opaque Config.classEnergy : Nat → Nat

/-- How far the rounding of the checksum cells takes a prediction from the sum it predicts: FP32 bits, by the
operands of the line and the component (03 R118 states no rounding; R119 bounds it). -/
opaque Config.ckDrift : List Nat → Nat → Nat

/-- The fixed functions of the chains, from FP32 bits to FP32 bits (04 R133 bounds them and states their
special values). -/
opaque Config.exp32 : Nat → Nat
opaque Config.tanh32 : Nat → Nat
opaque Config.erf32 : Nat → Nat

/-- A lane that no rule gives a value: a CVT between a real and a complex lane form, or from or to a packed form, by
the two forms, the lane's number and its source value (06 R209). -/
opaque Config.laneFree : Nat → Nat → BitVec 64 → BitVec 64

/-- The base graphs of TS 38.212 (Table 5.3.2-2 and 5.3.2-3): the shift of an entry, by base graph, set of lifting
sizes, row and column; none where the graph has no entry (06 R228). -/
opaque Config.baseShift : Nat → Nat → Nat → Nat → Option Nat

/-- How an LDPC decoder holds a posterior, and what bit a posterior of zero gives (05 R190). -/
opaque Config.ldpcHold : Int → Int
opaque Config.zeroBit : Bool

/-- The reliability order and the input interleaver of TS 38.212 (Tables 5.3.1.2-1 and 5.3.1.1-1), the basis of
its small block code (Table 5.3.3.3-1). -/
opaque Config.polarOrder : Nat → Nat
opaque Config.polarIl : Nat → Nat
opaque Config.rmBasis : Nat → Nat → Bool

/-- The combination of two LLRs at a check of a polar decoder, and what a decision costs a path (05 R193). -/
opaque Config.polarF : Int → Int → Int
opaque Config.polarCost : Int → Bool → Nat

/-- Fraction bits of an FFT engine's twiddles, and whether its stages decimate in time (06 R227). -/
opaque Config.twiddleBits : Nat
opaque Config.fftInTime : Bool

/-- What the units hold of an exact value in the layer-1 pipelines and the PRACH detectors: the spec states no
number format for them (05 R186 to R189, 06 R231). -/
opaque Config.held : Rat → Rat

/-- The physical root of a logical root index (TS 38.211, Tables 6.3.3.1-3 and 6.3.3.1-4; true: length 839), and
the cyclic shifts of a restricted set for a root, by set and N_CS (6.3.3.1). -/
opaque Config.prachRoot : Bool → Nat → Nat
opaque Config.prachShifts : Nat → Nat → Nat → List Nat

/-- The amplitude of a full-scale CI16 sample (06 R231), and the unit of an LLR (05 R188). -/
opaque Config.fullScale : Rat
opaque Config.llrUnit : Rat

/-- A bit that no rule gives a value: crc_ok of a command that names no CRC, by the bits it decoded (06 R228). -/
opaque Config.bitFree : Nat → Bool

/-- A piece of work in a slot plan, with what its handshakes depend on (07 R236): a tile instruction by its words (03 R124),
an FFT command by transforms and points (06 R227), an LDPC decode by rows and lifting size (R228), an LDPC encode by K_b, rows,
lifting size and bits (R229), a polar encode and decode by mother code (R230), a PRACH command by roots, antennas and
correlation length (R231), a VDE op list by its issue slots (R205). -/
inductive PlanOp where
  | tile (words : List W32)
  | vde (slots : Nat)
  | fft (count n : Nat)
  | ldpcDec (rows z : Nat)
  | ldpcEnc (kb rows z e : Nat)
  | polarEnc (n : Nat)
  | polarDec (n : Nat)
  | prach (roots ant p : Nat)
  deriving DecidableEq, Repr

/-- The slot plans that a cell's parameters allow, by what its CONFIG.request sets, the quantities of each slot and the pricing
step: which work a plan holds and the radio op lists are the firmware's (07 R236). -/
opaque Config.plans : List Nat → List Nat → Nat → List (List PlanOp)

/-- The terms of a cell that no rule computes, by what its CONFIG.request sets: 0 ledge in KiB, 1 soft
buffers in bytes, 2 retained SRS estimates in bytes, 3 and 4 fronthaul in 10 Mb/s, 5 and 6 traffic in
MB/s, 7 to 18 traffic at the stack controllers, 19 and 20 at the M0–M1 link, from 21 on the share of the grants of each
arbiter of a die's networks, in ten-thousandths (07 R237, 01 R47, 05 R177); and how many such arbiters a die has. -/
opaque Config.term : List Nat → Nat → Nat
opaque Config.arbiters : Nat

/-- The price in BU of an SSB search, by its slots, identities and the class (05 R195). -/
opaque Config.searchPrice : List Nat → Nat → Nat → Nat

/-- The bytes of a message body whose layout is SCF 222.10's or is not given, by msg_id and the numbers it
carries (05 R175, R195). -/
opaque Config.fapiBody : Nat → List Int → List (BitVec 8)

/-- The resource-element mapping of a downlink PDU (TS 38.211): which of its modulation symbols a symbol and
sub-carrier carry; and the reference or synchronisation signal there on a port (05 R166). -/
opaque Config.dlRe : List Nat → Nat → Nat → Option Nat
opaque Config.dlRef : List Nat → Nat → Nat → Nat → Rat × Rat

/-- The units in which a downlink sample and a precoding weight are written (05 R183, 12 R405). -/
opaque Config.txUnit : Rat
opaque Config.weightUnit : Rat

/-- The bytes of a PTP message that the spec does not give, by its type and sub-port, and the place (12 R422). -/
opaque Config.ptpByte : List Nat → Nat → BitVec 8

/-- Modulation compression of a PRB at a width (12 R406). -/
opaque Config.modComp : Nat → List Int → List (BitVec 8)

/-- What the spec names and does not give of C-plane sections (12 R405, R406, O-RAN): the scaler of modulation compression in
section extension 4, by what the PDU says; the filterIndex of PRACH, less 1 and mod 15; the fields of section type 3, by the
cell, the PDU and the field: 0 time offset, 1 frame structure, 2 cyclic prefix length, 3 frequency offset. -/
opaque Config.modScale : List Nat → Nat
opaque Config.prachFilter : List Nat → Nat
opaque Config.prachField : List Nat → List Nat → Nat → Nat

/-- The low-PAPR sequences of DMRS and SRS (TS 38.211, 5.2.2), by what the PDU says, symbol and sub-carrier;
none where the resource has no element. -/
opaque Config.dmrsLowPapr : List Nat → Nat → Nat → Rat × Rat
opaque Config.srsRef : List Nat → Nat → Nat → Option (Rat × Rat)

/-- The noise variance of a weight group from the energies of the zeroed taps (05 R186). -/
opaque Config.noiseVar : Nat → List Rat → Rat

/-- Wideband SNR and timing advance of an SRS from its estimates and noise (05 R176). -/
opaque Config.srsSnr : List (List (Rat × Rat)) → Rat → Int
opaque Config.srsAdvance : List (List (Rat × Rat)) → Nat

/-- The positions of the UCI bits among the coded bits of a PUSCH (TS 38.212, 6.2.7), by what it says and their
number. -/
opaque Config.uciPositions : List Nat → Nat → List Nat

/-- The LLRs of a symbol of a PUCCH of format 2, 3 or 4 from its samples; the sequence of a hypothesis of format 0 or 1 and the
unit of its metric (05 R193; TS 38.211, 6.3.2). -/
opaque Config.pucchLlrs : List Nat → Nat → List (Rat × Rat) → List Int
opaque Config.pucchSeq : List Nat → Nat → Nat → Nat → Rat × Rat
opaque Config.pucchUnit : Rat

/-- UCI of 1 or 2 bits on a PUSCH, from its LLRs (05 R193). -/
opaque Config.uciShort : Nat → List Int → Nat

/-- The SSBs in captured samples: PCI, SSB index, timing offset and sss_power, by the search's offset with the cell's
configuration and the sections (05 R195). -/
opaque Config.ssbDetect : List Nat → List Int → List (Nat × Nat × Int × Int)

/-- The fields that the value of a device TLV holds, in the order of the table, by its tag (05 R177). -/
opaque Config.tlvFields : Nat → List (BitVec 8) → List Nat

/-- The digest of the boot ROM (13 R444). -/
opaque Config.bootRom : List (BitVec 8)

/-- The labels under which the device's keys are derived, behind a byte that tells the keys apart (13 R441). -/
opaque Config.keyLabel : Nat → List (BitVec 8)

/-- ECDSA and ECDH on P-256 (13 R441, R448, R453): the public point of a private key, X then Y; a signature of a message
under a private key; whether a public key verifies one; the shared secret of a private key and a public point. -/
opaque Config.p256Public : List (BitVec 8) → List (BitVec 8)
opaque Config.ecdsaSign : List (BitVec 8) → List (BitVec 8) → List (BitVec 8)
opaque Config.ecdsaVerify : List (BitVec 8) → List (BitVec 8) → List (BitVec 8) → Bool
opaque Config.ecdh : List (BitVec 8) → List (BitVec 8) → List (BitVec 8)

/-- Whether a certificate shows a signing key as certified by the root key of a hash, and the bytes of a header that the
signature of an image covers, by digest, size and svn (13 R434). -/
opaque Config.certified : List (BitVec 8) → List (BitVec 8) → List (BitVec 8) → Bool
opaque Config.signedHeader : List (BitVec 8) → Nat → Nat → List (BitVec 8)

/-- AES-256-GCM (13 R452): byte `i` of the key stream of a key and nonce, and the tag of additional data and a ciphertext. -/
opaque Config.gcmStream : List (BitVec 8) → List (BitVec 8) → Nat → BitVec 8
opaque Config.gcmTag : List (BitVec 8) → List (BitVec 8) → List (BitVec 8) → List (BitVec 8) → List (BitVec 8)

/-- X.509 (13 R442): the certificates of the root whose key has a hash and of the product intermediate; the part of a
certificate that is signed, by its kind, subject serial number, public key and extension; a certificate of that part and a
signature; and the intermediate's signature at manufacture. -/
opaque Config.rootCert : List (BitVec 8) → List (BitVec 8)
opaque Config.productCert : List (BitVec 8)
opaque Config.certBody : Nat → List (BitVec 8) → List (BitVec 8) → List (BitVec 8) → List (BitVec 8)
opaque Config.certOf : List (BitVec 8) → List (BitVec 8) → List (BitVec 8)
opaque Config.productSign : List (BitVec 8) → List (BitVec 8)

/-- The type, below the bit that says raw, of the value in a measurement block, by index (13 R444; DSP0274). -/
opaque Config.measType : Nat → Nat

/-- The device's ECDH exchange data of a session, by the count of free values (13 R448). -/
opaque Config.dheShare : Nat → List (BitVec 8)

/-- The codes of SCF 222.10 for success (0), MSG_INVALID_STATE (1), MSG_INVALID_CONFIG (2), MSG_SLOT_ERR (3)
and MSG_INVALID (4), which the spec uses by name (05 R178). -/
opaque Config.scfCode : Nat → Nat

end Sys2Proof
end

