-- ==== Sys2Proof/Machine/Digest.lean ====
section
/-! DEFINITION. SHA-256 as FIPS 180-4 defines it: the digest that the spec names for images, weights,
save areas and the Rope command DIGEST (08 R286, 11 R370, 13 R454; log entry 20). -/

namespace Sys2Proof.Machine

/-- The largest `r` with `r ^ k ≤ n`, by its bits from bit `i - 1` down; `r` holds those above. -/
def rootBits (k n : Nat) : Nat → Nat → Nat
  | 0, r => r
  | i + 1, r => rootBits k n i (if (r + 2 ^ i) ^ k ≤ n then r + 2 ^ i else r)

/-- The first 32 bits of the fractional part of the `k`-th root of a number below 2^9 (FIPS 180-4). -/
def rootFrac (k p : Nat) : Nat := rootBits k (p * 2 ^ (32 * k)) 38 0 % 2 ^ 32

/-- The first 64 primes. -/
def shaPrimes : List Nat :=
  (List.range 312).filter (fun n => decide (2 ≤ n) && (List.range n).all (fun d => d < 2 || n % d != 0))

/-- The round constants: those fractions of the cube roots of the primes. -/
def shaK : List Nat := shaPrimes.map (rootFrac 3)

/-- Rotate a 32-bit number right. -/
def rotr32 (x n : Nat) : Nat := (x >>> n ||| x <<< (32 - n)) % 2 ^ 32

/-- The exclusive or of three rotations, or of two and a shift. -/
def xorRot (x a b c : Nat) : Nat := rotr32 x a ^^^ rotr32 x b ^^^ rotr32 x c
def xorShift (x a b c : Nat) : Nat := rotr32 x a ^^^ rotr32 x b ^^^ x >>> c

/-- Bits of `x` where `m` has a one, else of `y`; the majority of three bits. -/
def chooseBits (m x y : Nat) : Nat := y ^^^ (m &&& (x ^^^ y))
def majorBits (x y z : Nat) : Nat := (x &&& y) ||| (z &&& (x ||| y))

/-- The initial hash: those fractions of the square roots of the first eight primes. -/
def shaInit : List Nat := (shaPrimes.take 8).map (rootFrac 2)

/-- One round with a round constant and a schedule word, on the working variables from first to last. -/
def shaRound (v : List Nat) (k w : Nat) : List Nat :=
  let at' (i : Nat) : Nat := v.getD i 0
  let e := at' 4
  let add := at' 7 + xorRot e 6 11 25 + chooseBits e (at' 5) (at' 6) + k + w
  let top := add + xorRot (at' 0) 2 13 22 + majorBits (at' 0) (at' 1) (at' 2)
  top % 2 ^ 32 :: ((v.take 3) ++ ((at' 3 + add) % 2 ^ 32 :: (v.drop 4).take 3))

/-- The rounds; the schedule is a window of the next 16 words. -/
def shaRounds : List Nat → List Nat → List Nat → List Nat
  | [], _, v => v
  | k :: ks, win, v =>
    let next := win.getD 0 0 + xorShift (win.getD 1 0) 7 18 3 + win.getD 9 0 + xorShift (win.getD 14 0) 17 19 10
    shaRounds ks (win.drop 1 ++ [next % 2 ^ 32]) (shaRound v k (win.getD 0 0))

/-- One 64-byte block. -/
def shaBlock (v : List Nat) (words : List Nat) : List Nat :=
  List.zipWith (fun x y => (x + y) % 2 ^ 32) v (shaRounds shaK words v)

/-- A big-endian number from bytes. -/
def fromBE (bs : List Byte) : Nat := bs.foldl (fun n b => n * 256 + b.toNat) 0
/-- The `n` big-endian bytes of a number. -/
def beBytes (n v : Nat) : List Byte := (leBytes n v).reverse

/-- The 16 big-endian words of a block. -/
def shaWords (bs : List Byte) : List Nat :=
  (List.range 16).map (fun i => fromBE ((bs.drop (4 * i)).take 4))

/-- The blocks of a padded message, one after another. -/
def shaBlocks : Nat → List Byte → List Nat → List Nat
  | 0, _, v => v
  | n + 1, bs, v => shaBlocks n (bs.drop 64) (shaBlock v (shaWords bs))

/-- The padding of a message of `n` bytes. -/
def shaPad (n : Nat) : List Byte :=
  0x80 :: (List.replicate ((119 - n % 64) % 64) 0 ++ beBytes 8 (8 * n))

/-- SHA-256 of a byte string: 32 bytes. -/
def sha256 (msg : List Byte) : List Byte :=
  let p := msg ++ shaPad msg.length
  (shaBlocks (p.length / 64) p shaInit).flatMap (beBytes 4)

end Sys2Proof.Machine
end

