-- ==== Sys2Proof/Machine/StPower.lean ====
section
/-! DEFINITION. State of the supplies, pins, resets and voltage islands (15_power_package.md,
01 R29 to R36, 07 R243 to R246), and the values the fuses hold (00 R2, 01 R39, R44). -/

namespace Sys2Proof.Machine

/-- PWR_BOOT.stage (15 R504). -/
inductive BootStage where
  | fuseLoad | selfTest | boot | running
  deriving DecidableEq, Repr

/-- How far the power-up of R483 has come. -/
inductive PowerPhase where
  | off | auxUp | regulating | good
  deriving DecidableEq, Repr

/-- PWR_BOOT.cause (15 R504), in the order of its codes 0 to 7. -/
inductive ResetCause where
  | powerUp | coldRstN | perstN | thermalTrip | brownOut | warmRstN | pwrReset | pfReset
  deriving DecidableEq, Repr

/-- PWR_STANDBY.state (15 R504), in the order of its codes 0 to 3. -/
inductive StandbyState where
  | running | entering | standby | waking
  deriving DecidableEq, Repr

/-- Supplies, pins and resets. -/
structure Power where
  phase : PowerPhase
  /-- AUX_3V3 is above its threshold -/
  auxOk : Bool
  stage : BootStage
  /-- the device is in reset -/
  inReset : Bool
  cause : ResetCause
  /-- PWR_BOOT.fail and fail_die -/
  fail : Nat
  failDie : Nat
  /-- input pins: COLD_RST_N, PERST_N, WARM_RST_N (true is high) -/
  coldRstN : Bool
  perstN : Bool
  warmRstN : Bool
  /-- WARM_RST_N holds the device in warm reset -/
  warmHeld : Bool
  /-- straps as sampled (R501) -/
  strapAddr : Nat
  strapRopeOff : Bool
  /-- POWER_GOOD is released; THERMTRIP_N is low -/
  powerGood : Bool
  thermTrip : Bool
  standby : StandbyState
  /-- start of standby entry or of wake, ns of `now` -/
  standbyAt : Nat
  /-- power limiter: highest step in force (PWR_LIMIT.step), ns of its last action, and the 1 ms
  interval last counted in PWR_LIMIT.hits -/
  limitStep : Nat
  limitAt : Nat
  limitHit : Nat
  /-- non-radio work and known-answer tests are withheld by the limiter (07 R246, 14 R472) -/
  withheld : Bool
  /-- last time the throttle of R488 raised or lowered -/
  throttleAt : Nat
  /-- what tile stores, ledge buffers and VDEs held was lost in standby and is not zeroed yet: the count of free values
  at the loss, from which their contents come (15 R490) -/
  lostAt : Option Nat
  /-- hottest junction sensor of Basecamp and of the stack base dies by stack, in steps of 0.125 °C (15 R504, 10
  R352) -/
  basecampTemp : Int
  baseTemp : SMap Int
  deriving DecidableEq, Repr

/-- Power off, every input low (log entry 6). -/
def Power.reset : Power :=
  { phase := .off, auxOk := false, stage := .fuseLoad, inReset := true, cause := .powerUp, fail := 0,
    failDie := 0xFF, coldRstN := false, perstN := false, warmRstN := true, warmHeld := false,
    strapAddr := 0, strapRopeOff := false, powerGood := false, thermTrip := false,
    standby := .running, standbyAt := 0, limitStep := 0, limitAt := 0, limitHit := 0,
    withheld := false, throttleAt := 0, lostAt := none, basecampTemp := 0, baseTemp := [] }

/-- One voltage island of a Massif die (01 R29, R36; 07 R239, R243). -/
structure Island where
  /-- pace of the latest sample and lowest since the last read, in M handshakes/s -/
  pace : Nat
  paceLow : Nat
  /-- hottest junction sensor in steps of 0.125 °C -/
  temp : Int
  /-- island voltage in mV -/
  mv : Nat
  /-- designated radio (ISLAND_STATE.radio) -/
  radio : Bool
  /-- the governor has taken the island into its hold (R35, R36) -/
  hold : Bool
  /-- ISLAND_STATE.held -/
  held : Bool
  /-- spares of the island that serve a unit of a radio island (R41): how many -/
  spareHolds : Nat
  /-- the held bit has been set since the island was designated: its units count in the capacity (07 R239) -/
  counted : Bool
  /-- a sample since the last governor step lay below floor pace while held was set (07 R243) -/
  under : Bool
  /-- the removal of the designation is under way, and when its longest notice ends (07 R239) -/
  removing : Bool
  removeAt : Nat
  /-- since when samples have stayed at 0.80 V below the raise threshold, ns of `now` (07 R243) -/
  lowSince : Option Nat
  /-- consecutive samples at or above the lowering threshold (07 R243) -/
  highRun : Nat
  /-- since when the hottest sensor has stayed at or above shed_temp, ns of `now` (07 R256) -/
  hotSince : Option Nat
  /-- when the island was taken into its hold -/
  heldAt : Nat
  /-- last voltage raise and last lowering, ns of `now` -/
  raisedAt : Nat
  loweredAt : Nat
  deriving DecidableEq, Repr

/-- An island at cold reset: no voltage, no sample. -/
def Island.reset : Island :=
  { pace := 0, paceLow := 0, temp := 0, mv := 0, radio := false, hold := false, held := false,
    spareHolds := 0, counted := false, under := false, removing := false, removeAt := 0, lowSince := none, highRun := 0,
    hotSince := none, heldAt := 0,
    raisedAt := 0, loweredAt := 0 }

/-- The identity of a die (01 R44). -/
structure DieFuse where
  lot : Nat
  wafer : Nat
  x : Nat
  y : Nat
  stepping : Nat
  ok : Bool
  deriving DecidableEq, Repr

/-- What the fuses of the part hold. No command but the commit of a firmware update changes any of
it (13 R438). -/
structure Fuses where
  /-- 48 GiB a stack, else 24 (00 R1, R2) -/
  big : Bool
  stepping : Nat
  /-- dies by index 0 to 26 (01 R44) -/
  dies : List DieFuse
  /-- per die, the islands that shipped with one spare tile instead of two, at most four
  (01 R39) -/
  tileShort : List (Nat × Nat)
  /-- per die, the islands whose spare VDE is used, at most two (01 R39) -/
  vdeShort : List (Nat × Nat)
  /-- tile positions without a spare, by island 8 d + i (ISLAND_STATE.tiles_retired) -/
  tilesRetired : List (Nat × Nat)
  /-- PORT_CEILING by port, and PORT_PTP_LAT by port and mode, three modes a port (12 R402) -/
  ceiling : List Nat
  ptpLat : List W32
  /-- spare rows and lines used at manufacture, by stack (10 R351) -/
  stackRows : List Nat
  stackLines : List Nat
  /-- SEC_FW_SVN.min_svn (13 R440) -/
  minSvn : Nat
  /-- the hash of the Onarok root public key (13 R434), and the device secret (13 R441) -/
  rootKey : List Byte
  secret : List Byte
  deriving DecidableEq, Repr

/-- A part's fuses where the spec says only that they are fused (log entry 2). -/
def Fuses.shipped : Fuses :=
  { big := true, stepping := 0x10, dies := List.replicate 27 ⟨0, 1, 0, 0, 0x10, true⟩,
    tileShort := [], vdeShort := [], tilesRetired := [], ceiling := List.replicate 8 0x0ED8,
    ptpLat := List.replicate 24 0, stackRows := List.replicate 24 0,
    stackLines := List.replicate 24 0, minSvn := 0, rootKey := List.replicate 32 0, secret := List.replicate 32 0 }

end Sys2Proof.Machine
end

