-- ==== Sys2Proof/Machine/Keys.lean ====
section
/-! DEFINITION. Keys of the security island (13 R441): HMAC and HKDF with SHA-256, the keys that come from the device
secret, the certificates over them (13 R442), and weight packages (13 R452, R453). -/

namespace Sys2Proof.Machine

/-- The key of an HMAC in one block, each byte with a pad (FIPS 198-1). -/
def hmacPad (key : List Byte) (pad : Byte) : List Byte :=
  let k := if 64 < key.length then sha256 key else key
  (k ++ List.replicate (64 - k.length) 0).map (· ^^^ pad)

/-- HMAC-SHA-256 (FIPS 198-1). -/
def hmac (key msg : List Byte) : List Byte :=
  sha256 (hmacPad key 0x5C ++ sha256 (hmacPad key 0x36 ++ msg))

/-- 32 bytes by HKDF with SHA-256 and no salt (RFC 5869), from input and info. -/
def hkdf (input info : List Byte) : List Byte :=
  hmac (hmac (List.replicate 32 0) input) (info ++ [1])

/-- The key pairs of the island (13 R441). -/
inductive KeyUse where
  | deviceId | leaf | binding
  deriving DecidableEq, Repr

def KeyUse.code : KeyUse → Nat
  | .deviceId => 0 | .leaf => 1 | .binding => 2

/-- The private key of a use: HMAC-SHA-256 of the device secret over its label and, for the Alias key, the firmware
measurement and svn (13 R441). -/
def Fuses.key (f : Fuses) (u : KeyUse) (fw : FwImage) : List Byte :=
  let label := BitVec.ofNat 8 u.code :: Config.keyLabel u.code
  hmac f.secret (label ++ (match u with
    | .leaf => fw.digest ++ [BitVec.ofNat 8 fw.svn]
    | _ => []))

/-- The public key of a private one, uncompressed. -/
def publicKey (k : List Byte) : List Byte := 4 :: Config.p256Public k

/-- The key_id of the binding key: the first half of the digest of its uncompressed public key (13 R441). -/
def Fuses.keyId (f : Fuses) (fw : FwImage) : List Byte := (sha256 (publicKey (f.key .binding fw))).take 16

/-- A number as upper-case hexadecimal in a number of digits. -/
def hexDigits (n v : Nat) : List Byte :=
  (List.range n).reverse.map (fun i =>
    let d := v / 16 ^ i % 16
    BitVec.ofNat 8 (if d < 10 then 0x30 + d else 0x37 + d))

/-- The subject serial number of the DeviceID certificate: lot, wafer, x and y of the Basecamp die, with dashes (13
R442). -/
def dieSerial (d : DieFuse) : List Byte :=
  hexDigits 10 d.lot ++ 0x2D :: hexDigits 2 d.wafer ++ 0x2D :: hexDigits 2 d.x ++ 0x2D :: hexDigits 2 d.y

/-- A certificate of a kind, signed by its issuer. -/
def certificate (sgn : List Byte → List Byte) (kind : Nat) (serial pub ext : List Byte) : List Byte :=
  let b := Config.certBody kind serial pub ext
  Config.certOf b (sgn b)

/-- The chain of slot 0 or 1: root, product intermediate, DeviceID, then the Alias with the firmware measurement and svn
in its extension, or the Binding certificate (13 R442). -/
def Fuses.chain (f : Fuses) (fw : FwImage) (slot : Nat) : List Byte :=
  let dev := f.key .deviceId fw
  let serial := match f.dies[0]? with
    | some d => dieSerial d
    | none => []
  let last := if slot = 0 then certificate (Config.ecdsaSign dev) 1 [] (publicKey (f.key .leaf fw))
      (fw.digest ++ [BitVec.ofNat 8 fw.svn])
    else certificate (Config.ecdsaSign dev) 2 [] (publicKey (f.key .binding fw)) []
  Config.rootCert f.rootKey ++ Config.productCert ++ certificate Config.productSign 0 serial (publicKey dev) [] ++ last

-- Weight packages (13 R452, R453).

/-- Bytes of a package from an offset. -/
def slice (bs : List Byte) (o n : Nat) : List Byte := (bs.drop o).take n

/-- Decryption under AES-256-GCM, and whether the tag agrees. -/
def gcmPlain (key iv ct : List Byte) : List Byte :=
  (List.range ct.length).zipWith (fun i b => b ^^^ Config.gcmStream key iv i) ct
def gcmOk (key iv aad ct tag : List Byte) : Bool := decide (Config.gcmTag key iv aad ct = tag)

/-- The entries of a package, 64 bytes each. -/
def pkgEntries (bs : List Byte) : List (List Byte) :=
  (List.range (fromLE (slice bs 4 4))).map (fun i => slice bs (256 + 64 * i) 64)
def pkgBody (bs : List Byte) : List Byte := bs.drop (256 + 64 * fromLE (slice bs 4 4))

/-- Big-endian order of byte strings of one length. -/
def bytesLt (x y : List Byte) : Bool := decide (fromBE x < fromBE y)

/-- The layout of a package: version, counts, sizes, reserved bytes, and entries sorted by key_id (13 R452). -/
def pkgForm (bs : List Byte) : Bool :=
  let n := fromLE (slice bs 4 4)
  let ids := (pkgEntries bs).map (fun e => e.take 16)
  decide (fromLE (slice bs 0 4) = 1) && decide (1 ≤ n) && decide (n ≤ 24576)
  && decide (256 + 64 * n + fromLE (slice bs 8 8) = bs.length) && (slice bs 140 116).all (fun b => decide (b = 0))
  && (ids.zip (ids.drop 1)).all (fun e => bytesLt e.1 e.2)

/-- What the island makes of a package: whether an entry names the device and its key is unwrapped, whether the body's tag
agrees and the plaintext has the digest of the header, and the plaintext (13 R453). -/
structure Opened where
  unwrapped : Bool
  good : Bool
  plain : List Byte
  deriving DecidableEq, Repr

/-- The island opens a package. The key-encryption key of the entry comes by HKDF from the ECDH secret of the ephemeral
key and the binding key, with the key_id as info (13 R452, R453). -/
def Fuses.unseal (f : Fuses) (fw : FwImage) (bs : List Byte) : Opened :=
  let id := f.keyId fw
  match (if pkgForm bs then (pkgEntries bs).find? (fun e => decide (e.take 16 = id)) else none) with
  | none => ⟨false, false, []⟩
  | some e =>
    let kek := hkdf (Config.ecdh (f.key .binding fw) (slice bs 48 64)) id
    let zero := List.replicate 12 (0 : Byte)
    if gcmOk kek zero [] (slice e 16 32) (slice e 48 16) then
      let key := gcmPlain kek zero (slice e 16 32)
      let body := pkgBody bs
      let plain := gcmPlain key (slice bs 112 12) body
      ⟨true, gcmOk key (slice bs 112 12) (slice bs 0 124) body (slice bs 124 16)
        && decide (sha256 plain = slice bs 16 32), plain⟩
    else ⟨false, false, []⟩

end Sys2Proof.Machine
end

