-- ==== Sys2Proof/Machine/RegMap.lean ====
section
/-! DEFINITION. The register map of physical function BAR 0: the block map (09 R308), and for every
register which of its bits software may write, clear by writing one, or clear by reading, with the
reset value the spec gives (00 R14 to R20). Bits that only act when written (W1S, WO) hold no value and
appear in no mask. Registers whose value follows from other state are read through Regs.lean. -/

namespace Sys2Proof.Machine

/-- The masks of one register and its value after cold reset. -/
structure RegDesc where
  /-- bits that a host write sets (RW) -/
  rw : Nat
  /-- bits that a host write of one clears (W1C) -/
  w1c : Nat
  /-- bits that a read clears (RC) -/
  rc : Nat
  /-- the value after cold reset (R20) -/
  reset : Nat
  deriving DecidableEq, Repr

/-- An offset that no register occupies: reads as zero, ignores writes (R16); also the masks of a
register that software can only read and that resets to zero. -/
def regNone : RegDesc := ⟨0, 0, 0, 0⟩

/-- A register all of whose bits in the mask are RW. -/
def regRW (rw reset : Nat) : RegDesc := ⟨rw, 0, 0, reset⟩

/-- A register all of whose bits in the mask are RC. -/
def regRC (rc : Nat) : RegDesc := ⟨0, 0, rc, 0⟩

/-- All 32 bits. -/
def m32 : Nat := 0xFFFF_FFFF

-- Block bases (09 R308).
def aCFG : Nat := 0x01_0000
def aPWR : Nat := 0x02_0000
def aINTC : Nat := 0x03_0000
def aTIME : Nat := 0x04_0000
def aPORT : Nat := 0x05_0000
def aROPE : Nat := 0x06_0000
def aPART : Nat := 0x08_0000
def aRING : Nat := 0x10_0000
def aBELAY : Nat := 0x30_0000
def aEVR : Nat := 0x31_0000
def aSEC : Nat := 0x32_0000
def aADMIN : Nat := 0x40_0000

-- Named registers, by address.
/-- The four registers of a die's identity (01 R44). -/
def aDIE (n : Nat) : Nat := 0x0100 + 0x10 * n
/-- CFG_SPARES_M0 and CFG_SPARES_M1 (01 R39). -/
def aSPARES (d : Nat) : Nat := aCFG + 0x40 + 4 * d
/-- The entry of island i of die d (01 R36). -/
def aISLAND (d i : Nat) : Nat := aPWR + 0x100 + 0x10 * (8 * d + i)
/-- The entry of partition p (08 R272). -/
def aPARTp (p : Nat) : Nat := aPART + 0x400 * p
/-- The entry of ring n (09 R309). -/
def aRINGn (n : Nat) : Nat := aRING + 0x20 * n
/-- The entry of write window n (09 R337). -/
def aWIN (n : Nat) : Nat := aSEC + 0x100 + 0x20 * n
/-- INTC_PEND[n] (09 R341). -/
def aPEND (n : Nat) : Nat := aINTC + 4 * n
/-- INTC_SET[n] (09 R341). -/
def aSET (n : Nat) : Nat := aINTC + 0x200 + 4 * n
/-- INTC_EN[n] (09 R341). -/
def aEN (n : Nat) : Nat := aINTC + 0x400 + 4 * n
/-- INTC_CNT[n] (09 R341). -/
def aCNT (n : Nat) : Nat := aINTC + 0x1000 + 4 * n
/-- INTC_MAP[s] (09 R341). -/
def aMAP (s : Nat) : Nat := aINTC + 0x4000 + 4 * s
/-- The entry of cell c (07 R266). -/
def aCELL (c : Nat) : Nat := aBELAY + 0x1000 + 0x20 * c
/-- The state registers of stack s (10 R351). -/
def aSTACK (s : Nat) : Nat := aCFG + 0x400 + 0x10 * s
/-- The entry of Rope region i (11 R368). -/
def aRGN (i : Nat) : Nat := aROPE + 0x1_0000 + 0x20 * i
/-- The entry of launch gate g (11 R395). -/
def aGATE (g : Nat) : Nat := aROPE + 0x100 + 0x10 * g
/-- The block of port n (12 R402). -/
def aPORTn (n : Nat) : Nat := aPORT + 0x1000 * n
/-- The counters of cell c (12 R410). -/
def aCELLCNT (c : Nat) : Nat := aPORT + 0x8000 + 0x20 * c
/-- The queue registers of partition p (12 R420). -/
def aPQ (p : Nat) : Nat := aPORT + 0xC000 + 0x20 * p
/-- Compare unit u (12 R426). -/
def aCMP (u : Nat) : Nat := aTIME + 0x100 + 0x10 * u
/-- Capture unit c (12 R428). -/
def aCAP (c : Nat) : Nat := aTIME + 0x200 + 0x10 * c
/-- IRQ_STAMP_NS of vector v (12 R429). -/
def aSTAMP (v : Nat) : Nat := aTIME + 0x8000 + 8 * v
/-- Entry n of the allow list (12 R418). -/
def aALLOW (n : Nat) : Nat := aSEC + 0x1000 + 0x10 * n
/-- The scrub record of partition p (13 R456). -/
def aSCRUB (p : Nat) : Nat := aSEC + 0x900 + 0x10 * p
/-- QRATE of queue q on sub-port s of port n; QBURST follows at +4 (12 R413). -/
def aQRATE (n s q : Nat) : Nat := aPORTn n + 0x100 + 0x40 * s + 8 * q
/-- GCL_CTRL of sub-port s of port n (12 R415). -/
def aGCL (n s : Nat) : Nat := aPORTn n + 0x200 + 0x20 * s
/-- GCL_ENTRY[i] of sub-port s of port n (12 R415). -/
def aGCLE (n s i : Nat) : Nat := aPORTn n + 0x400 + 0x100 * s + 4 * i

/-- CFG block: VDE debug selection (06 R221) and the stacks' error counters (10 R351). The other
VDE_ registers show the selected engine and are read through it. -/
def descCFG (o : Nat) : RegDesc :=
  if o = 0x200 then regRW 0x1FF 0
  else if o ≥ 0x400 ∧ o < 0x400 + 0x10 * 24 ∧ o % 0x10 = 4 then regRC m32
  else regNone

/-- PWR block (15 R504, 01 R36). -/
def descPWR (o : Nat) : RegDesc :=
  if o = 0x04 then regRC 0xFFFF
  else if o = 0x08 then regRW 0x3 0
  else if o = 0x0C then regRC 0xFFFF_0000
  else if o = 0x10 then ⟨0x10, 0x0C, 0, 0⟩
  else if o = 0x18 then regRW 0 0x00FF_0000
  else if o ≥ 0x100 ∧ o < 0x200 ∧ o % 0x10 = 0 then regRC 0xFFFF_0000
  else regNone

/-- INTC block (09 R340, R341). Sources 0 and 57 to 63 have no bits. -/
def descINTC (o : Nat) : RegDesc :=
  let live (n : Nat) : Nat := if n = 0 then 0xFFFF_FFFE else if n = 1 then 0x01FF_FFFF else m32
  if o < 0x200 then ⟨0, live (o / 4), 0, 0⟩
  else if o ≥ 0x400 ∧ o < 0x600 then regRW (live ((o - 0x400) / 4)) 0
  else if o ≥ 0x1000 ∧ o < 0x2000 then regRC m32
  else if o ≥ 0x4000 ∧ o < 0x8000 then regRW 0x1_07FF 0
  else regNone

/-- TIME block (12 R421, R426, R428). -/
def descTIME (o : Nat) : RegDesc :=
  if o = 0x28 then regRW m32 0xFA0
  else if o = 0x2C then regRW 0xFF01 0x1801
  else if o = 0x30 then regRW 0x3FFF_FFFF 0
  else if o = 0x34 then regRW m32 0
  else if o = 0x38 then regRW 0xFFFF 0
  else if o ≥ 0x100 ∧ o < 0x200 then
    (if o % 0x10 = 0 then regRW 0x3FFF_FFFF 0
     else if o % 0x10 = 4 then regRW m32 0
     else if o % 0x10 = 8 then regRW 0x3FFF_FFFF 0
     else ⟨0x000F_FC01, 0x0C, 0, 0x1000⟩)
  else if o ≥ 0x200 ∧ o < 0x280 ∧ o % 0x10 = 8 then regRW 0x01FF_000E 0
  else regNone

/-- One port's block (12 R402, R413, R415). -/
def descPortBlock (o : Nat) : RegDesc :=
  if o = 0 then regRW 0xFF0F 0x1400
  else if o = 4 then ⟨0, 0xF0, 0, 0⟩
  else if o = 8 then regRW m32 0
  else if o = 0xC then regRW 0xFFFF 0
  else if o = 0x18 then regRW 0x1FF 0
  else if o ≥ 0x20 ∧ o < 0x30 then regRW m32 0
  else if o ≥ 0x80 ∧ o < 0x9C then regRC m32
  else if o ≥ 0x100 ∧ o < 0x200 then
    (if o % 8 = 0 then regRW 0x8007_FFFF 0 else regRW 0x00FF_FFFF 0x2414)
  else if o ≥ 0x200 ∧ o < 0x280 then
    (if o % 0x20 = 0 then regRW 0x00FF_0001 0x0001_0000
     else if o % 0x20 = 4 then regRW m32 0x000F_4240
     else if o % 0x20 = 8 then regRW 0x3FFF_FFFF 0
     else if o % 0x20 = 0xC then regRW m32 0
     else regNone)
  else if o ≥ 0x400 ∧ o < 0x800 then regRW m32 0xFF00_0000
  else regNone

/-- PORT block: eight ports, the cells' counters and the partition queues (12 R402, R410, R420). -/
def descPORT (o : Nat) : RegDesc :=
  if o < 0x8000 then descPortBlock (o % 0x1000)
  else if o < 0x8000 + 0x20 * 384 then regRC m32
  else if o ≥ 0xC000 ∧ o < 0xC800 then
    (if o % 0x20 = 0 then regRW 0xBFC0_0FFF 0
     else if o % 0x20 = 4 ∨ o % 0x20 = 8 then regRW m32 0
     else if o % 0x20 = 0xC then regRW m32 0x0010_0010
     else if o % 0x20 = 0x10 then regRC m32
     else regNone)
  else regNone

/-- ROPE block (11 R398, R395, R368). Key words hold no readable value and are kept apart. -/
def descROPE (o : Nat) : RegDesc :=
  if o = 4 then regRW 0x5 0x1
  else if o = 0xC then ⟨0, 0xFFFF_0000, 0, 0⟩
  else if o = 0x20 then regRW 0xFFFF 0x100
  else if o = 0x2C then regRC m32
  else if o ≥ 0x100 ∧ o < 0x200 then
    (if o % 0x10 = 0 ∨ o % 0x10 = 4 then regRW m32 0
     else if o % 0x10 = 8 then ⟨0x1_FFFF, 0x6_0000, 0, 0⟩
     else regNone)
  else if o ≥ 0x1_0000 ∧ o < 0x2_0000 then
    (if o % 0x20 = 0 then regRW 0x00FF_7FFD 0
     else if o % 0x20 = 4 ∨ o % 0x20 = 8 then regRW m32 0
     else if o % 0x20 = 0xC then regRW 0x07FF_7FFF 0
     else regNone)
  else regNone

/-- One partition's entry (08 R272). -/
def descPartEntry (o : Nat) : RegDesc :=
  if o = 0 then regRW 0x0D 0
  else if o = 0x08 then regRW 0x1FF 1
  else if o = 0x0C then regRW 0x7FF 0
  else if o = 0x10 then regRW 0x7FF 0x7D0
  else if o = 0x14 then regRW 0x3FFF_FFFF 0
  else if o = 0x18 then regRW 0x0FFF_07FF 0
  else if o = 0x1C then regRW 0x7F7F_7F7F 0
  else if o = 0x20 then regRW m32 0
  else if o = 0x24 then regRW 0xFFFF 0
  else if o = 0x28 then regRW m32 0
  else if o = 0x2C then regRW 0x1FFF 1
  else if o = 0x30 then regRW 0xFFFF_FF80 0
  else if o = 0x34 then regRW m32 0
  else if o ≥ 0x40 ∧ o < 0x58 then regRW m32 0
  else if o ≥ 0x60 ∧ o < 0x78 then regRW m32 0
  else if o ≥ 0x80 ∧ o < 0x8C then regRW m32 0
  else if o ≥ 0x90 ∧ o < 0x9C then regRW m32 0
  else if o = 0xA0 ∨ o = 0xA4 then regRW m32 0
  else if o = 0xB0 ∨ o = 0xB4 ∨ o = 0xB8 then regRW m32 0
  else if o = 0xC0 then regRC m32
  else regNone

/-- RING block: one 32-byte entry a ring (09 R311). -/
def descRingEntry (n o : Nat) : RegDesc :=
  if o = 0 ∨ o = 8 then regRW 0xFFFF_F000 0
  else if o = 4 ∨ o = 0xC ∨ o = 0x14 then regRW m32 0
  else if o = 0x10 then regRW 0xFFFF_FFF8 0
  else if o = 0x18 then (if n = 0 then regRW 0x801F_FFFE 0x6000_0000 else regRW 0xE01F_FFFE 0)
  else regNone

/-- BELAY block (07 R264 to R266). -/
def descBELAY (o : Nat) : RegDesc :=
  if o = 0 then regRW 0xFFFF 0
  else if o = 4 then ⟨0, 0x04FF_FF00, 0, 0⟩
  else if o = 8 then regRW 0x1F1F_7F7F 0
  else if o = 0xC then regRW 0x7F 0x5A
  else if o = 0x10 then regRW 0x0FFF_0FFF 0x0338_0320
  else if o ≥ 0x1000 ∧ o < 0x1000 + 0x20 * 384 then
    (if o % 0x20 = 4 then regRW 0x7 4
     else if o % 0x20 = 0x1C then regRC m32
     else regNone)
  else regNone

/-- EVR block (14 R480). -/
def descEVR (o : Nat) : RegDesc :=
  if o = 0 then regRW 0x3 1
  else if o = 0xC then regRC m32
  else if o = 0x10 then regRW 0x1FF 0
  else if o = 0x20 ∨ o = 0x24 then regRC m32
  else regNone

/-- SEC block (09 R337, 12 R418, 13 R440, R451, R456). -/
def descSEC (o : Nat) : RegDesc :=
  if o = 0xC then regRC m32
  else if o ≥ 0x100 ∧ o < 0x900 then
    (if o % 0x20 = 0 ∨ o % 0x20 = 8 then regRW 0xFFFF_F000 0
     else if o % 0x20 = 4 ∨ o % 0x20 = 0xC then regRW m32 0
     else if o % 0x20 = 0x10 then regRW 0x8000_007F 0
     else regNone)
  else if o ≥ 0x1000 ∧ o < 0x5000 then
    (if o % 0x10 = 0 then regRW m32 0
     else if o % 0x10 = 4 then regRW 0xFFFF 0
     else if o % 0x10 = 8 then regRW 0xCFFF_00FF 0
     else regNone)
  else regNone

/-- The masks and reset value of the register at a byte address of PF BAR 0. -/
def regDesc (a : Nat) : RegDesc :=
  if a % 4 ≠ 0 then regNone
  else if a < aCFG then regNone
  else if a < aPWR then descCFG (a - aCFG)
  else if a < aINTC then descPWR (a - aPWR)
  else if a < aTIME then descINTC (a - aINTC)
  else if a < aPORT then descTIME (a - aTIME)
  else if a < aROPE then descPORT (a - aPORT)
  else if a < aPART then descROPE (a - aROPE)
  else if a < aPART + 0x1_0000 then descPartEntry ((a - aPART) % 0x400)
  else if a < aRING then regNone
  else if a < aBELAY then descRingEntry ((a - aRING) / 0x20) ((a - aRING) % 0x20)
  else if a < aEVR then descBELAY (a - aBELAY)
  else if a < aSEC then descEVR (a - aEVR)
  else if a < aADMIN then descSEC (a - aSEC)
  else if a = aADMIN ∨ a = aADMIN + 4 then regRW 0xFFFF 0
  else regNone

/-- What a register holds after cold reset (00 R20). -/
def regReset (a : Nat) : W32 := BitVec.ofNat 32 (regDesc a).reset

/-- The address is the low word of a 64-bit register (00 R14). -/
def pairLow (a : Nat) : Bool :=
  if a < 0x100 then false
  else if a < aDIE 27 then decide (a % 0x10 = 0)
  else if a = aTIME + 0x10 then true
  else if a ≥ aPORT ∧ a < aPORT + 0x8000 then decide (a % 0x1000 = 8)
  else if a = aROPE + 0x24 ∨ a = aROPE + 0x48 then true
  else if a ≥ aGATE 0 ∧ a < aGATE 16 then decide (a % 0x10 = 0)
  else if a ≥ aRGN 0 ∧ a < aRGN 2048 then decide (a % 0x20 = 0x10)
  else if a ≥ aPART ∧ a < aPART + 0x1_0000 then decide (a % 0x400 = 0x20 ∨ a % 0x400 = 0x30)
  else if a ≥ aRING ∧ a < aBELAY then decide (a % 0x20 = 0 ∨ a % 0x20 = 8 ∨ a % 0x20 = 0x10)
  else if a = aSEC + 4 then true
  else if a ≥ aWIN 0 ∧ a < aWIN 64 then decide (a % 0x20 = 0 ∨ a % 0x20 = 8)
  else if a ≥ aSCRUB 0 ∧ a < aSCRUB 64 then decide (a % 0x10 = 8)
  else if a ≥ aALLOW 0 ∧ a < aALLOW 1024 then decide (a % 0x10 = 0)
  else false

/-- The address is the high word of a 64-bit register. -/
def pairHigh (a : Nat) : Bool := decide (4 ≤ a) && pairLow (a - 4)

end Sys2Proof.Machine
end

