-- ==== Sys2Proof/Machine/StVde.lean ====
section
/-! DEFINITION. State of the vector DSP engines (06 R198, R205 to R222): registers, address generators,
loop levels, the complex array, writes that have not landed, and the halt machinery. -/

namespace Sys2Proof.Machine

/-- An address generator: its 16-byte configuration and its index j (06 R214, R215). -/
structure Ag where
  cfg : List W32
  j : Int
  deriving DecidableEq, Repr

def Ag.reset : Ag := ⟨[0, 0, 0, 0], 0⟩

/-- A loop level: iterations still to run, whether it runs, first and last op of its body (06 R216,
R221). -/
structure LoopLevel where
  remaining : Nat
  active : Bool
  start : Nat
  last : Nat
  deriving DecidableEq, Repr

def LoopLevel.reset : LoopLevel := ⟨0, false, 0, 0⟩

/-- A write that an op has issued (06 R205, R206). -/
inductive VWrite where
  | vec (d : Nat) (lanes : List W64)
  /-- an accumulator written -/
  | acc (d : Nat) (vals : List (Int × Int))
  /-- a product added in the last slot -/
  | mac (d : Nat) (vals : List (Int × Int))
  | scal (d : Nat) (v : W64)
  /-- 16 bits of a scalar register -/
  | part (d i : Nat) (v : Nat)
  /-- the array's banks swap: the new completed bank -/
  | swap (bank : List Elem) (float : Bool)
  deriving DecidableEq, Repr

/-- An issued write, with the slot at whose end it lands. -/
structure Pend where
  slot : Nat
  write : VWrite
  deriving DecidableEq, Repr

/-- An op list that an engine runs (06 R202, R203). -/
structure VRun where
  kernel : Nat
  ops : List (W32 × W32)
  table : List (List W32)
  listId : Nat
  saveEn : Bool
  saveLoc : Nat
  saveOff : Nat
  deriving DecidableEq, Repr

/-- Why an engine is frozen (06 R207). -/
inductive Freeze where
  | none
  /-- a FENCE waits for the visibility of earlier stores -/
  | fence
  /-- an AMM waits for the array -/
  | array
  deriving DecidableEq, Repr

/-- A vector DSP engine. -/
structure Vde where
  v : List (List W64)
  a : List (List (Int × Int))
  s : List W64
  ag : List Ag
  loops : List LoopLevel
  /-- the completed and the working bank of the array, and whether they hold floats -/
  done : List Elem
  work : List Elem
  doneF : Bool
  workF : Bool
  pend : List Pend
  /-- issue slots so far in the list -/
  slot : Nat
  pc : Nat
  run : Option VRun
  freeze : Freeze
  haltReq : Bool
  halted : Bool
  stepping : Bool
  cause : Nat
  refused : Bool
  sat : Nat
  nan : Nat
  /-- stores that have issued and that only the engine itself sees yet, in the order of issue (06 R208) -/
  stores : List HeldStore
  /-- what memory held before each store of the list that is visible, the latest first: a list that is
  abandoned with its engine leaves none of its output (01 R39) -/
  undo : List HeldStore
  deriving DecidableEq, Repr

def zeroBank : List Elem := List.replicate 64 Elem.zero

/-- An engine whose state is all zero. -/
def Vde.reset : Vde :=
  { v := List.replicate 16 (List.replicate 32 0), a := List.replicate 4 (List.replicate 32 (0, 0)),
    s := List.replicate 8 0, ag := List.replicate 4 Ag.reset, loops := List.replicate 3 LoopLevel.reset,
    done := zeroBank, work := zeroBank, doneF := false, workF := false, pend := [], slot := 0, pc := 0,
    run := none, freeze := .none, haltReq := false, halted := false, stepping := false, cause := 0,
    refused := false, sat := 0, nan := 0, stores := [], undo := [] }

end Sys2Proof.Machine
end

