-- ==== Sys2Proof/Machine/State.lean ====
section
/-! DEFINITION. The state of the device: every register, memory, queue, counter, mode and pin the
spec gives it, as plain data, with the queue of commands that wait. -/

namespace Sys2Proof.Machine

/-- Why the machine stops. -/
inductive Fault where
  /-- Raised by a CXL.mem access outside the existing stack memory (09 R306): the address does not
  exist. Safe: the model stops where the spec gives no effect. -/
  | noSuchAddress (addr : Nat)
  deriving DecidableEq, Repr

/-- Why a command has no meaning. -/
inductive Refusal where
  /-- Raised by the dispatch for a row whose meaning is not written. Safe: the model stops. -/
  | notModelled (mnemonic : String)
  deriving DecidableEq, Repr

/-- What leaves the device and is no write to host memory. -/
inductive Out where
  /-- an MSI-X message: function (0 the physical function, p + 1 virtual function p + 1), entry -/
  | msix (fn entry : Nat)
  /-- an error response without data to a CXL.mem read -/
  | cxlError
  /-- the data of a CXL.mem read -/
  | memData (bytes : List Byte)
  /-- an indication or response queued on an indication ring -/
  | ind (ring : Nat) (msg : IndMsg)
  /-- a frame that starts on a sub-port -/
  | frame (port sub : Nat) (f : Frame)
  /-- a Rope message -/
  | rope (m : RopeMsg)
  /-- an answer of the SPDM mailbox of a function: 0 the physical function, p + 1 virtual function p + 1 -/
  | spdm (fn : Nat) (r : SpdmReply)
  /-- the answer to a read of the management interface (15 R500) -/
  | mgmt (w : W32)
  /-- Configuration Request Retry Status, to a configuration request before boot has ended (15 R483) -/
  | configRetry
  deriving DecidableEq, Repr

structure State where
  /-- commands that wait, first in, first out -/
  pending : List Instr
  fuses : Fuses
  /-- the register file, by PF BAR 0 address (00 R14 to R20) -/
  regs : SMap W32
  /-- staging words of 64-bit registers, by the low word's address (00 R14) -/
  staged : SMap (Option W32)
  /-- latched high words, by the high word's address (00 R14, 12 R421) -/
  latched : SMap (Option W32)
  /-- the word the last read returned -/
  rdata : W32
  /-- ns since the device was built: the base of every duration -/
  now : Nat
  /-- the local clock in ns (12 R421) -/
  clk : Nat
  /-- count of free values drawn -/
  free : Nat
  /-- host memory as the device wrote it (09 R337, R338) -/
  host : SMap Byte
  /-- stack memory in the layout of the CXL.mem range (09 R306) -/
  stack : SMap Byte
  /-- weight stores, activation stages and ledge buffers (03 R96) -/
  tileW : SMap Byte
  tileA : SMap Byte
  ledge : SMap Byte
  /-- uncorrectable 64-byte blocks of stack memory, by block number (10 R350) -/
  ue : List Nat
  /-- blocks of stack memory that hold an error which the code corrects at every read (10 R346) -/
  weak : List Nat
  stackSt : Stacks
  /-- MSI-X tables and pending bit arrays, by function and entry (09 R308, R342) -/
  msixT : SMap W32
  pba : SMap Bool
  /-- sources whose message such a bit holds, with the vector (09 R340, R342) -/
  msixHeld : List (Nat × Nat)
  /-- what left the device, newest first -/
  outs : List Out
  /-- width and rate in GT/s at which the host link trained (09 R304, R305) -/
  cxlLink : Nat × Nat
  power : Power
  /-- voltage islands by 8 d + i -/
  islands : SMap Island
  units : Units
  summit : Summit
  rings : SMap Ring
  /-- admin events that wait for room in ring 0 (09 R328, R329) -/
  adminEvents : List EventEntry
  parts : SMap Part
  /-- control traffic of the partitions (13 R458) -/
  ctl : SMap CtlBucket
  kernels : List Kernel
  nextKernel : Nat
  /-- vector DSP engines by 96 d + number (06 R198) -/
  vdes : SMap Vde
  /-- leases, the latest granted last (07 R253) -/
  leases : List Lease
  radio : Radio
  ports : Ports
  rope : Rope
  sec : Sec
  /-- units and half-stacks whose scrub could not be completed (13 R455) -/
  withheldUnits : List UnitId
  withheldHalves : List Nat
  /-- ledge units whose scrub could not be completed: die and unit of 1 MiB (13 R455) -/
  withheldLedge : List (Nat × Nat)
  /-- virtual functions the physical function has enabled (08 R267) -/
  numVfs : Nat
  deriving DecidableEq, Repr

/-- What an unlisted byte reads as: stack memory, tile stores and ledge buffers are zeroed at reset
(15 R486); host memory that nothing wrote reads as zero (log entry 3). -/
def byteZero (_ : Nat) : Byte := 0

/-- The MSI-X table after reset: every vector masked (PCI Express; log entry 8). -/
def msixReset (k : Nat) : W32 := if k % 16 = 12 then 1 else 0

/-- The machine after cold reset, with its supplies still off (00 R20, 15 R483, R486). -/
def State.reset : State :=
  { pending := [], fuses := Fuses.shipped, regs := [], staged := [], latched := [], rdata := 0,
    now := 0, clk := 0, free := 0, host := [], stack := [], tileW := [], tileA := [], ledge := [],
    ue := [], weak := [], stackSt := Stacks.reset, msixT := [], pba := [], msixHeld := [], outs := [], cxlLink := (0, 0), power := Power.reset, islands := [],
    units := Units.reset, summit := Summit.reset, rings := [], adminEvents := [], parts := [], ctl := [],
    kernels := [], nextKernel := 0, vdes := [], leases := [],
    radio := Radio.reset, ports := Ports.reset, rope := Rope.reset,
    sec := Sec.reset,
    withheldUnits := [], withheldHalves := [], withheldLedge := [], numVfs := 0 }

end Sys2Proof.Machine
end

