-- ==== Sys2Proof/Machine/Ops.lean ====
section
/-! DEFINITION. The named operations over the state that every meaning is written with: registers,
memories, time, the numbered units, and the address spaces of partitions. -/

namespace Sys2Proof.Machine

-- Registers (00 R14 to R20).

/-- The stored value of a register. -/
def State.reg (s : State) (a : Nat) : W32 := SMap.get regReset s.regs a

/-- Set the stored value of a register. -/
def State.setReg (s : State) (a : Nat) (v : W32) : State :=
  { s with regs := SMap.put regReset s.regs a v }

/-- Bits `hi`:`lo` of a register. -/
def State.rf (s : State) (a hi lo : Nat) : Nat := field (s.reg a) hi lo

/-- Set bits `hi`:`lo` of a register. -/
def State.setRf (s : State) (a hi lo v : Nat) : State := s.setReg a (setField (s.reg a) hi lo v)

/-- Bit `i` of a register. -/
def State.rbit (s : State) (a i : Nat) : Bool := bitOf (s.reg a) i

/-- Set bit `i` of a register. -/
def State.setRbit (s : State) (a i : Nat) (b : Bool) : State := s.setReg a (setBit (s.reg a) i b)

/-- The 64-bit register whose low word is at `a` (00 R14). -/
def State.reg64 (s : State) (a : Nat) : Nat :=
  (s.reg a).toNat + 2 ^ 32 * (s.reg (a + 4)).toNat

/-- Add to a field that saturates at all ones. -/
def State.bumpRf (s : State) (a hi lo n : Nat) : State :=
  s.setRf a hi lo (satAdd (2 ^ (hi + 1 - lo) - 1) (s.rf a hi lo) n)

/-- Apply a host write to the stored bits of a register: RW bits take the value, W1C bits written as
one clear, every other bit stays (00 R17, R18). -/
def State.applyWrite (s : State) (a : Nat) (v : W32) : State :=
  let d := regDesc a
  let old := s.reg a
  let rw := BitVec.ofNat 32 d.rw
  let w1c := BitVec.ofNat 32 d.w1c
  s.setReg a (((old &&& ~~~rw) ||| (v &&& rw)) &&& ~~~(v &&& w1c))

/-- Clear the RC bits of a register, as a read does (00 R18). -/
def State.clearRC (s : State) (a : Nat) : State :=
  s.setReg a (s.reg a &&& ~~~(BitVec.ofNat 32 (regDesc a).rc))

-- Time (12 R421).

/-- PTP time in ns, as 64-bit records hold it. -/
def State.ptp (s : State) : Nat := s.clk % 2 ^ 64

/-- The nanoseconds field of the local clock. -/
def State.clkNs (s : State) : Nat := s.clk % 1_000_000_000

/-- The 48-bit seconds field of the local clock. -/
def State.clkSec (s : State) : Nat := s.clk / 1_000_000_000 % 2 ^ 48

/-- Microseconds that have passed since `t`. -/
def State.usSince (s : State) (t : Nat) : Nat := (s.now - t) / 1000

-- Numbered units.

def State.ring (s : State) (n : Nat) : Ring := SMap.get (fun _ => Ring.reset) s.rings n
def State.setRing (s : State) (n : Nat) (r : Ring) : State :=
  { s with rings := SMap.put (fun _ => Ring.reset) s.rings n r }
def State.part (s : State) (p : Nat) : Part := SMap.get (fun _ => Part.reset) s.parts p
def State.setPart (s : State) (p : Nat) (x : Part) : State :=
  { s with parts := SMap.put (fun _ => Part.reset) s.parts p x }
def State.island (s : State) (d i : Nat) : Island :=
  SMap.get (fun _ => Island.reset) s.islands (8 * d + i)
def State.setIsland (s : State) (d i : Nat) (x : Island) : State :=
  { s with islands := SMap.put (fun _ => Island.reset) s.islands (8 * d + i) x }
def Part.ctx (x : Part) (c : Nat) : Ctx := SMap.get (fun _ => Ctx.reset) x.ctxs c
def Part.setCtx (x : Part) (c : Nat) (y : Ctx) : Part :=
  { x with ctxs := SMap.put (fun _ => Ctx.reset) x.ctxs c y }
def State.ctx (s : State) (p c : Nat) : Ctx := (s.part p).ctx c
def State.setCtx (s : State) (p c : Nat) (y : Ctx) : State := s.setPart p ((s.part p).setCtx c y)

-- Engines.

def State.vde (s : State) (die n : Nat) : Vde := SMap.get (fun _ => Vde.reset) s.vdes (96 * die + n)
def State.setVde (s : State) (die n : Nat) (e : Vde) : State :=
  { s with vdes := SMap.put (fun _ => Vde.reset) s.vdes (96 * die + n) e }

-- Sub-ports (12 R401).

def State.sub (s : State) (port sub : Nat) : SubPort :=
  SMap.get (fun _ => SubPort.reset) s.ports.subs (4 * port + sub)
def State.setSub (s : State) (port sub : Nat) (x : SubPort) : State :=
  { s with ports := { s.ports with
      subs := SMap.put (fun _ => SubPort.reset) s.ports.subs (4 * port + sub) x } }

/-- Queued frames that meet a condition leave every egress queue. -/
def State.dropFrames (s : State) (f : Frame → Bool) : State :=
  s.ports.subs.foldl (fun t e =>
    t.setSub (e.1 / 4) (e.1 % 4) { e.2 with frames := e.2.frames.filter (fun x => !(f x)) }) s

/-- A frame belongs to the cell and to one of its slots that meet a condition. -/
def Frame.ofCell (f : Frame) (c : Nat) (p : Nat → Bool) : Bool :=
  match f.what with
  | .cplane x n _ _ => decide (x = c) && p n
  | .uplane x n _ _ => decide (x = c) && p n
  | _ => false

/-- The frame is of the downlink of a cell's slot, or of its uplink. -/
def Frame.ofDl (f : Frame) (c n : Nat) : Bool :=
  match f.what with
  | .cplane d k _ ul => !ul && decide (d = c) && decide (k = n)
  | .uplane d k _ _ => decide (d = c) && decide (k = n)
  | _ => false
def Frame.ofUl (f : Frame) (c n : Nat) : Bool :=
  match f.what with
  | .cplane d k _ ul => ul && decide (d = c) && decide (k = n)
  | _ => false

/-- A frame of partition p's queue. -/
def Frame.ofPart (f : Frame) (p : Nat) : Bool :=
  match f.what with
  | .part q _ => decide (q = p)
  | _ => false

-- Mailboxes (13 R443, R448).

def State.box (s : State) (fn : Nat) : Mailbox := SMap.get (fun _ => Mailbox.reset) s.sec.boxes fn
def State.setBox (s : State) (fn : Nat) (m : Mailbox) : State :=
  { s with sec := { s.sec with boxes := SMap.put (fun _ => Mailbox.reset) s.sec.boxes fn m } }

/-- Every session of a mailbox ends (13 R448). -/
def State.endSessions (s : State) (fn : Nat) : State := s.setBox fn { s.box fn with sessions := [] }

-- Memories.

/-- Bytes of a weight store and of an activation stage (03, intro). -/
def weightBytes : Nat := 3 * 2 ^ 20
def stageBytes : Nat := 2 ^ 20
/-- Bytes of a die's ledge buffer. -/
def ledgeBytes : Nat := 96 * 2 ^ 20

/-- Key of byte `off` of a logical tile's weight store. -/
def weightKey (die tile off : Nat) : Nat := (192 * die + tile) * weightBytes + off
/-- Key of byte `off` of a logical tile's activation stage. -/
def stageKey (die tile off : Nat) : Nat := (192 * die + tile) * stageBytes + off
/-- Key of byte `off` of a die's ledge buffer. -/
def ledgeKey (die off : Nat) : Nat := die * ledgeBytes + off

/-- The on-die memories by number; stack memory is none of them. -/
def Space.num : Space → Nat
  | .stack => 0 | .weight => 1 | .act => 2 | .ledge => 3

/-- Bytes of an on-die memory against what it lost in standby, whose contents stay free values until they are zeroed
(15 R490): between what the map lists and what the memory holds. -/
def State.lostMask (s : State) (sp : Space) (a : Nat) (bs : List Byte) : List Byte :=
  match s.power.lostAt with
  | none => bs
  | some n => (bs.zipIdx).map (fun e => e.1 ^^^ Config.lostByte n sp.num (a + e.2))

/-- Read `n` bytes of a memory. -/
def State.readMem (s : State) (sp : Space) (a n : Nat) : List Byte :=
  match sp with
  | .stack => SMap.getList byteZero s.stack a n
  | .weight => s.lostMask sp a (SMap.getList byteZero s.tileW a n)
  | .act => s.lostMask sp a (SMap.getList byteZero s.tileA a n)
  | .ledge => s.lostMask sp a (SMap.getList byteZero s.ledge a n)

/-- One byte of a memory. -/
def State.byteAt (s : State) (sp : Space) (a : Nat) : Byte :=
  match sp with
  | .stack => SMap.get byteZero s.stack a
  | sp => (s.readMem sp a 1).getD 0 0

/-- The 64-byte blocks a byte range touches, and those it covers whole (10 R350). -/
def blocksTouched (a n : Nat) : List Nat :=
  if n = 0 then [] else (List.range ((a + n - 1) / 64 - a / 64 + 1)).map (· + a / 64)
def blocksWhole (a n : Nat) : List Nat :=
  (blocksTouched a n).filter (fun b => decide (a ≤ 64 * b) && decide (64 * b + 64 ≤ a + n))

/-- The block holds a byte of the range. -/
def blockIn (b a n : Nat) : Bool := decide (64 * b < a + n) && decide (a < 64 * b + 64)

/-- A read of the range meets an uncorrectable block of stack memory: the first one. -/
def State.ueInRead (s : State) (a n : Nat) : Option Nat :=
  s.ue.find? (fun b => decide (64 * b < a + n) && decide (a < 64 * b + 64))

/-- A write of the range meets an uncorrectable block that it does not cover whole. -/
def State.ueInWrite (s : State) (a n : Nat) : Option Nat :=
  s.ue.find? (fun b => decide (64 * b < a + n) && decide (a < 64 * b + 64)
    && !(decide (a ≤ 64 * b) && decide (64 * b + 64 ≤ a + n)))

/-- Write bytes to a memory. A whole block of stack memory written ends its uncorrectable
condition (10 R350); any write gives its block new check bytes, which ends an error that the code corrects. -/
def State.writeMem (s : State) (sp : Space) (a : Nat) (bs : List Byte) : State :=
  match sp with
  | .stack =>
    { s with
      stack := SMap.putList byteZero s.stack a bs
      ue := s.ue.filter (fun b => !(decide (a ≤ 64 * b) && decide (64 * b + 64 ≤ a + bs.length)))
      weak := s.weak.filter (fun b => !(blockIn b a bs.length)) }
  | .weight => { s with tileW := SMap.putList byteZero s.tileW a (s.lostMask sp a bs) }
  | .act => { s with tileA := SMap.putList byteZero s.tileA a (s.lostMask sp a bs) }
  | .ledge => { s with ledge := SMap.putList byteZero s.ledge a (s.lostMask sp a bs) }

/-- Zero a range of a memory (13 R455). -/
def State.zeroMem (s : State) (sp : Space) (a n : Nat) : State :=
  match sp with
  | .stack =>
    { s with
      stack := SMap.clearRange s.stack a n
      ue := s.ue.filter (fun b => !(decide (a ≤ 64 * b) && decide (64 * b + 64 ≤ a + n)))
      weak := s.weak.filter (fun b => !(blockIn b a n)) }
  | .weight | .act | .ledge =>
    if s.power.lostAt.isSome then s.writeMem sp a (List.replicate n 0)
    else
      match sp with
      | .weight => { s with tileW := SMap.clearRange s.tileW a n }
      | .act => { s with tileA := SMap.clearRange s.tileA a n }
      | _ => { s with ledge := SMap.clearRange s.ledge a n }

/-- Whatever standby lost is zeroed, before a partition is enabled (15 R490): what idle engines and the on-die memories
hold (log entry 18). -/
def State.zeroLost (s : State) : State :=
  if s.power.lostAt.isSome then
    { s with
      tileW := [], tileA := [], ledge := [], vdes := s.vdes.filter (fun e => e.2.run.isSome)
      power := { s.power with lostAt := none } }
  else s

/-- Write bytes to host memory; the write windows are checked by the caller (09 R338). -/
def State.putHost (s : State) (a : Nat) (bs : List Byte) : State :=
  { s with host := SMap.putList byteZero s.host a bs }

-- The device answers the host (15 R483): boot has ended and no reset holds.

/-- The device answers host accesses. -/
def State.up (s : State) : Bool := decide (s.power.stage = .running) && !s.power.inReset

/-- A configuration request that arrives before the boot has ended is told to retry (15 R483). -/
def State.configured (s : State) (f : State → State) : State :=
  if s.up then f s
  else if (decide (s.power.stage = .selfTest) || decide (s.power.stage = .boot)) && !s.power.inReset then
    { s with outs := .configRetry :: s.outs }
  else s

/-- The device is running and neither in standby nor on its way into or out of it (15 R489 to
R491), and no watchdog quiesce holds (13 R433): work proceeds. -/
def State.awake (s : State) : Bool :=
  s.up && decide (s.power.standby = .running) && !s.sec.quiesced

/-- Frames and messages move on the ports: the device is up, and no watchdog quiesce holds (13 R433,
15 R490). -/
def State.portsLive (s : State) : Bool := s.up && !s.sec.quiesced

/-- A wake event (15 R491, R492): standby turns into waking, an entry under way is abandoned. -/
def State.wake (s : State) : State :=
  match s.power.standby with
  | .standby => { s with power := { s.power with standby := .waking, standbyAt := s.now } }
  | .entering =>
    { s with power := { s.power with standby := .running } }.setRbit (aPWR + 0x10) 3 true
  | _ => s

/-- A firmware update is activating: the island itself supplies the heartbeat (13 R433), and writes to the PART
and BELAY blocks are ignored (13 R438). -/
def State.activating (s : State) : Bool := decide (s.sec.fw = .activating)

-- Sizes of the part (00 R1, 09 R306).

/-- Bytes of a half-stack. -/
def State.halfBytes (s : State) : Nat := if s.fuses.big then 24 * 2 ^ 30 else 12 * 2 ^ 30

/-- Bytes of the CXL.mem range. -/
def State.memBytes (s : State) : Nat := 48 * s.halfBytes

-- What partitions own (08 R268, R270, R272).

/-- The partition is enabled: it owns what its registers name (08 R271, R295). -/
def State.enabled (s : State) (p : Nat) : Bool := decide ((s.part p).state ≠ .disabled)

/-- The enabled partitions, in increasing number. -/
def State.enabledParts (s : State) : List Nat := (List.range 64).filter (fun p => s.enabled p)

/-- Bit `i` of a register vector that starts at address `a`. -/
def State.vecBit (s : State) (a i : Nat) : Bool := s.rbit (a + 4 * (i / 32)) (i % 32)

/-- The register of partition p that holds its units of a class on a die, with the number of units
of the class on a die (08 R272). -/
def unitReg (p die : Nat) (c : EngineClass) : Option (Nat × Nat) :=
  match c with
  | .tile => some (aPARTp p + (if die = 0 then 0x40 else 0x60), 192)
  | .vde => some (aPARTp p + (if die = 0 then 0x80 else 0x90), 96)
  | .fft => some (aPARTp p + (if die = 0 then 0xA0 else 0xA4), 32)
  | _ => none

/-- The registers of partition p name the unit. -/
def State.named (s : State) (p : Nat) (u : UnitId) : Bool :=
  match unitReg p u.die u.cls with
  | some (a, n) => decide (u.num < n) && s.vecBit a u.num
  | none => false

/-- A unit that partition p has added without a check is named by another enabled partition too: it is not p's (08
R268). -/
def State.contested (s : State) (p : Nat) (u : UnitId) : Bool :=
  decide (u ∈ (s.part p).added) && s.enabledParts.any (fun q => decide (q ≠ p) && s.named q u)

/-- Enabled partition p owns the unit. -/
def State.owns (s : State) (p : Nat) (u : UnitId) : Bool := s.enabled p && s.named p u && !(s.contested p u)

/-- The units of a class that the registers of partition p name, in increasing die and logical
number (09 R321). -/
def State.namedUnits (s : State) (p : Nat) (c : EngineClass) : List UnitId :=
  ([0, 1] : List Nat).flatMap (fun d =>
    match unitReg p d c with
    | some (a, n) => ((List.range n).filter (fun i => s.vecBit a i)).map (fun i => ⟨d, c, i⟩)
    | none => [])

/-- The units of a class that are partition p's while it is enabled, in increasing die and logical number. -/
def State.ownUnits (s : State) (p : Nat) (c : EngineClass) : List UnitId :=
  (s.namedUnits p c).filter (fun u => !(s.contested p u))

/-- Tiles that the registers of partition p name (08 R272). -/
def State.namedTiles (s : State) (p : Nat) : Nat := (s.namedUnits p .tile).length

/-- Tiles that are partition p's while it is enabled. -/
def State.ownedTiles (s : State) (p : Nat) : Nat := (s.ownUnits p .tile).length

/-- Half-stacks that the registers of partition p name, in increasing number (08 R270). -/
def State.halves (s : State) (p : Nat) : List Nat :=
  (List.range 48).filter (fun h => s.vecBit (aPARTp p + 0x20) h)

/-- The partition that owns a half-stack. -/
def State.halfOwner (s : State) (h : Nat) : Option Nat :=
  s.enabledParts.find? (fun p => s.vecBit (aPARTp p + 0x20) h)

/-- Bytes of a partition's stack memory. -/
def State.partBytes (s : State) (p : Nat) : Nat := (s.halves p).length * s.halfBytes

/-- The absolute address of a byte offset in a partition's stack memory (08 R270). -/
def State.partAddr (s : State) (p off : Nat) : Option Nat :=
  ((s.halves p)[off / s.halfBytes]?).map (fun h => h * s.halfBytes + off % s.halfBytes)

/-- The offset in its owner's stack memory of an absolute address. -/
def State.partOffset (s : State) (p a : Nat) : Nat :=
  ((s.halves p).takeWhile (fun h => decide (h < a / s.halfBytes))).length * s.halfBytes
    + a % s.halfBytes

/-- First unit and count of a partition's ledge range on a die, in MiB (08 R272). -/
def State.ledgeRange (s : State) (p die : Nat) : Nat × Nat :=
  let w := s.reg (aPARTp p + 0x1C)
  if die = 0 then (field w 6 0, field w 14 8) else (field w 22 16, field w 30 24)

/-- The partition's first ring and ring count (08 R272). -/
def State.ringRange (s : State) (p : Nat) : Nat × Nat :=
  (s.rf (aPARTp p + 0x14) 15 0, s.rf (aPARTp p + 0x14) 29 16)

/-- The partition's first vector and vector count. -/
def State.vecRange (s : State) (p : Nat) : Nat × Nat :=
  (s.rf (aPARTp p + 0x18) 10 0, s.rf (aPARTp p + 0x18) 27 16)

/-- The number lies in a range given by first and count. -/
def inRange (r : Nat × Nat) (n : Nat) : Bool := decide (r.1 ≤ n) && decide (n < r.1 + r.2)

/-- The enabled partition that ring n belongs to; none for the physical function (09 R310). -/
def State.ringOwner (s : State) (n : Nat) : Option Nat :=
  if n = 0 then none else s.enabledParts.find? (fun p => inRange (s.ringRange p) n)

/-- The enabled partition that vector v belongs to; none for the physical function (09 R342). -/
def State.vectorOwner (s : State) (v : Nat) : Option Nat :=
  s.enabledParts.find? (fun p => inRange (s.vecRange p) v)

/-- The function number of an owner in windows and events: 0 to 63, or 0x7F (09 R337). -/
def ownerFn : Option Nat → Nat
  | some p => p
  | none => 0x7F

/-- A context's base offset, and its window in bytes of the partition's stack memory, from its table
entry (08 R275): word `i` of the entry of context c. No word of an uncorrectable entry is handed out (10 R350). -/
def State.ctxWord (s : State) (p c i : Nat) : W32 :=
  match s.partAddr p ((s.reg (aPARTp p + 0x28)).toNat * 4096 + 64 * c + 4 * i) with
  | some a => if (s.ueInRead a 4).isSome then 0 else BitVec.ofNat 32 (fromLE (s.readMem .stack a 4))
  | none => 0

/-- The partition has pace-blind completion (08 R298). -/
def State.paceBlind (s : State) (p : Nat) : Bool := (s.part p).blind

/-- The declared maximum layer time of the partition in µs. -/
def State.maxLayer (s : State) (p : Nat) : Nat := s.rf (aPARTp p + 0x10) 10 0

-- Shares of the links (08 R272, 09 R307, 12 R412).

/-- The link kinds that a partition's shares meter: CXL, Rope, Ethernet. -/
inductive Link where
  | cxl | rope | eth
  deriving DecidableEq, Repr

/-- Registers of the shares. -/
def Link.reg (l : Link) (p : Nat) : Nat :=
  aPARTp p + (match l with | .cxl => 0xB0 | .rope => 0xB4 | .eth => 0xB8)

/-- Tokens after `dt` ns: they fill at the rate and stop at the burst, in tenths of a byte. -/
def tokFill (w : W32) (dt : Nat) (t : Int) : Int :=
  let top : Int := (field w 31 16 * 10240 : Nat)
  let u := t + (field w 15 0 * dt : Nat)
  if top < u then top else u

/-- Every bucket of partition p filled to the present. -/
def State.fillShares (s : State) (p : Nat) : State :=
  let x := s.part p
  let dt := s.now - x.tokAt
  let fill (l : Link) (t : Int × Int) : Int × Int :=
    (tokFill (s.reg (l.reg p)) dt t.1, tokFill (s.reg (l.reg p)) dt t.2)
  s.setPart p { x with
    cxlTok := fill .cxl x.cxlTok, ropeTok := fill .rope x.ropeTok, ethTok := fill .eth x.ethTok, tokAt := s.now }

def Part.tokens (x : Part) (l : Link) : Int × Int :=
  match l with | .cxl => x.cxlTok | .rope => x.ropeTok | .eth => x.ethTok

def Part.setTokens (x : Part) (l : Link) (t : Int × Int) : Part :=
  match l with
  | .cxl => { x with cxlTok := t }
  | .rope => { x with ropeTok := t }
  | .eth => { x with ethTok := t }

/-- A transfer of partition p starts if its first unit may, and its bytes are charged; `out` towards the
outside. A rate of 0 blocks it. -/
def State.takeShare (s : State) (p : Nat) (l : Link) (out : Bool) (unit total : Nat) : Option State :=
  let w := s.reg (l.reg p)
  if field w 15 0 = 0 then none
  else
    let u := s.fillShares p
    let x := u.part p
    let t := x.tokens l
    let have' := if out then t.1 else t.2
    if (10 * min unit (field w 31 16 * 1024) : Nat) ≤ have' then
      let spent := have' - (10 * total : Nat)
      some (u.setPart p (x.setTokens l (if out then (spent, t.2) else (t.1, spent))))
    else none

-- Control traffic (13 R458).

/-- Partition p's bucket of control traffic, filled to the present: 128 bytes a µs, up to what one µs allows. -/
def State.ctlBucket (s : State) (p : Nat) : CtlBucket :=
  let b := SMap.get (fun _ => CtlBucket.reset) s.ctl p
  ⟨min 128_000 (b.tok + (128 * (s.now - b.filled) : Nat)), s.now⟩

/-- Bytes of control traffic of partition p: a descriptor, a completion entry or a message. -/
def State.chargeCtl (s : State) (p n : Nat) : State :=
  let b := s.ctlBucket p
  { s with ctl := SMap.put (fun _ => CtlBucket.reset) s.ctl p { b with tok := b.tok - (1000 * n : Nat) } }

/-- Partition p has not reached the limit. -/
def State.ctlRoom (s : State) (p n : Nat) : Bool := decide (((1000 * n : Nat) : Int) ≤ (s.ctlBucket p).tok)

/-- One more free value has been drawn. -/
def State.drawn (s : State) : State := { s with free := s.free + 1 }

end Sys2Proof.Machine
end

