-- ==== Sys2Proof/Machine/Irq.lean ====
section
/-! DEFINITION. Interrupts (09 R339 to R342, 12 R429) and the Summit register (14 R476 to R480):
what every module raises and records through. -/

namespace Sys2Proof.Machine

/-- Sources 0 and 57 to 63 never fire and have no bits (09 R339, R340). -/
def sourceLive (src : Nat) : Bool :=
  decide (0 < src) && decide (src < 4096) && !(decide (57 ≤ src) && decide (src ≤ 63))

/-- The function and table entry of a vector's message (09 R342). -/
def State.vectorEntry (s : State) (v : Nat) : Nat × Nat :=
  match s.vectorOwner v with
  | some p => (p + 1, v - (s.vecRange p).1)
  | none => (0, v)

/-- Key of an entry's word 0 in the MSI-X tables: 16 bytes an entry, 32 KiB a table. -/
def msixKey (fn entry : Nat) : Nat := fn * 0x8000 + entry * 16

/-- The vector is masked in its owner's table. -/
def State.masked (s : State) (fn entry : Nat) : Bool :=
  bitOf (SMap.get msixReset s.msixT (msixKey fn entry + 12)) 0

/-- The pending-array bit of an entry. -/
def State.pbaBit (s : State) (fn entry : Nat) : Bool :=
  SMap.get (fun _ => false) s.pba (fn * 2048 + entry)
def State.setPba (s : State) (fn entry : Nat) (b : Bool) : State :=
  { s with pba := SMap.put (fun _ => false) s.pba (fn * 2048 + entry) b }

/-- The message of vector v leaves, and its time is stamped (12 R429). A watchdog quiesce stops every
message (13 R433). -/
def State.sendMsix (s : State) (fn entry v : Nat) : State :=
  if s.sec.quiesced then s
  else
    let t := { (if fn = 0 then s else s.chargeCtl (fn - 1) 4) with outs := .msix fn entry :: s.outs }
    (t.setReg (aSTAMP v) (lo32 s.clkNs)).setReg (aSTAMP v + 4) (lo32 s.clkSec)

/-- The vector a source maps to, and whether its pending bit clears when the message is sent: always
for a partition's vector, else as INTC_MAP says (09 R341). -/
def State.sourceVector (s : State) (src : Nat) : Nat := s.rf (aMAP src) 10 0
def State.autoClear (s : State) (src : Nat) : Bool :=
  (s.vectorOwner (s.sourceVector src)).isSome || s.rbit (aMAP src) 16

/-- Pending bit of a source. -/
def State.pendBit (s : State) (src : Nat) : Bool := s.rbit (aPEND (src / 32)) (src % 32)
def State.setPend (s : State) (src : Nat) (b : Bool) : State :=
  s.setRbit (aPEND (src / 32)) (src % 32) b
/-- Enable bit of a source. -/
def State.enBit (s : State) (src : Nat) : Bool := s.rbit (aEN (src / 32)) (src % 32)

/-- Send the message of a source that has become pending while enabled, or hold it in the pending
bit array of a masked vector (09 R340, R342). -/
def State.fireSource (s : State) (src : Nat) : State :=
  let v := s.sourceVector src
  let e := s.vectorEntry v
  if s.masked e.1 e.2 then
    { s.setPba e.1 e.2 true with msixHeld := s.msixHeld.filter (fun h => decide (h ≠ (src, v))) ++ [(src, v)] }
  else
    let t := s.sendMsix e.1 e.2 v
    if s.autoClear src then t.setPend src false else t

/-- One edge of a source (09 R340). -/
def State.edge (s : State) (src : Nat) : State :=
  if sourceLive src then
    let was := s.pendBit src
    let t := (s.bumpRf (aCNT (src / 4)) (8 * (src % 4) + 7) (8 * (src % 4)) 1).setPend src true
    if !was && s.enBit src then t.fireSource src else t
  else s

-- The Summit register (14 R476 to R480).

/-- Offset and shift of a code's histogram (14 R478). -/
def summitScale (code : Nat) : Int × Nat :=
  if code = 0x0108 then (-120, 3)
  else if code = 0x0206 ∨ code = 0x0503 then (0, 6)
  else if code = 0x0305 then (1400, 2)
  else if code = 0x0403 then (0, 10)
  else if code = 0x0205 ∨ code = 0x0302 ∨ code = 0x0304 ∨ code = 0x0401 ∨ code = 0x0402
      ∨ code = 0x0501 ∨ code = 0x0502 then (0, 0)
  else (0, 3)

/-- The histogram bin of a value: clamp((v − offset) >> shift, 0, 15) (14 R476). -/
def summitBin (code : Nat) (v : Int) : Nat :=
  let o := summitScale code
  min 15 ((v - o.1) / (2 ^ o.2 : Nat)).toNat

/-- A histogram with one more event in bin `i`, each bin saturating at 4,095. -/
def histBump (h : List Nat) (i : Nat) : List Nat := h.set i (satAdd 4095 (h.getD i 0) 1)

/-- A new record of one event. -/
def SummitRec.first1 (e : SummitEvt) : SummitRec :=
  { code := e.code, site := e.site, ext := e.ext, first := e.time, last := e.time, count := 1,
    min := e.value, max := e.value,
    hist := histBump (List.replicate 16 0) (summitBin e.code e.value) }

/-- A record that one more event of its code and site has entered (14 R479, Merging). -/
def SummitRec.merge (r : SummitRec) (e : SummitEvt) : SummitRec :=
  { r with
    last := e.time
    count := satAdd 0xFFFF_FFFF r.count 1
    min := if e.value < r.min then e.value else r.min
    max := if r.max < e.value then e.value else r.max
    hist := histBump r.hist (summitBin e.code e.value) }

/-- The event merges into the record. -/
def SummitRec.same (r : SummitRec) (e : SummitEvt) : Bool :=
  decide (r.code = e.code) && decide (r.site = e.site) && decide (r.ext = e.ext)

/-- Records the register holds (14 R476). -/
def summitMax : Nat := 262144

/-- An event enters the records: it merges into the last, is appended, or is missed because the
register is full, which fires device source 5 once (14 R479). -/
def State.summitApply (s : State) (e : SummitEvt) : State :=
  match s.summit.recs.getLast? with
  | some r =>
    if r.same e then
      { s with summit := { s.summit with recs := s.summit.recs.dropLast ++ [r.merge e] } }
    else if s.summit.recs.length < summitMax then
      { s with summit := { s.summit with recs := s.summit.recs ++ [SummitRec.first1 e] } }
    else
      let t := s.bumpRf (aEVR + 0xC) 31 0 1
      if s.summit.full then t
      else ({ t with summit := { t.summit with full := true } }).edge 5
  | none => { s with summit := { s.summit with recs := [SummitRec.first1 e] } }

/-- An event of the device is recorded, held during a freeze, or missed; nothing happens while
EVR_CTRL.enable is 0 (14 R479, R480). -/
def State.record (s : State) (code : Nat) (site ext : W32) (value : Int) : State :=
  let e : SummitEvt := ⟨code, site, ext, value, s.ptp⟩
  if s.rbit aEVR 0 then
    if s.rbit aEVR 1 then
      if s.summit.held.length < 256 then
        { s with summit := { s.summit with held := s.summit.held ++ [e] } }
      else s.bumpRf (aEVR + 0xC) 31 0 1
    else s.summitApply e
  else s

/-- The held events are applied in arrival order (14 R479, Freeze). -/
def State.applyHeld (s : State) : State :=
  s.summit.held.foldl State.summitApply { s with summit := { s.summit with held := [] } }

-- Sites (14 R477).

def siteDevice : W32 := 0

/-- The code of an engine class (07 R234). -/
def EngineClass.code : EngineClass → Nat
  | .tile => 0 | .vde => 1 | .fft => 2 | .ldpcDec => 3 | .ldpcEnc => 4 | .polar => 5 | .prach => 6

/-- The engine class of a code. -/
def classOf (n : Nat) : Option EngineClass :=
  match n with
  | 0 => some .tile | 1 => some .vde | 2 => some .fft | 3 => some .ldpcDec | 4 => some .ldpcEnc
  | 5 => some .polar | 6 => some .prach | _ => none

def siteUnit (u : UnitId) : W32 :=
  lo32 (1 * 2 ^ 28 + u.die * 2 ^ 24 + u.cls.code * 2 ^ 20 + u.num)
def siteSpare (p : PhysId) (idx : Nat) : W32 :=
  lo32 (1 * 2 ^ 28 + p.die * 2 ^ 24 + p.cls.code * 2 ^ 20 + 2 ^ 19 + idx)
def siteSram (die place tile : Nat) : W32 := lo32 (2 * 2 ^ 28 + die * 2 ^ 24 + place * 2 ^ 20 + tile)
def siteStack (stack channel bank : Nat) : W32 :=
  lo32 (3 * 2 ^ 28 + stack * 2 ^ 16 + channel * 2 ^ 8 + bank)
def siteCell (c : Nat) : W32 := lo32 (4 * 2 ^ 28 + c)
def sitePort (port sub : Nat) : W32 := lo32 (5 * 2 ^ 28 + sub * 2 ^ 4 + port)
def siteRing (n : Nat) : W32 := lo32 (6 * 2 ^ 28 + n)
def sitePart (p : Nat) : W32 := lo32 (7 * 2 ^ 28 + p)
def siteIsland (d i : Nat) : W32 := lo32 (8 * 2 ^ 28 + d * 2 ^ 8 + i)

end Sys2Proof.Machine
end

