-- ==== Sys2Proof/Machine/Queue.lean ====
section
/-! DEFINITION. Rings (09 R310 to R333) and write windows (09 R337, R338): how the device writes
host memory, completion entries, events and indications, and how a ring starts, stops and hands
its descriptors to the work they name. -/

namespace Sys2Proof.Machine

/-- The code of a status (09 R334). -/
def Status.code : Status → Nat
  | .success => 0x0000
  | .badDescriptor => 0x0101 | .accessFault => 0x0102 | .hostWindowFault => 0x0103
  | .engineReserved => 0x0104
  | .scaleSkew => 0x0201 | .checksumMismatch => 0x0202 | .mediaError => 0x0203
  | .splitTimeout => 0x0301 | .chainOrder => 0x0302 | .chainTimeout => 0x0303
  | .layerTimeExceeded => 0x0304 | .holdExceeded => 0x0305
  | .partitionReset => 0x0401 | .contextLost => 0x0402 | .ringDisabled => 0x0403
  | .abandoned => 0x0404 | .belayRefused => 0x0405 | .deferred => 0x0406
  | .imageRejected => 0x0407 | .tileLost => 0x0408
  | .remoteTimeout => 0x0501 | .outcomeUnknown => 0x0502 | .staleEpoch => 0x0503
  | .keyFault => 0x0504 | .cairnWriteFault => 0x0505 | .ropeLinkDown => 0x0506

/-- A result with a status and no detail. -/
def Result.of (st : Status) : Result := { status := st }

/-- BAD_DESCRIPTOR for word `w` of the descriptor itself (09 R336). -/
def Result.bad (w : Nat) : Result := { status := .badDescriptor, d4 := lo32 w }

/-- BAD_DESCRIPTOR for word `w` of the structure that word 3 indexes (09 R336). -/
def Result.badAt (loc : W32) (w : Nat) : Result :=
  { status := .badDescriptor, loc := loc, d4 := lo32 (w + 0x100) }

-- Write windows (09 R337, R338).

/-- Window n, enabled and owned by the function, holds the whole range. -/
def State.windowHolds (s : State) (n fn a len : Nat) : Bool :=
  let e := aWIN n
  s.rbit (e + 0x10) 31 && decide (s.rf (e + 0x10) 6 0 = fn)
    && decide (s.reg64 e ≤ a) && decide (a + len ≤ s.reg64 (e + 8) + 4096)

/-- The write lies wholly inside one enabled window of its issuing function. -/
def State.windowOk (s : State) (fn a len : Nat) : Bool :=
  (List.range 64).any (fun n => s.windowHolds n fn a len)

/-- One more admin event waits (09 R329). -/
def State.queueAdmin (s : State) (kind : Nat) (d4 d5 d6 : W32) : State :=
  { s with adminEvents := s.adminEvents ++ [⟨kind, s.ptp, d4, d5, d6, 0⟩] }

/-- SEC_WIN_FAULT records a refused write, device source 6 fires, and admin event 0x04 waits to be
written (09 R337, R338). -/
def State.noteRefusal (s : State) (fn a : Nat) : State :=
  let i := aSEC + 0xC
  let t := if s.rbit i 31 then s
    else ((s.setReg (aSEC + 4) (lo32 a)).setReg (aSEC + 8) (hi32 a)).setReg i
      (lo32 (2 ^ 31 + fn * 2 ^ 16 + s.rf i 15 0))
  ((t.bumpRf i 15 0 1).edge 6).queueAdmin 0x04 (lo32 a) (hi32 a) (lo32 fn)

-- Ring registers (09 R311).

def State.ringOn (s : State) (n : Nat) : Bool := s.rbit (aRINGn n + 0x18) 31
def State.ringKind (s : State) (n : Nat) : Nat := s.rf (aRINGn n + 0x18) 30 29
def State.ringSource (s : State) (n : Nat) : Nat := s.rf (aRINGn n + 0x18) 20 9
def State.cqSize (s : State) (n : Nat) : Nat := 2 ^ (s.rf (aRINGn n + 0x18) 8 5 + 4)
def State.sqSize (s : State) (n : Nat) : Nat := 2 ^ (s.rf (aRINGn n + 0x18) 4 1 + 4)
def State.cqBase (s : State) (n : Nat) : Nat := s.reg64 (aRINGn n + 8)
def State.dbAddr (s : State) (n : Nat) : Nat := s.reg64 (aRINGn n + 0x10)

/-- CQ entries written and not yet consumed. -/
def State.cqUsed (s : State) (n : Nat) : Nat :=
  ((s.ring n).cqTail + s.cqSize n - (s.ring n).cqHead) % s.cqSize n

/-- The CQ has room for one more entry (09 R328), and no watchdog quiesce stops writes (13 R433). -/
def State.cqRoom (s : State) (n : Nat) : Bool :=
  !s.sec.quiesced && decide (((s.ring n).cqTail + 1) % s.cqSize n ≠ (s.ring n).cqHead)

/-- Acquires of ring n wait no longer (08 R285, 09 R312, R313). -/
def State.dropWaits (s : State) (n : Nat) : State :=
  match s.ringOwner n with
  | none => s
  | some p =>
    let x := s.part p
    let cut : Ctx → Ctx := fun y => { y with waits := y.waits.filter (fun w => decide (w.ring ≠ n)) }
    s.setPart p { x with ctxs := SMap.mapVals (fun _ => Ctx.reset) cut x.ctxs }

/-- A descriptor of a ring that stops: one not started and a posted buffer complete with RING_DISABLED, and so does a
waiting acquire; other started ones finish their work (09 R312, R313). -/
def Desc.stopped (d : Desc) : Desc :=
  if d.result.isSome then d
  else if !d.started || decide (wfield d.words 0 7 0 = 0x21) then
    { d with started := true, result := some { status := .ringDisabled, aux := d.aux } }
  else d

/-- The device stops a ring on its own: enable becomes 0 and error takes the code, device source 7
fires and admin event 0x03 waits. After error 4 or 7, descriptors fetched but not started
complete with RING_DISABLED, as do posted buffers; after error 5 or 6, they never run and nothing more is written
(09 R312). -/
def State.haltRing (s : State) (n err : Nat) : State :=
  let r := s.ring n
  let mute := decide (err = 5) || decide (err = 6)
  let descs := if mute then r.descs.filter (fun d => d.started)
    else r.descs.map Desc.stopped
  let t := ((s.dropWaits n).setRing n { r with descs := descs, error := err, muted := mute, line := none }).setRbit
    (aRINGn n + 0x18) 31 false
  (t.edge 7).queueAdmin 0x03 (lo32 n) (lo32 err) 0

/-- Words of a CQ entry before phase and gen are filled in (09 R325). -/
structure CqEntry where
  status : Nat
  kind : Nat
  w1 : W32
  w2 : W32
  w3 : W32
  w4 : W32
  w5 : W32
  w6 : W32
  w7 : W32
  deriving DecidableEq, Repr

/-- Word 0 of an entry: status, kind, phase and generation (09 R325). -/
def CqEntry.word0 (e : CqEntry) (phase : Bool) (gen : Nat) : W32 :=
  lo32 (e.status + e.kind * 2 ^ 16 + (if phase then 2 ^ 23 else 0) + gen * 2 ^ 24)

/-- The bytes of an entry. -/
def CqEntry.bytes (e : CqEntry) (phase : Bool) (gen : Nat) : List Byte :=
  wordsBytes [e.word0 phase gen, e.w1, e.w2, e.w3, e.w4, e.w5, e.w6, e.w7]

/-- Write one entry to the CQ of ring n, advance cq_tail with the phase, and raise the ring's source
when asked. A refused write stops the ring with error 5 (09 R327, R330, R338). -/
def State.writeEntry (s : State) (n : Nat) (e : CqEntry) (irq : Bool) : State :=
  let r := s.ring n
  let a := s.cqBase n + 32 * r.cqTail
  let fn := ownerFn (s.ringOwner n)
  if r.muted then s
  else if s.windowOk fn a 32 then
    let tail := (r.cqTail + 1) % s.cqSize n
    let v := match s.ringOwner n with
      | some p => s.chargeCtl p 32
      | none => s
    let t := (v.putHost a (e.bytes r.phase r.gen)).setRing n
      { r with cqTail := tail, phase := if tail = 0 then !r.phase else r.phase }
    if irq && decide (s.ringSource n ≠ 0) then t.edge (s.ringSource n) else t
  else (s.noteRefusal fn a).haltRing n 5

/-- The entry of an event (09 R325, R329): kind 0x1 for a partition, 0x3 for the admin ring. -/
def EventEntry.entry (e : EventEntry) (entryKind lost : Nat) : CqEntry :=
  { status := 0, kind := entryKind, w1 := lo32 (min lost 0xFFFF + e.kind * 2 ^ 16),
    w2 := lo32 e.time, w3 := hi32 e.time, w4 := e.d4, w5 := e.d5, w6 := e.d6, w7 := e.d7 }

/-- Write waiting admin events to ring 0 while it is enabled and has room (09 R328, R329). -/
def State.flushAdmin : Nat → State → State
  | 0, s => s
  | k + 1, s =>
    match s.adminEvents with
    | [] => s
    | e :: rest =>
      if s.ringOn 0 && s.cqRoom 0 then
        State.flushAdmin k (({ s with adminEvents := rest }).writeEntry 0 (e.entry 3 0) true)
      else s

/-- Deliver what waits for the admin ring. -/
def State.deliverAdmin (s : State) : State := State.flushAdmin s.adminEvents.length s

/-- Post an admin event (09 R329). -/
def State.postAdmin (s : State) (kind : Nat) (d4 d5 d6 : W32) : State :=
  (s.queueAdmin kind d4 d5 d6).deliverAdmin

/-- The device stops ring n with an error code (09 R312). -/
def State.stopRing (s : State) (n err : Nat) : State := (s.haltRing n err).deliverAdmin

/-- Refuse a device write to host memory (09 R338). -/
def State.refuseWrite (s : State) (fn a : Nat) : State := (s.noteRefusal fn a).deliverAdmin

/-- The ring on which partition p's events are written, if it has one (08 R299). -/
def State.eventRing (s : State) (p : Nat) : Option Nat :=
  let r := s.ringRange p
  if r.2 = 0 then none else some r.1

/-- Write waiting events of partition p while its first ring is enabled and has room; the first one
delivered shows how many were dropped (09 R328). -/
def State.flushPart (p : Nat) : Nat → State → State
  | 0, s => s
  | k + 1, s =>
    match (s.part p).events, s.eventRing p with
    | e :: rest, some n =>
      if s.ringOn n && s.cqRoom n && !(s.ring n).muted then
        let x := s.part p
        State.flushPart p k
          ((s.setPart p { x with events := rest, lost := 0 }).writeEntry n (e.entry 1 x.lost) true)
      else s
    | _, _ => s

/-- Deliver partition p's waiting events. -/
def State.deliverPart (s : State) (p : Nat) : State :=
  (State.flushPart p (s.part p).events.length s).deliverAdmin

/-- Post a partition event: up to 32 wait, further ones are dropped, recorded and counted in lost
(09 R328). With pace_blind = 1 it waits for the grid (08 R298). -/
def State.postPart (s : State) (p kind : Nat) (d4 d5 d6 d7 : W32) : State :=
  let x := s.part p
  if x.events.length < 32 then
    let t := s.setPart p { x with events := x.events ++ [⟨kind, s.ptp, d4, d5, d6, d7⟩] }
    if s.paceBlind p then t else t.deliverPart p
  else
    (s.setPart p { x with lost := satAdd 0xFFFF x.lost 1 }).record 0x0402 (sitePart p) 0 kind

/-- The codes of R271. -/
def PartState.code : PartState → Nat
  | .disabled => 0 | .running => 1 | .stopped => 2 | .resetting => 3 | .releasing => 4

/-- Set the state of partition p: device source 56 fires and admin event 0x02 reports the new state
(09 R329, R339). -/
def State.enterPart (s : State) (p : Nat) (st : PartState) : State :=
  ((s.setPart p { s.part p with state := st }).edge 56).postAdmin 0x02 (lo32 p) (lo32 st.code) 0

-- Descriptors in flight (09 R319, R324).

/-- The opcode of a descriptor. -/
def Desc.op (d : Desc) : Nat := wfield d.words 0 7 0
/-- arg, bits 31:16 of word 0. -/
def Desc.arg (d : Desc) : Nat := wfield d.words 0 31 16
/-- The descriptor is finished. -/
def Desc.done (d : Desc) : Bool := d.result.isSome
/-- A RUN whose first kernel has not started: the descriptors behind it wait for that (08 R281). The job of a batch is
started with its requests. -/
def Desc.unbegun (d : Desc) : Bool :=
  !d.done && (match d.job with
    | some j => decide (j.ran = 0) && !j.running && !j.batched
    | none => false)
/-- The descriptor finishes with a result, unless it has; the completion of an op list or command carries its
identifier on any status (09 R325). -/
def Desc.finish (d : Desc) (r : Result) : Desc :=
  if d.done then d else { d with started := true, result := some { r with aux := max r.aux d.aux } }

/-- The descriptor completion entry of a result (09 R325). -/
def Result.entry (r : Result) (tag : W32) (sqHead : Nat) : CqEntry :=
  { status := r.status.code, kind := 0, w1 := lo32 (sqHead + r.aux * 2 ^ 16), w2 := tag,
    w3 := r.loc, w4 := r.d4, w5 := r.d5, w6 := r.d6, w7 := r.d7 }

/-- The oldest descriptor of ring n that has not started, if it may start: a RUN before it has started its first kernel,
and its fence, if set, waits until every earlier descriptor has completed (09 R324, 08 R281). -/
def State.nextStart (s : State) (n : Nat) : Option Desc :=
  match (s.ring n).descs.find? (fun d => !d.started || d.unbegun) with
  | none => none
  | some d =>
    if d.started then none
    else if wfield d.words 0 9 9 = 1 then
      (match (s.ring n).descs with
       | e :: _ => if e.idx = d.idx then some d else none
       | [] => none)
    else some d

/-- Change the descriptor with SQ index `i` of ring n. -/
def State.updDesc (s : State) (n i : Nat) (f : Desc → Desc) : State :=
  let r := s.ring n
  s.setRing n { r with descs := r.descs.map (fun d => if d.idx = i then f d else d) }

/-- The descriptor has started. -/
def State.startDesc (s : State) (n i : Nat) : State :=
  s.updDesc n i (fun d => { d with started := true })

/-- The descriptor's work has ended with a result; the first result stands. -/
def State.finishDesc (s : State) (n i : Nat) (r : Result) : State :=
  s.updDesc n i (fun d => d.finish r)

/-- The oldest descriptor leaves the ring: sq_head passes one that was never fetched (09 R333). -/
def Ring.popped (r : Ring) (size : Nat) (rest : List Desc) : Ring :=
  if rest.length < r.unfetched then { r with descs := rest, unfetched := rest.length, sqHead := (r.sqHead + 1) % size }
  else { r with descs := rest }

/-- Write the completion of the oldest descriptor of ring n, if it has finished and the CQ has room.
A muted ring drops it without a completion (09 R312, R330, R331). -/
def State.completeFront (s : State) (n : Nat) : State :=
  let r := s.ring n
  match r.descs with
  | [] => s
  | d :: rest =>
    match d.result with
    | none => s
    | some res =>
      let q := r.popped (s.sqSize n) rest
      if r.muted then s.setRing n q
      else if s.cqRoom n then
        ((s.setRing n q).writeEntry n
          (res.entry (wordAt d.words 2) q.sqHead) (decide (wfield d.words 0 8 8 = 1))).deliverAdmin
      else s

/-- Write every completion of ring n that is due, at most `k`. -/
def State.completeAll (n : Nat) : Nat → State → State
  | 0, s => s
  | k + 1, s => State.completeAll n k (s.completeFront n)

-- Indications (09 R323, R326).

/-- The entry of an indication written into a buffer (09 R325, R326). -/
def indEntry (sqHead : Nat) (more : Bool) (tag : W32) (bytes msgId cell : Nat) : CqEntry :=
  { status := 0, kind := 2, w1 := lo32 (sqHead + (if more then 2 ^ 16 else 0)), w2 := tag,
    w3 := lo32 bytes, w4 := lo32 (msgId + cell * 2 ^ 16), w5 := 0, w6 := 0, w7 := 0 }

/-- Write the oldest waiting indication of ring n into the oldest posted buffers, one entry a
buffer, while buffers are posted and the CQ has room. A buffer whose window is gone stops the
ring with error 5. -/
def State.flushInds (n : Nat) : Nat → State → State
  | 0, s => s
  | k + 1, s =>
    let r := s.ring n
    match r.inds, r.descs with
    | i :: inds, d :: ds =>
      if d.started && !d.done && s.cqRoom n && s.ringOn n then
        let a := wpair d.words 4
        let size := (wordAt d.words 6).toNat
        let len := min size i.block.length
        let fn := ownerFn (s.ringOwner n)
        if s.windowOk fn a len then
          let rest := i.block.drop len
          let more := !rest.isEmpty
          let t := (s.putHost a (i.block.take len)).setRing n
            { r with descs := ds, inds := if more then { i with block := rest } :: inds else inds }
          State.flushInds n k
            (t.writeEntry n (indEntry r.sqHead more (wordAt d.words 2) len i.msgId i.cell) true)
        else (s.noteRefusal fn a).haltRing n 5
      else s
    | _, _ => s

/-- Deliver what waits on indication ring n. -/
def State.deliverInds (s : State) (n : Nat) : State :=
  (State.flushInds n ((s.ring n).descs.length) s).deliverAdmin

/-- Queue an indication on ring n and deliver what can be delivered. -/
def State.indicate (s : State) (n msgId cell : Nat) (block : List Byte) : State :=
  let r := s.ring n
  (s.setRing n { r with inds := r.inds ++ [⟨msgId, cell, block, s.now⟩] }).deliverInds n

/-- Everything that waited for CQ room of ring n: admin events, partition events of its owner unless
pace-blind, and indications (09 R328). -/
def State.deliverWaiting (s : State) (n : Nat) : State :=
  let t := s.deliverInds n
  match t.ringOwner n with
  | some p => if t.paceBlind p then t else t.deliverPart p
  | none => t

end Sys2Proof.Machine
end

