-- ==== Sys2Proof/Machine/Units.lean ====
section
/-! DEFINITION. The engines of the Massif dies: where a logical unit lies (01 R33, R505), its
spares and the order in which they are taken (01 R38, R39, R506), condition bins and the counting of
fault events (14 R462 to R466), and the choice of a replacement tile (01 R43). -/

namespace Sys2Proof.Machine

/-- Logical units of a class in one island; a PRACH detector lies in every second island (01 R505). -/
def EngineClass.perIsland : EngineClass → Nat
  | .tile => 24 | .vde => 12 | .fft => 4 | .ldpcDec => 3 | .ldpcEnc => 3 | .polar => 1 | .prach => 1

/-- The engine classes in the order of their codes. -/
def allClasses : List EngineClass := [.tile, .vde, .fft, .ldpcDec, .ldpcEnc, .polar, .prach]

/-- The island of a logical number (01 R505). -/
def UnitId.island (u : UnitId) : Nat :=
  match u.cls with
  | .prach => 2 * u.num
  | c => u.num / c.perIsland

/-- Spares of a class that an island carries at shipment (01 R33, R38, R39). -/
def State.shippedSpares (s : State) (die : Nat) (c : EngineClass) (isl : Nat) : Nat :=
  match c with
  | .tile => if (die, isl) ∈ s.fuses.tileShort then 1 else 2
  | .vde => if (die, isl) ∈ s.fuses.vdeShort then 0 else 1
  | .fft => if isl < 4 then 1 else 0
  | .ldpcDec => if isl < 2 then 1 else 0
  | .polar => if isl = 0 then 1 else 0
  | _ => 0

/-- The working unused spares of a class in one island, lowest index first. -/
def State.freeSpares (s : State) (die : Nat) (c : EngineClass) (isl : Nat) : List PhysId :=
  ((List.range (s.shippedSpares die c isl)).map (fun i => (⟨die, c, true, i, isl⟩ : PhysId))).filter
    (fun p => decide (p ∉ s.units.lostSpares) && !(s.units.served.any (fun e => decide (e.2 = p))))

/-- The working unused spares of a class on a die, in the order of CFG_SPARES (01 R39). -/
def State.dieSpares (s : State) (die : Nat) (c : EngineClass) : List PhysId :=
  (List.range 8).flatMap (fun i => s.freeSpares die c i)

/-- The physical position that a logical number names now (01 R505, R507). -/
def State.physOf (s : State) (u : UnitId) : PhysId :=
  match s.units.served.find? (fun e => decide (e.1 = u)) with
  | some e => e.2
  | none => ⟨u.die, u.cls, false, u.num, u.island⟩

/-- The logical number has been retired (01 R43, R505). -/
def State.isRetired (s : State) (u : UnitId) : Bool := decide (u ∈ s.units.retired)

/-- The unit is fenced: under substitution (01 R39). -/
def State.underSubst (s : State) (u : UnitId) : Bool := s.units.substs.any (fun x => decide (x.unit = u))

/-- The islands in which a spare is looked for, in order: the same island for a tile or VDE, else
the order of R506. -/
def State.spareIslands (s : State) (u : UnitId) : List Nat :=
  let own := u.island
  let others := (List.range 8).filter (fun i => decide (i ≠ own))
  match u.cls with
  | .tile | .vde => [own]
  | _ =>
    let radio i := (s.island u.die i).radio
    let hold i := (s.island u.die i).hold
    if radio own then
      own :: (others.filter (fun i => radio i)
        ++ others.filter (fun i => !radio i && hold i)
        ++ others.filter (fun i => !radio i && !hold i))
    else
      own :: (others.filter (fun i => !radio i && !hold i)
        ++ others.filter (fun i => radio i || hold i))

/-- The spare that takes the unit's logical number, if one is left in scope (01 R38, R506). -/
def State.pickSpare (s : State) (u : UnitId) : Option PhysId :=
  ((s.spareIslands u).flatMap (fun i => s.freeSpares u.die u.cls i)).head?

/-- The unit lies in a radio island (01 R505). -/
def State.inRadio (s : State) (u : UnitId) : Bool := (s.island u.die u.island).radio

/-- The enabled partition that owns the unit. -/
def State.unitOwner (s : State) (u : UnitId) : Option Nat := s.enabledParts.find? (fun p => s.owns p u)

-- Condition bins (14 R464).

/-- Voltage bin of an island's voltage. -/
def vBin (mv : Nat) : Nat := min 7 ((mv - 600) / 25)

/-- Temperature bin of a temperature in steps of 0.125 °C. -/
def tBin (t : Int) : Nat := min 10 (t / 80).toNat

/-- °C, rounded down, of a temperature in steps of 0.125 °C (14 R478). -/
def degC (t : Int) : Int := t / 8

/-- Bins and temperature of a unit: those of the island that its physical position lies in. -/
def State.physIsland (s : State) (p : PhysId) : Island := s.island p.die p.island
def State.physBins (s : State) (p : PhysId) : Nat × Nat :=
  (vBin (s.physIsland p).mv, tBin (s.physIsland p).temp)
def State.unitTemp (s : State) (u : UnitId) : Int := degC (s.physIsland (s.physOf u)).temp

/-- The hottest junction sensor of a die's islands. -/
def State.dieTemp (s : State) (d : Nat) : Int :=
  (List.range 8).foldl (fun m i => if m < (s.island d i).temp then (s.island d i).temp else m)
    (s.island d 0).temp

/-- One more fault event counts as lasting: the third in 10 s, or one of the same kind in the same
bins within the last hour (14 R465). -/
def State.lastingWith (s : State) (e : FaultEvt) : Bool :=
  let mine := s.units.faults.filter (fun f => decide (f.key = e.key))
  decide (2 ≤ (mine.filter (fun f => decide (e.time ≤ f.time + 10_000_000_000))).length)
    || mine.any (fun f => decide (f.kind = e.kind) && decide (f.vbin = e.vbin)
      && decide (f.tbin = e.tbin) && decide (e.time ≤ f.time + 3_600_000_000_000))

/-- Count a fault event. -/
def State.addFault (s : State) (e : FaultEvt) : State :=
  { s with units := { s.units with faults := s.units.faults ++ [e] } }

/-- The fault event of a unit, now. -/
def State.unitEvt (s : State) (u : UnitId) (kind : Nat) : FaultEvt :=
  let p := s.physOf u
  let b := s.physBins p
  ⟨.unit p, kind, b.1, b.2, s.now⟩

/-- What happens to a unit or spare is kept in the result of every running SELFTEST that names it (14 R474). -/
def State.markTests (s : State) (t : KatTarget) (f : SelfTest → SelfTest) : State :=
  { s with units := { s.units with selfTests := s.units.selfTests.map (fun q => if t ∈ q.targets then f q else q) } }

/-- Declaration of a unit: device source 3, FAULT_LASTING at its site, EVR_LAST_DECL (14 R467). -/
def State.noteDeclared (s : State) (site ext : W32) (temp : Int) : State :=
  ((s.record 0x0105 site ext temp).setReg (aEVR + 0x28) site).edge 3

/-- The governor takes an island into its hold; held is set at the first sample at or above the raise
threshold (01 R36, 07 R244). -/
def Island.take (x : Island) (now : Nat) : Island := if x.hold then x else { x with hold := true, heldAt := now }

/-- Voltage ceiling in mV, soft cap in 0.1 W and throttle temperature in 0.125 °C of the profile (15 R487). -/
def State.profile (s : State) : Nat × Nat × Int :=
  match s.rf (aPWR + 8) 1 0 with
  | 1 => (700, 12_000, 760)
  | 2 => (650, 9_000, 720)
  | _ => (800, 15_000, 800)

/-- An island leaves the governor's hold: its voltage never exceeds the profile's ceiling from then on (15 R488). -/
def Island.leave (x : Island) (ceil : Nat) : Island := { x with hold := false, held := false, mv := min x.mv ceil }

/-- How many spares of island j of die d serve a unit of another island, which is radio (01 R35, R41). -/
def State.radioServed (s : State) (d j : Nat) : Nat :=
  (s.units.served.filter (fun e => decide (e.1.die = d) && decide (e.2.island = j) && decide (e.1.island ≠ j)
    && s.inRadio e.1)).length

/-- An island with the number of its spares that serve radio units: with the first it enters the governor's hold,
and unless it is a radio island it leaves the hold with the last (01 R35, R41). -/
def Island.serving (x : Island) (n now ceil : Nat) : Island :=
  let y := { x with spareHolds := n }
  if x.radio then y
  else if 0 < n then (if x.spareHolds = 0 then y.take now else y)
  else if 0 < x.spareHolds then y.leave ceil
  else y

/-- The holds of a die's islands follow the spares that serve radio units (01 R41). -/
def State.syncHolds (s : State) (d : Nat) : State :=
  (List.range 8).foldl (fun t j => t.setIsland d j ((t.island d j).serving (s.radioServed d j) s.now s.profile.1)) s

/-- Step 3 of R39: the spare takes the logical number of the faulty unit. A spare that served the
unit before and failed is lost. -/
def State.mapSpare (s : State) (u : UnitId) (p : PhysId) : State :=
  let old := s.physOf u
  ({ s with units := { s.units with
      served := s.units.served.filter (fun (e : UnitId × PhysId) => decide (e.1 ≠ u)) ++ [(u, p)]
      lostSpares := if old.spare then s.units.lostSpares ++ [old] else s.units.lostSpares } }).syncHolds u.die

/-- A mapping of the same instant is taken back: the logical number names its old position again (01 R42). -/
def State.unmapSpare (s : State) (u : UnitId) (old : PhysId) : State :=
  ({ s with units := { s.units with
      served := s.units.served.filter (fun (e : UnitId × PhysId) => decide (e.1 ≠ u)) ++ (if old.spare then [(u, old)] else [])
      lostSpares := s.units.lostSpares.filter (fun p => decide (p ≠ old)) } }).syncHolds u.die

/-- The logical number names no unit any longer: device source 4, RETIRED, EVR_LAST_RETIRE, and the
island's tiles_retired for a tile (01 R43, 14 R467). -/
def State.retire (s : State) (u : UnitId) : State :=
  let k := 8 * u.die + u.island
  let old := s.physOf u
  let un := { s.units with
    retired := s.units.retired ++ [u]
    lostSpares := if old.spare then s.units.lostSpares ++ [old] else s.units.lostSpares
    served := s.units.served.filter (fun e => decide (e.1 ≠ u))
    tilesRetired := if u.cls = .tile then
        SMap.put (fun _ => 0) s.units.tilesRetired k (SMap.get (fun _ => 0) s.units.tilesRetired k + 1)
      else s.units.tilesRetired }
  ((((({ s with units := un }).syncHolds u.die).record 0x0107 (siteUnit u) (lo32 u.island) (s.unitTemp u)).setReg
    (aEVR + 0x2C) (siteUnit u)).edge 4).markTests (.unit u) (fun q => { q with retired := true })

/-- The number of a physical tile among its die's, spares after the enabled ones. -/
def PhysId.tileNum (p : PhysId) : Nat := if p.spare then 192 + 2 * p.island + p.idx else p.idx

/-- The row of a logical tile's store, or of the ledge buffer for place 3 (14 R477). -/
def State.sramRowOf (s : State) (die tile place row : Nat) : SramRow :=
  ⟨die, place, if place = 3 then 0 else (s.physOf ⟨die, .tile, tile⟩).tileNum, row⟩

/-- Redundant rows left in the bank of a row (01 R38). -/
def State.sramLeft (s : State) (r : SramRow) : Nat :=
  let bank (q : SramRow) : Nat := Config.sramBank q.place q.row
  Config.sramSpares r.place (bank r) - (s.units.sramRepaired.filter (fun q => decide (q.die = r.die)
    && decide (q.place = r.place) && decide (q.tile = r.tile) && decide (bank q = bank r))).length

/-- The SRAM test repairs a failing row from its bank's redundant rows; with none left the row fails its consumers (14
R475 step 1). -/
def State.repairSram (s : State) (r : SramRow) : State :=
  let u := { s.units with sramFaulty := s.units.sramFaulty.filter (fun q => decide (q ≠ r)) }
  if s.sramLeft r = 0 then { s with units := { u with sramBad := if r ∈ u.sramBad then u.sramBad else u.sramBad ++ [r] } }
  else { s with units := { u with sramRepaired := u.sramRepaired ++ [r] } }

/-- Spare wires of a die-to-die link per direction (01 R25). -/
def wireSpares (link : Nat) : Nat := if link = 0 then 64 else 32

/-- A spare wire of the same link and direction takes the place of a failing one, while one is left (01 R38, 14
R467, R475). -/
def State.replaceWire (s : State) (link dir idx : Nat) : State :=
  if decide ((link, dir, idx) ∉ s.units.wires)
      && decide ((s.units.wires.filter (fun w => decide (w.1 = link) && decide (w.2.1 = dir))).length < wireSpares link)
  then { s with units := { s.units with wires := s.units.wires ++ [(link, dir, idx)] } }
  else s

/-- The tile that replaces a partition's lost tile: the lowest-numbered logical tile of the die that
lies outside every radio island, belongs to no enabled partition and is not retired (01 R43). -/
def State.replacementTile (s : State) (die : Nat) : Option Nat :=
  (List.range 192).find? (fun i =>
    let u : UnitId := ⟨die, .tile, i⟩
    !(s.inRadio u) && (s.unitOwner u).isNone && !(s.isRetired u))

/-- Set or clear a bit of a register vector. -/
def State.setVecBit (s : State) (a i : Nat) (b : Bool) : State := s.setRbit (a + 4 * (i / 32)) (i % 32) b

/-- Move a partition's ownership from a lost tile to another (01 R43). -/
def State.moveTile (s : State) (p die lost new : Nat) : State :=
  let a := aPARTp p + (if die = 0 then 0x40 else 0x60)
  (s.setVecBit a lost false).setVecBit a new true

/-- ISLAND_STATE (01 R36). -/
def State.islandState (s : State) (d i : Nat) : W32 :=
  let x := s.island d i
  let fused := ((s.fuses.tilesRetired.find? (fun e => decide (e.1 = 8 * d + i))).map Prod.snd).getD 0
  lo32 ((fused + SMap.get (fun _ => 0) s.units.tilesRetired (8 * d + i)) % 256 * 2 ^ 16
    + (if (s.freeSpares d .vde i).isEmpty then 0 else 2 ^ 8)
    + (s.freeSpares d .tile i).length * 2 ^ 4
    + (if x.held then 2 else 0) + (if x.radio then 1 else 0))

/-- CFG_SPARES_M0 and CFG_SPARES_M1 (01 R39). -/
def State.sparesReg (s : State) (d : Nat) : W32 :=
  lo32 ((s.dieSpares d .vde).length * 2 ^ 24 + (s.dieSpares d .tile).length * 2 ^ 19
    + (s.dieSpares d .polar).length * 2 ^ 8 + (s.dieSpares d .ldpcDec).length * 2 ^ 4
    + (s.dieSpares d .fft).length)

end Sys2Proof.Machine
end

