-- ==== Sys2Proof/Machine/Contexts.lean ====
section
/-! DEFINITION. Contexts of a partition (08 R274 to R276): the context table in stack memory, the window
that accesses are checked against, the checks at first scheduling, and the protection of loaded
weights (08 R289). Failed accesses of stack memory are noted here too (10 R350). -/

namespace Sys2Proof.Machine

/-- A byte range [`lo`, `lo + len`). -/
abbrev Range := Nat × Nat

/-- The two ranges share a byte. -/
def overlaps (a b : Range) : Bool :=
  decide (0 < a.2) && decide (0 < b.2) && decide (a.1 < b.1 + b.2) && decide (b.1 < a.1 + a.2)

/-- The first range lies inside the second. -/
def inside (a b : Range) : Bool := decide (b.1 ≤ a.1) && decide (a.1 + a.2 ≤ b.1 + b.2)

/-- Contexts that the partition has (08 R272). -/
def State.ctxCount (s : State) (p : Nat) : Nat := s.rf (aPARTp p + 0x2C) 12 0
/-- Byte offset of the context table. -/
def State.ctxTable (s : State) (p : Nat) : Nat := (s.reg (aPARTp p + 0x28)).toNat * 4096

/-- Fields of a context entry (08 R275, 11 R391). -/
def State.ctxValid (s : State) (p c : Nat) : Bool := bitOf (s.ctxWord p c 0) 0
def State.batchMax (s : State) (p c : Nat) : Nat := field (s.ctxWord p c 0) 15 8
def State.batchWaitUs (s : State) (p c : Nat) : Nat := field (s.ctxWord p c 0) 29 16
def State.quantumUs (s : State) (p c : Nat) : Nat := field (s.ctxWord p c 1) 19 0
def State.ringFirst (s : State) (p c : Nat) : Nat := field (s.ctxWord p c 5) 13 0
def State.ringCount (s : State) (p c : Nat) : Nat := field (s.ctxWord p c 5) 29 16
def State.ledgeSave (s : State) (p c : Nat) : Nat := field (s.ctxWord p c 6) 6 0
def State.saveTiles (s : State) (p c : Nat) : Nat := field (s.ctxWord p c 6) 24 16
def State.keyCount (s : State) (p c : Nat) : Nat := field (s.ctxWord p c 10) 12 0

def State.saveRange (s : State) (p c : Nat) : Range :=
  ((s.ctxWord p c 4).toNat * 4096, 4096 + (s.saveTiles p c + 2 * s.ledgeSave p c) * 2 ^ 20)
def State.tableRange (s : State) (p : Nat) : Range := (s.ctxTable p, 64 * s.ctxCount p)
def State.mailboxRange (s : State) (p c : Nat) : Range :=
  ((s.ctxWord p c 8).toNat * 4096, if s.keyCount p c = 0 then 0 else 4128 * 1024)
def State.keyRange (s : State) (p c : Nat) : Range :=
  ((s.ctxWord p c 9).toNat * 4096, 16 * s.keyCount p c)

/-- win_size = 0: the window is all of the partition's stack memory but four ranges (08 R276). -/
def State.wholeWindow (s : State) (p c : Nat) : Bool := s.ctxValid p c && decide ((s.ctxWord p c 3).toNat = 0)

/-- The context window in bytes of the partition's stack memory. -/
def State.ctxWindow (s : State) (p c : Nat) : Range :=
  if s.wholeWindow p c then (0, s.partBytes p)
  else ((s.ctxWord p c 2).toNat * 4096, (s.ctxWord p c 3).toNat * 4096)

/-- An access of the context at a byte offset of the partition's stack memory is allowed: it lies
in the window and, for a window of the whole memory, in none of the four ranges (08 R276). -/
def State.ctxAllows (s : State) (p c : Nat) (r : Range) : Bool :=
  inside r (s.ctxWindow p c) && inside r (0, s.partBytes p)
    && (!(s.wholeWindow p c) ||
      !(overlaps r (s.tableRange p) || overlaps r (s.saveRange p c)
        || overlaps r (s.mailboxRange p c) || overlaps r (s.keyRange p c)))

/-- The reserved bits of a context entry, word by word (08 R275). -/
def ctxReserved : List Nat :=
  [0xC000_00FE, 0xFFF0_0000, 0, 0, 0, 0xC000_C000, 0xFE00_FF80, 0xFFFF_FFFF,
   0, 0, 0xFFFF_E000, 0xFFFF_FFFF, 0xFFFF_FFFF, 0xFFFF_FFFF, 0xFFFF_FFFF, 0xFFFF_FFFF]

/-- Other valid contexts of the partition. -/
def State.otherCtxs (s : State) (p c : Nat) : List Nat :=
  (List.range (s.ctxCount p)).filter (fun k => decide (k ≠ c) && s.ctxValid p k)

/-- The ring range of a context, relative to the partition's first ring. -/
def State.ctxRings (s : State) (p c : Nat) : Range := (s.ringFirst p c, s.ringCount p c)

/-- The checks of a context when it is first scheduled (08 R276). -/
def State.ctxOk (s : State) (p c : Nat) : Bool :=
  let win := s.ctxWindow p c
  let save := s.saveRange p c
  let mem : Range := (0, s.partBytes p)
  let others := s.otherCtxs p c
  let whole := s.wholeWindow p c
  let h := (s.halves p).length
  let st := s.saveTiles p c
  let ls := s.ledgeSave p c
  let bm := s.batchMax p c
  let mbox := s.mailboxRange p c
  let keys := s.keyRange p c
  let width := s.rf (aPARTp p + 8) 8 0
  s.ctxValid p c
  && inside win mem && inside save mem
  && (whole || !(overlaps win (s.tableRange p)))
  && !(overlaps save (s.tableRange p))
  && others.all (fun k => (whole || !(overlaps win (s.ctxWindow p k))) && !(overlaps save (s.saveRange p k))
      && !(overlaps win (s.saveRange p k)) && !(overlaps save (s.ctxWindow p k)))
  && (whole || !(overlaps win save))
  && inside (s.ctxRings p c) (0, (s.ringRange p).2)
  && others.all (fun k => !(overlaps (s.ctxRings p c) (s.ctxRings p k)))
  && decide (width ≤ st) && decide (st ≤ 384) && decide (ls ≤ 96)
  && decide (bm ≤ 64)
  && decide (10 ≤ s.batchWaitUs p c) && decide (s.batchWaitUs p c ≤ 10000)
  && decide (1000 ≤ s.quantumUs p c) && decide (s.quantumUs p c ≤ 1_000_000)
  && (List.range 16).all (fun i => decide (s.ctxWord p c i &&& lo32 (ctxReserved.getD i 0) = 0))
  && (!whole || decide (s.ctxCount p = 1))
  && decide (st + 2 * ls ≤ h * 190) && decide (4 * st + 2 * ls ≤ h * 333)
  && decide (s.keyCount p c ≤ 4096)
  && inside mbox mem && inside keys mem
  && (whole || (!(overlaps win mbox) && !(overlaps win keys)))
  && others.all (fun k => !(overlaps mbox (s.ctxWindow p k)) && !(overlaps keys (s.ctxWindow p k))
      && (whole || (!(overlaps win (s.mailboxRange p k)) && !(overlaps win (s.keyRange p k)))))

/-- The context that ring n of partition p belongs to (08 R275). -/
def State.ringCtx (s : State) (p n : Nat) : Option Nat :=
  (List.range (s.ctxCount p)).find? (fun c =>
    s.ctxValid p c && inRange ((s.ringRange p).1 + s.ringFirst p c, s.ringCount p c) n)

-- Protected weight ranges (08 R289).

/-- The ranges of partition p's stack memory that its loaded images protect, with their slots. -/
def State.protectedRanges (s : State) (p : Nat) : List (Nat × Range) :=
  (s.part p).ctxs.flatMap (fun e =>
    e.2.images.flatMap (fun im => im.2.manifest.map (fun m =>
      (im.1, ((s.ctxWindow p e.1).1 + m.1, m.2)))))

/-- Whether writing the bytes at an offset would change a byte of the range. -/
def State.changesByte (s : State) (p off : Nat) (bs : List Byte) (r : Range) : Bool :=
  (List.range bs.length).any (fun i =>
    inRange r (off + i) &&
      (match s.partAddr p (off + i) with
       | some a => decide (s.byteAt .stack a ≠ bs.getD i 0)
       | none => false))

/-- The slot whose protected range a write would change, if any (08 R289). -/
def State.protectedHit (s : State) (p off : Nat) (bs : List Byte) : Option Nat :=
  ((s.protectedRanges p).find? (fun e =>
    overlaps (off, bs.length) e.2 && s.changesByte p off bs e.2)).map Prod.fst

-- Uncorrectable blocks (10 R350).

/-- The row that a 64-byte block of stack memory lies in (10 R343, R344). -/
def State.blockRow (s : State) (b : Nat) : RowId :=
  let a := 64 * b
  let h := a / s.halfBytes
  let blk := a % s.halfBytes / 256
  ⟨h / 2, 16 * (h % 2) + blk % 16, Config.stackBank blk % 48, Config.stackRow blk % (if s.fuses.big then 32768 else 16384)⟩

/-- Site and extension of a row of a stack (14 R477). -/
def RowId.site (r : RowId) : W32 × W32 := (siteStack r.stack r.channel r.bank, lo32 r.row)

/-- Site and extension of a block of stack memory (14 R477). -/
def State.blockSite (s : State) (b : Nat) : W32 × W32 := (s.blockRow b).site

/-- An uncorrectable block has been read: STACK_LAST_UE, STACK_ERR and the Summit register (10 R350,
R351). -/
def State.recordUe (s : State) (b : Nat) (temp : Int) : State :=
  let a := 64 * b
  let h := a / s.halfBytes
  let st := aSTACK (h / 2)
  let site := s.blockSite b
  ((s.setReg (st + 0xC) (lo32 (h * 2 ^ 26 + a % s.halfBytes / 4096))).bumpRf (st + 4) 31 16 1).record
    0x0204 site.1 site.2 temp

/-- An uncorrectable block has failed its consumer: it is recorded, and device source 3 fires (10 R350). -/
def State.noteUe (s : State) (b : Nat) (temp : Int) : State := (s.recordUe b temp).edge 3

/-- The stack's hottest layer in °C, rounded down (10 R351). -/
def State.stackTemp (s : State) (st : Nat) : Int := degC' (s.rf (aSTACK st) 27 16)
where
  degC' (v : Nat) : Int := signedOf 12 v / 8

/-- The stack a block lies in. -/
def State.blockStack (s : State) (b : Nat) : Nat := 64 * b / s.halfBytes / 2

-- Rows of the stacks (10 R348, 14 R462 to R467).

/-- The hottest layer of a stack, in steps of 0.125 °C. -/
def State.stackT (s : State) (stack : Nat) : Int := signedOf 12 (s.rf (aSTACK stack) 27 16)

/-- Spare rows left in a bank. -/
def State.rowsLeft (s : State) (r : RowId) : Nat :=
  16 - (s.stackSt.repaired.filter (fun q => decide (q.stack = r.stack) && decide (q.channel = r.channel)
    && decide (q.bank = r.bank))).length

/-- A row is copied to a spare row of its bank, correctable blocks corrected and uncorrectable ones as they are; its
events were the old row's.
A bank with none left keeps using the row (10 R348). -/
def State.repairRow (s : State) (r : RowId) : State :=
  if s.rowsLeft r = 0 then s
  else
    let t : State := { s with
      stackSt := { s.stackSt with repaired := s.stackSt.repaired ++ [r] }
      weak := s.weak.filter (fun b => decide (s.blockRow b ≠ r))
      units := { s.units with
        faults := s.units.faults.filter (fun f => decide (f.key ≠ .stackRow r.stack r.channel r.bank r.row)) } }
    t.record 0x0205 (siteStack r.stack r.channel r.bank) (lo32 r.row) (t.rowsLeft r)

/-- A corrected read of a block: STACK_ERR, the Summit register, and a fault event of its row, which is repaired
when the fault is lasting (10 R348, R351, 14 R462, R467). -/
def State.stackCorrected (s : State) (b : Nat) : State :=
  let r := s.blockRow b
  let temp := s.stackT r.stack
  let site := r.site.1
  let e : FaultEvt := ⟨.stackRow r.stack r.channel r.bank r.row, 0x0203, 0, tBin temp, s.now⟩
  let t := (s.bumpRf (aSTACK r.stack + 4) 15 0 1).record 0x0203 site (lo32 r.row) (degC temp)
  let v := t.addFault e
  if s.lastingWith e then (v.noteDeclared site (lo32 r.row) (degC temp)).repairRow r else v

/-- An access reads ranges of stack memory and meets blocks whose error the code corrects: each is a corrected read,
which changes no bit (10 R346, R351). -/
def State.corrects (s : State) (rs : List Range) : State :=
  (s.weak.filter (fun b => rs.any (fun r => blockIn b r.1 r.2))).foldl State.stackCorrected s

/-- Bytes are written to stack memory: of a block that they do not cover whole, the rest is read first (10 R350). -/
def State.putStack (s : State) (a : Nat) (bs : List Byte) : State :=
  let part := s.weak.filter (fun b => blockIn b a bs.length && !(decide (a ≤ 64 * b) && decide (64 * b + 64 ≤ a + bs.length)))
  (part.foldl State.stackCorrected s).writeMem .stack a bs

/-- What a read cannot deliver: an uncorrectable block of stack memory (10 R350), or a failing row of a tile store or
ledge buffer whose bank has no redundant row left, by die, place, logical tile and row (14 R475). -/
inductive Media where
  | block (b : Nat)
  | sram (die place tile row : Nat)
  deriving DecidableEq, Repr

/-- A read of `n` bytes at an offset of a tile store or ledge buffer meets such a row. -/
def State.sramMedia (s : State) (die place tile off n : Nat) : Option Media :=
  (s.units.sramBad.find? (fun q => decide (q = s.sramRowOf die tile place q.row)
    && (blocksTouched off n).any (fun b => decide (Config.sramRow place (64 * b) = q.row)))).map
      (fun q => .sram die place tile q.row)

/-- An uncorrectable error in a tile store or ledge buffer is recorded at its row (14 R462, R464). -/
def State.recordSram (s : State) (die place tile row : Nat) : State :=
  let temp := if place = 3 then s.dieTemp die else (s.physIsland (s.physOf ⟨die, .tile, tile⟩)).temp
  s.record 0x0202 (siteSram die place (if place = 3 then 0 else tile)) (lo32 row) (degC temp)

/-- MEDIA_ERROR for a block of stack memory, located in the issuer's stack memory: partition p, or
the CXL.mem layout for the physical function (09 R336). -/
def State.mediaResult (s : State) (issuer : Option Nat) (b : Nat) : Result :=
  let off := match issuer with
    | some p => s.partOffset p (64 * b)
    | none => 64 * b
  { status := .mediaError, d4 := lo32 off, d5 := hi32 off, d6 := lo32 (s.blockStack b * 2 ^ 8) }

/-- MEDIA_ERROR for what a read of the issuer cannot deliver (09 R336). -/
def State.mediaOf (s : State) (issuer : Option Nat) : Media → Result
  | .block b => s.mediaResult issuer b
  | .sram die place _ _ =>
    { status := .mediaError, d4 := lo32 0xFFFF_FFFF, d5 := lo32 0xFFFF_FFFF, d6 := lo32 (place + die * 2 ^ 8) }

/-- ACCESS_FAULT at an offset, with the access's location code (09 R336). -/
def Result.access (off code : Nat) : Result :=
  { status := .accessFault, d4 := lo32 off, d5 := hi32 off, d6 := lo32 code }

end Sys2Proof.Machine
end

