-- ==== Sys2Proof/Machine/Issuer.lean ====
section
/-! DEFINITION. Who issues work and what memory it may touch: a context of a partition, or the
physical function (09 R321, 03 R99, 08 R276, R289); and the admission of a job descriptor. -/

namespace Sys2Proof.Machine

/-- A context of a partition; none for the physical function. -/
abbrev Issuer := Option (Nat × Nat)

def Issuer.partition (i : Issuer) : Option Nat := Option.map Prod.fst i

/-- The absolute pieces of a byte range of a partition's stack memory. -/
def State.partPieces (s : State) (p off n : Nat) : List Range :=
  let first := min n (s.halfBytes - off % s.halfBytes)
  let piece (o k : Nat) : List Range :=
    match s.partAddr p o with
    | some a => if k = 0 then [] else [(a, k)]
    | none => []
  piece off first ++ piece (off + first) (n - first)

/-- The absolute pieces of a byte range of the issuer's stack memory. -/
def State.issuerPieces (s : State) (i : Issuer) (off n : Nat) : List Range :=
  match i with
  | some (p, _) => s.partPieces p off n
  | none => if n = 0 then [] else [(off, n)]

/-- The half-stacks a byte range of the CXL.mem layout touches. -/
def State.halvesTouched (s : State) (a n : Nat) : List Nat :=
  if n = 0 then [] else (List.range ((a + n - 1) / s.halfBytes - a / s.halfBytes + 1)).map
    (· + a / s.halfBytes)

/-- The issuer may access the byte range (03 R99, 08 R276; 09 R321 for the physical function). -/
def State.issuerAllows (s : State) (i : Issuer) (off n : Nat) : Bool :=
  match i with
  | some (p, c) => s.ctxAllows p c (off, n)
  | none => inside (off, n) (0, s.memBytes)
      && (s.halvesTouched off n).all (fun h => (s.halfOwner h).isNone)

/-- Read a byte range of the issuer's stack memory. -/
def State.issuerRead (s : State) (i : Issuer) (off n : Nat) : List Byte :=
  (s.issuerPieces i off n).flatMap (fun r => s.readMem .stack r.1 r.2)

/-- Write bytes, piece by piece. -/
def State.writePieces (s : State) : List Range → List Byte → State
  | [], _ => s
  | r :: rs, bs => State.writePieces (s.putStack r.1 (bs.take r.2)) rs (bs.drop r.2)

/-- Write bytes to the issuer's stack memory. -/
def State.issuerWrite (s : State) (i : Issuer) (off : Nat) (bs : List Byte) : State :=
  s.writePieces (s.issuerPieces i off bs.length) bs

/-- The first uncorrectable block that a read of the range meets. -/
def State.issuerUeRead (s : State) (i : Issuer) (off n : Nat) : Option Nat :=
  (s.issuerPieces i off n).findSome? (fun r => s.ueInRead r.1 r.2)

/-- The first uncorrectable block that a write of the range covers only in part. -/
def State.issuerUeWrite (s : State) (i : Issuer) (off n : Nat) : Option Nat :=
  (s.issuerPieces i off n).findSome? (fun r => s.ueInWrite r.1 r.2)

/-- A protected weight range that a write of the issuer would change (08 R289). -/
def State.issuerProtected (s : State) (i : Issuer) (off : Nat) (bs : List Byte) : Bool :=
  match i with
  | some (p, _) => (s.protectedHit p off bs).isSome
  | none => false

/-- The read fails on an uncorrectable block: note it. -/
def State.failUe (s : State) (b : Nat) : State := s.noteUe b (s.stackTemp (s.blockStack b))

/-- The uncorrectable block of a context's table entry, if it is one. -/
def State.ctxUe (s : State) (p c : Nat) : Option Nat :=
  (s.partAddr p ((s.reg (aPARTp p + 0x28)).toNat * 4096 + 64 * c)).bind (fun a => s.ueInRead a 64)

/-- Make the checks of a context once; a context that fails is named by partition event 0x08 (08 R276). An entry that
cannot be read fails, and is noted (10 R350). -/
def State.checkCtx (s : State) (p c : Nat) : State :=
  match (s.ctx p c).checked with
  | some _ => s
  | none =>
    let ok := s.ctxOk p c
    let u := match s.ctxUe p c with
      | some b => s.failUe b
      | none => s
    let t := u.setCtx p c { u.ctx p c with checked := some ok }
    if ok then t else t.postPart p 0x08 (lo32 c) 0 0 0

/-- A read fails on what it cannot deliver: note it. -/
def State.failMedia (s : State) : Media → State
  | .block b => s.failUe b
  | .sram die place tile row => s.recordSram die place tile row

/-- A read of a byte range of the issuer's stack memory meets blocks that the code corrects (10 R346). -/
def State.issuerCorrects (s : State) (i : Issuer) (off n : Nat) : State :=
  s.corrects (s.issuerPieces i off n)

/-- Change the accounting counts of an issuer: its context's and its partition's (08 R300). -/
def State.account (s : State) (i : Issuer) (f : Acct → Acct) : State :=
  match i with
  | none => s
  | some (p, c) =>
    let x := s.part p
    let y := x.ctx c
    s.setPart p { (x.setCtx c { y with acct := f y.acct }) with acct := f x.acct }

/-- The partition runs work of the context: RUNNING, the context is resident, and no switch is under
way, or only its first step while a section of the context is open (08 R271, R274, R285, R290). -/
def State.ctxRuns (s : State) (p c : Nat) : Bool :=
  let x := s.part p
  decide (x.state = .running) && decide (x.resident = c)
    && (decide (x.switch = .none)
      || (decide (x.switch = .draining) && (x.ctx c).sectionAt.isSome))

/-- A launch gate that is armed holds the ring (11 R395). -/
def State.gated (s : State) (n : Nat) : Bool :=
  (List.range 16).any (fun g => s.rbit (aGATE g + 8) 16 && decide (s.rf (aGATE g + 8) 15 0 = n))

/-- A RUN of a batching context is a request, which joins a batch whether the context is resident or not (08 R283). -/
def State.requests (s : State) (p c op : Nat) : Bool :=
  decide (op = 3) && decide (2 ≤ s.batchMax p c) && decide ((s.ctx p c).checked = some true)

/-- The oldest unstarted descriptor of job ring n, if it is of the opcode and its context may run: `k`
gives what it does. A context that failed its check completes every descriptor with
BAD_DESCRIPTOR, resident or not (08 R276). Any other state leaves the descriptor waiting. -/
def State.admitJob (s : State) (n op : Nat) (k : State → Desc → Issuer → State) : State :=
  if s.awake && !s.gated n then
    match s.nextStart n with
    | none => s
    | some d =>
      if d.op = op then
        match s.ringOwner n with
        | none => k s d none
        | some p =>
          match s.ringCtx p n with
          | none => s
          | some c =>
            let failed := decide ((s.ctx p c).checked = some false) && decide ((s.part p).state = .running)
            let asked := s.requests p c op && decide ((s.part p).state = .running)
            if s.ctxRuns p c || failed || asked then
              let t := s.checkCtx p c
              if (t.ctx p c).checked = some true then k t d (some (p, c))
              else t.finishDesc n d.idx (Result.bad 0)
            else s
      else s
  else s

/-- The lowest index whose word fails: the words paired with their verdicts (09 R336). -/
def firstFail (checks : List (Nat × Bool)) : Option Nat :=
  checks.foldl (fun m c =>
    if c.2 then m else match m with
      | none => some c.1
      | some w => some (min w c.1)) none

/-- The lowest word with a bit outside its mask (00 R21, 09 R319). -/
def reservedFail (masks : List Nat) (ws : List W32) : Option Nat :=
  (List.range ws.length).find? (fun i =>
    decide (wordAt ws i &&& ~~~(lo32 (masks.getD i 0)) ≠ 0))

/-- The smaller of two optional word numbers. -/
def firstOf : Option Nat → Option Nat → Option Nat
  | none, b => b
  | a, none => a
  | some a, some b => some (min a b)

/-- The bits of each word that a descriptor's opcode assigns a field (09 R319 to R323; 07 R251;
08 R284; 13 R436; 14 R473). -/
def descMasks (op : Nat) : List Nat :=
  let w0 := 0x3FF
  let w0a := 0xFFFF_03FF
  match op with
  | 0x01 => [w0a, 0, m32, 0, m32, m32, m32]
  | 0x02 => [w0a, 0, m32]
  | 0x03 => [w0a, m32, m32, 0, m32, m32, m32, m32, m32, m32, m32, m32, 0x7F]
  | 0x04 => [w0, 0x3FFF_FFFF, m32, 0, m32, m32, m32, m32, m32, m32, m32, m32, m32, 0x1_FFFF, 0x7FF]
  | 0x05 | 0x06 =>
    [w0, 0x3FFF_FFFF, m32, 0, m32, m32, m32, m32, m32, m32, m32, m32, m32, 0, 0x7FF]
  | 0x07 => [w0, 1, m32, 0, m32, m32, m32, m32, m32]
  | 0x08 => [w0, 0, m32, 0, 0xF03, 0xFFFF, 0x1FF]
  | 0x20 | 0x21 => [w0, 0, m32, 0, m32, m32, m32]
  | 0x30 => [w0, 0, m32, 0, 0x7FFF, 0xFFF, 0x1F_FFFF, m32]
  | 0x32 => [w0, 0, m32, 0, 0xFF, m32, m32, m32, 1]
  | 0x31 => [w0, 0, m32, 0, 0x3_FFFF, 0xFFFF, 0xFFFF, 0, m32, m32]
  | _ => []

/-- The word of a descriptor that fails: of its reserved bits and the checks of its fields, the lowest (09 R319,
R336). -/
def descFail (ws : List W32) (checks : List (Nat × Bool)) : Option Nat :=
  firstOf (reservedFail (descMasks (wfield ws 0 7 0)) ws) (firstFail checks)

/-- The opcode is allowed on a ring of the kind for the issuer (09 R319). -/
def opAllowed (op kind : Nat) (pf : Bool) : Bool :=
  match op with
  | 0x01 | 0x02 | 0x03 | 0x08 => decide (kind = 0) && !pf
  | 0x04 | 0x05 | 0x06 | 0x07 => decide (kind = 0)
  | 0x20 => decide (kind = 1) && pf
  | 0x21 => decide (kind = 2) && pf
  | 0x30 | 0x31 | 0x32 => decide (kind = 3) && pf
  | _ => false

end Sys2Proof.Machine
end

