-- ==== Sys2Proof/Machine/FrameQueue.lean ====
section
/-! DEFINITION. The rings of a partition's frame queue in its stack memory (12 R419, R420). -/

namespace Sys2Proof.Machine

/-- The partition's transmit and receive rings: base, entries (12 R420). -/
def State.txRing (s : State) (p : Nat) : Nat × Nat :=
  ((s.reg (aPQ p + 8)).toNat * 4096, s.rf (aPQ p + 0xC) 31 16)
def State.rxRing (s : State) (p : Nat) : Nat × Nat :=
  ((s.reg (aPQ p + 4)).toNat * 4096, s.rf (aPQ p + 0xC) 15 0)

/-- The device reads and writes the partition's stack memory as a host of its queue: a write that would
change a protected range, or that meets an uncorrectable block, changes nothing (08 R289, 10
R350). -/
def State.pqRead (s : State) (p off n : Nat) : Nat :=
  fromLE (s.issuerRead (some (p, (s.part p).resident)) off n)
def State.pqWrite (s : State) (p off : Nat) (bs : List Byte) : State :=
  let i : Issuer := some (p, (s.part p).resident)
  match s.issuerUeWrite i off bs.length with
  | some b => s.failUe b
  | none => if (s.protectedHit p off bs).isSome then s else s.issuerWrite i off bs

/-- A read of a ring or a frame that meets an uncorrectable block is noted (10 R350). -/
def State.pqNote (s : State) (ue : Option Nat) : State :=
  match ue with
  | some b => s.failUe b
  | none => s

/-- An entry of the transmit ring is finished: its status is written, if it has one, and the consumer index
advances past it (12 R419). -/
def State.txDone (s : State) (p idx : Nat) (status : Option Nat) : State :=
  let r := s.txRing p
  let e := r.1 + 64 + 16 * idx
  let t := match status with
    | some v => s.pqWrite p (e + 8) (leBytes 4 (setField (lo32 (s.pqRead p (e + 8) 4)) 15 14 v).toNat)
    | none => s
  t.pqWrite p (r.1 + 4) (leBytes 4 (setField (lo32 (t.pqRead p (r.1 + 4) 4)) 15 0 ((idx + 1) % r.2)).toNat)

/-- A reset of partition p discards its frames in flight: they leave the egress queues, and their entries are passed over
(12 R420). -/
def State.discardFrames (s : State) (p : Nat) : State :=
  let idx := (s.ports.subs.flatMap (fun e => e.2.frames)).filterMap (fun f => match f.what with
    | .part q i => if q = p then some i else none
    | _ => none)
  idx.foldl (fun t i => t.txDone p i none) (s.dropFrames (fun f => f.ofPart p))

end Sys2Proof.Machine
end

