-- ==== Sys2Proof/Machine/Host.lean ====
section
/-! DEFINITION. The host interface (09_host_interface.md): rings and doorbells, descriptor fetch and
completion, COPY, layer-1 buffers, write-window lock, interrupts, and CXL.mem. -/

namespace Sys2Proof.Machine

open Host (Outcome)

/-- The outcome of every command that the spec gives an effect. -/
abbrev Done := Outcome State Fault Refusal

/-- A host access through a view reaches its function: the device answers, and a virtual function is
enabled (08 R267, 15 R483). -/
def State.reached (s : State) : View → Bool
  | .pf | .pfTable => s.up
  | .vf p | .vfTable p => s.up && decide (p.val < s.numVfs)

/-- The ring that a view's write names may be reached through it (09 R309). -/
def State.viewHasRing (s : State) (v : View) (n : Nat) : Bool :=
  match v with
  | .pf => decide (n < 65536)
  | .vf p => inRange (s.ringRange p.val) n && decide (s.ringOwner n = some p.val)
  | _ => false

-- Doorbells (09 R315 to R318).

/-- The values of a doorbell are acted on: error 4 for a value out of range, else new descriptors
become available with the stamp and consumed entries are freed (09 R312, R316, R317). -/
def State.applyDoorbell (s : State) (n : Nat) (w0 w1 : W32) : State :=
  let r := s.ring n
  let tail := field w0 15 0
  let head := field w1 15 0
  if s.ringOn n then
    if tail < s.sqSize n ∧ head < s.cqSize n
        ∧ (head + s.cqSize n - r.cqHead) % s.cqSize n ≤ s.cqUsed n then
      let r' := { r with
        sqTail := tail
        cqHead := head
        stamps := if tail = r.sqTail then r.stamps else r.stamps ++ [(tail, s.ptp)] }
      let t := s.setRing n r'
      if head = r.cqHead then t else t.deliverWaiting n
    else s.stopRing n 4
  else s

/-- Doorbell lines held in Shared state (09 R306). -/
def State.heldLines (s : State) : List Nat := (s.rings.filterMap (fun e => e.2.line)).eraseDups

/-- The code of the first check that a ring enable fails; 0 when all pass (09 R312). `pf` tells
that the write came through the physical function's block. -/
def State.ringEnableError (s : State) (n : Nat) (pf : Bool) : Nat :=
  let owner := s.ringOwner n
  let cfg := s.reg (aRINGn n + 0x18)
  let src := s.ringSource n
  let kind := s.ringKind n
  if 12 < field cfg 8 5 ∨ 12 < field cfg 4 1
      ∨ !(s.windowOk (ownerFn owner) (s.cqBase n) (32 * s.cqSize n)) then 1
  else if (0 < src ∧ src < 64) ∨ (64 ≤ src ∧ s.vectorOwner (s.sourceVector src) ≠ owner) then 2
  else if (kind = 3 ∧ n ≠ 0) ∨ (owner.isSome ∧ kind ≠ 0) ∨ (owner.isSome ∧ pf) then 3
  else if n ≠ 0 ∧ 8192 ≤ s.heldLines.length ∧ s.dbAddr n / 64 * 64 ∉ s.heldLines then 8
  else 0

/-- RING_ENABLE: a write of enable = 1 with the other fields of `cfg` to a ring whose enable reads 0
(09 R311, R312). `db0` and `db1` are the doorbell words that the device then reads; ring 0 reads
ADMIN_DB. -/
def ringEnable (v : View) (n : Nat) (cfg db0 db1 : W32) (s : State) : State :=
  if s.reached v && s.viewHasRing v n && !(s.ringOn n) && bitOf cfg 31 then
    let a := aRINGn n + 0x18
    let t := (s.applyWrite a cfg).setRbit a 31 false
    let err := t.ringEnableError n (decide (v = .pf))
    if err = 0 then
      let r := t.ring n
      let u := (t.setRing n { r with
        descs := [], unfetched := 0, sqTail := 0, cqHead := 0, stamps := [], sqHead := 0, cqTail := 0,
        phase := true, error := 0, disabling := false, muted := false,
        line := if n = 0 then none else some (t.dbAddr n / 64 * 64) }).setRbit a 31 true
      if n = 0 then (u.applyDoorbell 0 (u.reg aADMIN) (u.reg (aADMIN + 4))).deliverAdmin
      else (u.applyDoorbell n db0 db1).deliverWaiting n
    else t.setRing n { t.ring n with error := err }
  else s

/-- A partition that is released has events that wait for its first ring (08 R295 step 1). -/
def State.eventsOwed (s : State) (n : Nat) : Bool :=
  match s.ringOwner n with
  | some p => decide ((s.part p).state = .releasing) && decide (s.eventRing p = some n) && !(s.part p).events.isEmpty
  | none => false

/-- The last completion of a disabled ring has been written: enable reads 0. -/
def State.ringOff (s : State) (n : Nat) : State :=
  let r := s.ring n
  if r.disabling && r.descs.isEmpty && !(s.eventsOwed n) then
    (s.setRing n { r with disabling := false, line := none }).setRbit (aRINGn n + 0x18) 31 false
  else s

/-- The ring stops fetching; descriptors not started and posted buffers complete with
RING_DISABLED (09 R313). -/
def State.disableRing (s : State) (n : Nat) : State :=
  if s.ringOn n && !(s.ring n).disabling then
    let r := s.ring n
    ((s.dropWaits n).setRing n { r with disabling := true, descs := r.descs.map Desc.stopped }).ringOff n
  else s

/-- RING_DISABLE: a write of enable = 0 (09 R313). -/
def ringDisable (v : View) (n : Nat) (s : State) : State :=
  if s.reached v && s.viewHasRing v n then s.disableRing n else s

/-- DOORBELL_EVENT: the device answers a snoop of a line it holds, reads the 64-byte line again, and
acts on every ring whose doorbell lies in it (09 R316). It wakes a device in standby
(15 R491). -/
def doorbellEvent (line : Nat) (words : List W32) (s : State) : State :=
  if s.up then
    let rings := SMap.keysWhere (fun _ r => decide (r.line = some line)) s.rings
    let on := rings.filter (fun n => s.ringOn n)
    if on.isEmpty then s
    else
      on.foldl (fun t n =>
        let o := (s.dbAddr n - line) / 4
        t.applyDoorbell n (wordAt words o) (wordAt words (o + 1))) s.wake
  else s

/-- DOORBELL_REACQUIRE_TIMEOUT: the line of ring n could not be reacquired for 1 ms (09 R312). -/
def doorbellTimeout (n : Nat) (s : State) : State :=
  if s.up && s.ringOn n && (s.ring n).line.isSome then s.stopRing n 6 else s

/-- ADMIN_DB_WRITE: a write to a word of ADMIN_DB is a doorbell event of the admin ring
(09 R318); its bits 31:16 are reserved (09 R315) and read as zero (00 R17). -/
def adminDbWrite (word : Nat) (value : W32) (be : BitVec 4) (s : State) : State :=
  if s.up && decide (be = 0xF) && decide (word < 2) then
    let t := s.applyWrite (aADMIN + 4 * word) value
    if t.ringOn 0 then t.wake.applyDoorbell 0 (t.reg aADMIN) (t.reg (aADMIN + 4)) else t
  else s

-- Fetch and completion (09 R324, R328 to R331).

/-- The ring may fetch one more descriptor; a ring with an armed launch gate fetches none (11 R395), and a partition
at its limit of control traffic waits (13 R458). -/
def State.mayFetch (s : State) (n : Nat) : Bool :=
  let r := s.ring n
  s.awake && s.ringOn n && !r.disabling && !s.gated n && decide (r.unfetched = 0) && decide (r.sqHead ≠ r.sqTail)
    && (match s.ringOwner n with
        | some p => decide ((s.part p).state = .running)
        | none => true)
    && decide ((r.descs.filter (fun d => d.started)).length + 1 + s.cqUsed n < s.cqSize n)
    && (match s.ringOwner n with
        | some p => s.ctlRoom p 64
        | none => true)

/-- The stamps that still cover a descriptor not fetched, and the arrival time of the next one
(09 R317). -/
def liveStamps (head : Nat) (st : List (Nat × Nat)) : List (Nat × Nat) :=
  st.dropWhile (fun e => decide (e.1 = head))

/-- DESCRIPTOR_FETCH: the device fetches the next descriptor of ring n, or its read returns a CXL.io
error and the ring stops (09 R312, R324, R328). A descriptor with an opcode the ring's kind or
issuer may not use completes with BAD_DESCRIPTOR (09 R319, R336); its other words are checked when its turn
comes. -/
def descriptorFetch (n : Nat) (res : HostRead) (s : State) : State :=
  if s.mayFetch n then
    match res with
    | .error => s.stopRing n 7
    | .words ws =>
      let r := s.ring n
      let st := liveStamps r.sqHead r.stamps
      let arrival := (st.head?.map Prod.snd).getD s.ptp
      let w := (List.range 16).map (fun i => wordAt ws i)
      let op := wfield w 0 7 0
      let bad := if opAllowed op (s.ringKind n) (s.ringOwner n).isNone then none else some 0
      let d : Desc := { idx := r.sqHead, words := w, arrival := arrival, started := bad.isSome,
                        result := bad.map Result.bad, job := none }
      let t := match s.ringOwner n with
        | some p => s.chargeCtl p 64
        | none => s
      t.setRing n { r with
        sqHead := (r.sqHead + 1) % s.sqSize n, stamps := st, descs := r.descs ++ [d] }
  else s

/-- A completion of ring n may be written now: with pace_blind = 1 only when the local clock's
nanoseconds are a whole multiple of 10 µs (08 R298). -/
def State.completionDue (s : State) (n : Nat) : Bool :=
  s.awake && (match s.ringOwner n with
    | some p => !(s.paceBlind p) || decide (s.clkNs % 10000 = 0)
    | none => true)

/-- DESCRIPTOR_COMPLETION: the completion of the oldest descriptor of ring n is written once its
work has ended, and an indication that waited behind it takes the next posted buffer (09 R326, R330, R331). -/
def descriptorCompletion (n : Nat) (s : State) : State :=
  if s.completionDue n then ((s.completeFront n).deliverWaiting n).ringOff n else s

/-- PACE_BLIND_RELEASE: at a grid instant, completions and events of pace-blind partitions are
written with their interrupts (08 R298). -/
def paceBlindRelease (s : State) : State :=
  if s.awake && decide (s.clkNs % 10000 = 0) then
    (s.enabledParts.filter (fun p => s.paceBlind p)).foldl (fun t p =>
      let rings := (t.rings.map Prod.fst).filter (fun n => inRange (t.ringRange p) n)
      rings.foldl State.ringOff ((rings.foldl (fun u n => State.completeAll n (u.ring n).descs.length u) t).deliverPart p)) s
  else s

-- Write windows, interrupts (09 R337 to R342).

/-- WINDOW_LOCK: the windows and SEC_WIN_CTRL ignore writes until cold reset (09 R337). -/
def windowLock (s : State) : State := if s.up then s.setRbit aSEC 0 true else s

/-- INTC_SET_WRITE: each 1 written is an edge of its source (09 R340). -/
def intcSetWrite (n : Nat) (v : W32) (s : State) : State :=
  if s.up && decide (n < 128) then
    (setBits 32 v.toNat).foldl (fun t b => t.edge (32 * n + b)) s
  else s

/-- INTC_EN_WRITE: a source whose enable is set while it is pending sends its message (09 R340). -/
def intcEnWrite (n : Nat) (v : W32) (s : State) : State :=
  if s.up && decide (n < 128) then
    let old := s.reg (aEN n)
    let t := s.applyWrite (aEN n) v
    ((setBits 32 (t.reg (aEN n)).toNat).filter (fun b =>
        !(bitOf old b) && t.pendBit (32 * n + b))).foldl (fun u b => u.fireSource (32 * n + b)) t
  else s

/-- The vector of an entry of a function's table. -/
def State.entryVector (s : State) (fn entry : Nat) : Nat :=
  if fn = 0 then entry else (s.vecRange (fn - 1)).1 + entry

/-- MSIX_UNMASK: the vector's mask bit clears, and a message held in the pending bit array is sent;
pending of the sources it came from clears where it clears by itself (09 R340, R342). -/
def msixUnmask (fn entry : Nat) (s : State) : State :=
  if s.up && decide (fn ≤ 64) && decide (entry < 2048) then
    let k := msixKey fn entry + 12
    let w := setBit (SMap.get msixReset s.msixT k) 0 false
    let t := { s with msixT := SMap.put msixReset s.msixT k w }
    if t.pbaBit fn entry then
      let v := t.entryVector fn entry
      let u := (t.setPba fn entry false).sendMsix fn entry v
      ((u.msixHeld.filter (fun h => decide (h.2 = v) && u.autoClear h.1)).foldl (fun w h => w.setPend h.1 false)
        { u with msixHeld := u.msixHeld.filter (fun h => decide (h.2 ≠ v)) })
    else t
  else s

/-- CXL_LINK_TRAINED: the host link trains at a width and a rate in GT/s, of those that it trains at; below ×8 at 64
GT/s device source 8 fires (09 R304, R305). -/
def cxlLinkTrained (width rate : Nat) (s : State) : State :=
  if width ∈ [1, 2, 4, 8] ∧ rate ∈ [16, 32, 64] then
    let t := { s with cxlLink := (width, rate) }
    if width < 8 ∨ rate < 64 then t.edge 8 else t
  else s

-- CXL.mem (09 R306, 08 R289, 13 R450, 10 R350).

/-- The access comes from outside the environment that a partition is bound to: TSP state run or
error, and not its IDE stream, marked trusted (13 R450). -/
def State.tspBlocks (s : State) (a : Nat) (stream : Option Nat) (trusted : Bool) : Bool :=
  match s.halfOwner (a / s.halfBytes) with
  | some p => decide (2 ≤ (s.part p).tsp) && !(trusted && decide (stream = some (s.part p).stream))
  | none => false

/-- A host write of a 64-byte line, or part of one. -/
def State.cxlWrite (s : State) (a : Nat) (bs : List Byte) (stream : Option Nat) (trusted : Bool) : State :=
  if s.tspBlocks a stream trusted then s.edge 8
  else
    match s.ueInWrite a bs.length with
    | some b => s.failUe b
    | none =>
      match s.halfOwner (a / s.halfBytes) with
      | none => s.putStack a bs
      | some p =>
        let off := s.partOffset p a
        match s.protectedHit p off bs with
        | some slot => s.postPart p 0x09 (lo32 off) (hi32 off) (lo32 slot) 0
        | none => s.putStack a bs

/-- A host read of a 64-byte line, or part of one. -/
def State.cxlRead (s : State) (a n : Nat) (stream : Option Nat) (trusted : Bool) : State :=
  if s.tspBlocks a stream trusted then { s.edge 8 with outs := .cxlError :: (s.edge 8).outs }
  else
    match s.ueInRead a n with
    | some b => let t := s.failUe b; { t with outs := .cxlError :: t.outs }
    | none => let t := s.corrects [(a, n)]; { t with outs := .memData (s.readMem .stack a n) :: t.outs }

-- COPY (09 R322, R338).

/-- The words of a COPY that fail a check (09 R322). -/
def copyBad (ws : List W32) : Option Nat :=
  let len := (wordAt ws 8).toNat
  descFail ws [(4, decide (wpair ws 4 % 32 = 0)), (6, decide (wpair ws 6 % 32 = 0)),
    (8, decide (len % 32 = 0) && decide (32 ≤ len) && decide (len ≤ 0xFFFF_FFE0))]

/-- Byte offset in the issuer's stack memory of a COPY's or LOAD_IMAGE's offset (09 R322). -/
def State.windowOff (s : State) (i : Issuer) (off : Nat) : Nat :=
  match i with
  | some (p, c) => (s.ctxWindow p c).1 + off
  | none => off

/-- A COPY that may not go on, with its result: its words, its range of stack memory, and its destination in host
memory, checked whole before the first byte is written (09 R322, R336, R338); `data` the bytes read from the host, once
all are there, none of which may change a protected byte (08 R289). -/
def State.copyFail (s : State) (d : Desc) (i : Issuer) (data : Option (List Byte)) : Option (State × Result) :=
  let ws := d.words
  let len := (wordAt ws 8).toNat
  let off := s.windowOff i (wpair ws 6)
  let media (b : Nat) : State × Result := (s.failUe b, s.mediaResult i.partition b)
  match copyBad ws with
  | some w => some (s, Result.bad w)
  | none =>
    if !(s.issuerAllows i off len) then some (s, Result.access off 0xF)
    else if wfield ws 1 0 0 = 0 then
      match data with
      | none => none
      | some bs =>
        if s.issuerProtected i off bs then some (s, Result.access off 0xF)
        else (s.issuerUeWrite i off len).map media
    else
      let ha := wpair ws 4
      let fn := ownerFn i.partition
      if s.windowOk fn ha len then (s.issuerUeRead i off len).map media
      else some (s.refuseWrite fn ha, { status := .hostWindowFault, d4 := lo32 ha, d5 := hi32 ha })

/-- As many units of `left` bytes as the partition's bucket of the CXL link lets start, at most `k` (09 R307); with what
is left. The physical function's are not metered. -/
def State.passUnits (i : Issuer) (out : Bool) (unit : Nat) : Nat → Nat → State → State × Nat
  | 0, left, s => (s, left)
  | k + 1, left, s =>
    match i with
    | none => (s, 0)
    | some (p, _) =>
      if left = 0 then (s, 0)
      else
        let n := min unit left
        match s.takeShare p .cxl out n n with
        | none => (s, left)
        | some t => State.passUnits i out unit k (left - n) t

/-- A COPY goes on: read requests of up to 4,096 bytes, or writes of up to 512, start while the bucket lets them, each a
unit of its own (09 R304, R307). A COPY from the host writes stack memory once all its bytes are read; `data` is what
the device reads. -/
def State.copyStep (s : State) (n : Nat) (d : Desc) (i : Issuer) (data : List Byte) : State :=
  let ws := d.words
  let len := (wordAt ws 8).toNat
  let off := s.windowOff i (wpair ws 6)
  let out := decide (wfield ws 1 0 0 = 1)
  let unit := if out then 512 else 4096
  let q := s.passUnits i out unit (len / unit + 1) (len - d.moved)
  let t := (q.1.account i (fun a => { a with cxlBytes := a.cxlBytes + (len - d.moved - q.2) })).updDesc n d.idx
    (fun e => { e with moved := len - q.2 })
  let ok : Result := { status := .success, d4 := lo32 len }
  let count (u : State) (b : Nat) : State := u.account i (fun a => { a with stackBytes := a.stackBytes + b })
  if out then
    match t.copyFail d i none with
    | some (u, r) => u.finishDesc n d.idx r
    | none =>
      let b := len - d.moved - q.2
      let u := count ((t.issuerCorrects i (off + d.moved) b).putHost (wpair ws 4 + d.moved) (t.issuerRead i (off + d.moved) b)) b
      if q.2 = 0 then u.finishDesc n d.idx ok else u
  else if q.2 = 0 ∧ len ≤ data.length then
    match t.copyFail d i (some (data.take len)) with
    | some (u, r) => u.finishDesc n d.idx r
    | none => (count (t.issuerWrite i off (data.take len)) len).finishDesc n d.idx ok
  else t

/-- COPY: the COPY of ring n that runs goes on, or the next descriptor is a COPY and starts (09 R322). -/
def copy (n : Nat) (data : List Byte) (s : State) : State :=
  match (s.ring n).descs.find? (fun d => d.started && !d.done && decide (d.op = 0x07)) with
  | some d =>
    if s.awake then
      s.copyStep n d ((s.ringOwner n).map (fun p => (p, (s.ringCtx p n).getD 0))) data
    else s
  | none =>
    s.admitJob n 0x07 (fun t d i =>
      match t.copyFail d i none with
      | some (u, r) => u.finishDesc n d.idx r
      | none => (t.startDesc n d.idx).copyStep n d i data)

-- Layer-1 buffers (09 R323, R326).

/-- L1_BUF: the next descriptor of an indication ring posts a buffer, or completes at once with
HOST_WINDOW_FAULT (09 R323). -/
def l1Buf (n : Nat) (s : State) : State :=
  if s.awake then
    match s.nextStart n with
    | none => s
    | some d =>
      if d.op = 0x21 then
        let ws := d.words
        let a := wpair ws 4
        let size := (wordAt ws 6).toNat
        match descFail ws [(4, decide (a % 64 = 0)),
            (6, decide (size % 64 = 0) && decide (4096 ≤ size) && decide (size ≤ 2_097_152))] with
        | some w => s.finishDesc n d.idx (Result.bad w)
        | none =>
          if s.windowOk (ownerFn (s.ringOwner n)) a size then
            (s.startDesc n d.idx).deliverInds n
          else s.finishDesc n d.idx
            { status := .hostWindowFault, d4 := lo32 a, d5 := hi32 a }
      else s
  else s

/-- INDICATION_DROP: an indication that has waited 10 ms is dropped and recorded (09 R326). -/
def indicationDrop (n : Nat) (s : State) : State :=
  let r := s.ring n
  match r.inds with
  | i :: rest =>
    if i.since + 10_000_000 ≤ s.now then
      (s.setRing n { r with inds := rest }).record 0x0401 (siteRing n) 0 i.msgId
    else s
  | [] => s

-- The meanings.

def execRingEnable (v : View) (n : Nat) (cfg db0 db1 : W32) (s : State) : Done :=
  .next (ringEnable v n cfg db0 db1 s)
def execRingDisable (v : View) (n : Nat) (s : State) : Done := .next (ringDisable v n s)
/-- RING_DISABLE_COMPLETE (09 R313). -/
def execRingDisableComplete (n : Nat) (s : State) : Done := .next (s.ringOff n)
def execDoorbellEvent (line : Nat) (words : List W32) (s : State) : Done :=
  .next (doorbellEvent line words s)
def execDoorbellReacquireTimeout (n : Nat) (s : State) : Done := .next (doorbellTimeout n s)
def execAdminDbWrite (word : Nat) (value : W32) (be : BitVec 4) (s : State) : Done :=
  .next (adminDbWrite word value be s)
def execDescriptorFetch (n : Nat) (res : HostRead) (s : State) : Done :=
  .next (descriptorFetch n res s)
def execDescriptorCompletion (n : Nat) (s : State) : Done := .next (descriptorCompletion n s)
def execPaceBlindRelease (s : State) : Done := .next (paceBlindRelease s)
def execWindowLock (s : State) : Done := .next (windowLock s)
def execIntcSetWrite (n : Nat) (v : W32) (s : State) : Done := .next (intcSetWrite n v s)
def execIntcEnWrite (n : Nat) (v : W32) (s : State) : Done := .next (intcEnWrite n v s)
def execMsixUnmask (fn entry : Nat) (s : State) : Done := .next (msixUnmask fn entry s)
def execCxlLinkTrained (width rate : Nat) (s : State) : Done := .next (cxlLinkTrained width rate s)

/-- CXL_MEM_WRITE: a host write through CXL.mem reaches stack memory or is dropped; an address past
the range does not exist (09 R306). -/
def execCxlMemWrite (a : Nat) (bs : List Byte) (stream : Option Nat) (trusted : Bool) (s : State) : Done :=
  if a + bs.length ≤ s.memBytes then .next (if s.awake then s.cxlWrite a bs stream trusted else s)
  else .fault (.noSuchAddress a)

/-- CXL_MEM_READ: a host read through CXL.mem returns data or an error response (09 R306). -/
def execCxlMemRead (a n : Nat) (stream : Option Nat) (trusted : Bool) (s : State) : Done :=
  if a + n ≤ s.memBytes then .next (if s.awake then s.cxlRead a n stream trusted else s)
  else .fault (.noSuchAddress a)

def execCopy (n : Nat) (data : List Byte) (s : State) : Done := .next (copy n data s)
def execL1Buf (n : Nat) (s : State) : Done := .next (l1Buf n s)
def execIndicationDrop (n : Nat) (s : State) : Done := .next (indicationDrop n s)

end Sys2Proof.Machine
end

