-- ==== Sys2Proof/Machine/Sched.lean ====
section
/-! DEFINITION. Kernels and jobs (08 R277 to R281), accounting records (08 R300), semaphores (08 R284,
R285), saving and restoring a context (08 R286 to R288), and scrubs (13 R455, R456). -/

namespace Sys2Proof.Machine

-- Kernels.

def State.kernel (s : State) (k : Nat) : Option Kernel := s.kernels.find? (fun x => decide (x.id = k))

def State.updKernel (s : State) (k : Nat) (f : Kernel → Kernel) : State :=
  { s with kernels := s.kernels.map (fun x => if x.id = k then f x else x) }

/-- The kernel waits in its engine's queue: an older one of the list has the engine (06 R223). -/
def queuedIn (ks : List Kernel) (k : Kernel) : Bool :=
  k.unit.isSome && (match ks.find? (fun x => decide (x.unit = k.unit)) with
    | some x => decide (x.id ≠ k.id)
    | none => false)

/-- A kernel is gone; one that comes to the front of its engine's queue starts now (06 R223, 08 R278). -/
def State.dropKernel (s : State) (k : Nat) : State :=
  let rest := s.kernels.filter (fun x => decide (x.id ≠ k))
  { s with kernels := rest.map (fun x =>
      if queuedIn s.kernels x && !(queuedIn rest x) then { x with start := s.ptp } else x) }

/-- A kernel's layer time so far, in ns of PTP time (08 R278). -/
def State.layerNs (s : State) (k : Kernel) : Nat := s.ptp - k.start

/-- Tiles that a kernel's layer time counts for: a kernel on another unit has width 1 (08 R301, 09 R321). -/
def Kernel.width (k : Kernel) : Nat := max 1 k.tiles.length

/-- The issuer a kernel runs for. -/
def Kernel.issuer (k : Kernel) : Issuer := k.part.map (fun p => (p, k.ctx))

/-- Kernels of partition p that run. -/
def State.partKernels (s : State) (p : Nat) : List Kernel :=
  s.kernels.filter (fun k => decide (k.part = some p))

/-- Tiles that running kernels occupy. -/
def State.busyTiles (s : State) : List (Nat × Nat) := s.kernels.flatMap (fun k => k.tiles)

/-- A unit that the scheduler may give to a kernel: working, not fenced, its scrub completed. -/
def State.usable (s : State) (u : UnitId) : Bool :=
  !(s.isRetired u) && !(s.underSubst u) && decide (u ∉ s.withheldUnits)

/-- Active leases of partition p, the oldest first. -/
def State.activeLeases (s : State) (p : Nat) : List Lease :=
  s.leases.filter (fun l => decide (l.part = p) && decide (l.stage = .active))

/-- A lease granted during a switch is first used when the switch has ended (08 R291). -/
def State.leaseInUse (s : State) (l : Lease) : Bool :=
  decide ((s.part l.part).switch = .none) || decide (l.granted < (s.part l.part).switchAt)

/-- The free tiles of partition p: owned ones first, then leased ones (08 R280). -/
def State.freeTiles (s : State) (p : Nat) : List (Nat × Nat) :=
  let own := s.ownUnits p .tile
  let lent := ((s.activeLeases p).filter s.leaseInUse).flatMap (fun l => l.units.filter (fun u => decide (u.cls = .tile)))
  ((own ++ lent).filter (fun u => s.usable u && decide ((u.die, u.num) ∉ s.busyTiles))).map
    (fun u => (u.die, u.num))

/-- The width of a kernel: max(1, min(width, W_k, ⌊cap ÷ d_k⌋)), the power term absent with cap = 0
(08 R279). A kernel that declares no draw is not narrowed by the cap. -/
def kernelWidth (width cap : Nat) (k : KernelDecl) : Nat :=
  let w := min width k.wMax
  max 1 (if cap = 0 ∨ k.draw = 0 then w else min w (cap * 100 / k.draw))

-- Jobs.

/-- A result located at a kernel index and an instruction index (09 R325). -/
def Result.at' (r : Result) (kidx ins : Nat) : Result := { r with loc := lo32 (kidx % 65536 + ins * 2 ^ 16) }

/-- The job of a descriptor ends with a result: with its batch, each request completes (08 R283). -/
def State.finishJob (s : State) (n idx : Nat) (i : Issuer) (r : Result) : State :=
  match i with
  | none => s.finishDesc n idx r
  | some (p, c) =>
    let y := s.ctx p c
    match y.groups.find? (fun g => decide (g.head? = some (n, idx))) with
    | none => s.finishDesc n idx r
    | some g =>
      let t := g.foldl (fun t e => t.finishDesc e.1 e.2 r) s
      t.setCtx p c { t.ctx p c with groups := (t.ctx p c).groups.filter (fun h => decide (h ≠ g)) }

-- Rope commands of a job (11 R374, R392).

/-- The command is not complete, or its completion waits for its context. -/
def RopeCmd.live (c : RopeCmd) : Bool := !c.lines.isEmpty || c.saved

/-- A Rope command of the job is not complete. -/
def State.ropeLive (s : State) (n d : Nat) : Bool :=
  s.rope.cmds.any (fun c => decide (c.ring = n) && decide (c.desc = d) && c.live)

/-- The result of the first command of the job that failed. -/
def State.ropeFailed (s : State) (n d : Nat) : Option Result :=
  (s.rope.cmds.filter (fun c => decide (c.ring = n) && decide (c.desc = d))).findSome? RopeCmd.fail

/-- Keep the commands that meet a condition. -/
def State.keepCmds (s : State) (f : RopeCmd → Bool) : State :=
  { s with rope := { s.rope with cmds := s.rope.cmds.filter f } }

/-- A job ends with a result: its completion waits until no Rope command of it is outstanding, whose stores its home
then has acknowledged (09 R330 step 1). The first end stands. -/
def State.concludeJob (s : State) (n d : Nat) (i : Issuer) (r : Result) : State :=
  if s.ropeLive n d then
    s.updDesc n d (fun e => if e.done || e.ending.isSome then e else { e with ending := some r })
  else (s.finishJob n d i r).keepCmds (fun c => !(decide (c.ring = n) && decide (c.desc = d)))

/-- The last kernel of a job has reached its boundary: the job ends once no Rope command of it is outstanding,
with the status of the first that failed (11 R374). -/
def State.endJob (s : State) (n d : Nat) (i : Issuer) (ok : Result) : State :=
  if s.ropeLive n d then s
  else
    (s.finishJob n d i ((s.ropeFailed n d).getD ok)).keepCmds (fun c => !(decide (c.ring = n) && decide (c.desc = d)))

/-- The job of a descriptor has nothing left to run but its Rope commands, or has failed and waited for them. -/
def State.settleJob (s : State) (n d : Nat) (i : Issuer) : State :=
  match (s.ring n).descs.find? (fun e => decide (e.idx = d)) with
  | none => s
  | some e =>
    match e.ending, e.job with
    | some r, _ => if e.done then s else s.concludeJob n d i r
    | none, none => s
    | none, some j =>
      if !e.done && !j.running && decide (j.ran = j.count) then
        s.endJob n d i { status := .success, d4 := lo32 j.count }
      else s

/-- At a save, the commands of the context are recorded in its mailbox (11 R392 step 1). -/
def State.saveCmds (s : State) (p c : Nat) : State :=
  { s with rope := { s.rope with cmds := s.rope.cmds.map (fun k =>
      if k.part = p ∧ k.ctx = c then { k with saved := true } else k) } }

/-- At a resume, data for the ledge buffer is copied from the slots, and each command that is complete is
delivered (11 R392 step 3). -/
def State.resumeCmds (s : State) (p c : Nat) : State :=
  let mine := s.rope.cmds.filter (fun k => decide (k.part = p) && decide (k.ctx = c) && k.saved)
  let t := mine.foldl (fun t k => k.slot.foldl (fun (t : State) e =>
      t.writeMem .ledge (ledgeKey k.die ((t.ledgeRange p k.die).1 * 2 ^ 20 + e.1)) e.2) t) s
  let u : State := { t with rope := { t.rope with cmds := (t.rope.cmds.map (fun k =>
      if k.part = p ∧ k.ctx = c then { k with saved := false, slot := [] } else k)).filter (fun k =>
        k.live || k.fail.isSome) } }
  mine.foldl (fun u k => u.settleJob k.ring k.desc (some (p, c))) u

-- Accounting (08 R300, R301).

/-- An accounting record of 128 bytes. -/
def Acct.bytes (a : Acct) (time : Nat) : List Byte :=
  leBytes 8 a.seq ++ leBytes 8 a.kernels ++ leBytes 8 a.tileNs ++ leBytes 8 a.tileHs ++ leBytes 8 a.macs
  ++ leBytes 8 a.engineHs ++ leBytes 8 a.stackBytes ++ leBytes 8 a.ropeTx ++ leBytes 8 a.ropeRx
  ++ leBytes 8 a.cxlBytes ++ leBytes 8 a.ethBytes ++ leBytes 8 (a.energyNj / 1000)
  ++ leBytes 2 (min a.overruns 0xFFFF) ++ leBytes 2 (min a.aborted 0xFFFF) ++ leBytes 4 0
  ++ leBytes 8 time ++ leBytes 16 0

/-- Write one record inside the physical function's windows, or refuse it; a watchdog quiesce stops every write (13
R433). -/
def State.putAcct (s : State) (a : Nat) (x : Acct) : State :=
  if s.sec.quiesced then s
  else if s.windowOk 0x7F a 128 then s.putHost a (x.bytes s.ptp) else s.refuseWrite 0x7F a

/-- The records of partition p and its context c are updated (08 R300). -/
def State.writeAcct (s : State) (p c : Nat) : State :=
  let t := s.account (some (p, c)) (fun a => { a with seq := a.seq + 1 })
  let base := t.reg64 (aPARTp p + 0x30)
  (t.putAcct base (t.part p).acct).putAcct (base + 128 * (c + 1)) (t.ctx p c).acct

/-- Key of the handshakes of a class in an island of a die (08 R302). -/
def hsKey (die isl : Nat) (c : EngineClass) : Nat := (die * 8 + isl) * 8 + c.code

/-- Handshakes of an issuer in an island are counted for the attribution of energy (08 R302). -/
def State.meterHs (s : State) (i : Issuer) (u : UnitId) (n : Nat) : State :=
  match i with
  | none => s
  | some (p, _) =>
    let x := s.part p
    let k := hsKey u.die u.island u.cls
    s.setPart p { x with hs := SMap.put (fun _ => 0) x.hs k (SMap.get (fun _ => 0) x.hs k + n) }

-- Saving and restoring (08 R286 to R288).

/-- Copy `len` bytes of a memory into partition p's stack memory. The blocks that it covers whole get new check bytes
(10 R350). -/
def State.copyToPart (s : State) (p off : Nat) (src : SMap Byte) (lo len : Nat) : State :=
  ((s.partPieces p off len).foldl (fun (acc : State × Nat) r =>
    let t := acc.1
    ({ t with
      stack := SMap.copyIn byteZero t.stack r.1 src acc.2 r.2
      ue := t.ue.filter (fun b => !(decide (r.1 ≤ 64 * b) && decide (64 * b + 64 ≤ r.1 + r.2)))
      weak := t.weak.filter (fun b => !(blockIn b r.1 r.2)) }, acc.2 + r.2)) (s, lo)).1

/-- Copy `len` bytes of partition p's stack memory into another memory. -/
def State.copyFromPart (s : State) (p off : Nat) (dst : SMap Byte) (dest len : Nat) : SMap Byte :=
  ((s.partPieces p off len).foldl (fun (acc : SMap Byte × Nat) r =>
    (SMap.copyIn byteZero acc.1 acc.2 s.stack r.1 r.2, acc.2 + r.2)) (dst, dest)).1

/-- Offset in the save area of the i-th saved activation stage, and of the ledge of a die. -/
def saveStageOff (i : Nat) : Nat := 4096 + i * 2 ^ 20
def State.saveLedgeOff (s : State) (p c die : Nat) : Nat :=
  4096 + (s.saveTiles p c + die * s.ledgeSave p c) * 2 ^ 20

/-- Bytes of a die's ledge that a context keeps: the first ledge_save MiB of the partition's range, or all of a
shorter one (08 R286). -/
def State.ledgeKept (s : State) (p c die : Nat) : Nat := min (s.ledgeSave p c) (s.ledgeRange p die).2 * 2 ^ 20

/-- What the header of a save holds: the semaphore counts, the ring positions and the records of outstanding remote
operations (08 R286, R287). -/
def State.saveContents (s : State) (p c : Nat) : List Nat :=
  (s.ctx p c).sems
    ++ ((s.rings.filter (fun e => decide (s.ringCtx p e.1 = some c) && inRange (s.ringRange p) e.1)).flatMap (fun e =>
      [e.1, e.2.sqHead, e.2.sqTail, e.2.cqHead, e.2.cqTail, e.2.gen]))
    ++ ((s.rope.cmds.filter (fun k => decide (k.part = p) && decide (k.ctx = c))).flatMap (fun k => [k.ring, k.desc]))

/-- Bytes that a save of the context, or its restore, moves (08 R301, R303). -/
def State.savedBytes (s : State) (p c : Nat) : Nat :=
  4096 + (s.ctx p c).used.length * stageBytes + s.ledgeKept p c 0 + s.ledgeKept p c 1

/-- Moves of a switch are charged to the context that it takes out (08 R301, R303). -/
def State.chargeMoves (s : State) (p c n : Nat) : State :=
  s.account (some (p, c)) (fun a => { a with stackBytes := a.stackBytes + n })

/-- The digest of a save area: of all its bytes behind the digest itself (08 R286, log entry 77). -/
def State.saveDigest (s : State) (p c : Nat) : List Byte :=
  let r := s.saveRange p c
  sha256 (s.issuerRead (some (p, c)) (r.1 + 32) (r.2 - 32))

/-- The save of a context: header, activation stages of the tiles it occupied, and the kept part of
the ledge ranges; its credits return (08 R286, R287). -/
def State.saveContext (s : State) (p c : Nat) : State :=
  let base := (s.saveRange p c).1
  let header := (List.range 4064).map (fun i => Config.saveHeader (s.saveContents p c) (32 + i))
  let t := s.issuerWrite (some (p, c)) base (List.replicate 32 0 ++ header)
  let u := ((t.ctx p c).used.foldl (fun (acc : State × Nat) tl =>
    (acc.1.copyToPart p (base + saveStageOff acc.2) acc.1.tileA (stageKey tl.1 tl.2 0) stageBytes,
      acc.2 + 1)) (t, 0)).1
  let led (v : State) (die : Nat) : State :=
    v.copyToPart p (base + v.saveLedgeOff p c die) v.ledge
      (ledgeKey die ((v.ledgeRange p die).1 * 2 ^ 20)) (v.ledgeKept p c die)
  let w := led (led u 0) 1
  let x := w.issuerWrite (some (p, c)) base (w.saveDigest p c)
  ((x.setCtx p c { x.ctx p c with saved := true, creditsReturned := true }).saveCmds p c).chargeMoves p c
    (s.savedBytes p c)

/-- A tile's activation stage is filled from the partition's stack memory. -/
def State.loadStage (s : State) (p off die tile : Nat) : State :=
  { s with tileA := s.copyFromPart p off s.tileA (stageKey die tile 0) stageBytes }

/-- A die's ledge share is filled from the partition's stack memory. -/
def State.loadLedge (s : State) (p off die len : Nat) : State :=
  { s with ledge := s.copyFromPart p off s.ledge (ledgeKey die ((s.ledgeRange p die).1 * 2 ^ 20)) len }

/-- Bytes of a tile's weight store are filled from the partition's stack memory. -/
def State.loadWeight (s : State) (p off die tile dst len : Nat) : State :=
  { s with tileW := s.copyFromPart p off s.tileW (weightKey die tile dst) len }

/-- The restore of a context: activation stages onto tiles by rank, and the ledge (08 R288). -/
def State.restoreContext (s : State) (p c : Nat) : State :=
  let base := (s.saveRange p c).1
  let n := (s.ctx p c).used.length
  let tiles := (s.freeTiles p).take n
  let t := (tiles.foldl (fun (acc : State × Nat) tl =>
    (acc.1.loadStage p (base + saveStageOff acc.2) tl.1 tl.2, acc.2 + 1)) (s, 0)).1
  let led (v : State) (die : Nat) : State := v.loadLedge p (base + v.saveLedgeOff p c die) die (v.ledgeKept p c die)
  let w := led (led t 0) 1
  (w.setCtx p c { w.ctx p c with saved := false, used := tiles }).resumeCmds p c

/-- The save area holds what its digest says, and no block of it is uncorrectable (08 R288 step 1, 10 R350). -/
def State.saveGood (s : State) (p c : Nat) : Bool :=
  let r := s.saveRange p c
  (s.issuerUeRead (some (p, c)) r.1 r.2).isNone && decide (s.issuerRead (some (p, c)) r.1 32 = s.saveDigest p c)

/-- A weight range that a resume streams: from an offset of the context window to an offset of a tile's weight store
(08 R288 step 4). -/
structure WeightLoad where
  die : Nat
  tile : Nat
  dst : Nat
  src : Nat
  len : Nat
  deriving DecidableEq, Repr

/-- A weight load lies in a manifest range of an image of the context and in a weight store (08 R288 step 4). -/
def State.loadOk (s : State) (p c : Nat) (l : WeightLoad) : Bool :=
  (s.ctx p c).images.any (fun e => e.2.manifest.any (fun m => inside (l.src, l.len) m))
    && decide (l.dst + l.len ≤ weightBytes)

/-- Units that partition p holds: its own and leased ones. -/
def State.heldUnits (s : State) (p : Nat) : List UnitId :=
  s.ownUnits p .tile ++ s.ownUnits p .vde ++ s.ownUnits p .fft
    ++ (s.leases.filter (fun l => decide (l.part = p))).flatMap (fun l => l.units)

/-- A unit that the partition holds is under substitution: a switch or a save waits (01 R42). -/
def State.substHeld (s : State) (p : Nat) : Bool := (s.heldUnits p).any (fun u => s.underSubst u)

/-- At the boundary of every running kernel of a switch, with no section open and no unit under substitution, the
save is made (08 R286, R290 steps 2 and 3; 01 R42). -/
def State.maybeSave (s : State) (p : Nat) : State :=
  let x := s.part p
  if decide (x.switch = .draining) && (s.partKernels p).isEmpty && (x.ctx x.resident).sectionAt.isNone
      && !(s.substHeld p) then
    let t := s.saveContext p x.resident
    t.setPart p { t.part p with switch := .saving }
  else s

-- Boundaries and ends of kernels (08 R278).

/-- A kernel of width 1 on a unit ends: at its boundary, or failed (09 R321, 08 R278). -/
def State.finishUnit (s : State) (k : Kernel) (r : Result) : State :=
  let t := if r.status = .success then
      (s.dropKernel k.id).account k.issuer (fun a =>
        { a with kernels := a.kernels + 1, tileNs := a.tileNs + k.width * s.layerNs k })
    else s.dropKernel k.id
  let u := t.finishDesc k.ring k.desc r
  match k.part with
  | some p => (if r.status = .success then u.writeAcct p k.ctx else u).maybeSave p
  | none => u

/-- The boundary of a kernel: its last output has committed. Its job goes on with its next kernel, or
completes (08 R278, R281, 09 R336). -/
def State.kernelBoundary (s : State) (k : Kernel) : State :=
  let i := k.issuer
  let t := (s.dropKernel k.id).account i (fun a =>
    { a with kernels := a.kernels + 1, tileNs := a.tileNs + k.width * s.layerNs k })
  let u :=
    match k.kind with
    | .run =>
      match (t.ring k.ring).descs.find? (fun d => decide (d.idx = k.desc)) with
      | some d =>
        match d.job with
        | some j =>
          let j' := { j with ran := j.ran + 1, running := false }
          let v := t.updDesc k.ring k.desc (fun d => { d with job := some j' })
          if j'.ran = j'.count then
            v.endJob k.ring k.desc i { status := .success, d4 := lo32 j'.count }
          else v
        | none => t
      | none => t
    | _ => t.finishDesc k.ring k.desc (Result.of .success)
  match k.part with
  | some p => (u.writeAcct p k.ctx).maybeSave p
  | none => u

/-- A job fails at an instruction of its kernel (09 R335): stores that have not committed are
dropped with the kernel, and later kernels of the job do not run. -/
def State.failKernel (s : State) (k : Kernel) (ins : Nat) (r : Result) : State :=
  let t := (s.dropKernel k.id).concludeJob k.ring k.desc k.issuer (r.at' k.kidx ins)
  match k.part with
  | some p => t.maybeSave p
  | none => t

/-- A kernel ends without its remaining output, at no instruction of it (09 R325, R335). -/
def State.endKernel (s : State) (k : Kernel) (r : Result) : State := s.failKernel k 0 r

/-- A kernel is ended for its layer time, its hold or a reclaim, and counted as aborted (08 R278, R285, R300). -/
def State.abortKernel (s : State) (k : Kernel) (r : Result) : State :=
  (s.account k.issuer (fun a => { a with aborted := a.aborted + 1 })).endKernel k r

-- Semaphores (08 R284, R285).

/-- Waiting acquires of a context are served in order, each semaphore's first waiter first, while its
count allows. -/
def serveWaits (now : Nat) : Nat → Ctx → List (Nat × Nat) → Ctx × List (Nat × Nat)
  | 0, y, acc => (y, acc)
  | k + 1, y, acc =>
    let firsts := y.waits.filter (fun w =>
      decide ((y.waits.find? (fun v => decide (v.sem = w.sem))) = some w)
        && decide (w.amount ≤ y.sems.getD w.sem 0))
    match firsts with
    | [] => (y, acc)
    | w :: _ =>
      let start := y.sectionAt.getD now
      let y' := { y with
        sems := y.sems.set w.sem (y.sems.getD w.sem 0 - w.amount)
        waits := y.waits.filter (fun v => decide (v ≠ w))
        sectionAt := some start
        held := y.held ++ [⟨w.ring, w.sem, w.amount, min (now + w.holdUs * 1000) (start + 300_000)⟩] }
      serveWaits now k y' (acc ++ [(w.ring, w.idx)])

/-- No section of the context opens: it is not resident, a switch is under way, or the save of a reclaim has started
(08 R285). -/
def State.noSection (s : State) (p c : Nat) : Bool :=
  let x := s.part p
  decide (x.resident ≠ c) || decide (x.switch ≠ .none) || x.reclaiming

/-- Serve what can be served in context c of partition p; served acquires complete. -/
def State.serveSems (s : State) (p c : Nat) : State :=
  let y := s.ctx p c
  if y.sectionAt.isNone && s.noSection p c then s
  else
    let r := serveWaits s.now y.waits.length y []
    r.2.foldl (fun t e => t.finishDesc e.1 e.2 (Result.of .success)) (s.setCtx p c r.1)

/-- Return an amount of a semaphore against what is held, oldest first. -/
def giveBack : Nat → Nat → List Acquired → List Acquired
  | _, 0, hs => hs
  | _, _, [] => []
  | sem, n, h :: hs =>
    if h.sem = sem then
      (if h.amount ≤ n then giveBack sem (n - h.amount) hs
       else { h with amount := h.amount - n } :: hs)
    else h :: giveBack sem n hs

/-- The section closes when every amount acquired in it has been returned. -/
def Ctx.closeSection (y : Ctx) : Ctx := if y.held.isEmpty then { y with sectionAt := none } else y

-- Scrubs (13 R455, R456).

/-- Zero the stores of a unit; one whose scrub could not be completed is withheld, and keeps what it holds (13
R455). -/
def State.scrubUnit (s : State) (u : UnitId) : State :=
  if u ∈ s.withheldUnits then s else
  match u.cls with
  | .tile => (s.zeroMem .weight (weightKey u.die u.num 0) weightBytes).zeroMem .act
      (stageKey u.die u.num 0) stageBytes
  | .vde => s.setVde u.die u.num Vde.reset
  | _ => s

/-- The ledge units of partition p: die and unit of 1 MiB. -/
def State.ledgeUnits (s : State) (p : Nat) : List (Nat × Nat) :=
  ([0, 1] : List Nat).flatMap (fun d => (List.range (s.ledgeRange p d).2).map (fun i => (d, (s.ledgeRange p d).1 + i)))

/-- Zero the ledge ranges of partition p, but for units whose scrub could not be completed. -/
def State.scrubLedge (s : State) (p : Nat) : State :=
  let one (t : State) (die : Nat) : State :=
    let r := t.ledgeRange p die
    t.zeroMem .ledge (ledgeKey die (r.1 * 2 ^ 20)) (r.2 * 2 ^ 20)
  if (s.ledgeUnits p).any (fun e => decide (e ∈ s.withheldLedge)) then
    ((s.ledgeUnits p).filter (fun e => decide (e ∉ s.withheldLedge))).foldl
      (fun t e => t.zeroMem .ledge (ledgeKey e.1 (e.2 * 2 ^ 20)) (2 ^ 20)) s
  else one (one s 0) 1

/-- The scrub of every unit the partition holds and of its ledge ranges (08 R290 step 4). -/
def State.scrubPart (s : State) (p : Nat) : State :=
  ((s.heldUnits p).foldl State.scrubUnit s).scrubLedge p

/-- A scrub that covers partition p has ended: its record and the Summit register (13 R456). -/
def State.scrubRecord (s : State) (p kind : Nat) (failed : Bool) : State :=
  let a := aSCRUB p
  ((((s.setReg a (s.reg a + 1)).setReg (a + 4) (lo32 (kind + if failed then 2 ^ 8 else 0))).setReg
    (a + 8) (lo32 s.ptp)).setReg (a + 12) (hi32 s.ptp)).record 0x0501 (sitePart p) 0
      (kind + if failed then 8 else 0 : Nat)

end Sys2Proof.Machine
end

