-- ==== Sys2Proof/Machine/Partition.lean ====
section
/-! DEFINITION. Partitions (08_partitions_scheduling.md): enabling, resuming, reset, release, virtual
functions, kernel starts and ends, the tenant switch, batches, semaphores and accounting. -/

namespace Sys2Proof.Machine

-- Leases as partitions meet them (07 R253, R255).

/-- A lease event goes to the partition and to the physical function (07 R255). -/
def State.leaseEvent (s : State) (l : Lease) (kind : Nat) : State :=
  let w0 := lo32 (l.id + kind * 2 ^ 12 + (if kind = 2 then 0 else l.cause * 2 ^ 16))
  let e := if kind = 2 then 0 else l.endPtp
  let t := s.postPart l.part 0x01 w0 0 (lo32 e) (hi32 e)
  let ev : EventEntry := ⟨0x01, t.ptp, w0, 0, lo32 e, hi32 e⟩
  ({ t with adminEvents := t.adminEvents ++ [ev] }).deliverAdmin

def State.updLease (s : State) (id : Nat) (f : Lease → Lease) : State :=
  { s with leases := s.leases.map (fun l => if l.id = id then f l else l) }

/-- Steps 1 and 2 of a reclaim: the lease enters notice with its end at t0 + N (07 R253). -/
def State.startReclaim (s : State) (id cause : Nat) : State :=
  match s.leases.find? (fun l => decide (l.id = id) && decide (l.stage = .active)) with
  | none => s
  | some l =>
    let l' := { l with stage := .notice, t0 := s.now, cause := cause,
                       endPtp := (s.clk + l.noticeUs * 1000) % 2 ^ 64 }
    (s.updLease id (fun _ => l')).leaseEvent l' 0

-- Placement checks (08 R269, R273).

/-- Half-stacks held for radio (10 R345). -/
def State.radioHalf (s : State) (h : Nat) : Bool :=
  let w := s.reg (aBELAY + 8)
  if h < 24 then decide (24 - field w 20 16 ≤ h) else decide (48 - field w 28 24 ≤ h)

/-- First unit of the radio ledge region of a die (07 R264). -/
def State.radioLedge (s : State) (die : Nat) : Nat :=
  let w := s.reg (aBELAY + 8)
  96 - (if die = 0 then field w 6 0 else field w 14 8)

/-- Two ranges given by first and count share an element. -/
def rangesMeet (a b : Nat × Nat) : Bool :=
  decide (0 < a.2) && decide (0 < b.2) && decide (a.1 < b.1 + b.2) && decide (b.1 < a.1 + a.2)

/-- The units that partition p's registers name. -/
def State.allNamed (s : State) (p : Nat) : List UnitId :=
  s.namedUnits p .tile ++ s.namedUnits p .vde ++ s.namedUnits p .fft

/-- Something that p names belongs to another enabled partition, to ring 0, or is withheld because
its scrub could not be completed (08 R273 code 1, 09 R310, 13 R455). -/
def State.ownedElsewhere (s : State) (p : Nat) : Bool :=
  let others := s.enabledParts.filter (fun q => decide (q ≠ p))
  let rr := s.ringRange p
  (s.allNamed p).any (fun u => others.any (fun q => s.named q u) || decide (u ∈ s.withheldUnits))
  || (s.halves p).any (fun h => others.any (fun q => decide (h ∈ s.halves q))
      || decide (h ∈ s.withheldHalves))
  || others.any (fun q => rangesMeet (s.ledgeRange p 0) (s.ledgeRange q 0)
      || rangesMeet (s.ledgeRange p 1) (s.ledgeRange q 1)
      || rangesMeet rr (s.ringRange q) || rangesMeet (s.vecRange p) (s.vecRange q))
  || (s.ledgeUnits p).any (fun e => decide (e ∈ s.withheldLedge))
  || (decide (rr.1 = 0) && decide (0 < rr.2))

/-- The ledge range of p on a die overlaps the radio region or runs past 96 MiB. -/
def State.ledgeBad (s : State) (p die : Nat) : Bool :=
  let r := s.ledgeRange p die
  decide (0 < r.2) && (decide (96 < r.1 + r.2) || decide (s.radioLedge die < r.1 + r.2))

/-- The code of the first check that enabling or resuming partition p fails, in the order of the
table; 0 when all pass (08 R273). -/
def State.partError (s : State) (p : Nat) : Nat :=
  let tiles := s.namedTiles p
  let rr := s.ringRange p
  let vr := s.vecRange p
  let ctxs := s.ctxCount p
  let total := ((s.enabledParts.filter (fun q => decide (q ≠ p))).map (fun q => s.ctxCount q)).sum
  if s.numVfs < p + 1 then 10
  else if s.ownedElsewhere p then 1
  else if (s.allNamed p).any (fun u => s.inRadio u) then 2
  else if s.ledgeBad p 0 || s.ledgeBad p 1 then 3
  else if (s.halves p).any (fun h => s.radioHalf h) then 4
  else if 65536 < rr.1 + rr.2 ∨ 2048 < vr.1 + vr.2 then 5
  else if tiles < s.rf (aPARTp p + 8) 8 0 then 6
  else if (s.halves p).length * 48 < tiles then 7
  else if ctxs = 0 ∨ 4096 < ctxs ∨ 4096 < ctxs + total
      ∨ !(inside (s.tableRange p) (0, s.partBytes p)) then 8
  else 0

def State.setCfgError (s : State) (p e : Nat) : State := s.setPart p { s.part p with cfgError := e }

/-- PARTITION_ENABLE: a write of enable = 1 to a DISABLED partition (08 R271, R273). In standby it is
refused with cfg_error 9 (15 R492); while a firmware update activates it is ignored (13 R438). What standby lost is
zeroed first (15 R490). -/
def partitionEnable (p : Nat) (s : State) : State :=
  if s.up && !s.activating && decide ((s.part p).state = .disabled) then
    if s.power.standby = .running then
      let e := s.partError p
      if e = 0 then
        let x := s.part p
        ((s.zeroLost.setPart p { Part.reset with
          cfgError := x.cfgError, quantumAt := s.now, tokAt := s.now, blind := s.rbit (aPARTp p) 3 }).setRbit
          (aPARTp p) 0 true).enterPart p .running
      else s.setCfgError p e
    else s.setCfgError p 9
  else s

/-- The partition is bound, and writes to its entry are ignored with cfg_error 9 (13 R450). -/
def State.locked (s : State) (p : Nat) : Bool := decide ((s.part p).tsp ≠ 0)

/-- PARTITION_RESUME: a write of resume to a STOPPED partition (08 R269, R271). -/
def partitionResume (p : Nat) (s : State) : State :=
  if s.up && s.locked p then s.setCfgError p 9
  else if s.awake && decide ((s.part p).state = .stopped) then
    let e := s.partError p
    if e = 0 then (s.setPart p { s.part p with added := [] }).enterPart p .running else s.setCfgError p e
  else s

-- Reset and release (08 R292 to R296).

/-- Every ring of partition p's range (08 R272). -/
def State.ringsOf (s : State) (p : Nat) : List Nat :=
  (List.range (s.ringRange p).2).map (· + (s.ringRange p).1)

/-- The rings of partition p that hold anything. -/
def State.partRings (s : State) (p : Nat) : List Nat :=
  (s.rings.map Prod.fst).filter (fun n => inRange (s.ringRange p) n)

/-- Every kernel of partition p is dropped without its remaining output. -/
def State.dropKernels (s : State) (p : Nat) : State :=
  { s with kernels := s.kernels.filter (fun k => decide (k.part ≠ some p)) }

/-- The further effects of either reset: semaphores zero, saves invalid, images unloaded, credits
returned, sections, waits and batches gone (08 R294). -/
def State.clearContexts (s : State) (p : Nat) : State :=
  let x := s.part p
  s.setPart p { x with
    ctxs := SMap.mapVals (fun _ => Ctx.reset) (fun y => { Ctx.reset with checked := y.checked, acct := y.acct }) x.ctxs
    switch := .none, reclaiming := false }

/-- The reset of a partition starts in a mode: partition event 0x04; with generation discard the
rings' generations advance, their heads jump to the tails, and all work is abandoned (08 R292,
R293, 09 R333). The partition's outstanding Rope commands are abandoned at once (11 R393), its frames in
flight are discarded and passed over (12 R420), and the SPDM sessions of its function end (13 R448). -/
def State.startReset (s0 : State) (p : Nat) (discard : Bool) : State :=
  let s := ((s0.keepCmds (fun c => decide (c.part ≠ p))).discardFrames p).endSessions (p + 1)
  let t := s.setPart p { s.part p with discard := discard, switch := .none }
  if discard then
    let u := (t.ringsOf p).foldl (fun u n =>
      let r := u.ring n
      (u.setRing n { r with unfetched := 0, gen := (r.gen + 1) % 256, sqHead := r.sqTail, descs := [], stamps := [] }).bumpRf
        (aPARTp p + 0xC0) 31 0 r.descs.length) t
    let v := (u.dropKernels p).clearContexts p
    let w := v.setPart p { v.part p with stage := .scrubbing }
    w.postPart p 0x04 1 0 0 0
  else
    (t.setPart p { t.part p with stage := .draining }).postPart p 0x04 0 0 0 0

/-- QUIESCE_RESET and GENERATION_DISCARD: a write of reset to a partition that is RUNNING or STOPPED;
in any other state it has no effect (08 R296). -/
def State.resetWrite (s : State) (p : Nat) (discard : Bool) : State :=
  let st := (s.part p).state
  if s.awake && (decide (st = .running) || decide (st = .stopped)) then
    (s.enterPart p .resetting).startReset p discard
  else s

/-- The reset mode that the partition's registers name. -/
def State.resetMode (s : State) (p : Nat) : Bool := s.rbit (aPARTp p) 2

/-- QUIESCE_RESET: with reset_mode 0 (08 R292). -/
def quiesceReset (p : Nat) (s : State) : State :=
  if s.up && s.locked p then s.setCfgError p 9
  else if s.resetMode p then s else s.resetWrite p false

/-- GENERATION_DISCARD: with reset_mode 1 (08 R293). -/
def generationDiscard (p : Nat) (s : State) : State :=
  if s.up && s.locked p then s.setCfgError p 9
  else if s.resetMode p then s.resetWrite p true else s

/-- Every descriptor of a ring that has not completed finishes with a status, and so does, on an enabled ring, every
one posted and not fetched, whose words are `ws`: the position passes each of these as its completion is written (08
R292 step 3, R288; 09 R333). -/
def State.drainRing (s : State) (n : Nat) (st : Status) (ws : List (List W32)) : State :=
  let r := s.ring n
  let fetched := r.descs.map (fun d =>
    d.finish (Result.of st))
  if s.ringOn n && !r.disabling then
    let left := (r.sqTail + s.sqSize n - r.sqHead) % s.sqSize n
    let fresh := (List.range left).map (fun i =>
      ({ idx := (r.sqHead + i) % s.sqSize n,
         words := (List.range 16).map (fun j => wordAt (ws.getD i []) j), arrival := s.ptp,
         started := true, result := some (Result.of st), job := none } : Desc))
    s.setRing n { r with descs := fetched ++ fresh.drop r.unfetched, unfetched := left, stamps := [] }
  else s.setRing n { r with descs := fetched }

/-- The rings are drained with a status; `posted` holds, by ring, the words of descriptors posted and not fetched. -/
def State.drainRings (s : State) (rings : List Nat) (st : Status) (posted : List (Nat × List (List W32))) : State :=
  rings.foldl (fun t n =>
    t.drainRing n st (((posted.find? (fun e => decide (e.1 = n))).map Prod.snd).getD [])) s

/-- RESET_DRAIN_DONE: the kernels have ended, and no unit is under substitution; outstanding descriptors complete with
PARTITION_RESET and the scrub starts (08 R292 steps 2 to 4, R296). `posted` holds, by ring, the words of descriptors
posted and not fetched. -/
def resetDrainDone (p : Nat) (posted : List (Nat × List (List W32))) (s : State) : State :=
  if decide ((s.part p).stage = .draining) && (s.partKernels p).isEmpty && s.awake && !(s.substHeld p) then
    let u := (s.drainRings (s.partRings p) .partitionReset posted).clearContexts p
    u.setPart p { u.part p with stage := .scrubbing }
  else s

/-- PARTITION_RELEASE: a write of enable = 0 (08 R295, R296). -/
def State.release (s : State) (p : Nat) : State :=
  match (s.part p).state with
  | .running | .stopped => (s.enterPart p .releasing).startReset p (s.resetMode p)
  | .resetting => s.setPart p { s.part p with releaseNext := true }
  | _ => s

def partitionRelease (p : Nat) (s : State) : State :=
  if s.up && s.locked p then s.setCfgError p 9
  else if s.awake then (s.release p).setRbit (aPARTp p) 0 false else s

/-- TotalVFs of the SR-IOV capability. Of configuration space the spec gives only what it carries, and no command reads
it (09 R308, log entry 78). -/
def totalVfs : Nat := 64

/-- VF_ENABLE_CLEARED: the physical function leaves `n` virtual functions enabled; partitions that
lose theirs are released (08 R267). -/
def vfEnableCleared (n : Nat) (s : State) : State :=
  if s.up then
    ((List.range 64).filter (fun p => decide (n ≤ p) && s.enabled p)).foldl
      (fun t p => (t.release p).setRbit (aPARTp p) 0 false) { s with numVfs := min totalVfs n }
  else s

/-- VF_FLR: a function-level reset of virtual function p + 1 ends its sessions and resets partition p in its reset_mode
(08 R297, 13 R448). -/
def vfFlr (p : Nat) (s : State) : State :=
  s.configured (fun t => if p < t.numVfs then (t.endSessions (p + 1)).resetWrite p (t.resetMode p) else t)

/-- A Rope region is disabled and its key cleared (11 R368, R388). -/
def State.clearRegion (s : State) (i : Nat) : State :=
  let t := s.setRbit (aRGN i) 0 false
  { t with rope := { t.rope with keys := SMap.put (fun _ => 0) t.rope.keys i 0 } }

/-- The Rope regions that name partition p as their owner are disabled and their keys cleared (11 R393, R368). -/
def State.disableRegions (s : State) (p : Nat) : State :=
  ((List.range 2048).filter (fun i => decide (s.rf (aRGN i) 14 8 = p))).foldl
    State.clearRegion s

/-- The scrub of a reset has covered the units of partition p's leases that are on their way back (08 R296). -/
def State.coverLeases (s : State) (p : Nat) : State :=
  { s with leases := s.leases.map (fun l =>
      if l.part = p ∧ (l.stage = .notice ∨ l.stage = .scrubbing) then { l with stage := .scrubbed } else l) }

/-- The losses of tiles of partition p that nothing replaced are over (01 R43). -/
def State.clearLost (s : State) (p : Nat) : State :=
  { s with units := { s.units with tilesLost := s.units.tilesLost.filter (fun e => decide (e.1 ≠ p)) } }

/-- The scrub of a reset has ended: a release goes on, else the partition leaves RESETTING: STOPPED when width exceeds
its tiles or a tile was lost without replacement meanwhile. A release that was asked for meanwhile follows at once
(08 R292 step 5, R295, R296). -/
def State.resetScrubbed (s : State) (p : Nat) (failed : Bool) : State :=
  let t := ((s.scrubPart p).coverLeases p).scrubRecord p 2 failed
  let x := t.part p
  if x.state = .releasing then
    -- the release goes on: event 0x05, rings disabled, then the scrub of owned resources (R295)
    let u := t.postPart p 0x05 (if x.discard then 1 else 0) 0 0 0
    let v := ((u.leases.filter (fun l => decide (l.part = p) && decide (l.stage = .active))).foldl
      (fun w l => w.startReclaim l.id 5) u).disableRegions p
    let w := (v.partRings p).foldl (fun v n => v.disableRing n) v
    let y := w.setRbit (aPQ p) 31 false
    y.setPart p { y.part p with stage := .releaseScrub }
  else
    let lost := t.units.tilesLost.find? (fun e => decide (e.1 = p))
    let st : PartState := if t.ownedTiles p < t.rf (aPARTp p + 8) 8 0 ∨ lost.isSome then .stopped else .running
    let u := (t.clearLost p).setPart p { x with stage := .idle, quantumAt := t.now, tsp := 0, releaseNext := false }
    let v := (u.enterPart p st).postPart p 0x05 (if x.discard then 1 else 0) 0 0 0
    let w := match lost with
      | some (_, d, i) => v.postPart p 0x02 (lo32 (d * 2 ^ 16 + i)) 0 0 0
      | none => v
    if x.releaseNext then w.release p else w

/-- The scrub of a release has ended: stack memory zeroed, ownership freed, DISABLED (08 R295 step
4). -/
def State.releaseScrubbed (s : State) (p : Nat) (failed : Bool) : State :=
  let t := ((s.halves p).filter (fun h => decide (h ∉ s.withheldHalves))).foldl (fun t h => t.zeroMem .stack (h * t.halfBytes) t.halfBytes) (s.scrubPart p)
  let u := (t.scrubRecord p 3 failed).clearLost p
  let x := u.part p
  (u.setPart p { Part.reset with
    state := x.state, cfgError := x.cfgError, events := x.events, lost := x.lost }).enterPart p .disabled

-- Kernels (08 R278 to R281).

/-- A ring of the resident context whose job has a kernel to start, with the job's image. -/
def State.readyJob (s : State) (p c n : Nat) : Option (Desc × Job × KernelDecl) :=
  match (s.ring n).descs.find? (fun d => d.started && !d.done && d.job.isSome) with
  | none => none
  | some d =>
    match d.job with
    | none => none
    | some j =>
      if j.running ∨ j.count ≤ j.ran then none
      else
        match ((s.ctx p c).images.find? (fun e => decide (e.1 = j.slot))) with
        | none => none
        | some im => (im.2.kernels[j.first + j.ran]?).map (fun k => (d, j, k))

/-- Rings of the context in the scheduler's order: round robin in increasing number, after the ring
served last (08 R281). -/
def State.ringOrder (s : State) (p c : Nat) : List Nat :=
  let first := (s.ringRange p).1 + s.ringFirst p c
  let all := (s.partRings p).filter (fun n => inRange (first, s.ringCount p c) n)
  let last := (s.part p).lastRing
  all.filter (fun n => decide (last < n)) ++ all.filter (fun n => decide (n ≤ last))

/-- The width of the next kernel of a job under the partition's registers (08 R279). -/
def State.widthFor (s : State) (p : Nat) (k : KernelDecl) : Nat :=
  kernelWidth (s.rf (aPARTp p + 8) 8 0) (s.rf (aPARTp p + 0xC) 10 0) k

/-- base0 to base7 of a job descriptor, in bytes of the issuer's stack memory (09 R320, R321). -/
def jobBases (ws : List W32) : List Nat := (List.range 8).map (fun i => (wordAt ws (4 + i)).toNat * 4096)

/-- KERNEL_OVERRUN: a kernel is past max_time_us: partition event 0x03 and the overrun count, or admin
event 0x05 for the physical function (08 R278, 09 R329). -/
def kernelOverrun (k : Nat) (s : State) : State :=
  match s.kernel k with
  | none => s
  | some x =>
    if !x.overrun && !(queuedIn s.kernels x) && decide (x.maxUs * 1000 < s.layerNs x) then
      let t := s.updKernel k (fun y => { y with overrun := true })
      match x.part with
      | some p =>
        (t.account x.issuer (fun a => { a with overruns := a.overruns + 1 })).postPart p 0x03
          (lo32 x.ctx) (lo32 x.kidx) 0 0
      | none =>
        let tag := (((t.ring x.ring).descs.find? (fun d => decide (d.idx = x.desc))).map
          (fun d => wordAt d.words 2)).getD 0
        t.postAdmin 0x05 (lo32 x.ring) tag 0
    else s

/-- The context of a partition's kernel is in a section (08 R278, R285). -/
def State.inSection (s : State) (k : Kernel) : Bool :=
  match k.part with
  | some p => (s.ctx p k.ctx).sectionAt.isSome && decide ((s.part p).state = .running)
  | none => false

/-- KERNEL_ABANDON: a kernel still running at max_time_us + 300 µs is abandoned with
LAYER_TIME_EXCEEDED, unless it runs inside a section (08 R278). -/
def kernelAbandon (k : Nat) (s : State) : State :=
  match s.kernel k with
  | none => s
  | some x =>
    if !(queuedIn s.kernels x) && decide (x.maxUs * 1000 + 300_000 ≤ s.layerNs x) && !(s.inSection x) then
      s.abortKernel x ({ status := .layerTimeExceeded, d4 := lo32 (s.layerNs x / 1000) } : Result)
    else s

/-- PARTITION_STOP_TILE_LOST: once no kernel of the partition runs any longer, it enters STOPPED and
partition event 0x02 is written (01 R43, 08 R271, 09 R329). -/
def partitionStopTileLost (p : Nat) (s : State) : State :=
  match s.units.tilesLost.find? (fun e => decide (e.1 = p)) with
  | none => s
  | some (_, d, i) =>
    if (s.partKernels p).isEmpty && decide ((s.part p).state = .running) then
      ((s.clearLost p).enterPart p .stopped).postPart p 0x02 (lo32 (d * 2 ^ 16 + i)) 0 0 0
    else s

-- The tenant switch (08 R282, R290).

/-- The context is valid and not refused, and a descriptor of it waits to start or a job has a kernel to start (08
R275, R276, R282). -/
def State.ctxReady (s : State) (p c : Nat) : Bool :=
  s.ctxValid p c && decide ((s.ctx p c).checked ≠ some false) && (s.ringOrder p c).any (fun n =>
    (s.ring n).descs.any (fun d => !d.done && (!d.started || (match d.job with
      | some j => !j.running && decide (j.ran < j.count)
      | none => false))))

/-- The contexts that may come next: in increasing number after the resident one, those that are ready (08 R282). -/
def State.readyCtxs (s : State) (p : Nat) : List Nat :=
  let n := s.ctxCount p
  let r := (s.part p).resident
  ((List.range n).map (fun i => (r + 1 + i) % n)).filter (fun c => decide (c ≠ r) && s.ctxReady p c)

/-- The first of the contexts that passes the check of its first scheduling; those before it that fail are refused
(08 R276, R282). -/
def State.pickCtx (p : Nat) : List Nat → State → State × Option Nat
  | [], s => (s, none)
  | c :: cs, s =>
    let t := s.checkCtx p c
    if (t.ctx p c).checked = some true then (t, some c) else State.pickCtx p cs t

/-- QUANTUM_EXPIRY: the resident context's quantum has elapsed, or it has nothing to run, another
context is ready, and no semaphore is held: a switch starts (08 R282, R290). A unit under
substitution delays it (01 R42). -/
def quantumExpiry (p : Nat) (s : State) : State :=
  let x := s.part p
  let c := x.resident
  let idle := !(s.ctxReady p c) && (s.partKernels p).isEmpty
  if s.awake && decide (x.state = .running) && decide (x.switch = .none)
      && ((x.ctx c).sectionAt.isNone)
      && (idle || decide (x.quantumAt + s.quantumUs p c * 1000 ≤ s.now))
      && !x.reclaiming && !(s.substHeld p) then
    match State.pickCtx p (s.readyCtxs p) s with
    | (t, none) => t
    | (t, some n) =>
      (t.setPart p { t.part p with switch := .draining, incoming := n, switchAt := t.now }).maybeSave p
  else s

/-- CONTEXT_SAVE_DONE: the save has ended and the scrub of the switch starts (08 R290). -/
def contextSaveDone (p : Nat) (s : State) : State :=
  let x := s.part p
  if x.switch = .saving then s.setPart p { x with switch := .scrubbing } else s

/-- The scrub of a switch has ended (08 R290 step 4). -/
def State.switchScrubbed (s : State) (p : Nat) (failed : Bool) : State :=
  let t := (s.scrubPart p).scrubRecord p 1 failed
  t.setPart p { t.part p with switch := .resuming }

/-- A context whose save does not agree with its digest is lost: its descriptors complete with CONTEXT_LOST and it
starts anew from empty rings; its images stay loaded and protected (08 R288, R289). -/
def State.loseContext (s : State) (p c : Nat) (posted : List (Nat × List (List W32))) : State :=
  let u := (s.drainRings (s.ringOrder p c) .contextLost posted).keepCmds
    (fun k => !(decide (k.part = p) && decide (k.ctx = c)))
  let y := u.ctx p c
  (u.setCtx p c { Ctx.reset with
    checked := y.checked, acct := y.acct, images := y.images.map (fun e => (e.1, { e.2 with unloading := false })) }).postPart
      p 0x07 (lo32 c) 0 0 0

/-- The kernels due to run in a context, ring by ring in the scheduler's order: the next one of each job (08 R281,
R288). -/
def State.dueKernels (s : State) (p c : Nat) : List KernelDecl :=
  (s.ringOrder p c).filterMap (fun n => (s.readyJob p c n).map (fun e => e.2.2))

/-- The weights that a resume streams: each kernel due takes the next free tiles, and what it lists for a rank goes to
the tile of that rank (08 R288 step 4). -/
def State.dueLoads (s : State) (p c : Nat) : List WeightLoad :=
  let tiles := s.freeTiles p
  ((s.dueKernels p c).foldl (fun (acc : List WeightLoad × Nat) k =>
    let w := s.widthFor p k
    (acc.1 ++ k.weights.filterMap (fun e => if e.rank < w then
        (tiles[acc.2 + e.rank]?).map (fun t => ⟨t.1, t.2, e.dst, e.src, e.len⟩) else none),
      acc.2 + w)) ([], 0)).1

/-- The resume of a saved context: its stages and ledge, then the weights of the kernels due to run. What it moves is
charged to the context that a switch took out (08 R288, R301). -/
def State.resumeContext (s : State) (p c out : Nat) : State :=
  let t := s.restoreContext p c
  let good := (t.dueLoads p c).filter (fun l => t.loadOk p c l)
  (good.foldl (fun t l => t.loadWeight p (t.windowOff (some (p, c)) l.src) l.die l.tile l.dst l.len) t).chargeMoves p out
    (t.savedBytes p c + (good.map WeightLoad.len).sum)

/-- The first uncorrectable block that a resume of the context would read: of its save area, or of the weights that it
streams (08 R288, 10 R350). -/
def State.resumeUe (s : State) (p c : Nat) : Option Nat :=
  let r := s.saveRange p c
  (s.issuerUeRead (some (p, c)) r.1 r.2).or
    (((s.dueLoads p c).filter (fun l => s.loadOk p c l)).findSome? (fun l =>
      s.issuerUeRead (some (p, c)) (s.windowOff (some (p, c)) l.src) l.len))

/-- What a resume reads is read with correction (10 R346). -/
def State.resumeReads (s : State) (p c : Nat) : State :=
  let r := s.saveRange p c
  ((s.dueLoads p c).filter (fun l => s.loadOk p c l)).foldl (fun t l =>
    t.issuerCorrects (some (p, c)) (t.windowOff (some (p, c)) l.src) l.len) (s.issuerCorrects (some (p, c)) r.1 r.2)

/-- CONTEXT_RESUME_DONE: the incoming context is restored and its quantum starts; a save area whose
digest does not agree, or that cannot be read, ends the context with CONTEXT_LOST and partition
event 0x07 (08 R288, R290; 10 R350), and so does a weight that cannot be read (log entry 86). `posted` holds the words
of descriptors that a lost context's rings hold unfetched. A unit under substitution delays it (01 R42). -/
def contextResumeDone (p : Nat) (posted : List (Nat × List (List W32))) (s : State) : State :=
  let x := s.part p
  let c := x.incoming
  if decide (x.switch = .resuming) && !(s.substHeld p) then
    let t :=
      if (x.ctx c).saved then
        match s.resumeUe p c with
        | some b => (s.failUe b).loseContext p c posted
        | none =>
          if s.saveGood p c then (s.resumeReads p c).resumeContext p c x.resident
          else (s.resumeReads p c).loseContext p c posted
      else s
    let v := t.setPart p { t.part p with switch := .none, resident := c, quantumAt := t.now }
    v.serveSems p c
  else s

-- SCRUB_DONE covers every scrub.

/-- The scrub of a lease reclaim has ended: its units are zeroed (07 R253 step 4). -/
def State.leaseScrubbed (s : State) (id : Nat) (failed : Bool) : State :=
  match s.leases.find? (fun l => decide (l.id = id) && decide (l.stage = .scrubbing)) with
  | none => s
  | some l =>
    let t := (l.units.foldl State.scrubUnit s).updLease id (fun l => { l with stage := .scrubbed })
    t.scrubRecord l.part 4 failed

/-- A reset may end: no unit is under substitution, and each completion that a quiesce owes is written (08 R292,
R296). -/
def State.resetSettled (s : State) (p : Nat) : Bool :=
  !(s.substHeld p) && ((s.part p).discard || (s.partRings p).all (fun n => (s.ring n).descs.isEmpty))

/-- The units that a scrub of partition p covers, the half-stacks, which only a release scrubs, and the ledge units (13
R455). -/
def State.scrubbed (s : State) (p : Nat) : ScrubKind → List UnitId × List Nat × List (Nat × Nat)
  | .switch | .reset => (s.heldUnits p, [], s.ledgeUnits p)
  | .release => (s.heldUnits p, s.halves p, s.ledgeUnits p)
  | .lease id =>
    (((s.leases.find? (fun l => decide (l.id = id) && decide (l.part = p))).map (fun l => l.units)).getD [], [], [])

/-- SCRUB_DONE: every write of a scrub is acknowledged, that of a release once the rings of the partition are off (08
R295); of what it covers, units, half-stacks and ledge units whose scrub could
not be completed are withheld, and those that were withheld and now succeed are free (13 R455, R456). -/
def scrubDone (p : Nat) (kind : ScrubKind) (badUnits : List UnitId) (badHalves : List Nat)
    (badLedge : List (Nat × Nat)) (s : State) : State :=
  let held := s.scrubbed p kind
  let bu := badUnits.filter (fun u => decide (u ∈ held.1))
  let bh := badHalves.filter (fun h => decide (h ∈ held.2.1))
  let bl := badLedge.filter (fun e => decide (e ∈ held.2.2))
  let failed := !(bu.isEmpty && bh.isEmpty && bl.isEmpty)
  let t := { s with
    withheldUnits := s.withheldUnits.filter (fun u => decide (u ∉ held.1)) ++ bu
    withheldHalves := s.withheldHalves.filter (fun h => decide (h ∉ held.2.1)) ++ bh
    withheldLedge := s.withheldLedge.filter (fun e => decide (e ∉ held.2.2)) ++ bl }
  let x := s.part p
  match kind with
  | .switch => if decide (x.switch = .scrubbing) && !(s.substHeld p) then t.switchScrubbed p failed else s
  | .reset => if decide (x.stage = .scrubbing) && s.resetSettled p then t.resetScrubbed p failed else s
  | .release =>
    if decide (x.stage = .releaseScrub) && (s.partRings p).all (fun n => !(s.ringOn n)) then t.releaseScrubbed p failed
    else s
  | .lease id =>
    if s.leases.any (fun l => decide (l.id = id) && decide (l.part = p) && decide (l.stage = .scrubbing)) then
      t.leaseScrubbed id failed
    else s

-- Batches (08 R283).

/-- The index block of a batch (03 R103). -/
def indexBlock (rows : List Nat) (expert : Nat) : List Byte :=
  wordsBytes ((List.range 64).map (fun i => lo32 (rows.getD i 0xFFFF_FFFF))
    ++ [lo32 (expert + rows.length * 2 ^ 16)] ++ List.replicate 7 0)

/-- Close the open batch of a context: its index block is written and the kernels launch as one job
on the first request's descriptor (08 R283). An index block that would lie outside the window or change a protected
weight fails the requests (08 R276, R289, log entry 86). -/
def State.closeBatch (s : State) (p c : Nat) : State :=
  let y := s.ctx p c
  match y.batch with
  | none => s
  | some b =>
    match b.reqs with
    | [] => s.setCtx p c { y with batch := none }
    | (n, idx, _) :: _ =>
      let rows := b.reqs.flatMap (fun r => r.2.2)
      let t := s.setCtx p c { y with
        batch := none, groups := y.groups ++ [b.reqs.map (fun r => (r.1, r.2.1))] }
      match (t.ring n).descs.find? (fun d => decide (d.idx = idx)) with
      | none => t
      | some d =>
        match y.images.find? (fun e => decide (e.1 = d.arg)) with
        | none => t
        | some im =>
          let i : Issuer := some (p, c)
          let off := t.windowOff i im.2.indexOff
          let blk := indexBlock rows 0
          if !(t.issuerAllows i off blk.length) || t.issuerProtected i off blk then
            t.finishJob n idx i (Result.access off 0xF)
          else
            match t.issuerUeWrite i off blk.length with
            | some b => (t.failUe b).finishJob n idx i (t.mediaResult (some p) b)
            | none => (t.issuerWrite i off blk).updDesc n idx (fun d =>
            { d with job := some ⟨d.arg, wfield d.words 1 15 0, wfield d.words 1 31 16, 0, false, true⟩ })

/-- BATCH_CLOSE_TIMEOUT: batch_wait_us after it opened, the batch closes, whether its context is resident or not
(08 R283). -/
def batchCloseTimeout (p c : Nat) (s : State) : State :=
  match (s.ctx p c).batch with
  | none => s
  | some b =>
    if s.awake && decide ((s.part p).state = .running) && decide (b.opened + s.batchWaitUs p c * 1000 ≤ s.now) then
      s.closeBatch p c
    else s

-- Semaphores (08 R284, R285).

/-- A SET of a semaphore is refused while an acquire of it waits or its amount is held (08 R285). -/
def Ctx.semInUse (y : Ctx) (sem : Nat) : Bool :=
  y.waits.any (fun w => decide (w.sem = sem)) || y.held.any (fun h => decide (h.sem = sem))

/-- The word of a semaphore command that fails a check (08 R284, R285). -/
def semBad (ws : List W32) (y : Ctx) : Option Nat :=
  let op := wfield ws 4 1 0
  let v := wfield ws 5 15 0
  let h := wfield ws 6 8 0
  descFail ws [(4, decide (op ≠ 3) && !(decide (op = 0) && y.semInUse (wfield ws 4 11 8))), (5, decide (op = 0) || decide (0 < v)),
    (6, if op = 1 then decide (1 ≤ h) && decide (h ≤ 300) else decide (h = 0))]

/-- The next descriptor of the ring is a semaphore command with the operation; a malformed one
completes with BAD_DESCRIPTOR. -/
def State.semCommand (s : State) (n op : Nat) (k : State → Desc → Nat → Nat → State) : State :=
  s.admitJob n 0x08 (fun t d i =>
    match i with
    | none => t
    | some (p, c) =>
      match semBad d.words (t.ctx p c) with
      | some w => t.finishDesc n d.idx (Result.bad w)
      | none => if wfield d.words 4 1 0 = op then k t d p c else t)

/-- SEM_SET: loads the count, or fails while an acquire of the semaphore is outstanding. -/
def semSet (n : Nat) (s : State) : State :=
  s.semCommand n 0 (fun t d p c =>
    let sem := wfield d.words 4 11 8
    let y := t.ctx p c
    (t.setCtx p c { y with sems := y.sems.set sem (wfield d.words 5 15 0) }).finishDesc n d.idx
      (Result.of .success))

/-- SEM_ACQUIRE: joins the waiters and is served at once when the count allows and no earlier acquire of
the semaphore waits. An acquire that would open a section waits during a switch or a reclaim's
save (08 R285). The ring's later descriptors wait behind it. -/
def semAcquire (n : Nat) (s : State) : State :=
  s.semCommand n 1 (fun t d p c =>
    let y := t.ctx p c
    let w : SemWait := ⟨n, d.idx, wfield d.words 4 11 8, wfield d.words 5 15 0, wfield d.words 6 8 0⟩
    let y' := if w ∈ y.waits then y else { y with waits := y.waits ++ [w] }
    (t.setCtx p c y').serveSems p c)

/-- SEM_RELEASE: adds its amount, saturating at 65,535, serves waiting acquires in order, and closes the
section when every amount has been returned. -/
def semRelease (n : Nat) (s : State) : State :=
  s.semCommand n 2 (fun t d p c =>
    let sem := wfield d.words 4 11 8
    let v := wfield d.words 5 15 0
    let y := t.ctx p c
    let y' := { y with
      sems := y.sems.set sem (min 65535 (y.sems.getD sem 0 + v))
      held := giveBack sem v y.held }
    ((((t.setCtx p c y'.closeSection).finishDesc n d.idx (Result.of .success)).serveSems p c)).maybeSave p)

/-- HOLD_EXCEEDED: a hold has ended with its section open: the kernels of every holding ring are
abandoned, their jobs complete with HOLD_EXCEEDED, every amount is released, and partition event
0x06 is written (08 R285). -/
def holdExceeded (p c : Nat) (s : State) : State :=
  let y := s.ctx p c
  match y.held.find? (fun h => decide (h.deadline ≤ s.now)) with
  | none => s
  | some h =>
    if decide ((s.part p).state = .running) && y.sectionAt.isSome then
      let rings := (y.held.map (fun h => h.ring)).eraseDups
      let r : Result := { status := .holdExceeded, d4 := lo32 h.sem }
      let sems := y.held.foldl (fun (m : List Nat) g => m.set g.sem (min 65535 (m.getD g.sem 0 + g.amount)))
        y.sems
      let t := s.setCtx p c { y with held := [], sectionAt := none, sems := sems }
      let ks := t.kernels.filter (fun k => decide (k.part = some p) && decide (k.ring ∈ rings))
      let u := ks.foldl (fun u k => u.abortKernel k r) t
      let v := rings.foldl (fun v n =>
        if ks.any (fun k => decide (k.ring = n)) then v
        else match (v.ring n).descs.find? (fun d => d.started && !d.done && d.job.isSome) with
        | some d => v.concludeJob n d.idx (some (p, c)) r
        | none => v) u
      ((v.postPart p 0x06 (lo32 c) (lo32 h.sem) 0 0).serveSems p c).maybeSave p
    else s

-- Accounting (08 R300 to R302).

/-- ACCOUNTING_UPDATE: the records of partition p's resident context and of the partition are written
(08 R300). -/
def accountingUpdate (p : Nat) (s : State) : State :=
  if s.awake && s.enabled p then s.writeAcct p (s.part p).resident else s

/-- Energy to partition p and its resident context. -/
def State.addEnergy (s : State) (p nj : Nat) : State :=
  if s.enabled p then
    s.account (some (p, (s.part p).resident)) (fun a => { a with energyNj := a.energyNj + nj })
  else s

/-- Units of all classes in an island (01 R33). -/
def islandUnits (i : Nat) : Nat := 24 + 12 + 4 + 3 + 3 + 1 + (if i % 2 = 0 then 1 else 0)

/-- An amount split over owners in proportion to their weights. -/
def State.splitEnergy (s : State) (nj : Nat) (weights : List (Nat × Nat)) (total : Nat) : State :=
  if total = 0 then s else weights.foldl (fun t e => t.addEnergy e.1 (nj * e.2 / total)) s

/-- Bytes of a record that passed the ports. -/
def Acct.portBytes (a : Acct) : Nat := a.ropeTx + a.ropeRx + a.cxlBytes + a.ethBytes

/-- Handshakes of partition p in an island since the last attribution, weighted by class (08 R302). -/
def State.islandWork (s : State) (p die isl : Nat) : Nat :=
  (allClasses.map (fun c => SMap.get (fun _ => 0) (s.part p).hs (hsKey die isl c) * Config.classEnergy c.code)).sum

/-- The energy of an island's interval: leakage by units held, activity by weighted handshakes (08 R302). -/
def State.splitIsland (s : State) (e : IslandEnergy) : State :=
  let held := s.enabledParts.map (fun p => (p, ((s.heldUnits p).filter (fun u =>
    decide (u.die = e.die) && decide (u.island = e.island))).length))
  let act := s.enabledParts.map (fun p => (p, s.islandWork p e.die e.island))
  let others := (e.others.map (fun h => h.2 * Config.classEnergy h.1.code)).sum
  (s.splitEnergy e.leakNj held (islandUnits e.island)).splitEnergy e.restNj act ((act.map Prod.snd).sum + others)

/-- An amount split by the bytes that the partitions' records have counted since the last attribution; `others` are
those of work that belongs to no partition. -/
def State.splitBytes (s : State) (f : Acct → Nat) (nj others : Nat) : State :=
  let moved := s.enabledParts.map (fun p => (p, f (s.part p).acct - f (s.part p).billed))
  s.splitEnergy nj moved ((moved.map Prod.snd).sum + others)

/-- An interval ends: what is counted from now on is the next one's. -/
def State.closeInterval (s : State) : State :=
  s.enabledParts.foldl (fun w p => w.setPart p { w.part p with billed := (w.part p).acct, hs := [] }) s

/-- ENERGY_ATTRIBUTION: the energy of a 10 µs interval goes to the owners of units: island leakage by
units held, island activity by weighted handshakes, stack energy by stack bytes, the I/O die's
energy by port bytes (08 R302). The handshakes and bytes of partitions are those that the device has counted since
the last attribution. -/
def energyAttribution (isl : List IslandEnergy) (stackNj stackOthers ioNj portOthers : Nat) (s : State) : State :=
  (((isl.foldl State.splitIsland s).splitBytes Acct.stackBytes stackNj stackOthers).splitBytes Acct.portBytes ioNj
    portOthers).closeInterval

-- The meanings.

def execPartitionEnable (p : Nat) (s : State) : Done := .next (partitionEnable p s)
def execPartitionResume (p : Nat) (s : State) : Done := .next (partitionResume p s)
def execQuiesceReset (p : Nat) (s : State) : Done := .next (quiesceReset p s)
def execResetDrainDone (p : Nat) (posted : List (Nat × List (List W32))) (s : State) : Done :=
  .next (resetDrainDone p posted s)
def execGenerationDiscard (p : Nat) (s : State) : Done := .next (generationDiscard p s)
def execPartitionRelease (p : Nat) (s : State) : Done := .next (partitionRelease p s)
def execVfEnableCleared (n : Nat) (s : State) : Done := .next (vfEnableCleared n s)
def execVfFlr (p : Nat) (s : State) : Done := .next (vfFlr p s)
def execKernelOverrun (k : Nat) (s : State) : Done := .next (kernelOverrun k s)
def execKernelAbandon (k : Nat) (s : State) : Done := .next (kernelAbandon k s)
def execPartitionStopTileLost (p : Nat) (s : State) : Done := .next (partitionStopTileLost p s)
def execQuantumExpiry (p : Nat) (s : State) : Done := .next (quantumExpiry p s)
def execContextSaveDone (p : Nat) (s : State) : Done := .next (contextSaveDone p s)
def execContextResumeDone (p : Nat) (posted : List (Nat × List (List W32))) (s : State) : Done :=
  .next (contextResumeDone p posted s)
def execScrubDone (p : Nat) (kind : ScrubKind) (bu : List UnitId) (bh : List Nat) (bl : List (Nat × Nat)) (s : State) :
    Done := .next (scrubDone p kind bu bh bl s)
def execBatchCloseTimeout (p c : Nat) (s : State) : Done := .next (batchCloseTimeout p c s)
def execSemSet (n : Nat) (s : State) : Done := .next (semSet n s)
def execSemAcquire (n : Nat) (s : State) : Done := .next (semAcquire n s)
def execSemRelease (n : Nat) (s : State) : Done := .next (semRelease n s)
def execHoldExceeded (p c : Nat) (s : State) : Done := .next (holdExceeded p c s)
def execAccountingUpdate (p : Nat) (s : State) : Done := .next (accountingUpdate p s)
def execEnergyAttribution (isl : List IslandEnergy) (stackNj stackOthers ioNj portOthers : Nat) (s : State) : Done :=
  .next (energyAttribution isl stackNj stackOthers ioNj portOthers s)

end Sys2Proof.Machine
end

