-- ==== Sys2Proof/Machine/Jobs.lean ====
section
/-! DEFINITION. Job descriptors of images: LOAD_IMAGE, UNLOAD_IMAGE and RUN (09 R320, R322; 08 R277, R283,
R289; 13 R452 to R454). -/

namespace Sys2Proof.Machine

/-- The slot of a descriptor lies in 0 to 15. -/
def Desc.slotOk (d : Desc) : Bool := decide (d.arg ≤ 15)

/-- The image in a slot of a context. -/
def Ctx.image (y : Ctx) (slot : Nat) : Option Image :=
  (y.images.find? (fun e => decide (e.1 = slot))).map Prod.snd

/-- Write the bytes of a package's body at the manifest's ranges, in order. -/
def State.putWeights (s : State) (i : Issuer) : List (Nat × Nat) → List Byte → State
  | [], _ => s
  | r :: rs, bs =>
    State.putWeights (s.issuerWrite i (s.windowOff i r.1) (bs.take r.2)) i rs (bs.drop r.2)

/-- The first of the manifest's ranges that cannot be written with a package's body, and how the load fails: it would
change a byte that a loaded image protects, or part of an uncorrectable block (08 R289, 10 R350, log entry 86). -/
def State.weightsFail (s : State) (i : Issuer) : List (Nat × Nat) → List Byte → Option (Result × Option Nat)
  | [], _ => none
  | r :: rs, bs =>
    let off := s.windowOff i r.1
    let now := bs.take r.2
    if s.issuerProtected i off now then some (Result.access off 0xF, none)
    else
      match s.issuerUeWrite i off now.length with
      | some b => some (s.mediaResult i.partition b, some b)
      | none => State.weightsFail s i rs (bs.drop r.2)

/-- A range that a loaded image protects (08 R289). -/
def State.weightsHeld (s : State) (i : Issuer) (r : Nat × Nat) : Bool :=
  match i with
  | some (p, _) => (s.protectedRanges p).any (fun e => overlaps (s.windowOff i r.1, r.2) e.2)
  | none => false

/-- Zero the manifest's ranges, but those that a loaded image protects, which the load has not changed (13 R453, R455;
08 R289). -/
def State.zeroWeights (s : State) (i : Issuer) (m : List (Nat × Nat)) : State :=
  (m.filter (fun r => !(s.weightsHeld i r))).foldl (fun t r => (t.issuerPieces i (t.windowOff i r.1) r.2).foldl
    (fun u q => u.zeroMem .stack q.1 q.2) t) s

/-- An uncorrectable block in the manifest's ranges (10 R350). -/
def State.weightsUe (s : State) (i : Issuer) (m : List (Nat × Nat)) : Option Nat :=
  m.findSome? (fun r => s.issuerUeRead i (s.windowOff i r.1) r.2)

/-- The weights are read with correction (10 R346). -/
def State.weightsRead (s : State) (i : Issuer) (m : List (Nat × Nat)) : State :=
  m.foldl (fun t r => t.issuerCorrects i (t.windowOff i r.1) r.2) s

/-- The bytes of the manifest's ranges, in order. -/
def State.readWeights (s : State) (i : Issuer) (m : List (Nat × Nat)) : List Byte :=
  m.flatMap (fun r => s.issuerRead i (s.windowOff i r.1) r.2)

/-- The first kernel of an image that the load refuses: its declared time is above the partition's
max_layer_us or 2,000 µs, or its width outside 1 to 384 (08 R277). -/
def kernelRefused (maxLayer : Nat) (ks : List KernelDecl) : Option Nat :=
  (List.range ks.length).find? (fun i =>
    match ks[i]? with
    | some k => decide (maxLayer < k.maxUs) || decide (2000 < k.maxUs) || decide (k.wMax < 1)
        || decide (384 < k.wMax)
    | none => false)

/-- The image is loaded into the slot with its digests, and its weights are protected from now on
(08 R289, 13 R454, 09 R336). -/
def State.installImage (s : State) (n : Nat) (d : Desc) (p c : Nat) (im : ImageInfo) : State :=
  let i : Issuer := some (p, c)
  let off := s.windowOff i (wpair d.words 4)
  let prog := sha256 (s.issuerRead i off (wordAt d.words 6).toNat)
  let x : Image := {
    kernels := im.kernels, manifest := im.manifest, rowIndep := im.rowIndep, rowBytes := im.rowBytes,
    indexOff := im.indexOff, programDigest := prog,
    weightDigest := sha256 (s.readWeights i im.manifest), loadedBy := (n, d.idx), unloading := false }
  let y := s.ctx p c
  let w := bytesWords 4 prog
  (s.setCtx p c { y with images := y.images ++ [(d.arg, x)] }).finishDesc n d.idx
    { status := .success, d4 := wordAt w 0, d5 := wordAt w 1, d6 := wordAt w 2, d7 := wordAt w 3 }

/-- A LOAD_IMAGE that has started. -/
def State.loadRun (s : State) (n : Nat) (d : Desc) (p c : Nat) (im : ImageInfo) (pkg : Package) :
    State :=
  let i : Issuer := some (p, c)
  let fin (t : State) (r : Result) : State := t.finishDesc n d.idx r
  let size := (wordAt d.words 6).toNat
  let off := s.windowOff i (wpair d.words 4)
  match descFail d.words [(0, d.slotOk && ((s.ctx p c).image d.arg).isNone),
      (4, decide (wpair d.words 4 % 4096 = 0))] with
  | some w => fin s (Result.bad w)
  | none =>
    if s.issuerAllows i off size then
      match (s.issuerUeRead i off size).or (if pkg = .none then s.weightsUe i im.manifest else none) with
      | some b => fin (s.failUe b) (s.mediaResult (some p) b)
      | none =>
        match kernelRefused (s.maxLayer p) im.kernels with
        | some k => fin s (Result.badAt (lo32 k) 0)
        | none =>
          match im.manifest.find? (fun r => !(s.issuerAllows i (s.windowOff i r.1) r.2)) with
          | some r => fin s (Result.access (s.windowOff i r.1) 0xF)
          | none =>
            let s := s.issuerCorrects i off size
            match pkg with
            | .none => (s.weightsRead i im.manifest).installImage n d p c im
            | .sealed bytes =>
              let o := s.fuses.unseal s.sec.running bytes
              if o.good then
                match s.weightsFail i im.manifest o.plain with
                | some e => fin (e.2.elim s s.failUe) e.1
                | none => (s.putWeights i im.manifest o.plain).installImage n d p c im
              else
                fin (if o.unwrapped then s.zeroWeights i im.manifest else s) (Result.of .imageRejected)
    else fin s (Result.access off 0xF)

/-- LOAD_IMAGE: the next descriptor of ring n loads a program image (09 R322). -/
def loadImage (n : Nat) (im : ImageInfo) (pkg : Package) (s : State) : State :=
  s.admitJob n 0x01 (fun t d i =>
    match i with
    | none => t
    | some (p, c) => t.loadRun n d p c im pkg)

/-- UNLOAD_IMAGE: an empty slot completes at once; otherwise the slot waits until no kernel of it
runs (09 R322, R336). -/
def unloadImage (n : Nat) (s : State) : State :=
  s.admitJob n 0x02 (fun t d i =>
    match i with
    | none => t
    | some (p, c) =>
      match descFail d.words [(0, d.slotOk)] with
      | some w => t.finishDesc n d.idx (Result.bad w)
      | none =>
        match (t.ctx p c).image d.arg with
        | none => t.finishDesc n d.idx (Result.of .success)
        | some _ =>
          let y := t.ctx p c
          let ims := y.images.map (fun e => if e.1 = d.arg then (e.1, { e.2 with unloading := true }) else e)
          (t.setCtx p c { y with images := ims }).startDesc n d.idx)

/-- A request of the open batch names the slot. -/
def State.slotAsked (s : State) (p c slot : Nat) : Bool :=
  match (s.ctx p c).batch with
  | none => false
  | some b => b.reqs.any (fun r => (s.ring r.1).descs.any (fun d => decide (d.idx = r.2.1) && decide (d.arg = slot)))

/-- A job of the context runs, or still has to run, a kernel of the slot, or a batch forms of its requests. -/
def State.slotBusy (s : State) (p c slot : Nat) : Bool :=
  s.slotAsked p c slot
  || (s.partKernels p).any (fun k => decide (k.ctx = c) && decide (k.kind = .run) && decide (k.slot = slot))
  || (s.ringOrder p c).any (fun n => (s.ring n).descs.any (fun d =>
      d.started && !d.done && (match d.job with
        | some j => decide (j.slot = slot)
        | none => false)))

/-- UNLOAD_SLOT_IDLE: no kernel of the slot runs: the image is unloaded and its protection ends
(08 R289, 09 R322). -/
def unloadSlotIdle (n : Nat) (s : State) : State :=
  match (s.ring n).descs.find? (fun d => d.started && !d.done && decide (d.op = 0x02)) with
  | none => s
  | some d =>
    match s.ringOwner n with
    | none => s
    | some p =>
      match s.ringCtx p n with
      | none => s
      | some c =>
        if s.slotBusy p c d.arg then s
        else
          let y := s.ctx p c
          (s.setCtx p c { y with images := y.images.filter (fun e => decide (e.1 ≠ d.arg)) }).finishDesc
            n d.idx { status := .success, d4 := if (y.image d.arg).isSome then 1 else 0 }

/-- The rows of a batched request: row i is row (base0 × 4,096) ÷ row_bytes + i (09 R320). -/
def runRows (ws : List W32) (rowBytes : Nat) : List Nat :=
  (List.range (wfield ws 12 6 0)).map (fun i => (wordAt ws 4).toNat * 4096 / rowBytes + i)

/-- The word of a RUN that fails a check (09 R320, 08 R283). -/
def runBad (ws : List W32) (y : Ctx) (batchMax : Nat) : Option Nat :=
  let slot := wfield ws 0 31 16
  let rows := wfield ws 12 6 0
  let batching := decide (2 ≤ batchMax)
  match y.image slot with
  | none => some 0
  | some im =>
    descFail ws [(0, decide (slot ≤ 15) && !im.unloading && (!batching || im.rowIndep)),
      (1, decide (1 ≤ wfield ws 1 31 16)
        && decide (wfield ws 1 15 0 + wfield ws 1 31 16 ≤ im.kernels.length)),
      (4, !batching || (decide (0 < im.rowBytes)
        && decide ((wordAt ws 4).toNat * 4096 % im.rowBytes = 0))),
      (12, if batching then decide (1 ≤ rows) && decide (rows ≤ 64) else decide (rows = 0))]

/-- A request joins the open batch, or opens one; a request that does not fit whole closes the open
batch first, and one larger than batch_max is a batch of its own (08 R283). -/
def State.batchRequest (s : State) (n : Nat) (d : Desc) (p c : Nat) (rows : List Nat) : State :=
  let bm := s.batchMax p c
  let count (b : Batch) : Nat := ((b.reqs.map (fun r => r.2.2.length)).sum)
  let full := match (s.ctx p c).batch with
    | some b => decide (bm < count b + rows.length)
    | none => false
  let t := if full then s.closeBatch p c else s
  let y := t.ctx p c
  let b : Batch := match y.batch with
    | some b => { b with reqs := b.reqs ++ [(n, d.idx, rows)] }
    | none => ⟨t.now, [(n, d.idx, rows)]⟩
  let u := t.setCtx p c { y with batch := some b }
  if bm ≤ count b then u.closeBatch p c else u

/-- RUN: the next descriptor of ring n runs kernels of a loaded image; in a batching context it is a
request (09 R320, 08 R281, R283). -/
def run (n : Nat) (s : State) : State :=
  s.admitJob n 0x03 (fun t d i =>
    match i with
    | none => t
    | some (p, c) =>
      match runBad d.words (t.ctx p c) (t.batchMax p c) with
      | some w => t.finishDesc n d.idx (Result.bad w)
      | none =>
        let u := t.startDesc n d.idx
        if 2 ≤ t.batchMax p c then
          let rb := (((t.ctx p c).image d.arg).map (fun im => im.rowBytes)).getD 1
          u.batchRequest n d p c (runRows d.words rb)
        else
          u.updDesc n d.idx (fun e => { e with
            job := some ⟨d.arg, wfield d.words 1 15 0, wfield d.words 1 31 16, 0, false, false⟩ }))

def execLoadImage (n : Nat) (im : ImageInfo) (pkg : Package) (s : State) : Done :=
  .next (loadImage n im pkg s)
def execUnloadImage (n : Nat) (s : State) : Done := .next (unloadImage n s)
def execUnloadSlotIdle (n : Nat) (s : State) : Done := .next (unloadSlotIdle n s)
def execRun (n : Nat) (s : State) : Done := .next (run n s)

end Sys2Proof.Machine
end

