-- ==== Sys2Proof/Machine/Mi.lean ====
section
/-! DEFINITION. The matrix instruction (03 R94 to R99): its fields, the accumulator it implies, where its
locations point, and the checks a tile makes before anything executes. -/

namespace Sys2Proof.Machine

-- Fields (03 R95).

abbrev Mi := List W32

def miOp (w : Mi) : Nat := wfield w 0 7 0
def miFmtA (w : Mi) : Nat := wfield w 0 11 8
def miFmtB (w : Mi) : Nat := wfield w 0 15 12
def miFmtOut (w : Mi) : Nat := wfield w 0 19 16
def miGroup (w : Mi) : Nat := wfield w 0 21 20
def miSparse (w : Mi) : Nat := wfield w 0 23 22
def miBatch (w : Mi) : Nat := wfield w 0 25 24
def miBit (w : Mi) (word bit : Nat) : Bool := bitOf (wordAt w word) bit
def miConjA (w : Mi) : Bool := miBit w 0 26
def miConjB (w : Mi) : Bool := miBit w 0 27
def miTrans (w : Mi) : Bool := miBit w 0 28
def miRescale (w : Mi) : Bool := miBit w 0 29
def miCheck (w : Mi) : Bool := miBit w 0 30
def miNeg (w : Mi) : Bool := miBit w 0 31
def miM (w : Mi) : Nat := wfield w 1 6 0
def miUnitA (w : Mi) : Bool := miBit w 1 7
def miN (w : Mi) : Nat := wfield w 1 14 8
def miUnitB (w : Mi) : Bool := miBit w 1 15
def miChain (w : Mi) : Nat := wfield w 1 20 16
def miStage (w : Mi) : Nat := wfield w 1 23 21
def miBiasEn (w : Mi) : Bool := miBit w 1 24
def miStatsEn (w : Mi) : Bool := miBit w 1 25
def miScatter (w : Mi) : Bool := miBit w 1 26
def miK (w : Mi) : Nat := wfield w 2 16 0
def miTol (w : Mi) : Nat := wfield w 2 21 17
def miShift (w : Mi) : Nat := wfield w 2 29 24
def miGenOut (w : Mi) : Nat := wfield w 5 7 0
def miSplitIdx (w : Mi) : Nat := wfield w 5 15 8
def miSplitCnt (w : Mi) : Nat := wfield w 5 23 16
def miOutScale (w : Mi) : Nat := wfield w 5 31 24
def miAStride (w : Mi) : Nat := (wordAt w 24).toNat
def miBStride (w : Mi) : Nat := (wordAt w 25).toNat
def miOutStride (w : Mi) : Nat := (wordAt w 26).toNat
def miDiag (w : Mi) : FVal := f32 (wordAt w 31).toNat

/-- The offset fields in their order (03 R95, words 11 to 23). -/
inductive MiLoc where
  | aData | aScale | bData | bScale | outData | outScale | bias | stats
  | metaData | index | ck | chain | partialBuf
  deriving DecidableEq, Repr

def MiLoc.num : MiLoc → Nat
  | .aData => 0 | .aScale => 1 | .bData => 2 | .bScale => 3 | .outData => 4 | .outScale => 5
  | .bias => 6 | .stats => 7 | .metaData => 8 | .index => 9 | .ck => 10 | .chain => 11 | .partialBuf => 12

/-- The location code of an offset field. -/
def miCode (w : Mi) (l : MiLoc) : Nat :=
  let i := l.num
  if i < 8 then wfield w 9 (4 * i + 3) (4 * i) else wfield w 10 (4 * (i - 8) + 3) (4 * (i - 8))

/-- The offset, in bytes. -/
def miOff (w : Mi) (l : MiLoc) : Nat := (wordAt w (11 + l.num)).toNat * 32

/-- K elements of a group; 0 without group scales (02 R62). -/
def miG (w : Mi) : Nat := if miGroup w = 0 then 0 else 16 * 2 ^ miGroup w

/-- The granule of K (03 R98). -/
def miGranule (w : Mi) : Nat := if miGroup w = 0 then 8 else miG w

/-- The accumulator kind (02 R50, R65 to R68). -/
def miKind (w : Mi) : AccKind :=
  if miFmtA w = 13 then .ci40
  else if miFmtA w = 14 then .cf32
  else if decide (miFmtA w ∈ [1, 2]) && miUnitA w && miUnitB w then .i32
  else .f32

/-- The operands are scaled group by group (02 R65). -/
def miGrouped (w : Mi) : Bool := fmtScaled (miFmtA w) && decide (miKind w = .f32)

/-- The operand carries a scale stream (02 R62). -/
def miStreamA (w : Mi) : Bool := fmtScaled (miFmtA w) && !(miUnitA w)
def miStreamB (w : Mi) : Bool := fmtScaled (miFmtB w) && !(miUnitB w)

/-- Rows and columns of a diagonal band (03 R95). -/
def miBand (w : Mi) : Nat := if miBatch w = 0 then 64 else 64 / 2 ^ miBatch w

/-- The last part of a split, a further part, and whether there is a split (03 R114). -/
def miSplit (w : Mi) : Bool := decide (2 ≤ miSplitCnt w)
def miLastPart (w : Mi) : Bool := decide (miSplitIdx w + 1 = miSplitCnt w)

/-- Kept values of a quad: 4 dense, 2 or 1 sparse (03 R105). -/
def miKept (w : Mi) : Nat := if miSparse w = 1 then 2 else if miSparse w = 2 then 1 else 4

/-- Bytes between the metadata of two rows (03 R106). -/
def miMetaStride (w : Mi) : Nat :=
  let per := if miSparse w = 1 then 256 else 512
  (miK w + per - 1) / per * 32

-- Checks (03 R98).

/-- The bits of each word that the opcode assigns a field. -/
def miMasks (op : Nat) : List Nat :=
  let full : List Nat := [m32, 0x07FF_FFFF, 0x3F3F_FFFF, m32, m32, m32, m32, m32, m32, m32, 0xF_FFFF]
  let noGather : List Nat := [m32, 0x03FF_FFFF, 0x3F3F_FFFF, m32, m32, m32, m32, m32, m32, m32, 0xF_FF0F]
  let offs (ix : Nat) : List Nat := [m32, m32, m32, m32, m32, m32, m32, m32, m32, ix, m32, m32, m32]
  match op with
  | 0x01 =>
    [0xFF, 0, 0, 0, 0, 0, 0, 0, 0, 0x000F_000F, 0] ++ [m32, 0, 0, 0, m32, 0, 0, 0, 0, 0, 0, 0, 0]
      ++ [0, 0, 0, m32, 0, 0, 0, 0]
  | 0x10 => noGather ++ offs 0 ++ [m32, m32, m32, 0, 0, 0, 0, m32]
  | 0x11 => noGather.set 7 0xFFFF_0000 ++ offs 0 ++ [m32, m32, m32, m32, m32, m32, 0xFFFF, m32]
  | _ => full.set 7 0xFFFF_0000 ++ offs m32 ++ [m32, m32, m32, m32, m32, m32, 0, m32]

/-- The output format is allowed for the accumulator kind (03 R98). -/
def outFmtOk (k : AccKind) (f : Nat) : Bool :=
  match k with
  | .f32 => decide (f ∈ [1, 2, 5, 6, 7, 8, 9, 10, 11, 12])
  | .i32 => decide (f ∈ [4, 2, 1, 10, 11, 12])
  | .ci40 => decide (f ∈ [13, 14])
  | .cf32 => decide (f = 14)

/-- TV-07 stage 0 has no output: its out fields are reserved (04 R147). -/
def miNoOutFields (w : Mi) : Bool := decide (miChain w = 8) && decide (miStage w = 0)

/-- The checks on formats, shape, sparsity, batch, epilogue, checksum and split, each with the word it
constrains (03 R98, 02 R51, R76). -/
def miFieldChecks (w : Mi) : List (Nat × Bool) :=
  let fa := miFmtA w
  let fb := miFmtB w
  let fo := miFmtOut w
  let k := miKind w
  let batch := decide (miBatch w ≠ 0)
  let scaled := fmtScaled fa || fmtScaled fb || (fmtScaled fo && !(miNoOutFields w))
  let diag0 := (miDiag w).isZero
  let chained := decide (miChain w ≠ 0)
  [ (0, fmtPair fa fb),
    (0, if miNoOutFields w then decide (fo = 0) else outFmtOk k fo),
    (0, decide (miGroup w = 0) != scaled),
    (0, decide (miSparse w ≠ 3)),
    (0, decide (miSparse w = 0) || decide (fb ∉ [12, 13, 14])),
    (0, !batch || (!scaled && decide (miSparse w = 0) && !(miCheck w) && !(miRescale w))),
    (1, !batch || (!chained && decide (miN w = miBand w) && decide (miM w % miBand w = 0))),
    (5, !batch || !(miSplit w)),
    (0, !(miRescale w) || ((decide (miGroup w = 1) || decide (miGroup w = 2)) && fmtScaled fo)),
    (0, !(miTrans w) || !(fmtScaled fo)),
    (1, !(miScatter w) || (decide (miOp w = 0x12) && !(fmtScaled fo))),
    (1, decide (1 ≤ miM w) && decide (miM w ≤ 64) && decide (1 ≤ miN w) && decide (miN w ≤ 64)),
    (1, decide (miChain w ≤ 14)),
    (0, !chained || !(miNeg w)),
    (1, !chained || !(miBiasEn w)),
    (31, !chained || diag0),
    (31, !(decide (k = .i32) || (decide (k = .ci40) && decide (fo = 13))) || diag0),
    (2, decide (miK w ≤ 65536) && decide (miK w % miGranule w = 0)),
    (2, decide (miShift w ≤ 39) && (decide (miShift w = 0) || decide (fo = 13))),
    (2, decide (miTol w = 0) || (miCheck w && decide (k ≠ .i32) && decide (k ≠ .ci40))),
    (5, if miSplit w then decide (miSplitIdx w < miSplitCnt w) else decide (miSplitIdx w = 0)),
    (5, !(miSplit w) || !(fmtComplex fa)),
    (24, decide (miAStride w % 32 = 0)),
    (25, decide (miBStride w % 32 = 0)),
    (26, decide (miOutStride w % 32 = 0)),
    (24, decide (miG w = 0) || decide (miAStride w * 8 % (fmtBits fa * miG w) = 0)) ]

/-- Fields of a CONV (03 R97). -/
def cvInW (w : Mi) : Nat := wfield w 27 15 0
def cvInH (w : Mi) : Nat := wfield w 27 31 16
def cvOutW (w : Mi) : Nat := wfield w 28 15 0
def cvOutH (w : Mi) : Nat := wfield w 28 31 16
def cvNib (w : Mi) (i : Nat) : Nat := wfield w 29 (4 * i + 3) (4 * i)
def cvCin (w : Mi) : Nat := wfield w 30 15 0

/-- The checks on a CONV (03 R98). -/
def miConvChecks (w : Mi) : List (Nat × Bool) :=
  if miOp w = 0x11 then
    [ (27, decide (cvInW w ≠ 0) && decide (cvInH w ≠ 0)),
      (28, decide (cvOutW w ≠ 0) && decide (cvOutH w ≠ 0)),
      (29, (List.range 6).all (fun i => decide (cvNib w i ≠ 0))),
      (2, decide (miK w = cvNib w 0 * cvNib w 1 * cvCin w)),
      (30, decide (cvCin w % miGranule w = 0)) ]
  else []

/-- The location codes: none reserved, and no output into the weight store (03 R98). -/
def miLocChecks (w : Mi) : List (Nat × Bool) :=
  [ (9, (List.range 8).all (fun i => decide (wfield w 9 (4 * i + 3) (4 * i) ≤ 10))),
    (10, (List.range 5).all (fun i => decide (wfield w 10 (4 * i + 3) (4 * i) ≤ 10))) ]
  ++ (if miOp w = 0x01 then
    [(9, decide (miCode w .outData = 8) || decide (miCode w .outData = 9))]
  else [(9, decide (miCode w .outData ≠ 8))])

/-- The lowest word of a matrix instruction that fails a check of fields. -/
def miBad (w : Mi) : Option Nat :=
  let body := if miOp w = 0x01 then miLocChecks w
    else miFieldChecks w ++ miConvChecks w ++ miLocChecks w
  firstOf (reservedFail (miMasks (miOp w)) w) (firstFail body)

-- Locations (03 R96, R98, R99).

/-- The verdict on an access: allowed, outside a tile store or ledge region, or outside the stack
memory the issuer may access, at an offset. -/
inductive Verdict where
  | ok | bad | fault (off : Nat)
  deriving DecidableEq, Repr

/-- Who executes: the kernel's issuer and bases on a tile or other unit of a die. -/
structure Site where
  issuer : Issuer
  bases : List Nat
  die : Nat
  tile : Nat
  deriving DecidableEq, Repr

/-- First byte and length of the issuer's ledge region on a die (03 R96). -/
def State.ledgeRegion (s : State) (i : Issuer) (die : Nat) : Range :=
  match i with
  | some (p, _) => ((s.ledgeRange p die).1 * 2 ^ 20, (s.ledgeRange p die).2 * 2 ^ 20)
  | none => (0, ledgeBytes)

/-- A ledge unit that the physical function may not touch: owned by an enabled partition or in the
radio region (09 R321). -/
def State.ledgeTaken (s : State) (die mib : Nat) : Bool :=
  decide (s.radioLedge die ≤ mib) || s.enabledParts.any (fun p => inRange (s.ledgeRange p die) mib)

/-- The verdict on `n` bytes at byte offset `off` of a location code. A ledge unit whose scrub could not be completed is
out of reach (13 R455). -/
def State.verdict (s : State) (x : Site) (code off n : Nat) : Verdict :=
  if n = 0 then .ok
  else if code ≤ 7 then
    let o := x.bases.getD code 0 + off
    if s.issuerAllows x.issuer o n then .ok else .fault o
  else if code = 8 then (if off + n ≤ weightBytes then .ok else .bad)
  else if code = 9 then (if off + n ≤ stageBytes then .ok else .bad)
  else if code = 10 then
    if off + n ≤ (s.ledgeRegion x.issuer x.die).2 then
      (if s.withheldLedge.any (fun e => decide (e.1 = x.die) && overlaps (e.2 * 2 ^ 20, 2 ^ 20)
          ((s.ledgeRegion x.issuer x.die).1 + off, n)) then .fault off
       else if x.issuer.isNone && (List.range ((off + n - 1) / 2 ^ 20 - off / 2 ^ 20 + 1)).any (fun i =>
          s.ledgeTaken x.die (off / 2 ^ 20 + i)) then .fault off else .ok)
    else .bad
  else .bad

/-- The memory and address of a byte of a location code; for stack memory the offset in the issuer's
stack memory. -/
def State.locAddr (s : State) (x : Site) (code off : Nat) : Space × Nat :=
  if code ≤ 7 then (.stack, x.bases.getD code 0 + off)
  else if code = 8 then (.weight, weightKey x.die x.tile off)
  else if code = 9 then (.act, stageKey x.die x.tile off)
  else (.ledge, ledgeKey x.die ((s.ledgeRegion x.issuer x.die).1 + off))

/-- Read `n` bytes at an offset of a location code. -/
def State.locRead (s : State) (x : Site) (code off n : Nat) : List Byte :=
  let a := s.locAddr x code off
  match a.1 with
  | .stack => s.issuerRead x.issuer a.2 n
  | sp => s.readMem sp a.2 n

/-- What a read of `n` bytes cannot deliver, first: an uncorrectable block, or a failing row. -/
def State.locUe (s : State) (x : Site) (code off n : Nat) : Option Media :=
  if code ≤ 7 then (s.issuerUeRead x.issuer (x.bases.getD code 0 + off) n).map Media.block
  else if code = 10 then s.sramMedia x.die 3 0 ((s.ledgeRegion x.issuer x.die).1 + off) n
  else s.sramMedia x.die (code - 7) x.tile off n

/-- Reads of code, offset and length meet blocks of stack memory that the code of 10 R346 corrects. -/
def State.locCorrects (s : State) (x : Site) (l : List (Nat × Nat × Nat)) : State :=
  s.corrects (l.flatMap (fun e =>
    if e.1 ≤ 7 then s.issuerPieces x.issuer (x.bases.getD e.1 0 + e.2.1) e.2.2 else []))

/-- A store to a location code, held until its commit. -/
def State.locStore (s : State) (x : Site) (code off : Nat) (bs : List Byte) : HeldStore :=
  let a := s.locAddr x code off
  ⟨a.1, code, a.2, bs⟩

/-- Read 32-bit words at a location. -/
def State.locWords (s : State) (x : Site) (code off n : Nat) : List W32 :=
  bytesWords n (s.locRead x code off (4 * n))

/-- Bytes of an access that lie in stack memory (08 R300). -/
def stackCost (code n : Nat) : Nat := if code ≤ 7 then n else 0

/-- BAD_DESCRIPTOR at a word of the instruction (09 R336). -/
def Result.badIns (w : Nat) : Result := { status := .badDescriptor, d4 := lo32 (0x100 + w) }

/-- The failure that the first refused access of a list gives: each is a location field with its code,
offset and length. -/
def State.regionFail (s : State) (x : Site) (l : List (Nat × Nat × Nat × Nat)) : Option Result :=
  let bad := l.filterMap (fun e => if s.verdict x e.2.1 e.2.2.1 e.2.2.2 = .bad then some e.1 else none)
  match bad with
  | w :: ws => some (Result.badIns (ws.foldl min w))
  | [] => l.findSome? (fun e =>
      match s.verdict x e.2.1 e.2.2.1 e.2.2.2 with
      | .fault o => some (Result.access o e.2.1)
      | _ => none)

end Sys2Proof.Machine
end

