-- ==== Sys2Proof/Machine/Matrix.lean ====
section
/-! DEFINITION. The matrix product: where elements, scales and metadata lie (03 R100 to R107), the block
tags and the order of failures (02 R78, R79), and the accumulation in the array (02 R65 to R68). -/

namespace Sys2Proof.Machine

-- Rows (03 R101, R104).

/-- The row index that marks an empty row (03 R103). -/
def emptyRow : Nat := 0xFFFF_FFFF

/-- The row indices of an index block, cut to valid_rows (03 R103). DESIGN CHOICE, log entry 75: a valid_rows of 65 to
127, which its 7 bits hold and R103 leaves out, counts as 64. -/
def indexRows (ws : List W32) : List Nat :=
  (List.range (min 64 (wfield ws 64 22 16))).map (fun r => (wordAt ws r).toNat)

/-- Output pixel of row r of a CONV (03 R101). -/
def cvPixel (w : Mi) (r : Nat) : Nat := 64 * wfield w 8 15 0 + r

/-- Row r is masked: past the block, past the output image, or empty (03 R116, R101, R104). -/
def miMasked (w : Mi) (ix : List Nat) (r : Nat) : Bool :=
  decide (miM w ≤ r)
    || (decide (miOp w = 0x11) && decide (cvOutH w ≤ cvPixel w r / cvOutW w))
    || (decide (miOp w = 0x12) && decide (ix.getD r emptyRow = emptyRow))

/-- Rows that are fed. -/
def miRows (w : Mi) (ix : List Nat) : List Nat := (List.range (miM w)).filter (fun r => !(miMasked w ix r))

-- Chunks of K: the K-groups of a scaled operand, else the contiguous runs of a row.

/-- K elements of a chunk. -/
def miChunk (w : Mi) : Nat :=
  if decide (miG w ≠ 0) && fmtScaled (miFmtA w) then miG w
  else if miOp w = 0x11 then cvCin w
  else miK w

/-- Chunks of the instruction. -/
def miChunks (w : Mi) : Nat := if miK w = 0 ∨ miChunk w = 0 then 0 else miK w / miChunk w

/-- The input pixel that row r reads at the tap of element k, if the tap lies inside the image
(03 R101). -/
def cvInput (w : Mi) (r k : Nat) : Option Nat :=
  let t := k / cvCin w
  let tx := t % cvNib w 0
  let ty := t / cvNib w 0
  let m := cvPixel w r
  let x : Int := (m % cvOutW w * cvNib w 2 : Nat) - (cvNib w 6 : Nat) + (tx * cvNib w 4 : Nat)
  let y : Int := (m / cvOutW w * cvNib w 3 : Nat) - (cvNib w 7 : Nat) + (ty * cvNib w 5 : Nat)
  if 0 ≤ x ∧ x < cvInW w ∧ 0 ≤ y ∧ y < cvInH w then some (y.toNat * cvInW w + x.toNat) else none

/-- Offset and bytes of chunk j of row r of operand A, stored in format `f` (03 R100, R101, R104). -/
def miAPiece (w : Mi) (ix : List Nat) (f r j : Nat) : Option (Nat × Nat) :=
  let n := miChunk w
  let k := j * n
  let at' (row inner : Nat) : Option (Nat × Nat) :=
    some (miOff w .aData + row * miAStride w + inner * fmtBits f / 8, rowBytes f n)
  if miMasked w ix r then none
  else if miOp w = 0x11 then (cvInput w r k).bind (fun p => at' p (k % cvCin w))
  else if miOp w = 0x12 then at' (ix.getD r 0) k
  else at' r k

/-- A scale of an operand: offset of its record, lane, and the position its tag must carry. -/
structure ScaleRef where
  off : Nat
  lane : Nat
  kGroup : Nat
  laneBlock : Nat
  deriving DecidableEq, Repr

/-- K-groups in a stored row (03, Addressing). -/
def miCG (w : Mi) : Nat := miAStride w * 8 / (fmtBits (miFmtA w) * miG w)

/-- The scale of chunk j of row r (03 R100, R101, R104; 02 R78). -/
def miAScale (w : Mi) (ix : List Nat) (r j : Nat) : Option ScaleRef :=
  let base := miOff w .aScale
  let ka := wfield w 6 15 0
  let g := miG w
  if !(miStreamA w) || miMasked w ix r then none
  else if miOp w = 0x11 then
    (cvInput w r (j * g)).map (fun p =>
      let cg := j * g % cvCin w / g
      ⟨base + (p / 64 * miCG w + cg) * 128, p % 64, (ka + cg) % 65536, p / 64 % 65536⟩)
  else if miOp w = 0x12 then
    let i := ix.getD r 0
    some ⟨base + (i / 64 * miCG w + j) * 128, i % 64, (ka + j) % 65536, i / 64 % 65536⟩
  else some ⟨base + j * 128, r, (ka + j) % 65536, wfield w 7 15 0⟩

/-- Offsets of expert e's tensors (03 R104). -/
def miExpert (w : Mi) (word e : Nat) : Nat := if miOp w = 0x12 then e * (wordAt w word).toNat * 32 else 0

/-- Bytes of chunk j of a stored row of operand B. -/
def miBBytes (w : Mi) : Nat := rowBytes (miFmtB w) (miChunk w * miKept w / 4)

/-- Offset of chunk j of row c of operand B (03 R100, R105). -/
def miBPiece (w : Mi) (e c j : Nat) : Nat × Nat :=
  (miOff w .bData + miExpert w 27 e + c * miBStride w
    + j * (miChunk w * miKept w / 4) * fmtBits (miFmtB w) / 8, miBBytes w)

/-- The record of B's scales of chunk j. -/
def miBScale (w : Mi) (e j : Nat) : ScaleRef :=
  ⟨miOff w .bScale + miExpert w 28 e + j * 128, 0, (wfield w 6 31 16 + j) % 65536, wfield w 7 31 16⟩

/-- First bit of the metadata of chunk j in its row's: 4 bits a quad for 2:4, 2 for 1:4 (03 R106). -/
def miMetaBit (w : Mi) (j : Nat) : Nat := j * (miChunk w / 4) * (if miSparse w = 1 then 4 else 2)

/-- Offset and bytes of the metadata of chunk j of row c (03 R106). -/
def miMetaPiece (w : Mi) (e c j : Nat) : Nat × Nat :=
  let first := miMetaBit w j / 8
  (miOff w .metaData + miExpert w 29 e + c * miMetaStride w + first, (miMetaBit w (j + 1) + 7) / 8 - first)

/-- Rows that operand B supplies (03 R123). -/
def miBRows (w : Mi) : Nat := if miBatch w = 0 then miN w else miM w

-- Regions (03 R98, R99).

/-- The accesses of the operands, with their location fields' words: `gathered` those found at fetch,
the rows of a GATHER's operand A. -/
def miReads (w : Mi) (ix : List Nat) (e f : Nat) (gathered : Bool) : List (Nat × Nat × Nat × Nat) :=
  let js := List.range (miChunks w)
  let a := (miRows w ix).flatMap (fun r => js.flatMap (fun j =>
    ((miAPiece w ix f r j).toList.map (fun p => (11, miCode w .aData, p.1, p.2)))
    ++ ((miAScale w ix r j).toList.map (fun q => (12, miCode w .aScale, q.off, 128)))))
  let b := js.flatMap (fun j =>
    ((List.range (miBRows w)).map (fun c =>
      let p := miBPiece w e c j
      (13, miCode w .bData, p.1, p.2)))
    ++ (if miStreamB w then [(14, miCode w .bScale, (miBScale w e j).off, 128)] else [])
    ++ (if miSparse w = 0 then [] else (List.range (miBRows w)).map (fun c =>
      let p := miMetaPiece w e c j
      (19, miCode w .metaData, p.1, p.2))))
  if miOp w = 0x12 then (if gathered then a else b) else (if gathered then [] else a ++ b)

-- The stream (02 R78, R79).

/-- Why a stream stops. -/
inductive StreamErr where
  | res (r : Result)
  | ue (m : Media)
  | sram (e : SramErr)
  deriving DecidableEq, Repr

/-- The tag of a scale record: words 16 and 17 (02 R63). -/
def State.tagOf (s : State) (x : Site) (code off : Nat) : Nat × Nat :=
  let ws := s.locWords x code (off + 64) 2
  ((wordAt ws 0).toNat, (wordAt ws 1).toNat % 2 ^ 24)

/-- SCALE_SKEW of an operand (09 R336). -/
def skewResult (opB : Bool) (kg lb tag gen : Nat) (found : Nat × Nat) : Result :=
  { status := .scaleSkew, d4 := lo32 (kg + lb * 2 ^ 16),
    d5 := lo32 (tag + gen * 2 ^ 16 + (if opB then 2 ^ 24 else 0)), d6 := lo32 found.1, d7 := lo32 found.2 }

/-- The comparison of a record's tag with the data stream's (02 R78, R79). -/
def State.tagFail (s : State) (x : Site) (code : Nat) (opB : Bool) (tag gen : Nat) (q : ScaleRef) :
    Option StreamErr :=
  let f := s.tagOf x code q.off
  if f = (q.kGroup + q.laneBlock * 2 ^ 16, tag + gen * 2 ^ 16) then none
  else some (.res (skewResult opB q.kGroup q.laneBlock tag gen f))

/-- An access found at fetch lies outside the memory the issuer may access (03 R99). -/
def State.fetchFail (s : State) (x : Site) (code off n : Nat) : Option StreamErr :=
  match s.verdict x code off n with
  | .ok => none
  | .bad => some (.res (Result.access off code))
  | .fault o => some (.res (Result.access o code))

/-- The first failure in a list of reads: an access outside, when found at fetch, or an uncorrectable
block. -/
def State.readsFail (s : State) (x : Site) (code : Nat) (l : List (Nat × Nat)) : Option StreamErr :=
  l.findSome? (fun p =>
    match s.fetchFail x code p.1 p.2 with
    | some e => some e
    | none => (s.locUe x code p.1 p.2).map StreamErr.ue)

/-- What an instruction expects of its operands: the index block's rows, the expert, and the stored
format of operand A. -/
structure Feed where
  ix : List Nat
  e : Nat
  f : Nat
  deriving DecidableEq, Repr

/-- The failure of chunk j, in the order of R79: an uncorrectable scale record, a tag difference of A
before B, and an uncorrectable block of data or metadata. -/
def State.chunkFail (s : State) (x : Site) (w : Mi) (d : Feed) (sram : List SramErr) (j : Nat) :
    Option StreamErr :=
  let rows := miRows w d.ix
  let recsA := (rows.filterMap (fun r => miAScale w d.ix r j))
  let recsB := if miStreamB w then [miBScale w d.e j] else []
  let cA := miCode w .aScale
  let cB := miCode w .bScale
  let spots (l : List ScaleRef) : List (Nat × Nat) := l.map (fun q => (q.off, 128))
  let cols := List.range (miBRows w)
  let hit (sc : Bool) : Option StreamErr :=
    (sram.find? (fun q => !q.corrected && decide (q.group = j) && decide (q.scale = sc))).map StreamErr.sram
  let steps : List (Option StreamErr) := [
    hit true,
    s.readsFail x cA (spots recsA),
    s.readsFail x cB (spots recsB),
    recsA.findSome? (s.tagFail x cA false (wfield w 3 15 0) (wfield w 3 23 16)),
    recsB.findSome? (s.tagFail x cB true
      ((wfield w 4 15 0 + (if miOp w = 0x12 then d.e else 0)) % 65536) (wfield w 3 31 24)),
    s.readsFail x (miCode w .aData) (rows.filterMap (fun r => miAPiece w d.ix d.f r j)),
    s.readsFail x (miCode w .bData) (cols.map (fun c => miBPiece w d.e c j)),
    if miSparse w = 0 then none
      else s.readsFail x (miCode w .metaData) (cols.map (fun c => miMetaPiece w d.e c j)),
    hit false ]
  steps.findSome? id

/-- The first failure of the stream, in K-group order (02 R79). -/
def State.streamFail (s : State) (x : Site) (w : Mi) (d : Feed) (sram : List SramErr) :
    Option StreamErr :=
  (List.range (miChunks w)).findSome? (s.chunkFail x w d sram)

-- Operands as the array sees them.

/-- A chunk of a row as it enters the array: its elements and the unbiased exponent of its scale. -/
structure Chunk where
  elems : List Elem
  exp : Int
  deriving DecidableEq, Repr

/-- The E8M0 byte of a lane (02 R63). -/
def State.scaleByte (s : State) (x : Site) (code : Nat) (q : ScaleRef) : Nat :=
  fromLE (s.locRead x code (q.off + q.lane) 1)

/-- Row r of operand A, chunk by chunk; padding enters as zeros with scale 0x7F (03 R101, R111). -/
def State.rowA (s : State) (x : Site) (w : Mi) (d : Feed) (r : Nat) : List Chunk :=
  (List.range (miChunks w)).map (fun j =>
    let es := match miAPiece w d.ix d.f r j with
      | some p => rowElems d.f (miChunk w) (s.locRead x (miCode w .aData) p.1 p.2)
      | none => List.replicate (miChunk w) Elem.zero
    let e := match miAScale w d.ix r j with
      | some q => (scaleExp (s.scaleByte x (miCode w .aScale) q)).1
      | none => 0
    ⟨es, e⟩)

/-- Scales of operand A that were read as 0xFF (02 R61). -/
def State.clampsA (s : State) (x : Site) (w : Mi) (d : Feed) : Nat :=
  ((miRows w d.ix).flatMap (fun r => (List.range (miChunks w)).filterMap (fun j =>
    (miAScale w d.ix r j).bind (fun q =>
      if s.scaleByte x (miCode w .aScale) q = 0xFF then some () else none)))).length

/-- Row c of operand B: the scale of chunk j. -/
def State.scaleB (s : State) (x : Site) (w : Mi) (d : Feed) (c j : Nat) : Nat :=
  if miStreamB w then
    s.scaleByte x (miCode w .bScale) { miBScale w d.e j with lane := c }
  else 0x7F

/-- Scales of operand B that were read as 0xFF. -/
def State.clampsB (s : State) (x : Site) (w : Mi) (d : Feed) : Nat :=
  ((List.range (miN w)).flatMap (fun c => (List.range (miChunks w)).filter (fun j =>
    decide (s.scaleB x w d c j = 0xFF)))).length

/-- A chunk of a row of operand B: quads of kept values with their positions, and the scale. -/
structure BChunk where
  quads : List (List (Nat × Elem))
  exp : Int
  deriving DecidableEq, Repr

/-- The quads of kept values and positions. -/
def mkQuads (kept : Nat) : Nat → List Elem → List Nat → List (List (Nat × Elem))
  | 0, _, _ => []
  | q + 1, es, ps =>
    (ps.take kept).zip (es.take kept) :: mkQuads kept q (es.drop kept) (ps.drop kept)

/-- Row c of operand B, chunk by chunk (03 R100, R105, R106). -/
def State.rowB (s : State) (x : Site) (w : Mi) (d : Feed) (c : Nat) : List BChunk :=
  let kept := miKept w
  let q := miChunk w / 4
  (List.range (miChunks w)).map (fun j =>
    let p := miBPiece w d.e c j
    let es := rowElems (miFmtB w) (q * kept) (s.locRead x (miCode w .bData) p.1 p.2)
    let ps :=
      if miSparse w = 0 then (List.range q).flatMap (fun _ => [0, 1, 2, 3])
      else
        let t := miMetaPiece w d.e c j
        unpack 2 (q * kept) (fromLE (s.locRead x (miCode w .metaData) t.1 t.2) >>> (miMetaBit w j % 8))
    ⟨mkQuads kept q es ps, (scaleExp (s.scaleB x w d c j)).1⟩)

-- Accumulation (02 R65 to R68).

/-- A quad whose two entries stand in strictly ascending positions has the bits of the dense expanded operand, which
holds a zero at the other two (03 R107, R109). DESIGN CHOICE, log entry 75: in any other sparse quad an element of A at a
position with no entry takes no part, an infinity or NaN there included. -/
def fillQuad : List (Nat × Elem) → List (Nat × Elem)
  | [x, y] =>
    if x.1 < y.1 then
      (List.range 4).map (fun p => (p, if p = x.1 then x.2 else if p = y.1 then y.2 else Elem.zero))
    else [x, y]
  | q => q

/-- The pairs of a chunk in increasing k, entries of a quad in entry order (03 R107). -/
def quadPairs : List Elem → List (List (Nat × Elem)) → List (Elem × Elem)
  | _, [] => []
  | a, q :: qs => (fillQuad q).map (fun e => (a.getD e.1 Elem.zero, e.2)) ++ quadPairs (a.drop 4) qs

/-- The accumulators of one cell: real and imaginary part, and saturations. -/
structure Acc where
  re : FVal
  im : FVal
  sats : Nat
  deriving DecidableEq, Repr

def Acc.zero : Acc := ⟨.zero, .zero, 0⟩

/-- An element with its imaginary part negated, when conj is set (03 R122). -/
def Elem.conj (c : Bool) (a : Elem) : Elem := if c then { a with im := a.im.neg } else a

/-- The real and the imaginary part of a product, each exact (02 R68). -/
def Elem.prodRe (a b : Elem) : FVal := (a.re.mul b.re).add (a.im.mul b.im).neg
def Elem.prodIm (a b : Elem) : FVal := (a.re.mul b.im).add (a.im.mul b.re)

/-- A 40-bit addition that saturates (02 R68). -/
def add40 (a b : FVal) : FVal × Nat :=
  let v := a.toInt + b.toInt
  (.ofInt (satSigned 40 v), if satSigned 40 v = v then 0 else 1)

/-- One more product in a cell without group scales (02 R65 to R68). DESIGN CHOICE, log entry 84: a product of BF16
values outside the exponent range of FP32 is added as the exact number it is, and the sum alone is rounded. -/
def accStep (k : AccKind) (fp32ops : Bool) (t : Acc) (p : Elem × Elem) : Acc :=
  match k with
  | .f32 => { t with re := r32 (t.re.add (if fp32ops then fmul p.1.re p.2.re else p.1.re.mul p.2.re)) }
  | .i32 => { t with re := .ofInt (t.re.toInt + p.1.re.toInt * p.2.re.toInt) }
  | .ci40 =>
    let x := add40 t.re (p.1.prodRe p.2)
    let y := add40 t.im (p.1.prodIm p.2)
    ⟨x.1, y.1, t.sats + x.2 + y.2⟩
  | .cf32 =>
    { t with re := fadd t.re (r32 (p.1.prodRe p.2)), im := fadd t.im (r32 (p.1.prodIm p.2)) }

/-- The sum of one K-group: exact for integers, else nearest even at every addition (02 R65). -/
def groupSum (int : Bool) (ps : List (Elem × Elem)) : FVal :=
  if int then .ofInt (ps.foldl (fun t p => t + p.1.re.toInt * p.2.re.toInt) 0)
  else ps.foldl (fun t p => r32 (t.add (p.1.re.mul p.2.re))) .zero

/-- The accumulators that a row of A and a row of B leave in a cell (02 R65 to R68). -/
def cellAcc (w : Mi) (a : List Chunk) (b : List BChunk) : Acc :=
  let pairs := (a.zip b).map (fun c => (quadPairs c.1.elems c.2.quads, c.1.exp + c.2.exp))
  if miGrouped w then
    let int := decide (miFmtA w ≤ 2)
    { Acc.zero with
      re := pairs.foldl (fun t g => r32 (t.add ((groupSum int g.1).scale g.2))) .zero }
  else
    (pairs.flatMap (fun g => g.1)).foldl (fun t p =>
      accStep (miKind w) (decide (miFmtA w = 12)) t (p.1.conj (miConjA w), p.2.conj (miConjB w)))
      Acc.zero

/-- A quad as its expanded values: entries that share a position are one entry with their exact sum (03 R118). -/
def expandQuad (q : List (Nat × Elem)) : List (Nat × Elem) :=
  ((q.map Prod.fst).eraseDups).map (fun p =>
    (p, (q.filter (fun e => decide (e.1 = p))).foldl (fun t e => ⟨t.re.add e.2.re, t.im.add e.2.im⟩) Elem.zero))

/-- The reference magnitude of a cell: the product formula over absolute values of the expanded operand (03 R118). -/
def cellMag (w : Mi) (a : List Chunk) (b : List BChunk) : Elem :=
  let pairs := (a.zip b).flatMap (fun c =>
    (quadPairs c.1.elems (c.2.quads.map expandQuad)).map (fun p => (p, c.1.exp + c.2.exp)))
  pairs.foldl (fun t q =>
    let x := q.1.1
    let y := q.1.2
    let re := (x.re.abs.mul y.re.abs).add (x.im.abs.mul y.im.abs)
    let im := (x.re.abs.mul y.im.abs).add (x.im.abs.mul y.re.abs)
    let e := if miGrouped w then q.2 else 0
    ⟨t.re.add (re.scale e), t.im.add (im.scale e)⟩) Elem.zero

/-- A drained block: accumulators row-major over n_count columns, saturations with their rows and
columns, clamped operand scales, reference magnitudes, and the drift of the predictions. -/
structure Block where
  re : List FVal
  im : List FVal
  sats : Nat
  satRows : List Nat
  satCols : List Nat
  clamps : Nat
  magRow : List Elem
  magCol : List Elem
  driftRow : List Elem
  driftCol : List Elem
  deriving DecidableEq, Repr

def Elem.sum (l : List Elem) : Elem := l.foldl (fun t e => ⟨t.re.add e.re, t.im.add e.im⟩) Elem.zero

/-- The row of B that column c meets in row r: its band's in batch mode (03 R123). -/
def miBRow (w : Mi) (r c : Nat) : Nat := if miBatch w = 0 then c else r / miBand w * miBand w + c

/-- The accumulators are exact: INT32 or CI16 (03 R119). -/
def miExact (w : Mi) : Bool := decide (miKind w = .i32) || decide (miKind w = .ci40)

/-- The operands of a checksum cell, as numbers: chunk by chunk their scale, their elements and positions. -/
def Elem.key (e : Elem) : List Nat := [f32Bits e.re, f32Bits e.im]
def rowKey (a : List Chunk) : List Nat := a.flatMap (fun c => expCode c.exp :: c.elems.flatMap Elem.key)
def colKey (b : List BChunk) : List Nat :=
  b.flatMap (fun c => expCode c.exp :: c.quads.flatMap (fun q => q.flatMap (fun e => e.1 :: e.2.key)))

/-- The drift of a prediction, of each component: free, for the rounding of the checksum cells is not stated. -/
def driftOf (key : List Nat) : Elem := ⟨f32 (Config.ckDrift key 0), f32 (Config.ckDrift key 1)⟩

/-- The block that rows of A leave in the array against the rows of B. -/
def mkBlock (w : Mi) (ix : List Nat) (as : List (List Chunk)) (bs : List (List BChunk)) (clamps : Nat) :
    Block :=
  let n := miN w
  let cells := (List.range (miM w)).flatMap (fun r => (List.range n).map (fun c =>
    if miMasked w ix r then Acc.zero else cellAcc w (as.getD r []) (bs.getD (miBRow w r c) [])))
  let mags := if miCheck w then
      (List.range (miM w)).map (fun r => (List.range n).map (fun c =>
        if miMasked w ix r then Elem.zero else cellMag w (as.getD r []) (bs.getD c [])))
    else []
  let drifts := miCheck w && !(miExact w)
  let satAt := (List.range cells.length).filter (fun i => decide (0 < (cells.getD i Acc.zero).sats))
  { re := cells.map Acc.re, im := cells.map Acc.im, sats := (cells.map Acc.sats).sum,
    satRows := (satAt.map (· / n)).eraseDups, satCols := (satAt.map (· % n)).eraseDups,
    clamps := clamps,
    magRow := mags.map Elem.sum,
    magCol := (List.range n).map (fun c => Elem.sum (mags.map (fun row => row.getD c Elem.zero)))
    driftRow := if drifts then as.map (fun a => driftOf (0 :: rowKey a ++ bs.flatMap colKey)) else []
    driftCol := if drifts then bs.map (fun b => driftOf (1 :: colKey b ++ as.flatMap rowKey)) else [] }

/-- The rows of operand A that the instruction feeds. -/
def State.allA (s : State) (x : Site) (w : Mi) (d : Feed) : List (List Chunk) :=
  (List.range (miM w)).map (fun r => if miMasked w d.ix r then [] else s.rowA x w d r)

/-- The block of an instruction whose operand A enters as the given rows. -/
def State.product (s : State) (x : Site) (w : Mi) (d : Feed) (as : List (List Chunk)) : Block :=
  mkBlock w d.ix as ((List.range (miBRows w)).map (s.rowB x w d)) (s.clampsA x w d + s.clampsB x w d)

-- Counts (03 R124, R125).

/-- Half-handshakes a K element takes in a format (03 R124). -/
def fmtHalf (f : Nat) : Nat :=
  match f with
  | 1 | 5 | 6 | 7 => 1
  | 2 | 8 | 9 => 2
  | 10 | 11 => 4
  | 13 | 14 => 8
  | 12 => 16
  | _ => 0

/-- Latency in handshakes, for epilogue term E and prologue term L_p (03 R124, 04 R159). -/
def miLatency (w : Mi) (e lp : Nat) : Nat :=
  let d := if fmtComplex (miFmtA w) then 128 else 64
  let ee := e + (if miCheck w then 24 else 0)
  let ks := miK w * max (fmtHalf (miFmtA w)) (fmtHalf (miFmtB w)) / 2
  let b := if miGrouped w then miK w / miG w else 0
  if miK w = 0 then d + ee + lp
  else 126 + (if miSparse w = 0 then ks else ks / 2) + b + d + ee + lp

/-- MACs of an instruction, masked rows left out (03 R125). -/
def miMacs (w : Mi) (ix : List Nat) : Nat := (miRows w ix).length * miN w * (miK w * miKept w / 4)

/-- Bytes that the operands of an instruction move in stack memory (08 R300). -/
def miStackBytes (w : Mi) (d : Feed) : Nat :=
  ((miReads w d.ix d.e d.f true ++ miReads w d.ix d.e d.f false).map (fun p =>
    stackCost p.2.1 p.2.2.2)).sum

end Sys2Proof.Machine
end

