-- ==== Sys2Proof/Machine/Belay.lean ====
section
/-! DEFINITION. The Belay controller (07_belay_guarantee.md): capacity, prices and bookings, admission,
radio islands, leases, emergencies and shed steps. -/

namespace Sys2Proof.Machine

-- Frame timing of a cell (05 R164, R173, R181). Times are PTP ns.

/-- Slot duration in ns. -/
def slotNs (scs : Nat) : Nat := if scs = 15 then 1_000_000 else if scs = 30 then 500_000 else 125_000

/-- Slots of a frame. -/
def slotsPerFrame (scs : Nat) : Nat := 10_000_000 / slotNs scs

/-- A value at 15, 30 and 120 kHz. -/
def byScs (scs a b c : Nat) : Nat := if scs = 15 then a else if scs = 30 then b else c

/-- Submission deadline before air time of a slot (05 R181). -/
def submitLead (scs : Nat) : Nat := byScs scs 1_000_000 750_000 500_000

def CellCfg.scs (c : CellCfg) : Nat := c.fapi.scs

/-- Air time of a slot, counted from PTP time frame_offset. -/
def CellCfg.air (c : CellCfg) (n : Nat) : Nat := c.frameOffset + n * slotNs c.scs

/-- Air time of symbol `k` of a slot: symbols are fourteenths of a slot, in whole ns. -/
def CellCfg.airSym (c : CellCfg) (n k : Nat) : Nat := c.air n + k * slotNs c.scs / 14

/-- The slot that a time lies in. -/
def CellCfg.slotAt (c : CellCfg) (t : Nat) : Nat := (t - c.frameOffset) / slotNs c.scs

/-- SFN and slot within the frame of a slot number. -/
def CellCfg.sfnSlot (c : CellCfg) (n : Nat) : Nat × Nat :=
  (n / slotsPerFrame c.scs % 1024, n % slotsPerFrame c.scs)

/-- The slot number that an SFN and a slot within the frame name: that of the frame nearest to the
present one. -/
def CellCfg.resolve (c : CellCfg) (t sfn slot : Nat) : Nat :=
  let cur := c.slotAt t / slotsPerFrame c.scs
  let d := (sfn + 1024 - cur % 1024) % 1024
  let f := if d < 512 then cur + d else if 1024 - d ≤ cur then cur + d - 1024 else cur + d
  f * slotsPerFrame c.scs + slot

/-- The place in the pattern of a slot: downlink symbols at its start, uplink symbols at its end. -/
def CellCfg.symbols (c : CellCfg) (n : Nat) : Nat × Nat :=
  c.fapi.pattern.getD (n % max 1 c.fapi.pattern.length) (0, 0)

-- Cells.

def State.cell (s : State) (c : Nat) : Cell := SMap.get (fun _ => Cell.reset) s.radio.cells c
def State.setCell (s : State) (c : Nat) (x : Cell) : State :=
  { s with radio := { s.radio with cells := SMap.put (fun _ => Cell.reset) s.radio.cells c x } }

/-- The admitted cells of a die (05 R170: every state but IDLE). -/
def State.dieCells (s : State) (d : Nat) : List (Nat × Cell) :=
  s.radio.cells.filter (fun e => decide (e.2.state ≠ .idle) && decide (e.2.die = d))

/-- RUNNING, STOPPING or SHEDDING: the cell takes P7 requests (05 R170). -/
def Cell.busy (x : Cell) : Bool :=
  decide (x.state = .running) || decide (x.state = .stopping) || decide (x.state = .shedding)

/-- A cell whose slots are processed: RUNNING, STOPPING, or SHEDDING after it had run (05 R171, R181). -/
def Cell.live (x : Cell) : Bool := x.busy && x.begun

-- Prices (07 R236 to R238, R248).

def Quant.list (q : Quant) : List Nat :=
  [q.dlPrb, q.ulPrb, q.dlLayers, q.ulLayers, q.dlQm, q.ulQm, q.pdcch, q.pdsch, q.pusch, q.pucch, q.srs,
   q.prach, q.csirs]

/-- The hardware limits of R168 in the order of pdu_max. -/
def pduLimits : List Nat := [64, 32, 32, 32, 128, 64, 8]

/-- The declared maxima of a cell as quantities of a slot (05 R168). -/
def CellCfg.full (c : CellCfg) : Quant :=
  let m (i : Nat) : Nat := c.pduMax.getD i 0
  { dlPrb := c.fapi.grid, ulPrb := c.fapi.grid, dlLayers := c.fapi.dlLayers, ulLayers := c.fapi.ulLayers,
    dlQm := 5, ulQm := 4, pdcch := m 0, pdsch := m 1, csirs := m 2, pusch := m 3, pucch := m 4, srs := m 5,
    prach := m 6 }

/-- What a cell's price depends on (07 R236). -/
def CellCfg.key (c : CellCfg) : List Nat :=
  let f := c.fapi
  [f.scs, if f.fr2 then 1 else 0, f.bwMhz, f.grid, if f.tdd then 1 else 0, f.tx, f.rx, f.dlLayers, f.ulLayers,
   f.dlLayersUe, f.ulLayersUe, f.ulStreams, c.compUl.1, c.compUl.2, c.compDl.1, c.compDl.2, c.ta4Max,
   c.t1aMaxUp, c.t1aMinUp, c.tcpAdvDl, c.eqGroup, c.nsSteps, c.ldpcIter, c.harqBytes.getD 0]
  ++ c.pduMax ++ f.pattern.flatMap (fun e => [e.1, e.2])

/-- The pattern DDDSU: three downlink slots, a slot with both directions, an uplink slot. -/
def isDDDSU (p : List (Nat × Nat)) : Bool :=
  match p with
  | [a, b, c, x, u] =>
    decide (a = (14, 0)) && decide (b = (14, 0)) && decide (c = (14, 0)) && decide (u = (0, 14))
      && decide (0 < x.1) && decide (0 < x.2) && decide (x.1 + x.2 ≤ 14)
  | _ => false

/-- The configuration is one of the three of R238 under its reference declarations. The table's prices hold for the
default t1a_max_up, which sets a time of R236. -/
def CellCfg.reference (c : CellCfg) : Option Nat :=
  let f := c.fapi
  if f.tdd && isDDDSU f.pattern && decide (c.pduMax = pduLimits) && decide (c.ldpcIter = 10)
      && decide (c.nsSteps = 10) && decide (c.compUl = (1, 9)) && decide (c.compDl = (1, 9))
      && decide (c.t1aMaxUp = byScs f.scs 400 250 100) then
    if f.scs = 30 ∧ f.bwMhz = 100 ∧ f.tx = 4 ∧ f.rx = 4 ∧ f.dlLayers = 4 ∧ f.ulLayers = 2 then some 0
    else if f.scs = 30 ∧ f.bwMhz = 100 ∧ f.tx = 64 ∧ f.rx = 64 ∧ f.dlLayers = 16 ∧ f.ulLayers = 8
        ∧ f.ulStreams = 32 then some 1
    else if f.scs = 120 ∧ f.bwMhz = 400 ∧ f.fr2 ∧ f.tx = 4 ∧ f.ulLayers = 2 then some 2
    else none
  else none

/-- The prices of R238: classes 0 to 6, ledge in KiB, fronthaul in 10 Mb/s. -/
def refPrices : List (List Nat) :=
  [[0, 610, 180, 152, 140, 36, 24, 384, 650, 650],
   [9800, 4900, 1500, 1180, 1120, 36, 60, 2560, 2600, 5210],
   [0, 19500, 5900, 4800, 4400, 900, 400, 1024, 2600, 2600]]

/-- Above 8T8R: category B, iterative equaliser on tiles, retained estimates (05 R167, 12 R405). -/
def FapiCfg.massive (f : FapiCfg) : Bool := !f.fr2 && decide (16 ≤ f.tx)

/-- Slots of two periods of the pattern in which a direction has symbols, and the shortest spacing of two of
them, in slots (07 R236). -/
def CellCfg.busySlots (c : CellCfg) (ul : Bool) : List Nat :=
  let p := c.fapi.pattern
  (List.range (2 * p.length)).filter (fun i =>
    let e := p.getD (i % p.length) (0, 0)
    decide (0 < (if ul then e.2 else e.1)))
def minGap : Nat → List Nat → Nat
  | m, a :: b :: t => minGap (min m (b - a)) (b :: t)
  | m, _ => m
def CellCfg.spacing (c : CellCfg) (ul : Bool) : Nat :=
  match c.busySlots ul with
  | [] => 1
  | l => minGap c.fapi.pattern.length l

/-- The five pricing steps of R236: the classes that they use, and min(W, T) in units of 1/1400 µs, in which a slot and a symbol
are whole numbers. -/
def CellCfg.steps (c : CellCfg) : List (List Nat × Nat) :=
  let slot := 14 * (slotNs c.scs / 10)
  let dl := c.spacing false * slot
  let ul := c.spacing true * slot
  let bound (a b d : Nat) : Nat := 14 * byScs c.scs a b d
  [([0, 1, 2, 3, 4, 5, 6], min (14 * (submitLead c.scs / 10 - 100 * c.t1aMaxUp)) dl),
   ([1, 2, 0], min (bound 7140 3570 893) (slot / 14)),
   ([1, 0], min (bound 12_000 6_000 1_500) ul),
   ([1, 5], min (bound 15_000 10_000 5_000) ul),
   ([3, 6, 1, 0], min (bound 90_000 60_000 30_000) ul)]

/-- The class of a piece of work (07 R235). -/
def planClass : PlanOp → Nat
  | .tile _ => 0
  | .vde _ => 1
  | .fft _ _ => 2
  | .ldpcDec _ _ => 3
  | .ldpcEnc _ _ _ _ => 4
  | .polarEnc _ | .polarDec _ => 5
  | .prach _ _ _ => 6

/-- Its handshakes by the unit formulas, LDPC decoding at ldpc_max_iter (03 R124, 06 R205, R227 to R231, 07 R236). A chain stage
is in no plan (04 R159). -/
def planWork (iter : Nat) : PlanOp → Nat
  | .tile w => miLatency w 16 0
  | .vde n => n
  | .fft count n => 40 + (count + 1) * ((n + 7) / 8)
  | .ldpcDec rows z => 48 + iter * rows * ((z + 47) / 48)
  | .ldpcEnc kb rows z e => 32 + (kb + rows) * ((z + 95) / 96) + (e + 511) / 512
  | .polarEnc n => 32 + n / 8
  | .polarDec n => 64 + n / 4 * Nat.log2 n
  | .prach roots ant p => 96 + roots * ant * p / 8

/-- C of a pricing step and a class: the largest sum of handshakes over the slot plans that the parameters allow (07 R236). Which
plans these are is the firmware's, a free value (log entry 38). -/
def CellCfg.stepWork (c : CellCfg) (q : Quant) (step k : Nat) : Nat :=
  (Config.plans c.key q.list step).foldl (fun m plan =>
    max m ((plan.filter (fun o => decide (planClass o = k))).map (planWork c.ldpcIter)).sum) 0

/-- The sum of two fractions. -/
def addFrac (a b : Nat × Nat) : Nat × Nat := (a.1 * b.2 + b.1 * a.2, a.2 * b.2)

/-- The price in class `k` for slots of the quantities: Σ C ÷ min(W, T) over the pricing steps that use the class,
rounded up to a whole BU (log entry 38); cells with up to 8 receive streams use no tiles (07 R236, R238, R248). -/
def CellCfg.formulaPrice (c : CellCfg) (q : Quant) (k : Nat) : Nat :=
  if k = 0 ∧ !c.fapi.massive then 0
  else
    let f := (c.steps.zipIdx.filter (fun e => decide (k ∈ e.1.1))).foldl (fun m e =>
      addFrac m (1400 * c.stepWork q e.2 k, max 1 e.1.2)) (0, 1)
    (f.1 + f.2 - 1) / f.2

/-- The price in class `k` for slots of the quantities: a row of R238 at its declared maxima, else the formula of
R236. -/
def CellCfg.priceAt (c : CellCfg) (q : Quant) (k : Nat) : Nat :=
  match c.reference with
  | some r => if q = c.full then (refPrices.getD r []).getD k 0 else c.formulaPrice q k
  | none => c.formulaPrice q k

/-- The prices and terms of a cell at its declared maxima (07 R236, R237). -/
def CellCfg.prices (c : CellCfg) : Prices :=
  let bu := (List.range 7).map (fun k => c.priceAt c.full k)
  let ref (i other : Nat) : Nat :=
    match c.reference with
    | some r => (refPrices.getD r []).getD i 0
    | none => other
  let soft := c.harqBytes.getD (Config.term c.key 1)
  { bu := bu, ledge := ref 7 (Config.term c.key 0),
    harq := (soft + Config.term c.key 2 + 1_048_575) / 1_048_576,
    fhDl := ref 8 (Config.term c.key 3), fhUl := ref 9 (Config.term c.key 4),
    trafficDl := Config.term c.key 5, trafficUl := Config.term c.key 6,
    paths := (List.range 14).map (fun i => Config.term c.key (7 + i))
    grants := (List.range Config.arbiters).map (fun i => Config.term c.key (21 + i)) }

/-- The booking in effect at a slot: the latest entry that covers it (07 R248). -/
def Cell.bookingAt (x : Cell) (n : Nat) : Option Booking :=
  x.book.reverse.find? (fun b => decide (b.first ≤ n) && (match b.stop with
    | some e => decide (n < e)
    | none => true))

/-- Slots from `cur` onward at which the booking in effect may change. -/
def Cell.bookSlots (x : Cell) (cur : Nat) : List Nat :=
  cur :: (x.book.flatMap (fun b => b.first :: (match b.stop with | some e => [e] | none => []))).filter
    (fun n => decide (cur < n))

/-- The booked price of a cell in class `k`, for the largest booking in effect from `cur` onward; a slot
without a booking, and a CONFIGURED cell, count the full price (07 R248, 05 R170). -/
def Cell.bookedPrice (x : Cell) (cur k : Nat) : Nat :=
  let full := x.price.bu.getD k 0
  match x.cfg with
  | none => full
  | some c =>
    if x.live then
      (x.bookSlots cur).foldl (fun m n => max m (match x.bookingAt n with
        | some b => c.priceAt b.q k
        | none => full)) 0
    else full

/-- The price of a cell's searches in class `k` (05 R195). -/
def Cell.searchPrice (x : Cell) (k : Nat) : Nat :=
  match x.cfg with
  | none => 0
  | some c => (x.searches.map (fun q => Config.searchPrice c.key (q.count * 2048 + q.pcis.length) k)).sum

/-- The present slot of a cell. -/
def State.curSlot (s : State) (x : Cell) : Nat :=
  match x.cfg with
  | some c => c.slotAt s.clk
  | none => 0

-- Capacity (07 R234, R235, R239).

def bu1 : Nat := 1330

/-- Working units of a class in an island, without those that a spare in one of the islands named serves. -/
def State.islandUnits (s : State) (d isl : Nat) (c : EngineClass) (without : List Nat) : Nat :=
  ((List.range c.perDie).filter (fun i =>
    decide ((⟨d, c, i⟩ : UnitId).island = isl) && !(s.isRetired ⟨d, c, i⟩)
      && decide ((s.physOf ⟨d, c, i⟩).island ∉ without))).length

/-- The substitution allowance of a class per island (07 R235). -/
def allowance (c : EngineClass) : Nat :=
  match c with
  | .tile => 1330 | .vde => 665 | .fft | .ldpcDec | .polar => 133 | .ldpcEnc | .prach => 0

/-- The radio islands of a die that count in its capacity: those whose held bit has been set since their
designation, without those named (07 R235, R239). -/
def State.radioIslands (s : State) (d : Nat) (without : List Nat) : List Nat :=
  (List.range 8).filter (fun i =>
    (s.island d i).radio && (s.island d i).counted && decide (i ∉ without))

/-- cap(d, k) without the islands named (07 R235). -/
def State.capOf (s : State) (d : Nat) (c : EngineClass) (without : List Nat) : Nat :=
  let isl := s.radioIslands d without
  let n := (isl.map (fun i => s.islandUnits d i c without)).sum
  let i := (isl.filter (fun i => decide (0 < s.islandUnits d i c without))).length
  bu1 * n - allowance c * i

def State.cap (s : State) (d k : Nat) (without : List Nat) : Nat :=
  match classOf k with
  | some c => s.capOf d c without
  | none => 0

/-- Σ price of a die's admitted cells but one (07 R240, R265). -/
def State.pricedBut (s : State) (d k but : Nat) : Nat :=
  (((s.dieCells d).filter (fun e => decide (e.1 ≠ but))).map (fun e => e.2.price.bu.getD k 0)).sum

/-- Σ booked price of a die's admitted cells but one, searches included (07 R248, 05 R195). -/
def State.bookedBut (s : State) (d k but : Nat) : Nat :=
  (((s.dieCells d).filter (fun e => decide (e.1 ≠ but))).map (fun e =>
    e.2.bookedPrice (s.curSlot e.2) k + e.2.searchPrice k)).sum

/-- No cell: a number that no cell has. -/
def noCell : Nat := 0xFFFF

def State.priced (s : State) (d k : Nat) : Nat := s.pricedBut d k noCell
def State.booked (s : State) (d k : Nat) : Nat := s.bookedBut d k noCell

/-- BU that a lease lends in class `k`. -/
def Lease.bu (l : Lease) (k : Nat) : Nat := bu1 * (l.units.filter (fun u => decide (u.cls.code = k))).length

/-- BU under lease on a die in class `k`, of the leases that meet a condition (07 R265). -/
def State.lentIf (s : State) (d k : Nat) (f : Lease → Bool) : Nat :=
  ((s.leases.filter (fun l => decide (l.die = d) && f l)).map (fun l => l.bu k)).sum

def State.lent (s : State) (d k : Nat) : Nat := s.lentIf d k (fun _ => true)

/-- When the lease's notice ends if it starts no later than now, ns of `now`. -/
def State.noticeEnd (s : State) (l : Lease) : Nat :=
  (if l.stage = .active then s.now else l.t0) + l.noticeUs * 1000

/-- The lease's notice would not end within `ns` from now (07 R240). -/
def State.isLate (s : State) (ns : Nat) (l : Lease) : Bool := decide (s.now + ns < s.noticeEnd l)

-- Leases (07 R251 to R255).

/-- Reclaim what a need requires: leases of the die in class order, the latest granted first, whole leases
that `ok` admits, until in no class `need k`, with what remains lent, exceeds the capacity (07 R253). -/
def State.reclaimFor (s : State) (d cause : Nat) (need : Nat → Nat) (ok : Lease → Bool) : State :=
  (s.leases.reverse.filter (fun l => decide (l.die = d) && decide (l.stage = .active) && ok l)).foldl
    (fun t l =>
      if ([0, 1, 2] : List Nat).any (fun k => decide (0 < l.bu k)
          && decide (t.cap d k [] < need k + t.lentIf d k (fun m => decide (m.stage = .active))))
      then t.startReclaim l.id cause else t) s

/-- Every active lease that meets a condition starts its reclaim. -/
def State.reclaimAll (s : State) (cause : Nat) (f : Lease → Bool) : State :=
  (s.leases.filter (fun l => decide (l.stage = .active) && f l)).foldl (fun t l => t.startReclaim l.id cause) s

/-- A descriptor of the admin ring with an opcode is the next to start (09 R319, R324). -/
def State.admitAdmin (s : State) (op : Nat) (f : State → Desc → State) : State :=
  if s.awake then
    match s.nextStart 0 with
    | none => s
    | some d => if d.op = op then f s d else s
  else s

/-- Units of a class on a die that may be lent: in radio islands of the pool not being removed, working, and
under no lease; lowest logical numbers first (07 R251, R252). -/
def State.lendable (s : State) (d : Nat) (c : EngineClass) : List UnitId :=
  ((List.range c.perDie).map (fun i => (⟨d, c, i⟩ : UnitId))).filter (fun u =>
    let x := s.island d u.island
    x.radio && x.counted && !x.removing && s.usable u && !(s.leases.any (fun l => decide (u ∈ l.units))))

/-- lend_pct (07 R264). -/
def State.lendPct (s : State) : Nat := min 100 (s.rf (aBELAY + 0xC) 6 0)

/-- The lease that a block with op revoke names: its id, partition and die (07 R251). -/
def State.namedLease (s : State) (ws : List W32) : Option Lease :=
  s.leases.find? (fun l => decide (l.id = wfield ws 5 11 0) && decide (l.part = wfield ws 4 13 8)
    && decide (l.die = wfield ws 4 14 14))

/-- The words of a lease block that fail a check: descriptor word numbers (07 R251). -/
def State.leaseBad (s : State) (ws : List W32) : Option Nat :=
  let n := (wordAt ws 7).toNat
  let op := wfield ws 4 7 0
  let id := wfield ws 5 11 0
  descFail ws [(4, decide (op = 1) || decide (op = 2)),
    (5, if op = 1 then !(s.leases.any (fun l => decide (l.id = id)))
        else decide (op ≠ 2) || (s.namedLease ws).isSome),
    (6, decide (wfield ws 6 7 0 ≤ 192) && decide (wfield ws 6 14 8 ≤ 96) && decide (wfield ws 6 20 15 ≤ 32)),
    (7, decide (n = 0) || (decide (3000 ≤ n) && decide (n ≤ 100_000)))]

/-- The lease that a grant makes, if every condition of R252 holds. -/
def State.grantable (s : State) (ws : List W32) : Option Lease :=
  let p := wfield ws 4 13 8
  let d := wfield ws 4 14 14
  let n := if wordAt ws 7 = 0 then 3000 else (wordAt ws 7).toNat
  let want : List (EngineClass × Nat) :=
    [(.tile, wfield ws 6 7 0), (.vde, wfield ws 6 14 8), (.fft, wfield ws 6 20 15)]
  let fits := want.all (fun w =>
    let k := w.1.code
    decide (w.2 ≤ (s.lendable d w.1).length)
      && (decide (w.2 = 0) ||
        decide (bu1 * w.2 * 100 + s.lendPct * (s.booked d k + s.lent d k) ≤ s.lendPct * s.cap d k [])))
  let st := (s.part p).state
  if (decide (st = .running) || decide (st = .stopped)) && fits && decide (s.maxLayer p + 1000 ≤ n) then
    some { id := wfield ws 5 11 0, part := p, die := d,
           units := want.flatMap (fun w => (s.lendable d w.1).take w.2), noticeUs := n, stage := .active,
           granted := s.now, t0 := 0, cause := 0, endPtp := 0 }
  else none

/-- LEASE_GRANT: the next descriptor of the admin ring is a lease command with op grant, or a lease block
that fails a check (07 R251, R252). -/
def leaseGrant (s : State) : State :=
  s.admitAdmin 0x30 (fun t d =>
    match t.leaseBad d.words with
    | some w => t.finishDesc 0 d.idx (Result.bad w)
    | none =>
      if wfield d.words 4 7 0 = 1 then
        match t.grantable d.words with
          | none => t.finishDesc 0 d.idx (Result.of .belayRefused)
          | some l => (({ t with leases := t.leases ++ [l] }).finishDesc 0 d.idx
              (Result.of .success)).leaseEvent l 2
      else t)

/-- LEASE_REVOKE: a lease command with op revoke (07 R252, R253). -/
def leaseRevoke (s : State) : State :=
  s.admitAdmin 0x30 (fun t d =>
    if (t.leaseBad d.words).isNone && decide (wfield d.words 4 7 0 = 2) then
      match t.namedLease d.words with
      | none => t
      | some l => (t.startReclaim l.id 5).finishDesc 0 d.idx (Result.of .success)
    else t)

/-- Kernels that run on leased units. -/
def State.leaseKernels (s : State) (l : Lease) : List Kernel :=
  s.kernels.filter (fun k => l.units.any (fun u =>
    (decide (u.cls = .tile) && decide ((u.die, u.num) ∈ k.tiles)) || decide (k.unit = some (u.die, u.cls.code, u.num))))

/-- The scrub of a lease's units starts: they are clear of any context (07 R253 step 4). -/
def State.leaseClear (s : State) (l : Lease) : State := s.updLease l.id (fun m => { m with stage := .scrubbing })

/-- A tile of the lease is one that the resident context has occupied. -/
def State.leaseUsed (s : State) (l : Lease) : Bool :=
  let used := (s.ctx l.part (s.part l.part).resident).used
  l.units.any (fun u => decide (u.cls = .tile) && decide ((u.die, u.num) ∈ used))

/-- The save of a reclaim: at the boundary of every kernel of the resident context its stages are saved, and it
resumes at once on the tiles that are free, the lease's not among them; until then no kernel and no section of it
starts (08 R280, R285 to R288). -/
def State.leaseSave (s : State) (l : Lease) : State :=
  let p := l.part
  let c := (s.part p).resident
  if (s.partKernels p).isEmpty then
    let u := s.saveContext p c
    let t := match u.resumeUe p c with
      | some b => (u.failUe b).loseContext p c []
      | none => (u.resumeReads p c).resumeContext p c c
    ((t.setPart p { t.part p with reclaiming := false }).serveSems p c).leaseClear l
  else s.setPart p { s.part p with reclaiming := true }

/-- LEASE_RECLAIM_SAVE: no layer runs on the leased units any longer. A switch under way saves for the reclaim too,
and units that only a saved context occupied need no save (08 R291); otherwise, outside a section and with no unit
under substitution, the context is saved (07 R253 step 3, 08 R285, 01 R42). -/
def leaseReclaimSave (id : Nat) (s : State) : State :=
  match s.leases.find? (fun l => decide (l.id = id) && decide (l.stage = .notice)) with
  | none => s
  | some l =>
    let x := s.part l.part
    if s.awake && (s.leaseKernels l).isEmpty && !(s.substHeld l.part) then
      match x.switch with
      | .draining | .saving => s
      | .scrubbing | .resuming => s.leaseClear l
      | .none =>
        if !(s.leaseUsed l) then s.leaseClear l
        else if (x.ctx x.resident).sectionAt.isSome then s
        else s.leaseSave l
    else s

/-- A context has left the tiles of a lease. -/
def State.leaveLease (s : State) (l : Lease) : State :=
  let x := s.part l.part
  let y := x.ctx x.resident
  s.setCtx l.part x.resident { y with
    used := y.used.filter (fun t => !(l.units.any (fun u => decide (u = ⟨t.1, .tile, t.2⟩)))) }

/-- LEASE_LAYER_ABANDON: at t0 + N − 500 µs a layer that still runs on the leased units is abandoned
with LAYER_TIME_EXCEEDED, and the scrub follows at once (07 R253 step 5). -/
def leaseLayerAbandon (id : Nat) (s : State) : State :=
  match s.leases.find? (fun l => decide (l.id = id) && decide (l.stage = .notice)) with
  | none => s
  | some l =>
    if l.t0 + l.noticeUs * 1000 ≤ s.now + 500_000 ∧ (s.leaseKernels l) ≠ [] then
      (((s.leaseKernels l).foldl (fun t k =>
        t.abortKernel k { status := .layerTimeExceeded, d4 := lo32 (t.layerNs k / 1000) }) s).leaveLease l).leaseClear l
    else s

/-- LEASE_END: at t0 + N the units return to radio work, and the end event is written (07 R253 step
6). A lease whose partition was reset ends so too: the reset's scrub covered its units (08 R296). -/
def leaseEnd (id : Nat) (s : State) : State :=
  match s.leases.find? (fun l => decide (l.id = id)) with
  | none => s
  | some l =>
    if decide (l.stage = .scrubbed) && decide (l.t0 + l.noticeUs * 1000 ≤ s.now)
        && (s.leaseKernels l).isEmpty then
      ({ s with leases := s.leases.filter (fun m => decide (m.id ≠ id)) }).leaseEvent l 1
    else s

-- Admission (07 R240 to R242, R237).

/-- Sub-ports of a port's mode (12 R400, R401). -/
def State.subPorts (s : State) (port : Nat) : Nat :=
  match s.rf (aPORTn port) 2 1 with
  | 1 => 2 | 2 => 4 | _ => 1

/-- Rate of a sub-port in 10 Mb/s. -/
def State.subRate (s : State) (port : Nat) : Nat := 40_000 / s.subPorts port

/-- A sub-port's share of the ceiling in 10 Mb/s (12 R416). -/
def State.ceilingShare (s : State) (port : Nat) : Nat := s.fuses.ceiling.getD port 0 * 10 / s.subPorts port

/-- Every cell admitted on a sub-port but one, with its prices (07 R237). -/
def State.subCells (s : State) (port sub but : Nat) : List Prices :=
  (s.radio.cells.filter (fun e => decide (e.2.state ≠ .idle) && decide (e.1 ≠ but)
    && (match e.2.cfg with
        | some c => decide (c.port = port) && decide (c.sub = sub)
        | none => false))).map (fun e => e.2.price)

/-- The radio ledge region of a die in KiB and its radio stack allocation in MiB (07 R264). -/
def State.radioLedgeKib (s : State) (d : Nat) : Nat := 1024 * (96 - s.radioLedge d)
def State.radioStackMib (s : State) (d : Nat) : Nat :=
  let w := s.reg (aBELAY + 8)
  (if d = 0 then field w 20 16 else field w 28 24) * (s.halfBytes / 1_048_576)

/-- The terms of R237 fit on die d with a cell's prices in place of its old ones: traffic at no arbiter exceeds half
of its rate, which R25 gives for the Basecamp link, the stacks and the M0–M1 link, or of the grants of an arbiter of the
die's networks (01 R47). -/
def State.termsFit (s : State) (d c port sub : Nat) (x : Prices) : Bool :=
  let others := ((s.dieCells d).filter (fun e => decide (e.1 ≠ c))).map (fun e => e.2.price)
  let sum (f : Prices → Nat) : Nat := ((x :: others).map f).sum
  let onSub := x :: s.subCells port sub c
  let dl := (onSub.map (fun p => p.fhDl)).sum
  let ul := (onSub.map (fun p => p.fhUl)).sum
  decide (sum (fun p => p.ledge) ≤ s.radioLedgeKib d) && decide (sum (fun p => p.harq) ≤ s.radioStackMib d)
    && decide (dl * 100 ≤ 95 * s.subRate port) && decide (ul * 100 ≤ 95 * s.subRate port)
    && decide (dl ≤ s.ceilingShare port)
    && decide (sum (fun p => p.trafficDl) ≤ 820_000) && decide (sum (fun p => p.trafficUl) ≤ 820_000)
    && (List.range 12).all (fun i => decide (sum (fun p => p.paths.getD i 0) ≤ 615_000))
    && (List.range 2).all (fun i => decide (
      ((x :: ((s.radio.cells.filter (fun e => decide (e.1 ≠ c))).map (fun e => e.2.price))).map
        (fun p => p.paths.getD (12 + i) 0)).sum ≤ 1_640_000))
    && (List.range Config.arbiters).all (fun i => decide (sum (fun p => p.grants.getD i 0) ≤ 5000))

/-- The emergency condition of a kind holds on die d (07 R256). -/
def State.tempOver (s : State) (d : Nat) (limit : Int) : Bool :=
  (List.range 8).any (fun i => (s.island d i).radio && decide (limit ≤ (s.island d i).temp))
def State.warnTemp (s : State) : Int := (s.rf (aBELAY + 0x10) 11 0 : Nat)
def State.shedTemp (s : State) : Int := (s.rf (aBELAY + 0x10) 27 16 : Nat)

/-- Some sum of R240 is unmet on die d without the islands named (07 R256, R257). -/
def State.sumsUnmet (s : State) (d : Nat) (without : List Nat) : Bool :=
  (List.range 7).any (fun k =>
    decide (s.cap d k without < s.priced d k) || decide (s.cap d k without < s.booked d k))

def State.emerg (s : State) (d : Nat) : Emerg := if d = 0 then s.radio.emerg0 else s.radio.emerg1
def State.setEmerg (s : State) (d : Nat) (e : Emerg) : State :=
  { s with radio := if d = 0 then { s.radio with emerg0 := e } else { s.radio with emerg1 := e } }

def State.emergHolds (s : State) (d : Nat) (k : EmergKind) : Bool :=
  match k with
  | .none => false
  | .warning => s.tempOver d s.warnTemp
  | .thermal => s.tempOver d s.shedTemp
  | .power => decide (s.power.limitStep = 3)
  | .pace => (List.range 8).any (fun i => (s.emerg d).islands.testBit i
      && ((s.island d i).radio || decide (0 < (s.island d i).spareHolds)))
  | .capacity => s.sumsUnmet d []

/-- The emergencies in force on die d, the latest declared first (07 R256, R264). A thermal emergency whose
sensors are below shed_temp again leaves its warning. -/
def State.emergs (s : State) (d : Nat) : List EmergKind :=
  ((((s.emerg d).kind :: (s.emerg d).others).map (fun k =>
    if k = .thermal ∧ !(s.emergHolds d k) then EmergKind.warning else k)).filter (s.emergHolds d)).eraseDups

/-- The latest emergency in force on die d: what BELAY_EMERG shows. -/
def State.emergNow (s : State) (d : Nat) : EmergKind := (s.emergs d).headD .none

/-- The emergency is in force on die d. -/
def State.emergIn (s : State) (d : Nat) (k : EmergKind) : Bool := decide (k ∈ s.emergs d)

/-- The emergencies in force that shed cells and whose latest step's last shed slot ended 10 ms ago (07 R258 step 6). -/
def State.shedsDue (s : State) (d : Nat) : List EmergKind :=
  (s.emergs d).filter (fun k => decide (k ≠ .warning) && decide ((s.emerg d).shedEnd k + 10_000_000 ≤ s.clk))

/-- Emergencies of die d whose condition no longer holds have ended (07 R256); a change of what BELAY_EMERG showed with
`was` fires device source 1 (09 R339). -/
def State.endEmerg (s : State) (d : Nat) (was : Emerg) : State :=
  let t := s.setEmerg d { s.emerg d with kind := s.emergNow d, others := (s.emergs d).drop 1 }
  let e := t.emerg d
  if e.kind = was.kind ∧ e.islands = was.islands then t else t.edge 1

/-- Die d admits cell c with a configuration: sums 1 and 2 and the terms fit (07 R240, R242). -/
def State.dieFits (s : State) (d c : Nat) (cfg : CellCfg) : Bool :=
  let x := cfg.prices
  let late := s.isLate (16 * slotNs cfg.scs)
  decide (s.emergNow d = .none)
    && (List.range 7).all (fun k =>
      decide (s.pricedBut d k c + x.bu.getD k 0 ≤ s.cap d k [])
        && decide (s.bookedBut d k c + x.bu.getD k 0 + s.lentIf d k late ≤ s.cap d k []))
    && s.termsFit d c cfg.port cfg.sub x

/-- The larger of two fractions. -/
def maxFrac (a b : Nat × Nat) : Nat × Nat := if a.1 * b.2 < b.1 * a.2 then b else a

/-- The largest fraction Σ price ÷ cap over all classes with the cell on die d (07 R241). -/
def State.fraction (s : State) (d c : Nat) (cfg : CellCfg) : Nat × Nat :=
  (List.range 7).foldl (fun m k =>
    let cap := s.cap d k []
    if cap = 0 then m else maxFrac m (s.pricedBut d k c + cfg.prices.bu.getD k 0, cap)) (0, 1)

/-- The die on which a cell is admitted, if any (07 R241). -/
def State.chooseDie (s : State) (c : Nat) (cfg : CellCfg) : Option Nat :=
  let f0 := s.dieFits 0 c cfg
  let f1 := s.dieFits 1 c cfg
  if cfg.diePin = 0 then (if f0 then some 0 else none)
  else if cfg.diePin = 1 then (if f1 then some 1 else none)
  else if f0 && f1 then
    let a := s.fraction 0 c cfg
    let b := s.fraction 1 c cfg
    if b.1 * a.2 < a.1 * b.2 then some 1 else some 0
  else if f0 then some 0 else if f1 then some 1 else none

-- Indications to layer 2 (05 R174, R175; 09 R314, R326).

/-- The codes: those of SCF 222.10 are constants of it, the device's own are R178's. -/
def MsgCode.code : MsgCode → Nat
  | .ok => Config.scfCode 0 | .invalidState => Config.scfCode 1 | .invalidConfig => Config.scfCode 2
  | .slotErr => Config.scfCode 3 | .invalid => Config.scfCode 4
  | .late => 0x80 | .outOfWindow => 0x81 | .belayRefused => 0x82 | .pduOverDeclared => 0x83
  | .txDataLate => 0x84

/-- msg_id of an indication (05 R175). -/
def IndBody.msgId : IndBody → Nat
  | .param _ => 0x0001 | .config _ => 0x0003 | .stop => 0x0006 | .error _ _ _ => 0x0007 | .slot _ => 0x0082
  | .rxData _ => 0x0085 | .crc _ => 0x0086 | .uci _ => 0x0087 | .srs _ _ _ => 0x0088 | .rach _ => 0x0089
  | .notice _ _ _ _ => 0x00C1 | .shed _ _ _ _ _ _ _ => 0x00C2 | .ssb _ => 0x00C4

/-- The numbers of a body, for the bodies whose layout is SCF 222.10's or is not given. -/
def IndBody.fields : IndBody → List Int
  | .param l => l.map Int.ofNat
  | .config c => [(c.code : Int)]
  | .stop => []
  | .error m c ps => (m : Int) :: (c.code : Int) :: ps.map Int.ofNat
  | .rxData tbs => tbs.flatMap (fun t => (t.1 : Int) :: t.2.map (fun b => (b.toNat : Int)))
  | .crc tbs => tbs.flatMap (fun t =>
      [(t.index : Int), if t.ok then 1 else 0, (t.blocks.length : Int)] ++ t.blocks.map (fun b => if b then 1 else 0)
        ++ [(t.iters : Int), (t.erased : Int), if t.overflow then 1 else 0])
  | .uci rs => rs.flatMap (fun r => (r.1 : Int) :: r.2)
  | .srs snr a h => [snr, (a : Int), (h : Int)]
  | .rach hs => hs.flatMap (fun h => [(h.1 : Int), (h.2.1 : Int), h.2.2.1, h.2.2.2])
  | .ssb hs => hs.flatMap (fun h => [(h.pci : Int), (h.ssb : Int), h.offsetNs, h.power])
  | _ => []

/-- The bytes of a body: the two of R197 and R259 as laid out there, that of SLOT.indication with the air time
after its FAPI fields (05 R176), the others in a layout that the spec takes from SCF 222.10 or leaves open. -/
def IndBody.bytes (b : IndBody) : List Byte :=
  match b with
  | .notice dir cause ch dl => leBytes 4 (dir + cause * 2) ++ leBytes 4 ch ++ leBytes 8 dl
  | .shed ph cause step cls die isl time =>
    leBytes 4 (ph + cause * 2 + step * 16 + cls * 256) ++ leBytes 4 (die + isl * 256) ++ leBytes 8 time
  | .slot air => Config.fapiBody b.msgId [] ++ leBytes 8 air
  | _ => Config.fapiBody b.msgId b.fields

/-- The message block of an indication: radio header and body (05 R174, 09 R326). -/
def IndMsg.block (m : IndMsg) : List Byte :=
  let body := m.body.bytes
  leBytes 2 m.body.msgId ++ leBytes 2 m.cell ++ leBytes 4 body.length
    ++ leBytes 4 (m.sfn + m.slot * 2 ^ 10) ++ leBytes 4 m.seq.toNat ++ body

/-- Send an indication on the indication ring of a request ring (09 R314, R326); a device that has stopped serving
sends none (05 R196). -/
def State.sendInd (s : State) (ring : Nat) (m : IndMsg) : State :=
  if s.awake then
    ({ s with outs := .ind (ring + 1) m :: s.outs }).indicate (ring + 1) m.body.msgId m.cell m.block
  else s

/-- Send an indication of a cell about a slot, on its bound pair. -/
def State.cellInd (s : State) (c slot : Nat) (seq : W32) (b : IndBody) : State :=
  let x := s.cell c
  match x.ring with
  | none => s
  | some n =>
    let at' := match x.cfg with
      | some g => g.sfnSlot slot
      | none => (0, 0)
    s.sendInd n ⟨c, at'.1, at'.2, seq, b⟩

/-- Send an indication of a cell that concerns no slot. -/
def State.cellNote (s : State) (c : Nat) (seq : W32) (b : IndBody) : State :=
  match (s.cell c).ring with
  | none => s
  | some n => s.sendInd n ⟨c, 0, 0, seq, b⟩

-- Emergencies and shed steps (07 R256 to R259).

def EmergKind.code : EmergKind → Nat
  | .none => 0 | .warning => 1 | .thermal => 2 | .power => 3 | .pace => 4 | .capacity => 5

/-- Cause codes of CELL_SHED.indication (07 R259). -/
def EmergKind.shedCause : EmergKind → Nat
  | .thermal => 1 | .power => 2 | .pace => 3 | .capacity => 4 | _ => 0

def State.shedClass (s : State) (c : Nat) : Nat := s.rf (aCELL c + 4) 2 0

/-- One cell comes before another in the shedding order: higher shed_class, then later admission
(07 R257). -/
def State.shedBefore (s : State) (a b : Nat × Cell) : Bool :=
  decide (s.shedClass b.1 < s.shedClass a.1)
    || (decide (s.shedClass b.1 = s.shedClass a.1) && decide (b.2.order < a.2.order))

/-- Insert a cell into a list in the shedding order. -/
def State.shedInsert (s : State) (a : Nat × Cell) : List (Nat × Cell) → List (Nat × Cell)
  | [] => [a]
  | b :: t => if s.shedBefore a b then a :: b :: t else b :: State.shedInsert s a t

/-- The die's admitted cells in the shedding order. -/
def State.shedOrder (s : State) (d : Nat) : List (Nat × Cell) :=
  (s.dieCells d).foldl (fun l e => s.shedInsert e l) []

def Prices.total (p : Prices) : Nat := p.bu.sum

/-- Selection for the 25 % target: cells in order until those selected carry at least a quarter of the
total; SHEDDING cells count as selected (07 R257). -/
def selectQuarter (total : Nat) : Nat → List (Nat × Cell) → List Nat
  | _, [] => []
  | have', e :: t =>
    if total ≤ 4 * have' then []
    else if e.2.state = .shedding then selectQuarter total have' t
    else e.1 :: selectQuarter total (have' + e.2.price.total) t

/-- Selection for the fit target: cells in order, skipping those that count in no sum that is over its
capacity, until every sum fits (07 R257). `sums` holds the sums with their capacities, `amounts` what a cell
counts in each. -/
def selectFit (amounts : Cell → List Nat) : List (Nat × Nat) → List (Nat × Cell) → List Nat
  | _, [] => []
  | sums, e :: t =>
    if sums.all (fun x => decide (x.1 ≤ x.2)) then []
    else if e.2.state = .shedding then selectFit amounts sums t
    else if (sums.zip (amounts e.2)).any (fun x => decide (x.1.2 < x.1.1) && decide (0 < x.2)) then
      e.1 :: selectFit amounts ((sums.zip (amounts e.2)).map (fun x => (x.1.1 - x.2, x.1.2))) t
    else selectFit amounts sums t

/-- What a cell counts in the sums 1 and 2 of R240: its prices and its booked prices, searches included. -/
def State.amounts (s : State) (x : Cell) : List Nat :=
  (List.range 7).map (fun k => x.price.bu.getD k 0)
    ++ (List.range 7).map (fun k => x.bookedPrice (s.curSlot x) k + x.searchPrice k)

/-- Islands that a mask names. -/
def maskIslands (m : Nat) : List Nat := setBits 8 m

/-- The cells that a shed step of die d selects. -/
def State.shedSelect (s : State) (d : Nat) (k : EmergKind) (islands : Nat) : List Nat :=
  let order := s.shedOrder d
  let gone := (order.filter (fun e => decide (e.2.state = .shedding)))
  match k with
  | .thermal | .power =>
    selectQuarter ((order.map (fun e => e.2.price.total)).sum) ((gone.map (fun e => e.2.price.total)).sum) order
  | .pace | .capacity =>
    let out := if k = .pace then maskIslands islands else []
    let less (i : Nat) : Nat := (gone.map (fun e => (s.amounts e.2).getD i 0)).sum
    selectFit s.amounts ((List.range 7).map (fun i => (s.priced d i - less i, s.cap d i out))
      ++ (List.range 7).map (fun i => (s.booked d i - less (7 + i), s.cap d i out))) order
  | _ => []

/-- CELL_SHED.indication with phase 0; the cell enters SHEDDING, and a START that waits is dropped (07 R258 step 3,
R259, 05 R172). -/
def State.announceShed (s : State) (c : Nat) (k : EmergKind) (step islands : Nat) : State :=
  let x := s.cell c
  match x.cfg with
  | none => s
  | some g =>
    let slot := (s.clk + 10_000_000 - g.frameOffset + slotNs g.scs - 1) / slotNs g.scs
    let cls := s.shedClass c
    let isl := if k = .pace then islands else 0
    let t := s.setCell c { x with
      state := .shedding, startAt := none, shedAt := some slot, shedStep := step, shedClass := cls, shedCause := k.shedCause,
      shedIslands := isl }
    t.cellInd c slot 0 (.shed 0 k.shedCause step cls x.die isl (g.air slot))

/-- Steps 3 on of a shed step: cells are selected and announced (07 R258). -/
def State.shedStep (s : State) (d : Nat) (k : EmergKind) : State :=
  let e := s.emerg d
  let n := min 15 (e.steps + 1)
  let sel := s.shedSelect d k e.islands
  let t := sel.foldl (fun t c => t.announceShed c k n e.islands) s
  let ends := (t.dieCells d).filterMap (fun x =>
    match x.2.shedAt, x.2.cfg with
    | some m, some g => some (g.air (m + 1))
    | _, _ => none)
  (t.setEmerg d { e with
    steps := n
    shedEnds := e.shedEnds.filter (fun x => decide (x.1 ≠ k)) ++ [(k, ends.foldl max t.clk)] }).edge 1

/-- The declaration of an emergency: BELAY_EMERG and device source 1, the Summit register, with the island that a pace
emergency is declared for, every lease of
the die's radio islands, and the shed step (07 R256, R258). -/
def State.declareEmerg (s : State) (d : Nat) (k : EmergKind) (islands : Nat) : State :=
  let e := s.emerg d
  let pace := decide (k = .pace)
  let old := if pace && s.emergIn d .pace then e.islands else 0
  let site := match (maskIslands islands).filter (fun i => !(old.testBit i)) ++ maskIslands islands with
    | i :: _ => siteIsland d i
    | [] => siteDevice
  let t := ((s.setEmerg d { e with
    kind := k, others := (s.emergs d).filter (fun j => decide (j ≠ k)),
    islands := if pace then islands else if s.emergIn d .pace then e.islands else 0,
    monitors := if pace || s.emergIn d .pace then e.monitors else 0 }).edge 1).record 0x0304 site 0 k.code
  let u := t.reclaimAll 4 (fun l => decide (l.die = d))
  if k = .warning then u else u.shedStep d k

/-- The loss of a unit of a radio island: cells are priced against the reduced capacity; leases are
reclaimed for it, and cells are shed if a sum of R240 is unmet (01 R43, 07 R253, R256). -/
def State.capacityLost (s : State) (d : Nat) : State :=
  let t := s.reclaimFor d 2 (fun k => s.booked d k) (fun _ => true)
  if t.sumsUnmet d [] then t.declareEmerg d .capacity 0 else t

/-- THERMAL_WARNING (07 R256). -/
def thermalWarning (d : Nat) (s : State) : State :=
  if s.awake && decide (d < 2) && s.tempOver d s.warnTemp && !(s.emergIn d .warning) && !(s.emergIn d .thermal) then
    s.declareEmerg d .warning 0
  else s

/-- THERMAL_EMERGENCY: a radio-island sensor has stayed at or above shed_temp for 1 ms (07 R256). -/
def thermalEmergency (d : Nat) (s : State) : State :=
  let hot := (List.range 8).any (fun i =>
    (s.island d i).radio && (match (s.island d i).hotSince with
      | some t => decide (t + 1_000_000 ≤ s.now)
      | none => false))
  if s.awake && decide (d < 2) && hot && !(s.emergIn d .thermal) then s.declareEmerg d .thermal 0
  else s

/-- SHED_SLOT: from the shed slot on, nothing of the cell is processed or sent: its slots from there on
are dropped (07 R258 step 4). -/
def shedSlot (c : Nat) (s : State) : State :=
  let x := s.cell c
  match x.state, x.shedAt, x.cfg with
  | .shedding, some n, some g =>
    if g.air n ≤ s.clk + submitLead g.scs then
      (s.setCell c { x with slots := x.slots.filter (fun w => decide (w.slot < n)) }).dropFrames
        (fun f => f.ofCell c (fun m => decide (n ≤ m)))
    else s
  | _, _, _ => s

/-- The end of a slot's deadlines: the uplink deadline of R181 after its end. -/
def CellCfg.slotEnd (c : CellCfg) (n : Nat) : Nat :=
  c.air (n + 1) + byScs c.scs 1_500_000 1_000_000 500_000

/-- CELL_SHED_COMPLETE: after the last slot before the shed slot has met its deadline, phase 1 is written
and the cell is IDLE (07 R258 step 5). -/
def cellShedComplete (c : Nat) (s : State) : State :=
  let x := s.cell c
  match x.state, x.shedAt, x.cfg with
  | .shedding, some n, some g =>
    if s.awake && decide (g.slotEnd (n - 1) ≤ s.clk) && !(match x.stopAt with
        | some m => decide (m < n)
        | none => false) then
      (s.cellInd c n 0 (.shed 1 x.shedCause x.shedStep x.shedClass x.die x.shedIslands (g.air n))).setCell c
        { Cell.reset with ring := x.ring }
    else s
  | _, _, _ => s

/-- SHED_STEP_REPEAT: 10 ms after the last shed slot of a step, a new step of its emergency starts from step 3 if the
condition still holds (07 R258 step 6). -/
def shedStepRepeat (d : Nat) (s : State) : State :=
  if s.awake && decide (d < 2) then (s.shedsDue d).foldl (fun t k => t.shedStep d k) s else s

-- Radio islands (07 R239, R264).

/-- Islands of both dies that a mask of BELAY_ISLANDS names: die and island. -/
def islandBits (m : Nat) : List (Nat × Nat) := (setBits 16 m).map (fun b => (b / 8, b % 8))

/-- An enabled partition owns a unit in the island. -/
def State.ownedIsland (s : State) (d i : Nat) : Bool :=
  s.enabledParts.any (fun p => (s.allNamed p).any (fun u => decide (u.die = d) && decide (u.island = i)))

/-- A refused island change (07 R264). -/
def State.refuseIsland (s : State) (d i cause : Nat) : State :=
  ((s.setRbit (aBELAY + 4) (8 + 8 * d + i) true).setRf (aBELAY + 4) 25 24 cause).edge 2


/-- BELAY_ISLANDS_STATUS.pending: a removal waits for lease reclaims. -/
def State.islandPending (s : State) : State :=
  s.setRbit (aBELAY + 4) 31 (s.islands.any (fun e => e.2.removing))

/-- Island `e.2` of die `e.1` is designated (07 R239). A designation written again while its removal waits cancels the
removal. -/
def State.addIsland (s : State) (e : Nat × Nat) : State :=
  let x := s.island e.1 e.2
  if x.radio then s.setIsland e.1 e.2 { x with removing := false }
  else if s.ownedIsland e.1 e.2 then s.refuseIsland e.1 e.2 1
  else ((s.setIsland e.1 e.2 { x.take s.now with radio := true, counted := x.held }).syncHolds e.1).edge 2

/-- ISLAND_ADD: the islands that a write of BELAY_ISLANDS adds (07 R239). -/
def islandAdd (value : W32) (s : State) : State :=
  if s.up && !s.activating then
    ((islandBits (field value 15 0)).foldl State.addIsland
      (s.setReg aBELAY (s.reg aBELAY ||| (value &&& 0xFFFF)))).islandPending
  else s

/-- BU lent in class `k` under the leases of a die that touch none of the islands named. -/
def State.lentOff (s : State) (d k : Nat) (out : List Nat) : Nat :=
  s.lentIf d k (fun l => !(l.units.any (fun u => decide (u.island ∈ out))))

/-- The admitted cells of a die fit without the islands named: sums 1 and 2 of R240, with what is lent on the
islands that stay (07 R239). -/
def State.fitsWithout (s : State) (d : Nat) (out : List Nat) : Bool :=
  !(s.sumsUnmet d out)
    && (List.range 7).all (fun k => decide (s.booked d k + s.lentOff d k out ≤ s.cap d k out))

/-- The removal of island `b mod 8` of die `b / 8` starts: the leases of its units are reclaimed, and it waits for the
longest of their notices; where the cells would not fit without it, it is refused (07 R239). -/
def State.removeIsland (s : State) (b : Nat) : State :=
  let d := b / 8
  let i := b % 8
  let out := i :: (List.range 8).filter (fun j => (s.island d j).removing)
  if !(s.fitsWithout d out) then s.refuseIsland d i 2
  else
    let mine := s.leases.filter (fun l => l.units.any (fun u => decide (u.die = d) && decide (u.island = i)))
    let u := mine.foldl (fun u l => u.startReclaim l.id 3) s
    let ends := (u.leases.filter (fun l => mine.any (fun m => decide (m.id = l.id)))).map (fun l => u.noticeEnd l)
    u.setIsland d i { u.island d i with removing := true, removeAt := ends.foldl max u.now }

/-- The designated islands that a write of BELAY_ISLANDS leaves out and whose removal has not started. -/
def State.leftOut (s : State) (value : W32) : List Nat :=
  (List.range 16).filter (fun b =>
    !(bitOf value b) && (s.island (b / 8) (b % 8)).radio && !(s.island (b / 8) (b % 8)).removing)

/-- ISLAND_REMOVE: the islands that a write of BELAY_ISLANDS removes (07 R239). -/
def islandRemove (value : W32) (s : State) : State :=
  if s.up && !s.activating then
    ((s.leftOut value).foldl State.removeIsland (s.setReg aBELAY (s.reg aBELAY &&& value))).islandPending
  else s


/-- ISLAND_REMOVAL_DONE: at the end of the longest notice the island leaves the radio pool (07 R239), and the holds
of the spares that serve its units end (01 R41). -/
def islandRemovalDone (d i : Nat) (s : State) : State :=
  let x := s.island d i
  if decide (d < 2) && decide (i < 8) && x.radio && x.removing && decide (x.removeAt ≤ s.now)
      && !(s.leases.any (fun l => l.units.any (fun u => decide (u.die = d) && decide (u.island = i)))) then
    let y := if 0 < x.spareHolds then x else x.leave s.profile.1
    (((s.setIsland d i { y with radio := false, removing := false, counted := false }).syncHolds
        d).edge 2).islandPending
  else s

/-- A value of BELAY_RADIO_MEM fits: its sizes lie within the dies, leave the admitted cells room, and take nothing that
an enabled partition owns (07 R264). -/
def State.radioMemFits (s : State) (value : W32) : Bool :=
  let t := s.applyWrite (aBELAY + 8) value
  let sum (d : Nat) (f : Prices → Nat) : Nat := ((s.dieCells d).map (fun e => f e.2.price)).sum
  let room (d : Nat) : Bool := decide (sum d (fun p => p.ledge) ≤ t.radioLedgeKib d)
    && decide (sum d (fun p => p.harq) ≤ t.radioStackMib d)
  let free (p : Nat) : Bool := !((s.halves p).any (fun h => t.radioHalf h))
    && ([0, 1] : List Nat).all (fun d =>
      let r := s.ledgeRange p d
      decide (r.2 = 0) || decide (r.1 + r.2 ≤ t.radioLedge d))
  let sized := decide (field value 6 0 ≤ 96) && decide (field value 14 8 ≤ 96)
    && decide (field value 20 16 ≤ 24) && decide (field value 28 24 ≤ 24)
  sized && room 0 && room 1 && s.enabledParts.all free

/-- BELAY_RADIO_MEM_WRITE: a value that does not fit sets mem_refused (07 R264). -/
def belayRadioMemWrite (value : W32) (s : State) : State :=
  if s.up && !s.activating then
    if s.radioMemFits value then s.applyWrite (aBELAY + 8) value else s.setRbit (aBELAY + 4) 26 true
  else s

-- The meanings.

def execLeaseGrant (s : State) : Done := .next (leaseGrant s)
def execLeaseRevoke (s : State) : Done := .next (leaseRevoke s)
def execLeaseReclaimSave (id : Nat) (s : State) : Done := .next (leaseReclaimSave id s)
def execLeaseLayerAbandon (id : Nat) (s : State) : Done := .next (leaseLayerAbandon id s)
def execLeaseEnd (id : Nat) (s : State) : Done := .next (leaseEnd id s)
def execThermalWarning (d : Nat) (s : State) : Done := .next (thermalWarning d s)
def execThermalEmergency (d : Nat) (s : State) : Done := .next (thermalEmergency d s)
def execShedSlot (c : Nat) (s : State) : Done := .next (shedSlot c s)
def execCellShedComplete (c : Nat) (s : State) : Done := .next (cellShedComplete c s)
def execShedStepRepeat (d : Nat) (s : State) : Done := .next (shedStepRepeat d s)
def execIslandAdd (value : W32) (s : State) : Done := .next (islandAdd value s)
def execIslandRemove (value : W32) (s : State) : Done := .next (islandRemove value s)
def execIslandRemovalDone (d i : Nat) (s : State) : Done := .next (islandRemovalDone d i s)
def execBelayRadioMemWrite (value : W32) (s : State) : Done := .next (belayRadioMemWrite value s)

end Sys2Proof.Machine
end

