-- ==== Sys2Proof/Machine/Epilogue.lean ====
section
/-! DEFINITION. The epilogue (03 R112, R116), store conversion with rescaling and scale records (02 R64,
R71 to R77), and the checksum comparison (03 R118 to R121). -/

namespace Sys2Proof.Machine

/-- Values on their way to the store, row-major over `cols` columns, with the saturations and NaNs that
integer epilogue arithmetic counted. -/
structure Vals where
  re : List FVal
  im : List FVal
  cols : Nat
  sat : Nat
  nan : Nat
  deriving DecidableEq, Repr

/-- Map a block of values with row and column. -/
def mapCells (cols : Nat) (l : List FVal) (f : Nat → Nat → FVal → FVal) : List FVal :=
  (l.zipIdx).map (fun e => f (e.2 / cols) (e.2 % cols) e.1)

/-- Array row r meets array column c' on the diagonal (03 R112, R123). -/
def onDiag (w : Mi) (r c : Nat) : Bool := decide (r % miBand w = c)

/-- `n` FP32 values at an offset of a location. -/
def State.f32s (s : State) (x : Site) (code off n : Nat) : List FVal :=
  (s.locWords x code off n).map (fun v => f32 v.toNat)

/-- An integer operation that saturates at `n` bits, with its count. -/
def satCount (n : Nat) (v : Int) : FVal × Nat :=
  (.ofInt (satSigned n v), if satSigned n v = v then 0 else 1)

/-- Steps 2 and 4 of R112 on an integer: negation and bias, each saturating. -/
def intEpilogue (n : Nat) (neg : Bool) (bias : Option Int) (v : FVal) : FVal × Nat :=
  let a := if neg then satCount n (-v.toInt) else (v, 0)
  match bias with
  | some b =>
    let c := satCount n (a.1.toInt + b)
    (c.1, a.2 + c.2)
  | none => a

/-- The bias component of a CI16 to CI16 epilogue: to nearest, saturating at 40 bits; a NaN counts as 0
(03 R112 step 4). -/
def bias40 (v : FVal) : Int × Nat :=
  match v with
  | .nan => (0, 1)
  | .inf s => (if s then -(2 ^ 39 : Nat) else (2 ^ 39 : Nat) - 1, 0)
  | .fin s m e => (satSigned 40 (roundInt .near s m e), 0)

/-- Steps 2 to 4 of R112 on an FP32 component. -/
def f32Epilogue (w : Mi) (diag : Bool) (bias : Option FVal) (v : FVal) : FVal :=
  let a := if miNeg w then v.neg else v
  let b := if diag then fadd a (miDiag w) else a
  match bias with
  | some x => fadd b x
  | none => b

/-- The counts of the cells of the rows that are stored (03 R116): `l` is row-major over `n` columns. -/
def liveSum (n : Nat) (rows : List Nat) (l : List Nat) : Nat :=
  (((l.zipIdx).filter (fun e => decide (e.2 / n ∈ rows))).map Prod.fst).sum

/-- The plain epilogue's arithmetic, steps 1 to 4 (03 R112); only the rows that are stored count (R116). -/
def State.plainVals (s : State) (x : Site) (w : Mi) (rows : List Nat) (re im : List FVal) : Vals :=
  let n := miN w
  let code := miCode w .bias
  let off := miOff w .bias
  match miKind w with
  | .f32 =>
    let b := s.f32s x code off 64
    ⟨mapCells n re (fun r c v => f32Epilogue w (onDiag w r c)
      (if miBiasEn w then some (b.getD c .zero) else none) v), im, n, 0, 0⟩
  | .i32 =>
    let b := (s.locWords x code off 64).map (fun v => signedOf 32 v.toNat)
    let out := (re.zipIdx).map (fun e =>
      intEpilogue 32 (miNeg w) (if miBiasEn w then some (b.getD (e.2 % n) 0) else none) e.1)
    ⟨out.map Prod.fst, im, n, liveSum n rows (out.map Prod.snd), 0⟩
  | k =>
    let b := s.f32s x code off 128
    let part (i c : Nat) : FVal := b.getD (2 * c + i) .zero
    if decide (k = .ci40) && decide (miFmtOut w = 13) then
      let go (i : Nat) (l : List FVal) : List (FVal × Nat × Nat) := (l.zipIdx).map (fun e =>
        let q := bias40 (part i (e.2 % n))
        let o := intEpilogue 40 (miNeg w) (if miBiasEn w then some q.1 else none) e.1
        (o.1, o.2, if miBiasEn w then q.2 else 0))
      let a := go 0 re
      let c := go 1 im
      let total (f : FVal × Nat × Nat → Nat) : Nat := liveSum n rows (a.map f) + liveSum n rows (c.map f)
      ⟨a.map (fun e => e.1), c.map (fun e => e.1), n, total (fun e => e.2.1), total (fun e => e.2.2)⟩
    else
      let conv (v : FVal) : FVal := if k = .ci40 then r32 v else v
      let go (i : Nat) (l : List FVal) : List FVal := mapCells n l (fun r c v =>
        f32Epilogue w (decide (i = 0) && onDiag w r c)
          (if miBiasEn w then some (part i c) else none) (conv v))
      ⟨go 0 re, go 1 im, n, 0, 0⟩

-- The store conversion (02 R69, R71; 03 R112 step 5).

/-- The bits of an element to be stored with the saturations and NaNs it counts. In the second run of a rescaled block
an infinity is stored as the largest finite value and counted, in a format with infinities too (02 R75). -/
def convElem (w : Mi) (again : Bool) (e : Int) (re im : FVal) : Nat × Nat × Nat :=
  let cnt (a b : Stored) (v : Nat) : Nat × Nat × Nat :=
    (v, (if a.sat then 1 else 0) + (if b.sat then 1 else 0),
      (if a.nan then 1 else 0) + (if b.nan then 1 else 0))
  match miFmtOut w with
  | 13 =>
    let k : Int := -(miShift w : Int)
    let a := intStore 16 .near (re.scale k)
    let b := intStore 16 .near (im.scale k)
    cnt a b (a.bits + b.bits * 2 ^ 16)
  | 14 =>
    let a := fp16.store .near re
    let b := fp16.store .near im
    cnt a b (a.bits + b.bits * 2 ^ 16)
  | f =>
    let a := if again && re.isInf && decide (f = 9) then
        { fp8e5m2.store .zero (.fin re.sign fp8e5m2.maxFin.1 fp8e5m2.maxFin.2) with sat := true }
      else storeElem f e re
    (a.bits, if a.sat then 1 else 0, if a.nan then 1 else 0)

/-- A converted block: element bits row-major over `cols`, counts, and max_abs (02 R73). -/
structure Conv where
  bits : List Nat
  cols : Nat
  sat : Nat
  nan : Nat
  maxAbs : Nat
  deriving DecidableEq, Repr

/-- Convert the rows that are stored; `exp r j` is the scale exponent of group j of row r. DESIGN CHOICE, log entry
75: a complex output counts, and takes its max_abs, component by component (02 R72, R73). -/
def convBlock (w : Mi) (again : Bool) (rows : List Nat) (v : Vals) (exp : Nat → Nat → Int) : Conv :=
  let g := if miG w = 0 then 64 else miG w
  let cells := ((v.re.zip v.im).zipIdx).map (fun e =>
    let r := e.2 / v.cols
    let c := e.2 % v.cols
    (decide (r ∈ rows), convElem w again (exp r (c / g)) e.1.1 e.1.2, e.1))
  let live := ((cells.zipIdx).filter (fun e => e.1.1 && decide (e.2 % v.cols < miN w))).map Prod.fst
  { bits := cells.map (fun e => e.2.1.1), cols := v.cols,
    sat := (live.map (fun e => e.2.1.2.1)).sum, nan := (live.map (fun e => e.2.1.2.2)).sum,
    maxAbs := live.foldl (fun m e => maxAbsBits (maxAbsBits m e.2.2.1)
      (if fmtComplex (miFmtOut w) then e.2.2.2 else .zero)) 0 }

/-- max-abs of group j of row r, NaNs left out (02 R73, R75). -/
def groupMax (w : Mi) (v : Vals) (r j : Nat) : FVal :=
  let g := miG w
  (((List.range g).filter (fun i => decide (j * g + i < v.cols))).map (fun i =>
    v.re.getD (r * v.cols + j * g + i) .zero)).foldl
    (fun m x => if x.isNan then m else if m.lt x.abs then x.abs else m) .zero

/-- The scale exponent that fits a group, and whether it was clamped: none for a group whose max-abs is
0 (02 R75, R77, 04 R154). -/
def fitGroup (f : Nat) (m : FVal) : Option (Int × Bool) :=
  match m with
  | .fin _ n e => if n = 0 then none else some (clampExp (fitExp n e (fmtMax f).1 (fmtMax f).2))
  | _ => some (127, true)

/-- The exponents of every group of a block, row by row: the fitted one, or `keep`; with the number
clamped. -/
def fitBlock (w : Mi) (rows : List Nat) (v : Vals) (keep : Int) : List (Nat × List Int) × Nat :=
  let groups := (v.cols + miG w - 1) / miG w
  let all := rows.map (fun r => (r, (List.range groups).map (fun j => fitGroup (miFmtOut w) (groupMax w v r j))))
  (all.map (fun e => (e.1, e.2.map (fun o => (o.map Prod.fst).getD keep))),
   ((all.flatMap (fun e => e.2)).filter (fun o => (o.map Prod.snd).getD false)).length)

/-- Look a group's exponent up. -/
def expAt (l : List (Nat × List Int)) (keep : Int) (r j : Nat) : Int :=
  match l.find? (fun e => decide (e.1 = r)) with
  | some e => e.2.getD j keep
  | none => keep

-- Stores.

/-- The row that output row r is stored at: its own, or the gathered one under scatter_out (03 R104). -/
def outRow (w : Mi) (ix : List Nat) (r : Nat) : Nat := if miScatter w then ix.getD r r else r

/-- The accesses of the output rows: offset and bytes (03 R100, R104, R112). -/
def outPieces (w : Mi) (ix : List Nat) (cols : Nat) : List (Nat × Nat) :=
  let f := miFmtOut w
  if miTrans w then
    (List.range cols).map (fun c => (miOff w .outData + c * miOutStride w, rowBytes f (miM w)))
  else (miRows w ix).map (fun r => (miOff w .outData + outRow w ix r * miOutStride w, rowBytes f cols))

/-- The stores of the output rows (03 R100, R104, R112). DESIGN CHOICE, log entry 75: with out_trans = 1 the gathered
index of scatter_out has no part. -/
def State.outStores (s : State) (x : Site) (w : Mi) (ix : List Nat) (b : Conv) : List HeldStore :=
  let f := miFmtOut w
  let code := miCode w .outData
  let base := miOff w .outData
  let at' (r c : Nat) : Nat := b.bits.getD (r * b.cols + c) 0
  if miTrans w then
    (List.range b.cols).flatMap (fun c => (miRows w ix).map (fun r =>
      s.locStore x code (base + c * miOutStride w + r * fmtBits f / 8) (packRow f [at' r c])))
  else (miRows w ix).map (fun r =>
    s.locStore x code (base + outRow w ix r * miOutStride w) (packRow f ((List.range b.cols).map (at' r))))

/-- Scale records that a scaled output needs. -/
def outGroups (w : Mi) (cols : Nat) : Nat :=
  if fmtScaled (miFmtOut w) && decide (miG w ≠ 0) then (cols + miG w - 1) / miG w else 0

/-- The scale record of output group j (02 R63, R64; 03 R100, R116). DESIGN CHOICE, log entry 84: the lane of a masked
row inside the block holds 0x7F, as the lanes beyond the block do. -/
def scaleRecord (w : Mi) (rows : List Nat) (exp : Nat → Nat → Int) (j : Nat) : List Byte :=
  (List.range 64).map (fun r => BitVec.ofNat 8 (if r ∈ rows then expCode (exp r j) else 0x7F))
    ++ leBytes 4 ((wfield w 8 31 16 + j) % 65536 + wfield w 8 15 0 * 2 ^ 16)
    ++ leBytes 4 (wfield w 4 31 16 + miGenOut w * 2 ^ 16) ++ leBytes 56 0

/-- The stores of the scale records. -/
def State.scaleStores (s : State) (x : Site) (w : Mi) (rows : List Nat) (cols : Nat)
    (exp : Nat → Nat → Int) : List HeldStore :=
  (List.range (outGroups w cols)).map (fun j =>
    s.locStore x (miCode w .outScale) (miOff w .outScale + j * 128) (scaleRecord w rows exp j))

-- The checksum (03 R118 to R121).

/-- The accumulators of run `n`: the fault-free ones with the cells that a fault upset in it; a masked lane adds nothing
to a checksum (03 R116). -/
def flipRun (cols n : Nat) (masked : List Nat) (im : Bool) (flips : List CellFlip) (l : List FVal) : List FVal :=
  flips.foldl (fun t f =>
    if f.run = n ∧ f.im = im ∧ f.col < cols ∧ f.row ∉ masked then t.set (f.row * cols + f.col) f.value else t) l

/-- ⌈log₂ n⌉. -/
def clog2 (n : Nat) : Nat := if n ≤ 1 then 0 else Nat.log2 (n - 1) + 1

/-- The comparison of one sum of accumulators: with its prediction, to a tolerance of 2⁻ᵗ × S, or
exactly; the flag and the ratio |predicted − actual| ÷ S. DESIGN CHOICE, log entry 75: where S is 0 the ratio is 0 for a
difference of 0, else infinite. -/
def ckOne (exact : Bool) (t : Nat) (pred act mag : FVal) : Bool × FVal :=
  let d := (pred.add act.neg).abs
  let ratio := if d.isZero then .zero else fdiv d mag
  (if exact then !(d.isZero) else (mag.scale (-(t : Int))).lt d, ratio)

/-- The sum of a line of accumulators (03 R118). DESIGN CHOICE, log entry 27: the sum is exact, and so are the reference
magnitudes. -/
def lineSum (l : List FVal) : FVal := l.foldl FVal.add .zero

/-- A prediction: the sum of the fault-free accumulators, moved by the rounding of the checksum cells. A fault-free
instruction never mismatches for t up to 21 − ⌈log₂(K + 64)⌉ (03 R119), so the drift stays within that part of S; an
exact accumulation has none. -/
def predict (w : Mi) (sum mag drift : FVal) : FVal :=
  let room := mag.scale ((clog2 (miK w + 64) : Int) - 21)
  if miExact w || drift.isNan || drift.isInf || room.lt drift.abs then sum else sum.add drift

/-- The comparison of a run's drained block `re`, `im` (03 R118, R119). -/
def ckCompare (w : Mi) (b : Block) (re im : List FVal) : CkRun :=
  let n := miN w
  let m := miM w
  let rowOf (l : List FVal) (r : Nat) : List FVal := (l.drop (r * n)).take n
  let colOf (l : List FVal) (c : Nat) : List FVal :=
    (List.range m).map (fun r => l.getD (r * n + c) .zero)
  let odd (l : List FVal) : Bool := l.any (fun v => v.isNan || v.isInf)
  let cx := fmtComplex (miFmtA w)
  let line (isRow : Bool) (i : Nat) : Option (Bool × FVal) :=
    let cut (l : List FVal) := if isRow then rowOf l i else colOf l i
    let sats := if isRow then b.satRows else b.satCols
    if decide (i ∈ sats) || odd (cut re) || (cx && odd (cut im)) then none
    else
      let mag := (if isRow then b.magRow else b.magCol).getD i Elem.zero
      let drift := (if isRow then b.driftRow else b.driftCol).getD i Elem.zero
      let x := ckOne (miExact w) (miTol w) (predict w (lineSum (cut b.re)) mag.re drift.re) (lineSum (cut re)) mag.re
      let y := ckOne (miExact w) (miTol w) (predict w (lineSum (cut b.im)) mag.im drift.im) (lineSum (cut im)) mag.im
      some (x.1 || (cx && y.1), if cx then x.2.max y.2 else x.2)
  let rows := (List.range m).map (line true)
  let cols := (List.range n).map (line false)
  let mask (l : List (Option (Bool × FVal))) : Nat :=
    ((l.zipIdx).map (fun e => if (e.1.map Prod.fst).getD false then 2 ^ e.2 else 0)).sum
  { rows := mask rows, cols := mask cols,
    unchk := ((rows ++ cols).filter Option.isNone).length,
    worst := ((rows ++ cols).filterMap id).foldl (fun a e => maxAbsBits a e.2) 0 }

/-- A run mismatches. -/
def CkRun.bad (c : CkRun) : Bool := decide (c.rows ≠ 0) || decide (c.cols ≠ 0)

/-- The checksum record (03 R121). -/
def ckRecord (c : CkRun) (runs : Nat) : List Byte :=
  leBytes 8 c.rows ++ leBytes 8 c.cols ++ leBytes 4 (c.unchk + runs * 2 ^ 16) ++ leBytes 4 c.worst
    ++ leBytes 8 0

-- Statistics (02 R72 to R74).

/-- A statistics record with one instruction's counts added. -/
def statMerge (ws : List W32) (d : StatDelta) : List Byte :=
  let cnt (i n : Nat) : List Byte := leBytes 4 (satAdd 0xFFFF_FFFF (wordAt ws i).toNat n)
  leBytes 4 (max (wordAt ws 0).toNat d.maxAbs) ++ cnt 1 d.sat ++ cnt 2 d.nan ++ cnt 3 d.rescale
    ++ cnt 4 d.clamp ++ leBytes 12 0

end Sys2Proof.Machine
end

