-- ==== Sys2Proof/Machine/FixedFns.lean ====
section
/-! DEFINITION. The fixed functions exp, tanh and erf of the chains (04 R133): which of the functions that the
bound of 2 units in the last place and monotonicity leave is the implementation's. -/

namespace Sys2Proof.Machine

-- The exact functions, to far beyond FP32: fixed point with `fixBits` fraction bits (log entry 79).

def fixBits : Nat := 320
def fixOne : Int := 2 ^ 320
def fixMul (a b : Int) : Int := a * b / fixOne

/-- A finite value in fixed point. -/
def toFix (v : FVal) : Int :=
  match v with
  | .fin s m e => if 0 ≤ e + 320 then signedAt s m (e + 320) 0 else roundInt .near s m (e + 320)
  | _ => 0

/-- A fixed-point number as a value. -/
def ofFix (a : Int) : FVal := .fin (decide (a < 0)) a.natAbs (-320)

/-- The sum of `n` terms of a series: each term from the one before by its number. -/
def fixSeries (next : Int → Nat → Int) : Nat → Nat → Int → Int → Int
  | 0, _, _, acc => acc
  | n + 1, i, t, acc => fixSeries next n (i + 1) (next t i) (acc + t)

/-- e^a for |a| below 128: the series of a ÷ 256, squared eight times. -/
def fixExp (a : Int) : Int :=
  let x := a / 256
  (List.range 8).foldl (fun y _ => fixMul y y)
    (fixSeries (fun t i => fixMul t x / (i + 1 : Nat)) 64 0 fixOne 0)

/-- π to 100 digits. -/
def fixPi : Int :=
  31415926535897932384626433832795028841971693993751058209749445923078164062862089986280348253421170679
    * fixOne / 10 ^ 100

/-- The larger magnitudes at which exp, tanh and erf have reached 0, 1 or a value past the range of FP32. -/
def exactExp (v : FVal) : FVal :=
  let a := toFix v
  if 96 * fixOne < a then .inf false else if a < -(112 * fixOne) then .zero else ofFix (fixExp a)

def exactTanh (v : FVal) : FVal :=
  let a := toFix v.abs
  let t := if 64 * fixOne < a then fixOne else
    let u := fixExp (-(2 * a))
    (fixOne - u) * fixOne / (fixOne + u)
  if v.sign then (ofFix t).neg else ofFix t

/-- erf a = 2 ÷ √π × e^(−a²) × Σ 2ⁿ a^(2n+1) ÷ (1 × 3 × … × (2n + 1)). -/
def exactErf (v : FVal) : FVal :=
  let a := toFix v.abs
  let t := if 8 * fixOne < a then fixOne else
    let sq := fixMul a a
    let sum := fixSeries (fun t i => 2 * fixMul t sq / (2 * i + 3 : Nat)) 400 0 a 0
    let root : Int := (isqrtFrom 400 (fixPi * fixOne).toNat 0 : Nat)
    2 * fixMul (fixExp (-sq)) sum * fixOne / root
  if v.sign then (ofFix t).neg else ofFix t

-- The choice.

/-- `f` lies within 2 units in the last place of the exact value (04 R133). -/
def withinUlps (exact f : FVal) : Bool :=
  match exact, f with
  | .fin _ m e, .fin _ _ _ =>
    if m = 0 then f.isZero || !((FVal.fin false 2 fp32.eMin).lt f.abs)
    else !((FVal.fin false 2 (fp32.ulp m e)).lt (exact.add f.neg).abs)
  | .fin t m e, .inf s =>
    -- 2^128, the next value of the unbounded range, stands for the infinity
    decide (s = t) && !((FVal.fin false 2 (fp32.ulp m e)).lt ((FVal.fin false 1 128).add exact.abs.neg))
  | .inf s, g => decide (g = .inf s)
  | _, _ => false

/-- `p` holds of every number below the first. -/
def allBelow : Nat → (Nat → Bool) → Bool
  | 0, _ => true
  | n + 1, p => p n && allBelow n p

def FVal.le (a b : FVal) : Bool := !(b.lt a)

/-- The stated special values of exp, and of tanh and erf. -/
def expSpecial : FVal → Option FVal
  | .nan => some .nan
  | .inf s => some (if s then .zero else .inf false)
  | .fin _ m _ => if m = 0 then some (.fin false 1 0) else none
def oddSpecial : FVal → Option FVal
  | .nan => some .nan
  | .inf s => some (.fin s 1 0)
  | .fin _ _ _ => none

/-- The raw function under the special values. -/
def fixedVal (special : FVal → Option FVal) (raw : Nat → Nat) (v : FVal) : FVal :=
  (special v).getD (f32 (raw (f32Bits v)))

/-- The raw function with its special values keeps the bound at every finite FP32 value and is monotonic from −∞ to +∞,
over the values by their bits (04 R133). -/
def fixedOk (exact : FVal → FVal) (special : FVal → Option FVal) (raw : Nat → Nat) : Bool :=
  let at' (b : Nat) : FVal := fixedVal special raw (f32 b)
  let near (b : Nat) : Bool := withinUlps (exact (f32 b)) (at' b)
  allBelow 0x7F80_0001 (fun b =>
    (decide (b = 0x7F80_0000) || (near b && near (2 ^ 31 + b)))
      && (decide (b = 0) || ((at' (b - 1)).le (at' b) && (at' (2 ^ 31 + b)).le (at' (2 ^ 31 + b - 1)))))
    && (at' (2 ^ 31)).le (at' 0)

/-- The implementation's function where it keeps what R133 states; the correctly rounded one otherwise, so that the
bound holds of every value of the constant. -/
def fixedFn (exact : FVal → FVal) (special : FVal → Option FVal) (raw : Nat → Nat) (v : FVal) : FVal :=
  match special v with
  | some x => x
  | none => if fixedOk exact special raw then f32 (raw (f32Bits v)) else r32 (exact v)

/-- exp, tanh and erf with their stated special values. -/
def fexp : FVal → FVal := fixedFn exactExp expSpecial Config.exp32
def ftanh : FVal → FVal := fixedFn exactTanh oddSpecial Config.tanh32
def ferf : FVal → FVal := fixedFn exactErf oddSpecial Config.erf32

end Sys2Proof.Machine
end

