-- ==== Sys2Proof/Machine/Chains.lean ====
section
/-! DEFINITION. The Traverse menu (04_traverse_menu.md): the chain block and its checks, the buffers and
their headers, prologues, and the arithmetic of the fourteen entries. -/

namespace Sys2Proof.Machine

-- The chain block (04 R127, R128, R130).

/-- n of TV-n, from the instruction's chain field (04 R126). -/
def miEntry (w : Mi) : Nat := miChain w - 1

def cbAct (b : List W32) : Nat := wfield b 0 7 4
def cbAux (b : List W32) : Nat := wfield b 0 11 8
/-- The entry's flag: res_pre, colmax_en, causal, renorm or no_store. -/
def cbFlag (b : List W32) : Bool := bitOf (wordAt b 0) 16
def cbParam (b : List W32) (i : Nat) : Nat := (wordAt b (12 + i)).toNat
def cbCode (b : List W32) (i : Nat) : Nat := wfield b 2 (4 * i + 3) (4 * i)
def cbOff (b : List W32) (i : Nat) : Nat := (wordAt b (3 + i)).toNat * 32
def cbAuxStride (b : List W32) : Nat := (wordAt b 11).toNat

/-- Stages of an entry (04 R129). -/
def chainStages (n : Nat) : Nat := if n = 6 then 2 else if n = 7 then 3 else if n = 8 then 2 else 1

/-- Opcodes that may carry the entry (04 R129). -/
def chainOps (n : Nat) : List Nat :=
  match n with
  | 4 | 5 | 7 | 8 | 9 | 13 => [0x10]
  | 6 => [0x10, 0x12]
  | 11 => [0x10, 0x11]
  | _ => [0x10, 0x11, 0x12]

/-- The entry accepts the accumulator kind (04 R129). -/
def chainKind (n : Nat) (k : AccKind) : Bool :=
  decide (k = .f32) || (decide (k = .i32) && decide (n ∈ [2, 12, 13]))

/-- The instruction reads operand A through a prologue (04 R143, R150). -/
def hasPrologue (w : Mi) : Bool :=
  decide (miEntry w = 4) || decide (miEntry w = 5) || (decide (miEntry w = 8) && decide (miStage w = 1))

/-- The entry and stage use aux_fmt: for a residual, which TV-03 may leave out, or a stored source. -/
def usesAux (w : Mi) : Bool := decide (miEntry w = 1) || hasPrologue w

/-- Pointers an entry uses (04 R130). -/
def chainPtrs (n : Nat) : List Nat :=
  match n with
  | 0 | 10 => [0]
  | 1 | 6 | 9 | 11 | 13 => [0, 1]
  | 2 | 7 => [0, 1, 2]
  | 3 | 4 => [0, 1, 2, 3]
  | 5 => [0, 1, 3]
  | 8 => [0]
  | _ => []

/-- The parameter bits an entry uses. -/
def chainParams (n : Nat) : List Nat :=
  match n with
  | 3 => [m32, m32, 0, 0]
  | 4 | 5 => [0xFF, m32, m32, 0]
  | 7 | 8 => [m32, m32, m32, m32]
  | 9 => [m32, 0, 0, 0]
  | 11 => [m32, 0, 0, 0]
  | 12 => [0xFFFF, m32, m32, 0xFFFF]
  | 13 => [0xFFFF, 0, 0, 0]
  | _ => [0, 0, 0, 0]

/-- The bits of each word of a chain block that the entry assigns (04 R127, R128). TV-03 uses p1 and aux_stride only
where aux_fmt names a residual (R130). DESIGN CHOICE, log entry 75: it keeps p3 and param1 where colmax_en = 0, which R130
gives it without a condition; and aux_stride is reserved in TV-04, TV-05 and TV-08, whose source a_stride strides
(R143). -/
def cbMasks (w : Mi) (b : List W32) : List Nat :=
  let n := miEntry w
  let bare := decide (n = 3) && decide (cbAux b = 0)
  let ptrs := if bare then [0, 2, 3] else chainPtrs n
  let flag := if n ∈ [1, 3, 7, 8, 9, 11] then 0x1_0000 else 0
  let residual := (decide (n = 1) || decide (n = 3)) && !bare
  let act := decide (cbAct b = 2) || decide (cbAct b = 3)
  [0xFFF + flag, if act then m32 else 0,
    (ptrs.map (fun i => 15 * 2 ^ (4 * i))).sum]
  ++ (List.range 8).map (fun i => if i ∈ ptrs then m32 else 0)
  ++ [if residual then m32 else 0] ++ chainParams n ++ List.replicate 16 0

/-- Checks on the instruction that its chain adds, with the words they constrain (04 R160). -/
def chainMiChecks (w : Mi) : List (Nat × Bool) :=
  let n := miEntry w
  let st := miStage w
  let fa := miFmtA w
  let fo := miFmtOut w
  let k := miKind w
  let pair16 := decide (fa = miFmtB w) && (decide (fa = 10) || decide (fa = 11))
  let bf := decide (fa = 10) && decide (miFmtB w = 10)
  [ (1, decide (st < chainStages n)),
    (0, decide (miOp w ∈ chainOps n)),
    (0, chainKind n k),
    (0, !(miTrans w) || decide (n ≤ 2)),
    (5, !(miSplit w) || !(decide (4 ≤ n) && decide (n ≤ 9))),
    (0, !(miRescale w) || !((decide (6 ≤ n) && decide (n ≤ 10)) || decide (n = 12) || decide (n = 13))),
    (0, decide (fo ≠ 4) || decide (n = 12) || decide (n = 13)),
    (0, !(decide (n = 4) || decide (n = 5)) || (pair16 && decide (miGroup w = 0))),
    (0, !(decide (n = 7) && decide (st = 1)) || bf),
    (2, !(decide (n = 7) && decide (st = 1)) || decide (miK w = 64)),
    (2, !(decide (n = 7) && decide (st = 2)) || decide (miK w = 0)),
    (0, !(decide (n = 8) && decide (st = 0)) || decide (fo = 12)),
    (0, !(decide (n = 8) && decide (st = 1)) || bf),
    (0, decide (n ≠ 9) || decide (fo ∈ [10, 11, 12])),
    (0, decide (n ≠ 10) || (fmtScaled fo && (decide (miGroup w = 1) || decide (miGroup w = 2)))),
    (0, decide (n ≠ 12) || decide (fo = if k = .i32 then 4 else 12)),
    (1, !(decide (n = 7) && decide (st = 0)) || !(miStatsEn w)),
    (0, !(decide (n = 7) && decide (st = 0)) || !(miRescale w)),
    (1, decide (n ≠ 12) || !(miStatsEn w)) ]
  ++ (if (decide (n = 7) && decide (st = 0)) || decide (n = 12) then
    [ (9, decide (wfield w 9 23 16 = 0) && (decide (n ≠ 12) || decide (wfield w 9 31 28 = 0))),
      (15, decide (wordAt w 15 = 0)), (16, decide (wordAt w 16 = 0)),
      (18, decide (n ≠ 12) || decide (wordAt w 18 = 0)),
      (5, decide (miOutScale w = 0)) ]
  else [])
  ++ (if decide (n = 7) && decide (st = 0) then
    [ (26, decide (wordAt w 26 = 0)), (8, decide (wordAt w 8 = 0)), (4, decide (wfield w 4 31 16 = 0)) ]
  else [])

/-- Checks on the chain block (04 R127, R131, R135, R143, R150, R152, R157, R160). -/
def cbChecks (w : Mi) (b : List W32) : List (Nat × Bool) :=
  let n := miEntry w
  let aux := cbAux b
  let i32 := decide (miKind w = .i32)
  let auxOk := decide (aux ∈ [10, 11, 12])
  [ (0, decide (wfield b 0 3 0 = n)),
    (0, decide (cbAct b ≤ 8)),
    (0, decide (cbAct b = 0) || !(decide (n ∈ [7, 8, 9, 12]) || (decide (n = 13) && i32))),
    (0, if usesAux w then auxOk else if n = 3 then (auxOk || decide (aux = 0)) else decide (aux = 0)),
    (0, !(decide (n = 8) && decide (miStage w = 1)) || decide (aux = 12)),
    (2, (chainPtrs n).all (fun i => decide (cbCode b i ≤ 7) || decide (cbCode b i = 10))),
    (11, decide (cbAuxStride b % 32 = 0)),
    (12, decide (n ≠ 9) || (decide (1 ≤ cbParam b 0) && decide (cbParam b 0 ≤ 8)
      && decide (cbParam b 0 ≤ miN w))),
    (15, decide (n ≠ 12) || decide (wfield b 15 15 8 ≠ 0)),
    (12, decide (n ≠ 13) || (decide (wfield b 12 7 0 ≠ 0)
      && (decide (wfield b 12 15 8 < wfield b 12 7 0) || decide (wfield b 12 15 8 = 0xFF)))) ]

/-- Checks that relate the instruction to its block: K of TV-08 stage 1 and of a TV-13 without an own
term (04 R150, R157). -/
def chainBothChecks (w : Mi) (b : List W32) : List (Nat × Bool) :=
  [ (2, !(decide (miEntry w = 8) && decide (miStage w = 1)) || decide (miK w = 64 * cbParam b 1)),
    (2, !(decide (miEntry w = 13) && decide (wfield b 12 15 8 = 0xFF)) || decide (miK w = 0)) ]

/-- The failing word of an instruction with a chain, else of its chain block. -/
def chainBad (w : Mi) (b : List W32) : Option Nat :=
  match firstOf (firstOf (miBad w) (firstFail (chainMiChecks w))) (firstFail (chainBothChecks w b)) with
  | some i => some i
  | none => firstOf (reservedFail (cbMasks w b) b) (firstFail (cbChecks w b))

-- Activations (04 R134).

def fOne : FVal := .fin false 1 0
def fHalf : FVal := .fin false 1 (-1)

/-- v > 0 ? v : +0; a NaN stays a NaN. -/
def relu (v : FVal) : FVal := if v.isNan then .nan else if FVal.zero.lt v then v else .zero

/-- The activation of a code, with act_param (04 R134). -/
def activate (code : Nat) (param v : FVal) : FVal :=
  match code with
  | 1 => relu v
  | 2 => (relu v).min param
  | 3 => if v.isNan then .nan else if v.lt .zero then fmul v param else v
  | 4 =>
    let cube := fmul (fmul (fmul (f32 0x3D372713) v) v) v
    fmul (fmul fHalf v) (fadd fOne (ftanh (fmul (f32 0x3F4C422A) (fadd v cube))))
  | 5 => fmul (fmul fHalf v) (fadd fOne (ferf (fmul v (f32 0x3F3504F3))))
  | 6 => fdiv v (fadd fOne (fexp v.neg))
  | 7 => fdiv fOne (fadd fOne (fexp v.neg))
  | 8 => ftanh v
  | _ => v

def cbActivate (b : List W32) (v : FVal) : FVal := activate (cbAct b) (f32 (wordAt b 1).toNat) v

-- Buffers (04 R138).

/-- A chain header: count, gen and word 1. -/
def chainHeader (count gen word1 : Nat) : List Byte :=
  leBytes 4 (count % 65536 + gen % 256 * 2 ^ 16) ++ leBytes 4 word1 ++ leBytes 24 0

/-- Count, gen and word 1 of a header. -/
def State.headerAt (s : State) (x : Site) (code off : Nat) : Nat × Nat × Nat :=
  let ws := s.locWords x code off 2
  (wfield ws 0 15 0, wfield ws 0 23 16, (wordAt ws 1).toNat)

/-- What a header shows a waiting instruction. -/
inductive Ready where
  | yes | wait | order
  deriving DecidableEq, Repr

/-- gen differs or count is below: wait; count above: CHAIN_ORDER (04 R138). -/
def readyOf (h : Nat × Nat × Nat) (gen count : Nat) : Ready :=
  if h.2.1 ≠ gen ∨ h.1 < count then .wait else if count < h.1 then .order else .yes

/-- The buffers an instruction waits for before its epilogue: pointer, byte offset from it, expected
gen and count; none for an initialising instruction (04 R137 to R157). -/
def chainWaits (w : Mi) (b : List W32) : List (Nat × Nat × Nat × Nat) :=
  let gen := miGenOut w
  let fold (ptr count : Nat) : List (Nat × Nat × Nat × Nat) :=
    if count = 0 then [] else [(ptr, 0, gen, count)]
  match miEntry w, miStage w with
  | 3, _ => fold 2 (cbParam b 0) ++ (if cbFlag b then fold 3 (cbParam b 1) else [])
  | 6, 1 => [(0, 0, gen, 1)]
  | 7, 0 => fold 0 (cbParam b 0)
  | 7, 1 => [(0, 0, gen, cbParam b 0 + 1)]
  | 7, 2 => [(0, 0, gen, cbParam b 1)]
  | 8, 0 => fold 0 (cbParam b 0)
  | 11, _ => fold 1 (cbParam b 0)
  | 13, _ => ((List.range (wfield b 12 7 0)).filter (fun i => decide (i ≠ wfield b 12 15 8))).map
      (fun i => (0, 16416 * i, gen, 1))
  | _, _ => []

/-- The buffer a prologue waits for (04 R143, R150). -/
def prologueWaits (w : Mi) (b : List W32) : List (Nat × Nat × Nat × Nat) :=
  if miEntry w = 8 then [(0, 0, miGenOut w, cbParam b 1)]
  else [(0, 0, wfield b 12 7 0, cbParam b 1)]

/-- The verdict of a list of waits, in order. -/
def State.waitsReady (s : State) (x : Site) (b : List W32) : List (Nat × Nat × Nat × Nat) → Ready
  | [] => .yes
  | e :: es =>
    match readyOf (s.headerAt x (cbCode b e.1) (cbOff b e.1 + e.2.1)) e.2.2.1 e.2.2.2 with
    | .yes => s.waitsReady x b es
    | r => r

-- Accesses of a stage (04 R130, R131).

/-- The regions a stage accesses: pointer, byte offset, length, and whether it reads it. -/
def chainRegions (w : Mi) (b : List W32) (ix : List Nat) : List (Nat × Nat × Nat × Bool) :=
  let bias (p : Nat) : Nat × Nat × Nat × Bool := (p, 0, 256, true)
  let residual : List (Nat × Nat × Nat × Bool) :=
    if cbAux b = 0 then [] else
      (miRows w ix).map (fun r => (1, outRow w ix r * cbAuxStride b, rowBytes (cbAux b) (miN w), true))
  match miEntry w, miStage w with
  | 0, _ | 10, _ => [bias 0]
  | 1, _ => bias 0 :: residual
  | 2, _ => [bias 0, bias 1, bias 2]
  | 3, _ => bias 0 :: residual ++ [(2, 0, 1056, decide (cbParam b 0 ≠ 0))]
      ++ (if cbFlag b then [(3, 0, 288, decide (cbParam b 1 ≠ 0))] else [])
  | 4, _ => [(0, 0, 1056, true), (1, 0, 4 * miK w, true), (2, 0, 4 * miK w, true), bias 3]
  | 5, _ => [(0, 0, 1056, true), (1, 0, 4 * miK w, true), bias 3]
  | 6, st => [(0, 0, 8224, decide (st = 1)), bias 1]
  | 7, 0 => [(0, 0, 1056, decide (cbParam b 0 ≠ 0)), (1, 0, 8192, false)]
  | 7, 1 => [(0, 0, 1056, true), (2, 0, 16384, decide (cbParam b 0 ≠ 0))]
  | 7, _ => [(0, 0, 1056, true), (2, 0, 16384, true)]
  | 8, st => [(0, 0, 1056, decide (st = 1) || decide (cbParam b 0 ≠ 0))]
  | 9, _ => [bias 0, (1, 0, 64 * miM w, false)]
  | 11, _ => [bias 0, (1, 0, 288, decide (cbParam b 0 ≠ 0))]
  | 13, _ => [(0, 0, 16416 * wfield b 12 7 0, true), bias 1]
  | _, _ => []

/-- The first refused access of a stage: BAD_DESCRIPTOR at the pointer's word, or ACCESS_FAULT. -/
def State.chainRegionFail (s : State) (x : Site) (w : Mi) (b : List W32) (ix : List Nat) : Option Result :=
  s.regionFail x ((chainRegions w b ix).map (fun e => (3 + e.1, cbCode b e.1, cbOff b e.1 + e.2.1, e.2.2.1)))

/-- What a stage reads: code, offset, length. -/
def chainReads (w : Mi) (b : List W32) (ix : List Nat) : List (Nat × Nat × Nat) :=
  ((chainRegions w b ix).filter (fun e => e.2.2.2)).map (fun e => (cbCode b e.1, cbOff b e.1 + e.2.1, e.2.2.1))

/-- What a stage's reads cannot deliver, first. -/
def State.chainUe (s : State) (x : Site) (w : Mi) (b : List W32) (ix : List Nat) : Option Media :=
  (chainReads w b ix).findSome? (fun e => s.locUe x e.1 e.2.1 e.2.2)

/-- Bytes that a stage's reads move in stack memory. -/
def chainStackBytes (w : Mi) (b : List W32) (ix : List Nat) : Nat :=
  ((chainReads w b ix).map (fun e => stackCost e.1 e.2.2)).sum

/-- FP32 values at a pointer. -/
def State.ptrF32 (s : State) (x : Site) (b : List W32) (p off n : Nat) : List FVal :=
  s.f32s x (cbCode b p) (cbOff b p + off) n

def ptrStore (s : State) (x : Site) (b : List W32) (p off : Nat) (bs : List Byte) : HeldStore :=
  s.locStore x (cbCode b p) (cbOff b p + off) bs

/-- The bytes of FP32 values. -/
def f32Bytes (l : List FVal) : List Byte := l.flatMap (fun v => leBytes 4 (f32Bits v))

/-- Element c of the residual row of row r, in FP32 (04 R135). -/
def State.residual (s : State) (x : Site) (w : Mi) (b : List W32) (ix : List Nat) (r : Nat) : List FVal :=
  (rowElems (cbAux b) (miN w) (s.locRead x (cbCode b 1) (cbOff b 1 + outRow w ix r * cbAuxStride b)
    (rowBytes (cbAux b) (miN w)))).map Elem.re

-- Prologues (04 R143, R150).

/-- The three FP32 words of row r's entry in a statistics or state buffer (04 R140, R145). -/
def State.rowEntry (s : State) (x : Site) (b : List W32) (p r : Nat) : List FVal :=
  s.ptrF32 x b p (32 + 16 * r) 3

/-- The transformation of row r of operand A: mean and rstd of TV-04, rstd of TV-05, m of TV-08. -/
def State.prologueRow (s : State) (x : Site) (w : Mi) (b : List W32) (r : Nat) : FVal × FVal :=
  let e := s.rowEntry x b 0 r
  let sum := e.getD 0 .zero
  let sq := e.getD 1 .zero
  let n := FVal.ofInt (miK w)
  let eps := f32 (cbParam b 2)
  match miEntry w with
  | 4 =>
    let mean := fdiv sum n
    let var := fsub (fdiv sq n) (fmul mean mean)
    let var' := if var.lt .zero then .zero else var
    (mean, fdiv fOne (fsqrt (fadd var' eps)))
  | 5 => (.zero, fdiv fOne (fsqrt (fadd (fdiv sq n) eps)))
  | _ => (sum, .zero)

/-- An element of the source as it enters the array, rounded to fmt_a by nearest even; DESIGN CHOICE, log entry 75: a
result beyond the largest finite value of fmt_a becomes an infinity, as an arithmetic step's does (02 R65). -/
def prologueElem (w : Mi) (q : FVal × FVal) (gamma beta a : FVal) : FVal :=
  let v := match miEntry w with
    | 4 => fadd (fmul (fmul (fsub a q.1) q.2) gamma) beta
    | 5 => fmul (fmul a q.2) gamma
    | _ => if q.1 = .inf true then .zero else fexp (fsub a q.1)
  match fmtFloat (miFmtA w) with
  | some l => l.arith v
  | none => v

/-- The rows of operand A after the prologue, in one chunk each. -/
def State.prologueA (s : State) (x : Site) (w : Mi) (b : List W32) (d : Feed) : List (List Chunk) :=
  let gamma := if miEntry w = 8 then [] else s.ptrF32 x b 1 0 (miK w)
  let beta := if miEntry w = 4 then s.ptrF32 x b 2 0 (miK w) else []
  (List.range (miM w)).map (fun r =>
    if miMasked w d.ix r then []
    else
      let q := s.prologueRow x w b r
      (s.rowA x w d r).map (fun c =>
        { c with elems := (c.elems.zipIdx).map (fun e =>
            ⟨prologueElem w q (gamma.getD e.2 .zero) (beta.getD e.2 .zero) e.1.re, .zero⟩) }))

/-- Sum of values in increasing order, from +0. -/
def sumUp (l : List FVal) : FVal := l.foldl fadd .zero

/-- The row sums l of the exponentials of TV-08 stage 1 (04 R150). -/
def prologueSums (as : List (List Chunk)) : List FVal :=
  as.map (fun row => sumUp ((row.flatMap (fun c => c.elems)).map Elem.re))

-- Stages (04 R136 to R157).

/-- What a stage makes of its block: the values of its output, whether it stores them, and exponents
of its own (TV-10) with the clamps counted. -/
structure ChainOut where
  vals : Vals
  store : Bool
  exps : Option (List (Nat × List Int) × Nat)
  deriving DecidableEq, Repr

/-- A score: scaled, or −∞ when masked (04 R147). -/
def score (w : Mi) (b : List W32) (re : List FVal) (r c : Nat) : FVal :=
  let n := miN w
  if n ≤ c ∨ (cbFlag b ∧ cbParam b 3 + r < 64 * cbParam b 0 + c) then .inf true
  else fmul (re.getD (r * n + c) .zero) (f32 (cbParam b 2))

/-- The 64 scores of row r. -/
def scores (w : Mi) (b : List W32) (re : List FVal) (r : Nat) : List FVal :=
  (List.range 64).map (score w b re r)

def maxOf (l : List FVal) : FVal := l.foldl FVal.max (.inf true)

/-- The softmax of a row of logits (04 R152). -/
def softmaxRow (z : List FVal) : List FVal :=
  let m := maxOf z
  let e := z.map (fun v => fexp (fsub v m))
  let s := match e with
    | [] => .zero
    | h :: t => t.foldl fadd h
  e.map (fun v => fdiv v s)

/-- The payload block of slot i of a TV-13 instruction: FP32 or INT32 values of m_count rows (04
R155). -/
def State.slotBlock (s : State) (x : Site) (w : Mi) (b : List W32) (i : Nat) : List FVal :=
  let n := miN w
  (List.range (miM w)).flatMap (fun r =>
    (s.locWords x (cbCode b 0) (cbOff b 0 + 16416 * i + 32 + 256 * r) n).map (fun v =>
      if miKind w = .i32 then .ofInt (signedOf 32 v.toNat) else f32 v.toNat))

/-- The sum of the slots and the own block in rank order (04 R157), with INT32 saturations. -/
def State.peerSum (s : State) (x : Site) (w : Mi) (b : List W32) (re : List FVal) : List FVal × Nat :=
  let term (i : Nat) : List FVal := if i = wfield b 12 15 8 then re else s.slotBlock x w b i
  (List.range (wfield b 12 7 0 - 1)).foldl (fun (t : List FVal × Nat) i =>
    if miKind w = .i32 then
      let o := (t.1.zip (term (i + 1))).map (fun e => satCount 32 (e.1.toInt + e.2.toInt))
      (o.map Prod.fst, t.2 + (o.map Prod.snd).sum)
    else ((t.1.zip (term (i + 1))).map (fun e => fadd e.1 e.2), t.2)) (term 0, 0)

/-- A slot's fields agree with the receiver (04 R157). -/
def State.slotOk (s : State) (x : Site) (w : Mi) (b : List W32) (i : Nat) : Bool :=
  let h := lo32 (s.headerAt x (cbCode b 0) (cbOff b 0 + 16416 * i)).2.2
  decide (field h 7 0 = i) && decide (bitOf h 8 = decide (miKind w = .i32))
    && decide (field h 22 16 = miM w) && decide (field h 30 24 = miN w)

/-- Every slot that takes part agrees. -/
def State.slotsOk (s : State) (x : Site) (w : Mi) (b : List W32) : Bool :=
  (List.range (wfield b 12 7 0)).all (fun i => decide (i = wfield b 12 15 8) || s.slotOk x w b i)

/-- The values of a stage's output: `re` is the block, `sums` the row sums of a TV-08 prologue. -/
def State.chainVals (s : State) (x : Site) (w : Mi) (b : List W32) (ix : List Nat) (re sums : List FVal) :
    ChainOut :=
  let n := miN w
  let z := re.map (fun _ => FVal.zero)
  let out (l : List FVal) : ChainOut := ⟨⟨l, z, n, 0, 0⟩, true, none⟩
  let bias (p : Nat) : List FVal := s.ptrF32 x b p 0 64
  let act := cbActivate b
  let biased (p : Nat) (l : List FVal) : List FVal :=
    let v := bias p
    mapCells n l (fun _ c a => fadd a (v.getD c .zero))
  let withRes (l : List FVal) : List FVal :=
    let rows := (List.range (miM w)).map (fun r => if miMasked w ix r then [] else s.residual x w b ix r)
    mapCells n l (fun r c a => fadd a ((rows.getD r []).getD c .zero))
  match miEntry w, miStage w with
  | 1, _ =>
    if cbFlag b then out ((withRes (biased 0 re)).map act) else out (withRes ((biased 0 re).map act))
  | 2, _ =>
    let rs := bias 1
    let cs := bias 2
    let l := mapCells n re (fun r c a => fmul (fmul (r32 a) (rs.getD r .zero)) (cs.getD c .zero))
    out ((biased 0 l).map act)
  | 3, _ => out ((if cbAux b = 0 then biased 0 re else withRes (biased 0 re)).map act)
  | 4, _ | 5, _ => out ((biased 3 re).map act)
  | 6, 0 => { out ((biased 1 re).map act) with store := false }
  | 6, _ =>
    let g := (List.range (miM w)).map (fun r =>
      (rowElems 10 64 (s.locRead x (cbCode b 0) (cbOff b 0 + 32 + 128 * r) 128)).map Elem.re)
    out (mapCells n (biased 1 re) (fun r c u => fmul ((g.getD r []).getD c .zero) u))
  | 7, 0 => { out re with store := false }
  | 7, 1 =>
    if cbParam b 0 = 0 then { out re with store := false }
    else
      let o := s.ptrF32 x b 2 0 4096
      { out (mapCells n re (fun r c a =>
          fadd (fmul ((s.rowEntry x b 0 r).getD 2 .zero) (o.getD (64 * r + c) .zero)) a)) with store := false }
  | 7, _ =>
    let o := s.ptrF32 x b 2 0 4096
    out (mapCells n re (fun r c _ =>
      let l := (s.rowEntry x b 0 r).getD 1 .zero
      if l.isZero then .zero else fdiv (o.getD (64 * r + c) .zero) l))
  | 8, 0 =>
    let l := (List.range (miM w)).flatMap (scores w b re)
    ⟨⟨l, l.map (fun _ => FVal.zero), 64, 0, 0⟩, true, none⟩
  | 8, _ => out (mapCells n re (fun r _ a =>
      let l := sums.getD r .zero
      if l.isZero then .zero else fdiv a l))
  | 9, _ =>
    let zs := biased 0 re
    out ((List.range (miM w)).flatMap (fun r => softmaxRow ((zs.drop (r * n)).take n)))
  | 10, _ =>
    let v : Vals := ⟨(biased 0 re).map act, z, n, 0, 0⟩
    ⟨v, true, some (fitBlock w (miRows w ix) v 0)⟩
  | 11, _ => { out ((biased 0 re).map act) with store := !(cbFlag b) }
  | 13, _ =>
    let t := s.peerSum x w b re
    if miKind w = .i32 then
      let v := (s.locWords x (cbCode b 1) (cbOff b 1) 64).map (fun a => signedOf 32 a.toNat)
      let o := (t.1.zipIdx).map (fun e => satCount 32 (e.1.toInt + v.getD (e.2 % n) 0))
      ⟨⟨o.map Prod.fst, z, n, t.2 + (o.map Prod.snd).sum, 0⟩, true, none⟩
    else out ((biased 1 t.1).map act)
  | _, _ => out ((biased 0 re).map act)

-- Buffers a stage leaves (04 R140 to R153).

/-- Row r of a block of `n` columns. -/
def rowOf (n : Nat) (l : List FVal) (r : Nat) : List FVal := (l.drop (r * n)).take n

/-- The row statistics entry with a block's row folded in (04 R141): `stored` are the values as stored,
`before` as the conversion received them. -/
def foldRow (old stored before : List FVal) : List FVal :=
  let total (l : List FVal) : FVal := match l with
    | [] => .zero
    | h :: t => t.foldl fadd h
  [fadd (old.getD 0 .zero) (total stored),
   fadd (old.getD 1 .zero) (total (stored.map (fun v => fmul v v))),
   f32 (before.foldl maxAbsBits (f32Bits (old.getD 2 .zero)))]

/-- One row's online softmax: the new m, l and α, and the row of P (04 R147). -/
def onlineRow (m l : FVal) (sc : List FVal) : FVal × FVal × FVal × List FVal :=
  let mNew := m.max (maxOf sc)
  let alpha := if m = .inf true then .zero else fexp (fsub m mNew)
  let p := sc.map (fun v => if mNew = .inf true then .zero else bf16.arith (fexp (fsub v mNew)))
  (mNew, p.foldl fadd (fmul alpha l), alpha, p)

/-- Experts selected in descending weight, a tie to the lower number (04 R152). -/
def topK : Nat → List (Nat × FVal) → List (Nat × FVal)
  | 0, _ => []
  | k + 1, l =>
    match l with
    | [] => []
    | h :: t =>
      let best := t.foldl (fun b e => if b.2.lt e.2 then e else b) h
      best :: topK k (l.filter (fun e => decide (e.1 ≠ best.1)))

/-- The routing record of a row of weights (04 R152, R153). DESIGN CHOICE, log entry 84: a row whose logits hold an
infinity, so that its weights become NaN, has a record of count 0, as a row with a NaN logit has. -/
def routingRecord (k : Nat) (renorm : Bool) (p : List FVal) : List Byte :=
  let sel := if p.any FVal.isNan then [] else topK k ((p.zipIdx).map (fun e => (e.2, e.1)))
  let t := match sel.map Prod.snd with
    | [] => .zero
    | h :: r => r.foldl fadd h
  let weight (v : FVal) : FVal := if renorm then fdiv v t else v
  (List.range 8).map (fun i => BitVec.ofNat 8 ((sel[i]?.map Prod.fst).getD 0xFF))
    ++ f32Bytes ((List.range 8).map (fun i => (sel[i]?.map (fun e => weight e.2)).getD .zero))
    ++ leBytes 4 sel.length ++ leBytes 20 0

/-- The buffers, headers and records that a stage writes with its output: `v` are the output values,
`stored r c` a value as stored, `re` the block it received (04 R137 to R153). DESIGN CHOICE, log entry 84: a gate beyond
the largest finite BF16 value saturates, uncounted, as a store's value does (02 R71, 04 R137). -/
def State.chainStores (s : State) (x : Site) (w : Mi) (b : List W32) (ix : List Nat) (re : List FVal)
    (v : Vals) (stored : Nat → Nat → FVal) : List HeldStore :=
  let n := miN w
  let gen := miGenOut w
  let rows := miRows w ix
  let put := ptrStore s x b
  let j := cbParam b 0
  let stRow (r : Nat) : List FVal := (List.range n).map (stored r)
  match miEntry w, miStage w with
  | 3, _ =>
    let old (r : Nat) : List FVal := if j = 0 then [] else s.rowEntry x b 2 r
    let entry (r : Nat) : List Byte :=
      f32Bytes (foldRow (old r) (stRow r) (rowOf n v.re r)) ++ leBytes 4 0
    let cols0 := if j = 0 then 0 else (s.headerAt x (cbCode b 2) (cbOff b 2)).2.2
    let stats :=
      (if j = 0 then [put 2 32 (leBytes 1024 0)] else []) ++ rows.map (fun r => put 2 (32 + 16 * r) (entry r))
        ++ [put 2 0 (chainHeader (j + 1) gen (cols0 + n))]
    let i := cbParam b 1
    let oldCol : List FVal := if i = 0 then [] else s.ptrF32 x b 3 32 64
    let newCol := (List.range 64).map (fun c =>
      f32 ((rows.map (fun r => if c < n then v.re.getD (r * n + c) .zero else .zero)).foldl maxAbsBits
        (f32Bits (oldCol.getD c .zero))))
    stats ++ (if cbFlag b then [put 3 32 (f32Bytes newCol), put 3 0 (chainHeader (i + 1) gen 0)] else [])
  | 6, 0 =>
    let row (r : Nat) : List Byte := packRow 10 ((List.range n).map (fun c =>
      (bf16.store .near (v.re.getD (r * n + c) .zero)).bits))
    put 0 32 (leBytes 8192 0) :: rows.map (fun r => put 0 (32 + 128 * r) (row r))
      ++ [put 0 0 (chainHeader 1 gen 0)]
  | 7, 0 =>
    let old (r : Nat) : List FVal := if j = 0 then [.inf true, .zero] else s.rowEntry x b 0 r
    let row (r : Nat) : FVal × FVal × FVal × List FVal :=
      onlineRow ((old r).getD 0 .zero) ((old r).getD 1 .zero) (scores w b re r)
    let start := if j = 0 then [put 0 32 ((List.range 64).flatMap (fun _ =>
        f32Bytes [.inf true, .zero, .zero, .zero]))] else []
    start ++ rows.flatMap (fun r =>
      let o := row r
      [put 0 (32 + 16 * r) (f32Bytes [o.1, o.2.1, o.2.2.1, .zero]),
       put 1 (128 * r) (packRow 10 (o.2.2.2.map bf16.encode))])
      ++ [put 0 0 (chainHeader (j + 1) gen 0)]
  | 7, 1 => rows.map (fun r => put 2 (256 * r) (f32Bytes (rowOf n v.re r)))
  | 8, 0 =>
    let old (r : Nat) : List FVal := if j = 0 then [.inf true, .zero, .zero] else s.rowEntry x b 0 r
    let start := if j = 0 then [put 0 32 ((List.range 64).flatMap (fun _ =>
        f32Bytes [.inf true, .zero, .zero, .zero]))] else []
    start ++ rows.map (fun r =>
      put 0 (32 + 16 * r) (f32Bytes [((old r).getD 0 .zero).max (maxOf (scores w b re r)),
        (old r).getD 1 .zero, (old r).getD 2 .zero, .zero]))
      ++ [put 0 0 (chainHeader (j + 1) gen 0)]
  | 9, _ => rows.map (fun r => put 1 (64 * r) (routingRecord j (cbFlag b) (rowOf n v.re r)))
  | 11, _ =>
    let old : List FVal := if j = 0 then [] else s.ptrF32 x b 1 32 64
    let sum (c : Nat) : FVal := match rows.map (fun r => stored r c) with
      | [] => .zero
      | h :: t => t.foldl fadd h
    [put 1 32 (f32Bytes ((List.range 64).map (fun c =>
      if c < n then fadd (old.getD c .zero) (sum c) else old.getD c .zero))),
     put 1 0 (chainHeader (j + 1) gen 0)]
  | _, _ => []

/-- The epilogue term E and the prologue term L_p (04 R159). -/
def chainTiming (w : Mi) (b : List W32) : Nat × Nat :=
  match miEntry w, miStage w with
  | 0, _ => (24, 0)
  | 1, _ | 2, _ => (32, 0)
  | 3, _ | 11, _ => (40, 0)
  | 4, _ => (24, 20)
  | 5, _ => (24, 16)
  | 6, _ => (32, 0)
  | 7, 0 => (152, 0)
  | 7, _ => (40, 0)
  | 8, 0 => (40, 0)
  | 8, _ => (48, 24)
  | 9, _ => (120, 0)
  | 10, _ => (48, 0)
  | 13, _ => (24 + 128 * ((List.range (wfield b 12 7 0)).filter (fun i => decide (i ≠ wfield b 12 15 8))).length, 0)
  | _, _ => (16, 0)

end Sys2Proof.Machine
end

