-- ==== Sys2Proof/Machine/Governor.lean ====
section
/-! DEFINITION. Pace, voltage and power: speed monitors (01 R34 to R36), the pace governor and the power
limiter (07 R243 to R246), profiles and throttling (15 R487, R488), and the notices that Belay writes
when it finds that a slot cannot be served (07 R261, R262). -/

namespace Sys2Proof.Machine

def floorPace : Nat := 1400
def raisePace : Nat := 1450
def lowerPace : Nat := 1500

-- Deadlines and notices (05 R181, R197; 07 R260 to R262).

/-- Symbols of a slot that carry downlink or uplink of the requests. -/
def symRange (r : Nat × Nat) : List Nat := (List.range r.2).map (· + r.1)

def SlotWork.dlPdus (w : SlotWork) : List DlPdu := w.dl.getD [] ++ w.ulDci
def SlotWork.ulPdus (w : SlotWork) : List UlPdu := w.ul.getD []

/-- The last symbol of a slot that its requests use in a direction. -/
def SlotWork.lastDl (w : SlotWork) : Nat := (w.dlPdus.map (fun p => p.sym.1 + p.sym.2 - 1)).foldl max 0
def SlotWork.lastUl (w : SlotWork) : Nat := (w.ulPdus.map (fun p => p.sym.1 + p.sym.2 - 1)).foldl max 0
def SlotWork.firstUl (w : SlotWork) : Nat := (w.ulPdus.map (fun p => p.sym.1)).foldl min 13

/-- The deadline of a slot: downlink, the close of its last symbol's window; uplink, that of R181 after the
end of its last uplink symbol (05 R181, R184). -/
def CellCfg.deadline (c : CellCfg) (w : SlotWork) (ul : Bool) : Nat :=
  if ul then c.airSym w.slot (w.lastUl + 1) + byScs c.scs 1_500_000 1_000_000 500_000
  else c.airSym w.slot w.lastDl - c.t1aMinUp * 1000

/-- Channel bits of a notice (05 R197). -/
def DlKind.bit : DlKind → Nat
  | .ssb => 0 | .pdcch => 1 | .pdsch => 2 | .csirs => 3
def UlKind.bit : UlKind → Nat
  | .pucch => 4 | .pusch => 5 | .prach => 6 | .srs => 7

/-- The mask of a list of bits. -/
def maskOf (bs : List Nat) : Nat := bs.eraseDups.foldl (fun m b => m + 2 ^ b) 0

/-- The work of a slot of a cell. -/
def Cell.work (x : Cell) (n : Nat) : SlotWork :=
  (x.slots.find? (fun w => decide (w.slot = n))).getD (SlotWork.fresh n)

/-- The works of slots in slot order, with one set. -/
def insertWork (w : SlotWork) : List SlotWork → List SlotWork
  | [] => [w]
  | v :: t => if v.slot = w.slot then w :: t else if w.slot < v.slot then w :: v :: t else v :: insertWork w t

/-- Set the work of a slot. -/
def Cell.setWork (x : Cell) (w : SlotWork) : Cell := { x with slots := insertWork w x.slots }

/-- Symbols of a slot with downlink. -/
def SlotWork.dlSyms (w : SlotWork) : List Nat :=
  (List.range 14).filter (fun k => w.dlPdus.any (fun p => inRange p.sym k))

/-- Channels of the PDUs on a symbol. -/
def SlotWork.symChannels (w : SlotWork) (k : Nat) : List Nat :=
  (w.dlPdus.filter (fun p => inRange p.sym k)).map (fun p => p.kind.bit)

/-- Channels of a downlink slot that are not delivered at its commit point: every one before its C-plane is
queued, else those with a discarded frame or a symbol whose frames are not queued (07 R260). -/
def SlotWork.dlMissing (w : SlotWork) : List Nat :=
  if !w.cplane then w.dlPdus.map (fun p => p.kind.bit)
  else w.lost ++ (w.dlSyms.filter (fun k => decide (k ∉ w.queued))).flatMap (fun k => w.symChannels k)

/-- The decoded code blocks of a PUSCH, in order. -/
def SlotWork.blocksOf (w : SlotWork) (index : Nat) (n : Nat) : List BlockBits :=
  (List.range n).filterMap (fun b => w.decoded.find? (fun d => decide (d.index = index) && decide (d.block = b)))

/-- The UCI of a PDU needs a polar engine: 12 bits and more, but for PUCCH formats 0 and 1 (05 R193). -/
def UlPdu.polarUci (p : UlPdu) : Bool :=
  decide (12 ≤ p.uciBits) && !(decide (p.kind = .pucch) && decide (p.params.headD 0 ≤ 1))

/-- The results of a PUCCH or PUSCH are complete: combining has ended, its code blocks are decoded, and so is its UCI (05
R182 steps 5 and 6). -/
def SlotWork.pduDone (w : SlotWork) (p : UlPdu) : Bool :=
  match w.soft with
  | none => false
  | some qs =>
    (!p.polarUci || w.uci.any (fun e => decide (e.1 = p.index)))
      && (decide (p.kind ≠ .pusch) || qs.all (fun q => decide (q.index ≠ p.index)
        || decide ((w.blocksOf q.index q.soft.length).length = q.soft.length)))

/-- Channels of an uplink slot that are not delivered at its commit point: those with a PDU whose results are not
complete (07 R260). -/
def SlotWork.ulMissing (w : SlotWork) : List Nat :=
  (w.ulPdus.filter (fun p => match p.kind with
    | .prach => decide (p.index ∉ w.rached)
    | .srs => decide (p.sym.1 + p.sym.2 - 1 ∉ w.estSyms)
    | .pucch | .pusch => !(w.pduDone p))).map (fun p => p.kind.bit)

/-- A PUCCH or PUSCH that no notice named has its indication to come. -/
def SlotWork.owes (w : SlotWork) : Bool :=
  !w.results && w.ulPdus.any (fun p => (decide (p.kind = .pucch) || decide (p.kind = .pusch))
    && !(w.ulChannels.testBit p.kind.bit))

/-- Nothing of the slot's uplink is to come that a notice could precede: none was asked for, or it is decided, or every
channel has its results (07 R261). -/
def SlotWork.ulSettled (w : SlotWork) : Bool :=
  w.ul.isNone || w.lateUl || w.ulDone || w.ulMissing.isEmpty

/-- Every earlier slot of the cell is settled, and its indications are written: those of this slot may follow (05 R179,
07 R261). -/
def Cell.ulInOrder (x : Cell) (n : Nat) : Bool :=
  x.slots.all (fun v => decide (n ≤ v.slot) || (v.ulSettled && !(v.ul.isSome && !v.lateUl && v.owes) && v.waits.isEmpty))

/-- Counters of a cell's entry: notices in bits 15:0, overruns in bits 31:16 (07 R266). -/
def State.countNotice (s : State) (c : Nat) : State := s.bumpRf (aCELL c + 0x1C) 15 0 1
def State.countOverrun (s : State) (c : Nat) : State := s.bumpRf (aCELL c + 0x1C) 31 16 1

/-- The RACH and SRS indications of a cell whose turn has come are written, in slot order (05 R179, 07 R261). -/
def State.releaseInds (s : State) (c : Nat) : State :=
  ((s.cell c).slots.map (fun w => w.slot)).foldl (fun t n =>
    let x := t.cell c
    let w := x.work n
    if w.waits ≠ [] ∧ x.ulInOrder n = true then
      w.waits.foldl (fun u b => u.cellInd c n w.ulSeq b) (t.setCell c (x.setWork { w with waits := [] }))
    else t) s

/-- The channels of a slot that its notice names: what is not delivered, and, on the downlink, what its queued frames
carry, which a noticed slot no longer sends (05 R197, 07 R261). -/
def State.unserved (s : State) (c : Nat) (w : SlotWork) (ul : Bool) : Nat :=
  if ul then maskOf w.ulMissing
  else
    let fs := s.ports.subs.flatMap (fun e => e.2.frames)
    maskOf (w.dlMissing ++ fs.flatMap (fun f => match f.what with
      | .cplane y m _ false => if y = c ∧ m = w.slot then w.dlPdus.map (fun p => p.kind.bit) else []
      | .uplane y m k _ => if y = c ∧ m = w.slot then w.symChannels k else []
      | _ => []))

/-- DEADLINE_NOTICE.indication for a slot and direction, at most one each: it names the channels; a
noticed downlink slot sends nothing further (07 R261, 05 R197). -/
def State.noticeSlot (s : State) (c n : Nat) (ul : Bool) (cause channels : Nat) : State :=
  let x := s.cell c
  let w := x.work n
  match x.cfg with
  | none => s
  | some g =>
    if (if ul then w.noticedUl else w.noticedDl) then s
    else
      let w' := if ul then { w with noticedUl := true, ulDone := true, ulChannels := channels }
        else { w with noticedDl := true, dlDone := true }
      let t := (s.setCell c (x.setWork w')).cellInd c n 0
        (.notice (if ul then 1 else 0) cause channels (g.deadline w ul % 2 ^ 64))
      let u := (t.countNotice c).record 0x0302 (siteCell c) (if ul then 16 else 0) cause
      if ul then u.releaseInds c
      else u.dropFrames (fun f => f.ofDl c n)

/-- The controller finds that the remaining work of the slots named cannot finish by their commit points at
floor pace: cause hardware fault, or for a slot whose port is down, link loss (07 R261, R262).
Each is a cell, a slot and a direction. -/
def State.noticeUnserved (s : State) (d : Nat) (slots : List (Nat × Nat × Bool)) : State :=
  slots.foldl (fun t e =>
    let x := t.cell e.1
    let w := x.work e.2.1
    let gone := t.unserved e.1 w e.2.2
    if x.live && decide (x.die = d) && !(if e.2.2 then w.ulDone || w.lateUl else w.dlDone || w.lateDl)
        && decide (gone ≠ 0) then
      t.noticeSlot e.1 e.2.1 e.2.2 1 gone
    else t) s

/-- A unit or island that serves cells had a fault: the slots in flight of the die's cells that are bound to the
island are marked (07 R262, 05 R169). -/
def State.markFault (s : State) (d isl : Nat) : State :=
  ((s.dieCells d).filter (fun e => e.2.islands.testBit isl)).foldl (fun t e =>
    let y : Cell := { e.2 with slots := e.2.slots.map (fun w => { w with fault := true }) }
    t.setCell e.1 y) s

/-- The island does radio work: it is designated, or a spare of it serves a radio unit (01 R35, 07 R245). -/
def Island.serves (x : Island) : Bool := x.radio || decide (0 < x.spareHolds)

/-- An island that does radio work had a fault: the slots of the cells bound to it, or to the islands whose units
its spares serve, are marked (07 R262). -/
def State.markIsland (s : State) (d i : Nat) : State :=
  let out := (s.units.served.filter (fun e => decide (e.1.die = d) && decide (e.2.island = i) && s.inRadio e.1)).map
    (fun e => e.1.island)
  ((if (s.island d i).radio then [i] else []) ++ out).eraseDups.foldl (fun t j => t.markFault d j) s

-- Samples and the governor.

/-- The pace condition of island i of die d no longer holds: unless its monitor is at fault, the island leaves
the die's pace emergency (07 R256). -/
def State.endPace (s : State) (d i : Nat) : State :=
  let e := s.emerg d
  if e.islands.testBit i && !(e.monitors.testBit i) then s.setEmerg d { e with islands := e.islands - 2 ^ i } else s

/-- PACE_SAMPLE: the six monitors of island i of die d sample their rates, and the sensors read `temp`; the
lowest rate becomes the pace, and held is set at the first sample at or above the raise threshold
after the hold began (01 R34, R36). The monitors sample whenever the islands have their supply, in a quiesced
device and during a wake too (13 R433, 15 R490, R491). -/
def paceSample (d i : Nat) (rates : List Nat) (temp : Int) (s : State) : State :=
  match rates with
  | [] => s
  | r :: rest =>
    if s.up && decide (s.power.standby ≠ .standby) && decide (d < 2) && decide (i < 8) then
      let x := s.island d i
      let pace := min 0xFFFF (rest.foldl min r)
      let low := x.hold && decide (x.mv ≥ 800) && decide (pace < raisePace)
      let hot := decide (s.shedTemp ≤ temp)
      State.endEmerg (d := d) (was := s.emerg d) <| (if low then s else s.endPace d i).setIsland d i { x with
        pace := pace
        paceLow := if x.paceLow = 0 then pace else min x.paceLow pace
        temp := temp
        held := x.held || (x.hold && decide (raisePace ≤ pace))
        counted := x.counted || (x.radio && x.hold && decide (raisePace ≤ pace))
        under := x.under || (x.held && decide (pace < floorPace))
        lowSince := if low then some (x.lowSince.getD s.now) else none
        highRun := if lowerPace ≤ pace then x.highRun + 1 else 0
        hotSince := if hot then some (x.hotSince.getD s.now) else none }
    else s

/-- GOVERNOR_STEP: the governor acts on a held island from its latest sample: raises, lowers or holds the
voltage, and declares a hardware fault of an island of which any sample lay below floor pace; `unserved` are the
slots that its radio work can no longer serve (07 R243, R245, R261). -/
def governorStep (d i : Nat) (unserved : List (Nat × Nat × Bool)) (s : State) : State :=
  let x := s.island d i
  if s.awake && decide (d < 2) && decide (i < 8) && x.hold then
    let t :=
      if x.pace < raisePace ∧ x.mv < 800 then
        (s.setIsland d i { x with mv := min 800 (x.mv + 5), raisedAt := s.now }).record 0x0305 (siteIsland d i) 0
          x.pace
      else if lowerPace ≤ x.pace ∧ 1000 ≤ x.highRun ∧ 600 < x.mv
          ∧ (x.loweredAt = 0 ∨ x.loweredAt + 1_000_000 ≤ s.now) then
        s.setIsland d i { x with mv := max 600 (x.mv - 5), loweredAt := s.now }
      else s
    if x.under then
      ((((t.setIsland d i { t.island d i with under := false }).markIsland d i).edge 3).noticeUnserved d unserved)
    else t
  else s

/-- PACE_EMERGENCY: an island at 0.80 V has stayed below the raise threshold for 100 µs (07 R243,
R256). -/
def paceEmergency (d i : Nat) (s : State) : State :=
  let x := s.island d i
  if s.awake && decide (d < 2) && decide (i < 8) && x.serves && !((s.emerg d).islands.testBit i)
      && (match x.lowSince with
          | some t => decide (t + 100_000 ≤ s.now)
          | none => false) then
    s.declareEmerg d .pace ((if s.emergIn d .pace then (s.emerg d).islands else 0) + 2 ^ i)
  else s

-- The power limiter (07 R246, 15 R487).

/-- Islands of both dies. -/
def allIslands : List (Nat × Nat) := (List.range 16).map (fun b => (b / 8, b % 8))

/-- The step of R246 that a sample at the ceiling begins or keeps. -/
def State.nextLimit (s : State) : Nat :=
  let free := allIslands.filter (fun e => !(s.island e.1 e.2).hold)
  if s.power.limitStep ≥ 2 then 3
  else if free.any (fun e => decide (600 < (s.island e.1 e.2).mv)) then 1
  else 2

/-- Lower an island by 5 mV, not below 0.60 V. -/
def Island.lower (x : Island) (now : Nat) : Island :=
  { x with mv := if x.mv ≤ 600 then x.mv else max 600 (x.mv - 5), loweredAt := now }

/-- The actions of a step: 1 lowers islands that are not held, 2 withholds non-radio work, 3 lowers held
islands, which leave their hold. -/
def State.limitAct (s : State) (step : Nat) : State :=
  match step with
  | 1 => allIslands.foldl (fun t e =>
      let x := t.island e.1 e.2
      if x.hold then t else t.setIsland e.1 e.2 (x.lower t.now)) s
  | 2 => { s with power := { s.power with withheld := true } }
  | _ => allIslands.foldl (fun t e =>
      let x := t.island e.1 e.2
      t.setIsland e.1 e.2 ((x.lower t.now).leave t.profile.1)) s

/-- Every island that does radio work is marked (07 R262). -/
def State.markServing (s : State) : State :=
  (allIslands.filter (fun e => (s.island e.1 e.2).serves)).foldl (fun t e => t.markIsland e.1 e.2) s

/-- LIMITER_SAMPLE: the limiter measures `sample` at the blades in 0.1 W; `avg` and `volts` are the averages
over the last 1 ms in 0.1 W and 0.1 V, and Basecamp's hottest sensor shows `temp`; `unserved` are the slots that the
islands of step 3 can no longer serve (07 R246, R261, 15 R487, R504). The slots of the cells bound to them count as served by a faulty island,
those accepted while step 3 lasts too (07 R262). -/
def limiterSample (sample avg volts : Nat) (temp : Int) (unserved : List (Nat × Nat × Bool)) (s0 : State) : State :=
  let s : State := { s0 with power := { s0.power with basecampTemp := temp } }
  if s.power.phase = .good then
    let a := aPWR + 4
    let t := (s.setReg aPWR (lo32 (volts % 65536 * 2 ^ 16 + min avg 0xFFFF))).setReg a
      (lo32 (max (s.reg a).toNat (min sample 0xFFFF)))
    if 15_000 ≤ sample then
      let step := t.nextLimit
      let was := t.power.limitStep
      let slot := t.now / 1_000_000 + 1
      let u := if t.power.limitHit = slot then t else t.bumpRf (aPWR + 0xC) 31 16 1
      let v := { u.limitAct step with
        power := { (u.limitAct step).power with limitStep := step, limitAt := u.now, limitHit := slot } }
      let w := if step = 3 ∧ was ≠ 3 then
          ([0, 1] : List Nat).foldl (fun w d =>
            if (List.range 8).any (fun i => (w.island d i).radio) then w.declareEmerg d .power 0 else w) v.markServing
        else v
      if step = 3 then (w.noticeUnserved 0 unserved).noticeUnserved 1 unserved else w
    else
      let m := if t.power.limitStep = 3 then t.markServing else t
      let u := { m with power := { m.power with limitStep := 0, withheld := false } }
      let v := if t.power.limitStep = 3 then
          allIslands.foldl (fun w e =>
            let x := w.island e.1 e.2
            if x.serves then w.setIsland e.1 e.2 (x.take w.now) else w) u
        else u
      (v.endEmerg 0 (s.emerg 0)).endEmerg 1 (s.emerg 1)
  else s

-- Profiles (15 R487, R488).

/-- THROTTLE_STEP: an island that is not held is lowered by 5 mV every 10 µs while the average power exceeds
the soft cap or its sensors the throttle temperature, else raised by 5 mV per 1 ms to the profile's
ceiling; above the ceiling it comes down to it (15 R488). -/
def throttleStep (d i : Nat) (s : State) : State :=
  let x := s.island d i
  if s.awake && decide (d < 2) && decide (i < 8) && !x.hold then
    let c := s.profile
    let overs := decide (c.2.1 < s.rf aPWR 15 0) || decide (c.2.2 < x.temp)
    if c.1 < x.mv then s.setIsland d i { x with mv := c.1, loweredAt := s.now }
    else if overs then
      (if x.loweredAt + 10_000 ≤ s.now then s.setIsland d i (x.lower s.now) else s)
    else if x.mv < c.1 ∧ s.power.limitStep = 0 ∧ max x.raisedAt x.loweredAt + 1_000_000 ≤ s.now then
      s.setIsland d i { x with mv := min c.1 (x.mv + 5), raisedAt := s.now }
    else s
  else s

/-- PROFILE_CHANGE: a write of PWR_PROFILE; 0b11 is ignored (15 R487). -/
def profileChange (value : W32) (s : State) : State :=
  if s.up && decide (field value 1 0 ≠ 3) then s.applyWrite (aPWR + 8) value else s

-- The meanings.

def execPaceSample (d i : Nat) (rates : List Nat) (temp : Int) (s : State) : Done :=
  .next (paceSample d i rates temp s)
def execGovernorStep (d i : Nat) (unserved : List (Nat × Nat × Bool)) (s : State) : Done :=
  .next (governorStep d i unserved s)
def execPaceEmergency (d i : Nat) (s : State) : Done := .next (paceEmergency d i s)
def execLimiterSample (sample avg volts : Nat) (temp : Int) (unserved : List (Nat × Nat × Bool)) (s : State) : Done :=
  .next (limiterSample sample avg volts temp unserved s)
def execThrottleStep (d i : Nat) (s : State) : Done := .next (throttleStep d i s)
def execProfileChange (value : W32) (s : State) : Done := .next (profileChange value s)

end Sys2Proof.Machine
end

