-- ==== Sys2Proof/Machine/Layer1.lean ====
section
/-! DEFINITION. Layer-1 messages (05 R169 to R180, R195; 07 R247 to R250; 09 R314, R323): how the device
answers each request, and the starts and stops of cells. -/

namespace Sys2Proof.Machine

-- The message block (05 R174, 09 R323).

/-- Word numbers of an L1_MSG that fail a check. -/
def l1Bad (ws : List W32) (h : RadioHdr) : Option Nat :=
  let len := (wordAt ws 6).toNat
  descFail ws [(4, decide (wpair ws 4 % 8 = 0)),
    (6, decide (16 ≤ len) && decide (len ≤ 1_048_592) && decide (len = 16 + h.length))]

/-- The requests of R175. -/
def requestIds : List Nat := [0x0000, 0x0002, 0x0004, 0x0005, 0x0080, 0x0081, 0x0083, 0x0084, 0x00C0, 0x00C3]

/-- ERROR.indication on a request ring's pair (05 R178). -/
def State.sendErr (s : State) (ring : Nat) (h : RadioHdr) (code : MsgCode) (pdus : List Nat) : State :=
  s.sendInd ring ⟨h.cell, h.sfn, h.slot, h.seq, .error h.msgId code pdus⟩

/-- The next descriptor of ring n is an L1_MSG whose block has this header: it completes with SUCCESS, or
with BAD_DESCRIPTOR when its framing is malformed, and the message is handled with its arrival
time. A message of no known type is refused with MSG_INVALID (09 R323). -/
def State.l1Message (s : State) (n : Nat) (h : RadioHdr) (id : Nat) (f : State → Nat → State) : State :=
  if s.awake then
    match s.nextStart n with
    | none => s
    | some d =>
      if d.op = 0x20 then
        match l1Bad d.words h with
        | some w => s.finishDesc n d.idx (Result.bad w)
        | none =>
          let t := s.finishDesc n d.idx (Result.of .success)
          if h.msgId = id then f t d.arrival
          else if h.msgId ∈ requestIds then s
          else t.sendErr n h .invalid []
      else s
  else s

/-- A request names a cell: its number is checked, and a request on another ring than the cell's is refused
on the cell's bound pair (09 R314). -/
def State.l1Cell (s : State) (n : Nat) (h : RadioHdr) (f : State → State) : State :=
  if 384 ≤ h.cell then s.sendErr n h .invalidConfig []
  else match (s.cell h.cell).ring with
    | some m => if m ≠ n then s.sendErr m h .invalidState [] else f s
    | none => f s

-- PARAM, CONFIG (05 R165 to R172, R177).

/-- The bandwidths in MHz of a numerology (05 R164); those at 30 kHz are the 3GPP set. -/
def bandwidths (scs : Nat) : List Nat :=
  if scs = 15 then [5, 10, 15, 20, 25, 30, 40, 50]
  else if scs = 30 then [5, 10, 15, 20, 25, 30, 35, 40, 45, 50, 60, 70, 80, 90, 100]
  else [50, 100, 200, 400]

/-- The largest grid of a numerology in PRBs (05 R164). -/
def maxGrid (scs : Nat) : Nat := byScs scs 270 273 264

/-- The antenna configurations of R167: 1 for FR2, antennas or streams, downlink and uplink layers of a cell, of a
UE, and 1 for the iterative equaliser. -/
def antennaRows : List (List Nat) :=
  [[0, 1, 1, 1, 4, 4, 0], [0, 2, 2, 2, 4, 4, 0], [0, 4, 4, 4, 4, 4, 0], [0, 8, 8, 4, 8, 4, 0],
   [0, 16, 16, 8, 8, 4, 1], [0, 32, 16, 8, 8, 4, 1], [0, 64, 16, 8, 8, 4, 1], [1, 2, 2, 2, 2, 2, 0],
   [1, 4, 4, 2, 2, 2, 0]]

/-- The limits that PARAM.response reports (05 R164 to R168): numerologies with bandwidths, grid, slot in ns, slots
per frame and duplex (1 FDD, 2 TDD); what is not processed, one flag each; channels; antenna
configurations; PDU limits; cells. -/
def paramLimits : List Nat :=
  ([15, 30, 120] : List Nat).flatMap (fun s =>
    [s, (bandwidths s).length] ++ bandwidths s ++ [maxGrid s, slotNs s, slotsPerFrame s, if s = 120 then 2 else 3])
  ++ List.replicate 7 0 ++ List.range 8 ++ antennaRows.flatMap id ++ pduLimits ++ [384]

/-- PARAM.request (05 R170, R175). -/
def paramRequest (n : Nat) (h : RadioHdr) (s : State) : State :=
  s.l1Message n h 0x0000 (fun t _ =>
    if h.cell = 0xFFFF then t.sendInd n ⟨0xFFFF, 0, 0, h.seq, .param paramLimits⟩
    else t.l1Cell n h (fun u =>
      if (u.cell h.cell).busy then u.sendErr n h .invalidState []
      else u.sendInd n ⟨h.cell, 0, 0, h.seq, .param paramLimits⟩))


def CellCfg.dlStreams (c : CellCfg) : Nat := if c.fapi.massive then c.fapi.dlLayers else c.fapi.tx
def CellCfg.ulStreams (c : CellCfg) : Nat := if c.fapi.massive then c.fapi.ulStreams else c.fapi.rx
def CellCfg.streams (c : CellCfg) : Nat := max c.dlStreams c.ulStreams

/-- Numerology, bandwidth, grid and duplex are in the table of R164. -/
def FapiCfg.carrierOk (f : FapiCfg) : Bool :=
  decide (f.scs ∈ [15, 30, 120]) && decide (f.fr2 = decide (f.scs = 120)) && (f.tdd || !f.fr2)
    && decide (f.bwMhz ∈ bandwidths f.scs) && decide (f.grid ≤ maxGrid f.scs)

/-- Antenna configuration and layers are in the table of R167; above 8T8R a carrier has at most 100 MHz. -/
def FapiCfg.antennasOk (f : FapiCfg) : Bool :=
  decide (f.tx = f.rx) && (!f.massive || decide (f.bwMhz ≤ 100))
    && (match antennaRows.find? (fun r => decide (r.getD 0 0 = if f.fr2 then 1 else 0) && decide (r.getD 1 0 = f.tx)) with
        | some r => decide (f.dlLayers ≤ r.getD 2 0) && decide (f.ulLayers ≤ r.getD 3 0)
            && decide (f.dlLayersUe ≤ r.getD 4 0) && decide (f.ulLayersUe ≤ r.getD 5 0)
        | none => false)

/-- Nothing of R165 is asked for, and the PRACH format is one of R194: the long ones in FR1 only. -/
def FapiCfg.supported (f : FapiCfg) : Bool :=
  !f.extendedCp && !f.above52GHz && !f.nonTerrestrial && !f.multiTrp && decide (f.ssbScs ≠ 240)
    && f.prachLens.all (fun l => decide (l = 139) || (decide (l = 839) && !f.fr2))
    && decide (f.prach.format ≤ 12) && (decide (4 ≤ f.prach.format) || !f.fr2)
    && decide (0 < f.pattern.length) && f.pattern.all (fun e => decide (e.1 + e.2 ≤ 14))

-- TLVs (05 R177).

/-- The TLVs of a byte sequence: a 16-bit tag, a 16-bit length, and the value padded to 4 bytes; none where one runs
past the end. -/
def tlvList : Nat → List Byte → Option (List (Nat × List Byte))
  | 0, _ => none
  | f + 1, bs =>
    if bs = [] then some []
    else
      let n := fromLE ((bs.drop 2).take 2)
      if bs.length < 4 + n then none
      else (tlvList f (bs.drop (4 + (n + 3) / 4 * 4))).map (fun t => (fromLE (bs.take 2), (bs.drop 4).take n) :: t)

def tlvsOf (bs : List Byte) : Option (List (Nat × List Byte)) := tlvList (bs.length + 1) bs

/-- The device TLVs by tag; how a value's fields lie in its bytes is not stated. -/
def devTlvs (ts : List (Nat × List Byte)) : DevTlvs :=
  let at' (tag : Nat) : Option (List Nat) := (ts.find? (fun t => decide (t.1 = tag))).map (fun t =>
    Config.tlvFields tag t.2)
  let one (tag : Nat) : Option Nat := (at' tag).map (fun l => l.getD 0 0)
  let two (tag : Nat) : Option (Nat × Nat) := (at' tag).map (fun l => (l.getD 0 0, l.getD 1 0))
  { fhPort := two 0xA000, fhPeer := (at' 0xA001).map (fun l => (l.getD 0 0, l.getD 1 0, l.getD 2 0)),
    compUl := two 0xA002, compDl := two 0xA003, ta4Max := one 0xA004,
    t1aMaxUp := (two 0xA005).map Prod.fst, t1aMinUp := (two 0xA005).map Prod.snd, tcpAdvDl := one 0xA006,
    eqGroup := one 0xA007, nsSteps := one 0xA008, ldpcIter := one 0xA009, harqBytes := one 0xA00A,
    pduMax := at' 0xA00B, frameOffset := one 0xA00C, slotIndLead := one 0xA00D, prachThresh := one 0xA00E,
    uciDtxThresh := one 0xA00F, diePin := one 0xA010 }

/-- The tag of the release TLV. -/
def releaseTag : Nat := 0xA0FF

/-- A CONFIG.request that holds only the release TLV (05 R171). -/
def ConfigBody.isRelease (b : ConfigBody) : Bool :=
  b.fapi.isNone && decide (tlvsOf b.device = some [(releaseTag, [])])

/-- The parameters of a CONFIG.request with every default filled in; none when a required TLV is absent
(05 R177). -/
def resolveCfg (f : FapiCfg) (t : DevTlvs) : Option CellCfg :=
  match t.fhPort, t.fhPeer with
  | some fp, some pe =>
    some { fapi := f, port := fp.1, sub := fp.2, peer := pe.1, vlan := pe.2.1, eaxc := pe.2.2,
           compUl := t.compUl.getD (1, 9), compDl := t.compDl.getD (1, 9),
           ta4Max := t.ta4Max.getD (byScs f.scs 150 100 40),
           t1aMaxUp := t.t1aMaxUp.getD (byScs f.scs 400 250 100),
           t1aMinUp := t.t1aMinUp.getD (byScs f.scs 100 50 25),
           tcpAdvDl := t.tcpAdvDl.getD (byScs f.scs 250 125 50),
           eqGroup := t.eqGroup.getD (if f.massive then 12 else 1), nsSteps := t.nsSteps.getD 10,
           ldpcIter := t.ldpcIter.getD 10, harqBytes := t.harqBytes, pduMax := t.pduMax.getD pduLimits,
           frameOffset := t.frameOffset.getD 0, lead := t.slotIndLead.getD (byScs f.scs 2 3 6),
           prachThresh := t.prachThresh.getD 120, uciDtxThresh := t.uciDtxThresh.getD 60,
           diePin := t.diePin.getD 0xFF }
  | _, _ => none

/-- The parameters that a CONFIG.request asks for; none where it is malformed or mixes a release with others. -/
def ConfigBody.cfg (b : ConfigBody) : Option CellCfg :=
  match b.fapi, tlvsOf b.device with
  | some f, some ts => if ts.any (fun t => decide (t.1 = releaseTag)) then none else resolveCfg f (devTlvs ts)
  | _, _ => none

def within (lo hi v : Nat) : Bool := decide (lo ≤ v) && decide (v ≤ hi)

/-- Every TLV lies in its range (05 R168, R177, R182, R184). -/
def CellCfg.rangesOk (c : CellCfg) : Bool :=
  let s := c.scs
  within 0 7 c.port && within 0 3 c.sub
  && decide (c.compUl.1 ≤ 1) && within 8 16 c.compUl.2
  && (decide (c.compDl.1 ≤ 1) || decide (c.compDl.1 = 4)) && within 8 16 c.compDl.2
  && within (byScs s 50 25 10) (byScs s 300 200 75) c.ta4Max
  && within (byScs s 100 50 25) (byScs s 500 400 200) c.t1aMaxUp
  && within (byScs s 25 25 10) (byScs s 300 200 75) c.t1aMinUp
  && within (byScs s 50 25 10) (byScs s 300 200 100) c.tcpAdvDl
  && decide (c.t1aMinUp < c.t1aMaxUp)
  && decide ((c.t1aMaxUp + c.tcpAdvDl + byScs s 100 100 50) * 1000 ≤ submitLead s)
  && decide (c.eqGroup ∈ [1, 2, 4, 12]) && within 4 16 c.nsSteps && within 1 20 c.ldpcIter
  && decide (c.harqBytes.getD 0 % 1_048_576 = 0)
  && decide (c.pduMax.length = 7)
  && (List.range 7).all (fun i => decide (c.pduMax.getD i 0 ≤ pduLimits.getD i 0))
  && decide (c.frameOffset ≤ 9_999_999) && within 1 8 c.lead && within 0 300 c.prachThresh
  && within 0 200 c.uciDtxThresh && decide (c.diePin ∈ [0, 1, 0xFF])

/-- An enabled allow-list entry matches a destination on a port (12 R417). -/
def State.allows (s : State) (port dst : Nat) (vlan : Option Nat) : Bool :=
  (List.range 1024).any (fun i =>
    let e := aALLOW i
    let w := s.reg (e + 8)
    bitOf w 31 && bitOf w port && decide (s.reg64 e = dst)
      && (match vlan with
          | some v => !(bitOf w 30) && decide (field w 27 16 = v)
          | none => bitOf w 30))

/-- The eAxC IDs of the cell are in range and free (12 R405). -/
def State.eaxcOk (s : State) (cell : Nat) (c : CellCfg) : Bool :=
  decide (c.eaxc + c.streams ≤ 0x1_0000) &&
  !(s.radio.cells.any (fun e => decide (e.1 ≠ cell) && decide (e.2.state ≠ .idle) &&
    (match e.2.cfg with
     | some o => decide (o.port = c.port) && decide (o.sub = c.sub) && decide (o.vlan = c.vlan)
         && decide (o.peer = c.peer) && decide (o.eaxc < c.eaxc + c.streams)
         && decide (c.eaxc < o.eaxc + o.streams)
     | none => false)))

/-- A CONFIG.request that any rule refuses with MSG_INVALID_CONFIG fails here. -/
def State.configOk (s : State) (cell : Nat) (c : CellCfg) : Bool :=
  c.fapi.supported && c.fapi.carrierOk && c.fapi.antennasOk && c.rangesOk
    && decide (c.sub < s.subPorts c.port) && s.eaxcOk cell c && s.allows c.port c.peer (some c.vlan)

/-- Bind a cell to the request ring on which its first CONFIG.request arrives (09 R314). -/
def State.bindCell (s : State) (c n : Nat) : State :=
  let x := s.cell c
  if x.ring.isNone then s.setCell c { x with ring := some n } else s

/-- CONFIG.response (05 R171). -/
def State.configResponse (s : State) (n : Nat) (h : RadioHdr) (code : MsgCode) : State :=
  s.sendInd n ⟨h.cell, 0, 0, h.seq, .config code⟩

/-- Clear the counters of a cell (12 R410). -/
def State.clearCounters (s : State) (c : Nat) : State :=
  (List.range 8).foldl (fun t i => t.setReg (aCELLCNT c + 4 * i) 0) s

/-- The sequence IDs of a cell's eAxC IDs start afresh on its sub-port (12 R431). -/
def State.clearSeqs (s : State) (g : CellCfg) : State :=
  let x := s.sub g.port g.sub
  s.setSub g.port g.sub { x with
    seqs := x.seqs.filter (fun e => decide (e.1 / 2 < g.eaxc) || decide (g.eaxc + g.streams ≤ e.1 / 2)) }

/-- The cell is CONFIGURED on die d with new parameters; leases that its booked price needs are reclaimed
(05 R171, 07 R240). Admitted from IDLE it is bound to the radio islands that count on its die (05 R169, log entry
72), and its sequence IDs and counters start afresh (12 R410, R431). A START that was pending is dropped (log entry 88). -/
def State.admitCell (s : State) (c d : Nat) (cfg : CellCfg) : State :=
  let x := s.cell c
  let t := if x.state = .idle then (s.clearCounters c).clearSeqs cfg else s
  let y : Cell := { Cell.reset with
    state := .configured, die := d, ring := x.ring, cfg := some cfg, price := cfg.prices,
    islands := if x.state = .idle then ((t.radioIslands d []).map (fun i => 2 ^ i)).sum else x.islands
    order := t.radio.nextOrder }
  let u := t.setCell c y
  let v := { u with radio := { u.radio with nextOrder := u.radio.nextOrder + 1 } }
  let late := v.isLate (16 * slotNs cfg.scs)
  v.reclaimFor d 1 (fun k => v.booked d k + v.lentIf d k (fun l => decide (l.stage ≠ .active) && late l))
    (fun l => !(late l))

/-- The die for a CONFIG.request: a CONFIGURED cell keeps the die and the port or sub-port that it is bound to; a die_pin or
fh_port that names another does not fit (05 R169, log entry 72). -/
def State.configDie (s : State) (c : Nat) (cfg : CellCfg) : Option Nat :=
  let x := s.cell c
  if x.state = .idle then s.chooseDie c cfg
  else if decide (cfg.diePin ∈ [x.die, 0xFF]) && decide (x.cfg.map (fun o => (o.port, o.sub)) = some (cfg.port, cfg.sub))
      && s.dieFits x.die c cfg then some x.die
  else none

/-- CONFIG_REQUEST: a CONFIG.request that is no release (05 R165 to R171, R177; 07 R240 to R242). -/
def configRequest (n : Nat) (h : RadioHdr) (body : ConfigBody) (s : State) : State :=
  if body.isRelease then s
  else s.l1Message n h 0x0002 (fun t _ => t.l1Cell n h (fun t =>
    let u := t.bindCell h.cell n
    if (u.cell h.cell).busy then u.configResponse n h .invalidState
    else
      match body.cfg with
      | some cfg =>
        if u.configOk h.cell cfg then
          match u.configDie h.cell cfg with
          | some d => (u.admitCell h.cell d cfg).configResponse n h .ok
          | none => u.configResponse n h .belayRefused
        else u.configResponse n h .invalidConfig
      | none => u.configResponse n h .invalidConfig))

/-- CELL_RELEASE: a CONFIG.request that holds only the release TLV (05 R171). -/
def cellRelease (n : Nat) (h : RadioHdr) (s : State) : State :=
  s.l1Message n h 0x0002 (fun t _ => t.l1Cell n h (fun t =>
    let x := t.cell h.cell
    if x.busy then t.configResponse n h .invalidState
    else (t.setCell h.cell Cell.reset).configResponse n h .ok))

-- START and STOP (05 R170 to R172, 12 R425).

/-- The first slot that begins at least `k` slots from now. -/
def CellCfg.slotAhead (c : CellCfg) (t k : Nat) : Nat :=
  (t - c.frameOffset + slotNs c.scs - 1) / slotNs c.scs + k

/-- START.request: accepted in CONFIGURED with the servo LOCKED; one that comes while another is pending leaves that one's
slot (05 R170, R171, 12 R425, log entry 88). -/
def startRequest (n : Nat) (h : RadioHdr) (s : State) : State :=
  s.l1Message n h 0x0004 (fun t _ => t.l1Cell n h (fun t =>
    let x := t.cell h.cell
    match x.cfg with
    | some g =>
      if x.state = .configured ∧ t.ports.servo.state = .locked then
        t.setCell h.cell { x with startAt := some (x.startAt.getD (g.slotAhead t.clk 16)) }
      else t.sendErr n h .invalidState []
    | none => t.sendErr n h .invalidState []))

/-- CELL_START: the cell is RUNNING from the SLOT.indication of its first slot on. -/
def cellStart (c : Nat) (s : State) : State :=
  let x := s.cell c
  match x.cfg, x.startAt with
  | some g, some m =>
    if s.awake ∧ x.state = .configured ∧ g.air m ≤ s.clk + g.lead * slotNs g.scs then
      s.setCell c { x with state := .running, begun := true, startAt := none, nextInd := m, nextDl := m, slots := [],
                           book := [], stopAt := none, shedAt := none }
    else s
  | _, _ => s

/-- A P7 request has been accepted for the slot. -/
def SlotWork.requested (w : SlotWork) : Bool := w.dl.isSome || w.ul.isSome || !w.ulDci.isEmpty || !w.data.isEmpty

/-- The first slot from the present one on that has no P7 request accepted (05 R171). -/
def Cell.stopSlot (x : Cell) (cur : Nat) : Nat :=
  ((List.range 64).map (· + cur)).find? (fun m => !((x.work m).requested)) |>.getD (cur + 64)

/-- STOP.request. -/
def stopRequest (n : Nat) (h : RadioHdr) (s : State) : State :=
  s.l1Message n h 0x0005 (fun t _ => t.l1Cell n h (fun t =>
    let x := t.cell h.cell
    let m := x.stopSlot (t.curSlot x)
    match x.state, x.shedAt with
    | .running, _ => t.setCell h.cell { x with state := .stopping, stopAt := some m, stopSeq := h.seq }
    | .shedding, some k =>
      if x.cfg.isSome ∧ m < k then t.setCell h.cell { x with stopAt := some m, stopSeq := h.seq } else t
    | _, _ => t.sendErr n h .invalidState []))

/-- STOP_INDICATION: the last slot before the stop slot has met its deadline; the cell is CONFIGURED. -/
def stopIndication (c : Nat) (s : State) : State :=
  let x := s.cell c
  match x.stopAt, x.cfg with
  | some m, some g =>
    let first := match x.state, x.shedAt with
      | .stopping, _ => true
      | .shedding, some k => decide (m < k)
      | _, _ => false
    if s.awake && first && decide (g.slotEnd (m - 1) ≤ s.clk) then
      (s.setCell c { x with state := .configured, begun := false, startAt := none, stopAt := none, shedAt := none, slots := [], book := [],
                            searches := [] }).cellNote c x.stopSeq .stop
    else s
  | _, _ => s

-- P7 requests (05 R170, R176, R178 to R180; 07 R250).

/-- Slots before this one are accepted: the stop slot or shed slot, if the cell has one. -/
def Cell.bound (x : Cell) : Option Nat :=
  match x.stopAt, x.shedAt with
  | some a, some b => some (min a b)
  | some a, none => some a
  | none, b => b

def beforeBound (b : Option Nat) (n : Nat) : Bool :=
  match b with
  | some m => decide (n < m)
  | none => true

/-- A P7 request for a slot: refused in a state that does not accept it, or outside the window, else handled
with its slot and whether it arrived in time. -/
def State.p7 (s : State) (n : Nat) (h : RadioHdr) (arrival : Nat)
    (f : State → Cell → CellCfg → Nat → Bool → State) : State :=
  s.l1Cell n h (fun t =>
    let x := t.cell h.cell
    match x.cfg with
    | none => t.sendErr n h .invalidState []
    | some g =>
      let m := g.resolve t.clk h.sfn h.slot
      if !x.busy || !(beforeBound x.bound m) then t.sendErr n h .invalidState []
      else if g.air (m + 1) ≤ t.clk ∨ g.slotAt t.clk + 20 < m then t.sendErr n h .outOfWindow []
      else f t x g m (decide (arrival + submitLead g.scs ≤ g.air m)))

/-- PRBs that ranges cover. -/
def prbUnion (rs : List (Nat × Nat)) : Nat :=
  ((List.range 276).filter (fun i => rs.any (fun r => inRange r i))).length

/-- The largest sum of layers over the PRBs. -/
def layersOver (rs : List ((Nat × Nat) × Nat)) : Nat :=
  (List.range 276).foldl (fun m i => max m (((rs.filter (fun r => inRange r.1 i)).map Prod.snd).sum)) 0

/-- Modulation codes of a booking: 1 QPSK to 5 1024QAM (07 R247). -/
def qmCode (qm : Nat) : Nat := qm / 2

/-- The quantities that the requests of a slot ask for. -/
def SlotWork.quant (w : SlotWork) : Quant :=
  let dl := w.dlPdus
  let ul := w.ulPdus
  let nd (k : DlKind) : Nat := (dl.filter (fun p => decide (p.kind = k))).length
  let nu (k : UlKind) : Nat := (ul.filter (fun p => decide (p.kind = k))).length
  let ds := dl.filter (fun p => decide (p.kind = .pdsch))
  let us := ul.filter (fun p => decide (p.kind = .pusch))
  { dlPrb := prbUnion (ds.map (fun p => p.prb)), ulPrb := prbUnion (us.map (fun p => p.prb)),
    dlLayers := layersOver (ds.map (fun p => (p.prb, p.layers))),
    ulLayers := layersOver (us.map (fun p => (p.prb, p.layers))),
    dlQm := (ds.map (fun p => qmCode p.qm)).foldl max 0, ulQm := (us.map (fun p => qmCode p.qm)).foldl max 0,
    pdcch := nd .pdcch, pdsch := nd .pdsch, pusch := nu .pusch, pucch := nu .pucch, srs := nu .srs,
    prach := nu .prach, csirs := nd .csirs }

/-- No quantity exceeds a limit. -/
def Quant.fits (q lim : Quant) : Bool := (q.list.zip lim.list).all (fun e => decide (e.1 ≤ e.2))

/-- The PDU counts that a cell's declaration limits (05 R168). -/
def Quant.counts (q : Quant) : List Nat := [q.pdcch, q.pdsch, q.csirs, q.pusch, q.pucch, q.srs, q.prach]

/-- The slot's requests stay within the declared maxima and the slot's booking (05 R168, 07 R250). -/
def Cell.allowsWork (x : Cell) (g : CellCfg) (w : SlotWork) : Bool :=
  (List.range 7).all (fun i => decide (w.quant.counts.getD i 0 ≤ g.pduMax.getD i 0))
    && (match x.bookingAt w.slot with
        | some b => w.quant.fits b.q
        | none => true)

/-- The work with a request in it takes the place of the slot's, or the request is refused whole. -/
def State.takeWork (s : State) (n : Nat) (h : RadioHdr) (x : Cell) (g : CellCfg) (w : SlotWork) : State :=
  if x.allowsWork g w then s.setCell h.cell (x.setWork w) else s.sendErr n h .pduOverDeclared []

/-- DL_TTI.request. Late: the slot's downlink is not processed, and nothing of it is sent (05 R180). -/
def State.lateDl (s : State) (n : Nat) (h : RadioHdr) (x : Cell) (m : Nat) : State :=
  ((s.setCell h.cell (x.setWork { x.work m with lateDl := true })).dropFrames (fun f => f.ofDl h.cell m)).sendErr n h
    .late []

def dlTtiRequest (n : Nat) (h : RadioHdr) (pdus : List DlPdu) (s : State) : State :=
  s.l1Message n h 0x0080 (fun t arrival => t.p7 n h arrival (fun t x g m ok =>
    if ok then
      let w := x.work m
      t.takeWork n h x g { w with dl := some (w.dl.getD [] ++ pdus), dlSeq := h.seq }
    else t.lateDl n h x m))

/-- UL_DCI.request: DCIs of the slot's downlink. -/
def ulDciRequest (n : Nat) (h : RadioHdr) (pdus : List DlPdu) (s : State) : State :=
  s.l1Message n h 0x0083 (fun t arrival => t.p7 n h arrival (fun t x g m ok =>
    if ok then
      let w := x.work m
      t.takeWork n h x g { w with ulDci := w.ulDci ++ pdus, dlSeq := h.seq }
    else t.lateDl n h x m))

/-- UL_TTI.request. Late: no uplink C-plane of the slot is sent, queued frames of it included, and no uplink of it
processed (05 R180). -/
def ulTtiRequest (n : Nat) (h : RadioHdr) (pdus : List UlPdu) (s : State) : State :=
  s.l1Message n h 0x0081 (fun t arrival => t.p7 n h arrival (fun t x g m ok =>
    let w := x.work m
    if ok then t.takeWork n h x g { w with ul := some (w.ul.getD [] ++ pdus), ulSeq := h.seq }
    else ((t.setCell h.cell (x.setWork { w with lateUl := true })).dropFrames (fun f => f.ofUl h.cell m)).sendErr n h
      .late []))

/-- TX_DATA.request: payloads inline or from the physical function's windows; late data is listed in
TX_DATA_LATE (05 R176, R180). -/
def txDataRequest (n : Nat) (h : RadioHdr) (ps : List TxPayload) (s : State) : State :=
  s.l1Message n h 0x0084 (fun t arrival => t.p7 n h arrival (fun t x _ m ok =>
    let w := x.work m
    let good := ps.all (fun p =>
      (decide (p.tag = 0) && decide (p.bytes.length ≤ 8192))
        || (decide (p.tag = 1) && t.windowOk 0x7F p.addr p.bytes.length))
    if !good then t.sendErr n h .invalid []
    else if ok then
      t.setCell h.cell (x.setWork { w with data := w.data ++ ps.map (fun p => (p.index, p.bytes)) })
    else if w.dl.isSome && !w.lateDl then t.sendErr n h .txDataLate (ps.map (fun p => p.index))
    else t.sendErr n h .late []))

-- Forward booking (07 R247 to R250).

/-- What a cell is priced at for one slot in class `k` (07 R248). -/
def Cell.slotPrice (x : Cell) (n k : Nat) : Nat :=
  match x.cfg, x.bookingAt n with
  | some c, some b => c.priceAt b.q k
  | _, _ => x.price.bu.getD k 0

/-- The first slot that a booking entry raises against the cell as it was: one at which the booking in effect
changes, of those that the entry covers (07 R249). -/
def Cell.firstRaised (y x : Cell) (first : Nat) (stop : Option Nat) : Nat :=
  let slots := (y.bookSlots first).filter (fun n => decide (first ≤ n) && beforeBound stop n
    && (List.range 7).any (fun k => decide (x.slotPrice n k < y.slotPrice n k)))
  match slots with
  | [] => first
  | n :: t => t.foldl min n

/-- The controller's decision on an entry: the code of its refusal, or the state with the booking in it. An entry
is held to the classes in which it raises the booked price (07 R249). -/
def State.decideBooking (s : State) (c : Nat) (x : Cell) (g : CellCfg) (e : BookEntry) : MsgCode × State :=
  let first := g.resolve s.clk e.sfn e.slot
  let cur := g.slotAt s.clk
  if !(beforeBound x.bound first) then (.invalidState, s)
  else if first < cur + 8 then (.late, s)
  else if cur + 20 < first then (.outOfWindow, s)
  else if !(e.q.fits g.full) then (.pduOverDeclared, s)
  else
    let stop0 := if e.rep = 0x7FFF then none else some (first + 1 + e.rep)
    let stop := match stop0, x.bound with
      | some a, some b => some (min a b)
      | some a, none => some a
      | none, b => b
    let d := x.die
    let y := { x with book := x.book ++ [⟨first, stop, e.q⟩] }
    let t := s.setCell c y
    let raised := (List.range 7).filter (fun k => decide (x.bookedPrice cur k < y.bookedPrice cur k))
    if raised.all (fun k => decide (t.booked d k + t.lent d k ≤ t.cap d k [])) then (.ok, t)
    else
      let ahead := g.air (y.firstRaised x first stop) - submitLead g.scs - s.clk
      let inTime (u : State) (l : Lease) : Bool := decide (u.noticeEnd l + 100_000 ≤ u.now + ahead)
      let u := t.reclaimFor d 0 (fun k => if k ∈ raised then t.booked d k + t.lentIf d k (fun l =>
        decide (l.stage ≠ .active) && !(inTime t l)) else 0) (inTime t)
      let kept (l : Lease) : Bool := decide (l.stage = .active) || !(inTime u l)
      if raised.all (fun k => decide (u.booked d k + u.lentIf d k kept ≤ u.cap d k [])) then (.ok, u)
      else (.belayRefused, s)

/-- The entries of a request, in order: each is decided on its own. -/
def State.bookEntries (n : Nat) (h : RadioHdr) : List BookEntry → State → State
  | [], s => s
  | e :: es, s =>
    let x := s.cell h.cell
    match x.cfg with
    | none => s
    | some g =>
      let r := s.decideBooking h.cell x g e
      State.bookEntries n h es (if r.1 = .ok then r.2
        else r.2.sendInd n ⟨h.cell, e.sfn, e.slot, h.seq, .error h.msgId r.1 []⟩)

/-- The entry that four words spell (07 R247). -/
def bookEntry (ws : List W32) : BookEntry :=
  { sfn := wfield ws 0 9 0, slot := wfield ws 0 16 10, rep := wfield ws 0 31 17,
    q := { dlPrb := wfield ws 1 8 0, ulPrb := wfield ws 1 17 9, dlLayers := wfield ws 1 22 18,
           ulLayers := wfield ws 1 26 23, dlQm := wfield ws 1 29 27, ulQm := wfield ws 2 2 0, pdcch := wfield ws 2 9 3,
           pdsch := wfield ws 2 15 10, pusch := wfield ws 2 21 16, pucch := wfield ws 2 29 22, srs := wfield ws 3 6 0,
           prach := wfield ws 3 10 7, csirs := wfield ws 3 16 11 } }

/-- The entries of a SLOT_BOOK body: a count word of 1 to 64, then 16 bytes an entry; none where the count does not
match or a reserved bit is set (07 R247, log entry 73). -/
def bookBody (ws : List W32) : Option (List BookEntry) :=
  let n := wfield ws 0 6 0
  let at' (i : Nat) : List W32 := (ws.drop (1 + 4 * i)).take 4
  if 1 ≤ n ∧ n ≤ 64 ∧ wfield ws 0 31 7 = 0 ∧ ws.length = 1 + 4 * n
      ∧ (List.range n).all (fun i => decide (wfield (at' i) 1 31 30 = 0) && decide (wfield (at' i) 2 31 30 = 0)
        && decide (wfield (at' i) 3 31 17 = 0)) then
    some ((List.range n).map (fun i => bookEntry (at' i)))
  else none

/-- SLOT_BOOK.request, with the words of its body. -/
def slotBookRequest (n : Nat) (h : RadioHdr) (ws : List W32) (s : State) : State :=
  s.l1Message n h 0x00C0 (fun t _ => t.l1Cell n h (fun t =>
    if (t.cell h.cell).busy then
      match bookBody ws with
      | some es => State.bookEntries n h es t
      | none => t.sendErr n h .invalid []
    else t.sendErr n h .invalidState []))

-- SSB search (05 R195).

/-- SSB_SEARCH.request: the sub-carrier offset, slots to search and identities of the request. -/
def ssbSearchRequest (n : Nat) (h : RadioHdr) (offset count : Nat) (pcis : List Nat) (s : State) : State :=
  s.l1Message n h 0x00C3 (fun t _ => t.l1Cell n h (fun t =>
    let x := t.cell h.cell
    match x.state, x.cfg with
    | .running, some g =>
      let m := g.resolve t.clk h.sfn h.slot
      if g.air (m + 1) ≤ t.clk ∨ g.slotAt t.clk + 20 < m then t.sendErr n h .outOfWindow []
      else if count = 0 ∨ 40 < count ∨ 8 < pcis.length ∨ 12 * g.fapi.grid ≤ offset then t.sendErr n h .invalid []
      else
        let q : SsbSearch := ⟨offset, m, count, pcis, h.seq, []⟩
        let u := t.setCell h.cell { x with searches := x.searches ++ [q] }
        if (List.range 7).all (fun k => decide (u.booked x.die k = t.booked x.die k)
            || decide (u.booked x.die k + u.lent x.die k ≤ u.cap x.die k [])) then u
        else t.sendErr n h .belayRefused []
    | _, _ => t.sendErr n h .invalidState []))

/-- The detections of a search in the samples captured, of the identities that it names, at most 32 (05 R195). -/
def SsbSearch.hits (q : SsbSearch) (g : CellCfg) : List SsbHit :=
  ((Config.ssbDetect (q.offset :: g.key) q.iq).filter (fun e =>
    if q.pcis = [] then decide (e.1 < 1008) else decide (e.1 ∈ q.pcis))).take 32 |>.map (fun e =>
      ⟨e.1, e.2.1, e.2.2.1, signedOf 16 (wrapOf 16 e.2.2.2)⟩)

/-- SSB_SEARCH.indication: the oldest search's last slot has ended; it is written even when it lists no detection
(05 R195). -/
def ssbSearchIndication (c : Nat) (s : State) : State :=
  let x := s.cell c
  match x.searches, x.cfg with
  | q :: rest, some g =>
    if s.awake ∧ g.air (q.first + q.count) ≤ s.clk then
      (s.setCell c { x with searches := rest }).cellInd c q.first q.seq (.ssb (q.hits g))
    else s
  | _, _ => s

-- The meanings.

def execParamRequest (n : Nat) (h : RadioHdr) (s : State) : Done := .next (paramRequest n h s)
def execConfigRequest (n : Nat) (h : RadioHdr) (body : ConfigBody) (s : State) : Done :=
  .next (configRequest n h body s)
def execCellRelease (n : Nat) (h : RadioHdr) (s : State) : Done := .next (cellRelease n h s)
def execStartRequest (n : Nat) (h : RadioHdr) (s : State) : Done := .next (startRequest n h s)
def execCellStart (c : Nat) (s : State) : Done := .next (cellStart c s)
def execStopRequest (n : Nat) (h : RadioHdr) (s : State) : Done := .next (stopRequest n h s)
def execStopIndication (c : Nat) (s : State) : Done := .next (stopIndication c s)
def execDlTtiRequest (n : Nat) (h : RadioHdr) (pdus : List DlPdu) (s : State) : Done :=
  .next (dlTtiRequest n h pdus s)
def execUlTtiRequest (n : Nat) (h : RadioHdr) (pdus : List UlPdu) (s : State) : Done :=
  .next (ulTtiRequest n h pdus s)
def execUlDciRequest (n : Nat) (h : RadioHdr) (pdus : List DlPdu) (s : State) : Done :=
  .next (ulDciRequest n h pdus s)
def execTxDataRequest (n : Nat) (h : RadioHdr) (ps : List TxPayload) (s : State) : Done :=
  .next (txDataRequest n h ps s)
def execSlotBookRequest (n : Nat) (h : RadioHdr) (ws : List W32) (s : State) : Done :=
  .next (slotBookRequest n h ws s)
def execSsbSearchRequest (n : Nat) (h : RadioHdr) (offset count : Nat) (pcis : List Nat) (s : State) : Done :=
  .next (ssbSearchRequest n h offset count pcis s)
def execSsbSearchIndication (c : Nat) (s : State) : Done := .next (ssbSearchIndication c s)

end Sys2Proof.Machine
end

