-- ==== Sys2Proof/Machine/Fronthaul.lean ====
section
/-! DEFINITION. The fronthaul messages that the device sends (12 R401, R404 to R406): eCPRI, and the sections of C-plane
and U-plane in the bit layout of the O-RAN control, user and synchronisation plane specification (log entry 89). -/

namespace Sys2Proof.Machine

/-- The MAC address of a sub-port (12 R401). -/
def State.subMac (s : State) (n sub : Nat) : Nat := (s.reg64 (aPORTn n + 8) % 2 ^ 48 + sub) % 2 ^ 48

/-- PORT_PTP_LAT of a port in its mode (12 R402), and the latencies that refer its timestamps to the lands, in ps: tx_lat,
rx_lat (12 R423). -/
def State.ptpLat (s : State) (n : Nat) : W32 := s.fuses.ptpLat.getD (3 * n + s.rf (aPORTn n) 2 1) 0
def State.txLat (s : State) (n : Nat) : Int := (100 * field (s.ptpLat n) 31 16 : Nat)
def State.rxLat (s : State) (n : Nat) : Int := (100 * field (s.ptpLat n) 15 0 : Nat)

/-- The egress timestamp of a frame that starts now, and the ingress timestamp of one that arrives now with a lane skew, in
ps at the lands (12 R423). -/
def State.egressPs (s : State) (n : Nat) : Int := 1000 * (s.clk : Int) + s.txLat n
def State.ingressPs (s : State) (f : RxFrame) : Int := 1000 * (s.clk : Int) - s.rxLat f.port - f.skew
/-- A timestamp in ns. -/
def psToNs (t : Int) : Nat := (t / 1000).toNat

/-- A capture unit records a local time, once (12 R428). -/
def State.captured (s : State) (u t : Nat) : State :=
  let v := ((s.setReg (aCAP u) (lo32 (t % 1_000_000_000))).setReg (aCAP u + 4) (lo32 (t / 1_000_000_000))).setRbit
    (aCAP u + 8) 31 true
  { v with ports := { v.ports with armed := v.ports.armed.filter (fun e => decide (e.1 ≠ u)) } }

/-- An event of a source at a cell's slot, at a local time: the armed units that wait for it record it (12 R428). -/
def State.capture (s : State) (src c n t : Nat) : State :=
  s.ports.armed.foldl (fun u e =>
    if u.rf (aCAP e.1 + 8) 3 1 = src ∧ u.rf (aCAP e.1 + 8) 24 16 = c ∧ e.2 ≤ n then u.captured e.1 t else u) s

/-- A byte. -/
def byte8 (n : Nat) : Byte := BitVec.ofNat 8 n

/-- An eCPRI message with its EtherType (12 R404): revision 1, C = 0, the type, the bytes that follow the common header,
the eAxC ID, the sequence ID with E = 1 and subsequence ID 0; a short body is filled to the shortest frame. -/
def ecpriBytes (type' eaxc seq : Nat) (body : List Byte) : List Byte :=
  let b := body ++ List.replicate (34 - body.length) 0
  [0xAE, 0xFE, 0x10, byte8 type'] ++ beBytes 2 (4 + b.length) ++ beBytes 2 eaxc ++ [byte8 seq, 0x80] ++ b

/-- Bytes of a tagged frame from destination address through FCS, by its EtherType and what follows. -/
def taggedLen (data : List Byte) : Nat := data.length + 20

/-- The header that names direction, filter and symbol: frameId is SFN mod 256 (12 R405, R408). -/
def appHeader (g : CellCfg) (n k filter : Nat) (ul : Bool) : List Byte :=
  let per := slotsPerFrame g.scs / 10
  byte8 ((if ul then 0 else 128) + 16 + filter) :: byte8 (n / slotsPerFrame g.scs)
    :: beBytes 2 (n % slotsPerFrame g.scs / per * 2 ^ 12 + n % per * 2 ^ 6 + k)

/-- udCompHdr: mantissa width mod 16 and method (12 R406). -/
def compHdr (m : Comp) : Byte := byte8 (m.2 % 16 * 16 + m.1)

/-- Section number, first PRB and PRBs; 0 for more than 255 (12 R406). -/
def sectionHead (id : Nat) (r : Nat × Nat) : List Byte :=
  beBytes 4 (id % 2 ^ 12 * 2 ^ 20 + r.1 * 2 ^ 8 + (if 255 < r.2 then 0 else r.2))

/-- A run of PRBs cut into sections: one of more than 255 PRBs only where it is the whole carrier and not above `most`
(12 R406). -/
def sectionRuns (grid most : Nat) : Nat → Nat → Nat → List (Nat × Nat)
  | 0, _, _ => []
  | fuel + 1, first, n =>
    if n = 0 then []
    else if n ≤ most ∧ (n ≤ 255 ∨ (first = 0 ∧ n = grid)) then [(first, n)]
    else
      let k := min n (min 255 most)
      (first, k) :: sectionRuns grid most fuel (first + k) (n - k)

/-- Extensions of a C-plane section, each a type and what follows its length, filled to words of 4 bytes. -/
def extBytes : List (Nat × List Byte) → List Byte
  | [] => []
  | e :: t =>
    let b := e.2 ++ List.replicate ((4 - (2 + e.2.length) % 4) % 4) 0
    byte8 (e.1 + (if t = [] then 0 else 128)) :: byte8 ((2 + b.length) / 4) :: (b ++ extBytes t)

/-- A section of a C-plane message: PRBs, beam index, the fields of section type 3 behind them, and extensions (12 R405). -/
structure CSection where
  prb : Nat × Nat
  beam : Nat
  more : List Byte
  exts : List (Nat × List Byte)
  deriving DecidableEq, Repr

/-- A section for one symbol. -/
def CSection.bytes (c : CSection) (id : Nat) : List Byte :=
  sectionHead id c.prb ++ beBytes 2 (0xFFF * 16 + 1)
    ++ beBytes 2 ((if c.exts = [] then 0 else 2 ^ 15) + c.beam % 2 ^ 15) ++ c.more ++ extBytes c.exts

/-- What a C-plane of one symbol and section type says: the symbol, filterIndex, the fields of the header behind the section
type, and its sections. -/
structure CMsg where
  sym : Nat
  filter : Nat
  head : List Byte
  sections : List CSection
  deriving DecidableEq, Repr

/-- Sections shared out over frames: at most 16, and at most so many bytes, to a frame (12 R406). -/
def packSections (limit : Nat) : List (List Byte) → List (List Byte) → List (List (List Byte))
  | [], cur => if cur = [] then [] else [cur]
  | x :: t, cur =>
    if cur.length < 16 ∧ (cur.map List.length).sum + x.length ≤ limit then packSections limit t (cur ++ [x])
    else if cur = [] then packSections limit t [x] else cur :: packSections limit t [x]

/-- The bodies of the frames of a C-plane message (12 R404 to R406): section type 3 for PRACH, else 1. -/
def CMsg.bodies (m : CMsg) (g : CellCfg) (n : Nat) (ul : Bool) : List (List Byte) :=
  let top := appHeader g n m.sym m.filter ul
  (packSections (9216 - 18 - 8 - top.length - 2 - m.head.length - 4) ((m.sections.zipIdx).map (fun e => e.1.bytes e.2)) []).map
    (fun ps => top ++ byte8 ps.length :: byte8 (if m.filter = 0 then 1 else 3) :: m.head ++ ps.flatten)

end Sys2Proof.Machine
end

