-- ==== Sys2Proof/Machine/VdeOps.lean ====
section
/-! DEFINITION. The operations of the vector DSP engine: lane forms and their arithmetic (06 R199 to
R201), address generators (06 R214, R215), and the effect of each of the 41 ops (06 R209 to R213). -/

namespace Sys2Proof.Machine

-- Fields of an op (06 R203).

abbrev VOp := W32 × W32

def voOp (o : VOp) : Nat := field o.1 7 0
def voFmt (o : VOp) : Nat := field o.1 11 8
def voCplx (o : VOp) : Bool := bitOf o.1 12
def voConjA (o : VOp) : Bool := bitOf o.1 13
def voConjB (o : VOp) : Bool := bitOf o.1 14
def voNeg (o : VOp) : Bool := bitOf o.1 15
def voD (o : VOp) : Nat := field o.1 19 16
def voA (o : VOp) : Nat := field o.1 23 20
def voB (o : VOp) : Nat := field o.1 27 24
def voG (o : VOp) : Nat := field o.1 29 28
def voImm (o : VOp) : Nat := field o.2 15 0
def voAux (o : VOp) : Nat := field o.2 23 16
def voHb (o : VOp) : Bool := bitOf o.2 24

/-- A lane form: format code and whether FP32 is a complex pair (06 R199). -/
structure Form where
  fmt : Nat
  pair : Bool
  deriving DecidableEq, Repr

def voForm (o : VOp) : Form := ⟨voFmt o, voCplx o⟩

/-- Bits of a lane that a form uses. -/
def Form.bits (f : Form) : Nat :=
  match f.fmt with
  | 0 | 2 => 64
  | 3 => 16
  | 12 => if f.pair then 64 else 32
  | _ => 32

/-- The form holds a complex value. -/
def Form.complex (f : Form) : Bool := decide (f.fmt ∈ [13, 14]) || (decide (f.fmt = 12) && f.pair)
/-- The form holds integers. -/
def Form.int (f : Form) : Bool := decide (f.fmt ∈ [2, 3, 4, 13])

/-- Bits of an integer component. -/
def Form.intBits (f : Form) : Nat := if f.fmt = 4 then 32 else 16

/-- A lane with only the bits of its form. -/
def Form.cut (f : Form) (x : W64) : W64 := BitVec.ofNat 64 (x.toNat % 2 ^ f.bits)

/-- The value of a lane in a form. -/
def Form.read (f : Form) (x : W64) : Elem :=
  let n := x.toNat
  match f.fmt with
  | 3 => ⟨.ofInt (signedOf 16 n), .zero⟩
  | 4 => ⟨.ofInt (signedOf 32 n), .zero⟩
  | 12 => if f.pair then ⟨f32 (n % 2 ^ 32), f32 (n / 2 ^ 32)⟩ else ⟨f32 (n % 2 ^ 32), .zero⟩
  | 13 => decodeElem 13 (n % 2 ^ 32)
  | 14 => decodeElem 14 (n % 2 ^ 32)
  | _ => .zero

/-- A lane with its count of saturations and of NaNs. -/
structure LaneOut where
  lane : W64
  sat : Nat
  nan : Nat
  deriving DecidableEq, Repr

/-- Place two components of `w` bits in a lane. -/
def lane2 (w lo hi : Nat) : W64 := BitVec.ofNat 64 (lo % 2 ^ w + hi % 2 ^ w * 2 ^ w)

def LaneOut.of (w : Nat) (a b : Stored) (complex : Bool) : LaneOut :=
  let n (x : Bool) : Nat := if x then 1 else 0
  if complex then ⟨lane2 w a.bits b.bits, n a.sat + n b.sat, n a.nan + n b.nan⟩
  else ⟨BitVec.ofNat 64 a.bits, n a.sat, n a.nan⟩

/-- A float component as the arithmetic leaves it; a NaN is counted. -/
def floatBits (l : FFmt) (v : FVal) : Stored := ⟨l.encode (l.arith v), false, v.isNan⟩

/-- Write a value to a lane in a form: integers round to even and saturate, floats round to nearest even
(06 R200). -/
def Form.write (f : Form) (e : Elem) : LaneOut :=
  match f.fmt with
  | 3 => .of 16 (intStore 16 .near e.re) (intStore 16 .near e.re) false
  | 4 => .of 32 (intStore 32 .near e.re) (intStore 32 .near e.re) false
  | 12 => .of 32 (floatBits fp32 e.re) (floatBits fp32 e.im) f.pair
  | 13 => .of 16 (intStore 16 .near e.re) (intStore 16 .near e.im) true
  | 14 => .of 16 (floatBits fp16 e.re) (floatBits fp16 e.im) true
  | _ => ⟨0, 0, 0⟩

-- Address generators (06 R214, R215).

def Ag.loc (g : Ag) : Nat := wfield g.cfg 0 3 0
def Ag.mode (g : Ag) : Nat := wfield g.cfg 0 5 4
def Ag.esize (g : Ag) : Nat := 2 ^ wfield g.cfg 0 7 6
def Ag.rbits (g : Ag) : Nat := wfield g.cfg 0 11 8
def Ag.base (g : Ag) : Nat := (wordAt g.cfg 1).toNat
def Ag.laneStep (g : Ag) : Int := signedOf 16 (wfield g.cfg 2 15 0)
def Ag.step (g : Ag) : Int := signedOf 16 (wfield g.cfg 2 31 16)
def Ag.modlen (g : Ag) : Nat := wfield g.cfg 3 23 0

/-- The low `n` bits of a number reversed. -/
def revBits : Nat → Nat → Nat
  | 0, _ => 0
  | n + 1, v => (if v.testBit 0 then 2 ^ n else 0) + revBits n (v / 2)

/-- The element number of x in the generator's mode. -/
def Ag.elemNo (g : Ag) (x : Int) : Int :=
  match g.mode with
  | 1 => x % (g.modlen : Int)
  | 2 =>
    let low := wrapOf g.rbits x
    x - low + revBits g.rbits low
  | _ => x

/-- The byte offset of element number e: outside when negative. -/
def Ag.addr (g : Ag) (e : Int) : Option Nat :=
  let a : Int := g.base + e * g.esize
  if a < 0 then none else some a.toNat

/-- x_i, in signed 32-bit arithmetic. -/
def Ag.x (g : Ag) (i : Nat) : Int := signedOf 32 (wrapOf 32 (g.j + i * g.laneStep))

/-- Lane address i. -/
def Ag.lane (g : Ag) (i : Nat) : Option Nat := g.addr (g.elemNo (g.x i))

/-- The generator after an access. -/
def Ag.advance (g : Ag) : Ag :=
  let j := g.j + g.step
  { g with j := if g.mode = 1 then j % (g.modlen : Int) else signedOf 32 (wrapOf 32 j) }

-- What an op sees and does.

/-- What an op sees: the machine, its engine as registers stand at its issue, where it runs, and its
words. -/
structure VIn where
  s : State
  x : Site
  e : Vde
  o : VOp
  deriving Repr

/-- How issue goes on after an op. -/
inductive VCtl where
  | next
  /-- a loop opens at a level with a count over a number of ops -/
  | loop (level count body : Nat)
  /-- the op takes so many slots -/
  | slots (n : Nat)
  | fence
  | brk
  deriving DecidableEq, Repr

/-- What an op does: writes with their latencies, stores to locations, generators after it, counts, and
how issue goes on. -/
structure VEff where
  writes : List (Nat × VWrite) := []
  stores : List (Nat × Nat × List Byte) := []
  ags : List Ag
  sat : Nat := 0
  nan : Nat := 0
  bytes : Nat := 0
  ctl : VCtl := .next
  /-- what it read: location, offset, length -/
  reads : List (Nat × Nat × Nat) := []
  deriving DecidableEq, Repr

/-- The outcome of an op: its effect, a failure of the list, or a read that cannot be delivered. -/
inductive VRes where
  | ok (f : VEff)
  | fail (r : Result)
  | ue (m : Media)
  deriving DecidableEq, Repr

def VIn.vec (i : VIn) (n : Nat) : List W64 := i.e.v.getD n []
def VIn.va (i : VIn) : List W64 := i.vec (voA i.o)
def VIn.vb (i : VIn) : List W64 := i.vec (voB i.o)
def VIn.sa (i : VIn) : W64 := i.e.s.getD (voA i.o) 0
def VIn.sb (i : VIn) : W64 := i.e.s.getD (voB i.o) 0
def VIn.sd (i : VIn) : W64 := i.e.s.getD (voD i.o) 0
def VIn.agOf (i : VIn) (n : Nat) : Ag := i.e.ag.getD n Ag.reset
def VIn.ag (i : VIn) : Ag := i.agOf (voG i.o)
def VIn.form (i : VIn) : Form := voForm i.o

/-- Generators with those of the op advanced. -/
def VIn.advanced (i : VIn) : List Ag := i.e.ag.set (voG i.o) i.ag.advance

/-- An effect that writes lanes to V d with a latency. -/
def VIn.lanes (i : VIn) (lat : Nat) (l : List LaneOut) : VRes :=
  .ok { writes := [(lat, .vec (voD i.o) (l.map LaneOut.lane))], ags := i.e.ag,
        sat := (l.map LaneOut.sat).sum, nan := (l.map LaneOut.nan).sum }

/-- An effect that writes lanes without counts. -/
def VIn.raw (i : VIn) (lat : Nat) (l : List W64) : VRes :=
  .ok { writes := [(lat, .vec (voD i.o) l)], ags := i.e.ag }

/-- An effect that writes S d. -/
def VIn.scalar (i : VIn) (lat : Nat) (v : W64) (more : List (Nat × VWrite) := []) (sat : Nat := 0) : VRes :=
  .ok { writes := (lat, .scal (voD i.o) v) :: more, ags := i.e.ag, sat := sat }

/-- ACCESS_FAULT of an access that no address reaches or the issuer may not make. -/
def accessFail (loc off : Nat) : VRes := .fail (Result.access off loc)

/-- An op has read ranges of a location. -/
def VRes.read (r : VRes) (loc : Nat) (l : List (Option Nat × Nat)) : VRes :=
  match r with
  | .ok f => .ok { f with reads := l.map (fun p => (loc, p.1.getD 0, p.2)) ++ f.reads }
  | e => e

/-- Check reads of (offset, length) at a location: the first failure, else go on. -/
def VIn.reading (i : VIn) (loc : Nat) (l : List (Option Nat × Nat)) (k : Unit → VRes) : VRes :=
  match l.findSome? (fun p =>
    match p.1 with
    | none => some (accessFail loc 0)
    | some o =>
      match i.s.verdict i.x loc o p.2 with
      | .bad => some (accessFail loc o)
      | .fault a => some (accessFail loc a)
      | .ok => (i.s.locUe i.x loc o p.2).map VRes.ue) with
  | some r => r
  | none => (k ()).read loc l

/-- Check writes of (offset, bytes) at a location: outside, protected, or part of an uncorrectable
block. -/
def VIn.writing (i : VIn) (loc : Nat) (l : List (Option Nat × List Byte)) (k : Unit → VRes) : VRes :=
  match l.findSome? (fun p =>
    match p.1 with
    | none => some (accessFail loc 0)
    | some o =>
      match i.s.verdict i.x loc o p.2.length with
      | .bad => some (accessFail loc o)
      | .fault a => some (accessFail loc a)
      | .ok =>
        if loc ≤ 7 then
          let a := i.x.bases.getD loc 0 + o
          if i.s.issuerProtected i.x.issuer a p.2 then some (accessFail loc a)
          else (i.s.issuerUeWrite i.x.issuer a p.2.length).map (fun b => VRes.ue (.block b))
        else none) with
  | some r => r
  | none => k ()

def laneOfBytes (bs : List Byte) : W64 := BitVec.ofNat 64 (fromLE bs)

/-- Lane numbers. -/
def laneIdx : List Nat := List.range 32

-- Loads and stores.

/-- LDV. -/
def vLdv (i : VIn) : VRes :=
  let g := i.ag
  i.reading g.loc (laneIdx.map (fun k => (g.lane k, g.esize))) (fun _ =>
    let l := laneIdx.map (fun k =>
      i.form.cut (laneOfBytes (i.s.locRead i.x g.loc ((g.lane k).getD 0) g.esize)))
    .ok { writes := [(8, .vec (voD i.o) l)], ags := i.advanced, bytes := stackCost g.loc (32 * g.esize) })

/-- STV. -/
def vStv (i : VIn) : VRes :=
  let g := i.ag
  let l := laneIdx.map (fun k => (g.lane k, leBytes g.esize (i.form.cut (i.va.getD k 0)).toNat))
  i.writing g.loc l (fun _ =>
    .ok { stores := l.map (fun p => (g.loc, p.1.getD 0, p.2)), ags := i.advanced,
          bytes := stackCost g.loc (32 * g.esize) })

/-- LDX: indexed by the lanes of V a, as INT32. -/
def vLdx (i : VIn) : VRes :=
  let g := i.ag
  let at' (k : Nat) : Option Nat := g.addr (signedOf 32 (i.va.getD k 0).toNat)
  i.reading g.loc (laneIdx.map (fun k => (at' k, g.esize))) (fun _ =>
    let l := laneIdx.map (fun k =>
      i.form.cut (laneOfBytes (i.s.locRead i.x g.loc ((at' k).getD 0) g.esize)))
    .ok { writes := [(10, .vec (voD i.o) l)], ags := i.e.ag, bytes := stackCost g.loc (32 * g.esize) })

/-- STS. -/
def vSts (i : VIn) : VRes :=
  let g := i.ag
  let l := [(g.lane 0, leBytes 8 i.sa.toNat)]
  i.writing g.loc l (fun _ =>
    .ok { stores := l.map (fun p => (g.loc, p.1.getD 0, p.2)), ags := i.advanced,
          bytes := stackCost g.loc 8 })

/-- Two components as a CI16 lane. -/
def ciLane (re im : Int) : W64 := lane2 16 (wrapOf 16 re) (wrapOf 16 im)

/-- EXPB: eight BFP blocks into three registers. -/
def vExpb (i : VIn) : VRes :=
  let g := i.ag
  let w := voAux i.o
  let n := bfpBytes w
  i.reading g.loc [(g.lane 0, 8 * n)] (fun _ =>
    let bs := i.s.locRead i.x g.loc ((g.lane 0).getD 0) (8 * n)
    let blocks := (List.range 8).map (fun k => bfpExpand w ((bs.drop (k * n)).take n))
    let cs := blocks.flatMap (fun b => b.1)
    let lane (k : Nat) : W64 := ciLane (cs.getD (2 * k) 0) (cs.getD (2 * k + 1) 0)
    let reg (r : Nat) : Nat × VWrite := (10, .vec (voD i.o + r) (laneIdx.map (fun k => lane (32 * r + k))))
    .ok { writes := [reg 0, reg 1, reg 2], ags := i.advanced, sat := (blocks.map Prod.snd).sum,
          bytes := stackCost g.loc (8 * n) })

/-- The eight BFP blocks of three registers, each with its saturations. -/
def VIn.blocks (i : VIn) : List (List Byte × Nat) :=
  let lanes := (List.range 3).flatMap (fun r => i.vec (voA i.o + r))
  let cs := lanes.flatMap (fun x => [signedOf 16 x.toNat, signedOf 16 (x.toNat / 2 ^ 16)])
  (List.range 8).map (fun k => bfpCompress (voAux i.o) ((cs.drop (24 * k)).take 24))

/-- CMPB: three registers into eight BFP blocks. -/
def vCmpb (i : VIn) : VRes :=
  let g := i.ag
  let l := [(g.lane 0, i.blocks.flatMap Prod.fst)]
  i.writing g.loc l (fun _ =>
    .ok { stores := l.map (fun p => (g.loc, p.1.getD 0, p.2)), ags := i.advanced,
          sat := (i.blocks.map Prod.snd).sum, bytes := stackCost g.loc (8 * bfpBytes (voAux i.o)) })

/-- AGLD: a generator loaded from its table, with j = 0; later ops see it. -/
def vAgld (table : List (List W32)) (i : VIn) : VRes :=
  .ok { ags := i.e.ag.set (voG i.o) ⟨table.getD (voImm i.o) [], 0⟩ }

-- Moves.

def vMov (i : VIn) : VRes := i.raw 1 (i.va.map i.form.cut)
def vSplat (i : VIn) : VRes := i.raw 2 (laneIdx.map (fun _ => i.form.cut i.sa))
def vSets (i : VIn) : VRes :=
  .ok { writes := [(1, .part (voD i.o) (voAux i.o) (voImm i.o))], ags := i.e.ag }
def vPerm (i : VIn) : VRes :=
  i.raw 3 (laneIdx.map (fun k => i.form.cut (i.va.getD ((i.vb.getD k 0).toNat % 32) 0)))

-- Lane arithmetic.

/-- An element negated when neg is set. -/
def Elem.negIf (b : Bool) (e : Elem) : Elem := if b then ⟨e.re.neg, e.im.neg⟩ else e

/-- A float result's NaN is canonical, and −0 keeps its sign: a component of integer forms is never
negative zero. -/
def lane1 (i : VIn) (f : Elem → Elem) : List LaneOut :=
  i.va.map (fun x => i.form.write ((f (i.form.read x)).negIf (voNeg i.o)))

def lanes2 (i : VIn) (f : Elem → Elem → Elem) : List LaneOut :=
  (i.va.zip i.vb).map (fun p => i.form.write ((f (i.form.read p.1) (i.form.read p.2)).negIf (voNeg i.o)))

def Elem.add (a b : Elem) : Elem := ⟨a.re.add b.re, a.im.add b.im⟩
def Elem.sub (a b : Elem) : Elem := ⟨a.re.add b.re.neg, a.im.add b.im.neg⟩
/-- An element with its imaginary part negated, when conj is set. -/
def Elem.conjIf (c : Bool) (a : Elem) : Elem := if c then { a with im := a.im.neg } else a
/-- The exact product of two real or complex elements. -/
def Elem.mulC (a b : Elem) : Elem :=
  ⟨(a.re.mul b.re).add (a.im.mul b.im).neg, (a.re.mul b.im).add (a.im.mul b.re)⟩

def vAdd (i : VIn) : VRes := i.lanes 2 (lanes2 i Elem.add)
def vSub (i : VIn) : VRes := i.lanes 2 (lanes2 i Elem.sub)

/-- MUL: an integer product shifted right by aux and narrowed. -/
def vMul (i : VIn) : VRes :=
  i.lanes 4 (lanes2 i (fun a b =>
    let x := a.conjIf (voConjA i.o)
    let y := b.conjIf (voConjB i.o)
    let p := if i.form.complex then x.mulC y else ⟨x.re.mul y.re, .zero⟩
    if i.form.int then
      let k : Int := -(voAux i.o : Int)
      ⟨p.re.scale k, p.im.scale k⟩
    else p))

def vConj (i : VIn) : VRes := i.lanes 1 (lane1 i (fun a => a.conjIf true))

/-- ABS2: to INT32, or to FP32 with each operation rounded. -/
def vAbs2 (i : VIn) : VRes :=
  i.lanes 3 (i.va.map (fun x =>
    let a := i.form.read x
    if i.form.int then (⟨4, false⟩ : Form).write ⟨(a.re.mul a.re).add (a.im.mul a.im), .zero⟩
    else (⟨12, false⟩ : Form).write ⟨fadd (fmul a.re a.re) (fmul a.im a.im), .zero⟩))

def vShr (i : VIn) : VRes :=
  let k : Int := -(voAux i.o : Int)
  i.lanes 2 (lane1 i (fun a => ⟨a.re.scale k, a.im.scale k⟩))

/-- The target form of a CVT. -/
def cvtForm (o : VOp) : Form := ⟨voImm o % 16, (voImm o).testBit 4⟩

/-- The forms that a CVT converts lane by lane: real to real, and complex to complex. -/
def cvtMatch (a b : Form) : Bool :=
  let real (f : Form) : Bool := decide (f.fmt ∈ [3, 4]) || (decide (f.fmt = 12) && !f.pair)
  (real a && real b) || (a.complex && b.complex)

/-- CVT: to its own form a copy; between a real and a complex form, or from or to packed or raw lanes, the lanes are
free values (log entry 4). -/
def vCvt (i : VIn) : VRes :=
  let t := cvtForm i.o
  let code (f : Form) : Nat := f.fmt + if f.pair then 16 else 0
  if cvtMatch i.form t then i.lanes 3 (i.va.map (fun x => t.write (i.form.read x)))
  else if i.form = t then i.raw 3 (i.va.map t.cut)
  else i.raw 3 ((i.va.zipIdx).map (fun e => t.cut (Config.laneFree (code i.form * 32 + code t) e.2 e.1)))

def vMaxv (i : VIn) : VRes := i.lanes 2 (lanes2 i (fun a b => ⟨a.re.max b.re, .zero⟩))
def vMinv (i : VIn) : VRes := i.lanes 2 (lanes2 i (fun a b => ⟨a.re.min b.re, .zero⟩))
def vAnd (i : VIn) : VRes := i.raw 1 ((i.va.zip i.vb).map (fun p => p.1 &&& p.2))
def vXor (i : VIn) : VRes := i.raw 1 ((i.va.zip i.vb).map (fun p => p.1 ^^^ p.2))

/-- RECIP: 1 ÷ x, or conj(z) × (1 ÷ (re² + im²)) with each operation rounded. -/
def vRecip (i : VIn) : VRes :=
  i.lanes 12 (i.va.map (fun x =>
    let a := i.form.read x
    let one : FVal := .fin false 1 0
    if i.form.pair then
      let d := fdiv one (fadd (fmul a.re a.re) (fmul a.im a.im))
      i.form.write ⟨fmul a.re d, fmul a.im.neg d⟩
    else i.form.write ⟨fdiv one a.re, .zero⟩))

-- Accumulators.

/-- The products of V a and V b: an INT16 product goes to the real component. -/
def accProds (i : VIn) (neg : Bool) : List (Int × Int) :=
  (i.va.zip i.vb).map (fun p =>
    let a := (i.form.read p.1).conjIf (voConjA i.o)
    let b := (i.form.read p.2).conjIf (voConjB i.o)
    let q := if i.form.complex then a.mulC b else ⟨a.re.mul b.re, .zero⟩
    let s (v : FVal) : Int := if neg then -v.toInt else v.toInt
    (s q.re, s q.im))

def vMacz (i : VIn) : VRes :=
  let ps := accProds i false
  .ok { writes := [(4, .acc (voD i.o) (ps.map (fun p => (satSigned 40 p.1, satSigned 40 p.2))))],
        ags := i.e.ag }
def vMac (i : VIn) : VRes :=
  .ok { writes := [(4, .mac (voD i.o) (accProds i false))], ags := i.e.ag }
def vMsc (i : VIn) : VRes :=
  .ok { writes := [(4, .mac (voD i.o) (accProds i true))], ags := i.e.ag }

/-- NARROW: an accumulator shifted right by aux and narrowed. -/
def vNarrow (i : VIn) : VRes :=
  let k : Int := -(voAux i.o : Int)
  i.lanes 3 ((i.e.a.getD (voA i.o) []).map (fun p =>
    i.form.write ⟨(FVal.ofInt p.1).scale k, (FVal.ofInt p.2).scale k⟩))

-- Bit sequences (06 R201).

/-- One step of the Gold generators of TS 38.211 (5.2.1): x1 and x2 as 31-bit states, bit 0 next. -/
def goldStep (x : Nat × Nat) : Nat × Nat :=
  let b (v i : Nat) : Nat := v / 2 ^ i % 2
  let n1 := (b x.1 3 + b x.1 0) % 2
  let n2 := (b x.2 3 + b x.2 2 + b x.2 1 + b x.2 0) % 2
  (x.1 / 2 + n1 * 2 ^ 30, x.2 / 2 + n2 * 2 ^ 30)

def goldSkip : Nat → Nat × Nat → Nat × Nat
  | 0, x => x
  | n + 1, x => goldSkip n (goldStep x)

/-- The next `n` bits, the first at bit 0. -/
def goldBits : Nat → Nat × Nat → Nat
  | 0, _ => 0
  | n + 1, x => (x.1 + x.2) % 2 + 2 * goldBits n (goldStep x)

/-- The 32 lanes of a 2,048-bit sequence. -/
def seqLanes (v : Nat) : List W64 := laneIdx.map (fun k => BitVec.ofNat 64 (v / 2 ^ (64 * k)))

/-- The bit sequence that lanes hold. -/
def lanesSeq (l : List W64) : Nat := l.foldr (fun x t => x.toNat + t * 2 ^ 64) 0

/-- GOLD: 2,048 bits from position n, which then advances by 2,048. -/
def vGold (i : VIn) : VRes :=
  let cinit := i.sa.toNat % 2 ^ 31
  let n := i.sa.toNat / 2 ^ 32
  let x := goldSkip (1600 + n) (1, cinit)
  let s' := BitVec.ofNat 64 (i.sa.toNat % 2 ^ 32 + (n + 2048) % 2 ^ 32 * 2 ^ 32)
  .ok { writes := [(4, .vec (voD i.o) (seqLanes (goldBits 2048 x))), (4, .scal (voA i.o) s')],
        ags := i.e.ag }

/-- Width and polynomial of a CRC of TS 38.212 (5.1). -/
def crcPoly (k : Nat) : Nat × Nat :=
  match k with
  | 0 => (24, 0x864CFB)
  | 1 => (24, 0x800063)
  | 2 => (24, 0xB2B117)
  | 3 => (16, 0x1021)
  | 4 => (11, 0x621)
  | _ => (6, 0x21)

/-- Fold one bit into a CRC register of `w` bits. -/
def crcBit (w poly reg bit : Nat) : Nat :=
  let top := (reg / 2 ^ (w - 1) + bit) % 2
  let sh := reg * 2 % 2 ^ w
  if top = 1 then sh ^^^ poly else sh

/-- Fold the first `n` bits of a sequence, in sequence order. -/
def crcFold (w poly : Nat) : Nat → Nat → Nat → Nat
  | 0, _, r => r
  | n + 1, v, r => crcFold w poly n (v / 2) (crcBit w poly r (v % 2))

/-- CRC: folds the first imm bits of V a into the register in S d. -/
def vCrc (i : VIn) : VRes :=
  let n := if voImm i.o = 0 then 2048 else voImm i.o
  let p := crcPoly (voAux i.o)
  i.scalar 6 (BitVec.ofNat 64 (crcFold p.1 p.2 n (lanesSeq i.va) (i.sd.toNat % 2 ^ p.1)))

/-- One odd-integer coordinate from its bits, most significant first (TS 38.211, 5.1). -/
def pamPoint : List Bool → Int
  | [] => 0
  | b :: t =>
    let sign : Int := if b then -1 else 1
    match t with
    | [] => sign
    | _ => sign * ((2 ^ t.length : Nat) - pamPoint t)

/-- The coordinates of a symbol of Q bits: even bits the real part, odd bits the imaginary part; BPSK
uses its one bit for both. -/
def qamPoint (bits : List Bool) : Int × Int :=
  match bits with
  | [b] => (pamPoint [b], pamPoint [b])
  | bs =>
    let pick (k : Nat) : List Bool := (bs.zipIdx).filterMap (fun e => if e.2 % 2 = k then some e.1 else none)
    (pamPoint (pick 0), pamPoint (pick 1))

/-- Q bits of a sequence from bit `at`. -/
def seqBits (v start q : Nat) : List Bool := (List.range q).map (fun k => v.testBit (start + k))

/-- QMAP. -/
def vQmap (i : VIn) : VRes :=
  let q := voAux i.o
  let v := lanesSeq i.va
  i.lanes 3 (laneIdx.map (fun k =>
    let p := qamPoint (seqBits v (k * q) q)
    (⟨13, false⟩ : Form).write ⟨.ofInt (p.1 * voImm i.o), .ofInt (p.2 * voImm i.o)⟩))

/-- The bits of the number `n` as a symbol's bits. -/
def symBits (q n : Nat) : List Bool := (List.range q).map (fun k => n.testBit k)

/-- D for bit b of a symbol: the difference of the two minima of the squared distance (06 R210). -/
def demapD (q u : Nat) (y : Int × Int) (b : Nat) : Int :=
  let dist (n : Nat) : Int :=
    let p := qamPoint (symBits q n)
    let dx := y.1 - p.1 * (2 ^ u : Nat)
    let dy := y.2 - p.2 * (2 ^ u : Nat)
    dx * dx + dy * dy
  let side (v : Bool) : List Int := ((List.range (2 ^ q)).filter (fun n => decide (n.testBit b = v))).map dist
  let least (l : List Int) : Int := match l with
    | [] => 0
    | h :: t => t.foldl min h
  least (side true) - least (side false)

/-- DEMAP: max-log LLRs, clamped to −127 to 127, packed in sequence order. -/
def vDemap (i : VIn) : VRes :=
  let q := voAux i.o
  let u := voImm i.o % 32
  let sh := voImm i.o / 256 % 64
  let llr (k b : Nat) : Int :=
    let x := i.va.getD k 0
    let w := signedOf 16 (i.vb.getD k 0).toNat
    let d := demapD q u (signedOf 16 x.toNat, signedOf 16 (x.toNat / 2 ^ 16)) b
    let p := d * w
    let r := roundInt .near (decide (p < 0)) p.natAbs (-(sh : Int))
    max (-127) (min 127 r)
  let all := laneIdx.flatMap (fun k => (List.range q).map (fun b => llr k b))
  let reg (r : Nat) : List W64 := laneIdx.map (fun k =>
    BitVec.ofNat 64 (packBits 8 ((List.range 8).map (fun m => wrapOf 8 (all.getD (256 * r + 8 * k + m) 0)))))
  .ok { writes := (6, .vec (voD i.o) (reg 0)) :: (if q = 10 then [(6, .vec (voD i.o + 1) (reg 1))] else []),
        ags := i.e.ag }

/-- FHT: the Walsh–Hadamard transform in natural order. -/
def vFht (i : VIn) : VRes :=
  let xs := i.va.map (fun x => signedOf 16 x.toNat)
  i.raw 6 (laneIdx.map (fun k =>
    BitVec.ofNat 64 (wrapOf 32 ((laneIdx.map (fun j =>
      if popCount 5 (k &&& j) % 2 = 0 then xs.getD j 0 else -(xs.getD j 0))).sum))))

-- Searches and sums (06 R211, R212).

/-- Index and value of a search's held result: none when empty. -/
def searchFold (better : FVal → FVal → Bool) (held : Option (FVal × Nat)) (cs : List (FVal × Nat)) :
    Option (FVal × Nat) :=
  cs.foldl (fun h c =>
    if c.1.isNan then h
    else match h with
      | none => some c
      | some x => if better c.1 x.1 then some c else h) held

/-- MAXS and MINS. -/
def vSearch (better : FVal → FVal → Bool) (i : VIn) : VRes :=
  let n := if voImm i.o = 0 then 32 else voImm i.o
  let f := i.form
  let held : Form := if f.fmt = 12 then ⟨12, false⟩ else ⟨4, false⟩
  let first := i.sb.toNat % 2 ^ 32
  let cs := ((i.va.take n).zipIdx).map (fun e => ((f.read e.1).re, (first + e.2) % 2 ^ 32))
  let start : Option (FVal × Nat) :=
    if (voAux i.o).testBit 0 then none
    else some ((held.read (BitVec.ofNat 64 (i.sd.toNat % 2 ^ 32))).re, i.sd.toNat / 2 ^ 32)
  let r := match searchFold better start cs with
    | some x => lane2 32 ((held.write ⟨x.1, .zero⟩).lane.toNat) x.2
    | none => lane2 32 (fp32.encode .nan) 0xFFFF_FFFF
  let sb' := BitVec.ofNat 64 (i.sb.toNat / 2 ^ 32 * 2 ^ 32 + (first + n) % 2 ^ 32)
  .ok { writes := [(4, .scal (voB i.o) sb'), (4, .scal (voD i.o) r)], ags := i.e.ag }

def vMaxs (i : VIn) : VRes := vSearch (fun a b => b.lt a) i
def vMins (i : VIn) : VRes := vSearch (fun a b => a.lt b) i

/-- Five levels of adding neighbours. -/
def treeSum (add : FVal → FVal → FVal) : Nat → List FVal → FVal
  | 0, l => l.headD .zero
  | k + 1, l =>
    treeSum add k ((List.range (l.length / 2)).map (fun j => add (l.getD (2 * j) .zero) (l.getD (2 * j + 1) .zero)))

/-- RSUM. -/
def vRsum (i : VIn) : VRes :=
  let f := i.form
  let res := i.va.map (fun x => (f.read x).re)
  let ims := i.va.map (fun x => (f.read x).im)
  if f.fmt = 13 then
    let a := intStore 32 .near (treeSum FVal.add 5 res)
    let b := intStore 32 .near (treeSum FVal.add 5 ims)
    i.scalar 6 (lane2 32 a.bits b.bits) [] ((if a.sat then 1 else 0) + (if b.sat then 1 else 0))
  else if f.int then i.scalar 6 (BitVec.ofNat 64 (wrapOf 64 (treeSum FVal.add 5 res).toInt))
  else
    let hi := if f.pair then f32Bits (treeSum fadd 5 ims) else 0
    i.scalar 6 (lane2 32 (f32Bits (treeSum fadd 5 res)) hi)

-- The complex array (06 R213).

/-- Byte offset of row r of an AMM operand. -/
def Ag.row (g : Ag) (r : Nat) : Option Nat := g.lane r

/-- AMM: eight rows of K elements through AG g and AG (g + 1) mod 4. -/
def vAmm (i : VIn) : VRes :=
  let k := voImm i.o
  let ga := i.ag
  let gb := i.agOf ((voG i.o + 1) % 4)
  let rows := List.range 8
  i.reading ga.loc (rows.map (fun r => (ga.row r, 4 * k))) (fun _ =>
    i.reading gb.loc (rows.map (fun r => (gb.row r, 4 * k))) (fun _ =>
      let elems (g : Ag) (c : Bool) (r : Nat) : List Elem :=
        (rowElems (voFmt i.o) k (i.s.locRead i.x g.loc ((g.row r).getD 0) (4 * k))).map (Elem.conjIf c)
      let as := rows.map (elems ga (voConjA i.o))
      let bs := rows.map (elems gb (voConjB i.o))
      let cell (a b : List Elem) : Elem × Nat :=
        (a.zip b).foldl (fun (t : Elem × Nat) p =>
          let q := p.1.mulC p.2
          if voFmt i.o = 13 then
            let x := satCountV (t.1.re.toInt + q.re.toInt)
            let y := satCountV (t.1.im.toInt + q.im.toInt)
            (⟨x.1, y.1⟩, t.2 + x.2 + y.2)
          else (⟨fadd t.1.re (r32 q.re), fadd t.1.im (r32 q.im)⟩, t.2)) (Elem.zero, 0)
      let cells := as.flatMap (fun a => bs.map (cell a))
      let ags := (i.e.ag.set (voG i.o) ga.advance).set ((voG i.o + 1) % 4) gb.advance
      .ok { writes := [(4 * k + 22, .swap (cells.map Prod.fst) (decide (voFmt i.o = 14)))], ags := ags,
            sat := (cells.map Prod.snd).sum,
            bytes := stackCost ga.loc (32 * k) + stackCost gb.loc (32 * k) }))
where
  satCountV (v : Int) : FVal × Nat := (.ofInt (satSigned 40 v), if satSigned 40 v = v then 0 else 1)

/-- ARD: the completed bank into V d and V d + 1. -/
def vArd (i : VIn) : VRes :=
  let k : Int := -(voAux i.o : Int)
  let out := i.e.done.map (fun c =>
    if voFmt i.o = 13 then (⟨13, false⟩ : Form).write ⟨c.re.scale k, c.im.scale k⟩
    else (⟨12, true⟩ : Form).write c)
  .ok { writes := [(3, .vec (voD i.o) ((out.take 32).map LaneOut.lane)),
          (3, .vec (voD i.o + 1) ((out.drop 32).map LaneOut.lane))],
        ags := i.e.ag, sat := (out.map LaneOut.sat).sum, nan := (out.map LaneOut.nan).sum }

-- Control.

def vLoop (i : VIn) : VRes :=
  .ok { ags := i.e.ag, ctl := .loop (voB i.o) (i.sa.toNat % 2 ^ 32) (voImm i.o) }
def vNop (i : VIn) : VRes := .ok { ags := i.e.ag, ctl := .slots (voImm i.o + 1) }
def vFence (i : VIn) : VRes := .ok { ags := i.e.ag, ctl := .fence }
def vBrk (i : VIn) : VRes := .ok { ags := i.e.ag, ctl := .brk }

end Sys2Proof.Machine
end

