-- ==== Sys2Proof/Machine/Codes.lean ====
section
/-! DEFINITION. The channel codes of the radio accelerators (05 R190 to R193, 06 R228 to R230): LDPC and polar
codes with their rate matching, Reed–Muller decoding, and the segmentation of transport blocks. The tables of TS
38.212 that the spec names and does not print are constants (log entry 70). -/

namespace Sys2Proof.Machine

-- Bit sequences: bit n of a number is bit n of the sequence (06 R201).

/-- The number whose bits are those of a list. -/
def ofBits (l : List Bool) : Nat := l.foldr (fun b t => (if b then 1 else 0) + 2 * t) 0

/-- Bits `a` to `a + n − 1` of a sequence. -/
def seqPart (v a n : Nat) : Nat := v / 2 ^ a % 2 ^ n

/-- The CRC bits that a sequence of `n` bits gets, in sequence order: the register's most significant bit first. -/
def crcBits (p : Nat × Nat) (n v : Nat) : Nat :=
  let r := crcFold p.1 p.2 n v 0
  ofBits ((List.range p.1).map (fun i => r.testBit (p.1 - 1 - i)))

/-- A sequence of `n` bits, its CRC included, passes: the register ends at zero. -/
def crcOk (p : Nat × Nat) (n v : Nat) : Bool := decide (crcFold p.1 p.2 n v 0 = 0)

-- LDPC: the code (TS 38.212, 5.3.2).

/-- The set that a lifting size a × 2^j belongs to, for a of 2, 3, 5, 7, 9, 11, 13, 15. -/
def liftSet (z : Nat) : Nat :=
  ((List.range 8).find? (fun i => (List.range 8).any (fun j =>
    decide (z = ([2, 3, 5, 7, 9, 11, 13, 15] : List Nat).getD i 1 * 2 ^ j)))).getD 0

/-- Information columns of a base graph. -/
def ldpcCols (bg : Nat) : Nat := if bg = 0 then 22 else 10

/-- A code: base graph 0 or 1 for 1 or 2, lifting size, rows used. -/
structure Ldpc where
  bg : Nat
  z : Nat
  rows : Nat
  deriving DecidableEq, Repr

def Ldpc.kb (c : Ldpc) : Nat := ldpcCols c.bg
/-- Bits of a codeword, punctured ones included; information bits, fillers included. -/
def Ldpc.len (c : Ldpc) : Nat := (c.kb + c.rows) * c.z
def Ldpc.info (c : Ldpc) : Nat := c.kb * c.z

/-- The positions that check `i` of base-graph row `r` joins: a circulant per entry of the base graph. -/
def Ldpc.check (c : Ldpc) (r i : Nat) : List Nat :=
  (List.range (c.kb + c.rows)).filterMap (fun j =>
    (Config.baseShift c.bg (liftSet c.z) r j).map (fun v => j * c.z + (i + v) % c.z))

/-- The checks in the order of the layers. -/
def Ldpc.checks (c : Ldpc) : List (List Nat) :=
  (List.range c.rows).flatMap (fun r => (List.range c.z).map (fun i => c.check r i))

/-- One step of Gauss–Jordan elimination over bits: equations as masks, those with a pivot first. -/
def gaussStep (st : List (Nat × Nat) × List Nat) (i : Nat) : List (Nat × Nat) × List Nat :=
  match st.2.find? (fun e => e.testBit i) with
  | none => st
  | some p =>
    let red (e : Nat) : Nat := if e.testBit i then e ^^^ p else e
    ((i, p) :: st.1.map (fun x => (x.1, red x.2)), (st.2.erase p).map red)

/-- The word of the code that begins with the information bits: its parity bits solve the checks (06 R229). -/
def Ldpc.encode (c : Ldpc) (info : Nat) : Nat :=
  let n := c.rows * c.z
  let eqn (ps : List Nat) : Nat := ps.foldl (fun m p =>
    m ^^^ (if p < c.info then (if info.testBit p then 2 ^ n else 0) else 2 ^ (p - c.info))) 0
  let solved := ((List.range n).foldl gaussStep ([], c.checks.map eqn)).1
  info % 2 ^ c.info + 2 ^ c.info * (solved.map (fun x => if x.2.testBit n then 2 ^ x.1 else 0)).sum

-- LDPC: layered min-sum (05 R190, 06 R228).

/-- A message of 8 bits. -/
def msg8 (v : Int) : Int := max (-127) (min 127 v)

/-- A check-to-variable magnitude scaled to 3m/4 by convergent rounding. -/
def scale34 (m : Nat) : Nat := roundShift .near (3 * m) 2

/-- The messages that a check returns: to each variable the product of the other signs and the least of the
other magnitudes, scaled. -/
def checkMsgs (qs : List Int) : List Int :=
  (List.range qs.length).map (fun i =>
    let others := qs.eraseIdx i
    let m := (others.map Int.natAbs).foldl min 127
    let odd := (others.filter (fun q => decide (q < 0))).length % 2 = 1
    if odd then -(scale34 m : Int) else scale34 m)

/-- One layer: the check's old messages leave the posteriors, and its new ones enter them. The width in which a
decoder holds a posterior is not stated (log entry 70). -/
def layerStep (st : List Int × List (List Int)) (ps : List Nat) (old : List Int) : List Int × List (List Int) :=
  let ext := (ps.zip old).map (fun e => st.1.getD e.1 0 - e.2)
  let new := checkMsgs (ext.map msg8)
  ((ps.zip (ext.zip new)).foldl (fun l e => l.set e.1 (Config.ldpcHold (e.2.1 + e.2.2))) st.1, st.2 ++ [new])

/-- The hard decision on a posterior: a positive one favours bit 0, and what zero gives is not stated. -/
def hardBit (v : Int) : Bool := decide (v < 0) || (decide (v = 0) && Config.zeroBit)

/-- Every check holds for the hard decisions. -/
def parityOk (checks : List (List Nat)) (post : List Int) : Bool :=
  checks.all (fun ps => (ps.filter (fun p => hardBit (post.getD p 0))).length % 2 = 0)

/-- What a decoder has after its run. -/
structure LdpcOut where
  bits : Nat
  iters : Nat
  parity : Bool
  deriving DecidableEq, Repr

/-- Iterations up to the limit, ended by the first after which every parity check holds. -/
def ldpcIterate (checks : List (List Nat)) : Nat → Nat → List Int → List (List Int) → LdpcOut
  | 0, n, post, _ => ⟨ofBits (post.map hardBit), n, parityOk checks post⟩
  | f + 1, n, post, msgs =>
    let r := (checks.zip msgs).foldl (fun st e => layerStep st e.1 e.2) (post, [])
    if parityOk checks r.1 then ⟨ofBits (r.1.map hardBit), n + 1, true⟩
    else ldpcIterate checks f (n + 1) r.1 r.2

def Ldpc.decode (c : Ldpc) (maxIter : Nat) (llrs : List Int) : LdpcOut :=
  ldpcIterate c.checks maxIter 0 ((List.range c.len).map (fun i => llrs.getD i 0))
    (c.checks.map (fun ps => ps.map (fun _ => 0)))

-- LDPC: rate matching (TS 38.212, 5.4.2).

/-- The circular buffer of a code: its length, and the filler bits that it skips. -/
structure Buffer where
  code : Ldpc
  kPrime : Nat
  fillers : Nat
  /-- N_cb -/
  len : Nat
  deriving DecidableEq, Repr

/-- Bits of a code that its circular buffer can hold: all but the first two columns. -/
def Ldpc.buf (c : Ldpc) : Nat := c.len - 2 * c.z

/-- k_0 of a redundancy version. -/
def Buffer.start (b : Buffer) (rv : Nat) : Nat :=
  let n := if b.code.bg = 0 then 66 else 50
  let f := (if b.code.bg = 0 then ([0, 17, 33, 56] : List Nat) else [0, 13, 25, 43]).getD rv 0
  f * b.len / (n * b.code.z) * b.code.z

/-- The codeword positions in the order of selection from k_0, fillers left out. -/
def Buffer.order (b : Buffer) (rv : Nat) : List Nat :=
  ((List.range b.len).map (fun j => 2 * b.code.z + (b.start rv + j) % b.len)).filter (fun p =>
    decide (p < b.kPrime) || decide (b.kPrime + b.fillers ≤ p))

/-- Bit `n` after interleaving is this bit before it. -/
def interleaveAt (e qm n : Nat) : Nat := if n < qm * (e / qm) then n % qm * (e / qm) + n / qm else n

/-- The codeword position of each of the `e` output bits. -/
def Buffer.positions (b : Buffer) (rv e qm : Nat) : List Nat :=
  let o := b.order rv
  (List.range e).map (fun n => o.getD (interleaveAt e qm n % max 1 o.length) 0)

/-- e bits of a codeword, selected and interleaved (06 R229). -/
def Buffer.match' (b : Buffer) (word rv e qm : Nat) : Nat :=
  ofBits ((b.positions rv e qm).map (fun p => word.testBit p))

/-- Rate recovery: the LLRs of repeated bits added with saturation, 0 for bits not sent, +127 for fillers (05
R182 step 5, 06 R228). -/
def Buffer.recover (b : Buffer) (rv qm : Nat) (ls : List Int) : List Int :=
  let at' := (b.positions rv ls.length qm).zip ls
  let zero := (List.range b.code.len).map (fun p =>
    if b.kPrime ≤ p ∧ p < b.kPrime + b.fillers then (127 : Int) else 0)
  at'.foldl (fun l e => l.set e.1 (satSigned 8 (l.getD e.1 0 + e.2))) zero

-- Transport blocks (TS 38.212, 5.2.2).

/-- The least lifting size that holds `k` bits in `kb` columns. -/
def liftFor (kb k : Nat) : Nat :=
  ((List.range 385).find? (fun z => decide (2 ≤ z) && decide (k ≤ kb * z)
    && (List.range 8).any (fun j => ([2, 3, 5, 7, 9, 11, 13, 15] : List Nat).any (fun a => decide (z = a * 2 ^ j))))).getD 384

/-- A transport block as it is coded: bits, its CRC, code blocks and the code of each. -/
structure TbShape where
  /-- bits of the block -/
  bits : Nat
  /-- CRC of the block: 24A or 16 -/
  crc : Nat × Nat
  blocks : Nat
  /-- bits of a code block with its CRC -/
  kPrime : Nat
  code : Ldpc
  deriving DecidableEq, Repr

/-- The shape of a block of `n` bits in a base graph. -/
def tbShape (bg n : Nat) : TbShape :=
  let crc := if 3824 < n then crcPoly 0 else crcPoly 3
  let b := n + crc.1
  let most := if bg = 0 then 8448 else 3840
  let c := if b ≤ most then 1 else (b + (most - 24) - 1) / (most - 24)
  let k := if c = 1 then b else (b + 24 * c + c - 1) / c
  let kb := if bg = 0 then 22 else if 640 < b then 10 else if 560 < b then 9 else if 192 < b then 8 else 6
  ⟨n, crc, c, k, bg, liftFor kb k, if bg = 0 then 46 else 42⟩

/-- The buffer of a code block, with the limit that a cell sets to it: 0 for none. -/
def TbShape.buffer (t : TbShape) (limit : Nat) : Buffer :=
  ⟨t.code, t.kPrime, t.code.info - t.kPrime, if limit = 0 then t.code.buf else min limit t.code.buf⟩

/-- Coded bits of code block `r` of `g` bits on `nl` layers (TS 38.212, 5.4.2.1). -/
def TbShape.share (t : TbShape) (g nl qm r : Nat) : Nat :=
  let u := max 1 (nl * qm)
  let n := g / u
  u * (if r + n % t.blocks < t.blocks then n / t.blocks else (n + t.blocks - 1) / t.blocks)

/-- The shares of a transport block's code blocks as runs: first bit, bits. -/
def TbShape.runs (t : TbShape) (g nl qm : Nat) : List (Nat × Nat) :=
  ((List.range t.blocks).foldl (fun (acc : List (Nat × Nat) × Nat) r =>
    let e := t.share g nl qm r
    (acc.1 ++ [(acc.2, e)], acc.2 + e)) ([], 0)).1

/-- The information bits of code block `r`, its CRC attached. -/
def TbShape.block (t : TbShape) (data r : Nat) : Nat :=
  let v := data % 2 ^ t.bits + 2 ^ t.bits * crcBits t.crc t.bits data
  if t.blocks = 1 then v
  else
    let n := t.kPrime - 24
    let x := seqPart v (r * n) n
    x + 2 ^ n * crcBits (crcPoly 1) n x

/-- The coded bits of a transport block on its layers (05 R166: CRC, segmentation, encoding, rate matching). -/
def TbShape.encode (t : TbShape) (data limit g nl qm rv : Nat) : Nat :=
  ((t.runs g nl qm).zipIdx).foldl (fun m e =>
    m + 2 ^ e.1.1 * (t.buffer limit).match' (t.code.encode (t.block data e.2)) rv e.1.2 qm) 0

/-- A code block as decoded: its bits, iterations, and whether its CRC holds (05 R190). -/
structure CbOut where
  bits : Nat
  iters : Nat
  ok : Bool
  deriving DecidableEq, Repr

/-- Decoding of one code block from its soft bits: then the code-block CRC, where the block has one (05 R190). -/
def TbShape.decodeBlock (t : TbShape) (maxIter : Nat) (soft : List Int) : CbOut :=
  let o := t.code.decode maxIter soft
  let v := o.bits % 2 ^ t.kPrime
  ⟨v, o.iters, decide (t.blocks = 1) || crcOk (crcPoly 1) t.kPrime v⟩

/-- The transport block with its CRC that decoded code blocks make. -/
def TbShape.join (t : TbShape) (cbs : List CbOut) : Nat :=
  if t.blocks = 1 then ((cbs.map (fun c => c.bits)).headD 0)
  else (cbs.zipIdx).foldl (fun m e => m + 2 ^ (e.2 * (t.kPrime - 24)) * (e.1.bits % 2 ^ (t.kPrime - 24))) 0

/-- The check of the transport block after its last code block (05 R190). -/
def TbShape.tbOk (t : TbShape) (cbs : List CbOut) : Bool :=
  cbs.all (fun c => c.ok) && crcOk t.crc (t.bits + t.crc.1) (t.join cbs % 2 ^ (t.bits + t.crc.1))

-- Polar codes (06 R230; TS 38.212, 5.3.1, 5.4.1).

/-- ⌈log₂ n⌉. -/
def ceilLog2 (n : Nat) : Nat := if n ≤ 1 then 0 else Nat.log2 (n - 1) + 1

/-- log₂ of the mother code length N from k, e and kind (5.3.1). -/
def polarN (k e kind : Nat) : Nat :=
  let c := ceilLog2 e
  let n1 := if 8 * e ≤ 9 * 2 ^ (c - 1) ∧ 16 * k < 9 * e then c - 1 else c
  max 5 (min (min n1 (ceilLog2 (8 * k))) (if kind = 2 then 10 else 9))

/-- A polar code as rate-matched: payload bits with their CRC, output bits, and kind 0 DCI, 1 PBCH, 2 UCI. -/
structure Polar where
  k : Nat
  e : Nat
  kind : Nat
  deriving DecidableEq, Repr

def Polar.n (c : Polar) : Nat := polarN c.k c.e c.kind
def Polar.len (c : Polar) : Nat := 2 ^ c.n

/-- Parity-check bits: three for UCI of 18 to 25 bits; one of them by row weight when 192 < e − k + 3. -/
def Polar.pc (c : Polar) : Nat := if c.kind = 2 ∧ 18 ≤ c.k ∧ c.k ≤ 25 then 3 else 0
def Polar.pcWm (c : Polar) : Nat := if c.pc = 3 ∧ 189 < c.e - c.k then 1 else 0

/-- The sub-block interleaver (5.4.1.1): bit `i` after it is this bit before it. -/
def subBlock : List Nat :=
  [0, 1, 2, 4, 3, 5, 6, 7, 8, 16, 9, 17, 10, 18, 11, 19, 12, 20, 13, 21, 14, 22, 15, 23, 24, 25, 26, 28, 27, 29, 30, 31]
def Polar.subBlock (c : Polar) (i : Nat) : Nat :=
  Sys2Proof.Machine.subBlock.getD (32 * i / c.len) 0 * (c.len / 32) + i % (c.len / 32)

/-- Punctured and not shortened, where e lies below N: k / e is at most 7 / 16. -/
def Polar.punctures (c : Polar) : Bool := decide (16 * c.k ≤ 7 * c.e)

/-- Input positions that rate matching freezes. -/
def Polar.frozen (c : Polar) : List Nat :=
  let n := c.len
  if n ≤ c.e then []
  else if c.punctures then
    let t := if 3 * n ≤ 4 * c.e then (3 * n - 2 * c.e + 3) / 4 else (9 * n - 4 * c.e + 15) / 16
    ((List.range (n - c.e)).map c.subBlock) ++ List.range (min n t)
  else ((List.range (n - c.e)).map (fun i => c.subBlock (c.e + i)))

/-- The input positions for information and parity-check bits: the most reliable that are not frozen, in
increasing order. -/
def Polar.inputs (c : Polar) : List Nat :=
  let fz := c.frozen
  let q := ((List.range 1024).map Config.polarOrder).filter (fun i => decide (i < c.len) && decide (i ∉ fz))
  let best := q.drop (q.length - (c.k + c.pc))
  (List.range c.len).filter (fun i => decide (i ∈ best))

/-- Weight of row `i` of the transform. -/
def rowWeight (n i : Nat) : Nat := 2 ^ ((List.range n).filter (fun b => i.testBit b)).length

/-- The positions of the parity-check bits: the least reliable of the inputs, and by weight the most reliable of
the least weight among the rest. -/
def Polar.pcSet (c : Polar) : List Nat :=
  let ins := c.inputs
  let byRel := ((List.range 1024).map Config.polarOrder).filter (fun i => decide (i ∈ ins))
  let low := byRel.take (c.pc - c.pcWm)
  if c.pcWm = 0 then low
  else
    let rest := byRel.drop c.pc
    let w := (rest.map (rowWeight c.n)).foldl min c.len
    low ++ (rest.filter (fun i => decide (rowWeight c.n i = w))).reverse.take 1

/-- The order in which payload bits enter: that of the interleaver of 5.3.1.1 for DCI and PBCH. -/
def Polar.payloadOrder (c : Polar) : List Nat :=
  if c.kind = 2 then List.range c.k
  else (((List.range 164).map Config.polarIl).filter (fun m => decide (164 - c.k ≤ m))).map (fun m => m - (164 - c.k))

/-- A parity-check register: five bits that rotate with every input. -/
abbrev PcReg := List Bool
def rotPc : PcReg → PcReg
  | a :: t => t ++ [a]
  | [] => []

/-- The input word u of a payload, position by position. -/
def Polar.word (c : Polar) (payload : Nat) : List Bool :=
  let ins := c.inputs
  let pcs := c.pcSet
  let bits := c.payloadOrder.map (fun m => payload.testBit m)
  ((List.range c.len).foldl (fun (st : List Bool × List Bool × PcReg) i =>
    let reg := rotPc st.2.2
    if i ∈ ins then
      if i ∈ pcs then (st.1 ++ [reg.headD false], st.2.1, reg)
      else
        let b := st.2.1.headD false
        (st.1 ++ [b], st.2.1.drop 1, if c.pc = 0 then reg else reg.set 0 ((reg.headD false).xor b))
    else (st.1 ++ [false], st.2.1, reg)) ([], bits, List.replicate 5 false)).1

/-- The transform of a word of 2^n bits. -/
def polarT : Nat → List Bool → List Bool
  | 0, u => u
  | n + 1, u =>
    let a := u.take (2 ^ n)
    let b := u.drop (2 ^ n)
    polarT n ((a.zip b).map (fun e => e.1.xor e.2)) ++ polarT n b

/-- The position in the mother codeword of each rate-matched bit before the channel interleaver. -/
def Polar.select (c : Polar) : List Nat :=
  (List.range c.e).map (fun k =>
    c.subBlock (if c.len ≤ c.e then k % c.len else if c.punctures then k + c.len - c.e else k))

/-- The triangular interleaver of UCI (5.4.1.3): bit `i` after it is this bit before it. -/
def triangle (e : Nat) : List Nat :=
  let t := ((List.range (e + 2)).find? (fun t => decide (e ≤ t * (t + 1) / 2))).getD 0
  (List.range t).flatMap (fun j => ((List.range (t - j)).map (fun i => i * t - i * (i - 1) / 2 + j)).filter
    (fun p => decide (p < e)))

/-- The position in the mother codeword of each output bit. -/
def Polar.outPos (c : Polar) : List Nat :=
  let s := c.select
  if c.kind = 2 then (triangle c.e).map (fun i => s.getD i 0) else s

/-- Encoding and rate matching: nothing is attached (06 R230). -/
def Polar.encode (c : Polar) (payload : Nat) : Nat :=
  let d := polarT c.n (c.word payload)
  ofBits (c.outPos.map (fun p => d.getD p false))

/-- Rate recovery: repeated LLRs added, 0 for punctured bits, the largest for shortened ones. -/
def Polar.recover (c : Polar) (ls : List Int) : List Int :=
  let zero := List.replicate c.len (if c.e < c.len ∧ !c.punctures then (127 : Int) else 0)
  let base := (c.outPos).foldl (fun l p => l.set p 0) zero
  (c.outPos.zip ls).foldl (fun l e => l.set e.1 (l.getD e.1 0 + e.2)) base

/-- A path of the list decoder: inputs decided, payload bits so far, the parity-check register, its metric. -/
structure PolarPath where
  us : List Bool
  info : List Bool
  reg : PcReg
  metric : Nat
  deriving DecidableEq, Repr

/-- LLR of the next input of a path (successive cancellation): the combination at a check is not stated (log
entry 70). -/
def scLlr : Nat → List Int → List Bool → Int
  | 0, l, _ => l.headD 0
  | n + 1, l, us =>
    let a := l.take (2 ^ n)
    let b := l.drop (2 ^ n)
    if us.length < 2 ^ n then scLlr n ((a.zip b).map (fun e => Config.polarF e.1 e.2)) us
    else
      let x := polarT n (us.take (2 ^ n))
      scLlr n (((a.zip b).zip x).map (fun e => if e.2 then e.1.2 - e.1.1 else e.1.2 + e.1.1)) (us.drop (2 ^ n))

/-- A path that decides a bit: a decision against its LLR costs what the decoder charges for it. -/
def PolarPath.take (p : PolarPath) (l : Int) (u : Bool) (info : Bool) (track : Bool) : PolarPath :=
  let reg := rotPc p.reg
  { us := p.us ++ [u], info := if info then p.info ++ [u] else p.info
    reg := if info && track then reg.set 0 ((reg.headD false).xor u) else reg
    metric := p.metric + Config.polarCost l u }

/-- The paths with the least metrics, at most eight, earlier ones first among equals. -/
def PolarPath.insert (a : PolarPath) : List PolarPath → List PolarPath
  | [] => [a]
  | b :: t => if a.metric < b.metric then a :: b :: t else b :: PolarPath.insert a t
def bestPaths (ps : List PolarPath) : List PolarPath := (ps.foldl (fun l p => p.insert l) []).take 8

/-- The list of paths after every input, the best first. -/
def Polar.paths (c : Polar) (l : List Int) : List PolarPath :=
  let ins := c.inputs
  let pcs := c.pcSet
  (List.range c.len).foldl (fun ps i =>
    if i ∈ ins ∧ i ∉ pcs then
      bestPaths (ps.flatMap (fun p =>
        let v := scLlr c.n l p.us
        [p.take v false true (decide (c.pc ≠ 0)), p.take v true true (decide (c.pc ≠ 0))]))
    else
      ps.map (fun p =>
        p.take (scLlr c.n l p.us) (if i ∈ pcs then (rotPc p.reg).headD false else false) false false))
    [⟨[], [], List.replicate 5 false, 0⟩]

/-- The payload of a path, in payload order. -/
def Polar.payload (c : Polar) (p : PolarPath) : Nat :=
  ((c.payloadOrder.zip p.info).map (fun e => if e.2 then 2 ^ e.1 else 0)).sum

/-- The last 16 bits of the payload's CRC masked with rnti, its most significant bit first. -/
def maskRnti (k rnti v : Nat) : Nat :=
  (List.range 16).foldl (fun t i => if rnti.testBit (15 - i) then t ^^^ 2 ^ (k - 16 + i) else t) v

/-- The CRC of a payload passes: 24C for DCI, with 24 ones before it, and PBCH; for UCI 6 bits up to 25 bits, else
11 (TS 38.212, 6.3.1.2, 7.1.3, 7.3.2). -/
def Polar.crcPasses (c : Polar) (rnti v : Nat) : Bool :=
  if c.kind = 2 then crcOk (if c.k ≤ 25 then crcPoly 5 else crcPoly 4) c.k v
  else if c.kind = 1 then crcOk (crcPoly 2) c.k v
  else decide (crcFold 24 (crcPoly 2).2 (c.k + 24) (2 ^ 24 - 1 + 2 ^ 24 * maskRnti c.k rnti v) 0 = 0)

/-- CA-SCL decoding with list size 8: the payload of the path with the best metric among those that pass, or of
the best path, and whether one passed (05 R193, 06 R230). -/
def Polar.decode (c : Polar) (rnti : Nat) (ls : List Int) : Nat × Bool :=
  let vs := (c.paths (c.recover ls)).map c.payload
  match vs.find? (c.crcPasses rnti) with
  | some v => (v, true)
  | none => (vs.headD 0, false)

-- Reed–Muller codes of 3 to 11 bits (05 R193; TS 38.212, 5.3.3.3).

/-- Bit `i` of the codeword of a payload of `k` bits. -/
def rmBit (k v i : Nat) : Bool :=
  ((List.range k).filter (fun j => v.testBit j && Config.rmBasis (i % 32) j)).length % 2 = 1

/-- Maximum-likelihood decoding: the payload whose codeword agrees best, the lowest among equals. -/
def rmDecode (k : Nat) (ls : List Int) : Nat :=
  let score (v : Nat) : Int := ((ls.zipIdx).map (fun e => if rmBit k v e.2 then -e.1 else e.1)).sum
  ((List.range (2 ^ k)).foldl (fun (b : Nat × Int) v => if b.2 < score v then (v, score v) else b) (0, score 0)).1

end Sys2Proof.Machine
end

