-- ==== Sys2Proof/Machine/Signal.lean ====
section
/-! DEFINITION. Signal processing of the radio: the transform of the FFT engines (06 R227), the PRACH detector (05
R194, 06 R231), and the arithmetic of channel estimation, equalisation and demapping (05 R186 to R189). The spec
states no number format for the last three: every result is what the units hold of the exact value, a free function
(log entry 71). -/

namespace Sys2Proof.Machine

-- The unit circle, in fixed point.

/-- Fraction bits of the points of the unit circle. -/
def circleBits : Nat := 128

/-- arctan(1 / x) by its series, as a multiple of 2^−128; `p` is the next power of 1 / x. -/
def arctanInv (x : Nat) : Nat → Nat → Nat → Int → Int
  | 0, _, _, a => a
  | f + 1, k, p, a =>
    arctanInv x f (k + 1) (p / (x * x)) (if k % 2 = 0 then a + (p / (2 * k + 1) : Nat) else a - (p / (2 * k + 1) : Nat))

/-- π by Machin's formula. -/
def piFix : Int :=
  16 * arctanInv 5 circleBits 0 (2 ^ circleBits / 5) 0 - 4 * arctanInv 239 circleBits 0 (2 ^ circleBits / 239) 0

/-- cos and sin of an angle by their series: `t` is the term of order `m`. -/
def cosSin (angle : Int) : Nat → Nat → Int → Int × Int → Int × Int
  | 0, _, _, a => a
  | f + 1, m, t, a =>
    let b := match m % 4 with
      | 0 => (a.1 + t, a.2)
      | 1 => (a.1, a.2 + t)
      | 2 => (a.1 - t, a.2)
      | _ => (a.1, a.2 - t)
    cosSin angle f (m + 1) (t * angle / (2 ^ circleBits * ((m : Int) + 1))) b

/-- The point e^(j 2π k / n), in multiples of 2^−128. -/
def circle (n k : Nat) : Int × Int :=
  cosSin (2 * piFix * ((k % n : Nat) : Int) / (n : Int)) circleBits 0 (2 ^ circleBits) (0, 0)

-- The transform of an FFT engine (06 R227).

/-- A component pair of working values. -/
abbrev Pair := Int × Int

/-- The exponent of a prime in `n`. -/
def exponent (p : Nat) : Nat → Nat → Nat
  | 0, _ => 0
  | f + 1, n => if n % p = 0 ∧ n ≠ 0 then exponent p f (n / p) + 1 else 0

/-- The stages: every radix 4, at most one radix 2, radix 3, radix 5. -/
def fftStages (n : Nat) : List Nat :=
  let a := exponent 2 12 n
  List.replicate (a / 2) 4 ++ List.replicate (a % 2) 2 ++ List.replicate (exponent 3 12 n) 3
    ++ List.replicate (exponent 5 12 n) 5

/-- A component rounded convergently after division by 2^d. -/
def shiftNear (v : Int) (d : Nat) : Int := roundInt .near (decide (v < 0)) v.natAbs (-(d : Int))

/-- A pair held at 24 bits, with the saturations. -/
def hold24 (p : Pair) : Pair × Nat :=
  let a := satSigned 24 p.1
  let b := satSigned 24 p.2
  ((a, b), (if a = p.1 then 0 else 1) + (if b = p.2 then 0 else 1))

/-- The product with e^(∓j 2π k / n): quarter turns are exact, the others round to 24 bits. -/
def twiddle (inv : Bool) (n k : Nat) (p : Pair) : Pair × Nat :=
  let i := if inv then k % n else (n - k % n) % n
  if 4 * i % n = 0 then
    hold24 (match 4 * i / n with
      | 0 => p
      | 1 => (-p.2, p.1)
      | 2 => (-p.1, -p.2)
      | _ => (p.2, -p.1))
  else
    let w := circle n i
    let f := Config.twiddleBits
    let q (v : Int) : Int := (v * 2 ^ f * 2 + 2 ^ circleBits) / 2 ^ (circleBits + 1)
    let c := q w.1
    let d := q w.2
    hold24 (shiftNear (p.1 * c - p.2 * d) f, shiftNear (p.1 * d + p.2 * c) f)

/-- A butterfly output: the sum of twiddle products. -/
def butterfly (inv : Bool) (r q : Nat) (xs : List Pair) : Pair × Nat :=
  let ts := (xs.zipIdx).map (fun e => twiddle inv r (q * e.2) e.1)
  let s := hold24 ((ts.map (fun t => t.1.1)).sum, (ts.map (fun t => t.1.2)).sum)
  (s.1, s.2 + (ts.map Prod.snd).sum)

/-- The right shift at the end of a stage. -/
def stageShift (sh : Nat) (p : Pair) : Pair := (shiftNear p.1 sh, shiftNear p.2 sh)

/-- Stages in order, decimating in frequency; with the saturations. -/
def fftFreq (inv : Bool) : List (Nat × Nat) → List Pair → List Pair × Nat
  | [], x => (x, 0)
  | (r, sh) :: rest, x =>
    let n := x.length
    let m := n / r
    let parts := (List.range r).map (fun q =>
      let a := (List.range m).map (fun i =>
        let b := butterfly inv r q ((List.range r).map (fun k => x.getD (i + m * k) (0, 0)))
        let t := twiddle inv n (i * q) b.1
        (stageShift sh t.1, b.2 + t.2))
      let y := fftFreq inv rest (a.map Prod.fst)
      (y.1, y.2 + (a.map Prod.snd).sum))
    ((List.range n).map (fun i => (parts.getD (i % r) ([], 0)).1.getD (i / r) (0, 0)), (parts.map Prod.snd).sum)

/-- Stages in order, decimating in time: the last stage comes first in the list. -/
def fftTime (inv : Bool) : List (Nat × Nat) → List Pair → List Pair × Nat
  | [], x => (x, 0)
  | (r, sh) :: rest, x =>
    let n := x.length
    let m := n / r
    let parts := (List.range r).map (fun k =>
      let y := fftTime inv rest ((List.range m).map (fun i => x.getD (k + r * i) (0, 0)))
      let t := (y.1.zipIdx).map (fun e => twiddle inv n (e.2 * k) e.1)
      (t.map Prod.fst, y.2 + (t.map Prod.snd).sum))
    let outs := (List.range n).map (fun i =>
      butterfly inv r (i / m) (parts.map (fun p => p.1.getD (i % m) (0, 0))))
    (outs.map (fun o => stageShift sh o.1), (parts.map Prod.snd).sum + (outs.map Prod.snd).sum)

/-- The transform of N points with a schedule, in natural order, and its saturations at 24 bits. Whether the
stages decimate in time or in frequency is not stated (log entry 71). -/
def fftRunPoints (inv : Bool) (sched : Nat) (x : List Pair) : List Pair × Nat :=
  let st := ((fftStages x.length).zipIdx).map (fun e => (e.1, sched / 4 ^ e.2 % 4))
  if Config.fftInTime then fftTime inv st.reverse x else fftFreq inv st x

-- Held arithmetic.

def Cx.zero : Cx := (0, 0)
def Cx.hold (z : Cx) : Cx := (Config.held z.1, Config.held z.2)
def Cx.add (a b : Cx) : Cx := Cx.hold (a.1 + b.1, a.2 + b.2)
def Cx.sub (a b : Cx) : Cx := Cx.hold (a.1 - b.1, a.2 - b.2)
def Cx.mul (a b : Cx) : Cx := Cx.hold (a.1 * b.1 - a.2 * b.2, a.1 * b.2 + a.2 * b.1)
def Cx.conj (a : Cx) : Cx := (a.1, -a.2)
def Cx.scale (a : Cx) (r : Rat) : Cx := Cx.hold (a.1 * r, a.2 * r)
def Cx.abs2 (a : Cx) : Rat := Config.held (a.1 * a.1 + a.2 * a.2)
/-- Sums in index order (log entry 71). -/
def Cx.sum (l : List Cx) : Cx := l.foldl Cx.add Cx.zero
def sumHeld (l : List Rat) : Rat := l.foldl (fun a b => Config.held (a + b)) 0

/-- e^(j 2π k / n), as the units hold it. -/
def Cx.cis (n : Nat) (k : Int) : Cx :=
  let c := circle n (k % (n : Int)).toNat
  Cx.hold ((c.1 : Rat) / 2 ^ circleBits, (c.2 : Rat) / 2 ^ circleBits)

/-- Σ x_m e^(± j 2π m k / n) at each k of a list. -/
def dftAt (sign : Int) (n : Nat) (x : List Cx) (ks : List Nat) : List Cx :=
  ks.map (fun (k : Nat) => Cx.sum ((x.zipIdx).map (fun (e : Cx × Nat) =>
    Cx.mul e.1 (Cx.cis n (sign * ((e.2 * k : Nat) : Int))))))

/-- A rational rounded to an integer, ties to even. -/
def ratNear (x : Rat) : Int :=
  let f := x.floor
  let r := x - (f : Rat)
  if r < 1 / 2 then f else if 1 / 2 < r then f + 1 else if f % 2 = 0 then f else f + 1

/-- √n to 128 fraction bits. -/
def sqrtRat (n : Nat) : Rat := (Nat.sqrt (n * 2 ^ 256) : Rat) / 2 ^ 128

-- Powers in 0.1 dB (06 R231).

/-- x is at least 10^(h / 200). -/
def atLeastDb (x : Rat) (h : Int) : Bool :=
  if 0 ≤ h then decide ((10 : Rat) ^ h.toNat ≤ x ^ 200) else decide (1 ≤ x ^ 200 * (10 : Rat) ^ (-h).toNat)

/-- A power ratio in 0.1 dB, rounded to nearest with ties to the larger value: the largest t of 16 bits with
10^((2 t − 1) / 200) ≤ x. -/
def db10From (x : Rat) : Nat → Int → Int
  | 0, t => t
  | i + 1, t => db10From x i (if atLeastDb x (2 * (t + 2 ^ i) - 1) then t + 2 ^ i else t)
def db10 (x : Rat) : Int := db10From x 16 (-32768)

-- PRACH (05 R194, 06 R231).

/-- What an occasion's detector is told (06 R226). -/
structure Prach where
  long : Bool
  ant : Nat
  roots : Nat
  root0 : Nat
  ncs : Nat
  /-- 0 unrestricted, 1 restricted type A, 2 restricted type B -/
  set : Nat
  /-- 0.1 dB -/
  thresh : Nat
  preambles : Nat
  /-- numerology of the timing advance -/
  mu : Nat
  deriving DecidableEq, Repr

def Prach.len (p : Prach) : Nat := if p.long then 839 else 139
def Prach.points (p : Prach) : Nat := if p.long then 1024 else 256

/-- The physical root of the occasion's root `r`. -/
def Prach.root (p : Prach) (r : Nat) : Nat := Config.prachRoot p.long ((p.root0 + r) % (p.len - 1))

/-- The root sequence in the frequency domain: the DFT of the Zadoff–Chu sequence. -/
def Prach.sequence (p : Prach) (r : Nat) : List Cx :=
  let l := p.len
  let x := (List.range l).map (fun i => Cx.cis (2 * l) (-((p.root r * i * (i + 1) : Nat) : Int)))
  dftAt (-1) l x (List.range l)

/-- Correlation power of a root at every point, summed over antennas. -/
def Prach.power (p : Prach) (r : Nat) (xs : List (List Cx)) : List Rat :=
  let ref := p.sequence r
  let ys := xs.map (fun x => dftAt 1 p.points ((x.zip ref).map (fun e => Cx.mul e.1 e.2.conj)) (List.range p.points))
  (List.range p.points).map (fun k => sumHeld (ys.map (fun y => (y.getD k Cx.zero).abs2)))

/-- Root and cyclic shift of each preamble. -/
def Prach.shifts (p : Prach) : List (Nat × Nat) :=
  ((List.range p.roots).flatMap (fun r =>
    (if p.set ≠ 0 then Config.prachShifts p.set p.ncs (p.root r)
     else if p.ncs = 0 then [0] else (List.range (p.len / p.ncs)).map (fun v => v * p.ncs)).map (fun c => (r, c)))).take
    p.preambles

/-- Points of a preamble's window. -/
def Prach.window (p : Prach) (shift : Nat) : List Nat :=
  let n := if p.ncs = 0 then p.points else p.ncs * p.points / p.len
  (List.range n).map (fun d => ((p.len - shift) % p.len * p.points / p.len + d) % p.points)

/-- The largest of a list of samples, the earliest among equals: position and value. -/
def peakOf (l : List Rat) : Nat × Rat :=
  (l.zipIdx).foldl (fun b e => if b.2 < e.1 then (e.2, e.1) else b) (0, l.headD 0)

/-- Timing advance of a peak `d` points into its window, in 16 × 64 × T_c / 2^μ (05 R194). -/
def Prach.advance (p : Prach) (d : Nat) : Nat := if p.long then 3 * d * 2 ^ p.mu / 2 else d * 128 / p.points

/-- What a detector finds: index, timing advance and power of each preamble; noise and occasion_rssi. -/
structure PrachOut where
  hits : List (Nat × Nat × Int)
  noise : Int
  rssi : Int
  deriving DecidableEq, Repr

/-- Detection in an occasion's samples, antenna by antenna. Powers are relative to what a full-scale preamble
gives on every antenna. -/
def Prach.detect (p : Prach) (xs : List (List Cx)) : PrachOut :=
  let pw := (List.range p.roots).map (fun r => p.power r xs)
  let all := pw.flatMap id
  let noise := Config.held (sumHeld all / (max 1 all.length : Nat))
  let a2 := Config.fullScale * Config.fullScale
  let full := (p.ant : Rat) * a2 * ((p.len ^ 3 : Nat) : Rat)
  let limit (x : Rat) : Bool := decide (noise ^ 100 * (10 : Rat) ^ p.thresh < x ^ 100)
  let found := (p.shifts.zipIdx).filterMap (fun e =>
    let row := pw.getD e.1.1 []
    let k := peakOf ((p.window e.1.2).map (fun i => row.getD i 0))
    if limit k.2 then some (e.2, p.advance k.1 % 2 ^ 16, db10 (k.2 / full)) else none)
  let rssi := sumHeld ((xs.flatMap id).map Cx.abs2) / (max 1 (xs.flatMap id).length : Nat)
  ⟨found, db10 (noise / full), db10 (rssi / a2)⟩

-- Matrices (05 R187).

/-- A matrix by rows. -/
abbrev CMat := List (List Cx)

def CMat.at (m : CMat) (i j : Nat) : Cx := (m.getD i []).getD j Cx.zero
def CMat.of (r c : Nat) (f : Nat → Nat → Cx) : CMat := (List.range r).map (fun i => (List.range c).map (f i))
/-- The product of an r × n and an n × c matrix. -/
def CMat.mul (r n c : Nat) (a b : CMat) : CMat :=
  CMat.of r c (fun i j => Cx.sum ((List.range n).map (fun k => Cx.mul (a.at i k) (b.at k j))))
/-- The conjugate transpose of an r × c matrix. -/
def CMat.herm (r c : Nat) (a : CMat) : CMat := CMat.of c r (fun i j => (a.at j i).conj)
/-- A + s I. -/
def CMat.addDiag (n : Nat) (a : CMat) (s : Rat) : CMat :=
  CMat.of n n (fun i j => if i = j then Cx.add (a.at i j) (s, 0) else a.at i j)

/-- LDLᴴ factorisation: the columns of L and the diagonal, column by column. -/
def ldlStep (n : Nat) (a : CMat) (st : CMat × List Rat) (j : Nat) : CMat × List Rat :=
  let dot (i : Nat) : Cx := Cx.sum ((List.range j).map (fun k =>
    Cx.scale (Cx.mul (st.1.at k i) (st.1.at k j).conj) (st.2.getD k 0)))
  let d := (Cx.sub (a.at j j) (dot j)).1
  let col := (List.range n).map (fun i =>
    if i < j then Cx.zero else if i = j then ((1 : Rat), (0 : Rat)) else Cx.scale (Cx.sub (a.at i j) (dot i)) (1 / d))
  (st.1 ++ [col], st.2 ++ [d])

/-- The column of the inverse for unit vector `u`: forward and backward substitution. -/
def ldlColumn (n : Nat) (f : CMat × List Rat) (u : Nat) : List Cx :=
  let z := (List.range n).foldl (fun (z : List Cx) i =>
    z ++ [Cx.sub (if i = u then (1, 0) else Cx.zero)
      (Cx.sum ((List.range i).map (fun k => Cx.mul (f.1.at k i) (z.getD k Cx.zero))))]) []
  let w := (z.zipIdx).map (fun e => Cx.scale e.1 (1 / f.2.getD e.2 1))
  (List.range n).foldl (fun (x : List Cx) t =>
    let i := n - 1 - t
    x.set i (Cx.sub (w.getD i Cx.zero)
      (Cx.sum (((List.range n).filter (fun k => decide (i < k))).map (fun k =>
        Cx.mul (f.1.at i k).conj (x.getD k Cx.zero)))))) (List.replicate n Cx.zero)

/-- The inverse by LDLᴴ factorisation (05 R187). -/
def CMat.invDirect (n : Nat) (a : CMat) : CMat :=
  let f := (List.range n).foldl (ldlStep n a) ([], [])
  let cols := (List.range n).map (ldlColumn n f)
  CMat.of n n (fun i j => CMat.at cols j i)

/-- Newton–Schulz steps X ← X (2 I − A X) (05 R187). -/
def newtonSchulz (n : Nat) (a : CMat) : Nat → CMat → CMat
  | 0, x => x
  | k + 1, x =>
    let ax := CMat.mul n n n a x
    newtonSchulz n a k (CMat.mul n n n x (CMat.of n n (fun i j =>
      Cx.sub (if i = j then (2, 0) else Cx.zero) (ax.at i j))))

/-- The inverse by exactly `steps` steps from I ÷ trace(A). -/
def CMat.invIter (n steps : Nat) (a : CMat) : CMat :=
  let tr := sumHeld ((List.range n).map (fun i => (a.at i i).1))
  newtonSchulz n a steps (CMat.of n n (fun i j => if i = j then (Config.held (1 / tr), 0) else Cx.zero))

/-- The weights of a group: (HᴴH + σ²I)⁻¹Hᴴ for H of `r` antennas and `n` layers, with the inverse. `steps`: none
for the direct method. -/
def mmseOf (r n : Nat) (steps : Option Nat) (h : CMat) (s2 : Rat) : CMat × CMat :=
  let hh := CMat.herm r n h
  let a := CMat.addDiag n (CMat.mul n r n hh h) s2
  let inv := match steps with
    | none => CMat.invDirect n a
    | some k => CMat.invIter n k a
  (CMat.mul n n r inv hh, inv)

/-- Regularised zero-forcing weights Hᴴ(HHᴴ + σ²I)⁻¹ for H of `n` layers and `t` antennas (05 R189). -/
def zeroForcing (n t steps : Nat) (h : CMat) (s2 : Rat) : CMat :=
  let hh := CMat.herm n t h
  let a := CMat.addDiag n (CMat.mul n t n h hh) s2
  CMat.mul t n n hh (CMat.invIter n steps a)

/-- Post-equaliser SINR of layer `l` of an MMSE group, from the inverse. -/
def sinrOf (inv : CMat) (s2 : Rat) (l : Nat) : Rat :=
  Config.held (1 / Config.held (s2 * (inv.at l l).1) - 1)

-- Demapping (05 R188).

/-- The sum of the squared coordinates by which a constellation is normalised (TS 38.211, 5.1). -/
def qamNorm (q : Nat) : Nat :=
  match q with
  | 1 | 2 => 2
  | 4 => 10
  | 6 => 42
  | 8 => 170
  | _ => 682

/-- The symbol that Q bits map to, at unit mean power. -/
def qamSymbol (q : Nat) (bits : List Bool) : Cx :=
  let p := qamPoint bits
  Cx.hold ((p.1 : Rat) / sqrtRat (qamNorm q), (p.2 : Rat) / sqrtRat (qamNorm q))

/-- Max-log difference of bit `b`: positive where bit 0 is nearer (06 R210). -/
def maxLog (q : Nat) (y : Cx) (b : Nat) : Rat :=
  let dist (n : Nat) : Rat := (Cx.sub y (qamSymbol q (symBits q n))).abs2
  let side (v : Bool) : List Rat := ((List.range (2 ^ q)).filter (fun n => decide (n.testBit b = v))).map dist
  let least (l : List Rat) : Rat := match l with
    | [] => 0
    | h :: t => t.foldl min h
  least (side true) - least (side false)

/-- An LLR: weighted by the SINR, narrowed with convergent rounding, clamped. The unit of an LLR is not stated
(log entry 71). -/
def llrOf (q : Nat) (y : Cx) (sinr : Rat) (b : Nat) : Int :=
  max (-127) (min 127 (ratNear (maxLog q y b * sinr * Config.llrUnit)))

/-- Bits of the TS 38.211 Gold sequence from position `at`. -/
def goldSeq (cinit start n : Nat) : Nat := goldBits n (goldSkip (1600 + start) (1, cinit % 2 ^ 31))

end Sys2Proof.Machine
end

