-- ==== Sys2Proof/Machine/Slots.lean ====
section
/-! DEFINITION. The slot pipelines (05 R173, R182 to R194; 12 R404 to R409, R425, R430): the downlink from
requests to frames, the uplink from sections to indications, and the commit point (07 R260 to
R263). -/

namespace Sys2Proof.Machine

-- Frames (12 R404, R406, R409).

/-- A sub-port is up (12 R402). -/
def State.linkUp (s : State) (port sub : Nat) : Bool := s.rbit (aPORTn port + 4) sub

/-- Queue a frame on a sub-port. -/
def State.queueFrame (s : State) (port sub : Nat) (f : Frame) : State :=
  let x := s.sub port sub
  s.setSub port sub { x with frames := x.frames ++ [f] }

/-- The next sequence ID of an eAxC and plane: 0 C-plane, 1 U-plane (12 R404). -/
def State.nextSeq (s : State) (port sub eaxc plane : Nat) : Nat × State :=
  let x := s.sub port sub
  let k := 2 * eaxc + plane
  let v := SMap.get (fun _ => 0) x.seqs k
  (v, s.setSub port sub { x with seqs := SMap.put (fun _ => 0) x.seqs k ((v + 1) % 256) })

/-- Queue a fronthaul frame of a stream of a cell, with the next sequence ID (12 R401, R404, R406). -/
def State.queueEcpri (s : State) (g : CellCfg) (what : FrameWhat) (st plane after by' : Nat) (body : List Byte) : State :=
  let q := s.nextSeq g.port g.sub (g.eaxc + st) plane
  let data := ecpriBytes (if plane = 0 then 2 else 0) (g.eaxc + st) q.1 body
  q.2.queueFrame g.port g.sub
    { what := what, dst := g.peer, src := s.subMac g.port g.sub, vlan := some g.vlan, queue := if plane = 0 then 6 else 5,
      len := taggedLen data, data := data, seq := q.1, after := after, by' := some by' }

/-- Queue the C-plane frames of a slot, stream by stream, with the messages that each carries. -/
def State.queueCplane (s : State) (c : Nat) (g : CellCfg) (n streams after by' : Nat) (ul : Bool)
    (msgs : Nat → List CMsg) : State :=
  (List.range streams).foldl (fun t st => ((msgs st).flatMap (fun m => m.bodies g n ul)).foldl (fun u b =>
    u.queueEcpri g (.cplane c n st ul) st 0 after by' b) t) s

-- SLOT.indication (05 R185, R176).

/-- SLOT_INDICATION: at air time of slot s − slot_ind_lead. -/
def slotIndication (c : Nat) (s : State) : State :=
  let x := s.cell c
  match x.cfg with
  | some g =>
    if s.awake && x.live && beforeBound x.bound x.nextInd
        && decide (g.air x.nextInd ≤ s.clk + g.lead * slotNs g.scs) then
      (s.setCell c { x with nextInd := x.nextInd + 1 }).cellInd c x.nextInd 0 (.slot (g.air x.nextInd % 2 ^ 64))
    else s
  | none => s

-- Downlink (05 R183, R184, R189).

/-- A PDU's resource elements are sent: PDSCH only with its data (05 R180). -/
def SlotWork.active (w : SlotWork) (p : DlPdu) : Bool :=
  decide (p.kind ≠ .pdsch) || w.data.any (fun e => decide (e.1 = p.index))

/-- The estimates that a PDU's handles name, if each is at most 80 ms old (05 R189). -/
def Cell.estimates (x : Cell) (now : Nat) (p : DlPdu) : Option (List SrsEst) :=
  p.srsHandles.mapM (fun h => x.srs.find? (fun e => decide (e.handle = h) && decide (now ≤ e.at' + 80_000_000)))

/-- Estimates that could not be read are gone (10 R350). -/
def Cell.loseSrs (x : Cell) (handles : List Nat) : Cell :=
  { x with srs := x.srs.filter (fun e => decide (e.handle ∉ handles)) }

/-- Every handle of a PDU yields weights (05 R189). -/
def Cell.handlesOk (x : Cell) (now : Nat) (p : DlPdu) : Bool :=
  decide (p.precoding ≠ 0xFFFF) || (x.estimates now p).isSome

/-- The precoding matrix of a PDU at a sub-carrier, by stream or antenna the weight of each layer: from the list of
CONFIG.request, or regularised zero-forcing weights of the sub-carrier's weight group, from the estimates that its handles
named as processing started; none where the layers go to their ports (05 R176, R189). -/
def SlotWork.matrix (w : SlotWork) (g : CellCfg) (p : DlPdu) (sc : Nat) : Option CMat :=
  if p.precoding = 0xFFFF then
    ((w.csi.find? (fun e => decide (e.1 = p.index))).map Prod.snd).map (fun es =>
      let centre := sc / g.eqGroup * g.eqGroup + g.eqGroup / 2
      let h : CMat := es.map (fun e => e.est.map (fun l => l.getD centre Cx.zero))
      zeroForcing es.length ((es.map (fun e => e.est.length)).headD 0) g.nsSteps h
        (Config.held (sumHeld (es.map (fun e => e.noise)) / (max 1 es.length : Nat))))
  else (g.fapi.precoding.find? (fun e => decide (e.1 = p.precoding))).map (fun e =>
    e.2.map (fun row => row.map (fun z => ((z.1 : Rat) / 2 ^ 15, (z.2 : Rat) / 2 ^ 15))))

/-- What a PDU's mapping and sequences depend on. -/
def DlPdu.key (p : DlPdu) : List Nat :=
  [p.kind.bit, p.prb.1, p.prb.2, p.sym.1, p.sym.2, p.layers, p.rnti, p.beam] ++ p.ports ++ p.params

/-- Sub-carriers of a run of PRBs. -/
def carriers (r : Nat × Nat) : List Nat := (List.range (12 * r.2)).map (· + 12 * r.1)

/-- Modulation symbols that each layer of a PDU carries in a slot. -/
def DlPdu.elements (p : DlPdu) : Nat :=
  ((symRange p.sym).flatMap (fun k => (carriers p.prb).filterMap (fun sc => Config.dlRe p.key k sc))).eraseDups.length

/-- The codeword of a layer, the layer within it, and the codeword's layers (TS 38.211, 7.3.1.3). -/
def DlPdu.layerOf (p : DlPdu) (l : Nat) : Nat × Nat × Nat :=
  let n := max 1 p.layers
  if p.cws.length ≤ 1 then (0, l, n) else if l < n / 2 then (0, l, n / 2) else (1, l - n / 2, n - n / 2)

/-- Layers of a codeword, and its coded bits. -/
def DlPdu.cwLayers (p : DlPdu) (j : Nat) : Nat :=
  let n := max 1 p.layers
  if p.cws.length ≤ 1 then n else if j = 0 then n / 2 else n - n / 2
def DlPdu.cwBits (p : DlPdu) (j : Nat) (cw : Codeword) : Nat := p.elements * p.cwLayers j * cw.qm

/-- A codeword of a PDU encoded: a transport block of the slot's data, or a DCI or MIB with its CRC (05 R166). -/
def SlotWork.encode (w : SlotWork) (p : DlPdu) (j : Nat) (cw : Codeword) : Nat :=
  let e := p.cwBits j cw
  if p.kind = .pdsch then
    let bytes := (w.data.filter (fun d => decide (d.1 = p.index))).flatMap Prod.snd
    let skip := ((p.cws.take j).map (fun c => c.tbBytes)).sum
    (tbShape cw.bg (8 * cw.tbBytes)).encode (fromLE ((bytes.drop skip).take cw.tbBytes)) cw.limit e (p.cwLayers j) cw.qm
      cw.rv
  else
    let n := p.bits.length
    let v := ofBits p.bits
    let ones := if p.kind = .pdcch then 2 ^ 24 - 1 else 0
    let crc := if p.kind = .pdcch then crcBits (crcPoly 2) (n + 24) (ones + 2 ^ 24 * v) else crcBits (crcPoly 2) n v
    let c : Polar := ⟨n + 24, e, if p.kind = .pdcch then 0 else 1⟩
    c.encode (if p.kind = .pdcch then maskRnti (n + 24) p.rnti (v + 2 ^ n * crc) else v + 2 ^ n * crc)

/-- A downlink PDU has coded bits. -/
def DlPdu.codes (p : DlPdu) : Bool := decide (p.kind ≠ .csirs)

/-- Every codeword that the slot sends is coded: its processing has finished (12 R409). -/
def SlotWork.codedAll (w : SlotWork) : Bool :=
  (w.dlPdus.zipIdx).all (fun e => !(e.1.codes && w.active e.1)
    || (List.range e.1.cws.length).all (fun j => w.coded.any (fun c => decide (c.1 = e.2) && decide (c.2.1 = j))))

/-- An engine that the layer-1 controller may use now: in a radio island, with no command before this one (06
R223). -/
def State.l1Engine (s : State) (u : UnitId) : Bool :=
  u.exists' && s.inRadio u && !(s.isRetired u) && !(s.underSubst u)
    && !(s.kernels.any (fun k => decide (k.unit = some (u.die, u.cls.code, u.num))))

/-- The layer-1 controller has an encoder code a codeword of a slot: LDPC for PDSCH, polar for PDCCH and SSB (05
R193, 06 R223). -/
def State.l1Encode (s : State) (u : UnitId) (j : L1Job) : State :=
  let x := s.cell j.cell
  let w := x.work j.slot
  match w.dlPdus[j.pdu]? with
  | some p =>
    match p.cws[j.part]? with
    | some cw =>
      if s.awake && s.l1Engine u && decide (x.die = u.die) && x.live && w.started && !w.cplane && w.active p && p.codes
          && decide ((p.kind = .pdsch) = (u.cls = .ldpcEnc))
          && !(w.coded.any (fun c => decide (c.1 = j.pdu) && decide (c.2.1 = j.part))) then
        s.setCell j.cell (x.setWork { w with coded := w.coded ++ [(j.pdu, j.part, w.encode p j.part cw)] })
      else s
    | none => s
  | none => s

/-- The value of layer `l` of a PDU at a symbol and sub-carrier: a modulation symbol of its scrambled codeword, or a
reference or synchronisation signal (05 R183). -/
def SlotWork.element (w : SlotWork) (p : DlPdu) (place l k sc : Nat) : Cx :=
  match Config.dlRe p.key k sc with
  | none => Config.dlRef p.key l k sc
  | some i =>
    let q := p.layerOf l
    match p.cws[q.1]?, w.coded.find? (fun c => decide (c.1 = place) && decide (c.2.1 = q.1)) with
    | some cw, some c =>
      let bits := c.2.2 ^^^ goldSeq cw.gold.1 cw.gold.2 (p.cwBits q.1 cw)
      qamSymbol cw.qm (seqBits bits ((i * q.2.2 + q.2.1) * cw.qm) cw.qm)
    | _, _ => Cx.zero

/-- The value of a stream at a symbol and sub-carrier: layers mapped and, in category A, precoded (05 R183, 12
R405). -/
def SlotWork.stream (w : SlotWork) (g : CellCfg) (k st sc : Nat) : Cx :=
  Cx.sum ((w.dlPdus.zipIdx).map (fun e =>
    let p := e.1
    if inRange p.sym k && inRange p.prb (sc / 12) && w.active p then
      let ls := List.range (max 1 p.layers)
      match (if g.fapi.massive then none else w.matrix g p sc) with
      | some m => Cx.sum (ls.map (fun l => Cx.mul (m.at st l) (w.element p e.2 l k sc)))
      | none => Cx.sum ((ls.filter (fun l => decide (p.ports.getD l l = st))).map (fun l => w.element p e.2 l k sc))
    else Cx.zero))

/-- A complex value as CI16 components, in a unit. -/
def Cx.ci16 (z : Cx) (unit : Rat) : List Int := [satSigned 16 (ratNear (z.1 * unit)), satSigned 16 (ratNear (z.2 * unit))]

/-- Section extension 1 of a PRB for layer `l` of a PDSCH PDU: of each of its weight groups the column of the PDU's matrix,
in BFP blocks of the width of comp_dl (12 R405). -/
def SlotWork.weightExt (w : SlotWork) (g : CellCfg) (p : DlPdu) (l prb : Nat) : List Byte :=
  compHdr (1, g.compDl.2) :: (List.range (12 / max 1 g.eqGroup)).flatMap (fun i =>
    match w.matrix g p (12 * prb + i * g.eqGroup) with
    | none => []
    | some m =>
      let cs := m.flatMap (fun row => (row.getD l Cx.zero).ci16 Config.weightUnit)
      (List.range ((cs.length + 23) / 24)).flatMap (fun b =>
        let block := (cs.drop (24 * b)).take 24
        (bfpCompress g.compDl.2 (block ++ List.replicate (24 - block.length) 0)).1))

/-- The C-plane sections of a PDU on a symbol of a stream. In category B a PDSCH PDU is on the streams of its layers, and its
weights travel PRB by PRB with its first symbol (12 R405, log entry 89); modulation compression adds extension 4 (12
R406). -/
def SlotWork.dlSections (w : SlotWork) (g : CellCfg) (st k : Nat) (p : DlPdu) : List CSection :=
  let four : List (Nat × List Byte) := if g.compDl.1 = 4 then [(4, beBytes 2 (Config.modScale p.key))] else []
  let ls := (List.range (max 1 p.layers)).filter (fun l => decide (p.ports.getD l l = st))
  let plain := (sectionRuns g.fapi.grid 276 276 p.prb.1 p.prb.2).map (fun r => (⟨r, p.beam, [], four⟩ : CSection))
  if g.fapi.massive && decide (p.kind = .pdsch) then
    match ls with
    | [] => []
    | l :: _ =>
      if k = p.sym.1 then (List.range p.prb.2).map (fun i =>
        ⟨(p.prb.1 + i, 1), p.beam, [], four ++ [(1, w.weightExt g p l (p.prb.1 + i))]⟩)
      else plain
  else plain

/-- The C-plane messages of a slot's downlink for a stream, symbol by symbol: section type 1 (12 R405, R406). -/
def SlotWork.dlMsgs (w : SlotWork) (g : CellCfg) (st : Nat) : List CMsg :=
  w.dlSyms.map (fun k => ⟨k, 0, [compHdr g.compDl, 0],
    (w.dlPdus.filter (fun p => inRange p.sym k && w.active p)).flatMap (w.dlSections g st k)⟩)

/-- DOWNLINK_PROCESSING: at the submission deadline of the cell's next slot its processing starts with the
requests that have arrived. A PDSCH PDU whose SRS handles yield no weights leaves its resource
elements at zero, and MSG_SLOT_ERR reports it (05 R183, R189, 12 R430). `lost` are the handles of retained estimates
whose blocks could not be read, each with its block: they count as missing (10 R350). -/
def downlinkProcessing (c : Nat) (lost : List (Nat × Nat)) (s : State) : State :=
  let x := (s.cell c).loseSrs (lost.map Prod.fst)
  match x.cfg with
  | some g =>
    let n := x.nextDl
    if s.awake && x.live && beforeBound x.bound n && decide (g.air n ≤ s.clk + submitLead g.scs) then
      let w := x.work n
      let y := { x with nextDl := n + 1 }
      let s := (lost.map Prod.snd).foldl State.failUe s
      if w.lateDl || w.dlPdus.isEmpty then s.setCell c y
      else
        let bad := (w.dlPdus.filter (fun p => decide (p.kind = .pdsch) && !(x.handlesOk s.now p))).map
          (fun p => p.index)
        let csi := w.dlPdus.filterMap (fun p =>
          if p.precoding = 0xFFFF then (x.estimates s.now p).map (fun es => (p.index, es)) else none)
        let w' := { w with started := true, csi := csi, data := w.data.filter (fun e => decide (e.1 ∉ bad)) }
        let t := (s.setCell c (y.setWork w')).capture 2 c n s.clk
        if bad = [] then t else t.cellInd c n w.dlSeq (.error 0x0080 .slotErr bad)
    else s
  | none => s

/-- C-plane time of a slot (05 R184 step 2). -/
def CellCfg.cplaneTime (g : CellCfg) (n : Nat) : Nat := g.air n - (g.t1aMaxUp + g.tcpAdvDl) * 1000

/-- The close of a symbol's window (12 R408). -/
def CellCfg.closeTime (g : CellCfg) (n k : Nat) : Nat := g.airSym n (k + 1) + g.ta4Max * 1000

/-- An instant of a cell's slot that lies in holdover exceeded, or at which its link is down: the cause of the slot's notice
(07 R262, 12 R425). -/
def State.outage (s : State) (g : CellCfg) (t : Nat) : Option Nat :=
  let v := s.ports.servo
  if v.lost && decide (v.lostAt ≤ t) && decide (t ≤ s.clk) then some 3
  else if !(s.linkUp g.port g.sub) && decide ((s.sub g.port g.sub).downAt ≤ t) && decide (t ≤ s.clk) then some 2
  else none

/-- A slot and direction is noticed for what of it is not delivered; nothing is noticed where all is (07 R261). -/
def State.noticeGone (s : State) (c : Nat) (w : SlotWork) (ul : Bool) (cause : Nat) : State :=
  let gone := s.unserved c w ul
  if gone = 0 then s else s.noticeSlot c w.slot ul cause gone

/-- Slots of cells that `on` picks whose C-plane time, or whose last uplink window's close, fell between a
time of the local clock and now are noticed: the link was down then, or holdover exceeded held (07 R262, 12
R425). -/
def State.noticePassed (s : State) (on : CellCfg → Bool) (from' cause : Nat) : State :=
  let past (t : Nat) : Bool := decide (from' ≤ t) && decide (t ≤ s.clk)
  s.radio.cells.foldl (fun t e =>
    match e.2.cfg with
    | some g =>
      if e.2.live && on g then
        e.2.slots.foldl (fun u w =>
          let v := if !w.dlPdus.isEmpty && !w.lateDl && !w.dlDone && past (g.cplaneTime w.slot) then
            u.noticeGone e.1 w false cause else u
          if w.ul.isSome && !w.lateUl && !w.ulDone && past (g.closeTime w.slot w.lastUl) then
            v.noticeGone e.1 w true cause else v) t
      else t
    | none => t) s

/-- C_PLANE_LAUNCH: the processing of the slot has finished; its C-plane frames are queued. While its link is
down or holdover exceeded holds they wait; where one of these holds at its C-plane time the slot is noticed, whether or not
its processing has finished (12 R409, R425, 07 R262). -/
def cPlaneLaunch (c n : Nat) (s : State) : State :=
  let x := s.cell c
  let w := x.work n
  match x.cfg with
  | some g =>
    if s.awake && x.live && w.started && !w.lateDl && !w.dlDone && beforeBound x.bound n then
      match s.outage g (g.cplaneTime n) with
      | some cause => s.noticeGone c w false cause
      | none =>
        if w.codedAll && !w.cplane && !s.ports.servo.lost && s.linkUp g.port g.sub then
          (s.setCell c (x.setWork { w with cplane := true })).queueCplane c g n g.dlStreams s.clk (g.cplaneTime n) false
            (w.dlMsgs g)
        else s
    else s
  | none => s

/-- The CI16 components of a PRB. -/
def SlotWork.txPrb (w : SlotWork) (g : CellCfg) (k st prb : Nat) : List Int :=
  (List.range 12).flatMap (fun i => (w.stream g k st (12 * prb + i)).ci16 Config.txUnit)

/-- A PRB in a compression method, with its saturations: none, BFP, modulation compression (12 R406,
R407). -/
def compressPrb (m : Comp) (cs : List Int) : List Byte × Nat :=
  if m.1 = 1 then bfpCompress m.2 cs
  else if m.1 = 4 then (((Config.modComp m.2 cs) ++ List.replicate (3 * m.2) 0).take (3 * m.2), 0)
  else (((bfpBlock m.2 0 (cs.map (fun c => shiftZero c (16 - m.2)))).drop 1), 0)

/-- Bytes of a PRB. -/
def prbBytes (m : Comp) : Nat := 3 * m.2 + (if m.1 = 1 then 1 else 0)

/-- The PRBs that the symbol's PDUs span. -/
def SlotWork.span (w : SlotWork) (k : Nat) : Nat × Nat :=
  let rs := (w.dlPdus.filter (fun p => inRange p.sym k)).map (fun p => p.prb)
  let lo := (rs.map Prod.fst).foldl min 275
  let hi := (rs.map (fun r => r.1 + r.2)).foldl max 0
  (lo, hi - lo)

/-- Queue the U-plane frames of one stream of a symbol; saturations count in sat_dl (12 R407). -/
def State.queueUplane (s : State) (c : Nat) (g : CellCfg) (w : SlotWork) (k st : Nat) : State :=
  let sp := w.span k
  (sectionRuns g.fapi.grid (9176 / prbBytes g.compDl) 276 sp.1 sp.2).foldl (fun t r =>
    let ps := (List.range r.2).map (fun i => compressPrb g.compDl (w.txPrb g k st (r.1 + i)))
    (t.bumpRf (aCELLCNT c + 24) 31 0 ((ps.map Prod.snd).sum)).queueEcpri g (.uplane c w.slot k st) st 1
      (g.airSym w.slot k - g.t1aMaxUp * 1000) (g.airSym w.slot k - g.t1aMinUp * 1000)
      (appHeader g w.slot k 0 false ++ sectionHead 0 r ++ [compHdr g.compDl, 0] ++ ps.flatMap Prod.fst)) s

/-- U_PLANE_LAUNCH: at air(k) − t1a_max_up the frames of symbol k may leave, after those of the earlier symbols (05
R183, R184 step 3). -/
def uPlaneLaunch (c n k : Nat) (s : State) : State :=
  let x := s.cell c
  let w := x.work n
  match x.cfg with
  | some g =>
    if s.awake && x.live && w.cplane && !w.lateDl && !w.dlDone && decide (k ∈ w.dlSyms) && decide (k ∉ w.queued)
        && w.dlSyms.all (fun j => decide (k ≤ j) || decide (j ∈ w.queued))
        && decide (g.airSym n k ≤ s.clk + g.t1aMaxUp * 1000) && (s.outage g (g.cplaneTime n)).isNone then
      (List.range g.dlStreams).foldl (fun t st => t.queueUplane c g w k st)
        (s.setCell c (x.setWork { w with queued := w.queued ++ [k] }))
    else s
  | none => s

/-- A frame of a cell that does not leave makes its channels undelivered (12 R409); `link` tells that its link
is down. -/
def State.loseFrame (s : State) (f : Frame) (link : Bool) : State :=
  let lose (c n : Nat) (ch : SlotWork → List Nat) : State :=
    let x := s.cell c
    if x.slots.any (fun w => decide (w.slot = n)) then
      let w := x.work n
      s.setCell c (x.setWork { w with lost := (w.lost ++ ch w).eraseDups, linkLost := w.linkLost || link })
    else s
  match f.what with
  | .cplane c n _ false => lose c n (fun w => w.dlPdus.map (fun p => p.kind.bit))
  | .uplane c n k _ => lose c n (fun w => w.symChannels k)
  | _ => s

/-- The cell that a fronthaul frame belongs to. -/
def Frame.cell (f : Frame) : Option Nat :=
  match f.what with
  | .cplane c _ _ _ | .uplane c _ _ _ => some c
  | _ => none

/-- A discarded frame of a cell counts in dl_missed (12 R409). -/
def State.missFrame (link : Bool) (s : State) (f : Frame) : State :=
  match f.cell with
  | some c => (s.loseFrame f link).bumpRf (aCELLCNT c + 28) 31 0 1
  | none => s

/-- The time by which the frame may begin has passed (12 R409). -/
def Frame.past (f : Frame) (clk : Nat) : Bool :=
  match f.by' with
  | some t => decide (t < clk)
  | none => false

/-- U_PLANE_DISCARD: frames of the sub-port not begun by the close of their windows are discarded (12
R409). -/
def uPlaneDiscard (port sub : Nat) (s : State) : State :=
  let x := s.sub port sub
  (x.frames.filter (fun f => f.past s.clk)).foldl (State.missFrame (!(s.linkUp port sub)))
    (s.setSub port sub { x with frames := x.frames.filter (fun f => !(f.past s.clk)) })

-- Uplink (05 R182, R186 to R193; 12 R408).

/-- The filterIndex of a PRACH PDU: not 0 (12 R405). -/
def UlPdu.prachFilter (p : UlPdu) : Nat := 1 + Config.prachFilter p.params % 15

/-- The C-plane messages of a slot's uplink, the same for every stream: section type 1 a symbol, and section type 3 for each
PRACH PDU on it (12 R405). -/
def SlotWork.ulMsgs (w : SlotWork) (g : CellCfg) : List CMsg :=
  (List.range 14).flatMap (fun k =>
    let on := w.ulPdus.filter (fun p => inRange p.sym k)
    let cut (p : UlPdu) (more : List Byte) : List CSection :=
      (sectionRuns g.fapi.grid 276 276 p.prb.1 p.prb.2).map (fun r => ⟨r, p.beam, more, []⟩)
    let one := on.filter (fun p => decide (p.kind ≠ .prach))
    let f (p : UlPdu) (i : Nat) : Nat := Config.prachField g.key p.params i
    (if one = [] then [] else [⟨k, 0, [compHdr g.compUl, 0], one.flatMap (fun p => cut p [])⟩])
      ++ (on.filter (fun p => decide (p.kind = .prach))).map (fun p =>
        ⟨k, p.prachFilter, beBytes 2 (f p 0) ++ byte8 (f p 1) :: beBytes 2 (f p 2) ++ [compHdr g.compUl],
          cut p (beBytes 3 (f p 3) ++ [0])⟩))

/-- UPLINK_C_PLANE_LAUNCH: the uplink C-plane of a slot leaves by its first uplink symbol's air time minus
tcp_adv_dl; none leaves in holdover exceeded (05 R182, 12 R425). -/
def uplinkCPlaneLaunch (c n : Nat) (s : State) : State :=
  let x := s.cell c
  let w := x.work n
  match x.cfg with
  | some g =>
    if s.awake && x.live && w.ul.isSome && !w.lateUl && !w.ulCplane && !w.ulDone && !s.ports.servo.lost
        && beforeBound x.bound n then
      (s.setCell c (x.setWork { w with ulCplane := true })).queueCplane c g n g.ulStreams s.clk
        (g.airSym n w.firstUl - g.tcpAdvDl * 1000) true (fun _ => w.ulMsgs g)
    else s
  | none => s

/-- PRBs that the device's uplink C-plane requests on a symbol: of PRACH, or of the other channels. -/
def SlotWork.wants (w : SlotWork) (prach : Bool) (k : Nat) : List (Nat × Nat) :=
  if w.ulCplane then
    (w.ulPdus.filter (fun p => inRange p.sym k && decide ((p.kind = .prach) = (prach = true)))).map (fun p => p.prb)
  else []

/-- The uplink C-plane requests PRBs on a symbol. -/
def SlotWork.asks (w : SlotWork) (k : Nat) : Bool := decide (w.wants false k ++ w.wants true k ≠ [])

/-- Every requested PRB of a symbol and stream has been accepted, PRACH by its filterIndex (12 R405, R408). -/
def SlotWork.hasAll (w : SlotWork) (k st : Nat) : Bool :=
  [false, true].all (fun prach =>
    let got := (w.rx.filter (fun r => decide (r.sym = k) && decide (r.stream = st)
      && decide ((r.filter ≠ 0) = (prach = true)))).map (fun r => r.prb)
    (List.range 276).all (fun i => !((w.wants prach k).any (fun r => inRange r i)) || got.any (fun r => inRange r i)))

/-- The symbol's inputs are present: its window has closed, or every PRB that was requested has come on every
stream. -/
def SlotWork.ready (w : SlotWork) (g : CellCfg) (k : Nat) : Bool :=
  decide (k ∈ w.closed) || (w.asks k && (List.range g.ulStreams).all (fun st => w.hasAll k st))

/-- When the symbol's inputs were present. -/
def SlotWork.arrived (w : SlotWork) (g : CellCfg) (k : Nat) : Nat :=
  if w.erased.any (fun e => decide (e.1 = k)) then g.closeTime w.slot k
  else ((w.rx.filter (fun r => decide (r.sym = k))).map (fun r => r.at')).foldl max 0

/-- SYMBOL_WINDOW_CLOSE: every eAxC of the symbol that lacks a requested PRB is erased and counted. At the
close of the slot's last uplink symbol, a link that is down or holdover exceeded makes the slot a
miss (12 R408, R425, 07 R262). -/
def symbolWindowClose (c n k : Nat) (s : State) : State :=
  let x := s.cell c
  let w := x.work n
  match x.cfg with
  | some g =>
    if s.awake && x.live && w.ul.isSome && !w.lateUl && decide (k ∉ w.closed) && decide (k < 14)
        && decide (g.closeTime n k < s.clk) then
      let gone := ((List.range g.ulStreams).filter (fun st =>
        w.asks k && !(w.hasAll k st))).map (fun st => (k, st))
      let w' := { w with closed := w.closed ++ [k], erased := w.erased ++ gone }
      let t := (s.setCell c (x.setWork w')).bumpRf (aCELLCNT c + 16) 31 0 gone.length
      if k = w.lastUl ∧ !w.ulDone then
        match t.outage g (g.closeTime n k) with
        | some cause => t.noticeGone c w' true cause
        | none => t
      else t
    else s
  | none => s

/-- The accepted sample of a sub-carrier on a symbol and stream, of PRACH or of the other channels: zero on an erased
stream and where nothing was accepted (05 R181, 12 R405). -/
def SlotWork.sample (w : SlotWork) (prach : Bool) (k st sc : Nat) : Cx :=
  if (k, st) ∈ w.erased then Cx.zero
  else
    match w.rx.find? (fun r => decide (r.sym = k) && decide (r.stream = st) && decide ((r.filter ≠ 0) = (prach = true))
        && inRange r.prb (sc / 12)) with
    | some r =>
      let i := 2 * (sc - 12 * r.prb.1)
      ((r.iq.getD i 0 : Int), (r.iq.getD (i + 1) 0 : Int))
    | none => Cx.zero

/-- What the sequences of an uplink PDU depend on. -/
def UlPdu.key (p : UlPdu) (g : CellCfg) : List Nat :=
  g.key ++ [p.kind.bit, p.prb.1, p.prb.2, p.sym.1, p.sym.2, p.layers, p.qm, p.rv, if p.transform then 1 else 0, p.beam,
    p.dmrsId, p.nscid, p.resource] ++ p.ports ++ p.dmrs ++ p.params

/-- A step that ended after its bound, in µs past it (05 R182, 07 R263). -/
def SlotWork.late (w : SlotWork) (step now bound : Nat) : SlotWork :=
  if bound < now then { w with overs := w.overs ++ [(step, (now - bound + 999) / 1000)] } else w

/-- PUSCH PDUs of a slot, and its DMRS symbols. -/
def SlotWork.pusch (w : SlotWork) : List UlPdu := w.ulPdus.filter (fun p => decide (p.kind = .pusch))
def SlotWork.dmrsSyms (w : SlotWork) : List Nat := (w.pusch.flatMap (fun p => p.dmrs)).eraseDups

/-- CDM groups of a DMRS type, and the group of a port and of a sub-carrier (TS 38.211, 6.4.1.1.3). -/
def dmrsGroups (type' : Nat) : Nat := if type' = 1 then 2 else 3
def portGroup (type' port : Nat) : Nat := if type' = 1 then port % 4 / 2 else port % 6 / 2
def carrierGroup (type' sc : Nat) : Nat := if type' = 1 then sc % 2 else sc % 6 / 2

/-- A PUSCH's resource element at a symbol and sub-carrier carries data: on a DMRS symbol only outside the CDM
groups that are kept free. -/
def UlPdu.isData (p : UlPdu) (k sc : Nat) : Bool :=
  decide (k ∉ p.dmrs) || decide (p.cdmNoData ≤ carrierGroup p.dmrsType sc)

/-- Symbols of a PUSCH that carry data. -/
def UlPdu.dataSyms (p : UlPdu) : List Nat :=
  (symRange p.sym).filter (fun k => decide (k ∉ p.dmrs) || decide (p.cdmNoData < dmrsGroups p.dmrsType))

/-- The first symbols of a PUSCH's DMRS occasions, each of dmrsLen symbols. -/
def UlPdu.occasions (p : UlPdu) : List Nat :=
  (p.dmrs.zipIdx).filterMap (fun e => if e.2 % max 1 p.dmrsLen = 0 then some e.1 else none)

/-- The DMRS of a port at symbol `l` of an occasion and a sub-carrier: the Gold sequence with the port's cover codes,
or a low-PAPR sequence (TS 38.211, 6.4.1.1). -/
def UlPdu.dmrsRef (p : UlPdu) (g : CellCfg) (slot occ l port sc : Nat) : Cx :=
  let one : Bool := decide (p.dmrsType = 1)
  let half := if one then sc / 2 % 2 else sc % 2
  let m := if one then sc / 2 else 2 * (sc / 6) + half
  let neg := (decide (half = 1) && decide (port % 2 = 1)) != (decide (l = 1) && decide ((if one then 4 else 6) ≤ port))
  let z := if p.transform then Config.dmrsLowPapr (p.key g) (occ + l) sc
    else
      let init := 2 ^ 17 * (14 * (g.sfnSlot slot).2 + occ + l + 1) * (2 * p.dmrsId + 1) + 2 * p.dmrsId + p.nscid
      let c := goldSeq init (2 * m) 2
      qamSymbol 2 [c.testBit 0, c.testBit 1]
  if neg then (-z.1, -z.2) else z

/-- Denoising of estimates at some of `n` sub-carriers, each with its place among them: an IDFT to a delay profile, taps
beyond the cyclic prefix set to zero, a DFT to every sub-carrier. With the energies of the zeroed taps (05 R186). -/
def denoise (n : Nat) (ls : List (Nat × Cx)) : List Cx × List Rat :=
  let m := ls.length
  let taps := (List.range m).map (fun (d : Nat) => (Cx.sum (ls.map (fun (e : Nat × Cx) =>
    Cx.mul e.2 (Cx.cis n ((d * e.1 : Nat) : Int))))).scale (1 / (max 1 m : Nat)))
  let kept := 144 * n / 2048 + 1
  ((List.range n).map (fun (i : Nat) => Cx.sum (((taps.take kept).zipIdx).map (fun (e : Cx × Nat) =>
      Cx.mul e.1 (Cx.cis n (-((e.2 * i : Nat) : Int)))))),
   (taps.drop kept).map Cx.abs2)

/-- Least-squares estimates of a PUSCH's port on a stream at the DMRS resource elements of an occasion, averaged over
its symbols (05 R186). -/
def SlotWork.portLs (w : SlotWork) (g : CellCfg) (p : UlPdu) (occ st port : Nat) : List (Nat × Cx) :=
  let scs := (carriers p.prb).filter (fun sc => decide (carrierGroup p.dmrsType sc = portGroup p.dmrsType port))
  let n := max 1 p.dmrsLen
  scs.map (fun sc => (sc - 12 * p.prb.1, (Cx.sum ((List.range n).map (fun l =>
    Cx.mul (w.sample false (occ + l) st sc) (p.dmrsRef g w.slot occ l port sc).conj))).scale (1 / (n : Rat))))

/-- Least-squares estimates of an SRS on a stream at a symbol (05 R166, R189). -/
def SlotWork.srsLs (w : SlotWork) (g : CellCfg) (p : UlPdu) (k st : Nat) : List (Nat × Cx) :=
  let scs := (carriers p.prb).filter (fun sc => (Config.srsRef (p.key g) k sc).isSome)
  scs.map (fun sc => (sc - 12 * p.prb.1,
    Cx.mul (w.sample false k st sc) (Cx.conj ((Config.srsRef (p.key g) k sc).getD Cx.zero))))

/-- SRS resources that end on a symbol. -/
def SlotWork.srsOn (w : SlotWork) (k : Nat) : List UlPdu :=
  w.ulPdus.filter (fun p => decide (p.kind = .srs) && decide (k + 1 = p.sym.1 + p.sym.2))

/-- The least-squares estimates that a symbol completes: of the DMRS occasions that end on it and, unless a notice named SRS,
of its SRS (05 R182 step 2, R186, 07 R261). -/
def SlotWork.newLs (w : SlotWork) (g : CellCfg) (k : Nat) : List LsEst :=
  let sts := List.range g.ulStreams
  w.pusch.flatMap (fun p => (p.occasions.filter (fun o => decide (k + 1 = o + max 1 p.dmrsLen))).map (fun o =>
      ⟨p.index, k, some o, 12 * p.prb.2, sts.map (fun st => p.ports.map (fun port => w.portLs g p o st port))⟩))
    ++ (if w.ulChannels.testBit UlKind.srs.bit then [] else (w.srsOn k).map (fun p =>
      ⟨p.index, k, none, 12 * p.prb.2, sts.map (fun st => [w.srsLs g p k st])⟩))

/-- A symbol with nothing left for an FFT engine is estimated; a DMRS symbol that ends after its bound is an overrun (05 R182
step 2, 07 R263). -/
def SlotWork.endEst (w : SlotWork) (g : CellCfg) (clk k : Nat) : SlotWork :=
  if w.ls.any (fun e => decide (e.sym = k)) then w
  else
    let w1 := { w with estSyms := w.estSyms ++ [k] }
    if k ∈ w.dmrsSyms then w1.late 2 clk (w.arrived g k + byScs g.scs 80_000 40_000 10_000) else w1

/-- CHANNEL_ESTIMATION: a DMRS or SRS symbol has arrived: its least-squares estimates are formed, which FFT engines then
denoise (05 R182 step 2, R186). -/
def channelEstimation (c n k : Nat) (s : State) : State :=
  let x := s.cell c
  let w := x.work n
  match x.cfg with
  | some g =>
    let dmrs := decide (k ∈ w.dmrsSyms)
    if s.awake && x.live && !w.lateUl && w.ready g k && (dmrs || decide (w.srsOn k ≠ [])) && decide (k ∉ w.lsSyms) then
      let w1 := { w with
        lsSyms := w.lsSyms ++ [k], ls := w.ls ++ w.newLs g k
        estAt := if dmrs then max w.estAt (w.arrived g k) else w.estAt }
      s.setCell c (x.setWork (w1.endEst g s.clk k))
    else s
  | none => s

/-- The estimates of a PUSCH at an occasion, denoised; σ² of each weight group comes from the energies of the zeroed taps (05
R186). -/
def LsEst.est (e : LsEst) (g : CellCfg) (occ : Nat) : ChanEst :=
  let es := e.vals.map (fun l => l.map (denoise e.carriers))
  let energy := es.flatMap (fun l => l.flatMap Prod.snd)
  ⟨e.index, occ, es.map (fun l => l.map Prod.fst),
   (List.range (e.carriers / g.eqGroup)).map (fun i => Config.held (Config.noiseVar i energy))⟩

/-- The estimate of an SRS on the streams, at every sub-carrier of the grid that it spans, denoised (05 R166, R189). -/
def LsEst.srs (e : LsEst) (p : UlPdu) : List (List Cx) × Rat :=
  let all := e.vals.map (fun l => denoise e.carriers (l.headD []))
  (all.map (fun d => List.replicate (12 * p.prb.1) Cx.zero ++ d.1),
   Config.held (Config.noiseVar 0 (all.flatMap Prod.snd)))

/-- An SRS is estimated: above 8T8R the estimate is retained in place of the older one of the same resource, and its
SRS.indication takes its turn, unless a notice named SRS (05 R166, R176, R179, R189, 07 R261). -/
def Cell.takeSrs (x : Cell) (g : CellCfg) (w : SlotWork) (p : UlPdu) (e : List (List Cx) × Rat) (now : Nat) : Cell :=
  let h := if g.fapi.massive then x.nextHandle else 0
  let v := if w.ulChannels.testBit UlKind.srs.bit then w
    else { w with waits := w.waits ++ [.srs (Config.srsSnr e.1 e.2) (Config.srsAdvance e.1) h] }
  let y := x.setWork v
  if g.fapi.massive then
    let keep := x.srs.filter (fun r => decide (r.ue ≠ p.ue) || decide (r.resource ≠ p.resource))
    { y with srs := keep ++ [⟨p.ue, p.resource, h, e.1, e.2, now⟩], nextHandle := x.nextHandle + 1 }
  else y

/-- Symbols between a symbol and an occasion. -/
def UlPdu.occDist (p : UlPdu) (occ k : Nat) : Nat :=
  if k < occ then occ - k else if k < occ + max 1 p.dmrsLen then 0 else k + 1 - (occ + max 1 p.dmrsLen)

/-- The occasion nearest to a symbol, the earlier of two equally near (05 R186). -/
def UlPdu.nearest (p : UlPdu) (k : Nat) : Nat :=
  match p.occasions with
  | [] => 0
  | o :: t => t.foldl (fun b e => if p.occDist e k < p.occDist b k then e else b) o

/-- The channel of a PUSCH's layers on a stream at a sub-carrier, from the estimates of an occasion. -/
def SlotWork.channelAt (w : SlotWork) (p : UlPdu) (occ st sc : Nat) : List Cx :=
  match w.est.find? (fun e => decide (e.index = p.index) && decide (e.occ = occ)) with
  | some e => (e.h.getD st []).map (fun l => l.getD (sc - 12 * p.prb.1) Cx.zero)
  | none => []

/-- The weights of a PUSCH for an occasion and a weight group of its allocation: MMSE over its layers and those of the
PUSCHs that share the group, from the estimates of the group's centre sub-carrier, by the method of the cell's
configuration (05 R167, R187, log entry 71). -/
def SlotWork.groupW (w : SlotWork) (g : CellCfg) (p : UlPdu) (occ i : Nat) : GroupW :=
  let centre := 12 * p.prb.1 + i * g.eqGroup + g.eqGroup / 2
  let shared := w.pusch.filter (fun q => decide (q.index ≠ p.index) && inRange q.prb (centre / 12))
  let h : CMat := (List.range g.ulStreams).map (fun st =>
    w.channelAt p occ st centre ++ shared.flatMap (fun q => w.channelAt q (q.nearest occ) st centre))
  let n := (h.headD []).length
  let s2 := match w.est.find? (fun e => decide (e.index = p.index) && decide (e.occ = occ)) with
    | some e => e.noise.getD i 0
    | none => 0
  let m := mmseOf g.ulStreams n (if g.fapi.massive then some g.nsSteps else none) h s2
  ⟨p.index, occ, i, m.1.take p.ports.length, (List.range p.ports.length).map (fun l => sinrOf m.2 s2 l)⟩

/-- MMSE_WEIGHTS: after the last DMRS symbol (05 R182 step 3, R187). -/
def mmseWeights (c n : Nat) (s : State) : State :=
  let x := s.cell c
  let w := x.work n
  match x.cfg with
  | some g =>
    if s.awake && x.live && decide (w.dmrsSyms ≠ []) && w.weights.isNone
        && w.dmrsSyms.all (fun k => decide (k ∈ w.estSyms)) then
      let all := w.pusch.flatMap (fun p => p.occasions.flatMap (fun o =>
        (List.range (12 * p.prb.2 / g.eqGroup)).map (fun i => w.groupW g p o i)))
      let w1 := { w with weights := some all, weightsAt := s.clk }
      s.setCell c (x.setWork (w1.late 3 s.clk (w.estAt + byScs g.scs 120_000 60_000 15_000)))
    else s
  | none => s

/-- The equalised layers of a PUSCH at a symbol and sub-carrier, one tap a layer, with their SINRs (05 R188). -/
def SlotWork.equalised (w : SlotWork) (g : CellCfg) (ws : List GroupW) (p : UlPdu) (k sc : Nat) : List (Cx × Rat) :=
  match ws.find? (fun e => decide (e.index = p.index) && decide (e.occ = p.nearest k)
      && decide (e.group = (sc - 12 * p.prb.1) / g.eqGroup)) with
  | some e => (e.w.zip e.sinr).map (fun q =>
      (Cx.sum ((q.1.zipIdx).map (fun t => Cx.mul t.1 (w.sample false k t.2 sc))), q.2))
  | none => p.ports.map (fun _ => (Cx.zero, 0))

/-- The equalised resource elements of a PUSCH on a symbol of the slot, each with its layers and their SINRs (05 R188). -/
def SlotWork.elements (w : SlotWork) (g : CellCfg) (ws : List GroupW) (p : UlPdu) (k : Nat) : List (List (Cx × Rat)) :=
  ((carriers p.prb).filter (fun sc => p.isData k sc)).map (fun sc => w.equalised g ws p k sc)

/-- Every stream of a symbol is erased: its LLRs are zero (05 R181). -/
def SlotWork.allErased (w : SlotWork) (g : CellCfg) (k : Nat) : Bool :=
  (List.range g.ulStreams).all (fun st => decide ((k, st) ∈ w.erased))

/-- The LLRs of a PUSCH on a symbol from its modulation symbols in the order of its coded bits (05 R188). -/
def SlotWork.demap (w : SlotWork) (g : CellCfg) (p : UlPdu) (k : Nat) (ys : List (Cx × Rat)) : Llrs :=
  ⟨p.index, k, ys.flatMap (fun y =>
    (List.range p.qm).map (fun b => if w.allErased g k then 0 else llrOf p.qm y.1 y.2 b))⟩

/-- A symbol that is combined, with nothing left for an FFT engine, has its LLRs; one that ends after its bound is an overrun
(05 R182 step 4, 07 R263). -/
def SlotWork.endEq (w : SlotWork) (g : CellCfg) (clk k : Nat) : SlotWork :=
  if w.eqRows.any (fun e => decide (e.sym = k)) then w
  else w.late 4 clk (max w.weightsAt (w.arrived g k) + byScs g.scs 80_000 40_000 10_000)

/-- EQUALISATION: a data symbol of the slot's PUSCH is combined and demapped; a transform-precoded one then waits for an FFT
engine (05 R181, R182 step 4, R188). -/
def equalisation (c n k : Nat) (s : State) : State :=
  let x := s.cell c
  let w := x.work n
  match x.cfg, w.weights with
  | some g, some ws =>
    let ps := w.pusch.filter (fun p => decide (k ∈ p.dataSyms))
    if s.awake && x.live && w.ready g k && decide (ps ≠ []) && decide (k ∉ w.eqSyms) then
      let now := ps.filter (fun p => !p.transform)
      let later := ps.filter (fun p => p.transform)
      let w1 := { w with
        eqSyms := w.eqSyms ++ [k]
        llrs := w.llrs ++ now.map (fun p => w.demap g p k ((w.elements g ws p k).flatMap id))
        eqRows := w.eqRows ++ later.map (fun (p : UlPdu) => (⟨p.index, k, (List.range p.ports.length).map (fun l =>
          (w.elements g ws p k).map (fun (e : List (Cx × Rat)) => e.getD l (Cx.zero, 0)))⟩ : EqRows)) }
      s.setCell c (x.setWork (w1.endEq g s.clk k))
    else s
  | _, _ => s

/-- The modulation symbols of a transform-precoded PUSCH: of each layer the IDFT of its sub-carriers, with their mean SINR,
layer by layer (05 R188). -/
def EqRows.symbols (e : EqRows) : List (Cx × Rat) :=
  let m := (e.rows.headD []).length
  let zs := e.rows.map (fun row =>
    let mean := Config.held (sumHeld (row.map Prod.snd) / (max 1 m : Nat))
    (dftAt 1 m (row.map Prod.fst) (List.range m)).map (fun z => (z.scale (1 / sqrtRat (max 1 m)), mean)))
  (List.range m).flatMap (fun i => zs.map (fun r => r.getD i (Cx.zero, 0)))

/-- The layer-1 controller has an FFT engine transform what waits for one of a PDU and symbol: estimates to every sub-carrier,
or a transform-precoded symbol (05 R182 steps 2 and 4, R186, R188, 06 R223). -/
def State.l1Dft (s : State) (u : UnitId) (j : L1Job) : State :=
  let x := s.cell j.cell
  let w := x.work j.slot
  match x.cfg, w.ulPdus.find? (fun p => decide (p.index = j.pdu)) with
  | some g, some p =>
    if s.awake && s.l1Engine u && decide (x.die = u.die) && x.live && !w.lateUl then
      match w.ls.find? (fun e => decide (e.index = j.pdu) && decide (e.sym = j.part)),
          w.eqRows.find? (fun e => decide (e.index = j.pdu) && decide (e.sym = j.part)) with
      | some e, _ =>
        let v := { w with ls := w.ls.filter (fun q => decide (q ≠ e)) }
        match e.occ with
        | some o => s.setCell j.cell (x.setWork ({ v with est := v.est ++ [e.est g o] }.endEst g s.clk e.sym))
        | none => (s.setCell j.cell (x.takeSrs g (v.endEst g s.clk e.sym) p (e.srs p) s.now)).releaseInds j.cell
      | none, some e =>
        let v := { w with
          eqRows := w.eqRows.filter (fun q => decide (q ≠ e)), llrs := w.llrs ++ [w.demap g p e.sym e.symbols] }
        s.setCell j.cell (x.setWork (v.endEq g s.clk e.sym))
      | none, none => s
    else s
  | _, _ => s

/-- The LLRs of a PUSCH's coded bits, symbol by symbol. -/
def SlotWork.puschLlrs (w : SlotWork) (p : UlPdu) : List Int :=
  p.dataSyms.flatMap (fun k => ((w.llrs.find? (fun l => decide (l.index = p.index) && decide (l.sym = k))).map
    (fun l => l.vals)).getD [])

/-- The positions of UCI bits among a PUSCH's coded bits (05 R193). -/
def UlPdu.uciAt (p : UlPdu) (g : CellCfg) (n : Nat) : List Nat :=
  if p.uciBits = 0 then [] else (Config.uciPositions (p.key g) p.uciBits).filter (fun i => decide (i < n))

/-- The LLRs of a PUSCH's transport block: UCI separated and the scrambling undone (05 R182 step 5, R193). -/
def SlotWork.tbLlrs (w : SlotWork) (g : CellCfg) (p : UlPdu) : List Int :=
  let ls := w.puschLlrs p
  let out := p.uciAt g ls.length
  let c := goldSeq p.gold 0 ls.length
  (ls.zipIdx).filterMap (fun e =>
    if e.2 ∈ out then none else some (if c.testBit e.2 then -e.1 else e.1))

/-- The shape of a PUSCH's transport block. -/
def UlPdu.shape (p : UlPdu) : TbShape := tbShape p.bg (8 * p.tbBytes)

/-- The new soft bits of a PUSCH's code blocks, by rate recovery (05 R182 step 5). -/
def UlPdu.softBlocks (p : UlPdu) (ls : List Int) : List (List Int) :=
  (p.shape.runs ls.length p.layers p.qm).map (fun r =>
    (p.shape.buffer 0).recover p.rv p.qm ((ls.drop r.1).take r.2))

/-- Bytes of the stored soft bits of a PUSCH: INT8 each. -/
def UlPdu.softBytes (p : UlPdu) : Nat := p.shape.blocks * p.shape.code.len

/-- Saturating INT8 addition of soft bits, block by block (05 R191). -/
def addSoft (a b : List Int) : List Int :=
  (List.range (max a.length b.length)).map (fun i => satSigned 8 (a.getD i 0 + b.getD i 0))
def addBlocks (a b : List (List Int)) : List (List Int) :=
  (List.range (max a.length b.length)).map (fun i => addSoft (a.getD i []) (b.getD i []))

/-- HARQ combining of one PUSCH: with an unchanged indicator the new LLRs are added with saturation; a
toggled one replaces the stored soft bits; what does not fit harq_bytes is decoded alone and not
stored (05 R191, R192). A UE has the 16 processes that its number's four bits name. -/
def Cell.combine (x : Cell) (limit : Nat) (p : UlPdu) (new : List (List Int)) : Cell × SoftPdu :=
  let proc := p.harq % 16
  let mine (e : HarqProc) : Bool := decide (e.ue = p.ue) && decide (e.proc = proc)
  let others := x.harq.filter (fun e => !(mine e))
  let used := (others.map (fun e => e.bytes)).sum
  let fresh : Cell × SoftPdu :=
    if used + p.softBytes ≤ limit then
      ({ x with harq := others ++ [⟨p.ue, proc, p.ndi, new, p.softBytes, false⟩] }, ⟨p.index, new, false⟩)
    else
      ({ x with harq := others ++ [⟨p.ue, proc, p.ndi, [], 0, true⟩] }, ⟨p.index, new, true⟩)
  match x.harq.find? mine with
  | none => fresh
  | some e =>
    if e.ndi ≠ p.ndi then fresh
    else if e.overflow then (x, ⟨p.index, new, true⟩)
    else
      let sum := addBlocks e.soft new
      ({ x with harq := others ++ [{ e with soft := sum }] }, ⟨p.index, sum, false⟩)

/-- A process whose stored soft bits could not be read: the PUSCH is decoded without combining, its new soft bits
replace the stored ones, and the cell's media-error count rises (10 R350). -/
def Cell.loseSoft (x : Cell) (p : UlPdu) : Cell :=
  let mine (e : HarqProc) : Bool := decide (e.ue = p.ue) && decide (e.proc = p.harq % 16)
  if x.harq.any mine then
    { x with harq := x.harq.filter (fun e => !(mine e)), mediaErrors := x.mediaErrors + 1 }
  else x

/-- HARQ_COMBINING: after the slot's last LLRs; descrambling, rate recovery and HARQ combining (05 R182
step 5, R191, R192). `lost` are the PDUs whose stored soft bits could not be read, each with its block (10 R350). -/
def harqCombining (c n : Nat) (lost : List (Nat × Nat)) (s : State) : State :=
  let x := s.cell c
  let w := x.work n
  match x.cfg with
  | some g =>
    let need := (w.pusch.flatMap (fun p => p.dataSyms)).eraseDups
    if s.awake && x.live && w.ul.isSome && !w.lateUl && w.soft.isNone
        && need.all (fun k => decide (k ∈ w.eqSyms)) && w.eqRows.isEmpty
        && w.ulPdus.all (fun p => (symRange p.sym).all (fun k => w.ready g k)) then
      let limit := g.harqBytes.getD (Config.term g.key 1)
      let r := w.pusch.foldl (fun (acc : Cell × List SoftPdu) p =>
        let y := if lost.any (fun e => decide (e.1 = p.index)) then acc.1.loseSoft p else acc.1
        let q := y.combine limit p (p.softBlocks (w.tbLlrs g p))
        (q.1, acc.2 ++ [q.2])) (x, [])
      let w1 := { w with soft := some r.2, softAt := s.clk }
      ((lost.map Prod.snd).foldl State.failUe s).setCell c (r.1.setWork (w1.late 5 s.clk
        (g.closeTime n w.lastUl + byScs g.scs 150_000 100_000 50_000)))
    else s
  | none => s

/-- The layer-1 controller has an LDPC decoder decode a code block of a PUSCH, with at most ldpc_max_iter iterations
(05 R182 step 6, R190, 06 R223). -/
def State.l1Decode (s : State) (u : UnitId) (j : L1Job) : State :=
  let x := s.cell j.cell
  let w := x.work j.slot
  match x.cfg, (w.soft.getD []).find? (fun q => decide (q.index = j.pdu)), w.pusch.find? (fun p => decide (p.index = j.pdu)) with
  | some g, some q, some p =>
    match q.soft[j.part]? with
    | some soft =>
      if s.awake && s.l1Engine u && decide (x.die = u.die) && x.live && !w.results
          && !(w.decoded.any (fun d => decide (d.index = j.pdu) && decide (d.block = j.part))) then
        let o := p.shape.decodeBlock g.ldpcIter soft
        s.setCell j.cell (x.setWork { w with decoded := w.decoded ++ [⟨j.pdu, j.part, o.bits, o.iters, o.ok⟩] })
      else s
    | none => s
  | _, _, _ => s

/-- Symbols of a PDU with an erased eAxC (12 R408). -/
def SlotWork.erasedSyms (w : SlotWork) (p : UlPdu) : Nat :=
  ((symRange p.sym).filter (fun k => w.erased.any (fun e => decide (e.1 = k)))).length

/-- The code blocks of a PUSCH as decoded. -/
def SlotWork.outOf (w : SlotWork) (p : UlPdu) (q : SoftPdu) : List CbOut :=
  (w.blocksOf p.index q.soft.length).map (fun d => ⟨d.bits, d.iters, d.ok⟩)

/-- The CRC report of a PUSCH, with the largest iteration count of its code blocks (05 R176, R190). -/
def SlotWork.crcOf (w : SlotWork) (p : UlPdu) (q : SoftPdu) : CrcRep :=
  let cbs := w.outOf p q
  { index := p.index, ok := p.shape.tbOk cbs, blocks := cbs.map (fun c => c.ok),
    iters := (cbs.map (fun c => c.iters)).foldl max 0, erased := w.erasedSyms p, overflow := q.overflow }

-- UCI (05 R193).

/-- LLRs that a PDU's UCI is decoded from: those of a PUSCH's positions, or of a PUCCH, symbol by symbol; those of a
symbol with every stream erased are zero (05 R181). -/
def SlotWork.uciLlrs (w : SlotWork) (g : CellCfg) (p : UlPdu) : List Int :=
  if p.kind = .pusch then
    let ls := w.puschLlrs p
    let c := goldSeq p.gold 0 ls.length
    (p.uciAt g ls.length).map (fun i => if c.testBit i then -(ls.getD i 0) else ls.getD i 0)
  else
    let xs := (List.range g.ulStreams).flatMap (fun st => (symRange p.sym).flatMap (fun k =>
      (carriers p.prb).map (fun sc => w.sample false k st sc)))
    (symRange p.sym).flatMap (fun k =>
      let ls := Config.pucchLlrs (p.key g) k xs
      if w.allErased g k then ls.map (fun _ => 0) else ls)

/-- CA-SCL decoding of UCI of 12 bits and more, in one code block or two (05 R193; TS 38.212, 6.3.1.2). -/
def uciPolar (n : Nat) (ls : List Int) : Nat :=
  let e := ls.length
  let c := if (360 ≤ n ∧ 1088 ≤ e) ∨ 1013 ≤ n then 2 else 1
  let a := (n + c - 1) / c
  let crc := if n < 20 then 6 else 11
  let part (r : Nat) : Nat := ((⟨a + crc, e / c, 2⟩ : Polar).decode 0 ((ls.drop (r * (e / c))).take (e / c))).1 % 2 ^ a
  (part 0 + (if c = 2 then 2 ^ a * part 1 else 0)) / 2 ^ (c * a - n)

/-- The layer-1 controller has a polar engine decode the UCI of a PDU (06 R223). -/
def State.l1Uci (s : State) (u : UnitId) (j : L1Job) : State :=
  let x := s.cell j.cell
  let w := x.work j.slot
  match x.cfg, w.ulPdus.find? (fun p => (decide (p.kind = .pucch) || decide (p.kind = .pusch)) && decide (p.index = j.pdu)) with
  | some g, some p =>
    if s.awake && s.l1Engine u && decide (x.die = u.die) && x.live && w.soft.isSome && !w.results
        && decide (12 ≤ p.uciBits) && !(w.uci.any (fun e => decide (e.1 = j.pdu))) then
      s.setCell j.cell (x.setWork { w with uci := w.uci ++ [(j.pdu, uciPolar p.uciBits (w.uciLlrs g p))] })
    else s
  | _, _ => s

/-- The metric of a hypothesis of a PUCCH of format 0 or 1: its correlation with the sequence, streams combined, in
0.1 dB (05 R193). -/
def SlotWork.pucchMetric (w : SlotWork) (g : CellCfg) (p : UlPdu) (v : Nat) : Int :=
  db10 (sumHeld ((List.range g.ulStreams).map (fun st => (Cx.sum ((symRange p.sym).flatMap (fun k =>
    (carriers p.prb).map (fun sc =>
      Cx.mul (w.sample false k st sc) (Cx.conj (Config.pucchSeq (p.key g) v k sc)))))).abs2)) * Config.pucchUnit)

/-- The UCI report of a PDU: a PUCCH of format 0 or 1 by its best sequence, with DTX as no bits when the best metric
lies below uci_dtx_thresh; else by its size (05 R193). -/
def SlotWork.uciOf (w : SlotWork) (g : CellCfg) (p : UlPdu) : List Int :=
  let n := p.uciBits
  let bits (v : Nat) : List Int := (List.range n).map (fun i => if v.testBit i then 1 else 0)
  if p.kind = .pucch ∧ p.params.headD 0 ≤ 1 then
    let best := (List.range (2 ^ n)).foldl (fun (b : Nat × Int) v =>
      if b.2 < w.pucchMetric g p v then (v, w.pucchMetric g p v) else b) (0, w.pucchMetric g p 0)
    if best.2 < (g.uciDtxThresh : Int) then [] else bits best.1
  else if n ≤ 2 then bits (Config.uciShort n (w.uciLlrs g p))
  else if n ≤ 11 then bits (rmDecode n (w.uciLlrs g p))
  else bits (((w.uci.find? (fun e => decide (e.1 = p.index))).map Prod.snd).getD 0)

/-- The results of every PUCCH and PUSCH that no notice named are complete. -/
def SlotWork.decodedAll (w : SlotWork) : Bool :=
  w.ulPdus.all (fun p => !(decide (p.kind = .pucch) || decide (p.kind = .pusch)) || w.ulChannels.testBit p.kind.bit
    || w.pduDone p)

-- PRACH (05 R194).

/-- What the detector of a cell's occasion is told: one row of samples a stream and symbol. -/
def CellCfg.prachOf (g : CellCfg) (rows : Nat) : Prach :=
  let f := g.fapi.prach
  ⟨decide (f.format ≤ 3), rows, f.roots, f.root0, f.ncs, f.set, g.prachThresh, f.preambles, byScs g.scs 0 1 3⟩

/-- The detections of a PRACH occasion, with latched powers (05 R194). -/
def SlotWork.rachOf (w : SlotWork) (g : CellCfg) (p : UlPdu) : List (Nat × Nat × Int × Int) :=
  let n := (g.prachOf 1).len
  let xs := (List.range g.ulStreams).flatMap (fun st => (symRange p.sym).map (fun k =>
    (List.range n).map (fun i => w.sample true k st (12 * p.prb.1 + i))))
  let o := (g.prachOf xs.length).detect xs
  o.hits.map (fun h => (h.1, h.2.1, h.2.2, o.rssi))

/-- The detection of an occasion ends, and its RACH.indication is written in slot order, unless a notice named PRACH (05
R179, R194, 07 R261). -/
def State.rachIndication (s : State) (c n i : Nat) : State :=
  let x := s.cell c
  let w := x.work n
  match x.cfg, w.ulPdus.find? (fun p => decide (p.kind = .prach) && decide (p.index = i)) with
  | some g, some p =>
    if s.awake && x.live && !w.lateUl && decide (i ∉ w.rached) && (symRange p.sym).all (fun k => w.ready g k)
        && !(w.ulChannels.testBit UlKind.prach.bit) then
      (s.setCell c (x.setWork { w with
        rached := i :: w.rached, waits := w.waits ++ [.rach (w.rachOf g p)] })).releaseInds c
    else s
  | _, _ => s

/-- Overruns of a slot that meets its deadline (07 R263). -/
def State.countOverruns (s : State) (c : Nat) (w : SlotWork) : State :=
  w.overs.foldl (fun t o => (t.countOverrun c).record 0x0301 (siteCell c) (lo32 (o.1 + 16)) o.2) s

/-- Nothing of the slot's uplink is to come: it is decided, and what its notice does not name has its results written. -/
def SlotWork.ulOver (w : SlotWork) : Bool :=
  w.ulDone && w.ulMissing.all (fun b => w.ulChannels.testBit b) && !w.owes && w.waits.isEmpty

/-- Both directions of a slot are decided. -/
def SlotWork.finished (w : SlotWork) : Bool :=
  (w.dlDone || (w.dl.isNone && w.ulDci.isEmpty) || w.lateDl) && (w.ul.isNone || w.lateUl || w.ulOver)

/-- Slots of which nothing is to come leave the cell once the window of their last symbol has closed. -/
def Cell.prune (x : Cell) (g : CellCfg) (clk : Nat) : Cell :=
  { x with slots := x.slots.filter (fun w => !(w.finished && decide (g.closeTime w.slot 13 < clk))) }

/-- Indications that waited follow, and what is over leaves the cell. -/
def State.settleCell (s : State) (c : Nat) (g : CellCfg) : State :=
  let t := s.releaseInds c
  t.setCell c ((t.cell c).prune g t.clk)

/-- The indications of a slot's results, in order: UCI, CRC, RX_DATA; a channel that a notice named is left
out (05 R179, R181, R197). -/
def State.writeResults (s : State) (c : Nat) (g : CellCfg) (w : SlotWork) (qs : List SoftPdu) : State :=
  let named (k : UlKind) : Bool := w.ulChannels.testBit k.bit
  let us := w.ulPdus.filter (fun p => (decide (p.kind = .pucch) || decide (p.kind = .pusch))
    && decide (0 < p.uciBits) && !(named p.kind))
  let tbs := if named .pusch then [] else w.pusch.filterMap (fun p =>
    (qs.find? (fun q => decide (q.index = p.index))).map (fun q => (p, q)))
  let t := if us = [] then s else s.cellInd c w.slot w.ulSeq (.uci (us.map (fun p => (p.index, w.uciOf g p))))
  if tbs = [] then t
  else (t.cellInd c w.slot w.ulSeq (.crc (tbs.map (fun e => w.crcOf e.1 e.2)))).cellInd c w.slot w.ulSeq
    (.rxData ((tbs.filter (fun e => (w.crcOf e.1 e.2).ok)).map
      (fun e => (e.1.index, leBytes e.1.tbBytes (e.1.shape.join (w.outOf e.1 e.2))))))

/-- UPLINK_RESULTS: decoding has ended, and the indications of the slot are written (05 R182 steps 6 and 7,
R179). -/
def uplinkResults (c n : Nat) (s : State) : State :=
  let x := s.cell c
  let w := x.work n
  match x.cfg, w.soft with
  | some g, some qs =>
    if s.awake && x.live && !w.results && w.decodedAll && x.ulInOrder n then
      let w1 := w.late 6 s.clk (w.softAt + byScs g.scs 900_000 600_000 300_000)
      let t := s.setCell c (x.setWork { w1 with results := true })
      let u := if w.noticedUl ∨ g.deadline w true < s.clk then t else t.countOverruns c w1
      (u.writeResults c g w qs).settleCell c g
    else s
  | _, _ => s

-- The commit point (07 R260 to R262).

/-- The cause of a notice at the commit point: what held at the slot's C-plane time or the close of its last window, a
frame lost with its link, else a hardware fault; one that no fault explains is a price violation (07 R262). -/
def State.missCause (s : State) (g : CellCfg) (w : SlotWork) (ul : Bool) : Nat :=
  (s.outage g (if ul then g.closeTime w.slot w.lastUl else g.cplaneTime w.slot)).getD (if w.linkLost then 2 else 1)

/-- A fault explains a miss: a unit that serves the slot had one, or step 3 of the limiter is in force (07 R246,
R262). -/
def State.missFault (s : State) (w : SlotWork) : Bool := w.fault || decide (s.power.limitStep = 3)


/-- COMMIT_POINT: 20 µs before its deadline the device decides, channel by channel, whether the slot is
delivered, and writes DEADLINE_NOTICE for what is not (07 R260, R261). -/
def commitPoint (c n : Nat) (ul : Bool) (s : State) : State :=
  let x := s.cell c
  let w := x.work n
  match x.cfg with
  | some g =>
    let asked := if ul then w.ul.isSome && !w.lateUl && !w.ulDone else !w.dlPdus.isEmpty && !w.lateDl && !w.dlDone
    if s.awake && x.live && asked && decide (g.deadline w ul ≤ s.clk + 20_000) then
      let held := !ul && (s.outage g (g.cplaneTime n)).isSome
      let missing := maskOf (if ul then w.ulMissing else w.dlMissing)
      let t := if missing = 0 ∧ (!held ∨ s.unserved c w ul = 0) then
          s.setCell c (x.setWork (if ul then { w with ulDone := true } else { w with dlDone := true }))
        else
          let cause := s.missCause g w ul
          let u := s.noticeGone c w ul cause
          if cause = 1 ∧ !(s.missFault w) then
            u.record 0x0303 (siteCell c) (if ul then 16 else 0) (((s.clk + 20_000 - g.deadline w ul) / 1000 : Nat) : Int)
          else u
      t.settleCell c g
    else s
  | none => s

-- The meanings.

def execSlotIndication (c : Nat) (s : State) : Done := .next (slotIndication c s)
def execDownlinkProcessing (c : Nat) (lost : List (Nat × Nat)) (s : State) : Done :=
  .next (downlinkProcessing c lost s)
def execCPlaneLaunch (c n : Nat) (s : State) : Done := .next (cPlaneLaunch c n s)
def execUPlaneLaunch (c n k : Nat) (s : State) : Done := .next (uPlaneLaunch c n k s)
def execUPlaneDiscard (port sub : Nat) (s : State) : Done := .next (uPlaneDiscard port sub s)
def execUplinkCPlaneLaunch (c n : Nat) (s : State) : Done := .next (uplinkCPlaneLaunch c n s)
def execSymbolWindowClose (c n k : Nat) (s : State) : Done := .next (symbolWindowClose c n k s)
def execChannelEstimation (c n k : Nat) (s : State) : Done := .next (channelEstimation c n k s)
def execMmseWeights (c n : Nat) (s : State) : Done := .next (mmseWeights c n s)
def execEqualisation (c n k : Nat) (s : State) : Done := .next (equalisation c n k s)
def execHarqCombining (c n : Nat) (lost : List (Nat × Nat)) (s : State) : Done := .next (harqCombining c n lost s)
def execUplinkResults (c n : Nat) (s : State) : Done := .next (uplinkResults c n s)
def execCommitPoint (c n : Nat) (ul : Bool) (s : State) : Done := .next (commitPoint c n ul s)

end Sys2Proof.Machine
end

