-- ==== Sys2Proof/Machine/Vde.lean ====
section
/-! DEFINITION. Op lists on a vector DSP engine (06 R202 to R208, R216 to R222): the checks before the
first op, issue with the exposed pipeline, hardware loops, halting, and the debug registers. -/

namespace Sys2Proof.Machine

-- Engines.

/-- The kernel of the list that an engine runs, while it runs. -/
def State.vdeKernel (s : State) (e : Vde) : Option Kernel := e.run.bind (fun r => s.kernel r.kernel)

/-- An op list is running or halted (06 R221). -/
def State.vdeBusy (s : State) (die n : Nat) : Bool := (s.vdeKernel (s.vde die n)).isSome

/-- Where a list's accesses go. -/
def Kernel.site (k : Kernel) (die tile : Nat) : Site := ⟨k.issuer, k.bases, die, tile⟩

/-- The engine lies in a radio island. -/
def State.vdeRadio (s : State) (die n : Nat) : Bool := s.inRadio ⟨die, .vde, n⟩

-- The checks of a list (06 R203, R204, R217).

/-- What an op uses: the forms it allows, sizes of the register files that d, a and b name (0 unused), and
the other fields. -/
structure OpSpec where
  forms : List Nat
  pairs : Bool := false
  d : Nat := 0
  a : Nat := 0
  b : Nat := 0
  g : Bool := false
  imm : Bool := false
  aux : Bool := false
  conj : Bool := false
  neg : Bool := false

/-- The table of ops (06 R209). -/
def opSpec (op : Nat) : Option OpSpec :=
  let any : List Nat := [0, 2, 3, 4, 12, 13, 14]
  let arith : List Nat := [3, 4, 12, 13, 14]
  match op with
  | 0x01 => some { forms := any, d := 16, g := true }
  | 0x02 => some { forms := any, a := 16, g := true }
  | 0x03 => some { forms := arith, d := 16, a := 16, g := true }
  | 0x04 => some { forms := [0], a := 8, g := true }
  | 0x05 => some { forms := [15], d := 14, g := true, aux := true }
  | 0x06 => some { forms := [15], a := 14, g := true, aux := true }
  | 0x07 => some { forms := [0], g := true, imm := true }
  | 0x10 => some { forms := any, pairs := true, d := 16, a := 16 }
  | 0x11 => some { forms := arith, pairs := true, d := 16, a := 8 }
  | 0x12 => some { forms := [0], d := 8, imm := true, aux := true }
  | 0x13 => some { forms := any, pairs := true, d := 16, a := 16, b := 16 }
  | 0x20 | 0x21 => some { forms := arith, d := 16, a := 16, b := 16, neg := true }
  | 0x22 => some { forms := arith, d := 16, a := 16, b := 16, aux := true, conj := true, neg := true }
  | 0x23 => some { forms := [12, 13, 14], pairs := true, d := 16, a := 16, neg := true }
  | 0x24 => some { forms := [12, 13, 14], pairs := true, d := 16, a := 16 }
  | 0x25 => some { forms := [3, 4, 13], d := 16, a := 16, aux := true }
  | 0x26 => some { forms := any, pairs := true, d := 16, a := 16, imm := true }
  | 0x27 | 0x28 => some { forms := [3, 4, 12], d := 16, a := 16, b := 16 }
  | 0x29 | 0x2A => some { forms := [0], d := 16, a := 16, b := 16 }
  | 0x2B => some { forms := [12], pairs := true, d := 16, a := 16 }
  | 0x30 | 0x31 | 0x32 => some { forms := [3, 13], d := 4, a := 16, b := 16, conj := true }
  | 0x33 => some { forms := [3, 13], d := 16, a := 4, aux := true }
  | 0x40 => some { forms := [0], d := 16, a := 8 }
  | 0x41 => some { forms := [0], d := 8, a := 16, imm := true, aux := true }
  | 0x42 => some { forms := [13], d := 16, a := 16, imm := true, aux := true }
  | 0x43 => some { forms := [13], d := 16, a := 16, b := 16, imm := true, aux := true }
  | 0x44 => some { forms := [3], d := 16, a := 16 }
  | 0x50 | 0x51 => some { forms := [3, 4, 12], d := 8, a := 16, b := 8, imm := true, aux := true }
  | 0x52 => some { forms := [3, 4, 12, 13], pairs := true, d := 8, a := 16 }
  | 0x58 => some { forms := [13, 14], g := true, imm := true, conj := true }
  | 0x59 => some { forms := [12, 13], pairs := true, d := 15, aux := true }
  | 0x70 => some { forms := [0], a := 8, b := 3, imm := true }
  | 0x71 => some { forms := [0], imm := true }
  | 0x72 | 0x73 => some { forms := [0] }
  | _ => none

/-- The values that aux and imm may take in an op. -/
def opRange (o : VOp) : List (Nat × Bool) :=
  let x := voAux o
  let m := voImm o
  let q := decide (x ∈ [1, 2, 4, 6, 8, 10])
  match voOp o with
  | 0x05 | 0x06 => [(1, decide (8 ≤ x) && decide (x ≤ 16))]
  | 0x12 => [(1, decide (x ≤ 3))]
  | 0x22 => [(1, decide (x ≤ 31))]
  | 0x25 => [(1, decide (1 ≤ x) && decide (x ≤ 31))]
  | 0x26 => [(1, decide (m < 32) && decide (m % 16 ∈ [0, 2, 3, 4, 12, 13, 14])
      && (decide (m < 16) || decide (m % 16 = 12)))]
  | 0x33 => [(1, decide (x ≤ 39))]
  | 0x41 => [(1, decide (m ≤ 2048) && decide (x ≤ 5))]
  | 0x42 => [(1, q)]
  | 0x43 => [(1, q && decide (m &&& 0xC0E0 = 0)), (0, decide (x ≠ 10) || decide (voD o ≤ 14))]
  | 0x50 | 0x51 => [(1, decide (m ≤ 32) && decide (x ≤ 1))]
  | 0x58 => [(1, decide (1 ≤ m) && decide (m ≤ 16383))]
  | 0x59 => [(0, decide (voFmt o ≠ 12) || voCplx o)]
  | 0x70 => [(1, decide (1 ≤ m) && decide (m ≤ 4094))]
  | _ => []

/-- The word of an op that breaks a check of its own (06 R204, R209). -/
def opBad (o : VOp) (agCount : Nat) (saveEn : Bool) : Option Nat :=
  match opSpec (voOp o) with
  | none => some 0
  | some p =>
    let reg (size v : Nat) : Bool := if size = 0 then decide (v = 0) else decide (v < size)
    firstFail ([
      (0, decide (voFmt o ∈ p.forms)),
      (0, !(voCplx o) || (p.pairs && decide (voFmt o = 12))),
      (0, decide (voOp o ∉ [0x23, 0x24]) || decide (voFmt o ≠ 12) || voCplx o),
      (0, p.conj || (!(voConjA o) && !(voConjB o))),
      (0, p.neg || !(voNeg o)),
      (0, reg p.d (voD o)), (0, reg p.a (voA o)), (0, reg p.b (voB o)),
      (0, p.g || decide (voG o = 0)),
      (0, decide (field o.1 31 30 = 0)),
      (1, p.imm || decide (voImm o = 0)), (1, p.aux || decide (voAux o = 0)),
      (1, decide (field o.2 31 25 = 0)),
      (1, decide (voOp o ≠ 0x07) || decide (voImm o < agCount)),
      (1, !(voHb o) || saveEn), (0, decide (voOp o ≠ 0x73) || saveEn)] ++ opRange o)

/-- A LOOP's body as first and last op. -/
def loopBody (ops : List VOp) (k : Nat) : Option (Nat × Nat × Nat) :=
  match ops[k]? with
  | some o => if voOp o = 0x70 then some (voB o, k + 1, k + voImm o) else none
  | none => none

/-- Op k breaks the nesting of loops (06 R217). -/
def loopBad (ops : List VOp) (k : Nat) : Bool :=
  match loopBody ops k with
  | none => false
  | some (lev, first, last) =>
    decide (ops.length ≤ last) || (List.range (last + 1 - first)).any (fun j =>
      match loopBody ops (first + j) with
      | some (l2, _, last2) => decide (l2 ≤ lev) || decide (last < last2)
      | none => false)

/-- The failing word of an address-generator table entry (06 R204, R214). -/
def agBad (e : List W32) : Option Nat :=
  let g : Ag := ⟨e, 0⟩
  firstFail [
    (0, decide (wfield e 0 31 12 = 0)), (3, decide (wfield e 3 31 24 = 0)),
    (0, decide (g.mode ≠ 3)), (0, decide (g.loc ≤ 7) || decide (g.loc = 10)),
    (0, decide (g.mode ≠ 2) || (decide (1 ≤ g.rbits) && decide (g.rbits ≤ 12))),
    (3, decide (g.mode ≠ 1) || decide (1 ≤ g.modlen)),
    (1, decide (g.base % g.esize = 0))]

/-- The failing word of a header (06 R202). -/
def headerBad (h : List W32) : Option Nat :=
  let en := bitOf (wordAt h 2) 4
  let loc := wfield h 2 3 0
  firstOf (reservedFail [0xFF_0FFF, 0xFFFF, 0x1F, m32, 0, 0, 0, 0] h)
    (firstFail [(0, decide (wfield h 0 11 0 ≠ 0)),
      (2, !en || decide (loc ≤ 7) || decide (loc = 10))])

/-- BAD_DESCRIPTOR of a list: op or header word, at an op. -/
def Result.badList (op w : Nat) : Result :=
  { status := .badDescriptor, loc := lo32 (op % 65536 * 2 ^ 16), d4 := lo32 (0x100 + w) }

/-- What reading and checking a list gives: a list to run, or how it fails. -/
inductive ListRead where
  | run (r : VRun)
  | fail (r : Result)
  | ue (m : Media)
  deriving DecidableEq, Repr

/-- Pair words up. -/
def pairWords : List W32 → List VOp
  | a :: b :: t => (a, b) :: pairWords t
  | _ => []

/-- Cut words into entries of four. -/
def quadWords : Nat → List W32 → List (List W32)
  | 0, _ => []
  | n + 1, l => l.take 4 :: quadWords n (l.drop 4)

/-- Read and check the list at a byte offset from base0 (06 R202 to R204). -/
def State.readList (s : State) (x : Site) (k : Nat) (off : Nat) : ListRead :=
  let fetch (o n : Nat) (go : List W32 → ListRead) : ListRead :=
    match s.verdict x 0 o (4 * n) with
    | .fault a => .fail (Result.access a 0)
    | .bad => .fail (Result.access o 0)
    | .ok =>
      match s.locUe x 0 o (4 * n) with
      | some b => .ue b
      | none => go (s.locWords x 0 o n)
  fetch off 8 (fun h =>
    match headerBad h with
    | some w => .fail (Result.badList 0 w)
    | none =>
      let nOps := wfield h 0 11 0
      let nAg := wfield h 0 23 16
      fetch (off + 32) (4 * nAg) (fun tw =>
        fetch (off + 32 + 16 * nAg) (2 * nOps) (fun ow =>
          let table := quadWords nAg tw
          let ops := pairWords ow
          let en := bitOf (wordAt h 2) 4
          match table.findSome? agBad with
          | some w => .fail (Result.badList 0 w)
          | none =>
            match (List.range nOps).findSome? (fun i =>
              match ops[i]? with
              | some o =>
                match opBad o nAg en with
                | some w => some (i, w)
                | none => if loopBad ops i then some (i, 1) else none
              | none => none) with
            | some (i, w) => .fail (Result.badList i w)
            | none => .run ⟨k, ops, table, wfield h 1 15 0, en, wfield h 2 3 0, (wordAt h 3).toNat * 32⟩)))

-- Landing writes (06 R205, R206).

/-- One accumulator component with a product added, and its saturations. -/
def macInto (a p : Int × Int) : (Int × Int) × Nat :=
  let x := satSigned 40 (a.1 + p.1)
  let y := satSigned 40 (a.2 + p.2)
  ((x, y), (if x = a.1 + p.1 then 0 else 1) + (if y = a.2 + p.2 then 0 else 1))

/-- A write lands. -/
def Vde.land1 (e : Vde) (w : VWrite) : Vde :=
  match w with
  | .vec d l => { e with v := e.v.set d l }
  | .acc d l => { e with a := e.a.set d l }
  | .mac d l =>
    let r := ((e.a.getD d []).zip l).map (fun p => macInto p.1 p.2)
    { e with a := e.a.set d (r.map Prod.fst), sat := e.sat + (r.map Prod.snd).sum }
  | .scal d v => { e with s := e.s.set d v }
  | .part d i v =>
    let old := (e.s.getD d 0).toNat
    let cleared := old - natField old (16 * i + 15) (16 * i) * 2 ^ (16 * i)
    { e with s := e.s.set d (BitVec.ofNat 64 (cleared + v * 2 ^ (16 * i))) }
  | .swap bank f => { e with done := bank, doneF := f, work := e.done, workF := e.doneF }

/-- The earliest slot at which a waiting write lands, up to `t`. -/
def nextLanding (t : Nat) (l : List Pend) : Option Nat :=
  l.foldl (fun m p => if p.slot ≤ t then (match m with
    | none => some p.slot
    | some x => some (min x p.slot)) else m) none

/-- Land every write due by the end of slot `t`, slot by slot and in issue order. -/
def Vde.land (t : Nat) : Nat → Vde → Vde
  | 0, e => e
  | n + 1, e =>
    match nextLanding t e.pend with
    | none => e
    | some k =>
      let now := e.pend.filter (fun p => decide (p.slot = k))
      let rest := e.pend.filter (fun p => decide (p.slot ≠ k))
      Vde.land t n (now.foldl (fun u p => u.land1 p.write) { e with pend := rest })

/-- Every issued write lands. -/
def Vde.landAll (e : Vde) : Vde :=
  Vde.land (e.pend.foldl (fun m p => max m p.slot) 0) e.pend.length e

-- Issue (06 R205, R216).

/-- The op after op `i`: loops that end there go round or end, the innermost first. -/
def loopNext (i : Nat) (loops : List LoopLevel) : Nat → Nat × List LoopLevel
  | 0 => (i + 1, loops)
  | n + 1 =>
    let l := loops.getD n LoopLevel.reset
    if l.active ∧ l.last = i then
      if 1 < l.remaining then (l.start, loops.set n { l with remaining := l.remaining - 1 })
      else loopNext i (loops.set n { l with active := false, remaining := 0 }) n
    else loopNext i loops n

/-- A store takes effect: at an offset of the issuer's stack memory, or in a memory of the dies. -/
def State.applyStore (s : State) (i : Issuer) (h : HeldStore) : State :=
  match h.space with
  | .stack => s.issuerWrite i h.addr h.data
  | sp => s.writeMem sp h.addr h.data

/-- What memory holds where a store goes. -/
def State.underStore (s : State) (i : Issuer) (h : HeldStore) : HeldStore :=
  { h with data := match h.space with
    | .stack => s.issuerRead i h.addr h.data.length
    | sp => s.readMem sp h.addr h.data.length }

/-- Memory as the engine itself sees it: with every store that it has issued (06 R208). -/
def State.vdeView (s : State) (k : Kernel) (e : Vde) : State :=
  e.stores.foldl (fun t h => t.applyStore k.issuer h) s

/-- The stores of an engine become visible to every other unit, in the order of issue (06 R208). -/
def State.showStores (s : State) (die n : Nat) (k : Kernel) : State :=
  let e := s.vde die n
  let go := e.stores.foldl (fun (t : State × List HeldStore) h =>
    (t.1.applyStore k.issuer h, t.1.underStore k.issuer h :: t.2)) (s, e.undo)
  go.1.setVde die n { e with stores := [], undo := go.2 }

/-- How a list ends: its stores are visible (09 R330), its counts go to the completion and its slots to accounting (06 R200, 09 R336, 08
R300). -/
def State.endList (s : State) (die n : Nat) (k : Kernel) (r : Result) : State :=
  let v := s.showStores die n k
  let e := (v.vde die n).landAll
  let listId := (e.run.map VRun.listId).getD 0
  let t := ((v.setVde die n { e with
    run := none, halted := false, haltReq := false, stepping := false, freeze := .none,
    undo := [] }).account k.issuer
    (fun a => { a with engineHs := a.engineHs + e.slot })).meterHs k.issuer ⟨die, .vde, n⟩ e.slot
  t.finishUnit k { r with aux := listId }

/-- A list completes with SUCCESS and its three counts (09 R336). -/
def State.completeList (s : State) (die n : Nat) (k : Kernel) : State :=
  let e := (s.vde die n).landAll
  (s.setVde die n e).endList die n k
    { status := .success, d4 := lo32 e.sat, d5 := lo32 e.nan, d6 := lo32 e.slot }

-- The save area (06 R220).

/-- The 16 bytes of an array entry: its two components, integers sign-extended, floats as FP32 bits. -/
def bankBytes (f : Bool) (e : Elem) : List Byte :=
  let c (v : FVal) : List Byte := if f then leBytes 8 (f32Bits v) else leBytes 8 (wrapOf 64 v.toInt)
  c e.re ++ c e.im

def bankElem (f : Bool) (bs : List Byte) : Elem :=
  let c (l : List Byte) : FVal := if f then f32 (fromLE (l.take 4)) else .ofInt (signedOf 64 (fromLE (l.take 8)))
  ⟨c bs, c (bs.drop 8)⟩

/-- The 8,448 bytes that a halt saves. -/
def Vde.save (e : Vde) : List Byte :=
  e.v.flatMap (fun r => r.flatMap (fun x => leBytes 8 x.toNat))
  ++ e.a.flatMap (fun r => r.flatMap (fun p => leBytes 8 (wrapOf 64 p.1) ++ leBytes 8 (wrapOf 64 p.2)))
  ++ e.s.flatMap (fun x => leBytes 8 x.toNat)
  ++ e.ag.flatMap (fun g => wordsBytes ((List.range 4).map (wordAt g.cfg)) ++ leBytes 4 (wrapOf 32 g.j) ++ leBytes 12 0)
  ++ e.done.flatMap (bankBytes e.doneF) ++ e.work.flatMap (bankBytes e.workF)
  ++ leBytes 4 e.sat ++ leBytes 4 e.nan ++ leBytes 4 e.slot ++ leBytes 52 0

/-- Cut bytes into `n` pieces of `k`. -/
def chunksOf (k : Nat) : Nat → List Byte → List (List Byte)
  | 0, _ => []
  | n + 1, l => l.take k :: chunksOf k n (l.drop k)

/-- The data state as a resume finds it in the save area. -/
def Vde.load (e : Vde) (bs : List Byte) : Vde :=
  let at' (o k n : Nat) : List (List Byte) := chunksOf k n (bs.drop o)
  let cnt (o : Nat) : Nat := fromLE ((bs.drop o).take 4)
  { e with
    v := (at' 0 256 16).map (fun r => (chunksOf 8 32 r).map laneOfBytes)
    a := (at' 4096 512 4).map (fun r => (chunksOf 16 32 r).map (fun p =>
      (signedOf 40 (fromLE (p.take 8)), signedOf 40 (fromLE (p.drop 8)))))
    s := (at' 6144 8 8).map laneOfBytes
    ag := (at' 6208 32 4).map (fun g => ({ cfg := bytesWords 4 g, j := signedOf 32 (fromLE ((g.drop 16).take 4)) } : Ag))
    done := (at' 6336 16 64).map (bankElem e.doneF)
    work := (at' 7360 16 64).map (bankElem e.workF)
    sat := cnt 8384, nan := cnt 8388, slot := cnt 8392 }

/-- Apply a store to a location. -/
def State.locWrite (s : State) (x : Site) (code off : Nat) (bs : List Byte) : State :=
  let a := s.locAddr x code off
  match a.1 with
  | .stack => s.issuerWrite x.issuer a.2 bs
  | sp => s.writeMem sp a.2 bs

/-- How a write of bytes to a location fails, if it does: outside, protected, or part of an
uncorrectable block. -/
def State.writeFail (s : State) (x : Site) (code off : Nat) (bs : List Byte) : Option (Result × Option Media) :=
  match s.verdict x code off bs.length with
  | .fault a => some (Result.access a code, none)
  | .bad => some (Result.access off code, none)
  | .ok =>
    if code ≤ 7 then
      let a := x.bases.getD code 0 + off
      if s.issuerProtected x.issuer a bs then some (Result.access a code, none)
      else (s.issuerUeWrite x.issuer a bs.length).map (fun b => (s.mediaResult x.issuer.partition b, some (.block b)))
    else none

/-- A failure that may come from what a read cannot deliver, which is noted (10 R350). -/
def State.noteFail (s : State) (b : Option Media) : State :=
  match b with
  | some k => s.failMedia k
  | none => s

/-- The engine halts: every issued op writes its result, stores included, the data state goes to the save area, and
halted is set with its cause (06 R218, R220, R221). -/
def State.haltNow (s : State) (die n : Nat) (k : Kernel) (cause : Nat) : State :=
  let v := s.showStores die n k
  let e := (v.vde die n).landAll
  let t := v.setVde die n { e with haltReq := false, stepping := false }
  match e.run with
  | none => s
  | some r =>
    let x := k.site die n
    match t.writeFail x r.saveLoc r.saveOff e.save with
    | some (f, b) => (t.noteFail b).endList die n k f
    | none =>
      let u := t.locWrite x r.saveLoc r.saveOff e.save
      u.setVde die n { u.vde die n with halted := true, cause := cause }

-- Issue.

/-- The engine after an op's effect, in issue slot `e.slot`: its writes wait, its counts add, and issue
goes on (06 R205, R216). -/
def Vde.after (e : Vde) (f : VEff) : Vde :=
  let u := e.slot
  let waiting : List Pend := f.writes.map (fun (w : Nat × VWrite) => ⟨u + w.1 - 1, w.2⟩)
  let e1 := { e with
    pend := e.pend ++ waiting
    ag := f.ags, sat := e.sat + f.sat, nan := e.nan + f.nan }
  match f.ctl with
  | .next | .brk =>
    let p := loopNext e.pc e.loops 3
    { e1 with slot := u + 1, pc := p.1, loops := p.2 }
  | .slots m =>
    let p := loopNext e.pc e.loops 3
    { e1 with slot := u + m, pc := p.1, loops := p.2 }
  | .fence =>
    let p := loopNext e.pc e.loops 3
    { e1 with slot := u + 1, pc := p.1, loops := p.2, freeze := .fence }
  | .loop lev count body =>
    if count = 0 then
      let p := loopNext (e.pc + body) e.loops 3
      { e1 with slot := u + 1, pc := p.1, loops := p.2 }
    else
      { e1 with slot := u + 1, pc := e.pc + 1,
                loops := e.loops.set lev ⟨count, true, e.pc + 1, e.pc + body⟩ }

/-- The array still works on an earlier AMM. -/
def Vde.arrayBusy (e : Vde) : Bool :=
  e.pend.any (fun p => match p.write with
    | .swap _ _ => true
    | _ => false)

/-- At the end of a list whose engine neither freezes nor halts, the list completes. -/
def State.listDone (s : State) (die n : Nat) (k : Kernel) : State :=
  let e := s.vde die n
  match e.run with
  | some r => if decide (r.ops.length ≤ e.pc) && decide (e.freeze = .none) && !e.halted then
      s.completeList die n k else s
  | none => s

/-- An op's effect takes place; its stores wait until the engine shows them (06 R208). -/
def State.issueEff (s : State) (die n : Nat) (k : Kernel) (e : Vde) (f : VEff) : State :=
  let x := k.site die n
  let held := f.stores.map (fun w => s.locStore x w.1 w.2.1 w.2.2)
  let u := (s.setVde die n { e.after f with stores := e.stores ++ held }).account k.issuer (fun a =>
    { a with stackBytes := a.stackBytes + f.bytes })
  if decide (f.ctl = .brk) && !(u.vdeRadio die n) then u.haltNow die n k 2
  else
    let v := u.listDone die n k
    if e.stepping && (v.vde die n).run.isSome then v.haltNow die n k 3 else v

/-- The next op of an engine's list issues, if it is of the opcode and the engine is neither halted nor
frozen, and no halt is due before it: `f` gives its effect from the registers as they stand (06
R205). -/
def State.vdeRow (op : Nat) (f : VRun → VIn → VRes) (die n : Nat) (s : State) : State :=
  let e0 := s.vde die n
  match e0.run, s.vdeKernel e0 with
  | some r, some k =>
    match r.ops[e0.pc]? with
    | none => s
    | some o =>
      if s.awake && decide (voOp o = op) && !e0.halted && decide (e0.freeze = .none)
          && !(s.underSubst ⟨die, .vde, n⟩)
          && !(voHb o && e0.haltReq && !(s.vdeRadio die n)) then
        let e := if e0.slot = 0 then e0 else Vde.land (e0.slot - 1) e0.pend.length e0
        if op = 0x58 && e.arrayBusy then s.setVde die n { e with freeze := .array }
        else
          match f r ⟨s.vdeView k e, k.site die n, e, o⟩ with
          | .ok g => (s.locCorrects (k.site die n) g.reads).issueEff die n k e g
          | .fail x => (s.setVde die n e).endList die n k { x with loc := lo32 (e.pc % 65536 * 2 ^ 16) }
          | .ue b => ((s.failMedia b).setVde die n e).endList die n k
              { s.mediaOf k.part b with loc := lo32 (e.pc % 65536 * 2 ^ 16) }
      else s
  | _, _ => s

-- The 41 ops (06 R209).

def vdeLdv := State.vdeRow 0x01 (fun _ => vLdv)
def vdeStv := State.vdeRow 0x02 (fun _ => vStv)
def vdeLdx := State.vdeRow 0x03 (fun _ => vLdx)
def vdeSts := State.vdeRow 0x04 (fun _ => vSts)
def vdeExpb := State.vdeRow 0x05 (fun _ => vExpb)
def vdeCmpb := State.vdeRow 0x06 (fun _ => vCmpb)
def vdeAgld := State.vdeRow 0x07 (fun r => vAgld r.table)
def vdeMov := State.vdeRow 0x10 (fun _ => vMov)
def vdeSplat := State.vdeRow 0x11 (fun _ => vSplat)
def vdeSets := State.vdeRow 0x12 (fun _ => vSets)
def vdePerm := State.vdeRow 0x13 (fun _ => vPerm)
def vdeAdd := State.vdeRow 0x20 (fun _ => vAdd)
def vdeSub := State.vdeRow 0x21 (fun _ => vSub)
def vdeMul := State.vdeRow 0x22 (fun _ => vMul)
def vdeConj := State.vdeRow 0x23 (fun _ => vConj)
def vdeAbs2 := State.vdeRow 0x24 (fun _ => vAbs2)
def vdeShr := State.vdeRow 0x25 (fun _ => vShr)
def vdeCvt := State.vdeRow 0x26 (fun _ => vCvt)
def vdeMaxv := State.vdeRow 0x27 (fun _ => vMaxv)
def vdeMinv := State.vdeRow 0x28 (fun _ => vMinv)
def vdeAnd := State.vdeRow 0x29 (fun _ => vAnd)
def vdeXor := State.vdeRow 0x2A (fun _ => vXor)
def vdeRecip := State.vdeRow 0x2B (fun _ => vRecip)
def vdeMacz := State.vdeRow 0x30 (fun _ => vMacz)
def vdeMac := State.vdeRow 0x31 (fun _ => vMac)
def vdeMsc := State.vdeRow 0x32 (fun _ => vMsc)
def vdeNarrow := State.vdeRow 0x33 (fun _ => vNarrow)
def vdeGold := State.vdeRow 0x40 (fun _ => vGold)
def vdeCrc := State.vdeRow 0x41 (fun _ => vCrc)
def vdeQmap := State.vdeRow 0x42 (fun _ => vQmap)
def vdeDemap := State.vdeRow 0x43 (fun _ => vDemap)
def vdeFht := State.vdeRow 0x44 (fun _ => vFht)
def vdeMaxs := State.vdeRow 0x50 (fun _ => vMaxs)
def vdeMins := State.vdeRow 0x51 (fun _ => vMins)
def vdeRsum := State.vdeRow 0x52 (fun _ => vRsum)
def vdeAmm := State.vdeRow 0x58 (fun _ => vAmm)
def vdeArd := State.vdeRow 0x59 (fun _ => vArd)
def vdeLoop := State.vdeRow 0x70 (fun _ => vLoop)
def vdeNop := State.vdeRow 0x71 (fun _ => vNop)
def vdeFence := State.vdeRow 0x72 (fun _ => vFence)
def vdeBrk := State.vdeRow 0x73 (fun _ => vBrk)

/-- VDE_FREEZE_END: what the engine waited for has come: after an AMM's wait the earlier product's banks
have swapped; after a FENCE the stores are visible (06 R207). -/
def vdeFreezeEnd (die n : Nat) (s : State) : State :=
  let e := s.vde die n
  match s.vdeKernel e with
  | none => s
  | some k =>
    match e.freeze with
    | .none => s
    | .fence =>
      let v := s.showStores die n k
      (v.setVde die n { v.vde die n with freeze := .none }).listDone die n k
    | .array =>
      let isSwap (p : Pend) : Bool := match p.write with
        | .swap _ _ => true
        | _ => false
      let e1 := (e.pend.filter isSwap).foldl (fun u p => u.land1 p.write)
        { e with freeze := .none, pend := e.pend.filter (fun p => !(isSwap p)) }
      s.setVde die n e1

-- Halting (06 R218 to R222).

/-- The engine that VDE_SEL selects. -/
def State.vdeSel (s : State) : Option (Nat × Nat) :=
  let w := s.reg (aCFG + 0x200)
  if field w 7 0 < 96 then some (field w 8 8, field w 7 0) else none

/-- A write of halt: requested for the next boundary, refused in a radio island, and for a halted
engine the end of its list, as an abandoned one (06 R218, R219, R222). -/
def State.vdeHaltWrite (s : State) (die n : Nat) : State :=
  let e := s.vde die n
  match s.vdeKernel e with
  | none => if s.vdeRadio die n then s.setVde die n { e with refused := true } else s
  | some k =>
    if s.vdeRadio die n then s.setVde die n { e with refused := true }
    else if e.halted then s.endList die n k (Result.of .abandoned)
    else s.setVde die n { e with haltReq := true }

/-- The loop state that a resume demands (06 R222). -/
def Vde.loopsOk (e : Vde) (opCount : Nat) : Bool :=
  (List.range 3).all (fun i =>
    let l := e.loops.getD i LoopLevel.reset
    !l.active || (decide (1 ≤ l.remaining) && decide (l.start ≤ e.pc) && decide (e.pc ≤ l.last)
      && decide (l.last < opCount)
      && (List.range i).all (fun j =>
        let m := e.loops.getD j LoopLevel.reset
        !m.active || (decide (m.start ≤ l.start) && decide (l.last ≤ m.last)))))

/-- A resume, for one op when stepping: the data state is read from the save area and issue goes on at
the PC, or the engine stays halted with cause 0b100 (06 R221, R222). -/
def State.vdeResumeWrite (s : State) (die n : Nat) (step : Bool) : State :=
  let e := s.vde die n
  match e.run, s.vdeKernel e with
  | some r, some k =>
    if e.halted then
      if e.loopsOk r.ops.length then
        let x := k.site die n
        match s.locUe x r.saveLoc r.saveOff 8448 with
        | some b => (s.failMedia b).endList die n k (s.mediaOf k.part b)
        | none =>
          let e1 := e.load (s.locRead x r.saveLoc r.saveOff 8448)
          ((s.locCorrects x [(r.saveLoc, r.saveOff, 8448)]).setVde die n { e1 with halted := false, cause := 0, stepping := step }).listDone die n k
      else s.setVde die n { e with cause := 4 }
    else s
  | _, _ => s

/-- VDE_HALT: issue has reached an op with hb = 1 while a request is pending (06 R218). -/
def vdeHalt (die n : Nat) (s : State) : State :=
  let e := s.vde die n
  match e.run, s.vdeKernel e with
  | some r, some k =>
    match r.ops[e.pc]? with
    | some o =>
      if voHb o && e.haltReq && !e.halted && decide (e.freeze = .none) && !(s.vdeRadio die n) then
        s.haltNow die n k 1
      else s
    | none => s
  | _, _ => s

/-- The selected engine, when the device answers. -/
def State.onSel (s : State) (f : State → Nat → Nat → State) : State :=
  if s.up then
    match s.vdeSel with
    | some (d, n) => f s d n
    | none => s
  else s

def vdeHaltRequest (s : State) : State :=
  s.onSel (fun t d n => if (t.vde d n).halted then t else t.vdeHaltWrite d n)
def vdeListEnd (s : State) : State :=
  s.onSel (fun t d n => if (t.vde d n).halted then t.vdeHaltWrite d n else t)
def vdeStep (s : State) : State := s.onSel (fun t d n => t.vdeResumeWrite d n true)
def vdeResume (s : State) : State := s.onSel (fun t d n => t.vdeResumeWrite d n false)

-- The debug registers (06 R221).

/-- The value of a VDE_ register of an engine, by its offset from VDE_SEL. -/
def State.vdeRegRead (s : State) (die n off : Nat) : W32 :=
  let e := s.vde die n
  let busy := s.vdeBusy die n
  let bit (b : Bool) (k : Nat) : Nat := if b then 2 ^ k else 0
  if off = 4 then
    lo32 (bit busy 8 + e.cause * 2 ^ 4 + bit e.refused 3 + bit (e.halted && busy) 2 + bit e.haltReq 0)
  else if off = 8 then
    lo32 ((if e.halted then (e.run.map VRun.listId).getD 0 * 2 ^ 16 else 0) + e.pc % 4096)
  else
    let l := e.loops.getD ((off - 0x10) / 8) LoopLevel.reset
    if off % 8 = 0 then lo32 l.remaining
    else lo32 (bit l.active 31 + l.last % 4096 * 2 ^ 12 + l.start % 4096)

/-- A write to a VDE_ register of an engine. -/
def State.vdeRegWrite (s : State) (die n off : Nat) (v : W32) : State :=
  let e := s.vde die n
  if off = 4 then
    let t := if bitOf v 3 then s.setVde die n { e with refused := false } else s
    if bitOf v 0 then t.vdeHaltWrite die n
    else if bitOf v 7 then t.vdeResumeWrite die n true
    else if bitOf v 1 then t.vdeResumeWrite die n false
    else t
  else if !e.halted then s
  else if off = 8 then s.setVde die n { e with pc := field v 11 0 }
  else
    let i := (off - 0x10) / 8
    let l := e.loops.getD i LoopLevel.reset
    let l' := if off % 8 = 0 then { l with remaining := v.toNat }
      else { l with active := bitOf v 31, last := field v 23 12, start := field v 11 0 }
    s.setVde die n { e with loops := e.loops.set i l' }

def execVLdv (die n : Nat) (s : State) : Done := .next (vdeLdv die n s)
def execVStv (die n : Nat) (s : State) : Done := .next (vdeStv die n s)
def execVLdx (die n : Nat) (s : State) : Done := .next (vdeLdx die n s)
def execVSts (die n : Nat) (s : State) : Done := .next (vdeSts die n s)
def execVExpb (die n : Nat) (s : State) : Done := .next (vdeExpb die n s)
def execVCmpb (die n : Nat) (s : State) : Done := .next (vdeCmpb die n s)
def execVAgld (die n : Nat) (s : State) : Done := .next (vdeAgld die n s)
def execVMov (die n : Nat) (s : State) : Done := .next (vdeMov die n s)
def execVSplat (die n : Nat) (s : State) : Done := .next (vdeSplat die n s)
def execVSets (die n : Nat) (s : State) : Done := .next (vdeSets die n s)
def execVPerm (die n : Nat) (s : State) : Done := .next (vdePerm die n s)
def execVAdd (die n : Nat) (s : State) : Done := .next (vdeAdd die n s)
def execVSub (die n : Nat) (s : State) : Done := .next (vdeSub die n s)
def execVMul (die n : Nat) (s : State) : Done := .next (vdeMul die n s)
def execVConj (die n : Nat) (s : State) : Done := .next (vdeConj die n s)
def execVAbs2 (die n : Nat) (s : State) : Done := .next (vdeAbs2 die n s)
def execVShr (die n : Nat) (s : State) : Done := .next (vdeShr die n s)
def execVCvt (die n : Nat) (s : State) : Done := .next (vdeCvt die n s)
def execVMaxv (die n : Nat) (s : State) : Done := .next (vdeMaxv die n s)
def execVMinv (die n : Nat) (s : State) : Done := .next (vdeMinv die n s)
def execVAnd (die n : Nat) (s : State) : Done := .next (vdeAnd die n s)
def execVXor (die n : Nat) (s : State) : Done := .next (vdeXor die n s)
def execVRecip (die n : Nat) (s : State) : Done := .next (vdeRecip die n s)
def execVMacz (die n : Nat) (s : State) : Done := .next (vdeMacz die n s)
def execVMac (die n : Nat) (s : State) : Done := .next (vdeMac die n s)
def execVMsc (die n : Nat) (s : State) : Done := .next (vdeMsc die n s)
def execVNarrow (die n : Nat) (s : State) : Done := .next (vdeNarrow die n s)
def execVGold (die n : Nat) (s : State) : Done := .next (vdeGold die n s)
def execVCrc (die n : Nat) (s : State) : Done := .next (vdeCrc die n s)
def execVQmap (die n : Nat) (s : State) : Done := .next (vdeQmap die n s)
def execVDemap (die n : Nat) (s : State) : Done := .next (vdeDemap die n s)
def execVFht (die n : Nat) (s : State) : Done := .next (vdeFht die n s)
def execVMaxs (die n : Nat) (s : State) : Done := .next (vdeMaxs die n s)
def execVMins (die n : Nat) (s : State) : Done := .next (vdeMins die n s)
def execVRsum (die n : Nat) (s : State) : Done := .next (vdeRsum die n s)
def execVAmm (die n : Nat) (s : State) : Done := .next (vdeAmm die n s)
def execVArd (die n : Nat) (s : State) : Done := .next (vdeArd die n s)
def execVLoop (die n : Nat) (s : State) : Done := .next (vdeLoop die n s)
def execVNop (die n : Nat) (s : State) : Done := .next (vdeNop die n s)
def execVFence (die n : Nat) (s : State) : Done := .next (vdeFence die n s)
def execVBrk (die n : Nat) (s : State) : Done := .next (vdeBrk die n s)
def execVdeFreezeEnd (die n : Nat) (s : State) : Done := .next (vdeFreezeEnd die n s)
def execVdeHalt (die n : Nat) (s : State) : Done := .next (vdeHalt die n s)
def execVdeHaltRequest (s : State) : Done := .next (vdeHaltRequest s)
def execVdeStep (s : State) : Done := .next (vdeStep s)
def execVdeResume (s : State) : Done := .next (vdeResume s)
def execVdeListEnd (s : State) : Done := .next (vdeListEnd s)

end Sys2Proof.Machine
end

