-- ==== Sys2Proof/Machine/UnitJobs.lean ====
section
/-! DEFINITION. Jobs that address one unit (09 R321): instruction lists on a tile, op lists on a VDE (06
R204) and accelerator commands (06 R223 to R231). -/

namespace Sys2Proof.Machine

-- Which unit a descriptor names (09 R321).

/-- What the unit field of a descriptor comes to. -/
inductive UnitRef where
  | unit (u : UnitId)
  | bad
  | reserved
  deriving DecidableEq, Repr

/-- A partition may command the class: tiles, VDEs and FFT engines (06 R223, 08 R272). -/
def partClass (c : EngineClass) : Bool := decide (c ∈ [EngineClass.tile, .vde, .fft])

/-- The unit that word 1 names for a class (09 R321). -/
def State.unitRef (s : State) (i : Issuer) (w1 : W32) (c : EngineClass) : UnitRef :=
  let n := field w1 15 0
  let check (u : UnitId) : UnitRef := if s.isRetired u then .reserved else .unit u
  match i with
  | none =>
    let u : UnitId := ⟨field w1 16 16, c, n⟩
    if !(u.exists') then .bad
    else if s.inRadio u || (s.unitOwner u).isSome then .reserved
    else check u
  | some (p, _) =>
    if !(partClass c) then .reserved
    else if bitOf w1 17 then
      match (s.activeLeases p).find? (fun l => decide (l.id = field w1 29 18)) with
      | none => .reserved
      | some l =>
        match (l.units.filter (fun u => decide (u.cls = c)))[n]? with
        | none => .reserved
        | some u => check u
    else
      match (s.ownUnits p c)[n]? with
      | none => .bad
      | some u => if s.inRadio u then .reserved else check u

/-- The word of an MLIST, OPLIST or ACCEL descriptor that fails a check (09 R321). -/
def State.unitDescBad (s : State) (i : Issuer) (ws : List W32) (mlist : Bool) : Option Nat :=
  let w1 := wordAt ws 1
  let t := wfield ws 14 10 0
  descFail ws [
    (1, match i with
      | none => !(bitOf w1 17) && decide (field w1 29 18 = 0)
      | some _ => !(bitOf w1 16) && (bitOf w1 17 || decide (field w1 29 18 = 0))),
    (13, !mlist || (decide (1 ≤ wfield ws 13 16 0) && decide (wfield ws 13 16 0 ≤ 65536))),
    (14, decide (1 ≤ t) && decide (t ≤ 2000) && (match i with
      | none => true
      | some (p, _) => decide (t ≤ s.maxLayer p)))]

/-- A running kernel occupies the unit. -/
def State.unitBusy (s : State) (u : UnitId) : Bool :=
  s.kernels.any (fun k => decide (k.unit = some (u.die, u.cls.code, u.num))
    || (decide (u.cls = .tile) && decide ((u.die, u.num) ∈ k.tiles)))

/-- No kernel of partition p starts: the limiter withholds non-radio work, a tile is lost without replacement, or the
save of a reclaim waits for the boundaries of the running kernels (01 R43, 07 R246, 08 R286). -/
def State.startsNone (s : State) (p : Nat) : Bool :=
  s.power.withheld || s.units.tilesLost.any (fun e => decide (e.1 = p)) || (s.part p).reclaiming

/-- Tiles that partition p's kernels occupy. -/
def State.occupied (s : State) (p : Nat) : Nat := ((s.partKernels p).flatMap (fun k => k.tiles)).length

/-- Work of the issuer may start on the unit now: it is not under substitution, the limiter
does not withhold non-radio work, and the context has room for one more tile (08 R280, R291, 01 R42, R43, 07
R246). -/
def State.unitReady (s : State) (i : Issuer) (u : UnitId) : Bool :=
  !(s.underSubst u) && !s.power.withheld
    && (match i with
      | none => true
      | some (p, c) =>
        !(s.startsNone p) && s.leases.all (fun l => decide (u ∉ l.units) || s.leaseInUse l)
          && (decide (u.cls ≠ .tile) || decide (s.occupied p < s.saveTiles p c)))

/-- The kernel of width 1 that a descriptor starts (09 R321). -/
def State.unitKernel (s : State) (n : Nat) (d : Desc) (i : Issuer) (kind : KernelKind) (u : UnitId) :
    Kernel :=
  let bases := jobBases d.words
  { id := s.nextKernel, kind := kind, ring := n, desc := d.idx, part := i.partition,
    ctx := (i.map Prod.snd).getD 0, slot := 0, kidx := 0,
    tiles := if u.cls = .tile then [(u.die, u.num)] else [],
    unit := if u.cls = .tile then none else some (u.die, u.cls.code, u.num), bases := bases,
    listOff := (wordAt d.words 12).toNat * 32,
    count := wfield d.words 13 16 0, maxUs := wfield d.words 14 10 0, start := s.ptp, overrun := false,
    cmd := [], res := none, ins := [] }

/-- The tiles that the context of a kernel has occupied, but for the kernel's: those that kernels occupy now before the
idle ones. -/
def State.usedBefore (s : State) (p : Nat) (k : Kernel) : List (Nat × Nat) :=
  let l := (s.ctx p k.ctx).used.filter (fun x => decide (x ∉ k.tiles))
  l.filter (fun x => decide (x ∈ s.busyTiles)) ++ l.filter (fun x => decide (x ∉ s.busyTiles))

/-- A kernel starts: its context has occupied its tiles, which come first in a save, of save_tiles tiles at most (log
entry 86), its ring is the one served last, and a pace_blind written
while RUNNING applies (08 R273, R281, R286). -/
def State.startKernel (s : State) (k : Kernel) : State :=
  let t := s.startDesc k.ring k.desc
  let u := { t with kernels := t.kernels ++ [k], nextKernel := t.nextKernel + 1 }
  match k.part with
  | some p =>
    let y := u.ctx p k.ctx
    let v := u.setCtx p k.ctx { y with used := (k.tiles ++ s.usedBefore p k).take (s.saveTiles p k.ctx) }
    v.setPart p { v.part p with lastRing := k.ring, blind := v.rbit (aPARTp p) 3 }
  | none => u

/-- The class of an accelerator command (06 R224). -/
def accelClass (cmd : List W32) : Option EngineClass :=
  match wfield cmd 0 3 0 with
  | 1 => some .fft
  | 2 => some .ldpcDec
  | 3 => some .ldpcEnc
  | 4 => some .polar
  | 5 => some .prach
  | _ => none

/-- The kind of kernel and the class of unit that an MLIST, OPLIST or ACCEL descriptor asks for; the command of an
ACCEL is read from the issuer's stack memory (09 R321, 06 R224). -/
def State.unitKind (s : State) (i : Issuer) (d : Desc) : Option (KernelKind × EngineClass) :=
  match d.op with
  | 4 => some (.mlist, .tile)
  | 5 => some (.oplist, .vde)
  | 6 =>
    let x : Site := ⟨i, jobBases d.words, field (wordAt d.words 1) 16 16, 0⟩
    let off := (wordAt d.words 12).toNat * 32
    if s.verdict x 0 off 64 = .ok && (s.locUe x 0 off 64).isNone then
      (accelClass (s.locWords x 0 off 16)).map (fun c => (.accel, c))
    else none
  | _ => none

/-- The unit is free for one more kernel of the kind; an accelerator queues its commands (06 R223). -/
def State.unitTakes (s : State) (i : Issuer) (kind : KernelKind) (u : UnitId) : Bool :=
  (decide (kind = .accel) || !(s.unitBusy u)) && s.unitReady i u

/-- The oldest waiting descriptor of ring n is a job on a unit, and could start its kernel now. -/
def State.unitFits (s : State) (p c n : Nat) : Bool :=
  match s.nextStart n with
  | none => false
  | some d =>
    match s.unitKind (some (p, c)) d with
    | none => false
    | some (kind, cls) =>
      match s.unitRef (some (p, c)) (wordAt d.words 1) cls with
      | .unit u => !(s.gated n) && (s.unitDescBad (some (p, c)) d.words (decide (kind = .mlist))).isNone
          && s.unitTakes (some (p, c)) kind u
      | _ => false

/-- The next kernel of ring n's job, when as many tiles as its width are free and the context may occupy them: the
descriptor, the job, the kernel's declaration and its width (08 R279, R280). -/
def State.runFits (s : State) (p c n : Nat) : Option (Desc × Job × KernelDecl × Nat) :=
  match s.readyJob p c n with
  | none => none
  | some (d, j, k) =>
    let w := s.widthFor p k
    if w ≤ (s.freeTiles p).length ∧ s.occupied p + w ≤ s.saveTiles p c then some (d, j, k, w) else none

/-- The ring to be served: the first in the scheduler's order whose job could start a kernel now (08 R281). -/
def State.turn (s : State) (p c : Nat) : Option Nat :=
  (s.ringOrder p c).find? (fun m => (s.runFits p c m).isSome || s.unitFits p c m)

/-- KERNEL_START: the scheduler starts the next ready kernel of partition p's resident context, when the job whose
turn it is runs a program image; no kernel starts while the limiter withholds non-radio work or a tile is
lost without replacement (08 R279 to R281, 01 R43). -/
def kernelStart (p : Nat) (s : State) : State :=
  let c := (s.part p).resident
  if s.awake && s.ctxRuns p c && !(s.startsNone p) && decide ((s.ctx p c).checked = some true) then
    match s.turn p c with
    | none => s
    | some n =>
      match s.runFits p c n with
      | none => s
      | some (d, j, k, w) =>
        (s.updDesc n d.idx (fun e => { e with job := some { j with running := true } })).startKernel {
          id := s.nextKernel, kind := .run, ring := n, desc := d.idx, part := some p, ctx := c,
          slot := j.slot, kidx := j.ran, tiles := (s.freeTiles p).take w, unit := none, bases := jobBases d.words,
          listOff := 0, count := 0, maxUs := k.maxUs, start := s.ptp, overrun := false, cmd := [], res := none,
          ins := [] }
  else s

/-- The ring may start a kernel now: it is its turn among the rings of its context (08 R281). -/
def State.served (s : State) (i : Issuer) (n : Nat) : Bool :=
  match i with
  | none => true
  | some (p, c) => decide (s.turn p c = some n)

/-- The common course of a unit job: its checks, its unit, and the wait for a busy one and for its ring's turn; an
accelerator queues its commands instead (06 R223). -/
def State.unitJob (s : State) (n : Nat) (d : Desc) (i : Issuer) (kind : KernelKind) (c : EngineClass)
    (aux : Nat) (go : State → Kernel → UnitId → State) : State :=
  let fin (r : Result) : State := s.finishDesc n d.idx { r with aux := aux }
  let ref := s.unitRef i (wordAt d.words 1) c
  match firstOf (s.unitDescBad i d.words (decide (kind = .mlist))) (if ref = .bad then some 1 else none) with
  | some w => fin (Result.bad w)
  | none =>
    match ref with
    | .bad => fin (Result.bad 1)
    | .reserved => fin (Result.of .engineReserved)
    | .unit u =>
      if s.unitTakes i kind u && s.served i n then
        go (s.updDesc n d.idx (fun e => { e with aux := aux })) (s.unitKernel n d i kind u) u
      else s

/-- MLIST: the next descriptor of ring n runs a list of matrix instructions on one tile (09 R321). -/
def mlist (n : Nat) (s : State) : State :=
  s.admitJob n 0x04 (fun t d i => t.unitJob n d i .mlist .tile 0 (fun v k _ => v.startKernel k))

/-- The identifier in a field of the object that a descriptor's word 12 names, which the completion carries on
any status; zero where no access reaches the object (06 R202, R224, 09 R325). -/
def State.jobId (s : State) (x : Site) (off w hi lo : Nat) : Nat :=
  if s.verdict x 0 off 32 = .ok && (s.locUe x 0 off 32).isNone then wfield (s.locWords x 0 off 8) w hi lo else 0

/-- OPLIST: the next descriptor of ring n checks an op list and starts it on one VDE (09 R321, 06
R204). -/
def oplist (n : Nat) (s : State) : State :=
  s.admitJob n 0x05 (fun t d i =>
    let die := match t.unitRef i (wordAt d.words 1) .vde with
      | .unit u => u.die
      | _ => field (wordAt d.words 1) 16 16
    let id := t.jobId ⟨i, jobBases d.words, die, 0⟩ ((wordAt d.words 12).toNat * 32) 1 15 0
    t.unitJob n d i .oplist .vde id (fun v k u =>
    match v.readList (k.site u.die u.num) k.id k.listOff with
    | .fail r => v.finishDesc n d.idx { r with aux := id }
    | .ue b => (v.failMedia b).finishDesc n d.idx { v.mediaOf i.partition b with aux := id }
    | .run r =>
      let e := v.vde u.die u.num
      ((v.locCorrects (k.site u.die u.num) [(0, k.listOff, 32 + 16 * r.table.length + 8 * r.ops.length)]).startKernel k).setVde u.die u.num { e with
        run := some r, pc := 0, slot := 0, pend := [], loops := List.replicate 3 LoopLevel.reset,
        done := zeroBank, work := zeroBank, doneF := false, workF := false, freeze := .none,
        haltReq := false, halted := false, stepping := false, cause := 0, sat := 0, nan := 0,
        stores := [], undo := [] }))

-- Commands (06 R224 to R231).

/-- An accelerator's command with what it has to do. -/
structure AccelDone where
  /-- result words 1 to 3 -/
  r1 : Nat := 0
  r2 : Nat := 0
  r3 : Nat := 0
  hs : Nat
  /-- output: offset from the output address, and bytes -/
  out : List (Nat × List Byte) := []
  deriving DecidableEq, Repr

def cmdIn (c : List W32) : Nat × Nat := (wfield c 1 3 0, (wordAt c 2).toNat * 32)
def cmdOut (c : List W32) : Nat × Nat := (wfield c 1 7 4, (wordAt c 3).toNat * 32)
def cmdRes (c : List W32) : Nat × Nat := (wfield c 1 11 8, (wordAt c 4).toNat * 32)

/-- The result record (06 R225). -/
def accelRecord (c : List W32) (st : Nat) (d : AccelDone) : List W32 :=
  [lo32 (wfield c 0 31 16 + st * 2 ^ 16), lo32 d.r1, lo32 d.r2, lo32 d.r3, 0, 0, lo32 d.hs, 0]

/-- The result record is written where its address reaches memory; one that no access reaches is not written. -/
def State.writeRecord (s : State) (x : Site) (c ws : List W32) : State :=
  let o := cmdRes c
  match s.writeFail x o.1 o.2 (wordsBytes ws) with
  | some (_, b) => s.noteFail b
  | none => s.locWrite x o.1 o.2 (wordsBytes ws)

/-- ACCEL: the next descriptor of ring n issues one accelerator command (09 R321, 06 R223, R224). -/
def accel (n : Nat) (s : State) : State :=
  s.admitJob n 0x06 (fun t d i =>
    let x : Site := ⟨i, jobBases d.words, field (wordAt d.words 1) 16 16, 0⟩
    let off := (wordAt d.words 12).toNat * 32
    match t.unitDescBad i d.words false with
    | some w => t.finishDesc n d.idx { Result.bad w with aux := t.jobId x off 0 31 16 }
    | none =>
      match t.verdict x 0 off 64 with
      | .fault a => t.finishDesc n d.idx { Result.access a 0 with aux := t.jobId x off 0 31 16 }
      | .bad => t.finishDesc n d.idx { Result.access off 0 with aux := t.jobId x off 0 31 16 }
      | .ok =>
        match t.locUe x 0 off 64 with
        | some b => (t.failMedia b).finishDesc n d.idx (t.mediaOf i.partition b)
        | none =>
          let cmd := t.locWords x 0 off 16
          let id := wfield cmd 0 31 16
          match accelClass cmd with
          | none =>
            let r := { Result.badIns 0 with aux := id }
            (t.writeRecord x cmd (accelRecord cmd r.status.code { hs := 0 })).finishDesc n d.idx r
          | some c => t.unitJob n d i .accel c id (fun v k _ =>
              (v.locCorrects x [(0, off, 64)]).startKernel { k with cmd := cmd }))

/-- The bits of command words that an engine assigns (06 R224, R226). -/
def cmdMasks (e : Nat) : List Nat :=
  let head : List Nat := [0xFFFF_000F, 0xFFF, m32, m32, m32]
  head ++ (match e with
    | 1 => [0xFFFF_3FFF, 0xF_FFFF, m32, m32]
    | 2 => [0x7F_FFFF, m32, 0, 0]
    | 3 => [0xFFFF, m32, 0x7FF_FFFF, 0x1F_FFFF]
    | 4 => [0x1FFF, m32, 0, 0]
    | _ => [0x7FFF, 0x3FFF_FFFF, 0x7F_FFFF, m32]) ++ [0, 0, 0, 0, 0, 0, 0]

/-- Common checks of a command. -/
def cmdBad (c : List W32) (own : List (Nat × Bool)) : Option Nat :=
  let loc (l : Nat) : Bool := decide (l ≤ 7) || decide (l = 10)
  firstOf (reservedFail (cmdMasks (wfield c 0 3 0)) c)
    (firstFail ((1, loc (cmdIn c).1 && loc (cmdOut c).1 && loc (cmdRes c).1) :: own))

/-- N = 2^a × 3^b × 5^c. -/
def smooth (n : Nat) : Bool :=
  decide (2 ^ exponent 2 12 n * 3 ^ exponent 3 12 n * 5 ^ exponent 5 12 n = n)

def fftN (c : List W32) : Nat := wfield c 5 12 0

def fftChecks (c : List W32) : List (Nat × Bool) :=
  [ (5, decide (12 ≤ fftN c) && decide (fftN c ≤ 4096) && smooth (fftN c) && decide (wfield c 5 31 16 ≠ 0)),
    (6, (List.range 8).all (fun i => decide (wfield c 6 (2 * i + 1) (2 * i) ≤ 2)) && decide (wfield c 6 19 16 ≤ 8)),
    (7, decide ((wordAt c 7).toNat % 32 = 0)), (8, decide ((wordAt c 8).toNat % 32 = 0)) ]

/-- CI16 elements. -/
def ci16s (n : Nat) (bs : List Byte) : List Pair :=
  let at' (i : Nat) : Int := signedOf 16 (fromLE ((bs.drop (2 * i)).take 2))
  (List.range n).map (fun i => (at' (2 * i), at' (2 * i + 1)))

/-- INT8 values. -/
def int8s (bs : List Byte) : List Int := bs.map (fun b => signedOf 8 b.toNat)

/-- A bit sequence of `n` bits as bytes (06 R201). -/
def seqBytes (n v : Nat) : List Byte := leBytes ((n + 7) / 8) (v % 2 ^ n)

/-- FFT (06 R227): reads by transform. -/
def fftReads (c : List W32) : List (Nat × Nat) :=
  (List.range (wfield c 5 31 16)).map (fun t => (t * (wordAt c 7).toNat, 4 * fftN c))

def fftRun (c : List W32) (data : List (List Byte)) : AccelDone :=
  let n := fftN c
  let sh : Int := -(wfield c 6 19 16 : Int)
  let runs := data.map (fun bs => fftRunPoints (bitOf (wordAt c 5) 13) (wfield c 6 15 0) (ci16s n bs))
  let narrow (v : Int) : Stored := intStore 16 .near ((FVal.ofInt v).scale sh)
  let outs := runs.map (fun r => r.1.flatMap (fun p => [narrow p.1, narrow p.2]))
  { r1 := (runs.map Prod.snd).sum + ((outs.flatMap id).filter (fun q => q.sat)).length,
    hs := 40 + (data.length + 1) * ((n + 7) / 8),
    out := (outs.zipIdx).map (fun e =>
      (e.2 * (wordAt c 8).toNat, e.1.flatMap (fun q => leBytes 2 q.bits))) }

/-- Lifting sizes of TS 38.212: a × 2^j for a of 2, 3, 5, 7, 9, 11, 13, 15, up to 384. -/
def liftOk (z : Nat) : Bool :=
  decide (2 ≤ z) && decide (z ≤ 384)
    && (List.range 8).any (fun j => ([2, 3, 5, 7, 9, 11, 13, 15] : List Nat).any (fun a => decide (z = a * 2 ^ j)))

def ldpcZ (c : List W32) : Nat := wfield c 5 8 0
def ldpcRows (c : List W32) : Nat := wfield c 5 15 10
/-- The code that a command names. -/
def ldpcCode (c : List W32) : Ldpc := ⟨wfield c 5 9 9, ldpcZ c, ldpcRows c⟩
def ldpcK (c : List W32) : Nat := wfield c 6 15 0

def ldpcChecks (c : List W32) : List (Nat × Bool) :=
  [ (5, liftOk (ldpcZ c) && decide (4 ≤ ldpcRows c)
      && decide (ldpcRows c ≤ if wfield c 5 9 9 = 0 then 46 else 42)) ]

def ldpcDecChecks (c : List W32) : List (Nat × Bool) :=
  (5, decide (1 ≤ wfield c 5 20 16) && decide (wfield c 5 20 16 ≤ 20)) :: ldpcChecks c

/-- The polynomial that a decode command names: 24B, 24A or 16. -/
def ldpcCrc (c : List W32) : Nat × Nat :=
  match wfield c 5 22 21 with
  | 1 => crcPoly 1
  | 2 => crcPoly 0
  | _ => crcPoly 3

def ldpcDecReads (c : List W32) : List (Nat × Nat) := [(0, (ldpcCode c).len)]

/-- LDPC decoding (06 R228): crc_ok of a command that names no CRC has no stated value. -/
def ldpcDecRun (c : List W32) (data : List (List Byte)) : AccelDone :=
  let k := ldpcK c
  let o := (ldpcCode c).decode (wfield c 5 20 16) (int8s (data.headD []))
  let bits := o.bits % 2 ^ k
  let crc := if wfield c 5 22 21 = 0 then Config.bitFree bits else crcOk (ldpcCrc c) k bits
  { r1 := o.iters + (if o.parity then 2 ^ 8 else 0) + (if crc then 2 ^ 9 else 0),
    hs := 48 + o.iters * ldpcRows c * ((ldpcZ c + 47) / 48), out := [(0, seqBytes k bits)] }

def ldpcEncChecks (c : List W32) : List (Nat × Bool) :=
  (7, decide (wfield c 7 26 23 ∈ [1, 2, 4, 6, 8, 10])) :: ldpcChecks c

def ldpcEncReads (c : List W32) : List (Nat × Nat) := [(0, (ldpcK c + 7) / 8)]

/-- The circular buffer of an encode command: n_cb of 0 means (K_b + rows − 2) × z (06 R226). -/
def ldpcBuffer (c : List W32) : Buffer :=
  let l := ldpcCode c
  let n := wfield c 8 20 0
  ⟨l, ldpcK c, wfield c 6 31 16, if n = 0 then l.buf else n⟩

/-- LDPC encoding and rate matching (06 R229). -/
def ldpcEncRun (c : List W32) (data : List (List Byte)) : AccelDone :=
  let e := wfield c 7 20 0
  let l := ldpcCode c
  let word := l.encode (fromLE (data.headD []) % 2 ^ ldpcK c)
  { hs := 32 + (l.kb + ldpcRows c) * ((ldpcZ c + 95) / 96) + (e + 511) / 512,
    out := [(0, seqBytes e ((ldpcBuffer c).match' word (wfield c 7 22 21) e (wfield c 7 26 23)))] }

def polarK (c : List W32) : Nat := wfield c 5 12 3
def polarE (c : List W32) : Nat := wfield c 6 15 0
def polarKind (c : List W32) : Nat := wfield c 5 2 1

def polarChecks (c : List W32) : List (Nat × Bool) :=
  [ (5, decide (polarKind c ≠ 3) && decide (12 ≤ polarK c) && decide (polarK c ≤ 1023)),
    (6, decide (polarKind c = 0) || decide (wfield c 6 31 16 = 0)) ]

def polarEncChecks (c : List W32) : List (Nat × Bool) := (5, decide (wfield c 5 0 0 = 0)) :: polarChecks c
def polarDecChecks (c : List W32) : List (Nat × Bool) := (5, decide (wfield c 5 0 0 = 1)) :: polarChecks c

def polarEncReads (c : List W32) : List (Nat × Nat) := [(0, (polarK c + 7) / 8)]

/-- The code that a command names. -/
def polarCode (c : List W32) : Polar := ⟨polarK c, polarE c, polarKind c⟩

/-- Polar encoding (06 R230). -/
def polarEncRun (c : List W32) (data : List (List Byte)) : AccelDone :=
  let k := polarK c
  let p := polarCode c
  { hs := 32 + p.len / 8,
    out := [(0, seqBytes (polarE c) (p.encode (maskRnti k (wfield c 6 31 16) (fromLE (data.headD []) % 2 ^ k))))] }

def polarDecReads (c : List W32) : List (Nat × Nat) := [(0, polarE c)]

/-- CA-SCL decoding (06 R230). -/
def polarDecRun (c : List W32) (data : List (List Byte)) : AccelDone :=
  let p := polarCode c
  let o := p.decode (wfield c 6 31 16) (int8s (data.headD []))
  { r1 := if o.2 then 1 else 0, hs := 64 + p.len / 4 * p.n, out := [(0, seqBytes (polarK c) o.1)] }

def prachAnt (c : List W32) : Nat := wfield c 5 7 1
def prachLong (c : List W32) : Bool := bitOf (wordAt c 5) 0
def prachPreambles (c : List W32) : Nat := wfield c 7 22 16

def prachChecks (c : List W32) : List (Nat × Bool) :=
  let in64 (n : Nat) : Bool := decide (1 ≤ n) && decide (n ≤ 64)
  [ (5, in64 (prachAnt c) && in64 (wfield c 5 14 8)), (6, decide (wfield c 6 29 28 ≠ 3)),
    (7, in64 (prachPreambles c)) ]

def prachReads (c : List W32) : List (Nat × Nat) :=
  (List.range (prachAnt c)).map (fun a => (a * (wordAt c 8).toNat, 4 * (if prachLong c then 839 else 139)))

/-- The occasion that a command names; its timing advance counts in the units of numerology 0 (log entry 71). -/
def prachJob (c : List W32) : Prach :=
  ⟨prachLong c, prachAnt c, wfield c 5 14 8, wfield c 6 15 0, wfield c 6 27 16, wfield c 6 29 28, wfield c 7 15 0,
   prachPreambles c, 0⟩

/-- PRACH detection (06 R231): the samples of an antenna are CI16 elements. -/
def prachRun (c : List W32) (data : List (List Byte)) : AccelDone :=
  let p := prachJob c
  let o := p.detect (data.map (fun b => (ci16s p.len b).map (fun z => ((z.1 : Rat), (z.2 : Rat)))))
  let w (v : Int) : Nat := wrapOf 16 v
  let rec1 (h : Nat × Nat × Int) : List Byte :=
    leBytes 4 (h.1 + h.2.1 * 2 ^ 16) ++ leBytes 4 (w h.2.2 + w o.rssi * 2 ^ 16)
  { r1 := o.hits.length, r2 := w o.noise, r3 := w o.rssi, hs := 96 + p.roots * p.ant * p.points / 8,
    out := [(0, o.hits.flatMap rec1)] }

/-- The first failure of the reads and writes of a command. -/
def State.cmdFail (s : State) (x : Site) (reads : List (Nat × Nat × Nat))
    (writes : List (Nat × Nat × List Byte)) : Option (Result × Option Media) :=
  match reads.findSome? (fun r =>
    match s.verdict x r.1 r.2.1 r.2.2 with
    | .fault a => some (Result.access a r.1, none)
    | .bad => some (Result.access r.2.1 r.1, none)
    | .ok => (s.locUe x r.1 r.2.1 r.2.2).map (fun b => (s.mediaOf x.issuer.partition b, some b))) with
  | some e => some e
  | none => writes.findSome? (fun w => s.writeFail x w.1 w.2.1 w.2.2)

/-- An engine runs the oldest command of its queue: checks it, reads its input, writes its output; the result
record and the completion follow (06 R223, R225). -/
def State.accelRow (op : Nat) (c : EngineClass) (checks : List W32 → List (Nat × Bool))
    (reads : List W32 → List (Nat × Nat)) (go : List W32 → List (List Byte) → AccelDone)
    (die n : Nat) (s : State) : State :=
  match s.kernels.find? (fun k => decide (k.unit = some (die, c.code, n))) with
  | none => s
  | some k =>
    if s.awake && !(s.underSubst ⟨die, c, n⟩) && decide (k.kind = .accel) && k.res.isNone
        && decide (wfield k.cmd 5 0 0 = op ∨ op = 2) then
      let cmd := k.cmd
      let x := k.site die n
      let id := wfield cmd 0 31 16
      let fin (t : State) (r : Result) (d : AccelDone) : State :=
        t.updKernel k.id (fun y => { y with res := some (accelRecord cmd r.status.code d, { r with aux := id }) })
      match cmdBad cmd (checks cmd) with
      | some w => fin s (Result.badIns w) { hs := 0 }
      | none =>
        let i := cmdIn cmd
        let o := cmdOut cmd
        let data := (reads cmd).map (fun r => s.locRead x i.1 (i.2 + r.1) r.2)
        let d := go cmd data
        let writes := d.out.map (fun w => (o.1, o.2 + w.1, w.2))
        let rds := (reads cmd).map (fun r => (i.1, i.2 + r.1, r.2))
        match s.cmdFail x rds writes with
        | some (r, b) => fin (s.noteFail b) r { hs := 0 }
        | none =>
          let t := writes.foldl (fun t w => t.locWrite x w.1 w.2.1 w.2.2) (s.locCorrects x rds)
          let bytes := (rds.map (fun r => stackCost r.1 r.2.2)).sum
            + (writes.map (fun w => stackCost w.1 w.2.2.length)).sum
          let u := (t.account k.issuer (fun a => { a with
            stackBytes := a.stackBytes + bytes
            engineHs := a.engineHs + (if c = .fft then d.hs else 0) })).meterHs k.issuer ⟨die, c, n⟩ d.hs
          fin u (Result.of .success) d
    else s

def fft := State.accelRow 2 .fft fftChecks fftReads fftRun
def ldpcDecode := State.accelRow 2 .ldpcDec ldpcDecChecks ldpcDecReads ldpcDecRun
def ldpcEncode := State.accelRow 2 .ldpcEnc ldpcEncChecks ldpcEncReads ldpcEncRun
def polarEncode := State.accelRow 0 .polar polarEncChecks polarEncReads polarEncRun
def polarDecode := State.accelRow 1 .polar polarDecChecks polarDecReads polarDecRun
def prachDetect := State.accelRow 2 .prach prachChecks prachReads prachRun

/-- ACCEL_RESULT: the output of kernel k's command is visible: its result record is written and the job
completes (06 R225). A record that no access reaches is not written. -/
def accelResult (k : Nat) (s : State) : State :=
  match s.kernel k with
  | none => s
  | some y =>
    match y.res with
    | none => s
    | some (ws, r) =>
      let die := (y.unit.map (fun u => u.1)).getD 0
      let x := y.site die 0
      let o := cmdRes y.cmd
      match s.writeFail x o.1 o.2 (wordsBytes ws) with
      | some (f, b) => (s.noteFail b).finishUnit y (if r.status = .success then { f with aux := r.aux } else r)
      | none => (s.locWrite x o.1 o.2 (wordsBytes ws)).finishUnit y r

def execKernelStart (p : Nat) (s : State) : Done := .next (kernelStart p s)
def execMlist (n : Nat) (s : State) : Done := .next (mlist n s)
def execOplist (n : Nat) (s : State) : Done := .next (oplist n s)
def execAccel (n : Nat) (s : State) : Done := .next (accel n s)

/-- An engine works for the oldest command of its queue, or for the layer-1 controller on a slot (06 R223). -/
def forRadio (work : Option L1Job) (radio : L1Job → State) (job : State) : State :=
  match work with
  | some j => radio j
  | none => job

def execFft (die n : Nat) (work : Option L1Job) (s : State) : Done :=
  .next (forRadio work (s.l1Dft ⟨die, .fft, n⟩) (fft die n s))
def execLdpcDecode (die n : Nat) (work : Option L1Job) (s : State) : Done :=
  .next (forRadio work (s.l1Decode ⟨die, .ldpcDec, n⟩) (ldpcDecode die n s))
def execLdpcEncode (die n : Nat) (work : Option L1Job) (s : State) : Done :=
  .next (forRadio work (s.l1Encode ⟨die, .ldpcEnc, n⟩) (ldpcEncode die n s))
def execPolarEncode (die n : Nat) (work : Option L1Job) (s : State) : Done :=
  .next (forRadio work (s.l1Encode ⟨die, .polar, n⟩) (polarEncode die n s))
def execPolarDecode (die n : Nat) (work : Option L1Job) (s : State) : Done :=
  .next (forRadio work (s.l1Uci ⟨die, .polar, n⟩) (polarDecode die n s))

/-- A PRACH detector works for a kernel's command (06 R231) or on an occasion of a cell, named by its cell, its
slot and the index of its PDU (05 R194). -/
def prach (die n : Nat) (occ : Option (Nat × Nat × Nat)) (s : State) : State :=
  match occ with
  | some (c, slot, i) =>
    if s.l1Engine ⟨die, .prach, n⟩ && decide ((s.cell c).die = die) then s.rachIndication c slot i else s
  | none => prachDetect die n s

def execPrach (die n : Nat) (occ : Option (Nat × Nat × Nat)) (s : State) : Done := .next (prach die n occ s)

def execAccelResult (k : Nat) (s : State) : Done := .next (accelResult k s)

end Sys2Proof.Machine
end

