-- ==== Sys2Proof/Machine/Faults.lean ====
section
/-! DEFINITION. Faulty units (01 R28, R39 to R43; 14 R462 to R467): the fence, the substitution by a spare,
retirement, the tile that replaces a partition's lost one, and the counting of fault events that makes a
fault lasting. -/

namespace Sys2Proof.Machine

-- Undoing work (01 R39 step 1).

/-- An instruction that its tile has not finished goes back to its start; its checksum runs are counted
afresh (14 R469). -/
def InsRec.abandon (r : InsRec) : InsRec :=
  { r with
    phase := .abandoned, re := [], im := [], sats := 0, satRows := [], satCols := [], clamps := 0,
    magRow := [], magCol := [], sums := [], runs := 0, rerun := false, ck := CkRun.none, accRe := [],
    accIm := [], outstanding := 0, stores := [], delta := StatDelta.zero }

/-- The instruction is in the tile: what it computed there is lost with it. A header store on its way has left the
tile. -/
def InsRec.inTile (r : InsRec) : Bool :=
  match r.phase with
  | .waitPrologue | .drained | .waitSplit | .waitChain | .sending | .queued | .held => true
  | _ => false

/-- The engine's list goes back to its start, and memory is as before it; stores that no other unit has seen are
dropped. -/
def State.abandonList (s : State) (die n : Nat) : State :=
  let e := s.vde die n
  match e.run, s.vdeKernel e with
  | some _, some k =>
    (e.undo.foldl (fun t h => t.applyStore k.issuer h) s).setVde die n { e with
      pc := 0, slot := 0, pend := [], loops := List.replicate 3 LoopLevel.reset,
      done := zeroBank, work := zeroBank, doneF := false, workF := false, freeze := .none,
      haltReq := false, halted := false, stepping := false, cause := 0, sat := 0, nan := 0, stores := [], undo := [] }
  | _, _ => s

/-- Step 1 of R39: the unit's current instruction or op list is abandoned and none of its output is
written. An accelerator command is abandoned unless its output is already written. -/
def State.fence (s : State) (u : UnitId) : State :=
  match u.cls with
  | .tile =>
    { s with kernels := s.kernels.map (fun k => { k with
        ins := k.ins.map (fun r =>
          if decide (r.die = u.die) && decide (r.tile = u.num) && r.inTile then r.abandon else r) }) }
  | .vde => s.abandonList u.die u.num
  | _ => s

-- Retirement (01 R43).

/-- Instructions and kernels of a tile now lie on another. -/
def Kernel.moveTile (k : Kernel) (die lost new : Nat) : Kernel :=
  { k with
    tiles := k.tiles.map (fun t => if t = (die, lost) then (die, new) else t)
    ins := k.ins.map (fun r => if r.die = die ∧ r.tile = lost then { r with tile := new } else r) }

/-- The stores of a tile are loaded into another from the copies its program holds (01 R39 step 4). -/
def State.copyTile (s : State) (die lost new : Nat) : State :=
  if s.power.lostAt.isSome then
    (s.writeMem .weight (weightKey die new 0) (s.readMem .weight (weightKey die lost 0) weightBytes)).writeMem .act
      (stageKey die new 0) (s.readMem .act (stageKey die lost 0) stageBytes)
  else { s with
    tileW := SMap.copyIn byteZero s.tileW (weightKey die new 0) s.tileW (weightKey die lost 0) weightBytes
    tileA := SMap.copyIn byteZero s.tileA (stageKey die new 0) s.tileA (stageKey die lost 0) stageBytes }

/-- Every kernel that occupies the unit ends without its remaining output. -/
def State.endKernelsOn (s : State) (u : UnitId) (r : Result) : State :=
  (s.kernels.filter (fun k => decide (k.unit = some (u.die, u.cls.code, u.num))
    || (decide (u.cls = .tile) && decide ((u.die, u.num) ∈ k.tiles)))).foldl
    (fun t k => t.endKernel k r) s

/-- TILE_LOST of a tile (09 R336). -/
def tileLostResult (die tile : Nat) : Result := { status := .tileLost, d4 := lo32 (die * 2 ^ 16 + tile) }

/-- A partition loses a tile: the lowest free logical tile of the die takes its place and the abandoned work
is issued again there; with none, a partition that runs starts no further kernel, one that resets will be STOPPED (08
R296), and the kernel that occupied the tile completes with TILE_LOST (01 R43). -/
def State.partLosesTile (s : State) (p die lost t0 : Nat) : State :=
  let u : UnitId := ⟨die, .tile, lost⟩
  match s.replacementTile die with
  | some new =>
    let t := (s.moveTile p die lost new).copyTile die lost new
    let x := t.part p
    let v := t.setPart p { x with ctxs := x.ctxs.map (fun e =>
      (e.1, { e.2 with used := e.2.used.map (fun q => if q = (die, lost) then (die, new) else q) })) }
    { v with
      kernels := v.kernels.map (fun k => k.moveTile die lost new)
      units := { v.units with substs := v.units.substs ++ [⟨⟨die, .tile, new⟩, t0, none, true, v.physOf ⟨die, .tile, new⟩⟩] } }
  | none =>
    let a := aPARTp p + (if die = 0 then 0x40 else 0x60)
    let t := s.setVecBit a lost false
    let st := (s.part p).state
    let v := if st = .running ∨ st = .resetting then
        { t with units := { t.units with tilesLost := t.units.tilesLost ++ [(p, die, lost)] } }
      else t
    v.endKernelsOn u (tileLostResult die lost)

/-- The unit is retired, with what follows for radio capacity, for a partition, and for a kernel on it (01
R43). -/
def State.retireUnit (s : State) (u : UnitId) (t0 : Nat) : State :=
  let owner := s.unitOwner u
  let t := s.retire u
  if s.inRadio u then
    (t.endKernelsOn u (if u.cls = .tile then tileLostResult u.die u.num else Result.of .engineReserved)).capacityLost
      u.die
  else
    match owner, u.cls with
    | some p, .tile => t.partLosesTile p u.die u.num t0
    | _, _ => t.endKernelsOn u (Result.of .engineReserved)

-- Substitution (01 R39, R41, R42).

/-- A substitution of the die is between its steps 2 and 5. -/
def State.substActive (s : State) (d : Nat) : Bool :=
  s.units.substs.any (fun x => decide (x.unit.die = d) && (x.spare.isSome || x.moved))

/-- The substitution of a unit begins: a spare takes its logical number, or, with no spare left in scope, the
unit is retired. -/
def State.beginSubst (s : State) (x : Subst) : State :=
  match s.pickSpare x.unit with
  | some p =>
    let old := s.physOf x.unit
    let t := s.mapSpare x.unit p
    { t with units := { t.units with
        substs := t.units.substs.map (fun y => if y.unit = x.unit then { y with spare := some p, old := old } else y) } }
  | none =>
    let t : State := { s with units := { s.units with
      substs := s.units.substs.filter (fun y => decide (y.unit ≠ x.unit)) } }
    t.retireUnit x.unit x.t0

/-- One declaration comes before another: earlier, or at the same instant with the lower logical number (01
R42). -/
def Subst.before (x y : Subst) : Bool :=
  decide (x.t0 < y.t0) || (decide (x.t0 = y.t0) && decide (x.unit.num < y.unit.num))

/-- The first of the waiting substitutions of a die (01 R42). -/
def State.firstSubst (s : State) (d : Nat) : Option Subst :=
  (s.units.substs.filter (fun x => decide (x.unit.die = d) && x.spare.isNone && !x.moved)).foldl
    (fun m x => match m with
      | none => some x
      | some y => if x.before y then some x else some y) none

/-- The next waiting substitution of a die begins, in the order of the declarations, unless one is under way:
at most `k` times over retirements (01 R42). -/
def State.nextSubst (d : Nat) : Nat → State → State
  | 0, s => s
  | k + 1, s =>
    if s.substActive d then s
    else
      match s.firstSubst d with
      | none => s
      | some x => State.nextSubst d k (s.beginSubst x)

/-- A substitution of the die that was declared at this instant for a higher logical number steps back behind
one for `u` (01 R42). -/
def State.yieldSubst (s : State) (u : UnitId) : State :=
  match s.units.substs.find? (fun x => decide (x.unit.die = u.die) && x.spare.isSome && decide (x.t0 = s.now)
      && decide (u.num < x.unit.num)) with
  | none => s
  | some x =>
    let t := s.unmapSpare x.unit x.old
    { t with units := { t.units with
        substs := t.units.substs.map (fun y => if y.unit = x.unit then { y with spare := none } else y) } }

/-- The unit is fenced and its substitution waits or begins (01 R39, R42). -/
def State.substitute (s : State) (u : UnitId) : State :=
  let t := (s.fence u).yieldSubst u
  let v := if s.inRadio u then t.markFault u.die u.island else t
  let w : State := { v with units := { v.units with
    substs := v.units.substs ++ [⟨u, s.now, none, false, s.physOf u⟩] } }
  State.nextSubst u.die w.units.substs.length w

/-- A unit is declared faulty, by a lasting fault, a stall or a failed start-up test: every declaration is
recorded (14 R466, R467). A unit already under substitution, or retired, is not declared again. -/
def State.declareUnit (s : State) (u : UnitId) : State :=
  if s.underSubst u || s.isRetired u then s
  else ((s.noteDeclared (siteUnit u) (lo32 u.island) (s.unitTemp u)).markTests (.unit u)
    (fun q => { q with declared := true })).substitute u

-- Fault events (14 R462 to R465).

/-- A fault event of a unit that is already recorded: counted unless the unit is under substitution, and
acted on when it makes the fault lasting. -/
def State.countUnit (s : State) (u : UnitId) (kind : Nat) : State :=
  if s.underSubst u || s.isRetired u then s
  else
    let e := s.unitEvt u kind
    let t := s.addFault e
    if s.lastingWith e then t.declareUnit u else t

/-- A fault event of a unit with its record. -/
def State.unitFault (s : State) (u : UnitId) (code : Nat) : State :=
  (s.record code (siteUnit u) (lo32 u.island) (s.unitTemp u)).countUnit u code

/-- A corrected error in a row of a tile store or ledge buffer; a row with a lasting fault stays in service until the
next start-up self-test repairs it (14 R462, R464, R467). -/
def State.sramCorrected (s : State) (die tile : Nat) (q : SramErr) : State :=
  let u : UnitId := ⟨die, .tile, tile⟩
  let ledge := decide (q.place = 3)
  let p := s.physOf u
  let k := s.sramRowOf die tile q.place q.row
  let temp := if ledge then s.dieTemp die else (s.physIsland p).temp
  let site := siteSram die q.place (if ledge then 0 else tile)
  let e : FaultEvt := ⟨.sramRow k.die k.place k.tile k.row, 0x0201,
    if ledge then 0 else (s.physBins p).1, tBin temp, s.now⟩
  let t := s.record 0x0201 site (lo32 q.row) (degC temp)
  let v := t.addFault e
  if s.lastingWith e then
    let w := v.noteDeclared site (lo32 q.row) (degC temp)
    { w with units := { w.units with
        sramFaulty := if k ∈ w.units.sramFaulty then w.units.sramFaulty else w.units.sramFaulty ++ [k] } }
  else v

/-- Wires of a die-to-die link per direction, one for each bit of a handshake (01 R25). -/
def linkWires (link : Nat) : Nat := if link = 0 then 16384 else 8192

/-- The hottest junction sensor of the two dies that a die-to-die link joins: M0–M1, M0–Basecamp, M1–Basecamp (01 R25,
14 R464). -/
def State.linkTemp (s : State) (link : Nat) : Int :=
  match link with
  | 0 => max (s.dieTemp 0) (s.dieTemp 1)
  | 1 => max (s.dieTemp 0) s.power.basecampTemp
  | _ => max (s.dieTemp 1) s.power.basecampTemp

/-- A CRC failure of a die-to-die link traced to a wire: a fault event in voltage bin 0 and the bin of the hottest
junction sensor of the dies that the wire joins; a lasting one gives the wire's place to a spare (01 R38, 14
R462, R464, R467). -/
def State.wireCrc (s : State) (row : Nat) : State :=
  let link := row / 32768 % 3
  let dir := row / 16384 % 2
  let wire := row % 16384 % linkWires link
  let hot : Int := s.linkTemp link
  let e : FaultEvt := ⟨.wire link dir wire, 0, 0, tBin hot, s.now⟩
  if decide ((link, dir, wire) ∈ s.units.wires) then s
  else if s.lastingWith e then (s.addFault e).replaceWire link dir wire else s.addFault e

-- What a fetch meets (14 R462 to R467).

/-- What the errors of a fetch leave behind, other than the failure of its consumer. A block of stack memory found
uncorrectable is so from now on, and fails the fetch as such (10 R350). -/
def State.fetchErrors (s : State) (die tile : Nat) (sram : List SramErr) : State :=
  sram.foldl (fun t q =>
    if q.place = 4 then t.wireCrc q.row
    else if q.place = 0 then
      (if q.corrected then t.stackCorrected q.row
       else if q.row ∈ t.ue then t else { t with ue := t.ue ++ [q.row] })
    else if q.corrected then t.sramCorrected die tile q
    else t) s

/-- A tile's read fails on what it cannot deliver: an uncorrectable error in a tile store is also counted against the
tile (14 R462). -/
def State.tileMedia (s : State) (m : Media) : State :=
  match m with
  | .sram die place tile _ => if place = 3 then s.failMedia m else (s.failMedia m).countUnit ⟨die, .tile, tile⟩ 0x0202
  | _ => s.failMedia m

/-- An error of a fetch as what it could not deliver. -/
def SramErr.media (q : SramErr) (die tile : Nat) : Media := .sram die q.place tile q.row

/-- A checksum mismatch counts as a fault event: exact accumulation, or a tolerance within the fault-free bound
(14 R463). -/
def ckCounts (w : List W32) (exact : Bool) : Bool :=
  let t := wfield w 2 21 17
  (exact && decide (t = 0)) || (!exact && decide (t + clog2 (wfield w 2 16 0 + 64) ≤ 21))

/-- A checksum mismatch of a tile is reported: counted, or recorded with a code of its own (03 R120, 14
R463). -/
def State.checksumEvent (s : State) (u : UnitId) (w : List W32) : State :=
  if ckCounts w (miExact w) then s.unitFault u 0x0103
  else s.record 0x0104 (siteUnit u) (lo32 u.island) (s.unitTemp u)

-- Stalls (01 R28).

/-- STALL: a request of the unit has stayed unacknowledged for 1 µs: the unit is declared faulty at once, without
counting; `unserved` are the slots that the die's radio work can no longer serve (01 R28, 14 R466,
07 R261). -/
def stall (u : UnitId) (unserved : List (Nat × Nat × Bool)) (s : State) : State :=
  if s.awake && u.exists' && !(s.isRetired u) then
    let t := s.record 0x0101 (siteUnit u) (lo32 u.island) (s.unitTemp u)
    let radio := s.inRadio u
    let v := t.declareUnit u
    if radio then v.noticeUnserved u.die unserved else v
  else s

def execStall (u : UnitId) (unserved : List (Nat × Nat × Bool)) (s : State) : Done := .next (stall u unserved s)

end Sys2Proof.Machine
end

