-- ==== Sys2Proof/Machine/Ports.lean ====
section
/-! DEFINITION. The Ethernet ports (12 R400 to R420): links, gates, egress, the allow list, partition frame
queues. What arrives is in Ingress.lean, time in Time.lean. -/

namespace Sys2Proof.Machine

open Host (Outcome)

-- The signed comparison of local time with a target (12 R427).

/-- d of R427 in ns: the clock minus a target of 32-bit seconds and nanoseconds. -/
def timeDiff (clk sec ns : Nat) : Int :=
  signedOf 32 (clk / 1_000_000_000 % 2 ^ 32 + 2 ^ 32 - sec % 2 ^ 32) * 1_000_000_000
    + ((clk % 1_000_000_000 : Nat) - (ns : Int))

-- Gates (12 R414, R415).

/-- The segments of a cycle: entries of interval 0 are skipped, the rest are cut at the end of the cycle, and
the last one's states hold until it ends. -/
def gateSegs : List (Nat × Nat) → Nat → Nat → List (Nat × Nat)
  | [], last, left => if left = 0 then [] else [(last, left)]
  | e :: t, last, left =>
    if e.2 = 0 then gateSegs t last left
    else if left ≤ e.2 then (if left = 0 then [] else [(e.1, left)])
    else e :: gateSegs t e.1 (left - e.2)

/-- The segments from a phase of the cycle on. -/
def dropPhase : List (Nat × Nat) → Nat → List (Nat × Nat)
  | [], _ => []
  | e :: t, ph => if ph < e.2 then (e.1, e.2 - ph) :: t else dropPhase t (ph - e.2)

/-- How long a queue's gate stays open along segments, and whether it closes on them. -/
def openRun (q : Nat) : List (Nat × Nat) → Nat → Nat × Bool
  | [], acc => (acc, false)
  | e :: t, acc => if e.1.testBit q then openRun q t (acc + e.2) else (acc, true)

/-- Segments of the list from an instant of the clock on, over one whole cycle. -/
def GateList.ahead (g : GateList) (clk : Nat) : List (Nat × Nat) :=
  let segs := gateSegs g.entries ((g.entries.getLast?.map Prod.fst).getD 0xFF) g.cycle
  let ph := (timeDiff clk g.baseSec g.baseNs % (g.cycle : Int)).toNat
  dropPhase (segs ++ segs) ph

/-- The gate states at an instant of the clock. -/
def GateList.states (g : GateList) (clk : Nat) : Nat := ((g.ahead clk).head?.map Prod.fst).getD 0xFF

/-- A queue's gate stays open for `ns` from an instant on. -/
def GateList.openFor (g : GateList) (clk q ns : Nat) : Bool :=
  let r := openRun q (g.ahead clk) 0
  !r.2 || decide (ns ≤ r.1)

/-- The gate states in force on a sub-port follow its operative list. -/
def State.gateNow (s : State) (n sub : Nat) : State :=
  let x := s.sub n sub
  match x.oper with
  | some g => s.setSub n sub { x with gates := g.states s.clk }
  | none => s

/-- A sub-port of the port exists in its mode (12 R401). -/
def State.hasSub (s : State) (n sub : Nat) : Bool := decide (n < 8) && decide (sub < s.subPorts n)

/-- GCL_CTRL of a sub-port: pending and the list's enable. -/
def State.gclPending (s : State) (n sub : Nat) : Bool := s.rbit (aGCL n sub) 31
def State.gclOn (s : State) (n sub : Nat) : Bool := s.rbit (aGCL n sub) 0

/-- A queue's gate lets a frame of `ns` start: queues 5 to 7 only with fh_gated, and only while a list runs
(12 R414). -/
def State.gateOpen (s : State) (n sub q ns : Nat) : Bool :=
  let x := s.sub n sub
  if s.gclOn n sub && (decide (q ≤ 4) || s.rbit (aPORTn n) 3) then
    match x.oper with
    | some g => x.gates.testBit q && g.openFor s.clk q ns
    | none => true
  else true

/-- GCL_CHANGE: a write of GCL_CTRL with change = 1. While a list is pending only enable takes the write; a
length or cycle out of range leaves the administrative list untaken (12 R414, R415). -/
def gclChange (n sub : Nat) (value : W32) (s : State) : State :=
  if s.up && decide (n < 8) && decide (sub < 4) && bitOf value 1 then
    let a := aGCL n sub
    if s.gclPending n sub then s.setRbit a 0 (bitOf value 0)
    else
      let t := s.applyWrite a value
      let len := t.rf a 23 16
      let cyc := (t.reg (a + 4)).toNat
      if 1 ≤ len ∧ len ≤ 64 ∧ 1_000 ≤ cyc ∧ cyc ≤ 1_000_000_000 then
        let d := timeDiff t.clk (t.reg (a + 0xC)).toNat (t.rf (a + 8) 29 0)
        let at' := if d ≤ 0 then 0 else (d.toNat + cyc - 1) / cyc * cyc
        (t.setRbit a 31 true).setSub n sub { t.sub n sub with pend := some at' }
      else t
  else s

/-- GCL_TAKE_EFFECT: the first cycle start that is not in the past has come: the administrative list becomes
operative (12 R414). -/
def gclTakeEffect (n sub : Nat) (s : State) : State :=
  let a := aGCL n sub
  let x := s.sub n sub
  match x.pend with
  | some at' =>
    let sec := (s.reg (a + 0xC)).toNat
    let ns := s.rf (a + 8) 29 0
    if s.up && s.gclPending n sub && decide ((at' : Int) ≤ timeDiff s.clk sec ns) then
      let es := (List.range (s.rf a 23 16)).map (fun i =>
        (s.rf (aGCLE n sub i) 31 24, s.rf (aGCLE n sub i) 23 0))
      let g : GateList := ⟨es, (s.reg (a + 4)).toNat, sec, ns⟩
      (s.setRbit a 31 false).setSub n sub { x with oper := some g, pend := none, gates := g.states s.clk }
    else s
  | none => s

/-- GATE_INTERVAL_END: the states of the entry that the clock has reached apply (12 R414). -/
def gateIntervalEnd (n sub : Nat) (s : State) : State :=
  if s.up && s.gclOn n sub then s.gateNow n sub else s

-- Links (12 R402, R431).

/-- A frame is discarded with its link: a cell's channels are undelivered, a partition's entry is passed
over (12 R431, 07 R262). -/
def State.dropQueued (s : State) (f : Frame) : State :=
  match f.what with
  | .part p idx => s.txDone p idx none
  | _ => s.loseFrame f true

/-- A sub-port changes link state: changed is set and device source 32 + n fires; one that goes down discards
its queued frames, and one that comes up has the slots noticed that found it down (12 R402, R431, 07
R262). -/
def State.linkChange (s : State) (n sub : Nat) (up : Bool) : State :=
  if s.linkUp n sub = up then s
  else
    let t := (((s.setRbit (aPORTn n + 4) sub up).setRbit (aPORTn n + 4) (4 + sub) true)).edge (32 + n)
    let x := t.sub n sub
    if up then t.noticePassed (fun g => decide (g.port = n) && decide (g.sub = sub)) x.downAt 2
    else x.frames.foldl State.dropQueued (t.setSub n sub { x with frames := [], downAt := t.clk })

/-- PORT_LINK_CHANGE: a link of an enabled port trains or is lost. -/
def portLinkChange (n sub : Nat) (up : Bool) (s : State) : State :=
  if s.up && s.hasSub n sub && (s.rbit (aPORTn n) 0 || !up) then s.linkChange n sub up else s

/-- A cell that is not IDLE is bound to the port. -/
def State.portBound (s : State) (n : Nat) : Bool :=
  s.radio.cells.any (fun e => decide (e.2.state ≠ .idle) &&
    (match e.2.cfg with
     | some g => decide (g.port = n)
     | none => false))

/-- PORT_ENABLE: a write of PORT_CTRL. mode keeps its value while enable is 1 and takes no reserved code;
enable = 0 is ignored while a bound cell is not IDLE, and otherwise takes the links down (12 R402). -/
def portEnable (n : Nat) (value : W32) (s : State) : State :=
  if s.up && decide (n < 8) then
    let a := aPORTn n
    let was := s.rbit a 0
    let keep := was && !(bitOf value 0) && s.portBound n
    let mode := if was || decide (field value 2 1 = 3) then s.rf a 2 1 else field value 2 1
    let t := ((s.applyWrite a value).setRf a 2 1 mode).setRbit a 0 (bitOf value 0 || keep)
    if was && !(t.rbit a 0) then (List.range 4).foldl (fun t i => t.linkChange n i false) t else t
  else s

-- Egress (12 R411 to R417).

/-- Tokens of a bucket after `dt` ns at a rate in Mb/s, with a burst in bytes, in thousandths of a bit. -/
def bucketFill (rate burst dt : Nat) (t : Int) : Int :=
  let top : Int := (8000 * burst : Nat)
  let u := t + (rate * dt : Nat)
  if top < u then top else u

/-- A frame of `l` bytes may start: tokens ≥ min(L, burst) (12 R412). -/
def bucketHas (burst l : Nat) (t : Int) : Bool := decide (((8000 * min l burst : Nat) : Int) ≤ t)

/-- Burst of the ceiling's bucket in bytes (12 R416). -/
def ceilBurst : Nat := 16384

/-- Every bucket of a sub-port filled to the present. -/
def State.fillSub (s : State) (n sub : Nat) : State :=
  let x := s.sub n sub
  let dt := s.now - x.tokAt
  let tok := (List.range 5).map (fun q =>
    bucketFill (s.rf (aQRATE n sub q) 18 0) (s.rf (aQRATE n sub q + 4) 23 0) dt (x.tok.getD q 0))
  s.setSub n sub { x with
    tok := tok, ceilTok := bucketFill (10 * s.ceilingShare n) ceilBurst dt x.ceilTok, tokAt := s.now }

/-- The counted length of a frame (12 R412). -/
def State.counted (s : State) (n len : Nat) : Nat := len + s.rf (aPORTn n) 15 8

/-- ns that a frame occupies a sub-port, rounded up (12 R406 example). -/
def State.frameNs (s : State) (n len : Nat) : Nat := (800 * s.counted n len + s.subRate n - 1) / s.subRate n

/-- Queue q's bucket, if it applies, has the tokens of a frame (12 R412, R413). -/
def State.shapedOk (s : State) (n sub q len : Nat) : Bool :=
  let a := aQRATE n sub q
  decide (4 < q) || !(s.rbit a 31) || bucketHas (s.rf (a + 4) 23 0) (s.counted n len) ((s.sub n sub).tok.getD q 0)

/-- The partition whose frame it is has the share to send it: the state with the share charged (12 R419). -/
def State.chargePart (s : State) (n : Nat) (f : Frame) : Option State :=
  match f.what with
  | .part p _ => s.takeShare p .eth true (s.counted n f.len) (s.counted n f.len)
  | _ => some s

/-- A downlink frame of a slot whose C-plane time lies in holdover exceeded is not sent (12 R425). -/
def State.withheld (s : State) (f : Frame) : Bool :=
  let v := s.ports.servo
  match f.what with
  | .cplane c n _ false | .uplane c n _ _ =>
    match (s.cell c).cfg with
    | some g => v.lost && decide (v.lostAt ≤ g.cplaneTime n)
    | none => false
  | _ => false

/-- The frame may start now: within its launch window, its gate open until it ends, its queue's bucket, its
partition's share and the ceiling permitting (12 R409, R411 to R416). -/
def State.mayLeave (s : State) (n sub : Nat) (f : Frame) : Bool :=
  decide (f.after ≤ s.clk) && (match f.by' with
    | some t => decide (s.clk ≤ t)
    | none => true)
  && !(s.withheld f)
  && s.gateOpen n sub f.queue (s.frameNs n f.len) && s.shapedOk n sub f.queue f.len
  && bucketHas ceilBurst (f.len + 20) (s.sub n sub).ceilTok && (s.chargePart n f).isSome

/-- A partition's frames leave in ring order: one that has an earlier one before it waits. -/
def Frame.behind (f : Frame) (before : List Frame) : Bool :=
  match f.what with
  | .part p _ => before.any (fun g => g.ofPart p)
  | _ => false

/-- The first frame of queue q that may start, with those before and after it. -/
def State.pick (s : State) (n sub q : Nat) : List Frame → List Frame → Option (List Frame × Frame × List Frame)
  | _, [] => none
  | before, f :: t =>
    if decide (f.queue = q) && !(f.behind before) && s.mayLeave n sub f then some (before, f, t)
    else State.pick s n sub q (before ++ [f]) t

/-- The frame that strict priority sends next: queue 7 first (12 R411). -/
def State.nextFrame (s : State) (n sub : Nat) : Option (List Frame × Frame × List Frame) :=
  ([7, 6, 5, 4, 3, 2, 1, 0] : List Nat).findSome? (fun q => s.pick n sub q [] (s.sub n sub).frames)

/-- The allow list refuses the frame: it is counted and recorded, a partition's entry gets status 1, and a
cell's channels are undelivered (12 R417, R419). -/
def State.refuseFrame (s : State) (n sub : Nat) (f : Frame) : State :=
  let t := (s.bumpRf (aPORTn n + 0x94) 31 0 1).record 0x0403 (sitePort n sub) 0 f.len
  match f.what with
  | .part p idx => t.txDone p idx (some 1)
  | _ => t.loseFrame f false

/-- The local time as a PTP message carries it: 48 bits of seconds and the nanoseconds. -/
def ptpTime (ns : Nat) : List Byte := beBytes 6 (ns / 1_000_000_000) ++ beBytes 4 (ns % 1_000_000_000)

/-- A frame as it leaves: a one-step Sync has its egress timestamp inserted (12 R422, R423). -/
def State.stamped (s : State) (n : Nat) (f : Frame) : Frame :=
  match f.what with
  | .ptp .sync => { f with data := f.data.take 36 ++ ptpTime (psToNs (s.egressPs n)) ++ f.data.drop 46 }
  | _ => f

/-- What the start of a frame sets off: a Delay_Req has its egress time kept, and the first U-plane frame of a slot is an
event of the capture units (12 R423, R428). -/
def State.frameLeft (s : State) (n : Nat) (f : Frame) : State :=
  match f.what with
  | .ptp .delayReq =>
    { s with ports := { s.ports with servo := { s.ports.servo with delayTx := some (s.egressPs n) } } }
  | .uplane c m _ _ => s.capture 3 c m (psToNs (s.egressPs n))
  | _ => s

/-- A frame starts: buckets are charged, and a partition's entry completes (12 R410 to R412, R419). -/
def State.startFrame (s : State) (n sub : Nat) (f : Frame) : State :=
  let u := (s.chargePart n f).getD s
  let x := u.sub n sub
  let l := u.counted n f.len
  let tok := if f.queue ≤ 4 ∧ u.rbit (aQRATE n sub f.queue) 31 then
      x.tok.set f.queue (x.tok.getD f.queue 0 - (8000 * l : Nat)) else x.tok
  let v := (u.setSub n sub { x with
      tok := tok, ceilTok := x.ceilTok - (8000 * (f.len + 20) : Nat), busy := u.now + u.frameNs n f.len }).bumpRf
    (aPORTn n + 0x90) 31 0 1
  let w := ({ v with outs := .frame n sub (v.stamped n f) :: v.outs }).frameLeft n f
  match f.what with
  | .part p idx =>
    (w.account (some (p, (w.part p).resident)) (fun a => { a with ethBytes := a.ethBytes + f.len })).txDone p idx (some 0)
  | _ => w

/-- FRAME_TRANSMIT: the sub-port is free and a queued frame starts; the allow list is consulted as it does
(12 R411, R417, R418). -/
def frameTransmit (n sub : Nat) (s : State) : State :=
  if s.portsLive && s.hasSub n sub && s.linkUp n sub && decide ((s.sub n sub).busy ≤ s.now) then
    let t := s.fillSub n sub
    match t.nextFrame n sub with
    | some (before, f, rest) =>
      let u := t.setSub n sub { t.sub n sub with frames := before ++ rest }
      if u.allows n f.dst f.vlan then u.startFrame n sub f else u.refuseFrame n sub f
    | none => t
  else s

/-- ALLOW_LOCK: a write of lock to SEC_ALLOW_LOCK (12 R418). -/
def allowLock (s : State) : State := if s.up then s.setRbit (aSEC + 0x10) 0 true else s

-- PTP messages sent (12 R422).

/-- The multicast address of PTP that a port uses. -/
def State.ptpAddr (s : State) (n : Nat) : Nat := if s.rbit (aPORTn n + 0x18) 8 then 0x011B_1900_0000 else 0x0180_C200_000E

/-- A sub-port takes part in PTP, with the servo running. -/
def State.ptpOn (s : State) (n sub : Nat) : Bool := s.rbit (aTIME + 0x2C) 0 && s.rbit (aPORTn n + 0x18) sub

/-- Interval and last instant of a PTP message. -/
def PtpKind.every : PtpKind → Nat
  | .sync | .delayReq => 62_500_000
  | .announce => 125_000_000
def SubPort.sentAt (x : SubPort) : PtpKind → Nat
  | .sync => x.syncAt | .delayReq => x.delayAt | .announce => x.announceAt
def SubPort.setSentAt (x : SubPort) (k : PtpKind) (t : Nat) : SubPort :=
  match k with
  | .sync => { x with syncAt := t }
  | .delayReq => { x with delayAt := t }
  | .announce => { x with announceAt := t }
/-- The type and the body of a PTP message: the time of a Sync comes as it leaves (log entry 90). -/
def PtpKind.type' : PtpKind → Nat
  | .sync => 0 | .delayReq => 1 | .announce => 11
def PtpKind.body : PtpKind → List Byte
  | .sync | .delayReq => List.replicate 10 0
  | .announce => (List.range 30).map (Config.ptpByte [11])

/-- A PTP message with its EtherType: type, version, length and domain of the header, then the body (12 R422, log entry
90). -/
def State.ptpBytes (s : State) (n sub type' : Nat) (body : List Byte) : List Byte :=
  [0x88, 0xF7, byte8 type', 0x12] ++ beBytes 2 (34 + body.length) ++ byte8 (s.rf (aTIME + 0x2C) 15 8)
    :: (List.range 29).map (Config.ptpByte [type', n, sub]) ++ body

/-- Queue a PTP message, untagged (12 R411, R422). -/
def State.queuePtp (s : State) (n sub : Nat) (what : FrameWhat) (type' : Nat) (body : List Byte) : State :=
  let data := s.ptpBytes n sub type' body
  s.queueFrame n sub
    { what := what, dst := s.ptpAddr n, src := s.subMac n sub, vlan := none, queue := 7,
      len := max 64 (data.length + 16), data := data, seq := 0, after := 0, by' := none }

/-- PTP_TRANSMIT: a message is due: Delay_Req on the slave port, Sync and Announce on the others (12
R422). -/
def ptpTransmit (n sub : Nat) (k : PtpKind) (s : State) : State :=
  let x := s.sub n sub
  let slave := decide (s.ports.servo.slave = some (n, sub))
  if s.portsLive && s.hasSub n sub && s.ptpOn n sub && s.linkUp n sub && decide (slave = decide (k = .delayReq))
      && decide (x.sentAt k + k.every ≤ s.now) then
    (s.setSub n sub (x.setSentAt k s.now)).queuePtp n sub (.ptp k) k.type' k.body
  else s

-- Partition frame queues (12 R419, R420).

/-- Partition p's queue is bound, and where. -/
def State.pqOn (s : State) (p : Nat) : Bool := s.rbit (aPQ p) 31
def State.pqPort (s : State) (p : Nat) : Nat × Nat := (s.rf (aPQ p) 29 27, s.rf (aPQ p) 26 25)
def State.pqVlan (s : State) (p : Nat) : Nat := s.rf (aPQ p) 11 0

/-- A ring size is a power of two from 16 to 32,768. -/
def ringSizeOk (n : Nat) : Bool := (List.range 12).any (fun k => decide (n = 16 * 2 ^ k))

/-- The queue that the registers name may be bound (12 R420). -/
def State.pqOk (s : State) (p : Nat) : Bool :=
  let rx := s.rxRing p
  let tx := s.txRing p
  s.enabled p && decide (s.rf (aPQ p) 24 22 ≤ 4) && ringSizeOk rx.2 && ringSizeOk tx.2
  && decide (rx.1 + 64 + (16 + 9216) * rx.2 ≤ s.partBytes p) && decide (tx.1 + 64 + 16 * tx.2 ≤ s.partBytes p)
  && !((List.range 64).any (fun q => decide (q ≠ p) && s.pqOn q && decide (s.pqPort q = s.pqPort p)
      && decide (s.pqVlan q = s.pqVlan p)))

/-- PQ_ENABLE: a write of PQ_CTRL. It is ignored with cfg_error 9 while the partition is locked, and while enable
is 1; a write of enable = 1 that a check fails sets refused (12 R420, 13 R450). -/
def pqEnable (p : Nat) (value : W32) (s : State) : State :=
  if s.up && decide (p < 64) then
    if (s.part p).tsp ≠ 0 then s.setCfgError p 9
    else if s.pqOn p then s
    else
      let t := (s.applyWrite (aPQ p) value).setRbit (aPQ p) 31 false
      if bitOf value 31 then
        if t.pqOk p then (t.setRbit (aPQ p) 31 true).setRbit (aPQ p) 30 false else t.setRbit (aPQ p) 30 true
      else t
  else s

/-- Frames of partition p that wait. -/
def State.pqWaiting (s : State) (p : Nat) : Nat :=
  (((s.ports.subs.map (fun e => e.2.frames)).flatten).filter (fun f => f.ofPart p)).length

/-- The big-endian number of the bytes of a frame. -/
def beNat (bs : List Byte) : Nat := bs.foldl (fun a b => a * 256 + b.toNat) 0

/-- Read transmit entries from the consumer index on: each is queued in order; one that is malformed, or that cannot be
read, gets status 2 once those before it have left; nothing is read behind a header that cannot be read (12 R419, 10
R350). -/
def State.pollTx (p : Nat) : Nat → State → State
  | 0, s => s
  | k + 1, s =>
    let r := s.txRing p
    let prod := s.pqRead p r.1 2 % r.2
    let cons := s.pqRead p (r.1 + 4) 2 % r.2
    let w := s.pqWaiting p
    let idx := (cons + w) % r.2
    let i : Issuer := some (p, (s.part p).resident)
    let e := r.1 + 64 + 16 * idx
    if (s.issuerUeRead i r.1 8).isSome ∨ (prod + r.2 - cons) % r.2 ≤ w then s
    else
      let buf := s.pqRead p e 8
      let len := s.pqRead p (e + 8) 4 % 2 ^ 14
      let ue := (s.issuerUeRead i e 16).or (s.issuerUeRead i buf len)
      let bs := s.issuerRead i buf len
      let ty := beNat ((bs.drop 12).take 2)
      let bad := decide (len < 14) || decide (len + 8 < 64) || decide (9216 < len + 8) || decide (buf % 64 ≠ 0)
        || decide (s.partBytes p < buf + len) || decide (ty = 0xAEFE) || decide (ty = 0x88F7)
        || ue.isSome
      if bad then (if w = 0 then State.pollTx p k ((s.pqNote ue).txDone p idx (some 2)) else s)
      else
        let q := s.pqPort p
        let f : Frame :=
          { what := .part p idx, dst := beNat (bs.take 6), src := s.subMac q.1 q.2, vlan := some (s.pqVlan p),
            queue := s.rf (aPQ p) 24 22, len := len + 8, data := bs.drop 12, seq := 0,
            after := 0, by' := none }
        let x := s.sub q.1 q.2
        State.pollTx p k (s.setSub q.1 q.2 { x with frames := x.frames ++ [f] })

/-- PQ_TX_POLL: every 2 µs the producer index of a RUNNING partition's transmit ring is read (12 R419). -/
def pqTxPoll (p : Nat) (s : State) : State :=
  if s.portsLive && s.awake && decide (p < 64) && s.pqOn p && decide ((s.part p).state = .running) then
    let r := s.txRing p
    State.pollTx p r.2 (s.pqNote (s.issuerUeRead (some (p, (s.part p).resident)) r.1 8))
  else s

-- The meanings.

def execFrameTransmit (n sub : Nat) (s : State) : Done := .next (frameTransmit n sub s)
def execPtpTransmit (n sub : Nat) (k : PtpKind) (s : State) : Done := .next (ptpTransmit n sub k s)
def execPortEnable (n : Nat) (value : W32) (s : State) : Done := .next (portEnable n value s)
def execPortLinkChange (n sub : Nat) (up : Bool) (s : State) : Done := .next (portLinkChange n sub up s)
def execGclChange (n sub : Nat) (value : W32) (s : State) : Done := .next (gclChange n sub value s)
def execGclTakeEffect (n sub : Nat) (s : State) : Done := .next (gclTakeEffect n sub s)
def execGateIntervalEnd (n sub : Nat) (s : State) : Done := .next (gateIntervalEnd n sub s)
def execAllowLock (s : State) : Done := .next (allowLock s)
def execPqEnable (p : Nat) (value : W32) (s : State) : Done := .next (pqEnable p value s)
def execPqTxPoll (p : Nat) (s : State) : Done := .next (pqTxPoll p s)

end Sys2Proof.Machine
end

