-- ==== Sys2Proof/Machine/MatrixSteps.lean ====
section
/-! DEFINITION. The steps of a matrix instruction (03 R91 to R125, 04 R126 to R161): decode and issue, the
stream, the epilogue or chain stage, split reductions, waits, and the commit in program order. -/

namespace Sys2Proof.Machine

-- Records of a kernel's instructions.

def Kernel.insAt (k : Kernel) (idx : Nat) : Option InsRec := k.ins.find? (fun r => decide (r.idx = idx))

/-- Put the record of an instruction. -/
def Kernel.putIns (k : Kernel) (r : InsRec) : Kernel :=
  { k with ins := k.ins.filter (fun q => decide (q.idx ≠ r.idx)) ++ [r] }

def State.putIns (s : State) (kid : Nat) (r : InsRec) : State := s.updKernel kid (fun k => k.putIns r)

/-- Every instruction before `n` in program order has committed. -/
def Kernel.committedTo (k : Kernel) (n : Nat) : Bool :=
  decide ((k.ins.filter (fun r => decide (r.phase = .committed) && decide (r.idx < n))).length = n)

/-- Instructions of the kernel on a tile that are issued and not finished with their array bank. -/
def Kernel.openOn (k : Kernel) (die tile : Nat) : List InsRec :=
  k.ins.filter (fun r => decide (r.die = die) && decide (r.tile = tile)
    && decide (r.phase ∈ [InsPhase.waitPrologue, .drained, .waitSplit, .waitChain]))

/-- Instructions on a tile that have not committed. -/
def Kernel.pendingOn (k : Kernel) (die tile : Nat) : List InsRec :=
  k.ins.filter (fun r => decide (r.die = die) && decide (r.tile = tile) && decide (r.phase ≠ .committed))

/-- A fresh record. -/
def InsRec.fresh (idx die tile : Nat) (words : List W32) (now : Nat) : InsRec :=
  { idx := idx, die := die, tile := tile, words := words, chain := [], phase := .waitPrologue, kind := .f32,
    re := [], im := [], sats := 0, satRows := [], satCols := [], clamps := 0, magRow := [], magCol := [], driftRow := [], driftCol := [],
    masked := [], rows := [], expert := 0, sums := [], runs := 0, rerun := false, ck := CkRun.none, accRe := [],
    accIm := [], since := now, outstanding := 0, counted := false, loc := idx, stores := [], delta := StatDelta.zero, fail := none }

/-- A failed instruction ends its job once every instruction before it has committed (02 R79). -/
def State.settle (s : State) (kid : Nat) : State :=
  match s.kernel kid with
  | none => s
  | some k =>
    match k.ins.find? (fun r => decide (r.phase = .failed) && k.committedTo r.idx) with
    | some r => s.failKernel k r.loc (r.fail.getD (Result.of .badDescriptor))
    | none => s

/-- The instruction fails: it stores nothing, and nor does any after it (02 R79, 04 R161). -/
def State.failIns (s : State) (kid : Nat) (r : InsRec) (f : Result) : State :=
  (s.putIns kid { r with phase := .failed, stores := [], fail := some f }).settle kid

/-- It fails on a read that cannot be delivered (10 R350). -/
def State.failInsUe (s : State) (k : Kernel) (r : InsRec) (m : Media) : State :=
  (s.tileMedia m).failIns k.id r (s.mediaOf k.part m)

/-- A pending failure that may come from such a read. -/
def State.failInsOr (s : State) (k : Kernel) (r : InsRec) (e : Result × Option Media) : State :=
  (match e.2 with
   | some m => s.tileMedia m
   | none => s).failIns k.id r e.1

/-- Handshakes of the tile of an instruction go to its issuer's accounting and to its island's meter (03 R125, 08
R302). -/
def State.tileWork (s : State) (k : Kernel) (r : InsRec) (n : Nat) : State :=
  (s.account k.issuer (fun a => { a with tileHs := a.tileHs + n })).meterHs k.issuer ⟨r.die, .tile, r.tile⟩ n

-- Decode (03 R98, R103, 04 R126, R160).

def miChained (w : Mi) : Bool := decide (miChain w ≠ 0)

/-- The stage stores an output block (04 R137, R144, R147, R156). -/
def miStores (w : Mi) (b : List W32) : Bool :=
  !(miChained w) ||
    !((decide (miEntry w = 6) && decide (miStage w = 0)) || (decide (miEntry w = 7) && decide (miStage w ≠ 2))
      || (decide (miEntry w = 11) && cbFlag b) || decide (miEntry w = 12))

/-- Columns of the stored block: TV-08 stage 0 stores all 64 scores (04 R150). -/
def miOutCols (w : Mi) : Nat :=
  if miChained w && decide (miEntry w = 8) && decide (miStage w = 0) then 64 else miN w

/-- Regions other than the operands: location field's word, code, offset, bytes. -/
def miSideRegions (w : Mi) (b : List W32) (ix : List Nat) : List (Nat × Nat × Nat × Nat) :=
  let last := !(miSplit w) || miLastPart w
  let put (c : Bool) (word : Nat) (l : MiLoc) (n : Nat) : List (Nat × Nat × Nat × Nat) :=
    if c then [(word, miCode w l, miOff w l, n)] else []
  (if miStores w b && last then
    (outPieces w ix (miOutCols w)).map (fun p => (15, miCode w .outData, p.1, p.2))
    ++ (List.range (outGroups w (miOutCols w))).map (fun j =>
      (16, miCode w .outScale, miOff w .outScale + j * 128, 128)) else [])
  ++ put (miBiasEn w && last) 17 .bias (if fmtComplex (miFmtA w) then 512 else 256)
  ++ put (miStatsEn w && miStores w b) 18 .stats 32 ++ put (miCheck w) 21 .ck 32 ++ put (miSplit w) 23 .partialBuf 16416

/-- What decode makes of an instruction. -/
inductive Decoded where
  | ok (chain : List W32) (rows : List Nat) (expert : Nat)
  | fail (r : Result)
  | ue (m : Media)
  deriving DecidableEq, Repr

/-- The chain block is read once, at decode, after the checks of the instruction itself (04 R126, R160). -/
def State.decodeChain (s : State) (x : Site) (w : Mi) : Decoded :=
  match firstOf (miBad w) (if miChained w && decide (miChain w ≤ 14) then firstFail (chainMiChecks w) else none) with
  | some i => .fail (Result.badIns i)
  | none =>
    if miChained w then
      let code := miCode w .chain
      let off := miOff w .chain
      match s.regionFail x [(22, code, off, 128)] with
      | some r => .fail r
      | none =>
        match s.locUe x code off 128 with
        | some u => .ue u
        | none =>
          let b := s.locWords x code off 32
          match chainBad w b with
          | some i => .fail (Result.badIns i)
          | none => .ok b [] 0
    else .ok [] [] 0

/-- The index block of a GATHER is read once, at decode; with K = 0 nothing is fetched and row r is its own
(03 R103, R117). -/
def State.decodeIndex (s : State) (x : Site) (w : Mi) (b : List W32) : Decoded :=
  if miOp w ≠ 0x12 then .ok b [] 0
  else if miK w = 0 then .ok b (List.range 64) 0
  else
    let code := miCode w .index
    let off := miOff w .index
    match s.regionFail x [(20, code, off, 288)] with
    | some r => .fail r
    | none =>
      match s.locUe x code off 288 with
      | some u => .ue u
      | none =>
        let ws := s.locWords x code off 65
        .ok b (indexRows ws) (wfield ws 64 15 0)

/-- Stored format of operand A: that of the source where a prologue reads it (04 R143, R150). -/
def miSourceFmt (w : Mi) (b : List W32) : Nat := if miChained w && hasPrologue w then cbAux b else miFmtA w

/-- Decode of a matrix product: its fields, blocks and regions (03 R98, R99). -/
def State.decodeIns (s : State) (x : Site) (w : Mi) : Decoded :=
  match s.decodeChain x w with
  | .ok b _ _ =>
    match s.decodeIndex x w b with
    | .ok _ ix e =>
      match s.regionFail x (miReads w ix e (miSourceFmt w b) false ++ miSideRegions w b ix) with
      | some r => .fail r
      | none =>
        match (if miChained w && (!(miSplit w) || miLastPart w) then s.chainRegionFail x w b ix else none) with
        | some r => .fail r
        | none => .ok b ix e
    | d => d
  | d => d

-- LOAD (03 R94, R97).

def ldBytes (w : Mi) : Nat := (wordAt w 27).toNat * 32

/-- A LOAD copies into the tile's store; its store takes effect at its commit. -/
def State.runLoad (s : State) (k : Kernel) (r : InsRec) (sram : List SramErr) : State :=
  let x := k.site r.die r.tile
  let w := r.words
  let n := ldBytes w
  let src := miCode w .aData
  let so := miOff w .aData
  match miBad w with
  | some i => s.failIns k.id r (Result.badIns i)
  | none =>
    match s.regionFail x [(11, src, so, n), (15, miCode w .outData, miOff w .outData, n)] with
    | some f => s.failIns k.id r f
    | none =>
      match s.locUe x src so n with
      | some b => s.failInsUe k r b
      | none =>
        match sram.find? (fun q => !q.corrected) with
        | some q => s.failInsUe k r (q.media r.die r.tile)
        | none =>
          let s := s.locCorrects x [(src, so, n)]
          let st := s.locStore x (miCode w .outData) (miOff w .outData) (s.locRead x src so n)
          let t := s.putIns k.id { r with phase := .held, stores := [st], counted := true }
          if r.counted then t
          else (t.account k.issuer (fun a => { a with
            stackBytes := a.stackBytes + stackCost src n })).tileWork k r (((wordAt w 27).toNat + 3) / 4 + 32)

-- The stream (02 R78, R79; 03 R93, R124, R125).

/-- Handshakes of one run of the block. -/
def insLatency (w : Mi) (b : List W32) : Nat :=
  if miChained w then miLatency w (chainTiming w b).1 (chainTiming w b).2 else miLatency w 16 0

/-- What the stream of a record feeds. -/
def InsRec.feed (r : InsRec) : Feed := ⟨r.rows, r.expert, miSourceFmt r.words r.chain⟩

/-- What an instruction has read by the end of its stream: its blocks, its operands, and the source of a prologue. -/
def InsRec.streamReads (r : InsRec) : List (Nat × Nat × Nat) :=
  let w := r.words
  (if miChained w then [(miCode w .chain, miOff w .chain, 128)] else [])
    ++ (if decide (miOp w = 0x12) && decide (miK w ≠ 0) then [(miCode w .index, miOff w .index, 288)] else [])
    ++ (if miChained w && hasPrologue w then chainReads w r.chain r.rows else [])
    ++ (miReads w r.rows r.expert (miSourceFmt w r.chain) false).map (fun e => e.2)

/-- The operands stream through the array, checked group by group, and the block drains; a prologue computes
operand A from its source (04 R143, R150). DESIGN CHOICE, log entry 75: an instruction that fails in its stream adds
neither handshakes nor MACs; and TV-07 stage 1 takes P through a_data and a_stride, whatever p1 names. -/
def State.streamIns (s : State) (k : Kernel) (r : InsRec) (sram : List SramErr) : State :=
  let x := k.site r.die r.tile
  let w := r.words
  let b := r.chain
  let d := r.feed
  let pro := miChained w && hasPrologue w
  match (if pro then s.chainUe x w b r.rows else none) with
  | some u => s.failInsUe k r u
  | none =>
    if pro && decide (miEntry w ≠ 8) && decide ((s.headerAt x (cbCode b 0) (cbOff b 0)).2.2 ≠ miK w) then
      s.failIns k.id r (Result.of .chainOrder)
    else
      match s.streamFail x w d sram with
      | some (.res f) => s.failIns k.id r f
      | some (.ue u) => s.failInsUe k r u
      | some (.sram q) => s.failInsUe k r (q.media r.die r.tile)
      | none =>
        let s := s.locCorrects x (r.streamReads)
        let as := if pro then s.prologueA x w b d else s.allA x w d
        let blk := s.product x w d as
        let r' : InsRec := { r with
          phase := .drained, kind := miKind w, re := blk.re, im := blk.im, sats := blk.sats,
          satRows := blk.satRows, satCols := blk.satCols, clamps := blk.clamps, magRow := blk.magRow,
          magCol := blk.magCol, driftRow := blk.driftRow, driftCol := blk.driftCol, masked := (List.range (miM w)).filter (miMasked w r.rows),
          sums := if pro then prologueSums as else [], runs := 1, rerun := false, counted := true }
        let t := s.putIns k.id r'
        if r.counted then t
        else (t.tileWork k r (insLatency w b)).account k.issuer (fun a => { a with
          macs := a.macs + miMacs w r.rows
          stackBytes := a.stackBytes + miStackBytes w d
            + (if miChained w then stackCost (miCode w .chain) 128 else 0)
            + (if decide (miOp w = 0x12) && decide (miK w ≠ 0) then stackCost (miCode w .index) 288 else 0) })

/-- A decoded product starts: a prologue waits for its buffer first (04 R143). DESIGN CHOICE, log entry 84: with K = 0
too, though it has no K step to wait before. -/
def State.startProduct (s : State) (k : Kernel) (r : InsRec) (sram : List SramErr) : State :=
  if miChained r.words && hasPrologue r.words then
    match s.waitsReady (k.site r.die r.tile) r.chain (prologueWaits r.words r.chain) with
    | .yes => s.streamIns k r sram
    | .wait => s.putIns k.id { r with phase := .waitPrologue, since := s.now }
    | .order => s.failIns k.id r (Result.of .chainOrder)
  else s.streamIns k r sram

-- Issue.

/-- An instruction starts on its tile: its decode, then its work. -/
def State.startIns (s : State) (k : Kernel) (r : InsRec) (sram : List SramErr) (again : Bool) : State :=
  let t := s.fetchErrors r.die r.tile sram
  let left := sram.filter (fun q => decide (1 ≤ q.place) && decide (q.place ≤ 3))
  if miOp r.words = 0x01 then t.runLoad k r left
  else if again then t.startProduct k r left
  else
    match t.decodeIns (k.site r.die r.tile) r.words with
    | .fail f => t.failIns k.id r f
    | .ue u => t.failInsUe k r u
    | .ok b ix e => t.startProduct k { r with chain := b, rows := ix, expert := e } left

/-- The words of instruction `idx`: of the program image for a RUN, given, and of the list in memory for an
MLIST (09 R321). -/
inductive Fetched where
  | words (ws : List W32)
  | fail (r : Result)
  | ue (m : Media)
  deriving DecidableEq, Repr

def State.fetchIns (s : State) (k : Kernel) (idx : Nat) (given : List W32) : Fetched :=
  if k.kind = .mlist then
    let off := k.bases.getD 0 0 + k.listOff + 128 * idx
    if s.issuerAllows k.issuer off 128 then
      match s.issuerUeRead k.issuer off 128 with
      | some u => .ue (.block u)
      | none => .words (bytesWords 32 (s.issuerRead k.issuer off 128))
    else .fail (Result.access off 0)
  else .words ((List.range 32).map (wordAt given))

/-- The instruction reads a tile store, or belongs to a TV-07 instance: it waits until every earlier
instruction on its tile has committed (03 R91, 04 R146). -/
def miReadsStore (w : Mi) : Bool :=
  let st (l : MiLoc) : Bool := decide (miCode w l = 8) || decide (miCode w l = 9)
  let mi := decide (miOp w ≠ 0x01)
  st .aData || (mi && (st .aScale || st .bData || st .bScale || st .bias || st .stats || st .metaData || st .index
    || st .chain || st .partialBuf || decide (miChain w = 8)))

/-- The tile can take instruction `idx` next: a bank is free, no prologue waits on it, no earlier one is still to be
issued again, and one that reads a tile store finds every earlier one committed (03 R91). -/
def Kernel.tileReady (k : Kernel) (die tile idx : Nat) (w : Mi) : Bool :=
  let o := k.openOn die tile
  let earlier := (k.pendingOn die tile).filter (fun r => decide (r.idx < idx))
  decide (o.length < 2) && !(o.any (fun r => decide (r.phase = .waitPrologue)))
    && !(earlier.any (fun r => decide (r.phase = .queued) || decide (r.phase = .abandoned)))
    && (!(miReadsStore w) || earlier.all (fun r => decide (r.phase = .failed)))

/-- No instruction at or before `idx` has failed. -/
def Kernel.clean (k : Kernel) (idx : Nat) : Bool :=
  !(k.ins.any (fun r => decide (r.phase = .failed) && decide (r.idx ≤ idx)))

/-- Opcodes of R94. -/
def miKnown (op : Nat) : Bool := decide (op ∈ [0x01, 0x10, 0x11, 0x12])

/-- A row of the table issues instruction `idx` of kernel `kid` on the tile of a rank, if its opcode is the
row's, or no row's at all: that completes with BAD_DESCRIPTOR (03 R94). On one tile instructions are
issued in order; one abandoned with its tile and queued is issued again. None is issued while the limiter withholds
non-radio work (07 R246). -/
def State.issueRow (s : State) (op kid idx rank : Nat) (words : List W32) (sram : List SramErr) : State :=
  match s.kernel kid with
  | none => s
  | some k =>
    match k.tiles[if k.kind = .mlist then 0 else rank]? with
    | none => s
    | some (die, tile) =>
      if s.awake && !s.power.withheld && (decide (k.kind = .run) || decide (k.kind = .mlist)) && !(s.underSubst ⟨die, .tile, tile⟩)
          && k.clean idx && (decide (k.kind = .run) || (decide (idx < k.count)
            && (decide (idx = 0) || (k.insAt (idx - 1)).isSome))) then
        match k.insAt idx with
        | some r =>
          if decide (r.phase = .queued) && decide (miOp r.words = op) && k.tileReady r.die r.tile idx r.words
              && !(s.underSubst ⟨r.die, .tile, r.tile⟩) then
            s.startIns k r sram true
          else s
        | none =>
          let r := InsRec.fresh idx die tile [] s.now
          match s.fetchIns k idx words with
          | .fail f => s.failIns kid r f
          | .ue u => s.failInsUe k r u
          | .words ws =>
            if miOp ws = op then
              (if k.tileReady die tile idx ws then
                (if k.kind = .mlist then s.issuerCorrects k.issuer (k.bases.getD 0 0 + k.listOff + 128 * idx) 128
                 else s).startIns k { r with words := ws } sram false
               else s)
            else if miKnown (miOp ws) then s
            else s.failIns kid { r with words := ws } (Result.badIns 0)
      else s

def load := State.issueRow (op := 0x01)
def mm := State.issueRow (op := 0x10)
def conv := State.issueRow (op := 0x11)
def gather := State.issueRow (op := 0x12)

-- The checksum (03 R118 to R120).

/-- What the runs of a block come to. -/
inductive RunOut where
  | ok (s : State) (r : InsRec)
  | mismatch (s : State)
  /-- the tile was declared faulty, and the instruction abandoned with it -/
  | stop (s : State)

def InsRec.block (r : InsRec) : Block :=
  ⟨r.re, r.im, r.sats, r.satRows, r.satCols, r.clamps, r.magRow, r.magCol, r.driftRow, r.driftCol⟩

/-- Run the block once more: one more latency is accounted (03 R124, R125). -/
def State.rerun (s : State) (k : Kernel) (r : InsRec) : State :=
  s.tileWork k r (insLatency r.words r.chain)

/-- The run numbered `r.runs`, with the cells that faults upset in it, and its comparison; a first mismatch runs
the block again, at most `n` times. -/
def State.acceptRun (k : Kernel) (flips : List CellFlip) : Nat → State → InsRec → RunOut
  | 0, s, r => .ok s r
  | n + 1, s, r =>
    let w := r.words
    let re := flipRun (miN w) r.runs r.masked false flips r.re
    let im := flipRun (miN w) r.runs r.masked true flips r.im
    if miCheck w then
      let ck := ckCompare w r.block re im
      if ck.bad then
        let v := s.checksumEvent ⟨r.die, .tile, r.tile⟩ w
        match (v.kernel k.id).bind (fun y => y.insAt r.idx) with
        | some q =>
          if q.phase = .abandoned ∨ q.phase = .queued ∨ q.tile ≠ r.tile then .stop v
          else if r.rerun then .mismatch v
          else State.acceptRun k flips n (v.rerun k r) { r with runs := r.runs + 1, rerun := true }
        | none => .stop v
      else .ok s { r with ck := ck, accRe := re, accIm := im }
    else .ok s { r with accRe := re, accIm := im }

-- Split reductions (03 R114).

/-- Header of a partial buffer: folded and gen. -/
def State.partialHeader (s : State) (x : Site) (w : Mi) : Nat × Nat :=
  let ws := s.locWords x (miCode w .partialBuf) (miOff w .partialBuf) 1
  (wfield ws 0 7 0, wfield ws 0 15 8)

/-- The partial values of the block. -/
def State.partialVals (s : State) (x : Site) (w : Mi) : List FVal :=
  (List.range (miM w)).flatMap (fun r =>
    (s.locWords x (miCode w .partialBuf) (miOff w .partialBuf + 32 + 256 * r) (miN w)).map (fun v =>
      if miKind w = .i32 then .ofInt (signedOf 32 v.toNat) else f32 v.toNat))

/-- partial + accumulator, with the saturations of the rows that are fed. -/
def foldPartial (w : Mi) (rows : List Nat) (p acc : List FVal) : List FVal × Nat :=
  let o := (p.zip acc).map (fun e =>
    if miKind w = .i32 then satCount 32 (e.1.toInt + e.2.toInt) else (fadd e.1 e.2, 0))
  (o.map Prod.fst, liveSum (miN w) rows (o.map Prod.snd))

/-- The stores of a partial block: the rows that are not masked, then the header. DESIGN CHOICE, log entry 75: the
64 × 64 values lie row by row. -/
def State.partialStores (s : State) (x : Site) (w : Mi) (ix : List Nat) (vals : List FVal) : List HeldStore :=
  let code := miCode w .partialBuf
  let off := miOff w .partialBuf
  let word (v : FVal) : Nat := if miKind w = .i32 then wrapOf 32 v.toInt else f32Bits v
  (miRows w ix).map (fun r => s.locStore x code (off + 32 + 256 * r)
    ((rowOf (miN w) vals r).flatMap (fun v => leBytes 4 (word v))))
  ++ [s.locStore x code off (leBytes 4 (miSplitIdx w + 1 + 256 * miGenOut w))]

-- Stores.

/-- The first store that cannot be made: a change of protected weights, or part of an uncorrectable block. -/
def State.storesFail (s : State) (i : Issuer) (hs : List HeldStore) : Option (Result × Option Media) :=
  hs.findSome? (fun h =>
    match h.space with
    | .stack =>
      if s.issuerProtected i h.addr h.data then some (Result.access h.addr h.code, none)
      else (s.issuerUeWrite i h.addr h.data.length).map (fun b => (s.mediaResult i.partition b, some (.block b)))
    | _ => none)

/-- Stores take effect, with their bytes in stack memory accounted. -/
def State.applyStores (s : State) (i : Issuer) (hs : List HeldStore) : State :=
  (hs.foldl (fun t h => t.applyStore i h) s).account i (fun a => { a with
    stackBytes := a.stackBytes + (hs.map (fun h => stackCost h.code h.data.length)).sum })

/-- The checksum record of the stored run (03 R121). -/
def State.ckStores (s : State) (x : Site) (r : InsRec) : List HeldStore :=
  if miCheck r.words then
    [s.locStore x (miCode r.words .ck) (miOff r.words .ck) (ckRecord r.ck r.runs)] else []

-- The epilogue (03 R112, R113; 02 R64, R71 to R77).

/-- The scale exponent of an instruction's output, and whether it was clamped (02 R61). -/
def miOutExp (w : Mi) : Int × Bool := if fmtScaled (miFmtOut w) then scaleExp (miOutScale w) else (0, false)

/-- The accumulators that enter the epilogue: of the last part of a split, with the partial buffer added. -/
def State.total (s : State) (x : Site) (r : InsRec) : List FVal × Nat :=
  if miSplit r.words then foldPartial r.words (miRows r.words r.rows) (s.partialVals x r.words) r.accRe else (r.accRe, 0)

/-- The values of the plain epilogue or of the chain stage. -/
def State.stageVals (s : State) (x : Site) (r : InsRec) (acc : List FVal) : ChainOut :=
  if miChained r.words then s.chainVals x r.words r.chain r.rows acc r.sums
  else ⟨s.plainVals x r.words (miRows r.words r.rows) acc r.accIm, true, none⟩

/-- What an instruction leaves: its stores and its statistics. -/
structure Finished where
  stores : List HeldStore
  delta : StatDelta
  /-- some value saturated at its store conversion -/
  sat : Bool
  vals : Vals
  deriving DecidableEq, Repr

/-- Convert and lay out a stage's output with the exponents of its groups: `fit` those of a re-run with the
clamps they took. -/
def State.finishVals (s : State) (x : Site) (r : InsRec) (acc : List FVal) (foldSat : Nat)
    (fit : Option (List (Nat × List Int) × Nat)) : Finished :=
  let w := r.words
  let o := s.stageVals x r acc
  let rows := miRows w r.rows
  let e0 := miOutExp w
  let own := match fit with
    | some f => some f
    | none => o.exps
  let exp : Nat → Nat → Int := match own with
    | some f => expAt f.1 e0.1
    | none => fun _ _ => e0.1
  let c := convBlock w fit.isSome rows o.vals exp
  let g := if miG w = 0 then 64 else miG w
  let f := miFmtOut w
  let stored (i j : Nat) : FVal :=
    r32 ((decodeElem f (c.bits.getD (i * c.cols + j) 0)).re.scale (if fmtScaled f then exp i (j / g) else 0))
  let out := if o.store then
      s.outStores x w r.rows c ++ s.scaleStores x w rows o.vals.cols exp else []
  let side := if miChained w then s.chainStores x w r.chain r.rows acc o.vals stored else []
  let split := if miSplit w then
      [s.locStore x (miCode w .partialBuf) (miOff w .partialBuf) (leBytes 4 (miSplitCnt w + 256 * miGenOut w))]
    else []
  let clamps := r.clamps + (if o.exps.isNone && e0.2 then 1 else 0) + (match own with
    | some q => q.2
    | none => 0)
  { stores := out ++ side ++ s.ckStores x r ++ split
    delta := if o.store then
        { maxAbs := c.maxAbs, sat := r.sats + foldSat + o.vals.sat + c.sat, nan := o.vals.nan + c.nan,
          rescale := if fit.isSome then 1 else 0, clamp := clamps }
      else StatDelta.zero
    sat := decide (0 < c.sat), vals := o.vals }

/-- What the epilogue reads: a chain's buffers, the bias, and the partial buffer. -/
def InsRec.epilogueReads (r : InsRec) : List (Nat × Nat × Nat) :=
  let w := r.words
  (if miChained w then chainReads w r.chain r.rows else [])
    ++ (if miBiasEn w then [(miCode w .bias, miOff w .bias, if fmtComplex (miFmtA w) then 512 else 256)] else [])
    ++ (if miSplit w && decide (miSplitIdx w ≠ 0) then [(miCode w .partialBuf, miOff w .partialBuf, 16416)] else [])

/-- What the reads of the epilogue cannot deliver, first. -/
def State.epilogueUe (s : State) (x : Site) (r : InsRec) : Option Media :=
  r.epilogueReads.findSome? (fun e => s.locUe x e.1 e.2.1 e.2.2)

/-- The instruction is done with its arithmetic; its stores wait for program order (02 R80). -/
def State.hold (s : State) (k : Kernel) (r : InsRec) (f : Finished) : State :=
  let t := s.putIns k.id { r with phase := .held, stores := f.stores, delta := f.delta,
                                  re := [], im := [], accRe := [], accIm := [] }
  if miChained r.words && (!(miSplit r.words) || miLastPart r.words) then
    t.account k.issuer (fun a => { a with stackBytes := a.stackBytes + chainStackBytes r.words r.chain r.rows })
  else t

/-- The arithmetic, conversion and store of an accepted block, run once more with new scales when a value
saturates and rescaling is asked for (02 R75, 03 R112). DESIGN CHOICE, log entry 84: the fields of TV-13's slots are
checked once the headers of all of them are ready, so that a slot that never comes ends in CHAIN_TIMEOUT whatever an
earlier slot holds (04 R157). -/
def State.finishIns (s : State) (k : Kernel) (r : InsRec) (flips : List CellFlip) : State :=
  let x := k.site r.die r.tile
  let w := r.words
  match s.epilogueUe x r with
  | some b => s.failInsUe k r b
  | none =>
    if miChained w && decide (miEntry w = 13) && !(s.slotsOk x w r.chain) then
      s.failIns k.id r (Result.of .chainOrder)
    else
      let s := s.locCorrects x r.epilogueReads
      let a := s.total x r
      let f := s.finishVals x r a.1 a.2 none
      if miRescale w && f.sat then
        let fit := fitBlock w (miRows w r.rows) f.vals (miOutExp w).1
        match State.acceptRun k flips 2 (s.rerun k r) { r with runs := r.runs + 1 } with
        | .stop t => t
        | .mismatch t => t.failIns k.id r (Result.of .checksumMismatch)
        | .ok t r' =>
          let a' := t.total x r'
          t.hold k r' (t.finishVals x r' a'.1 a'.2 (some fit))
      else s.hold k r f

/-- A chain stage waits for its buffers before its epilogue (04 R138). A TV-12 block stays, its run accepted, until it
is sent (04 R156). -/
def State.stageIns (s : State) (k : Kernel) (r : InsRec) (flips : List CellFlip) : State :=
  let x := k.site r.die r.tile
  if miChain r.words = 13 then s.putIns k.id { r with phase := .drained } else
  match (if miChained r.words then s.waitsReady x r.chain (chainWaits r.words r.chain) else .yes) with
  | .yes => s.finishIns k r flips
  | .wait => s.putIns k.id { r with phase := .waitChain, since := s.now }
  | .order => s.failIns k.id r (Result.of .chainOrder)

/-- A split part's turn: it holds its block, or the sum with its predecessors', for the partial buffer, and the last part
goes on with the sum (03 R114). -/
def State.foldPart (s : State) (k : Kernel) (r : InsRec) (flips : List CellFlip) : State :=
  let x := k.site r.die r.tile
  let w := r.words
  if miLastPart w then s.stageIns k r flips
  else
    match (if miSplitIdx w = 0 then none else s.locUe x (miCode w .partialBuf) (miOff w .partialBuf) 16416) with
    | some b => s.failInsUe k r b
    | none =>
      let s := if miSplitIdx w = 0 then s else s.locCorrects x [(miCode w .partialBuf, miOff w .partialBuf, 16416)]
      let v := if miSplitIdx w = 0 then (r.accRe, 0) else foldPartial w (miRows w r.rows) (s.partialVals x w) r.accRe
      s.hold k r { stores := s.ckStores x r ++ s.partialStores x w r.rows v.1
                   delta := { StatDelta.zero with sat := v.2, clamp := r.clamps }
                   sat := false, vals := ⟨[], [], 0, 0, 0⟩ }

/-- After an accepted run: a split part after the first waits for its predecessor (03 R114). -/
def State.afterRun (s : State) (k : Kernel) (r : InsRec) (flips : List CellFlip) : State :=
  let w := r.words
  if miSplit w then
    if miSplitIdx w = 0 ∨ s.partialHeader (k.site r.die r.tile) w = (miSplitIdx w, miGenOut w) then
      s.foldPart k r flips
    else s.putIns k.id { r with phase := .waitSplit, since := s.now }
  else s.stageIns k r flips

/-- The tile's epilogue is free for the instruction: none before it on the tile still holds it (04 R138,
R139). -/
def Kernel.epilogueFree (k : Kernel) (r : InsRec) : Bool :=
  !((k.openOn r.die r.tile).any (fun q => decide (q.idx < r.idx)))

/-- A record of a running kernel in a phase; nothing after a failed instruction of its job goes on (02 R79, 03 R98). -/
def State.recIn (s : State) (kid idx : Nat) (p : InsPhase) : Option (Kernel × InsRec) :=
  if s.awake then
    match s.kernel kid with
    | none => none
    | some k =>
      match k.insAt idx with
      | some r => if r.phase = p ∧ k.clean idx = true then some (k, r) else none
      | none => none
  else none

/-- The drained block of an instruction passes its checksum comparison and goes into the epilogue, for a chain
field. -/
def State.epilogueRow (s : State) (chain kid idx : Nat) (flips : List CellFlip) : State :=
  match s.recIn kid idx .drained with
  | none => s
  | some (k, r) =>
    if decide (miChain r.words = chain) && k.epilogueFree r then
      match State.acceptRun k flips 2 s r with
      | .stop t => t
      | .mismatch t => t.failIns kid r (Result.of .checksumMismatch)
      | .ok t r' => t.afterRun k r' flips
    else s

def epilogue := State.epilogueRow (chain := 0)
def biasAct := State.epilogueRow (chain := 1)
def biasActRes := State.epilogueRow (chain := 2)
def dequantAct := State.epilogueRow (chain := 3)
def rowStats := State.epilogueRow (chain := 4)
def layernormMm := State.epilogueRow (chain := 5)
def rmsnormMm := State.epilogueRow (chain := 6)
def gated := State.epilogueRow (chain := 7)
def attentionOnline := State.epilogueRow (chain := 8)
def attentionTwoPass := State.epilogueRow (chain := 9)
def routerTopk := State.epilogueRow (chain := 10)
def dynamicQuant := State.epilogueRow (chain := 11)
def colPool := State.epilogueRow (chain := 12)
def peerAccum := State.epilogueRow (chain := 14)

-- Waits (03 R114, R115, 04 R138).

/-- SPLIT_PART_RESUME: the header shows that the predecessor has folded (03 R114). -/
def splitPartResume (kid idx : Nat) (flips : List CellFlip) (s : State) : State :=
  match s.recIn kid idx .waitSplit with
  | none => s
  | some (k, r) =>
    if s.partialHeader (k.site r.die r.tile) r.words = (miSplitIdx r.words, miGenOut r.words) then
      s.foldPart k r flips
    else s

/-- A wait has lasted longer than the job's declared maximum layer time. -/
def State.waitedOut (s : State) (k : Kernel) (r : InsRec) : Bool := decide (r.since + k.maxUs * 1000 < s.now)

/-- A timeout, with the elapsed time in µs (09 R336). -/
def State.timeoutIns (s : State) (k : Kernel) (r : InsRec) (st : Status) : State :=
  if s.waitedOut k r then s.failIns k.id r { status := st, d4 := lo32 (s.usSince r.since) } else s

/-- SPLIT_TIMEOUT (03 R115). -/
def splitTimeout (kid idx : Nat) (s : State) : State :=
  match s.recIn kid idx .waitSplit with
  | none => s
  | some (k, r) => s.timeoutIns k r .splitTimeout

/-- CHAIN_BUFFER_READY: the buffers that a stage or prologue waits for show the expected gen and count, or one is
out of order (04 R138, R143). -/
def chainBufferReady (kid idx : Nat) (flips : List CellFlip) (s : State) : State :=
  match s.recIn kid idx .waitChain, s.recIn kid idx .waitPrologue with
  | some (k, r), _ =>
    (match s.waitsReady (k.site r.die r.tile) r.chain (chainWaits r.words r.chain) with
    | .yes => s.finishIns k r flips
    | .order => s.failIns kid r (Result.of .chainOrder)
    | .wait => s)
  | none, some (k, r) =>
    (match s.waitsReady (k.site r.die r.tile) r.chain (prologueWaits r.words r.chain) with
    | .yes => s.streamIns k r []
    | .order => s.failIns kid r (Result.of .chainOrder)
    | .wait => s)
  | none, none => s

/-- CHAIN_TIMEOUT (04 R138). -/
def chainTimeout (kid idx : Nat) (s : State) : State :=
  match s.recIn kid idx .waitChain, s.recIn kid idx .waitPrologue with
  | some (k, r), _ => s.timeoutIns k r .chainTimeout
  | none, some (k, r) => s.timeoutIns k r .chainTimeout
  | none, none => s

-- Commit (02 R72, R80).

/-- A statistics record is written: an instruction that stores no output block writes none (02 R72, 04 R144). -/
def statsDue (w : Mi) (b : List W32) : Bool := decide (miOp w ≠ 0x01) && miStatsEn w && miStores w b

/-- The update of the tensor statistics record that an instruction makes as it completes, if it names one. -/
def State.statStores (s : State) (x : Site) (r : InsRec) : List HeldStore :=
  let w := r.words
  if statsDue w r.chain then
    let c := miCode w .stats
    let o := miOff w .stats
    [s.locStore x c o (statMerge (s.locWords x c o 8) r.delta)]
  else []

/-- The instruction's turn to commit: every earlier one of its job has (02 R80), but a split part lets later parts of its
reduction that wait for it stand before it (03 R114). -/
def Kernel.turnOf (k : Kernel) (r : InsRec) : Bool :=
  k.committedTo r.idx || (decide (miOp r.words ≠ 0x01) && miSplit r.words && !(miLastPart r.words)
    && decide ((k.ins.filter (fun q => decide (q.idx < r.idx) && (decide (q.phase = .committed)
      || (decide (q.phase = .waitSplit) && decide (miSplitIdx r.words < miSplitIdx q.words)
        && decide (miCode q.words .partialBuf = miCode r.words .partialBuf)
        && decide (miOff q.words .partialBuf = miOff r.words .partialBuf))))).length = r.idx))

/-- The instruction commits: its stores take effect together, with its statistics; the commit that completes the
kernel's program is its boundary (02 R72, R80, 08 R278). -/
def State.commitIns (s : State) (k : Kernel) (r : InsRec) (last : Bool) : State :=
  let x := k.site r.die r.tile
  let hs := r.stores ++ s.statStores x r
  let w := r.words
  match (if statsDue w r.chain then
      (s.locUe x (miCode w .stats) (miOff w .stats) 32).map (fun b => (s.mediaOf k.part b, some b)) else none) with
  | some e => s.failInsOr k r e
  | none =>
    match s.storesFail k.issuer hs with
    | some e => s.failInsOr k r e
    | none =>
      let t := (s.applyStores k.issuer hs).putIns k.id { r with phase := .committed, stores := [] }
      match t.kernel k.id with
      | none => t
      | some y =>
        if (if y.kind = .mlist then decide (y.ins.length = y.count) else last)
            && y.ins.all (fun q => decide (q.phase = .committed)) then t.kernelBoundary y
        else t.settle k.id

/-- BLOCK_COMMIT: a held instruction commits in its turn; `last` says that the program of a RUN's kernel has no further
instruction to issue (02 R80). -/
def blockCommit (kid idx : Nat) (last : Bool) (s : State) : State :=
  match s.recIn kid idx .held with
  | none => s
  | some (k, r) => if k.turnOf r then s.commitIns k r last else s

-- Substitution's last step (01 R39 steps 4 and 5).

/-- The abandoned instructions of a tile are issued again: the first at once, the others after it. -/
def State.reissueOn (s : State) (u : UnitId) : State :=
  s.kernels.foldl (fun t k =>
    let mine := k.ins.filter (fun r => decide (r.die = u.die) && decide (r.tile = u.num)
      && decide (r.phase = .abandoned))
    let v := mine.foldl (fun v r => v.putIns k.id { r with phase := .queued }) t
    match mine.foldl (fun (m : Option InsRec) r => match m with
        | none => some r
        | some q => if r.idx < q.idx then some r else some q) none with
    | none => v
    | some r =>
      match v.kernel k.id with
      | some y => v.startIns y { r with phase := .queued } [] true
      | none => v) s

/-- SUBSTITUTION_REISSUE: the state of the unit's spare, or of the tile that replaced it, is loaded: the abandoned
work is issued again, SUBSTITUTED is recorded, the next substitution of the die begins, and a save that waited is made
(01 R39, R42). -/
def substitutionReissue (u : UnitId) (s : State) : State :=
  match s.units.substs.find? (fun x => decide (x.unit = u) && (x.spare.isSome || x.moved)) with
  | none => s
  | some x =>
    let t : State := { s with units := { s.units with
      substs := s.units.substs.filter (fun y => decide (y.unit ≠ u)) } }
    let v := if x.spare.isSome then t.record 0x0106 (siteUnit u) (lo32 u.island) (s.usSince x.t0) else t
    let w := if u.cls = .tile then v.reissueOn u else v
    let y := if w.inRadio u then w.markFault u.die u.island else w
    let z := State.nextSubst u.die y.units.substs.length y
    z.enabledParts.foldl State.maybeSave z

-- The meanings.

def execLoad (k idx rank : Nat) (words : List W32) (sram : List SramErr) (s : State) : Done :=
  .next (load s k idx rank words sram)
def execMm (k idx rank : Nat) (words : List W32) (sram : List SramErr) (s : State) : Done :=
  .next (mm s k idx rank words sram)
def execConv (k idx rank : Nat) (words : List W32) (sram : List SramErr) (s : State) : Done :=
  .next (conv s k idx rank words sram)
def execGather (k idx rank : Nat) (words : List W32) (sram : List SramErr) (s : State) : Done :=
  .next (gather s k idx rank words sram)
def execEpilogue (k idx : Nat) (flips : List CellFlip) (s : State) : Done := .next (epilogue s k idx flips)
def execBiasAct (k idx : Nat) (flips : List CellFlip) (s : State) : Done := .next (biasAct s k idx flips)
def execBiasActRes (k idx : Nat) (flips : List CellFlip) (s : State) : Done := .next (biasActRes s k idx flips)
def execDequantAct (k idx : Nat) (flips : List CellFlip) (s : State) : Done := .next (dequantAct s k idx flips)
def execRowStats (k idx : Nat) (flips : List CellFlip) (s : State) : Done := .next (rowStats s k idx flips)
def execLayernormMm (k idx : Nat) (flips : List CellFlip) (s : State) : Done := .next (layernormMm s k idx flips)
def execRmsnormMm (k idx : Nat) (flips : List CellFlip) (s : State) : Done := .next (rmsnormMm s k idx flips)
def execGated (k idx : Nat) (flips : List CellFlip) (s : State) : Done := .next (gated s k idx flips)
def execAttentionOnline (k idx : Nat) (flips : List CellFlip) (s : State) : Done :=
  .next (attentionOnline s k idx flips)
def execAttentionTwoPass (k idx : Nat) (flips : List CellFlip) (s : State) : Done :=
  .next (attentionTwoPass s k idx flips)
def execRouterTopk (k idx : Nat) (flips : List CellFlip) (s : State) : Done := .next (routerTopk s k idx flips)
def execDynamicQuant (k idx : Nat) (flips : List CellFlip) (s : State) : Done := .next (dynamicQuant s k idx flips)
def execColPool (k idx : Nat) (flips : List CellFlip) (s : State) : Done := .next (colPool s k idx flips)
def execPeerAccum (k idx : Nat) (flips : List CellFlip) (s : State) : Done := .next (peerAccum s k idx flips)
def execSplitPartResume (k idx : Nat) (flips : List CellFlip) (s : State) : Done :=
  .next (splitPartResume k idx flips s)
def execSplitTimeout (k idx : Nat) (s : State) : Done := .next (splitTimeout k idx s)
def execChainBufferReady (k idx : Nat) (flips : List CellFlip) (s : State) : Done :=
  .next (chainBufferReady k idx flips s)
def execChainTimeout (k idx : Nat) (s : State) : Done := .next (chainTimeout k idx s)
def execBlockCommit (k idx : Nat) (last : Bool) (s : State) : Done := .next (blockCommit k idx last s)
def execSubstitutionReissue (u : UnitId) (s : State) : Done := .next (substitutionReissue u s)

end Sys2Proof.Machine
end

