-- ==== Sys2Proof/Machine/Stacks.lean ====
section
/-! DEFINITION. The memory stacks (10_memory_stacks.md): refresh, patrol scrub, the repair of rows and lines, and
the commands of the gather/expand engine. -/

namespace Sys2Proof.Machine

-- Refresh (10 R352).

/-- The refresh band of a hottest-layer temperature in steps of 0.125 °C. -/
def bandOf (t : Int) : Nat := if t ≤ 680 then 0 else if t ≤ 760 then 1 else 2

/-- The refresh interval of a band in ns. -/
def refreshNs (band : Nat) : Nat := if band = 0 then 3900 else if band = 1 then 1950 else 975

def bankKey (stack channel bank : Nat) : Nat := (32 * stack + channel) * 48 + bank

def State.bankRefresh (s : State) (k : Nat) : BankRefresh := SMap.get (fun _ => ⟨0, 0⟩) s.stackSt.refresh k

/-- Set the hottest layer of a stack: STACK_TEMP with its band (10 R351). -/
def State.setStackTemp (s : State) (stack : Nat) (temp : Int) : State :=
  s.setReg (aSTACK stack) (lo32 (wrapOf 12 temp * 2 ^ 16 + bandOf temp))

/-- Blocks of a bank whose cells have lost bits: the code corrects those marked false at every read, and not the others
(10 R346, R350). -/
def State.decay (s : State) (stack channel bank : Nat) (l : List (Nat × Bool)) : State :=
  l.foldl (fun t e =>
    let r := t.blockRow e.1
    if decide (64 * e.1 < t.memBytes) && decide (r.stack = stack) && decide (r.channel = channel)
        && decide (r.bank = bank) && decide (e.1 ∉ t.ue) then
      if e.2 then { t with ue := t.ue ++ [e.1], weak := t.weak.filter (fun b => decide (b ≠ e.1)) }
      else if e.1 ∈ t.weak then t else { t with weak := t.weak ++ [e.1] }
    else t) s

/-- REFRESH: a bank is refreshed at the interval of the band in force for it; the stack's sensors show its
hottest layer at `temp`, whose band holds for the bank from this refresh on, and its base die at `base`; `lost` names
blocks of the bank whose stored bits have gone since (10 R346, R352). -/
def refresh (stack channel bank : Nat) (temp base : Int) (lost : List (Nat × Bool)) (s : State) : State :=
  if s.up && decide (stack < 24) && decide (channel < 32) && decide (bank < 48) then
    let k := bankKey stack channel bank
    let b := s.bankRefresh k
    let u := s.setStackTemp stack temp
    let t := ({ u with power := { u.power with
      baseTemp := SMap.put (fun _ => 0) u.power.baseTemp stack base } }).decay stack channel bank lost
    if b.time + refreshNs b.band ≤ s.now then
      { t with stackSt := { t.stackSt with
          refresh := SMap.put (fun _ => ⟨0, 0⟩) t.stackSt.refresh k ⟨s.now, bandOf temp⟩ } }
    else t
  else s

/-- What the patrol finds in a block: what `what` says, or an error that the block is known to hold. -/
def State.patrolFinds (s : State) (block : Nat) (what : PatrolRead) : PatrolRead :=
  if block ∈ s.ue then .uncorrectable
  else match what with
    | .clean => if block ∈ s.weak then .corrected else .clean
    | w => w

/-- PATROL_READ: a block is read; a corrected one is written back unless a write has reached it meanwhile, which
leaves its data as they are; an uncorrectable one is recorded (10 R349, R350). -/
def patrolRead (block : Nat) (what : PatrolRead) (s : State) : State :=
  if s.up && decide (64 * block < s.memBytes) then
    match s.patrolFinds block what with
    | .clean => s
    | .corrected => let t := s.stackCorrected block
      { t with weak := t.weak.filter (fun b => decide (b ≠ block)) }
    | .uncorrectable =>
      let t : State := { s with
        ue := if block ∈ s.ue then s.ue else s.ue ++ [block]
        weak := s.weak.filter (fun b => decide (b ≠ block)) }
      t.recordUe block (t.stackTemp (t.blockStack block))
  else s

-- Lines (10 R347, 14 R462, R467, R468).

/-- The spare line of the line's pseudo-channel is in use. -/
def State.spareUsed (s : State) (l : LineId) : Bool :=
  s.stackSt.replaced.any (fun q => decide (q.stack = l.stack) && decide (q.channel = l.channel))

/-- The extension of a line's site (14 R477). -/
def lineExt (l : LineId) : W32 := lo32 (2 ^ 31 + l.line)

/-- A line has a lasting fault, declared for its stack, which waits for the next training (10 R347, 14 R467, R468). -/
def State.declareLine (s : State) (l : LineId) : State :=
  let v := s.noteDeclared (siteStack l.stack l.channel 0) (lineExt l) (degC (s.stackT l.stack))
  { v with stackSt := { v.stackSt with
      failing := if l ∈ v.stackSt.failing then v.stackSt.failing else v.stackSt.failing ++ [l] } }

/-- A line fails at training, or its margin is below a tenth of the unit interval: a fault event; a second failing line
of a pseudo-channel is a lasting fault of the stack (10 R347, 14 R462, R468). -/
def State.lineFault (s : State) (l : LineId) (margin : Nat) : State :=
  let e : FaultEvt := ⟨.stackLine l.stack l.channel l.line, 0x0206, 0, tBin (s.stackT l.stack), s.now⟩
  let t := (s.record 0x0206 (siteStack l.stack l.channel 0) (lineExt l) margin).addFault e
  let second := s.spareUsed l || s.stackSt.failing.any (fun q =>
    decide (q ≠ l) && decide (q.stack = l.stack) && decide (q.channel = l.channel))
  if s.lastingWith e || second then t.declareLine l else t

/-- Link training replaces a failing line by its pseudo-channel's spare, while that is unused (10 R347). -/
def State.replaceLine (s : State) (l : LineId) : State :=
  if s.spareUsed l then s
  else { s with stackSt := { s.stackSt with
    replaced := s.stackSt.replaced ++ [l], failing := s.stackSt.failing.filter (fun q => decide (q ≠ l)) } }

/-- The stack interfaces are trained: every line that fails now is a fault event; these, and the lines with a lasting
fault, are replaced where a spare is left, and a failing line without one is a lasting fault (10 R347, 14 R462, R468,
R478). -/
def State.trainStacks (s : State) (fails : List LineId) : State :=
  let new := fails.filter (fun l => decide (l ∉ s.stackSt.replaced))
  let t := new.foldl (fun v l => v.lineFault l 0) s
  let u := (t.stackSt.failing ++ new).foldl State.replaceLine t
  (new.filter (fun l => decide (l ∉ u.stackSt.replaced) && decide (l ∉ u.stackSt.failing))).foldl
    State.declareLine u

/-- STACK_SPARE (10 R351). -/
def State.stackSpare (s : State) (st : Nat) : W32 :=
  let rows := s.fuses.stackRows.getD st 0 + (s.stackSt.repaired.filter (fun r => decide (r.stack = st))).length
  let lines := s.fuses.stackLines.getD st 0 + (s.stackSt.replaced.filter (fun l => decide (l.stack = st))).length
  lo32 (min rows 0xFFFF * 2 ^ 16 + (32 - lines))

-- The gather/expand engine (10 R353 to R357).

/-- A command of 16 words. -/
def gxCmd (c : List W32) : Nat := wfield c 0 3 0
def gxFmt (c : List W32) : Nat := wfield c 0 7 4
def gxMode (c : List W32) : Nat := wfield c 0 9 8
def gxLoc (c : List W32) (i : Nat) : Nat := wfield c 1 (4 * i + 3) (4 * i)
def gxOff (c : List W32) (w : Nat) : Nat := (wordAt c w).toNat * 32
def gxCount (c : List W32) : Nat := (wordAt c 5).toNat
def gxSize (c : List W32) : Nat := (wordAt c 6).toNat
def gxDstStride (c : List W32) : Nat := (wordAt c 7).toNat
def gxSrcStride (c : List W32) : Nat := (wordAt c 8).toNat

/-- The command writes metadata (10 R354). -/
def gxMeta (c : List W32) : Bool := decide (gxCmd c = 1) && decide (gxMode c ≠ 0)

/-- Checks of a command, each with its word (10 R354). -/
def gxChecks (c : List W32) : List (Nat × Bool) :=
  let loc (l : Nat) : Bool := decide (l ≤ 7) || decide (l = 10)
  let ex := decide (gxCmd c = 1)
  [ (0, decide (1 ≤ gxCmd c) && decide (gxCmd c ≤ 3)),
    (0, if ex then decide (gxFmt c ∈ [1, 2, 5, 6, 7, 8, 9, 10, 11]) else decide (gxFmt c = 0)),
    (0, if ex then decide (gxMode c ≠ 3) else decide (gxMode c = 0)),
    (1, loc (gxLoc c 0) && loc (gxLoc c 1) && loc (gxLoc c 2)),
    (1, if gxMeta c then loc (gxLoc c 3) else decide (gxLoc c 3 = 0)),
    (6, match gxCmd c with
      | 1 => decide (gxSize c % 64 = 0)
      | 2 => decide (1 ≤ gxSize c) && decide (gxSize c ≤ 256)
      | _ => decide (gxSize c % 32 = 0)),
    (7, decide (gxCmd c = 2) || decide (gxDstStride c % 32 = 0)),
    (8, decide (gxCmd c ≠ 2) || decide (gxSrcStride c = 0)),
    (9, gxMeta c || decide (wordAt c 9 = 0)) ]

def gxMasks : List Nat :=
  [0x3FF, 0xFFFF, m32, m32, m32, m32, m32, m32, m32, m32, 0, 0, 0, 0, 0, 0]

/-- The word of a command that fails a check. -/
def gxBad (c : List W32) : Option Nat := firstOf (reservedFail gxMasks c) (firstFail (gxChecks c))

/-- What a command's work comes to: its stores and what it read, by code, offset and length, or how it fails, with
the index that word 3 shows. -/
inductive GxOut where
  | ok (stores : List HeldStore) (reads : List (Nat × Nat × Nat))
  | fail (r : Result) (loc : Option Nat)
  | ue (m : Media)
  deriving DecidableEq, Repr

/-- A read of a command: its bytes, or how it fails. -/
inductive GxRead where
  | ok (bs : List Byte)
  | fail (r : Result)
  | ue (m : Media)
  deriving DecidableEq, Repr

def State.gxRead (s : State) (x : Site) (code off n : Nat) : GxRead :=
  match s.verdict x code off n with
  | .fault o => .fail (Result.access o code)
  | .bad => .fail (Result.access off code)
  | .ok =>
    match s.locUe x code off n with
    | some b => .ue b
    | none => .ok (s.locRead x code off n)

/-- Bytes of the kept values of a segment: packed, padded to 8 bytes (10 R355). -/
def segBytes (f kept : Nat) : Nat := (rowBytes f kept + 7) / 8 * 8

/-- The elements of a segment: of each kept position its bits, in increasing position. -/
def segElems (f mask : Nat) (bs : List Byte) : List (Option Nat) :=
  let pos := (List.range 64).filter (fun i => mask.testBit i)
  let vs := unpack (fmtBits f) pos.length (fromLE bs)
  (List.range 64).map (fun i => ((pos.zip vs).find? (fun e => decide (e.1 = i))).map Prod.snd)

/-- A row of mask-packed weights: `n` segments from an offset. -/
def State.gxRow (s : State) (x : Site) (code f : Nat) :
    Nat → Nat → List (Option Nat) → List (Nat × Nat × Nat) → GxRead × List (Option Nat) × List (Nat × Nat × Nat)
  | 0, _, acc, reads => (.ok [], acc, reads)
  | n + 1, off, acc, reads =>
    match s.gxRead x code off 8 with
    | .ok m =>
      let mask := fromLE m
      let len := segBytes f (popCount 64 mask)
      match s.gxRead x code (off + 8) len with
      | .ok v => State.gxRow s x code f n (off + 8 + len) (acc ++ segElems f mask v) (reads ++ [(code, off, 8 + len)])
      | e => (e, acc, reads)
    | e => (e, acc, reads)

/-- Cut a row into quads. -/
def quads : Nat → List (Option Nat) → List (List (Option Nat))
  | 0, _ => []
  | n + 1, l => l.take 4 :: quads n (l.drop 4)

/-- The entries of a quad, position and bits, in a sparse mode; none for a quad that holds too many kept values
(10 R355). -/
def quadEntries (mode : Nat) (q : List (Option Nat)) : Option (List (Nat × Nat)) :=
  let kept := (q.zipIdx).filterMap (fun e => e.1.map (fun v => (e.2, v)))
  if mode = 1 then
    match kept with
    | [] => some [(0, 0), (1, 0)]
    | [a] => some (if a.1 < 3 then [a, (3, 0)] else [(2, 0), a])
    | [a, b] => some [a, b]
    | _ => none
  else
    match kept with
    | [] => some [(0, 0)]
    | [a] => some [a]
    | _ => none

/-- The stores of one expanded row. -/
def State.gxExpandRow (s : State) (x : Site) (c : List W32) (r : Nat) (es : List (Option Nat)) :
    Option (List HeldStore) :=
  let f := gxFmt c
  let dst := gxOff c 3 + r * gxDstStride c
  if gxMode c = 0 then some [s.locStore x (gxLoc c 1) dst (packRow f (es.map (fun v => v.getD 0)))]
  else
    let qs := (quads (gxSize c / 4) es).map (quadEntries (gxMode c))
    if qs.any Option.isNone then none
    else
      let l := (qs.filterMap id).flatMap id
      some [s.locStore x (gxLoc c 1) dst (packRow f (l.map Prod.snd)),
        s.locStore x (gxLoc c 3) (gxOff c 9 + r * gxSrcStride c)
          (leBytes ((2 * l.length + 7) / 8) (packBits 2 (l.map Prod.fst)))]

/-- EXPAND: `n` rows from row `r` (10 R355). -/
def State.gxExpand (s : State) (x : Site) (c : List W32) : Nat → Nat → GxOut
  | 0, _ => .ok [] []
  | n + 1, r =>
    match s.gxRead x (gxLoc c 2) (gxOff c 4 + 4 * r) 4 with
    | .fail e => .fail e none
    | .ue b => .ue b
    | .ok o =>
      match s.gxRow x (gxLoc c 0) (gxFmt c) (gxSize c / 64) (gxOff c 2 + fromLE o * 32) [] [] with
      | (.fail e, _, _) => .fail e none
      | (.ue b, _, _) => .ue b
      | (.ok _, es, reads) =>
        match s.gxExpandRow x c r es with
        | none => .fail (Result.badIns 0) (some r)
        | some st =>
          match State.gxExpand s x c n (r + 1) with
          | .ok rest more => .ok (st ++ rest) ((gxLoc c 2, gxOff c 4 + 4 * r, 4) :: reads ++ more)
          | e => e

/-- A routing record's selections: expert and weight of each rank that counts (04 R153). -/
def recordRanks (ws : List W32) : List (Nat × W32) :=
  (List.range (min 8 (wfield ws 10 7 0))).map (fun i =>
    (field (wordAt ws (i / 4)) (8 * (i % 4) + 7) (8 * (i % 4)), wordAt ws (2 + i)))

/-- The slot of a block of selections: the index block and its weights (10 R356, 03 R103). -/
def bucketSlot (e : Nat) (sel : List (Nat × W32)) : List Byte :=
  (List.range 64).flatMap (fun r => leBytes 4 ((sel[r]?.map Prod.fst).getD 0xFFFF_FFFF))
    ++ leBytes 4 (e + sel.length * 2 ^ 16) ++ leBytes 28 0
    ++ (List.range 64).flatMap (fun r => leBytes 4 (((sel[r]?.map Prod.snd).getD 0).toNat))

/-- BUCKET (10 R356). -/
def State.gxBucket (s : State) (x : Site) (c : List W32) : GxOut :=
  let n := gxCount c
  match s.gxRead x (gxLoc c 0) (gxOff c 2) (64 * n) with
  | .fail e => .fail e none
  | .ue b => .ue b
  | .ok bs =>
    let ws := bytesWords (16 * n) bs
    let all := (List.range n).flatMap (fun t => (recordRanks (ws.drop (16 * t))).map (fun q => (t, q)))
    let cap := gxDstStride c
    let one (e : Nat) : List HeldStore :=
      let sel := (all.filter (fun q => decide (q.2.1 = e))).map (fun q => (q.1, q.2.2))
      (List.range (min cap ((sel.length + 63) / 64))).map (fun b =>
        s.locStore x (gxLoc c 1) (gxOff c 3 + 544 * (e * cap + b)) (bucketSlot e ((sel.drop (64 * b)).take 64)))
      ++ [s.locStore x (gxLoc c 2) (gxOff c 4 + 4 * e) (leBytes 4 sel.length)]
    .ok ((List.range (gxSize c)).flatMap one) [(gxLoc c 0, gxOff c 2, 64 * n)]

/-- The rows of one index block of GATHER_ROWS. -/
def State.gxGatherBlock (s : State) (x : Site) (c : List W32) (i : Nat) : List (Nat × Nat) → GxOut
  | [] => .ok [] []
  | (r, rho) :: rest =>
    match s.gxRead x (gxLoc c 0) (gxOff c 2 + rho * gxSrcStride c) (gxSize c) with
    | .fail e => .fail e none
    | .ue b => .ue b
    | .ok bs =>
      let st := s.locStore x (gxLoc c 1) (gxOff c 3 + (64 * i + r) * gxDstStride c) bs
      match s.gxGatherBlock x c i rest with
      | .ok l m => .ok (st :: l) ((gxLoc c 0, gxOff c 2 + rho * gxSrcStride c, gxSize c) :: m)
      | e => e

/-- GATHER_ROWS: `n` index blocks from block `i` (10 R357). -/
def State.gxGather (s : State) (x : Site) (c : List W32) : Nat → Nat → GxOut
  | 0, _ => .ok [] []
  | n + 1, i =>
    match s.gxRead x (gxLoc c 2) (gxOff c 4 + 544 * i) 288 with
    | .fail e => .fail e none
    | .ue b => .ue b
    | .ok bs =>
      let ws := bytesWords 72 bs
      let rows := ((indexRows ws).zipIdx).filter (fun e => decide (e.1 ≠ emptyRow))
      match s.gxGatherBlock x c i (rows.map (fun e => (e.2, e.1))) with
      | .ok l m =>
        (match State.gxGather s x c n (i + 1) with
         | .ok l' m' => .ok (l ++ l') ((gxLoc c 2, gxOff c 4 + 544 * i, 288) :: m ++ m')
         | e => e)
      | e => e

/-- The access of a store lies outside what the issuer may access. -/
def State.gxStoreFail (s : State) (x : Site) (h : HeldStore) : Option Result :=
  let off := if h.code ≤ 7 then h.addr - x.bases.getD h.code 0
    else h.addr - ledgeKey x.die (s.ledgeRegion x.issuer x.die).1
  match s.verdict x h.code off h.data.length with
  | .ok => none
  | .bad => some (Result.access off h.code)
  | .fault o => some (Result.access o h.code)

/-- A position that is no tile's: commands of the gather/expand engine and of the Rope hold their place in
program order with it. -/
def noTile : Nat := 0xFFFF

/-- A command of a running kernel takes its place in program order: its stores commit there (02 R80, 09
R335). -/
def State.gxCommand (s : State) (op kid idx : Nat) (words : List W32)
    (go : State → Site → List W32 → GxOut) : State :=
  match s.kernel kid with
  | none => s
  | some k =>
    if s.awake && decide (k.kind = .run) && k.clean idx && (k.insAt idx).isNone then
      let die := ((k.tiles.head?).map Prod.fst).getD 0
      let c := (List.range 16).map (wordAt words)
      let r := InsRec.fresh idx die noTile [] s.now
      let x := k.site die noTile
      match gxBad c with
      | some w => if gxCmd c = op ∨ gxCmd c = 0 ∨ 3 < gxCmd c then s.failIns kid r (Result.badIns w) else s
      | none =>
        if gxCmd c = op then
          match go s x c with
          | .fail e l => s.failIns kid { r with loc := l.getD idx } e
          | .ue b => s.failInsUe k r b
          | .ok st reads =>
            match st.findSome? (s.gxStoreFail x) with
            | some e => s.failIns kid r e
            | none =>
              ((s.locCorrects x reads).putIns kid { r with phase := .held, stores := st }).account k.issuer (fun a =>
                { a with stackBytes := a.stackBytes + (reads.map (fun e => stackCost e.1 e.2.2)).sum })
        else s
    else s

def expand (kid idx : Nat) (words : List W32) (s : State) : State :=
  s.gxCommand 1 kid idx words (fun t x c => t.gxExpand x c (gxCount c) 0)
def bucket (kid idx : Nat) (words : List W32) (s : State) : State :=
  s.gxCommand 2 kid idx words State.gxBucket
def gatherRows (kid idx : Nat) (words : List W32) (s : State) : State :=
  s.gxCommand 3 kid idx words (fun t x c => t.gxGather x c (gxCount c) 0)

-- The meanings.

def execRefresh (stack channel bank : Nat) (temp base : Int) (lost : List (Nat × Bool)) (s : State) : Done :=
  .next (refresh stack channel bank temp base lost s)
def execPatrolRead (block : Nat) (what : PatrolRead) (s : State) : Done := .next (patrolRead block what s)
def execExpand (k idx : Nat) (words : List W32) (s : State) : Done := .next (expand k idx words s)
def execBucket (k idx : Nat) (words : List W32) (s : State) : Done := .next (bucket k idx words s)
def execGatherRows (k idx : Nat) (words : List W32) (s : State) : Done := .next (gatherRows k idx words s)

end Sys2Proof.Machine
end

