-- ==== Sys2Proof/Machine/RopeHome.lean ====
section
/-! DEFINITION. The home of a Rope region (11 R365 to R372, R375, R379, R380, R390): the checks that a
request passes, the replay windows, what each request does to stack memory, and hot lines. -/

namespace Sys2Proof.Machine

-- Identity and membership (11 R361, R386, R398).

def State.ropePod (s : State) : Nat := s.rf aROPE 21 16
def State.ropeMember (s : State) : Nat := s.rf aROPE 8 0
/-- Device number (11 R361). -/
def State.ropeDevice (s : State) : Nat := 512 * s.ropePod + s.ropeMember
def State.podEpoch (s : State) : Nat := (s.reg (aROPE + 0x10)).toNat
def State.globalEpoch (s : State) : Nat := (s.reg (aROPE + 0x14)).toNat
/-- Member m belongs to the pod epoch. -/
def State.isMember (s : State) (m : Nat) : Bool := decide (m < 512) && s.vecBit (aROPE + 0x200) m
/-- The members of the pod epoch, in increasing number. -/
def State.members (s : State) : List Nat := (List.range 512).filter (fun m => s.isMember m)
/-- ROPE_STATUS.state. -/
def State.ropeState (s : State) : Nat := s.rf (aROPE + 8) 2 0
/-- The device itself belongs to the epoch that it holds. -/
def State.ropeIn (s : State) : Bool :=
  s.isMember s.ropeMember && decide (s.ropeState ∈ [1, 2])
/-- A Rope port is up. -/
def State.ropeUp (s : State) : Bool := decide (s.rf (aROPE + 0xC) 15 0 ≠ 0)

def State.setRope (s : State) (f : Rope → Rope) : State := { s with rope := f s.rope }

-- Regions (11 R365, R368).

def State.rgnOwner (s : State) (i : Nat) : Nat := s.rf (aRGN i) 14 8
def State.rgnBase (s : State) (i : Nat) : Nat := (s.reg (aRGN i + 4)).toNat * 4096
def State.rgnSize (s : State) (i : Nat) : Nat := (s.reg (aRGN i + 8)).toNat * 4096
def State.rgnKey (s : State) (i : Nat) : Nat := SMap.get (fun _ => 0) s.rope.keys i

/-- The issuer whose stack memory a region lies in. -/
def State.rgnPieces (s : State) (i off n : Nat) : List Range :=
  if s.rgnOwner i < 64 then s.partPieces (s.rgnOwner i) (s.rgnBase i + off) n
  else if n = 0 then [] else [(s.rgnBase i + off, n)]

/-- The absolute address of a byte of a region. -/
def State.rgnAddr (s : State) (i off : Nat) : Nat := (((s.rgnPieces i off 1).head?).map Prod.fst).getD 0

/-- The home stack of a byte of a region. -/
def State.rgnStack (s : State) (i off : Nat) : Nat := s.rgnAddr i off / s.halfBytes / 2

-- Requests.

/-- The request changes memory under the replay window and the region's generation. -/
def RopeAct.writes : RopeAct → Bool
  | .store => true
  | .atomic _ _ _ => true
  | .publish _ _ => true
  | _ => false

/-- The permission bit of RGN_CTRL (11 R368, R370). -/
def RopeAct.perm : RopeAct → Nat
  | .load => 2
  | .digest => 2
  | .store => 3
  | .publish _ _ => 3
  | .atomic _ _ _ => 4
  | .genFence _ => 5

/-- Region enabled, key equal, permission held, range inside (11 R367). -/
def State.rgnGrants (s : State) (r : RopeReq) : Bool :=
  decide (r.region < 2048) && s.rbit (aRGN r.region) 0 && decide (r.key = s.rgnKey r.region)
    && s.rbit (aRGN r.region) r.act.perm
    && decide (r.off + r.len ≤ s.rgnSize r.region)

/-- The range meets a protected weight range of the region's owner (08 R289, 11 R367). -/
def State.rgnProtected (s : State) (r : RopeReq) : Bool :=
  let p := s.rgnOwner r.region
  r.act.writes && decide (p < 64)
    && (s.protectedRanges p).any (fun e => overlaps (s.rgnBase r.region + r.off, r.len) e.2)

/-- The check of a Cairn copy: it takes only a PUBLISH from its original, and a PUBLISH goes only to a copy
(11 R367, R380). -/
def State.rgnCairn (s : State) (r : RopeReq) : Option Status :=
  let w := s.reg (aRGN r.region + 0xC)
  if s.rbit (aRGN r.region) 6 then
    match r.act with
    | .store => some .cairnWriteFault
    | .atomic _ _ _ => some .cairnWriteFault
    | .genFence _ => some .cairnWriteFault
    | .publish d o => if field w 14 0 = d ∧ field w 26 16 = o then none else some .keyFault
    | _ => none
  else
    match r.act with
    | .publish _ _ => some .keyFault
    | _ => none

/-- The region checks generations, and the request carries another (11 R390). -/
def State.rgnGenStale (s : State) (r : RopeReq) : Bool :=
  r.act.writes && s.rbit (aRGN r.region) 7 && decide (r.gen ≠ s.rf (aRGN r.region) 23 16)

/-- The sender and this home hold the same epoch, and both belong to it (11 R367, R386, R388). -/
def State.sameEpoch (s : State) (r : RopeReq) : Bool :=
  s.ropeIn && decide (r.epoch = s.podEpoch) && (decide (512 ≤ r.source) || s.isMember r.source)

/-- The first check at the home that fails (11 R367): the status, and whether it is that of the epochs. -/
def State.homeRefusal (s : State) (r : RopeReq) : Option (Status × Bool) :=
  if !(s.sameEpoch r) then some (.staleEpoch, true)
  else if !(s.rgnGrants r) then some (.keyFault, false)
  else if s.rgnProtected r then some (.keyFault, false)
  else
    match s.rgnCairn r with
    | some st => some (st, false)
    | none => if s.rgnGenStale r then some (.staleEpoch, false) else none

-- Replay windows (11 R375).

/-- Signed difference of two identifiers. -/
def idDiff (a b : Nat) : Int := signedOf 32 ((a + 2 ^ 32 - b % 2 ^ 32) % 2 ^ 32)

/-- The floor after an identifier has left: it never falls. -/
def floorAfter (floor id : Nat) : Nat :=
  if idDiff id floor < 0 then floor else (id + 1) % 2 ^ 32

/-- Entries older than 10 ms leave. -/
def ReplayWindow.age (w : ReplayWindow) (now : Nat) : ReplayWindow :=
  let old := w.entries.filter (fun e => decide (e.2.2 + 10_000_000 < now))
  { entries := w.entries.filter (fun e => !(decide (e.2.2 + 10_000_000 < now)))
    floor := old.foldl (fun f e => floorAfter f e.1) w.floor }

/-- The lowest identifier of a list of entries. -/
def lowestId : List (Nat × Nat × Nat) → Option Nat
  | [] => none
  | e :: t => match lowestId t with
    | none => some e.1
    | some i => some (if idDiff e.1 i < 0 then e.1 else i)

/-- Record an applied identifier; beyond 4,096 the lowest leaves. -/
def ReplayWindow.record (w : ReplayWindow) (id old now : Nat) : ReplayWindow :=
  let es := w.entries ++ [(id, old, now)]
  if es.length ≤ 4096 then { w with entries := es }
  else
    match lowestId es with
    | none => { w with entries := es }
    | some i => { entries := es.filter (fun e => decide (e.1 ≠ i)), floor := floorAfter w.floor i }

/-- The verdict of a window on an identifier. -/
inductive Replay where
  | fresh
  | answered (old : Nat)
  | unknown
  deriving DecidableEq, Repr

def ReplayWindow.verdict (w : ReplayWindow) (id : Nat) : Replay :=
  match w.entries.find? (fun e => decide (e.1 = id)) with
  | some e => .answered e.2.1
  | none => if idDiff id w.floor < 0 then .unknown else .fresh

def State.window (s : State) (stack source : Nat) : ReplayWindow :=
  SMap.get (fun _ => ReplayWindow.reset) s.rope.windows (576 * stack + source)
def State.setWindow (s : State) (stack source : Nat) (w : ReplayWindow) : State :=
  s.setRope (fun r => { r with
    windows := SMap.put (fun _ => ReplayWindow.reset) r.windows (576 * stack + source) w })

-- Atomics (11 R371).

/-- Operand size in bytes. -/
def atomicSize (aop : Nat) : Nat := if aop = 1 ∨ aop = 10 then 4 else 8

/-- The new value. -/
def atomicNew (aop old a b : Nat) : Nat :=
  match aop with
  | 1 => (old + a) % 2 ^ 32
  | 2 => (old + a) % 2 ^ 64
  | 3 => if signedOf 64 a < signedOf 64 old then a else old
  | 4 => if signedOf 64 old < signedOf 64 a then a else old
  | 5 => old &&& a
  | 6 => old ||| a
  | 7 => old ^^^ a
  | 8 => a
  | 9 => if old = b then a else old
  | _ => f32Bits (fadd (f32 old) (f32 (a % 2 ^ 32)))

-- Hot lines (11 R379).

/-- One more operation on the line; the first line above the threshold is recorded. -/
def State.noteOp (s : State) (r : RopeReq) : State :=
  let line := s.rgnAddr r.region r.off / 64
  let ops := (line, s.now) :: s.rope.ops.filter (fun e => decide (s.now < e.2 + 1000))
  let t := s.setRope (fun x => { x with ops := ops })
  let n := (ops.filter (fun e => decide (e.1 = line))).length
  if decide (s.rf (aROPE + 0x20) 15 0 < n) && !(s.rbit (aROPE + 0x2C) 31) then
    let off := r.off / 64 * 64
    (((t.setReg (aROPE + 0x24) (lo32 off)).setReg (aROPE + 0x28) (hi32 off)).setReg (aROPE + 0x2C)
      (lo32 (2 ^ 31 + r.region))).edge 15
  else t

-- Applying (11 R370, R373).

/-- A reply to a request. -/
def RopeReq.reply (r : RopeReq) (st : Status) (byEpoch : Bool) (data : List Byte) : RopeReply :=
  ⟨r.source, r.device, r.stack, r.id, st, byEpoch, data⟩

/-- The bytes of a range of a region. -/
def State.rgnRead (s : State) (i off n : Nat) : List Byte :=
  (s.rgnPieces i off n).flatMap (fun e => s.readMem .stack e.1 e.2)
def State.rgnWrite (s : State) (i off : Nat) (bs : List Byte) : State :=
  s.writePieces (s.rgnPieces i off bs.length) bs
/-- An uncorrectable block that the request meets: in what it reads, or in a block that it writes in part. -/
def State.rgnUe (s : State) (r : RopeReq) : Option Nat :=
  (s.rgnPieces r.region r.off r.len).findSome? (fun e =>
    match r.act with
    | .load => s.ueInRead e.1 e.2
    | .digest => s.ueInRead e.1 e.2
    | .atomic _ _ _ => s.ueInRead e.1 e.2
    | _ => s.ueInWrite e.1 e.2)

/-- The request acts on memory; the value that an atomic found, and the data of the reply. -/
def State.homeAct (s : State) (r : RopeReq) : State × Nat × List Byte :=
  match r.act with
  | .load => (s, 0, s.rgnRead r.region r.off r.len)
  | .digest => (s, 0, sha256 (s.rgnRead r.region r.off r.len))
  | .store => (s.rgnWrite r.region r.off r.data, 0, [])
  | .publish _ _ => (s.rgnWrite r.region r.off r.data, 0, [])
  | .genFence g => (s.setRf (aRGN r.region) 23 16 g, 0, [])
  | .atomic aop a b =>
    let n := atomicSize aop
    let old := fromLE (s.rgnRead r.region r.off n)
    (s.rgnWrite r.region r.off (leBytes n (atomicNew aop old a b)), old, leBytes n old)

/-- The request reads before it acts, and meets blocks that the code corrects (10 R346). -/
def State.homeReads (s : State) (r : RopeReq) : State :=
  match r.act with
  | .load | .digest | .atomic _ _ _ => s.corrects (s.rgnPieces r.region r.off r.len)
  | _ => s

/-- A request meets an uncorrectable block of its home (10 R350, 11 R399). -/
def State.homeMedia (s : State) (r : RopeReq) (b : Nat) : State × RopeReply :=
  (s.failUe b, r.reply .mediaError false [])

/-- An accepted request acts, and a write is recorded in its window: an uncorrectable block answers a media error
(11 R359, R360). -/
def State.homeCarry (s : State) (r : RopeReq) (st : Nat) (w : ReplayWindow) : State × RopeReply :=
  match s.rgnUe r with
  | some b => s.homeMedia r b
  | none =>
    let o := (s.homeReads r).homeAct r
    (if r.act.writes then o.1.setWindow st r.source (w.record r.id o.2.1 s.now) else o.1,
     r.reply .success false o.2.2)

/-- A request that its home has accepted: a store or atomic goes through the replay window (11 R375). -/
def State.homeAccepted (s : State) (r : RopeReq) : State × RopeReply :=
  let t := s.noteOp r
  let st := t.rgnStack r.region r.off
  let w := (t.window st r.source).age t.now
  if r.act.writes then
    match w.verdict r.id with
    | .fresh => (t.setWindow st r.source w).homeCarry r st w
    | .unknown => (t.setWindow st r.source w, r.reply .outcomeUnknown false [])
    | .answered old =>
      let data := match r.act with
        | .atomic aop _ _ => leBytes (atomicSize aop) old
        | _ => []
      (t.setWindow st r.source w, r.reply .success false data)
  else t.homeCarry r st w

/-- What the home makes of a request (11 R367). -/
def State.homeApply (s : State) (r : RopeReq) : State × RopeReply :=
  match s.homeRefusal r with
  | some e => (s, r.reply e.1 e.2 [])
  | none => s.homeAccepted r

/-- A message leaves over Rope. -/
def State.ropeOut (s : State) (m : RopeMsg) : State := { s with outs := .rope m :: s.outs }

-- Gateways (11 R381 to R383).

/-- Gateways of a pod. -/
def State.gateways (s : State) (pod : Nat) : List Nat := SMap.get (fun _ => []) s.rope.gateways pod

/-- This device's gateway index in its pod. -/
def State.gwIndex (s : State) : Option Nat :=
  ((s.gateways s.ropePod).zipIdx.find? (fun e => decide (e.1 = s.ropeMember))).map Prod.snd

/-- The gateway member through which traffic of this pod to another leaves (11 R382). -/
def State.gwOut (s : State) (pod : Nat) : Option Nat :=
  let g := s.gateways s.ropePod
  if g.isEmpty then none else g[pod % g.length]?

/-- The key of a source's identifiers to a home stack in a gateway's maps. -/
def relayKey (pod source device stack : Nat) : Nat := ((576 * pod + source) * 24_576 + device) * 24 + stack

/-- Mappings older than 10 ms leave, and the floors of their sources rise (11 R375, R383). -/
def State.relayAge (s : State) : State :=
  let fresh (e : Relayed) : Bool := decide (s.now ≤ e.time + 10_000_000)
  s.setRope (fun x => { x with
    relayed := x.relayed.filter fresh
    gwFloor := (x.relayed.filter (fun e => !(fresh e))).foldl (fun m e =>
      let k := relayKey e.pod e.source e.device e.stack
      SMap.put (fun _ => 0) m k (floorAfter (SMap.get (fun _ => 0) m k) e.id)) x.gwFloor })

/-- The outcome of a request that this gateway holds no mapping of is unknown: it is a store or atomic, and an earlier copy
of it went through another gateway, whose windows are lost, or through this one so long ago that the mapping has left
(11 R375, R385). -/
def State.relayLost (s : State) (pod : Nat) (r : RopeReq) : Bool :=
  r.act.writes && ((match r.under with
      | some g => decide (idDiff g s.rope.gwSince < 0)
      | none => false)
    || decide (idDiff r.id (SMap.get (fun _ => 0) s.rope.gwFloor (relayKey pod r.source r.device r.stack)) < 0))

/-- A request from a pod under the gateway's own identity and identifier, the mapping kept for 10 ms (11 R383); none
where its outcome is unknown. -/
def State.relay (s : State) (j pod : Nat) (r : RopeReq) : State × Option RopeReq :=
  let t := s.relayAge
  match t.rope.relayed.find? (fun e => decide (e.pod = pod) && decide (e.source = r.source) && decide (e.id = r.id)
      && decide (e.device = r.device) && decide (e.stack = r.stack)) with
  | some e => (t, some { r with source := 512 + j, id := e.gwId })
  | none =>
    if t.relayLost pod r then (t, none)
    else
      let k := 24 * r.device + r.stack
      let g := SMap.get (fun _ => 0) t.rope.gwNext k
      (t.setRope (fun x => { x with
          relayed := x.relayed ++ [⟨pod, r.source, r.id, r.device, r.stack, g, s.now⟩]
          gwNext := SMap.put (fun _ => 0) x.gwNext k ((g + 1) % 2 ^ 32) }),
       some { r with source := 512 + j, id := g })

/-- Payload of a request and of a reply in a chunk, and the most that a chunk carries (11 R383). -/
def chunkBytes (rs : List RopeReq) : Nat := (rs.map (fun r => max r.data.length r.len)).sum
def replyBytes (rs : List RopeReply) : Nat := (rs.map (fun r => r.data.length)).sum
def chunkMax : Nat := 262_144

/-- A chunk leaves for a pod, for the gateway through which the traffic of this pod enters there (11 R382). -/
def State.chunkOut (s : State) (pod : Nat) (reqs : List RopeReq) (reps : List RopeReply) : State :=
  s.ropeOut (.chunk ⟨s.ropePod, pod, s.ropePod % max 1 (s.gateways pod).length, s.globalEpoch, reqs, reps⟩)

/-- A reply bound for another pod joins the chunk of replies of that pod; a chunk that it would overfill leaves first
(11 R383). -/
def State.gatherReply (s : State) (pod : Nat) (rep : RopeReply) : State :=
  let c := SMap.get (fun _ => (0, [])) s.rope.replies pod
  let full := decide (chunkMax < replyBytes (c.2 ++ [rep]))
  let t := if full then s.chunkOut pod [] c.2 else s
  let c' : Nat × List RopeReply := if full || c.2.isEmpty then (s.now, [rep]) else (c.1, c.2 ++ [rep])
  t.setRope (fun y => { y with replies := SMap.put (fun _ => (0, [])) y.replies pod c' })

/-- A reply under a gateway identity of this device goes back under the original identifier: in a chunk to the pod of the
request, else in this pod (11 R383). -/
def State.sendBack (s : State) (rep : RopeReply) : State :=
  match s.rope.relayed.find? (fun e => decide (e.gwId = rep.id) && decide (e.device = rep.device)
      && decide (e.stack = rep.stack)) with
  | some e =>
    let back : RopeReply := { rep with source := e.source, id := e.id }
    if e.pod = s.ropePod then s.ropeOut (.reply back) else s.gatherReply e.pod back
  | none => s

/-- A reply of this device as home or gateway (11 R376, R383). -/
def State.sendReply (s : State) (rep : RopeReply) : State :=
  match s.gwIndex with
  | some j => if rep.source = 512 + j then s.sendBack rep else s.ropeOut (.reply rep)
  | none => s.ropeOut (.reply rep)

/-- A request bound for another pod joins the chunk of that pod; a chunk that it would overfill leaves first
(11 R383). -/
def State.gather (s : State) (j : Nat) (r : RopeReq) : State :=
  let x := s.relay j s.ropePod r
  match x.2 with
  | none => x.1.ropeOut (.reply (r.reply .outcomeUnknown false []))
  | some q =>
    let pod := r.device / 512
    let c := SMap.get (fun _ => (0, [])) x.1.rope.chunks pod
    let full := decide (chunkMax < chunkBytes (c.2 ++ [q]))
    let t := if full then x.1.chunkOut pod c.2 [] else x.1
    let c' : Nat × List RopeReq := if full || c.2.isEmpty then (s.now, [q]) else (c.1, c.2 ++ [q])
    t.setRope (fun y => { y with chunks := SMap.put (fun _ => (0, [])) y.chunks pod c' })

/-- A request of this pod reaches the gateway that relays it: it carries the epochs of the gateway, and its sender is a
member, or it is refused (11 R386, R389). -/
def State.gatewayTake (s : State) (j : Nat) (r : RopeReq) : State :=
  if s.sameEpoch r && decide (r.globalEpoch = s.globalEpoch) then s.gather j r
  else s.ropeOut (.reply (r.reply .staleEpoch true []))

/-- The home stack grants the source further credits, up to 64 in all (11 R378): how many is free (log entry 85). -/
def State.grantCredits (s : State) (r : RopeReq) : State :=
  let k := 576 * r.stack + r.source
  let had := SMap.get (fun _ => 0) s.rope.granted k
  let n := min (56 - had) (Config.creditGrant r.stack r.source had (s.rope.held.length + s.rope.waiting.length))
  if n = 0 then s
  else (s.setRope (fun x => { x with granted := SMap.put (fun _ => 0) x.granted k (had + n) })).ropeOut
    (.grant r.source r.stack n)

/-- A request reaches its home or the gateway that relays it: one that carries the epoch to come is held (11 R387 step
3). -/
def State.homeReceive (s : State) (r : RopeReq) : State :=
  if r.epoch = (s.podEpoch + 1) % 2 ^ 32 then s.setRope (fun x => { x with held := x.held ++ [r] })
  else if r.device = s.ropeDevice then
    let o := s.homeApply r
    (o.1.sendReply o.2).grantCredits r
  else
    match s.gwIndex with
    | some j => s.gatewayTake j r
    | none => s

/-- A request reaches its home in standby or on the way: it wakes the device and waits, unless the replay window
holds its answer, or the entry that it has ended leaves the device running (15 R491, R492). -/
def State.homeAsleep (s : State) (r : RopeReq) : State :=
  match (s.window r.stack r.source).verdict r.id with
  | .answered _ => s.wake.homeReceive r
  | _ => if s.wake.awake then s.wake.homeReceive r else s.wake.setRope (fun x => { x with waiting := x.waiting ++ [r] })

/-- ROPE_HOME_REQUEST: a request arrives. Its home is this device, or it is to be relayed to another pod by this
gateway (11 R367, R383). -/
def ropeHomeRequest (r : RopeReq) (s : State) : State :=
  if s.portsLive && s.ropeUp then
    if r.device = s.ropeDevice then (if s.awake then s.homeReceive r else s.homeAsleep r)
    else if s.ropeIn && decide (r.device / 512 ≠ s.ropePod) && decide (s.gwOut (r.device / 512) = some s.ropeMember) then
      s.homeReceive r
    else s
  else s

/-- REPLAY_WINDOW_AGEOUT: entries older than 10 ms leave the window of a source at a stack (11 R375). -/
def replayWindowAgeout (stack source : Nat) (s : State) : State :=
  s.setWindow stack source ((s.window stack source).age s.now)

def execRopeHomeRequest (r : RopeReq) (s : State) : Done := .next (ropeHomeRequest r s)
def execReplayWindowAgeout (stack source : Nat) (s : State) : Done :=
  .next (replayWindowAgeout stack source s)

end Sys2Proof.Machine
end

