-- ==== Sys2Proof/Machine/Rope.lean ====
section
/-! DEFINITION. Rope commands at their source (11 R366 to R376, R378, R380, R392, R399): the command's fields, its
checks, its request lines with identifiers and credits, replies, retries and timeouts; and the stores of
TV-12 (04 R156). -/

namespace Sys2Proof.Machine

-- Fields of a command (11 R369).

def rcOp (c : List W32) : Nat := wfield c 0 3 0
def rcAop (c : List W32) : Nat := wfield c 0 7 4
def rcLoc (c : List W32) : Nat := wfield c 0 11 8
def rcNoLocal (c : List W32) : Bool := bitOf (wordAt c 0) 12
def rcRegion (c : List W32) : Nat := wfield c 0 31 16
def rcOff (c : List W32) : Nat := wpair c 2
def rcLocal (c : List W32) : Nat := (wordAt c 4).toNat * 32
def rcLen (c : List W32) : Nat := (wordAt c 5).toNat

/-- Bits that the layout assigns. -/
def rcMasks : List Nat :=
  [0xFFFF_1FFF, 0xFF, m32, m32, m32, m32, m32, m32, m32, m32, 0xFFFF, 0, 0, 0, 0, 0]

/-- The command moves a length of data. -/
def rcSized (c : List W32) : Bool := decide (rcOp c ∈ [1, 2, 4, 5])

/-- The checks of a command's fields, with their words (11 R369). -/
def rcChecks (c : List W32) : List (Nat × Bool) :=
  let op := rcOp c
  [ (0, decide (1 ≤ op) && decide (op ≤ 7)),
    (0, if op = 3 then decide (1 ≤ rcAop c) && decide (rcAop c ≤ 10) else decide (rcAop c = 0)),
    (0, decide (rcLoc c ≤ 7) || decide (rcLoc c = 10)),
    (0, !(rcNoLocal c) || (decide (op ∈ [3, 6, 7]) && decide (rcLoc c = 0))),
    (2, if rcSized c then decide (rcOff c % 64 = 0)
        else if op = 3 then decide (rcOff c % atomicSize (rcAop c) = 0) else true),
    (5, if rcSized c then decide (rcLen c % 64 = 0) && decide (64 ≤ rcLen c) && decide (rcLen c ≤ 16_777_216)
          && (decide (op ≠ 1) || decide (rcLoc c ≠ 10) || decide (rcLen c ≤ 16_384))
        else decide (rcLen c = 0)) ]

/-- The lowest word that fails. -/
def rcBad (c : List W32) : Option Nat := firstOf (reservedFail rcMasks c) (firstFail (rcChecks c))

/-- Bytes of local data and whether the command writes them: LOAD, ATOMIC and DIGEST write, STORE reads. -/
def rcLocalBytes (c : List W32) : Nat :=
  match rcOp c with
  | 1 => rcLen c
  | 2 => rcLen c
  | 3 => if rcNoLocal c then 0 else atomicSize (rcAop c)
  | 5 => 32
  | _ => 0

-- Key tables (11 R366, R391).

/-- An uncorrectable block in entry n of a context's key table. -/
def State.keyUe (s : State) (p c n : Nat) : Option Nat :=
  if n < s.keyCount p c then s.issuerUeRead (some (p, c)) ((s.keyRange p c).1 + 16 * n) 16 else none

/-- The words of entry n of a context's key table; none of them are delivered from an uncorrectable block (10
R350). -/
def State.keyEntry (s : State) (p c n : Nat) : List W32 :=
  if (s.keyUe p c n).isSome then List.replicate 4 0
  else bytesWords 4 (s.issuerRead (some (p, c)) ((s.keyRange p c).1 + 16 * n) 16)

/-- The region number names a valid entry. -/
def State.keyValid (s : State) (p c n : Nat) : Bool :=
  decide (n < s.keyCount p c) && bitOf (wordAt (s.keyEntry p c n) 0) 15

/-- The target of a key table entry. -/
structure RopeTarget where
  device : Nat
  region : Nat
  key : Nat
  deriving DecidableEq, Repr

def State.keyTarget (s : State) (p c n : Nat) : RopeTarget :=
  let e := s.keyEntry p c n
  ⟨wfield e 0 14 0, wfield e 0 26 16, wpair e 2⟩

/-- The epoch that this device holds leaves the target in; members of other pods are known there (11 R367, R386). -/
def State.targetKnown (s : State) (device : Nat) : Bool :=
  decide (device / 512 ≠ s.ropePod) || s.isMember (device % 512)

/-- The target device belongs to the epoch of this device, and so does this device itself. -/
def State.targetIn (s : State) (device : Nat) : Bool := s.ropeIn && s.targetKnown device

-- Commands and lines.

/-- Where the local data of a command lie. -/
def RopeCmd.site (c : RopeCmd) : Site := ⟨some (c.part, c.ctx), c.bases, c.die, noTile⟩

def State.mapCmds (s : State) (f : RopeCmd → RopeCmd) : State :=
  s.setRope (fun r => { r with cmds := r.cmds.map f })

def State.updCmd (s : State) (seq : Nat) (f : RopeCmd → RopeCmd) : State :=
  s.mapCmds (fun c => if c.seq = seq then f c else c)

def RopeCmd.updLine (c : RopeCmd) (seq : Nat) (f : RopeLine → RopeLine) : RopeCmd :=
  { c with lines := c.lines.map (fun l => if l.seq = seq then f l else l) }

/-- Every line that is not acknowledged, with its command. -/
def State.ropeLines (s : State) : List (RopeCmd × RopeLine) :=
  s.rope.cmds.flatMap (fun c => c.lines.map (fun l => (c, l)))

/-- The detail of a Rope status (09 R336). -/
def RopeCmd.detail (c : RopeCmd) (st : Status) (id off : Nat) : Result :=
  { status := st, d4 := lo32 id, d5 := lo32 (c.device % 2 ^ 16 + c.ctxRegion * 2 ^ 16), d6 := lo32 off,
    d7 := hi32 off }

/-- The command fails: its other lines are given up, and their replies will be discarded. A TV-12 instruction
fails with it (04 R156). -/
def State.failCmd (s : State) (c : RopeCmd) (r : Result) : State :=
  if c.peer then
    let t := s.keepCmds (fun k => decide (k.seq ≠ c.seq))
    match (t.kernel c.kernel).bind (fun k => k.insAt c.idx) with
    | some i => t.failIns c.kernel i r
    | none => t
  else s.updCmd c.seq (fun k => { k with fail := some (r.at' c.kidx c.idx), lines := [] })

/-- A line is acknowledged. -/
def State.ackLine (s : State) (c : RopeCmd) (l : RopeLine) : State :=
  s.updCmd c.seq (fun k => { k with lines := k.lines.filter (fun x => decide (x.seq ≠ l.seq)) })

/-- The request of a line as it leaves. -/
def State.lineReq (s : State) (c : RopeCmd) (l : RopeLine) : RopeReq :=
  { source := s.ropeMember, origin := s.ropeDevice, epoch := s.podEpoch, globalEpoch := s.globalEpoch, under := l.under,
    device := c.device, region := c.region, key := c.key, gen := c.gen, off := l.off, len := l.len, act := l.act, data := l.data, id := l.id,
    stack := l.stack }

-- Replies (11 R373, R376, R392).

/-- Data of a reply land in local memory, or for the ledge buffer of a saved context in its slot (11 R392). -/
def State.landData (s : State) (c : RopeCmd) (l : RopeLine) (data : List Byte) : State :=
  match c.local' with
  | none => s.ackLine c l
  | some (code, off) =>
    let o := if l.act = .load then off + (l.off - c.off) else off
    if data.isEmpty then s.ackLine c l
    else if c.saved && decide (code = 10) then
      (s.ackLine c l).updCmd c.seq (fun k => { k with slot := k.slot ++ [(o, data)] })
    else
      let h := s.locStore c.site code o data
      match s.storesFail c.site.issuer [h] with
      | some e => (s.noteFail e.2).failCmd c e.1
      | none => (s.applyStores c.site.issuer [h]).ackLine c l

/-- The first reply to a line (11 R376). One that the epochs refused is sent again under the next epoch while
this device and the target belong to it (11 R387 step 5, R389). -/
def State.answer (s : State) (c : RopeCmd) (l : RopeLine) (rep : RopeReply) : State :=
  match rep.status with
  | .success => s.landData c l rep.data
  | st =>
    if decide (st = .staleEpoch) && rep.byEpoch && s.targetIn c.device && decide (c.device ≠ s.ropeDevice) then
      s.updCmd c.seq (fun k => k.updLine l.seq (fun x => { x with sent := none, stale := true }))
    else s.failCmd c (c.detail st l.id l.off)

-- What completion lets go on (11 R370, R374).

/-- The job of a kernel ends with the result of a command that failed. -/
def State.failJob (s : State) (k : Kernel) (f : Result) : State :=
  let t := (s.dropKernel k.id).concludeJob k.ring k.desc k.issuer f
  match k.part with
  | some p => t.maybeSave p
  | none => t

/-- A FENCE whose earlier commands are complete ends, with the failure of one of its job if there is one. -/
def State.settleFence (s : State) (k : Kernel) (r : InsRec) : State :=
  let mine := s.rope.cmds.filter (fun c => decide (some c.part = k.part) && decide (c.ctx = k.ctx)
    && decide (c.seq < r.outstanding))
  if mine.any RopeCmd.live then s
  else
    match (mine.filter (fun c => decide (c.ring = k.ring) && decide (c.desc = k.desc))).findSome? RopeCmd.fail with
    | some f => s.failJob k f
    | none => s.putIns k.id { r with phase := .held }

/-- The stores of a TV-12 instruction are acknowledged. -/
def State.settlePeer (s : State) (c : RopeCmd) : State :=
  match (s.kernel c.kernel).bind (fun k => k.insAt c.idx) with
  | some i => if i.phase = .sending ∨ i.phase = .sendingHeader then
      s.putIns c.kernel { i with outstanding := 0 } else s
  | none => s

/-- The job of a command has ended, or its descriptor is gone. -/
def State.jobOver (s : State) (c : RopeCmd) : Bool :=
  !((s.ring c.ring).descs.any (fun d => decide (d.idx = c.desc) && !d.done))

/-- Commands that are complete leave, and what waited for them goes on. -/
def State.settleRope (s : State) : State :=
  let overs := s.rope.cmds.filter (fun c => !c.live)
  let t := (overs.filter (fun c => c.peer)).foldl State.settlePeer s
  let u := t.keepCmds (fun c => c.live || c.fail.isSome)
  let v := u.kernels.foldl (fun v k =>
    (k.ins.filter (fun r => decide (r.phase = .ropeFence))).foldl (fun v r => v.settleFence k r) v) u
  let w := overs.foldl (fun w c => w.settleJob c.ring c.desc (some (c.part, c.ctx))) v
  w.keepCmds (fun c => c.live || !(w.jobOver c))

-- Sending (11 R362, R363, R373, R378, R380).

/-- A line is a store or atomic to the same line of memory as another. -/
def sameLine (a b : RopeCmd × RopeLine) : Bool :=
  decide (a.1.device = b.1.device) && decide (a.1.region = b.1.region) && decide (a.2.off / 64 = b.2.off / 64)

/-- An earlier line holds this one back: a store or atomic to the same line that is not acknowledged, or the line
before it of a PUBLISH. -/
def State.heldBack (s : State) (e : RopeCmd × RopeLine) : Bool :=
  e.2.act.writes && s.ropeLines.any (fun f => decide (f.2.seq < e.2.seq) && f.2.act.writes
    && (sameLine e f || (decide (f.1.seq = e.1.seq)
      && (match e.2.act with | .publish _ _ => true | _ => false))))

/-- Credits of this source for a home stack. -/
def State.credits (s : State) (device stack : Nat) : Nat :=
  SMap.get (fun _ => 8) s.rope.credits (24 * device + stack)

/-- Requests that hold a credit for the home stack: those of a saved context have returned theirs. -/
def State.creditsUsed (s : State) (device stack : Nat) : Nat :=
  (s.ropeLines.filter (fun e => decide (e.1.device = device) && decide (e.2.stack = stack) && e.2.sent.isSome
    && !e.1.saved)).length

/-- Payload of a line towards the home and from it. -/
def RopeLine.payload (l : RopeLine) : Nat × Nat :=
  match l.act with
  | .load => (0, l.len)
  | .store => (l.data.length, 0)
  | .publish _ _ => (l.data.length, 0)
  | .atomic aop _ _ => (atomicSize aop, atomicSize aop)
  | .digest => (0, 32)
  | .genFence _ => (0, 0)

/-- Both directions of the partition's Rope bucket let a payload pass. -/
def State.ropeShare (s : State) (p : Nat) (b : Nat × Nat) : Option State :=
  let one (t : State) (out : Bool) (n : Nat) : Option State := if n = 0 then some t else t.takeShare p .rope out n n
  (one s true b.1).bind (fun t => one t false b.2)

/-- A request leaves for its home in this pod, or by way of the outgoing gateway for another (11 R382, R383). -/
def State.sendReq (s : State) (r : RopeReq) : State :=
  let pod := r.device / 512
  if pod = s.ropePod then s.ropeOut (.request r none)
  else
    match s.gwOut pod, s.gwIndex with
    | some m, some j => if m = s.ropeMember then s.gather j r else s.ropeOut (.request r (some m))
    | some m, none => s.ropeOut (.request r (some m))
    | none, _ => s

/-- A line that has a path and a credit leaves for its remote home, its payload metered and counted once. -/
def State.sendRemote (s : State) (c : RopeCmd) (l : RopeLine) : Option State :=
  let pod := c.device / 512
  let far := decide (pod ≠ s.ropePod)
  if s.ropeUp && decide (s.creditsUsed c.device l.stack < s.credits c.device l.stack)
      && (!far || (s.gwOut pod).isSome) then
    let b := l.payload
    let metered := if l.stale then some s else
      (s.ropeShare c.part b).map (fun t => t.account (some (c.part, c.ctx)) (fun a =>
        { a with ropeTx := a.ropeTx + b.1, ropeRx := a.ropeRx + b.2 }))
    metered.map (fun t =>
      let u := t.updCmd c.seq (fun k => k.updLine l.seq (fun x =>
        { x with sent := some t.now, epoch := t.podEpoch, globalEpoch := t.globalEpoch, stale := false }))
      u.sendReq (t.lineReq c l))
  else none

/-- A line that may leave now leaves; one homed on this device is applied at once. -/
def State.trySend (s : State) (e : RopeCmd × RopeLine) : Option State :=
  let c := e.1
  let l := e.2
  if l.sent.isSome || s.heldBack e || (l.stale && decide (l.epoch = s.podEpoch) && decide (l.globalEpoch = s.globalEpoch)) then none
  else if !(s.targetKnown c.device) then some (s.failCmd c (c.detail .staleEpoch l.id l.off))
  else if c.device = s.ropeDevice then
    let o := s.homeApply (s.lineReq c l)
    some (o.1.answer c l o.2)
  else s.sendRemote c l

/-- Send what may leave, at most `n` lines. -/
def State.pump : Nat → State → State
  | 0, s => s
  | n + 1, s =>
    match s.ropeLines.findSome? s.trySend with
    | some t => State.pump n t
    | none => s

/-- Send what may leave, and let go on what waited. -/
def State.ropeGo (s : State) : State :=
  if s.awake then (State.pump s.ropeLines.length s).settleRope else s

-- Issue (11 R366 to R370, R374).

/-- Give each line the next identifier of its home stack. -/
def State.numberLines (s : State) (device : Nat) (ls : List RopeLine) : State × List RopeLine :=
  ls.foldl (fun (acc : State × List RopeLine) l =>
    let k := 24 * device + l.stack
    let t := acc.1
    let id := SMap.get (fun _ => 0) t.rope.nextId k
    (t.setRope (fun r => { r with
        nextSeq := r.nextSeq + 1, nextId := SMap.put (fun _ => 0) r.nextId k ((id + 1) % 2 ^ 32) }),
      acc.2 ++ [{ l with seq := t.rope.nextSeq, id := id }])) (s, [])

/-- The home stack of an offset: known here for a region of this device, else as its home gives it. -/
def State.lineStack (s : State) (t : RopeTarget) (h : RopeHomes) (off : Nat) : Nat :=
  if t.device = s.ropeDevice then s.rgnStack t.region off else if off < h.cut then h.first else h.next

def RopeLine.fresh (stack off len : Nat) (act : RopeAct) (data : List Byte) : RopeLine :=
  ⟨0, 0, stack, off, len, act, data, none, 0, 0, none, false⟩

/-- A command takes its place in program order and is outstanding. -/
def State.addCmd (s : State) (k : Kernel) (p idx : Nat) (c : List W32) (t : RopeTarget) (ls : List RopeLine)
    (fail : Option Result) (peer : Bool) : State :=
  let die := ((k.tiles.head?).map Prod.fst).getD 0
  let n := s.numberLines t.device ls
  let cmd : RopeCmd :=
    { seq := n.1.rope.nextSeq, part := p, ctx := k.ctx, ring := k.ring, desc := k.desc, kernel := k.id,
      kidx := k.kidx, idx := idx, peer := peer, device := t.device, region := t.region, key := t.key,
      ctxRegion := rcRegion c, gen := wfield c 1 7 0, off := rcOff c, bases := k.bases, die := die,
      local' := if rcLocalBytes c = 0 ∨ rcOp c = 2 then none else some (rcLoc c, rcLocal c), first := s.now,
      lines := n.2, fail := fail, saved := false, slot := [] }
  let y := n.1.ctx p k.ctx
  (n.1.setCtx p k.ctx { y with creditsReturned := false }).setRope (fun r => { r with
    nextSeq := r.nextSeq + 1, cmds := r.cmds ++ [cmd] })

/-- The outcome of a command's checks at its source: its lines, or how it fails. -/
inductive RopeOut where
  | lines (t : RopeTarget) (ls : List RopeLine)
  | fail (t : RopeTarget) (r : Result)
  | media (t : RopeTarget) (m : Media) (r : Result)
  deriving DecidableEq, Repr

/-- The detail of a command that fails before any of its lines is numbered: the identifier is the one that its first
line would take. -/
def State.rcDetail (s : State) (c : List W32) (t : RopeTarget) (h : RopeHomes) (st : Status) : Result :=
  let id := SMap.get (fun _ => 0) s.rope.nextId (24 * t.device + s.lineStack t h (rcOff c))
  { status := st, d4 := lo32 id, d5 := lo32 (t.device % 2 ^ 16 + rcRegion c * 2 ^ 16), d6 := lo32 (rcOff c),
    d7 := hi32 (rcOff c) }

/-- The failure of a command at its source. -/
def State.rcFail (s : State) (c : List W32) (t : RopeTarget) (h : RopeHomes) (st : Status) : RopeOut :=
  .fail t (s.rcDetail c t h st)

/-- Whole lines of a range of a region, their data cut from a list. -/
def State.wholeLines (s : State) (t : RopeTarget) (h : RopeHomes) (act : RopeAct) (off n : Nat)
    (data : List Byte) : List RopeLine :=
  (List.range (n / 64)).map (fun i =>
    RopeLine.fresh (s.lineStack t h (off + 64 * i)) (off + 64 * i) 64 act ((data.drop (64 * i)).take 64))

/-- PUBLISH reads its lines from the original on this device, whose owner must be the issuer's partition (11 R370,
R380). -/
def State.publishLines (s : State) (p ctx : Nat) (c : List W32) (t : RopeTarget) (h : RopeHomes) : RopeOut :=
  let n := wfield c 10 15 0
  let off := rcOff c
  let len := rcLen c
  if !(s.keyValid p ctx n) then s.rcFail c t h .keyFault
  else
    let o : RopeReq :=
      { source := s.ropeMember, origin := s.ropeDevice, epoch := s.podEpoch, globalEpoch := s.globalEpoch, under := none,
        device := t.device, region := t.region, key := t.key, gen := 0, off := off, len := len, act := .store, data := [], id := 0, stack := 0 }
    if decide (t.device ≠ s.ropeDevice) || !(s.rgnGrants o) || decide (s.rgnOwner t.region ≠ p) then
      s.rcFail c t h .keyFault
    else
      let copy := s.keyTarget p ctx n
      if !(s.targetIn copy.device) then s.rcFail c copy h .staleEpoch
      else
        match (s.rgnPieces t.region off len).findSome? (fun e => s.ueInRead e.1 e.2) with
        | some b => .media copy (.block b) (s.mediaOf (some p) (.block b))
        | none => .lines copy (s.wholeLines copy h (.publish s.ropeDevice t.region) off len (s.rgnRead t.region off len))

/-- The request lines of a command whose source checks pass. -/
def State.rcLines (s : State) (x : Site) (p ctx : Nat) (c : List W32) (t : RopeTarget) (h : RopeHomes) : RopeOut :=
  let off := rcOff c
  let st := s.lineStack t h off
  match rcOp c with
  | 1 => .lines t (s.wholeLines t h .load off (rcLen c) [])
  | 2 =>
    match s.locUe x (rcLoc c) (rcLocal c) (rcLen c) with
    | some b => .media t b (s.mediaOf (some p) b)
    | none => .lines t (s.wholeLines t h .store off (rcLen c) (s.locRead x (rcLoc c) (rcLocal c) (rcLen c)))
  | 3 => .lines t [RopeLine.fresh st off (atomicSize (rcAop c)) (.atomic (rcAop c) (wpair c 6) (wpair c 8)) []]
  | 4 => s.publishLines p ctx c t h
  | 5 => .lines t [RopeLine.fresh st off (rcLen c) .digest []]
  | _ => .lines t [RopeLine.fresh st 0 0 (.genFence (wfield c 6 7 0)) []]

/-- The checks of a command at its source, in order (11 R362, R367). -/
def State.rcStart (s : State) (x : Site) (p ctx : Nat) (c : List W32) (h : RopeHomes) : RopeOut :=
  let t : RopeTarget := if rcRegion c < s.keyCount p ctx then s.keyTarget p ctx (rcRegion c) else ⟨0, 0, 0⟩
  if !s.ropeUp then s.rcFail c t h .ropeLinkDown
  else
    match s.verdict x (rcLoc c) (rcLocal c) (rcLocalBytes c) with
    | .ok =>
      match s.keyUe p ctx (rcRegion c) with
      | some b => .media t (.block b) (s.rcDetail c t h .mediaError)
      | none =>
        if !(s.keyValid p ctx (rcRegion c)) then s.rcFail c t h .keyFault
        else if !(s.targetIn t.device) then s.rcFail c t h .staleEpoch
        else s.rcLines x p ctx c t h
    | .bad => .fail t (Result.access (rcLocal c) (rcLoc c))
    | .fault o => .fail t (Result.access o (rcLoc c))

/-- A STORE reads its data, and a PUBLISH the lines of its original, where the code may correct blocks (10 R346). -/
def State.rcReads (s : State) (x : Site) (p ctx : Nat) (c : List W32) : State :=
  match rcOp c with
  | 2 => s.locCorrects x [(rcLoc c, rcLocal c, rcLen c)]
  | 4 => s.corrects (s.rgnPieces (s.keyTarget p ctx (rcRegion c)).region (rcOff c) (rcLen c))
  | _ => s

/-- Commands of a context that are outstanding (11 R374). -/
def State.ropeBusy (s : State) (p ctx : Nat) : Nat :=
  (s.rope.cmds.filter (fun c => decide (c.part = p) && decide (c.ctx = ctx) && !c.peer && c.live)).length

/-- The command that a row of the table issues; `op` and `aop` are the row's. A malformed command whose
operation is no row's is issued by any. -/
def State.ropeIssue (s : State) (op aop kid idx : Nat) (words : List W32) (h : RopeHomes) : State :=
  match s.kernel kid with
  | none => s
  | some k =>
    match k.part with
    | none => s
    | some p =>
      let c := (List.range 16).map (wordAt words)
      let known := decide (1 ≤ rcOp c) && decide (rcOp c ≤ 7)
      let mine := decide (rcOp c = op) && (decide (op ≠ 3) || decide (rcAop c = aop)
        || decide (rcAop c = 0) || decide (10 < rcAop c))
      if s.awake && decide (k.kind = .run) && k.clean idx && k.committedTo idx && (k.insAt idx).isNone
          && decide (s.ropeBusy p k.ctx < 256) && (mine || !known) then
        let die := ((k.tiles.head?).map Prod.fst).getD 0
        let x := k.site die noTile
        let r : InsRec := { InsRec.fresh idx die noTile [] s.now with phase := .held }
        let failed (t : State) (g : RopeTarget) (e : Result) : State :=
          ((t.putIns kid r).addCmd k p idx c g [] (some (e.at' k.kidx idx)) false).settleRope
        match rcBad c with
        | some w => failed s ⟨0, 0, 0⟩ (Result.badIns w)
        | none =>
          if op = 7 then
            if s.ropeUp then
              (s.putIns kid { r with phase := .ropeFence, outstanding := s.rope.nextSeq }).settleRope
            else
              failed s ⟨0, 0, 0⟩ (s.rcDetail c ⟨0, 0, 0⟩ h .ropeLinkDown)
          else
            match s.rcStart x p k.ctx c h with
            | .fail g e => failed s g e
            | .media g b e => failed (s.failMedia b) g e
            | .lines g ls =>
              let s := s.rcReads x p k.ctx c
              let t := if rcOp c = 2 then s.account (some (p, k.ctx)) (fun a =>
                { a with stackBytes := a.stackBytes + stackCost (rcLoc c) (rcLen c) }) else s
              ((t.putIns kid r).addCmd k p idx c g ls none false).ropeGo
      else s

-- TV-12 (04 R155, R156).

/-- Cut a byte range into pieces of lines: offset and bytes of each. -/
def linePieces : Nat → Nat → List Byte → List (Nat × List Byte)
  | 0, _, _ => []
  | n + 1, off, bs =>
    if bs.isEmpty then []
    else
      let k := 64 - off % 64
      (off, bs.take k) :: linePieces n (off + k) (bs.drop k)

/-- The slot's byte offset in its region: number rank of the array. -/
def peerSlot (b : List W32) : Nat := (cbParam b 1 + 2 ^ 32 * cbParam b 2 + 16416 * wfield b 15 7 0)

/-- The header of a slot. -/
def peerHeader (w : Mi) (b : List W32) : List Byte :=
  leBytes 4 (1 + miGenOut w * 2 ^ 16)
  ++ leBytes 4 (wfield b 15 7 0 + (if miKind w = .i32 then 2 ^ 8 else 0) + miM w * 2 ^ 16 + miN w * 2 ^ 24)
  ++ leBytes 24 0

/-- The payload: 64 rows of 64 values, zero outside the block. -/
def peerPayload (w : Mi) (vals : List FVal) : List Byte :=
  let word (v : FVal) : Nat := if miKind w = .i32 then wrapOf 32 v.toInt else f32Bits v
  (List.range 64).flatMap (fun r =>
    let row := if r < miM w then rowOf (miN w) vals r else []
    row.flatMap (fun v => leBytes 4 (word v)) ++ leBytes (4 * (64 - row.length)) 0)

/-- The command words that name the slot's region and generation. -/
def peerWords (w : Mi) (b : List W32) (off : Nat) : List W32 :=
  [lo32 (2 + cbParam b 0 % 2 ^ 16 * 2 ^ 16), lo32 (miGenOut w), lo32 off, hi32 off]

/-- Store bytes of a slot over Rope: the source checks, then the lines (04 R156, 11 R367). DESIGN CHOICE, log entry 84: a
slot on this device is refused too while no Rope port is up, as every new Rope command is (11 R362). -/
def State.peerStore (s : State) (k : Kernel) (p : Nat) (r : InsRec) (off : Nat) (bs : List Byte)
    (h : RopeHomes) : State :=
  let n := cbParam r.chain 0 % 2 ^ 16
  let c := peerWords r.words r.chain off
  let t : RopeTarget := if n < s.keyCount p k.ctx then s.keyTarget p k.ctx n else ⟨0, 0, 0⟩
  let stop (st : Status) : State := s.failIns k.id r (s.rcDetail c t h st)
  if !s.ropeUp then stop .ropeLinkDown
  else if (s.keyUe p k.ctx n).isSome then
    ((s.keyUe p k.ctx n).elim s s.failUe).failIns k.id r (s.rcDetail c t h .mediaError)
  else if !(s.keyValid p k.ctx n) then stop .keyFault
  else if !(s.targetIn t.device) then stop .staleEpoch
  else
    let ls := (linePieces (bs.length / 64 + 2) off bs).map (fun e =>
      RopeLine.fresh (s.lineStack t h e.1) e.1 e.2.length .store e.2)
    ((s.keepCmds (fun q => !(q.peer && decide (q.kernel = k.id) && decide (q.idx = r.idx)))).addCmd
      k p r.idx c t ls none true).ropeGo

/-- The accepted block of a TV-12 instruction is sent once every earlier instruction has committed (04 R156 steps
1 and 2). DESIGN CHOICE, log entry 84: a masked row inside the block carries its accumulators, which are zero, and with a
split what the partial buffer holds there added to them. -/
def State.peerSend (s : State) (k : Kernel) (r : InsRec) (h : RopeHomes) : State :=
  match k.part with
  | none => s.failIns k.id r { status := .keyFault }
  | some p =>
    if k.committedTo r.idx then
      let x := k.site r.die r.tile
      match s.epilogueUe x r with
      | some b => s.failInsUe k r b
      | none =>
        let v := s.total x r
        let split := if miSplit r.words then
            [s.locStore x (miCode r.words .partialBuf) (miOff r.words .partialBuf)
              (leBytes 4 (miSplitCnt r.words + 256 * miGenOut r.words))]
          else []
        let q : InsRec := { r with phase := .sending, outstanding := 1, stores := s.ckStores x r ++ split }
        (s.putIns k.id q).peerStore k p q (peerSlot r.chain + 32) (peerPayload r.words v.1) h
    else s

/-- PEER_SEND: the drained block of a TV-12 instruction passes its comparison and leaves for its slot (04 R156). -/
def peerSendRow (kid idx : Nat) (flips : List CellFlip) (h : RopeHomes) (s : State) : State :=
  match s.recIn kid idx .drained with
  | none => s
  | some (k, r) =>
    if decide (miChain r.words = 13) && k.epilogueFree r then
      let t := if r.accRe.isEmpty then
          (match State.acceptRun k flips 2 s r with
           | .stop u => u
           | .mismatch u => u.failIns kid r (Result.of .checksumMismatch)
           | .ok u r' => u.afterRun k r' flips)
        else s
      match t.recIn kid idx .drained with
      | some (k', r') => if r'.accRe.isEmpty then t else t.peerSend k' r' h
      | none => t
    else s

/-- PEER_SEND_PAYLOAD_ACKED: every payload store is acknowledged: the header is stored (04 R156 step 3). -/
def peerSendPayloadAcked (kid idx : Nat) (h : RopeHomes) (s : State) : State :=
  match s.recIn kid idx .sending with
  | none => s
  | some (k, r) =>
    match k.part with
    | none => s
    | some p =>
      if r.outstanding = 0 then
        let q : InsRec := { r with phase := .sendingHeader, outstanding := 1 }
        (s.putIns kid q).peerStore k p q (peerSlot r.chain) (peerHeader r.words r.chain) h
      else s

/-- PEER_SEND_COMMIT: the header store is acknowledged: the instruction commits (04 R156 step 4). -/
def peerSendCommit (kid idx : Nat) (last : Bool) (s : State) : State :=
  match s.recIn kid idx .sendingHeader with
  | none => s
  | some (k, r) => if r.outstanding = 0 then s.commitIns k r last else s

-- Replies, retries and timeouts (11 R376, R378, R392).

/-- The line that carries an identifier to a home stack. -/
def State.lineOf (s : State) (device stack id : Nat) : Option (RopeCmd × RopeLine) :=
  s.ropeLines.find? (fun e => decide (e.1.device = device) && decide (e.2.stack = stack) && decide (e.2.id = id))

/-- A reply to a request of this device: the first answers its line, later ones find none (11 R376). -/
def State.replyOwn (s : State) (rep : RopeReply) : State :=
  match s.lineOf rep.device rep.stack rep.id with
  | none => s
  | some (c, l) => if l.sent.isSome then (s.answer c l rep).ropeGo else s

/-- ROPE_REPLY: a reply arrives, for this device or for a request that it relayed (11 R376, R383). -/
def ropeReply (rep : RopeReply) (s : State) : State :=
  if s.awake then
    if rep.source = s.ropeMember then s.replyOwn rep
    else
      match s.gwIndex with
      | none => s
      | some j =>
        if rep.source = 512 + j then
          match s.rope.relayed.find? (fun e => decide (e.gwId = rep.id) && decide (e.device = rep.device)
              && decide (e.stack = rep.stack)) with
          | none => s
          | some e =>
            if e.pod = s.ropePod ∧ e.source = s.ropeMember then s.replyOwn { rep with source := e.source, id := e.id }
            else s.sendBack rep
        else s
  else s

/-- ROPE_RETRY: a request without a reply for 100 µs is sent again with its identifier (11 R376); one whose target
has left the epoch ends with STALE_EPOCH (11 R387 step 4). -/
def ropeRetry (device stack id : Nat) (s : State) : State :=
  if s.awake then
    match s.lineOf device stack id with
    | none => s
    | some (c, l) =>
      match l.sent with
      | none => s.ropeGo
      | some t =>
        if t + 100_000 ≤ s.now then
          if s.targetKnown device then
            let l' : RopeLine := { l with
              sent := some s.now, epoch := s.podEpoch, globalEpoch := s.globalEpoch
              under := some (l.under.getD l.globalEpoch) }
            let u := s.updCmd c.seq (fun k => k.updLine l.seq (fun _ => l'))
            if s.ropeUp then u.sendReq (s.lineReq c l') else u
          else (s.failCmd c (c.detail .staleEpoch l.id l.off)).ropeGo
        else s
  else s

/-- REMOTE_TIMEOUT: 50 ms after first issue a request without a reply ends its command (11 R376, R392 step 4). -/
def remoteTimeout (device stack id : Nat) (s : State) : State :=
  match s.lineOf device stack id with
  | none => s
  | some (c, l) =>
    if c.first + 50_000_000 ≤ s.now then (s.failCmd c (c.detail .remoteTimeout l.id l.off)).ropeGo else s

/-- ROPE_CREDIT_GRANT: a home stack grants credits, up to 64 in all, and waiting requests are sent (11 R378). -/
def ropeCreditGrant (device stack n : Nat) (s : State) : State :=
  if s.awake then
    (s.setRope (fun r => { r with
      credits := SMap.put (fun _ => 8) r.credits (24 * device + stack) (min 64 (s.credits device stack + n)) })).ropeGo
  else s

-- The meanings.

def execPeerSend (k idx : Nat) (flips : List CellFlip) (h : RopeHomes) (s : State) : Done :=
  .next (peerSendRow k idx flips h s)
def execPeerSendPayloadAcked (k idx : Nat) (h : RopeHomes) (s : State) : Done :=
  .next (peerSendPayloadAcked k idx h s)
def execPeerSendCommit (k idx : Nat) (last : Bool) (s : State) : Done := .next (peerSendCommit k idx last s)
/-- ROPE_LOAD (11 R370). -/
def execRopeLoad (k idx : Nat) (words : List W32) (h : RopeHomes) (s : State) : Done :=
  .next (s.ropeIssue 1 0 k idx words h)
/-- ROPE_STORE (11 R370). -/
def execRopeStore (k idx : Nat) (words : List W32) (h : RopeHomes) (s : State) : Done :=
  .next (s.ropeIssue 2 0 k idx words h)
-- Atomics (11 R371).
def execAddI32 (k idx : Nat) (words : List W32) (h : RopeHomes) (s : State) : Done :=
  .next (s.ropeIssue 3 1 k idx words h)
def execAddI64 (k idx : Nat) (words : List W32) (h : RopeHomes) (s : State) : Done :=
  .next (s.ropeIssue 3 2 k idx words h)
def execMinI64 (k idx : Nat) (words : List W32) (h : RopeHomes) (s : State) : Done :=
  .next (s.ropeIssue 3 3 k idx words h)
def execMaxI64 (k idx : Nat) (words : List W32) (h : RopeHomes) (s : State) : Done :=
  .next (s.ropeIssue 3 4 k idx words h)
def execAnd64 (k idx : Nat) (words : List W32) (h : RopeHomes) (s : State) : Done :=
  .next (s.ropeIssue 3 5 k idx words h)
def execOr64 (k idx : Nat) (words : List W32) (h : RopeHomes) (s : State) : Done :=
  .next (s.ropeIssue 3 6 k idx words h)
def execXor64 (k idx : Nat) (words : List W32) (h : RopeHomes) (s : State) : Done :=
  .next (s.ropeIssue 3 7 k idx words h)
def execSwap64 (k idx : Nat) (words : List W32) (h : RopeHomes) (s : State) : Done :=
  .next (s.ropeIssue 3 8 k idx words h)
def execCas64 (k idx : Nat) (words : List W32) (h : RopeHomes) (s : State) : Done :=
  .next (s.ropeIssue 3 9 k idx words h)
def execAddF32 (k idx : Nat) (words : List W32) (h : RopeHomes) (s : State) : Done :=
  .next (s.ropeIssue 3 10 k idx words h)
/-- PUBLISH (11 R380). -/
def execPublish (k idx : Nat) (words : List W32) (h : RopeHomes) (s : State) : Done :=
  .next (s.ropeIssue 4 0 k idx words h)
/-- DIGEST (11 R370). -/
def execDigest (k idx : Nat) (words : List W32) (h : RopeHomes) (s : State) : Done :=
  .next (s.ropeIssue 5 0 k idx words h)
/-- GEN_FENCE (11 R390). -/
def execGenFence (k idx : Nat) (words : List W32) (h : RopeHomes) (s : State) : Done :=
  .next (s.ropeIssue 6 0 k idx words h)
/-- ROPE_FENCE (11 R370). -/
def execRopeFence (k idx : Nat) (words : List W32) (h : RopeHomes) (s : State) : Done :=
  .next (s.ropeIssue 7 0 k idx words h)
def execRopeReply (rep : RopeReply) (s : State) : Done := .next (ropeReply rep s)
def execRopeRetry (device stack id : Nat) (s : State) : Done := .next (ropeRetry device stack id s)
def execRemoteTimeout (device stack id : Nat) (s : State) : Done := .next (remoteTimeout device stack id s)
def execRopeCreditGrant (device stack n : Nat) (s : State) : Done := .next (ropeCreditGrant device stack n s)

end Sys2Proof.Machine
end

