-- ==== Sys2Proof/Machine/RopeFabric.lean ====
section
/-! DEFINITION. The fabric around Rope commands (11 R361, R362, R368, R381 to R389, R394 to R398): ports, heartbeats
and epochs, rejoin, gateways' chunks, launch gates, the stages of cold start, and the enabling of regions. -/

namespace Sys2Proof.Machine

-- Ports (11 R361, R362, R398).

/-- ROPE_STATUS.state takes a value. -/
def State.setRopeState (s : State) (v : Nat) : State := s.setRf (aROPE + 8) 2 0 v

/-- The stage of cold start, as ROPE_STATUS shows it (11 R396, R398). -/
def ropeStageCode (n : Nat) : Nat := min 3 (n - 1)

/-- A stage of cold start begins. -/
def State.ropeStage (s : State) (n : Nat) : State :=
  (s.setRope (fun r => { r with stage := n, stageAt := s.now, again := false })).setRf (aROPE + 8) 4 3
    (ropeStageCode n)

/-- Rope bring-up starts (11 R396). -/
def State.ropeStart (s : State) (stage : Nat) : State :=
  ((s.setRopeState 1).setRope (fun r => { r with planes := [] })).ropeStage stage

/-- Port p changes state: its bits in ROPE_PORTS, and device source 40 + p (11 R362). -/
def State.ropePort (s : State) (p : Nat) (up : Bool) : State :=
  if s.rbit (aROPE + 0xC) p = up then s
  else ((s.setRbit (aROPE + 0xC) p up).setRbit (aROPE + 0xC) (16 + p) true).edge (40 + p)

/-- The trained port of the lowest number, with what its plane reports. -/
def lowestPlane : List (Nat × Nat × Nat) → Option (Nat × Nat × Nat)
  | [] => none
  | e :: t => match lowestPlane t with
    | none => some e
    | some f => some (if e.1 ≤ f.1 then e else f)

/-- The device takes a pod and a member number. -/
def State.setNumbers (s : State) (pod member : Nat) : State := (s.setRf aROPE 21 16 pod).setRf aROPE 8 0 member

/-- Port p trains, and its plane reports a pod and a member number. Until the device is a member its numbers are those of
the lowest-numbered port that has trained, and so again while it is excluded; a member keeps the ones it has. A port with other numbers is held down (11 R361,
log entry 85). -/
def State.ropeTrained (s : State) (p pod member : Nat) : State :=
  let ps := s.rope.planes.filter (fun e => decide (e.1 ≠ p)) ++ [(p, pod, member)]
  let t := s.setRope (fun r => { r with planes := ps })
  if (t.ropeState = 1 ∧ t.rope.stage ≤ 2) ∨ t.ropeState = 3 then
    let n := ((lowestPlane ps).map Prod.snd).getD (pod, member)
    let u := ps.foldl (fun u e => u.ropePort e.1 (decide (e.2 = n))) (t.setNumbers n.1 n.2)
    if u.ropeState = 1 ∧ u.rope.stage ≤ 1 then u.ropeStage 2 else u
  else if pod = s.ropePod ∧ member = s.ropeMember then t.ropePort p true
  else t

/-- ROPE_PORT_CHANGE: port p trains or goes down (11 R361, R362). -/
def ropePortChange (p : Nat) (up : Bool) (pod member : Nat) (s : State) : State :=
  if s.up && decide (p < 16) then
    if up then
      (if s.rbit (aROPE + 4) 0 then (s.ropeTrained p pod member).ropeGo else s)
    else (s.setRope (fun r => { r with planes := r.planes.filter (fun e => decide (e.1 ≠ p)) })).ropePort p false
  else s

/-- ROPE_ENABLE_WRITE: a write of ROPE_CTRL: enable = 0 takes every port down, and a change to 1 brings up
those that train, in increasing number (11 R361, R398). `trained` holds port, pod and member. -/
def ropeEnableWrite (value : W32) (trained : List (Nat × Nat × Nat)) (s : State) : State :=
  if s.up then
    let was := s.rbit (aROPE + 4) 0
    let t := s.applyWrite (aROPE + 4) value
    if bitOf value 0 then
      if was then t
      else
        let u := t.ropeStart 1
        (((List.range 16).filterMap (fun p => trained.find? (fun e => decide (e.1 = p)))).foldl
          (fun u e => u.ropeTrained e.1 e.2.1 e.2.2) u).ropeGo
    else (((List.range 16).foldl (fun t p => t.ropePort p false) t).setRopeState 0).setRope (fun r => { r with planes := [] })
  else s

-- Membership (11 R386 to R388).

/-- The coordinator: the lowest-numbered member that has not fallen silent as one. -/
def State.coordinator (s : State) : Option Nat := s.members.find? (fun m => decide (m ∉ s.rope.deposed))

/-- The device coordinates its pod. -/
def State.coordinates (s : State) : Bool := s.ropeIn && decide (s.coordinator = some s.ropeMember)

/-- ns of `now` at which member m was last heard. -/
def State.heard (s : State) (m : Nat) : Nat := SMap.get (fun _ => 0) s.rope.beats m

/-- Members heard within a time, this device among them. -/
def State.reached' (s : State) (ns : Nat) : Nat :=
  (s.members.filter (fun m => decide (m = s.ropeMember) || decide (s.now ≤ s.heard m + ns))).length

/-- The device reaches more than half of the members. -/
def State.majority (s : State) (ns : Nat) : Bool := decide (s.members.length < 2 * s.reached' ns)

/-- An epoch is formed by its coordinator and announced (11 R387 steps 1 and 2). -/
def State.formEpoch (s : State) (members : List Nat) : State :=
  let e := (((s.rope.pending.map (fun x => x.number)).getD s.podEpoch) + 1) % 2 ^ 32
  (s.setRope (fun r => { r with
    pending := some ⟨e, members, s.now⟩, declaredAt := some s.now, acks := [s.ropeMember] })).ropeOut (.epoch e members)

/-- The members of the next epoch as far as it is formed. -/
def State.nextMembers (s : State) : List Nat := (s.rope.pending.map (fun x => x.members)).getD s.members

/-- The coordinator declares a member dead (11 R386, R387). -/
def State.declareDead (s : State) (m : Nat) : State :=
  if s.coordinates && s.majority 5_000_000 && decide (m ∈ s.nextMembers) then
    s.formEpoch (s.nextMembers.filter (fun x => decide (x ≠ m)))
  else s

/-- Outstanding commands end with STALE_EPOCH (11 R388). -/
def State.failAllStale (s : State) : State :=
  (s.rope.cmds.foldl (fun t c =>
    match c.lines with
    | [] => t
    | l :: _ => t.failCmd c (c.detail .staleEpoch l.id l.off)) s).settleRope

/-- The device is excluded (11 R386, R388): its commands end, it is no gateway any longer and what it gathered as one is
lost, ROPE_STATUS shows excluded, and device source 14 fires. -/
def State.exclude (s : State) : State :=
  if s.ropeState = 3 then s
  else (((s.setRopeState 3).setRbit aROPE 31 false).setRope (fun r => { r with
    chunks := [], replies := [], relayed := [], gwFloor := [], held := [], pending := none })).failAllStale.edge 14

/-- The device is in the membership stage of a cold start, with no epoch yet (11 R396). -/
def State.joining (s : State) : Bool :=
  decide (s.ropeState = 1) && decide (s.rope.stage = 2) && decide (s.podEpoch = 0)

/-- ROPE_HEARTBEAT: a heartbeat of member m arrives, with the latest epoch that it has received; this device's own is
sent every 100 µs while a port is up, and in the membership stage of a cold start is its answer to the coordinator
(11 R386, R387, R396, log entry 85). -/
def ropeHeartbeat (m e : Nat) (s : State) : State :=
  if s.portsLive && s.ropeUp then
    if m = s.ropeMember then
      if (s.ropeIn || s.joining) && decide (s.heard m + 100_000 ≤ s.now) then
        (s.setRope (fun r => { r with beats := SMap.put (fun _ => 0) r.beats m s.now })).ropeOut
          (.heartbeat m ((s.rope.pending.map (fun x => x.number)).getD s.podEpoch))
      else s
    else
      let acked := decide (e = ((s.rope.pending.map (fun x => x.number)).getD s.podEpoch))
        && s.rope.declaredAt.isSome && decide (m ∉ s.rope.acks)
      s.setRope (fun r => { r with
        beats := SMap.put (fun _ => 0) r.beats m s.now
        acks := if acked then r.acks ++ [m] else r.acks })
  else s

/-- MEMBER_DEAD: the coordinator has heard nothing of member m for 5 ms (11 R386). -/
def memberDead (m : Nat) (s : State) : State :=
  if s.portsLive && decide (s.heard m + 5_000_000 ≤ s.now) && decide (m ≠ s.ropeMember) then s.declareDead m else s

/-- ROPE_EVICT: a write of a member's number declares it dead; a device that does not coordinate passes it on
(11 R386). -/
def ropeEvict (m : Nat) (s : State) : State :=
  if s.portsLive && s.ropeIn then (if s.coordinates then s.declareDead m else s.ropeOut (.evict m)) else s

/-- SELF_EXCLUDE: a member that has not reached more than half of the members for 10 ms (11 R386). -/
def selfExclude (s : State) : State :=
  if s.portsLive && s.ropeIn && !(s.majority 10_000_000) then s.exclude else s

/-- COORDINATOR_LOSS: the coordinator has been silent for 5 ms: the next-lowest member takes its place, and declares
it dead (11 R386). -/
def coordinatorLoss (s : State) : State :=
  match s.coordinator with
  | none => s
  | some m =>
    if s.portsLive && s.ropeIn && decide (m ≠ s.ropeMember) && decide (s.heard m + 5_000_000 ≤ s.now) then
      (s.setRope (fun r => { r with deposed := r.deposed ++ [m] })).declareDead m
    else s

/-- EPOCH_RECEIVE: a later epoch arrives, and is acknowledged (11 R387 step 2). -/
def epochReceive (e : Nat) (members : List Nat) (s : State) : State :=
  let base := (s.rope.pending.map (fun x => x.number)).getD s.podEpoch
  if s.portsLive && s.ropeUp && decide (0 < idDiff e base) && decide (s.ropeState ≠ 0) then
    (s.setRope (fun r => { r with pending := some ⟨e, members, s.now⟩ })).ropeOut (.ack e)
  else s

/-- ROPE_MEMBERS hold a set of members. -/
def State.setMembers (s : State) (members : List Nat) : State :=
  (List.range 16).foldl (fun t n =>
    t.setReg (aROPE + 0x200 + 4 * n)
      (lo32 (((members.filter (fun m => decide (m / 32 = n))).eraseDups.map (fun m => 2 ^ (m % 32))).sum))) s

/-- The replay windows of a source identity are cleared at every home stack (11 R387 step 4). -/
def State.clearWindows (s : State) (m : Nat) : State :=
  s.setRope (fun r => { r with windows := r.windows.filter (fun e => decide (e.1 % 576 ≠ m)) })

/-- Requests that were held for the epoch now in force go on. -/
def State.releaseHeld (s : State) : State :=
  s.rope.held.foldl (fun t r => t.homeReceive r) (s.setRope (fun r => { r with held := [] }))

-- Gateways and the global epoch (11 R381, R385, R389).

/-- The pods of the global epoch in increasing number, with their gateways. -/
def State.podGateways (s : State) : List (Nat × List Nat) := s.rope.gateways

/-- The coordinator of the lowest-numbered pod leads the agreement of the global epoch (11 R389). -/
def State.leadsPods (s : State) (pods : List (Nat × List Nat)) : Bool :=
  s.coordinates && decide ((pods.head?).map Prod.fst = some s.ropePod)

/-- The gateways of every pod are taken: a device that becomes or ceases to be one starts without mappings, and the homes
clear the windows of the gateway sources of this pod that are other devices now (11 R375, R381, R385). -/
def State.setGateways (s : State) (e : Nat) (pods : List (Nat × List Nat)) : State :=
  let g := pods.foldl (fun m x => SMap.put (fun _ => ([] : List Nat)) m x.1 x.2) []
  let old := s.gateways s.ropePod
  let t := s.setRope (fun r => { r with gateways := g })
  let new := t.gateways t.ropePod
  let u := ((List.range 64).filter (fun j => decide (old[j]? ≠ new[j]?))).foldl (fun u j => u.clearWindows (512 + j)) t
  let v := u.setRbit aROPE 31 u.gwIndex.isSome
  if u.gwIndex = s.gwIndex then v
  else v.setRope (fun r => { r with
    chunks := [], replies := [], relayed := [], gwFloor := [], gwNext := [], gwSince := e })

/-- A global epoch is in force; its leader tells the other pods. Device source 14 fires (11 R389). -/
def State.applyGlobal (s : State) (e : Nat) (pods : List (Nat × List Nat)) : State :=
  let t := (s.setReg (aROPE + 0x14) (lo32 e)).setGateways e pods
  (if s.leadsPods pods then t.ropeOut (.globalEpoch e pods) else t).edge 14

/-- A gateway has left the epoch of its pod: the coordinator leads a change of the global epoch, or tells the one that
does (11 R385, R389). -/
def State.gatewaysLeft (s : State) : State :=
  let left := (s.gateways s.ropePod).filter (fun m => s.isMember m)
  if s.coordinates && decide (left ≠ s.gateways s.ropePod) then
    let pods := (s.podGateways.map (fun x => if x.1 = s.ropePod then (x.1, left) else x)).filter
      (fun x => decide (x.2 ≠ []))
    if s.leadsPods s.podGateways then s.applyGlobal ((s.globalEpoch + 1) % 2 ^ 32) pods
    else s.ropeOut (.gatewaySet s.ropePod left)
  else s

/-- In the membership stage of a cold start the lowest-numbered device that has answered coordinates: it forms epoch 1 of
those that have (11 R396). -/
def State.formFirst (s : State) : State :=
  let answered := (List.range 512).filter (fun m => decide (m = s.ropeMember)
    || (decide (0 < s.heard m) && decide (s.rope.stageAt ≤ s.heard m)))
  if s.joining && s.rope.pending.isNone && decide (answered.head? = some s.ropeMember) then s.formEpoch answered
  else s

/-- EPOCH_COMMIT: the epoch received is in force (11 R387 steps 3 to 5). A member of it that was starting goes on to PTP
lock; one that was rejoining is a member again, its identifiers from 0 (11 R388). At cold start the coordinator forms
epoch 1 here (11 R396). -/
def epochCommit (s0 : State) : State :=
  let s := if s0.portsLive then s0.formFirst else s0
  match s.rope.pending with
  | none => s
  | some e =>
    if s.portsLive then
      let moved := (s.members.filter (fun m => decide (m ∉ e.members))) ++ e.members.filter (fun m => !(s.isMember m))
      let was := s.ropeState
      let t := (moved.foldl State.clearWindows s).setMembers e.members
      let u := (t.setReg (aROPE + 0x10) (lo32 e.number)).setRope (fun r => { r with
        pending := none, deposed := [], beats := e.members.foldl (fun b m => SMap.put (fun _ => 0) b m s.now) r.beats })
      if s.ropeMember ∈ e.members ∧ was ≠ 3 then
        let v := if was = 1 ∧ u.rope.stage = 2 then u.ropeStage 3
          else if was = 4 then
            ((u.setRopeState 2).setRbit (aROPE + 4) 1 false).setRope (fun r => { r with nextId := [], credits := [] })
          else u
        ((v.edge 14).gatewaysLeft.releaseHeld).ropeGo
      else u.exclude
    else s

/-- EPOCH_ACK_TIMEOUT: a member that has not acknowledged within 1 ms is removed by a following change (11 R387 step
3). -/
def epochAckTimeout (m : Nat) (s : State) : State :=
  match s.rope.declaredAt with
  | none => s
  | some t =>
    if s.portsLive && decide (t + 1_000_000 ≤ s.now) && decide (m ∉ s.rope.acks) && decide (m ≠ s.ropeMember) then
      s.declareDead m
    else s

/-- The key tables of partition p's contexts lose every valid bit (11 R388 step 2). -/
def State.dropKeyTables (s : State) (p : Nat) : State :=
  ((List.range (s.ctxCount p)).filter (fun c => s.ctxValid p c)).foldl (fun t c =>
    (List.range (t.keyCount p c)).foldl (fun t n =>
      let off := (t.keyRange p c).1 + 16 * n
      let w := wordAt (t.keyEntry p c n) 0
      t.issuerWrite (some (p, c)) off (leBytes 4 (setBit w 15 false).toNat)) t) s

/-- A set of members with one more, in increasing number. -/
def withMember (ms : List Nat) (m : Nat) : List Nat := (List.range 512).filter (fun x => decide (x = m) || decide (x ∈ ms))

/-- A device asks to be added: the coordinator forms an epoch with it (11 R388 step 4). -/
def State.addMember (s : State) (d : Nat) : State :=
  if s.portsLive && s.coordinates && s.majority 5_000_000 && decide (d / 512 = s.ropePod)
      && decide (d % 512 ∉ s.nextMembers) then s.formEpoch (withMember s.nextMembers (d % 512))
  else s

/-- The write of rejoin: an excluded device clears its regions and keys, its key tables and what is outstanding in its
mailboxes, and asks the coordinator to add it; rejoin reads 1 until it is a member (11 R388). -/
def State.startRejoin (s : State) : State :=
  if s.portsLive && decide (s.ropeState = 3) then
    let t := (List.range 2048).foldl State.clearRegion s
    let u := (s.enabledParts.foldl State.dropKeyTables t).keepCmds (fun c => !c.saved || c.lines.isEmpty)
    ((u.setRopeState 4).setRbit (aROPE + 4) 1 true).ropeOut (.join s.ropeDevice)
  else s

/-- REJOIN: a write of rejoin on this device, or at its coordinator the request of the device that asks (11 R388). -/
def rejoin (asks : Option Nat) (s : State) : State :=
  match asks with
  | none => s.startRejoin
  | some d => s.addMember d

-- Pods together (11 R381, R383, R389, R396).

/-- The first whole second of PTP time at least 2 s after the present (11 R396). -/
def State.agreedCount (s : State) : Nat := (s.ptp + 2_000_000_000 + 999_999_999) / 1_000_000_000 * 1_000_000_000

/-- A list of numbers rises strictly. -/
def rising : List Nat → Bool
  | a :: b :: t => decide (a < b) && rising (b :: t)
  | _ => true

/-- The gateways of every pod are as R381 has them: 1 to 64 members in increasing number, those of this pod members of its
epoch, and this device one only with gw_candidate set. -/
def State.gatewaysOk (s : State) (pods : List (Nat × List Nat)) : Bool :=
  rising (pods.map Prod.fst) && pods.all (fun x =>
    decide (x.1 < 48) && decide (1 ≤ x.2.length) && decide (x.2.length ≤ 64) && rising x.2 && x.2.all (· < 512)
      && (decide (x.1 ≠ s.ropePod) || (x.2.all s.isMember
        && (decide (s.ropeMember ∉ x.2) || decide (s.ropeMember ∈ s.gateways s.ropePod) || s.rbit (aROPE + 4) 2))))

/-- The number of a global epoch that may follow: the next one where this device leads the agreement, else a later one. -/
def State.nextGlobal (s : State) (e : Nat) (pods : List (Nat × List Nat)) : Bool :=
  if s.leadsPods pods then decide (e = (s.globalEpoch + 1) % 2 ^ 32) else decide (0 < idDiff e s.globalEpoch)

/-- GLOBAL_EPOCH_CHANGE: the coordinators have agreed a global epoch as a pod or the gateways of one have changed (11 R381,
R385, R389). At cold start the gateways are formed first, under the number that the device holds, and the agreement then
ends the last stage and gives the agreed launch count (11 R396, log entry 85). -/
def globalEpochChange (e : Nat) (pods : List (Nat × List Nat)) (s : State) : State :=
  if s.portsLive && s.ropeIn && s.gatewaysOk pods then
    if s.ropeState = 1 then
      (if s.rope.stage = 4 ∧ e = s.globalEpoch then (s.setGateways e pods).ropeStage 5
       else if s.rope.stage = 5 ∧ s.nextGlobal e pods = true then
         let n := s.agreedCount
         ((((s.applyGlobal e pods).setRopeState 2).setReg (aROPE + 0x48) (lo32 n)).setReg (aROPE + 0x4C) (hi32 n)).ropeGo
       else s)
    else if s.nextGlobal e pods && decide (pods ≠ s.podGateways) then (s.applyGlobal e pods).ropeGo
    else s
  else s

/-- A gathered chunk of a time and payload leaves: it is full, 4 µs have passed since its first request, or a source with
a request in it has issued a FENCE (11 R383). -/
def State.chunkDue (s : State) (fenced : Bool) (since bytes : Nat) : Bool :=
  fenced || decide (since + 4_000 ≤ s.now) || decide (chunkMax ≤ bytes)

/-- CHUNK_SEND: the gathered requests and replies for a pod that are due leave in a chunk (11 R383). -/
def chunkSend (pod : Nat) (fenced : Bool) (s : State) : State :=
  let c := SMap.get (fun _ => (0, [])) s.rope.chunks pod
  let d := SMap.get (fun _ => (0, [])) s.rope.replies pod
  let req := !c.2.isEmpty && s.chunkDue fenced c.1 (chunkBytes c.2)
  let rep := !d.2.isEmpty && s.chunkDue fenced d.1 (replyBytes d.2)
  if s.awake && s.ropeIn && s.gwIndex.isSome && (req || rep) then
    (s.setRope (fun r => { r with
      chunks := if req then SMap.put (fun _ => (0, [])) r.chunks pod (0, []) else r.chunks
      replies := if rep then SMap.put (fun _ => (0, [])) r.replies pod (0, []) else r.replies })).chunkOut pod
        (if req then c.2 else []) (if rep then d.2 else [])
  else s

/-- The incoming gateway applies a request of a chunk at its home as its own source identity (11 R383); one whose outcome
is unknown is answered so. -/
def State.chunkRequest (s : State) (j pod : Nat) (r : RopeReq) : State :=
  let x := s.relay j pod r
  match x.2 with
  | none => x.1.gatherReply pod (r.reply .outcomeUnknown false [])
  | some q =>
    let q' : RopeReq := { q with epoch := s.podEpoch }
    if r.device = s.ropeDevice then x.1.homeReceive q' else x.1.ropeOut (.request q' none)

/-- A reply of a chunk goes on to its source in this pod (11 R383). -/
def State.chunkReply (s : State) (j : Nat) (rep : RopeReply) : State :=
  if rep.source = 512 + j then
    match s.rope.relayed.find? (fun e => decide (e.gwId = rep.id) && decide (e.device = rep.device)
        && decide (e.stack = rep.stack) && decide (e.pod = s.ropePod)) with
    | some e =>
      let back : RopeReply := { rep with source := e.source, id := e.id }
      if e.source = s.ropeMember then s.replyOwn back else s.ropeOut (.reply back)
    | none => s
  else s

/-- CHUNK_RECEIVE: the incoming gateway of the pod that a chunk comes from unpacks it (11 R382, R383): its requests in
order, or their refusal where the chunk is of another global epoch (11 R389), and its replies. -/
def chunkReceive (c : RopeChunk) (s : State) : State :=
  match s.gwIndex with
  | none => s
  | some j =>
    if s.awake && s.ropeIn && decide (c.dst = s.ropePod) && decide (c.gw = j)
        && (decide (c.globalEpoch ≠ s.globalEpoch) || decide (j = c.src % max 1 (s.gateways s.ropePod).length)) then
      let t := if c.globalEpoch = s.globalEpoch then c.reqs.foldl (fun t r => t.chunkRequest j c.src r) s
        else c.reqs.foldl (fun t r => t.gatherReply c.src (r.reply .staleEpoch true [])) s
      c.reps.foldl (fun t r => t.chunkReply j r) t
    else s

-- Launch gates (11 R394, R395).

/-- The global launch counter. -/
def State.launchCount (s : State) : Nat := s.ptp

/-- GATE_COUNT of gate g. -/
def State.gateCount (s : State) (g : Nat) : Nat := s.reg64 (aGATE g)

/-- LAUNCH_GATE_ARM: a write of GATE_CTRL with armed = 1: the ring is held, or the gate fires at once and sets late
when its count has passed. The ring ignores writes while the gate is armed (11 R395). -/
def launchGateArm (g : Nat) (value : W32) (s : State) : State :=
  if s.up && decide (g < 16) && bitOf value 16 then
    let a := aGATE g + 8
    let v := if s.rbit a 16 then setField value 15 0 (s.rf a 15 0) else value
    let was := s.rbit a 16
    let t := s.applyWrite a v
    if !was && decide (s.gateCount g ≤ s.launchCount) then
      ((t.setRbit a 16 false).setRbit a 17 true).setRbit a 18 true
    else t
  else s

/-- LAUNCH_GATE_FIRE: the counter is at or above the gate's count (11 R395). -/
def launchGateFire (g : Nat) (s : State) : State :=
  let a := aGATE g + 8
  if s.up && decide (g < 16) && s.rbit a 16 && decide (s.gateCount g ≤ s.launchCount) then
    (s.setRbit a 16 false).setRbit a 17 true
  else s

-- Cold start (11 R396, R397).

/-- Bounds of the stages in ns (11 R396). -/
def stageBound (n : Nat) : Nat :=
  (match n with | 0 => 4 | 1 => 3 | 2 => 5 | 3 => 20 | 4 => 10 | _ => 8) * 1_000_000_000

/-- The clock has locked: the PTP stage of a cold start ends here (11 R396). -/
def State.ropeLocked (s : State) : State :=
  if s.ropeState = 1 ∧ s.rope.stage = 3 then s.ropeStage 4 else s

/-- The stage under way has not been run twice, and the retry budget covers it. -/
def State.mayRerun (s : State) : Bool := !s.rope.again && decide (stageBound s.rope.stage ≤ s.rope.budget)

/-- The stage is run once more, out of the retry budget. -/
def State.rerunStage (s : State) : State :=
  (s.setRope (fun r => { r with
    again := true, stageAt := s.now, budget := r.budget - stageBound r.stage })).bumpRf (aROPE + 8) 7 5 1

/-- The stages that run while the device answers no host access yet: the self-test, and port training, into which the
boot falls (15 R483). -/
def State.starting (s : State) : Bool :=
  (decide (s.power.stage = .selfTest) || decide (s.power.stage = .boot)) && !s.power.inReset && decide (s.power.fail = 0)

/-- COLD_START_STAGE_TIMEOUT: the stage has missed its bound: it is run once more out of the retry budget, or the
device is left out (11 R397). -/
def coldStartStageTimeout (s : State) : State :=
  if (s.up || (s.starting && decide (s.rope.stage ≤ 1))) && decide (s.ropeState = 1)
      && decide (s.rope.stageAt + stageBound s.rope.stage ≤ s.now) then
    (if s.mayRerun then s.rerunStage else s.exclude)
  else s

-- Regions (11 R368).

/-- The owner is an enabled partition or the physical function, and the range lies in its stack memory, clear of the
half-stacks held for radio. -/
def State.rgnOk (s : State) (i : Nat) : Bool :=
  let o := s.rgnOwner i
  let base := s.rgnBase i
  let size := s.rgnSize i
  (if o < 64 then s.enabled o && inside (base, size) (0, s.partBytes o)
   else decide (o = 0x7F) && inside (base, size) (0, s.memBytes))
  && decide (0 < size)
  && (s.halvesTouched base size).all (fun h =>
    match (if o < 64 then (s.halves o)[h]? else some h) with
    | some g => !(s.radioHalf g)
    | none => true)

/-- The region's owner is a bound partition: it accepts writes only of enable = 0 (13 R450). -/
def State.rgnLocked (s : State) (i : Nat) : Bool :=
  let p := s.rf (aRGN i) 14 8
  decide (p < 64) && decide ((s.part p).tsp ≠ 0)

/-- REGION_ENABLE: a write of enable = 1 enables the region or is refused (11 R368). -/
def regionEnable (i : Nat) (s : State) : State :=
  if s.up && decide (i < 2048) && !(s.rbit (aRGN i) 0) && !(s.rgnLocked i) then
    if s.rgnOk i then (s.setRbit (aRGN i) 0 true).setRbit (aRGN i) 31 false else s.setRbit (aRGN i) 31 true
  else s

-- The meanings.

def execRopePortChange (p : Nat) (up : Bool) (pod member : Nat) (s : State) : Done :=
  .next (ropePortChange p up pod member s)
def execRopeEnableWrite (value : W32) (trained : List (Nat × Nat × Nat)) (s : State) : Done :=
  .next (ropeEnableWrite value trained s)
def execRopeHeartbeat (m e : Nat) (s : State) : Done := .next (ropeHeartbeat m e s)
def execMemberDead (m : Nat) (s : State) : Done := .next (memberDead m s)
def execRopeEvict (m : Nat) (s : State) : Done := .next (ropeEvict m s)
def execSelfExclude (s : State) : Done := .next (selfExclude s)
def execCoordinatorLoss (s : State) : Done := .next (coordinatorLoss s)
def execEpochReceive (e : Nat) (members : List Nat) (s : State) : Done := .next (epochReceive e members s)
def execEpochCommit (s : State) : Done := .next (epochCommit s)
def execEpochAckTimeout (m : Nat) (s : State) : Done := .next (epochAckTimeout m s)
def execRejoin (asks : Option Nat) (s : State) : Done := .next (rejoin asks s)
def execGlobalEpochChange (e : Nat) (pods : List (Nat × List Nat)) (s : State) : Done :=
  .next (globalEpochChange e pods s)
def execChunkSend (pod : Nat) (fenced : Bool) (s : State) : Done := .next (chunkSend pod fenced s)
def execChunkReceive (c : RopeChunk) (s : State) : Done := .next (chunkReceive c s)
def execLaunchGateArm (g : Nat) (value : W32) (s : State) : Done := .next (launchGateArm g value s)
def execLaunchGateFire (g : Nat) (s : State) : Done := .next (launchGateFire g s)
def execColdStartStageTimeout (s : State) : Done := .next (coldStartStageTimeout s)
def execRegionEnable (i : Nat) (s : State) : Done := .next (regionEnable i s)

end Sys2Proof.Machine
end

