-- ==== Sys2Proof/Machine/Time.lean ====
section
/-! DEFINITION. Network time (12 R421 to R431): the local clock and its registers, the PTP servo, compare and
capture units. -/

namespace Sys2Proof.Machine

open Host (Outcome)

-- The local clock (12 R421, R431).

/-- The clock is set or stepped: the gate lists find their phase anew (12 R431). -/
def State.stepClock (s : State) (v : Nat) : State :=
  ([0, 1, 2, 3, 4, 5, 6, 7] : List Nat).foldl (fun t n =>
    ([0, 1, 2, 3] : List Nat).foldl (fun t i => t.gateNow n i) t) { s with clk := v }

/-- TOD_READ: a read of TOD_NS latches the seconds (12 R421). -/
def todRead (s : State) : State :=
  if s.up then
    { (s.setReg (aTIME + 4) (lo32 s.clkSec)).setReg (aTIME + 8) (hi32 s.clkSec) with rdata := lo32 s.clkNs }
  else s

/-- A cell is RUNNING. -/
def State.anyRunning (s : State) : Bool := s.radio.cells.any (fun e => decide (e.2.state = .running))

def State.setServo (s : State) (v : Servo) : State := { s with ports := { s.ports with servo := v } }

/-- The servo runs (TIME_CTRL.ptp_enable). -/
def State.ptpEnabled (s : State) : Bool := s.rbit (aTIME + 0x2C) 0

/-- The value of TIME_SET. -/
def State.timeSet (s : State) : Nat :=
  ((s.reg (aTIME + 0x34)).toNat + 2 ^ 32 * s.rf (aTIME + 0x38) 15 0) * 1_000_000_000 + s.rf (aTIME + 0x30) 29 0

/-- A write of TIME_CTRL: a domain outside 24 to 43 is ignored; ptp_enable = 0 stops the servo into FREERUN;
set loads TIME_SET with the servo off and no cell RUNNING (12 R421, R424). -/
def State.timeCtrl (s : State) (value : W32) : State :=
  let a := aTIME + 0x2C
  let dom := field value 15 8
  let keep := if 24 ≤ dom ∧ dom ≤ 43 then dom else s.rf a 15 8
  let t := (s.applyWrite a value).setRf a 15 8 keep
  let u := if t.ptpEnabled then t
    else t.setServo { Servo.reset with lost := t.ports.servo.lost, lostAt := t.ports.servo.lostAt }
  if bitOf value 1 && !u.ptpEnabled && !u.anyRunning then u.stepClock u.timeSet else u

/-- PTP_ENABLE_WRITE: a write of TIME_CTRL without set (12 R424). -/
def ptpEnableWrite (value : W32) (s : State) : State := if s.up && !(bitOf value 1) then s.timeCtrl value else s

/-- TIME_SET: a write of TIME_CTRL with set (12 R421). -/
def timeSetWrite (value : W32) (s : State) : State := if s.up && bitOf value 1 then s.timeCtrl value else s

-- The servo (12 R422 to R425).

/-- No measurement of the master stands. -/
def Servo.unmeasured (v : Servo) : Servo := { v with syncRx := none, msDiff := none, delayTx := none, path := none }

/-- A master is selected on a sub-port: ACQUIRING, unless the servo already follows it (12 R424). -/
def State.selectMaster (s : State) (n sub : Nat) : State :=
  let v := s.ports.servo
  let same := decide (v.slave = some (n, sub))
  if same && (decide (v.state = .acquiring) || decide (v.state = .locked)) then
    s.setServo { v with heardAt := s.now }
  else
    let step := if v.state = .exceeded then true else v.mayStep
    s.setServo { v.unmeasured with
      state := .acquiring, slave := some (n, sub), heardAt := s.now, good := 0, bad := 0, mayStep := step }

/-- The magnitude of an offset is beyond 1 µs, or within 50 ns. -/
def farOff (o : Int) : Bool := decide (1000 < o.natAbs)
def nearOff (o : Int) : Bool := decide (o.natAbs ≤ 50)

/-- A Sync of the slave port: TIME_OFFSET takes the offset; ACQUIRING may step the clock, and locks on 16 Syncs
in a row within 50 ns; LOCKED goes to HOLDOVER on 16 in a row beyond 1 µs, with device source 9 (12
R424). -/
def State.takeSync (s0 : State) (o : Int) : State :=
  let s := s0.setReg (aTIME + 0x24) (lo32 (wrapOf 32 (satSigned 32 o)))
  let v := s.ports.servo
  match v.state with
  | .acquiring =>
    if farOff o then
      if !s.anyRunning || v.mayStep then
        (s.setServo { v with good := 0, mayStep := false, syncRx := none, msDiff := none, delayTx := none }).stepClock
          ((s.clk : Int) - o).toNat
      else s.setServo { v with good := 0 }
    else if nearOff o then
      if 16 ≤ v.good + 1 then
        let t := (s.setServo { v with
          state := .locked, everLocked := true, good := 0, bad := 0, holdAt := none, lost := false,
          mayStep := false }).ropeLocked
        if v.lost then t.noticePassed (fun _ => true) v.lostAt 3 else t
      else s.setServo { v with good := v.good + 1 }
    else s.setServo { v with good := 0 }
  | .locked =>
    if farOff o then
      if 16 ≤ v.bad + 1 then
        (s.setServo { v with state := .holdover, good := 0, bad := 0, holdAt := some s.now, slave := none }).edge 9
      else s.setServo { v with bad := v.bad + 1 }
    else s.setServo { v with bad := 0 }
  | _ => s

/-- The delay asymmetry of a sub-port in ps (12 R402, R423). -/
def State.asym (s : State) (n sub : Nat) : Int := signedOf 32 (s.reg (aPORTn n + 0x20 + 4 * sub)).toNat

/-- The difference of a Sync's ingress and origin times, corrected: the offset is that less the mean path delay, to the
nearest ns. With no path delay measured yet there is no offset (12 R423, log entry 90). -/
def State.syncDiff (s : State) (n sub : Nat) (rx : Int) (origin : Nat) (corr : Int) : State :=
  let ms := rx - 1000 * (origin : Int) - corr - s.asym n sub
  let t := s.setServo { s.ports.servo with syncRx := none, msDiff := some ms }
  match s.ports.servo.path with
  | some d => t.takeSync ((ms - d + 500) / 1000)
  | none => t

/-- A PTP message reaches the servo: messages of other domains are dropped; an Announce that the profile's
algorithm accepts selects its sub-port, unless that is master_only; a Delay_Req on a port that is master is answered; Syncs,
Follow_Ups and Delay_Resps of the slave port are measured, end to end (12 R422, R423). -/
def State.takePtp (s : State) (f : RxFrame) (m : PtpIn) : State :=
  let n := f.port
  let sub := f.sub
  let v := s.ports.servo
  let slave := decide (v.slave = some (n, sub))
  if !s.ptpEnabled then s
  else
    match m with
    | .announce _ best => if best && !(s.rbit (aPORTn n + 0x18) (4 + sub)) then s.selectMaster n sub else s
    | .sync _ (some o) corr => if slave then s.syncDiff n sub (s.ingressPs f) o corr else s
    | .sync _ none corr => if slave then s.setServo { v with syncRx := some (s.ingressPs f, corr) } else s
    | .followUp _ o corr =>
      match v.syncRx with
      | some r => if slave then s.syncDiff n sub r.1 o (r.2 + corr) else s
      | none => s
    | .delayReq _ asker =>
      if slave then s
      else s.queuePtp n sub .delayResp 9 (ptpTime (psToNs (s.ingressPs f)) ++ (asker ++ List.replicate 10 0).take 10)
    | .delayResp _ received corr =>
      match v.delayTx, v.msDiff with
      | some tx, some ms =>
        if slave then s.setServo { v with
          delayTx := none, path := some ((ms + (1000 * (received : Int) - corr - tx + s.asym n sub)) / 2) }
        else s
      | _, _ => s
    | .other _ => s

def PtpIn.domain : PtpIn → Nat
  | .announce d _ | .sync d _ _ | .followUp d _ _ | .delayReq d _ | .delayResp d _ _ | .other d => d

/-- The announce receipt timeout: 3 of the intervals of 8 a second (12 R422). -/
def announceNs : Nat := 375_000_000

/-- ANNOUNCE_TIMEOUT: no acceptable Announce within the timeout. LOCKED enters HOLDOVER with device source 9;
ACQUIRING falls back to FREERUN before the first lock, else to the holdover that it came from; with none under way it
enters HOLDOVER, with source 9 (12 R424, log entry 59). -/
def announceTimeout (s : State) : State :=
  let v := s.ports.servo
  if s.portsLive && s.ptpEnabled && v.slave.isSome && decide (v.heardAt + announceNs ≤ s.now) then
    let w : Servo := { v with slave := none, good := 0, bad := 0 }
    match v.state with
    | .locked => (s.setServo { w with state := .holdover, holdAt := some s.now }).edge 9
    | .acquiring =>
      if v.lost then s.setServo { w with state := .exceeded }
      else if v.holdAt.isSome then s.setServo { w with state := .holdover }
      else if v.everLocked then (s.setServo { w with state := .holdover, holdAt := some s.now }).edge 9
      else s.setServo { w with state := .freerun }
    | _ => s.setServo w
  else s

/-- HOLDOVER_EXCEEDED: the holdover time, which also runs while ACQUIRING, exceeds holdover_ms: device source
10 fires, and until the next LOCKED the slots of RUNNING cells are noticed (12 R424, R425). -/
def holdoverExceeded (s : State) : State :=
  let v := s.ports.servo
  match v.holdAt with
  | some t0 =>
    if s.portsLive && !v.lost && (decide (v.state = .holdover) || decide (v.state = .acquiring))
        && decide (t0 + (s.reg (aTIME + 0x28)).toNat * 1_000_000 < s.now) then
      (s.setServo { v with state := .exceeded, lost := true, lostAt := s.clk, slave := none, good := 0, bad := 0 }).edge 10
    else s
  | none => s

/-- TIME_STATE as read (12 R421). -/
def ServoState.code : ServoState → Nat
  | .freerun => 0 | .acquiring => 1 | .locked => 2 | .holdover => 3 | .exceeded => 4
def State.timeState (s : State) : W32 :=
  let v := s.ports.servo
  lo32 (v.state.code + (match v.slave with
    | some e => 2 ^ 13 + e.2 * 2 ^ 11 + e.1 * 2 ^ 8
    | none => 0))

-- Compare units (12 R426, R427).

/-- d of a compare unit. -/
def State.cmpDiff (s : State) (u : Nat) : Int := timeDiff s.clk (s.reg (aCMP u + 4)).toNat (s.rf (aCMP u) 29 0)

/-- CMP_ARM: a write of CMP_CTRL. When enable rises and the target has already passed, late is set (12
R426). -/
def cmpArm (u : Nat) (value : W32) (s : State) : State :=
  if s.up && decide (u < 16) then
    let a := aCMP u + 0xC
    let was := s.rbit a 0
    let t := s.applyWrite a value
    if !was && t.rbit a 0 && decide (0 < t.cmpDiff u) then t.setRbit a 3 true else t
  else s

/-- The pulse output of a unit is high until its end (12 R426). -/
def State.pulse (s : State) (sel us : Nat) : State :=
  let e := some (s.now + 1000 * max 1 us)
  if sel = 1 then { s with ports := { s.ports with pps0 := e } }
  else if sel = 2 then { s with ports := { s.ports with pps1 := e } }
  else s

/-- CMP_FIRE: the first nanosecond with d ≥ 0: fired is set, device source 16 + u fires and the output pulses;
a periodic unit adds its period to its target, a one-shot one clears enable (12 R426, R427). -/
def cmpFire (u : Nat) (s : State) : State :=
  let a := aCMP u
  if s.up && decide (u < 16) && s.rbit (a + 0xC) 0 && decide (0 ≤ s.cmpDiff u) then
    let t := ((s.setRbit (a + 0xC) 2 true).edge (16 + u)).pulse (s.rf (a + 0xC) 11 10) (s.rf (a + 0xC) 19 12)
    let per := s.rf (a + 8) 29 0
    if per = 0 then t.setRbit (a + 0xC) 0 false
    else
      let ns := s.rf a 29 0 + max 1000 per
      (t.setReg a (lo32 (ns % 1_000_000_000))).setReg (a + 4)
        (lo32 ((s.reg (a + 4)).toNat + ns / 1_000_000_000))
  else s

/-- PPS_PULSE_END: the output of PPS_OUT i falls after its width (12 R426). -/
def ppsPulseEnd (i : Nat) (s : State) : State :=
  let overs (e : Option Nat) : Bool := match e with
    | some t => decide (t ≤ s.now)
    | none => false
  if i = 0 then (if overs s.ports.pps0 then { s with ports := { s.ports with pps0 := none } } else s)
  else if i = 1 then (if overs s.ports.pps1 then { s with ports := { s.ports with pps1 := none } } else s)
  else s

-- Capture units (12 R428).

/-- The slot from which on a unit's event counts: the cell's next one to be processed on the downlink, or, for its uplink, to
begin (12 R428, log entry 91). -/
def State.captureFrom (s : State) (c : Nat) : Nat :=
  let x := s.cell (s.rf (aCAP c + 8) 24 16)
  if s.rf (aCAP c + 8) 3 1 = 4 then (x.cfg.map (fun g => g.slotAhead s.clk 0)).getD 0 else x.nextDl

/-- CAPTURE_ARM: a write of CAP_CTRL; arm clears valid and waits for the next event (12 R428). -/
def captureArm (c : Nat) (value : W32) (s : State) : State :=
  if s.up && decide (c < 8) then
    let t := s.applyWrite (aCAP c + 8) value
    if bitOf value 0 then
      let u := t.setRbit (aCAP c + 8) 31 false
      { u with ports := { u.ports with
          armed := (c, u.captureFrom c) :: u.ports.armed.filter (fun e => decide (e.1 ≠ c)) } }
    else t
  else s

/-- CAPTURE_EVENT: a rising edge of PPS_IN reaches a unit whose source it is: it records the local time, once. The
events of the other sources come with a cell's processing and with frames (12 R428). -/
def captureEvent (c : Nat) (s : State) : State :=
  if s.up && s.ports.armed.any (fun e => decide (e.1 = c)) && decide (s.rf (aCAP c + 8) 3 1 = 1) then s.captured c s.clk
  else s

-- The passing of time.

/-- One nanosecond passes; the local clock counts it while its domain has power, with 48 bits of seconds (12 R421,
15 R483, R490; log entry 5). -/
def State.tick (s : State) : State :=
  { s with
    now := s.now + 1
    clk := if s.power.phase = .good then (s.clk + 1) % (2 ^ 48 * 1_000_000_000) else s.clk }

-- The meanings.

def execTodRead (s : State) : Done := .next (todRead s)
def execTimeSet (value : W32) (s : State) : Done := .next (timeSetWrite value s)
def execPtpEnableWrite (value : W32) (s : State) : Done := .next (ptpEnableWrite value s)
def execAnnounceTimeout (s : State) : Done := .next (announceTimeout s)
def execHoldoverExceeded (s : State) : Done := .next (holdoverExceeded s)
def execCmpArm (u : Nat) (value : W32) (s : State) : Done := .next (cmpArm u value s)
def execCmpFire (u : Nat) (s : State) : Done := .next (cmpFire u s)
def execPpsPulseEnd (i : Nat) (s : State) : Done := .next (ppsPulseEnd i s)
def execCaptureArm (c : Nat) (value : W32) (s : State) : Done := .next (captureArm c value s)
def execCaptureEvent (c : Nat) (s : State) : Done := .next (captureEvent c s)

end Sys2Proof.Machine
end

