-- ==== Sys2Proof/Machine/Ingress.lean ====
section
/-! DEFINITION. Received frames (12 R403 to R408, R419): classification, fronthaul sections, partition
queues. -/

namespace Sys2Proof.Machine

open Host (Outcome)

/-- One more on a port counter, and on a cell counter (12 R410). -/
def State.portCount (s : State) (n w : Nat) : State := s.bumpRf (aPORTn n + 0x80 + 4 * w) 31 0 1
def State.cellCount (s : State) (c w k : Nat) : State := s.bumpRf (aCELLCNT c + 4 * w) 31 0 k

/-- The address is a group address (12 R403). -/
def isGroup (mac : Nat) : Bool := mac.testBit 40

/-- The partition whose enabled queue has the sub-port and VLAN (12 R420). -/
def State.queueOf (s : State) (n sub vlan : Nat) : Option Nat :=
  (List.range 64).find? (fun p => s.pqOn p && decide (s.pqPort p = (n, sub)) && decide (s.pqVlan p = vlan))

/-- Destinations that the sub-port takes (12 R403). -/
def State.destOk (s : State) (f : RxFrame) : Bool :=
  decide (f.dst = s.subMac f.port f.sub) || decide (f.dst = 0x0180_C200_000E) || decide (f.dst = 0x011B_1900_0000)
  || (isGroup f.dst && (match f.vlan with
      | some v => (s.queueOf f.port f.sub v).isSome
      | none => false))

-- Fronthaul (12 R404 to R408).

/-- The cell that a fronthaul frame belongs to (12 R403, R405). -/
def State.frameCell (s : State) (f : RxFrame) (vlan eaxc : Nat) : Option (Nat × CellCfg) :=
  s.radio.cells.findSome? (fun e =>
    match e.2.cfg with
    | some g =>
      if e.2.state ≠ .idle ∧ g.port = f.port ∧ g.sub = f.sub ∧ g.vlan = vlan ∧ g.peer = f.src ∧ g.eaxc ≤ eaxc
          ∧ eaxc < g.eaxc + g.streams then some (e.1, g) else none
    | none => none)

/-- The frame number whose air time lies nearest an instant, of those with the frameId (12 R408). -/
def CellCfg.nearestFrame (g : CellCfg) (t fid : Nat) : Nat :=
  let cur := (t - g.frameOffset) / 10_000_000
  let hi := cur + (fid + 256 - cur % 256) % 256
  if hi < 256 then hi
  else if g.frameOffset + hi * 10_000_000 - t ≤ t - (g.frameOffset + (hi - 256) * 10_000_000) then hi
  else hi - 256

/-- The slot that a frame names; none where a field is out of range. -/
def EcpriIn.slot (e : EcpriIn) (g : CellCfg) (t : Nat) : Option Nat :=
  let per := slotsPerFrame g.scs / 10
  if e.frameId < 256 ∧ e.subframe < 10 ∧ e.slotId < per ∧ e.sym < 14 then
    some (g.nearestFrame t e.frameId * slotsPerFrame g.scs + e.subframe * per + e.slotId)
  else none

/-- The components of a section as the port writes them to the cell's ledge region: BFP expanded under R60,
uncompressed widths left-aligned (12 R407). -/
def expandSection (m : Comp) (prbs : Nat) (data : List Byte) : List Int × Nat :=
  let n := prbBytes m
  let blocks := (List.range prbs).map (fun i =>
    let b := (data.drop (i * n)).take n
    if m.1 = 1 then bfpExpand m.2 b
    else ((bfpRead m.2 (0 :: b)).2.map (fun (v : Int) => satSigned 16 (v * ((2 ^ (16 - m.2) : Nat) : Int))), 0))
  (blocks.flatMap Prod.fst, (blocks.map Prod.snd).sum)

/-- Two runs of PRBs share one. -/
def prbsMeet (a b : Nat × Nat) : Bool := decide (a.1 < b.1 + b.2) && decide (b.1 < a.1 + a.2)

/-- The searches of a cell that cover a slot capture a section of it (05 R195). -/
def Cell.capture (x : Cell) (n : Nat) (iq : List Int) : Cell :=
  { x with searches := x.searches.map (fun q =>
      if q.first ≤ n ∧ n < q.first + q.count then { q with iq := q.iq ++ [(n : Int)] ++ iq } else q) }

/-- One section of a frame with an ingress timestamp: bad, early, late, or accepted; the flag tells that one of the frame
was accepted. What is accepted stays with its slot, whether or not anything was requested of it (12 R408). -/
def State.takeSection (s : State) (c : Nat) (g : CellCfg) (e : EcpriIn) (n st t0 : Nat) (x : SectionIn) : State × Bool :=
  let prb := if x.prbs = 0 then (0, g.fapi.grid) else (x.startPrb, x.prbs)
  let cell := s.cell c
  let w := cell.work n
  let again := w.rx.any (fun r => decide (r.sym = e.sym) && decide (r.stream = st)
    && decide (r.filter = e.filterIndex) && prbsMeet r.prb prb)
  if (x.compMeth, x.width) ≠ g.compUl ∨ g.fapi.grid < prb.1 + prb.2 ∨ g.ulStreams ≤ st then
    (s.cellCount c 3 1, false)
  else if t0 < g.airSym n e.sym then (s.cellCount c 2 1, false)
  else if g.closeTime n e.sym < t0 then (s.cellCount c 1 1, false)
  else if again then (s.cellCount c 3 1, false)
  else
    let r := expandSection g.compUl prb.2 x.data
    let t := s.cellCount c 5 r.2
    let y := cell.capture n ([(e.sym : Int), st, e.filterIndex, prb.1, prb.2] ++ r.1)
    let rx : RxSection := ⟨e.sym, st, e.filterIndex, prb, r.1, t0⟩
    let z := y.setWork { w with rx := w.rx ++ [rx] }
    (t.setCell c { z with slots := z.slots.filter (fun v =>
      !(v.ul.isNone && v.finished && decide (g.closeTime v.slot 13 < s.clk))) }, true)

/-- Bytes that follow the eCPRI common header up to the FCS, in a frame of `len` bytes with one VLAN tag: the 18 bytes of
addresses, tag and EtherType, the 4 of the common header and the 4 of the FCS are not among them (12 R404, R406
example). -/
def ecpriPayload (len : Nat) : Nat := len - 26

/-- A fronthaul frame: dropped and counted in the port when no cell matches or its type is not IQ data, in the
cell and the port when it breaks the framing of R404; else its sections are decided one by one (12 R404, R410). -/
def State.takeFronthaul (s : State) (f : RxFrame) (vlan : Nat) (e : EcpriIn) : State :=
  match s.frameCell f vlan e.eaxc with
  | some (c, g) =>
    if e.type' ≠ 0 then s.portCount f.port 2
    else if e.rev ≠ 1 ∨ e.concat ∨ e.size ≠ ecpriPayload f.len ∨ !e.ebit ∨ e.subseq ≠ 0 then
      (s.cellCount c 3 1).portCount f.port 2
    else
      let t0 := psToNs (s.ingressPs f)
      match e.slot g t0 with
      | none => (s.cellCount c 3 1).portCount f.port 2
      | some n =>
        let r := e.sections.foldl (fun (a : State × Bool) x =>
          let q := a.1.takeSection c g e n (e.eaxc - g.eaxc) t0 x
          (q.1, a.2 || q.2)) (s.capture 4 c n t0, false)
        if r.2 then r.1.cellCount c 0 1 else r.1
  | none => s.portCount f.port 2

-- Partition queues (12 R419).

/-- A frame of partition p is dropped: part_drops and the queue's drops. -/
def State.dropPart (s : State) (n p : Nat) : State := (s.portCount n 6).bumpRf (aPQ p + 0x10) 31 0 1

/-- A frame goes to partition p's receive ring: dropped when the ring is full, the partition's share short of
tokens, or a reset of it under way (12 R419, R420). -/
def State.takePart (s : State) (f : RxFrame) (p : Nat) : State :=
  let r := s.rxRing p
  let prod := s.pqRead p r.1 2 % r.2
  let cons := s.pqRead p (r.1 + 4) 2 % r.2
  let live := decide ((s.part p).state = .running) || decide ((s.part p).state = .stopped)
  let ue := if live then s.issuerUeRead (some (p, (s.part p).resident)) r.1 8 else none
  if !live || ue.isSome || decide ((prod + 1) % r.2 = cons) then (s.pqNote ue).dropPart f.port p
  else
    let l := s.counted f.port f.len
    match s.takeShare p .eth false l l with
    | none => s.dropPart f.port p
    | some t =>
      let u := t.account (some (p, (t.part p).resident)) (fun a => { a with ethBytes := a.ethBytes + f.len })
      let v := u.pqWrite p (r.1 + 64 + 16 * r.2 + 9216 * prod) f.raw
      let w := v.pqWrite p (r.1 + 64 + 16 * prod)
        (leBytes 8 0 ++ leBytes 4 (f.raw.length % 2 ^ 14) ++ leBytes 4 (psToNs (s.ingressPs f) % 1_000_000_000))
      w.pqWrite p r.1 (leBytes 4 (setField (lo32 (w.pqRead p r.1 4)) 15 0 ((prod + 1) % r.2)).toNat)

/-- FRAME_RECEIVE: the first matching row of R403 decides a received frame's fate; its ingress timestamp is the
local clock (12 R403, R423). -/
def frameReceive (f : RxFrame) (s : State) : State :=
  if s.portsLive && s.hasSub f.port f.sub && s.linkUp f.port f.sub then
    let t := s.portCount f.port 0
    if !f.fcsOk ∨ f.len < 64 ∨ 9216 < f.len then t.portCount f.port 1
    else if !(t.destOk f) ∨ f.stacked then t.portCount f.port 2
    else
      let toQueue : State := match f.vlan.bind (fun v => t.queueOf f.port f.sub v) with
        | some p => t.takePart f p
        | none => t.portCount f.port 2
      if f.etherType = 0x88F7 ∧ t.rbit (aPORTn f.port + 0x18) f.sub then
        match f.body with
        | .ptp m =>
          if m.domain = t.rf (aTIME + 0x2C) 15 8 then (t.portCount f.port 3).takePtp f m
          else t.portCount f.port 2
        | _ => t.portCount f.port 2
      else if f.etherType = 0xAEFE then
        match f.vlan, f.body with
        | some v, .ecpri e => t.takeFronthaul f v e
        | some _, _ => t.portCount f.port 2
        | none, _ => toQueue
      else toQueue
  else s

def execFrameReceive (f : RxFrame) (s : State) : Done := .next (frameReceive f s)

end Sys2Proof.Machine
end

