-- ==== Sys2Proof/Machine/Reliability.lean ====
section
/-! DEFINITION. Known-answer tests (14 R466, R470 to R472), the SELFTEST requests (14 R473, R474), what the start-up
test finds in units (14 R475), and the control of the Summit register (14 R479, R480). -/

namespace Sys2Proof.Machine

-- Eligible units (14 R470).

/-- All spares of a class that a die ships, in the order of CFG_SPARES: island by island (01 R39). -/
def State.allSpares (s : State) (d : Nat) (c : EngineClass) : List PhysId :=
  (List.range 8).flatMap (fun i =>
    (List.range (s.shippedSpares d c i)).map (fun k => (⟨d, c, true, k, i⟩ : PhysId)))

/-- The index of a spare among its die's. -/
def State.spareIdx (s : State) (p : PhysId) : Nat :=
  ((s.allSpares p.die p.cls).takeWhile (fun q => decide (q ≠ p))).length

/-- The unit may be tested now: it works, nothing holds or runs on it, and no partition or lease has it. A unit of
a radio island without radio work is such a unit; the command arrives only between radio jobs. -/
def State.eligible (s : State) : KatTarget → Bool
  | .unit u => u.exists' && s.usable u && (s.unitOwner u).isNone && !(s.leases.any (fun l => decide (u ∈ l.units)))
      && !(s.unitBusy u)
  | .spare p => decide (p ∈ s.freeSpares p.die p.cls p.island)

/-- The physical unit that a test runs on. -/
def State.targetPhys (s : State) : KatTarget → PhysId
  | .unit u => s.physOf u
  | .spare p => p

/-- The time of a unit's last pass in its island's present bins; 0 before any (14 R472). -/
def State.lastPass (s : State) (t : KatTarget) : Nat :=
  let p := s.targetPhys t
  let b := s.physBins p
  ((s.units.passes.find? (fun q => decide (q.unit = p) && decide (q.vbin = b.1) && decide (q.tbin = b.2))).map
    KatPass.time).getD 0

/-- Record a pass. -/
def State.notePass (s : State) (t : KatTarget) : State :=
  let p := s.targetPhys t
  let b := s.physBins p
  { s with units := { s.units with
      passes := s.units.passes.filter (fun q => !(decide (q.unit = p) && decide (q.vbin = b.1) && decide (q.tbin = b.2)))
        ++ [⟨p, b.1, b.2, s.now⟩] } }

-- Outcomes (14 R466, R472).

/-- A test has run to its end: EVR_KAT_RUNS, and EVR_KAT_FAILS for a mismatch. -/
def State.countKat (s : State) (fail : Bool) : State :=
  let t := s.bumpRf (aEVR + 0x20) 31 0 1
  if fail then t.bumpRf (aEVR + 0x24) 31 0 1 else t

/-- A spare that serves no unit is declared faulty: it works no longer. -/
def State.failSpare (s : State) (p : PhysId) : State :=
  let t := s.noteDeclared (siteSpare p (s.spareIdx p)) (lo32 p.island) (degC (s.physIsland p).temp)
  ({ t with units := { t.units with lostSpares := t.units.lostSpares ++ [p] } }).markTests (.spare p)
    (fun q => { q with declared := true })

/-- A known-answer mismatch: recorded, and a fault event of the unit (14 R462, R466). -/
def State.katMismatch (s : State) (t : KatTarget) : State :=
  let v := s.countKat true
  match t with
  | .unit u => v.unitFault u 0x0102
  | .spare p =>
    let b := v.physBins p
    let e : FaultEvt := ⟨.unit p, 0x0102, b.1, b.2, v.now⟩
    let w := (v.record 0x0102 (siteSpare p (v.spareIdx p)) (lo32 p.island) (degC (v.physIsland p).temp)).addFault e
    if v.lastingWith e && decide (p ∉ v.units.lostSpares) then w.failSpare p else w

/-- One test with its outcome. A second mismatch meets the bin condition of R465 and declares the unit. -/
def State.katRun (s : State) (t : KatTarget) : KatRun → State
  | .pass => (s.countKat false).notePass t
  | .mismatchPass => ((s.katMismatch t).countKat false).notePass t
  | .mismatchTwice => (s.katMismatch t).katMismatch t
  | .mismatchAbandoned => s.katMismatch t
  | .abandoned => s

/-- Every unit and spare of an island of a die. -/
def State.islandTargets (s : State) (d i : Nat) : List KatTarget :=
  allClasses.flatMap (fun c =>
    ((((List.range c.perDie).map (fun n => (⟨d, c, n⟩ : UnitId))).filter (fun u => decide (u.island = i))).map
      KatTarget.unit)
    ++ (((s.allSpares d c).filter (fun p => decide (p.island = i))).map KatTarget.spare))

/-- The target is, of the eligible units of its island, one whose last pass in the present bins is oldest. -/
def State.oldest (s : State) (t : KatTarget) : Bool :=
  let p := s.targetPhys t
  s.eligible t && (s.islandTargets p.die p.island).all (fun q =>
    !(s.eligible q) || decide (s.lastPass t ≤ s.lastPass q))

/-- BACKGROUND_KAT: Ryrn tests the eligible unit with the oldest pass, unless the limiter withholds non-radio work
(14 R470 to R472). -/
def backgroundKat (t : KatTarget) (run : KatRun) (s : State) : State :=
  if s.awake && !s.power.withheld && s.oldest t then s.katRun t run else s

-- Requests (14 R473, R474).

/-- Checks of a SELFTEST block, each with its descriptor word. -/
def State.selfTestChecks (s : State) (ws : List W32) : List (Nat × Bool) :=
  let kind := wfield ws 4 7 0
  let kat := decide (kind = 1) || decide (kind = 2)
  let c := (classOf (wfield ws 4 15 8)).getD .tile
  let d := wfield ws 4 16 16
  let unit := wfield ws 5 15 0
  [ (4, decide (1 ≤ kind) && decide (kind ≤ 4)),
    (4, if kat then decide (wfield ws 4 15 8 ≤ 6) else decide (wfield ws 4 15 8 = 0)),
    (4, decide (kind ≠ 4) || decide (d = 0)),
    (4, decide (kind = 1) || decide (wfield ws 4 17 17 = 0)),
    (5, match kind with
      | 1 => if wfield ws 4 17 17 = 1 then decide (unit < (s.allSpares d c).length) else decide (unit < c.perDie)
      | 2 => decide (unit = 0)
      | 3 => decide (unit < 8)
      | _ => decide (unit < 48)),
    (6, decide (1 ≤ wfield ws 6 15 0) && decide (wfield ws 6 15 0 ≤ 1000)),
    (8, decide (wpair ws 8 % 32 = 0)) ]

/-- The units of a request. -/
def State.requestTargets (s : State) (ws : List W32) : List KatTarget :=
  let c := (classOf (wfield ws 4 15 8)).getD .tile
  let d := wfield ws 4 16 16
  let n := wfield ws 5 15 0
  match wfield ws 4 7 0 with
  | 1 => if wfield ws 4 17 17 = 1 then ((s.allSpares d c)[n]?).toList.map KatTarget.spare else [.unit ⟨d, c, n⟩]
  | 2 => (((List.range c.perDie).map (fun i => KatTarget.unit ⟨d, c, i⟩))
      ++ (s.allSpares d c).map KatTarget.spare).filter s.eligible
  | _ => []

/-- The request names a retired logical number (01 R43). -/
def State.requestRetired (s : State) (ws : List W32) : Bool :=
  decide (wfield ws 4 7 0 = 1) && decide (wfield ws 4 17 17 = 0)
    && s.isRetired ⟨wfield ws 4 16 16, (classOf (wfield ws 4 15 8)).getD .tile, wfield ws 5 15 0⟩

/-- The result record (14 R474). -/
def SelfTest.bytes (t : SelfTest) (deferred : Bool) : List Byte :=
  leBytes 4 t.passed ++ leBytes 4 t.failed ++ leBytes 4 t.abandoned
    ++ leBytes 4 ((if t.declared then 1 else 0) + (if t.retired then 2 else 0) + (if deferred then 4 else 0)
      + t.vbin * 2 ^ 8 + t.tbin * 2 ^ 16)
    ++ leBytes 4 (wrapOf 32 (t.margin.getD 0)) ++ leBytes 12 0

/-- The result record is written, then the request completes (14 R474, 09 R338). -/
def State.finishTest (s : State) (t : SelfTest) (a : Nat) (st : Status) : State :=
  let v : State := { s with units := { s.units with
    selfTests := s.units.selfTests.filter (fun q => decide (q.idx ≠ t.idx)) } }
  if v.windowOk 0x7F a 32 then
    (v.putHost a (t.bytes (decide (st = .deferred)))).finishDesc 0 t.idx (Result.of st)
  else (v.refuseWrite 0x7F a).finishDesc 0 t.idx { status := .hostWindowFault, d4 := lo32 a, d5 := hi32 a }

def State.selfTest (s : State) (idx : Nat) : Option SelfTest :=
  s.units.selfTests.find? (fun t => decide (t.idx = idx))

def State.putTest (s : State) (t : SelfTest) : State :=
  { s with units := { s.units with
      selfTests := s.units.selfTests.map (fun q => if q.idx = t.idx then t else q) } }

/-- The words of a request's descriptor. -/
def State.testWords (s : State) (idx : Nat) : List W32 :=
  (((s.ring 0).descs.find? (fun d => decide (d.idx = idx))).map Desc.words).getD []

/-- A request whose runs are all complete finishes. -/
def State.endTest (s : State) (idx : Nat) : State :=
  match s.selfTest idx with
  | none => s
  | some t => if t.total ≤ t.done then s.finishTest t (wpair (s.testWords idx) 8) .success else s

/-- The next descriptor of the admin ring is a SELFTEST of the kind, or one that fails a check: it starts, at
most 16 at once (14 R473, R474). -/
def State.startTest (s : State) (kind idx : Nat) : State :=
  s.admitAdmin 0x31 (fun t d =>
    if d.idx = idx then
      let ws := d.words
      match descFail ws (t.selfTestChecks ws) with
      | some w => t.finishDesc 0 idx (Result.bad w)
      | none =>
        let a := wpair ws 8
        if wfield ws 4 7 0 ≠ kind then t
        else if t.requestRetired ws then t.finishDesc 0 idx (Result.of .engineReserved)
        else if !(t.windowOk 0x7F a 32) then
          t.finishDesc 0 idx { status := .hostWindowFault, d4 := lo32 a, d5 := hi32 a }
        else if 16 ≤ t.units.selfTests.length then t
        else
          let targets := t.requestTargets ws
          let runs := wfield ws 6 15 0
          let total := if kind ≤ 2 then targets.length * runs else runs
          let q : SelfTest := ⟨idx, kind, targets, runs, 0, total, 0, 0, 0, false, false, 0, 0, none⟩
          let v := t.startDesc 0 idx
          ({ v with units := { v.units with selfTests := v.units.selfTests ++ [q] } }).endTest idx
    else t)

/-- One more known-answer run of a request, on the unit whose turn it is, once that is eligible. -/
def State.testRun (s : State) (idx : Nat) (o : KatRun) : State :=
  match s.selfTest idx with
  | none => s
  | some t =>
    match t.targets[t.done / t.runs]? with
    | none => s
    | some g =>
      if s.eligible g && !s.power.withheld then
        let b := s.physBins (s.targetPhys g)
        let v := s.katRun g o
        let q := (v.selfTest idx).getD t
        let t' : SelfTest := match o with
          | .abandoned => { q with abandoned := q.abandoned + 1 }
          | .pass => { q with passed := q.passed + 1, done := q.done + 1, vbin := b.1, tbin := b.2 }
          | _ => { q with failed := q.failed + 1, done := q.done + 1, vbin := b.1, tbin := b.2 }
        (v.putTest t').endTest idx
      else s

/-- KAT_UNIT: a request of kind 0x01 starts if it has not, and the given runs take place (14 R473, R474). -/
def katUnit (idx : Nat) (outs : List KatRun) (s : State) : State :=
  if s.awake then
    let t := s.startTest 1 idx
    match t.selfTest idx with
    | some q => if q.kind = 1 then outs.foldl (fun v o => v.testRun idx o) t else t
    | none => t
  else s

/-- KAT_CLASS: as KAT_UNIT, for every unit of a class on a die. -/
def katClass (idx : Nat) (outs : List KatRun) (s : State) : State :=
  if s.awake then
    let t := s.startTest 2 idx
    match t.selfTest idx with
    | some q => if q.kind = 2 then outs.foldl (fun v o => v.testRun idx o) t else t
    | none => t
  else s

/-- The smaller of a margin so far and a new one. -/
def minMargin (m : Option Int) (v : Int) : Option Int :=
  match m with
  | none => some v
  | some u => some (if v < u then v else u)

/-- The island has an eligible tile and an eligible VDE. -/
def State.islandTestable (s : State) (d i : Nat) : Bool :=
  ([EngineClass.tile, .vde] : List EngineClass).all (fun c =>
    (s.islandTargets d i).any (fun t => decide ((s.targetPhys t).cls = c) && s.eligible t))

/-- One speed monitor check: the real path's rate minus the reported one. A monitor above the real path fires
source 3, and for a radio island is a pace emergency (14 R473, R474). -/
def State.monitorRun (s : State) (idx : Nat) (margin : Int) : State :=
  match s.selfTest idx with
  | none => s
  | some t =>
    let ws := s.testWords idx
    let d := wfield ws 4 16 16
    let i := wfield ws 5 2 0
    if s.islandTestable d i && decide (t.done < t.total) && !s.power.withheld then
      let x := s.island d i
      let bad := decide (margin < 0)
      let t' := { t with
        done := t.done + 1
        passed := if bad then t.passed else t.passed + 1
        failed := if bad then t.failed + 1 else t.failed
        vbin := vBin x.mv, tbin := tBin x.temp, margin := minMargin t.margin margin }
      let v := if bad then
          let w := (s.record 0x0108 (siteIsland d i) 0 margin).edge 3
          if x.radio then
            let e := w.emerg d
            let on := w.emergIn d .pace
            (w.setEmerg d { e with monitors := (if on then e.monitors else 0) ||| 2 ^ i }).declareEmerg d .pace
              ((if on then e.islands else 0) ||| 2 ^ i)
          else w
        else s
      (v.putTest t').endTest idx
    else s

/-- MONITOR_CHECK: a request of kind 0x03 starts if it has not, and the given runs take place. -/
def monitorCheck (idx : Nat) (margins : List Int) (s : State) : State :=
  if s.awake then
    let t := s.startTest 3 idx
    match t.selfTest idx with
    | some q => if q.kind = 3 then margins.foldl (fun v m => v.monitorRun idx m) t else t
    | none => t
  else s

/-- One line margin check: the margins of the lines of the half-stack's pseudo-channels, by pseudo-channel 0 to 15
and line, in 0.1 % of the unit interval (14 R473, R474). -/
def State.marginRun (s : State) (idx : Nat) (lines : List (Nat × Nat × Nat)) : State :=
  match s.selfTest idx with
  | none => s
  | some t =>
    let h := wfield (s.testWords idx) 5 5 0
    if (s.halfOwner h).isNone && !(s.radioHalf h) && decide (t.done < t.total) && !s.power.withheld then
      let low := lines.filter (fun l => decide (l.2.2 < 100))
      let t' := { t with
        done := t.done + 1
        passed := if low.isEmpty then t.passed + 1 else t.passed
        failed := if low.isEmpty then t.failed else t.failed + 1
        vbin := 0, tbin := tBin (s.stackT (h / 2))
        margin := lines.foldl (fun m l => minMargin m (Int.ofNat l.2.2)) t.margin }
      let v := low.foldl (fun v l => v.lineFault ⟨h / 2, 16 * (h % 2) + l.1 % 16, l.2.1⟩ l.2.2) s
      (v.putTest t').endTest idx
    else s

/-- MARGIN_CHECK: a request of kind 0x04 starts if it has not, and the given runs take place. -/
def marginCheck (idx : Nat) (runs : List (List (Nat × Nat × Nat))) (s : State) : State :=
  if s.awake then
    let t := s.startTest 4 idx
    match t.selfTest idx with
    | some q => if q.kind = 4 then runs.foldl (fun v l => v.marginRun idx l) t else t
    | none => t
  else s

/-- The site of a request that is deferred: the unit whose turn it is, the island, or the stack (14 R478). -/
def State.testSite (s : State) (ws : List W32) (t : Option SelfTest) : W32 × W32 :=
  let d := wfield ws 4 16 16
  match wfield ws 4 7 0 with
  | 3 => (siteIsland d (wfield ws 5 2 0), 0)
  | 4 => (siteStack (wfield ws 5 5 0 / 2) 0 0, 0)
  | _ =>
    let g := match t with
      | some q => q.targets[q.done / q.runs]?
      | none => (s.requestTargets ws).head?
    match g with
    | some (.unit u) => (siteUnit u, lo32 u.island)
    | some (.spare p) => (siteSpare p (s.spareIdx p), lo32 p.island)
    | none => (siteUnit ⟨d, (classOf (wfield ws 4 15 8)).getD .tile, 0⟩, 0)

/-- SELFTEST_DEFERRED: 60 s after its arrival a request whose runs are not all complete ends with DEFERRED, running
or waiting (14 R474). -/
def selftestDeferred (idx : Nat) (s : State) : State :=
  match (s.ring 0).descs.find? (fun d => decide (d.idx = idx) && decide (d.op = 0x31) && !d.done) with
  | none => s
  | some d =>
    if s.awake && decide (d.arrival + 60_000_000_000 ≤ s.ptp) then
      let q := s.selfTest idx
      let ws := d.words
      let runs := wfield ws 6 15 0
      let t : SelfTest := q.getD ⟨idx, wfield ws 4 7 0, s.requestTargets ws, runs, 0,
        (if wfield ws 4 7 0 ≤ 2 then (s.requestTargets ws).length * runs else runs), 0, 0, 0, false, false, 0, 0, none⟩
      let site := s.testSite ws q
      (s.record 0x0503 site.1 site.2 (Int.ofNat (t.total - t.done))).finishTest t (wpair ws 8) .deferred
    else s

-- The start-up test (14 R475 steps 4 and 5).

/-- A unit that failed its start-up test is declared faulty without counting, and substituted or retired; the
substitution of a die that does no work ends at once, and is recorded (14 R478). A spare that failed is declared
faulty too (14 R467). -/
def State.startupFail (s : State) (t : KatTarget) : State :=
  match t with
  | .unit u =>
    let v := (s.record 0x0102 (siteUnit u) (lo32 u.island) (s.unitTemp u)).declareUnit u
    let w := (v.units.substs.filter (fun x => x.spare.isSome)).foldl (fun w x =>
      w.record 0x0106 (siteUnit x.unit) (lo32 x.unit.island) (w.usSince x.t0)) v
    { w with units := { w.units with substs := [] } }
  | .spare p => (s.record 0x0102 (siteSpare p (s.spareIdx p)) (lo32 p.island) (degC (s.physIsland p).temp)).failSpare p

-- The Summit register's control (14 R479, R480).

/-- EVR_FREEZE: a write of freeze = 1. -/
def evrFreeze (s : State) : State := if s.up then s.setRbit aEVR 1 true else s

/-- EVR_UNFREEZE: a write of freeze = 0: the held events enter in arrival order. -/
def evrUnfreeze (s : State) : State := if s.up then (s.setRbit aEVR 1 false).applyHeld else s

/-- EVR_CLEAR: a write of clear empties the register while it is frozen, and keeps the held events. -/
def evrClear (s : State) : State :=
  if s.up && s.rbit aEVR 1 then { s with summit := { s.summit with recs := [], full := false } } else s

/-- The value of EVR_STATUS, EVR_HELD or EVR_DATA (14 R480): a word of the register's memory. -/
def SummitRec.words (r : SummitRec) : List W32 :=
  let h := ((r.hist.zipIdx).map (fun e => e.1 * 2 ^ (12 * e.2))).sum
  [lo32 r.code, r.site, r.ext, lo32 r.first, hi32 r.first, lo32 r.last, hi32 r.last, lo32 r.count,
   lo32 (wrapOf 32 r.min), lo32 (wrapOf 32 r.max)] ++ (List.range 6).map (fun i => lo32 (h / 2 ^ (32 * i)))

-- The meanings.

def execBackgroundKat (t : KatTarget) (run : KatRun) (s : State) : Done := .next (backgroundKat t run s)
def execKatUnit (idx : Nat) (outs : List KatRun) (s : State) : Done := .next (katUnit idx outs s)
def execKatClass (idx : Nat) (outs : List KatRun) (s : State) : Done := .next (katClass idx outs s)
def execMonitorCheck (idx : Nat) (margins : List Int) (s : State) : Done := .next (monitorCheck idx margins s)
def execMarginCheck (idx : Nat) (runs : List (List (Nat × Nat × Nat))) (s : State) : Done :=
  .next (marginCheck idx runs s)
def execSelftestDeferred (idx : Nat) (s : State) : Done := .next (selftestDeferred idx s)
def execEvrFreeze (s : State) : Done := .next (evrFreeze s)
def execEvrUnfreeze (s : State) : Done := .next (evrUnfreeze s)
def execEvrClear (s : State) : Done := .next (evrClear s)

end Sys2Proof.Machine
end

