-- ==== Sys2Proof/Machine/Security.lean ====
section
/-! DEFINITION. The security island (13 R432 to R451): the firmware watchdog, firmware update, SPDM
mailboxes with measurements, IDE and the TSP states. -/

namespace Sys2Proof.Machine

open Host (Outcome)

def State.setSec (s : State) (f : Sec → Sec) : State := { s with sec := f s.sec }

-- The firmware watchdog (13 R433).

/-- RYRN_HEARTBEAT: the watchdog restarts. -/
def ryrnHeartbeat (s : State) : State :=
  if s.portsLive then s.setSec (fun x => { x with heartbeatAt := s.now }) else s

/-- WATCHDOG_QUIESCE: no heartbeat for 4 ms: source 11 is sent, every egress stops, and the quiesce is counted
and recorded (13 R433, R440). -/
def watchdogQuiesce (s : State) : State :=
  if s.portsLive && !s.activating && decide (s.sec.heartbeatAt + 4_000_000 ≤ s.now) then
    ((s.edge 11).record 0x0502 siteDevice 0 0).setSec (fun x =>
      { x with quiesced := true, quiesces := satAdd 0xFFFF x.quiesces 1 })
  else s

-- Firmware images (13 R434 to R440).

/-- The image as measured: its digest and svn. -/
def FwRead.image (r : FwRead) : FwImage := ⟨sha256 r.body, r.header.svn⟩

/-- The size of an image is the one of its header, at most 32 MiB, and its svn at most 63 (13 R434). -/
def FwRead.formOk (r : FwRead) : Bool :=
  decide (r.header.size = r.body.length) && decide (r.body.length ≤ 33_554_432) && decide (r.header.svn ≤ 63)

/-- A signing key that the root certifies verifies the signature of the header (13 R434). -/
def FwHeader.signed (h : FwHeader) (rootKey : List Byte) : Bool :=
  Config.certified rootKey h.cert h.signer
    && Config.ecdsaVerify h.signer (Config.signedHeader h.digest h.size h.svn) h.sig

/-- reject_cause of an image under the fuses; 0: accepted (13 R434, R440). -/
def FwRead.cause (r : FwRead) (f : Fuses) : Nat :=
  if !r.readOk then 4
  else if !r.formOk then 3
  else if !(r.header.signed f.rootKey && decide (r.header.digest = sha256 r.body)) then 1
  else if r.header.svn < f.minSvn then 2
  else 0

/-- The inactive bank of the boot flash. -/
def Sec.inactive (x : Sec) : Option FwImage := if x.activeB then x.bankA else x.bankB
def Sec.setInactive (x : Sec) (b : Option FwImage) : Sec := if x.activeB then { x with bankA := b } else { x with bankB := b }

/-- A change of the update's state: source 12 fires (13 R438). -/
def State.setFw (s : State) (v : FwState) : State := (s.setSec (fun x => { x with fw := v })).edge 12

def FwState.code : FwState → Nat
  | .idle => 0 | .staging => 1 | .staged => 2 | .activating => 3
def FwResult.code : FwResult → Nat
  | .none => 0 | .committed => 1 | .rolledBack => 2 | .rejected => 3

/-- SEC_FW_STATUS, SEC_FW_SVN and SEC_WDOG as read (13 R440). -/
def State.fwStatus (s : State) : W32 :=
  lo32 (s.sec.cause * 2 ^ 20 + s.sec.last.code * 2 ^ 16 + (if s.sec.activeB then 256 else 0) + s.sec.fw.code)
def State.fwSvn (s : State) : W32 :=
  lo32 (s.sec.stagedSvn % 256 * 2 ^ 16 + s.sec.running.svn % 256 * 2 ^ 8 + s.fuses.minSvn)
def State.wdog (s : State) : W32 := lo32 ((if s.sec.quiesced then 2 ^ 31 else 0) + s.sec.quiesces)

/-- Every partition is DISABLED and every cell IDLE (13 R438, 15 R489). -/
def State.allQuiet (s : State) : Bool :=
  s.parts.all (fun e => decide (e.2.state = .disabled)) && s.radio.cells.all (fun e => decide (e.2.state = .idle))

/-- The action is accepted now: STAGE and DISCARD outside staging and activation, ACTIVATE with an image staged,
every partition DISABLED and every cell IDLE (13 R437, R438). -/
def State.fwAccepts (s : State) (act : Nat) : Bool :=
  if act = 2 then decide (s.sec.fw = .staged) && s.allQuiet
  else decide (s.sec.fw ≠ .staging) && decide (s.sec.fw ≠ .activating)

/-- The word of a FW_UPDATE that fails a check (13 R436). -/
def State.fwBad (s : State) (ws : List W32) : Option Nat :=
  let act := wfield ws 4 7 0
  let size := (wordAt ws 7).toNat
  descFail ws [(4, decide (1 ≤ act) && decide (act ≤ 3) && s.fwAccepts act),
    (5, if act = 1 then decide (wpair ws 5 % 4096 = 0) else decide (wordAt ws 5 = 0)),
    (6, decide (act = 1) || decide (wordAt ws 6 = 0)),
    (7, if act = 1 then decide (4096 ≤ size) && decide (size ≤ 33_554_432) else decide (size = 0))]

/-- The next descriptor of the admin ring is a FW_UPDATE of an action, or one that fails a check (13 R436). -/
def State.fwUpdate (s : State) (act : Nat) (f : State → Desc → State) : State :=
  s.admitAdmin 0x32 (fun t d =>
    match t.fwBad d.words with
    | some w => t.finishDesc 0 d.idx (Result.bad w)
    | none => if wfield d.words 4 7 0 = act then f t d else t)

/-- STAGE: without a reading it starts, and the inactive bank no longer holds an image; with what the island
found, the check ends: the image is staged, or rejected (13 R437, R439). -/
def fwStage (r : Option FwRead) (s : State) : State :=
  match r with
  | none => s.fwUpdate 1 (fun t d =>
      ((t.startDesc 0 d.idx).setSec (fun x =>
        { x.setInactive none with actIdx := d.idx, stagedSvn := 0 })).setFw .staging)
  | some r =>
    if s.awake && decide (s.sec.fw = .staging) then
      let c := r.cause s.fuses
      if c = 0 then
        ((s.setSec (fun x => { x.setInactive (some r.image) with stagedSvn := r.image.svn })).setFw .staged).finishDesc
          0 s.sec.actIdx (Result.of .success)
      else
        ((s.setSec (fun x => { x with cause := c, last := .rejected })).setFw .idle).finishDesc
          0 s.sec.actIdx (Result.of .imageRejected)
    else s

/-- DISCARD: a staged bank is marked empty (13 R437). -/
def fwDiscard (s : State) : State :=
  s.fwUpdate 3 (fun t d =>
    match t.sec.fw with
    | .staged => ((t.setSec (fun x => { x.setInactive none with stagedSvn := 0 })).setFw .idle).finishDesc
        0 d.idx (Result.of .success)
    | _ => t.finishDesc 0 d.idx (Result.of .success))

/-- ACTIVATE: accepted only with an image staged, every partition DISABLED and every cell IDLE (13 R438). -/
def fwActivate (s : State) : State :=
  s.fwUpdate 2 (fun t d =>
    ((t.startDesc 0 d.idx).setSec (fun x =>
      { x with actIdx := d.idx, actAt := t.now, raiseSvn := decide (wfield d.words 8 0 0 = 1) })).setFw .activating)

-- Measurements (13 R444 to R446).

/-- The identity of a die in 8 bytes (13 R444). -/
def DieFuse.bytes (d : DieFuse) : List Byte := leBytes 5 d.lot ++ [lo8 d.wafer, lo8 d.x, lo8 d.y]
where
  lo8 (n : Nat) : Byte := BitVec.ofNat 8 n

/-- ID_PART (00 R2). -/
def State.idPart (s : State) : W32 := lo32 (0x2400 * 2 ^ 16 + (if s.fuses.big then 0x30 else 0x18) * 2 ^ 8 + s.fuses.stepping)

def byteOf (b : Bool) : Byte := if b then 1 else 0

/-- The completion of the LOAD_IMAGE that loaded an image waits to be written. -/
def State.loadPending (s : State) (e : Nat × Image) : Bool :=
  (s.ring e.2.loadedBy.1).descs.any (fun d => decide (d.idx = e.2.loadedBy.2) && decide (d.op = 0x01)
    && decide (d.arg = e.1) && (d.result.map (fun r => decide (r.status = .success))).getD false)

/-- The image slots of the resident context whose LOAD_IMAGE has its completion written (13 R445). -/
def State.listedImages (s : State) (p : Nat) : List (Nat × Image) :=
  ((s.ctx p (s.part p).resident).images).filter (fun e => !(s.loadPending e))

/-- Partition p's record (13 R445, R446). -/
def State.partRecord (s : State) (p : Nat) : List Byte :=
  let x := s.part p
  let ims := match x.state with
    | .running | .stopped => s.listedImages p
    | _ => []
  let cfg := (List.range 45).map (fun i => s.reg (aPARTp p + 8 + 4 * i))
  [BitVec.ofNat 8 x.state.code, BitVec.ofNat 8 x.tsp, byteOf (s.paceBlind p), BitVec.ofNat 8 ims.length]
    ++ sha256 (wordsBytes cfg) ++ leBytes 4 (s.reg (aSCRUB p)).toNat
    ++ leBytes 8 (s.reg64 (aSCRUB p + 8)) ++ List.replicate 16 0
    ++ ims.flatMap (fun e => BitVec.ofNat 8 e.1 :: List.replicate 3 0 ++ e.2.programDigest ++ e.2.weightDigest)

/-- The contents of a measurement index (13 R444). -/
def State.measurement (s : State) (i : Nat) : List Byte :=
  match i with
  | 1 => s.sec.running.digest ++ [BitVec.ofNat 8 s.sec.running.svn]
  | 2 => Config.bootRom
  | 3 => s.fuses.dies.flatMap DieFuse.bytes
  | 4 => leBytes 4 s.idPart.toNat ++ [BitVec.ofNat 8 s.fuses.minSvn, byteOf s.sec.activeB, byteOf (s.rbit aSEC 0),
      byteOf (s.rbit (aSEC + 0x10) 0)]
  | 5 => leBytes 4 s.fwStatus.toNat ++ leBytes 4 s.fwSvn.toNat
  | j => s.partRecord (j - 0x10)

/-- The measurement block of an index (13 R444; DSP0274): index, measurement specification 1 (DMTF) and size; then the type of
the value, with bit 7 for a raw bit stream (every index but 1), its size and the value. -/
def State.measBlock (s : State) (i : Nat) : List Byte :=
  let v := s.measurement i
  BitVec.ofNat 8 i :: 1 :: leBytes 2 (v.length + 3)
    ++ BitVec.ofNat 8 (Config.measType i % 128 + (if i = 1 then 0 else 128)) :: leBytes 2 v.length ++ v

/-- The indices that a function's mailbox answers (13 R443). -/
def measIndices (fn : Nat) : List Nat :=
  [1, 2, 3, 4, 5] ++ (if fn = 0 then (List.range 64).map (· + 0x10) else [0x10 + (fn - 1)])

-- SPDM (13 R443 to R448).

/-- An answer leaves through the mailbox of a function. -/
def State.spdmOut (s : State) (fn : Nat) (r : SpdmReply) : State := { s with outs := .spdm fn r :: s.outs }

/-- A request to the mailbox of the function, in its configuration space: the physical function, or an enabled virtual
one. Before the boot has ended the request is told to retry (13 R443, 15 R483). -/
def State.mailbox (s : State) (fn : Nat) (f : State → State) : State :=
  s.configured (fun t => if fn ≤ t.numVfs ∧ fn ≤ 64 then f t else t)

/-- A signature under the Alias key of the image that runs (13 R441). -/
def State.sign (s : State) (bs : List Byte) : List Byte :=
  Config.ecdsaSign (s.fuses.key .leaf s.sec.running) bs

/-- The certificate chain of slot 0 or 1 (13 R442). -/
def State.chain (s : State) (slot : Nat) : List Byte := s.fuses.chain s.sec.running slot

/-- The answer to a CHALLENGE or GET_MEASUREMENTS: one snapshot of every index returned (13 R443 to R447). -/
def State.attest (s : State) (fn : Nat) (q : SpdmHeld) : SpdmReply :=
  match q with
  | .challenge slot nonce =>
    if slot ≤ 1 then
      let dg := sha256 (s.chain slot)
      .challengeAuth slot dg (s.sign (dg ++ nonce))
    else .error .invalidRequest
  | .measurements i signed nonce =>
    let ix := measIndices fn
    let want := if i = 0xFF then ix else ix.filter (fun j => decide (j = i))
    if i = 0 then .count ix.length
    else if want = [] then .error .invalidRequest
    else
      let bs := want.map (fun j => (j, s.measBlock j))
      .measurements bs (if signed then some (s.sign (bs.flatMap Prod.snd ++ nonce)) else none)

/-- A request that needs the connection of the mailbox negotiated. -/
def State.spdm (s : State) (fn : Nat) (f : State → State) : State :=
  s.mailbox fn (fun t =>
    if (t.box fn).stage = .negotiated then f t else t.spdmOut fn (.error .unexpectedRequest))

/-- What the device can and cannot do (13 R443): pre-shared keys, mutual authentication and measurement manifests are not
among it. -/
def spdmCaps : List SpdmCap :=
  [.certificates, .challenge, .signedMeasurements, .keyExchange, .encryption, .authentication, .heartbeat, .keyUpdate]

/-- The algorithms of the device: ECDSA P-256, SHA-256, DHE secp256r1 and AES-256-GCM (13 R443). -/
def spdmAlgs : List SpdmAlg := [.ecdsaP256, .sha256, .secp256r1, .aes256Gcm]

/-- GET_VERSION and GET_CAPABILITIES: the connection comes one step further (13 R443). -/
def getVersion (fn : Nat) (s : State) : State :=
  s.mailbox fn (fun t => (t.setBox fn { t.box fn with stage := .versioned }).spdmOut fn (.version [(1, 2)]))
def getCapabilities (fn : Nat) (s : State) : State :=
  s.mailbox fn (fun t =>
    if (t.box fn).stage = .start then t.spdmOut fn (.error .unexpectedRequest)
    else (t.setBox fn { t.box fn with stage := .capable }).spdmOut fn (.capabilities spdmCaps))

/-- NEGOTIATE_ALGORITHMS with what the requester offers: the device chooses its own; a requester that does not offer them
all gets an error (13 R443, log entry 87). -/
def negotiate (fn : Nat) (offered : List SpdmAlg) (s : State) : State :=
  s.mailbox fn (fun t =>
    match (t.box fn).stage with
    | .capable | .negotiated =>
      if spdmAlgs.all (fun a => decide (a ∈ offered)) then
        (t.setBox fn { t.box fn with stage := .negotiated }).spdmOut fn (.algorithms spdmAlgs)
      else t.spdmOut fn (.error .invalidRequest)
    | _ => t.spdmOut fn (.error .unexpectedRequest))

/-- GET_DIGESTS and GET_CERTIFICATE (13 R442). -/
def getDigests (fn : Nat) (s : State) : State :=
  s.spdm fn (fun t => t.spdmOut fn (.digests (sha256 (t.chain 0)) (sha256 (t.chain 1))))
def getCertificate (fn slot off len : Nat) (s : State) : State :=
  s.spdm fn (fun t =>
    let c := t.chain slot
    if slot ≤ 1 ∧ off ≤ c.length then
      let part := (c.drop off).take len
      t.spdmOut fn (.certificate slot part (c.length - off - part.length))
    else t.spdmOut fn (.error .invalidRequest))

/-- CHALLENGE and GET_MEASUREMENTS: answered at once, or held while an update activates (13 R447). -/
def State.attestOrHold (s : State) (fn : Nat) (q : SpdmHeld) : State :=
  s.spdm fn (fun t =>
    if t.activating then t.setSec (fun x => { x with held := x.held ++ [(fn, q)] })
    else t.spdmOut fn (t.attest fn q))
def challenge (fn slot : Nat) (nonce : List Byte) (s : State) : State := s.attestOrHold fn (.challenge slot nonce)
def getMeasurements (fn i : Nat) (signed : Bool) (nonce : List Byte) (s : State) : State :=
  s.attestOrHold fn (.measurements i signed nonce)

/-- The held requests are answered, oldest first (13 R447). -/
def State.answerHeld (s : State) : State :=
  s.sec.held.foldl (fun t e => t.spdmOut e.1 (t.attest e.1 e.2)) (s.setSec (fun x => { x with held := [] }))

/-- KEY_EXCHANGE: a session of at most four; the device authenticates with the Alias key (13 R448). -/
def keyExchange (fn : Nat) (share : List Byte) (s : State) : State :=
  s.spdm fn (fun t =>
    let m := t.box fn
    match ([0, 1, 2, 3] : List Nat).find? (fun i => !(m.sessions.any (fun x => decide (x.id = i)))) with
    | none => t.spdmOut fn (.error .sessionLimit)
    | some i =>
      let ex := Config.dheShare t.free
      ((t.drawn.setBox fn { m with sessions := m.sessions ++ [⟨i, false, 0, t.now⟩] })).spdmOut fn
        (.keyExchange i ex (t.sign (share ++ ex))))

/-- A request inside a session of the mailbox: one that FINISH has established, or, for FINISH, one that
waits for it. -/
def State.inSession (s : State) (fn id : Nat) (open' : Bool) (f : Session → List Session) (r : SpdmReply) : State :=
  s.spdm fn (fun t =>
    let m := t.box fn
    match m.sessions.find? (fun x => decide (x.id = id) && decide (x.established = open')) with
    | none => t.spdmOut fn (.error .invalidSession)
    | some x =>
      let rest := m.sessions.filter (fun y => decide (y.id ≠ id))
      (t.setBox fn { m with sessions := rest ++ f x }).spdmOut fn r)

/-- FINISH, HEARTBEAT, KEY_UPDATE, END_SESSION (13 R443, R448). -/
def finish (fn id : Nat) (s : State) : State := s.inSession fn id false (fun x => [{ x with established := true }]) .finish
def spdmHeartbeat (fn id : Nat) (s : State) : State :=
  s.inSession fn id true (fun x => [{ x with heardAt := s.now }]) .heartbeatAck
def keyUpdate (fn id : Nat) (s : State) : State :=
  s.inSession fn id true (fun x => [{ x with keyGen := x.keyGen + 1 }]) .keyUpdateAck
def endSession (fn id : Nat) (s : State) : State := s.inSession fn id true (fun _ => []) .endSessionAck

/-- An established session of a mailbox. -/
def State.hasSession (s : State) (fn id : Nat) : Bool :=
  (s.box fn).sessions.any (fun x => decide (x.id = id) && x.established)

/-- IDE_KM: a key of a stream is delivered or refreshed inside a session of the PF mailbox (13 R449). -/
def ideKm (id : Nat) (stream : IdeStream) (key : Nat) (s : State) : State :=
  s.spdm 0 (fun t =>
    if t.hasSession 0 id then
      (t.setSec (fun x => match stream with
        | .io => { x with ideIo := some key }
        | .cacheMem => { x with ideMem := some key })).spdmOut 0 .ideAck
    else t.spdmOut 0 (.error .invalidSession))

/-- IDE_FAILURE: an integrity failure ends IDE on the link, and device source 8 fires (13 R449). -/
def ideFailure (s : State) : State :=
  if s.up && (s.sec.ideIo.isSome || s.sec.ideMem.isSome) then
    (s.setSec (fun x => { x with ideIo := none, ideMem := none })).edge 8
  else s

-- The end of an update (13 R438, R447, R448).

/-- FW_COMMIT: the new Ryrn passes its start-up check and asks to commit, within 250 ms: the active-bank record is
rewritten and min_svn raised if asked (13 R438, R439). -/
def fwCommit (s : State) : State :=
  match s.sec.inactive with
  | some im =>
    if s.up && s.activating && decide (s.now ≤ s.sec.actAt + 250_000_000) then
      let low := if s.sec.raiseSvn then max s.fuses.minSvn im.svn else s.fuses.minSvn
      let t := { s with fuses := { s.fuses with minSvn := low } }
      let u := t.setSec (fun x => { x with
        activeB := !x.activeB, running := im, stagedSvn := 0, last := .committed, heartbeatAt := s.now })
      (((u.endSessions 0).setFw .idle).finishDesc 0 s.sec.actIdx (Result.of .success)).answerHeld
    else s
  | none => s

/-- FW_ROLLBACK: no commit by 250 ms: the old bank is restarted under its old measurement (13 R438). -/
def fwRollback (s : State) : State :=
  if s.up && s.activating && decide (s.sec.actAt + 250_000_000 ≤ s.now) then
    let u := s.setSec (fun x => { x with stagedSvn := 0, last := .rolledBack, cause := 5, heartbeatAt := s.now })
    ((u.setFw .idle).finishDesc 0 s.sec.actIdx (Result.of .imageRejected)).answerHeld
  else s

-- TSP (13 R450, R451).

/-- A TSP transition driven over a session of the partition's virtual function, while it is RUNNING. -/
def State.tspMove (s : State) (p from' : Nat) (f : Part → Part) : State :=
  if s.up && decide (p < 64) && decide ((s.part p).state = .running) && decide ((s.part p).tsp = from')
      && (s.box (p + 1)).sessions.any (fun x => x.established) then
    (s.setPart p (f (s.part p))).spdmOut (p + 1) .tspAck
  else s

/-- TSP_LOCK and TSP_RUN: locked, then run with the environment's IDE stream (13 R450). -/
def tspLock (p : Nat) (s : State) : State := s.tspMove p 0 (fun x => { x with tsp := 1 })
def tspRun (p stream : Nat) (s : State) : State := s.tspMove p 1 (fun x => { x with tsp := 2, stream := stream })

/-- TSP_ERROR: a bound partition enters error, until it is reset or released (13 R450). -/
def tspError (p : Nat) (s : State) : State :=
  if s.up && decide (p < 64) && (decide ((s.part p).tsp = 1) || decide ((s.part p).tsp = 2)) then
    s.setPart p { s.part p with tsp := 3 }
  else s

/-- SEC_TSP[n] as read (13 R451). -/
def State.secTsp (s : State) (n : Nat) : W32 :=
  lo32 (((List.range 16).map (fun b => (s.part (16 * n + b)).tsp * 4 ^ b)).sum)

-- The meanings.

def execRyrnHeartbeat (s : State) : Done := .next (ryrnHeartbeat s)
def execWatchdogQuiesce (s : State) : Done := .next (watchdogQuiesce s)
def execStage (r : Option FwRead) (s : State) : Done := .next (fwStage r s)
def execActivate (s : State) : Done := .next (fwActivate s)
def execDiscard (s : State) : Done := .next (fwDiscard s)
def execFwCommit (s : State) : Done := .next (fwCommit s)
def execFwRollback (s : State) : Done := .next (fwRollback s)
def execGetVersion (fn : Nat) (s : State) : Done := .next (getVersion fn s)
def execGetCapabilities (fn : Nat) (s : State) : Done := .next (getCapabilities fn s)
def execNegotiateAlgorithms (fn : Nat) (offered : List SpdmAlg) (s : State) : Done := .next (negotiate fn offered s)
def execGetDigests (fn : Nat) (s : State) : Done := .next (getDigests fn s)
def execGetCertificate (fn slot off len : Nat) (s : State) : Done := .next (getCertificate fn slot off len s)
def execChallenge (fn slot : Nat) (nonce : List Byte) (s : State) : Done := .next (challenge fn slot nonce s)
def execGetMeasurements (fn i : Nat) (signed : Bool) (nonce : List Byte) (s : State) : Done :=
  .next (getMeasurements fn i signed nonce s)
def execKeyExchange (fn : Nat) (share : List Byte) (s : State) : Done := .next (keyExchange fn share s)
def execFinish (fn id : Nat) (s : State) : Done := .next (finish fn id s)
def execSpdmHeartbeat (fn id : Nat) (s : State) : Done := .next (spdmHeartbeat fn id s)
def execKeyUpdate (fn id : Nat) (s : State) : Done := .next (keyUpdate fn id s)
def execEndSession (fn id : Nat) (s : State) : Done := .next (endSession fn id s)
def execIdeKm (id : Nat) (stream : IdeStream) (key : Nat) (s : State) : Done := .next (ideKm id stream key s)
def execIdeFailure (s : State) : Done := .next (ideFailure s)
def execTspLock (p : Nat) (s : State) : Done := .next (tspLock p s)
def execTspRun (p stream : Nat) (s : State) : Done := .next (tspRun p stream s)
def execTspError (p : Nat) (s : State) : Done := .next (tspError p s)

end Sys2Proof.Machine
end

