-- ==== Sys2Proof/Machine/Power.lean ====
section
/-! DEFINITION. Supplies, resets, start-up, standby and the management interface (15 R481 to R501, R504;
14 R475; 13 R435). -/

namespace Sys2Proof.Machine

open Host (Outcome)

-- Registers as read (15 R504).

def BootStage.code : BootStage → Nat
  | .fuseLoad => 0 | .selfTest => 1 | .boot => 2 | .running => 3
def ResetCause.code : ResetCause → Nat
  | .powerUp => 0 | .coldRstN => 1 | .perstN => 2 | .thermalTrip => 3 | .brownOut => 4 | .warmRstN => 5
  | .pwrReset => 6 | .pfReset => 7
def StandbyState.code : StandbyState → Nat
  | .running => 0 | .entering => 1 | .standby => 2 | .waking => 3

/-- PWR_BOOT. -/
def State.pwrBoot (s : State) : W32 :=
  let p := s.power
  lo32 (p.cause.code * 2 ^ 28 + p.failDie % 256 * 2 ^ 16 + p.fail * 2 ^ 4 + p.stage.code)

/-- PWR_TEMP: the hottest stack layer, and the hottest junction sensor of any die: of the islands of Massif, of
Basecamp and of the stacks' base dies. -/
def State.pwrTemp (s : State) : W32 :=
  let st := ((List.range 24).map (fun i => signedOf 12 (s.rf (aSTACK i) 27 16))).foldl max (-2048)
  let die := ((allIslands.map (fun e => (s.island e.1 e.2).temp)) ++ [s.power.basecampTemp]
    ++ (List.range 24).map (fun i => SMap.get (fun _ => 0) s.power.baseTemp i)).foldl max (-2048)
  lo32 (wrapOf 12 st * 2 ^ 16 + wrapOf 12 die)

-- Resets (15 R485, R486).

/-- The islands at the start-up voltage, 0.72 V, when the rails are on (15 R483, 14 R475). -/
def startMv : Nat := 720
def State.setIslandMv (s : State) (v : Nat) : State :=
  allIslands.foldl (fun t e => t.setIsland e.1 e.2 { t.island e.1 e.2 with mv := v }) s

/-- The registers that a warm reset keeps: WIN_CTRL and ALLOW_LOCK locks, write windows, scrub records, the
allow list (15 R486, 13 R456). -/
def warmKeeps (a : Nat) : Bool :=
  decide (a = aSEC) || decide (a = aSEC + 0x10) || (decide (aSEC + 0x100 ≤ a) && decide (a < aSEC + 0x5000))

/-- What every reset does: all but the fuses, the boot flash, the link to the host's memory and the supplies returns
to its reset state; the straps as sampled give ROPE_CTRL its reset value. `kept` names the
registers that keep their values (15 R486, R501). -/
def State.afterReset (s : State) (kept : Nat → Bool) : State :=
  let t := { State.reset with
    pending := s.pending, fuses := s.fuses, now := s.now, clk := s.clk, free := s.free, host := s.host, outs := s.outs,
    regs := s.regs.filter (fun e => kept e.1)
    stackSt := { s.stackSt with refresh := [] }
    units := { Units.reset with
      sramFaulty := s.units.sramFaulty, sramRepaired := s.units.sramRepaired, sramBad := s.units.sramBad }
    power := { Power.reset with
      phase := s.power.phase, auxOk := s.power.auxOk, cause := s.power.cause, coldRstN := s.power.coldRstN,
      perstN := s.power.perstN, warmRstN := s.power.warmRstN, strapAddr := s.power.strapAddr,
      strapRopeOff := s.power.strapRopeOff, powerGood := s.power.powerGood, thermTrip := s.power.thermTrip }
    sec := { Sec.reset with
      bankA := s.sec.bankA, bankB := s.sec.bankB, activeB := s.sec.activeB, running := s.sec.running } }
  let u := t.setRbit (aROPE + 4) 0 (!s.power.strapRopeOff)
  if decide (s.power.phase = .good) || decide (s.power.phase = .regulating) then u.setIslandMv startMv else u

/-- The index of the first die whose fuse block failed its check (01 R45). -/
def Fuses.badDie (f : Fuses) : Option Nat := (List.range 27).find? (fun i => !((f.dies[i]?.map (fun d => d.ok)).getD true))

/-- The fuses are loaded and checked: a failed block stops the start (15 R483 step 2, 01 R45). -/
def State.loadFuses (s : State) : State :=
  match s.fuses.badDie with
  | some i => { s with power := { s.power with fail := 1, failDie := i } }
  | none => s

/-- A cold reset: the clock restarts from zero and the fuses are loaded again (15 R486). -/
def State.coldReset (s : State) (c : ResetCause) : State :=
  let t := s.afterReset (fun _ => false)
  ({ t with clk := 0, power := { t.power with cause := c } }).loadFuses

/-- A warm reset: windows, allow list and locks are kept, the Summit register keeps its records with the held
events applied, the clock runs on with the servo ACQUIRING, Rope excludes the device, and every partition that
was not DISABLED gets a scrub record of kind 3 (15 R486). -/
def State.warmReset (s0 : State) (c : ResetCause) : State :=
  let s := (s0.setRbit aEVR 1 false).applyHeld
  let busy := (List.range 64).filter (fun p => s.enabled p)
  let t := s.afterReset warmKeeps
  let v : Servo := { Servo.reset with state := .acquiring, everLocked := s.ports.servo.everLocked }
  let u := { t with
    summit := s.summit
    sec := { t.sec with quiesces := s.sec.quiesces }
    ports := { t.ports with servo := v }
    power := { t.power with cause := c, stage := .selfTest, inReset := s.power.warmHeld, warmHeld := s.power.warmHeld } }
  let w := if s.power.strapRopeOff then u else u.setRopeState 3
  busy.foldl (fun w p => w.scrubRecord p 3 false) w

/-- A warm cause is taken while the device runs, and restarts a warm reset; a cold reset in progress goes on
(15 R485). -/
def State.warmTaken (s : State) : Bool :=
  decide (s.power.stage = .running) || (decide (s.power.stage ≠ .fuseLoad) && decide (5 ≤ s.power.cause.code))

def State.warmCause (s : State) (c : ResetCause) : State := if s.warmTaken then s.warmReset c else s

-- Power-up (15 R483).

/-- AUX_POWER_UP: AUX_3V3 reaches 3.135 V: the security island starts, and the fuses are loaded. -/
def auxPowerUp (s : State) : State :=
  if s.power.auxOk then s
  else ({ s with power := { s.power with auxOk := true, phase := .auxUp, thermTrip := false } }).coldReset .powerUp

/-- REGULATOR_START: the fuses are good and the 48 V input has been up for 1 ms: islands rise to 0.72 V. -/
def regulatorStart (s : State) : State :=
  if decide (s.power.phase = .auxUp) && decide (s.power.fail = 0) && !s.power.thermTrip then
    ({ s with power := { s.power with phase := .regulating } }).setIslandMv startMv
  else s

/-- POWER_GOOD: every rail is in regulation. -/
def powerGoodUp (s : State) : State :=
  if s.power.phase = .regulating then { s with power := { s.power with phase := .good, powerGood := true } } else s

/-- RESET_RELEASE: the later of COLD_RST_N and PERST_N is released: the straps are sampled, and link training and
the self-test start; Rope bring-up starts unless strapped off (15 R483, R501, 11 R396). -/
def resetRelease (addr : Nat) (ropeOff : Bool) (s : State) : State :=
  let p := s.power
  if decide (p.phase = .good) && decide (p.stage = .fuseLoad) && p.inReset && decide (p.fail = 0) && !p.thermTrip then
    let t := { s with power := { p with
      coldRstN := true, perstN := true, strapAddr := addr % 4, strapRopeOff := ropeOff, stage := .selfTest,
      inReset := !p.warmRstN, warmHeld := !p.warmRstN } }
    let u := t.setRbit (aROPE + 4) 0 (!ropeOff)
    if ropeOff then u else u.ropeStart 0
  else s

/-- The failures of a start-up test in the order in which they are acted on: the spares, which serve no more, then
the units in increasing logical number (14 R475, 01 R42). -/
def startupOrder (units : List KatTarget) : List KatTarget :=
  units.filter (fun t => match t with | .spare _ => true | .unit _ => false)
    ++ (List.range 192).flatMap (fun n => units.filter (fun t => match t with
      | .unit u => decide (u.num = n)
      | .spare _ => false))

/-- STARTUP_SELFTEST: after a cold reset, rows of tile stores and ledge buffers that fail, and those found before, are
repaired from redundant rows; wires that fail are replaced by spare wires, and lines that fail training by spare lines;
each unit that fails its test is substituted or retired, each spare that fails serves no more. A test past its
bound stops the start (14 R475, 15 R486, R504), unless a cold start of Rope runs it once more (11 R397). -/
def startupSelftest (lines : List LineId) (units : List KatTarget) (wires : List (Nat × Nat × Nat))
    (rows : List SramRow) (late : Bool) (s : State) : State :=
  let p := s.power
  if decide (p.stage = .selfTest) && !p.inReset && decide (p.fail = 0) then
    if late then
      (if decide (s.ropeState = 1) && decide (s.rope.stage = 0) && s.mayRerun then s.rerunStage
       else { s with power := { p with fail := 3 } })
    else
      let r := if p.cause.code < 5 then (s.units.sramFaulty ++ rows).foldl State.repairSram s else s
      let v := wires.foldl (fun t w => t.replaceWire (w.1 % 3) (w.2.1 % 2) w.2.2) r
      let t := (startupOrder units).foldl State.startupFail (v.trainStacks lines)
      let u : State := { t with power := { t.power with stage := .boot } }
      if u.ropeState = 1 then u.ropeStage 1 else u
  else s

/-- The boot ROM accepts a bank: it holds an image that checks, with svn neither below min_svn nor above 63 (13
R434). -/
def bankGood (minSvn : Nat) (ok : Bool) (b : Option FwImage) : Option FwImage :=
  match b with
  | some im => if ok && decide (minSvn ≤ im.svn) && decide (im.svn ≤ 63) then some im else none
  | none => none

/-- BOOT: the boot ROM checks the active bank, then the other one once, and starts Ryrn; `okA` and `okB` tell that
a bank can be read and its signature and digest agree. When both fail the device does not leave reset (13 R435,
15 R483 step 6). -/
def boot (okA okB : Bool) (s : State) : State :=
  let p := s.power
  if decide (p.stage = .boot) && !p.inReset && decide (p.fail = 0) then
    let a := bankGood s.fuses.minSvn okA s.sec.bankA
    let b := bankGood s.fuses.minSvn okB s.sec.bankB
    let pick := if s.sec.activeB then (match b with
        | some im => some (true, im)
        | none => a.map (fun im => (false, im)))
      else (match a with
        | some im => some (false, im)
        | none => b.map (fun im => (true, im)))
    match pick with
    | some (useB, im) =>
      { s with
        sec := { s.sec with activeB := useB, running := im, heartbeatAt := s.now }
        power := { p with stage := .running } }
    | none => { s with power := { p with fail := 2 } }
  else s

-- Loss of supply, reset pins (15 R482, R485, R495).

/-- The core rails turn off. -/
def State.railsOff (s : State) (ph : PowerPhase) : State :=
  { s with power := { s.power with phase := ph, powerGood := false } }

/-- BROWN_OUT: the 48 V input below 38 V for more than 50 µs (15 R482). -/
def brownOut (s : State) : State :=
  match s.power.phase with
  | .regulating | .good => (s.railsOff .auxUp).coldReset .brownOut
  | _ => s

/-- AUX_BROWN_OUT: AUX_3V3 below 3.0 V (15 R482). -/
def auxBrownOut (s : State) : State :=
  if s.power.auxOk then
    let t := (s.railsOff .off).coldReset .brownOut
    { t with power := { t.power with auxOk := false, thermTrip := false } }
  else s

/-- COLD_RST_N falls; `temp` is the hottest sensor in 0.125 °C. With every sensor below 95 °C it ends a thermal
trip, whose cause stands (15 R485, R495). -/
def coldRstN (temp : Int) (s : State) : State :=
  let t := { s with power := { s.power with coldRstN := false } }
  if s.power.thermTrip then
    (if temp < 760 then { t with power := { t.power with thermTrip := false } } else t)
  else if s.power.phase = .good then t.coldReset .coldRstN else t

/-- PERST_N falls (15 R485). -/
def perstN (s : State) : State :=
  let t := { s with power := { s.power with perstN := false } }
  if s.power.phase = .good ∧ !s.power.thermTrip then t.coldReset .perstN else t

/-- WARM_RST_N has been low for 10 µs: it holds the device in warm reset (15 R485). -/
def warmRstN (s : State) : State :=
  let hold := decide (s.power.stage ≠ .fuseLoad)
  let t := { s with power := { s.power with
    warmRstN := false, warmHeld := hold, inReset := s.power.inReset || hold } }
  if s.warmTaken then t.warmReset .warmRstN else t

/-- WARM_RST_N returns high: the reset goes on to the self-test (15 R485, R486). -/
def warmRstNRelease (s : State) : State :=
  let p := s.power
  { s with power := { p with warmRstN := true, warmHeld := false, inReset := p.inReset && !p.warmHeld } }

/-- PWR_RESET, PF_FLR and CXL_HOT_RESET (15 R485). -/
def pwrReset (value : W32) (s : State) : State := if s.up && bitOf value 0 then s.warmCause .pwrReset else s
def pfFlr (s : State) : State := s.configured (fun t => t.warmCause .pfReset)
def cxlHotReset (s : State) : State := s.warmCause .pfReset

/-- THERMAL_TRIP: a junction sensor at 115 °C or a stack layer at 110 °C for 100 µs: THERMTRIP_N falls and the core
rails turn off (15 R495, R496). -/
def thermalTrip (junction layer : Int) (s : State) : State :=
  if s.power.auxOk && (decide (920 ≤ junction) || decide (880 ≤ layer)) && !s.power.thermTrip then
    (({ s with power := { s.power with thermTrip := true } }).railsOff .auxUp).coldReset .thermalTrip
  else s

-- Standby (15 R489 to R492).

/-- PWR_STANDBY as read. -/
def State.pwrStandby (s : State) : W32 := setField (s.reg (aPWR + 0x10)) 1 0 s.power.standby.code

/-- STANDBY_REQUEST: a write of PWR_STANDBY with request = 1: entry starts with every cell IDLE and every
partition DISABLED, else refused is set (15 R489). -/
def standbyRequest (value : W32) (s : State) : State :=
  if s.up && bitOf value 4 then
    let a := aPWR + 0x10
    let t := s.applyWrite a (setBit value 4 (s.rbit a 4))
    if s.power.standby = .running then
      if s.allQuiet then
        { t.setRbit a 4 true with power := { t.power with standby := .entering, standbyAt := t.now } }
      else t.setRbit a 2 true
    else t
  else s

/-- What an engine holds after standby: free values in its registers, its address generators and its array (15 R490). -/
def Vde.lost (n i : Nat) : Vde :=
  let w := Config.lostLane n i
  let pair (k : Nat) : Int × Int := ((w k).toInt, (w (k + 1)).toInt)
  let elem (k : Nat) : Elem := let e := pair k; ⟨FVal.ofInt e.1, FVal.ofInt e.2⟩
  { Vde.reset with
    v := (List.range 16).map (fun r => (List.range 32).map (fun l => w (32 * r + l)))
    a := (List.range 4).map (fun r => (List.range 32).map (fun l => pair (512 + 64 * r + 2 * l)))
    s := (List.range 8).map (fun r => w (768 + r))
    ag := (List.range 4).map (fun g => ⟨(List.range 4).map (fun k => lo32 (w (776 + 5 * g + k)).toNat), (w (780 + 5 * g)).toInt⟩)
    done := (List.range 64).map (fun k => elem (800 + 2 * k))
    work := (List.range 64).map (fun k => elem (928 + 2 * k)) }

/-- STANDBY_ENTERED: entry ends. Tile stores, ledge buffers and VDE state are lost: they hold free values until they are
zeroed, which is before a partition is enabled; pace registers read zero (15 R489, R490, log entry 18). -/
def standbyEntered (s : State) : State :=
  if s.power.standby = .entering then
    let t := allIslands.foldl (fun t e => t.setIsland e.1 e.2
      { t.island e.1 e.2 with pace := 0, paceLow := 0, mv := 0 }) s
    let lost : State := { t with
      tileW := [], tileA := [], ledge := [], vdes := [], power := { t.power with standby := .standby, lostAt := some t.free } }
    ((List.range 192).foldl (fun u i => u.setVde (i / 96) (i % 96) (Vde.lost t.free i)) lost).drawn
  else s

/-- STANDBY_WAKE_WRITE: a write of PWR_STANDBY with request = 0 (15 R491). While the device enters or wakes it
changes no request. -/
def standbyWakeWrite (value : W32) (s : State) : State :=
  if s.up && !(bitOf value 4) then
    let a := aPWR + 0x10
    match s.power.standby with
    | .entering | .waking => s.applyWrite a (setBit value 4 (s.rbit a 4))
    | .running => s.applyWrite a value
    | .standby => (s.applyWrite a value).wake
  else s

/-- WAKE_N low (15 R491). -/
def wakeN (s : State) : State := if s.up then s.wake else s

/-- WAKE_COMPLETE: rails and stacks are back, lines that fail training are replaced; the device runs, device
source 13 fires, and what waited is served (15 R491). -/
def wakeComplete (lines : List LineId) (s : State) : State :=
  if s.up && decide (s.power.standby = .waking) then
    let t := (s.setIslandMv (min startMv s.profile.1)).trainStacks lines
    let u := ({ t with power := { t.power with standby := .running } }).edge 13
    u.rope.waiting.foldl State.homeReceive (u.setRope (fun r => { r with waiting := [] }))
  else s

-- The management interface (15 R500).

/-- The identity registers of die n (01 R44). -/
def State.dieWord (s : State) (n w : Nat) : W32 :=
  match s.fuses.dies[n]? with
  | none => 0
  | some d =>
    match w with
    | 0 => lo32 d.lot
    | 1 => lo32 (d.lot / 2 ^ 32 % 256)
    | 2 => lo32 (d.wafer % 256 * 2 ^ 24 + d.x % 256 * 2 ^ 16 + d.y % 256 * 2 ^ 8 + d.stepping % 256)
    | _ =>
      let kind := if n = 0 then 0 else if n ≤ 2 then 1 else 2
      let pos := if n = 0 then 0 else if n ≤ 2 then n - 1 else n - 3
      lo32 (kind * 2 ^ 28 + pos * 2 ^ 8 + (if d.ok then 1 else 0))

/-- The registers that the management interface offers, by address of PF BAR 0. -/
def State.mgmtWord (s : State) (a : Nat) : Option W32 :=
  if a = 0 then some s.idPart
  else if 0x100 ≤ a ∧ a < aDIE 27 ∧ a % 4 = 0 then some (s.dieWord ((a - 0x100) / 16) (a % 16 / 4))
  else if a = aPWR then some (s.reg aPWR)
  else if a = aPWR + 0x1C then some s.pwrTemp
  else if a = aPWR + 0x18 then some s.pwrBoot
  else none

/-- MGMT_READ: an SMBus read at the strapped address, from the loading of the fuses on (15 R500). -/
def mgmtRead (smbus a : Nat) (s : State) : State :=
  if s.power.auxOk && decide (smbus = 0x58 + s.power.strapAddr) then
    match s.mgmtWord a with
    | some w => { s with outs := .mgmt w :: s.outs }
    | none => s
  else s

/-- MGMT_ALERT_N is low (15 R500). -/
def State.mgmtAlert (s : State) : Bool := s.power.thermTrip || decide (s.power.fail ≠ 0)

-- The meanings.

def execAuxPowerUp (s : State) : Done := .next (auxPowerUp s)
def execRegulatorStart (s : State) : Done := .next (regulatorStart s)
def execPowerGood (s : State) : Done := .next (powerGoodUp s)
def execResetRelease (addr : Nat) (ropeOff : Bool) (s : State) : Done := .next (resetRelease addr ropeOff s)
def execStartupSelftest (lines : List LineId) (units : List KatTarget) (wires : List (Nat × Nat × Nat))
    (rows : List SramRow) (late : Bool) (s : State) : Done := .next (startupSelftest lines units wires rows late s)
def execBoot (okA okB : Bool) (s : State) : Done := .next (boot okA okB s)
def execBrownOut (s : State) : Done := .next (brownOut s)
def execAuxBrownOut (s : State) : Done := .next (auxBrownOut s)
def execColdRstN (temp : Int) (s : State) : Done := .next (coldRstN temp s)
def execPerstN (s : State) : Done := .next (perstN s)
def execWarmRstN (s : State) : Done := .next (warmRstN s)
def execWarmRstNRelease (s : State) : Done := .next (warmRstNRelease s)
def execPwrReset (value : W32) (s : State) : Done := .next (pwrReset value s)
def execPfFlr (s : State) : Done := .next (pfFlr s)
def execCxlHotReset (s : State) : Done := .next (cxlHotReset s)
def execThermalTrip (junction layer : Int) (s : State) : Done := .next (thermalTrip junction layer s)
def execStandbyRequest (value : W32) (s : State) : Done := .next (standbyRequest value s)
def execStandbyEntered (s : State) : Done := .next (standbyEntered s)
def execStandbyWakeWrite (value : W32) (s : State) : Done := .next (standbyWakeWrite value s)
def execWakeN (s : State) : Done := .next (wakeN s)
def execWakeComplete (lines : List LineId) (s : State) : Done := .next (wakeComplete lines s)
def execMgmtRead (smbus a : Nat) (s : State) : Done := .next (mgmtRead smbus a s)

end Sys2Proof.Machine
end

