-- ==== Sys2Proof/Machine/RegAccess.lean ====
section
/-! DEFINITION. Host accesses to the registers (00 R14 to R19; 09 R308, R309): what every register of PF BAR
0 reads as, what a write to it does, 64-bit registers, and the views of BAR 2 and of the virtual
functions. -/

namespace Sys2Proof.Machine

open Host (Outcome)

-- Reads.

/-- Words of a cell's entry (07 R266). -/
def State.cellWord (s : State) (c w : Nat) : W32 :=
  let x := s.cell c
  let pr := x.price
  let b (k : Nat) : Nat := pr.bu.getD k 0
  let two (hi lo : Nat) : W32 := lo32 (min hi 0xFFFF * 2 ^ 16 + min lo 0xFFFF)
  match w with
  | 0 => lo32 (x.die * 2 ^ 8 + (match x.state with
      | .idle => 0 | .configured => 1 | .running => 2 | .stopping => 3 | .shedding => 4))
  | 2 => two (b 1) (b 0)
  | 3 => two (b 3) (b 2)
  | 4 => two (b 5) (b 4)
  | 5 => two pr.ledge (b 6)
  | 6 => two pr.fhUl pr.fhDl
  | _ => s.reg (aCELL c + 4 * w)

/-- BELAY_CAP, BELAY_PRICED, BELAY_BOOKED, BELAY_LENT (07 R265), by array, die and index. -/
def State.belaySum (s : State) (arr d k : Nat) : W32 :=
  let cells (f : Cell → Nat) : Nat := ((s.dieCells d).map (fun e => f e.2)).sum
  match arr with
  | 0 => lo32 (if k = 7 then s.radioLedgeKib d else s.cap d k [])
  | 1 => lo32 (if k = 7 then cells (fun x => x.price.ledge) else s.priced d k)
  | 2 => lo32 (if k = 7 then cells (fun x => x.price.ledge) else s.booked d k)
  | _ => lo32 (if k < 3 then s.lent d k else 0)

/-- BELAY_EMERG (07 R264). -/
def State.belayEmerg (s : State) : W32 :=
  let e (d : Nat) : Nat := min 15 (s.emerg d).steps * 2 ^ 4 + (s.emergNow d).code
  lo32 (e 1 * 2 ^ 16 + e 0)

/-- A word of the Summit register's window (14 R480). -/
def State.evrData (s : State) (i : Nat) : W32 :=
  let n := s.rf (aEVR + 0x10) 8 0 * 512 + i / 16
  match s.summit.recs[n]? with
  | some r => wordAt r.words (i % 16)
  | none => 0

/-- EVR_STATUS (14 R480). -/
def State.evrStatus (s : State) : W32 :=
  lo32 ((if s.summit.full then 2 ^ 31 else 0) + (if s.rbit aEVR 1 then 2 ^ 30 else 0) + s.summit.recs.length)

/-- PART_CTRL and PART_STATUS of partition p (08 R272). -/
def State.partCtrl (s : State) (p : Nat) : W32 :=
  setBit (s.reg (aPARTp p)) 1 (decide ((s.part p).state = .resetting))
def State.partStatus (s : State) (p : Nat) : W32 :=
  lo32 ((if s.enabled p then s.namedTiles p else 0) * 2 ^ 16 + (s.part p).cfgError * 2 ^ 8 + (s.part p).state.code)

/-- Words of a ring entry (09 R311). -/
def State.ringWord (s : State) (n w : Nat) : W32 :=
  let r := s.ring n
  let v := s.reg (aRINGn n + 4 * w)
  match w with
  | 0 => setField v 3 0 r.error
  | 6 => setField v 28 21 r.gen
  | 7 => lo32 (r.cqTail * 2 ^ 16 + r.sqHead)
  | _ => v

/-- Words of an island's entry (01 R36). -/
def State.islandWord (s : State) (b w : Nat) : W32 :=
  let x := s.island (b / 8) (b % 8)
  match w with
  | 0 => lo32 (x.paceLow * 2 ^ 16 + x.pace)
  | 1 => lo32 (wrapOf 12 x.temp * 2 ^ 16 + x.mv)
  | 2 => s.islandState (b / 8) (b % 8)
  | _ => 0

/-- The CFG block as read. -/
def State.cfgRead (s : State) (o : Nat) : W32 :=
  if o = 0x40 then s.sparesReg 0
  else if o = 0x44 then s.sparesReg 1
  else if 0x204 ≤ o ∧ o < 0x228 ∧ o ≠ 0x20C then
    match s.vdeSel with
    | some (d, n) => s.vdeRegRead d n (o - 0x200)
    | none => 0
  else if 0x400 ≤ o ∧ o < 0x580 ∧ o % 16 = 8 then s.stackSpare ((o - 0x400) / 16)
  else s.reg (aCFG + o)

/-- The PWR block as read. -/
def State.pwrRead (s : State) (o : Nat) : W32 :=
  if o = 0xC then setField (s.reg (aPWR + 0xC)) 1 0 s.power.limitStep
  else if o = 0x10 then s.pwrStandby
  else if o = 0x18 then s.pwrBoot
  else if o = 0x1C then s.pwrTemp
  else if 0x100 ≤ o ∧ o < 0x200 then s.islandWord ((o - 0x100) / 16) (o % 16 / 4)
  else s.reg (aPWR + o)

/-- The INTC block as read (09 R341): INTC_SET shows the pending bits; auto_clear reads 1 for a partition's
vector. -/
def State.intcRead (s : State) (o : Nat) : W32 :=
  if 0x200 ≤ o ∧ o < 0x400 then s.reg (aPEND ((o - 0x200) / 4))
  else if 0x4000 ≤ o ∧ o < 0x8000 then setBit (s.reg (aINTC + o)) 16 (s.autoClear ((o - 0x4000) / 4))
  else s.reg (aINTC + o)

/-- The TIME block as read (12 R421). -/
def State.timeRead (s : State) (o : Nat) : W32 :=
  if o = 0 then lo32 s.clkNs
  else if o = 0x10 then lo32 s.clk
  else if o = 0x14 then hi32 s.clk
  else if o = 0x20 then s.timeState
  else s.reg (aTIME + o)

/-- The PORT block as read (12 R402). -/
def State.portRead (s : State) (o : Nat) : W32 :=
  if o < 0x8000 then
    let n := o / 0x1000
    if o % 0x1000 = 4 then setBit (s.reg (aPORT + o)) 9 s.sec.quiesced
    else if o % 0x1000 = 0x10 then lo32 (s.fuses.ceiling.getD n 0)
    else if o % 0x1000 = 0x14 then s.ptpLat n
    else s.reg (aPORT + o)
  else s.reg (aPORT + o)

/-- The BELAY block as read. -/
def State.belayRead (s : State) (o : Nat) : W32 :=
  if o = 0x14 then s.belayEmerg
  else if 0x100 ≤ o ∧ o < 0x200 then s.belaySum ((o - 0x100) / 0x40) (o % 0x40 / 0x20) (o % 0x20 / 4)
  else if 0x1000 ≤ o ∧ o < 0x1000 + 0x20 * 384 then s.cellWord ((o - 0x1000) / 0x20) (o % 0x20 / 4)
  else s.reg (aBELAY + o)

/-- The EVR block as read. -/
def State.evrRead (s : State) (o : Nat) : W32 :=
  if o = 4 then s.evrStatus
  else if o = 8 then lo32 s.summit.held.length
  else if 0x8000 ≤ o ∧ o < 0x1_0000 then s.evrData ((o - 0x8000) / 4)
  else s.reg (aEVR + o)

/-- The SEC block as read. -/
def State.secRead (s : State) (o : Nat) : W32 :=
  if o = 0x20 then s.fwStatus
  else if o = 0x24 then s.fwSvn
  else if o = 0x28 then s.wdog
  else if 0x40 ≤ o ∧ o < 0x50 then s.secTsp ((o - 0x40) / 4)
  else s.reg (aSEC + o)

/-- What the word at an address of PF BAR 0 shows. -/
def State.pfWord (s : State) (a : Nat) : W32 :=
  if a < aCFG then
    (if a = 0 then s.idPart
     else if 0x100 ≤ a ∧ a < aDIE 27 then s.dieWord ((a - 0x100) / 16) (a % 16 / 4) else 0)
  else if a < aPWR then s.cfgRead (a - aCFG)
  else if a < aINTC then s.pwrRead (a - aPWR)
  else if a < aTIME then s.intcRead (a - aINTC)
  else if a < aPORT then s.timeRead (a - aTIME)
  else if a < aROPE then s.portRead (a - aPORT)
  else if a < aPART then s.reg a
  else if a < aPART + 0x1_0000 then
    let p := (a - aPART) / 0x400
    (if a % 0x400 = 0 then s.partCtrl p else if a % 0x400 = 4 then s.partStatus p else s.reg a)
  else if a < aRING then 0
  else if a < aBELAY then s.ringWord ((a - aRING) / 0x20) (a % 0x20 / 4)
  else if a < aEVR then s.belayRead (a - aBELAY)
  else if a < aSEC then s.evrRead (a - aEVR)
  else if a < aADMIN then s.secRead (a - aSEC)
  else s.reg a

/-- A read clears the RC fields of the register (00 R18); those of ISLAND_PACE lie in the island. -/
def State.readClear (s : State) (a : Nat) : State :=
  if aISLAND 0 0 ≤ a ∧ a < aISLAND 1 8 ∧ a % 16 = 0 then
    let b := (a - aISLAND 0 0) / 16
    s.setIsland (b / 8) (b % 8) { s.island (b / 8) (b % 8) with paceLow := 0 }
  else s.clearRC a

/-- The word read of a register: a high word that a read of its low word latched is shown once (00 R14). -/
def State.readWord (s : State) (a : Nat) : W32 × State :=
  match SMap.get (fun _ => none) s.latched a with
  | some v => (v, { s with latched := SMap.put (fun _ => none) s.latched a none })
  | none => (s.pfWord a, s)

/-- A read of PF BAR 0: the word returned, RC fields cleared, and the high word of a 64-bit register latched by a
read of its low word (00 R14, R18). -/
def State.pfRead (s : State) (a : Nat) : State :=
  let r := s.readWord a
  let t := if pairLow a then
      { r.2 with latched := SMap.put (fun _ => none) r.2.latched (a + 4) (some (s.pfWord (a + 4))) }
    else r.2
  let u := if a = aTIME then todRead t else t.readClear a
  { u with rdata := r.1 }

-- Writes.

/-- The partition whose write window it is, bound by a confidential environment (13 R450). -/
def State.windowLocked (s : State) (n : Nat) : Option Nat :=
  let p := s.rf (aWIN n + 0x10) 6 0
  if p < 64 ∧ s.locked p then some p else none

/-- A register with no behaviour of its own (00 R18). -/
def State.plain (s : State) (a : Nat) (v : W32) : State := s.applyWrite a v

/-- Writes to a partition's entry beyond PART_CTRL: by state, with cfg_error 9 where it does not accept them; a write of
a register without writable fields, or of no register, changes nothing (00 R16, 08 R273, 13 R450). Units added while
STOPPED are its own only while no other enabled partition names them, until a resume has checked them (08 R268). -/
def State.partWrite (s : State) (a : Nat) (v : W32) : State :=
  let p := (a - aPART) / 0x400
  let o := a % 0x400
  let st := (s.part p).state
  let units := (0x40 ≤ o && o < 0xA8 : Bool)
  let always := (o = 0x0C ∨ 0xB0 ≤ o : Bool)
  let t := s.applyWrite a v
  if s.locked p then s.setCfgError p 9
  else if (regDesc a).rw = 0 then s
  else if always then (if 0xB0 ≤ o then (s.fillShares p).applyWrite a v else t)
  else match st with
    | .disabled => t
    | .stopped =>
      if o = 8 then t
      else if units && decide (s.reg a &&& ~~~(t.reg a) = 0) then
        t.setPart p { t.part p with added := (t.part p).added ++ (t.allNamed p).filter (fun u => !(s.named p u)) }
      else s.setCfgError p 9
    | _ => s.setCfgError p 9

/-- A write of PART_CTRL: reset_mode only while DISABLED; pace_blind applies at once, or at the next kernel start;
then enable, reset and resume act (08 R271, R273, R292 to R296). -/
def State.partCtrlWrite (s : State) (p : Nat) (v : W32) : State :=
  if s.locked p then s.setCfgError p 9
  else
    let a := aPARTp p
    let st := (s.part p).state
    let t := s.setRbit a 3 (bitOf v 3)
    let u := match st with
      | .disabled | .stopped => t.setPart p { t.part p with blind := bitOf v 3 }
      | _ => t
    let w := if bitOf v 2 = s.rbit a 2 then u
      else match st with
        | .disabled => u.setRbit a 2 (bitOf v 2)
        | _ => u.setCfgError p 9
    match st with
    | .disabled => if bitOf v 0 then partitionEnable p w else w
    | _ =>
      if !(bitOf v 0) then partitionRelease p w
      else
        let x := if bitOf v 1 then w.resetWrite p (w.resetMode p) else w
        if bitOf v 4 then partitionResume p x else x

/-- A write of a ring's RING_CFG through a view: enable = 1 with the doorbell as host memory holds it, enable = 0,
or the other fields of a ring that is off (09 R311 to R313). -/
def State.ringCfgWrite (s : State) (v : View) (n : Nat) (w : W32) : State :=
  if s.ringOn n then (if bitOf w 31 then s else ringDisable v n s)
  else if bitOf w 31 then
    let bs := SMap.getList byteZero s.host (s.dbAddr n) 8
    ringEnable v n w (lo32 (fromLE (bs.take 4))) (lo32 (fromLE (bs.drop 4))) s
  else s.applyWrite (aRINGn n + 0x18) w

/-- A write of RGN_CTRL: only enable = 0 acts while the region is enabled or its owner bound; else the fields are
set, and enable = 1 is checked (11 R368, 13 R450). -/
def State.rgnCtrlWrite (s : State) (i : Nat) (v : W32) : State :=
  let a := aRGN i
  if s.rbit a 0 || s.rgnLocked i then (if bitOf v 0 then s else s.setRbit a 0 false)
  else
    let t := s.applyWrite a (setBit v 0 false)
    if bitOf v 0 then regionEnable i t else t

/-- A write of ROPE_CTRL: its RW fields, then rejoin (11 R388, R398). -/
def State.ropeCtrlWrite (s : State) (v : W32) : State :=
  let t := ropeEnableWrite v [] s
  if bitOf v 1 then rejoin none t else t

/-- A write of GATE_CTRL: arms the gate, or, with armed = 0, releases its ring; the ring field keeps its value
while armed (11 R395). -/
def State.gateCtrlWrite (s : State) (g : Nat) (v : W32) : State :=
  if bitOf v 16 then launchGateArm g v s
  else
    let a := aGATE g + 8
    s.applyWrite a (if s.rbit a 16 then setField v 15 0 (s.rf a 15 0) else v)

/-- A write of GCL_CTRL: with change = 1, or of its other fields, of which only enable takes it while a list is
pending (12 R414, R415). -/
def State.gclCtrlWrite (s : State) (n sub : Nat) (v : W32) : State :=
  if bitOf v 1 then gclChange n sub v s
  else if s.gclPending n sub then s.setRbit (aGCL n sub) 0 (bitOf v 0)
  else s.applyWrite (aGCL n sub) v

/-- BELAY_THERM: a write outside the ranges is ignored (07 R264). -/
def thermOk (v : W32) : Bool :=
  let warn := field v 11 0
  let shed := field v 27 16
  decide (0x2D0 ≤ warn) && decide (warn ≤ 0x340) && decide (warn + 8 ≤ shed) && decide (shed ≤ 0x344)

/-- EVR_CTRL: enable, freeze, clear (14 R479, R480). -/
def State.evrCtrlWrite (s : State) (v : W32) : State :=
  let was := s.rbit aEVR 1
  let t := s.setRbit aEVR 0 (bitOf v 0)
  let u := if bitOf v 1 then (if was then t else evrFreeze t) else (if was then evrUnfreeze t else t)
  if bitOf v 2 then evrClear u else u

/-- The write of INTC_MAP of source s is ignored while an enabled ring names it (09 R341). -/
def State.mapHeld (s : State) (src : Nat) : Bool :=
  (0 :: s.rings.map Prod.fst).any (fun n => s.ringOn n && decide (s.ringSource n = src))

/-- Writes of 32-bit registers, and of halves of 64-bit ones already put together, by block. -/
def State.cfgWrite (s : State) (o : Nat) (v : W32) : State :=
  if 0x204 ≤ o ∧ o < 0x228 ∧ o ≠ 0x20C then s.onSel (fun t d n => t.vdeRegWrite d n (o - 0x200) v)
  else s.plain (aCFG + o) v

def State.pwrWrite (s : State) (o : Nat) (v : W32) : State :=
  if o = 8 then profileChange v s
  else if o = 0x10 then (if bitOf v 4 then standbyRequest v s else standbyWakeWrite v s)
  else if o = 0x14 then pwrReset v s
  else s.plain (aPWR + o) v

def State.intcWrite (s : State) (o : Nat) (v : W32) : State :=
  if 0x200 ≤ o ∧ o < 0x400 then intcSetWrite ((o - 0x200) / 4) v s
  else if 0x400 ≤ o ∧ o < 0x600 then intcEnWrite ((o - 0x400) / 4) v s
  else if 0x4000 ≤ o ∧ o < 0x8000 then
    let src := (o - 0x4000) / 4
    if s.mapHeld src then s
    else
      let keep := (s.vectorOwner (field v 10 0)).isSome
      s.plain (aINTC + o) (if keep then setBit v 16 (s.rbit (aINTC + o) 16) else v)
  else s.plain (aINTC + o) v

def State.timeWrite (s : State) (o : Nat) (v : W32) : State :=
  if o = 0x2C then s.timeCtrl v
  else if 0x100 ≤ o ∧ o < 0x200 then
    let u := (o - 0x100) / 16
    if o % 16 = 0xC then cmpArm u v s
    else if s.rbit (aCMP u + 0xC) 0 then s else s.plain (aTIME + o) v
  else if 0x200 ≤ o ∧ o < 0x280 ∧ o % 16 = 8 then captureArm ((o - 0x200) / 16) v s
  else s.plain (aTIME + o) v

def State.portWrite (s : State) (o : Nat) (v : W32) : State :=
  let n := o / 0x1000
  let b := o % 0x1000
  if o < 0x8000 then
    if b = 0 then portEnable n v s
    else if 0x200 ≤ b ∧ b < 0x280 then
      let sub := (b - 0x200) / 0x20
      if b % 0x20 = 0 then s.gclCtrlWrite n sub v
      else if s.gclPending n sub then s else s.plain (aPORT + o) v
    else if 0x400 ≤ b ∧ b < 0x800 ∧ s.gclPending n ((b - 0x400) / 0x100) then s
    else if 0x100 ≤ b ∧ b < 0x200 then (s.fillSub n ((b - 0x100) / 0x40)).plain (aPORT + o) v
    else s.plain (aPORT + o) v
  else if 0xC000 ≤ o ∧ o < 0xC800 then
    let p := (o - 0xC000) / 0x20
    if b % 0x20 = 0 then pqEnable p v s
    else if s.locked p then s.setCfgError p 9
    else if s.pqOn p then s
    else s.plain (aPORT + o) v
  else s.plain (aPORT + o) v

def State.ropeWrite (s : State) (o : Nat) (v : W32) : State :=
  if o = 4 then s.ropeCtrlWrite v
  else if o = 0x18 then ropeEvict (field v 8 0) s
  else if 0x100 ≤ o ∧ o < 0x200 ∧ o % 16 = 8 then s.gateCtrlWrite ((o - 0x100) / 16) v
  else if 0x1_0000 ≤ o ∧ o < 0x2_0000 then
    let i := (o - 0x1_0000) / 0x20
    if o % 0x20 = 0 then s.rgnCtrlWrite i v
    else if s.rbit (aRGN i) 0 || s.rgnLocked i then s else s.plain (aROPE + o) v
  else s.plain (aROPE + o) v

def State.belayWrite (s : State) (o : Nat) (v : W32) : State :=
  if s.activating then s
  else if o = 0 then islandRemove v (islandAdd v s)
  else if o = 8 then belayRadioMemWrite v s
  else if o = 0x10 then (if thermOk v then s.plain (aBELAY + o) v else s)
  else s.plain (aBELAY + o) v

def State.secWrite (s : State) (o : Nat) (v : W32) : State :=
  if o = 0 then (if bitOf v 0 then windowLock s else s)
  else if o = 0x10 then (if bitOf v 0 then allowLock s else s)
  else if 0x100 ≤ o ∧ o < 0x900 then
    if s.rbit aSEC 0 then s
    else match s.windowLocked ((o - 0x100) / 0x20) with
      | some p => s.setCfgError p 9
      | none => s.plain (aSEC + o) v
  else if 0x1000 ≤ o ∧ o < 0x5000 ∧ s.rbit (aSEC + 0x10) 0 then s
  else s.plain (aSEC + o) v

/-- A write of one register of PF BAR 0 reached through a view. -/
def State.pfWrite (s : State) (view : View) (a : Nat) (v : W32) : State :=
  if a < aCFG then s
  else if a < aPWR then s.cfgWrite (a - aCFG) v
  else if a < aINTC then s.pwrWrite (a - aPWR) v
  else if a < aTIME then s.intcWrite (a - aINTC) v
  else if a < aPORT then s.timeWrite (a - aTIME) v
  else if a < aROPE then s.portWrite (a - aPORT) v
  else if a < aPART then s.ropeWrite (a - aROPE) v
  else if a < aPART + 0x1_0000 then
    (if s.activating then s
     else if a % 0x400 = 0 then s.partCtrlWrite ((a - aPART) / 0x400) v else s.partWrite a v)
  else if a < aRING then s
  else if a < aBELAY then
    let n := (a - aRING) / 0x20
    (if a % 0x20 = 0x18 then s.ringCfgWrite view n v else if s.ringOn n then s else s.plain a v)
  else if a < aEVR then s.belayWrite (a - aBELAY) v
  else if a < aSEC then (if a = aEVR then s.evrCtrlWrite v else s.plain a v)
  else if a < aADMIN then s.secWrite (a - aSEC) v
  else if a = aADMIN ∨ a = aADMIN + 4 then adminDbWrite ((a - aADMIN) / 4) v 0xF s
  else s

-- 64-bit registers (00 R14).

/-- Both halves of a 64-bit register take effect: the key of a Rope region is not held with the registers (11
R368). -/
def State.pairWrite (s : State) (view : View) (a : Nat) (lo : Option W32) (hi : W32) : State :=
  if aRGN 0 ≤ a ∧ a < aRGN 2048 then
    let i := (a - aRGN 0) / 0x20
    if s.rgnLocked i then s
    else
      let old := SMap.get (fun _ => 0) s.rope.keys i
      let k := (lo.map BitVec.toNat).getD (old % 2 ^ 32) + 2 ^ 32 * hi.toNat
      { s with rope := { s.rope with keys := SMap.put (fun _ => 0) s.rope.keys i k } }
  else
    let t := match lo with
      | some w => s.pfWrite view a w
      | none => s
    t.pfWrite view (a + 4) hi

/-- A write of a low word waits in the register's staging word; a write of a high word applies both and empties it
(00 R14). -/
def State.stageLow (s : State) (a : Nat) (v : W32) : State :=
  { s with staged := SMap.put (fun _ => none) s.staged a (some v) }
def State.applyHigh (s : State) (view : View) (a : Nat) (v : W32) : State :=
  let lo := SMap.get (fun _ => none) s.staged (a - 4)
  ({ s with staged := SMap.put (fun _ => none) s.staged (a - 4) none }).pairWrite view (a - 4) lo v

/-- The partition that shows in its cfg_error that it does not accept a write of the low word now: of its entry, unless it
is DISABLED and not locked, or of a write window of a locked partition (08 R273, 13 R450). -/
def State.lowRefuser (s : State) (a : Nat) : Option Nat :=
  if aPART ≤ a ∧ a < aPART + 0x1_0000 then
    let p := (a - aPART) / 0x400
    if !s.activating && (s.locked p || decide ((s.part p).state ≠ .disabled)) then some p else none
  else if aWIN 0 ≤ a ∧ a < aWIN 64 then (if s.rbit aSEC 0 then none else s.windowLocked ((a - aWIN 0) / 0x20))
  else none

/-- The low word belongs to a register that ignores writes now: one of an enabled ring, the key of a region whose owner is
bound, an entry of a partition that does not accept it or any while an update activates, a window or an entry of the
allow list that is locked. Such a write does not wait either (08 R273, 09 R311, R337, 11 R368, 12 R418, 13 R438, R450). -/
def State.lowHeld (s : State) (a : Nat) : Bool :=
  if aRING ≤ a ∧ a < aBELAY then s.ringOn ((a - aRING) / 0x20)
  else if aRGN 0 ≤ a ∧ a < aRGN 2048 then s.rgnLocked ((a - aRGN 0) / 0x20)
  else if aPART ≤ a ∧ a < aPART + 0x1_0000 then s.activating || (s.lowRefuser a).isSome
  else if aWIN 0 ≤ a ∧ a < aWIN 64 then s.rbit aSEC 0 || (s.lowRefuser a).isSome
  else if aALLOW 0 ≤ a ∧ a < aALLOW 1024 then s.rbit (aSEC + 0x10) 0
  else false

/-- A write of a low word that is ignored. -/
def State.lowRefused (s : State) (a : Nat) : State :=
  match s.lowRefuser a with
  | some p => s.setCfgError p 9
  | none => s

-- Views (09 R308, R309, R342).

/-- The address in PF BAR 0 that an offset of a view's BAR 0 reaches: a virtual function reaches the rings that its
partition owns (09 R309, R310). -/
def State.viewAddr (s : State) (v : View) (off : Nat) : Option Nat :=
  match v with
  | .pf => if off < 0x80_0000 then some off else none
  | .vf p =>
    let r := s.ringRange p.val
    let n := r.1 + off / 32
    if off / 32 < r.2 ∧ n < 65536 ∧ s.ringOwner n = some p.val then some (aRINGn n + off % 32) else none
  | _ => none

/-- The function whose BAR 2 a view shows. -/
def bar2 : View → Option Nat
  | .pfTable => some 0
  | .vfTable p => some (p.val + 1)
  | _ => none

/-- A word of an MSI-X table or pending bit array. -/
def State.tableWord (s : State) (fn off : Nat) : W32 :=
  if off < 0x8000 then SMap.get msixReset s.msixT (fn * 0x8000 + off)
  else if off < 0x8100 then
    lo32 (((List.range 32).map (fun b => if s.pbaBit fn (8 * (off - 0x8000) + b) then 2 ^ b else 0)).sum)
  else 0

/-- A write of an MSI-X table: clearing the mask bit sends what the pending bit array holds (09 R342). -/
def State.tableWrite (s : State) (fn off : Nat) (v : W32) : State :=
  if off < 0x8000 then
    if off % 16 = 12 then
      (if bitOf v 0 then { s with msixT := SMap.put msixReset s.msixT (fn * 0x8000 + off) 1 }
       else msixUnmask fn (off / 16) s)
    else
      let w := if off % 16 = 0 then setField v 1 0 0 else v
      { s with msixT := SMap.put msixReset s.msixT (fn * 0x8000 + off) w }
  else s

/-- A host read of a word. -/
def State.hostRead (s : State) (v : View) (off : Nat) : State :=
  if s.reached v && decide (off % 4 = 0) then
    match bar2 v with
    | some fn => { s with rdata := s.tableWord fn off }
    | none =>
      match s.viewAddr v off with
      | some a => s.pfRead a
      | none => { s with rdata := 0 }
  else s

/-- A host write of a word: ignored with fewer than four byte enables (00 R15). -/
def State.hostWrite (s : State) (v : View) (off : Nat) (value : W32) (be : BitVec 4) : State :=
  if s.reached v && decide (off % 4 = 0) && decide (be = 0xF) then
    match bar2 v with
    | some fn => s.tableWrite fn off value
    | none =>
      match s.viewAddr v off with
      | some a =>
        if pairLow a then (if s.lowHeld a then s.lowRefused a else s.stageLow a value)
        else if pairHigh a then s.applyHigh v a value
        else s.pfWrite v a value
      | none => s
  else s

/-- The offset of a view is the low, or the high, word of a 64-bit register. -/
def State.isLow (s : State) (v : View) (off : Nat) : Bool := ((s.viewAddr v off).map pairLow).getD false
def State.isHigh (s : State) (v : View) (off : Nat) : Bool := ((s.viewAddr v off).map pairHigh).getD false

-- The meanings.

/-- REGISTER_WRITE: a host write of any register. -/
def execRegisterWrite (v : View) (off : Nat) (value : W32) (be : BitVec 4) (s : State) : Done :=
  .next (s.hostWrite v off value be)
/-- RC_REGISTER_READ: a host read of any register. -/
def execRcRegisterRead (v : View) (off : Nat) (s : State) : Done := .next (s.hostRead v off)
/-- LOW_WORD_WRITE, HIGH_WORD_WRITE and LOW_WORD_READ: the accesses of a 64-bit register. -/
def execLowWordWrite (v : View) (off : Nat) (value : W32) (be : BitVec 4) (s : State) : Done :=
  .next (if s.isLow v off then s.hostWrite v off value be else s)
def execHighWordWrite (v : View) (off : Nat) (value : W32) (be : BitVec 4) (s : State) : Done :=
  .next (if s.isHigh v off then s.hostWrite v off value be else s)
def execLowWordRead (v : View) (off : Nat) (s : State) : Done := .next (if s.isLow v off then s.hostRead v off else s)

end Sys2Proof.Machine
end

