-- ==== Sys2Proof/Machine/Dispatch.lean ====
section
/-! DEFINITION. The dispatch: every command has its own meaning. -/

namespace Sys2Proof.Machine

def exec (i : Instr) (s : State) : Host.Outcome State Fault Refusal :=
  match i with
  | .registerWrite v off value be => Sys2Proof.Machine.execRegisterWrite v off value be s
  | .rcRegisterRead v off => Sys2Proof.Machine.execRcRegisterRead v off s
  | .lowWordWrite v off value be => Sys2Proof.Machine.execLowWordWrite v off value be s
  | .highWordWrite v off value be => Sys2Proof.Machine.execHighWordWrite v off value be s
  | .lowWordRead v off => Sys2Proof.Machine.execLowWordRead v off s
  | .stall u unserved => Sys2Proof.Machine.execStall u unserved s
  | .substitutionReissue u => Sys2Proof.Machine.execSubstitutionReissue u s
  | .partitionStopTileLost p => Sys2Proof.Machine.execPartitionStopTileLost p s
  | .paceSample d j rates temp => Sys2Proof.Machine.execPaceSample d j rates temp s
  | .load k idx rank words sram => Sys2Proof.Machine.execLoad k idx rank words sram s
  | .mm k idx rank words sram => Sys2Proof.Machine.execMm k idx rank words sram s
  | .conv k idx rank words sram => Sys2Proof.Machine.execConv k idx rank words sram s
  | .gather k idx rank words sram => Sys2Proof.Machine.execGather k idx rank words sram s
  | .epilogue k idx flips => Sys2Proof.Machine.execEpilogue k idx flips s
  | .blockCommit k idx last => Sys2Proof.Machine.execBlockCommit k idx last s
  | .splitPartResume k idx flips => Sys2Proof.Machine.execSplitPartResume k idx flips s
  | .splitTimeout k idx => Sys2Proof.Machine.execSplitTimeout k idx s
  | .biasAct k idx flips => Sys2Proof.Machine.execBiasAct k idx flips s
  | .biasActRes k idx flips => Sys2Proof.Machine.execBiasActRes k idx flips s
  | .dequantAct k idx flips => Sys2Proof.Machine.execDequantAct k idx flips s
  | .rowStats k idx flips => Sys2Proof.Machine.execRowStats k idx flips s
  | .layernormMm k idx flips => Sys2Proof.Machine.execLayernormMm k idx flips s
  | .rmsnormMm k idx flips => Sys2Proof.Machine.execRmsnormMm k idx flips s
  | .gated k idx flips => Sys2Proof.Machine.execGated k idx flips s
  | .attentionOnline k idx flips => Sys2Proof.Machine.execAttentionOnline k idx flips s
  | .attentionTwoPass k idx flips => Sys2Proof.Machine.execAttentionTwoPass k idx flips s
  | .routerTopk k idx flips => Sys2Proof.Machine.execRouterTopk k idx flips s
  | .dynamicQuant k idx flips => Sys2Proof.Machine.execDynamicQuant k idx flips s
  | .colPool k idx flips => Sys2Proof.Machine.execColPool k idx flips s
  | .peerSend k idx flips h => Sys2Proof.Machine.execPeerSend k idx flips h s
  | .peerSendPayloadAcked k idx h => Sys2Proof.Machine.execPeerSendPayloadAcked k idx h s
  | .peerSendCommit k idx last => Sys2Proof.Machine.execPeerSendCommit k idx last s
  | .peerAccum k idx flips => Sys2Proof.Machine.execPeerAccum k idx flips s
  | .chainBufferReady k idx flips => Sys2Proof.Machine.execChainBufferReady k idx flips s
  | .chainTimeout k idx => Sys2Proof.Machine.execChainTimeout k idx s
  | .paramRequest n h => Sys2Proof.Machine.execParamRequest n h s
  | .configRequest n h body => Sys2Proof.Machine.execConfigRequest n h body s
  | .cellRelease n h => Sys2Proof.Machine.execCellRelease n h s
  | .startRequest n h => Sys2Proof.Machine.execStartRequest n h s
  | .cellStart c => Sys2Proof.Machine.execCellStart c s
  | .stopRequest n h => Sys2Proof.Machine.execStopRequest n h s
  | .stopIndication c => Sys2Proof.Machine.execStopIndication c s
  | .dlTtiRequest n h pdus => Sys2Proof.Machine.execDlTtiRequest n h pdus s
  | .ulTtiRequest n h pdus => Sys2Proof.Machine.execUlTtiRequest n h pdus s
  | .ulDciRequest n h pdus => Sys2Proof.Machine.execUlDciRequest n h pdus s
  | .txDataRequest n h ps => Sys2Proof.Machine.execTxDataRequest n h ps s
  | .slotBookRequest n h ws => Sys2Proof.Machine.execSlotBookRequest n h ws s
  | .ssbSearchRequest n h offset count pcis => Sys2Proof.Machine.execSsbSearchRequest n h offset count pcis s
  | .ssbSearchIndication c => Sys2Proof.Machine.execSsbSearchIndication c s
  | .slotIndication c => Sys2Proof.Machine.execSlotIndication c s
  | .downlinkProcessing c lost => Sys2Proof.Machine.execDownlinkProcessing c lost s
  | .cPlaneLaunch c n => Sys2Proof.Machine.execCPlaneLaunch c n s
  | .uPlaneLaunch c n k => Sys2Proof.Machine.execUPlaneLaunch c n k s
  | .uPlaneDiscard port sub => Sys2Proof.Machine.execUPlaneDiscard port sub s
  | .uplinkCPlaneLaunch c n => Sys2Proof.Machine.execUplinkCPlaneLaunch c n s
  | .symbolWindowClose c n k => Sys2Proof.Machine.execSymbolWindowClose c n k s
  | .channelEstimation c n k => Sys2Proof.Machine.execChannelEstimation c n k s
  | .mmseWeights c n => Sys2Proof.Machine.execMmseWeights c n s
  | .equalisation c n k => Sys2Proof.Machine.execEqualisation c n k s
  | .harqCombining c n lost => Sys2Proof.Machine.execHarqCombining c n lost s
  | .uplinkResults c n => Sys2Proof.Machine.execUplinkResults c n s
  | .vLdv die n => Sys2Proof.Machine.execVLdv die n s
  | .vStv die n => Sys2Proof.Machine.execVStv die n s
  | .vLdx die n => Sys2Proof.Machine.execVLdx die n s
  | .vSts die n => Sys2Proof.Machine.execVSts die n s
  | .vExpb die n => Sys2Proof.Machine.execVExpb die n s
  | .vCmpb die n => Sys2Proof.Machine.execVCmpb die n s
  | .vAgld die n => Sys2Proof.Machine.execVAgld die n s
  | .vMov die n => Sys2Proof.Machine.execVMov die n s
  | .vSplat die n => Sys2Proof.Machine.execVSplat die n s
  | .vSets die n => Sys2Proof.Machine.execVSets die n s
  | .vPerm die n => Sys2Proof.Machine.execVPerm die n s
  | .vAdd die n => Sys2Proof.Machine.execVAdd die n s
  | .vSub die n => Sys2Proof.Machine.execVSub die n s
  | .vMul die n => Sys2Proof.Machine.execVMul die n s
  | .vConj die n => Sys2Proof.Machine.execVConj die n s
  | .vAbs2 die n => Sys2Proof.Machine.execVAbs2 die n s
  | .vShr die n => Sys2Proof.Machine.execVShr die n s
  | .vCvt die n => Sys2Proof.Machine.execVCvt die n s
  | .vMaxv die n => Sys2Proof.Machine.execVMaxv die n s
  | .vMinv die n => Sys2Proof.Machine.execVMinv die n s
  | .vAnd die n => Sys2Proof.Machine.execVAnd die n s
  | .vXor die n => Sys2Proof.Machine.execVXor die n s
  | .vRecip die n => Sys2Proof.Machine.execVRecip die n s
  | .vMacz die n => Sys2Proof.Machine.execVMacz die n s
  | .vMac die n => Sys2Proof.Machine.execVMac die n s
  | .vMsc die n => Sys2Proof.Machine.execVMsc die n s
  | .vNarrow die n => Sys2Proof.Machine.execVNarrow die n s
  | .vGold die n => Sys2Proof.Machine.execVGold die n s
  | .vCrc die n => Sys2Proof.Machine.execVCrc die n s
  | .vQmap die n => Sys2Proof.Machine.execVQmap die n s
  | .vDemap die n => Sys2Proof.Machine.execVDemap die n s
  | .vFht die n => Sys2Proof.Machine.execVFht die n s
  | .vMaxs die n => Sys2Proof.Machine.execVMaxs die n s
  | .vMins die n => Sys2Proof.Machine.execVMins die n s
  | .vRsum die n => Sys2Proof.Machine.execVRsum die n s
  | .vAmm die n => Sys2Proof.Machine.execVAmm die n s
  | .vArd die n => Sys2Proof.Machine.execVArd die n s
  | .vLoop die n => Sys2Proof.Machine.execVLoop die n s
  | .vNop die n => Sys2Proof.Machine.execVNop die n s
  | .vFence die n => Sys2Proof.Machine.execVFence die n s
  | .vBrk die n => Sys2Proof.Machine.execVBrk die n s
  | .vdeFreezeEnd die n => Sys2Proof.Machine.execVdeFreezeEnd die n s
  | .vdeHaltRequest => Sys2Proof.Machine.execVdeHaltRequest s
  | .vdeHalt die n => Sys2Proof.Machine.execVdeHalt die n s
  | .vdeStep => Sys2Proof.Machine.execVdeStep s
  | .vdeResume => Sys2Proof.Machine.execVdeResume s
  | .vdeListEnd => Sys2Proof.Machine.execVdeListEnd s
  | .fft die n work => Sys2Proof.Machine.execFft die n work s
  | .ldpcDecode die n work => Sys2Proof.Machine.execLdpcDecode die n work s
  | .ldpcEncode die n work => Sys2Proof.Machine.execLdpcEncode die n work s
  | .polarEncode die n work => Sys2Proof.Machine.execPolarEncode die n work s
  | .polarDecode die n work => Sys2Proof.Machine.execPolarDecode die n work s
  | .prach die n occ => Sys2Proof.Machine.execPrach die n occ s
  | .accelResult k => Sys2Proof.Machine.execAccelResult k s
  | .islandAdd value => Sys2Proof.Machine.execIslandAdd value s
  | .islandRemove value => Sys2Proof.Machine.execIslandRemove value s
  | .islandRemovalDone d j => Sys2Proof.Machine.execIslandRemovalDone d j s
  | .belayRadioMemWrite value => Sys2Proof.Machine.execBelayRadioMemWrite value s
  | .governorStep d j unserved => Sys2Proof.Machine.execGovernorStep d j unserved s
  | .paceEmergency d j => Sys2Proof.Machine.execPaceEmergency d j s
  | .limiterSample sample avg volts temp unserved => Sys2Proof.Machine.execLimiterSample sample avg volts temp unserved s
  | .throttleStep d j => Sys2Proof.Machine.execThrottleStep d j s
  | .leaseGrant => Sys2Proof.Machine.execLeaseGrant s
  | .leaseRevoke => Sys2Proof.Machine.execLeaseRevoke s
  | .leaseReclaimSave id => Sys2Proof.Machine.execLeaseReclaimSave id s
  | .leaseLayerAbandon id => Sys2Proof.Machine.execLeaseLayerAbandon id s
  | .leaseEnd id => Sys2Proof.Machine.execLeaseEnd id s
  | .thermalWarning d => Sys2Proof.Machine.execThermalWarning d s
  | .thermalEmergency d => Sys2Proof.Machine.execThermalEmergency d s
  | .shedSlot c => Sys2Proof.Machine.execShedSlot c s
  | .cellShedComplete c => Sys2Proof.Machine.execCellShedComplete c s
  | .shedStepRepeat d => Sys2Proof.Machine.execShedStepRepeat d s
  | .commitPoint c n ul => Sys2Proof.Machine.execCommitPoint c n ul s
  | .partitionEnable p => Sys2Proof.Machine.execPartitionEnable p s
  | .partitionResume p => Sys2Proof.Machine.execPartitionResume p s
  | .quiesceReset p => Sys2Proof.Machine.execQuiesceReset p s
  | .resetDrainDone p posted => Sys2Proof.Machine.execResetDrainDone p posted s
  | .generationDiscard p => Sys2Proof.Machine.execGenerationDiscard p s
  | .partitionRelease p => Sys2Proof.Machine.execPartitionRelease p s
  | .scrubDone p kind bu bh bl => Sys2Proof.Machine.execScrubDone p kind bu bh bl s
  | .vfEnableCleared n => Sys2Proof.Machine.execVfEnableCleared n s
  | .vfFlr p => Sys2Proof.Machine.execVfFlr p s
  | .kernelStart p => Sys2Proof.Machine.execKernelStart p s
  | .kernelOverrun k => Sys2Proof.Machine.execKernelOverrun k s
  | .kernelAbandon k => Sys2Proof.Machine.execKernelAbandon k s
  | .quantumExpiry p => Sys2Proof.Machine.execQuantumExpiry p s
  | .contextSaveDone p => Sys2Proof.Machine.execContextSaveDone p s
  | .contextResumeDone p posted => Sys2Proof.Machine.execContextResumeDone p posted s
  | .batchCloseTimeout p c => Sys2Proof.Machine.execBatchCloseTimeout p c s
  | .semSet n => Sys2Proof.Machine.execSemSet n s
  | .semAcquire n => Sys2Proof.Machine.execSemAcquire n s
  | .semRelease n => Sys2Proof.Machine.execSemRelease n s
  | .holdExceeded p c => Sys2Proof.Machine.execHoldExceeded p c s
  | .accountingUpdate p => Sys2Proof.Machine.execAccountingUpdate p s
  | .energyAttribution isl stackNj stackOthers ioNj portOthers => Sys2Proof.Machine.execEnergyAttribution isl stackNj stackOthers ioNj portOthers s
  | .paceBlindRelease => Sys2Proof.Machine.execPaceBlindRelease s
  | .cxlMemWrite a bs stream trusted => Sys2Proof.Machine.execCxlMemWrite a bs stream trusted s
  | .cxlMemRead a n stream trusted => Sys2Proof.Machine.execCxlMemRead a n stream trusted s
  | .loadImage n im pkg => Sys2Proof.Machine.execLoadImage n im pkg s
  | .unloadImage n => Sys2Proof.Machine.execUnloadImage n s
  | .unloadSlotIdle n => Sys2Proof.Machine.execUnloadSlotIdle n s
  | .run n => Sys2Proof.Machine.execRun n s
  | .mlist n => Sys2Proof.Machine.execMlist n s
  | .oplist n => Sys2Proof.Machine.execOplist n s
  | .accel n => Sys2Proof.Machine.execAccel n s
  | .copy n data => Sys2Proof.Machine.execCopy n data s
  | .l1Buf n => Sys2Proof.Machine.execL1Buf n s
  | .indicationDrop n => Sys2Proof.Machine.execIndicationDrop n s
  | .ringEnable v n cfg db0 db1 => Sys2Proof.Machine.execRingEnable v n cfg db0 db1 s
  | .ringDisable v n => Sys2Proof.Machine.execRingDisable v n s
  | .ringDisableComplete n => Sys2Proof.Machine.execRingDisableComplete n s
  | .doorbellEvent line words => Sys2Proof.Machine.execDoorbellEvent line words s
  | .doorbellReacquireTimeout n => Sys2Proof.Machine.execDoorbellReacquireTimeout n s
  | .adminDbWrite word value be => Sys2Proof.Machine.execAdminDbWrite word value be s
  | .descriptorFetch n res => Sys2Proof.Machine.execDescriptorFetch n res s
  | .descriptorCompletion n => Sys2Proof.Machine.execDescriptorCompletion n s
  | .windowLock => Sys2Proof.Machine.execWindowLock s
  | .intcSetWrite n v => Sys2Proof.Machine.execIntcSetWrite n v s
  | .intcEnWrite n v => Sys2Proof.Machine.execIntcEnWrite n v s
  | .msixUnmask fn entry => Sys2Proof.Machine.execMsixUnmask fn entry s
  | .cxlLinkTrained width rate => Sys2Proof.Machine.execCxlLinkTrained width rate s
  | .ideFailure => Sys2Proof.Machine.execIdeFailure s
  | .refresh stack channel bank temp base lost => Sys2Proof.Machine.execRefresh stack channel bank temp base lost s
  | .patrolRead block what => Sys2Proof.Machine.execPatrolRead block what s
  | .expand k idx words => Sys2Proof.Machine.execExpand k idx words s
  | .bucket k idx words => Sys2Proof.Machine.execBucket k idx words s
  | .gatherRows k idx words => Sys2Proof.Machine.execGatherRows k idx words s
  | .ropeLoad k idx words h => Sys2Proof.Machine.execRopeLoad k idx words h s
  | .ropeStore k idx words h => Sys2Proof.Machine.execRopeStore k idx words h s
  | .addI32 k idx words h => Sys2Proof.Machine.execAddI32 k idx words h s
  | .addI64 k idx words h => Sys2Proof.Machine.execAddI64 k idx words h s
  | .minI64 k idx words h => Sys2Proof.Machine.execMinI64 k idx words h s
  | .maxI64 k idx words h => Sys2Proof.Machine.execMaxI64 k idx words h s
  | .and64 k idx words h => Sys2Proof.Machine.execAnd64 k idx words h s
  | .or64 k idx words h => Sys2Proof.Machine.execOr64 k idx words h s
  | .xor64 k idx words h => Sys2Proof.Machine.execXor64 k idx words h s
  | .swap64 k idx words h => Sys2Proof.Machine.execSwap64 k idx words h s
  | .cas64 k idx words h => Sys2Proof.Machine.execCas64 k idx words h s
  | .addF32 k idx words h => Sys2Proof.Machine.execAddF32 k idx words h s
  | .publish k idx words h => Sys2Proof.Machine.execPublish k idx words h s
  | .digest k idx words h => Sys2Proof.Machine.execDigest k idx words h s
  | .genFence k idx words h => Sys2Proof.Machine.execGenFence k idx words h s
  | .ropeFence k idx words h => Sys2Proof.Machine.execRopeFence k idx words h s
  | .ropeHomeRequest r => Sys2Proof.Machine.execRopeHomeRequest r s
  | .ropeReply rep => Sys2Proof.Machine.execRopeReply rep s
  | .ropeRetry device stack id => Sys2Proof.Machine.execRopeRetry device stack id s
  | .remoteTimeout device stack id => Sys2Proof.Machine.execRemoteTimeout device stack id s
  | .replayWindowAgeout stack source => Sys2Proof.Machine.execReplayWindowAgeout stack source s
  | .ropeCreditGrant device stack n => Sys2Proof.Machine.execRopeCreditGrant device stack n s
  | .ropePortChange p up pod member => Sys2Proof.Machine.execRopePortChange p up pod member s
  | .ropeEnableWrite value trained => Sys2Proof.Machine.execRopeEnableWrite value trained s
  | .ropeHeartbeat m e => Sys2Proof.Machine.execRopeHeartbeat m e s
  | .memberDead m => Sys2Proof.Machine.execMemberDead m s
  | .ropeEvict m => Sys2Proof.Machine.execRopeEvict m s
  | .selfExclude => Sys2Proof.Machine.execSelfExclude s
  | .coordinatorLoss => Sys2Proof.Machine.execCoordinatorLoss s
  | .epochReceive e members => Sys2Proof.Machine.execEpochReceive e members s
  | .epochCommit => Sys2Proof.Machine.execEpochCommit s
  | .epochAckTimeout m => Sys2Proof.Machine.execEpochAckTimeout m s
  | .rejoin asks => Sys2Proof.Machine.execRejoin asks s
  | .globalEpochChange e pods => Sys2Proof.Machine.execGlobalEpochChange e pods s
  | .chunkSend pod fenced => Sys2Proof.Machine.execChunkSend pod fenced s
  | .chunkReceive c => Sys2Proof.Machine.execChunkReceive c s
  | .launchGateArm g value => Sys2Proof.Machine.execLaunchGateArm g value s
  | .launchGateFire g => Sys2Proof.Machine.execLaunchGateFire g s
  | .coldStartStageTimeout => Sys2Proof.Machine.execColdStartStageTimeout s
  | .frameReceive f => Sys2Proof.Machine.execFrameReceive f s
  | .frameTransmit n sub => Sys2Proof.Machine.execFrameTransmit n sub s
  | .ptpTransmit n sub k => Sys2Proof.Machine.execPtpTransmit n sub k s
  | .portEnable n value => Sys2Proof.Machine.execPortEnable n value s
  | .portLinkChange n sub up => Sys2Proof.Machine.execPortLinkChange n sub up s
  | .gclChange n sub value => Sys2Proof.Machine.execGclChange n sub value s
  | .gclTakeEffect n sub => Sys2Proof.Machine.execGclTakeEffect n sub s
  | .gateIntervalEnd n sub => Sys2Proof.Machine.execGateIntervalEnd n sub s
  | .allowLock => Sys2Proof.Machine.execAllowLock s
  | .pqEnable p value => Sys2Proof.Machine.execPqEnable p value s
  | .pqTxPoll p => Sys2Proof.Machine.execPqTxPoll p s
  | .todRead => Sys2Proof.Machine.execTodRead s
  | .timeSet value => Sys2Proof.Machine.execTimeSet value s
  | .announceTimeout => Sys2Proof.Machine.execAnnounceTimeout s
  | .holdoverExceeded => Sys2Proof.Machine.execHoldoverExceeded s
  | .cmpArm u value => Sys2Proof.Machine.execCmpArm u value s
  | .cmpFire u => Sys2Proof.Machine.execCmpFire u s
  | .ppsPulseEnd j => Sys2Proof.Machine.execPpsPulseEnd j s
  | .captureArm c value => Sys2Proof.Machine.execCaptureArm c value s
  | .captureEvent c => Sys2Proof.Machine.execCaptureEvent c s
  | .ryrnHeartbeat => Sys2Proof.Machine.execRyrnHeartbeat s
  | .watchdogQuiesce => Sys2Proof.Machine.execWatchdogQuiesce s
  | .stage r => Sys2Proof.Machine.execStage r s
  | .activate => Sys2Proof.Machine.execActivate s
  | .discard => Sys2Proof.Machine.execDiscard s
  | .fwCommit => Sys2Proof.Machine.execFwCommit s
  | .fwRollback => Sys2Proof.Machine.execFwRollback s
  | .getVersion fn => Sys2Proof.Machine.execGetVersion fn s
  | .getCapabilities fn => Sys2Proof.Machine.execGetCapabilities fn s
  | .negotiateAlgorithms fn offered => Sys2Proof.Machine.execNegotiateAlgorithms fn offered s
  | .getDigests fn => Sys2Proof.Machine.execGetDigests fn s
  | .getCertificate fn slot off len => Sys2Proof.Machine.execGetCertificate fn slot off len s
  | .challenge fn slot nonce => Sys2Proof.Machine.execChallenge fn slot nonce s
  | .getMeasurements fn j signed nonce => Sys2Proof.Machine.execGetMeasurements fn j signed nonce s
  | .keyExchange fn share => Sys2Proof.Machine.execKeyExchange fn share s
  | .finish fn id => Sys2Proof.Machine.execFinish fn id s
  | .spdmHeartbeat fn id => Sys2Proof.Machine.execSpdmHeartbeat fn id s
  | .keyUpdate fn id => Sys2Proof.Machine.execKeyUpdate fn id s
  | .endSession fn id => Sys2Proof.Machine.execEndSession fn id s
  | .ideKm id stream key => Sys2Proof.Machine.execIdeKm id stream key s
  | .tspLock p => Sys2Proof.Machine.execTspLock p s
  | .tspRun p stream => Sys2Proof.Machine.execTspRun p stream s
  | .backgroundKat t run => Sys2Proof.Machine.execBackgroundKat t run s
  | .katUnit idx outs => Sys2Proof.Machine.execKatUnit idx outs s
  | .katClass idx outs => Sys2Proof.Machine.execKatClass idx outs s
  | .monitorCheck idx margins => Sys2Proof.Machine.execMonitorCheck idx margins s
  | .marginCheck idx runs => Sys2Proof.Machine.execMarginCheck idx runs s
  | .selftestDeferred idx => Sys2Proof.Machine.execSelftestDeferred idx s
  | .startupSelftest lines units wires rows late => Sys2Proof.Machine.execStartupSelftest lines units wires rows late s
  | .evrFreeze => Sys2Proof.Machine.execEvrFreeze s
  | .evrUnfreeze => Sys2Proof.Machine.execEvrUnfreeze s
  | .evrClear => Sys2Proof.Machine.execEvrClear s
  | .auxPowerUp => Sys2Proof.Machine.execAuxPowerUp s
  | .regulatorStart => Sys2Proof.Machine.execRegulatorStart s
  | .powerGood => Sys2Proof.Machine.execPowerGood s
  | .resetRelease addr ropeOff => Sys2Proof.Machine.execResetRelease addr ropeOff s
  | .boot okA okB => Sys2Proof.Machine.execBoot okA okB s
  | .brownOut => Sys2Proof.Machine.execBrownOut s
  | .auxBrownOut => Sys2Proof.Machine.execAuxBrownOut s
  | .coldRstN temp => Sys2Proof.Machine.execColdRstN temp s
  | .perstN => Sys2Proof.Machine.execPerstN s
  | .warmRstN => Sys2Proof.Machine.execWarmRstN s
  | .pwrReset value => Sys2Proof.Machine.execPwrReset value s
  | .pfFlr => Sys2Proof.Machine.execPfFlr s
  | .cxlHotReset => Sys2Proof.Machine.execCxlHotReset s
  | .thermalTrip junction layer => Sys2Proof.Machine.execThermalTrip junction layer s
  | .profileChange value => Sys2Proof.Machine.execProfileChange value s
  | .standbyRequest value => Sys2Proof.Machine.execStandbyRequest value s
  | .standbyEntered => Sys2Proof.Machine.execStandbyEntered s
  | .standbyWakeWrite value => Sys2Proof.Machine.execStandbyWakeWrite value s
  | .wakeN => Sys2Proof.Machine.execWakeN s
  | .wakeComplete lines => Sys2Proof.Machine.execWakeComplete lines s
  | .mgmtRead smbus a => Sys2Proof.Machine.execMgmtRead smbus a s
  | .ptpEnableWrite value => Sys2Proof.Machine.execPtpEnableWrite value s
  | .regionEnable j => Sys2Proof.Machine.execRegionEnable j s
  | .warmRstNRelease => Sys2Proof.Machine.execWarmRstNRelease s
  | .tspError p => Sys2Proof.Machine.execTspError p s

end Sys2Proof.Machine
end

