-- ==== Sys2Proof/Safety.lean ====
section
/-! DEFINITION. What counts as a safe run of the block, and the terms in which claims about a step are
stated: the parts of the state, what a command may write, and the canonical form of its maps. -/

namespace Sys2Proof

open Machine

/-- A command that completes on a state: it answers a next state, no fault and no refusal. -/
def Completes (c : Instr) (s : State) : Prop := ∃ t, exec c s = .next t

/-- A command that answers a next state with a property. -/
def Gives (c : Instr) (s : State) (P : State → Prop) : Prop := ∃ t, exec c s = .next t ∧ P t

/-- A safe step. -/
def SafeStep (s : State) : Prop := ∃ t, step s = .next t

/-- `k` steps that all answer a next state, and the state they end in. -/
def Reaches : Nat → State → State → Prop
  | 0, s, t => s = t
  | k + 1, s, t => ∃ u, step s = .next u ∧ Reaches k u t

/-- The parts of the state, one for each of its fields. -/
inductive Fld where
  | pending | fuses | regs | staged | latched | rdata | now | clk | free | host | stack | tileW | tileA
  | ledge | ue | weak | stackSt | msixT | pba | msixHeld | outs | cxlLink | power | islands | units
  | summit | rings | adminEvents | parts | ctl | kernels | nextKernel | vdes | leases | radio | ports
  | rope | sec | withheldUnits | withheldHalves | withheldLedge | numVfs
  deriving DecidableEq, Repr

/-- Two states agree on a part. -/
def Fld.same (f : Fld) (s t : State) : Prop :=
  match f with
  | .pending => t.pending = s.pending
  | .fuses => t.fuses = s.fuses
  | .regs => t.regs = s.regs
  | .staged => t.staged = s.staged
  | .latched => t.latched = s.latched
  | .rdata => t.rdata = s.rdata
  | .now => t.now = s.now
  | .clk => t.clk = s.clk
  | .free => t.free = s.free
  | .host => t.host = s.host
  | .stack => t.stack = s.stack
  | .tileW => t.tileW = s.tileW
  | .tileA => t.tileA = s.tileA
  | .ledge => t.ledge = s.ledge
  | .ue => t.ue = s.ue
  | .weak => t.weak = s.weak
  | .stackSt => t.stackSt = s.stackSt
  | .msixT => t.msixT = s.msixT
  | .pba => t.pba = s.pba
  | .msixHeld => t.msixHeld = s.msixHeld
  | .outs => t.outs = s.outs
  | .cxlLink => t.cxlLink = s.cxlLink
  | .power => t.power = s.power
  | .islands => t.islands = s.islands
  | .units => t.units = s.units
  | .summit => t.summit = s.summit
  | .rings => t.rings = s.rings
  | .adminEvents => t.adminEvents = s.adminEvents
  | .parts => t.parts = s.parts
  | .ctl => t.ctl = s.ctl
  | .kernels => t.kernels = s.kernels
  | .nextKernel => t.nextKernel = s.nextKernel
  | .vdes => t.vdes = s.vdes
  | .leases => t.leases = s.leases
  | .radio => t.radio = s.radio
  | .ports => t.ports = s.ports
  | .rope => t.rope = s.rope
  | .sec => t.sec = s.sec
  | .withheldUnits => t.withheldUnits = s.withheldUnits
  | .withheldHalves => t.withheldHalves = s.withheldHalves
  | .withheldLedge => t.withheldLedge = s.withheldLedge
  | .numVfs => t.numVfs = s.numVfs

/-- The second state differs from the first in the listed parts at most. -/
def WritesOnly (w : List Fld) (s t : State) : Prop := ∀ f, f ∉ w → f.same s t

/-- The parts of the state that a command may write. -/
def writes (c : Instr) : List Fld :=
  match c with
  | .registerWrite _ _ _ _ | .lowWordWrite _ _ _ _ | .highWordWrite _ _ _ _ =>
    [.regs, .staged, .latched, .rdata, .clk, .host, .stack, .tileW, .tileA, .ledge, .ue, .weak, .stackSt,
     .msixT, .pba, .msixHeld, .outs, .cxlLink, .power, .islands, .units, .summit, .rings, .adminEvents,
     .parts, .ctl, .kernels, .nextKernel, .vdes, .leases, .radio, .ports, .rope, .sec, .withheldUnits,
     .withheldHalves, .withheldLedge, .numVfs]
  | .rcRegisterRead _ _ | .lowWordRead _ _ =>
    [.regs, .latched, .rdata, .islands]
  | .stall _ _ =>
    [.regs, .host, .stack, .tileW, .tileA, .ledge, .ue, .weak, .stackSt, .pba, .msixHeld, .outs, .islands,
     .units, .summit, .rings, .adminEvents, .parts, .ctl, .kernels, .vdes, .leases, .radio, .ports, .rope]
  | .substitutionReissue _ | .load _ _ _ _ _ | .mm _ _ _ _ _ | .conv _ _ _ _ _ | .gather _ _ _ _ _
  | .epilogue _ _ _ | .blockCommit _ _ _ | .splitPartResume _ _ _ | .biasAct _ _ _ | .biasActRes _ _ _
  | .dequantAct _ _ _ | .rowStats _ _ _ | .layernormMm _ _ _ | .rmsnormMm _ _ _ | .gated _ _ _
  | .attentionOnline _ _ _ | .attentionTwoPass _ _ _ | .routerTopk _ _ _ | .dynamicQuant _ _ _
  | .colPool _ _ _ | .peerSend _ _ _ _ | .peerSendCommit _ _ _ | .peerAccum _ _ _ | .chainBufferReady _ _ _
  | .expand _ _ _ | .bucket _ _ _ | .gatherRows _ _ _ | .backgroundKat _ _ | .katUnit _ _ | .katClass _ _ =>
    [.regs, .host, .stack, .tileW, .tileA, .ledge, .ue, .weak, .stackSt, .pba, .msixHeld, .outs, .islands,
     .units, .summit, .rings, .adminEvents, .parts, .ctl, .kernels, .vdes, .leases, .radio, .rope]
  | .partitionStopTileLost _ | .selftestDeferred _ =>
    [.regs, .host, .pba, .msixHeld, .outs, .units, .summit, .rings, .adminEvents, .parts, .ctl]
  | .paceSample _ _ _ _ =>
    [.regs, .pba, .msixHeld, .outs, .islands, .ctl, .radio]
  | .splitTimeout _ _ | .peerSendPayloadAcked _ _ _ | .chainTimeout _ _ | .kernelAbandon _
  | .ropeLoad _ _ _ _ | .ropeStore _ _ _ _ | .addI32 _ _ _ _ | .addI64 _ _ _ _ | .minI64 _ _ _ _
  | .maxI64 _ _ _ _ | .and64 _ _ _ _ | .or64 _ _ _ _ | .xor64 _ _ _ _ | .swap64 _ _ _ _ | .cas64 _ _ _ _
  | .addF32 _ _ _ _ | .publish _ _ _ _ | .digest _ _ _ _ | .genFence _ _ _ _ | .ropeFence _ _ _ _
  | .ropeReply _ | .ropeRetry _ _ _ | .remoteTimeout _ _ _ | .ropeCreditGrant _ _ _
  | .ropePortChange _ _ _ _ | .ropeEnableWrite _ _ | .selfExclude | .epochCommit | .globalEpochChange _ _
  | .chunkReceive _ | .coldStartStageTimeout =>
    [.regs, .stack, .tileW, .tileA, .ledge, .ue, .weak, .stackSt, .pba, .msixHeld, .outs, .units, .summit,
     .rings, .parts, .ctl, .kernels, .rope]
  | .paramRequest _ _ | .partitionResume _ | .accountingUpdate _ | .paceBlindRelease | .l1Buf _
  | .ringEnable _ _ _ _ _ | .doorbellReacquireTimeout _ | .descriptorFetch _ _ | .descriptorCompletion _ =>
    [.regs, .host, .pba, .msixHeld, .outs, .rings, .adminEvents, .parts, .ctl]
  | .configRequest _ _ _ =>
    [.regs, .host, .pba, .msixHeld, .outs, .summit, .rings, .adminEvents, .parts, .ctl, .leases, .radio,
     .ports]
  | .cellRelease _ _ | .startRequest _ _ | .stopRequest _ _ | .stopIndication _ | .txDataRequest _ _ _
  | .ssbSearchRequest _ _ _ _ _ | .ssbSearchIndication _ | .slotIndication _ | .cellShedComplete _
  | .shedStepRepeat _ =>
    [.regs, .host, .pba, .msixHeld, .outs, .rings, .adminEvents, .parts, .ctl, .radio]
  | .cellStart _ | .channelEstimation _ _ _ | .mmseWeights _ _ | .equalisation _ _ _ =>
    [.radio]
  | .dlTtiRequest _ _ _ | .ulTtiRequest _ _ _ | .ulDciRequest _ _ _ =>
    [.regs, .host, .pba, .msixHeld, .outs, .rings, .adminEvents, .parts, .ctl, .radio, .ports]
  | .slotBookRequest _ _ _ | .paceEmergency _ _ | .thermalWarning _ | .thermalEmergency _ =>
    [.regs, .host, .pba, .msixHeld, .outs, .summit, .rings, .adminEvents, .parts, .ctl, .leases, .radio]
  | .downlinkProcessing _ _ | .cPlaneLaunch _ _ | .symbolWindowClose _ _ _ | .commitPoint _ _ _ =>
    [.regs, .host, .pba, .msixHeld, .outs, .summit, .rings, .adminEvents, .parts, .ctl, .radio, .ports]
  | .uPlaneLaunch _ _ _ | .uPlaneDiscard _ _ =>
    [.regs, .radio, .ports]
  | .uplinkCPlaneLaunch _ _ | .shedSlot _ =>
    [.radio, .ports]
  | .harqCombining _ _ _ =>
    [.regs, .pba, .msixHeld, .outs, .summit, .ctl, .radio]
  | .uplinkResults _ _ =>
    [.regs, .host, .pba, .msixHeld, .outs, .summit, .rings, .adminEvents, .parts, .ctl, .radio]
  | .vLdv _ _ | .vStv _ _ | .vLdx _ _ | .vSts _ _ | .vExpb _ _ | .vCmpb _ _ | .vAgld _ _ | .vMov _ _
  | .vSplat _ _ | .vSets _ _ | .vPerm _ _ | .vAdd _ _ | .vSub _ _ | .vMul _ _ | .vConj _ _ | .vAbs2 _ _
  | .vShr _ _ | .vCvt _ _ | .vMaxv _ _ | .vMinv _ _ | .vAnd _ _ | .vXor _ _ | .vRecip _ _ | .vMacz _ _
  | .vMac _ _ | .vMsc _ _ | .vNarrow _ _ | .vGold _ _ | .vCrc _ _ | .vQmap _ _ | .vDemap _ _ | .vFht _ _
  | .vMaxs _ _ | .vMins _ _ | .vRsum _ _ | .vAmm _ _ | .vArd _ _ | .vLoop _ _ | .vNop _ _ | .vFence _ _
  | .vBrk _ _ | .vdeFreezeEnd _ _ | .vdeHaltRequest | .vdeHalt _ _ | .vdeStep | .vdeResume | .vdeListEnd =>
    [.regs, .host, .stack, .tileW, .tileA, .ledge, .ue, .weak, .stackSt, .pba, .msixHeld, .outs, .units,
     .summit, .rings, .adminEvents, .parts, .ctl, .kernels, .vdes, .rope]
  | .fft _ _ _ | .prach _ _ _ =>
    [.regs, .host, .stack, .tileW, .tileA, .ledge, .ue, .weak, .stackSt, .pba, .msixHeld, .outs, .units,
     .summit, .rings, .adminEvents, .parts, .ctl, .kernels, .radio]
  | .ldpcDecode _ _ _ | .ldpcEncode _ _ _ | .polarEncode _ _ _ | .polarDecode _ _ _ =>
    [.regs, .stack, .tileW, .tileA, .ledge, .ue, .weak, .stackSt, .pba, .msixHeld, .outs, .units, .summit,
     .parts, .ctl, .kernels, .radio]
  | .accelResult _ | .holdExceeded _ _ =>
    [.regs, .host, .stack, .tileW, .tileA, .ledge, .ue, .weak, .stackSt, .pba, .msixHeld, .outs, .units,
     .summit, .rings, .adminEvents, .parts, .ctl, .kernels, .rope]
  | .islandAdd _ | .islandRemovalDone _ _ =>
    [.regs, .pba, .msixHeld, .outs, .islands, .ctl]
  | .islandRemove _ =>
    [.regs, .host, .pba, .msixHeld, .outs, .islands, .summit, .rings, .adminEvents, .parts, .ctl, .leases]
  | .belayRadioMemWrite _ | .windowLock | .launchGateArm _ _ | .launchGateFire _ | .allowLock | .cmpArm _ _
  | .evrFreeze | .profileChange _ | .regionEnable _ =>
    [.regs]
  | .governorStep _ _ _ =>
    [.regs, .host, .pba, .msixHeld, .outs, .islands, .summit, .rings, .adminEvents, .parts, .ctl, .radio,
     .ports]
  | .limiterSample _ _ _ _ _ =>
    [.regs, .host, .pba, .msixHeld, .outs, .power, .islands, .summit, .rings, .adminEvents, .parts, .ctl,
     .leases, .radio, .ports]
  | .throttleStep _ _ =>
    [.islands]
  | .leaseGrant | .leaseRevoke | .leaseEnd _ =>
    [.regs, .host, .pba, .msixHeld, .outs, .summit, .rings, .adminEvents, .parts, .ctl, .leases]
  | .leaseReclaimSave _ =>
    [.regs, .host, .stack, .tileW, .tileA, .ledge, .ue, .weak, .stackSt, .pba, .msixHeld, .outs, .units,
     .summit, .rings, .adminEvents, .parts, .ctl, .leases, .rope]
  | .leaseLayerAbandon _ =>
    [.regs, .stack, .tileW, .tileA, .ledge, .ue, .weak, .stackSt, .pba, .msixHeld, .outs, .units, .summit,
     .rings, .parts, .ctl, .kernels, .leases, .rope]
  | .partitionEnable _ =>
    [.regs, .host, .tileW, .tileA, .ledge, .pba, .msixHeld, .outs, .power, .rings, .adminEvents, .parts,
     .ctl, .vdes]
  | .quiesceReset _ | .generationDiscard _ | .partitionRelease _ | .vfFlr _ =>
    [.regs, .host, .stack, .tileW, .tileA, .ledge, .ue, .weak, .stackSt, .pba, .msixHeld, .outs, .units,
     .summit, .rings, .adminEvents, .parts, .ctl, .kernels, .ports, .rope, .sec]
  | .resetDrainDone _ _ | .unloadSlotIdle _ =>
    [.rings, .parts]
  | .scrubDone _ _ _ _ _ =>
    [.regs, .host, .stack, .tileW, .tileA, .ledge, .ue, .weak, .stackSt, .pba, .msixHeld, .outs, .units,
     .summit, .rings, .adminEvents, .parts, .ctl, .kernels, .vdes, .leases, .ports, .rope, .sec,
     .withheldUnits, .withheldHalves, .withheldLedge]
  | .vfEnableCleared _ =>
    [.regs, .host, .stack, .tileW, .tileA, .ledge, .ue, .weak, .stackSt, .pba, .msixHeld, .outs, .units,
     .summit, .rings, .adminEvents, .parts, .ctl, .kernels, .ports, .rope, .sec, .numVfs]
  | .kernelStart _ =>
    [.rings, .parts, .kernels, .nextKernel]
  | .kernelOverrun _ =>
    [.regs, .host, .pba, .msixHeld, .outs, .summit, .rings, .adminEvents, .parts, .ctl, .kernels]
  | .quantumExpiry _ | .contextResumeDone _ _ | .semRelease _ =>
    [.regs, .host, .stack, .tileW, .tileA, .ledge, .ue, .weak, .stackSt, .pba, .msixHeld, .outs, .units,
     .summit, .rings, .adminEvents, .parts, .ctl, .rope]
  | .contextSaveDone _ | .energyAttribution _ _ _ _ _ | .tspError _ =>
    [.parts]
  | .batchCloseTimeout _ _ =>
    [.regs, .stack, .tileW, .tileA, .ledge, .ue, .weak, .stackSt, .pba, .msixHeld, .outs, .units, .summit,
     .rings, .parts, .ctl]
  | .semSet _ | .semAcquire _ | .unloadImage _ =>
    [.regs, .host, .pba, .msixHeld, .outs, .summit, .rings, .adminEvents, .parts, .ctl]
  | .cxlMemWrite _ _ _ _ | .loadImage _ _ _ | .run _ | .copy _ _ =>
    [.regs, .host, .stack, .tileW, .tileA, .ledge, .ue, .weak, .stackSt, .pba, .msixHeld, .outs, .units,
     .summit, .rings, .adminEvents, .parts, .ctl]
  | .cxlMemRead _ _ _ _ =>
    [.regs, .weak, .stackSt, .pba, .msixHeld, .outs, .units, .summit, .ctl]
  | .mlist _ =>
    [.regs, .host, .pba, .msixHeld, .outs, .summit, .rings, .adminEvents, .parts, .ctl, .kernels,
     .nextKernel]
  | .oplist _ =>
    [.regs, .host, .weak, .stackSt, .pba, .msixHeld, .outs, .units, .summit, .rings, .adminEvents, .parts,
     .ctl, .kernels, .nextKernel, .vdes]
  | .accel _ =>
    [.regs, .host, .stack, .tileW, .tileA, .ledge, .ue, .weak, .stackSt, .pba, .msixHeld, .outs, .units,
     .summit, .rings, .adminEvents, .parts, .ctl, .kernels, .nextKernel]
  | .indicationDrop _ =>
    [.regs, .pba, .msixHeld, .outs, .summit, .rings, .ctl]
  | .ringDisable _ _ =>
    [.regs, .rings, .parts]
  | .ringDisableComplete _ =>
    [.regs, .rings]
  | .doorbellEvent _ _ | .adminDbWrite _ _ _ =>
    [.regs, .host, .pba, .msixHeld, .outs, .power, .rings, .adminEvents, .parts, .ctl]
  | .intcSetWrite _ _ | .intcEnWrite _ _ =>
    [.regs, .pba, .msixHeld, .outs, .ctl]
  | .msixUnmask _ _ =>
    [.regs, .msixT, .pba, .msixHeld, .outs, .ctl]
  | .cxlLinkTrained _ _ =>
    [.regs, .pba, .msixHeld, .outs, .cxlLink, .ctl]
  | .ideFailure =>
    [.regs, .pba, .msixHeld, .outs, .ctl, .sec]
  | .refresh _ _ _ _ _ _ =>
    [.regs, .ue, .weak, .stackSt, .power]
  | .patrolRead _ _ =>
    [.regs, .ue, .weak, .stackSt, .pba, .msixHeld, .outs, .units, .summit, .ctl]
  | .ropeHomeRequest _ =>
    [.regs, .stack, .tileW, .tileA, .ledge, .ue, .weak, .stackSt, .pba, .msixHeld, .outs, .power, .units,
     .summit, .ctl, .rope]
  | .replayWindowAgeout _ _ =>
    [.rope]
  | .ropeHeartbeat _ _ | .memberDead _ | .ropeEvict _ | .coordinatorLoss | .epochReceive _ _
  | .epochAckTimeout _ | .chunkSend _ _ =>
    [.outs, .rope]
  | .rejoin _ =>
    [.regs, .stack, .tileW, .tileA, .ledge, .ue, .weak, .stackSt, .pba, .msixHeld, .outs, .units, .summit,
     .ctl, .rope]
  | .frameReceive _ =>
    [.regs, .clk, .host, .stack, .tileW, .tileA, .ledge, .ue, .weak, .stackSt, .pba, .msixHeld, .outs,
     .units, .summit, .rings, .adminEvents, .parts, .ctl, .radio, .ports, .rope]
  | .frameTransmit _ _ =>
    [.regs, .stack, .tileW, .tileA, .ledge, .ue, .weak, .stackSt, .pba, .msixHeld, .outs, .units, .summit,
     .parts, .ctl, .radio, .ports]
  | .ptpTransmit _ _ _ | .gateIntervalEnd _ _ | .ppsPulseEnd _ =>
    [.ports]
  | .portEnable _ _ | .portLinkChange _ _ _ =>
    [.regs, .host, .stack, .tileW, .tileA, .ledge, .ue, .weak, .stackSt, .pba, .msixHeld, .outs, .units,
     .summit, .rings, .adminEvents, .parts, .ctl, .radio, .ports]
  | .gclChange _ _ _ | .gclTakeEffect _ _ | .captureArm _ _ | .captureEvent _ =>
    [.regs, .ports]
  | .pqEnable _ _ =>
    [.regs, .parts]
  | .pqTxPoll _ =>
    [.regs, .stack, .tileW, .tileA, .ledge, .ue, .weak, .stackSt, .pba, .msixHeld, .outs, .units, .summit,
     .ctl, .ports]
  | .todRead =>
    [.regs, .rdata]
  | .timeSet _ | .ptpEnableWrite _ =>
    [.regs, .clk, .ports]
  | .announceTimeout | .holdoverExceeded | .cmpFire _ =>
    [.regs, .pba, .msixHeld, .outs, .ctl, .ports]
  | .ryrnHeartbeat =>
    [.sec]
  | .watchdogQuiesce =>
    [.regs, .pba, .msixHeld, .outs, .summit, .ctl, .sec]
  | .stage _ | .activate | .discard | .fwRollback =>
    [.regs, .pba, .msixHeld, .outs, .rings, .ctl, .sec]
  | .fwCommit =>
    [.fuses, .regs, .pba, .msixHeld, .outs, .rings, .ctl, .sec]
  | .getVersion _ | .getCapabilities _ | .negotiateAlgorithms _ _ | .challenge _ _ _
  | .getMeasurements _ _ _ _ | .finish _ _ | .spdmHeartbeat _ _ | .keyUpdate _ _ | .endSession _ _
  | .ideKm _ _ _ =>
    [.outs, .sec]
  | .getDigests _ | .getCertificate _ _ _ _ | .mgmtRead _ _ =>
    [.outs]
  | .keyExchange _ _ =>
    [.free, .outs, .sec]
  | .tspLock _ | .tspRun _ _ =>
    [.outs, .parts]
  | .monitorCheck _ _ =>
    [.regs, .host, .pba, .msixHeld, .outs, .units, .summit, .rings, .adminEvents, .parts, .ctl, .leases,
     .radio]
  | .marginCheck _ _ =>
    [.regs, .host, .stackSt, .pba, .msixHeld, .outs, .units, .summit, .rings, .adminEvents, .parts, .ctl]
  | .startupSelftest _ _ _ _ _ =>
    [.regs, .host, .stack, .tileW, .tileA, .ledge, .ue, .weak, .stackSt, .pba, .msixHeld, .outs, .power,
     .islands, .units, .summit, .rings, .adminEvents, .parts, .ctl, .kernels, .vdes, .leases, .radio, .rope]
  | .evrUnfreeze =>
    [.regs, .pba, .msixHeld, .outs, .summit, .ctl]
  | .evrClear =>
    [.summit]
  | .auxPowerUp | .brownOut | .auxBrownOut | .coldRstN _ | .perstN | .thermalTrip _ _ =>
    [.regs, .staged, .latched, .rdata, .clk, .stack, .tileW, .tileA, .ledge, .ue, .weak, .stackSt, .msixT,
     .pba, .msixHeld, .cxlLink, .power, .islands, .units, .summit, .rings, .adminEvents, .parts, .ctl,
     .kernels, .nextKernel, .vdes, .leases, .radio, .ports, .rope, .sec, .withheldUnits, .withheldHalves,
     .withheldLedge, .numVfs]
  | .regulatorStart =>
    [.power, .islands]
  | .powerGood | .warmRstNRelease =>
    [.power]
  | .resetRelease _ _ =>
    [.regs, .power, .rope]
  | .boot _ _ =>
    [.power, .sec]
  | .warmRstN | .pwrReset _ | .pfFlr | .cxlHotReset =>
    [.regs, .staged, .latched, .rdata, .clk, .stack, .tileW, .tileA, .ledge, .ue, .weak, .stackSt, .msixT,
     .pba, .msixHeld, .outs, .cxlLink, .power, .islands, .units, .summit, .rings, .adminEvents, .parts,
     .ctl, .kernels, .nextKernel, .vdes, .leases, .radio, .ports, .rope, .sec, .withheldUnits,
     .withheldHalves, .withheldLedge, .numVfs]
  | .standbyRequest _ | .standbyWakeWrite _ | .wakeN =>
    [.regs, .power]
  | .standbyEntered =>
    [.free, .tileW, .tileA, .ledge, .power, .islands, .vdes]
  | .wakeComplete _ =>
    [.regs, .stack, .tileW, .tileA, .ledge, .ue, .weak, .stackSt, .pba, .msixHeld, .outs, .power, .islands,
     .units, .summit, .ctl, .rope]

/-- Every map of the state that stands for a memory or for numbered units is in its canonical form. -/
def Machine.State.canon (s : State) : Bool :=
  SMap.wf regReset s.regs
  && SMap.wf (fun _ => none) s.staged
  && SMap.wf (fun _ => none) s.latched
  && SMap.wf byteZero s.host
  && SMap.wf byteZero s.stack
  && SMap.wf byteZero s.tileW
  && SMap.wf byteZero s.tileA
  && SMap.wf byteZero s.ledge
  && SMap.wf msixReset s.msixT
  && SMap.wf (fun _ => false) s.pba
  && SMap.wf (fun _ => Island.reset) s.islands
  && SMap.wf (fun _ => Ring.reset) s.rings
  && SMap.wf (fun _ => Part.reset) s.parts
  && SMap.wf (fun _ => CtlBucket.reset) s.ctl
  && SMap.wf (fun _ => Vde.reset) s.vdes

/-- The next op of an engine's list is due: the engine runs the list for a live kernel, the op at its pc is of the
opcode, and neither halt, freeze, substitution nor a requested halt holds it (06 R205, R207, R218). -/
def VdeDue (s : Machine.State) (die n op : Nat) (r : VRun) (k : Kernel) (o : VOp) : Prop :=
  (s.vde die n).run = some r ∧ s.vdeKernel (s.vde die n) = some k ∧ r.ops[(s.vde die n).pc]? = some o ∧
  voOp o = op ∧ s.awake = true ∧ (s.vde die n).halted = false ∧ (s.vde die n).freeze = .none ∧
  s.underSubst ⟨die, .vde, n⟩ = false ∧ (voHb o && (s.vde die n).haltReq && !(s.vdeRadio die n)) = false

/-- The engine when an op issues: every write due by the end of the slot before has landed (06 R205). -/
def VdeSeen (e : Vde) : Vde := if e.slot = 0 then e else Vde.land (e.slot - 1) e.pend.length e

/-- Every read of an op at a location (an offset, none where the generator gives none, and a length) is within reach and
can be delivered (06 R203, R206). -/
def VdeReads (i : VIn) (loc : Nat) (l : List (Option Nat × Nat)) : Prop :=
  ∀ p ∈ l, ∃ a, p.1 = some a ∧ i.s.verdict i.x loc a p.2 = .ok ∧ i.s.locUe i.x loc a p.2 = none

/-- Every store of an op at a location may be made (06 R203, 08 R289, 10 R350). -/
def VdeWrites (i : VIn) (loc : Nat) (l : List (Option Nat × List Byte)) : Prop :=
  ∀ p ∈ l, ∃ a, p.1 = some a ∧ i.s.writeFail i.x loc a p.2 = none

/-- The oldest unstarted descriptor of a job ring is of the opcode and may start: the physical function's at once,
a partition's in a context that runs, or a request of a batching context, once the context has passed its check (08
R274, R276, R283, R285); `t` is the state after the
check, `i` the issuer. -/
def Admitted (s : Machine.State) (n op : Nat) (t : Machine.State) (d : Desc) (i : Issuer) : Prop :=
  s.awake = true ∧ s.gated n = false ∧ s.nextStart n = some d ∧ d.op = op ∧
  ((i = none ∧ s.ringOwner n = none ∧ t = s) ∨
    ∃ p c, i = some (p, c) ∧ s.ringOwner n = some p ∧ s.ringCtx p n = some c ∧
      (s.ctxRuns p c = true ∨ s.requests p c op = true ∧ (s.part p).state = .running) ∧
      t = s.checkCtx p c ∧ (t.ctx p c).checked = some true)

/-- A layer-1 message is taken: the next descriptor of the ring is an L1_MSG whose framing passes and whose block is
the message; `t` is the state after its completion (05 R175, 09 R323). -/
def L1Taken (s : Machine.State) (n : Nat) (h : RadioHdr) (id : Nat) (d : Desc) (t : Machine.State) : Prop :=
  s.awake = true ∧ s.nextStart n = some d ∧ d.op = 0x20 ∧ l1Bad d.words h = none ∧ h.msgId = id ∧
  t = s.finishDesc n d.idx (Result.of .success)

/-- The message names a cell that has no ring yet or whose ring it came on (09 R314). -/
def L1OfCell (t : Machine.State) (n : Nat) (h : RadioHdr) : Prop :=
  h.cell < 384 ∧ ∀ m, (t.cell h.cell).ring = some m → m = n

/-- The request's slot `m` lies in the window of a cell that accepts requests for it (05 R170, R176, R180). -/
def P7Slot (t : Machine.State) (h : RadioHdr) (g : CellCfg) (m : Nat) : Prop :=
  (t.cell h.cell).cfg = some g ∧ m = g.resolve t.clk h.sfn h.slot ∧ (t.cell h.cell).busy = true ∧
  beforeBound (t.cell h.cell).bound m = true ∧ t.clk < g.air (m + 1) ∧ m ≤ g.slotAt t.clk + 20

end Sys2Proof
end

