-- ==== Sys2Proof/Certificates/Slice0/Obligations.lean ====
section
/-! DEFINITION. The statements about the device for the provers: its step as a whole, then every family of
commands: that each command completes and what it leaves. Log entries are named where a clause rests on one. -/

open Sys2Proof Sys2Proof.Machine

/-- The command at the front of the queue takes its effect on the state without it (log entry 5).
The model's choices in it: log entry 5. -/
def Obligations.StepRunsTheFrontCommand : Prop :=
  ∀ (c : Instr) (rest : List Instr) (s : State), s.pending = c :: rest →
    step s = exec c { s with pending := rest } ∧ step (s.push c) = exec c s


/-- With no command waiting a nanosecond passes (the model's choice, log entry 5): the base of durations counts it,
the local clock too while its domain has power, with 48 bits of seconds, and nothing else changes.
The model's choices in it: log entry 5. -/
def Obligations.IdleCountsANanosecond : Prop :=
  ∀ s : State, s.pending = [] → ∃ t, step s = .next t ∧ t.now = s.now + 1 ∧
    t.clk = (if s.power.phase = .good then (s.clk + 1) % (2 ^ 48 * 1_000_000_000) else s.clk) ∧
    WritesOnly [.now, .clk] s t


/-- A command changes at most the parts of the state that `writes` lists for it: every other part is as before.
The model's choices in it: log entries 9 and 11. -/
def Obligations.CommandsWriteOnlyTheirParts : Prop :=
  ∀ (c : Instr) (s t : State), exec c s = .next t → WritesOnly (writes c) s t


/-- No command touches the queue: a step takes one command from its front and adds none. That commands wait in one queue,
first in, first out, is the model's choice (log entry 5), and so is that they stay over resets (log entry 13).
The model's choices in it: log entries 5 and 13. -/
def Obligations.StepsConsumeTheQueue : Prop :=
  ∀ s t : State, step s = .next t → t.pending = s.pending.tail


/-- Every step keeps the canonical form of the memories and of the numbered units.
The model's choices in it: log entry 69. -/
def Obligations.StepsKeepMapsCanonical : Prop :=
  ∀ s t : State, s.canon = true → step s = .next t → t.canon = true


/-- The state after reset has its maps in canonical form and no command waiting.
The model's choices in it: log entries 1 and 69. -/
def Obligations.ResetIsCanonical : Prop :=
  State.reset.canon = true ∧ State.reset.pending = []


/-- Only a CXL.mem access beyond the existing stack memory stops the device, and it does: every other command
answers a next state (09 R306's range; the fault is the model's name for an address that does not exist).
The model's choices in it: log entries 9 and 47. -/
def Obligations.OnlyMissingAddressesStop : Prop :=
  (∀ (c : Instr) (s : State), (∃ t, exec c s = .next t) ∨
      (∃ a bs st tr, c = .cxlMemWrite a bs st tr ∧ s.memBytes < a + bs.length) ∨
      (∃ a n st tr, c = .cxlMemRead a n st tr ∧ s.memBytes < a + n)) ∧
  (∀ (s : State) (a n : Nat) (bs : List Byte) (st : Option Nat) (tr : Bool),
    (s.memBytes < a + bs.length → exec (.cxlMemWrite a bs st tr) s = .fault (.noSuchAddress a)) ∧
    (s.memBytes < a + n → exec (.cxlMemRead a n st tr) s = .fault (.noSuchAddress a)))


/-- A write with fewer than four byte enables is ignored, and a read returns the whole word (00 R15). -/
def Obligations.ByteEnables : Prop :=
  (∀ (s : State) (v : View) (off word : Nat) (value : W32) (be : BitVec 4), be ≠ 0xF →
    exec (.registerWrite v off value be) s = .next s ∧ exec (.lowWordWrite v off value be) s = .next s ∧
    exec (.highWordWrite v off value be) s = .next s ∧ exec (.adminDbWrite word value be) s = .next s) ∧
  (∀ (s : State) (off : Nat), s.up = true → off < 0x80_0000 → off % 4 = 0 →
    ∃ t, exec (.rcRegisterRead .pf off) s = .next t ∧ t.rdata = (s.readWord off).1)


/-- What the access codes do to the stored bits of a register: a bit that is RW takes the value written, a W1C bit
written as one clears, every other bit stays; a read clears the RC bits (00 R18). -/
def Sys2Proof.Says.AccessCodes : Prop :=
  ∀ (s : State) (a i : Nat) (v : W32), s.canon = true → i < 32 →
    ((s.applyWrite a v).reg a).getLsbD i =
      (if (BitVec.ofNat 32 (regDesc a).w1c).getLsbD i && v.getLsbD i then false
       else if (BitVec.ofNat 32 (regDesc a).rw).getLsbD i then v.getLsbD i else (s.reg a).getLsbD i) ∧
    ((s.clearRC a).reg a).getLsbD i =
      (if (BitVec.ofNat 32 (regDesc a).rc).getLsbD i then false else (s.reg a).getLsbD i)


/-- Host accesses complete: in a view's BAR 0 a write of a 32-bit register acts on it, a low word waits in the staging
word and changes nothing else, a high word acts with it and empties it, a read of a low word latches the high word
(00 R14), and the next read of the high word returns what was latched; in BAR 2 they reach the function's MSI-X
table (09 R342). -/
def Sys2Proof.Says.RegisterAccesses : Prop :=
  ∀ (s : State) (v : View) (off : Nat) (w : W32), s.reached v = true → off % 4 = 0 → s.canon = true →
    (∀ a, bar2 v = none → s.viewAddr v off = some a →
      (pairLow a = false → pairHigh a = false → exec (.registerWrite v off w 0xF) s = .next (s.pfWrite v a w)) ∧
      (pairLow a = true → s.lowHeld a = false →
        ∃ t, exec (.lowWordWrite v off w 0xF) s = .next t ∧ WritesOnly [.staged] s t ∧
          SMap.get (fun _ => none) t.staged a = some w) ∧
      (pairLow a = false → pairHigh a = true →
        exec (.highWordWrite v off w 0xF) s = .next (s.applyHigh v a w)) ∧
      (pairLow a = true →
        ∃ t, exec (.lowWordRead v off) s = .next t ∧ t.rdata = (s.readWord a).1 ∧
          SMap.get (fun _ => none) t.latched (a + 4) = some (s.pfWord (a + 4))) ∧
      (∀ x, SMap.get (fun _ => none) s.latched a = some x → pairLow a = false → a ≠ aTIME →
        ∃ t, exec (.rcRegisterRead v off) s = .next t ∧ t.rdata = x ∧
          SMap.get (fun _ => none) t.latched a = none)) ∧
    (∀ fn, bar2 v = some fn → exec (.registerWrite v off w 0xF) s = .next (s.tableWrite fn off w) ∧
      exec (.rcRegisterRead v off) s = .next { s with rdata := s.tableWord fn off })


/-- Access codes, and host accesses to registers and MSI-X tables.
The model's choices in it: log entries 12, 16 and 17. -/
def Obligations.RegistersRespond : Prop :=
  Says.AccessCodes ∧ Says.RegisterAccesses

/-- A sample of an island's speed monitors sets its pace to the lowest rate, keeps the lowest pace and the
temperature, and sets held from the first sample at or above the raise threshold; a sample below floor pace of a held
island is remembered for the governor (01 R34, R36, 07 R243; the 16 bits of the pace field are the register's).
The model's choices in it: log entries 10 and 23. -/
def Obligations.PaceSamples : Prop :=
  ∀ (s : State) (d i r : Nat) (rest : List Nat) (temp : Int),
    s.canon = true → s.up = true → s.power.standby ≠ .standby → d < 2 → i < 8 →
    ∃ t, exec (.paceSample d i (r :: rest) temp) s = .next t ∧
      (t.island d i).pace = min 0xFFFF (rest.foldl min r) ∧ (t.island d i).temp = temp ∧
      (t.island d i).paceLow = (if (s.island d i).paceLow = 0 then min 0xFFFF (rest.foldl min r)
        else min (s.island d i).paceLow (min 0xFFFF (rest.foldl min r))) ∧
      (t.island d i).held = ((s.island d i).held ||
        ((s.island d i).hold && decide (raisePace ≤ min 0xFFFF (rest.foldl min r)))) ∧
      (t.island d i).under = ((s.island d i).under ||
        ((s.island d i).held && decide (min 0xFFFF (rest.foldl min r) < floorPace))) ∧
      (t.island d i).mv = (s.island d i).mv


/-- A stalled unit is recorded and declared faulty at once (01 R28, 14 R466); the re-issue of a substituted unit ends
its substitution, records it, issues its abandoned work again, begins the next one of the die and lets a waiting save
go on (01 R39, R42); a partition that lost a tile stops
once no kernel of it runs (01 R43). -/
def Sys2Proof.Says.UnitFaultsAct : Prop :=
  (∀ (s : State) (u : UnitId) (un : List (Nat × Nat × Bool)),
    s.awake = true → u.exists' = true → s.isRetired u = false →
    exec (.stall u un) s = .next
      (if s.inRadio u then
        ((s.record 0x0101 (siteUnit u) (lo32 u.island) (s.unitTemp u)).declareUnit u).noticeUnserved u.die un
       else (s.record 0x0101 (siteUnit u) (lo32 u.island) (s.unitTemp u)).declareUnit u)) ∧
  (∀ (s : State) (u : UnitId) (x : Subst),
    s.units.substs.find? (fun x => decide (x.unit = u) && (x.spare.isSome || x.moved)) = some x →
    exec (.substitutionReissue u) s = .next
      (let t := { s with units := { s.units with substs := s.units.substs.filter (fun y => decide (y.unit ≠ u)) } }
       let v := if x.spare.isSome then t.record 0x0106 (siteUnit u) (lo32 u.island) (s.usSince x.t0) else t
       let w := if u.cls = .tile then v.reissueOn u else v
       let y := if w.inRadio u then w.markFault u.die u.island else w
       let z := State.nextSubst u.die y.units.substs.length y
       z.enabledParts.foldl State.maybeSave z)) ∧
  (∀ (s : State) (p d i : Nat), s.units.tilesLost.find? (fun e => decide (e.1 = p)) = some (p, d, i) →
    (s.partKernels p).isEmpty = true → (s.part p).state = .running →
    exec (.partitionStopTileLost p) s = .next
      ((({ s with units := { s.units with
          tilesLost := s.units.tilesLost.filter (fun e => decide (e.1 ≠ p)) } }).enterPart p .stopped).postPart p 0x02
        (lo32 (d * 2 ^ 16 + i)) 0 0 0))


/-- A declaration is recorded, is the last one shown and raises device source 3, and begins the substitution of the
unit; running self-tests that name the unit keep it; a unit already under substitution or retired is not declared again
(14 R466, R467, R469, R474). -/
def Sys2Proof.Says.DeclarationsStand : Prop :=
  ∀ (s : State) (u : UnitId),
    (s.underSubst u = true ∨ s.isRetired u = true → s.declareUnit u = s) ∧
    (s.underSubst u = false → s.isRetired u = false → s.declareUnit u =
      (((((s.record 0x0105 (siteUnit u) (lo32 u.island) (s.unitTemp u)).setReg (aEVR + 0x28) (siteUnit u)).edge
        3).markTests (.unit u) (fun q => { q with declared := true })).substitute u))


/-- Stalls, re-issues, lost tiles and declarations.
The model's choices in it: log entries 21 and 22. -/
def Obligations.UnitFaultsComplete : Prop :=
  Says.UnitFaultsAct ∧ Says.DeclarationsStand

/-- A stall declares the unit at once, without counting, whatever its fault events (14 R466): `stall` records 0x0101 (14
R478), declares the unit with source 3, 0x0105 and EVR_LAST_DECL (R467), and substitutes it. A known-answer mismatch is
recorded as 0x0102 and counted (R466, R472, R478); where it is not lasting it is followed by one further run, which passes,
or mismatches again: that meets the second condition of R465 and declares the unit. For a radio unit the slots that can
no longer be served are named by operand (log entry 21), and the unit tested is one with the oldest pass (R472, log
entry 65).
The model's choices in it: log entries 21 and 65. -/
def Obligations.StallsAndMismatchesDeclare : Prop :=
  ∀ (s : State) (u : UnitId), s.awake = true → u.exists' = true → s.isRetired u = false → s.underSubst u = false →
    (∀ un, exec (.stall u un) s = .next
      (let v := (s.record 0x0101 (siteUnit u) (lo32 u.island) (s.unitTemp u)).declareUnit u
       if s.inRadio u then v.noticeUnserved u.die un else v)) ∧
    s.declareUnit u = ((s.noteDeclared (siteUnit u) (lo32 u.island) (s.unitTemp u)).markTests (.unit u)
      (fun q => { q with declared := true })).substitute u ∧
    (∀ site ext temp, (s.noteDeclared site ext temp) =
      ((s.record 0x0105 site ext temp).setReg (aEVR + 0x28) site).edge 3) ∧
    (let mismatch : State → State := fun v =>
       (v.countKat true).record 0x0102 (siteUnit u) (lo32 u.island) ((v.countKat true).unitTemp u)
     let e := (mismatch s).unitEvt u 0x0102
     ((mismatch s).lastingWith e = true → s.katMismatch (.unit u) = ((mismatch s).addFault e).declareUnit u) ∧
     ((mismatch s).lastingWith e = false → s.power.withheld = false → s.oldest (.unit u) = true →
       let v := (mismatch s).addFault e
       let w := mismatch v
       exec (.backgroundKat (.unit u) .mismatchPass) s = .next ((v.countKat false).notePass (.unit u)) ∧
       exec (.backgroundKat (.unit u) .mismatchTwice) s = .next ((w.addFault e).declareUnit u) ∧
       w.unitEvt u 0x0102 = e ∧ e ∈ w.units.faults ∧ w.lastingWith e = true))


/-- A tile instruction of a program or of a list issues on the tile of its rank (03 R91, R94, R95, 09 R321): with its
words at hand, the tile ready, no earlier failure and nothing withheld by the limiter, the row of its opcode starts it
from a fresh record; the read of a list in stack memory corrects what it meets (10 R346). -/
def Sys2Proof.Says.TileRowsIssue : Prop :=
  ∀ (s : State) (k : Kernel) (kid idx rank die tile : Nat) (words ws : List W32) (sram : List SramErr),
    s.kernel kid = some k → k.tiles[if k.kind = .mlist then 0 else rank]? = some (die, tile) → s.awake = true →
    s.power.withheld = false → s.underSubst ⟨die, .tile, tile⟩ = false → k.clean idx = true →
    k.kind = .run ∨ k.kind = .mlist ∧ idx < k.count ∧ (idx = 0 ∨ (k.insAt (idx - 1)).isSome = true) →
    k.insAt idx = none → s.fetchIns k idx words = .words ws → k.tileReady die tile idx ws = true →
    ∀ e ∈ [(0x01, Instr.load kid idx rank words sram), (0x10, .mm kid idx rank words sram),
        (0x11, .conv kid idx rank words sram), (0x12, .gather kid idx rank words sram)],
      miOp ws = e.1 → exec e.2 s = .next
        ((if k.kind = .mlist then s.issuerCorrects k.issuer (k.bases.getD 0 0 + k.listOff + 128 * idx) 128 else s).startIns
          k { InsRec.fresh idx die tile [] s.now with words := ws } sram false)


/-- A LOAD whose fields and regions pass and that meets no uncorrectable memory holds one store, the bytes of its
source at its destination, for its commit, and accounts its handshakes and stack bytes (03 R96, R97, 02 R80). -/
def Sys2Proof.Says.LoadHoldsItsStore : Prop :=
  ∀ (s : State) (k : Kernel) (r : InsRec), miBad r.words = none →
    s.regionFail (k.site r.die r.tile) [(11, miCode r.words .aData, miOff r.words .aData, ldBytes r.words),
      (15, miCode r.words .outData, miOff r.words .outData, ldBytes r.words)] = none →
    s.locUe (k.site r.die r.tile) (miCode r.words .aData) (miOff r.words .aData) (ldBytes r.words) = none →
    r.counted = false →
    let t := s.locCorrects (k.site r.die r.tile) [(miCode r.words .aData, miOff r.words .aData, ldBytes r.words)]
    s.runLoad k r [] =
      ((t.putIns k.id { r with
        phase := .held, counted := true
        stores := [t.locStore (k.site r.die r.tile) (miCode r.words .outData) (miOff r.words .outData)
          (t.locRead (k.site r.die r.tile) (miCode r.words .aData) (miOff r.words .aData) (ldBytes r.words))] }).account
        k.issuer (fun a => { a with
          stackBytes := a.stackBytes + stackCost (miCode r.words .aData) (ldBytes r.words) })).tileWork k r
        (((wordAt r.words 27).toNat + 3) / 4 + 32)


/-- A matrix product that starts is decoded, its operands stream through the array, and its block waits for the epilogue
(03 R91, R93, 02 R78): the accumulators are those of its rows, and its latency, MACs and stack bytes are accounted once
(03 R124, R125); one that fails its decode stores nothing (03 R98). -/
def Sys2Proof.Says.ProductsDrain : Prop :=
  ∀ (s : State) (k : Kernel) (r : InsRec), miOp r.words ≠ 0x01 →
    (∀ f, s.decodeIns (k.site r.die r.tile) r.words = .fail f →
      s.startIns k r [] false = (s.putIns k.id { r with phase := .failed, stores := [], fail := some f }).settle k.id) ∧
    (∀ b ix e, s.decodeIns (k.site r.die r.tile) r.words = .ok b ix e → miChained r.words = false → r.counted = false →
      s.streamFail (k.site r.die r.tile) r.words ⟨ix, e, miFmtA r.words⟩ [] = none →
      let q : InsRec := { r with chain := b, rows := ix, expert := e }
      let t := s.locCorrects (k.site r.die r.tile) q.streamReads
      let blk := t.product (k.site r.die r.tile) r.words ⟨ix, e, miFmtA r.words⟩
        (t.allA (k.site r.die r.tile) r.words ⟨ix, e, miFmtA r.words⟩)
      ∃ v : InsRec, v.phase = .drained ∧ v.re = blk.re ∧ v.im = blk.im ∧ v.idx = r.idx ∧ v.words = r.words ∧
        s.startIns k r [] false = ((t.putIns k.id v).tileWork k q (miLatency r.words 16 0)).account k.issuer (fun a =>
          { a with
            macs := a.macs + miMacs r.words ix
            stackBytes := a.stackBytes + miStackBytes r.words ⟨ix, e, miFmtA r.words⟩
              + (if miOp r.words = 0x12 ∧ miK r.words ≠ 0 then stackCost (miCode r.words .index) 288 else 0) }))


/-- Tile instructions issue, and LOAD holds its store.
The model's choices in it: log entries 25, 26 and 84. -/
def Obligations.TileInstructionsIssue : Prop :=
  Says.TileRowsIssue ∧ Says.LoadHoldsItsStore ∧ Says.ProductsDrain

/-- A drained block enters its epilogue by the row of its chain (03 R112, R113, 04 R127): an accepted run goes on, a
second checksum mismatch fails the instruction with CHECKSUM_MISMATCH (03 R120), and one abandoned with its tile waits for
its re-issue (01 R39). Without a checksum the run is accepted as it drained. -/
def Sys2Proof.Says.EpilogueRowsRun : Prop :=
  ∀ (s : State) (k : Kernel) (r : InsRec) (kid idx : Nat) (flips : List CellFlip),
    s.recIn kid idx .drained = some (k, r) → k.epilogueFree r = true →
    ∀ e ∈ [(0, Instr.epilogue kid idx flips), (1, .biasAct kid idx flips), (2, .biasActRes kid idx flips),
        (3, .dequantAct kid idx flips), (4, .rowStats kid idx flips), (5, .layernormMm kid idx flips),
        (6, .rmsnormMm kid idx flips), (7, .gated kid idx flips), (8, .attentionOnline kid idx flips),
        (9, .attentionTwoPass kid idx flips), (10, .routerTopk kid idx flips), (11, .dynamicQuant kid idx flips),
        (12, .colPool kid idx flips), (14, .peerAccum kid idx flips)],
      miChain r.words = e.1 →
        (∀ t r', State.acceptRun k flips 2 s r = .ok t r' → exec e.2 s = .next (t.afterRun k r' flips)) ∧
        (∀ t, State.acceptRun k flips 2 s r = .mismatch t →
          exec e.2 s = .next (t.failIns kid r (Result.of .checksumMismatch))) ∧
        (∀ t, State.acceptRun k flips 2 s r = .stop t → exec e.2 s = .next t) ∧
        (miCheck r.words = false → exec e.2 s = .next (s.afterRun k { r with
          accRe := flipRun (miN r.words) r.runs r.masked false flips r.re
          accIm := flipRun (miN r.words) r.runs r.masked true flips r.im } flips))


/-- Without a checksum a run is accepted as it drained; with one, a run whose comparison holds is accepted with its
record; a mismatch is recorded for the unit, a first one of a unit that stays in service runs the block once more, a
second one is final, and one that takes the unit out of service ends the run with its instruction abandoned (03 R118 to
R120, 01 R39). -/
def Sys2Proof.Says.ChecksumRuns : Prop :=
  ∀ (s : State) (k : Kernel) (r : InsRec) (flips : List CellFlip) (n : Nat),
    (miCheck r.words = false →
      State.acceptRun k flips (n + 1) s r = .ok s { r with
        accRe := flipRun (miN r.words) r.runs r.masked false flips r.re
        accIm := flipRun (miN r.words) r.runs r.masked true flips r.im }) ∧
    (∀ ck, miCheck r.words = true →
      ckCompare r.words r.block (flipRun (miN r.words) r.runs r.masked false flips r.re)
        (flipRun (miN r.words) r.runs r.masked true flips r.im) = ck →
      (ck.bad = false → State.acceptRun k flips (n + 1) s r = .ok s { r with
        ck := ck
        accRe := flipRun (miN r.words) r.runs r.masked false flips r.re
        accIm := flipRun (miN r.words) r.runs r.masked true flips r.im }) ∧
      (∀ q, ck.bad = true → r.rerun = false →
        ((s.checksumEvent ⟨r.die, .tile, r.tile⟩ r.words).kernel k.id).bind (fun y => y.insAt r.idx) = some q →
        q.phase ≠ .abandoned → q.phase ≠ .queued → q.tile = r.tile →
        State.acceptRun k flips (n + 1) s r = State.acceptRun k flips n
          ((s.checksumEvent ⟨r.die, .tile, r.tile⟩ r.words).rerun k r)
          { r with runs := r.runs + 1, rerun := true }) ∧
      (∀ q, ck.bad = true → r.rerun = true →
        ((s.checksumEvent ⟨r.die, .tile, r.tile⟩ r.words).kernel k.id).bind (fun y => y.insAt r.idx) = some q →
        q.phase ≠ .abandoned → q.phase ≠ .queued → q.tile = r.tile →
        State.acceptRun k flips (n + 1) s r = .mismatch (s.checksumEvent ⟨r.die, .tile, r.tile⟩ r.words)) ∧
      (∀ q, ck.bad = true →
        ((s.checksumEvent ⟨r.die, .tile, r.tile⟩ r.words).kernel k.id).bind (fun y => y.insAt r.idx) = some q →
        q.phase = .abandoned ∨ q.phase = .queued ∨ q.tile ≠ r.tile →
        State.acceptRun k flips (n + 1) s r = .stop (s.checksumEvent ⟨r.die, .tile, r.tile⟩ r.words)))


/-- Drained blocks enter their epilogues, with checksums.
The model's choices in it: log entries 27 and 84. -/
def Obligations.EpilogueRows : Prop :=
  Says.EpilogueRowsRun ∧ Says.ChecksumRuns

/-- A held block commits in its turn (02 R80), which has come once every earlier instruction has committed: its stores take
effect together, with the merged record of a statistics update (02 R72), and it is committed. The commit that completes
the kernel's program is its boundary (08 R278); any other lets a failure that waited for it end the job. A store that
cannot be made fails the instruction. -/
def Sys2Proof.Says.HeldBlocksCommit : Prop :=
  ∀ (s : State) (k : Kernel) (r : InsRec) (kid idx : Nat) (last : Bool),
    s.recIn kid idx .held = some (k, r) →
    (k.committedTo r.idx = true → k.turnOf r = true) ∧
    (k.turnOf r = true → exec (.blockCommit kid idx last) s = .next (s.commitIns k r last)) ∧
    (let x := k.site r.die r.tile
     let hs := r.stores ++ s.statStores x r
     let t := (s.applyStores k.issuer hs).putIns k.id { r with phase := .committed, stores := [] }
     (statsDue r.words r.chain = false → s.statStores x r = []) ∧
     (statsDue r.words r.chain = true → s.statStores x r = [s.locStore x (miCode r.words .stats) (miOff r.words .stats)
       (statMerge (s.locWords x (miCode r.words .stats) (miOff r.words .stats) 8) r.delta)]) ∧
     (statsDue r.words r.chain = false ∨ s.locUe x (miCode r.words .stats) (miOff r.words .stats) 32 = none →
       (∀ e, s.storesFail k.issuer hs = some e → s.commitIns k r last = s.failInsOr k r e) ∧
       (s.storesFail k.issuer hs = none → ∀ y, t.kernel k.id = some y →
         ((if y.kind = .mlist then y.ins.length = y.count else last = true) → (∀ q ∈ y.ins, q.phase = .committed) →
           s.commitIns k r last = t.kernelBoundary y) ∧
         (y.kind ≠ .mlist → last = false → s.commitIns k r last = t.settle k.id) ∧
         ((∃ q ∈ y.ins, q.phase ≠ .committed) → s.commitIns k r last = t.settle k.id))))


/-- Waits of tile instructions end (03 R114, R115, 04 R138): a split part takes its turn when the header shows its
predecessor, a stage or prologue goes on when its buffers are ready or fails when one is out of order, and either fails
past the layer time with the time it waited. A failed instruction stores nothing, and ends its job in its turn
(02 R79). -/
def Sys2Proof.Says.InstructionWaitsEnd : Prop :=
  ∀ (s : State) (k : Kernel) (r : InsRec) (kid idx : Nat) (flips : List CellFlip),
    (s.recIn kid idx .waitSplit = some (k, r) →
      (s.partialHeader (k.site r.die r.tile) r.words = (miSplitIdx r.words, miGenOut r.words) →
        exec (.splitPartResume kid idx flips) s = .next (s.foldPart k r flips)) ∧
      (r.since + k.maxUs * 1000 < s.now →
        exec (.splitTimeout kid idx) s = .next
          (s.failIns k.id r { status := .splitTimeout, d4 := lo32 (s.usSince r.since) }))) ∧
    (s.recIn kid idx .waitChain = some (k, r) →
      (s.waitsReady (k.site r.die r.tile) r.chain (chainWaits r.words r.chain) = .yes →
        exec (.chainBufferReady kid idx flips) s = .next (s.finishIns k r flips)) ∧
      (s.waitsReady (k.site r.die r.tile) r.chain (chainWaits r.words r.chain) = .order →
        exec (.chainBufferReady kid idx flips) s = .next (s.failIns kid r (Result.of .chainOrder))) ∧
      (r.since + k.maxUs * 1000 < s.now →
        exec (.chainTimeout kid idx) s = .next
          (s.failIns k.id r { status := .chainTimeout, d4 := lo32 (s.usSince r.since) }))) ∧
    (∀ f, s.failIns kid r f =
      (s.putIns kid { r with phase := .failed, stores := [], fail := some f }).settle kid) ∧
    (s.recIn kid idx .waitChain = none → s.recIn kid idx .waitPrologue = some (k, r) →
      (s.waitsReady (k.site r.die r.tile) r.chain (prologueWaits r.words r.chain) = .yes →
        exec (.chainBufferReady kid idx flips) s = .next (s.streamIns k r [])) ∧
      (s.waitsReady (k.site r.die r.tile) r.chain (prologueWaits r.words r.chain) = .order →
        exec (.chainBufferReady kid idx flips) s = .next (s.failIns kid r (Result.of .chainOrder))) ∧
      (r.since + k.maxUs * 1000 < s.now →
        exec (.chainTimeout kid idx) s = .next
          (s.failIns k.id r { status := .chainTimeout, d4 := lo32 (s.usSince r.since) })))


/-- Commands of the gather/expand engine (10 R353 to R357, R346, R350): a command of a running kernel in its place of
program order whose words are wrong fails as BAD_INSTRUCTION at that word; one that reads what it may not, or expands a
quad with too many kept values, fails with what its work comes to, and one that reads an uncorrectable block with that
block; one whose store is barred fails there; any other counts the errors that the code corrects in what it reads,
holds its stores for its commit, and accounts the bytes of stack memory that it reads (08 R300, log entry 45). -/
def Sys2Proof.Says.GatherCommandsHold : Prop :=
  ∀ (s : State) (kid idx : Nat) (words : List W32) (k : Kernel), s.kernel kid = some k → s.awake = true →
    k.kind = .run → k.clean idx = true → k.insAt idx = none →
    let c := (List.range 16).map (wordAt words)
    let die := ((k.tiles.head?).map Prod.fst).getD 0
    let r := InsRec.fresh idx die noTile [] s.now
    let x := k.site die noTile
    ∀ e ∈ [(1, s.gxExpand x c (gxCount c) 0, Instr.expand kid idx words), (2, s.gxBucket x c, .bucket kid idx words),
        (3, s.gxGather x c (gxCount c) 0, .gatherRows kid idx words)],
      gxCmd c = e.1 →
      (∀ w, gxBad c = some w → exec e.2.2 s = .next (s.failIns kid r (Result.badIns w))) ∧
      (gxBad c = none →
        (∀ f l, e.2.1 = .fail f l → exec e.2.2 s = .next (s.failIns kid { r with loc := l.getD idx } f)) ∧
        (∀ m, e.2.1 = .ue m → exec e.2.2 s = .next (s.failInsUe k r m)) ∧
        (∀ st reads, e.2.1 = .ok st reads →
          (∀ f, st.findSome? (s.gxStoreFail x) = some f → exec e.2.2 s = .next (s.failIns kid r f)) ∧
          (st.findSome? (s.gxStoreFail x) = none → exec e.2.2 s = .next
            (((s.locCorrects x reads).putIns kid { r with phase := .held, stores := st }).account k.issuer (fun a =>
              { a with stackBytes := a.stackBytes + (reads.map (fun q => stackCost q.1 q.2.2)).sum })))))


/-- Blocks commit in order, and waits of tile and gather commands end.
The model's choices in it: log entries 26, 28, 50 and 84. -/
def Obligations.BlocksCommit : Prop :=
  Says.HeldBlocksCommit ∧ Says.InstructionWaitsEnd ∧ Says.GatherCommandsHold

/-- PARAM, CONFIG, release, START and STOP of a cell (05 R170, R171): the response that the request gets and the
state it leaves the cell in, and the refusal in a state that does not take it. Each completes its own message first. A
CONFIG.request is refused for its parameters, or where no die fits them with the cell as it was. A START while another is
pending leaves that one's slot (log entry 88). -/
def Sys2Proof.Says.CellRequestsAnswer : Prop :=
  ∀ (s t : State) (n : Nat) (h : RadioHdr) (d : Desc),
    (L1Taken s n h 0x0000 d t → h.cell = 0xFFFF →
      exec (.paramRequest n h) s = .next (t.sendInd n ⟨0xFFFF, 0, 0, h.seq, .param paramLimits⟩)) ∧
    (L1Taken s n h 0x0000 d t → h.cell ≠ 0xFFFF → L1OfCell t n h → (t.cell h.cell).busy = false →
      exec (.paramRequest n h) s = .next (t.sendInd n ⟨h.cell, 0, 0, h.seq, .param paramLimits⟩)) ∧
    (L1Taken s n h 0x0002 d t → L1OfCell t n h → (t.cell h.cell).busy = false →
      exec (.cellRelease n h) s = .next ((t.setCell h.cell Cell.reset).configResponse n h .ok) ∧
      (∀ (b : ConfigBody) (g : CellCfg) (die : Nat), b.isRelease = false → b.cfg = some g →
        ((t.bindCell h.cell n).cell h.cell).busy = false → (t.bindCell h.cell n).configOk h.cell g = true →
        (t.bindCell h.cell n).configDie h.cell g = some die →
        exec (.configRequest n h b) s =
          .next (((t.bindCell h.cell n).admitCell h.cell die g).configResponse n h .ok)) ∧
      (∀ b : ConfigBody, b.isRelease = false → ((t.bindCell h.cell n).cell h.cell).busy = false →
        (b.cfg = none ∨ ∃ g, b.cfg = some g ∧ (t.bindCell h.cell n).configOk h.cell g = false) →
        exec (.configRequest n h b) s = .next ((t.bindCell h.cell n).configResponse n h .invalidConfig)) ∧
      (∀ (b : ConfigBody) (g : CellCfg), b.isRelease = false → b.cfg = some g →
        ((t.bindCell h.cell n).cell h.cell).busy = false → (t.bindCell h.cell n).configOk h.cell g = true →
        (t.bindCell h.cell n).configDie h.cell g = none →
        exec (.configRequest n h b) s = .next ((t.bindCell h.cell n).configResponse n h .belayRefused))) ∧
    (L1Taken s n h 0x0002 d t → L1OfCell t n h → (t.cell h.cell).busy = true →
      exec (.cellRelease n h) s = .next (t.configResponse n h .invalidState)) ∧
    (L1Taken s n h 0x0004 d t → L1OfCell t n h → ∀ g, (t.cell h.cell).cfg = some g →
      ((t.cell h.cell).state = .configured → t.ports.servo.state = .locked →
        exec (.startRequest n h) s =
          .next (t.setCell h.cell { t.cell h.cell with
            startAt := some ((t.cell h.cell).startAt.getD (g.slotAhead t.clk 16)) })) ∧
      (t.ports.servo.state ≠ .locked ∨ (t.cell h.cell).state ≠ .configured →
        exec (.startRequest n h) s = .next (t.sendErr n h .invalidState []))) ∧
    (L1Taken s n h 0x0005 d t → L1OfCell t n h →
      ((t.cell h.cell).state = .running →
        exec (.stopRequest n h) s = .next (t.setCell h.cell { t.cell h.cell with
          state := .stopping, stopAt := some ((t.cell h.cell).stopSlot (t.curSlot (t.cell h.cell))), stopSeq := h.seq })) ∧
      ((t.cell h.cell).state ≠ .running → (t.cell h.cell).state ≠ .shedding →
        exec (.stopRequest n h) s = .next (t.sendErr n h .invalidState [])))


/-- Cells start and stop at their slots, and SLOT.indication goes out once for each slot, in order, the next slot
following, and none before its time (05 R171, R185). -/
def Sys2Proof.Says.CellsRunBySlots : Prop :=
  ∀ (s : State) (c : Nat) (g : CellCfg), (s.cell c).cfg = some g → s.awake = true →
    (∀ m, (s.cell c).startAt = some m → (s.cell c).state = .configured →
      g.air m ≤ s.clk + g.lead * slotNs g.scs →
      exec (.cellStart c) s = .next (s.setCell c { s.cell c with
        state := .running, begun := true, startAt := none, nextInd := m, nextDl := m, slots := [], book := [], stopAt := none,
        shedAt := none })) ∧
    (∀ m, (s.cell c).stopAt = some m → (s.cell c).state = .stopping → g.slotEnd (m - 1) ≤ s.clk →
      exec (.stopIndication c) s = .next ((s.setCell c { s.cell c with
        state := .configured, begun := false, startAt := none, stopAt := none, shedAt := none, slots := [],
        book := [], searches := [] }).cellNote c (s.cell c).stopSeq .stop)) ∧
    ((s.cell c).live = true → beforeBound (s.cell c).bound (s.cell c).nextInd = true →
      g.air (s.cell c).nextInd ≤ s.clk + g.lead * slotNs g.scs →
      exec (.slotIndication c) s = .next ((s.setCell c { s.cell c with
        nextInd := (s.cell c).nextInd + 1 }).cellInd c (s.cell c).nextInd 0
          (.slot (g.air (s.cell c).nextInd % 2 ^ 64)))) ∧
    (g.slotEnd ((s.cell c).stopAt.getD 0 - 1) > s.clk → exec (.stopIndication c) s = .next s) ∧
    (g.air (s.cell c).nextInd > s.clk + g.lead * slotNs g.scs → exec (.slotIndication c) s = .next s)


/-- Cells are configured, start, stop and follow their slots.
The model's choices in it: log entries 31, 32, 38, 72 and 88. -/
def Obligations.CellRequests : Prop :=
  Says.CellRequestsAnswer ∧ Says.CellsRunBySlots

/-- P7 requests that arrive in time enter their slot if it stays within the cell's limits and its booking; a request
over them is refused whole; a late one is answered MSG_LATE and stops its direction of the slot, its queued frames
discarded; late data is listed in TX_DATA_LATE (05 R168, R180, 07 R250). -/
def Sys2Proof.Says.SlotRequestsEnter : Prop :=
  ∀ (s t : State) (n m : Nat) (h : RadioHdr) (d : Desc) (g : CellCfg), L1OfCell t n h → P7Slot t h g m →
    let x := t.cell h.cell
    let w := x.work m
    let early := d.arrival + submitLead g.scs ≤ g.air m
    (L1Taken s n h 0x0080 d t → ∀ ps : List DlPdu,
      (early → exec (.dlTtiRequest n h ps) s =
        .next (t.takeWork n h x g { w with dl := some (w.dl.getD [] ++ ps), dlSeq := h.seq })) ∧
      (¬early → exec (.dlTtiRequest n h ps) s = .next (t.lateDl n h x m))) ∧
    (L1Taken s n h 0x0083 d t → ∀ ps : List DlPdu,
      (early → exec (.ulDciRequest n h ps) s = .next (t.takeWork n h x g { w with ulDci := w.ulDci ++ ps, dlSeq := h.seq })) ∧
      (¬early → exec (.ulDciRequest n h ps) s = .next (t.lateDl n h x m))) ∧
    (L1Taken s n h 0x0081 d t → ∀ ps : List UlPdu,
      (early → exec (.ulTtiRequest n h ps) s =
        .next (t.takeWork n h x g { w with ul := some (w.ul.getD [] ++ ps), ulSeq := h.seq })) ∧
      (¬early → exec (.ulTtiRequest n h ps) s = .next
        (((t.setCell h.cell (x.setWork { w with lateUl := true })).dropFrames (fun f => f.ofUl h.cell m)).sendErr n h
          .late []))) ∧
    (L1Taken s n h 0x0084 d t → ∀ ps : List TxPayload,
      (∀ p ∈ ps, p.tag = 0 ∧ p.bytes.length ≤ 8192 ∨ p.tag = 1 ∧ t.windowOk 0x7F p.addr p.bytes.length = true) →
      (early → exec (.txDataRequest n h ps) s = .next (t.setCell h.cell (x.setWork { w with
        data := w.data ++ ps.map (fun p => (p.index, p.bytes)) }))) ∧
      (¬early → w.dl.isSome = true → w.lateDl = false → exec (.txDataRequest n h ps) s =
        .next (t.sendErr n h .txDataLate (ps.map (fun p => p.index))))) ∧
    (∀ v, (x.allowsWork g v = true → t.takeWork n h x g v = t.setCell h.cell (x.setWork v)) ∧
      (x.allowsWork g v = false → t.takeWork n h x g v = t.sendErr n h .pduOverDeclared []))


/-- Bookings and searches (07 R247 to R249, 05 R195): a request's entries are decided in order, a refused one
reported with its code; a search waits in the cell and reports at the end of its last slot. -/
def Sys2Proof.Says.BookingsAndSearches : Prop :=
  ∀ (s t : State) (n : Nat) (h : RadioHdr) (d : Desc), L1OfCell t n h →
    (L1Taken s n h 0x00C0 d t → (t.cell h.cell).busy = true → ∀ ws : List W32,
      (∀ es, bookBody ws = some es → exec (.slotBookRequest n h ws) s = .next (State.bookEntries n h es t)) ∧
      (bookBody ws = none → exec (.slotBookRequest n h ws) s = .next (t.sendErr n h .invalid []))) ∧
    (∀ (ws : List W32) (es : List BookEntry), bookBody ws = some es →
      es.length = wfield ws 0 6 0 ∧ 1 ≤ es.length ∧ es.length ≤ 64 ∧ ws.length = 1 + 4 * es.length ∧
      ∀ i < es.length, es[i]? = some (bookEntry ((ws.drop (1 + 4 * i)).take 4))) ∧
    (∀ (e : BookEntry) (es : List BookEntry) (g : CellCfg), (t.cell h.cell).cfg = some g →
      let r := t.decideBooking h.cell (t.cell h.cell) g e
      State.bookEntries n h (e :: es) t = State.bookEntries n h es
        (if r.1 = .ok then r.2 else r.2.sendInd n ⟨h.cell, e.sfn, e.slot, h.seq, .error h.msgId r.1 []⟩) ∧
      (r.1 ≠ .ok → r.2 = t)) ∧
    (L1Taken s n h 0x00C3 d t → ∀ (off cnt : Nat) (pcis : List Nat) (g : CellCfg),
      (t.cell h.cell).state = .running → (t.cell h.cell).cfg = some g → 1 ≤ cnt → cnt ≤ 40 → pcis.length ≤ 8 →
      off < 12 * g.fapi.grid → let m := g.resolve t.clk h.sfn h.slot
      t.clk < g.air (m + 1) → m ≤ g.slotAt t.clk + 20 →
      let u := t.setCell h.cell { t.cell h.cell with searches := (t.cell h.cell).searches ++
        [⟨off, m, cnt, pcis, h.seq, []⟩] }
      (∀ k < 7, u.booked (t.cell h.cell).die k = t.booked (t.cell h.cell).die k ∨
        u.booked (t.cell h.cell).die k + u.lent (t.cell h.cell).die k ≤ u.cap (t.cell h.cell).die k []) →
      exec (.ssbSearchRequest n h off cnt pcis) s = .next u) ∧
    (∀ (c : Nat) (q : SsbSearch) (rest : List SsbSearch) (g : CellCfg),
      (s.cell c).searches = q :: rest → (s.cell c).cfg = some g → s.awake = true → g.air (q.first + q.count) ≤ s.clk →
      exec (.ssbSearchIndication c) s = .next
        ((s.setCell c { s.cell c with searches := rest }).cellInd c q.first q.seq (.ssb (q.hits g))) ∧
      (q.hits g).length ≤ 32 ∧ ∀ e ∈ q.hits g, if q.pcis = [] then e.pci < 1008 else e.pci ∈ q.pcis)


/-- P7 requests enter their slots; bookings and searches are decided.
The model's choices in it: log entries 31, 33 and 91. -/
def Obligations.SlotRequests : Prop :=
  Says.SlotRequestsEnter ∧ Says.BookingsAndSearches

/-- The downlink of a slot (05 R183, R184, R189, 12 R404, R409): processing starts at the submission deadline, a PDSCH
whose SRS handles yield no weights is left out and reported, an engine codes its codewords, the C-plane and each
symbol's frames queue at their times, and frames whose window has closed are discarded and counted. A slot whose link is
down, or holdover exceeded, at its C-plane time is noticed for what it does not deliver (07 R262, 12 R425).
The model's choices in it: log entries 9, 33, 35 and 89. -/
def Obligations.DownlinkSteps : Prop :=
  ∀ (s : State) (c n : Nat) (g : CellCfg), (s.cell c).cfg = some g → s.awake = true → (s.cell c).live = true →
    let x := s.cell c
    let w := x.work n
    (∀ lost : List (Nat × Nat), let y := x.loseSrs (lost.map Prod.fst)
      let t := (lost.map Prod.snd).foldl State.failUe s
      let bad := (w.dlPdus.filter (fun p => decide (p.kind = .pdsch) && !(y.handlesOk t.now p))).map (fun p => p.index)
      let csi := w.dlPdus.filterMap (fun p =>
        if p.precoding = 0xFFFF then (y.estimates t.now p).map (fun es => (p.index, es)) else none)
      let u := (t.setCell c ({ y with nextDl := n + 1 }.setWork { w with
        started := true, csi := csi, data := w.data.filter (fun e => decide (e.1 ∉ bad)) })).capture 2 c n t.clk
      x.nextDl = n → beforeBound x.bound n = true → g.air n ≤ s.clk + submitLead g.scs →
      ((w.lateDl || w.dlPdus.isEmpty) = true →
        exec (.downlinkProcessing c lost) s = .next (t.setCell c { y with nextDl := n + 1 })) ∧
      ((w.lateDl || w.dlPdus.isEmpty) = false → exec (.downlinkProcessing c lost) s = .next
        (if bad = [] then u else u.cellInd c n w.dlSeq (.error 0x0080 .slotErr bad)))) ∧
    (∀ (j : L1Job) (p : DlPdu) (cw : Codeword) (u : UnitId), j.cell = c → j.slot = n → w.dlPdus[j.pdu]? = some p →
      p.cws[j.part]? = some cw → s.l1Engine u = true → x.die = u.die → w.started = true → w.cplane = false →
      w.active p = true → p.codes = true → (∀ e ∈ w.coded, e.1 = j.pdu → e.2.1 ≠ j.part) →
      let t := s.setCell c (x.setWork { w with coded := w.coded ++ [(j.pdu, j.part, w.encode p j.part cw)] })
      (p.kind = .pdsch → u.cls = .ldpcEnc → exec (.ldpcEncode u.die u.num (some j)) s = .next t) ∧
      (p.kind ≠ .pdsch → u.cls = .polar → exec (.polarEncode u.die u.num (some j)) s = .next t)) ∧
    (w.started = true → w.lateDl = false → w.dlDone = false → beforeBound x.bound n = true →
      (∀ cause, s.outage g (g.cplaneTime n) = some cause →
        exec (.cPlaneLaunch c n) s = .next
          (if s.unserved c w false = 0 then s else s.noticeSlot c w.slot false cause (s.unserved c w false))) ∧
      (s.outage g (g.cplaneTime n) = none → w.codedAll = true → w.cplane = false → s.ports.servo.lost = false →
        s.linkUp g.port g.sub = true →
        exec (.cPlaneLaunch c n) s = .next ((s.setCell c (x.setWork { w with cplane := true })).queueCplane c g n
          g.dlStreams s.clk (g.cplaneTime n) false (w.dlMsgs g)))) ∧
    (∀ k ∈ w.dlSyms, w.cplane = true → w.lateDl = false → w.dlDone = false → k ∉ w.queued →
      (∀ j ∈ w.dlSyms, j < k → j ∈ w.queued) → g.airSym n k ≤ s.clk + g.t1aMaxUp * 1000 →
      s.outage g (g.cplaneTime n) = none →
      exec (.uPlaneLaunch c n k) s = .next ((List.range g.dlStreams).foldl (fun t st => t.queueUplane c g w k st)
        (s.setCell c (x.setWork { w with queued := w.queued ++ [k] })))) ∧
    (∀ k, w.lateDl = true → exec (.uPlaneLaunch c n k) s = .next s) ∧
    (∀ port sub, exec (.uPlaneDiscard port sub) s = .next
      (((s.sub port sub).frames.filter (fun f => f.past s.clk)).foldl (State.missFrame (!(s.linkUp port sub)))
        (s.setSub port sub { s.sub port sub with
          frames := (s.sub port sub).frames.filter (fun f => !(f.past s.clk)) })))


/-- The uplink of a slot to its LLRs (05 R182 steps 1 to 4, R186 to R188, 12 R408): its C-plane queues, a symbol's window
closes and erases what is missing, a DMRS or SRS symbol gives least-squares estimates, the weights follow the last DMRS
symbol, and a data symbol is combined. What an FFT engine has to do waits for it. A step that ends past its bound is
noted with the µs it is past (07 R263). -/
def Sys2Proof.Says.UplinkStepsRun : Prop :=
  ∀ (s : State) (c n k : Nat) (g : CellCfg), (s.cell c).cfg = some g → s.awake = true → (s.cell c).live = true →
    let x := s.cell c
    let w := x.work n
    (w.ul.isSome = true → w.lateUl = false → w.ulCplane = false → w.ulDone = false → s.ports.servo.lost = false →
      beforeBound x.bound n = true →
      exec (.uplinkCPlaneLaunch c n) s = .next ((s.setCell c (x.setWork { w with ulCplane := true })).queueCplane c g n
        g.ulStreams s.clk (g.airSym n w.firstUl - g.tcpAdvDl * 1000) true (fun _ => w.ulMsgs g))) ∧
    (w.ul.isSome = true → w.lateUl = false → k ∉ w.closed → k < 14 → g.closeTime n k < s.clk →
      let gone := ((List.range g.ulStreams).filter (fun st => w.asks k && !(w.hasAll k st))).map (fun st => (k, st))
      let v : SlotWork := { w with closed := w.closed ++ [k], erased := w.erased ++ gone }
      let t := (s.setCell c (x.setWork v)).bumpRf (aCELLCNT c + 16) 31 0 gone.length
      exec (.symbolWindowClose c n k) s = .next
        (if k = w.lastUl ∧ w.ulDone = false then
          (match t.outage g (g.closeTime n k) with
           | some cause => t.noticeGone c v true cause
           | none => t)
         else t)) ∧
    (w.lateUl = false → w.ready g k = true → (k ∈ w.dmrsSyms ∨ w.srsOn k ≠ []) → k ∉ w.lsSyms →
      let v : SlotWork := { w with
        lsSyms := w.lsSyms ++ [k], ls := w.ls ++ w.newLs g k
        estAt := if k ∈ w.dmrsSyms then max w.estAt (w.arrived g k) else w.estAt }
      exec (.channelEstimation c n k) s = .next (s.setCell c (x.setWork (v.endEst g s.clk k)))) ∧
    (∀ v : SlotWork, ((∃ e ∈ v.ls, e.sym = k) → v.endEst g s.clk k = v) ∧
      ((∀ e ∈ v.ls, e.sym ≠ k) →
        let bound := v.arrived g k + byScs g.scs 80_000 40_000 10_000
        v.endEst g s.clk k = { v with
          estSyms := v.estSyms ++ [k]
          overs := v.overs ++ (if k ∈ v.dmrsSyms ∧ bound < s.clk then [(2, (s.clk - bound + 999) / 1000)] else []) })) ∧
    (w.dmrsSyms ≠ [] → w.weights = none → (∀ j ∈ w.dmrsSyms, j ∈ w.estSyms) →
      let bound := w.estAt + byScs g.scs 120_000 60_000 15_000
      exec (.mmseWeights c n) s = .next (s.setCell c (x.setWork { w with
        weights := some (w.pusch.flatMap (fun p => p.occasions.flatMap (fun o =>
          (List.range (12 * p.prb.2 / g.eqGroup)).map (fun i => w.groupW g p o i))))
        weightsAt := s.clk
        overs := w.overs ++ (if bound < s.clk then [(3, (s.clk - bound + 999) / 1000)] else []) }))) ∧
    (∀ ws, w.weights = some ws → w.ready g k = true → k ∉ w.eqSyms →
      let ps := w.pusch.filter (fun p => decide (k ∈ p.dataSyms))
      let rows : List EqRows := (ps.filter (fun p => p.transform)).map (fun p =>
        ⟨p.index, k, (List.range p.ports.length).map (fun l =>
          (w.elements g ws p k).map (fun (e : List (Cx × Rat)) => e.getD l (Cx.zero, 0)))⟩)
      let bound := max w.weightsAt (w.arrived g k) + byScs g.scs 80_000 40_000 10_000
      ps ≠ [] → ((∃ e ∈ w.eqRows ++ rows, e.sym = k) ∨ s.clk ≤ bound →
        exec (.equalisation c n k) s = .next (s.setCell c (x.setWork { w with
          eqSyms := w.eqSyms ++ [k]
          llrs := w.llrs ++ (ps.filter (fun p => !p.transform)).map (fun p =>
            w.demap g p k ((w.elements g ws p k).flatMap id))
          eqRows := w.eqRows ++ rows }))) ∧
      ((∀ e ∈ w.eqRows ++ rows, e.sym ≠ k) → bound < s.clk →
        exec (.equalisation c n k) s = .next (s.setCell c (x.setWork { w with
          eqSyms := w.eqSyms ++ [k]
          llrs := w.llrs ++ (ps.filter (fun p => !p.transform)).map (fun p =>
            w.demap g p k ((w.elements g ws p k).flatMap id))
          eqRows := w.eqRows ++ rows
          overs := w.overs ++ [(4, (s.clk - bound + 999) / 1000)] })))) ∧
    (∀ (p : UlPdu) (ys : List (Cx × Rat)), (w.demap g p k ys).sym = k ∧ (w.demap g p k ys).index = p.index ∧
      (∀ v ∈ (w.demap g p k ys).vals, -127 ≤ v ∧ v ≤ 127) ∧
      ((∀ st < g.ulStreams, (k, st) ∈ w.erased) → ∀ v ∈ (w.demap g p k ys).vals, v = 0))


/-- The engines' part of a slot's uplink, and its results (05 R182 steps 2 to 7, R186, R188 to R193, R179, 06 R223): an FFT
engine finishes estimates, SRS and transform-precoded symbols, soft bits are combined once every LLR is there, engines
decode blocks and UCI, and results are written in slot order. A step that ends past its bound is noted (07 R263). -/
def Sys2Proof.Says.UplinkEngines : Prop :=
  ∀ (s : State) (c n : Nat) (g : CellCfg), (s.cell c).cfg = some g → s.awake = true → (s.cell c).live = true →
    let x := s.cell c
    let w := x.work n
    (∀ (j : L1Job) (u : UnitId) (p : UlPdu), j.cell = c → j.slot = n → s.l1Engine u = true → x.die = u.die → u.cls = .fft →
      w.lateUl = false → w.ulPdus.find? (fun p => decide (p.index = j.pdu)) = some p →
      (∀ e, w.ls.find? (fun e => decide (e.index = j.pdu) && decide (e.sym = j.part)) = some e →
        let v : SlotWork := { w with ls := w.ls.filter (fun q => decide (q ≠ e)) }
        (∀ o, e.occ = some o → exec (.fft u.die u.num (some j)) s = .next (s.setCell c (x.setWork
          ({ v with est := v.est ++ [e.est g o] }.endEst g s.clk e.sym)))) ∧
        (e.occ = none → exec (.fft u.die u.num (some j)) s = .next
          ((s.setCell c (x.takeSrs g (v.endEst g s.clk e.sym) p (e.srs p) s.now)).releaseInds c))) ∧
      (∀ e, w.ls.find? (fun e => decide (e.index = j.pdu) && decide (e.sym = j.part)) = none →
        w.eqRows.find? (fun e => decide (e.index = j.pdu) && decide (e.sym = j.part)) = some e →
        exec (.fft u.die u.num (some j)) s = .next (s.setCell c (x.setWork
          (({ w with
            eqRows := w.eqRows.filter (fun q => decide (q ≠ e))
            llrs := w.llrs ++ [w.demap g p e.sym e.symbols] } : SlotWork).endEq g s.clk e.sym))))) ∧
    (w.ul.isSome = true → w.lateUl = false → w.soft = none → w.eqRows = [] →
      (∀ p ∈ w.pusch, ∀ k ∈ p.dataSyms, k ∈ w.eqSyms) →
      (∀ p ∈ w.ulPdus, ∀ k ∈ symRange p.sym, w.ready g k = true) → ∀ lost : List (Nat × Nat),
      let r := w.pusch.foldl (fun (acc : Cell × List SoftPdu) p =>
        let y := if lost.any (fun e => decide (e.1 = p.index)) then acc.1.loseSoft p else acc.1
        let q := y.combine (g.harqBytes.getD (Config.term g.key 1)) p (p.softBlocks (w.tbLlrs g p))
        (q.1, acc.2 ++ [q.2])) (x, [])
      let bound := g.closeTime n w.lastUl + byScs g.scs 150_000 100_000 50_000
      exec (.harqCombining c n lost) s = .next (((lost.map Prod.snd).foldl State.failUe s).setCell c (r.1.setWork { w with
        soft := some r.2, softAt := s.clk
        overs := w.overs ++ (if bound < s.clk then [(5, (s.clk - bound + 999) / 1000)] else []) }))) ∧
    (∀ (j : L1Job) (u : UnitId) (qs : List SoftPdu), j.cell = c → j.slot = n → s.l1Engine u = true → x.die = u.die →
      w.soft = some qs → w.results = false →
      (∀ (q : SoftPdu) (p : UlPdu) (soft : List Int), qs.find? (fun q => decide (q.index = j.pdu)) = some q →
        w.pusch.find? (fun p => decide (p.index = j.pdu)) = some p → q.soft[j.part]? = some soft →
        (∀ d ∈ w.decoded, d.index = j.pdu → d.block ≠ j.part) → u.cls = .ldpcDec →
        let o := p.shape.decodeBlock g.ldpcIter soft
        exec (.ldpcDecode u.die u.num (some j)) s = .next (s.setCell c (x.setWork { w with
          decoded := w.decoded ++ [⟨j.pdu, j.part, o.bits, o.iters, o.ok⟩] }))) ∧
      (∀ p : UlPdu, w.ulPdus.find? (fun p => (decide (p.kind = .pucch) || decide (p.kind = .pusch)) &&
          decide (p.index = j.pdu)) = some p → 12 ≤ p.uciBits → (∀ e ∈ w.uci, e.1 ≠ j.pdu) → u.cls = .polar →
        exec (.polarDecode u.die u.num (some j)) s = .next (s.setCell c (x.setWork { w with
          uci := w.uci ++ [(j.pdu, uciPolar p.uciBits (w.uciLlrs g p))] })))) ∧
    (∀ qs, w.soft = some qs → w.results = false → w.decodedAll = true → x.ulInOrder n = true →
      let bound := w.softAt + byScs g.scs 900_000 600_000 300_000
      let v : SlotWork := { w with
        overs := w.overs ++ (if bound < s.clk then [(6, (s.clk - bound + 999) / 1000)] else []) }
      let t := s.setCell c (x.setWork { v with results := true })
      exec (.uplinkResults c n) s = .next
        (((if w.noticedUl = true ∨ g.deadline w true < s.clk then t else t.countOverruns c v).writeResults c g w
          qs).settleCell c g))


/-- The uplink of a slot, from its C-plane to its results.
The model's choices in it: log entries 9, 34, 35 and 89. -/
def Obligations.UplinkSteps : Prop :=
  Says.UplinkStepsRun ∧ Says.UplinkEngines

/-- Soft bits of a retransmission are added with saturation to those kept; a first transmission and a new indicator start
afresh (05 R191). What the harq budget does not hold beside the other processes is decoded alone, not stored and reported
as an overflow, and so are its later retransmissions (05 R192). Stored soft bits that could not be read are gone, and
counted (10 R350). A process is named by the four bits of its number.
The model's choices in it: log entry 34. -/
def Obligations.HarqCombines : Prop :=
  ∀ (x : Cell) (limit : Nat) (p : UlPdu) (new : List (List Int)),
    let mine : HarqProc → Bool := fun e => decide (e.ue = p.ue) && decide (e.proc = p.harq % 16)
    let others := x.harq.filter (fun e => !(mine e))
    let used := (others.map (fun e => e.bytes)).sum
    (x.harq.find? mine = none ∨ (∃ e, x.harq.find? mine = some e ∧ e.ndi ≠ p.ndi) →
      (used + p.softBytes ≤ limit → x.combine limit p new =
        ({ x with harq := others ++ [⟨p.ue, p.harq % 16, p.ndi, new, p.softBytes, false⟩] }, ⟨p.index, new, false⟩)) ∧
      (limit < used + p.softBytes → x.combine limit p new =
        ({ x with harq := others ++ [⟨p.ue, p.harq % 16, p.ndi, [], 0, true⟩] }, ⟨p.index, new, true⟩))) ∧
    (∀ e, x.harq.find? mine = some e → e.ndi = p.ndi →
      (e.overflow = true → x.combine limit p new = (x, ⟨p.index, new, true⟩)) ∧
      (e.overflow = false → x.combine limit p new =
        ({ x with harq := others ++ [{ e with soft := addBlocks e.soft new }] }, ⟨p.index, addBlocks e.soft new, false⟩))) ∧
    (∀ (a b : List (List Int)) (i j : Nat), i < max a.length b.length → j < max (a.getD i []).length (b.getD i []).length →
      ((addBlocks a b).getD i [])[j]? = some (satSigned 8 ((a.getD i []).getD j 0 + (b.getD i []).getD j 0))) ∧
    (∀ e, x.harq.find? mine = some e → (x.loseSoft p).harq = others ∧ (x.loseSoft p).mediaErrors = x.mediaErrors + 1 ∧
      ((x.loseSoft p).combine limit p new).2.soft = new)


/-- Every op of a list issues when it is due (06 R205, R209): it takes the effect its row gives it from the registers
as they stand after earlier writes have landed. A load needs its reads within reach of the issuer, a store its writes,
an AMM both its operands' rows; every other op has its effect on any registers, NOP, FENCE and BRK among them. An AMM
waits while the array still works on an earlier one.
The model's choices in it: log entry 36. -/
def Obligations.VectorOpsIssue : Prop :=
  ∀ (s : State) (die n op : Nat) (r : VRun) (k : Kernel) (o : VOp), VdeDue s die n op r k o →
    let e := VdeSeen (s.vde die n)
    let i : VIn := ⟨s.vdeView k e, k.site die n, e, o⟩
    let eight := List.range 8
    (∀ q ∈ [(0x07, vAgld r.table, Instr.vAgld die n), (0x10, vMov, .vMov die n), (0x11, vSplat, .vSplat die n),
        (0x12, vSets, .vSets die n), (0x13, vPerm, .vPerm die n), (0x20, vAdd, .vAdd die n),
        (0x21, vSub, .vSub die n), (0x22, vMul, .vMul die n), (0x23, vConj, .vConj die n),
        (0x24, vAbs2, .vAbs2 die n), (0x25, vShr, .vShr die n), (0x26, vCvt, .vCvt die n), (0x27, vMaxv, .vMaxv die n),
        (0x28, vMinv, .vMinv die n), (0x29, vAnd, .vAnd die n), (0x2A, vXor, .vXor die n),
        (0x2B, vRecip, .vRecip die n), (0x30, vMacz, .vMacz die n), (0x31, vMac, .vMac die n),
        (0x32, vMsc, .vMsc die n), (0x33, vNarrow, .vNarrow die n), (0x40, vGold, .vGold die n),
        (0x41, vCrc, .vCrc die n), (0x42, vQmap, .vQmap die n), (0x43, vDemap, .vDemap die n),
        (0x44, vFht, .vFht die n), (0x50, vMaxs, .vMaxs die n), (0x51, vMins, .vMins die n),
        (0x52, vRsum, .vRsum die n), (0x59, vArd, .vArd die n), (0x70, vLoop, .vLoop die n),
        (0x71, vNop, .vNop die n), (0x72, vFence, .vFence die n), (0x73, vBrk, .vBrk die n)],
      op = q.1 → ∃ g, q.2.1 i = .ok g ∧ g.stores = [] ∧ g.reads = [] ∧
        exec q.2.2 s = .next ((s.locCorrects i.x []).issueEff die n k e g)) ∧
    (∀ q ∈ [(0x01, vLdv, Instr.vLdv die n, laneIdx.map (fun j => (i.ag.lane j, i.ag.esize))),
        (0x03, vLdx, .vLdx die n,
          laneIdx.map (fun j => (i.ag.addr (signedOf 32 (i.va.getD j 0).toNat), i.ag.esize))),
        (0x05, vExpb, .vExpb die n, [(i.ag.lane 0, 8 * bfpBytes (voAux o))])],
      op = q.1 → VdeReads i i.ag.loc q.2.2.2 → ∃ g, q.2.1 i = .ok g ∧ g.stores = [] ∧
        g.reads = q.2.2.2.map (fun a => (i.ag.loc, a.1.getD 0, a.2)) ∧
        exec q.2.2.1 s = .next ((s.locCorrects i.x g.reads).issueEff die n k e g)) ∧
    (∀ q ∈ [(0x02, vStv, Instr.vStv die n, laneIdx.map (fun j =>
          (i.ag.lane j, leBytes i.ag.esize (i.form.cut (i.va.getD j 0)).toNat))),
        (0x04, vSts, .vSts die n, [(i.ag.lane 0, leBytes 8 i.sa.toNat)]),
        (0x06, vCmpb, .vCmpb die n, [(i.ag.lane 0, i.blocks.flatMap Prod.fst)])],
      op = q.1 → VdeWrites i i.ag.loc q.2.2.2 → ∃ g, q.2.1 i = .ok g ∧ g.writes = [] ∧ g.reads = [] ∧
        g.stores = q.2.2.2.map (fun a => (i.ag.loc, a.1.getD 0, a.2)) ∧
        exec q.2.2.1 s = .next ((s.locCorrects i.x []).issueEff die n k e g)) ∧
    (op = 0x58 → e.arrayBusy = false →
      VdeReads i i.ag.loc (eight.map (fun j => (i.ag.row j, 4 * voImm o))) →
      VdeReads i (i.agOf ((voG o + 1) % 4)).loc (eight.map (fun j => ((i.agOf ((voG o + 1) % 4)).row j, 4 * voImm o))) →
      ∃ g cells, vAmm i = .ok g ∧ g.writes = [(4 * voImm o + 22, .swap cells (decide (voFmt o = 14)))] ∧
        cells.length = 64 ∧ exec (.vAmm die n) s = .next ((s.locCorrects i.x g.reads).issueEff die n k e g)) ∧
    (op = 0x58 → e.arrayBusy = true → exec (.vAmm die n) s = .next (s.setVde die n { e with freeze := .array }))


/-- What ops write (06 R201, R204, R209 to R212): lanes for V d at the end of the op's latency, parts of scalars and
accumulators, and how issue goes on. Of the ops, those whose result a few words give: AND, XOR, ADD and SUB of INT32,
SPLAT, PERM, SETS, MACZ, MAC and MSC, AGLD, LOOP, NOP, FENCE, BRK, and the lanes of LDV; each op's own row holds the
rest. -/
def Sys2Proof.Says.VectorOpsWrite : Prop :=
  ∀ (i : VIn), (i.va.length = 32 → i.vb.length = 32 → ∀ k < 32,
    (∃ l, vAnd i = .ok { writes := [(1, .vec (voD i.o) l)], ags := i.e.ag } ∧
      l[k]? = some (i.va.getD k 0 &&& i.vb.getD k 0)) ∧
    (∃ l, vXor i = .ok { writes := [(1, .vec (voD i.o) l)], ags := i.e.ag } ∧
      l[k]? = some (i.va.getD k 0 ^^^ i.vb.getD k 0)) ∧
    (voFmt i.o = 4 → voNeg i.o = false →
      (∃ l m q, vAdd i = .ok { writes := [(2, .vec (voD i.o) l)], ags := i.e.ag, sat := m, nan := q } ∧
        l[k]? = some (BitVec.ofNat 64 (wrapOf 32 (satSigned 32
          (signedOf 32 (i.va.getD k 0).toNat + signedOf 32 (i.vb.getD k 0).toNat))))) ∧
      (∃ l m q, vSub i = .ok { writes := [(2, .vec (voD i.o) l)], ags := i.e.ag, sat := m, nan := q } ∧
        l[k]? = some (BitVec.ofNat 64 (wrapOf 32 (satSigned 32
          (signedOf 32 (i.va.getD k 0).toNat - signedOf 32 (i.vb.getD k 0).toNat)))))) ∧
    (∃ l, vPerm i = .ok { writes := [(3, .vec (voD i.o) l)], ags := i.e.ag } ∧
      l[k]? = some (i.form.cut (i.va.getD ((i.vb.getD k 0).toNat % 32) 0))) ∧
    (voFmt i.o = 3 → voCplx i.o = false → voConjA i.o = false → voConjB i.o = false →
      let p := signedOf 16 (i.va.getD k 0).toNat * signedOf 16 (i.vb.getD k 0).toNat
      (∃ l, vMacz i = .ok { writes := [(4, .acc (voD i.o) l)], ags := i.e.ag } ∧ l[k]? = some (satSigned 40 p, 0)) ∧
      (∃ l, vMac i = .ok { writes := [(4, .mac (voD i.o) l)], ags := i.e.ag } ∧ l[k]? = some (p, 0)) ∧
      (∃ l, vMsc i = .ok { writes := [(4, .mac (voD i.o) l)], ags := i.e.ag } ∧ l[k]? = some (-p, 0))) ∧
    (VdeReads i i.ag.loc (laneIdx.map (fun j => (i.ag.lane j, i.ag.esize))) →
      ∃ g l, vLdv i = .ok g ∧ g.writes = [(8, .vec (voD i.o) l)] ∧ g.ags = i.e.ag.set (voG i.o) i.ag.advance ∧
        l[k]? = some (i.form.cut (laneOfBytes (i.s.locRead i.x i.ag.loc ((i.ag.lane k).getD 0) i.ag.esize))))) ∧
    (∀ k < 32, ∃ l, vSplat i = .ok { writes := [(2, .vec (voD i.o) l)], ags := i.e.ag } ∧
      l[k]? = some (i.form.cut i.sa)) ∧
    vSets i = .ok { writes := [(1, .part (voD i.o) (voAux i.o) (voImm i.o))], ags := i.e.ag } ∧
    (∀ t, vAgld t i = .ok { ags := i.e.ag.set (voG i.o) ⟨t.getD (voImm i.o) [], 0⟩ }) ∧
    vLoop i = .ok { ags := i.e.ag, ctl := .loop (voB i.o) (i.sa.toNat % 2 ^ 32) (voImm i.o) } ∧
    vNop i = .ok { ags := i.e.ag, ctl := .slots (voImm i.o + 1) } ∧
    vFence i = .ok { ags := i.e.ag, ctl := .fence } ∧ vBrk i = .ok { ags := i.e.ag, ctl := .brk }


/-- An op's write lands at the end of its latency's last slot and not before (06 R205): the register keeps its value
for every op that issues earlier, and shows the new lanes to the first op after. -/
def Sys2Proof.Says.WritesLandAtTheirLatency : Prop :=
  ∀ (e : Vde) (u lat d : Nat) (l : List W64), e.pend = [⟨u + lat - 1, .vec d l⟩] → 1 ≤ lat → d < e.v.length →
    (∀ t < u + lat - 1, (Vde.land t e.pend.length e).v = e.v) ∧
    (∀ t, u + lat - 1 ≤ t → (Vde.land t e.pend.length e).v[d]? = some l ∧
      (Vde.land t e.pend.length e).pend = [] ∧
      ∀ j, j ≠ d → (Vde.land t e.pend.length e).v[j]? = e.v[j]?)


/-- A store of an engine is seen by its own later ops and by no other unit until a FENCE has ended, or its list has
(06 R208): an op that goes on leaves every memory as it was and queues its stores, whose bytes the engine's own reads
find; once they are shown, memory is what the engine saw. -/
def Sys2Proof.Says.StoresWaitToBeSeen : Prop :=
  ∀ (s : State) (die n : Nat) (k : Kernel), s.canon = true →
    (∀ (e : Vde) (f : VEff) (r : VRun), e.run = some r → e.stepping = false → f.ctl ≠ .brk →
      (e.after f).pc < r.ops.length ∨ (e.after f).freeze ≠ .none →
      let t := s.issueEff die n k e f
      t.stack = s.stack ∧ t.tileW = s.tileW ∧ t.tileA = s.tileA ∧ t.ledge = s.ledge ∧ t.ue = s.ue ∧
      (t.vde die n).stores = e.stores ++
        f.stores.map (fun w => s.locStore (k.site die n) w.1 w.2.1 w.2.2)) ∧
    (let t := s.showStores die n k
     let v := s.vdeView k (s.vde die n)
     t.stack = v.stack ∧ t.tileW = v.tileW ∧ t.tileA = v.tileA ∧ t.ledge = v.ledge ∧ t.ue = v.ue ∧
     (t.vde die n).stores = [] ∧ ∀ e, t.vdeView k (t.vde die n) = e → e.stack = v.stack ∧ e.ledge = v.ledge)


/-- What vector ops write, and when their writes and stores are seen.
The model's choices in it: log entries 36 and 37. -/
def Obligations.VectorOpEffects : Prop :=
  Says.VectorOpsWrite ∧ Says.WritesLandAtTheirLatency ∧ Says.StoresWaitToBeSeen

/-- What ends a freeze, and halting, stepping and resuming an engine outside the radio islands, and ending a halted list
(06 R207, R208, R218 to R222): after an AMM's wait the banks swap, after a FENCE the stores show; a resume reads the
data state from the save area; one whose loops do not stand stays halted with cause 0b100, and one whose save area
cannot be read ends the list. In a radio island a halt is refused.
The model's choices in it: log entry 36. -/
def Obligations.EngineControls : Prop :=
  ∀ (s : State) (d n : Nat) (k : Kernel), s.up = true → s.vdeSel = some (d, n) → s.vdeKernel (s.vde d n) = some k →
    ((s.vde d n).freeze = .fence →
      let v := s.showStores d n k
      exec (.vdeFreezeEnd d n) s = .next ((v.setVde d n { v.vde d n with freeze := .none }).listDone d n k)) ∧
    (∀ u cells fp, (s.vde d n).freeze = .array → (s.vde d n).pend = [⟨u, .swap cells fp⟩] →
      exec (.vdeFreezeEnd d n) s = .next (s.setVde d n
        (({ s.vde d n with freeze := .none, pend := [] } : Vde).land1 (.swap cells fp)))) ∧
    (∀ r o, (s.vde d n).run = some r → r.ops[(s.vde d n).pc]? = some o → voHb o = true →
      (s.vde d n).haltReq = true → (s.vde d n).halted = false → (s.vde d n).freeze = .none →
      s.vdeRadio d n = false → exec (.vdeHalt d n) s = .next (s.haltNow d n k 1)) ∧
    ((s.vde d n).halted = false → s.vdeRadio d n = false →
      exec .vdeHaltRequest s = .next (s.setVde d n { s.vde d n with haltReq := true })) ∧
    ((s.vde d n).halted = false → s.vdeRadio d n = true →
      exec .vdeHaltRequest s = .next (s.setVde d n { s.vde d n with refused := true })) ∧
    ((s.vde d n).halted = true → s.vdeRadio d n = false →
      exec .vdeListEnd s = .next (s.endList d n k (Result.of .abandoned))) ∧
    (∀ r, (s.vde d n).run = some r → (s.vde d n).halted = true →
      let x := k.site d n
      ∀ e ∈ [(true, Instr.vdeStep), (false, .vdeResume)],
        ((s.vde d n).loopsOk r.ops.length = true → s.locUe x r.saveLoc r.saveOff 8448 = none →
          exec e.2 s = .next (((s.locCorrects x [(r.saveLoc, r.saveOff, 8448)]).setVde d n
            { (s.vde d n).load (s.locRead x r.saveLoc r.saveOff 8448) with
              halted := false, cause := 0, stepping := e.1 }).listDone d n k)) ∧
        (∀ b, (s.vde d n).loopsOk r.ops.length = true → s.locUe x r.saveLoc r.saveOff 8448 = some b →
          exec e.2 s = .next ((s.failMedia b).endList d n k (s.mediaOf k.part b))) ∧
        ((s.vde d n).loopsOk r.ops.length = false →
          exec e.2 s = .next (s.setVde d n { s.vde d n with cause := 4 })))


/-- An accelerator runs the command of its kernel (06 R223 to R231): the command's words pass their checks, every
access is good, and the engine writes its output and holds the result record for ACCEL_RESULT. A command whose words or
accesses fail writes no output and holds the record of its failure. -/
def Sys2Proof.Says.AcceleratorCommandsRun : Prop :=
  ∀ (s : State) (die n : Nat) (k : Kernel), s.awake = true →
    ∀ e ∈ [(2, EngineClass.fft, fftChecks, fftReads, fftRun, Instr.fft die n none),
        (2, .ldpcDec, ldpcDecChecks, ldpcDecReads, ldpcDecRun, .ldpcDecode die n none),
        (2, .ldpcEnc, ldpcEncChecks, ldpcEncReads, ldpcEncRun, .ldpcEncode die n none),
        (0, .polar, polarEncChecks, polarEncReads, polarEncRun, .polarEncode die n none),
        (1, .polar, polarDecChecks, polarDecReads, polarDecRun, .polarDecode die n none),
        (2, .prach, prachChecks, prachReads, prachRun, .prach die n none)],
      s.kernels.find? (fun k => decide (k.unit = some (die, e.2.1.code, n))) = some k → k.kind = .accel →
      k.res = none → (wfield k.cmd 5 0 0 = e.1 ∨ e.1 = 2) →
      s.underSubst ⟨die, e.2.1, n⟩ = false →
      let id := wfield k.cmd 0 31 16
      let fails : State → Result → State := fun t r => t.updKernel k.id (fun y => { y with
        res := some (accelRecord k.cmd r.status.code { hs := 0 }, { r with aux := id }) })
      (∀ w, cmdBad k.cmd (e.2.2.1 k.cmd) = some w → exec e.2.2.2.2.2 s = .next (fails s (Result.badIns w))) ∧
      (cmdBad k.cmd (e.2.2.1 k.cmd) = none →
      let x := k.site die n
      let i := cmdIn k.cmd
      let rds := (e.2.2.2.1 k.cmd).map (fun r => (i.1, i.2 + r.1, r.2))
      let a := e.2.2.2.2.1 k.cmd ((e.2.2.2.1 k.cmd).map (fun r => s.locRead x i.1 (i.2 + r.1) r.2))
      let ws := a.out.map (fun w => ((cmdOut k.cmd).1, (cmdOut k.cmd).2 + w.1, w.2))
      (∀ r b, s.cmdFail x rds ws = some (r, b) → exec e.2.2.2.2.2 s = .next (fails (s.noteFail b) r)) ∧
      (s.cmdFail x rds ws = none → exec e.2.2.2.2.2 s = .next
        ((((ws.foldl (fun t w => t.locWrite x w.1 w.2.1 w.2.2) (s.locCorrects x rds)).account k.issuer (fun c => { c with
          stackBytes := c.stackBytes + ((rds.map (fun r => stackCost r.1 r.2.2)).sum
            + (ws.map (fun w => stackCost w.1 w.2.2.length)).sum)
          engineHs := c.engineHs + (if e.2.1 = .fft then a.hs else 0) })).meterHs k.issuer ⟨die, e.2.1, n⟩ a.hs).updKernel k.id (fun y => { y with
            res := some (accelRecord k.cmd Status.success.code a,
              { Result.of .success with aux := id }) }))))


/-- Results become visible and the job ends (06 R225): with the record, or without one that no access reaches, which ends
a good job with that failure. A detector on an occasion of a cell reports it once its
symbols are ready (05 R194), in the order of the cell's slots (05 R179). -/
def Sys2Proof.Says.ResultsAreReported : Prop :=
  (∀ (s : State) (id : Nat) (k : Kernel) (ws : List W32) (r : Result),
    s.kernel id = some k → k.res = some (ws, r) →
    let x := k.site ((k.unit.map (fun u => u.1)).getD 0) 0
    let o := cmdRes k.cmd
    (s.writeFail x o.1 o.2 (wordsBytes ws) = none →
      exec (.accelResult id) s = .next ((s.locWrite x o.1 o.2 (wordsBytes ws)).finishUnit k r)) ∧
    (∀ f b, s.writeFail x o.1 o.2 (wordsBytes ws) = some (f, b) → exec (.accelResult id) s =
      .next ((s.noteFail b).finishUnit k (if r.status = .success then { f with aux := r.aux } else r)))) ∧
  (∀ (s : State) (die n c slot i : Nat) (g : CellCfg) (p : UlPdu),
    (s.cell c).cfg = some g → ((s.cell c).work slot).ulPdus.find? (fun p => decide (p.kind = .prach) &&
      decide (p.index = i)) = some p → s.awake = true → (s.cell c).live = true →
    ((s.cell c).work slot).lateUl = false → i ∉ ((s.cell c).work slot).rached →
    (∀ j ∈ symRange p.sym, ((s.cell c).work slot).ready g j = true) →
    s.l1Engine ⟨die, .prach, n⟩ = true → (s.cell c).die = die →
    ((s.cell c).work slot).ulChannels.testBit UlKind.prach.bit = false →
    exec (.prach die n (some (c, slot, i))) s = .next
      ((s.setCell c ((s.cell c).setWork { (s.cell c).work slot with
        rached := i :: ((s.cell c).work slot).rached
        waits := ((s.cell c).work slot).waits ++ [.rach (((s.cell c).work slot).rachOf g p)] })).releaseInds c))


/-- Accelerators run their commands, and results are reported.
The model's choices in it: log entries 4 and 37. -/
def Obligations.AcceleratorsRun : Prop :=
  Says.AcceleratorCommandsRun ∧ Says.ResultsAreReported

/-- Unit jobs start (09 R321, R325): with its words good and its unit free the descriptor starts a kernel on the unit
in its ring's turn, an accelerator queuing its commands (06 R223), and keeps the list's or command's identifier for its
completion; a reserved unit completes it with ENGINE_RESERVED, bad words with BAD_DESCRIPTOR; a busy unit, or a ring out
of turn, leaves it waiting. -/
def Sys2Proof.Says.UnitDescriptorsStart : Prop :=
  ∀ (s t : State) (n : Nat) (d : Desc) (i : Issuer),
    let w1 := wordAt d.words 1
    let off := (wordAt d.words 12).toNat * 32
    let keep : Nat → State := fun a => t.updDesc n d.idx (fun e => { e with aux := a })
    (Admitted s n 0x04 t d i →
      (∀ w, firstOf (t.unitDescBad i d.words true) (if t.unitRef i w1 .tile = .bad then some 1 else none) = some w →
        exec (.mlist n) s = .next (t.finishDesc n d.idx (Result.bad w))) ∧
      (t.unitDescBad i d.words true = none →
        (∀ u, t.unitRef i w1 .tile = .unit u →
          ((t.unitTakes i .mlist u && t.served i n) = true →
            exec (.mlist n) s = .next ((keep 0).startKernel (t.unitKernel n d i .mlist u))) ∧
          ((t.unitTakes i .mlist u && t.served i n) = false → exec (.mlist n) s = .next t)) ∧
        (t.unitRef i w1 .tile = .reserved →
          exec (.mlist n) s = .next (t.finishDesc n d.idx (Result.of .engineReserved))))) ∧
    (Admitted s n 0x05 t d i → t.unitDescBad i d.words false = none → ∀ u, t.unitRef i w1 .vde = .unit u →
      let k := t.unitKernel n d i .oplist u
      let x := k.site u.die u.num
      let v := keep (t.jobId ⟨i, jobBases d.words, u.die, 0⟩ off 1 15 0)
      ((t.unitTakes i .oplist u && t.served i n) = false → exec (.oplist n) s = .next t) ∧
      (∀ r, (t.unitTakes i .oplist u && t.served i n) = true → v.readList x k.id k.listOff = .run r →
        exec (.oplist n) s = .next (((v.locCorrects x
            [(0, k.listOff, 32 + 16 * r.table.length + 8 * r.ops.length)]).startKernel k).setVde u.die u.num
          { v.vde u.die u.num with
            run := some r, pc := 0, slot := 0, pend := [], loops := List.replicate 3 LoopLevel.reset,
            done := zeroBank, work := zeroBank, doneF := false, workF := false, freeze := .none, haltReq := false,
            halted := false, stepping := false, cause := 0, sat := 0, nan := 0, stores := [], undo := [] }))) ∧
    (Admitted s n 0x06 t d i → t.unitDescBad i d.words false = none →
      let x : Site := ⟨i, jobBases d.words, field w1 16 16, 0⟩
      let cmd := t.locWords x 0 off 16
      t.verdict x 0 off 64 = .ok → t.locUe x 0 off 64 = none →
      ∀ c u, accelClass cmd = some c → t.unitRef i w1 c = .unit u →
        ((t.unitTakes i .accel u && t.served i n) = false → exec (.accel n) s = .next t) ∧
        ((t.unitTakes i .accel u && t.served i n) = true →
          exec (.accel n) s = .next (((keep (wfield cmd 0 31 16)).locCorrects x [(0, off, 64)]).startKernel
            { t.unitKernel n d i .accel u with cmd := cmd })))


/-- Jobs of images (09 R320, R322, R336, 08 R283, R289, 13 R452 to R454): RUN starts its descriptor with its kernels to
run, or joins a batch. LOAD_IMAGE installs the image, with a package the plaintext in its manifest's ranges; a package
that does not open, or opens to another digest, completes IMAGE_REJECTED with the ranges zeroed once its key was
unwrapped. UNLOAD_IMAGE completes for an empty slot and otherwise waits until no kernel of the slot runs. -/
def Sys2Proof.Says.ImageJobs : Prop :=
  ∀ (s t : State) (n : Nat) (d : Desc) (p c : Nat),
    let i : Issuer := some (p, c)
    (Admitted s n 0x03 t d i →
      (∀ w, runBad d.words (t.ctx p c) (t.batchMax p c) = some w →
        exec (.run n) s = .next (t.finishDesc n d.idx (Result.bad w))) ∧
      (runBad d.words (t.ctx p c) (t.batchMax p c) = none →
        (t.batchMax p c < 2 → exec (.run n) s = .next ((t.startDesc n d.idx).updDesc n d.idx (fun e => { e with
          job := some ⟨d.arg, wfield d.words 1 15 0, wfield d.words 1 31 16, 0, false, false⟩ }))) ∧
        (2 ≤ t.batchMax p c → exec (.run n) s = .next ((t.startDesc n d.idx).batchRequest n d p c
          (runRows d.words ((((t.ctx p c).image d.arg).map (fun im => im.rowBytes)).getD 1)))))) ∧
    (Admitted s n 0x01 t d i → ∀ (im : ImageInfo) (pkg : Package),
      let size := (wordAt d.words 6).toNat
      let off := t.windowOff i (wpair d.words 4)
      let v := t.issuerCorrects i off size
      descFail d.words [(0, d.slotOk && ((t.ctx p c).image d.arg).isNone),
        (4, decide (wpair d.words 4 % 4096 = 0))] = none →
      t.issuerAllows i off size = true → t.issuerUeRead i off size = none →
      kernelRefused (t.maxLayer p) im.kernels = none →
      im.manifest.find? (fun r => !(t.issuerAllows i (t.windowOff i r.1) r.2)) = none →
      (pkg = .none → t.weightsUe i im.manifest = none →
        exec (.loadImage n im pkg) s = .next ((v.weightsRead i im.manifest).installImage n d p c im)) ∧
      (∀ bytes, pkg = .sealed bytes →
        let o := v.fuses.unseal v.sec.running bytes
        (o.good = true → v.weightsFail i im.manifest o.plain = none → exec (.loadImage n im pkg) s =
          .next ((v.putWeights i im.manifest o.plain).installImage n d p c im)) ∧
        (o.good = false → exec (.loadImage n im pkg) s = .next
          ((if o.unwrapped then v.zeroWeights i im.manifest else v).finishDesc n d.idx (Result.of .imageRejected))))) ∧
    (Admitted s n 0x02 t d i → descFail d.words [(0, d.slotOk)] = none →
      ((t.ctx p c).image d.arg = none →
        exec (.unloadImage n) s = .next (t.finishDesc n d.idx (Result.of .success))) ∧
      (∀ im, (t.ctx p c).image d.arg = some im → exec (.unloadImage n) s = .next
        ((t.setCtx p c { t.ctx p c with images := (t.ctx p c).images.map (fun e =>
          if e.1 = d.arg then (e.1, { e.2 with unloading := true }) else e) }).startDesc n d.idx))) ∧
    ((s.ring n).descs.find? (fun d => d.started && !d.done && decide (d.op = 0x02)) = some d →
      s.ringOwner n = some p → s.ringCtx p n = some c →
      (s.slotBusy p c d.arg = true → exec (.unloadSlotIdle n) s = .next s) ∧
      (s.slotBusy p c d.arg = false → exec (.unloadSlotIdle n) s = .next
        ((s.setCtx p c { s.ctx p c with images := (s.ctx p c).images.filter (fun e => decide (e.1 ≠ d.arg)) }).finishDesc
          n d.idx { status := .success, d4 := if ((s.ctx p c).image d.arg).isSome then 1 else 0 })))


/-- A COPY checks its words and its destination, starts, and goes on as the link's bucket lets each of its units start;
the physical function's is not metered: from the host its bytes reach stack memory, to the host they reach host memory,
and it reports its length (09 R307, R322, R338). -/
def Sys2Proof.Says.CopiesMoveTheirBytes : Prop :=
  ∀ (s t : State) (n : Nat) (d : Desc) (data : List Byte),
    let runs : State → Option Desc := fun u =>
      (u.ring n).descs.find? (fun d => d.started && !d.done && decide (d.op = 0x07))
    (∀ i, Admitted s n 0x07 t d i → runs s = none →
      (t.copyFail d i none = none → exec (.copy n data) s = .next ((t.startDesc n d.idx).copyStep n d i data)) ∧
      (∀ u r, t.copyFail d i none = some (u, r) → exec (.copy n data) s = .next (u.finishDesc n d.idx r))) ∧
    (runs s = some d → s.awake = true → exec (.copy n data) s =
      .next (s.copyStep n d ((s.ringOwner n).map (fun p => (p, (s.ringCtx p n).getD 0))) data)) ∧
    (∀ (p c unit k left : Nat) (out : Bool), 0 < left →
      (s.takeShare p .cxl out (min unit left) (min unit left) = none →
        State.passUnits (some (p, c)) out unit (k + 1) left s = (s, left)) ∧
      (∀ u, s.takeShare p .cxl out (min unit left) (min unit left) = some u →
        State.passUnits (some (p, c)) out unit (k + 1) left s =
          State.passUnits (some (p, c)) out unit k (left - min unit left) u)) ∧
    (let len := (wordAt d.words 8).toNat
     let off := wpair d.words 6
     let u := s.updDesc n d.idx (fun e => { e with moved := len })
     let ok : Result := { status := .success, d4 := lo32 len }
     d.moved = 0 →
     (wfield d.words 1 0 0 = 0 → data.length = len → u.copyFail d none (some data) = none →
       s.copyStep n d none data = (u.issuerWrite none off data).finishDesc n d.idx ok) ∧
     (wfield d.words 1 0 0 = 1 → u.copyFail d none none = none → s.copyStep n d none data =
       ((u.issuerCorrects none off len).putHost (wpair d.words 4) (u.issuerRead none off len)).finishDesc n d.idx ok))


/-- Unit jobs, image jobs and copies start and move their bytes.
The model's choices in it: log entries 9, 44, 86 and 87. -/
def Obligations.UnitJobsStart : Prop :=
  Says.UnitDescriptorsStart ∧ Says.ImageJobs ∧ Says.CopiesMoveTheirBytes

/-- A write of BELAY_ISLANDS designates and removes islands one after another: an island that joins the radio pool goes
under the governor's hold, a designation written again cancels a removal, a removal waits for the leases of the island's
units, and a change that a partition's unit or a sum of R240 stands against is refused. When the longest notice has
ended the island leaves, out of the governor's hold unless its spares still serve a radio unit, and not above the
profile's ceiling (07 R239, R264, 15 R488). -/
def Sys2Proof.Says.IslandChangesAct : Prop :=
  ∀ (s : State) (value : W32) (d i : Nat),
    (s.up = true → s.activating = false →
      exec (.islandAdd value) s = .next (((islandBits (field value 15 0)).foldl State.addIsland
        (s.setReg aBELAY (s.reg aBELAY ||| (value &&& 0xFFFF)))).islandPending) ∧
      exec (.islandRemove value) s = .next (((s.leftOut value).foldl State.removeIsland
        (s.setReg aBELAY (s.reg aBELAY &&& value))).islandPending)) ∧
    (let x := s.island d i
     (x.radio = true → s.addIsland (d, i) = s.setIsland d i { x with removing := false }) ∧
     (x.radio = false → s.ownedIsland d i = true → s.addIsland (d, i) = s.refuseIsland d i 1) ∧
     (x.radio = false → s.ownedIsland d i = false → s.addIsland (d, i) =
       ((s.setIsland d i { x.take s.now with radio := true, counted := x.held }).syncHolds d).edge 2)) ∧
    (i < 8 → let out := i :: (List.range 8).filter (fun j => (s.island d j).removing)
      (s.fitsWithout d out = false → s.removeIsland (8 * d + i) = s.refuseIsland d i 2) ∧
      (s.fitsWithout d out = true →
        (∀ l ∈ s.leases, ∀ u ∈ l.units, ¬(u.die = d ∧ u.island = i)) → s.removeIsland (8 * d + i) =
          s.setIsland d i { s.island d i with removing := true, removeAt := s.now })) ∧
    (d < 2 → i < 8 → (s.island d i).radio = true → (s.island d i).removing = true → (s.island d i).removeAt ≤ s.now →
      (∀ l ∈ s.leases, ∀ u ∈ l.units, ¬(u.die = d ∧ u.island = i)) →
      let x := s.island d i
      let y := if 0 < x.spareHolds then x
        else { x with hold := false, held := false, mv := min x.mv s.profile.1 }
      exec (.islandRemovalDone d i) s = .next (((s.setIsland d i { y with
        radio := false, removing := false, counted := false }).syncHolds d).edge 2).islandPending)


/-- BELAY_RADIO_MEM takes a size that fits, leaves admitted cells room and takes nothing of a partition; any other
write changes nothing but mem_refused (07 R264). -/
def Sys2Proof.Says.RadioMemoryIsGuarded : Prop :=
  ∀ (s : State) (v : W32), s.up = true → s.activating = false →
    (s.radioMemFits v = true → exec (.belayRadioMemWrite v) s = .next (s.applyWrite (aBELAY + 8) v)) ∧
    (s.radioMemFits v = false → exec (.belayRadioMemWrite v) s = .next (s.setRbit (aBELAY + 4) 26 true)) ∧
    (96 < field v 6 0 ∨ 96 < field v 14 8 ∨ 24 < field v 20 16 ∨ 24 < field v 28 24 → s.radioMemFits v = false) ∧
    (field v 6 0 ≤ 96 → field v 14 8 ≤ 96 → field v 20 16 ≤ 24 → field v 28 24 ≤ 24 → s.enabledParts = [] →
      (∀ d < 2, s.dieCells d = []) → s.radioMemFits v = true)


/-- Islands join and leave the radio pool; radio memory is guarded.
The model's choices in it: log entry 39. -/
def Obligations.IslandsChange : Prop :=
  Says.IslandChangesAct ∧ Says.RadioMemoryIsGuarded

/-- The half-stacks held for radio are the highest-numbered ones of each die's stacks (10 R345). -/
def Obligations.RadioHalfStacks : Prop :=
  ∀ (s : State) (h k0 k1 : Nat), k0 = s.rf (aBELAY + 8) 20 16 → k1 = s.rf (aBELAY + 8) 28 24 → k0 ≤ 24 → k1 ≤ 24 →
    h < 48 → (s.radioHalf h = true ↔ (24 - k0 ≤ h ∧ h ≤ 23) ∨ (48 - k1 ≤ h ∧ h ≤ 47))


/-- The governor on a held island (07 R243, R245): below the raise threshold it raises the voltage by 5 mV up to 0.80 V,
after 1,000 samples at or above the lower threshold it lowers it by 5 mV, at most once a millisecond and not below
0.60 V, else it holds. A sample below floor pace since its last step marks the slots in flight of the cells bound to
the island, fires device source 3, and notices the slots that its work can no longer serve (07 R261, R262). A pace below the raise threshold at 0.80 V for 100 µs is a pace emergency (07 R256). -/
def Sys2Proof.Says.GovernorSteps : Prop :=
  ∀ (s : State) (d i : Nat) (un : List (Nat × Nat × Bool)), s.awake = true → d < 2 → i < 8 →
    let x := s.island d i
    let go : State → State := fun t => if x.under = true then
      (((t.setIsland d i { t.island d i with under := false }).markIsland d i).edge 3).noticeUnserved d un else t
    (x.hold = true →
      (x.pace < raisePace → x.mv < 800 → exec (.governorStep d i un) s = .next (go
        ((s.setIsland d i { x with mv := min 800 (x.mv + 5), raisedAt := s.now }).record 0x0305 (siteIsland d i) 0
          x.pace))) ∧
      (raisePace ≤ x.pace → lowerPace ≤ x.pace → 1000 ≤ x.highRun → 600 < x.mv →
        (x.loweredAt = 0 ∨ x.loweredAt + 1_000_000 ≤ s.now) → exec (.governorStep d i un) s = .next
          (go (s.setIsland d i { x with mv := max 600 (x.mv - 5), loweredAt := s.now }))) ∧
      (¬(x.pace < raisePace ∧ x.mv < 800) → ¬(lowerPace ≤ x.pace ∧ 1000 ≤ x.highRun ∧ 600 < x.mv ∧
        (x.loweredAt = 0 ∨ x.loweredAt + 1_000_000 ≤ s.now)) → exec (.governorStep d i un) s = .next (go s))) ∧
    (x.hold = false → exec (.governorStep d i un) s = .next s) ∧
    (∀ t, x.serves = true → (s.emerg d).islands.testBit i = false → x.lowSince = some t → s.now < t + 100_000 →
      exec (.paceEmergency d i) s = .next s) ∧
    (∀ t, x.serves = true → (s.emerg d).islands.testBit i = false → x.lowSince = some t → t + 100_000 ≤ s.now →
      exec (.paceEmergency d i) s = .next (s.declareEmerg d .pace
        ((if s.emergIn d .pace then (s.emerg d).islands else 0) + 2 ^ i)))


/-- Islands outside the hold follow the profile (15 R488): down at once from above its ceiling, down by 5 mV every
10 µs over the soft cap or the throttle temperature, and up by 5 mV a millisecond to the ceiling, not sooner, and not
while the limiter acts. PWR_PROFILE 0b11 is ignored (15 R487). -/
def Sys2Proof.Says.ThrottleFollowsTheProfile : Prop :=
  ∀ (s : State) (d i : Nat), s.awake = true → d < 2 → i < 8 → (s.island d i).hold = false →
    let x := s.island d i
    let c := s.profile
    let overs := c.2.1 < s.rf aPWR 15 0 ∨ c.2.2 < x.temp
    (c.1 < x.mv → exec (.throttleStep d i) s = .next (s.setIsland d i { x with mv := c.1, loweredAt := s.now })) ∧
    (x.mv ≤ c.1 → overs → 605 ≤ x.mv → x.loweredAt + 10_000 ≤ s.now →
      exec (.throttleStep d i) s = .next (s.setIsland d i { x with mv := x.mv - 5, loweredAt := s.now })) ∧
    (x.mv ≤ c.1 → overs → s.now < x.loweredAt + 10_000 → exec (.throttleStep d i) s = .next s) ∧
    (x.mv ≤ c.1 → ¬overs → (x.mv = c.1 ∨ s.power.limitStep ≠ 0 ∨ s.now < max x.raisedAt x.loweredAt + 1_000_000) →
      exec (.throttleStep d i) s = .next s) ∧
    (x.mv < c.1 → ¬overs → s.power.limitStep = 0 → max x.raisedAt x.loweredAt + 1_000_000 ≤ s.now →
      exec (.throttleStep d i) s = .next (s.setIsland d i { x with mv := min c.1 (x.mv + 5), raisedAt := s.now })) ∧
    (∀ v : W32, s.up = true → (field v 1 0 = 3 → exec (.profileChange v) s = .next s) ∧
      (field v 1 0 ≠ 3 → exec (.profileChange v) s = .next (s.applyWrite (aPWR + 8) v)))


/-- The power limiter (07 R246): a sample is measured, a peak kept; at 1,500 W the steps follow one another, free
islands 5 mV down, then non-radio work withheld, then every island out of its hold; below it they end, and the islands
that do radio work enter their hold again. -/
def Sys2Proof.Says.LimiterSteps : Prop :=
  ∀ (s : State) (sample avg volts : Nat) (temp : Int) (un : List (Nat × Nat × Bool)), s.power.phase = .good → s.canon = true →
    (sample < 15_000 → ∃ t, exec (.limiterSample sample avg volts temp un) s = .next t ∧ t.power.limitStep = 0 ∧
      t.power.withheld = false ∧ t.reg aPWR = lo32 (volts % 65536 * 2 ^ 16 + min avg 0xFFFF) ∧
      t.reg (aPWR + 4) = lo32 (max (s.reg (aPWR + 4)).toNat (min sample 0xFFFF)) ∧
      (s.power.limitStep = 3 → ∀ d i, d < 2 → i < 8 → (s.island d i).serves = true → (t.island d i).hold = true)) ∧
    (15_000 ≤ sample → s.power.limitStep < 2 → ∃ t, exec (.limiterSample sample avg volts temp un) s = .next t ∧
      t.power.limitStep = s.nextLimit ∧ (s.nextLimit = 2 → t.power.withheld = true) ∧
      (s.nextLimit = 1 → ∀ d i, d < 2 → i < 8 → (t.island d i).mv =
        if (s.island d i).hold then (s.island d i).mv
        else if (s.island d i).mv ≤ 600 then (s.island d i).mv else max 600 ((s.island d i).mv - 5))) ∧
    (15_000 ≤ sample → 2 ≤ s.power.limitStep → ∃ t, exec (.limiterSample sample avg volts temp un) s = .next t ∧
      t.power.limitStep = 3 ∧ ∀ d i, d < 2 → i < 8 → (t.island d i).hold = false ∧ (t.island d i).held = false)


/-- Governor, throttle profile and power limiter.
The model's choices in it: log entries 41 and 67. -/
def Obligations.GovernorActs : Prop :=
  Says.GovernorSteps ∧ Says.ThrottleFollowsTheProfile ∧ Says.LimiterSteps

/-- Leases (07 R251 to R254): a grant that every condition allows lends units and reports it, a refused one changes no
lease; revocation starts the notice; the context is saved once no layer runs, a layer still running 500 µs before the
end, not sooner, is abandoned with the time it has run (09 R336), and at the end the units, scrubbed, return. -/
def Sys2Proof.Says.LeaseCommandsAct : Prop :=
  (∀ (s : State) (d : Desc), s.awake = true → s.nextStart 0 = some d → d.op = 0x30 →
    (∀ w, s.leaseBad d.words = some w → exec .leaseGrant s = .next (s.finishDesc 0 d.idx (Result.bad w))) ∧
    (s.leaseBad d.words = none →
      (wfield d.words 4 7 0 = 1 →
        (∀ l, s.grantable d.words = some l → exec .leaseGrant s = .next
          (((({ s with leases := s.leases ++ [l] }).finishDesc 0 d.idx (Result.of .success)).leaseEvent l 2))) ∧
        (s.grantable d.words = none → exec .leaseGrant s = .next (s.finishDesc 0 d.idx (Result.of .belayRefused)))) ∧
      (∀ l, wfield d.words 4 7 0 = 2 → s.namedLease d.words = some l → exec .leaseRevoke s =
        .next ((s.startReclaim l.id 5).finishDesc 0 d.idx (Result.of .success))))) ∧
  (∀ (s : State) (id : Nat) (l : Lease),
    (s.leases.find? (fun l => decide (l.id = id) && decide (l.stage = .notice)) = some l →
      (s.awake = true → s.leaseKernels l = [] → s.substHeld l.part = false →
        ((s.part l.part).switch = .scrubbing ∨ (s.part l.part).switch = .resuming ∨
          (s.part l.part).switch = .none ∧ s.leaseUsed l = false →
          exec (.leaseReclaimSave id) s = .next (s.leaseClear l)) ∧
        ((s.part l.part).switch = .none → s.leaseUsed l = true →
          (s.ctx l.part (s.part l.part).resident).sectionAt = none →
          exec (.leaseReclaimSave id) s = .next (s.leaseSave l) ∧
          (s.partKernels l.part ≠ [] → s.leaseSave l =
            s.setPart l.part { s.part l.part with reclaiming := true }) ∧
          (s.partKernels l.part = [] →
            let c := (s.part l.part).resident
            let u := s.saveContext l.part c
            (u.resumeUe l.part c = none → let t := (u.resumeReads l.part c).resumeContext l.part c c
              s.leaseSave l =
                ((t.setPart l.part { t.part l.part with reclaiming := false }).serveSems l.part c).leaseClear l)))) ∧
      (l.t0 + l.noticeUs * 1000 ≤ s.now + 500_000 → s.leaseKernels l ≠ [] →
        exec (.leaseLayerAbandon id) s = .next ((((s.leaseKernels l).foldl (fun t k => t.abortKernel k
          { status := .layerTimeExceeded, d4 := lo32 (t.layerNs k / 1000) }) s).leaveLease l).leaseClear l)) ∧
      (s.now + 500_000 < l.t0 + l.noticeUs * 1000 → exec (.leaseLayerAbandon id) s = .next s)) ∧
    (s.leases.find? (fun l => decide (l.id = id)) = some l → l.stage = .scrubbed → s.leaseKernels l = [] →
      (l.t0 + l.noticeUs * 1000 ≤ s.now → ∃ t, exec (.leaseEnd id) s = .next t ∧
        t = ({ s with leases := s.leases.filter (fun m => decide (m.id ≠ id)) }).leaseEvent l 1 ∧
        ∀ m ∈ t.leases, m.id ≠ id) ∧
      (s.now < l.t0 + l.noticeUs * 1000 → exec (.leaseEnd id) s = .next s)))


/-- What a grant may lend (07 R251, R252): units of held radio islands in service that no lease holds, a notice longer
than the partition's longest layer, and no more than lend_pct of a class's capacity booked and lent. -/
def Sys2Proof.Says.GrantsKeepTheirConditions : Prop :=
  ∀ (s : State) (ws : List W32) (l : Lease), s.grantable ws = some l →
    l.stage = .active ∧ s.maxLayer l.part + 1000 ≤ l.noticeUs ∧
    (∀ u ∈ l.units, u.die = l.die ∧ s.usable u = true ∧ (s.island l.die u.island).radio = true ∧
      (s.island l.die u.island).counted = true ∧ (s.island l.die u.island).removing = false ∧
      ∀ m ∈ s.leases, u ∉ m.units) ∧
    (∀ c ∈ [EngineClass.tile, .vde, .fft], let n := (l.units.filter (fun u => decide (u.cls = c))).length
      n = 0 ∨ (s.booked l.die c.code + s.lent l.die c.code) * s.lendPct + bu1 * n * 100 ≤
        s.lendPct * s.cap l.die c.code [])


/-- Leases are granted on their conditions and run.
The model's choices in it: log entry 40. -/
def Obligations.LeasesRun : Prop :=
  Says.LeaseCommandsAct ∧ Says.GrantsKeepTheirConditions

/-- Emergencies and shedding (07 R256 to R259): an emergency is declared when its condition holds and it is not in
force; an emergency still in force repeats its step 10 ms after the last shed slot of its latest one, each emergency for
itself; from the shed slot on nothing of the cell is kept or sent, and once its last slot has met its deadline the cell
is IDLE with its ring. -/
def Sys2Proof.Says.EmergencyStepsAct : Prop :=
  (∀ (s : State) (d : Nat), s.awake = true → d < 2 →
    (s.emergIn d .warning = false → s.emergIn d .thermal = false → exec (.thermalWarning d) s =
      .next (if s.tempOver d s.warnTemp then s.declareEmerg d .warning 0 else s)) ∧
    ((∃ i < 8, (s.island d i).radio = true ∧ ∃ t, (s.island d i).hotSince = some t ∧ t + 1_000_000 ≤ s.now) →
      s.emergIn d .thermal = false → exec (.thermalEmergency d) s = .next (s.declareEmerg d .thermal 0)) ∧
    ((∀ i < 8, ∀ t, (s.island d i).hotSince = some t → s.now < t + 1_000_000) →
      exec (.thermalEmergency d) s = .next s) ∧
    (∀ k, (k ∈ s.shedsDue d ↔ s.emergIn d k = true ∧ k ≠ .warning ∧ (s.emerg d).shedEnd k + 10_000_000 ≤ s.clk)) ∧
    exec (.shedStepRepeat d) s = .next ((s.shedsDue d).foldl (fun t k => t.shedStep d k) s)) ∧
  (∀ (s : State) (c n : Nat) (g : CellCfg), (s.cell c).state = .shedding → (s.cell c).shedAt = some n →
    (s.cell c).cfg = some g →
    (g.air n ≤ s.clk + submitLead g.scs → exec (.shedSlot c) s = .next
      ((s.setCell c { s.cell c with slots := (s.cell c).slots.filter (fun w => decide (w.slot < n)) }).dropFrames
        (fun f => f.ofCell c (fun m => decide (n ≤ m))))) ∧
    (s.clk + submitLead g.scs < g.air n → exec (.shedSlot c) s = .next s) ∧
    (s.awake = true → (s.cell c).stopAt = none →
      (g.slotEnd (n - 1) ≤ s.clk → exec (.cellShedComplete c) s = .next
        ((s.cellInd c n 0 (.shed 1 (s.cell c).shedCause (s.cell c).shedStep (s.cell c).shedClass (s.cell c).die
          (s.cell c).shedIslands (g.air n))).setCell c { Cell.reset with ring := (s.cell c).ring })) ∧
      (s.clk < g.slotEnd (n - 1) → exec (.cellShedComplete c) s = .next s)))


/-- The selection of a shed step for heat or power carries at least a quarter of the price of the cells it is taken
from, or takes every cell that is not shedding (07 R257). -/
def Sys2Proof.Says.ShedStepsTakeAQuarter : Prop :=
  ∀ (total kept : Nat) (l : List (Nat × Cell)), (l.map Prod.fst).Nodup →
    let sel := selectQuarter total kept l
    sel.Sublist (l.map Prod.fst) ∧
    (∀ e ∈ l, e.1 ∈ sel → e.2.state ≠ .shedding) ∧
    (total ≤ 4 * (kept + ((l.filter (fun e => decide (e.1 ∈ sel))).map (fun e => e.2.price.total)).sum) ∨
      ∀ e ∈ l, e.2.state ≠ .shedding → e.1 ∈ sel)


/-- Emergencies shed cells, at least a quarter of the price a step.
The model's choices in it: log entry 41. -/
def Obligations.EmergenciesShedCells : Prop :=
  Says.EmergencyStepsAct ∧ Says.ShedStepsTakeAQuarter

/-- The commit point (07 R260 to R262), 20 µs before a slot's deadline: a direction of which nothing is missing, and no
queued downlink frame waits on an outage at its C-plane time (12 R425), is done; else one notice names what is missing
with its cause, and a price violation is recorded as an event with how late the slot is. The cause is holdover exceeded
or a link that was down at the instant that counts, a frame lost with its link, else a hardware fault.
The model's choices in it: log entry 42. -/
def Obligations.CommitPointsDecide : Prop :=
  ∀ (s : State) (c n : Nat) (ul : Bool) (g : CellCfg), (s.cell c).cfg = some g → s.awake = true →
    (s.cell c).live = true →
    let x := s.cell c
    let w := x.work n
    let cause := s.missCause g w ul
    let missing := maskOf (if ul then w.ulMissing else w.dlMissing)
    let done := missing = 0 ∧ ((ul = true ∨ s.outage g (g.cplaneTime n) = none) ∨ s.unserved c w ul = 0)
    (if ul then w.ul.isSome && !w.lateUl && !w.ulDone else !w.dlPdus.isEmpty && !w.lateDl && !w.dlDone) = true →
    (s.clk + 20_000 < g.deadline w ul → exec (.commitPoint c n ul) s = .next s) ∧
    (g.deadline w ul ≤ s.clk + 20_000 →
      (done → exec (.commitPoint c n ul) s = .next
        ((s.setCell c (x.setWork (if ul then { w with ulDone := true } else { w with dlDone := true }))).settleCell c g)) ∧
      (¬done → cause ≠ 1 ∨ s.missFault w = true → exec (.commitPoint c n ul) s = .next
        ((s.noticeGone c w ul cause).settleCell c g)) ∧
      (¬done → cause = 1 → s.missFault w = false → exec (.commitPoint c n ul) s = .next
        (((s.noticeGone c w ul 1).record 0x0303 (siteCell c) (if ul then 16 else 0)
          (((s.clk + 20_000 - g.deadline w ul) / 1000 : Nat) : Int)).settleCell c g))) ∧
    (let at' := if ul then g.closeTime w.slot w.lastUl else g.cplaneTime w.slot
     (s.ports.servo.lost = true → s.ports.servo.lostAt ≤ at' → at' ≤ s.clk → cause = 3) ∧
     (s.ports.servo.lost = false → s.linkUp g.port g.sub = false → (s.sub g.port g.sub).downAt ≤ at' → at' ≤ s.clk →
       cause = 2) ∧
     (s.ports.servo.lost = false → s.linkUp g.port g.sub = true → cause = if w.linkLost then 2 else 1))


/-- Enabling and resuming a partition (08 R267, R269, R271, R273): every check passes and it runs, or nothing changes
but cfg_error, which names the first check that failed; in standby it is refused with code 9 (15 R492), and so is a
resume of a bound partition (13 R450). -/
def Sys2Proof.Says.PartitionEnablesAct : Prop :=
  ∀ (s : State) (p : Nat), s.up = true →
    (s.activating = false → (s.part p).state = .disabled →
      (s.power.standby = .running → s.partError p = 0 → exec (.partitionEnable p) s = .next
        (((s.zeroLost.setPart p { Part.reset with
            cfgError := (s.part p).cfgError, quantumAt := s.now, tokAt := s.now, blind := s.rbit (aPARTp p) 3 }).setRbit (aPARTp p) 0 true).enterPart p .running)) ∧
      (s.power.standby = .running → s.partError p ≠ 0 →
        exec (.partitionEnable p) s = .next (s.setCfgError p (s.partError p))) ∧
      (s.power.standby ≠ .running → exec (.partitionEnable p) s = .next (s.setCfgError p 9)) ∧
      (s.numVfs < p + 1 → s.partError p = 10)) ∧
    (s.locked p = false → s.awake = true → (s.part p).state = .stopped →
      (s.partError p = 0 → exec (.partitionResume p) s =
        .next ((s.setPart p { s.part p with added := [] }).enterPart p .running)) ∧
      (s.partError p ≠ 0 → exec (.partitionResume p) s = .next (s.setCfgError p (s.partError p)))) ∧
    (s.locked p = true → exec (.partitionResume p) s = .next (s.setCfgError p 9))


/-- A partition that a check lets run shares no unit, half-stack, ledge unit, ring or vector with another enabled one,
holds nothing of the radio's and nothing that is withheld, and has memory for its tiles (08 R268, R269, 13 R455). -/
def Sys2Proof.Says.RunningPartitionsAreApart : Prop :=
  ∀ (s : State) (p : Nat), s.partError p = 0 →
    (∀ u ∈ s.allNamed p, s.inRadio u = false ∧ u ∉ s.withheldUnits ∧
      ∀ q ∈ s.enabledParts, q ≠ p → s.named q u = false) ∧
    (∀ e ∈ s.ledgeUnits p, e ∉ s.withheldLedge) ∧
    (∀ h ∈ s.halves p, s.radioHalf h = false ∧ h ∉ s.withheldHalves ∧ ∀ q ∈ s.enabledParts, q ≠ p → h ∉ s.halves q) ∧
    (∀ q ∈ s.enabledParts, q ≠ p → rangesMeet (s.ringRange p) (s.ringRange q) = false ∧
      rangesMeet (s.vecRange p) (s.vecRange q) = false ∧
      ∀ d < 2, rangesMeet (s.ledgeRange p d) (s.ledgeRange q d) = false) ∧
    s.rf (aPARTp p + 8) 8 0 ≤ s.namedTiles p ∧ s.namedTiles p ≤ 48 * (s.halves p).length


/-- Partitions start when every check passes, and run apart.
The model's choices in it: log entry 43. -/
def Obligations.PartitionsStart : Prop :=
  Says.PartitionEnablesAct ∧ Says.RunningPartitionsAreApart

/-- Resets, release and what starts and ends them (08 R267, R292 to R297, 13 R448, R450): a running or stopped partition
starts its reset in its mode, a quiesce reset scrubs once its kernels have ended, a release goes through the reset,
partitions whose virtual function is taken away are released, a function-level reset ends the function's sessions too,
and writes to a bound partition set cfg_error 9. Before the boot has ended a function-level reset is told to retry
(15 R483).
The model's choices in it: log entries 43 and 64. -/
def Obligations.PartitionsReset : Prop :=
  ∀ (s : State) (p : Nat), s.up = true → s.awake = true →
    let v := s.endSessions (p + 1)
    (s.locked p = false → (s.part p).state = .running ∨ (s.part p).state = .stopped →
      (s.resetMode p = false →
        exec (.quiesceReset p) s = .next ((s.enterPart p .resetting).startReset p false)) ∧
      (s.resetMode p = true →
        exec (.generationDiscard p) s = .next ((s.enterPart p .resetting).startReset p true)) ∧
      exec (.partitionRelease p) s = .next
        (((s.enterPart p .releasing).startReset p (s.resetMode p)).setRbit (aPARTp p) 0 false)) ∧
    (s.locked p = false → (s.part p).state = .resetting → exec (.partitionRelease p) s = .next
      ((s.setPart p { s.part p with releaseNext := true }).setRbit (aPARTp p) 0 false)) ∧
    (p < s.numVfs →
      ((s.part p).state = .running ∨ (s.part p).state = .stopped →
        exec (.vfFlr p) s = .next ((v.enterPart p .resetting).startReset p (s.resetMode p))) ∧
      ((s.part p).state = .disabled → exec (.vfFlr p) s = .next v)) ∧
    (∀ u : State, u.up = false → u.power.stage = .boot → u.power.inReset = false →
      exec (.vfFlr p) u = .next { u with outs := .configRetry :: u.outs }) ∧
    (s.locked p = true → exec (.quiesceReset p) s = .next (s.setCfgError p 9) ∧
      exec (.generationDiscard p) s = .next (s.setCfgError p 9) ∧
      exec (.partitionRelease p) s = .next (s.setCfgError p 9)) ∧
    ((s.part p).stage = .draining → s.substHeld p = false → ∀ posted,
      (s.partKernels p = [] → exec (.resetDrainDone p posted) s = .next
        (let u := (s.drainRings (s.partRings p) .partitionReset posted).clearContexts p
         u.setPart p { u.part p with stage := .scrubbing })) ∧
      (s.partKernels p ≠ [] → exec (.resetDrainDone p posted) s = .next s)) ∧
    (∀ n, let lose := (List.range 64).filter (fun q => decide (n ≤ q) && s.enabled q)
      let u : State := { s with numVfs := min 64 n }
      exec (.vfEnableCleared n) s = .next (lose.foldl (fun t q => (t.release q).setRbit (aPARTp q) 0 false) u) ∧
      (lose = [] → exec (.vfEnableCleared n) s = .next u))


/-- Scrubs end (13 R455, R456, 08 R290, R294, R295): of what a scrub covers, units, half-stacks and ledge units that
failed are withheld, those that succeed are free again, and what the scrub was for goes on; that of a release waits
until every ring of the partition is off; none that was not under way changes anything. -/
def Sys2Proof.Says.ScrubCommandsEnd : Prop :=
  ∀ (s : State) (p : Nat) (kind : ScrubKind) (badUnits : List UnitId) (badHalves : List Nat)
      (badLedge : List (Nat × Nat)),
    let held := s.scrubbed p kind
    let bu := badUnits.filter (fun u => decide (u ∈ held.1))
    let bh := badHalves.filter (fun h => decide (h ∈ held.2.1))
    let bl := badLedge.filter (fun e => decide (e ∈ held.2.2))
    let failed := !(bu.isEmpty && bh.isEmpty && bl.isEmpty)
    let t : State := { s with
      withheldUnits := s.withheldUnits.filter (fun u => decide (u ∉ held.1)) ++ bu
      withheldHalves := s.withheldHalves.filter (fun h => decide (h ∉ held.2.1)) ++ bh
      withheldLedge := s.withheldLedge.filter (fun e => decide (e ∉ held.2.2)) ++ bl }
    let ends : State → Prop := fun u => exec (.scrubDone p kind badUnits badHalves badLedge) s = .next u
    (kind = .switch → (s.part p).switch = .scrubbing → s.substHeld p = false → ends (t.switchScrubbed p failed)) ∧
    (kind = .reset → (s.part p).stage = .scrubbing → s.resetSettled p = true → ends (t.resetScrubbed p failed)) ∧
    (kind = .release → (s.part p).stage = .releaseScrub →
      ((∀ n ∈ s.partRings p, s.ringOn n = false) → ends (t.releaseScrubbed p failed)) ∧
      ((∃ n ∈ s.partRings p, s.ringOn n = true) → ends s)) ∧
    (∀ id, kind = .lease id → (∃ l ∈ s.leases, l.id = id ∧ l.part = p ∧ l.stage = .scrubbing) →
      ends (t.leaseScrubbed id failed)) ∧
    (kind = .switch → (s.part p).switch ≠ .scrubbing → ends s) ∧
    (kind = .reset → (s.part p).stage ≠ .scrubbing → ends s)


/-- After its scrub no byte of a partition's data is left in the tiles and engines it holds nor in its ledge ranges,
but for what is withheld, and every other byte of them and all of stack memory is as before (08 R290 step 4, 13 R455). -/
def Sys2Proof.Says.ScrubsLeaveNoData : Prop :=
  ∀ (s : State) (p : Nat), s.canon = true →
    let t := s.scrubPart p
    (∀ u ∈ s.heldUnits p, u ∉ s.withheldUnits → u.cls = .tile →
      (∀ k < stageBytes, t.byteAt .act (stageKey u.die u.num k) = 0) ∧
      (∀ k < weightBytes, t.byteAt .weight (weightKey u.die u.num k) = 0)) ∧
    (∀ u ∈ s.heldUnits p, u ∉ s.withheldUnits → u.cls = .vde → t.vde u.die u.num = Vde.reset) ∧
    (∀ e ∈ s.ledgeUnits p, e ∉ s.withheldLedge → e.2 < 96 → ∀ k < 2 ^ 20,
      t.byteAt .ledge (ledgeKey e.1 (e.2 * 2 ^ 20) + k) = 0) ∧
    (∀ a, (∀ u ∈ s.heldUnits p, u.cls = .tile →
      ¬(stageKey u.die u.num 0 ≤ a ∧ a < stageKey u.die u.num stageBytes)) → t.byteAt .act a = s.byteAt .act a) ∧
    (∀ a, (∀ d < 2, ¬(ledgeKey d ((s.ledgeRange p d).1 * 2 ^ 20) ≤ a ∧
      a < ledgeKey d (((s.ledgeRange p d).1 + (s.ledgeRange p d).2) * 2 ^ 20))) →
      t.byteAt .ledge a = s.byteAt .ledge a) ∧
    t.stack = s.stack


/-- Scrubs end, and leave none of a partition's data on die.
The model's choices in it: log entry 64. -/
def Obligations.ScrubsEnd : Prop :=
  Says.ScrubCommandsEnd ∧ Says.ScrubsLeaveNoData

/-- Kernels (08 R278 to R281): the scheduler starts the first ready one that fits, on free tiles, in its ring's turn; past its time it is
counted as an overrun, and reported to its partition or to the physical function (09 R329), and 300 µs later abandoned
outside a section, with the time that it has run (09 R336). -/
def Sys2Proof.Says.KernelCommandsAct : Prop :=
  (∀ (s : State) (p n w : Nat) (d : Desc) (j : Job) (k : KernelDecl), let c := (s.part p).resident
    s.awake = true → s.ctxRuns p c = true → s.startsNone p = false → (s.ctx p c).checked = some true →
    s.turn p c = some n → s.runFits p c n = some (d, j, k, w) →
    ∃ (t : State) (x : Kernel), exec (.kernelStart p) s = .next t ∧ t.kernels = s.kernels ++ [x] ∧
      x.tiles = (s.freeTiles p).take w ∧ x.part = some p ∧ x.ctx = c ∧ x.ring = n ∧ x.desc = d.idx ∧ x.slot = j.slot ∧
      x.kidx = j.ran ∧ x.maxUs = k.maxUs ∧ x.start = s.ptp ∧ x.ins = [] ∧ t.nextKernel = s.nextKernel + 1) ∧
  (∀ (s : State) (id : Nat) (x : Kernel), s.kernel id = some x →
    (∀ p, x.part = some p → x.overrun = false → queuedIn s.kernels x = false → x.maxUs * 1000 < s.layerNs x →
      exec (.kernelOverrun id) s = .next (((s.updKernel id (fun y => { y with overrun := true })).account x.issuer
        (fun a => { a with overruns := a.overruns + 1 })).postPart p 0x03 (lo32 x.ctx) (lo32 x.kidx) 0 0)) ∧
    (x.part = none → x.overrun = false → queuedIn s.kernels x = false → x.maxUs * 1000 < s.layerNs x →
      exec (.kernelOverrun id) s = .next ((s.updKernel id (fun y => { y with overrun := true })).postAdmin 0x05
        (lo32 x.ring) ((((s.updKernel id (fun y => { y with overrun := true })).ring x.ring).descs.find? (fun d =>
          decide (d.idx = x.desc))).map (fun d => wordAt d.words 2) |>.getD 0) 0)) ∧
    (s.layerNs x ≤ x.maxUs * 1000 → exec (.kernelOverrun id) s = .next s) ∧
    (s.layerNs x < x.maxUs * 1000 + 300_000 → exec (.kernelAbandon id) s = .next s) ∧
    (queuedIn s.kernels x = false → x.maxUs * 1000 + 300_000 ≤ s.layerNs x →
      (s.inSection x = false → exec (.kernelAbandon id) s = .next
        (s.abortKernel x { status := .layerTimeExceeded, d4 := lo32 (s.layerNs x / 1000) })) ∧
      (s.inSection x = true → exec (.kernelAbandon id) s = .next s)))


/-- A kernel's width is at least 1, no more than the partition's and the kernel's own, and its declared draw stays
within the cap where more than one tile is used (08 R279). -/
def Sys2Proof.Says.KernelWidths : Prop :=
  ∀ (width cap : Nat) (k : KernelDecl), let w := kernelWidth width cap k
    1 ≤ w ∧ (1 ≤ width → 1 ≤ k.wMax → w ≤ width ∧ w ≤ k.wMax) ∧
    (1 < w → cap ≠ 0 → w * k.draw ≤ cap * 100) ∧
    (cap = 0 → 1 ≤ width → 1 ≤ k.wMax → w = min width k.wMax)


/-- Kernels start, run, time out and keep their widths.
The model's choices in it: log entry 44. -/
def Obligations.KernelsRun : Prop :=
  Says.KernelCommandsAct ∧ Says.KernelWidths

/-- The tenant switch (08 R282, R288, R290): it starts at the end of a quantum, or with nothing to run, for the next
ready context that passes its check; the save is followed by the scrub, and the incoming context resumes from its save
with the weights of the kernels due, or, where the save area does not agree with its digest or cannot be read (10 R350),
is lost. A batch closes when its wait has ended, not sooner (08 R283). -/
def Sys2Proof.Says.TenantSwitchSteps : Prop :=
  ∀ (s : State) (p : Nat), let x := s.part p
    (s.awake = true → x.state = .running → x.switch = .none → (x.ctx x.resident).sectionAt = none →
      (x.quantumAt + s.quantumUs p x.resident * 1000 ≤ s.now ∨
        s.ctxReady p x.resident = false ∧ s.partKernels p = []) → x.reclaiming = false → s.substHeld p = false →
      ∀ t n, State.pickCtx p (s.readyCtxs p) s = (t, some n) → exec (.quantumExpiry p) s =
        .next ((t.setPart p { t.part p with switch := .draining, incoming := n, switchAt := t.now }).maybeSave p)) ∧
    (s.now < x.quantumAt + s.quantumUs p x.resident * 1000 → s.ctxReady p x.resident = true →
      exec (.quantumExpiry p) s = .next s) ∧
    (x.switch = .saving → exec (.contextSaveDone p) s = .next (s.setPart p { x with switch := .scrubbing })) ∧
    (x.switch ≠ .saving → exec (.contextSaveDone p) s = .next s) ∧
    (x.switch = .resuming → s.substHeld p = false → ∀ posted,
      let c := x.incoming
      let ends : State → Prop := fun t => exec (.contextResumeDone p posted) s =
        .next ((t.setPart p { t.part p with switch := .none, resident := c, quantumAt := t.now }).serveSems p c)
      ((x.ctx c).saved = true →
        (s.resumeUe p c = none → s.saveGood p c = true →
          ends ((s.resumeReads p c).resumeContext p c x.resident)) ∧
        (s.resumeUe p c = none → s.saveGood p c = false → ends ((s.resumeReads p c).loseContext p c posted)) ∧
        (∀ b, s.resumeUe p c = some b → ends ((s.failUe b).loseContext p c posted))) ∧
      ((x.ctx c).saved = false → ends s)) ∧
    (∀ c b, s.awake = true → x.state = .running → (s.ctx p c).batch = some b →
      (b.opened + s.batchWaitUs p c * 1000 ≤ s.now → exec (.batchCloseTimeout p c) s = .next (s.closeBatch p c)) ∧
      (s.now < b.opened + s.batchWaitUs p c * 1000 → exec (.batchCloseTimeout p c) s = .next s))


/-- Accounting, energy and pace-blind release (08 R298, R300 to R302): records are written for the resident context,
an owner's energy is its share, and completions of a pace-blind partition come out on a grid of 10 µs. -/
def Sys2Proof.Says.AccountsAndReleases : Prop :=
  ∀ (s : State) (p : Nat), s.awake = true →
    (s.enabled p = false → exec (.accountingUpdate p) s = .next s) ∧
    (s.enabled p = true → exec (.accountingUpdate p) s = .next (s.writeAcct p (s.part p).resident)) ∧
    (s.clkNs % 10000 = 0 → exec .paceBlindRelease s = .next
      ((s.enabledParts.filter (fun p => s.paceBlind p)).foldl (fun t p =>
        let rings := (t.rings.map Prod.fst).filter (fun n => inRange (t.ringRange p) n)
        rings.foldl State.ringOff
          ((rings.foldl (fun u n => State.completeAll n (u.ring n).descs.length u) t).deliverPart p)) s)) ∧
    (s.clkNs % 10000 ≠ 0 → exec .paceBlindRelease s = .next s) ∧
    (∀ isl stackNj stackOthers ioNj portOthers, exec (.energyAttribution isl stackNj stackOthers ioNj portOthers) s =
      .next ((((isl.foldl State.splitIsland s).splitBytes Acct.stackBytes stackNj stackOthers).splitBytes
        Acct.portBytes ioNj portOthers).closeInterval)) ∧
    (∀ nj w total, 0 < total → s.splitEnergy nj [(p, w)] total = s.addEnergy p (nj * w / total))


/-- Tenants switch, and accounts and releases are written.
The model's choices in it: log entries 44, 45, 48 and 86. -/
def Obligations.TenantsSwitch : Prop :=
  Says.TenantSwitchSteps ∧ Says.AccountsAndReleases

/-- Semaphore commands (08 R284, R285): SET loads the count, ACQUIRE joins the waiters, RELEASE adds with saturation
and closes a section that holds nothing, malformed ones complete with BAD_DESCRIPTOR, and a hold past its end releases
everything. -/
def Sys2Proof.Says.SemaphoreCommandsAct : Prop :=
  ∀ (s t : State) (n p c : Nat) (d : Desc),
    let y := t.ctx p c
    let sem := wfield d.words 4 11 8
    let v := wfield d.words 5 15 0
    (Admitted s n 0x08 t d (some (p, c)) → ∀ w, semBad d.words y = some w →
      ∀ e ∈ [Instr.semSet n, .semAcquire n, .semRelease n], exec e s = .next (t.finishDesc n d.idx (Result.bad w))) ∧
    (Admitted s n 0x08 t d (some (p, c)) → semBad d.words y = none →
      (wfield d.words 4 1 0 = 0 → exec (.semSet n) s = .next
        ((t.setCtx p c { y with sems := y.sems.set sem v }).finishDesc n d.idx (Result.of .success))) ∧
      (wfield d.words 4 1 0 = 1 → (⟨n, d.idx, sem, v, wfield d.words 6 8 0⟩ : SemWait) ∉ y.waits →
        exec (.semAcquire n) s = .next
          ((t.setCtx p c { y with waits :=
            y.waits ++ [⟨n, d.idx, sem, v, wfield d.words 6 8 0⟩] }).serveSems p c)) ∧
      (wfield d.words 4 1 0 = 2 → exec (.semRelease n) s = .next
        ((((t.setCtx p c (({ y with
            sems := y.sems.set sem (min 65535 (y.sems.getD sem 0 + v))
            held := giveBack sem v y.held } : Ctx).closeSection)).finishDesc n d.idx
              (Result.of .success)).serveSems p c).maybeSave p))) ∧
    (∀ h, (s.ctx p c).held.find? (fun h => decide (h.deadline ≤ s.now)) = some h → (s.part p).state = .running →
      (s.ctx p c).sectionAt.isSome = true → s.kernels = [] →
      (∀ g ∈ (s.ctx p c).held, ∀ e ∈ (s.ring g.ring).descs, e.job = none) →
      exec (.holdExceeded p c) s = .next
        (((((s.setCtx p c { s.ctx p c with
          held := [], sectionAt := none
          sems := (s.ctx p c).held.foldl (fun (m : List Nat) g =>
            m.set g.sem (min 65535 (m.getD g.sem 0 + g.amount))) (s.ctx p c).sems }).postPart p 0x06 (lo32 c)
              (lo32 h.sem) 0 0).serveSems p c).maybeSave p)))


/-- Serving the waiters takes from a semaphore's count exactly what the acquires hold of it, serves no waiter before an
earlier one of the same semaphore, and leaves no first waiter that its count allows (08 R285). -/
def Sys2Proof.Says.WaitersAreServedInOrder : Prop :=
  ∀ (now : Nat) (y : Ctx) (acc : List (Nat × Nat)), y.waits.Nodup →
    let r := (serveWaits now y.waits.length y acc).1
    (∀ sem < y.sems.length, r.sems.getD sem 0 + ((r.held.filter (fun h => decide (h.sem = sem))).map
        (fun h => h.amount)).sum =
      y.sems.getD sem 0 + ((y.held.filter (fun h => decide (h.sem = sem))).map (fun h => h.amount)).sum) ∧
    (∀ sem, (r.waits.filter (fun w => decide (w.sem = sem))) <:+ (y.waits.filter (fun w => decide (w.sem = sem)))) ∧
    (∀ w ∈ r.waits, r.waits.find? (fun v => decide (v.sem = w.sem)) = some w → r.sems.getD w.sem 0 < w.amount)


/-- Semaphore commands, and the order in which waiters are served.
The model's choices in it: log entry 9. -/
def Obligations.SemaphoresRun : Prop :=
  Says.SemaphoreCommandsAct ∧ Says.WaitersAreServedInOrder

/-- Rings start and stop (09 R311 to R313): an enable whose checks pass starts the ring afresh on the values of its
doorbell, one that fails sets the error code, a disabled ring fetches no more and completes what has not started with
RING_DISABLED, and it is off once nothing of it is outstanding, nor, where its partition is released, an event of it
(08 R295). -/
def Sys2Proof.Says.RingCommandsAct : Prop :=
  ∀ (s : State) (v : View) (n : Nat) (cfg d0 d1 : W32), s.reached v = true → s.viewHasRing v n = true →
    (s.ringOn n = false → bitOf cfg 31 = true →
      let t := (s.applyWrite (aRINGn n + 0x18) cfg).setRbit (aRINGn n + 0x18) 31 false
      let u := (t.setRing n { t.ring n with
        descs := [], unfetched := 0, sqTail := 0, cqHead := 0, stamps := [], sqHead := 0, cqTail := 0, phase := true, error := 0,
        disabling := false, muted := false
        line := if n = 0 then none else some (t.dbAddr n / 64 * 64) }).setRbit (aRINGn n + 0x18) 31 true
      (t.ringEnableError n (decide (v = .pf)) = 0 → exec (.ringEnable v n cfg d0 d1) s = .next
        (if n = 0 then (u.applyDoorbell 0 (u.reg aADMIN) (u.reg (aADMIN + 4))).deliverAdmin
         else (u.applyDoorbell n d0 d1).deliverWaiting n)) ∧
      (t.ringEnableError n (decide (v = .pf)) ≠ 0 → exec (.ringEnable v n cfg d0 d1) s = .next
        (t.setRing n { t.ring n with error := t.ringEnableError n (decide (v = .pf)) }))) ∧
    (s.ringOn n = true → (s.ring n).disabling = false → exec (.ringDisable v n) s = .next
      (((s.dropWaits n).setRing n { s.ring n with
        disabling := true
        descs := (s.ring n).descs.map (fun d => if d.result.isSome then d
          else if !d.started || decide (d.op = 0x21) then
            { d with started := true, result := some { status := .ringDisabled, aux := d.aux } }
          else d) }).ringOff n)) ∧
    ((s.ring n).disabling = true →
      ((s.ring n).descs = [] → s.eventsOwed n = false → exec (.ringDisableComplete n) s = .next
        ((s.setRing n { s.ring n with disabling := false, line := none }).setRbit (aRINGn n + 0x18) 31 false)) ∧
      ((s.ring n).descs ≠ [] ∨ s.eventsOwed n = true → exec (.ringDisableComplete n) s = .next s))


/-- Doorbells (09 R312, R316 to R318): an event on a held line acts on its ring after waking the device, a tail and a
head in range are taken with the time stamp, one out of range stops the ring with error 4, and a line that cannot be
reacquired with error 6; ADMIN_DB is the admin ring's. -/
def Sys2Proof.Says.DoorbellsAct : Prop :=
  ∀ (s : State) (n : Nat), s.up = true → s.ringOn n = true →
    (∀ line ws, SMap.keysWhere (fun _ r => decide (r.line = some line)) s.rings = [n] →
      exec (.doorbellEvent line ws) s = .next (s.wake.applyDoorbell n (wordAt ws ((s.dbAddr n - line) / 4))
        (wordAt ws ((s.dbAddr n - line) / 4 + 1)))) ∧
    ((s.ring n).line.isSome = true → exec (.doorbellReacquireTimeout n) s = .next (s.stopRing n 6)) ∧
    (∀ w v, w < 2 → (s.applyWrite (aADMIN + 4 * w) v).ringOn 0 = true → exec (.adminDbWrite w v 0xF) s = .next
      (let t := (s.applyWrite (aADMIN + 4 * w) v)
       t.wake.applyDoorbell 0 (t.reg aADMIN) (t.reg (aADMIN + 4)))) ∧
    (∀ w0 w1, let r := s.ring n
      (field w0 15 0 < s.sqSize n → field w1 15 0 = r.cqHead → r.cqHead < s.cqSize n →
        s.applyDoorbell n w0 w1 = s.setRing n { r with
          sqTail := field w0 15 0, cqHead := field w1 15 0
          stamps := if field w0 15 0 = r.sqTail then r.stamps else r.stamps ++ [(field w0 15 0, s.ptp)] }) ∧
      (s.sqSize n ≤ field w0 15 0 ∨ s.cqSize n ≤ field w1 15 0 ∨
        s.cqUsed n < (field w1 15 0 + s.cqSize n - r.cqHead) % s.cqSize n → s.applyDoorbell n w0 w1 = s.stopRing n 4))


/-- Rings start and stop, and doorbells act.
The model's choices in it: log entries 3 and 46. -/
def Obligations.RingsStartAndStop : Prop :=
  Says.RingCommandsAct ∧ Says.DoorbellsAct

/-- Fetch and completion (09 R312, R324, R328, R330): descriptors are fetched in order with their arrival time, a read
error stops the ring with error 7; the oldest finished descriptor's completion is the next to be written, where the
queue has room, and what waited behind it follows (09 R326, R333). -/
def Sys2Proof.Says.DescriptorsAreFetched : Prop :=
  ∀ (s : State) (n : Nat),
    (s.mayFetch n = true →
      exec (.descriptorFetch n .error) s = .next (s.stopRing n 7) ∧
      (∀ ws, ∃ (d : Desc) (st : List (Nat × Nat)), exec (.descriptorFetch n (.words ws)) s = .next
          ((match s.ringOwner n with
            | some p => s.chargeCtl p 64
            | none => s).setRing n { s.ring n with
            sqHead := ((s.ring n).sqHead + 1) % s.sqSize n, stamps := st, descs := (s.ring n).descs ++ [d] }) ∧
        d.idx = (s.ring n).sqHead ∧ (∀ i < 16, wordAt d.words i = wordAt ws i) ∧
        (opAllowed (wfield ws 0 7 0) (s.ringKind n) (s.ringOwner n).isNone = true → d.started = false ∧
          d.result = none) ∧
        (opAllowed (wfield ws 0 7 0) (s.ringKind n) (s.ringOwner n).isNone = false →
          d.result = some (Result.bad 0)))) ∧
    (s.mayFetch n = false → ∀ r, exec (.descriptorFetch n r) s = .next s) ∧
    (∀ d rest res, s.completionDue n = true → (s.ring n).descs = d :: rest → d.result = some res →
      (s.ring n).muted = false →
      (s.cqRoom n = true → let q := (s.ring n).popped (s.sqSize n) rest
        exec (.descriptorCompletion n) s = .next
          (((((s.setRing n q).writeEntry n (res.entry (wordAt d.words 2) q.sqHead)
            (decide (wfield d.words 0 8 8 = 1))).deliverAdmin).deliverWaiting n).ringOff n)) ∧
      (s.cqRoom n = false → exec (.descriptorCompletion n) s = .next ((s.deliverWaiting n).ringOff n))) ∧
    (s.completionDue n = false → exec (.descriptorCompletion n) s = .next s)


/-- An entry of a completion queue goes to the entry at cq_tail, the tail moves on and the phase turns at the wrap
(09 R325, R327); outside the owner's windows nothing of host memory changes and the ring stops with error 5
(09 R338). -/
def Sys2Proof.Says.EntriesGoToTheQueue : Prop :=
  ∀ (s : State) (n : Nat) (e : CqEntry) (irq : Bool), s.canon = true → (s.ring n).muted = false →
    let t := s.writeEntry n e irq
    let r := s.ring n
    let a := s.cqBase n + 32 * r.cqTail
    (s.windowOk (ownerFn (s.ringOwner n)) a 32 = true →
      SMap.getList byteZero t.host a 32 = e.bytes r.phase r.gen ∧
      (∀ b, b < a ∨ a + 32 ≤ b → SMap.get byteZero t.host b = SMap.get byteZero s.host b) ∧
      (t.ring n).cqTail = (r.cqTail + 1) % s.cqSize n ∧
      (t.ring n).phase = (if (r.cqTail + 1) % s.cqSize n = 0 then !r.phase else r.phase)) ∧
    (s.windowOk (ownerFn (s.ringOwner n)) a 32 = false →
      t.host = s.host ∧ (t.ring n).error = 5 ∧ (t.ring n).muted = true)


/-- Layer-1 buffers and waiting indications (09 R323, R326): a buffer in its window is posted and takes what waits,
one outside it completes at once, and an indication that waited 10 ms is dropped and recorded. -/
def Sys2Proof.Says.IndicationsWait : Prop :=
  ∀ (s : State) (n : Nat) (d : Desc),
    (s.awake = true → s.nextStart n = some d → d.op = 0x21 →
      descFail d.words [(4, decide (wpair d.words 4 % 64 = 0)), (6, decide ((wordAt d.words 6).toNat % 64 = 0) &&
        decide (4096 ≤ (wordAt d.words 6).toNat) && decide ((wordAt d.words 6).toNat ≤ 2_097_152))] = none →
      (s.windowOk (ownerFn (s.ringOwner n)) (wpair d.words 4) (wordAt d.words 6).toNat = true →
        exec (.l1Buf n) s = .next ((s.startDesc n d.idx).deliverInds n)) ∧
      (s.windowOk (ownerFn (s.ringOwner n)) (wpair d.words 4) (wordAt d.words 6).toNat = false →
        exec (.l1Buf n) s = .next (s.finishDesc n d.idx
          { status := .hostWindowFault, d4 := lo32 (wpair d.words 4), d5 := hi32 (wpair d.words 4) }))) ∧
    (∀ i rest, (s.ring n).inds = i :: rest → i.since + 10_000_000 ≤ s.now → exec (.indicationDrop n) s = .next
      ((s.setRing n { s.ring n with inds := rest }).record 0x0401 (siteRing n) 0 i.msgId)) ∧
    (∀ i rest, (s.ring n).inds = i :: rest → s.now < i.since + 10_000_000 → exec (.indicationDrop n) s = .next s)


/-- Descriptors flow from fetch to completion queue, and indications wait.
The model's choices in it: log entries 10, 44 and 46. -/
def Obligations.DescriptorsFlow : Prop :=
  Says.DescriptorsAreFetched ∧ Says.EntriesGoToTheQueue ∧ Says.IndicationsWait

/-- Writes that leave the device stay in enabled windows (09 R337, R338): a byte of host memory that a completion, an
accounting record, the data of a COPY or the admin event of a refusal changes lies in one; a completion's in one of
its function's. -/
def Sys2Proof.Says.DeviceWritesStayInWindows : Prop :=
  ∀ (s : State), s.canon = true →
    (∀ n e irq b, SMap.get byteZero (s.writeEntry n e irq).host b ≠ SMap.get byteZero s.host b →
      ∃ w < 64, s.windowHolds w (ownerFn (s.ringOwner n)) b 1 = true) ∧
    (∀ a x b, SMap.get byteZero (s.putAcct a x).host b ≠ SMap.get byteZero s.host b →
      ∃ w < 64, ∃ fn, s.windowHolds w fn b 1 = true) ∧
    (∀ n d i data b, SMap.get byteZero (s.copyStep n d i data).host b ≠ SMap.get byteZero s.host b →
      ∃ w < 64, ∃ fn, s.windowHolds w fn b 1 = true)


/-- Once locked, the windows ignore every write (09 R337), and a window write needs no lock to be ignored when it
belongs to a bound partition (13 R450). -/
def Sys2Proof.Says.LockedWindowsHold : Prop :=
  ∀ (s : State), s.up = true →
    exec .windowLock s = .next (s.setRbit aSEC 0 true) ∧
    (s.rbit aSEC 0 = true → ∀ v a w, aWIN 0 ≤ a → a < aWIN 64 → s.pfWrite v a w = s) ∧
    (∀ v n w p, n < 64 → s.rbit aSEC 0 = false → s.rf (aWIN n + 0x10) 6 0 = p → p < 64 → s.locked p = true →
      s.pfWrite v (aWIN n + 0x10) w = s.setCfgError p 9)


/-- Writes that leave the device stay in enabled windows, which lock.
The model's choices in it: log entries 43 and 46. -/
def Obligations.HostWritesStayInWindows : Prop :=
  Says.DeviceWritesStayInWindows ∧ Says.LockedWindowsHold

/-- An edge of a source sets its pending bit, counts it, and sends the message of an enabled unmasked one; sources 0
and 57 to 63 never fire (09 R339, R340). -/
def Sys2Proof.Says.SourceEdges : Prop :=
  ∀ (s : State) (src : Nat), s.canon = true →
    (sourceLive src = false → s.edge src = s) ∧
    (sourceLive src = true → s.enBit src = false → (s.edge src).pendBit src = true ∧
      (s.edge src).outs = s.outs ∧
      (s.edge src).rf (aCNT (src / 4)) (8 * (src % 4) + 7) (8 * (src % 4)) =
        min 255 (s.rf (aCNT (src / 4)) (8 * (src % 4) + 7) (8 * (src % 4)) + 1)) ∧
    (sourceLive src = true → s.enBit src = true → s.pendBit src = false → s.sec.quiesced = false →
      let e := s.vectorEntry (s.sourceVector src)
      (s.masked e.1 e.2 = false → (s.edge src).outs = .msix e.1 e.2 :: s.outs ∧
        (s.edge src).pendBit src = !(s.autoClear src)) ∧
      (s.masked e.1 e.2 = true → (s.edge src).outs = s.outs ∧ (s.edge src).pbaBit e.1 e.2 = true))


/-- The host's interrupt accesses (09 R340, R342): each bit set is an edge, an enable set over a pending source sends
its message, and unmasking sends what the pending array holds; a narrow or slow link raises source 8 (09 R305). -/
def Sys2Proof.Says.InterruptAccesses : Prop :=
  ∀ (s : State), s.up = true →
    (∀ n v, n < 128 → exec (.intcSetWrite n v) s = .next
        ((setBits 32 v.toNat).foldl (fun t b => t.edge (32 * n + b)) s) ∧
      exec (.intcEnWrite n v) s = .next
        (((setBits 32 ((s.applyWrite (aEN n) v).reg (aEN n)).toNat).filter (fun b =>
          !(bitOf (s.reg (aEN n)) b) && (s.applyWrite (aEN n) v).pendBit (32 * n + b))).foldl
            (fun u b => u.fireSource (32 * n + b)) (s.applyWrite (aEN n) v))) ∧
    (∀ fn e, fn ≤ 64 → e < 2048 → s.canon = true →
      (s.pbaBit fn e = false → ∃ t, exec (.msixUnmask fn e) s = .next t ∧ t.masked fn e = false ∧
        WritesOnly [.msixT] s t) ∧
      (s.pbaBit fn e = true → s.sec.quiesced = false → ∃ t, exec (.msixUnmask fn e) s = .next t ∧
        t.masked fn e = false ∧ t.pbaBit fn e = false ∧ t.outs = .msix fn e :: s.outs)) ∧
    (∀ w r, w ∈ [1, 2, 4, 8] → r ∈ [16, 32, 64] →
      (8 ≤ w → 64 ≤ r → exec (.cxlLinkTrained w r) s = .next { s with cxlLink := (w, r) }) ∧
      (w < 8 ∨ r < 64 → exec (.cxlLinkTrained w r) s = .next (({ s with cxlLink := (w, r) } : State).edge 8))) ∧
    (s.sec.ideIo.isSome = true ∨ s.sec.ideMem.isSome = true → exec .ideFailure s = .next
      ((s.setSec (fun x => { x with ideIo := none, ideMem := none })).edge 8))


/-- Edges pend, count and send; the host's interrupt accesses act.
The model's choices in it: log entries 8 and 16. -/
def Obligations.InterruptEdges : Prop :=
  Says.SourceEdges ∧ Says.InterruptAccesses

/-- CXL.mem (09 R306, 08 R289, 10 R346, R350, 13 R450): a write puts its bytes into stack memory and changes no other; a
read returns what is there, corrected where the code corrects it; a write of part of an uncorrectable block changes
nothing and is recorded, a read of one answers an error, and a write that would change a protected byte is dropped and
reported to its partition. An access from outside a bound partition's environment reaches nothing and raises source 8.
The model's choices in it: log entry 47. -/
def Obligations.CxlMemAccesses : Prop :=
  ∀ (s : State) (a : Nat) (bs : List Byte) (st : Option Nat) (tr : Bool), s.awake = true → s.canon = true →
    a + bs.length ≤ s.memBytes →
    let own := s.halfOwner (a / s.halfBytes)
    (s.tspBlocks a st tr = false →
      (s.ueInWrite a bs.length = none →
        ((∀ p, own = some p → s.protectedHit p (s.partOffset p a) bs = none) →
          exec (.cxlMemWrite a bs st tr) s = .next (s.putStack a bs)) ∧
        (∀ p k, own = some p → s.protectedHit p (s.partOffset p a) bs = some k →
          exec (.cxlMemWrite a bs st tr) s = .next (s.postPart p 0x09 (lo32 (s.partOffset p a)) (hi32 (s.partOffset p a))
            (lo32 k) 0))) ∧
      (∀ b, s.ueInWrite a bs.length = some b → exec (.cxlMemWrite a bs st tr) s = .next (s.failUe b)) ∧
      (s.ueInRead a bs.length = none → let t := s.corrects [(a, bs.length)]
        exec (.cxlMemRead a bs.length st tr) s =
          .next { t with outs := .memData (s.readMem .stack a bs.length) :: t.outs }) ∧
      (∀ b, s.ueInRead a bs.length = some b → let t := s.failUe b
        exec (.cxlMemRead a bs.length st tr) s = .next { t with outs := .cxlError :: t.outs })) ∧
    (s.tspBlocks a st tr = true → exec (.cxlMemWrite a bs st tr) s = .next (s.edge 8) ∧
      exec (.cxlMemRead a bs.length st tr) s = .next { s.edge 8 with outs := .cxlError :: (s.edge 8).outs }) ∧
    (s.tspBlocks a st tr = true ↔ ∃ p, own = some p ∧ 2 ≤ (s.part p).tsp ∧
      ¬(tr = true ∧ st = some (s.part p).stream)) ∧
    (s.weak = [] → (s.putStack a bs).readMem .stack a bs.length = bs ∧
      (∀ b, b < a ∨ a + bs.length ≤ b → (s.putStack a bs).byteAt .stack b = s.byteAt .stack b) ∧
      WritesOnly [.stack, .ue] s (s.putStack a bs))


/-- Refresh and patrol (10 R346, R349 to R352): a bank whose interval has passed is refreshed under the band of the
temperature read, which holds from the next refresh on; the blocks that have lost bits meanwhile (`lost`) are then ones
that the code corrects or cannot. A patrol read finds what a block holds: a corrected one is counted, recorded and
written back, unless a write has reached it, which leaves no error either; one that the code cannot correct is recorded
and stays so; no patrol changes a byte. -/
def Sys2Proof.Says.StackCommandsAct : Prop :=
  ∀ (s : State), s.up = true →
    (∀ st ch b (temp base : Int) lost, st < 24 → ch < 32 → b < 48 →
      let x := s.bankRefresh (bankKey st ch b)
      let u := s.setStackTemp st temp
      let t := ({ u with power := { u.power with
        baseTemp := SMap.put (fun _ => 0) u.power.baseTemp st base } }).decay st ch b lost
      t.bankRefresh (bankKey st ch b) = x ∧
      t.stack = s.stack ∧
      (x.time + refreshNs x.band ≤ s.now → exec (.refresh st ch b temp base lost) s = .next { t with
        stackSt := { t.stackSt with
          refresh := SMap.put (fun _ => ⟨0, 0⟩) t.stackSt.refresh (bankKey st ch b) ⟨s.now, bandOf temp⟩ } }) ∧
      (s.now < x.time + refreshNs x.band → exec (.refresh st ch b temp base lost) s = .next t)) ∧
    (∀ b, 64 * b < s.memBytes →
      let c := s.stackCorrected b
      (b ∉ s.ue → b ∉ s.weak → exec (.patrolRead b .clean) s = .next s) ∧
      (b ∉ s.ue → b ∈ s.weak → ∀ w, w ≠ .uncorrectable → exec (.patrolRead b w) s =
        .next { c with weak := c.weak.filter (fun e => decide (e ≠ b)) }) ∧
      (b ∉ s.ue → exec (.patrolRead b .corrected) s =
        .next { c with weak := c.weak.filter (fun e => decide (e ≠ b)) }) ∧
      c.stack = s.stack ∧
      (∀ w, w = .uncorrectable ∨ b ∈ s.ue → ∃ t, exec (.patrolRead b w) s = .next t ∧ b ∈ t.ue ∧ b ∉ t.weak ∧
        (∀ e, e ≠ b → ((e ∈ t.ue ↔ e ∈ s.ue) ∧ (e ∈ t.weak ↔ e ∈ s.weak))) ∧ t.stack = s.stack))


/-- The temperature bands of refresh, and their intervals of 3.9, 1.95 and 0.975 µs (10 R352). -/
def Sys2Proof.Says.RefreshBands : Prop :=
  ∀ t : Int, (t ≤ 8 * 85 → refreshNs (bandOf t) = 3900) ∧ (8 * 85 < t → t ≤ 8 * 95 → refreshNs (bandOf t) = 1950) ∧
    (8 * 95 < t → refreshNs (bandOf t) = 975)


/-- A row with a lasting fault moves to a spare of its bank while one is left, and is used on without one
(10 R348). -/
def Sys2Proof.Says.RowsAreRepaired : Prop :=
  ∀ (s : State) (r : RowId),
    (s.rowsLeft r = 0 → s.repairRow r = s) ∧
    (0 < s.rowsLeft r → (s.repairRow r).rowsLeft r = s.rowsLeft r - 1 ∧ r ∈ (s.repairRow r).stackSt.repaired ∧
      (s.repairRow r).ue = s.ue ∧ (s.repairRow r).stack = s.stack)


/-- Stacks are maintained: scrub, lines, refresh bands and row repair.
The model's choices in it: log entries 49 and 92. -/
def Obligations.StacksAreMaintained : Prop :=
  Says.StackCommandsAct ∧ Says.RefreshBands ∧ Says.RowsAreRepaired

/-- Rope commands issue in program order (11 R362, R366 to R371, R374, R380): with its words good, and its checks at the
source passed, a command takes its place and is outstanding with its lines, what may leave leaves, and a STORE accounts
what it reads of stack memory (08 R300, log entry 45); one whose words, checks or data fail takes its place with that
failure, for the kernel that waits for it or the end of its job (11 R374); a FENCE waits for the earlier commands. -/
def Sys2Proof.Says.RopeRowsIssue : Prop :=
  ∀ (s : State) (kid idx p : Nat) (words : List W32) (h : RopeHomes) (k : Kernel), s.kernel kid = some k →
    k.part = some p → s.awake = true → k.kind = .run → k.clean idx = true → k.committedTo idx = true →
    k.insAt idx = none → s.ropeBusy p k.ctx < 256 →
    let c := (List.range 16).map (wordAt words)
    let die := ((k.tiles.head?).map Prod.fst).getD 0
    let x := k.site die noTile
    let r : InsRec := { InsRec.fresh idx die noTile [] s.now with phase := .held }
    let failed : State → RopeTarget → Result → State := fun t g e =>
      ((t.putIns kid r).addCmd k p idx c g [] (some (e.at' k.kidx idx)) false).settleRope
    (∀ e ∈ [(1, 0, Instr.ropeLoad kid idx words h), (2, 0, .ropeStore kid idx words h),
        (3, 1, .addI32 kid idx words h), (3, 2, .addI64 kid idx words h), (3, 3, .minI64 kid idx words h),
        (3, 4, .maxI64 kid idx words h), (3, 5, .and64 kid idx words h), (3, 6, .or64 kid idx words h),
        (3, 7, .xor64 kid idx words h), (3, 8, .swap64 kid idx words h), (3, 9, .cas64 kid idx words h),
        (3, 10, .addF32 kid idx words h), (4, 0, .publish kid idx words h), (5, 0, .digest kid idx words h),
        (6, 0, .genFence kid idx words h)],
      rcOp c = e.1 → (e.1 = 3 → rcAop c = e.2.1) →
      (∀ w, rcBad c = some w → exec e.2.2 s = .next (failed s ⟨0, 0, 0⟩ (Result.badIns w))) ∧
      (rcBad c = none →
        (∀ g f, s.rcStart x p k.ctx c h = .fail g f → exec e.2.2 s = .next (failed s g f)) ∧
        (∀ g m f, s.rcStart x p k.ctx c h = .media g m f → exec e.2.2 s = .next (failed (s.failMedia m) g f)) ∧
        (∀ g ls, s.rcStart x p k.ctx c h = .lines g ls → exec e.2.2 s = .next
          (let u := s.rcReads x p k.ctx c
           (((if e.1 = 2 then u.account (some (p, k.ctx)) (fun a =>
            { a with stackBytes := a.stackBytes + stackCost (rcLoc c) (rcLen c) }) else u).putIns kid r).addCmd
              k p idx c g ls none false).ropeGo)))) ∧
    (rcOp c = 7 →
      (∀ w, rcBad c = some w →
        exec (.ropeFence kid idx words h) s = .next (failed s ⟨0, 0, 0⟩ (Result.badIns w))) ∧
      (rcBad c = none → s.ropeUp = true → exec (.ropeFence kid idx words h) s = .next
        (s.putIns kid { r with phase := .ropeFence, outstanding := s.rope.nextSeq }).settleRope) ∧
      (rcBad c = none → s.ropeUp = false → exec (.ropeFence kid idx words h) s = .next
        (failed s ⟨0, 0, 0⟩ (s.rcDetail c ⟨0, 0, 0⟩ h .ropeLinkDown))))


/-- The source checks a command in the order of 11 R367, a port up first (11 R362): the local address, the key table entry,
which an uncorrectable block ends as a media error (10 R350), the membership of the target; the first that fails decides
the status. A command that passes them has its request lines: of 64 bytes each for LOAD, STORE and PUBLISH, one for the
others; a STORE whose data it cannot read fails as a media error. -/
def Sys2Proof.Says.SourcesCheckInOrder : Prop :=
  ∀ (s : State) (x : Site) (p ctx : Nat) (c : List W32) (h : RopeHomes),
    let n := rcRegion c
    let t : RopeTarget := if n < s.keyCount p ctx then s.keyTarget p ctx n else ⟨0, 0, 0⟩
    let v := s.verdict x (rcLoc c) (rcLocal c) (rcLocalBytes c)
    let good := s.ropeUp = true ∧ v = .ok ∧ s.keyUe p ctx n = none ∧ s.keyValid p ctx n = true ∧
      s.targetIn t.device = true
    (s.ropeUp = false → s.rcStart x p ctx c h = s.rcFail c t h .ropeLinkDown) ∧
    (s.ropeUp = true →
      (v = .bad → s.rcStart x p ctx c h = .fail t (Result.access (rcLocal c) (rcLoc c))) ∧
      (∀ o, v = .fault o → s.rcStart x p ctx c h = .fail t (Result.access o (rcLoc c))) ∧
      (v = .ok →
        (∀ b, s.keyUe p ctx n = some b →
          s.rcStart x p ctx c h = .media t (.block b) (s.rcDetail c t h .mediaError)) ∧
        (s.keyUe p ctx n = none → s.keyValid p ctx n = false →
          s.rcStart x p ctx c h = s.rcFail c t h .keyFault) ∧
        (s.keyUe p ctx n = none → s.keyValid p ctx n = true → s.targetIn t.device = false →
          s.rcStart x p ctx c h = s.rcFail c t h .staleEpoch))) ∧
    (good →
      (rcOp c = 1 → s.rcStart x p ctx c h = .lines t (s.wholeLines t h .load (rcOff c) (rcLen c) [])) ∧
      (rcOp c = 2 →
        (∀ m, s.locUe x (rcLoc c) (rcLocal c) (rcLen c) = some m →
          s.rcStart x p ctx c h = .media t m (s.mediaOf (some p) m)) ∧
        (s.locUe x (rcLoc c) (rcLocal c) (rcLen c) = none →
          s.rcStart x p ctx c h = .lines t (s.wholeLines t h .store (rcOff c) (rcLen c)
            (s.locRead x (rcLoc c) (rcLocal c) (rcLen c))))) ∧
      (rcOp c = 3 → s.rcStart x p ctx c h = .lines t [RopeLine.fresh (s.lineStack t h (rcOff c)) (rcOff c)
        (atomicSize (rcAop c)) (.atomic (rcAop c) (wpair c 6) (wpair c 8)) []]) ∧
      (rcOp c = 4 → s.rcStart x p ctx c h = s.publishLines p ctx c t h) ∧
      (rcOp c = 5 → s.rcStart x p ctx c h = .lines t [RopeLine.fresh (s.lineStack t h (rcOff c)) (rcOff c)
        (rcLen c) .digest []]) ∧
      (rcOp c = 6 → s.rcStart x p ctx c h = .lines t [RopeLine.fresh (s.lineStack t h (rcOff c)) 0 0
        (.genFence (wfield c 6 7 0)) []]))


/-- The rows of TV-12 (04 R156): a drained block is accepted as any other (03 R118 to R120); the accepted block leaves for
its slot once earlier instructions have committed, the header follows when the payload is acknowledged, and the
instruction commits when the header is. While no Rope port is up it ends with ROPE_LINK_DOWN, on this device too (11 R362,
log entry 84); a slot that its key table does not name, or whose device has left the epoch, ends it with KEY_FAULT or
STALE_EPOCH (11 R367). -/
def Sys2Proof.Says.PeerBlocksAreSent : Prop :=
  ∀ (s : State) (k : Kernel) (r : InsRec) (kid idx : Nat) (h : RopeHomes),
    (s.recIn kid idx .drained = some (k, r) → miChain r.words = 13 → k.epilogueFree r = true → ∀ flips,
      (r.accRe ≠ [] → exec (.peerSend kid idx flips h) s = .next (s.peerSend k r h)) ∧
      (r.accRe = [] →
        (∀ u, State.acceptRun k flips 2 s r = .mismatch u →
          (u.failIns kid r (Result.of .checksumMismatch)).recIn kid idx .drained = none →
          exec (.peerSend kid idx flips h) s = .next (u.failIns kid r (Result.of .checksumMismatch))) ∧
        (∀ u, State.acceptRun k flips 2 s r = .stop u → u.recIn kid idx .drained = none →
          exec (.peerSend kid idx flips h) s = .next u) ∧
        (∀ u r', State.acceptRun k flips 2 s r = .ok u r' →
          let t := u.afterRun k r' flips
          (∀ k' q, t.recIn kid idx .drained = some (k', q) → q.accRe ≠ [] →
            exec (.peerSend kid idx flips h) s = .next (t.peerSend k' q h)) ∧
          (t.recIn kid idx .drained = none → exec (.peerSend kid idx flips h) s = .next t)))) ∧
    (∀ p, k.part = some p →
      (k.committedTo r.idx = false → s.peerSend k r h = s) ∧
      (k.committedTo r.idx = true → s.epilogueUe (k.site r.die r.tile) r = none →
        let x := k.site r.die r.tile
        let q : InsRec := { r with
          phase := .sending
          outstanding := 1
          stores := s.ckStores x r ++ (if miSplit r.words then
            [s.locStore x (miCode r.words .partialBuf) (miOff r.words .partialBuf)
              (leBytes 4 (miSplitCnt r.words + 256 * miGenOut r.words))] else []) }
        s.peerSend k r h = (s.putIns k.id q).peerStore k p q (peerSlot r.chain + 32)
          (peerPayload r.words (s.total x r).1) h)) ∧
    (∀ p off bs, let n := cbParam r.chain 0 % 2 ^ 16
      let c := peerWords r.words r.chain off
      let t : RopeTarget := if n < s.keyCount p k.ctx then s.keyTarget p k.ctx n else ⟨0, 0, 0⟩
      let stop := fun st => s.failIns k.id r (s.rcDetail c t h st)
      (s.ropeUp = false → s.peerStore k p r off bs h = stop .ropeLinkDown) ∧
      (s.ropeUp = true → s.keyUe p k.ctx n = none →
        (s.keyValid p k.ctx n = false → s.peerStore k p r off bs h = stop .keyFault) ∧
        (s.keyValid p k.ctx n = true → s.targetIn t.device = false →
          s.peerStore k p r off bs h = stop .staleEpoch) ∧
        (s.keyValid p k.ctx n = true → s.targetIn t.device = true → s.peerStore k p r off bs h =
          ((s.keepCmds (fun q => !(q.peer && decide (q.kernel = k.id) && decide (q.idx = r.idx)))).addCmd k p r.idx c t
            ((linePieces (bs.length / 64 + 2) off bs).map (fun e =>
              RopeLine.fresh (s.lineStack t h e.1) e.1 e.2.length .store e.2)) none true).ropeGo))) ∧
    (∀ p, s.recIn kid idx .sending = some (k, r) → k.part = some p → r.outstanding = 0 →
      let q : InsRec := { r with phase := .sendingHeader, outstanding := 1 }
      exec (.peerSendPayloadAcked kid idx h) s = .next
        ((s.putIns kid q).peerStore k p q (peerSlot r.chain) (peerHeader r.words r.chain) h)) ∧
    (s.recIn kid idx .sendingHeader = some (k, r) → r.outstanding = 0 → ∀ last,
      exec (.peerSendCommit kid idx last) s = .next (s.commitIns k r last)) ∧
    (r.outstanding ≠ 0 →
      (s.recIn kid idx .sending = some (k, r) → exec (.peerSendPayloadAcked kid idx h) s = .next s) ∧
      (s.recIn kid idx .sendingHeader = some (k, r) → ∀ last, exec (.peerSendCommit kid idx last) s = .next s))


/-- Replies, retries, timeouts and credits at the source (11 R376, R378, R387, R392): the first reply to a line that was
sent answers it and later ones are discarded; what the epochs refused is sent again under the next one; a request without a
reply for 100 µs is sent again with its identifier, and under the global epoch that it first left under where its
outcome is to be found (log entry 85), or ends as its target leaves the epoch; 50 ms end its command; and granted credits,
64 at most, let waiting requests go. -/
def Sys2Proof.Says.SourcesFollowUp : Prop :=
  ∀ (s : State) (dev st id : Nat) (c : RopeCmd) (l : RopeLine), s.awake = true → s.lineOf dev st id = some (c, l) →
    (∀ rep : RopeReply, rep.source = s.ropeMember → rep.device = dev → rep.stack = st → rep.id = id →
      (l.sent.isSome = true → exec (.ropeReply rep) s = .next (s.answer c l rep).ropeGo) ∧
      (l.sent = none → exec (.ropeReply rep) s = .next s) ∧
      (rep.status = .success → s.answer c l rep = s.landData c l rep.data) ∧
      (rep.status = .staleEpoch → rep.byEpoch = true → s.targetIn c.device = true → c.device ≠ s.ropeDevice →
        s.answer c l rep = s.updCmd c.seq (fun k => k.updLine l.seq (fun x => { x with sent := none, stale := true }))) ∧
      (rep.status ≠ .success → rep.status ≠ .staleEpoch → s.answer c l rep =
        s.failCmd c (c.detail rep.status l.id l.off))) ∧
    (∀ rep : RopeReply, rep.source = s.ropeMember → s.lineOf rep.device rep.stack rep.id = none →
      exec (.ropeReply rep) s = .next s) ∧
    (∀ t, l.sent = some t →
      (t + 100_000 ≤ s.now →
        (s.targetKnown dev = true →
          let l' : RopeLine := { l with
            sent := some s.now
            epoch := s.podEpoch
            globalEpoch := s.globalEpoch
            under := some (l.under.getD l.globalEpoch) }
          let u := s.updCmd c.seq (fun k => k.updLine l.seq (fun _ => l'))
          (s.lineReq c l').id = l.id ∧
          (s.ropeUp = true → exec (.ropeRetry dev st id) s = .next (u.sendReq (s.lineReq c l'))) ∧
          (s.ropeUp = false → exec (.ropeRetry dev st id) s = .next u)) ∧
        (s.targetKnown dev = false → exec (.ropeRetry dev st id) s =
          .next (s.failCmd c (c.detail .staleEpoch l.id l.off)).ropeGo)) ∧
      (s.now < t + 100_000 → exec (.ropeRetry dev st id) s = .next s)) ∧
    (c.first + 50_000_000 ≤ s.now → exec (.remoteTimeout dev st id) s =
      .next (s.failCmd c (c.detail .remoteTimeout l.id l.off)).ropeGo) ∧
    (s.now < c.first + 50_000_000 → exec (.remoteTimeout dev st id) s = .next s) ∧
    (∀ n, exec (.ropeCreditGrant dev st n) s = .next (s.setRope (fun r => { r with
      credits := SMap.put (fun _ => 8) r.credits (24 * dev + st) (min 64 (s.credits dev st + n)) })).ropeGo)


/-- Rope commands issue in order, and are followed up at their source.
The model's choices in it: log entries 51 and 84. -/
def Obligations.RopeCommandsIssue : Prop :=
  Says.RopeRowsIssue ∧ Says.SourcesCheckInOrder ∧ Says.PeerBlocksAreSent ∧ Says.SourcesFollowUp

/-- The home checks a request in order (11 R367): the epochs first, then region, key, permission and range, then
protection, then the rules of a Cairn copy, then generations; a request that a check refuses changes nothing. -/
def Sys2Proof.Says.HomesCheckInOrder : Prop :=
  ∀ (s : State) (r : RopeReq),
    (s.sameEpoch r = false → s.homeApply r = (s, r.reply .staleEpoch true [])) ∧
    (s.sameEpoch r = true → s.rgnGrants r = false ∨ s.rgnProtected r = true →
      s.homeApply r = (s, r.reply .keyFault false [])) ∧
    (s.sameEpoch r = true → s.rgnGrants r = true → s.rgnProtected r = false →
      (∀ st, s.rgnCairn r = some st → s.homeApply r = (s, r.reply st false [])) ∧
      (s.rgnCairn r = none → s.rgnGenStale r = true → s.homeApply r = (s, r.reply .staleEpoch false [])) ∧
      (s.rgnCairn r = none → s.rgnGenStale r = false → s.homeApply r = s.homeAccepted r)) ∧
    (s.rbit (aRGN r.region) 6 = true →
      (r.act = .store ∨ (∃ a x y, r.act = .atomic a x y) ∨ (∃ g, r.act = .genFence g)) →
      s.rgnCairn r = some .cairnWriteFault)


/-- A request that arrives at its home is applied and answered there, and the home may grant its source credits, up to 64 in
all (11 R378; how many is free, log entry 85); one of the epoch to come is held; one that another pod's home is to get
joins the gateway's chunk if its sender is a member under the gateway's epochs, else it is refused (11 R367, R383, R387,
R389). A request that finds the device in standby wakes it and waits, unless the replay window holds its answer (15 R491,
R492). -/
def Sys2Proof.Says.HomeRequestsAct : Prop :=
  ∀ (s : State) (r : RopeReq), s.portsLive = true → s.ropeUp = true →
    (r.device = s.ropeDevice → s.awake = true →
      (r.epoch ≠ (s.podEpoch + 1) % 2 ^ 32 → exec (.ropeHomeRequest r) s =
        .next (((s.homeApply r).1.sendReply (s.homeApply r).2).grantCredits r)) ∧
      (r.epoch = (s.podEpoch + 1) % 2 ^ 32 → exec (.ropeHomeRequest r) s =
        .next (s.setRope (fun x => { x with held := x.held ++ [r] })))) ∧
    (let k := 576 * r.stack + r.source
     let had := SMap.get (fun _ => 0) s.rope.granted k
     ∃ n, n ≤ 56 - had ∧ s.grantCredits r = if n = 0 then s else
       (s.setRope (fun x => { x with granted := SMap.put (fun _ => 0) x.granted k (had + n) })).ropeOut
         (.grant r.source r.stack n)) ∧
    (r.device = s.ropeDevice → s.awake = false →
      ((∃ old, (s.window r.stack r.source).verdict r.id = .answered old) ∨ s.wake.awake = true →
        exec (.ropeHomeRequest r) s = .next (s.wake.homeReceive r)) ∧
      ((∀ old, (s.window r.stack r.source).verdict r.id ≠ .answered old) → s.wake.awake = false →
        exec (.ropeHomeRequest r) s = .next (s.wake.setRope (fun x => { x with waiting := x.waiting ++ [r] })))) ∧
    (∀ j, r.device ≠ s.ropeDevice → s.ropeIn = true → s.gwIndex = some j → r.device / 512 ≠ s.ropePod →
      s.gwOut (r.device / 512) = some s.ropeMember → r.epoch ≠ (s.podEpoch + 1) % 2 ^ 32 →
      (s.sameEpoch r = true → r.globalEpoch = s.globalEpoch →
        exec (.ropeHomeRequest r) s = .next (s.gather j r)) ∧
      (s.sameEpoch r = false ∨ r.globalEpoch ≠ s.globalEpoch →
        exec (.ropeHomeRequest r) s = .next (s.ropeOut (.reply (r.reply .staleEpoch true []))))) ∧
    (∀ st src, exec (.replayWindowAgeout st src) s = .next (s.setWindow st src ((s.window st src).age s.now)))


/-- Homes check requests in order and answer them.
The model's choices in it: log entries 52 and 85. -/
def Obligations.HomesAnswer : Prop :=
  Says.HomesCheckInOrder ∧ Says.HomeRequestsAct

/-- Entries older than 10 ms leave a replay window, and its floor rises to one above the highest that has left, compared by
signed difference; it never falls (11 R375). -/
def Sys2Proof.Says.WindowsAge : Prop :=
  ∀ (w : ReplayWindow) (now : Nat),
    (∀ e, e ∈ (w.age now).entries ↔ e ∈ w.entries ∧ now ≤ e.2.2 + 10_000_000) ∧
    (∀ floor id, 0 ≤ idDiff id floor → floorAfter floor id = (id + 1) % 2 ^ 32) ∧
    (∀ floor id, idDiff id floor < 0 → floorAfter floor id = floor) ∧
    (w.age now).floor =
      (w.entries.filter (fun e => decide (e.2.2 + 10_000_000 < now))).foldl (fun f e => floorAfter f e.1) w.floor


/-- A store or atomic is applied at most once (11 R375): an identifier that the window has recorded is answered with
the value found then, and memory stays as it is; one below the window's floor is answered OUTCOME_UNKNOWN. -/
def Sys2Proof.Says.StoresApplyOnce : Prop :=
  (∀ (w : ReplayWindow) (id old now : Nat), w.verdict id = .fresh → w.entries.length < 4096 →
    (w.record id old now).verdict id = .answered old ∧
    (∀ j, j ≠ id → (w.record id old now).verdict j = w.verdict j)) ∧
  (∀ (w : ReplayWindow) (id : Nat), (∀ e ∈ w.entries, e.1 ≠ id) →
    (idDiff id w.floor < 0 → w.verdict id = .unknown) ∧ (0 ≤ idDiff id w.floor → w.verdict id = .fresh)) ∧
  (∀ (s : State) (r : RopeReq), r.act.writes = true →
    let v := ((s.window (s.rgnStack r.region r.off) r.source).age s.now).verdict r.id
    (∀ old, v = .answered old → (s.homeAccepted r).1.stack = s.stack ∧ (s.homeAccepted r).2.status = .success ∧
      (∀ a x y, r.act = .atomic a x y → (s.homeAccepted r).2.data = leBytes (atomicSize a) old)) ∧
    (v = .unknown → (s.homeAccepted r).1.stack = s.stack ∧ (s.homeAccepted r).2.status = .outcomeUnknown))


/-- What an accepted request does at its home (11 R370, R371, R380, R390), where its bytes are one piece of stack memory, as
a line of a region always is: loads and digests answer from memory and change nothing, stores and publishes write their
data, an atomic returns what it found and leaves its new value, every other byte stays, and a generation fence sets the
region's generation. A region of the physical function lies at its base. -/
def Sys2Proof.Says.HomesAct : Prop :=
  ∀ (s : State) (r : RopeReq) (a : Nat), s.canon = true →
    let at' := fun n => s.rgnPieces r.region r.off n = [(a, n)]
    (64 ≤ s.rgnOwner r.region → ∀ n, 0 < n → s.rgnPieces r.region r.off n = [(s.rgnBase r.region + r.off, n)]) ∧
    (r.act = .load → at' r.len → s.homeAct r = (s, 0, s.readMem .stack a r.len)) ∧
    (r.act = .digest → at' r.len → s.homeAct r = (s, 0, sha256 (s.readMem .stack a r.len))) ∧
    ((r.act = .store ∨ ∃ d o, r.act = .publish d o) → at' r.data.length →
      (s.homeAct r).1.readMem .stack a r.data.length = r.data ∧
      ∀ b, b < a ∨ a + r.data.length ≤ b → (s.homeAct r).1.byteAt .stack b = s.byteAt .stack b) ∧
    (∀ op x y, r.act = .atomic op x y → at' (atomicSize op) →
      let n := atomicSize op
      let old := fromLE (s.readMem .stack a n)
      (s.homeAct r).2 = (old, leBytes n old) ∧
      (s.homeAct r).1.readMem .stack a n = leBytes n (atomicNew op old x y) ∧
      ∀ b, b < a ∨ a + n ≤ b → (s.homeAct r).1.byteAt .stack b = s.byteAt .stack b) ∧
    (∀ g, r.act = .genFence g → (s.homeAct r).1 = s.setRf (aRGN r.region) 23 16 g ∧
      (s.homeAct r).1.stack = s.stack)


/-- Atomics keep to their widths, sums wrap, and minimum and maximum compare as signed (11 R371). -/
def Sys2Proof.Says.AtomicResults : Prop :=
  ∀ (op old a b : Nat), 1 ≤ op → op ≤ 9 → old < 2 ^ (8 * atomicSize op) → a < 2 ^ 64 →
    (op ≠ 8 → op ≠ 9 → atomicNew op old a b < 2 ^ (8 * atomicSize op)) ∧
    (op = 1 → atomicNew op old a b = (old + a % 2 ^ 32) % 2 ^ 32) ∧
    (op = 2 → signedOf 64 (atomicNew op old a b) = signedOf 64 (wrapOf 64 (signedOf 64 old + signedOf 64 a))) ∧
    (op = 3 → signedOf 64 (atomicNew 3 old a b) = min (signedOf 64 old) (signedOf 64 a)) ∧
    (op = 4 → signedOf 64 (atomicNew 4 old a b) = max (signedOf 64 old) (signedOf 64 a)) ∧
    (op = 8 → atomicNew op old a b = a) ∧
    (op = 9 → atomicNew 9 old a b = if old = b then a else old)


/-- Homes apply requests, stores and atomics at most once.
The model's choices in it: log entries 52 and 85. -/
def Obligations.HomesApplyOnce : Prop :=
  Says.WindowsAge ∧ Says.StoresApplyOnce ∧ Says.HomesAct ∧ Says.AtomicResults

/-- Rope ports and the enable (11 R361, R362, R398): while the device is no member its numbers are those of the
lowest-numbered port that has trained, and every port whose plane reports others is held down; a member keeps its own
(log entry 85). A port that goes down shows it, with device source 40 + p, and disabling takes every port down. -/
def Sys2Proof.Says.RopePortsFollow : Prop :=
  (∀ (ps : List (Nat × Nat × Nat)) (e : Nat × Nat × Nat), lowestPlane ps = some e →
    e ∈ ps ∧ ∀ f ∈ ps, e.1 ≤ f.1) ∧
  ∀ (s : State), s.up = true →
    (∀ p pod m, p < 16 → let ps := s.rope.planes.filter (fun e => decide (e.1 ≠ p)) ++ [(p, pod, m)]
      let t := s.setRope (fun r => { r with planes := ps })
      let free := (s.ropeState = 1 ∧ s.rope.stage ≤ 2) ∨ s.ropeState = 3
      (s.rbit (aROPE + 4) 0 = true →
        exec (.ropePortChange p true pod m) s = .next (s.ropeTrained p pod m).ropeGo) ∧
      (s.rbit (aROPE + 4) 0 = false → exec (.ropePortChange p true pod m) s = .next s) ∧
      exec (.ropePortChange p false pod m) s = .next ((s.setRope (fun r => { r with
        planes := r.planes.filter (fun e => decide (e.1 ≠ p)) })).ropePort p false) ∧
      (∀ n, free → (lowestPlane ps).map Prod.snd = some n →
        let u := ps.foldl (fun u e => u.ropePort e.1 (decide (e.2 = n))) (t.setNumbers n.1 n.2)
        s.ropeTrained p pod m = if u.ropeState = 1 ∧ u.rope.stage ≤ 1 then u.ropeStage 2 else u) ∧
      (¬free → pod = s.ropePod → m = s.ropeMember → s.ropeTrained p pod m = t.ropePort p true) ∧
      (¬free → (pod ≠ s.ropePod ∨ m ≠ s.ropeMember) → s.ropeTrained p pod m = t)) ∧
    (∀ p b, (s.rbit (aROPE + 0xC) p = b → s.ropePort p b = s) ∧
      (s.rbit (aROPE + 0xC) p ≠ b → s.ropePort p b =
        ((s.setRbit (aROPE + 0xC) p b).setRbit (aROPE + 0xC) (16 + p) true).edge (40 + p))) ∧
    (∀ v tr, (bitOf v 0 = false → exec (.ropeEnableWrite v tr) s = .next
        ((((List.range 16).foldl (fun t p => t.ropePort p false) (s.applyWrite (aROPE + 4) v)).setRopeState 0).setRope
          (fun r => { r with planes := [] }))) ∧
      (bitOf v 0 = true → s.rbit (aROPE + 4) 0 = true →
        exec (.ropeEnableWrite v tr) s = .next (s.applyWrite (aROPE + 4) v)) ∧
      (bitOf v 0 = true → s.rbit (aROPE + 4) 0 = false → exec (.ropeEnableWrite v tr) s = .next
        ((((List.range 16).filterMap (fun p => tr.find? (fun e => decide (e.1 = p)))).foldl
          (fun u e => u.ropeTrained e.1 e.2.1 e.2.2) ((s.applyWrite (aROPE + 4) v).ropeStart 1)).ropeGo)))


/-- Membership (11 R386 to R388): a coordinator with a majority forms an epoch without a silent or evicted member, or one
that has not acknowledged, and one with a device that asks to be added; a member that reaches no majority excludes itself;
a coordinator that is silent is replaced; a later epoch is acknowledged; and an excluded device clears its regions, its
key tables and its mailboxes' outstanding entries before it asks. -/
def Sys2Proof.Says.MembershipCommandsAct : Prop :=
  ∀ (s : State), s.portsLive = true →
    (∀ m, s.coordinates = true → s.majority 5_000_000 = true → m ∈ s.nextMembers →
      let without := s.nextMembers.filter (fun x => decide (x ≠ m))
      s.declareDead m = s.formEpoch without ∧
      (s.ropeIn = true → exec (.ropeEvict m) s = .next (s.formEpoch without)) ∧
      (m ≠ s.ropeMember →
        (s.heard m + 5_000_000 ≤ s.now → exec (.memberDead m) s = .next (s.formEpoch without)) ∧
        (∀ t, s.rope.declaredAt = some t → t + 1_000_000 ≤ s.now → m ∉ s.rope.acks →
          exec (.epochAckTimeout m) s = .next (s.formEpoch without)))) ∧
    (∀ m, s.coordinates = false ∨ s.majority 5_000_000 = false ∨ m ∉ s.nextMembers → s.declareDead m = s) ∧
    (∀ m, s.now < s.heard m + 5_000_000 → exec (.memberDead m) s = .next s) ∧
    (∀ m, s.ropeIn = true → s.coordinates = false → exec (.ropeEvict m) s = .next (s.ropeOut (.evict m))) ∧
    (∀ members, let e := (((s.rope.pending.map (fun x => x.number)).getD s.podEpoch) + 1) % 2 ^ 32
      s.formEpoch members = (s.setRope (fun r => { r with
        pending := some ⟨e, members, s.now⟩, declaredAt := some s.now, acks := [s.ropeMember] })).ropeOut
          (.epoch e members)) ∧
    (s.ropeIn = true → (s.majority 10_000_000 = false → exec .selfExclude s = .next s.exclude) ∧
      (s.majority 10_000_000 = true → exec .selfExclude s = .next s)) ∧
    (s.ropeState ≠ 3 → s.exclude = (((s.setRopeState 3).setRbit aROPE 31 false).setRope (fun r => { r with
      chunks := [], replies := [], relayed := [], gwFloor := [], held := [], pending := none })).failAllStale.edge 14) ∧
    (∀ m, s.ropeIn = true → s.coordinator = some m → m ≠ s.ropeMember → s.heard m + 5_000_000 ≤ s.now →
      exec .coordinatorLoss s =
        .next ((s.setRope (fun r => { r with deposed := r.deposed ++ [m] })).declareDead m)) ∧
    (∀ e ms, s.ropeUp = true → s.ropeState ≠ 0 →
      let base := (s.rope.pending.map (fun x => x.number)).getD s.podEpoch
      (0 < idDiff e base → exec (.epochReceive e ms) s = .next
        ((s.setRope (fun r => { r with pending := some ⟨e, ms, s.now⟩ })).ropeOut (.ack e))) ∧
      (idDiff e base ≤ 0 → exec (.epochReceive e ms) s = .next s)) ∧
    (s.ropeState = 3 → exec (.rejoin none) s = .next
      (((((s.enabledParts.foldl State.dropKeyTables ((List.range 2048).foldl State.clearRegion s)).keepCmds
        (fun c => !c.saved || c.lines.isEmpty)).setRopeState 4).setRbit (aROPE + 4) 1 true).ropeOut (.join s.ropeDevice))) ∧
    (s.ropeState ≠ 3 → exec (.rejoin none) s = .next s) ∧
    (∀ d, s.coordinates = true → s.majority 5_000_000 = true → d / 512 = s.ropePod → d % 512 ∉ s.nextMembers →
      exec (.rejoin (some d)) s = .next (s.formEpoch ((List.range 512).filter (fun x =>
        decide (x = d % 512) || decide (x ∈ s.nextMembers)))))


/-- Heartbeats (11 R386, R387): a member's is heard with the epoch it has received, which acknowledges one that is being
formed; and this device sends its own every 100 µs while a port is up, in the membership stage of a cold start too (11
R396, log entry 85). -/
def Sys2Proof.Says.HeartbeatsAreHeard : Prop :=
  ∀ (s : State) (m e : Nat), s.portsLive = true → s.ropeUp = true →
    (m = s.ropeMember → s.ropeIn = true ∨ (s.ropeState = 1 ∧ s.rope.stage = 2 ∧ s.podEpoch = 0) →
      (s.heard m + 100_000 ≤ s.now → exec (.ropeHeartbeat m e) s = .next
        ((s.setRope (fun r => { r with beats := SMap.put (fun _ => 0) r.beats m s.now })).ropeOut
          (.heartbeat m ((s.rope.pending.map (fun x => x.number)).getD s.podEpoch)))) ∧
      (s.now < s.heard m + 100_000 → exec (.ropeHeartbeat m e) s = .next s)) ∧
    (m ≠ s.ropeMember → ∃ t, exec (.ropeHeartbeat m e) s = .next t ∧ WritesOnly [.rope] s t ∧
      t.rope.beats = SMap.put (fun _ => 0) s.rope.beats m s.now ∧
      (m ∈ t.rope.acks ↔ m ∈ s.rope.acks ∨ (e = (s.rope.pending.map (fun x => x.number)).getD s.podEpoch ∧
        s.rope.declaredAt.isSome = true)))


/-- The epoch received comes into force (11 R387): its number and members are held, the windows of those that left or are
new are cleared, device source 14 fires and what was held goes on; a member that was starting goes on to PTP lock, one
that was rejoining is a member again with its identifiers from 0 (11 R388); a device that is not in it, or is excluded, is
or stays excluded. At cold start the lowest-numbered device that has answered forms epoch 1 of those that have (11 R396);
that it does so here is log entry 85. -/
def Sys2Proof.Says.EpochsComeIntoForce : Prop :=
  ∀ (s : State), s.portsLive = true →
    (∀ e : PendingEpoch, s.rope.pending = some e →
      let moved := (s.members.filter (fun m => decide (m ∉ e.members))) ++ e.members.filter (fun m => !(s.isMember m))
      let t := (moved.foldl State.clearWindows s).setMembers e.members
      let u := (t.setReg (aROPE + 0x10) (lo32 e.number)).setRope (fun r => { r with
        pending := none, deposed := [], beats := e.members.foldl (fun b m => SMap.put (fun _ => 0) b m s.now) r.beats })
      let goes : State → State := fun v => ((v.edge 14).gatewaysLeft.releaseHeld).ropeGo
      (s.ropeMember ∈ e.members →
        (s.ropeState = 2 → exec .epochCommit s = .next (goes u)) ∧
        (s.ropeState = 1 → u.rope.stage = 2 → exec .epochCommit s = .next (goes (u.ropeStage 3))) ∧
        (s.ropeState = 4 → exec .epochCommit s = .next (goes (((u.setRopeState 2).setRbit (aROPE + 4) 1 false).setRope
          (fun r => { r with nextId := [], credits := [] }))))) ∧
      (s.ropeMember ∉ e.members ∨ s.ropeState = 3 → exec .epochCommit s = .next u.exclude)) ∧
    (s.rope.pending = none →
      let answered := (List.range 512).filter (fun m => decide (m = s.ropeMember)
        || (decide (0 < s.heard m) && decide (s.rope.stageAt ≤ s.heard m)))
      (s.joining = true → answered.head? = some s.ropeMember → s.formFirst = s.formEpoch answered) ∧
      (s.joining = false ∨ answered.head? ≠ some s.ropeMember → exec .epochCommit s = .next s))


/-- Rope ports, heartbeats, membership and epochs.
The model's choices in it: log entries 53 and 85. -/
def Obligations.MembershipChanges : Prop :=
  Says.RopePortsFollow ∧ Says.MembershipCommandsAct ∧ Says.HeartbeatsAreHeard ∧ Says.EpochsComeIntoForce

/-- Pods together (11 R381, R385, R389, R396): a set of gateways as R381 has it, under a number that may follow, changes the
global epoch and fires device source 14; at cold start the gateways are formed first, under the number that the device
holds (log entry 85), and the agreement that follows ends the last stage and publishes the agreed launch count; any other
is not taken. -/
def Sys2Proof.Says.PodsAgree : Prop :=
  ∀ (s : State) (e : Nat) (pods : List (Nat × List Nat)), s.portsLive = true → s.ropeIn = true →
    (s.gatewaysOk pods = true →
      (s.ropeState = 1 → s.rope.stage = 4 → e = s.globalEpoch →
        exec (.globalEpochChange e pods) s = .next ((s.setGateways e pods).ropeStage 5)) ∧
      (s.ropeState = 1 → s.rope.stage = 5 → s.nextGlobal e pods = true →
        exec (.globalEpochChange e pods) s = .next
          (((((s.applyGlobal e pods).setRopeState 2).setReg (aROPE + 0x48) (lo32 s.agreedCount)).setReg (aROPE + 0x4C)
            (hi32 s.agreedCount)).ropeGo)) ∧
      (s.ropeState = 2 →
        (s.nextGlobal e pods = true → pods ≠ s.podGateways →
          exec (.globalEpochChange e pods) s = .next (s.applyGlobal e pods).ropeGo) ∧
        (s.nextGlobal e pods = false → exec (.globalEpochChange e pods) s = .next s))) ∧
    (s.gatewaysOk pods = false → exec (.globalEpochChange e pods) s = .next s) ∧
    (s.gatewaysOk pods = true → ∀ x ∈ pods, 1 ≤ x.2.length ∧ x.2.length ≤ 64 ∧
      (x.1 = s.ropePod → ∀ m ∈ x.2, s.isMember m = true)) ∧
    (s.agreedCount % 1_000_000_000 = 0 ∧ s.ptp + 2_000_000_000 ≤ s.agreedCount ∧
      s.agreedCount < s.ptp + 3_000_000_000)


/-- Chunks between pods (11 R382, R383, R385, R389): requests and replies that have been gathered for a pod leave at their
time or size or for a FENCE, for the gateway through which this pod's traffic enters there; a gateway takes the chunks that
enter through it, gives its requests the identity and identifier of its mapping, answers those whose outcome it cannot
know with OUTCOME_UNKNOWN (log entry 85), passes replies to their sources, and refuses what is of another global epoch. -/
def Sys2Proof.Says.ChunksCross : Prop :=
  ∀ (s : State),
    (∀ pod fenced, let c := SMap.get (fun _ => (0, [])) s.rope.chunks pod
      let d := SMap.get (fun _ => (0, [])) s.rope.replies pod
      let due : Nat → Nat → Bool := fun since n =>
        fenced || decide (since + 4_000 ≤ s.now) || decide (262_144 ≤ n)
      let req := !c.2.isEmpty && due c.1 (chunkBytes c.2)
      let rep := !d.2.isEmpty && due d.1 (replyBytes d.2)
      s.awake = true → s.ropeIn = true → s.gwIndex.isSome = true →
      ((req || rep) = true → ∃ t, exec (.chunkSend pod fenced) s = .next t ∧
        t.outs = .rope (.chunk ⟨s.ropePod, pod, s.ropePod % max 1 (s.gateways pod).length, s.globalEpoch,
          if req then c.2 else [], if rep then d.2 else []⟩) :: s.outs ∧
        (req = true → SMap.get (fun _ => (0, [])) t.rope.chunks pod = (0, [])) ∧
        (rep = true → SMap.get (fun _ => (0, [])) t.rope.replies pod = (0, []))) ∧
      ((req || rep) = false → exec (.chunkSend pod fenced) s = .next s)) ∧
    (∀ j (c : RopeChunk), s.gwIndex = some j → s.awake = true → s.ropeIn = true → c.dst = s.ropePod → c.gw = j →
      (c.globalEpoch ≠ s.globalEpoch → exec (.chunkReceive c) s = .next (c.reps.foldl (fun t r => t.chunkReply j r)
        (c.reqs.foldl (fun t r => t.gatherReply c.src (r.reply .staleEpoch true [])) s))) ∧
      (c.globalEpoch = s.globalEpoch → j = c.src % max 1 (s.gateways s.ropePod).length →
        exec (.chunkReceive c) s = .next (c.reps.foldl (fun t r => t.chunkReply j r)
          (c.reqs.foldl (fun t r => t.chunkRequest j c.src r) s)))) ∧
    (∀ j (c : RopeChunk), s.gwIndex = some j → c.gw ≠ j → exec (.chunkReceive c) s = .next s) ∧
    (∀ j pod (r : RopeReq), let x := s.relay j pod r
      (x.2 = none → s.chunkRequest j pod r = x.1.gatherReply pod (r.reply .outcomeUnknown false [])) ∧
      (∀ q, x.2 = some q → q.source = 512 + j ∧ q.device = r.device ∧ q.act = r.act ∧ q.data = r.data ∧
        s.chunkRequest j pod r = if r.device = s.ropeDevice then x.1.homeReceive { q with epoch := s.podEpoch }
          else x.1.ropeOut (.request { q with epoch := s.podEpoch } none)))


/-- A gateway gives a request that is sent again the identifier it gave the first copy, while it keeps the mapping (11
R375, R383): the same source and pod, device, stack and identifier get the same again. -/
def Sys2Proof.Says.RelaysRepeat : Prop :=
  ∀ (s : State) (j pod : Nat) (r q : RopeReq), (s.relay j pod r).2 = some q →
    ((s.relay j pod r).1.relay j pod r).2 = some q


/-- Launch gates, the stages of cold start and regions (11 R368, R395 to R397): a gate that is armed holds its ring until the
counter reaches its count, or fires at once and late; while it is armed its ring ignores writes; a stage past its bound is
run once more out of the budget, or the device is left out; a region is enabled if its owner and range allow it, else
refused. -/
def Sys2Proof.Says.GatesStagesAndRegions : Prop :=
  ∀ (s : State), s.up = true →
    (∀ g v, g < 16 → bitOf v 16 = true →
      (s.rbit (aGATE g + 8) 16 = false →
        let t := s.applyWrite (aGATE g + 8) v
        (s.gateCount g ≤ s.launchCount → exec (.launchGateArm g v) s = .next
          (((t.setRbit (aGATE g + 8) 16 false).setRbit (aGATE g + 8) 17 true).setRbit (aGATE g + 8) 18 true)) ∧
        (s.launchCount < s.gateCount g → exec (.launchGateArm g v) s = .next t)) ∧
      (s.rbit (aGATE g + 8) 16 = true → exec (.launchGateArm g v) s = .next
        (s.applyWrite (aGATE g + 8) (setField v 15 0 (s.rf (aGATE g + 8) 15 0))))) ∧
    (∀ g, g < 16 → s.rbit (aGATE g + 8) 16 = true →
      (s.gateCount g ≤ s.launchCount →
        exec (.launchGateFire g) s = .next ((s.setRbit (aGATE g + 8) 16 false).setRbit (aGATE g + 8) 17 true)) ∧
      (s.launchCount < s.gateCount g → exec (.launchGateFire g) s = .next s)) ∧
    (s.ropeState = 1 → s.rope.stageAt + stageBound s.rope.stage ≤ s.now →
      (s.rope.again = false → stageBound s.rope.stage ≤ s.rope.budget → exec .coldStartStageTimeout s = .next
        ((s.setRope (fun r => { r with
          again := true, stageAt := s.now, budget := r.budget - stageBound s.rope.stage })).bumpRf (aROPE + 8) 7 5 1)) ∧
      (s.rope.again = true ∨ s.rope.budget < stageBound s.rope.stage →
        exec .coldStartStageTimeout s = .next s.exclude)) ∧
    (s.now < s.rope.stageAt + stageBound s.rope.stage → exec .coldStartStageTimeout s = .next s) ∧
    ((List.range 6).map stageBound = [4, 3, 5, 20, 10, 8].map (· * 1_000_000_000)) ∧
    (∀ i, i < 2048 → s.rbit (aRGN i) 0 = false → s.rgnLocked i = false →
      (s.rgnOk i = true → exec (.regionEnable i) s =
        .next ((s.setRbit (aRGN i) 0 true).setRbit (aRGN i) 31 false)) ∧
      (s.rgnOk i = false → exec (.regionEnable i) s = .next (s.setRbit (aRGN i) 31 true)))


/-- Pods work together: chunks, launch gates, cold start and regions.
The model's choices in it: log entries 53, 54 and 85. -/
def Obligations.PodsWorkTogether : Prop :=
  Says.PodsAgree ∧ Says.ChunksCross ∧ Says.RelaysRepeat ∧ Says.GatesStagesAndRegions

/-- A received frame meets the rows of R403 in order (12 R400, R403, R410, R422): a bad one is dropped and counted, so is
one for another destination or with two tags; then come PTP messages of the domain, fronthaul with a tag, the partition
queue of its VLAN, and the rest is dropped and counted. A fronthaul frame that no cell has, or of another message type, is
dropped and counted in the port, one that breaks the framing of R404 in the cell too. -/
def Sys2Proof.Says.FramesArrive : Prop :=
  ∀ (s : State) (f : RxFrame), s.portsLive = true → s.hasSub f.port f.sub = true → s.linkUp f.port f.sub = true →
    let t := s.portCount f.port 0
    let drop := t.portCount f.port 2
    (f.fcsOk = false ∨ f.len < 64 ∨ 9216 < f.len → exec (.frameReceive f) s = .next (t.portCount f.port 1)) ∧
    (f.fcsOk = true → 64 ≤ f.len → f.len ≤ 9216 →
      (t.destOk f = false ∨ f.stacked = true → exec (.frameReceive f) s = .next drop) ∧
      (t.destOk f = true → f.stacked = false →
        (f.etherType = 0x88F7 → t.rbit (aPORTn f.port + 0x18) f.sub = true →
          (∀ m : PtpIn, f.body = .ptp m → m.domain = t.rf (aTIME + 0x2C) 15 8 →
            exec (.frameReceive f) s = .next ((t.portCount f.port 3).takePtp f m)) ∧
          (∀ m : PtpIn, f.body = .ptp m → m.domain ≠ t.rf (aTIME + 0x2C) 15 8 →
            exec (.frameReceive f) s = .next drop)) ∧
        (∀ v e, f.etherType = 0xAEFE → f.vlan = some v → f.body = .ecpri e →
          exec (.frameReceive f) s = .next (t.takeFronthaul f v e) ∧
          (t.frameCell f v e.eaxc = none → t.takeFronthaul f v e = drop) ∧
          (∀ c g, t.frameCell f v e.eaxc = some (c, g) →
            (e.type' ≠ 0 → t.takeFronthaul f v e = drop) ∧
            (e.type' = 0 → e.rev ≠ 1 ∨ e.concat = true ∨ e.size ≠ f.len - 26 ∨ e.ebit = false ∨ e.subseq ≠ 0 →
              t.takeFronthaul f v e = (t.cellCount c 3 1).portCount f.port 2))) ∧
        (f.etherType ≠ 0xAEFE ∨ f.vlan = none → f.etherType ≠ 0x88F7 ∨ t.rbit (aPORTn f.port + 0x18) f.sub = false →
          (∀ v p, f.vlan = some v → t.queueOf f.port f.sub v = some p →
            exec (.frameReceive f) s = .next (t.takePart f p)) ∧
          (f.vlan = none → exec (.frameReceive f) s = .next drop) ∧
          (∀ v, f.vlan = some v → t.queueOf f.port f.sub v = none → exec (.frameReceive f) s = .next drop))))


/-- Each section of a fronthaul frame is decided by its symbol and the frame's ingress timestamp alone (12 R406 to R408,
R410): one of another compression, outside the grid or of no stream is bad; one before its symbol is early; one past the
close of its symbol's window is late, and one at the close is on time; one that repeats PRBs that were taken is bad; any
other is taken with its saturated components counted, and no other register changes. -/
def Sys2Proof.Says.SectionsAreDecided : Prop :=
  ∀ (s : State) (c : Nat) (g : CellCfg) (e : EcpriIn) (n st t0 : Nat) (x : SectionIn),
    let prb := if x.prbs = 0 then (0, g.fapi.grid) else (x.startPrb, x.prbs)
    let bad := (x.compMeth, x.width) ≠ g.compUl ∨ g.fapi.grid < prb.1 + prb.2 ∨ g.ulStreams ≤ st
    let again := ((s.cell c).work n).rx.any (fun r => decide (r.sym = e.sym) && decide (r.stream = st)
      && decide (r.filter = e.filterIndex) && prbsMeet r.prb prb)
    (bad → s.takeSection c g e n st t0 x = (s.cellCount c 3 1, false)) ∧
    (¬bad →
      (t0 < g.airSym n e.sym → s.takeSection c g e n st t0 x = (s.cellCount c 2 1, false)) ∧
      (g.airSym n e.sym ≤ t0 →
        (g.airSym n (e.sym + 1) + g.ta4Max * 1000 < t0 →
          s.takeSection c g e n st t0 x = (s.cellCount c 1 1, false)) ∧
        (t0 ≤ g.airSym n (e.sym + 1) + g.ta4Max * 1000 →
          (again = true → s.takeSection c g e n st t0 x = (s.cellCount c 3 1, false)) ∧
          (again = false → ∃ t, s.takeSection c g e n st t0 x = (t, true) ∧
            t.regs = (s.cellCount c 5 (expandSection g.compUl prb.2 x.data).2).regs))))


/-- A free sub-port sends the first frame of its highest queue that may start (12 R411): queue order is strict; a frame
that the allow list has not is counted, recorded and discarded (12 R417); one that it has leaves, with its time if it is a
one-step Sync (12 R422), and occupies the sub-port for its length (12 R412); the rest waits. -/
def Sys2Proof.Says.FramesLeave : Prop :=
  ∀ (s : State) (n sub : Nat), s.portsLive = true → s.hasSub n sub = true → s.linkUp n sub = true →
    ((s.sub n sub).busy ≤ s.now →
      let t := s.fillSub n sub
      (t.nextFrame n sub = none → exec (.frameTransmit n sub) s = .next t) ∧
      (∀ b f r, t.nextFrame n sub = some (b, f, r) →
        (t.sub n sub).frames = b ++ f :: r ∧ t.mayLeave n sub f = true ∧
        (∀ b' g r', (t.sub n sub).frames = b' ++ g :: r' → g.queue ≤ 7 → t.mayLeave n sub g = true →
          g.behind b' = false → g.queue ≤ f.queue) ∧
        (let u := t.setSub n sub { t.sub n sub with frames := b ++ r }
         (u.allows n f.dst f.vlan = true → exec (.frameTransmit n sub) s = .next (u.startFrame n sub f) ∧
           ((∀ p i, f.what ≠ .part p i) → s.canon = true →
             ((u.startFrame n sub f).sub n sub).busy = u.now + u.frameNs n f.len ∧
             ∃ g : Frame, (u.startFrame n sub f).outs = .frame n sub g :: u.outs ∧ g.dst = f.dst ∧ g.src = f.src ∧
               g.vlan = f.vlan ∧ (f.what ≠ .ptp .sync → g = f))) ∧
         (u.allows n f.dst f.vlan = false → exec (.frameTransmit n sub) s = .next (u.refuseFrame n sub f))))) ∧
    (s.now < (s.sub n sub).busy → exec (.frameTransmit n sub) s = .next s)


/-- Frames arrive by the rows of their kind and leave by strict priority.
The model's choices in it: log entries 55, 56 and 90. -/
def Obligations.FramesMove : Prop :=
  Says.FramesArrive ∧ Says.SectionsAreDecided ∧ Says.FramesLeave

/-- Ports and links (12 R402, R422, R431): an enable takes its mode, but no reserved code, and mode stays while the port is
enabled; a disable takes the links down, and is ignored while a bound cell is not IDLE; a link that changes shows it, fires
device source 32 + n, and discards what waited if it went down. A PTP message that is due is queued: Delay_Req on the slave
port, Sync and Announce on the others, untagged in queue 7 to the port's PTP address; its bytes are log entry 90. -/
def Sys2Proof.Says.PortCommandsAct : Prop :=
  ∀ (s : State) (n sub : Nat), s.up = true → s.canon = true → n < 8 →
    (∀ v, let a := aPORTn n
      let w := fun m b => ((s.applyWrite a v).setRf a 2 1 m).setRbit a 0 b
      (s.rbit a 0 = false → field v 2 1 ≠ 3 →
        exec (.portEnable n v) s = .next (w (field v 2 1) (bitOf v 0))) ∧
      (s.rbit a 0 = false → field v 2 1 = 3 → exec (.portEnable n v) s = .next (w (s.rf a 2 1) (bitOf v 0))) ∧
      (s.rbit a 0 = true → bitOf v 0 = true ∨ s.portBound n = true →
        exec (.portEnable n v) s = .next (w (s.rf a 2 1) true)) ∧
      (s.rbit a 0 = true → bitOf v 0 = false → s.portBound n = false → exec (.portEnable n v) s = .next
        ((List.range 4).foldl (fun t i => t.linkChange n i false) (w (s.rf a 2 1) false)))) ∧
    (s.hasSub n sub = true →
      (∀ up, s.linkUp n sub ≠ up → s.rbit (aPORTn n) 0 = true ∨ up = false →
        let t := ((s.setRbit (aPORTn n + 4) sub up).setRbit (aPORTn n + 4) (4 + sub) true).edge (32 + n)
        (up = true → exec (.portLinkChange n sub up) s = .next
          (t.noticePassed (fun g => decide (g.port = n) && decide (g.sub = sub)) (t.sub n sub).downAt 2)) ∧
        (up = false → exec (.portLinkChange n sub up) s = .next ((t.sub n sub).frames.foldl State.dropQueued
          (t.setSub n sub { t.sub n sub with frames := [], downAt := t.clk })))) ∧
      exec (.portLinkChange n sub (s.linkUp n sub)) s = .next s ∧
      (s.rbit (aPORTn n) 0 = false → exec (.portLinkChange n sub true) s = .next s)) ∧
    (∀ k, s.portsLive = true → s.hasSub n sub = true → s.ptpOn n sub = true → s.linkUp n sub = true →
      (s.ports.servo.slave = some (n, sub) ↔ k = PtpKind.delayReq) →
      let u := s.setSub n sub ((s.sub n sub).setSentAt k s.now)
      let data := u.ptpBytes n sub k.type' k.body
      ((s.sub n sub).sentAt k + k.every ≤ s.now → exec (.ptpTransmit n sub k) s = .next (u.queueFrame n sub
        { what := .ptp k, dst := u.ptpAddr n, src := u.subMac n sub, vlan := none, queue := 7,
          len := max 64 (data.length + 16), data := data, seq := 0, after := 0, by' := none })) ∧
      (s.now < (s.sub n sub).sentAt k + k.every → exec (.ptpTransmit n sub k) s = .next s)) ∧
    (∀ k : PtpKind, k.every = if k = .announce then 125_000_000 else 62_500_000)


/-- Gate lists (12 R414, R415): change takes a list whose length and cycle are in range for the first cycle start
that is not past, at that start it becomes operative, and while one is pending only enable is written. -/
def Sys2Proof.Says.GateListsRun : Prop :=
  ∀ (s : State) (n sub : Nat), s.up = true → n < 8 → sub < 4 →
    let a := aGCL n sub
    (∀ v, bitOf v 1 = true →
      (s.gclPending n sub = true → exec (.gclChange n sub v) s = .next (s.setRbit a 0 (bitOf v 0))) ∧
      (s.gclPending n sub = false →
        let t := s.applyWrite a v
        let len := t.rf a 23 16
        let cyc := (t.reg (a + 4)).toNat
        let d := timeDiff t.clk (t.reg (a + 0xC)).toNat (t.rf (a + 8) 29 0)
        (1 ≤ len → len ≤ 64 → 1_000 ≤ cyc → cyc ≤ 1_000_000_000 → ∃ k : Nat,
          exec (.gclChange n sub v) s = .next ((t.setRbit a 31 true).setSub n sub { t.sub n sub with
            pend := some (k * cyc) }) ∧ d ≤ ((k * cyc : Nat) : Int) ∧
          ∀ j : Nat, d ≤ ((j * cyc : Nat) : Int) → k ≤ j) ∧
        (len = 0 ∨ 64 < len ∨ cyc < 1_000 ∨ 1_000_000_000 < cyc → exec (.gclChange n sub v) s = .next t))) ∧
    (∀ k, (s.sub n sub).pend = some k → s.gclPending n sub = true →
      (k : Int) ≤ timeDiff s.clk (s.reg (a + 0xC)).toNat (s.rf (a + 8) 29 0) →
      exec (.gclTakeEffect n sub) s = .next
        (let g : GateList := ⟨(List.range (s.rf a 23 16)).map (fun i =>
          (s.rf (aGCLE n sub i) 31 24, s.rf (aGCLE n sub i) 23 0)), (s.reg (a + 4)).toNat,
          (s.reg (a + 0xC)).toNat, s.rf (a + 8) 29 0⟩
         (s.setRbit a 31 false).setSub n sub { s.sub n sub with
          oper := some g, pend := none, gates := g.states s.clk })) ∧
    (∀ g, (s.sub n sub).oper = some g → s.gclOn n sub = true → exec (.gateIntervalEnd n sub) s =
      .next (s.setSub n sub { s.sub n sub with gates := g.states s.clk })) ∧
    (s.gclOn n sub = false → ∀ q ns, s.gateOpen n sub q ns = true)


/-- The allow list locks, and partition queues bind (12 R418 to R420, 13 R450): a write to a bound partition's queue sets
cfg_error 9; an enabled queue ignores writes; an enable whose checks pass binds the queue, one that fails sets refused; and
a poll of a RUNNING partition reads the entries that are new and queues their frames in order, one with nothing new changes
nothing. -/
def Sys2Proof.Says.QueuesBind : Prop :=
  ∀ (s : State) (p : Nat), s.up = true → p < 64 →
    exec .allowLock s = .next (s.setRbit (aSEC + 0x10) 0 true) ∧
    (∀ v, ((s.part p).tsp ≠ 0 → exec (.pqEnable p v) s = .next (s.setCfgError p 9)) ∧
      ((s.part p).tsp = 0 → s.pqOn p = true → exec (.pqEnable p v) s = .next s) ∧
      ((s.part p).tsp = 0 → s.pqOn p = false →
        let t := (s.applyWrite (aPQ p) v).setRbit (aPQ p) 31 false
        (bitOf v 31 = true → t.pqOk p = true → exec (.pqEnable p v) s =
          .next ((t.setRbit (aPQ p) 31 true).setRbit (aPQ p) 30 false)) ∧
        (bitOf v 31 = true → t.pqOk p = false → exec (.pqEnable p v) s = .next (t.setRbit (aPQ p) 30 true)) ∧
        (bitOf v 31 = false → exec (.pqEnable p v) s = .next t))) ∧
    (s.pqOk p = true → s.enabled p = true ∧ s.rf (aPQ p) 24 22 ≤ 4 ∧
      (s.rxRing p).1 + 64 + (16 + 9216) * (s.rxRing p).2 ≤ s.partBytes p ∧
      (s.txRing p).1 + 64 + 16 * (s.txRing p).2 ≤ s.partBytes p ∧
      ∀ q < 64, q ≠ p → s.pqOn q = true → s.pqPort q = s.pqPort p → s.pqVlan q ≠ s.pqVlan p) ∧
    (s.portsLive = true → s.awake = true → s.pqOn p = true → (s.part p).state = .running →
      let r := s.txRing p
      let ue := s.issuerUeRead (some (p, (s.part p).resident)) r.1 8
      exec (.pqTxPoll p) s = .next (State.pollTx p r.2 (s.pqNote ue)) ∧
      (ue = none →
        (s.pqRead p r.1 2 % r.2 + r.2 - s.pqRead p (r.1 + 4) 2 % r.2) % r.2 ≤ s.pqWaiting p →
        exec (.pqTxPoll p) s = .next s)) ∧
    (∀ k, let r := s.txRing p
      let w := s.pqWaiting p
      let idx := (s.pqRead p (r.1 + 4) 2 % r.2 + w) % r.2
      let i : Issuer := some (p, (s.part p).resident)
      let buf := s.pqRead p (r.1 + 64 + 16 * idx) 8
      let len := s.pqRead p (r.1 + 64 + 16 * idx + 8) 4 % 2 ^ 14
      let bs := s.issuerRead i buf len
      let q := s.pqPort p
      let bad := len < 14 ∨ len + 8 < 64 ∨ 9216 < len + 8 ∨ buf % 64 ≠ 0 ∨ s.partBytes p < buf + len ∨
        beNat ((bs.drop 12).take 2) = 0xAEFE ∨ beNat ((bs.drop 12).take 2) = 0x88F7
      s.issuerUeRead i r.1 8 = none → s.issuerUeRead i (r.1 + 64 + 16 * idx) 16 = none →
      s.issuerUeRead i buf len = none → w < (s.pqRead p r.1 2 % r.2 + r.2 - s.pqRead p (r.1 + 4) 2 % r.2) % r.2 →
      (bad → (w = 0 → State.pollTx p (k + 1) s = State.pollTx p k (s.txDone p idx (some 2))) ∧
        (w ≠ 0 → State.pollTx p (k + 1) s = s)) ∧
      (¬bad → State.pollTx p (k + 1) s = State.pollTx p k (s.queueFrame q.1 q.2
        { what := .part p idx, dst := beNat (bs.take 6), src := s.subMac q.1 q.2, vlan := some (s.pqVlan p),
          queue := s.rf (aPQ p) 24 22, len := len + 8, data := bs.drop 12, seq := 0, after := 0, by' := none })))


/-- Ports, links, gate lists, the allow list and partition queues.
The model's choices in it: log entries 57, 58 and 90. -/
def Obligations.PortsFollow : Prop :=
  Says.PortCommandsAct ∧ Says.GateListsRun ∧ Says.QueuesBind

/-- The local clock and the servo's commands (12 R421, R422, R424): TOD_NS latches the seconds; set loads the clock with the
servo off and no cell RUNNING; a master lost in LOCKED begins the holdover with source 9, one lost while ACQUIRING leaves
the state that it was acquiring from (log entry 59); and past holdover_ms the state is HOLDOVER_EXCEEDED with source 10. -/
def Sys2Proof.Says.ClockAndServo : Prop :=
  ∀ (s : State), s.up = true → s.canon = true →
    (∃ t, exec .todRead s = .next t ∧ t.rdata = lo32 s.clkNs ∧ t.reg (aTIME + 4) = lo32 s.clkSec ∧
      t.reg (aTIME + 8) = hi32 s.clkSec ∧ WritesOnly [.regs, .rdata] s t) ∧
    (∀ v, (bitOf v 1 = true → exec (.timeSet v) s = .next (s.timeCtrl v)) ∧
      (bitOf v 1 = false → exec (.ptpEnableWrite v) s = .next (s.timeCtrl v)) ∧
      (bitOf v 0 = false → (s.timeCtrl v).ports.servo.state = .freerun ∧
        (bitOf v 1 = true → s.anyRunning = false → (s.timeCtrl v).clk = s.timeSet)) ∧
      (bitOf v 0 = true ∨ bitOf v 1 = false ∨ s.anyRunning = true → (s.timeCtrl v).clk = s.clk)) ∧
    (∀ m, s.portsLive = true → s.ptpEnabled = true → s.ports.servo.slave = some m →
      (s.ports.servo.heardAt + announceNs ≤ s.now →
        let w : Servo := { s.ports.servo with slave := none, good := 0, bad := 0 }
        (s.ports.servo.state = .locked → exec .announceTimeout s =
          .next ((s.setServo { w with state := .holdover, holdAt := some s.now }).edge 9)) ∧
        (s.ports.servo.state = .acquiring →
          (s.ports.servo.lost = true → exec .announceTimeout s = .next (s.setServo { w with state := .exceeded })) ∧
          (s.ports.servo.lost = false → s.ports.servo.holdAt.isSome = true →
            exec .announceTimeout s = .next (s.setServo { w with state := .holdover })) ∧
          (s.ports.servo.lost = false → s.ports.servo.holdAt = none → s.ports.servo.everLocked = false →
            exec .announceTimeout s = .next (s.setServo { w with state := .freerun })))) ∧
      (s.now < s.ports.servo.heardAt + announceNs → exec .announceTimeout s = .next s)) ∧
    (announceNs = 3 * 125_000_000) ∧
    (∀ t0, s.portsLive = true → s.ports.servo.holdAt = some t0 → s.ports.servo.lost = false →
      s.ports.servo.state = .holdover ∨ s.ports.servo.state = .acquiring →
      (t0 + (s.reg (aTIME + 0x28)).toNat * 1_000_000 < s.now → exec .holdoverExceeded s = .next
        ((s.setServo { s.ports.servo with
          state := .exceeded, lost := true, lostAt := s.clk, slave := none, good := 0, bad := 0 }).edge 10)) ∧
      (s.now ≤ t0 + (s.reg (aTIME + 0x28)).toNat * 1_000_000 → exec .holdoverExceeded s = .next s))


/-- The servo follows its master (12 R423, R424): an offset is the difference of ingress and origin times, less correction,
asymmetry and mean path delay, in ns to the nearest (log entry 90); while ACQUIRING one beyond 1 µs steps the clock where
that is allowed, and the sixteenth in a row within 50 ns locks; in LOCKED the sixteenth in a row beyond 1 µs begins the
holdover, with device source 9. -/
def Sys2Proof.Says.ServoFollows : Prop :=
  ∀ (s : State) (o : Int),
    let t := s.setReg (aTIME + 0x24) (lo32 (wrapOf 32 (satSigned 32 o)))
    let v := t.ports.servo
    (∀ (n sub : Nat) (rx : Int) (origin : Nat) (corr d : Int), s.ports.servo.path = some d →
      let ms := rx - 1000 * (origin : Int) - corr - s.asym n sub
      s.syncDiff n sub rx origin corr = (s.setServo { s.ports.servo with syncRx := none, msDiff := some ms }).takeSync
        ((ms - d + 500) / 1000)) ∧
    (v.state = .acquiring →
      (1000 < o.natAbs → (t.anyRunning = false ∨ v.mayStep = true → s.takeSync o =
          (t.setServo { v with good := 0, mayStep := false, syncRx := none, msDiff := none, delayTx := none }).stepClock
            ((t.clk : Int) - o).toNat) ∧
        (t.anyRunning = true → v.mayStep = false → s.takeSync o = t.setServo { v with good := 0 })) ∧
      (50 < o.natAbs → o.natAbs ≤ 1000 → s.takeSync o = t.setServo { v with good := 0 }) ∧
      (o.natAbs ≤ 50 → v.good < 15 → s.takeSync o = t.setServo { v with good := v.good + 1 }) ∧
      (o.natAbs ≤ 50 → 15 ≤ v.good → v.lost = false → s.takeSync o = (t.setServo { v with
        state := .locked, everLocked := true, good := 0, bad := 0, holdAt := none, lost := false,
        mayStep := false }).ropeLocked)) ∧
    (v.state = .locked →
      (o.natAbs ≤ 1000 → s.takeSync o = t.setServo { v with bad := 0 }) ∧
      (1000 < o.natAbs → v.bad < 15 → s.takeSync o = t.setServo { v with bad := v.bad + 1 }) ∧
      (1000 < o.natAbs → 15 ≤ v.bad → s.takeSync o = (t.setServo { v with
        state := .holdover, good := 0, bad := 0, holdAt := some t.now, slave := none }).edge 9))


/-- Compare and capture units (12 R426 to R428): enable arms a unit, late if its target has passed; an armed unit fires in
the first nanosecond at or past its target, with its source and its pulse, and moves its target on or clears its enable; an
armed capture unit records the local time of one event of its source: an edge of PPS_IN, or a cell's slot that it waits for
(which slot that is, log entry 91). -/
def Sys2Proof.Says.ComparesAndCaptures : Prop :=
  ∀ (s : State), s.up = true → s.canon = true →
    (∀ u v, u < 16 → let t := s.applyWrite (aCMP u + 0xC) v
      (s.rbit (aCMP u + 0xC) 0 = false → bitOf v 0 = true → 0 < t.cmpDiff u →
        exec (.cmpArm u v) s = .next (t.setRbit (aCMP u + 0xC) 3 true)) ∧
      (s.rbit (aCMP u + 0xC) 0 = true ∨ bitOf v 0 = false ∨ t.cmpDiff u ≤ 0 → exec (.cmpArm u v) s = .next t)) ∧
    (∀ u, u < 16 → s.rbit (aCMP u + 0xC) 0 = true →
      let t := ((s.setRbit (aCMP u + 0xC) 2 true).edge (16 + u)).pulse (s.rf (aCMP u + 0xC) 11 10)
        (s.rf (aCMP u + 0xC) 19 12)
      let per := s.rf (aCMP u + 8) 29 0
      let ns := s.rf (aCMP u) 29 0 + max 1000 per
      (s.cmpDiff u < 0 → exec (.cmpFire u) s = .next s) ∧
      (0 ≤ s.cmpDiff u → per = 0 → exec (.cmpFire u) s = .next (t.setRbit (aCMP u + 0xC) 0 false)) ∧
      (0 ≤ s.cmpDiff u → per ≠ 0 → exec (.cmpFire u) s = .next
        ((t.setReg (aCMP u) (lo32 (ns % 1_000_000_000))).setReg (aCMP u + 4)
          (lo32 ((s.reg (aCMP u + 4)).toNat + ns / 1_000_000_000))))) ∧
    (∀ us, (s.pulse 1 us).ports.pps0 = some (s.now + 1000 * max 1 us) ∧
      (s.pulse 2 us).ports.pps1 = some (s.now + 1000 * max 1 us) ∧ s.pulse 0 us = s) ∧
    (∀ e,
      (s.ports.pps0 = some e →
        (e ≤ s.now → exec (.ppsPulseEnd 0) s = .next { s with ports := { s.ports with pps0 := none } }) ∧
        (s.now < e → exec (.ppsPulseEnd 0) s = .next s)) ∧
      (s.ports.pps1 = some e →
        (e ≤ s.now → exec (.ppsPulseEnd 1) s = .next { s with ports := { s.ports with pps1 := none } }) ∧
        (s.now < e → exec (.ppsPulseEnd 1) s = .next s))) ∧
    (∀ c v, c < 8 → bitOf v 0 = true → ∃ t, exec (.captureArm c v) s = .next t ∧ (∃ n, (c, n) ∈ t.ports.armed) ∧
      t.rbit (aCAP c + 8) 31 = false ∧ WritesOnly [.regs, .ports] s t) ∧
    (∀ c t, (s.captured c t).reg (aCAP c) = lo32 (t % 1_000_000_000) ∧
      (s.captured c t).reg (aCAP c + 4) = lo32 (t / 1_000_000_000) ∧ (s.captured c t).rbit (aCAP c + 8) 31 = true ∧
      ∀ n, (c, n) ∉ (s.captured c t).ports.armed) ∧
    (∀ c n, (c, n) ∈ s.ports.armed → s.rf (aCAP c + 8) 3 1 = 1 →
      exec (.captureEvent c) s = .next (s.captured c s.clk)) ∧
    (∀ c, (∀ n, (c, n) ∉ s.ports.armed) ∨ s.rf (aCAP c + 8) 3 1 ≠ 1 → exec (.captureEvent c) s = .next s) ∧
    (∀ src cell slot t, ∀ e ∈ s.ports.armed, s.rf (aCAP e.1 + 8) 3 1 = src → s.rf (aCAP e.1 + 8) 24 16 = cell →
      e.2 ≤ slot → (s.capture src cell slot t).rbit (aCAP e.1 + 8) 31 = true ∧
        ∀ n, (e.1, n) ∉ (s.capture src cell slot t).ports.armed)


/-- The clock, its servo, and compare and capture units.
The model's choices in it: log entries 59, 60, 90 and 91. -/
def Obligations.TimeIsKept : Prop :=
  Says.ClockAndServo ∧ Says.ServoFollows ∧ Says.ComparesAndCaptures

/-- The firmware watchdog (13 R433): heartbeats restart it, and without one for 4 ms outside an activation source 11 is sent
and the quiesce is recorded and counted; from then on no work of the device proceeds, and no frame leaves any port. -/
def Sys2Proof.Says.WatchdogQuiesces : Prop :=
  ∀ (s : State), s.portsLive = true →
    exec .ryrnHeartbeat s = .next (s.setSec (fun x => { x with heartbeatAt := s.now })) ∧
    (s.activating = false → s.sec.heartbeatAt + 4_000_000 ≤ s.now → ∃ t, exec .watchdogQuiesce s = .next t ∧
      t = ((s.edge 11).record 0x0502 siteDevice 0 0).setSec (fun x => { x with
        quiesced := true, quiesces := min 0xFFFF (x.quiesces + 1) }) ∧ t.awake = false ∧ t.portsLive = false ∧
      ∀ n sub, exec (.frameTransmit n sub) t = .next t) ∧
    (s.activating = true ∨ s.now < s.sec.heartbeatAt + 4_000_000 → exec .watchdogQuiesce s = .next s)


/-- Firmware updates (13 R434 to R439): a descriptor that a check fails is refused with its word; STAGE empties the inactive
bank, then stages an image that checks or rejects it with its cause: one that cannot be read, of another size than its
header's, too large or of an svn above 63, not signed under the root or of another digest, or of an svn below min_svn;
DISCARD empties a staged bank; an ACTIVATE that is accepted activates; it commits within 250 ms, or rolls back. -/
def Sys2Proof.Says.UpdatesRun : Prop :=
  ∀ (s : State), s.awake = true →
    (∀ d w, s.nextStart 0 = some d → d.op = 0x32 → s.fwBad d.words = some w →
      ∀ c ∈ [Instr.stage none, .activate, .discard], exec c s = .next (s.finishDesc 0 d.idx (Result.bad w))) ∧
    (∀ d act, s.nextStart 0 = some d → d.op = 0x32 → s.fwBad d.words = none → wfield d.words 4 7 0 = act →
      (act = 1 → exec (.stage none) s = .next (((s.startDesc 0 d.idx).setSec (fun x =>
        { x.setInactive none with actIdx := d.idx, stagedSvn := 0 })).setFw .staging)) ∧
      (act = 2 → exec .activate s = .next (((s.startDesc 0 d.idx).setSec (fun x =>
        { x with
          actIdx := d.idx, actAt := s.now, raiseSvn := decide (wfield d.words 8 0 0 = 1) })).setFw .activating)) ∧
      (act = 3 → (s.sec.fw = .staged → exec .discard s = .next
          (((s.setSec (fun x => { x.setInactive none with stagedSvn := 0 })).setFw .idle).finishDesc 0 d.idx
            (Result.of .success))) ∧
        (s.sec.fw ≠ .staged → exec .discard s = .next (s.finishDesc 0 d.idx (Result.of .success))))) ∧
    (s.sec.fw = .staging → ∀ r : FwRead,
      (r.cause s.fuses = 0 → exec (.stage (some r)) s = .next
        (((s.setSec (fun x => { x.setInactive (some ⟨sha256 r.body, r.header.svn⟩) with
          stagedSvn := r.header.svn })).setFw .staged).finishDesc 0 s.sec.actIdx (Result.of .success))) ∧
      (r.cause s.fuses ≠ 0 → exec (.stage (some r)) s = .next
        (((s.setSec (fun x => { x with cause := r.cause s.fuses, last := .rejected })).setFw .idle).finishDesc
          0 s.sec.actIdx (Result.of .imageRejected)))) ∧
    (s.sec.fw ≠ .staging → ∀ r, exec (.stage (some r)) s = .next s) ∧
    (∀ r : FwRead, let h := r.header
      let form := h.size = r.body.length ∧ h.size ≤ 33_554_432 ∧ h.svn ≤ 63
      let signed := Config.certified s.fuses.rootKey h.cert h.signer = true ∧
        Config.ecdsaVerify h.signer (Config.signedHeader h.digest h.size h.svn) h.sig = true ∧
        h.digest = sha256 r.body
      (r.readOk = false → r.cause s.fuses = 4) ∧
      (r.readOk = true → ¬form → r.cause s.fuses = 3) ∧
      (r.readOk = true → form → ¬signed → r.cause s.fuses = 1) ∧
      (r.readOk = true → form → signed → h.svn < s.fuses.minSvn → r.cause s.fuses = 2) ∧
      (r.cause s.fuses = 0 ↔ r.readOk = true ∧ form ∧ signed ∧ s.fuses.minSvn ≤ h.svn)) ∧
    (s.activating = true → ∀ im, s.sec.inactive = some im →
      (s.now ≤ s.sec.actAt + 250_000_000 → ∃ t, exec .fwCommit s = .next t ∧ t.sec.fw = .idle ∧
        t.sec.last = .committed ∧ t.sec.running = im ∧ t.sec.activeB = !s.sec.activeB ∧ t.sec.held = [] ∧
        t.fuses = { s.fuses with
          minSvn := if s.sec.raiseSvn then max s.fuses.minSvn im.svn else s.fuses.minSvn }) ∧
      (s.sec.actAt + 250_000_000 ≤ s.now → ∃ t, exec .fwRollback s = .next t ∧ t.sec.fw = .idle ∧
        t.sec.last = .rolledBack ∧ t.sec.cause = 5 ∧ t.sec.running = s.sec.running ∧
        t.sec.activeB = s.sec.activeB ∧ t.sec.held = [])) ∧
    (s.sec.fw ≠ .activating → exec .fwCommit s = .next s ∧ exec .fwRollback s = .next s)


/-- The firmware watchdog quiesces, and firmware updates run.
The model's choices in it: log entries 61, 62 and 87. -/
def Obligations.WatchdogAndUpdates : Prop :=
  Says.WatchdogQuiesces ∧ Says.UpdatesRun

/-- No command lowers min_svn, and none but a commit changes what the fuses hold (13 R439). -/
def Obligations.MinSvnNeverFalls : Prop :=
  ∀ (c : Instr) (s t : State), exec c s = .next t →
    s.fuses.minSvn ≤ t.fuses.minSvn ∧ (c ≠ .fwCommit → t.fuses = s.fuses)


/-- The connection of a mailbox and its certificates (13 R442, R443): a function has its mailbox once the boot has ended,
and is told to retry before (15 R483); its connection advances request by request, with SPDM 1.2, the device's
capabilities and its algorithms, all of which the requester must offer (log entry 87), and a request that comes before it
is negotiated is an error; certificates and digests are of the two chains. -/
def Sys2Proof.Says.MailboxesConnect : Prop :=
  ∀ (s : State) (fn : Nat),
    (s.up = false → s.power.stage = .selfTest ∨ s.power.stage = .boot → s.power.inReset = false →
      exec (.getVersion fn) s = .next { s with outs := .configRetry :: s.outs }) ∧
    (s.up = true → s.numVfs < fn ∨ 64 < fn → exec (.getVersion fn) s = .next s) ∧
    (s.up = true → fn ≤ s.numVfs → fn ≤ 64 →
      let m := s.box fn
      let refused := fun e => s.spdmOut fn (.error e)
      exec (.getVersion fn) s = .next ((s.setBox fn { m with stage := .versioned }).spdmOut fn (.version [(1, 2)])) ∧
      (m.stage ≠ .start → exec (.getCapabilities fn) s = .next ((s.setBox fn { m with stage := .capable }).spdmOut fn
        (.capabilities [.certificates, .challenge, .signedMeasurements, .keyExchange, .encryption, .authentication,
          .heartbeat, .keyUpdate]))) ∧
      (m.stage = .start → exec (.getCapabilities fn) s = .next (refused .unexpectedRequest)) ∧
      (∀ algs, m.stage = .capable ∨ m.stage = .negotiated →
        ((∀ a ∈ [SpdmAlg.ecdsaP256, .sha256, .secp256r1, .aes256Gcm], a ∈ algs) →
          exec (.negotiateAlgorithms fn algs) s = .next ((s.setBox fn { m with stage := .negotiated }).spdmOut fn
            (.algorithms [.ecdsaP256, .sha256, .secp256r1, .aes256Gcm]))) ∧
        ((∃ a ∈ [SpdmAlg.ecdsaP256, .sha256, .secp256r1, .aes256Gcm], a ∉ algs) →
          exec (.negotiateAlgorithms fn algs) s = .next (refused .invalidRequest))) ∧
      (m.stage = .negotiated →
        exec (.getDigests fn) s = .next (s.spdmOut fn (.digests (sha256 (s.chain 0)) (sha256 (s.chain 1)))) ∧
        (∀ slot off len, let ch := s.chain slot
          (slot ≤ 1 → off ≤ ch.length → exec (.getCertificate fn slot off len) s = .next
            (s.spdmOut fn (.certificate slot ((ch.drop off).take len) (ch.length - off - ((ch.drop off).take len).length)))) ∧
          (1 < slot ∨ ch.length < off → exec (.getCertificate fn slot off len) s = .next (refused .invalidRequest)))) ∧
      (m.stage ≠ .negotiated → ∀ c ∈ [Instr.getDigests fn, .getCertificate fn 0 0 0, .challenge fn 0 [],
          .getMeasurements fn 1 false [], .keyExchange fn [], .finish fn 0, .spdmHeartbeat fn 0, .keyUpdate fn 0,
          .endSession fn 0], exec c s = .next (refused .unexpectedRequest)))


/-- Keys and certificates come from the device secret (13 R441, R442): each private key is the HMAC-SHA-256 of the secret
over its label, the Alias key's over the firmware measurement and svn too; the key_id is the first half of the digest of the
binding key's uncompressed public key; the DeviceID certificate names the Basecamp die in hexadecimal; the Alias certificate
carries the measurement and svn, and the chains end in Alias and Binding. Labels, curve operations and the encoding of a
certificate are free (log entry 87). -/
def Sys2Proof.Says.KeysAreDerived : Prop :=
  (∀ (f : Fuses) (fw : FwImage),
    f.key .leaf fw = hmac f.secret (1 :: Config.keyLabel 1 ++ (fw.digest ++ [BitVec.ofNat 8 fw.svn])) ∧
    f.key .deviceId fw = hmac f.secret (0 :: Config.keyLabel 0) ∧
    f.key .binding fw = hmac f.secret (2 :: Config.keyLabel 2) ∧
    f.keyId fw = (sha256 (4 :: Config.p256Public (f.key .binding fw))).take 16 ∧
    (∀ fw' : FwImage, f.key .binding fw' = f.key .binding fw ∧ f.chain fw' 1 = f.chain fw 1) ∧
    (∀ d ds, f.dies = d :: ds → ∃ dev, dev = f.key .deviceId fw ∧
      f.chain fw 0 = Config.rootCert f.rootKey ++ Config.productCert ++
        certificate Config.productSign 0 (dieSerial d) (publicKey dev) [] ++
        certificate (Config.ecdsaSign dev) 1 [] (publicKey (f.key .leaf fw)) (fw.digest ++ [BitVec.ofNat 8 fw.svn]))) ∧
  (∀ d : DieFuse, (dieSerial d).length = 19)


/-- Measurements (13 R443 to R447): a request is answered at once outside an activation and held during one; a block of an
index is its number, the specification DMTF, its size, its type with bit 7 for every index but 1, and the value; a virtual
function's mailbox shows the device's indices and its own partition's record, and any other index is an error; a
partition that is not RUNNING or STOPPED is reported at once with no image. -/
def Sys2Proof.Says.MeasurementsAnswer : Prop :=
  ∀ (s : State) (fn : Nat), s.up = true → fn ≤ s.numVfs → fn ≤ 64 → (s.box fn).stage = .negotiated →
    (∀ i signed nonce, (s.activating = false → exec (.getMeasurements fn i signed nonce) s =
        .next (s.spdmOut fn (s.attest fn (.measurements i signed nonce)))) ∧
      (s.activating = true → exec (.getMeasurements fn i signed nonce) s = .next (s.setSec (fun x => { x with
        held := x.held ++ [(fn, .measurements i signed nonce)] })))) ∧
    (∀ slot nonce,
      (s.activating = false →
        (slot ≤ 1 → exec (.challenge fn slot nonce) s = .next
          (s.spdmOut fn (.challengeAuth slot (sha256 (s.chain slot)) (s.sign (sha256 (s.chain slot) ++ nonce))))) ∧
        (1 < slot → exec (.challenge fn slot nonce) s = .next (s.spdmOut fn (.error .invalidRequest)))) ∧
      (s.activating = true → exec (.challenge fn slot nonce) s = .next (s.setSec (fun x => { x with
        held := x.held ++ [(fn, .challenge slot nonce)] })))) ∧
    (∀ i, let v := s.measurement i
      s.measBlock i = BitVec.ofNat 8 i :: 1 :: leBytes 2 (v.length + 3) ++
        BitVec.ofNat 8 (Config.measType i % 128 + (if i = 1 then 0 else 128)) :: leBytes 2 v.length ++ v) ∧
    (s.measurement 1 = s.sec.running.digest ++ [BitVec.ofNat 8 s.sec.running.svn]) ∧
    (∀ p, (s.part p).state ≠ .running → (s.part p).state ≠ .stopped →
      (s.partRecord p).length = 64 ∧ (s.partRecord p)[3]? = some 0 ∧
      (s.partRecord p)[0]? = some (BitVec.ofNat 8 (s.part p).state.code)) ∧
    (0 < fn → ∀ i signed nonce,
      (∀ bs sg, s.attest fn (.measurements i signed nonce) = .measurements bs sg →
        ∀ e ∈ bs, e.2 = s.measBlock e.1 ∧ ((1 ≤ e.1 ∧ e.1 ≤ 5) ∨ e.1 = 0x10 + (fn - 1))) ∧
      (5 < i → i ≠ 0x10 + (fn - 1) → i ≠ 0xFF →
        s.attest fn (.measurements i signed nonce) = .error .invalidRequest)) ∧
    (fn = 0 → ∀ i signed nonce, 1 ≤ i ∧ i ≤ 5 ∨ 0x10 ≤ i ∧ i < 0x50 →
      s.attest 0 (.measurements i signed nonce) = .measurements [(i, s.measBlock i)]
        (if signed then some (s.sign (s.measBlock i ++ nonce)) else none))


/-- Sessions (13 R448, R449): a key exchange opens one of at most four, FINISH establishes it, the session requests act on
it, a request outside a session is an error, IDE keys need a session of the physical function's, and no request changes
another mailbox. -/
def Sys2Proof.Says.SessionsRun : Prop :=
  ∀ (s : State) (fn : Nat), s.up = true → fn ≤ s.numVfs → fn ≤ 64 → (s.box fn).stage = .negotiated →
    let m := s.box fn
    (∀ share, (∀ i < 4, m.sessions.any (fun x => decide (x.id = i)) = true) →
      exec (.keyExchange fn share) s = .next (s.spdmOut fn (.error .sessionLimit))) ∧
    (∀ share i, i < 4 → m.sessions.any (fun x => decide (x.id = i)) = false →
      (∀ j < i, m.sessions.any (fun x => decide (x.id = j)) = true) → exec (.keyExchange fn share) s = .next
        (((s.drawn.setBox fn { m with sessions := m.sessions ++ [⟨i, false, 0, s.now⟩] })).spdmOut fn
          (.keyExchange i (Config.dheShare s.free) (s.sign (share ++ Config.dheShare s.free))))) ∧
    (∀ id x, m.sessions.find? (fun y => decide (y.id = id) && decide (y.established = false)) = some x →
      exec (.finish fn id) s = .next ((s.setBox fn { m with
        sessions := m.sessions.filter (fun y => decide (y.id ≠ id)) ++ [{ x with established := true }] }).spdmOut fn
          .finish)) ∧
    (∀ id x, m.sessions.find? (fun y => decide (y.id = id) && decide (y.established = true)) = some x →
      let rest := m.sessions.filter (fun y => decide (y.id ≠ id))
      exec (.spdmHeartbeat fn id) s = .next ((s.setBox fn { m with
        sessions := rest ++ [{ x with heardAt := s.now }] }).spdmOut fn .heartbeatAck) ∧
      exec (.keyUpdate fn id) s = .next ((s.setBox fn { m with
        sessions := rest ++ [{ x with keyGen := x.keyGen + 1 }] }).spdmOut fn .keyUpdateAck) ∧
      exec (.endSession fn id) s = .next ((s.setBox fn { m with sessions := rest }).spdmOut fn .endSessionAck)) ∧
    (∀ id, m.sessions.find? (fun y => decide (y.id = id) && decide (y.established = false)) = none →
      exec (.finish fn id) s = .next (s.spdmOut fn (.error .invalidSession))) ∧
    (∀ id, m.sessions.find? (fun y => decide (y.id = id) && decide (y.established = true)) = none →
      ∀ c ∈ [Instr.spdmHeartbeat fn id, .keyUpdate fn id, .endSession fn id],
        exec c s = .next (s.spdmOut fn (.error .invalidSession))) ∧
    (fn = 0 → ∀ id key, s.hasSession 0 id = true →
      exec (.ideKm id .io key) s = .next ((s.setSec (fun x => { x with ideIo := some key })).spdmOut 0 .ideAck) ∧
      exec (.ideKm id .cacheMem key) s = .next
        ((s.setSec (fun x => { x with ideMem := some key })).spdmOut 0 .ideAck)) ∧
    (fn = 0 → ∀ id st key, s.hasSession 0 id = false →
      exec (.ideKm id st key) s = .next (s.spdmOut 0 (.error .invalidSession)))


/-- A partition is locked and then runs over an established session of its virtual function while it is RUNNING, and not
without one; an error of a bound partition stays: no command of its environment leads out of it (13 R450). -/
def Sys2Proof.Says.EnvironmentsBind : Prop :=
  ∀ (s : State) (p : Nat), s.up = true → p < 64 →
    ((s.part p).state = .running → (s.box (p + 1)).sessions.any (fun x => x.established) = true →
      ((s.part p).tsp = 0 → exec (.tspLock p) s =
        .next ((s.setPart p { s.part p with tsp := 1 }).spdmOut (p + 1) .tspAck)) ∧
      ((s.part p).tsp = 1 → ∀ stream, exec (.tspRun p stream) s =
        .next ((s.setPart p { s.part p with tsp := 2, stream := stream }).spdmOut (p + 1) .tspAck))) ∧
    ((s.part p).state ≠ .running ∨ (s.box (p + 1)).sessions.any (fun x => x.established) = false →
      exec (.tspLock p) s = .next s ∧ ∀ stream, exec (.tspRun p stream) s = .next s) ∧
    ((s.part p).tsp = 1 ∨ (s.part p).tsp = 2 →
      exec (.tspError p) s = .next (s.setPart p { s.part p with tsp := 3 }) ∧ exec (.tspLock p) s = .next s) ∧
    ((s.part p).tsp = 0 → exec (.tspError p) s = .next s) ∧
    ((s.part p).tsp = 3 → exec (.tspLock p) s = .next s ∧ (∀ st, exec (.tspRun p st) s = .next s) ∧
      exec (.tspError p) s = .next s)


/-- Mailboxes connect, measure and hold sessions; environments bind.
The model's choices in it: log entries 63, 64 and 87. -/
def Obligations.MailboxesAnswer : Prop :=
  Says.MailboxesConnect ∧ Says.KeysAreDerived ∧ Says.MeasurementsAnswer ∧ Says.SessionsRun ∧ Says.EnvironmentsBind

/-- Known-answer tests in the background (14 R466, R470 to R472): `backgroundKat` tests, of the eligible units and spares
of an island, one whose pass in the present bins is oldest, and none while the limiter withholds non-radio work; a pass
is counted and kept, an abandoned test counts as neither, and a mismatch is counted, recorded and run again. A unit that
a partition owns, a lease holds or work runs on is never tested. A spare whose mismatch is lasting is declared, and
serves no more. Which unit is tested when and what its test shows are operands (log entry 65). -/
def Sys2Proof.Says.BackgroundTestsRun : Prop :=
  ∀ (s : State) (t : KatTarget), s.awake = true →
    (s.power.withheld = false → s.oldest t = true → exec (.backgroundKat t .pass) s = .next ((s.countKat false).notePass t) ∧
      exec (.backgroundKat t .mismatchPass) s = .next (((s.katMismatch t).countKat false).notePass t) ∧
      exec (.backgroundKat t .mismatchTwice) s = .next ((s.katMismatch t).katMismatch t) ∧
      exec (.backgroundKat t .mismatchAbandoned) s = .next (s.katMismatch t) ∧
      exec (.backgroundKat t .abandoned) s = .next s) ∧
    (s.oldest t = true → s.eligible t = true ∧ ∀ q,
      q ∈ s.islandTargets (s.targetPhys t).die (s.targetPhys t).island → s.eligible q = true → s.lastPass t ≤ s.lastPass q) ∧
    (s.eligible t = false → ∀ r, exec (.backgroundKat t r) s = .next s) ∧
    (∀ u, t = .unit u → s.eligible t = true → s.unitOwner u = none ∧ s.unitBusy u = false ∧
      ∀ l ∈ s.leases, u ∉ l.units) ∧
    ((s.countKat false).notePass t).lastPass t = s.now ∧
    (∀ (v : State) p, let w := v.countKat true
      let e : FaultEvt := ⟨.unit p, 0x0102, (w.physBins p).1, (w.physBins p).2, w.now⟩
      let x := (w.record 0x0102 (siteSpare p (w.spareIdx p)) (lo32 p.island) (degC (w.physIsland p).temp)).addFault e
      (w.lastingWith e = false → v.katMismatch (.spare p) = x) ∧
      (w.lastingWith e = true → p ∉ w.units.lostSpares → v.katMismatch (.spare p) = x.failSpare p ∧
        p ∈ (x.failSpare p).units.lostSpares ∧ (x.failSpare p).reg (aEVR + 0x28) = siteSpare p (x.spareIdx p) ∧
        ∀ q ∈ (x.failSpare p).units.selfTests, .spare p ∈ q.targets → q.declared = true)) ∧
    (s.power.withheld = true → ∀ r, exec (.backgroundKat t r) s = .next s)


/-- Self-test requests (14 R473, R474): the next descriptor of the admin ring, of op 0x31, starts by `katUnit`, `katClass`,
`monitorCheck` or `marginCheck`, whichever its kind names, when its checks pass; one that fails a check, names a retired
unit, or has its record outside the write windows completes at once; at most 16 run. Runs take place on units that are
eligible: passed, failed and abandoned runs count apart, and an abandoned one is run again. A monitor above the real path
fires source 3 with its record, and for a radio island declares a pace emergency; a line margin below 10 % is a fault
event of the line, counted as a failed run. At 60 s a request that is not complete ends by `selftestDeferred` with
DEFERRED and its record; the record holds declared and retired as 14 R474 lays them out. Log entry 65. -/
def Sys2Proof.Says.TestRequestsRun : Prop :=
  ∀ (s : State) (idx : Nat), s.awake = true →
    (∀ d kind, s.nextStart 0 = some d → d.op = 0x31 → d.idx = idx →
      descFail d.words (s.selfTestChecks d.words) = none → wfield d.words 4 7 0 = kind →
      s.requestRetired d.words = false → s.windowOk 0x7F (wpair d.words 8) 32 = true → s.units.selfTests.length < 16 →
      let runs := wfield d.words 6 15 0
      let q : SelfTest := ⟨idx, kind, s.requestTargets d.words, runs, 0,
        if kind ≤ 2 then (s.requestTargets d.words).length * runs else runs, 0, 0, 0, false, false, 0, 0, none⟩
      let v := s.startDesc 0 idx
      let t := ({ v with units := { v.units with selfTests := v.units.selfTests ++ [q] } } : State).endTest idx
      ∀ e ∈ [(1, Instr.katUnit idx []), (2, .katClass idx []), (3, .monitorCheck idx []), (4, .marginCheck idx [])],
        kind = e.1 → exec e.2 s = .next t) ∧
    (∀ d, s.nextStart 0 = some d → d.op = 0x31 → d.idx = idx →
      ∀ e ∈ [(1, Instr.katUnit idx []), (2, .katClass idx []), (3, .monitorCheck idx []), (4, .marginCheck idx [])],
      (∀ w, descFail d.words (s.selfTestChecks d.words) = some w →
        exec e.2 s = .next (s.finishDesc 0 idx (Result.bad w))) ∧
      (descFail d.words (s.selfTestChecks d.words) = none → wfield d.words 4 7 0 = e.1 →
        (s.requestRetired d.words = true →
          exec e.2 s = .next (s.finishDesc 0 idx (Result.of .engineReserved))) ∧
        (s.requestRetired d.words = false → s.windowOk 0x7F (wpair d.words 8) 32 = false →
          let r : Result := { status := .hostWindowFault, d4 := lo32 (wpair d.words 8), d5 := hi32 (wpair d.words 8) }
          exec e.2 s = .next (s.finishDesc 0 idx r)) ∧
        (s.requestRetired d.words = false → s.windowOk 0x7F (wpair d.words 8) 32 = true →
          16 ≤ s.units.selfTests.length → exec e.2 s = .next s))) ∧
    ((∀ d, s.nextStart 0 = some d → d.idx ≠ idx) → ∀ q, s.selfTest idx = some q →
      (q.kind = 1 → ∀ o, exec (.katUnit idx [o]) s = .next (s.testRun idx o)) ∧
      (q.kind = 2 → ∀ o, exec (.katClass idx [o]) s = .next (s.testRun idx o)) ∧
      (q.kind = 3 → ∀ m, exec (.monitorCheck idx [m]) s = .next (s.monitorRun idx m)) ∧
      (q.kind = 4 → ∀ l, exec (.marginCheck idx [l]) s = .next (s.marginRun idx l)) ∧
      (∀ g, q.targets[q.done / q.runs]? = some g → s.eligible g = true → s.power.withheld = false →
        s.testRun idx .pass = (((s.katRun g .pass).putTest { q with
          passed := q.passed + 1, done := q.done + 1
          vbin := (s.physBins (s.targetPhys g)).1, tbin := (s.physBins (s.targetPhys g)).2 }).endTest idx) ∧
        s.testRun idx .abandoned = ((s.putTest { q with abandoned := q.abandoned + 1 }).endTest idx) ∧
        (∀ o, o = .mismatchPass ∨ o = .mismatchTwice ∨ o = .mismatchAbandoned →
          let v := s.katRun g o
          let x := (v.selfTest idx).getD q
          s.testRun idx o = ((v.putTest { x with
            failed := x.failed + 1, done := x.done + 1
            vbin := (s.physBins (s.targetPhys g)).1, tbin := (s.physBins (s.targetPhys g)).2 }).endTest idx))) ∧
      (∀ m d i, d = wfield (s.testWords idx) 4 16 16 → i = wfield (s.testWords idx) 5 2 0 →
        s.islandTestable d i = true → q.done < q.total → s.power.withheld = false →
        let x := s.island d i
        let base : SelfTest := { q with
          done := q.done + 1, vbin := vBin x.mv, tbin := tBin x.temp, margin := minMargin q.margin m }
        (0 ≤ m → s.monitorRun idx m = ((s.putTest { base with passed := q.passed + 1 }).endTest idx)) ∧
        (m < 0 → let w := (s.record 0x0108 (siteIsland d i) 0 m).edge 3
          (x.radio = false → s.monitorRun idx m = ((w.putTest { base with failed := q.failed + 1 }).endTest idx)) ∧
          (x.radio = true → let e := w.emerg d
            let on := w.emergIn d .pace
            s.monitorRun idx m = ((((w.setEmerg d { e with monitors := (if on then e.monitors else 0) ||| 2 ^ i }).declareEmerg
              d .pace ((if on then e.islands else 0) ||| 2 ^ i)).putTest { base with failed := q.failed + 1 }).endTest idx)))) ∧
      (∀ ls h, h = wfield (s.testWords idx) 5 5 0 → s.halfOwner h = none → s.radioHalf h = false → q.done < q.total →
        s.power.withheld = false →
        let low := ls.filter (fun l => decide (l.2.2 < 100))
        let v := low.foldl (fun v l => v.lineFault ⟨h / 2, 16 * (h % 2) + l.1 % 16, l.2.1⟩ l.2.2) s
        s.marginRun idx ls = ((v.putTest { q with
          done := q.done + 1
          passed := if low = [] then q.passed + 1 else q.passed
          failed := if low = [] then q.failed else q.failed + 1
          vbin := 0, tbin := tBin (s.stackT (h / 2))
          margin := ls.foldl (fun m l => minMargin m (Int.ofNat l.2.2)) q.margin }).endTest idx)) ∧
      (∀ g o, q.targets[q.done / q.runs]? = some g → s.eligible g = false → s.testRun idx o = s)) ∧
    (∀ d q, (s.ring 0).descs.find? (fun d => decide (d.idx = idx) && decide (d.op = 0x31) && !d.done) = some d →
      s.selfTest idx = some q → d.arrival + 60_000_000_000 ≤ s.ptp → exec (.selftestDeferred idx) s = .next
        ((s.record 0x0503 (s.testSite d.words (some q)).1 (s.testSite d.words (some q)).2
          (Int.ofNat (q.total - q.done))).finishTest q (wpair d.words 8) .deferred)) ∧
    (∀ q : SelfTest, ∀ st, s.windowOk 0x7F st 32 = true →
      s.finishTest q st .deferred = ((({ s with units := { s.units with
        selfTests := s.units.selfTests.filter (fun p => decide (p.idx ≠ q.idx)) } } : State)).putHost st (q.bytes true)).finishDesc 0 q.idx (Result.of .deferred)) ∧
    (∀ (q : SelfTest) b, (q.bytes b).length = 32 ∧
      (q.bytes b).take 12 = leBytes 4 q.passed ++ leBytes 4 q.failed ++ leBytes 4 q.abandoned ∧
      (q.vbin < 256 → q.tbin < 256 → ∃ w, ((q.bytes b).drop 12).take 4 = leBytes 4 w ∧
        w.testBit 0 = q.declared ∧ w.testBit 1 = q.retired ∧ w.testBit 2 = b ∧ w / 2 ^ 8 % 256 = q.vbin ∧
        w / 2 ^ 16 = q.tbin) ∧
      ((q.bytes b).drop 16).take 4 = leBytes 4 (wrapOf 32 (q.margin.getD 0)))


/-- Known-answer tests in the background, and self-test requests.
The model's choices in it: log entry 65. -/
def Obligations.TestsRun : Prop :=
  Says.BackgroundTestsRun ∧ Says.TestRequestsRun

/-- The Summit register (14 R476, R479, R480): an event like the last record merges into it and raises its histogram bin,
another appends, a full register counts it as missed and fires source 5 once, and a freeze holds up to 256; `evrFreeze`,
`evrUnfreeze` (the held events enter in arrival order) and `evrClear` (only while frozen, keeping the held events) act as
written; with enable = 0 nothing is recorded, held or missed. -/
def Sys2Proof.Says.SummitEventsRecord : Prop :=
  ∀ (s : State), s.up = true →
    exec .evrFreeze s = .next (s.setRbit aEVR 1 true) ∧
    exec .evrUnfreeze s = .next ((s.setRbit aEVR 1 false).applyHeld) ∧
    (s.rbit aEVR 1 = true → exec .evrClear s = .next { s with summit := { s.summit with
      recs := [], full := false } }) ∧
    (s.rbit aEVR 1 = false → exec .evrClear s = .next s) ∧
    (s.rbit aEVR 0 = false → ∀ code site ext v, s.record code site ext v = s) ∧
    (s.rbit aEVR 0 = true → s.rbit aEVR 1 = true → ∀ code site ext v,
      (s.record code site ext v).summit.recs = s.summit.recs ∧
      (s.summit.held.length < 256 → (s.record code site ext v).summit.held =
        s.summit.held ++ [⟨code, site, ext, v, s.ptp⟩]) ∧
      (256 ≤ s.summit.held.length → s.record code site ext v = s.bumpRf (aEVR + 0xC) 31 0 1)) ∧
    (∀ e rs r, s.summit.recs = rs ++ [r] →
      (r.same e = true → ∃ r', (s.summitApply e).summit.recs = rs ++ [r'] ∧ r'.code = r.code ∧ r'.site = r.site ∧
        r'.ext = r.ext ∧ r'.first = r.first ∧ r'.last = e.time ∧ r'.count = min 0xFFFF_FFFF (r.count + 1) ∧
        r'.min = min r.min e.value ∧ r'.max = max r.max e.value ∧
        r'.hist = r.hist.set (summitBin e.code e.value) (min 4095 (r.hist.getD (summitBin e.code e.value) 0 + 1))) ∧
      (r.same e = false → s.summit.recs.length < 262_144 → ∃ r', (s.summitApply e).summit.recs = rs ++ [r, r'] ∧
        r'.same e = true ∧ r'.count = 1 ∧ r'.first = e.time ∧ r'.last = e.time ∧ r'.min = e.value ∧ r'.max = e.value ∧
        r'.hist = (List.replicate 16 0).set (summitBin e.code e.value) 1) ∧
      (r.same e = false → 262_144 ≤ s.summit.recs.length → (s.summitApply e).summit.recs = s.summit.recs ∧
        (s.summitApply e).summit.full = true ∧
        (s.summit.full = true → s.summitApply e = s.bumpRf (aEVR + 0xC) 31 0 1) ∧
        (s.summit.full = false → ∃ t : State, t.summit = { s.summit with full := true } ∧
          (∀ a, t.reg a = (s.bumpRf (aEVR + 0xC) 31 0 1).reg a) ∧ s.summitApply e = t.edge 5))) ∧
    (∀ e, s.summit.recs = [] → ∃ r', (s.summitApply e).summit.recs = [r'] ∧ r'.same e = true ∧ r'.count = 1) ∧
    (s.rbit aEVR 0 = true → s.rbit aEVR 1 = false → ∀ code site ext v,
      s.record code site ext v = s.summitApply ⟨code, site, ext, v, s.ptp⟩)


/-- The records never exceed 262,144, and neighbours differ in code or site, because only the last record merges
(14 R479). -/
def Sys2Proof.Says.SummitRecordsStayApart : Prop :=
  ∀ (s : State) (e : SummitEvt),
    let ok : List SummitRec → Prop := fun l => l.length ≤ 262_144 ∧
      ∀ i, i + 1 < l.length → ∀ a b, l[i]? = some a → l[i + 1]? = some b →
        ¬(a.code = b.code ∧ a.site = b.site ∧ a.ext = b.ext)
    ok s.summit.recs → ok (s.summitApply e).summit.recs ∧ ok (s.applyHeld).summit.recs


/-- The Summit register merges, appends, freezes and clears.
The model's choices in it: log entry 66. -/
def Obligations.SummitRecords : Prop :=
  Says.SummitEventsRecord ∧ Says.SummitRecordsStayApart

/-- Power-up and start-up (15 R483, 13 R435, 14 R475, 01 R45): `auxPowerUp` starts the security island and loads the
fuses, a bad block of which stops the start; `regulatorStart` and `powerGood` bring the rails up; `resetRelease` samples
the straps, starts the self-test and, unless it is strapped off, Rope bring-up; `startupSelftest` repairs SRAM rows after
a cold cause, replaces wires and lines, substitutes or retires the units that fail and declares the spares that fail, and
ends in the boot, and one past its bound stops the start or, in a cold start of Rope, is run once more (11 R397); `boot`
runs the image of a good bank, the active one first, and with no good bank stops. What fails is an operand (log entry
15). -/
def Sys2Proof.Says.DeviceStarts : Prop :=
  ∀ (s : State),
    (s.power.auxOk = false →
      let t := ({ s with power := { s.power with auxOk := true, phase := .auxUp, thermTrip := false } } : State).coldReset
        .powerUp
      exec .auxPowerUp s = .next t ∧ t.power.auxOk = true ∧ t.power.phase = .auxUp ∧
      t.power.cause = .powerUp ∧ t.power.stage = .fuseLoad ∧ t.power.inReset = true ∧ t.clk = 0 ∧
      (s.fuses.badDie = none → t.power.fail = 0) ∧
      (∀ i, s.fuses.badDie = some i → t.power.fail = 1 ∧ t.power.failDie = i)) ∧
    (s.power.phase = .auxUp → s.power.fail = 0 → s.power.thermTrip = false → exec .regulatorStart s =
      .next (({ s with power := { s.power with phase := .regulating } } : State).setIslandMv 720)) ∧
    (s.power.phase = .regulating → exec .powerGood s =
      .next { s with power := { s.power with phase := .good, powerGood := true } }) ∧
    (s.power.fail ≠ 0 → exec .regulatorStart s = .next s ∧ ∀ a r, exec (.resetRelease a r) s = .next s) ∧
    (s.power.phase = .good → s.power.stage = .fuseLoad → s.power.inReset = true → s.power.fail = 0 →
      s.power.thermTrip = false → ∀ addr ropeOff, addr < 4 →
      let t : State := { s with power := { s.power with
        coldRstN := true, perstN := true, strapAddr := addr, strapRopeOff := ropeOff, stage := .selfTest,
        inReset := !s.power.warmRstN, warmHeld := !s.power.warmRstN } }
      exec (.resetRelease addr ropeOff) s = .next
        (if ropeOff then t.setRbit (aROPE + 4) 0 false else (t.setRbit (aROPE + 4) 0 true).ropeStart 0)) ∧
    (s.power.stage = .selfTest → s.power.inReset = false → s.power.fail = 0 → ∀ lines units wires rows,
      (let again := s.ropeState = 1 ∧ s.rope.stage = 0 ∧ s.mayRerun = true
       (again → exec (.startupSelftest lines units wires rows true) s = .next s.rerunStage) ∧
       (¬again → exec (.startupSelftest lines units wires rows true) s =
        .next { s with power := { s.power with fail := 3 } })) ∧
      (let r := if s.power.cause.code < 5 then (s.units.sramFaulty ++ rows).foldl State.repairSram s else s
       let v := (wires.foldl (fun t w => t.replaceWire (w.1 % 3) (w.2.1 % 2) w.2.2) r).trainStacks lines
       let u := (startupOrder units).foldl State.startupFail v
       let w : State := { u with power := { u.power with stage := .boot } }
       exec (.startupSelftest lines units wires rows false) s =
         .next (if w.ropeState = 1 then w.ropeStage 1 else w))) ∧
    (∀ units (i j : Nat) u, i < j → j < (startupOrder units).length → (startupOrder units)[i]? = some (.unit u) →
      ∃ v, (startupOrder units)[j]? = some (.unit v) ∧ u.num ≤ v.num) ∧
    (∀ r, (s.sramLeft r ≠ 0 → r ∈ (s.repairSram r).units.sramRepaired) ∧
      (s.sramLeft r = 0 → r ∈ (s.repairSram r).units.sramBad) ∧ r ∉ (s.repairSram r).units.sramFaulty) ∧
    (∀ u, let v := (s.record 0x0102 (siteUnit u) (lo32 u.island) (s.unitTemp u)).declareUnit u
      (s.startupFail (.unit u)).units = { v.units with substs := [] }) ∧
    (∀ p, p ∈ (s.startupFail (.spare p)).units.lostSpares) ∧
    (s.power.stage = .boot → s.power.inReset = false → s.power.fail = 0 → ∀ okA okB,
      let good : Bool → Option FwImage → Prop := fun ok b => ∃ im, b = some im ∧ ok = true ∧
        s.fuses.minSvn ≤ im.svn ∧ im.svn ≤ 63
      let run : Bool → FwImage → State := fun useB im => { s with
        sec := { s.sec with activeB := useB, running := im, heartbeatAt := s.now }
        power := { s.power with stage := .running } }
      (s.sec.activeB = false → (∀ im, s.sec.bankA = some im → good okA (some im) →
          exec (.boot okA okB) s = .next (run false im)) ∧
        (¬good okA s.sec.bankA → ∀ im, s.sec.bankB = some im → good okB (some im) →
          exec (.boot okA okB) s = .next (run true im))) ∧
      (s.sec.activeB = true → (∀ im, s.sec.bankB = some im → good okB (some im) →
          exec (.boot okA okB) s = .next (run true im)) ∧
        (¬good okB s.sec.bankB → ∀ im, s.sec.bankA = some im → good okA (some im) →
          exec (.boot okA okB) s = .next (run false im))) ∧
      (¬good okA s.sec.bankA → ¬good okB s.sec.bankB →
        exec (.boot okA okB) s = .next { s with power := { s.power with fail := 2 } }))


/-- Every cold cause takes a cold reset with its cause (15 R482, R485, R495): `brownOut`, `auxBrownOut`, `coldRstN`, which
also ends a thermal trip with every sensor below 95 °C, and `perstN`. A warm one, `pwrReset`, `pfFlr`, `cxlHotReset` or
`warmRstN`, takes a warm reset while the device runs and restarts one in progress, and leaves a cold start alone (log
entry 14); a function-level reset before the boot has ended is told to retry (R483). WARM_RST_N holds the device in
reset until `warmRstNRelease`. -/
def Sys2Proof.Says.ResetsAreTaken : Prop :=
  ∀ (s : State),
    (s.power.phase = .good ∨ s.power.phase = .regulating →
      exec .brownOut s = .next ((s.railsOff .auxUp).coldReset .brownOut)) ∧
    (s.power.phase ≠ .good → s.power.phase ≠ .regulating → exec .brownOut s = .next s) ∧
    (s.power.auxOk = true → let t := (s.railsOff .off).coldReset .brownOut
      exec .auxBrownOut s = .next { t with power := { t.power with auxOk := false, thermTrip := false } }) ∧
    (s.power.thermTrip = true → ∀ temp, exec (.coldRstN temp) s =
      .next { s with power := { s.power with coldRstN := false, thermTrip := decide (8 * 95 ≤ temp) } }) ∧
    (s.power.phase = .good → s.power.thermTrip = false →
      (∀ temp, exec (.coldRstN temp) s = .next
        (({ s with power := { s.power with coldRstN := false } } : State).coldReset .coldRstN)) ∧
      exec .perstN s = .next (({ s with power := { s.power with perstN := false } } : State).coldReset .perstN)) ∧
    (s.up = true →
      (∀ v, bitOf v 0 = true → exec (.pwrReset v) s = .next (s.warmReset .pwrReset)) ∧
      (∀ v, bitOf v 0 = false → exec (.pwrReset v) s = .next s) ∧
      exec .pfFlr s = .next (s.warmReset .pfReset)) ∧
    (s.power.stage = .running ∨ s.power.stage ≠ .fuseLoad ∧
        s.power.cause ∈ [.warmRstN, .pwrReset, .pfReset] →
      exec .cxlHotReset s = .next (s.warmReset .pfReset) ∧
      (let t := ({ s with power := { s.power with warmRstN := false, warmHeld := true, inReset := true } } :
          State).warmReset .warmRstN
       exec .warmRstN s = .next t ∧ t.power.cause = .warmRstN ∧ t.power.inReset = true ∧ t.power.warmHeld = true ∧
        t.power.warmRstN = false ∧ t.power.stage = .selfTest)) ∧
    (s.power.stage = .selfTest ∨ s.power.stage = .boot → s.power.cause ∉ [.warmRstN, .pwrReset, .pfReset] →
      exec .cxlHotReset s = .next s ∧ exec .warmRstN s =
        .next { s with power := { s.power with warmRstN := false, warmHeld := true, inReset := true } }) ∧
    (s.power.stage = .selfTest ∨ s.power.stage = .boot → s.power.inReset = false →
      exec .pfFlr s = .next { s with outs := .configRetry :: s.outs }) ∧
    exec .warmRstNRelease s = .next { s with power := { s.power with
      warmRstN := true, warmHeld := false, inReset := s.power.inReset && !s.power.warmHeld } }


/-- The device starts up, and every cause of a reset takes it.
The model's choices in it: log entries 14, 15 and 92. -/
def Obligations.StartsAndResets : Prop :=
  Says.DeviceStarts ∧ Says.ResetsAreTaken

/-- A thermal trip is a cold reset (15 R496): past a limit the device trips, with the core rails off, cause 3, and in
reset; a pulse of COLD_RST_N ends the trip only with every sensor below 95 °C (15 R495).
The model's choices in it: log entry 14. -/
def Obligations.ThermalTripIsAColdReset : Prop :=
  ∀ (s : State) (j l : Int), s.power.auxOk = true → s.power.thermTrip = false →
    (8 * 115 ≤ j ∨ 8 * 110 ≤ l →
      exec (.thermalTrip j l) s =
        .next (({ s with power := { s.power with thermTrip := true } } : State).railsOff .auxUp |>.coldReset .thermalTrip) ∧
      (∀ t, exec (.thermalTrip j l) s = .next t → t.power.thermTrip = true ∧ t.power.inReset = true ∧
        t.power.phase = .auxUp ∧ t.power.powerGood = false ∧ t.power.cause = .thermalTrip ∧ t.outs = s.outs ∧
        (∀ temp, 8 * 95 ≤ temp → ∃ u, exec (.coldRstN temp) t = .next u ∧ u.power.thermTrip = true) ∧
        (∀ temp, temp < 8 * 95 → ∃ u, exec (.coldRstN temp) t = .next u ∧ u.power.thermTrip = false))) ∧
    (j < 8 * 115 → l < 8 * 110 → exec (.thermalTrip j l) s = .next s)


/-- What a device reset leaves (15 R486): no partition, cell, kernel, lease, TSP state or session, memories zero, no
quiesce; a cold one empties the Summit register and the windows, checks the fuses and restarts the clock, a warm one keeps
them and leaves Rope excluded, whether or not it was enabled; the fuses' min_svn, the banks and the commands waiting stay
at either, and so do the SRAM rows found and repaired, which only a cold self-test acts on (log entries 13 and 92).
The model's choices in it: log entries 13 and 92. -/
def Obligations.ResetsLeave : Prop :=
  ∀ (s : State) (c : ResetCause), s.canon = true →
    (∀ t, t = s.coldReset c ∨ t = s.warmReset c →
      (∀ p, (t.part p).state = .disabled ∧ (t.part p).tsp = 0) ∧ (∀ n, (t.cell n).state = .idle) ∧
      t.kernels = [] ∧ t.leases = [] ∧ (∀ fn, (t.box fn).sessions = []) ∧ (∀ n, (t.ring n).descs = []) ∧
      t.stack = [] ∧ t.tileW = [] ∧ t.tileA = [] ∧ t.ledge = [] ∧ t.sec.quiesced = false ∧ t.fuses = s.fuses ∧
      t.sec.bankA = s.sec.bankA ∧ t.sec.bankB = s.sec.bankB ∧ t.sec.activeB = s.sec.activeB ∧
      t.power.cause = c ∧ t.pending = s.pending ∧ t.host = s.host ∧ t.now = s.now ∧
      t.units.sramFaulty = s.units.sramFaulty ∧ t.units.sramRepaired = s.units.sramRepaired ∧ t.units.faults = []) ∧
    (let t := s.coldReset c
     t.summit.recs = [] ∧ t.clk = 0 ∧ (s.fuses.badDie = none → t.power.fail = 0) ∧
     (∀ i, s.fuses.badDie = some i → t.power.fail = 1 ∧ t.power.failDie = i) ∧
     t.power.stage = .fuseLoad ∧ t.power.inReset = true ∧ t.ports.servo.state = .freerun ∧
     (∀ a, a ≠ aROPE + 4 → t.reg a = regReset a)) ∧
    (let t := s.warmReset c
     t.clk = s.clk ∧ t.power.stage = .selfTest ∧ t.power.inReset = s.power.warmHeld ∧ t.ports.servo.state = .acquiring ∧ t.summit.held = [] ∧
     (s.power.strapRopeOff = false → t.ropeState = 3) ∧
     (∀ a, aSEC + 0x100 ≤ a → a < aSEC + 0x5000 → (∀ p < 64, ¬(aSCRUB p ≤ a ∧ a < aSCRUB p + 16)) →
       t.reg a = s.reg a) ∧
     (∀ p, p < 64 → s.enabled p = false → t.reg (aSCRUB p) = s.reg (aSCRUB p)))


/-- Standby (15 R489 to R492, R500, R504): `standbyRequest` with everything quiet starts the entry, else sets refused; at
its end, `standbyEntered`, the stores and the VDEs hold undefined contents, the pace registers read zero, and the rest is
kept; `wakeN` and `standbyWakeWrite` wake a device in standby, and `wakeN` abandons an entry with aborted set; at
`wakeComplete` the rails are back, lines are trained, source 13 fires and Rope requests that waited are served in order.
`mgmtRead` answers at the strapped address, with the words of R500 only. Log entries 18, 19 and 93.
The model's choices in it: log entries 18, 19 and 93. -/
def Obligations.StandbyAndManagement : Prop :=
  ∀ (s : State), s.up = true →
    (∀ v, bitOf v 4 = true →
      let t := s.applyWrite (aPWR + 0x10) (setBit v 4 (s.rbit (aPWR + 0x10) 4))
      (s.power.standby = .running → s.allQuiet = true → exec (.standbyRequest v) s = .next
        { t.setRbit (aPWR + 0x10) 4 true with power := { t.power with standby := .entering, standbyAt := t.now } }) ∧
      (s.power.standby = .running → s.allQuiet = false →
        exec (.standbyRequest v) s = .next (t.setRbit (aPWR + 0x10) 2 true)) ∧
      (s.power.standby ≠ .running → exec (.standbyRequest v) s = .next t)) ∧
    (s.allQuiet = true ↔ (∀ e ∈ s.parts, e.2.state = .disabled) ∧ ∀ e ∈ s.radio.cells, e.2.state = .idle) ∧
    (s.power.standby = .entering → ∃ t, exec .standbyEntered s = .next t ∧ t.power.standby = .standby ∧
      (∀ n, t.readMem .weight n 1 = [Config.lostByte s.free Space.weight.num n] ∧
        t.readMem .act n 1 = [Config.lostByte s.free Space.act.num n] ∧
        t.readMem .ledge n 1 = [Config.lostByte s.free Space.ledge.num n]) ∧
      (∀ d n, d < 2 → n < 96 → t.vde d n = Vde.lost s.free (96 * d + n)) ∧
      (∀ d i, d < 2 → i < 8 → (t.island d i).pace = 0 ∧ (t.island d i).paceLow = 0) ∧
      WritesOnly [.islands, .tileW, .tileA, .ledge, .vdes, .power, .free] s t) ∧
    (s.power.standby = .standby → exec .wakeN s = .next s.wake ∧
      s.wake = { s with power := { s.power with standby := .waking, standbyAt := s.now } } ∧
      ∀ v, bitOf v 4 = false → exec (.standbyWakeWrite v) s = .next ((s.applyWrite (aPWR + 0x10) v).wake)) ∧
    (s.power.standby = .entering → exec .wakeN s = .next
      (({ s with power := { s.power with standby := .running } } : State).setRbit (aPWR + 0x10) 3 true)) ∧
    (s.power.standby = .waking → exec .wakeN s = .next s) ∧
    (∀ v, bitOf v 4 = false →
      (s.power.standby = .running → exec (.standbyWakeWrite v) s = .next (s.applyWrite (aPWR + 0x10) v)) ∧
      (s.power.standby = .entering ∨ s.power.standby = .waking → exec (.standbyWakeWrite v) s =
        .next (s.applyWrite (aPWR + 0x10) (setBit v 4 (s.rbit (aPWR + 0x10) 4))))) ∧
    (s.power.standby = .waking → ∀ lines, exec (.wakeComplete lines) s = .next
      (let t := (s.setIslandMv (min 720 s.profile.1)).trainStacks lines
       let u := ({ t with power := { t.power with standby := .running } } : State).edge 13
       u.rope.waiting.foldl State.homeReceive (u.setRope (fun r => { r with waiting := [] })))) ∧
    (s.power.auxOk = true → ∀ a, (∀ w, s.mgmtWord a = some w → exec (.mgmtRead (0x58 + s.power.strapAddr) a) s =
        .next { s with outs := .mgmt w :: s.outs }) ∧
      (s.mgmtWord a = none → exec (.mgmtRead (0x58 + s.power.strapAddr) a) s = .next s) ∧
      ∀ b, b ≠ 0x58 + s.power.strapAddr → exec (.mgmtRead b a) s = .next s) ∧
    s.mgmtWord 0 = some s.idPart ∧ s.mgmtWord aPWR = some (s.reg aPWR) ∧
    s.mgmtWord (aPWR + 0x18) = some s.pwrBoot ∧ s.mgmtWord (aPWR + 0x1C) = some s.pwrTemp ∧
    (∀ n w, n < 27 → w < 4 → s.mgmtWord (0x100 + 16 * n + 4 * w) = some (s.dieWord n w)) ∧
    (∀ a, a ≠ 0 → (a < 0x100 ∨ aDIE 27 ≤ a) → a ∉ [aPWR, aPWR + 0x18, aPWR + 0x1C] → s.mgmtWord a = none)
end

