-- ==== Sys2Proof/Laws/SMap.lean ====
section
/-! SUPPORT. The laws of sparse maps: a read after a write, and that every operation keeps the
canonical form. -/

namespace Sys2Proof.Machine

section
variable {α : Type} {d : Nat → α}

@[simp] theorem SMap.get_nil (k : Nat) : SMap.get d [] k = d k := rfl

theorem SMap.above_mono {m : SMap α} {i j : Nat} (h : SMap.above j m = true) (hi : i ≤ j) :
    SMap.above i m = true := by
  cases m with
  | nil => rfl
  | cons e t => simp only [SMap.above, decide_eq_true_eq] at *; omega

variable [DecidableEq α]

@[simp] theorem SMap.wf_nil : SMap.wf d ([] : SMap α) = true := rfl

/-- A read of the key just written answers the value written. -/
@[simp] theorem SMap.get_put_self (m : SMap α) (k : Nat) (v : α) (h : SMap.wf d m = true) :
    SMap.get d (SMap.put d m k v) k = v := by
  induction m with
  | nil => simp only [SMap.put]; split <;> simp_all [SMap.get]
  | cons e t ih =>
    obtain ⟨j, u⟩ := e
    simp only [SMap.wf, Bool.and_eq_true] at h
    have top : ∀ {t : SMap α} {j : Nat}, SMap.wf d t = true → SMap.above j t = true → k ≤ j →
        SMap.get d t k = d k := by
      intro t
      induction t with
      | nil => intros; rfl
      | cons e t ih =>
        obtain ⟨i, w⟩ := e
        intro j hw ha hk
        simp only [SMap.above, decide_eq_true_eq] at ha
        simp only [SMap.wf, Bool.and_eq_true] at hw
        have : i ≠ k := by omega
        simp only [SMap.get, if_neg this]
        exact ih hw.2 hw.1.2 (by omega)
    simp only [SMap.put]
    split
    · split
      · next h1 h2 =>
        have : j ≠ k := by omega
        simp only [SMap.get, if_neg this]
        rw [top h.2 h.1.2 (by omega), h2]
      · simp [SMap.get]
    · split
      · split
        · next h1 h2 h3 => subst h2; rw [top h.2 h.1.2 (Nat.le_refl _), h3]
        · simp [SMap.get]
      · next h1 h2 =>
        have : j ≠ k := by omega
        simp only [SMap.get, if_neg this]
        exact ih h.2

/-- A read of any other key answers what it did before. -/
@[simp] theorem SMap.get_put_other (m : SMap α) (k l : Nat) (v : α) (h : l ≠ k) :
    SMap.get d (SMap.put d m k v) l = SMap.get d m l := by
  induction m with
  | nil =>
    simp only [SMap.put]; split
    · rfl
    · simp [SMap.get, h.symm]
  | cons e t ih =>
    obtain ⟨j, u⟩ := e
    simp only [SMap.put]
    split
    · split
      · rfl
      · simp [SMap.get, h.symm]
    · split
      · next h1 h2 =>
        subst h2
        split <;> simp [SMap.get, h.symm]
      · simp only [SMap.get, ih]

theorem SMap.above_put {m : SMap α} {j k : Nat} {v : α} (hw : SMap.wf d m = true)
    (hm : SMap.above j m = true) (hk : j < k) : SMap.above j (SMap.put d m k v) = true := by
  cases m with
  | nil => simp only [SMap.put]; split <;> simp_all [SMap.above]
  | cons e t =>
    obtain ⟨i, u⟩ := e
    simp only [SMap.wf, Bool.and_eq_true] at hw
    simp only [SMap.above, decide_eq_true_eq] at hm
    simp only [SMap.put]
    split
    · split <;> simp [SMap.above, hm, hk]
    · split
      · split
        · exact SMap.above_mono hw.1.2 (by omega)
        · simp [SMap.above, hk]
      · simp [SMap.above, hm]

/-- A write keeps the canonical form. -/
@[simp] theorem SMap.wf_put (m : SMap α) (k : Nat) (v : α) (h : SMap.wf d m = true) :
    SMap.wf d (SMap.put d m k v) = true := by
  induction m with
  | nil => simp only [SMap.put]; split <;> simp_all [SMap.wf, SMap.above]
  | cons e t ih =>
    obtain ⟨j, u⟩ := e
    have hw := h
    simp only [SMap.wf, Bool.and_eq_true, decide_eq_true_eq] at h
    simp only [SMap.put]
    split
    · split
      · exact hw
      · next h1 h2 => 
        have hk : SMap.above k ((j, u) :: t) = true := by simp [SMap.above, h1]
        simp [SMap.wf, hk, h2, h.2, h.1.1, h.1.2]
    · split
      · next h1 h2 =>
        subst h2
        split
        · exact h.2
        · next h3 => simp [SMap.wf, h3, h.2, h.1.2]
      · have : j < k := by omega
        simp [SMap.wf, h.1.1, ih h.2, SMap.above_put h.2 h.1.2 this]

/-- Writing consecutive keys keeps the canonical form. -/
@[simp] theorem SMap.wf_putList (vs : List α) (m : SMap α) (k : Nat) (h : SMap.wf d m = true) :
    SMap.wf d (SMap.putList d m k vs) = true := by
  induction vs generalizing m k with
  | nil => exact h
  | cons v vs ih => exact ih _ _ (SMap.wf_put _ _ _ h)

theorem SMap.above_filter {m : SMap α} {j : Nat} (p : Nat × α → Bool) (hw : SMap.wf d m = true)
    (h : SMap.above j m = true) : SMap.above j (m.filter p) = true := by
  induction m with
  | nil => rfl
  | cons e t ih =>
    obtain ⟨i, u⟩ := e
    simp only [SMap.wf, Bool.and_eq_true] at hw
    have hj := h
    simp only [SMap.above, decide_eq_true_eq] at h
    simp only [List.filter]
    split
    · exact hj
    · exact ih hw.2 (SMap.above_mono hw.1.2 (by omega))

/-- Dropping entries keeps the canonical form. -/
@[simp] theorem SMap.wf_filter (m : SMap α) (p : Nat × α → Bool) (h : SMap.wf d m = true) :
    SMap.wf d (m.filter p) = true := by
  induction m with
  | nil => rfl
  | cons e t ih =>
    obtain ⟨i, u⟩ := e
    simp only [SMap.wf, Bool.and_eq_true] at h
    simp only [List.filter]
    split
    · simp only [SMap.wf, Bool.and_eq_true]
      exact ⟨⟨h.1.1, SMap.above_filter p h.2 h.1.2⟩, ih h.2⟩
    · exact ih h.2

@[simp] theorem SMap.wf_clearRange (m : SMap α) (lo len : Nat) (h : SMap.wf d m = true) :
    SMap.wf d (SMap.clearRange m lo len) = true := SMap.wf_filter _ _ h

/-- Copying a range keeps the canonical form of its destination. -/
@[simp] theorem SMap.wf_copyIn (dst src : SMap α) (dest lo len : Nat) (h : SMap.wf d dst = true) :
    SMap.wf d (SMap.copyIn d dst dest src lo len) = true := by
  have key : ∀ (l : List (Nat × α)) (m : SMap α), SMap.wf d m = true →
      SMap.wf d (l.foldl (fun m e => SMap.put d m (dest + (e.1 - lo)) e.2) m) = true := by
    intro l
    induction l with
    | nil => intro m hm; exact hm
    | cons e t ih => intro m hm; exact ih _ (SMap.wf_put _ _ _ hm)
  exact key _ _ (SMap.wf_clearRange _ _ _ h)

/-- A read below the keys written answers what it did before. -/
theorem SMap.get_putList_lt (vs : List α) (m : SMap α) (k l : Nat) (h : l < k) :
    SMap.get d (SMap.putList d m k vs) l = SMap.get d m l := by
  induction vs generalizing m k with
  | nil => rfl
  | cons v vs ih =>
    rw [SMap.putList, ih _ _ (by omega), SMap.get_put_other _ _ _ _ (by omega)]

/-- A read outside the keys written answers what it did before. -/
theorem SMap.get_putList_other (vs : List α) (m : SMap α) (k l : Nat)
    (h : l < k ∨ k + vs.length ≤ l) : SMap.get d (SMap.putList d m k vs) l = SMap.get d m l := by
  induction vs generalizing m k with
  | nil => rfl
  | cons v vs ih =>
    simp only [List.length_cons] at h
    rw [SMap.putList, ih _ _ (by omega), SMap.get_put_other _ _ _ _ (by omega)]

/-- A read of the keys just written answers the values written. -/
theorem SMap.getList_putList (vs : List α) (m : SMap α) (k : Nat) (h : SMap.wf d m = true) :
    SMap.getList d (SMap.putList d m k vs) k vs.length = vs := by
  induction vs generalizing m k with
  | nil => rfl
  | cons v vs ih =>
    simp only [SMap.putList, List.length_cons, SMap.getList]
    rw [SMap.get_putList_lt _ _ _ _ (Nat.lt_succ_self k), SMap.get_put_self _ _ _ h,
      ih _ _ (SMap.wf_put _ _ _ h)]

/-- A key above the listed ones reads as the default. -/
theorem SMap.get_of_above {m : SMap α} {j k : Nat} (hw : SMap.wf d m = true)
    (ha : SMap.above j m = true) (hk : k ≤ j) : SMap.get d m k = d k := by
  induction m generalizing j with
  | nil => rfl
  | cons e t ih =>
    obtain ⟨i, u⟩ := e
    simp only [SMap.wf, Bool.and_eq_true] at hw
    simp only [SMap.above, decide_eq_true_eq] at ha
    have : i ≠ k := by omega
    simp only [SMap.get, if_neg this]
    exact ih hw.2 hw.1.2 (by omega)

/-- A cleared key reads as the default, every other key as before. -/
theorem SMap.get_clearRange (m : SMap α) (lo len k : Nat) (h : SMap.wf d m = true) :
    SMap.get d (SMap.clearRange m lo len) k =
      if lo ≤ k ∧ k < lo + len then d k else SMap.get d m k := by
  induction m with
  | nil => simp [SMap.clearRange, SMap.get]
  | cons e t ih =>
    obtain ⟨j, u⟩ := e
    have hw := h
    simp only [SMap.wf, Bool.and_eq_true] at h
    simp only [SMap.clearRange, List.filter] at ih ⊢
    split
    · next hk =>
      simp only [Bool.or_eq_true, decide_eq_true_eq] at hk
      by_cases hjk : j = k
      · subst hjk
        rw [if_neg (by omega)]
        simp [SMap.get]
      · simp only [SMap.get, if_neg hjk]
        exact ih h.2
    · next hk =>
      simp only [Bool.or_eq_false_iff, decide_eq_false_iff_not] at hk
      rw [ih h.2]
      by_cases hjk : j = k
      · subst hjk
        rw [if_pos (by omega), if_pos (by omega)]
      · simp [SMap.get, hjk]

/-- Two maps in canonical form that read alike at every key are equal data. -/
theorem SMap.ext_wf {m n : SMap α} (hm : SMap.wf d m = true) (hn : SMap.wf d n = true)
    (h : ∀ k, SMap.get d m k = SMap.get d n k) : m = n := by
  induction m generalizing n with
  | nil =>
    cases n with
    | nil => rfl
    | cons e t =>
      obtain ⟨j, u⟩ := e
      have := h j
      simp only [SMap.wf, Bool.and_eq_true, decide_eq_true_eq] at hn
      simp only [SMap.get, if_true] at this
      exact absurd this.symm hn.1.1
  | cons e t ih =>
    obtain ⟨j, u⟩ := e
    have hm' := hm
    simp only [SMap.wf, Bool.and_eq_true, decide_eq_true_eq] at hm
    cases n with
    | nil =>
      have := h j
      simp only [SMap.get, if_true] at this
      exact absurd this hm.1.1
    | cons e' t' =>
      obtain ⟨i, w⟩ := e'
      have hn' := hn
      simp only [SMap.wf, Bool.and_eq_true, decide_eq_true_eq] at hn
      have hij : j = i := by
        rcases Nat.lt_trichotomy j i with hlt | heq | hlt
        · have := h j
          rw [SMap.get_of_above (j := j) hn' (by simp [SMap.above, hlt]) (Nat.le_refl _)] at this
          simp only [SMap.get, if_true] at this
          exact absurd this hm.1.1
        · exact heq
        · have := h i
          rw [SMap.get_of_above (j := i) hm' (by simp [SMap.above, hlt]) (Nat.le_refl _)] at this
          simp only [SMap.get, if_true] at this
          exact absurd this.symm hn.1.1
      subst hij
      have huw : u = w := by have := h j; simpa [SMap.get] using this
      subst huw
      congr 1
      refine ih hm.2 hn.2 (fun k => ?_)
      by_cases hk : j = k
      · subst hk
        rw [SMap.get_of_above hm.2 hm.1.2 (Nat.le_refl _), SMap.get_of_above hn.2 hn.1.2 (Nat.le_refl _)]
      · have := h k
        simpa [SMap.get, hk] using this
end

end Sys2Proof.Machine
end

