-- ==== Sys2Proof/Laws/Keeps.lean ====
section
/-! SUPPORT. The relation that every operation's law states: which parts of the state it may write, and
that the maps stay canonical. One lemma of this form stands for each operation in the files Keeps*.lean. -/

namespace Sys2Proof

open Machine

theorem Fld.same_rfl (f : Fld) (s : State) : f.same s s := by cases f <;> rfl

theorem Fld.same_trans {f : Fld} {s t u : State} (h : f.same s t) (k : f.same t u) : f.same s u := by
  cases f <;> exact Eq.trans k h

end Sys2Proof

namespace Sys2Proof.Machine

/-- From `s` to `t` only the listed parts changed, and canonical maps stayed canonical. -/
def Keeps (w : List Fld) (s t : State) : Prop := WritesOnly w s t ∧ (s.canon = true → t.canon = true)

theorem Keeps.refl {w : List Fld} {s : State} : Keeps w s s := ⟨fun f _ => f.same_rfl s, id⟩

/-- An operation that writes the parts `v`, after one that wrote at most `w`. -/
theorem Keeps.lift {v w : List Fld} {s t u : State} (h : Keeps w s t) (hv : v ⊆ w) (k : Keeps v t u) :
    Keeps w s u :=
  ⟨fun f hf => Fld.same_trans (h.1 f hf) (k.1 f (fun hm => hf (hv hm))), fun hc => k.2 (h.2 hc)⟩

theorem Keeps.foldl {w : List Fld} {s : State} {α : Type} {g : State → α → State}
    (hg : ∀ t x, Keeps w s t → Keeps w s (g t x)) (l : List α) {t : State} (h : Keeps w s t) :
    Keeps w s (l.foldl g t) := by
  induction l generalizing t with
  | nil => exact h
  | cons x l ih => exact ih (hg t x h)

theorem Keeps.foldl_fst {w : List Fld} {s : State} {α β : Type} {g : State × β → α → State × β}
    (hg : ∀ t x, Keeps w s t.1 → Keeps w s (g t x).1) (l : List α) {t : State × β} (h : Keeps w s t.1) :
    Keeps w s (l.foldl g t).1 := by
  induction l generalizing t with
  | nil => exact h
  | cons x l ih => exact ih (hg t x h)

theorem Keeps.ite {w : List Fld} {s t u : State} {c : Prop} [Decidable c] (h : Keeps w s t) (k : Keeps w s u) :
    Keeps w s (if c then t else u) := by
  split <;> assumption

theorem Keeps.ite_fst {w : List Fld} {s : State} {α : Type} {t u : State × α} {c : Prop} [Decidable c]
    (h : Keeps w s t.1) (k : Keeps w s u.1) : Keeps w s (if c then t else u).1 := by
  split <;> assumption

theorem Keeps.ite_snd {w : List Fld} {s : State} {α : Type} {t u : α × State} {c : Prop} [Decidable c]
    (h : Keeps w s t.2) (k : Keeps w s u.2) : Keeps w s (if c then t else u).2 := by
  split <;> assumption

theorem Keeps.getD {w : List Fld} {s t : State} {o : Option State} (h : Keeps w s t)
    (ho : ∀ u, o = some u → Keeps w s u) : Keeps w s (o.getD t) := by
  cases o with
  | none => exact h
  | some u => exact ho u rfl

theorem Keeps.optElim {w : List Fld} {s t : State} {α : Type} {o : Option α} {g : α → State}
    (h : Keeps w s t) (ho : ∀ a, Keeps w s (g a)) : Keeps w s (o.elim t g) := by
  cases o with
  | none => exact h
  | some a => exact ho a

theorem Keeps.mapGetD {w : List Fld} {s t : State} {α : Type} {o : Option α} {g : α → State}
    (h : Keeps w s t) (ho : ∀ u, o = some u → Keeps w s (g u)) : Keeps w s ((o.map g).getD t) := by
  cases o with
  | none => exact h
  | some u => exact ho u rfl

/-- A record update writes the parts whose fields it changes. -/
theorem Keeps.update {w : List Fld} {s t : State} (h : Keeps w s t)
    {x_fuses} (h_fuses : x_fuses = t.fuses ∨ Fld.fuses ∈ w)
    {x_regs} (h_regs : x_regs = t.regs ∨ Fld.regs ∈ w ∧ (SMap.wf regReset t.regs = true → SMap.wf regReset x_regs = true))
    {x_staged} (h_staged : x_staged = t.staged ∨ Fld.staged ∈ w ∧ (SMap.wf (fun _ => none) t.staged = true → SMap.wf (fun _ => none) x_staged = true))
    {x_latched} (h_latched : x_latched = t.latched ∨ Fld.latched ∈ w ∧ (SMap.wf (fun _ => none) t.latched = true → SMap.wf (fun _ => none) x_latched = true))
    {x_rdata} (h_rdata : x_rdata = t.rdata ∨ Fld.rdata ∈ w)
    {x_now} (h_now : x_now = t.now ∨ Fld.now ∈ w)
    {x_clk} (h_clk : x_clk = t.clk ∨ Fld.clk ∈ w)
    {x_free} (h_free : x_free = t.free ∨ Fld.free ∈ w)
    {x_host} (h_host : x_host = t.host ∨ Fld.host ∈ w ∧ (SMap.wf byteZero t.host = true → SMap.wf byteZero x_host = true))
    {x_stack} (h_stack : x_stack = t.stack ∨ Fld.stack ∈ w ∧ (SMap.wf byteZero t.stack = true → SMap.wf byteZero x_stack = true))
    {x_tileW} (h_tileW : x_tileW = t.tileW ∨ Fld.tileW ∈ w ∧ (SMap.wf byteZero t.tileW = true → SMap.wf byteZero x_tileW = true))
    {x_tileA} (h_tileA : x_tileA = t.tileA ∨ Fld.tileA ∈ w ∧ (SMap.wf byteZero t.tileA = true → SMap.wf byteZero x_tileA = true))
    {x_ledge} (h_ledge : x_ledge = t.ledge ∨ Fld.ledge ∈ w ∧ (SMap.wf byteZero t.ledge = true → SMap.wf byteZero x_ledge = true))
    {x_ue} (h_ue : x_ue = t.ue ∨ Fld.ue ∈ w)
    {x_weak} (h_weak : x_weak = t.weak ∨ Fld.weak ∈ w)
    {x_stacks} (h_stacks : x_stacks = t.stackSt ∨ Fld.stackSt ∈ w)
    {x_msixT} (h_msixT : x_msixT = t.msixT ∨ Fld.msixT ∈ w ∧ (SMap.wf msixReset t.msixT = true → SMap.wf msixReset x_msixT = true))
    {x_pba} (h_pba : x_pba = t.pba ∨ Fld.pba ∈ w ∧ (SMap.wf (fun _ => false) t.pba = true → SMap.wf (fun _ => false) x_pba = true))
    {x_msixHeld} (h_msixHeld : x_msixHeld = t.msixHeld ∨ Fld.msixHeld ∈ w)
    {x_outs} (h_outs : x_outs = t.outs ∨ Fld.outs ∈ w)
    {x_cxlLink} (h_cxlLink : x_cxlLink = t.cxlLink ∨ Fld.cxlLink ∈ w)
    {x_power} (h_power : x_power = t.power ∨ Fld.power ∈ w)
    {x_islands} (h_islands : x_islands = t.islands ∨ Fld.islands ∈ w ∧ (SMap.wf (fun _ => Island.reset) t.islands = true → SMap.wf (fun _ => Island.reset) x_islands = true))
    {x_units} (h_units : x_units = t.units ∨ Fld.units ∈ w)
    {x_summit} (h_summit : x_summit = t.summit ∨ Fld.summit ∈ w)
    {x_rings} (h_rings : x_rings = t.rings ∨ Fld.rings ∈ w ∧ (SMap.wf (fun _ => Ring.reset) t.rings = true → SMap.wf (fun _ => Ring.reset) x_rings = true))
    {x_adminEvents} (h_adminEvents : x_adminEvents = t.adminEvents ∨ Fld.adminEvents ∈ w)
    {x_parts} (h_parts : x_parts = t.parts ∨ Fld.parts ∈ w ∧ (SMap.wf (fun _ => Part.reset) t.parts = true → SMap.wf (fun _ => Part.reset) x_parts = true))
    {x_ctl} (h_ctl : x_ctl = t.ctl ∨ Fld.ctl ∈ w ∧ (SMap.wf (fun _ => CtlBucket.reset) t.ctl = true → SMap.wf (fun _ => CtlBucket.reset) x_ctl = true))
    {x_kernels} (h_kernels : x_kernels = t.kernels ∨ Fld.kernels ∈ w)
    {x_nextKernel} (h_nextKernel : x_nextKernel = t.nextKernel ∨ Fld.nextKernel ∈ w)
    {x_vdes} (h_vdes : x_vdes = t.vdes ∨ Fld.vdes ∈ w ∧ (SMap.wf (fun _ => Vde.reset) t.vdes = true → SMap.wf (fun _ => Vde.reset) x_vdes = true))
    {x_leases} (h_leases : x_leases = t.leases ∨ Fld.leases ∈ w)
    {x_radio} (h_radio : x_radio = t.radio ∨ Fld.radio ∈ w)
    {x_ports} (h_ports : x_ports = t.ports ∨ Fld.ports ∈ w)
    {x_rope} (h_rope : x_rope = t.rope ∨ Fld.rope ∈ w)
    {x_sec} (h_sec : x_sec = t.sec ∨ Fld.sec ∈ w)
    {x_withheldUnits} (h_withheldUnits : x_withheldUnits = t.withheldUnits ∨ Fld.withheldUnits ∈ w)
    {x_withheldHalves} (h_withheldHalves : x_withheldHalves = t.withheldHalves ∨ Fld.withheldHalves ∈ w)
    {x_withheldLedge} (h_withheldLedge : x_withheldLedge = t.withheldLedge ∨ Fld.withheldLedge ∈ w)
    {x_numVfs} (h_numVfs : x_numVfs = t.numVfs ∨ Fld.numVfs ∈ w)
    : Keeps w s ⟨t.pending, x_fuses, x_regs, x_staged, x_latched, x_rdata, x_now, x_clk, x_free, x_host,
      x_stack, x_tileW, x_tileA, x_ledge, x_ue, x_weak, x_stacks, x_msixT, x_pba, x_msixHeld, x_outs, x_cxlLink,
      x_power, x_islands, x_units, x_summit, x_rings, x_adminEvents, x_parts, x_ctl, x_kernels, x_nextKernel,
      x_vdes, x_leases, x_radio, x_ports, x_rope, x_sec, x_withheldUnits, x_withheldHalves, x_withheldLedge,
      x_numVfs⟩ := by
  constructor
  · intro f hf
    cases f
    · exact h.1 _ hf
    · rcases h_fuses with e | e; exact e ▸ h.1 _ hf; exact absurd e hf
    · rcases h_regs with e | e; exact e ▸ h.1 _ hf; exact absurd e.1 hf
    · rcases h_staged with e | e; exact e ▸ h.1 _ hf; exact absurd e.1 hf
    · rcases h_latched with e | e; exact e ▸ h.1 _ hf; exact absurd e.1 hf
    · rcases h_rdata with e | e; exact e ▸ h.1 _ hf; exact absurd e hf
    · rcases h_now with e | e; exact e ▸ h.1 _ hf; exact absurd e hf
    · rcases h_clk with e | e; exact e ▸ h.1 _ hf; exact absurd e hf
    · rcases h_free with e | e; exact e ▸ h.1 _ hf; exact absurd e hf
    · rcases h_host with e | e; exact e ▸ h.1 _ hf; exact absurd e.1 hf
    · rcases h_stack with e | e; exact e ▸ h.1 _ hf; exact absurd e.1 hf
    · rcases h_tileW with e | e; exact e ▸ h.1 _ hf; exact absurd e.1 hf
    · rcases h_tileA with e | e; exact e ▸ h.1 _ hf; exact absurd e.1 hf
    · rcases h_ledge with e | e; exact e ▸ h.1 _ hf; exact absurd e.1 hf
    · rcases h_ue with e | e; exact e ▸ h.1 _ hf; exact absurd e hf
    · rcases h_weak with e | e; exact e ▸ h.1 _ hf; exact absurd e hf
    · rcases h_stacks with e | e; exact e ▸ h.1 _ hf; exact absurd e hf
    · rcases h_msixT with e | e; exact e ▸ h.1 _ hf; exact absurd e.1 hf
    · rcases h_pba with e | e; exact e ▸ h.1 _ hf; exact absurd e.1 hf
    · rcases h_msixHeld with e | e; exact e ▸ h.1 _ hf; exact absurd e hf
    · rcases h_outs with e | e; exact e ▸ h.1 _ hf; exact absurd e hf
    · rcases h_cxlLink with e | e; exact e ▸ h.1 _ hf; exact absurd e hf
    · rcases h_power with e | e; exact e ▸ h.1 _ hf; exact absurd e hf
    · rcases h_islands with e | e; exact e ▸ h.1 _ hf; exact absurd e.1 hf
    · rcases h_units with e | e; exact e ▸ h.1 _ hf; exact absurd e hf
    · rcases h_summit with e | e; exact e ▸ h.1 _ hf; exact absurd e hf
    · rcases h_rings with e | e; exact e ▸ h.1 _ hf; exact absurd e.1 hf
    · rcases h_adminEvents with e | e; exact e ▸ h.1 _ hf; exact absurd e hf
    · rcases h_parts with e | e; exact e ▸ h.1 _ hf; exact absurd e.1 hf
    · rcases h_ctl with e | e; exact e ▸ h.1 _ hf; exact absurd e.1 hf
    · rcases h_kernels with e | e; exact e ▸ h.1 _ hf; exact absurd e hf
    · rcases h_nextKernel with e | e; exact e ▸ h.1 _ hf; exact absurd e hf
    · rcases h_vdes with e | e; exact e ▸ h.1 _ hf; exact absurd e.1 hf
    · rcases h_leases with e | e; exact e ▸ h.1 _ hf; exact absurd e hf
    · rcases h_radio with e | e; exact e ▸ h.1 _ hf; exact absurd e hf
    · rcases h_ports with e | e; exact e ▸ h.1 _ hf; exact absurd e hf
    · rcases h_rope with e | e; exact e ▸ h.1 _ hf; exact absurd e hf
    · rcases h_sec with e | e; exact e ▸ h.1 _ hf; exact absurd e hf
    · rcases h_withheldUnits with e | e; exact e ▸ h.1 _ hf; exact absurd e hf
    · rcases h_withheldHalves with e | e; exact e ▸ h.1 _ hf; exact absurd e hf
    · rcases h_withheldLedge with e | e; exact e ▸ h.1 _ hf; exact absurd e hf
    · rcases h_numVfs with e | e; exact e ▸ h.1 _ hf; exact absurd e hf
  · intro hc
    have k := h.2 hc
    simp only [State.canon, Bool.and_eq_true] at k ⊢
    obtain ⟨⟨⟨⟨⟨⟨⟨⟨⟨⟨⟨⟨⟨⟨k1, k2⟩, k3⟩, k4⟩, k5⟩, k6⟩, k7⟩, k8⟩, k9⟩, k10⟩, k11⟩, k12⟩, k13⟩, kc⟩, k14⟩ := k
    and_intros
    · rcases h_regs with e | e; exact e ▸ k1; exact e.2 k1
    · rcases h_staged with e | e; exact e ▸ k2; exact e.2 k2
    · rcases h_latched with e | e; exact e ▸ k3; exact e.2 k3
    · rcases h_host with e | e; exact e ▸ k4; exact e.2 k4
    · rcases h_stack with e | e; exact e ▸ k5; exact e.2 k5
    · rcases h_tileW with e | e; exact e ▸ k6; exact e.2 k6
    · rcases h_tileA with e | e; exact e ▸ k7; exact e.2 k7
    · rcases h_ledge with e | e; exact e ▸ k8; exact e.2 k8
    · rcases h_msixT with e | e; exact e ▸ k9; exact e.2 k9
    · rcases h_pba with e | e; exact e ▸ k10; exact e.2 k10
    · rcases h_islands with e | e; exact e ▸ k11; exact e.2 k11
    · rcases h_rings with e | e; exact e ▸ k12; exact e.2 k12
    · rcases h_parts with e | e; exact e ▸ k13; exact e.2 k13
    · rcases h_ctl with e | e; exact e ▸ kc; exact e.2 kc
    · rcases h_vdes with e | e; exact e ▸ k14; exact e.2 k14

end Sys2Proof.Machine
end

