-- ==== Sys2Proof/Laws/KeepsBase.lean ====
section
/-! SUPPORT. What the operations of the registers, memories, interrupts, rings, units, contexts and issuers may write: for each, the parts
of the state it changes at most, and that it keeps the maps canonical. -/

-- The many lemmas below are elaborated one after another: the package is checked as one text, and fewer wait at once.
set_option Elab.async false

namespace Sys2Proof.Machine

theorem State.setReg_keeps {w : List Fld} {s t : State} {a1 a2} (hw : [.regs] ⊆ w) (h : Keeps w s t) :
    Keeps w s (State.setReg t a1 a2) := h.lift hw (by
  unfold State.setReg
  try dsimp only
  repeat' first
    | with_reducible exact Or.inl rfl
    | exact Or.inr (And.intro (by decide) (fun hk => by simp [hk]))
    | (with_reducible first
      | exact Or.inr (by decide) | exact Keeps.refl | assumption | apply Keeps.update))

theorem State.setRf_keeps {w : List Fld} {s t : State} {a1 a2 a3 a4} (hw : [.regs] ⊆ w) (h : Keeps w s t) :
    Keeps w s (State.setRf t a1 a2 a3 a4) := h.lift hw (by
  unfold State.setRf
  try dsimp only
  repeat' first
    | (with_reducible first
      | exact Keeps.refl | assumption | refine State.setReg_keeps (by decide) ?_))

theorem State.setRbit_keeps {w : List Fld} {s t : State} {a1 a2 a3} (hw : [.regs] ⊆ w) (h : Keeps w s t) :
    Keeps w s (State.setRbit t a1 a2 a3) := h.lift hw (by
  unfold State.setRbit
  try dsimp only
  repeat' first
    | (with_reducible first
      | exact Keeps.refl | assumption | refine State.setReg_keeps (by decide) ?_))

theorem State.bumpRf_keeps {w : List Fld} {s t : State} {a1 a2 a3 a4} (hw : [.regs] ⊆ w) (h : Keeps w s t) :
    Keeps w s (State.bumpRf t a1 a2 a3 a4) := h.lift hw (by
  unfold State.bumpRf
  try dsimp only
  repeat' first
    | (with_reducible first
      | exact Keeps.refl | assumption | refine State.setRf_keeps (by decide) ?_))

theorem State.applyWrite_keeps {w : List Fld} {s t : State} {a1 a2} (hw : [.regs] ⊆ w) (h : Keeps w s t) :
    Keeps w s (State.applyWrite t a1 a2) := h.lift hw (by
  unfold State.applyWrite
  try dsimp only
  repeat' first
    | (with_reducible first
      | exact Keeps.refl | assumption | refine State.setReg_keeps (by decide) ?_))

theorem State.clearRC_keeps {w : List Fld} {s t : State} {a1} (hw : [.regs] ⊆ w) (h : Keeps w s t) :
    Keeps w s (State.clearRC t a1) := h.lift hw (by
  unfold State.clearRC
  try dsimp only
  repeat' first
    | (with_reducible first
      | exact Keeps.refl | assumption | refine State.setReg_keeps (by decide) ?_))

theorem State.setRing_keeps {w : List Fld} {s t : State} {a1 a2} (hw : [.rings] ⊆ w) (h : Keeps w s t) :
    Keeps w s (State.setRing t a1 a2) := h.lift hw (by
  unfold State.setRing
  try dsimp only
  repeat' first
    | with_reducible exact Or.inl rfl
    | exact Or.inr (And.intro (by decide) (fun hk => by simp [hk]))
    | (with_reducible first
      | exact Or.inr (by decide) | exact Keeps.refl | assumption)
    | dsimp only
    | with_reducible apply Keeps.update)

theorem State.setPart_keeps {w : List Fld} {s t : State} {a1 a2} (hw : [.parts] ⊆ w) (h : Keeps w s t) :
    Keeps w s (State.setPart t a1 a2) := h.lift hw (by
  unfold State.setPart
  try dsimp only
  repeat' first
    | with_reducible exact Or.inl rfl
    | exact Or.inr (And.intro (by decide) (fun hk => by simp [hk]))
    | (with_reducible first
      | exact Or.inr (by decide) | exact Keeps.refl | assumption)
    | dsimp only
    | with_reducible apply Keeps.update)

theorem State.setIsland_keeps {w : List Fld} {s t : State} {a1 a2 a3} (hw : [.islands] ⊆ w) (h : Keeps w s t) :
    Keeps w s (State.setIsland t a1 a2 a3) := h.lift hw (by
  unfold State.setIsland
  try dsimp only
  repeat' first
    | with_reducible exact Or.inl rfl
    | exact Or.inr (And.intro (by decide) (fun hk => by simp [hk]))
    | (with_reducible first
      | exact Or.inr (by decide) | exact Keeps.refl | assumption)
    | dsimp only
    | with_reducible apply Keeps.update)

theorem State.setCtx_keeps {w : List Fld} {s t : State} {a1 a2 a3} (hw : [.parts] ⊆ w) (h : Keeps w s t) :
    Keeps w s (State.setCtx t a1 a2 a3) := h.lift hw (by
  unfold State.setCtx
  try dsimp only
  repeat' first
    | (with_reducible first
      | exact Keeps.refl | assumption | refine State.setPart_keeps (by decide) ?_))

theorem State.setVde_keeps {w : List Fld} {s t : State} {a1 a2 a3} (hw : [.vdes] ⊆ w) (h : Keeps w s t) :
    Keeps w s (State.setVde t a1 a2 a3) := h.lift hw (by
  unfold State.setVde
  try dsimp only
  repeat' first
    | with_reducible exact Or.inl rfl
    | exact Or.inr (And.intro (by decide) (fun hk => by simp [hk]))
    | (with_reducible first
      | exact Or.inr (by decide) | exact Keeps.refl | assumption)
    | dsimp only
    | with_reducible apply Keeps.update)

theorem State.setSub_keeps {w : List Fld} {s t : State} {a1 a2 a3} (hw : [.ports] ⊆ w) (h : Keeps w s t) :
    Keeps w s (State.setSub t a1 a2 a3) := h.lift hw (by
  unfold State.setSub
  try dsimp only
  repeat' first
    | with_reducible exact Or.inl rfl
    | exact Or.inr (And.intro (by decide) (fun hk => by simp [hk]))
    | (with_reducible first
      | exact Or.inr (by decide) | exact Keeps.refl | assumption)
    | dsimp only
    | with_reducible apply Keeps.update)

theorem State.dropFrames_keeps {w : List Fld} {s t : State} {a1} (hw : [.ports] ⊆ w) (h : Keeps w s t) :
    Keeps w s (State.dropFrames t a1) := h.lift hw (by
  unfold State.dropFrames
  try dsimp only
  repeat' first
    | (with_reducible first
      | exact Keeps.refl | assumption | refine State.setSub_keeps (by decide) ?_
      | refine Keeps.foldl (fun _ _ _ => ?_) _ ?_ | refine Keeps.foldl_fst (fun _ _ _ => ?_) _ ?_)
    | dsimp only)

theorem State.setBox_keeps {w : List Fld} {s t : State} {a1 a2} (hw : [.sec] ⊆ w) (h : Keeps w s t) :
    Keeps w s (State.setBox t a1 a2) := h.lift hw (by
  unfold State.setBox
  try dsimp only
  repeat' first
    | with_reducible exact Or.inl rfl
    | exact Or.inr (And.intro (by decide) (fun hk => by simp [hk]))
    | (with_reducible first
      | exact Or.inr (by decide) | exact Keeps.refl | assumption)
    | dsimp only
    | with_reducible apply Keeps.update)

theorem State.endSessions_keeps {w : List Fld} {s t : State} {a1} (hw : [.sec] ⊆ w) (h : Keeps w s t) :
    Keeps w s (State.endSessions t a1) := h.lift hw (by
  unfold State.endSessions
  try dsimp only
  repeat' first
    | (with_reducible first
      | exact Keeps.refl | assumption | refine State.setBox_keeps (by decide) ?_))

theorem State.writeMem_keeps {w : List Fld} {s t : State} {a1 a2 a3} (hw : [.stack, .tileW, .tileA, .ledge,
    .ue, .weak] ⊆ w) (h : Keeps w s t) :
    Keeps w s (State.writeMem t a1 a2 a3) := h.lift hw (by
  unfold State.writeMem
  try dsimp only
  repeat' first
    | with_reducible exact Or.inl rfl
    | exact Or.inr (And.intro (by decide) (fun hk => by simp [hk]))
    | (with_reducible first
      | exact Or.inr (by decide) | exact Keeps.refl | assumption)
    | dsimp only
    | split
    | with_reducible apply Keeps.update)

theorem State.zeroMem_keeps {w : List Fld} {s t : State} {a1 a2 a3} (hw : [.stack, .tileW, .tileA, .ledge,
    .ue, .weak] ⊆ w) (h : Keeps w s t) :
    Keeps w s (State.zeroMem t a1 a2 a3) := h.lift hw (by
  unfold State.zeroMem
  try dsimp only
  repeat' first
    | with_reducible exact Or.inl rfl
    | exact Or.inr (And.intro (by decide) (fun hk => by simp [hk]))
    | (with_reducible first
      | exact Or.inr (by decide) | exact Keeps.refl | assumption | refine State.writeMem_keeps (by decide) ?_
      | refine Keeps.ite ?_ ?_)
    | dsimp only
    | split
    | with_reducible apply Keeps.update)

theorem State.zeroLost_keeps {w : List Fld} {s t : State} (hw : [.tileW, .tileA, .ledge, .power, .vdes] ⊆ w)
    (h : Keeps w s t) :
    Keeps w s (State.zeroLost t) := h.lift hw (by
  unfold State.zeroLost
  try dsimp only
  repeat' first
    | with_reducible exact Or.inl rfl
    | exact Or.inr (And.intro (by decide) (fun hk => by simp [hk]))
    | (with_reducible first
      | exact Or.inr (by decide) | exact Keeps.refl | assumption | refine Keeps.ite ?_ ?_)
    | dsimp only
    | split
    | with_reducible apply Keeps.update)

theorem State.putHost_keeps {w : List Fld} {s t : State} {a1 a2} (hw : [.host] ⊆ w) (h : Keeps w s t) :
    Keeps w s (State.putHost t a1 a2) := h.lift hw (by
  unfold State.putHost
  try dsimp only
  repeat' first
    | with_reducible exact Or.inl rfl
    | exact Or.inr (And.intro (by decide) (fun hk => by simp [hk]))
    | (with_reducible first
      | exact Or.inr (by decide) | exact Keeps.refl | assumption | apply Keeps.update))

theorem State.configured_keeps {w : List Fld} {s t : State} {a1} (hw : [.outs] ⊆ w)
    (hk : ∀ x0, Keeps w s x0 → Keeps w s (a1 x0)) (h : Keeps w s t) :
    Keeps w s (State.configured t a1) := by
  have retry : Keeps [.outs] t { t with outs := .configRetry :: t.outs } := by
    apply Keeps.update Keeps.refl <;> first | exact Or.inl rfl | exact Or.inr (by decide)
  unfold State.configured
  split
  · exact hk _ h
  · split
    · exact h.lift hw retry
    · exact h

theorem State.wake_keeps {w : List Fld} {s t : State} (hw : [.regs, .power] ⊆ w) (h : Keeps w s t) :
    Keeps w s (State.wake t) := h.lift hw (by
  unfold State.wake
  try dsimp only
  repeat' first
    | with_reducible exact Or.inl rfl
    | exact Or.inr (And.intro (by decide) (fun hk => by simp [hk]))
    | (with_reducible first
      | exact Or.inr (by decide) | exact Keeps.refl | assumption | refine State.setRbit_keeps (by decide) ?_)
    | split
    | with_reducible apply Keeps.update)

theorem State.fillShares_keeps {w : List Fld} {s t : State} {a1} (hw : [.parts] ⊆ w) (h : Keeps w s t) :
    Keeps w s (State.fillShares t a1) := h.lift hw (by
  unfold State.fillShares
  try dsimp only
  repeat' first
    | (with_reducible first
      | exact Keeps.refl | assumption | refine State.setPart_keeps (by decide) ?_))

theorem State.takeShare_keeps {w : List Fld} {s t : State} {a1 a2 a3 a4 a5} (hw : [.parts] ⊆ w) (h : Keeps w s
    t) (r : State)
    (hr : State.takeShare t a1 a2 a3 a4 a5 = some r) : Keeps w s r := by
  unfold State.takeShare at hr
  dsimp only at hr
  repeat' split at hr
  all_goals first
    | contradiction
    | (injection hr with hr
       subst hr
       exact State.setPart_keeps hw (State.fillShares_keeps hw h))

theorem State.chargeCtl_keeps {w : List Fld} {s t : State} {a1 a2} (hw : [.ctl] ⊆ w) (h : Keeps w s t) :
    Keeps w s (State.chargeCtl t a1 a2) := h.lift hw (by
  unfold State.chargeCtl
  try dsimp only
  repeat' first
    | with_reducible exact Or.inl rfl
    | exact Or.inr (And.intro (by decide) (fun hk => by simp [hk]))
    | (with_reducible first
      | exact Or.inr (by decide) | exact Keeps.refl | assumption)
    | dsimp only
    | with_reducible apply Keeps.update)

theorem State.drawn_keeps {w : List Fld} {s t : State} (hw : [.free] ⊆ w) (h : Keeps w s t) :
    Keeps w s (State.drawn t) := h.lift hw (by
  unfold State.drawn
  try dsimp only
  repeat' first
    | with_reducible exact Or.inl rfl
    | exact Or.inr (And.intro (by decide) (fun hk => by simp [hk]))
    | (with_reducible first
      | exact Or.inr (by decide) | exact Keeps.refl | assumption | apply Keeps.update))

theorem State.setPba_keeps {w : List Fld} {s t : State} {a1 a2 a3} (hw : [.pba] ⊆ w) (h : Keeps w s t) :
    Keeps w s (State.setPba t a1 a2 a3) := h.lift hw (by
  unfold State.setPba
  try dsimp only
  repeat' first
    | with_reducible exact Or.inl rfl
    | exact Or.inr (And.intro (by decide) (fun hk => by simp [hk]))
    | (with_reducible first
      | exact Or.inr (by decide) | exact Keeps.refl | assumption)
    | dsimp only
    | with_reducible apply Keeps.update)

theorem State.sendMsix_keeps {w : List Fld} {s t : State} {a1 a2 a3} (hw : [.regs, .outs, .ctl] ⊆ w) (h :
    Keeps w s t) :
    Keeps w s (State.sendMsix t a1 a2 a3) := h.lift hw (by
  unfold State.sendMsix
  try dsimp only
  repeat' first
    | with_reducible exact Or.inl rfl
    | exact Or.inr (And.intro (by decide) (fun hk => by simp [hk]))
    | (with_reducible first
      | exact Or.inr (by decide) | exact Keeps.refl | assumption | refine State.chargeCtl_keeps (by decide) ?_
      | refine State.setReg_keeps (by decide) ?_ | refine Keeps.ite ?_ ?_)
    | split
    | with_reducible apply Keeps.update)

theorem State.setPend_keeps {w : List Fld} {s t : State} {a1 a2} (hw : [.regs] ⊆ w) (h : Keeps w s t) :
    Keeps w s (State.setPend t a1 a2) := h.lift hw (by
  unfold State.setPend
  try dsimp only
  repeat' first
    | (with_reducible first
      | exact Keeps.refl | assumption | refine State.setRbit_keeps (by decide) ?_))

theorem State.fireSource_keeps {w : List Fld} {s t : State} {a1} (hw : [.regs, .pba, .msixHeld, .outs, .ctl] ⊆
    w) (h : Keeps w s t) :
    Keeps w s (State.fireSource t a1) := h.lift hw (by
  unfold State.fireSource
  try dsimp only
  repeat' first
    | with_reducible exact Or.inl rfl
    | exact Or.inr (And.intro (by decide) (fun hk => by simp [hk]))
    | (with_reducible first
      | exact Or.inr (by decide) | exact Keeps.refl | assumption | refine State.setPba_keeps (by decide) ?_
      | refine State.sendMsix_keeps (by decide) ?_ | refine State.setPend_keeps (by decide) ?_
      | refine Keeps.ite ?_ ?_)
    | dsimp only
    | split
    | with_reducible apply Keeps.update)

theorem State.edge_keeps {w : List Fld} {s t : State} {a1} (hw : [.regs, .pba, .msixHeld, .outs, .ctl] ⊆ w) (h
    : Keeps w s t) :
    Keeps w s (State.edge t a1) := h.lift hw (by
  unfold State.edge
  try dsimp only
  repeat' first
    | (with_reducible first
      | exact Keeps.refl | assumption | refine State.setPend_keeps (by decide) ?_
      | refine State.bumpRf_keeps (by decide) ?_ | refine State.fireSource_keeps (by decide) ?_
      | refine Keeps.ite ?_ ?_)
    | split)

theorem State.summitApply_keeps {w : List Fld} {s t : State} {a1} (hw : [.regs, .pba, .msixHeld, .outs,
    .summit, .ctl] ⊆ w) (h : Keeps w s t) :
    Keeps w s (State.summitApply t a1) := h.lift hw (by
  unfold State.summitApply
  try dsimp only
  repeat' first
    | with_reducible exact Or.inl rfl
    | exact Or.inr (And.intro (by decide) (fun hk => by simp [hk]))
    | (with_reducible first
      | exact Or.inr (by decide) | exact Keeps.refl | assumption | refine State.bumpRf_keeps (by decide) ?_
      | refine State.edge_keeps (by decide) ?_ | refine Keeps.ite ?_ ?_)
    | split
    | with_reducible apply Keeps.update)

theorem State.record_keeps {w : List Fld} {s t : State} {a1 a2 a3 a4} (hw : [.regs, .pba, .msixHeld, .outs,
    .summit, .ctl] ⊆ w) (h : Keeps w s t) :
    Keeps w s (State.record t a1 a2 a3 a4) := h.lift hw (by
  unfold State.record
  try dsimp only
  repeat' first
    | with_reducible exact Or.inl rfl
    | exact Or.inr (And.intro (by decide) (fun hk => by simp [hk]))
    | (with_reducible first
      | exact Or.inr (by decide) | exact Keeps.refl | assumption | refine State.bumpRf_keeps (by decide) ?_
      | refine State.summitApply_keeps (by decide) ?_ | refine Keeps.ite ?_ ?_)
    | split
    | with_reducible apply Keeps.update)

theorem State.applyHeld_keeps {w : List Fld} {s t : State} (hw : [.regs, .pba, .msixHeld, .outs, .summit,
    .ctl] ⊆ w) (h : Keeps w s t) :
    Keeps w s (State.applyHeld t) := h.lift hw (by
  unfold State.applyHeld
  try dsimp only
  repeat' first
    | with_reducible exact Or.inl rfl
    | exact Or.inr (And.intro (by decide) (fun hk => by simp [hk]))
    | (with_reducible first
      | exact Or.inr (by decide) | exact Keeps.refl | assumption
      | refine State.summitApply_keeps (by decide) ?_ | refine Keeps.foldl (fun _ _ _ => ?_) _ ?_
      | apply Keeps.update))

theorem State.queueAdmin_keeps {w : List Fld} {s t : State} {a1 a2 a3 a4} (hw : [.adminEvents] ⊆ w) (h : Keeps
    w s t) :
    Keeps w s (State.queueAdmin t a1 a2 a3 a4) := h.lift hw (by
  unfold State.queueAdmin
  try dsimp only
  repeat' first
    | with_reducible exact Or.inl rfl
    | exact Or.inr (And.intro (by decide) (fun hk => by simp [hk]))
    | (with_reducible first
      | exact Or.inr (by decide) | exact Keeps.refl | assumption | apply Keeps.update))

theorem State.noteRefusal_keeps {w : List Fld} {s t : State} {a1 a2} (hw : [.regs, .pba, .msixHeld, .outs,
    .adminEvents, .ctl] ⊆ w) (h : Keeps w s t) :
    Keeps w s (State.noteRefusal t a1 a2) := h.lift hw (by
  unfold State.noteRefusal
  try dsimp only
  repeat' first
    | (with_reducible first
      | exact Keeps.refl | assumption | refine State.setReg_keeps (by decide) ?_
      | refine State.queueAdmin_keeps (by decide) ?_ | refine State.edge_keeps (by decide) ?_
      | refine State.bumpRf_keeps (by decide) ?_ | refine Keeps.ite ?_ ?_)
    | split)

theorem State.dropWaits_keeps {w : List Fld} {s t : State} {a1} (hw : [.parts] ⊆ w) (h : Keeps w s t) :
    Keeps w s (State.dropWaits t a1) := h.lift hw (by
  unfold State.dropWaits
  try dsimp only
  repeat' first
    | (with_reducible first
      | exact Keeps.refl | assumption | refine State.setPart_keeps (by decide) ?_)
    | dsimp only
    | split)

theorem State.haltRing_keeps {w : List Fld} {s t : State} {a1 a2} (hw : [.regs, .pba, .msixHeld, .outs,
    .rings, .adminEvents, .parts, .ctl] ⊆ w) (h : Keeps w s t) :
    Keeps w s (State.haltRing t a1 a2) := h.lift hw (by
  unfold State.haltRing
  try dsimp only
  repeat' first
    | (with_reducible first
      | exact Keeps.refl | assumption | refine State.setRbit_keeps (by decide) ?_
      | refine State.setRing_keeps (by decide) ?_ | refine State.dropWaits_keeps (by decide) ?_
      | refine State.queueAdmin_keeps (by decide) ?_ | refine State.edge_keeps (by decide) ?_
      | refine Keeps.ite ?_ ?_)
    | dsimp only
    | split)

theorem State.writeEntry_keeps {w : List Fld} {s t : State} {a1 a2 a3} (hw : [.regs, .host, .pba, .msixHeld,
    .outs, .rings, .adminEvents, .parts, .ctl] ⊆ w) (h : Keeps w s t) :
    Keeps w s (State.writeEntry t a1 a2 a3) := h.lift hw (by
  unfold State.writeEntry
  try dsimp only
  repeat' first
    | (with_reducible first
      | exact Keeps.refl | assumption | refine State.chargeCtl_keeps (by decide) ?_
      | refine State.setRing_keeps (by decide) ?_ | refine State.putHost_keeps (by decide) ?_
      | refine State.edge_keeps (by decide) ?_ | refine State.haltRing_keeps (by decide) ?_
      | refine State.noteRefusal_keeps (by decide) ?_ | refine Keeps.ite ?_ ?_)
    | split)

theorem State.flushAdmin_keeps {w : List Fld} {s t : State} {a0} (hw : [.regs, .host, .pba, .msixHeld, .outs,
    .rings, .adminEvents, .parts, .ctl] ⊆ w) (h : Keeps w s t) :
    Keeps w s (State.flushAdmin a0 t) := by
  induction a0 generalizing t with
  | zero => exact h
  | succ k ih =>
    unfold State.flushAdmin
    split
    · exact h
    · split
      · refine ih (State.writeEntry_keeps (List.Subset.trans (by decide) hw) (h.lift hw ?_))
        apply Keeps.update
        · exact Keeps.refl
        all_goals first
          | with_reducible exact Or.inl rfl
          | with_reducible exact Or.inr (by decide)
      · exact h

theorem State.deliverAdmin_keeps {w : List Fld} {s t : State} (hw : [.regs, .host, .pba, .msixHeld, .outs,
    .rings, .adminEvents, .parts, .ctl] ⊆ w) (h : Keeps w s t) :
    Keeps w s (State.deliverAdmin t) := h.lift hw (by
  unfold State.deliverAdmin
  try dsimp only
  repeat' first
    | (with_reducible first
      | exact Keeps.refl | assumption | refine State.flushAdmin_keeps (by decide) ?_))

theorem State.postAdmin_keeps {w : List Fld} {s t : State} {a1 a2 a3 a4} (hw : [.regs, .host, .pba, .msixHeld,
    .outs, .rings, .adminEvents, .parts, .ctl] ⊆ w) (h : Keeps w s t) :
    Keeps w s (State.postAdmin t a1 a2 a3 a4) := h.lift hw (by
  unfold State.postAdmin
  try dsimp only
  repeat' first
    | (with_reducible first
      | exact Keeps.refl | assumption | refine State.deliverAdmin_keeps (by decide) ?_
      | refine State.queueAdmin_keeps (by decide) ?_))

theorem State.stopRing_keeps {w : List Fld} {s t : State} {a1 a2} (hw : [.regs, .host, .pba, .msixHeld, .outs,
    .rings, .adminEvents, .parts, .ctl] ⊆ w) (h : Keeps w s t) :
    Keeps w s (State.stopRing t a1 a2) := h.lift hw (by
  unfold State.stopRing
  try dsimp only
  repeat' first
    | (with_reducible first
      | exact Keeps.refl | assumption | refine State.deliverAdmin_keeps (by decide) ?_
      | refine State.haltRing_keeps (by decide) ?_))

theorem State.refuseWrite_keeps {w : List Fld} {s t : State} {a1 a2} (hw : [.regs, .host, .pba, .msixHeld,
    .outs, .rings, .adminEvents, .parts, .ctl] ⊆ w) (h : Keeps w s t) :
    Keeps w s (State.refuseWrite t a1 a2) := h.lift hw (by
  unfold State.refuseWrite
  try dsimp only
  repeat' first
    | (with_reducible first
      | exact Keeps.refl | assumption | refine State.deliverAdmin_keeps (by decide) ?_
      | refine State.noteRefusal_keeps (by decide) ?_))

theorem State.flushPart_keeps {w : List Fld} {s t : State} {a0 a1} (hw : [.regs, .host, .pba, .msixHeld,
    .outs, .rings, .adminEvents, .parts, .ctl] ⊆ w) (h : Keeps w s t) :
    Keeps w s (State.flushPart a0 a1 t) := by
  induction a1 generalizing t with
  | zero => exact h
  | succ k ih =>
    unfold State.flushPart
    split
    · split
      · exact ih (State.writeEntry_keeps (List.Subset.trans (by decide) hw)
          (State.setPart_keeps (List.Subset.trans (by decide) hw) h))
      · exact h
    · exact h

theorem State.deliverPart_keeps {w : List Fld} {s t : State} {a1} (hw : [.regs, .host, .pba, .msixHeld, .outs,
    .rings, .adminEvents, .parts, .ctl] ⊆ w) (h : Keeps w s t) :
    Keeps w s (State.deliverPart t a1) := h.lift hw (by
  unfold State.deliverPart
  try dsimp only
  repeat' first
    | (with_reducible first
      | exact Keeps.refl | assumption | refine State.deliverAdmin_keeps (by decide) ?_
      | refine State.flushPart_keeps (by decide) ?_))

theorem State.postPart_keeps {w : List Fld} {s t : State} {a1 a2 a3 a4 a5 a6} (hw : [.regs, .host, .pba,
    .msixHeld, .outs, .summit, .rings, .adminEvents, .parts, .ctl] ⊆ w) (h : Keeps w s t) :
    Keeps w s (State.postPart t a1 a2 a3 a4 a5 a6) := h.lift hw (by
  unfold State.postPart
  try dsimp only
  repeat' first
    | (with_reducible first
      | exact Keeps.refl | assumption | refine State.setPart_keeps (by decide) ?_
      | refine State.deliverPart_keeps (by decide) ?_ | refine State.record_keeps (by decide) ?_
      | refine Keeps.ite ?_ ?_)
    | split)

theorem State.enterPart_keeps {w : List Fld} {s t : State} {a1 a2} (hw : [.regs, .host, .pba, .msixHeld,
    .outs, .rings, .adminEvents, .parts, .ctl] ⊆ w) (h : Keeps w s t) :
    Keeps w s (State.enterPart t a1 a2) := h.lift hw (by
  unfold State.enterPart
  try dsimp only
  repeat' first
    | (with_reducible first
      | exact Keeps.refl | assumption | refine State.postAdmin_keeps (by decide) ?_
      | refine State.edge_keeps (by decide) ?_ | refine State.setPart_keeps (by decide) ?_))

theorem State.updDesc_keeps {w : List Fld} {s t : State} {a1 a2 a3} (hw : [.rings] ⊆ w) (h : Keeps w s t) :
    Keeps w s (State.updDesc t a1 a2 a3) := h.lift hw (by
  unfold State.updDesc
  try dsimp only
  repeat' first
    | (with_reducible first
      | exact Keeps.refl | assumption | refine State.setRing_keeps (by decide) ?_ | refine Keeps.ite ?_ ?_)
    | dsimp only
    | split)

theorem State.startDesc_keeps {w : List Fld} {s t : State} {a1 a2} (hw : [.rings] ⊆ w) (h : Keeps w s t) :
    Keeps w s (State.startDesc t a1 a2) := h.lift hw (by
  unfold State.startDesc
  try dsimp only
  repeat' first
    | (with_reducible first
      | exact Keeps.refl | assumption | refine State.updDesc_keeps (by decide) ?_)
    | dsimp only)

theorem State.finishDesc_keeps {w : List Fld} {s t : State} {a1 a2 a3} (hw : [.rings] ⊆ w) (h : Keeps w s t) :
    Keeps w s (State.finishDesc t a1 a2 a3) := h.lift hw (by
  unfold State.finishDesc
  try dsimp only
  repeat' first
    | (with_reducible first
      | exact Keeps.refl | assumption | refine State.updDesc_keeps (by decide) ?_)
    | dsimp only)

theorem State.completeFront_keeps {w : List Fld} {s t : State} {a1} (hw : [.regs, .host, .pba, .msixHeld,
    .outs, .rings, .adminEvents, .parts, .ctl] ⊆ w) (h : Keeps w s t) :
    Keeps w s (State.completeFront t a1) := h.lift hw (by
  unfold State.completeFront
  try dsimp only
  repeat' first
    | (with_reducible first
      | exact Keeps.refl | assumption | refine State.setRing_keeps (by decide) ?_
      | refine State.deliverAdmin_keeps (by decide) ?_ | refine State.writeEntry_keeps (by decide) ?_
      | refine Keeps.ite ?_ ?_)
    | split)

theorem State.completeAll_keeps {w : List Fld} {s t : State} {a0 a1} (hw : [.regs, .host, .pba, .msixHeld,
    .outs, .rings, .adminEvents, .parts, .ctl] ⊆ w) (h : Keeps w s t) :
    Keeps w s (State.completeAll a0 a1 t) := by
  induction a1 generalizing t with
  | zero => exact h
  | succ k ih => exact ih (State.completeFront_keeps hw h)

theorem State.flushInds_keeps {w : List Fld} {s t : State} {a0 a1} (hw : [.regs, .host, .pba, .msixHeld,
    .outs, .rings, .adminEvents, .parts, .ctl] ⊆ w) (h : Keeps w s t) :
    Keeps w s (State.flushInds a0 a1 t) := by
  induction a1 generalizing t with
  | zero => exact h
  | succ k ih =>
    unfold State.flushInds
    dsimp only
    split
    · split
      · split
        · exact ih (State.writeEntry_keeps (List.Subset.trans (by decide) hw)
            (State.setRing_keeps (List.Subset.trans (by decide) hw)
              (State.putHost_keeps (List.Subset.trans (by decide) hw) h)))
        · exact State.haltRing_keeps (List.Subset.trans (by decide) hw)
            (State.noteRefusal_keeps (List.Subset.trans (by decide) hw) h)
      · exact h
    · exact h

theorem State.deliverInds_keeps {w : List Fld} {s t : State} {a1} (hw : [.regs, .host, .pba, .msixHeld, .outs,
    .rings, .adminEvents, .parts, .ctl] ⊆ w) (h : Keeps w s t) :
    Keeps w s (State.deliverInds t a1) := h.lift hw (by
  unfold State.deliverInds
  try dsimp only
  repeat' first
    | (with_reducible first
      | exact Keeps.refl | assumption | refine State.deliverAdmin_keeps (by decide) ?_
      | refine State.flushInds_keeps (by decide) ?_))

theorem State.indicate_keeps {w : List Fld} {s t : State} {a1 a2 a3 a4} (hw : [.regs, .host, .pba, .msixHeld,
    .outs, .rings, .adminEvents, .parts, .ctl] ⊆ w) (h : Keeps w s t) :
    Keeps w s (State.indicate t a1 a2 a3 a4) := h.lift hw (by
  unfold State.indicate
  try dsimp only
  repeat' first
    | (with_reducible first
      | exact Keeps.refl | assumption | refine State.deliverInds_keeps (by decide) ?_
      | refine State.setRing_keeps (by decide) ?_))

theorem State.deliverWaiting_keeps {w : List Fld} {s t : State} {a1} (hw : [.regs, .host, .pba, .msixHeld,
    .outs, .rings, .adminEvents, .parts, .ctl] ⊆ w) (h : Keeps w s t) :
    Keeps w s (State.deliverWaiting t a1) := h.lift hw (by
  unfold State.deliverWaiting
  try dsimp only
  repeat' first
    | (with_reducible first
      | exact Keeps.refl | assumption | refine State.deliverInds_keeps (by decide) ?_
      | refine State.deliverPart_keeps (by decide) ?_ | refine Keeps.ite ?_ ?_)
    | split)

theorem State.addFault_keeps {w : List Fld} {s t : State} {a1} (hw : [.units] ⊆ w) (h : Keeps w s t) :
    Keeps w s (State.addFault t a1) := h.lift hw (by
  unfold State.addFault
  try dsimp only
  repeat' first
    | with_reducible exact Or.inl rfl
    | exact Or.inr (And.intro (by decide) (fun hk => by simp [hk]))
    | (with_reducible first
      | exact Or.inr (by decide) | exact Keeps.refl | assumption | apply Keeps.update))

theorem State.markTests_keeps {w : List Fld} {s t : State} {a1 a2} (hw : [.units] ⊆ w) (h : Keeps w s t) :
    Keeps w s (State.markTests t a1 a2) := h.lift hw (by
  unfold State.markTests
  try dsimp only
  repeat' first
    | with_reducible exact Or.inl rfl
    | exact Or.inr (And.intro (by decide) (fun hk => by simp [hk]))
    | (with_reducible first
      | exact Or.inr (by decide) | exact Keeps.refl | assumption | refine Keeps.ite ?_ ?_)
    | dsimp only
    | split
    | with_reducible apply Keeps.update)

theorem State.noteDeclared_keeps {w : List Fld} {s t : State} {a1 a2 a3} (hw : [.regs, .pba, .msixHeld, .outs,
    .summit, .ctl] ⊆ w) (h : Keeps w s t) :
    Keeps w s (State.noteDeclared t a1 a2 a3) := h.lift hw (by
  unfold State.noteDeclared
  try dsimp only
  repeat' first
    | (with_reducible first
      | exact Keeps.refl | assumption | refine State.edge_keeps (by decide) ?_
      | refine State.setReg_keeps (by decide) ?_ | refine State.record_keeps (by decide) ?_))

theorem State.syncHolds_keeps {w : List Fld} {s t : State} {a1} (hw : [.islands] ⊆ w) (h : Keeps w s t) :
    Keeps w s (State.syncHolds t a1) := h.lift hw (by
  unfold State.syncHolds
  try dsimp only
  repeat' first
    | (with_reducible first
      | exact Keeps.refl | assumption | refine State.setIsland_keeps (by decide) ?_
      | refine Keeps.foldl (fun _ _ _ => ?_) _ ?_ | refine Keeps.foldl_fst (fun _ _ _ => ?_) _ ?_)
    | dsimp only)

theorem State.mapSpare_keeps {w : List Fld} {s t : State} {a1 a2} (hw : [.islands, .units] ⊆ w) (h : Keeps w s
    t) :
    Keeps w s (State.mapSpare t a1 a2) := h.lift hw (by
  unfold State.mapSpare
  try dsimp only
  repeat' first
    | with_reducible exact Or.inl rfl
    | exact Or.inr (And.intro (by decide) (fun hk => by simp [hk]))
    | (with_reducible first
      | exact Or.inr (by decide) | exact Keeps.refl | assumption | refine State.syncHolds_keeps (by decide) ?_
      | refine Keeps.ite ?_ ?_)
    | dsimp only
    | split
    | with_reducible apply Keeps.update)

theorem State.unmapSpare_keeps {w : List Fld} {s t : State} {a1 a2} (hw : [.islands, .units] ⊆ w) (h : Keeps w
    s t) :
    Keeps w s (State.unmapSpare t a1 a2) := h.lift hw (by
  unfold State.unmapSpare
  try dsimp only
  repeat' first
    | with_reducible exact Or.inl rfl
    | exact Or.inr (And.intro (by decide) (fun hk => by simp [hk]))
    | (with_reducible first
      | exact Or.inr (by decide) | exact Keeps.refl | assumption | refine State.syncHolds_keeps (by decide) ?_
      | refine Keeps.ite ?_ ?_)
    | dsimp only
    | split
    | with_reducible apply Keeps.update)

theorem State.retire_keeps {w : List Fld} {s t : State} {a1} (hw : [.regs, .pba, .msixHeld, .outs, .islands,
    .units, .summit, .ctl] ⊆ w) (h : Keeps w s t) :
    Keeps w s (State.retire t a1) := h.lift hw (by
  unfold State.retire
  try dsimp only
  repeat' first
    | with_reducible exact Or.inl rfl
    | exact Or.inr (And.intro (by decide) (fun hk => by simp [hk]))
    | (with_reducible first
      | exact Or.inr (by decide) | exact Keeps.refl | assumption | refine State.markTests_keeps (by decide) ?_
      | refine State.edge_keeps (by decide) ?_ | refine State.setReg_keeps (by decide) ?_
      | refine State.record_keeps (by decide) ?_ | refine State.syncHolds_keeps (by decide) ?_
      | refine Keeps.ite ?_ ?_)
    | dsimp only
    | split
    | with_reducible apply Keeps.update)

theorem State.repairSram_keeps {w : List Fld} {s t : State} {a1} (hw : [.units] ⊆ w) (h : Keeps w s t) :
    Keeps w s (State.repairSram t a1) := h.lift hw (by
  unfold State.repairSram
  try dsimp only
  repeat' first
    | with_reducible exact Or.inl rfl
    | exact Or.inr (And.intro (by decide) (fun hk => by simp [hk]))
    | (with_reducible first
      | exact Or.inr (by decide) | exact Keeps.refl | assumption | refine Keeps.ite ?_ ?_)
    | dsimp only
    | split
    | with_reducible apply Keeps.update)

theorem State.replaceWire_keeps {w : List Fld} {s t : State} {a1 a2 a3} (hw : [.units] ⊆ w) (h : Keeps w s t) :
    Keeps w s (State.replaceWire t a1 a2 a3) := h.lift hw (by
  unfold State.replaceWire
  try dsimp only
  repeat' first
    | with_reducible exact Or.inl rfl
    | exact Or.inr (And.intro (by decide) (fun hk => by simp [hk]))
    | (with_reducible first
      | exact Or.inr (by decide) | exact Keeps.refl | assumption | refine Keeps.ite ?_ ?_)
    | dsimp only
    | split
    | with_reducible apply Keeps.update)

theorem State.setVecBit_keeps {w : List Fld} {s t : State} {a1 a2 a3} (hw : [.regs] ⊆ w) (h : Keeps w s t) :
    Keeps w s (State.setVecBit t a1 a2 a3) := h.lift hw (by
  unfold State.setVecBit
  try dsimp only
  repeat' first
    | (with_reducible first
      | exact Keeps.refl | assumption | refine State.setRbit_keeps (by decide) ?_))

theorem State.moveTile_keeps {w : List Fld} {s t : State} {a1 a2 a3 a4} (hw : [.regs] ⊆ w) (h : Keeps w s t) :
    Keeps w s (State.moveTile t a1 a2 a3 a4) := h.lift hw (by
  unfold State.moveTile
  try dsimp only
  repeat' first
    | (with_reducible first
      | exact Keeps.refl | assumption | refine State.setVecBit_keeps (by decide) ?_ | refine Keeps.ite ?_ ?_)
    | split)

theorem State.recordUe_keeps {w : List Fld} {s t : State} {a1 a2} (hw : [.regs, .pba, .msixHeld, .outs,
    .summit, .ctl] ⊆ w) (h : Keeps w s t) :
    Keeps w s (State.recordUe t a1 a2) := h.lift hw (by
  unfold State.recordUe
  try dsimp only
  repeat' first
    | (with_reducible first
      | exact Keeps.refl | assumption | refine State.record_keeps (by decide) ?_
      | refine State.bumpRf_keeps (by decide) ?_ | refine State.setReg_keeps (by decide) ?_))

theorem State.noteUe_keeps {w : List Fld} {s t : State} {a1 a2} (hw : [.regs, .pba, .msixHeld, .outs, .summit,
    .ctl] ⊆ w) (h : Keeps w s t) :
    Keeps w s (State.noteUe t a1 a2) := h.lift hw (by
  unfold State.noteUe
  try dsimp only
  repeat' first
    | (with_reducible first
      | exact Keeps.refl | assumption | refine State.edge_keeps (by decide) ?_
      | refine State.recordUe_keeps (by decide) ?_))

theorem State.repairRow_keeps {w : List Fld} {s t : State} {a1} (hw : [.regs, .weak, .stackSt, .pba,
    .msixHeld, .outs, .units, .summit, .ctl] ⊆ w) (h : Keeps w s t) :
    Keeps w s (State.repairRow t a1) := h.lift hw (by
  unfold State.repairRow
  try dsimp only
  repeat' first
    | with_reducible exact Or.inl rfl
    | exact Or.inr (And.intro (by decide) (fun hk => by simp [hk]))
    | (with_reducible first
      | exact Or.inr (by decide) | exact Keeps.refl | assumption | refine State.record_keeps (by decide) ?_
      | refine Keeps.ite ?_ ?_)
    | dsimp only
    | split
    | with_reducible apply Keeps.update)

theorem State.stackCorrected_keeps {w : List Fld} {s t : State} {a1} (hw : [.regs, .weak, .stackSt, .pba,
    .msixHeld, .outs, .units, .summit, .ctl] ⊆ w) (h : Keeps w s t) :
    Keeps w s (State.stackCorrected t a1) := h.lift hw (by
  unfold State.stackCorrected
  try dsimp only
  repeat' first
    | (with_reducible first
      | exact Keeps.refl | assumption | refine State.record_keeps (by decide) ?_
      | refine State.bumpRf_keeps (by decide) ?_ | refine State.addFault_keeps (by decide) ?_
      | refine State.repairRow_keeps (by decide) ?_ | refine State.noteDeclared_keeps (by decide) ?_
      | refine Keeps.ite ?_ ?_)
    | split)

theorem State.corrects_keeps {w : List Fld} {s t : State} {a1} (hw : [.regs, .weak, .stackSt, .pba, .msixHeld,
    .outs, .units, .summit, .ctl] ⊆ w) (h : Keeps w s t) :
    Keeps w s (State.corrects t a1) := h.lift hw (by
  unfold State.corrects
  try dsimp only
  repeat' first
    | (with_reducible first
      | exact Keeps.refl | assumption | refine State.stackCorrected_keeps (by decide) ?_
      | refine Keeps.foldl (fun _ _ _ => ?_) _ ?_ | refine Keeps.foldl_fst (fun _ _ _ => ?_) _ ?_)
    | dsimp only)

theorem State.putStack_keeps {w : List Fld} {s t : State} {a1 a2} (hw : [.regs, .stack, .tileW, .tileA,
    .ledge, .ue, .weak, .stackSt, .pba, .msixHeld, .outs, .units, .summit, .ctl] ⊆ w) (h : Keeps w s t) :
    Keeps w s (State.putStack t a1 a2) := h.lift hw (by
  unfold State.putStack
  try dsimp only
  repeat' first
    | (with_reducible first
      | exact Keeps.refl | assumption | refine State.writeMem_keeps (by decide) ?_
      | refine State.stackCorrected_keeps (by decide) ?_ | refine Keeps.foldl (fun _ _ _ => ?_) _ ?_)
    | dsimp only)

theorem State.recordSram_keeps {w : List Fld} {s t : State} {a1 a2 a3 a4} (hw : [.regs, .pba, .msixHeld,
    .outs, .summit, .ctl] ⊆ w) (h : Keeps w s t) :
    Keeps w s (State.recordSram t a1 a2 a3 a4) := h.lift hw (by
  unfold State.recordSram
  try dsimp only
  repeat' first
    | (with_reducible first
      | exact Keeps.refl | assumption | refine State.record_keeps (by decide) ?_ | refine Keeps.ite ?_ ?_)
    | split)

theorem State.writePieces_keeps {w : List Fld} {s t : State} {a1 a2} (hw : [.regs, .stack, .tileW, .tileA,
    .ledge, .ue, .weak, .stackSt, .pba, .msixHeld, .outs, .units, .summit, .ctl] ⊆ w) (h : Keeps w s t) :
    Keeps w s (State.writePieces t a1 a2) := by
  induction a1 generalizing t a2 with
  | nil => exact h
  | cons r rs ih => exact ih (State.putStack_keeps (List.Subset.trans (by decide) hw) h)

theorem State.issuerWrite_keeps {w : List Fld} {s t : State} {a1 a2 a3} (hw : [.regs, .stack, .tileW, .tileA,
    .ledge, .ue, .weak, .stackSt, .pba, .msixHeld, .outs, .units, .summit, .ctl] ⊆ w) (h : Keeps w s t) :
    Keeps w s (State.issuerWrite t a1 a2 a3) := h.lift hw (by
  unfold State.issuerWrite
  try dsimp only
  repeat' first
    | (with_reducible first
      | exact Keeps.refl | assumption | refine State.writePieces_keeps (by decide) ?_))

theorem State.failUe_keeps {w : List Fld} {s t : State} {a1} (hw : [.regs, .pba, .msixHeld, .outs, .summit,
    .ctl] ⊆ w) (h : Keeps w s t) :
    Keeps w s (State.failUe t a1) := h.lift hw (by
  unfold State.failUe
  try dsimp only
  repeat' first
    | (with_reducible first
      | exact Keeps.refl | assumption | refine State.noteUe_keeps (by decide) ?_))

theorem State.checkCtx_keeps {w : List Fld} {s t : State} {a1 a2} (hw : [.regs, .host, .pba, .msixHeld, .outs,
    .summit, .rings, .adminEvents, .parts, .ctl] ⊆ w) (h : Keeps w s t) :
    Keeps w s (State.checkCtx t a1 a2) := h.lift hw (by
  unfold State.checkCtx
  try dsimp only
  repeat' first
    | (with_reducible first
      | exact Keeps.refl | assumption | refine State.failUe_keeps (by decide) ?_
      | refine State.setCtx_keeps (by decide) ?_ | refine State.postPart_keeps (by decide) ?_
      | refine Keeps.ite ?_ ?_)
    | split)

theorem State.failMedia_keeps {w : List Fld} {s t : State} {a1} (hw : [.regs, .pba, .msixHeld, .outs, .summit,
    .ctl] ⊆ w) (h : Keeps w s t) :
    Keeps w s (State.failMedia t a1) := h.lift hw (by
  unfold State.failMedia
  try dsimp only
  repeat' first
    | (with_reducible first
      | exact Keeps.refl | assumption | refine State.failUe_keeps (by decide) ?_
      | refine State.recordSram_keeps (by decide) ?_)
    | split)

theorem State.issuerCorrects_keeps {w : List Fld} {s t : State} {a1 a2 a3} (hw : [.regs, .weak, .stackSt,
    .pba, .msixHeld, .outs, .units, .summit, .ctl] ⊆ w) (h : Keeps w s t) :
    Keeps w s (State.issuerCorrects t a1 a2 a3) := h.lift hw (by
  unfold State.issuerCorrects
  try dsimp only
  repeat' first
    | (with_reducible first
      | exact Keeps.refl | assumption | refine State.corrects_keeps (by decide) ?_))

theorem State.account_keeps {w : List Fld} {s t : State} {a1 a2} (hw : [.parts] ⊆ w) (h : Keeps w s t) :
    Keeps w s (State.account t a1 a2) := h.lift hw (by
  unfold State.account
  try dsimp only
  repeat' first
    | (with_reducible first
      | exact Keeps.refl | assumption | refine State.setPart_keeps (by decide) ?_)
    | split)

theorem State.admitJob_keeps {w : List Fld} {s t : State} {a1 a2 a3} (hw : [.regs, .host, .pba, .msixHeld,
    .outs, .summit, .rings, .adminEvents, .parts, .ctl] ⊆ w)
    (hk : ∀ x0 x1 x2, Keeps w s x0 → Keeps w s (a3 x0 x1 x2)) (h : Keeps w s t) :
    Keeps w s (State.admitJob t a1 a2 a3) := by
  unfold State.admitJob
  try dsimp only
  repeat' first
    | (with_reducible first
      | exact Keeps.refl | assumption | refine hk _ _ _ ?_
      | refine State.checkCtx_keeps (List.Subset.trans (by decide) hw) ?_
      | refine State.finishDesc_keeps (List.Subset.trans (by decide) hw) ?_ | refine Keeps.ite ?_ ?_)
    | split

end Sys2Proof.Machine
end

