-- ==== Sys2Proof/Laws/KeepsHost.lean ====
section
/-! SUPPORT. What the operations of the host accesses and the schedule may write: for each, the parts
of the state it changes at most, and that it keeps the maps canonical. -/

-- The many lemmas below are elaborated one after another: the package is checked as one text, and fewer wait at once.
set_option Elab.async false

namespace Sys2Proof.Machine

theorem State.applyDoorbell_keeps {w : List Fld} {s t : State} {a1 a2 a3} (hw : [.regs, .host, .pba,
    .msixHeld, .outs, .rings, .adminEvents, .parts, .ctl] ⊆ w) (h : Keeps w s t) :
    Keeps w s (State.applyDoorbell t a1 a2 a3) := h.lift hw (by
  unfold State.applyDoorbell
  try dsimp only
  repeat' first
    | (with_reducible first
      | exact Keeps.refl | assumption | refine State.setRing_keeps (by decide) ?_
      | refine State.deliverWaiting_keeps (by decide) ?_ | refine State.stopRing_keeps (by decide) ?_
      | refine Keeps.ite ?_ ?_)
    | split)

theorem ringEnable_keeps {w : List Fld} {s t : State} {a0 a1 a2 a3 a4} (hw : [.regs, .host, .pba, .msixHeld,
    .outs, .rings, .adminEvents, .parts, .ctl] ⊆ w) (h : Keeps w s t) :
    Keeps w s (ringEnable a0 a1 a2 a3 a4 t) := h.lift hw (by
  unfold ringEnable
  try dsimp only
  repeat' first
    | (with_reducible first
      | exact Keeps.refl | assumption | refine State.setRbit_keeps (by decide) ?_
      | refine State.applyWrite_keeps (by decide) ?_ | refine State.setRing_keeps (by decide) ?_
      | refine State.deliverAdmin_keeps (by decide) ?_ | refine State.applyDoorbell_keeps (by decide) ?_
      | refine State.deliverWaiting_keeps (by decide) ?_ | refine Keeps.ite ?_ ?_)
    | split)

theorem State.ringOff_keeps {w : List Fld} {s t : State} {a1} (hw : [.regs, .rings] ⊆ w) (h : Keeps w s t) :
    Keeps w s (State.ringOff t a1) := h.lift hw (by
  unfold State.ringOff
  try dsimp only
  repeat' first
    | (with_reducible first
      | exact Keeps.refl | assumption | refine State.setRbit_keeps (by decide) ?_
      | refine State.setRing_keeps (by decide) ?_ | refine Keeps.ite ?_ ?_)
    | split)

theorem State.disableRing_keeps {w : List Fld} {s t : State} {a1} (hw : [.regs, .rings, .parts] ⊆ w) (h :
    Keeps w s t) :
    Keeps w s (State.disableRing t a1) := h.lift hw (by
  unfold State.disableRing
  try dsimp only
  repeat' first
    | (with_reducible first
      | exact Keeps.refl | assumption | refine State.ringOff_keeps (by decide) ?_
      | refine State.setRing_keeps (by decide) ?_ | refine State.dropWaits_keeps (by decide) ?_
      | refine Keeps.ite ?_ ?_)
    | split)

theorem ringDisable_keeps {w : List Fld} {s t : State} {a0 a1} (hw : [.regs, .rings, .parts] ⊆ w) (h : Keeps w
    s t) :
    Keeps w s (ringDisable a0 a1 t) := h.lift hw (by
  unfold ringDisable
  try dsimp only
  repeat' first
    | (with_reducible first
      | exact Keeps.refl | assumption | refine State.disableRing_keeps (by decide) ?_ | refine Keeps.ite ?_ ?_)
    | split)

theorem doorbellEvent_keeps {w : List Fld} {s t : State} {a0 a1} (hw : [.regs, .host, .pba, .msixHeld, .outs,
    .power, .rings, .adminEvents, .parts, .ctl] ⊆ w) (h : Keeps w s t) :
    Keeps w s (doorbellEvent a0 a1 t) := h.lift hw (by
  unfold doorbellEvent
  try dsimp only
  repeat' first
    | (with_reducible first
      | exact Keeps.refl | assumption | refine State.applyDoorbell_keeps (by decide) ?_
      | refine State.wake_keeps (by decide) ?_ | refine Keeps.foldl (fun _ _ _ => ?_) _ ?_
      | refine Keeps.ite ?_ ?_)
    | dsimp only
    | split)

theorem doorbellTimeout_keeps {w : List Fld} {s t : State} {a0} (hw : [.regs, .host, .pba, .msixHeld, .outs,
    .rings, .adminEvents, .parts, .ctl] ⊆ w) (h : Keeps w s t) :
    Keeps w s (doorbellTimeout a0 t) := h.lift hw (by
  unfold doorbellTimeout
  try dsimp only
  repeat' first
    | (with_reducible first
      | exact Keeps.refl | assumption | refine State.stopRing_keeps (by decide) ?_ | refine Keeps.ite ?_ ?_)
    | split)

theorem adminDbWrite_keeps {w : List Fld} {s t : State} {a0 a1 a2} (hw : [.regs, .host, .pba, .msixHeld,
    .outs, .power, .rings, .adminEvents, .parts, .ctl] ⊆ w) (h : Keeps w s t) :
    Keeps w s (adminDbWrite a0 a1 a2 t) := h.lift hw (by
  unfold adminDbWrite
  try dsimp only
  repeat' first
    | (with_reducible first
      | exact Keeps.refl | assumption | refine State.applyWrite_keeps (by decide) ?_
      | refine State.applyDoorbell_keeps (by decide) ?_ | refine State.wake_keeps (by decide) ?_
      | refine Keeps.ite ?_ ?_)
    | split)

theorem descriptorFetch_keeps {w : List Fld} {s t : State} {a0 a1} (hw : [.regs, .host, .pba, .msixHeld,
    .outs, .rings, .adminEvents, .parts, .ctl] ⊆ w) (h : Keeps w s t) :
    Keeps w s (descriptorFetch a0 a1 t) := h.lift hw (by
  unfold descriptorFetch
  try dsimp only
  repeat' first
    | (with_reducible first
      | exact Keeps.refl | assumption | refine State.stopRing_keeps (by decide) ?_
      | refine State.chargeCtl_keeps (by decide) ?_ | refine State.setRing_keeps (by decide) ?_
      | refine Keeps.ite ?_ ?_)
    | dsimp only
    | split)

theorem descriptorCompletion_keeps {w : List Fld} {s t : State} {a0} (hw : [.regs, .host, .pba, .msixHeld,
    .outs, .rings, .adminEvents, .parts, .ctl] ⊆ w) (h : Keeps w s t) :
    Keeps w s (descriptorCompletion a0 t) := h.lift hw (by
  unfold descriptorCompletion
  try dsimp only
  repeat' first
    | (with_reducible first
      | exact Keeps.refl | assumption | refine State.ringOff_keeps (by decide) ?_
      | refine State.deliverWaiting_keeps (by decide) ?_ | refine State.completeFront_keeps (by decide) ?_
      | refine Keeps.ite ?_ ?_)
    | split)

theorem paceBlindRelease_keeps {w : List Fld} {s t : State} (hw : [.regs, .host, .pba, .msixHeld, .outs,
    .rings, .adminEvents, .parts, .ctl] ⊆ w) (h : Keeps w s t) :
    Keeps w s (paceBlindRelease t) := h.lift hw (by
  unfold paceBlindRelease
  try dsimp only
  repeat' first
    | (with_reducible first
      | exact Keeps.refl | assumption | refine State.ringOff_keeps (by decide) ?_
      | refine State.deliverPart_keeps (by decide) ?_ | refine State.completeAll_keeps (by decide) ?_
      | refine Keeps.foldl (fun _ _ _ => ?_) _ ?_ | refine Keeps.ite ?_ ?_)
    | dsimp only
    | split)

theorem windowLock_keeps {w : List Fld} {s t : State} (hw : [.regs] ⊆ w) (h : Keeps w s t) :
    Keeps w s (windowLock t) := h.lift hw (by
  unfold windowLock
  try dsimp only
  repeat' first
    | (with_reducible first
      | exact Keeps.refl | assumption | refine State.setRbit_keeps (by decide) ?_ | refine Keeps.ite ?_ ?_)
    | split)

theorem intcSetWrite_keeps {w : List Fld} {s t : State} {a0 a1} (hw : [.regs, .pba, .msixHeld, .outs, .ctl] ⊆
    w) (h : Keeps w s t) :
    Keeps w s (intcSetWrite a0 a1 t) := h.lift hw (by
  unfold intcSetWrite
  try dsimp only
  repeat' first
    | (with_reducible first
      | exact Keeps.refl | assumption | refine State.edge_keeps (by decide) ?_
      | refine Keeps.foldl (fun _ _ _ => ?_) _ ?_ | refine Keeps.ite ?_ ?_)
    | dsimp only
    | split)

theorem intcEnWrite_keeps {w : List Fld} {s t : State} {a0 a1} (hw : [.regs, .pba, .msixHeld, .outs, .ctl] ⊆
    w) (h : Keeps w s t) :
    Keeps w s (intcEnWrite a0 a1 t) := h.lift hw (by
  unfold intcEnWrite
  try dsimp only
  repeat' first
    | (with_reducible first
      | exact Keeps.refl | assumption | refine State.applyWrite_keeps (by decide) ?_
      | refine State.fireSource_keeps (by decide) ?_ | refine Keeps.foldl (fun _ _ _ => ?_) _ ?_
      | refine Keeps.ite ?_ ?_)
    | dsimp only
    | split)

theorem msixUnmask_keeps {w : List Fld} {s t : State} {a0 a1} (hw : [.regs, .msixT, .pba, .msixHeld, .outs,
    .ctl] ⊆ w) (h : Keeps w s t) :
    Keeps w s (msixUnmask a0 a1 t) := h.lift hw (by
  unfold msixUnmask
  try dsimp only
  repeat' first
    | with_reducible exact Or.inl rfl
    | exact Or.inr (And.intro (by decide) (fun hk => by simp [hk]))
    | (with_reducible first
      | exact Or.inr (by decide) | exact Keeps.refl | assumption | refine State.sendMsix_keeps (by decide) ?_
      | refine State.setPba_keeps (by decide) ?_ | refine State.setPend_keeps (by decide) ?_
      | refine Keeps.foldl (fun _ _ _ => ?_) _ ?_ | refine Keeps.foldl_fst (fun _ _ _ => ?_) _ ?_
      | refine Keeps.ite ?_ ?_)
    | dsimp only
    | split
    | with_reducible apply Keeps.update)

theorem cxlLinkTrained_keeps {w : List Fld} {s t : State} {a0 a1} (hw : [.regs, .pba, .msixHeld, .outs,
    .cxlLink, .ctl] ⊆ w) (h : Keeps w s t) :
    Keeps w s (cxlLinkTrained a0 a1 t) := h.lift hw (by
  unfold cxlLinkTrained
  try dsimp only
  repeat' first
    | with_reducible exact Or.inl rfl
    | exact Or.inr (And.intro (by decide) (fun hk => by simp [hk]))
    | (with_reducible first
      | exact Or.inr (by decide) | exact Keeps.refl | assumption | refine State.edge_keeps (by decide) ?_
      | refine Keeps.ite ?_ ?_)
    | split
    | with_reducible apply Keeps.update)

theorem State.cxlWrite_keeps {w : List Fld} {s t : State} {a1 a2 a3 a4} (hw : [.regs, .host, .stack, .tileW,
    .tileA, .ledge, .ue, .weak, .stackSt, .pba, .msixHeld, .outs, .units, .summit, .rings, .adminEvents,
    .parts, .ctl] ⊆ w) (h : Keeps w s t) :
    Keeps w s (State.cxlWrite t a1 a2 a3 a4) := h.lift hw (by
  unfold State.cxlWrite
  try dsimp only
  repeat' first
    | (with_reducible first
      | exact Keeps.refl | assumption | refine State.edge_keeps (by decide) ?_
      | refine State.failUe_keeps (by decide) ?_ | refine State.putStack_keeps (by decide) ?_
      | refine State.postPart_keeps (by decide) ?_ | refine Keeps.ite ?_ ?_)
    | split)

theorem State.cxlRead_keeps {w : List Fld} {s t : State} {a1 a2 a3 a4} (hw : [.regs, .weak, .stackSt, .pba,
    .msixHeld, .outs, .units, .summit, .ctl] ⊆ w) (h : Keeps w s t) :
    Keeps w s (State.cxlRead t a1 a2 a3 a4) := h.lift hw (by
  unfold State.cxlRead
  try dsimp only
  repeat' first
    | with_reducible exact Or.inl rfl
    | exact Or.inr (And.intro (by decide) (fun hk => by simp [hk]))
    | (with_reducible first
      | exact Or.inr (by decide) | exact Keeps.refl | assumption | refine State.edge_keeps (by decide) ?_
      | refine State.failUe_keeps (by decide) ?_ | refine State.corrects_keeps (by decide) ?_
      | refine Keeps.ite ?_ ?_)
    | split
    | with_reducible apply Keeps.update)

theorem State.copyFail_keeps {w : List Fld} {s t : State} {a1 a2 a3} (hw : [.regs, .host, .pba, .msixHeld,
    .outs, .summit, .rings, .adminEvents, .parts, .ctl] ⊆ w) (h : Keeps w s t) (r : State × Result)
    (hr : State.copyFail t a1 a2 a3 = some r) : Keeps w s r.1 := by
  have media : ∀ (o : Option Nat), o.map (fun b => (t.failUe b, t.mediaResult a2.partition b)) = some r → Keeps w s r.1 := by
    intro o e
    obtain ⟨b, _, rfl⟩ := Option.map_eq_some_iff.mp e
    exact State.failUe_keeps (List.Subset.trans (by decide) hw) h
  unfold State.copyFail at hr
  dsimp only at hr
  repeat' first
    | exact media _ hr
    | contradiction
    | (injection hr with hr; subst hr; first
        | exact h
        | exact State.refuseWrite_keeps (List.Subset.trans (by decide) hw) h)
    | split at hr

theorem State.passUnits_keeps {w : List Fld} {s t : State} {a0 a1 a2 a3 a4} (hw : [.parts] ⊆ w) (h : Keeps w s
    t) (r : _)
    (hr : State.passUnits a0 a1 a2 a3 a4 t = r) : Keeps w s r.1 := by
  subst hr
  induction a3 generalizing t a4 with
  | zero => exact h
  | succ k ih =>
    unfold State.passUnits
    split
    · exact h
    · split
      · exact h
      · dsimp only
        split
        · exact h
        · next e => exact ih (State.takeShare_keeps hw h _ e)

theorem State.copyStep_keeps {w : List Fld} {s t : State} {a1 a2 a3 a4} (hw : [.regs, .host, .stack, .tileW,
    .tileA, .ledge, .ue, .weak, .stackSt, .pba, .msixHeld, .outs, .units, .summit, .rings, .adminEvents,
    .parts, .ctl] ⊆ w) (h : Keeps w s t) :
    Keeps w s (State.copyStep t a1 a2 a3 a4) := h.lift hw (by
  have acc : ∀ {u : State} {f}, Keeps [.regs, .host, .stack, .tileW, .tileA, .ledge, .ue, .weak, .stackSt, .pba, .msixHeld, .outs, .units, .summit, .rings, .adminEvents, .parts, .ctl] t u → Keeps [.regs, .host, .stack, .tileW, .tileA, .ledge, .ue, .weak, .stackSt, .pba, .msixHeld, .outs, .units, .summit, .rings, .adminEvents, .parts, .ctl] t (u.account a3 f) :=
    fun k => State.account_keeps (by decide) k
  unfold State.copyStep
  dsimp only
  have hq : Keeps [.regs, .host, .stack, .tileW, .tileA, .ledge, .ue, .weak, .stackSt, .pba, .msixHeld, .outs, .units, .summit, .rings, .adminEvents, .parts, .ctl] t (t.passUnits a3 (decide (wfield a2.words 1 0 0 = 1)) (if decide (wfield a2.words 1 0 0 = 1) = true then 512 else 4096)
      ((wordAt a2.words 8).toNat / (if decide (wfield a2.words 1 0 0 = 1) = true then 512 else 4096) + 1) ((wordAt a2.words 8).toNat - a2.moved)).1 :=
    State.passUnits_keeps (by decide) Keeps.refl _ rfl
  generalize State.passUnits a3 _ _ _ _ t = q at hq ⊢
  repeat' first
    | with_reducible exact hq
    | (with_reducible refine State.finishDesc_keeps (by decide) (State.copyFail_keeps (by decide) ?_ (_, _) (by assumption)))
    | (with_reducible refine State.finishDesc_keeps (by decide) ?_)
    | (with_reducible refine State.updDesc_keeps (by decide) ?_)
    | (with_reducible refine acc ?_)
    | (with_reducible refine State.issuerCorrects_keeps (by decide) ?_)
    | (with_reducible refine State.putHost_keeps (by decide) ?_)
    | (with_reducible refine State.issuerWrite_keeps (by decide) ?_)
    | (with_reducible refine Keeps.ite ?_ ?_)
    | split)

theorem copy_keeps {w : List Fld} {s t : State} {a0 a1} (hw : [.regs, .host, .stack, .tileW, .tileA, .ledge,
    .ue, .weak, .stackSt, .pba, .msixHeld, .outs, .units, .summit, .rings, .adminEvents, .parts, .ctl] ⊆ w) (h
    : Keeps w s t) :
    Keeps w s (copy a0 a1 t) := h.lift hw (by
  unfold copy
  split
  · exact Keeps.ite (State.copyStep_keeps (by decide) Keeps.refl) Keeps.refl
  · refine State.admitJob_keeps (by decide) (fun u d i hu => ?_) Keeps.refl
    split
    · next e => exact State.finishDesc_keeps (by decide) (State.copyFail_keeps (by decide) hu _ e)
    · exact State.copyStep_keeps (by decide) (State.startDesc_keeps (by decide) hu))

theorem l1Buf_keeps {w : List Fld} {s t : State} {a0} (hw : [.regs, .host, .pba, .msixHeld, .outs, .rings,
    .adminEvents, .parts, .ctl] ⊆ w) (h : Keeps w s t) :
    Keeps w s (l1Buf a0 t) := h.lift hw (by
  unfold l1Buf
  try dsimp only
  repeat' first
    | (with_reducible first
      | exact Keeps.refl | assumption | refine State.finishDesc_keeps (by decide) ?_
      | refine State.deliverInds_keeps (by decide) ?_ | refine State.startDesc_keeps (by decide) ?_
      | refine Keeps.ite ?_ ?_)
    | split)

theorem indicationDrop_keeps {w : List Fld} {s t : State} {a0} (hw : [.regs, .pba, .msixHeld, .outs, .summit,
    .rings, .ctl] ⊆ w) (h : Keeps w s t) :
    Keeps w s (indicationDrop a0 t) := h.lift hw (by
  unfold indicationDrop
  try dsimp only
  repeat' first
    | (with_reducible first
      | exact Keeps.refl | assumption | refine State.record_keeps (by decide) ?_
      | refine State.setRing_keeps (by decide) ?_ | refine Keeps.ite ?_ ?_)
    | split)

@[simp] theorem State.wf_copyFromPart (s : State) (p off : Nat) (m : SMap Byte) (dst n : Nat)
    (h : SMap.wf byteZero m = true) : SMap.wf byteZero (s.copyFromPart p off m dst n) = true := by
  unfold State.copyFromPart
  generalize s.partPieces p off n = l
  have key : ∀ (l : List Range) (x : SMap Byte × Nat), SMap.wf byteZero x.1 = true →
      SMap.wf byteZero (l.foldl (fun (acc : SMap Byte × Nat) r =>
        (SMap.copyIn byteZero acc.1 acc.2 s.stack r.1 r.2, acc.2 + r.2)) x).1 = true := by
    intro l
    induction l with
    | nil => exact fun _ hx => hx
    | cons r l ih => exact fun x hx => ih _ (SMap.wf_copyIn _ _ _ _ _ hx)
  exact key l _ h

theorem State.updKernel_keeps {w : List Fld} {s t : State} {a1 a2} (hw : [.kernels] ⊆ w) (h : Keeps w s t) :
    Keeps w s (State.updKernel t a1 a2) := h.lift hw (by
  unfold State.updKernel
  try dsimp only
  repeat' first
    | with_reducible exact Or.inl rfl
    | exact Or.inr (And.intro (by decide) (fun hk => by simp [hk]))
    | (with_reducible first
      | exact Or.inr (by decide) | exact Keeps.refl | assumption | refine Keeps.ite ?_ ?_)
    | dsimp only
    | split
    | with_reducible apply Keeps.update)

theorem State.dropKernel_keeps {w : List Fld} {s t : State} {a1} (hw : [.kernels] ⊆ w) (h : Keeps w s t) :
    Keeps w s (State.dropKernel t a1) := h.lift hw (by
  unfold State.dropKernel
  try dsimp only
  repeat' first
    | with_reducible exact Or.inl rfl
    | exact Or.inr (And.intro (by decide) (fun hk => by simp [hk]))
    | (with_reducible first
      | exact Or.inr (by decide) | exact Keeps.refl | assumption | refine Keeps.ite ?_ ?_)
    | dsimp only
    | split
    | with_reducible apply Keeps.update)

theorem State.finishJob_keeps {w : List Fld} {s t : State} {a1 a2 a3 a4} (hw : [.rings, .parts] ⊆ w) (h :
    Keeps w s t) :
    Keeps w s (State.finishJob t a1 a2 a3 a4) := h.lift hw (by
  unfold State.finishJob
  try dsimp only
  repeat' first
    | (with_reducible first
      | exact Keeps.refl | assumption | refine State.finishDesc_keeps (by decide) ?_
      | refine State.setCtx_keeps (by decide) ?_ | refine Keeps.foldl (fun _ _ _ => ?_) _ ?_
      | refine Keeps.foldl_fst (fun _ _ _ => ?_) _ ?_)
    | dsimp only
    | split)

theorem State.keepCmds_keeps {w : List Fld} {s t : State} {a1} (hw : [.rope] ⊆ w) (h : Keeps w s t) :
    Keeps w s (State.keepCmds t a1) := h.lift hw (by
  unfold State.keepCmds
  try dsimp only
  repeat' first
    | with_reducible exact Or.inl rfl
    | exact Or.inr (And.intro (by decide) (fun hk => by simp [hk]))
    | (with_reducible first
      | exact Or.inr (by decide) | exact Keeps.refl | assumption | apply Keeps.update))

theorem State.concludeJob_keeps {w : List Fld} {s t : State} {a1 a2 a3 a4} (hw : [.rings, .parts, .rope] ⊆ w)
    (h : Keeps w s t) :
    Keeps w s (State.concludeJob t a1 a2 a3 a4) := h.lift hw (by
  unfold State.concludeJob
  try dsimp only
  repeat' first
    | (with_reducible first
      | exact Keeps.refl | assumption | refine State.updDesc_keeps (by decide) ?_
      | refine State.keepCmds_keeps (by decide) ?_ | refine State.finishJob_keeps (by decide) ?_
      | refine Keeps.ite ?_ ?_)
    | dsimp only
    | split)

theorem State.endJob_keeps {w : List Fld} {s t : State} {a1 a2 a3 a4} (hw : [.rings, .parts, .rope] ⊆ w) (h :
    Keeps w s t) :
    Keeps w s (State.endJob t a1 a2 a3 a4) := h.lift hw (by
  unfold State.endJob
  try dsimp only
  repeat' first
    | (with_reducible first
      | exact Keeps.refl | assumption | refine State.keepCmds_keeps (by decide) ?_
      | refine State.finishJob_keeps (by decide) ?_ | refine Keeps.ite ?_ ?_)
    | dsimp only
    | split)

theorem State.settleJob_keeps {w : List Fld} {s t : State} {a1 a2 a3} (hw : [.rings, .parts, .rope] ⊆ w) (h :
    Keeps w s t) :
    Keeps w s (State.settleJob t a1 a2 a3) := h.lift hw (by
  unfold State.settleJob
  try dsimp only
  repeat' first
    | (with_reducible first
      | exact Keeps.refl | assumption | refine State.concludeJob_keeps (by decide) ?_
      | refine State.endJob_keeps (by decide) ?_ | refine Keeps.ite ?_ ?_)
    | dsimp only
    | split)

theorem State.saveCmds_keeps {w : List Fld} {s t : State} {a1 a2} (hw : [.rope] ⊆ w) (h : Keeps w s t) :
    Keeps w s (State.saveCmds t a1 a2) := h.lift hw (by
  unfold State.saveCmds
  try dsimp only
  repeat' first
    | with_reducible exact Or.inl rfl
    | exact Or.inr (And.intro (by decide) (fun hk => by simp [hk]))
    | (with_reducible first
      | exact Or.inr (by decide) | exact Keeps.refl | assumption | refine Keeps.ite ?_ ?_)
    | dsimp only
    | split
    | with_reducible apply Keeps.update)

theorem State.resumeCmds_keeps {w : List Fld} {s t : State} {a1 a2} (hw : [.stack, .tileW, .tileA, .ledge,
    .ue, .weak, .rings, .parts, .rope] ⊆ w) (h : Keeps w s t) :
    Keeps w s (State.resumeCmds t a1 a2) := h.lift hw (by
  unfold State.resumeCmds
  try dsimp only
  repeat' first
    | with_reducible exact Or.inl rfl
    | exact Or.inr (And.intro (by decide) (fun hk => by simp [hk]))
    | (with_reducible first
      | exact Or.inr (by decide) | exact Keeps.refl | assumption | refine State.writeMem_keeps (by decide) ?_
      | refine State.settleJob_keeps (by decide) ?_ | refine Keeps.foldl (fun _ _ _ => ?_) _ ?_
      | refine Keeps.foldl_fst (fun _ _ _ => ?_) _ ?_ | refine Keeps.ite ?_ ?_)
    | dsimp only
    | split
    | with_reducible apply Keeps.update)

theorem State.putAcct_keeps {w : List Fld} {s t : State} {a1 a2} (hw : [.regs, .host, .pba, .msixHeld, .outs,
    .rings, .adminEvents, .parts, .ctl] ⊆ w) (h : Keeps w s t) :
    Keeps w s (State.putAcct t a1 a2) := h.lift hw (by
  unfold State.putAcct
  try dsimp only
  repeat' first
    | (with_reducible first
      | exact Keeps.refl | assumption | refine State.putHost_keeps (by decide) ?_
      | refine State.refuseWrite_keeps (by decide) ?_ | refine Keeps.ite ?_ ?_)
    | split)

theorem State.writeAcct_keeps {w : List Fld} {s t : State} {a1 a2} (hw : [.regs, .host, .pba, .msixHeld,
    .outs, .rings, .adminEvents, .parts, .ctl] ⊆ w) (h : Keeps w s t) :
    Keeps w s (State.writeAcct t a1 a2) := h.lift hw (by
  unfold State.writeAcct
  try dsimp only
  repeat' first
    | (with_reducible first
      | exact Keeps.refl | assumption | refine State.account_keeps (by decide) ?_
      | refine State.putAcct_keeps (by decide) ?_)
    | dsimp only)

theorem State.meterHs_keeps {w : List Fld} {s t : State} {a1 a2 a3} (hw : [.parts] ⊆ w) (h : Keeps w s t) :
    Keeps w s (State.meterHs t a1 a2 a3) := h.lift hw (by
  unfold State.meterHs
  try dsimp only
  repeat' first
    | (with_reducible first
      | exact Keeps.refl | assumption | refine State.setPart_keeps (by decide) ?_)
    | dsimp only
    | split)

theorem State.copyToPart_keeps {w : List Fld} {s t : State} {a1 a2 a3 a4 a5} (hw : [.stack, .ue, .weak] ⊆ w)
    (h : Keeps w s t) :
    Keeps w s (State.copyToPart t a1 a2 a3 a4 a5) := h.lift hw (by
  unfold State.copyToPart
  try dsimp only
  repeat' first
    | with_reducible exact Or.inl rfl
    | exact Or.inr (And.intro (by decide) (fun hk => by simp [hk]))
    | (with_reducible first
      | exact Or.inr (by decide) | exact Keeps.refl | assumption | refine Keeps.foldl (fun _ _ _ => ?_) _ ?_
      | refine Keeps.foldl_fst (fun _ _ _ => ?_) _ ?_)
    | dsimp only
    | with_reducible apply Keeps.update)

theorem State.chargeMoves_keeps {w : List Fld} {s t : State} {a1 a2 a3} (hw : [.parts] ⊆ w) (h : Keeps w s t) :
    Keeps w s (State.chargeMoves t a1 a2 a3) := h.lift hw (by
  unfold State.chargeMoves
  try dsimp only
  repeat' first
    | (with_reducible first
      | exact Keeps.refl | assumption | refine State.account_keeps (by decide) ?_)
    | dsimp only)

theorem State.saveContext_keeps {w : List Fld} {s t : State} {a1 a2} (hw : [.regs, .stack, .tileW, .tileA,
    .ledge, .ue, .weak, .stackSt, .pba, .msixHeld, .outs, .units, .summit, .parts, .ctl, .rope] ⊆ w) (h :
    Keeps w s t) :
    Keeps w s (State.saveContext t a1 a2) := h.lift hw (by
  unfold State.saveContext
  try dsimp only
  repeat' first
    | (with_reducible first
      | exact Keeps.refl | assumption | refine State.issuerWrite_keeps (by decide) ?_
      | refine State.copyToPart_keeps (by decide) ?_ | refine State.chargeMoves_keeps (by decide) ?_
      | refine State.saveCmds_keeps (by decide) ?_ | refine State.setCtx_keeps (by decide) ?_
      | refine Keeps.foldl (fun _ _ _ => ?_) _ ?_ | refine Keeps.foldl_fst (fun _ _ _ => ?_) _ ?_)
    | dsimp only)

theorem State.loadStage_keeps {w : List Fld} {s t : State} {a1 a2 a3 a4} (hw : [.tileA] ⊆ w) (h : Keeps w s t) :
    Keeps w s (State.loadStage t a1 a2 a3 a4) := h.lift hw (by
  unfold State.loadStage
  try dsimp only
  repeat' first
    | with_reducible exact Or.inl rfl
    | exact Or.inr (And.intro (by decide) (fun hk => by simp [hk]))
    | (with_reducible first
      | exact Or.inr (by decide) | exact Keeps.refl | assumption | apply Keeps.update))

theorem State.loadLedge_keeps {w : List Fld} {s t : State} {a1 a2 a3 a4} (hw : [.ledge] ⊆ w) (h : Keeps w s t) :
    Keeps w s (State.loadLedge t a1 a2 a3 a4) := h.lift hw (by
  unfold State.loadLedge
  try dsimp only
  repeat' first
    | with_reducible exact Or.inl rfl
    | exact Or.inr (And.intro (by decide) (fun hk => by simp [hk]))
    | (with_reducible first
      | exact Or.inr (by decide) | exact Keeps.refl | assumption | apply Keeps.update))

theorem State.loadWeight_keeps {w : List Fld} {s t : State} {a1 a2 a3 a4 a5 a6} (hw : [.tileW] ⊆ w) (h : Keeps
    w s t) :
    Keeps w s (State.loadWeight t a1 a2 a3 a4 a5 a6) := h.lift hw (by
  unfold State.loadWeight
  try dsimp only
  repeat' first
    | with_reducible exact Or.inl rfl
    | exact Or.inr (And.intro (by decide) (fun hk => by simp [hk]))
    | (with_reducible first
      | exact Or.inr (by decide) | exact Keeps.refl | assumption | apply Keeps.update))

theorem State.restoreContext_keeps {w : List Fld} {s t : State} {a1 a2} (hw : [.stack, .tileW, .tileA, .ledge,
    .ue, .weak, .rings, .parts, .rope] ⊆ w) (h : Keeps w s t) :
    Keeps w s (State.restoreContext t a1 a2) := h.lift hw (by
  unfold State.restoreContext
  try dsimp only
  repeat' first
    | (with_reducible first
      | exact Keeps.refl | assumption | refine State.loadStage_keeps (by decide) ?_
      | refine State.loadLedge_keeps (by decide) ?_ | refine State.resumeCmds_keeps (by decide) ?_
      | refine State.setCtx_keeps (by decide) ?_ | refine Keeps.foldl (fun _ _ _ => ?_) _ ?_
      | refine Keeps.foldl_fst (fun _ _ _ => ?_) _ ?_)
    | dsimp only)

theorem State.maybeSave_keeps {w : List Fld} {s t : State} {a1} (hw : [.regs, .stack, .tileW, .tileA, .ledge,
    .ue, .weak, .stackSt, .pba, .msixHeld, .outs, .units, .summit, .parts, .ctl, .rope] ⊆ w) (h : Keeps w s t)
    :
    Keeps w s (State.maybeSave t a1) := h.lift hw (by
  unfold State.maybeSave
  try dsimp only
  repeat' first
    | (with_reducible first
      | exact Keeps.refl | assumption | refine State.saveContext_keeps (by decide) ?_
      | refine State.setPart_keeps (by decide) ?_ | refine Keeps.ite ?_ ?_)
    | split)

theorem State.finishUnit_keeps {w : List Fld} {s t : State} {a1 a2} (hw : [.regs, .host, .stack, .tileW,
    .tileA, .ledge, .ue, .weak, .stackSt, .pba, .msixHeld, .outs, .units, .summit, .rings, .adminEvents,
    .parts, .ctl, .kernels, .rope] ⊆ w) (h : Keeps w s t) :
    Keeps w s (State.finishUnit t a1 a2) := h.lift hw (by
  unfold State.finishUnit
  try dsimp only
  repeat' first
    | with_reducible exact Or.inl rfl
    | exact Or.inr (And.intro (by decide) (fun hk => by simp [hk]))
    | (with_reducible first
      | exact Or.inr (by decide) | exact Keeps.refl | assumption | refine State.account_keeps (by decide) ?_
      | refine State.dropKernel_keeps (by decide) ?_ | refine State.finishDesc_keeps (by decide) ?_
      | refine State.maybeSave_keeps (by decide) ?_ | refine State.writeAcct_keeps (by decide) ?_
      | refine Keeps.ite ?_ ?_)
    | dsimp only
    | split
    | with_reducible apply Keeps.update)

theorem State.kernelBoundary_keeps {w : List Fld} {s t : State} {a1} (hw : [.regs, .host, .stack, .tileW,
    .tileA, .ledge, .ue, .weak, .stackSt, .pba, .msixHeld, .outs, .units, .summit, .rings, .adminEvents,
    .parts, .ctl, .kernels, .rope] ⊆ w) (h : Keeps w s t) :
    Keeps w s (State.kernelBoundary t a1) := h.lift hw (by
  unfold State.kernelBoundary
  try dsimp only
  repeat' first
    | with_reducible exact Or.inl rfl
    | exact Or.inr (And.intro (by decide) (fun hk => by simp [hk]))
    | (with_reducible first
      | exact Or.inr (by decide) | exact Keeps.refl | assumption | refine State.account_keeps (by decide) ?_
      | refine State.dropKernel_keeps (by decide) ?_ | refine State.updDesc_keeps (by decide) ?_
      | refine State.endJob_keeps (by decide) ?_ | refine State.finishDesc_keeps (by decide) ?_
      | refine State.maybeSave_keeps (by decide) ?_ | refine State.writeAcct_keeps (by decide) ?_
      | refine Keeps.ite ?_ ?_)
    | dsimp only
    | split
    | with_reducible apply Keeps.update)

theorem State.failKernel_keeps {w : List Fld} {s t : State} {a1 a2 a3} (hw : [.regs, .stack, .tileW, .tileA,
    .ledge, .ue, .weak, .stackSt, .pba, .msixHeld, .outs, .units, .summit, .rings, .parts, .ctl, .kernels,
    .rope] ⊆ w) (h : Keeps w s t) :
    Keeps w s (State.failKernel t a1 a2 a3) := h.lift hw (by
  unfold State.failKernel
  try dsimp only
  repeat' first
    | (with_reducible first
      | exact Keeps.refl | assumption | refine State.concludeJob_keeps (by decide) ?_
      | refine State.dropKernel_keeps (by decide) ?_ | refine State.maybeSave_keeps (by decide) ?_)
    | split)

theorem State.endKernel_keeps {w : List Fld} {s t : State} {a1 a2} (hw : [.regs, .stack, .tileW, .tileA,
    .ledge, .ue, .weak, .stackSt, .pba, .msixHeld, .outs, .units, .summit, .rings, .parts, .ctl, .kernels,
    .rope] ⊆ w) (h : Keeps w s t) :
    Keeps w s (State.endKernel t a1 a2) := h.lift hw (by
  unfold State.endKernel
  try dsimp only
  repeat' first
    | (with_reducible first
      | exact Keeps.refl | assumption | refine State.failKernel_keeps (by decide) ?_))

theorem State.abortKernel_keeps {w : List Fld} {s t : State} {a1 a2} (hw : [.regs, .stack, .tileW, .tileA,
    .ledge, .ue, .weak, .stackSt, .pba, .msixHeld, .outs, .units, .summit, .rings, .parts, .ctl, .kernels,
    .rope] ⊆ w) (h : Keeps w s t) :
    Keeps w s (State.abortKernel t a1 a2) := h.lift hw (by
  unfold State.abortKernel
  try dsimp only
  repeat' first
    | (with_reducible first
      | exact Keeps.refl | assumption | refine State.endKernel_keeps (by decide) ?_
      | refine State.account_keeps (by decide) ?_)
    | dsimp only)

theorem State.serveSems_keeps {w : List Fld} {s t : State} {a1 a2} (hw : [.rings, .parts] ⊆ w) (h : Keeps w s
    t) :
    Keeps w s (State.serveSems t a1 a2) := h.lift hw (by
  unfold State.serveSems
  try dsimp only
  repeat' first
    | (with_reducible first
      | exact Keeps.refl | assumption | refine State.finishDesc_keeps (by decide) ?_
      | refine State.setCtx_keeps (by decide) ?_ | refine Keeps.foldl (fun _ _ _ => ?_) _ ?_
      | refine Keeps.foldl_fst (fun _ _ _ => ?_) _ ?_ | refine Keeps.ite ?_ ?_)
    | dsimp only
    | split)

theorem State.scrubUnit_keeps {w : List Fld} {s t : State} {a1} (hw : [.stack, .tileW, .tileA, .ledge, .ue,
    .weak, .vdes] ⊆ w) (h : Keeps w s t) :
    Keeps w s (State.scrubUnit t a1) := h.lift hw (by
  unfold State.scrubUnit
  try dsimp only
  repeat' first
    | (with_reducible first
      | exact Keeps.refl | assumption | refine State.zeroMem_keeps (by decide) ?_
      | refine State.setVde_keeps (by decide) ?_ | refine Keeps.ite ?_ ?_)
    | split)

theorem State.scrubLedge_keeps {w : List Fld} {s t : State} {a1} (hw : [.stack, .tileW, .tileA, .ledge, .ue,
    .weak] ⊆ w) (h : Keeps w s t) :
    Keeps w s (State.scrubLedge t a1) := h.lift hw (by
  unfold State.scrubLedge
  try dsimp only
  repeat' first
    | (with_reducible first
      | exact Keeps.refl | assumption | refine State.zeroMem_keeps (by decide) ?_
      | refine Keeps.foldl (fun _ _ _ => ?_) _ ?_ | refine Keeps.foldl_fst (fun _ _ _ => ?_) _ ?_
      | refine Keeps.ite ?_ ?_)
    | dsimp only
    | split)

theorem State.scrubPart_keeps {w : List Fld} {s t : State} {a1} (hw : [.stack, .tileW, .tileA, .ledge, .ue,
    .weak, .vdes] ⊆ w) (h : Keeps w s t) :
    Keeps w s (State.scrubPart t a1) := h.lift hw (by
  unfold State.scrubPart
  try dsimp only
  repeat' first
    | (with_reducible first
      | exact Keeps.refl | assumption | refine State.scrubLedge_keeps (by decide) ?_
      | refine State.scrubUnit_keeps (by decide) ?_ | refine Keeps.foldl (fun _ _ _ => ?_) _ ?_))

theorem State.scrubRecord_keeps {w : List Fld} {s t : State} {a1 a2 a3} (hw : [.regs, .pba, .msixHeld, .outs,
    .summit, .ctl] ⊆ w) (h : Keeps w s t) :
    Keeps w s (State.scrubRecord t a1 a2 a3) := h.lift hw (by
  unfold State.scrubRecord
  try dsimp only
  repeat' first
    | (with_reducible first
      | exact Keeps.refl | assumption | refine State.record_keeps (by decide) ?_
      | refine State.setReg_keeps (by decide) ?_ | refine Keeps.ite ?_ ?_)
    | split)

end Sys2Proof.Machine
end

