-- ==== Sys2Proof/Laws/KeepsPartition.lean ====
section
/-! SUPPORT. What the operations of the partitions, leases, islands, jobs and vector engines may write: for each, the parts
of the state it changes at most, and that it keeps the maps canonical. -/

-- The many lemmas below are elaborated one after another: the package is checked as one text, and fewer wait at once.
set_option Elab.async false

namespace Sys2Proof.Machine

theorem State.pqWrite_keeps {w : List Fld} {s t : State} {a1 a2 a3} (hw : [.regs, .stack, .tileW, .tileA,
    .ledge, .ue, .weak, .stackSt, .pba, .msixHeld, .outs, .units, .summit, .ctl] ⊆ w) (h : Keeps w s t) :
    Keeps w s (State.pqWrite t a1 a2 a3) := h.lift hw (by
  unfold State.pqWrite
  try dsimp only
  repeat' first
    | (with_reducible first
      | exact Keeps.refl | assumption | refine State.failUe_keeps (by decide) ?_
      | refine State.issuerWrite_keeps (by decide) ?_ | refine Keeps.ite ?_ ?_)
    | split)

theorem State.pqNote_keeps {w : List Fld} {s t : State} {a1} (hw : [.regs, .pba, .msixHeld, .outs, .summit,
    .ctl] ⊆ w) (h : Keeps w s t) :
    Keeps w s (State.pqNote t a1) := h.lift hw (by
  unfold State.pqNote
  try dsimp only
  repeat' first
    | (with_reducible first
      | exact Keeps.refl | assumption | refine State.failUe_keeps (by decide) ?_)
    | split)

theorem State.txDone_keeps {w : List Fld} {s t : State} {a1 a2 a3} (hw : [.regs, .stack, .tileW, .tileA,
    .ledge, .ue, .weak, .stackSt, .pba, .msixHeld, .outs, .units, .summit, .ctl] ⊆ w) (h : Keeps w s t) :
    Keeps w s (State.txDone t a1 a2 a3) := h.lift hw (by
  unfold State.txDone
  try dsimp only
  repeat' first
    | (with_reducible first
      | exact Keeps.refl | assumption | refine State.pqWrite_keeps (by decide) ?_)
    | split)

theorem State.discardFrames_keeps {w : List Fld} {s t : State} {a1} (hw : [.regs, .stack, .tileW, .tileA,
    .ledge, .ue, .weak, .stackSt, .pba, .msixHeld, .outs, .units, .summit, .ctl, .ports] ⊆ w) (h : Keeps w s
    t) :
    Keeps w s (State.discardFrames t a1) := h.lift hw (by
  unfold State.discardFrames
  try dsimp only
  repeat' first
    | (with_reducible first
      | exact Keeps.refl | assumption | refine State.txDone_keeps (by decide) ?_
      | refine State.dropFrames_keeps (by decide) ?_ | refine Keeps.foldl (fun _ _ _ => ?_) _ ?_
      | refine Keeps.ite ?_ ?_)
    | dsimp only
    | split)

theorem State.leaseEvent_keeps {w : List Fld} {s t : State} {a1 a2} (hw : [.regs, .host, .pba, .msixHeld,
    .outs, .summit, .rings, .adminEvents, .parts, .ctl] ⊆ w) (h : Keeps w s t) :
    Keeps w s (State.leaseEvent t a1 a2) := h.lift hw (by
  unfold State.leaseEvent
  try dsimp only
  repeat' first
    | with_reducible exact Or.inl rfl
    | exact Or.inr (And.intro (by decide) (fun hk => by simp [hk]))
    | (with_reducible first
      | exact Or.inr (by decide) | exact Keeps.refl | assumption | refine State.postPart_keeps (by decide) ?_
      | refine State.deliverAdmin_keeps (by decide) ?_ | refine Keeps.ite ?_ ?_)
    | split
    | with_reducible apply Keeps.update)

theorem State.updLease_keeps {w : List Fld} {s t : State} {a1 a2} (hw : [.leases] ⊆ w) (h : Keeps w s t) :
    Keeps w s (State.updLease t a1 a2) := h.lift hw (by
  unfold State.updLease
  try dsimp only
  repeat' first
    | with_reducible exact Or.inl rfl
    | exact Or.inr (And.intro (by decide) (fun hk => by simp [hk]))
    | (with_reducible first
      | exact Or.inr (by decide) | exact Keeps.refl | assumption | refine Keeps.ite ?_ ?_)
    | dsimp only
    | split
    | with_reducible apply Keeps.update)

theorem State.startReclaim_keeps {w : List Fld} {s t : State} {a1 a2} (hw : [.regs, .host, .pba, .msixHeld,
    .outs, .summit, .rings, .adminEvents, .parts, .ctl, .leases] ⊆ w) (h : Keeps w s t) :
    Keeps w s (State.startReclaim t a1 a2) := h.lift hw (by
  unfold State.startReclaim
  try dsimp only
  repeat' first
    | (with_reducible first
      | exact Keeps.refl | assumption | refine State.leaseEvent_keeps (by decide) ?_
      | refine State.updLease_keeps (by decide) ?_)
    | dsimp only
    | split)

theorem State.setCfgError_keeps {w : List Fld} {s t : State} {a1 a2} (hw : [.parts] ⊆ w) (h : Keeps w s t) :
    Keeps w s (State.setCfgError t a1 a2) := h.lift hw (by
  unfold State.setCfgError
  try dsimp only
  repeat' first
    | (with_reducible first
      | exact Keeps.refl | assumption | refine State.setPart_keeps (by decide) ?_))

theorem partitionEnable_keeps {w : List Fld} {s t : State} {a0} (hw : [.regs, .host, .tileW, .tileA, .ledge,
    .pba, .msixHeld, .outs, .power, .rings, .adminEvents, .parts, .ctl, .vdes] ⊆ w) (h : Keeps w s t) :
    Keeps w s (partitionEnable a0 t) := h.lift hw (by
  unfold partitionEnable
  try dsimp only
  repeat' first
    | (with_reducible first
      | exact Keeps.refl | assumption | refine State.enterPart_keeps (by decide) ?_
      | refine State.setRbit_keeps (by decide) ?_ | refine State.setPart_keeps (by decide) ?_
      | refine State.zeroLost_keeps (by decide) ?_ | refine State.setCfgError_keeps (by decide) ?_
      | refine Keeps.ite ?_ ?_)
    | split)

theorem partitionResume_keeps {w : List Fld} {s t : State} {a0} (hw : [.regs, .host, .pba, .msixHeld, .outs,
    .rings, .adminEvents, .parts, .ctl] ⊆ w) (h : Keeps w s t) :
    Keeps w s (partitionResume a0 t) := h.lift hw (by
  unfold partitionResume
  try dsimp only
  repeat' first
    | (with_reducible first
      | exact Keeps.refl | assumption | refine State.setCfgError_keeps (by decide) ?_
      | refine State.enterPart_keeps (by decide) ?_ | refine State.setPart_keeps (by decide) ?_
      | refine Keeps.ite ?_ ?_)
    | split)

theorem State.dropKernels_keeps {w : List Fld} {s t : State} {a1} (hw : [.kernels] ⊆ w) (h : Keeps w s t) :
    Keeps w s (State.dropKernels t a1) := h.lift hw (by
  unfold State.dropKernels
  try dsimp only
  repeat' first
    | with_reducible exact Or.inl rfl
    | exact Or.inr (And.intro (by decide) (fun hk => by simp [hk]))
    | (with_reducible first
      | exact Or.inr (by decide) | exact Keeps.refl | assumption)
    | dsimp only
    | with_reducible apply Keeps.update)

theorem State.clearContexts_keeps {w : List Fld} {s t : State} {a1} (hw : [.parts] ⊆ w) (h : Keeps w s t) :
    Keeps w s (State.clearContexts t a1) := h.lift hw (by
  unfold State.clearContexts
  try dsimp only
  repeat' first
    | (with_reducible first
      | exact Keeps.refl | assumption | refine State.setPart_keeps (by decide) ?_)
    | dsimp only)

theorem State.startReset_keeps {w : List Fld} {s t : State} {a1 a2} (hw : [.regs, .host, .stack, .tileW,
    .tileA, .ledge, .ue, .weak, .stackSt, .pba, .msixHeld, .outs, .units, .summit, .rings, .adminEvents,
    .parts, .ctl, .kernels, .ports, .rope, .sec] ⊆ w) (h : Keeps w s t) :
    Keeps w s (State.startReset t a1 a2) := h.lift hw (by
  unfold State.startReset
  try dsimp only
  repeat' first
    | (with_reducible first
      | exact Keeps.refl | assumption | refine State.endSessions_keeps (by decide) ?_
      | refine State.discardFrames_keeps (by decide) ?_ | refine State.keepCmds_keeps (by decide) ?_
      | refine State.setPart_keeps (by decide) ?_ | refine State.bumpRf_keeps (by decide) ?_
      | refine State.setRing_keeps (by decide) ?_ | refine State.clearContexts_keeps (by decide) ?_
      | refine State.dropKernels_keeps (by decide) ?_ | refine State.postPart_keeps (by decide) ?_
      | refine Keeps.foldl (fun _ _ _ => ?_) _ ?_ | refine Keeps.ite ?_ ?_)
    | dsimp only
    | split)

theorem State.resetWrite_keeps {w : List Fld} {s t : State} {a1 a2} (hw : [.regs, .host, .stack, .tileW,
    .tileA, .ledge, .ue, .weak, .stackSt, .pba, .msixHeld, .outs, .units, .summit, .rings, .adminEvents,
    .parts, .ctl, .kernels, .ports, .rope, .sec] ⊆ w) (h : Keeps w s t) :
    Keeps w s (State.resetWrite t a1 a2) := h.lift hw (by
  unfold State.resetWrite
  try dsimp only
  repeat' first
    | (with_reducible first
      | exact Keeps.refl | assumption | refine State.startReset_keeps (by decide) ?_
      | refine State.enterPart_keeps (by decide) ?_ | refine Keeps.ite ?_ ?_)
    | split)

theorem quiesceReset_keeps {w : List Fld} {s t : State} {a0} (hw : [.regs, .host, .stack, .tileW, .tileA,
    .ledge, .ue, .weak, .stackSt, .pba, .msixHeld, .outs, .units, .summit, .rings, .adminEvents, .parts, .ctl,
    .kernels, .ports, .rope, .sec] ⊆ w) (h : Keeps w s t) :
    Keeps w s (quiesceReset a0 t) := h.lift hw (by
  unfold quiesceReset
  try dsimp only
  repeat' first
    | (with_reducible first
      | exact Keeps.refl | assumption | refine State.setCfgError_keeps (by decide) ?_
      | refine State.resetWrite_keeps (by decide) ?_ | refine Keeps.ite ?_ ?_)
    | split)

theorem generationDiscard_keeps {w : List Fld} {s t : State} {a0} (hw : [.regs, .host, .stack, .tileW, .tileA,
    .ledge, .ue, .weak, .stackSt, .pba, .msixHeld, .outs, .units, .summit, .rings, .adminEvents, .parts, .ctl,
    .kernels, .ports, .rope, .sec] ⊆ w) (h : Keeps w s t) :
    Keeps w s (generationDiscard a0 t) := h.lift hw (by
  unfold generationDiscard
  try dsimp only
  repeat' first
    | (with_reducible first
      | exact Keeps.refl | assumption | refine State.setCfgError_keeps (by decide) ?_
      | refine State.resetWrite_keeps (by decide) ?_ | refine Keeps.ite ?_ ?_)
    | split)

theorem State.drainRing_keeps {w : List Fld} {s t : State} {a1 a2 a3} (hw : [.rings] ⊆ w) (h : Keeps w s t) :
    Keeps w s (State.drainRing t a1 a2 a3) := h.lift hw (by
  unfold State.drainRing
  try dsimp only
  repeat' first
    | (with_reducible first
      | exact Keeps.refl | assumption | refine State.setRing_keeps (by decide) ?_ | refine Keeps.ite ?_ ?_)
    | dsimp only
    | split)

theorem State.drainRings_keeps {w : List Fld} {s t : State} {a1 a2 a3} (hw : [.rings] ⊆ w) (h : Keeps w s t) :
    Keeps w s (State.drainRings t a1 a2 a3) := h.lift hw (by
  unfold State.drainRings
  try dsimp only
  repeat' first
    | (with_reducible first
      | exact Keeps.refl | assumption | refine State.drainRing_keeps (by decide) ?_
      | refine Keeps.foldl (fun _ _ _ => ?_) _ ?_ | refine Keeps.foldl_fst (fun _ _ _ => ?_) _ ?_)
    | dsimp only)

theorem resetDrainDone_keeps {w : List Fld} {s t : State} {a0 a1} (hw : [.rings, .parts] ⊆ w) (h : Keeps w s
    t) :
    Keeps w s (resetDrainDone a0 a1 t) := h.lift hw (by
  unfold resetDrainDone
  try dsimp only
  repeat' first
    | (with_reducible first
      | exact Keeps.refl | assumption | refine State.clearContexts_keeps (by decide) ?_
      | refine State.drainRings_keeps (by decide) ?_ | refine State.setPart_keeps (by decide) ?_
      | refine Keeps.ite ?_ ?_)
    | split)

theorem State.release_keeps {w : List Fld} {s t : State} {a1} (hw : [.regs, .host, .stack, .tileW, .tileA,
    .ledge, .ue, .weak, .stackSt, .pba, .msixHeld, .outs, .units, .summit, .rings, .adminEvents, .parts, .ctl,
    .kernels, .ports, .rope, .sec] ⊆ w) (h : Keeps w s t) :
    Keeps w s (State.release t a1) := h.lift hw (by
  unfold State.release
  try dsimp only
  repeat' first
    | (with_reducible first
      | exact Keeps.refl | assumption | refine State.startReset_keeps (by decide) ?_
      | refine State.enterPart_keeps (by decide) ?_ | refine State.setPart_keeps (by decide) ?_)
    | split)

theorem partitionRelease_keeps {w : List Fld} {s t : State} {a0} (hw : [.regs, .host, .stack, .tileW, .tileA,
    .ledge, .ue, .weak, .stackSt, .pba, .msixHeld, .outs, .units, .summit, .rings, .adminEvents, .parts, .ctl,
    .kernels, .ports, .rope, .sec] ⊆ w) (h : Keeps w s t) :
    Keeps w s (partitionRelease a0 t) := h.lift hw (by
  unfold partitionRelease
  try dsimp only
  repeat' first
    | (with_reducible first
      | exact Keeps.refl | assumption | refine State.setCfgError_keeps (by decide) ?_
      | refine State.setRbit_keeps (by decide) ?_ | refine State.release_keeps (by decide) ?_
      | refine Keeps.ite ?_ ?_)
    | split)

theorem vfEnableCleared_keeps {w : List Fld} {s t : State} {a0} (hw : [.regs, .host, .stack, .tileW, .tileA,
    .ledge, .ue, .weak, .stackSt, .pba, .msixHeld, .outs, .units, .summit, .rings, .adminEvents, .parts, .ctl,
    .kernels, .ports, .rope, .sec, .numVfs] ⊆ w) (h : Keeps w s t) :
    Keeps w s (vfEnableCleared a0 t) := h.lift hw (by
  unfold vfEnableCleared
  try dsimp only
  repeat' first
    | with_reducible exact Or.inl rfl
    | exact Or.inr (And.intro (by decide) (fun hk => by simp [hk]))
    | (with_reducible first
      | exact Or.inr (by decide) | exact Keeps.refl | assumption | refine State.setRbit_keeps (by decide) ?_
      | refine State.release_keeps (by decide) ?_ | refine Keeps.foldl (fun _ _ _ => ?_) _ ?_
      | refine Keeps.ite ?_ ?_)
    | dsimp only
    | split
    | with_reducible apply Keeps.update)

theorem vfFlr_keeps {w : List Fld} {s t : State} {a0} (hw : [.regs, .host, .stack, .tileW, .tileA, .ledge,
    .ue, .weak, .stackSt, .pba, .msixHeld, .outs, .units, .summit, .rings, .adminEvents, .parts, .ctl,
    .kernels, .ports, .rope, .sec] ⊆ w) (h : Keeps w s t) :
    Keeps w s (vfFlr a0 t) := h.lift hw (by
  unfold vfFlr
  try dsimp only
  repeat' first
    | (with_reducible first
      | exact Keeps.refl | assumption | refine State.configured_keeps (by decide) (fun _ _ => ?_) ?_
      | refine State.resetWrite_keeps (by decide) ?_ | refine State.endSessions_keeps (by decide) ?_
      | refine Keeps.ite ?_ ?_)
    | dsimp only
    | split)

theorem State.clearRegion_keeps {w : List Fld} {s t : State} {a1} (hw : [.regs, .rope] ⊆ w) (h : Keeps w s t) :
    Keeps w s (State.clearRegion t a1) := h.lift hw (by
  unfold State.clearRegion
  try dsimp only
  repeat' first
    | with_reducible exact Or.inl rfl
    | exact Or.inr (And.intro (by decide) (fun hk => by simp [hk]))
    | (with_reducible first
      | exact Or.inr (by decide) | exact Keeps.refl | assumption | refine State.setRbit_keeps (by decide) ?_)
    | dsimp only
    | with_reducible apply Keeps.update)

theorem State.disableRegions_keeps {w : List Fld} {s t : State} {a1} (hw : [.regs, .rope] ⊆ w) (h : Keeps w s
    t) :
    Keeps w s (State.disableRegions t a1) := h.lift hw (by
  unfold State.disableRegions
  try dsimp only
  repeat' first
    | (with_reducible first
      | exact Keeps.refl | assumption | refine State.clearRegion_keeps (by decide) ?_
      | refine Keeps.foldl (fun _ _ _ => ?_) _ ?_)
    | dsimp only)

theorem State.coverLeases_keeps {w : List Fld} {s t : State} {a1} (hw : [.leases] ⊆ w) (h : Keeps w s t) :
    Keeps w s (State.coverLeases t a1) := h.lift hw (by
  unfold State.coverLeases
  try dsimp only
  repeat' first
    | with_reducible exact Or.inl rfl
    | exact Or.inr (And.intro (by decide) (fun hk => by simp [hk]))
    | (with_reducible first
      | exact Or.inr (by decide) | exact Keeps.refl | assumption | refine Keeps.ite ?_ ?_)
    | dsimp only
    | split
    | with_reducible apply Keeps.update)

theorem State.clearLost_keeps {w : List Fld} {s t : State} {a1} (hw : [.units] ⊆ w) (h : Keeps w s t) :
    Keeps w s (State.clearLost t a1) := h.lift hw (by
  unfold State.clearLost
  try dsimp only
  repeat' first
    | with_reducible exact Or.inl rfl
    | exact Or.inr (And.intro (by decide) (fun hk => by simp [hk]))
    | (with_reducible first
      | exact Or.inr (by decide) | exact Keeps.refl | assumption)
    | dsimp only
    | with_reducible apply Keeps.update)

theorem State.resetScrubbed_keeps {w : List Fld} {s t : State} {a1 a2} (hw : [.regs, .host, .stack, .tileW,
    .tileA, .ledge, .ue, .weak, .stackSt, .pba, .msixHeld, .outs, .units, .summit, .rings, .adminEvents,
    .parts, .ctl, .kernels, .vdes, .leases, .ports, .rope, .sec] ⊆ w) (h : Keeps w s t) :
    Keeps w s (State.resetScrubbed t a1 a2) := h.lift hw (by
  unfold State.resetScrubbed
  try dsimp only
  repeat' first
    | (with_reducible first
      | exact Keeps.refl | assumption | refine State.scrubRecord_keeps (by decide) ?_
      | refine State.coverLeases_keeps (by decide) ?_ | refine State.scrubPart_keeps (by decide) ?_
      | refine State.postPart_keeps (by decide) ?_ | refine State.disableRegions_keeps (by decide) ?_
      | refine State.startReclaim_keeps (by decide) ?_ | refine State.disableRing_keeps (by decide) ?_
      | refine State.setRbit_keeps (by decide) ?_ | refine State.setPart_keeps (by decide) ?_
      | refine State.clearLost_keeps (by decide) ?_ | refine State.enterPart_keeps (by decide) ?_
      | refine State.release_keeps (by decide) ?_ | refine Keeps.foldl (fun _ _ _ => ?_) _ ?_
      | refine Keeps.foldl_fst (fun _ _ _ => ?_) _ ?_ | refine Keeps.ite ?_ ?_)
    | dsimp only
    | split)

theorem State.releaseScrubbed_keeps {w : List Fld} {s t : State} {a1 a2} (hw : [.regs, .host, .stack, .tileW,
    .tileA, .ledge, .ue, .weak, .pba, .msixHeld, .outs, .units, .summit, .rings, .adminEvents, .parts, .ctl,
    .vdes] ⊆ w) (h : Keeps w s t) :
    Keeps w s (State.releaseScrubbed t a1 a2) := h.lift hw (by
  unfold State.releaseScrubbed
  try dsimp only
  repeat' first
    | (with_reducible first
      | exact Keeps.refl | assumption | refine State.zeroMem_keeps (by decide) ?_
      | refine State.scrubPart_keeps (by decide) ?_ | refine State.clearLost_keeps (by decide) ?_
      | refine State.scrubRecord_keeps (by decide) ?_ | refine State.enterPart_keeps (by decide) ?_
      | refine State.setPart_keeps (by decide) ?_ | refine Keeps.foldl (fun _ _ _ => ?_) _ ?_)
    | dsimp only)

theorem kernelOverrun_keeps {w : List Fld} {s t : State} {a0} (hw : [.regs, .host, .pba, .msixHeld, .outs,
    .summit, .rings, .adminEvents, .parts, .ctl, .kernels] ⊆ w) (h : Keeps w s t) :
    Keeps w s (kernelOverrun a0 t) := h.lift hw (by
  unfold kernelOverrun
  try dsimp only
  repeat' first
    | (with_reducible first
      | exact Keeps.refl | assumption | refine State.updKernel_keeps (by decide) ?_
      | refine State.postPart_keeps (by decide) ?_ | refine State.account_keeps (by decide) ?_
      | refine State.postAdmin_keeps (by decide) ?_ | refine Keeps.ite ?_ ?_)
    | dsimp only
    | split)

theorem kernelAbandon_keeps {w : List Fld} {s t : State} {a0} (hw : [.regs, .stack, .tileW, .tileA, .ledge,
    .ue, .weak, .stackSt, .pba, .msixHeld, .outs, .units, .summit, .rings, .parts, .ctl, .kernels, .rope] ⊆ w)
    (h : Keeps w s t) :
    Keeps w s (kernelAbandon a0 t) := h.lift hw (by
  unfold kernelAbandon
  try dsimp only
  repeat' first
    | (with_reducible first
      | exact Keeps.refl | assumption | refine State.abortKernel_keeps (by decide) ?_ | refine Keeps.ite ?_ ?_)
    | split)

theorem partitionStopTileLost_keeps {w : List Fld} {s t : State} {a0} (hw : [.regs, .host, .pba, .msixHeld,
    .outs, .units, .summit, .rings, .adminEvents, .parts, .ctl] ⊆ w) (h : Keeps w s t) :
    Keeps w s (partitionStopTileLost a0 t) := h.lift hw (by
  unfold partitionStopTileLost
  try dsimp only
  repeat' first
    | (with_reducible first
      | exact Keeps.refl | assumption | refine State.postPart_keeps (by decide) ?_
      | refine State.enterPart_keeps (by decide) ?_ | refine State.clearLost_keeps (by decide) ?_
      | refine Keeps.ite ?_ ?_)
    | dsimp only
    | split)

theorem State.pickCtx_keeps {w : List Fld} {s t : State} {a0 a1} (hw : [.regs, .host, .pba, .msixHeld, .outs,
    .summit, .rings, .adminEvents, .parts, .ctl] ⊆ w) (h : Keeps w s t) (r : _)
    (hr : State.pickCtx a0 a1 t = r) : Keeps w s r.1 := by
  subst hr
  induction a1 generalizing t with
  | nil => exact h
  | cons c cs ih =>
    unfold State.pickCtx
    dsimp only
    split
    · exact State.checkCtx_keeps hw h
    · exact ih (State.checkCtx_keeps hw h)

theorem quantumExpiry_keeps {w : List Fld} {s t : State} {a0} (hw : [.regs, .host, .stack, .tileW, .tileA,
    .ledge, .ue, .weak, .stackSt, .pba, .msixHeld, .outs, .units, .summit, .rings, .adminEvents, .parts, .ctl,
    .rope] ⊆ w) (h : Keeps w s t) :
    Keeps w s (quantumExpiry a0 t) := h.lift hw (by
  unfold quantumExpiry
  dsimp only
  split
  · split
    · next u e => have k := State.pickCtx_keeps (w := [.regs, .host, .stack, .tileW, .tileA, .ledge, .ue, .weak, .stackSt, .pba, .msixHeld, .outs, .units, .summit, .rings, .adminEvents, .parts, .ctl, .rope]) (by decide) Keeps.refl _ e; exact k
    · next u n e =>
      have k := State.pickCtx_keeps (w := [.regs, .host, .stack, .tileW, .tileA, .ledge, .ue, .weak, .stackSt, .pba, .msixHeld, .outs, .units, .summit, .rings, .adminEvents, .parts, .ctl, .rope]) (by decide) Keeps.refl _ e
      exact State.maybeSave_keeps (by decide) (State.setPart_keeps (by decide) k)
  · exact Keeps.refl)

theorem contextSaveDone_keeps {w : List Fld} {s t : State} {a0} (hw : [.parts] ⊆ w) (h : Keeps w s t) :
    Keeps w s (contextSaveDone a0 t) := h.lift hw (by
  unfold contextSaveDone
  try dsimp only
  repeat' first
    | (with_reducible first
      | exact Keeps.refl | assumption | refine State.setPart_keeps (by decide) ?_ | refine Keeps.ite ?_ ?_)
    | split)

theorem State.switchScrubbed_keeps {w : List Fld} {s t : State} {a1 a2} (hw : [.regs, .stack, .tileW, .tileA,
    .ledge, .ue, .weak, .pba, .msixHeld, .outs, .summit, .parts, .ctl, .vdes] ⊆ w) (h : Keeps w s t) :
    Keeps w s (State.switchScrubbed t a1 a2) := h.lift hw (by
  unfold State.switchScrubbed
  try dsimp only
  repeat' first
    | (with_reducible first
      | exact Keeps.refl | assumption | refine State.scrubRecord_keeps (by decide) ?_
      | refine State.scrubPart_keeps (by decide) ?_ | refine State.setPart_keeps (by decide) ?_))

theorem State.loseContext_keeps {w : List Fld} {s t : State} {a1 a2 a3} (hw : [.regs, .host, .pba, .msixHeld,
    .outs, .summit, .rings, .adminEvents, .parts, .ctl, .rope] ⊆ w) (h : Keeps w s t) :
    Keeps w s (State.loseContext t a1 a2 a3) := h.lift hw (by
  unfold State.loseContext
  try dsimp only
  repeat' first
    | (with_reducible first
      | exact Keeps.refl | assumption | refine State.keepCmds_keeps (by decide) ?_
      | refine State.drainRings_keeps (by decide) ?_ | refine State.postPart_keeps (by decide) ?_
      | refine State.setCtx_keeps (by decide) ?_)
    | dsimp only)

theorem State.resumeContext_keeps {w : List Fld} {s t : State} {a1 a2 a3} (hw : [.stack, .tileW, .tileA,
    .ledge, .ue, .weak, .rings, .parts, .rope] ⊆ w) (h : Keeps w s t) :
    Keeps w s (State.resumeContext t a1 a2 a3) := h.lift hw (by
  unfold State.resumeContext
  try dsimp only
  repeat' first
    | (with_reducible first
      | exact Keeps.refl | assumption | refine State.restoreContext_keeps (by decide) ?_
      | refine State.chargeMoves_keeps (by decide) ?_ | refine State.loadWeight_keeps (by decide) ?_
      | refine Keeps.foldl (fun _ _ _ => ?_) _ ?_)
    | dsimp only)

theorem State.resumeReads_keeps {w : List Fld} {s t : State} {a1 a2} (hw : [.regs, .weak, .stackSt, .pba,
    .msixHeld, .outs, .units, .summit, .ctl] ⊆ w) (h : Keeps w s t) :
    Keeps w s (State.resumeReads t a1 a2) := h.lift hw (by
  unfold State.resumeReads
  try dsimp only
  repeat' first
    | (with_reducible first
      | exact Keeps.refl | assumption | refine State.issuerCorrects_keeps (by decide) ?_
      | refine Keeps.foldl (fun _ _ _ => ?_) _ ?_ | refine Keeps.foldl_fst (fun _ _ _ => ?_) _ ?_)
    | dsimp only)

theorem contextResumeDone_keeps {w : List Fld} {s t : State} {a0 a1} (hw : [.regs, .host, .stack, .tileW,
    .tileA, .ledge, .ue, .weak, .stackSt, .pba, .msixHeld, .outs, .units, .summit, .rings, .adminEvents,
    .parts, .ctl, .rope] ⊆ w) (h : Keeps w s t) :
    Keeps w s (contextResumeDone a0 a1 t) := h.lift hw (by
  unfold contextResumeDone
  try dsimp only
  repeat' first
    | (with_reducible first
      | exact Keeps.refl | assumption | refine State.loseContext_keeps (by decide) ?_
      | refine State.failUe_keeps (by decide) ?_ | refine State.resumeContext_keeps (by decide) ?_
      | refine State.resumeReads_keeps (by decide) ?_ | refine State.setPart_keeps (by decide) ?_
      | refine State.serveSems_keeps (by decide) ?_ | refine Keeps.ite ?_ ?_)
    | split)

theorem State.leaseScrubbed_keeps {w : List Fld} {s t : State} {a1 a2} (hw : [.regs, .stack, .tileW, .tileA,
    .ledge, .ue, .weak, .pba, .msixHeld, .outs, .summit, .ctl, .vdes, .leases] ⊆ w) (h : Keeps w s t) :
    Keeps w s (State.leaseScrubbed t a1 a2) := h.lift hw (by
  unfold State.leaseScrubbed
  try dsimp only
  repeat' first
    | (with_reducible first
      | exact Keeps.refl | assumption | refine State.updLease_keeps (by decide) ?_
      | refine State.scrubUnit_keeps (by decide) ?_ | refine State.scrubRecord_keeps (by decide) ?_
      | refine Keeps.foldl (fun _ _ _ => ?_) _ ?_)
    | dsimp only
    | split)

theorem scrubDone_keeps {w : List Fld} {s t : State} {a0 a1 a2 a3 a4} (hw : [.regs, .host, .stack, .tileW,
    .tileA, .ledge, .ue, .weak, .stackSt, .pba, .msixHeld, .outs, .units, .summit, .rings, .adminEvents,
    .parts, .ctl, .kernels, .vdes, .leases, .ports, .rope, .sec, .withheldUnits, .withheldHalves,
    .withheldLedge] ⊆ w) (h : Keeps w s t) :
    Keeps w s (scrubDone a0 a1 a2 a3 a4 t) := h.lift hw (by
  unfold scrubDone
  try dsimp only
  repeat' first
    | with_reducible exact Or.inl rfl
    | exact Or.inr (And.intro (by decide) (fun hk => by simp [hk]))
    | (with_reducible first
      | exact Or.inr (by decide) | exact Keeps.refl | assumption
      | refine State.switchScrubbed_keeps (by decide) ?_ | refine State.resetScrubbed_keeps (by decide) ?_
      | refine State.releaseScrubbed_keeps (by decide) ?_ | refine State.leaseScrubbed_keeps (by decide) ?_
      | refine Keeps.ite ?_ ?_)
    | dsimp only
    | split
    | with_reducible apply Keeps.update)

theorem State.closeBatch_keeps {w : List Fld} {s t : State} {a1 a2} (hw : [.regs, .stack, .tileW, .tileA,
    .ledge, .ue, .weak, .stackSt, .pba, .msixHeld, .outs, .units, .summit, .rings, .parts, .ctl] ⊆ w) (h :
    Keeps w s t) :
    Keeps w s (State.closeBatch t a1 a2) := h.lift hw (by
  unfold State.closeBatch
  try dsimp only
  repeat' first
    | (with_reducible first
      | exact Keeps.refl | assumption | refine State.setCtx_keeps (by decide) ?_
      | refine State.finishJob_keeps (by decide) ?_ | refine State.failUe_keeps (by decide) ?_
      | refine State.updDesc_keeps (by decide) ?_ | refine State.issuerWrite_keeps (by decide) ?_
      | refine Keeps.ite ?_ ?_)
    | dsimp only
    | split)

theorem batchCloseTimeout_keeps {w : List Fld} {s t : State} {a0 a1} (hw : [.regs, .stack, .tileW, .tileA,
    .ledge, .ue, .weak, .stackSt, .pba, .msixHeld, .outs, .units, .summit, .rings, .parts, .ctl] ⊆ w) (h :
    Keeps w s t) :
    Keeps w s (batchCloseTimeout a0 a1 t) := h.lift hw (by
  unfold batchCloseTimeout
  try dsimp only
  repeat' first
    | (with_reducible first
      | exact Keeps.refl | assumption | refine State.closeBatch_keeps (by decide) ?_ | refine Keeps.ite ?_ ?_)
    | split)

theorem State.semCommand_keeps {w : List Fld} {s t : State} {a1 a2 a3} (hw : [.regs, .host, .pba, .msixHeld,
    .outs, .summit, .rings, .adminEvents, .parts, .ctl] ⊆ w)
    (hk : ∀ x0 x1 x2 x3, Keeps w s x0 → Keeps w s (a3 x0 x1 x2 x3)) (h : Keeps w s t) :
    Keeps w s (State.semCommand t a1 a2 a3) := by
  unfold State.semCommand
  try dsimp only
  repeat' first
    | (with_reducible first
      | exact Keeps.refl | assumption | refine hk _ _ _ _ ?_
      | refine State.admitJob_keeps (List.Subset.trans (by decide) hw) (fun _ _ _ _ => ?_) ?_
      | refine State.finishDesc_keeps (List.Subset.trans (by decide) hw) ?_ | refine Keeps.ite ?_ ?_)
    | dsimp only
    | split

theorem semSet_keeps {w : List Fld} {s t : State} {a0} (hw : [.regs, .host, .pba, .msixHeld, .outs, .summit,
    .rings, .adminEvents, .parts, .ctl] ⊆ w) (h : Keeps w s t) :
    Keeps w s (semSet a0 t) := h.lift hw (by
  unfold semSet
  try dsimp only
  repeat' first
    | (with_reducible first
      | exact Keeps.refl | assumption | refine State.semCommand_keeps (by decide) (fun _ _ _ _ _ => ?_) ?_
      | refine State.finishDesc_keeps (by decide) ?_ | refine State.setCtx_keeps (by decide) ?_)
    | dsimp only)

theorem semAcquire_keeps {w : List Fld} {s t : State} {a0} (hw : [.regs, .host, .pba, .msixHeld, .outs,
    .summit, .rings, .adminEvents, .parts, .ctl] ⊆ w) (h : Keeps w s t) :
    Keeps w s (semAcquire a0 t) := h.lift hw (by
  unfold semAcquire
  try dsimp only
  repeat' first
    | (with_reducible first
      | exact Keeps.refl | assumption | refine State.semCommand_keeps (by decide) (fun _ _ _ _ _ => ?_) ?_
      | refine State.serveSems_keeps (by decide) ?_ | refine State.setCtx_keeps (by decide) ?_
      | refine Keeps.ite ?_ ?_)
    | dsimp only
    | split)

theorem semRelease_keeps {w : List Fld} {s t : State} {a0} (hw : [.regs, .host, .stack, .tileW, .tileA,
    .ledge, .ue, .weak, .stackSt, .pba, .msixHeld, .outs, .units, .summit, .rings, .adminEvents, .parts, .ctl,
    .rope] ⊆ w) (h : Keeps w s t) :
    Keeps w s (semRelease a0 t) := h.lift hw (by
  unfold semRelease
  try dsimp only
  repeat' first
    | (with_reducible first
      | exact Keeps.refl | assumption | refine State.semCommand_keeps (by decide) (fun _ _ _ _ _ => ?_) ?_
      | refine State.maybeSave_keeps (by decide) ?_ | refine State.serveSems_keeps (by decide) ?_
      | refine State.finishDesc_keeps (by decide) ?_ | refine State.setCtx_keeps (by decide) ?_)
    | dsimp only)

theorem holdExceeded_keeps {w : List Fld} {s t : State} {a0 a1} (hw : [.regs, .host, .stack, .tileW, .tileA,
    .ledge, .ue, .weak, .stackSt, .pba, .msixHeld, .outs, .units, .summit, .rings, .adminEvents, .parts, .ctl,
    .kernels, .rope] ⊆ w) (h : Keeps w s t) :
    Keeps w s (holdExceeded a0 a1 t) := h.lift hw (by
  unfold holdExceeded
  try dsimp only
  repeat' first
    | (with_reducible first
      | exact Keeps.refl | assumption | refine State.setCtx_keeps (by decide) ?_
      | refine State.abortKernel_keeps (by decide) ?_ | refine State.concludeJob_keeps (by decide) ?_
      | refine State.maybeSave_keeps (by decide) ?_ | refine State.serveSems_keeps (by decide) ?_
      | refine State.postPart_keeps (by decide) ?_ | refine Keeps.foldl (fun _ _ _ => ?_) _ ?_
      | refine Keeps.ite ?_ ?_)
    | dsimp only
    | split)

theorem accountingUpdate_keeps {w : List Fld} {s t : State} {a0} (hw : [.regs, .host, .pba, .msixHeld, .outs,
    .rings, .adminEvents, .parts, .ctl] ⊆ w) (h : Keeps w s t) :
    Keeps w s (accountingUpdate a0 t) := h.lift hw (by
  unfold accountingUpdate
  try dsimp only
  repeat' first
    | (with_reducible first
      | exact Keeps.refl | assumption | refine State.writeAcct_keeps (by decide) ?_ | refine Keeps.ite ?_ ?_)
    | split)

theorem State.addEnergy_keeps {w : List Fld} {s t : State} {a1 a2} (hw : [.parts] ⊆ w) (h : Keeps w s t) :
    Keeps w s (State.addEnergy t a1 a2) := h.lift hw (by
  unfold State.addEnergy
  try dsimp only
  repeat' first
    | (with_reducible first
      | exact Keeps.refl | assumption | refine State.account_keeps (by decide) ?_ | refine Keeps.ite ?_ ?_)
    | dsimp only
    | split)

theorem State.splitEnergy_keeps {w : List Fld} {s t : State} {a1 a2 a3} (hw : [.parts] ⊆ w) (h : Keeps w s t) :
    Keeps w s (State.splitEnergy t a1 a2 a3) := h.lift hw (by
  unfold State.splitEnergy
  try dsimp only
  repeat' first
    | (with_reducible first
      | exact Keeps.refl | assumption | refine State.addEnergy_keeps (by decide) ?_
      | refine Keeps.foldl (fun _ _ _ => ?_) _ ?_ | refine Keeps.foldl_fst (fun _ _ _ => ?_) _ ?_
      | refine Keeps.ite ?_ ?_)
    | dsimp only
    | split)

theorem State.splitIsland_keeps {w : List Fld} {s t : State} {a1} (hw : [.parts] ⊆ w) (h : Keeps w s t) :
    Keeps w s (State.splitIsland t a1) := h.lift hw (by
  unfold State.splitIsland
  try dsimp only
  repeat' first
    | (with_reducible first
      | exact Keeps.refl | assumption | refine State.splitEnergy_keeps (by decide) ?_)
    | dsimp only)

theorem State.splitBytes_keeps {w : List Fld} {s t : State} {a1 a2 a3} (hw : [.parts] ⊆ w) (h : Keeps w s t) :
    Keeps w s (State.splitBytes t a1 a2 a3) := h.lift hw (by
  unfold State.splitBytes
  try dsimp only
  repeat' first
    | (with_reducible first
      | exact Keeps.refl | assumption | refine State.splitEnergy_keeps (by decide) ?_)
    | dsimp only)

theorem State.closeInterval_keeps {w : List Fld} {s t : State} (hw : [.parts] ⊆ w) (h : Keeps w s t) :
    Keeps w s (State.closeInterval t) := h.lift hw (by
  unfold State.closeInterval
  try dsimp only
  repeat' first
    | (with_reducible first
      | exact Keeps.refl | assumption | refine State.setPart_keeps (by decide) ?_
      | refine Keeps.foldl (fun _ _ _ => ?_) _ ?_)
    | dsimp only)

theorem energyAttribution_keeps {w : List Fld} {s t : State} {a0 a1 a2 a3 a4} (hw : [.parts] ⊆ w) (h : Keeps w
    s t) :
    Keeps w s (energyAttribution a0 a1 a2 a3 a4 t) := h.lift hw (by
  unfold energyAttribution
  try dsimp only
  repeat' first
    | (with_reducible first
      | exact Keeps.refl | assumption | refine State.closeInterval_keeps (by decide) ?_
      | refine State.splitBytes_keeps (by decide) ?_ | refine State.splitIsland_keeps (by decide) ?_
      | refine Keeps.foldl (fun _ _ _ => ?_) _ ?_))

theorem State.putWeights_keeps {w : List Fld} {s t : State} {a1 a2 a3} (hw : [.regs, .stack, .tileW, .tileA,
    .ledge, .ue, .weak, .stackSt, .pba, .msixHeld, .outs, .units, .summit, .ctl] ⊆ w) (h : Keeps w s t) :
    Keeps w s (State.putWeights t a1 a2 a3) := by
  induction a2 generalizing t a3 with
  | nil => exact h
  | cons r rs ih => exact ih (State.issuerWrite_keeps hw h)

theorem State.zeroWeights_keeps {w : List Fld} {s t : State} {a1 a2} (hw : [.stack, .tileW, .tileA, .ledge,
    .ue, .weak] ⊆ w) (h : Keeps w s t) :
    Keeps w s (State.zeroWeights t a1 a2) := h.lift hw (by
  unfold State.zeroWeights
  try dsimp only
  repeat' first
    | (with_reducible first
      | exact Keeps.refl | assumption | refine State.zeroMem_keeps (by decide) ?_
      | refine Keeps.foldl (fun _ _ _ => ?_) _ ?_ | refine Keeps.foldl_fst (fun _ _ _ => ?_) _ ?_)
    | dsimp only)

theorem State.weightsRead_keeps {w : List Fld} {s t : State} {a1 a2} (hw : [.regs, .weak, .stackSt, .pba,
    .msixHeld, .outs, .units, .summit, .ctl] ⊆ w) (h : Keeps w s t) :
    Keeps w s (State.weightsRead t a1 a2) := h.lift hw (by
  unfold State.weightsRead
  try dsimp only
  repeat' first
    | (with_reducible first
      | exact Keeps.refl | assumption | refine State.issuerCorrects_keeps (by decide) ?_
      | refine Keeps.foldl (fun _ _ _ => ?_) _ ?_ | refine Keeps.foldl_fst (fun _ _ _ => ?_) _ ?_)
    | dsimp only)

theorem State.installImage_keeps {w : List Fld} {s t : State} {a1 a2 a3 a4 a5} (hw : [.rings, .parts] ⊆ w) (h
    : Keeps w s t) :
    Keeps w s (State.installImage t a1 a2 a3 a4 a5) := h.lift hw (by
  unfold State.installImage
  try dsimp only
  repeat' first
    | with_reducible exact Or.inl rfl
    | exact Or.inr (And.intro (by decide) (fun hk => by simp [hk]))
    | (with_reducible first
      | exact Or.inr (by decide) | exact Keeps.refl | assumption | refine State.finishDesc_keeps (by decide) ?_
      | refine State.setCtx_keeps (by decide) ?_ | apply Keeps.update))

theorem State.loadRun_keeps {w : List Fld} {s t : State} {a1 a2 a3 a4 a5 a6} (hw : [.regs, .stack, .tileW,
    .tileA, .ledge, .ue, .weak, .stackSt, .pba, .msixHeld, .outs, .units, .summit, .rings, .parts, .ctl] ⊆ w)
    (h : Keeps w s t) :
    Keeps w s (State.loadRun t a1 a2 a3 a4 a5 a6) := h.lift hw (by
  unfold State.loadRun
  try dsimp only
  repeat' first
    | (with_reducible first
      | exact Keeps.refl | assumption | refine State.finishDesc_keeps (by decide) ?_
      | refine State.failUe_keeps (by decide) ?_ | refine State.issuerCorrects_keeps (by decide) ?_
      | refine State.installImage_keeps (by decide) ?_ | refine State.weightsRead_keeps (by decide) ?_
      | refine State.putWeights_keeps (by decide) ?_ | refine State.zeroWeights_keeps (by decide) ?_
      | refine Keeps.optElim ?_ (fun _ => ?_) | refine Keeps.ite ?_ ?_)
    | dsimp only
    | split)

theorem loadImage_keeps {w : List Fld} {s t : State} {a0 a1 a2} (hw : [.regs, .host, .stack, .tileW, .tileA,
    .ledge, .ue, .weak, .stackSt, .pba, .msixHeld, .outs, .units, .summit, .rings, .adminEvents, .parts, .ctl]
    ⊆ w) (h : Keeps w s t) :
    Keeps w s (loadImage a0 a1 a2 t) := h.lift hw (by
  unfold loadImage
  try dsimp only
  repeat' first
    | (with_reducible first
      | exact Keeps.refl | assumption | refine State.admitJob_keeps (by decide) (fun _ _ _ _ => ?_) ?_
      | refine State.loadRun_keeps (by decide) ?_)
    | dsimp only
    | split)

theorem unloadImage_keeps {w : List Fld} {s t : State} {a0} (hw : [.regs, .host, .pba, .msixHeld, .outs,
    .summit, .rings, .adminEvents, .parts, .ctl] ⊆ w) (h : Keeps w s t) :
    Keeps w s (unloadImage a0 t) := h.lift hw (by
  unfold unloadImage
  try dsimp only
  repeat' first
    | (with_reducible first
      | exact Keeps.refl | assumption | refine State.admitJob_keeps (by decide) (fun _ _ _ _ => ?_) ?_
      | refine State.finishDesc_keeps (by decide) ?_ | refine State.startDesc_keeps (by decide) ?_
      | refine State.setCtx_keeps (by decide) ?_ | refine Keeps.ite ?_ ?_)
    | dsimp only
    | split)

theorem unloadSlotIdle_keeps {w : List Fld} {s t : State} {a0} (hw : [.rings, .parts] ⊆ w) (h : Keeps w s t) :
    Keeps w s (unloadSlotIdle a0 t) := h.lift hw (by
  unfold unloadSlotIdle
  try dsimp only
  repeat' first
    | (with_reducible first
      | exact Keeps.refl | assumption | refine State.finishDesc_keeps (by decide) ?_
      | refine State.setCtx_keeps (by decide) ?_ | refine Keeps.ite ?_ ?_)
    | dsimp only
    | split)

theorem State.batchRequest_keeps {w : List Fld} {s t : State} {a1 a2 a3 a4 a5} (hw : [.regs, .stack, .tileW,
    .tileA, .ledge, .ue, .weak, .stackSt, .pba, .msixHeld, .outs, .units, .summit, .rings, .parts, .ctl] ⊆ w)
    (h : Keeps w s t) :
    Keeps w s (State.batchRequest t a1 a2 a3 a4 a5) := h.lift hw (by
  unfold State.batchRequest
  try dsimp only
  repeat' first
    | (with_reducible first
      | exact Keeps.refl | assumption | refine State.closeBatch_keeps (by decide) ?_
      | refine State.setCtx_keeps (by decide) ?_ | refine Keeps.ite ?_ ?_)
    | dsimp only
    | split)

theorem run_keeps {w : List Fld} {s t : State} {a0} (hw : [.regs, .host, .stack, .tileW, .tileA, .ledge, .ue,
    .weak, .stackSt, .pba, .msixHeld, .outs, .units, .summit, .rings, .adminEvents, .parts, .ctl] ⊆ w) (h :
    Keeps w s t) :
    Keeps w s (run a0 t) := h.lift hw (by
  unfold run
  try dsimp only
  repeat' first
    | (with_reducible first
      | exact Keeps.refl | assumption | refine State.admitJob_keeps (by decide) (fun _ _ _ _ => ?_) ?_
      | refine State.finishDesc_keeps (by decide) ?_ | refine State.startDesc_keeps (by decide) ?_
      | refine State.batchRequest_keeps (by decide) ?_ | refine State.updDesc_keeps (by decide) ?_
      | refine Keeps.ite ?_ ?_)
    | dsimp only
    | split)

theorem State.locCorrects_keeps {w : List Fld} {s t : State} {a1 a2} (hw : [.regs, .weak, .stackSt, .pba,
    .msixHeld, .outs, .units, .summit, .ctl] ⊆ w) (h : Keeps w s t) :
    Keeps w s (State.locCorrects t a1 a2) := h.lift hw (by
  unfold State.locCorrects
  try dsimp only
  repeat' first
    | (with_reducible first
      | exact Keeps.refl | assumption | refine State.corrects_keeps (by decide) ?_ | refine Keeps.ite ?_ ?_)
    | dsimp only
    | split)

theorem State.setCell_keeps {w : List Fld} {s t : State} {a1 a2} (hw : [.radio] ⊆ w) (h : Keeps w s t) :
    Keeps w s (State.setCell t a1 a2) := h.lift hw (by
  unfold State.setCell
  try dsimp only
  repeat' first
    | with_reducible exact Or.inl rfl
    | exact Or.inr (And.intro (by decide) (fun hk => by simp [hk]))
    | (with_reducible first
      | exact Or.inr (by decide) | exact Keeps.refl | assumption)
    | dsimp only
    | with_reducible apply Keeps.update)

theorem State.reclaimFor_keeps {w : List Fld} {s t : State} {a1 a2 a3 a4} (hw : [.regs, .host, .pba,
    .msixHeld, .outs, .summit, .rings, .adminEvents, .parts, .ctl, .leases] ⊆ w) (h : Keeps w s t) :
    Keeps w s (State.reclaimFor t a1 a2 a3 a4) := h.lift hw (by
  unfold State.reclaimFor
  try dsimp only
  repeat' first
    | (with_reducible first
      | exact Keeps.refl | assumption | refine State.startReclaim_keeps (by decide) ?_
      | refine Keeps.foldl (fun _ _ _ => ?_) _ ?_ | refine Keeps.ite ?_ ?_)
    | dsimp only
    | split)

theorem State.reclaimAll_keeps {w : List Fld} {s t : State} {a1 a2} (hw : [.regs, .host, .pba, .msixHeld,
    .outs, .summit, .rings, .adminEvents, .parts, .ctl, .leases] ⊆ w) (h : Keeps w s t) :
    Keeps w s (State.reclaimAll t a1 a2) := h.lift hw (by
  unfold State.reclaimAll
  try dsimp only
  repeat' first
    | (with_reducible first
      | exact Keeps.refl | assumption | refine State.startReclaim_keeps (by decide) ?_
      | refine Keeps.foldl (fun _ _ _ => ?_) _ ?_)
    | dsimp only)

theorem State.admitAdmin_keeps {w : List Fld} {s t : State} {a1 a2} (hw : [] ⊆ w)
    (hk : ∀ x0 x1, Keeps w s x0 → Keeps w s (a2 x0 x1)) (h : Keeps w s t) :
    Keeps w s (State.admitAdmin t a1 a2) := by
  unfold State.admitAdmin
  try dsimp only
  repeat' first
    | (with_reducible first
      | exact Keeps.refl | assumption | refine hk _ _ ?_ | refine Keeps.ite ?_ ?_)
    | split

theorem leaseGrant_keeps {w : List Fld} {s t : State} (hw : [.regs, .host, .pba, .msixHeld, .outs, .summit,
    .rings, .adminEvents, .parts, .ctl, .leases] ⊆ w) (h : Keeps w s t) :
    Keeps w s (leaseGrant t) := h.lift hw (by
  unfold leaseGrant
  try dsimp only
  repeat' first
    | with_reducible exact Or.inl rfl
    | exact Or.inr (And.intro (by decide) (fun hk => by simp [hk]))
    | (with_reducible first
      | exact Or.inr (by decide) | exact Keeps.refl | assumption
      | refine State.admitAdmin_keeps (by decide) (fun _ _ _ => ?_) ?_
      | refine State.finishDesc_keeps (by decide) ?_ | refine State.leaseEvent_keeps (by decide) ?_
      | refine Keeps.ite ?_ ?_)
    | dsimp only
    | split
    | with_reducible apply Keeps.update)

theorem leaseRevoke_keeps {w : List Fld} {s t : State} (hw : [.regs, .host, .pba, .msixHeld, .outs, .summit,
    .rings, .adminEvents, .parts, .ctl, .leases] ⊆ w) (h : Keeps w s t) :
    Keeps w s (leaseRevoke t) := h.lift hw (by
  unfold leaseRevoke
  try dsimp only
  repeat' first
    | (with_reducible first
      | exact Keeps.refl | assumption | refine State.admitAdmin_keeps (by decide) (fun _ _ _ => ?_) ?_
      | refine State.finishDesc_keeps (by decide) ?_ | refine State.startReclaim_keeps (by decide) ?_
      | refine Keeps.ite ?_ ?_)
    | dsimp only
    | split)

theorem State.leaseClear_keeps {w : List Fld} {s t : State} {a1} (hw : [.leases] ⊆ w) (h : Keeps w s t) :
    Keeps w s (State.leaseClear t a1) := h.lift hw (by
  unfold State.leaseClear
  try dsimp only
  repeat' first
    | (with_reducible first
      | exact Keeps.refl | assumption | refine State.updLease_keeps (by decide) ?_)
    | dsimp only)

theorem State.leaseSave_keeps {w : List Fld} {s t : State} {a1} (hw : [.regs, .host, .stack, .tileW, .tileA,
    .ledge, .ue, .weak, .stackSt, .pba, .msixHeld, .outs, .units, .summit, .rings, .adminEvents, .parts, .ctl,
    .leases, .rope] ⊆ w) (h : Keeps w s t) :
    Keeps w s (State.leaseSave t a1) := h.lift hw (by
  unfold State.leaseSave
  try dsimp only
  repeat' first
    | (with_reducible first
      | exact Keeps.refl | assumption | refine State.saveContext_keeps (by decide) ?_
      | refine State.loseContext_keeps (by decide) ?_ | refine State.failUe_keeps (by decide) ?_
      | refine State.resumeContext_keeps (by decide) ?_ | refine State.resumeReads_keeps (by decide) ?_
      | refine State.leaseClear_keeps (by decide) ?_ | refine State.serveSems_keeps (by decide) ?_
      | refine State.setPart_keeps (by decide) ?_ | refine Keeps.ite ?_ ?_)
    | split)

theorem leaseReclaimSave_keeps {w : List Fld} {s t : State} {a0} (hw : [.regs, .host, .stack, .tileW, .tileA,
    .ledge, .ue, .weak, .stackSt, .pba, .msixHeld, .outs, .units, .summit, .rings, .adminEvents, .parts, .ctl,
    .leases, .rope] ⊆ w) (h : Keeps w s t) :
    Keeps w s (leaseReclaimSave a0 t) := h.lift hw (by
  unfold leaseReclaimSave
  try dsimp only
  repeat' first
    | (with_reducible first
      | exact Keeps.refl | assumption | refine State.leaseClear_keeps (by decide) ?_
      | refine State.leaseSave_keeps (by decide) ?_ | refine Keeps.ite ?_ ?_)
    | dsimp only
    | split)

theorem State.leaveLease_keeps {w : List Fld} {s t : State} {a1} (hw : [.parts] ⊆ w) (h : Keeps w s t) :
    Keeps w s (State.leaveLease t a1) := h.lift hw (by
  unfold State.leaveLease
  try dsimp only
  repeat' first
    | (with_reducible first
      | exact Keeps.refl | assumption | refine State.setCtx_keeps (by decide) ?_)
    | dsimp only)

theorem leaseLayerAbandon_keeps {w : List Fld} {s t : State} {a0} (hw : [.regs, .stack, .tileW, .tileA,
    .ledge, .ue, .weak, .stackSt, .pba, .msixHeld, .outs, .units, .summit, .rings, .parts, .ctl, .kernels,
    .leases, .rope] ⊆ w) (h : Keeps w s t) :
    Keeps w s (leaseLayerAbandon a0 t) := h.lift hw (by
  unfold leaseLayerAbandon
  try dsimp only
  repeat' first
    | (with_reducible first
      | exact Keeps.refl | assumption | refine State.leaseClear_keeps (by decide) ?_
      | refine State.leaveLease_keeps (by decide) ?_ | refine State.abortKernel_keeps (by decide) ?_
      | refine Keeps.foldl (fun _ _ _ => ?_) _ ?_ | refine Keeps.ite ?_ ?_)
    | dsimp only
    | split)

theorem leaseEnd_keeps {w : List Fld} {s t : State} {a0} (hw : [.regs, .host, .pba, .msixHeld, .outs, .summit,
    .rings, .adminEvents, .parts, .ctl, .leases] ⊆ w) (h : Keeps w s t) :
    Keeps w s (leaseEnd a0 t) := h.lift hw (by
  unfold leaseEnd
  try dsimp only
  repeat' first
    | with_reducible exact Or.inl rfl
    | exact Or.inr (And.intro (by decide) (fun hk => by simp [hk]))
    | (with_reducible first
      | exact Or.inr (by decide) | exact Keeps.refl | assumption | refine State.leaseEvent_keeps (by decide) ?_
      | refine Keeps.ite ?_ ?_)
    | dsimp only
    | split
    | with_reducible apply Keeps.update)

theorem State.setEmerg_keeps {w : List Fld} {s t : State} {a1 a2} (hw : [.radio] ⊆ w) (h : Keeps w s t) :
    Keeps w s (State.setEmerg t a1 a2) := h.lift hw (by
  unfold State.setEmerg
  try dsimp only
  repeat' first
    | with_reducible exact Or.inl rfl
    | exact Or.inr (And.intro (by decide) (fun hk => by simp [hk]))
    | (with_reducible first
      | exact Or.inr (by decide) | exact Keeps.refl | assumption | refine Keeps.ite ?_ ?_)
    | split
    | with_reducible apply Keeps.update)

theorem State.endEmerg_keeps {w : List Fld} {s t : State} {a1 a2} (hw : [.regs, .pba, .msixHeld, .outs, .ctl,
    .radio] ⊆ w) (h : Keeps w s t) :
    Keeps w s (State.endEmerg t a1 a2) := h.lift hw (by
  unfold State.endEmerg
  try dsimp only
  repeat' first
    | (with_reducible first
      | exact Keeps.refl | assumption | refine State.setEmerg_keeps (by decide) ?_
      | refine State.edge_keeps (by decide) ?_ | refine Keeps.ite ?_ ?_)
    | split)

theorem State.sendInd_keeps {w : List Fld} {s t : State} {a1 a2} (hw : [.regs, .host, .pba, .msixHeld, .outs,
    .rings, .adminEvents, .parts, .ctl] ⊆ w) (h : Keeps w s t) :
    Keeps w s (State.sendInd t a1 a2) := h.lift hw (by
  unfold State.sendInd
  try dsimp only
  repeat' first
    | with_reducible exact Or.inl rfl
    | exact Or.inr (And.intro (by decide) (fun hk => by simp [hk]))
    | (with_reducible first
      | exact Or.inr (by decide) | exact Keeps.refl | assumption | refine State.indicate_keeps (by decide) ?_
      | refine Keeps.ite ?_ ?_)
    | split
    | with_reducible apply Keeps.update)

theorem State.cellInd_keeps {w : List Fld} {s t : State} {a1 a2 a3 a4} (hw : [.regs, .host, .pba, .msixHeld,
    .outs, .rings, .adminEvents, .parts, .ctl] ⊆ w) (h : Keeps w s t) :
    Keeps w s (State.cellInd t a1 a2 a3 a4) := h.lift hw (by
  unfold State.cellInd
  try dsimp only
  repeat' first
    | (with_reducible first
      | exact Keeps.refl | assumption | refine State.sendInd_keeps (by decide) ?_)
    | split)

theorem State.cellNote_keeps {w : List Fld} {s t : State} {a1 a2 a3} (hw : [.regs, .host, .pba, .msixHeld,
    .outs, .rings, .adminEvents, .parts, .ctl] ⊆ w) (h : Keeps w s t) :
    Keeps w s (State.cellNote t a1 a2 a3) := h.lift hw (by
  unfold State.cellNote
  try dsimp only
  repeat' first
    | (with_reducible first
      | exact Keeps.refl | assumption | refine State.sendInd_keeps (by decide) ?_)
    | split)

theorem State.announceShed_keeps {w : List Fld} {s t : State} {a1 a2 a3 a4} (hw : [.regs, .host, .pba,
    .msixHeld, .outs, .rings, .adminEvents, .parts, .ctl, .radio] ⊆ w) (h : Keeps w s t) :
    Keeps w s (State.announceShed t a1 a2 a3 a4) := h.lift hw (by
  unfold State.announceShed
  try dsimp only
  repeat' first
    | (with_reducible first
      | exact Keeps.refl | assumption | refine State.setCell_keeps (by decide) ?_
      | refine State.cellInd_keeps (by decide) ?_ | refine Keeps.ite ?_ ?_)
    | split)

theorem State.shedStep_keeps {w : List Fld} {s t : State} {a1 a2} (hw : [.regs, .host, .pba, .msixHeld, .outs,
    .rings, .adminEvents, .parts, .ctl, .radio] ⊆ w) (h : Keeps w s t) :
    Keeps w s (State.shedStep t a1 a2) := h.lift hw (by
  unfold State.shedStep
  try dsimp only
  repeat' first
    | (with_reducible first
      | exact Keeps.refl | assumption | refine State.announceShed_keeps (by decide) ?_
      | refine State.edge_keeps (by decide) ?_ | refine State.setEmerg_keeps (by decide) ?_
      | refine Keeps.foldl (fun _ _ _ => ?_) _ ?_ | refine Keeps.foldl_fst (fun _ _ _ => ?_) _ ?_)
    | dsimp only
    | split)

theorem State.declareEmerg_keeps {w : List Fld} {s t : State} {a1 a2 a3} (hw : [.regs, .host, .pba, .msixHeld,
    .outs, .summit, .rings, .adminEvents, .parts, .ctl, .leases, .radio] ⊆ w) (h : Keeps w s t) :
    Keeps w s (State.declareEmerg t a1 a2 a3) := h.lift hw (by
  unfold State.declareEmerg
  try dsimp only
  repeat' first
    | with_reducible exact Or.inl rfl
    | exact Or.inr (And.intro (by decide) (fun hk => by simp [hk]))
    | (with_reducible first
      | exact Or.inr (by decide) | exact Keeps.refl | assumption | refine State.record_keeps (by decide) ?_
      | refine State.edge_keeps (by decide) ?_ | refine State.setEmerg_keeps (by decide) ?_
      | refine State.reclaimAll_keeps (by decide) ?_ | refine State.shedStep_keeps (by decide) ?_
      | refine Keeps.ite ?_ ?_)
    | dsimp only
    | split
    | with_reducible apply Keeps.update)

theorem State.capacityLost_keeps {w : List Fld} {s t : State} {a1} (hw : [.regs, .host, .pba, .msixHeld,
    .outs, .summit, .rings, .adminEvents, .parts, .ctl, .leases, .radio] ⊆ w) (h : Keeps w s t) :
    Keeps w s (State.capacityLost t a1) := h.lift hw (by
  unfold State.capacityLost
  try dsimp only
  repeat' first
    | (with_reducible first
      | exact Keeps.refl | assumption | refine State.reclaimFor_keeps (by decide) ?_
      | refine State.declareEmerg_keeps (by decide) ?_ | refine Keeps.ite ?_ ?_)
    | dsimp only
    | split)

theorem thermalWarning_keeps {w : List Fld} {s t : State} {a0} (hw : [.regs, .host, .pba, .msixHeld, .outs,
    .summit, .rings, .adminEvents, .parts, .ctl, .leases, .radio] ⊆ w) (h : Keeps w s t) :
    Keeps w s (thermalWarning a0 t) := h.lift hw (by
  unfold thermalWarning
  try dsimp only
  repeat' first
    | (with_reducible first
      | exact Keeps.refl | assumption | refine State.declareEmerg_keeps (by decide) ?_ | refine Keeps.ite ?_ ?_)
    | split)

theorem thermalEmergency_keeps {w : List Fld} {s t : State} {a0} (hw : [.regs, .host, .pba, .msixHeld, .outs,
    .summit, .rings, .adminEvents, .parts, .ctl, .leases, .radio] ⊆ w) (h : Keeps w s t) :
    Keeps w s (thermalEmergency a0 t) := h.lift hw (by
  unfold thermalEmergency
  try dsimp only
  repeat' first
    | (with_reducible first
      | exact Keeps.refl | assumption | refine State.declareEmerg_keeps (by decide) ?_ | refine Keeps.ite ?_ ?_)
    | dsimp only
    | split)

theorem shedSlot_keeps {w : List Fld} {s t : State} {a0} (hw : [.radio, .ports] ⊆ w) (h : Keeps w s t) :
    Keeps w s (shedSlot a0 t) := h.lift hw (by
  unfold shedSlot
  try dsimp only
  repeat' first
    | (with_reducible first
      | exact Keeps.refl | assumption | refine State.dropFrames_keeps (by decide) ?_
      | refine State.setCell_keeps (by decide) ?_ | refine Keeps.ite ?_ ?_)
    | dsimp only
    | split)

theorem cellShedComplete_keeps {w : List Fld} {s t : State} {a0} (hw : [.regs, .host, .pba, .msixHeld, .outs,
    .rings, .adminEvents, .parts, .ctl, .radio] ⊆ w) (h : Keeps w s t) :
    Keeps w s (cellShedComplete a0 t) := h.lift hw (by
  unfold cellShedComplete
  try dsimp only
  repeat' first
    | (with_reducible first
      | exact Keeps.refl | assumption | refine State.setCell_keeps (by decide) ?_
      | refine State.cellInd_keeps (by decide) ?_ | refine Keeps.ite ?_ ?_)
    | split)

theorem shedStepRepeat_keeps {w : List Fld} {s t : State} {a0} (hw : [.regs, .host, .pba, .msixHeld, .outs,
    .rings, .adminEvents, .parts, .ctl, .radio] ⊆ w) (h : Keeps w s t) :
    Keeps w s (shedStepRepeat a0 t) := h.lift hw (by
  unfold shedStepRepeat
  try dsimp only
  repeat' first
    | (with_reducible first
      | exact Keeps.refl | assumption | refine State.shedStep_keeps (by decide) ?_
      | refine Keeps.foldl (fun _ _ _ => ?_) _ ?_ | refine Keeps.ite ?_ ?_)
    | dsimp only
    | split)

theorem State.refuseIsland_keeps {w : List Fld} {s t : State} {a1 a2 a3} (hw : [.regs, .pba, .msixHeld, .outs,
    .ctl] ⊆ w) (h : Keeps w s t) :
    Keeps w s (State.refuseIsland t a1 a2 a3) := h.lift hw (by
  unfold State.refuseIsland
  try dsimp only
  repeat' first
    | (with_reducible first
      | exact Keeps.refl | assumption | refine State.edge_keeps (by decide) ?_
      | refine State.setRf_keeps (by decide) ?_ | refine State.setRbit_keeps (by decide) ?_))

theorem State.islandPending_keeps {w : List Fld} {s t : State} (hw : [.regs] ⊆ w) (h : Keeps w s t) :
    Keeps w s (State.islandPending t) := h.lift hw (by
  unfold State.islandPending
  try dsimp only
  repeat' first
    | (with_reducible first
      | exact Keeps.refl | assumption | refine State.setRbit_keeps (by decide) ?_)
    | dsimp only)

theorem State.addIsland_keeps {w : List Fld} {s t : State} {a1} (hw : [.regs, .pba, .msixHeld, .outs,
    .islands, .ctl] ⊆ w) (h : Keeps w s t) :
    Keeps w s (State.addIsland t a1) := h.lift hw (by
  unfold State.addIsland
  try dsimp only
  repeat' first
    | with_reducible exact Or.inl rfl
    | exact Or.inr (And.intro (by decide) (fun hk => by simp [hk]))
    | (with_reducible first
      | exact Or.inr (by decide) | exact Keeps.refl | assumption | refine State.setIsland_keeps (by decide) ?_
      | refine State.refuseIsland_keeps (by decide) ?_ | refine State.edge_keeps (by decide) ?_
      | refine State.syncHolds_keeps (by decide) ?_ | refine Keeps.ite ?_ ?_)
    | split
    | with_reducible apply Keeps.update)

theorem islandAdd_keeps {w : List Fld} {s t : State} {a0} (hw : [.regs, .pba, .msixHeld, .outs, .islands,
    .ctl] ⊆ w) (h : Keeps w s t) :
    Keeps w s (islandAdd a0 t) := h.lift hw (by
  unfold islandAdd
  try dsimp only
  repeat' first
    | (with_reducible first
      | exact Keeps.refl | assumption | refine State.islandPending_keeps (by decide) ?_
      | refine State.addIsland_keeps (by decide) ?_ | refine State.setReg_keeps (by decide) ?_
      | refine Keeps.foldl (fun _ _ _ => ?_) _ ?_ | refine Keeps.ite ?_ ?_)
    | split)

theorem State.removeIsland_keeps {w : List Fld} {s t : State} {a1} (hw : [.regs, .host, .pba, .msixHeld,
    .outs, .islands, .summit, .rings, .adminEvents, .parts, .ctl, .leases] ⊆ w) (h : Keeps w s t) :
    Keeps w s (State.removeIsland t a1) := h.lift hw (by
  unfold State.removeIsland
  try dsimp only
  repeat' first
    | (with_reducible first
      | exact Keeps.refl | assumption | refine State.refuseIsland_keeps (by decide) ?_
      | refine State.startReclaim_keeps (by decide) ?_ | refine State.setIsland_keeps (by decide) ?_
      | refine Keeps.foldl (fun _ _ _ => ?_) _ ?_ | refine Keeps.ite ?_ ?_)
    | dsimp only
    | split)

theorem islandRemove_keeps {w : List Fld} {s t : State} {a0} (hw : [.regs, .host, .pba, .msixHeld, .outs,
    .islands, .summit, .rings, .adminEvents, .parts, .ctl, .leases] ⊆ w) (h : Keeps w s t) :
    Keeps w s (islandRemove a0 t) := h.lift hw (by
  unfold islandRemove
  try dsimp only
  repeat' first
    | (with_reducible first
      | exact Keeps.refl | assumption | refine State.islandPending_keeps (by decide) ?_
      | refine State.removeIsland_keeps (by decide) ?_ | refine State.setReg_keeps (by decide) ?_
      | refine Keeps.foldl (fun _ _ _ => ?_) _ ?_ | refine Keeps.ite ?_ ?_)
    | split)

theorem islandRemovalDone_keeps {w : List Fld} {s t : State} {a0 a1} (hw : [.regs, .pba, .msixHeld, .outs,
    .islands, .ctl] ⊆ w) (h : Keeps w s t) :
    Keeps w s (islandRemovalDone a0 a1 t) := h.lift hw (by
  unfold islandRemovalDone
  try dsimp only
  repeat' first
    | with_reducible exact Or.inl rfl
    | exact Or.inr (And.intro (by decide) (fun hk => by simp [hk]))
    | (with_reducible first
      | exact Or.inr (by decide) | exact Keeps.refl | assumption
      | refine State.islandPending_keeps (by decide) ?_ | refine State.edge_keeps (by decide) ?_
      | refine State.syncHolds_keeps (by decide) ?_ | refine State.setIsland_keeps (by decide) ?_
      | refine Keeps.ite ?_ ?_)
    | dsimp only
    | split
    | with_reducible apply Keeps.update)

theorem belayRadioMemWrite_keeps {w : List Fld} {s t : State} {a0} (hw : [.regs] ⊆ w) (h : Keeps w s t) :
    Keeps w s (belayRadioMemWrite a0 t) := h.lift hw (by
  unfold belayRadioMemWrite
  try dsimp only
  repeat' first
    | (with_reducible first
      | exact Keeps.refl | assumption | refine State.applyWrite_keeps (by decide) ?_
      | refine State.setRbit_keeps (by decide) ?_ | refine Keeps.ite ?_ ?_)
    | split)

theorem State.applyStore_keeps {w : List Fld} {s t : State} {a1 a2} (hw : [.regs, .stack, .tileW, .tileA,
    .ledge, .ue, .weak, .stackSt, .pba, .msixHeld, .outs, .units, .summit, .ctl] ⊆ w) (h : Keeps w s t) :
    Keeps w s (State.applyStore t a1 a2) := h.lift hw (by
  unfold State.applyStore
  try dsimp only
  repeat' first
    | (with_reducible first
      | exact Keeps.refl | assumption | refine State.issuerWrite_keeps (by decide) ?_
      | refine State.writeMem_keeps (by decide) ?_)
    | split)

theorem State.vdeView_keeps {w : List Fld} {s t : State} {a1 a2} (hw : [.regs, .stack, .tileW, .tileA, .ledge,
    .ue, .weak, .stackSt, .pba, .msixHeld, .outs, .units, .summit, .ctl] ⊆ w) (h : Keeps w s t) :
    Keeps w s (State.vdeView t a1 a2) := h.lift hw (by
  unfold State.vdeView
  try dsimp only
  repeat' first
    | (with_reducible first
      | exact Keeps.refl | assumption | refine State.applyStore_keeps (by decide) ?_
      | refine Keeps.foldl (fun _ _ _ => ?_) _ ?_)
    | dsimp only)

theorem State.showStores_keeps {w : List Fld} {s t : State} {a1 a2 a3} (hw : [.regs, .stack, .tileW, .tileA,
    .ledge, .ue, .weak, .stackSt, .pba, .msixHeld, .outs, .units, .summit, .ctl, .vdes] ⊆ w) (h : Keeps w s t)
    :
    Keeps w s (State.showStores t a1 a2 a3) := h.lift hw (by
  unfold State.showStores
  try dsimp only
  repeat' first
    | (with_reducible first
      | exact Keeps.refl | assumption | refine State.applyStore_keeps (by decide) ?_
      | refine State.setVde_keeps (by decide) ?_ | refine Keeps.foldl (fun _ _ _ => ?_) _ ?_
      | refine Keeps.foldl_fst (fun _ _ _ => ?_) _ ?_)
    | dsimp only)

theorem State.endList_keeps {w : List Fld} {s t : State} {a1 a2 a3 a4} (hw : [.regs, .host, .stack, .tileW,
    .tileA, .ledge, .ue, .weak, .stackSt, .pba, .msixHeld, .outs, .units, .summit, .rings, .adminEvents,
    .parts, .ctl, .kernels, .vdes, .rope] ⊆ w) (h : Keeps w s t) :
    Keeps w s (State.endList t a1 a2 a3 a4) := h.lift hw (by
  unfold State.endList
  try dsimp only
  repeat' first
    | (with_reducible first
      | exact Keeps.refl | assumption | refine State.showStores_keeps (by decide) ?_
      | refine State.meterHs_keeps (by decide) ?_ | refine State.account_keeps (by decide) ?_
      | refine State.setVde_keeps (by decide) ?_ | refine State.finishUnit_keeps (by decide) ?_)
    | dsimp only)

theorem State.completeList_keeps {w : List Fld} {s t : State} {a1 a2 a3} (hw : [.regs, .host, .stack, .tileW,
    .tileA, .ledge, .ue, .weak, .stackSt, .pba, .msixHeld, .outs, .units, .summit, .rings, .adminEvents,
    .parts, .ctl, .kernels, .vdes, .rope] ⊆ w) (h : Keeps w s t) :
    Keeps w s (State.completeList t a1 a2 a3) := h.lift hw (by
  unfold State.completeList
  try dsimp only
  repeat' first
    | (with_reducible first
      | exact Keeps.refl | assumption | refine State.endList_keeps (by decide) ?_
      | refine State.setVde_keeps (by decide) ?_))

theorem State.locWrite_keeps {w : List Fld} {s t : State} {a1 a2 a3 a4} (hw : [.regs, .stack, .tileW, .tileA,
    .ledge, .ue, .weak, .stackSt, .pba, .msixHeld, .outs, .units, .summit, .ctl] ⊆ w) (h : Keeps w s t) :
    Keeps w s (State.locWrite t a1 a2 a3 a4) := h.lift hw (by
  unfold State.locWrite
  try dsimp only
  repeat' first
    | (with_reducible first
      | exact Keeps.refl | assumption | refine State.issuerWrite_keeps (by decide) ?_
      | refine State.writeMem_keeps (by decide) ?_)
    | split)

theorem State.noteFail_keeps {w : List Fld} {s t : State} {a1} (hw : [.regs, .pba, .msixHeld, .outs, .summit,
    .ctl] ⊆ w) (h : Keeps w s t) :
    Keeps w s (State.noteFail t a1) := h.lift hw (by
  unfold State.noteFail
  try dsimp only
  repeat' first
    | (with_reducible first
      | exact Keeps.refl | assumption | refine State.failMedia_keeps (by decide) ?_)
    | split)

theorem State.haltNow_keeps {w : List Fld} {s t : State} {a1 a2 a3 a4} (hw : [.regs, .host, .stack, .tileW,
    .tileA, .ledge, .ue, .weak, .stackSt, .pba, .msixHeld, .outs, .units, .summit, .rings, .adminEvents,
    .parts, .ctl, .kernels, .vdes, .rope] ⊆ w) (h : Keeps w s t) :
    Keeps w s (State.haltNow t a1 a2 a3 a4) := h.lift hw (by
  unfold State.haltNow
  try dsimp only
  repeat' first
    | (with_reducible first
      | exact Keeps.refl | assumption | refine State.showStores_keeps (by decide) ?_
      | refine State.setVde_keeps (by decide) ?_ | refine State.endList_keeps (by decide) ?_
      | refine State.noteFail_keeps (by decide) ?_ | refine State.locWrite_keeps (by decide) ?_)
    | split)

theorem State.listDone_keeps {w : List Fld} {s t : State} {a1 a2 a3} (hw : [.regs, .host, .stack, .tileW,
    .tileA, .ledge, .ue, .weak, .stackSt, .pba, .msixHeld, .outs, .units, .summit, .rings, .adminEvents,
    .parts, .ctl, .kernels, .vdes, .rope] ⊆ w) (h : Keeps w s t) :
    Keeps w s (State.listDone t a1 a2 a3) := h.lift hw (by
  unfold State.listDone
  try dsimp only
  repeat' first
    | (with_reducible first
      | exact Keeps.refl | assumption | refine State.completeList_keeps (by decide) ?_ | refine Keeps.ite ?_ ?_)
    | split)

theorem State.issueEff_keeps {w : List Fld} {s t : State} {a1 a2 a3 a4 a5} (hw : [.regs, .host, .stack,
    .tileW, .tileA, .ledge, .ue, .weak, .stackSt, .pba, .msixHeld, .outs, .units, .summit, .rings,
    .adminEvents, .parts, .ctl, .kernels, .vdes, .rope] ⊆ w) (h : Keeps w s t) :
    Keeps w s (State.issueEff t a1 a2 a3 a4 a5) := h.lift hw (by
  unfold State.issueEff
  try dsimp only
  repeat' first
    | (with_reducible first
      | exact Keeps.refl | assumption | refine State.account_keeps (by decide) ?_
      | refine State.setVde_keeps (by decide) ?_ | refine State.haltNow_keeps (by decide) ?_
      | refine State.listDone_keeps (by decide) ?_ | refine Keeps.ite ?_ ?_)
    | dsimp only
    | split)

theorem State.vdeRow_keeps {w : List Fld} {s t : State} {a0 a1 a2 a3} (hw : [.regs, .host, .stack, .tileW,
    .tileA, .ledge, .ue, .weak, .stackSt, .pba, .msixHeld, .outs, .units, .summit, .rings, .adminEvents,
    .parts, .ctl, .kernels, .vdes, .rope] ⊆ w) (h : Keeps w s t) :
    Keeps w s (State.vdeRow a0 a1 a2 a3 t) := h.lift hw (by
  unfold State.vdeRow
  try dsimp only
  repeat' first
    | (with_reducible first
      | exact Keeps.refl | assumption | refine State.setVde_keeps (by decide) ?_
      | refine State.vdeView_keeps (by decide) ?_ | refine State.issueEff_keeps (by decide) ?_
      | refine State.locCorrects_keeps (by decide) ?_ | refine State.endList_keeps (by decide) ?_
      | refine State.failMedia_keeps (by decide) ?_ | refine Keeps.ite ?_ ?_)
    | split)

theorem vdeLdv_keeps {w : List Fld} {s t : State} {a0 a1} (hw : [.regs, .host, .stack, .tileW, .tileA, .ledge,
    .ue, .weak, .stackSt, .pba, .msixHeld, .outs, .units, .summit, .rings, .adminEvents, .parts, .ctl,
    .kernels, .vdes, .rope] ⊆ w) (h : Keeps w s t) :
    Keeps w s (vdeLdv a0 a1 t) := h.lift hw (by
  unfold vdeLdv
  try dsimp only
  repeat' first
    | (with_reducible first
      | exact Keeps.refl | assumption | refine State.vdeRow_keeps (by decide) ?_)
    | dsimp only)

theorem vdeStv_keeps {w : List Fld} {s t : State} {a0 a1} (hw : [.regs, .host, .stack, .tileW, .tileA, .ledge,
    .ue, .weak, .stackSt, .pba, .msixHeld, .outs, .units, .summit, .rings, .adminEvents, .parts, .ctl,
    .kernels, .vdes, .rope] ⊆ w) (h : Keeps w s t) :
    Keeps w s (vdeStv a0 a1 t) := h.lift hw (by
  unfold vdeStv
  try dsimp only
  repeat' first
    | (with_reducible first
      | exact Keeps.refl | assumption | refine State.vdeRow_keeps (by decide) ?_)
    | dsimp only)

theorem vdeLdx_keeps {w : List Fld} {s t : State} {a0 a1} (hw : [.regs, .host, .stack, .tileW, .tileA, .ledge,
    .ue, .weak, .stackSt, .pba, .msixHeld, .outs, .units, .summit, .rings, .adminEvents, .parts, .ctl,
    .kernels, .vdes, .rope] ⊆ w) (h : Keeps w s t) :
    Keeps w s (vdeLdx a0 a1 t) := h.lift hw (by
  unfold vdeLdx
  try dsimp only
  repeat' first
    | (with_reducible first
      | exact Keeps.refl | assumption | refine State.vdeRow_keeps (by decide) ?_)
    | dsimp only)

theorem vdeSts_keeps {w : List Fld} {s t : State} {a0 a1} (hw : [.regs, .host, .stack, .tileW, .tileA, .ledge,
    .ue, .weak, .stackSt, .pba, .msixHeld, .outs, .units, .summit, .rings, .adminEvents, .parts, .ctl,
    .kernels, .vdes, .rope] ⊆ w) (h : Keeps w s t) :
    Keeps w s (vdeSts a0 a1 t) := h.lift hw (by
  unfold vdeSts
  try dsimp only
  repeat' first
    | (with_reducible first
      | exact Keeps.refl | assumption | refine State.vdeRow_keeps (by decide) ?_)
    | dsimp only)

theorem vdeExpb_keeps {w : List Fld} {s t : State} {a0 a1} (hw : [.regs, .host, .stack, .tileW, .tileA,
    .ledge, .ue, .weak, .stackSt, .pba, .msixHeld, .outs, .units, .summit, .rings, .adminEvents, .parts, .ctl,
    .kernels, .vdes, .rope] ⊆ w) (h : Keeps w s t) :
    Keeps w s (vdeExpb a0 a1 t) := h.lift hw (by
  unfold vdeExpb
  try dsimp only
  repeat' first
    | (with_reducible first
      | exact Keeps.refl | assumption | refine State.vdeRow_keeps (by decide) ?_)
    | dsimp only)

theorem vdeCmpb_keeps {w : List Fld} {s t : State} {a0 a1} (hw : [.regs, .host, .stack, .tileW, .tileA,
    .ledge, .ue, .weak, .stackSt, .pba, .msixHeld, .outs, .units, .summit, .rings, .adminEvents, .parts, .ctl,
    .kernels, .vdes, .rope] ⊆ w) (h : Keeps w s t) :
    Keeps w s (vdeCmpb a0 a1 t) := h.lift hw (by
  unfold vdeCmpb
  try dsimp only
  repeat' first
    | (with_reducible first
      | exact Keeps.refl | assumption | refine State.vdeRow_keeps (by decide) ?_)
    | dsimp only)

theorem vdeAgld_keeps {w : List Fld} {s t : State} {a0 a1} (hw : [.regs, .host, .stack, .tileW, .tileA,
    .ledge, .ue, .weak, .stackSt, .pba, .msixHeld, .outs, .units, .summit, .rings, .adminEvents, .parts, .ctl,
    .kernels, .vdes, .rope] ⊆ w) (h : Keeps w s t) :
    Keeps w s (vdeAgld a0 a1 t) := h.lift hw (by
  unfold vdeAgld
  try dsimp only
  repeat' first
    | (with_reducible first
      | exact Keeps.refl | assumption | refine State.vdeRow_keeps (by decide) ?_)
    | dsimp only)

theorem vdeMov_keeps {w : List Fld} {s t : State} {a0 a1} (hw : [.regs, .host, .stack, .tileW, .tileA, .ledge,
    .ue, .weak, .stackSt, .pba, .msixHeld, .outs, .units, .summit, .rings, .adminEvents, .parts, .ctl,
    .kernels, .vdes, .rope] ⊆ w) (h : Keeps w s t) :
    Keeps w s (vdeMov a0 a1 t) := h.lift hw (by
  unfold vdeMov
  try dsimp only
  repeat' first
    | (with_reducible first
      | exact Keeps.refl | assumption | refine State.vdeRow_keeps (by decide) ?_)
    | dsimp only)

theorem vdeSplat_keeps {w : List Fld} {s t : State} {a0 a1} (hw : [.regs, .host, .stack, .tileW, .tileA,
    .ledge, .ue, .weak, .stackSt, .pba, .msixHeld, .outs, .units, .summit, .rings, .adminEvents, .parts, .ctl,
    .kernels, .vdes, .rope] ⊆ w) (h : Keeps w s t) :
    Keeps w s (vdeSplat a0 a1 t) := h.lift hw (by
  unfold vdeSplat
  try dsimp only
  repeat' first
    | (with_reducible first
      | exact Keeps.refl | assumption | refine State.vdeRow_keeps (by decide) ?_)
    | dsimp only)

theorem vdeSets_keeps {w : List Fld} {s t : State} {a0 a1} (hw : [.regs, .host, .stack, .tileW, .tileA,
    .ledge, .ue, .weak, .stackSt, .pba, .msixHeld, .outs, .units, .summit, .rings, .adminEvents, .parts, .ctl,
    .kernels, .vdes, .rope] ⊆ w) (h : Keeps w s t) :
    Keeps w s (vdeSets a0 a1 t) := h.lift hw (by
  unfold vdeSets
  try dsimp only
  repeat' first
    | (with_reducible first
      | exact Keeps.refl | assumption | refine State.vdeRow_keeps (by decide) ?_)
    | dsimp only)

theorem vdePerm_keeps {w : List Fld} {s t : State} {a0 a1} (hw : [.regs, .host, .stack, .tileW, .tileA,
    .ledge, .ue, .weak, .stackSt, .pba, .msixHeld, .outs, .units, .summit, .rings, .adminEvents, .parts, .ctl,
    .kernels, .vdes, .rope] ⊆ w) (h : Keeps w s t) :
    Keeps w s (vdePerm a0 a1 t) := h.lift hw (by
  unfold vdePerm
  try dsimp only
  repeat' first
    | (with_reducible first
      | exact Keeps.refl | assumption | refine State.vdeRow_keeps (by decide) ?_)
    | dsimp only)

theorem vdeAdd_keeps {w : List Fld} {s t : State} {a0 a1} (hw : [.regs, .host, .stack, .tileW, .tileA, .ledge,
    .ue, .weak, .stackSt, .pba, .msixHeld, .outs, .units, .summit, .rings, .adminEvents, .parts, .ctl,
    .kernels, .vdes, .rope] ⊆ w) (h : Keeps w s t) :
    Keeps w s (vdeAdd a0 a1 t) := h.lift hw (by
  unfold vdeAdd
  try dsimp only
  repeat' first
    | (with_reducible first
      | exact Keeps.refl | assumption | refine State.vdeRow_keeps (by decide) ?_)
    | dsimp only)

theorem vdeSub_keeps {w : List Fld} {s t : State} {a0 a1} (hw : [.regs, .host, .stack, .tileW, .tileA, .ledge,
    .ue, .weak, .stackSt, .pba, .msixHeld, .outs, .units, .summit, .rings, .adminEvents, .parts, .ctl,
    .kernels, .vdes, .rope] ⊆ w) (h : Keeps w s t) :
    Keeps w s (vdeSub a0 a1 t) := h.lift hw (by
  unfold vdeSub
  try dsimp only
  repeat' first
    | (with_reducible first
      | exact Keeps.refl | assumption | refine State.vdeRow_keeps (by decide) ?_)
    | dsimp only)

theorem vdeMul_keeps {w : List Fld} {s t : State} {a0 a1} (hw : [.regs, .host, .stack, .tileW, .tileA, .ledge,
    .ue, .weak, .stackSt, .pba, .msixHeld, .outs, .units, .summit, .rings, .adminEvents, .parts, .ctl,
    .kernels, .vdes, .rope] ⊆ w) (h : Keeps w s t) :
    Keeps w s (vdeMul a0 a1 t) := h.lift hw (by
  unfold vdeMul
  try dsimp only
  repeat' first
    | (with_reducible first
      | exact Keeps.refl | assumption | refine State.vdeRow_keeps (by decide) ?_)
    | dsimp only)

theorem vdeConj_keeps {w : List Fld} {s t : State} {a0 a1} (hw : [.regs, .host, .stack, .tileW, .tileA,
    .ledge, .ue, .weak, .stackSt, .pba, .msixHeld, .outs, .units, .summit, .rings, .adminEvents, .parts, .ctl,
    .kernels, .vdes, .rope] ⊆ w) (h : Keeps w s t) :
    Keeps w s (vdeConj a0 a1 t) := h.lift hw (by
  unfold vdeConj
  try dsimp only
  repeat' first
    | (with_reducible first
      | exact Keeps.refl | assumption | refine State.vdeRow_keeps (by decide) ?_)
    | dsimp only)

theorem vdeAbs2_keeps {w : List Fld} {s t : State} {a0 a1} (hw : [.regs, .host, .stack, .tileW, .tileA,
    .ledge, .ue, .weak, .stackSt, .pba, .msixHeld, .outs, .units, .summit, .rings, .adminEvents, .parts, .ctl,
    .kernels, .vdes, .rope] ⊆ w) (h : Keeps w s t) :
    Keeps w s (vdeAbs2 a0 a1 t) := h.lift hw (by
  unfold vdeAbs2
  try dsimp only
  repeat' first
    | (with_reducible first
      | exact Keeps.refl | assumption | refine State.vdeRow_keeps (by decide) ?_)
    | dsimp only)

theorem vdeShr_keeps {w : List Fld} {s t : State} {a0 a1} (hw : [.regs, .host, .stack, .tileW, .tileA, .ledge,
    .ue, .weak, .stackSt, .pba, .msixHeld, .outs, .units, .summit, .rings, .adminEvents, .parts, .ctl,
    .kernels, .vdes, .rope] ⊆ w) (h : Keeps w s t) :
    Keeps w s (vdeShr a0 a1 t) := h.lift hw (by
  unfold vdeShr
  try dsimp only
  repeat' first
    | (with_reducible first
      | exact Keeps.refl | assumption | refine State.vdeRow_keeps (by decide) ?_)
    | dsimp only)

theorem vdeCvt_keeps {w : List Fld} {s t : State} {a0 a1} (hw : [.regs, .host, .stack, .tileW, .tileA, .ledge,
    .ue, .weak, .stackSt, .pba, .msixHeld, .outs, .units, .summit, .rings, .adminEvents, .parts, .ctl,
    .kernels, .vdes, .rope] ⊆ w) (h : Keeps w s t) :
    Keeps w s (vdeCvt a0 a1 t) := h.lift hw (by
  unfold vdeCvt
  try dsimp only
  repeat' first
    | (with_reducible first
      | exact Keeps.refl | assumption | refine State.vdeRow_keeps (by decide) ?_)
    | dsimp only)

theorem vdeMaxv_keeps {w : List Fld} {s t : State} {a0 a1} (hw : [.regs, .host, .stack, .tileW, .tileA,
    .ledge, .ue, .weak, .stackSt, .pba, .msixHeld, .outs, .units, .summit, .rings, .adminEvents, .parts, .ctl,
    .kernels, .vdes, .rope] ⊆ w) (h : Keeps w s t) :
    Keeps w s (vdeMaxv a0 a1 t) := h.lift hw (by
  unfold vdeMaxv
  try dsimp only
  repeat' first
    | (with_reducible first
      | exact Keeps.refl | assumption | refine State.vdeRow_keeps (by decide) ?_)
    | dsimp only)

theorem vdeMinv_keeps {w : List Fld} {s t : State} {a0 a1} (hw : [.regs, .host, .stack, .tileW, .tileA,
    .ledge, .ue, .weak, .stackSt, .pba, .msixHeld, .outs, .units, .summit, .rings, .adminEvents, .parts, .ctl,
    .kernels, .vdes, .rope] ⊆ w) (h : Keeps w s t) :
    Keeps w s (vdeMinv a0 a1 t) := h.lift hw (by
  unfold vdeMinv
  try dsimp only
  repeat' first
    | (with_reducible first
      | exact Keeps.refl | assumption | refine State.vdeRow_keeps (by decide) ?_)
    | dsimp only)

theorem vdeAnd_keeps {w : List Fld} {s t : State} {a0 a1} (hw : [.regs, .host, .stack, .tileW, .tileA, .ledge,
    .ue, .weak, .stackSt, .pba, .msixHeld, .outs, .units, .summit, .rings, .adminEvents, .parts, .ctl,
    .kernels, .vdes, .rope] ⊆ w) (h : Keeps w s t) :
    Keeps w s (vdeAnd a0 a1 t) := h.lift hw (by
  unfold vdeAnd
  try dsimp only
  repeat' first
    | (with_reducible first
      | exact Keeps.refl | assumption | refine State.vdeRow_keeps (by decide) ?_)
    | dsimp only)

theorem vdeXor_keeps {w : List Fld} {s t : State} {a0 a1} (hw : [.regs, .host, .stack, .tileW, .tileA, .ledge,
    .ue, .weak, .stackSt, .pba, .msixHeld, .outs, .units, .summit, .rings, .adminEvents, .parts, .ctl,
    .kernels, .vdes, .rope] ⊆ w) (h : Keeps w s t) :
    Keeps w s (vdeXor a0 a1 t) := h.lift hw (by
  unfold vdeXor
  try dsimp only
  repeat' first
    | (with_reducible first
      | exact Keeps.refl | assumption | refine State.vdeRow_keeps (by decide) ?_)
    | dsimp only)

theorem vdeRecip_keeps {w : List Fld} {s t : State} {a0 a1} (hw : [.regs, .host, .stack, .tileW, .tileA,
    .ledge, .ue, .weak, .stackSt, .pba, .msixHeld, .outs, .units, .summit, .rings, .adminEvents, .parts, .ctl,
    .kernels, .vdes, .rope] ⊆ w) (h : Keeps w s t) :
    Keeps w s (vdeRecip a0 a1 t) := h.lift hw (by
  unfold vdeRecip
  try dsimp only
  repeat' first
    | (with_reducible first
      | exact Keeps.refl | assumption | refine State.vdeRow_keeps (by decide) ?_)
    | dsimp only)

theorem vdeMacz_keeps {w : List Fld} {s t : State} {a0 a1} (hw : [.regs, .host, .stack, .tileW, .tileA,
    .ledge, .ue, .weak, .stackSt, .pba, .msixHeld, .outs, .units, .summit, .rings, .adminEvents, .parts, .ctl,
    .kernels, .vdes, .rope] ⊆ w) (h : Keeps w s t) :
    Keeps w s (vdeMacz a0 a1 t) := h.lift hw (by
  unfold vdeMacz
  try dsimp only
  repeat' first
    | (with_reducible first
      | exact Keeps.refl | assumption | refine State.vdeRow_keeps (by decide) ?_)
    | dsimp only)

theorem vdeMac_keeps {w : List Fld} {s t : State} {a0 a1} (hw : [.regs, .host, .stack, .tileW, .tileA, .ledge,
    .ue, .weak, .stackSt, .pba, .msixHeld, .outs, .units, .summit, .rings, .adminEvents, .parts, .ctl,
    .kernels, .vdes, .rope] ⊆ w) (h : Keeps w s t) :
    Keeps w s (vdeMac a0 a1 t) := h.lift hw (by
  unfold vdeMac
  try dsimp only
  repeat' first
    | (with_reducible first
      | exact Keeps.refl | assumption | refine State.vdeRow_keeps (by decide) ?_)
    | dsimp only)

theorem vdeMsc_keeps {w : List Fld} {s t : State} {a0 a1} (hw : [.regs, .host, .stack, .tileW, .tileA, .ledge,
    .ue, .weak, .stackSt, .pba, .msixHeld, .outs, .units, .summit, .rings, .adminEvents, .parts, .ctl,
    .kernels, .vdes, .rope] ⊆ w) (h : Keeps w s t) :
    Keeps w s (vdeMsc a0 a1 t) := h.lift hw (by
  unfold vdeMsc
  try dsimp only
  repeat' first
    | (with_reducible first
      | exact Keeps.refl | assumption | refine State.vdeRow_keeps (by decide) ?_)
    | dsimp only)

theorem vdeNarrow_keeps {w : List Fld} {s t : State} {a0 a1} (hw : [.regs, .host, .stack, .tileW, .tileA,
    .ledge, .ue, .weak, .stackSt, .pba, .msixHeld, .outs, .units, .summit, .rings, .adminEvents, .parts, .ctl,
    .kernels, .vdes, .rope] ⊆ w) (h : Keeps w s t) :
    Keeps w s (vdeNarrow a0 a1 t) := h.lift hw (by
  unfold vdeNarrow
  try dsimp only
  repeat' first
    | (with_reducible first
      | exact Keeps.refl | assumption | refine State.vdeRow_keeps (by decide) ?_)
    | dsimp only)

theorem vdeGold_keeps {w : List Fld} {s t : State} {a0 a1} (hw : [.regs, .host, .stack, .tileW, .tileA,
    .ledge, .ue, .weak, .stackSt, .pba, .msixHeld, .outs, .units, .summit, .rings, .adminEvents, .parts, .ctl,
    .kernels, .vdes, .rope] ⊆ w) (h : Keeps w s t) :
    Keeps w s (vdeGold a0 a1 t) := h.lift hw (by
  unfold vdeGold
  try dsimp only
  repeat' first
    | (with_reducible first
      | exact Keeps.refl | assumption | refine State.vdeRow_keeps (by decide) ?_)
    | dsimp only)

theorem vdeCrc_keeps {w : List Fld} {s t : State} {a0 a1} (hw : [.regs, .host, .stack, .tileW, .tileA, .ledge,
    .ue, .weak, .stackSt, .pba, .msixHeld, .outs, .units, .summit, .rings, .adminEvents, .parts, .ctl,
    .kernels, .vdes, .rope] ⊆ w) (h : Keeps w s t) :
    Keeps w s (vdeCrc a0 a1 t) := h.lift hw (by
  unfold vdeCrc
  try dsimp only
  repeat' first
    | (with_reducible first
      | exact Keeps.refl | assumption | refine State.vdeRow_keeps (by decide) ?_)
    | dsimp only)

theorem vdeQmap_keeps {w : List Fld} {s t : State} {a0 a1} (hw : [.regs, .host, .stack, .tileW, .tileA,
    .ledge, .ue, .weak, .stackSt, .pba, .msixHeld, .outs, .units, .summit, .rings, .adminEvents, .parts, .ctl,
    .kernels, .vdes, .rope] ⊆ w) (h : Keeps w s t) :
    Keeps w s (vdeQmap a0 a1 t) := h.lift hw (by
  unfold vdeQmap
  try dsimp only
  repeat' first
    | (with_reducible first
      | exact Keeps.refl | assumption | refine State.vdeRow_keeps (by decide) ?_)
    | dsimp only)

theorem vdeDemap_keeps {w : List Fld} {s t : State} {a0 a1} (hw : [.regs, .host, .stack, .tileW, .tileA,
    .ledge, .ue, .weak, .stackSt, .pba, .msixHeld, .outs, .units, .summit, .rings, .adminEvents, .parts, .ctl,
    .kernels, .vdes, .rope] ⊆ w) (h : Keeps w s t) :
    Keeps w s (vdeDemap a0 a1 t) := h.lift hw (by
  unfold vdeDemap
  try dsimp only
  repeat' first
    | (with_reducible first
      | exact Keeps.refl | assumption | refine State.vdeRow_keeps (by decide) ?_)
    | dsimp only)

theorem vdeFht_keeps {w : List Fld} {s t : State} {a0 a1} (hw : [.regs, .host, .stack, .tileW, .tileA, .ledge,
    .ue, .weak, .stackSt, .pba, .msixHeld, .outs, .units, .summit, .rings, .adminEvents, .parts, .ctl,
    .kernels, .vdes, .rope] ⊆ w) (h : Keeps w s t) :
    Keeps w s (vdeFht a0 a1 t) := h.lift hw (by
  unfold vdeFht
  try dsimp only
  repeat' first
    | (with_reducible first
      | exact Keeps.refl | assumption | refine State.vdeRow_keeps (by decide) ?_)
    | dsimp only)

theorem vdeMaxs_keeps {w : List Fld} {s t : State} {a0 a1} (hw : [.regs, .host, .stack, .tileW, .tileA,
    .ledge, .ue, .weak, .stackSt, .pba, .msixHeld, .outs, .units, .summit, .rings, .adminEvents, .parts, .ctl,
    .kernels, .vdes, .rope] ⊆ w) (h : Keeps w s t) :
    Keeps w s (vdeMaxs a0 a1 t) := h.lift hw (by
  unfold vdeMaxs
  try dsimp only
  repeat' first
    | (with_reducible first
      | exact Keeps.refl | assumption | refine State.vdeRow_keeps (by decide) ?_)
    | dsimp only)

theorem vdeMins_keeps {w : List Fld} {s t : State} {a0 a1} (hw : [.regs, .host, .stack, .tileW, .tileA,
    .ledge, .ue, .weak, .stackSt, .pba, .msixHeld, .outs, .units, .summit, .rings, .adminEvents, .parts, .ctl,
    .kernels, .vdes, .rope] ⊆ w) (h : Keeps w s t) :
    Keeps w s (vdeMins a0 a1 t) := h.lift hw (by
  unfold vdeMins
  try dsimp only
  repeat' first
    | (with_reducible first
      | exact Keeps.refl | assumption | refine State.vdeRow_keeps (by decide) ?_)
    | dsimp only)

theorem vdeRsum_keeps {w : List Fld} {s t : State} {a0 a1} (hw : [.regs, .host, .stack, .tileW, .tileA,
    .ledge, .ue, .weak, .stackSt, .pba, .msixHeld, .outs, .units, .summit, .rings, .adminEvents, .parts, .ctl,
    .kernels, .vdes, .rope] ⊆ w) (h : Keeps w s t) :
    Keeps w s (vdeRsum a0 a1 t) := h.lift hw (by
  unfold vdeRsum
  try dsimp only
  repeat' first
    | (with_reducible first
      | exact Keeps.refl | assumption | refine State.vdeRow_keeps (by decide) ?_)
    | dsimp only)

theorem vdeAmm_keeps {w : List Fld} {s t : State} {a0 a1} (hw : [.regs, .host, .stack, .tileW, .tileA, .ledge,
    .ue, .weak, .stackSt, .pba, .msixHeld, .outs, .units, .summit, .rings, .adminEvents, .parts, .ctl,
    .kernels, .vdes, .rope] ⊆ w) (h : Keeps w s t) :
    Keeps w s (vdeAmm a0 a1 t) := h.lift hw (by
  unfold vdeAmm
  try dsimp only
  repeat' first
    | (with_reducible first
      | exact Keeps.refl | assumption | refine State.vdeRow_keeps (by decide) ?_)
    | dsimp only)

theorem vdeArd_keeps {w : List Fld} {s t : State} {a0 a1} (hw : [.regs, .host, .stack, .tileW, .tileA, .ledge,
    .ue, .weak, .stackSt, .pba, .msixHeld, .outs, .units, .summit, .rings, .adminEvents, .parts, .ctl,
    .kernels, .vdes, .rope] ⊆ w) (h : Keeps w s t) :
    Keeps w s (vdeArd a0 a1 t) := h.lift hw (by
  unfold vdeArd
  try dsimp only
  repeat' first
    | (with_reducible first
      | exact Keeps.refl | assumption | refine State.vdeRow_keeps (by decide) ?_)
    | dsimp only)

theorem vdeLoop_keeps {w : List Fld} {s t : State} {a0 a1} (hw : [.regs, .host, .stack, .tileW, .tileA,
    .ledge, .ue, .weak, .stackSt, .pba, .msixHeld, .outs, .units, .summit, .rings, .adminEvents, .parts, .ctl,
    .kernels, .vdes, .rope] ⊆ w) (h : Keeps w s t) :
    Keeps w s (vdeLoop a0 a1 t) := h.lift hw (by
  unfold vdeLoop
  try dsimp only
  repeat' first
    | (with_reducible first
      | exact Keeps.refl | assumption | refine State.vdeRow_keeps (by decide) ?_)
    | dsimp only)

theorem vdeNop_keeps {w : List Fld} {s t : State} {a0 a1} (hw : [.regs, .host, .stack, .tileW, .tileA, .ledge,
    .ue, .weak, .stackSt, .pba, .msixHeld, .outs, .units, .summit, .rings, .adminEvents, .parts, .ctl,
    .kernels, .vdes, .rope] ⊆ w) (h : Keeps w s t) :
    Keeps w s (vdeNop a0 a1 t) := h.lift hw (by
  unfold vdeNop
  try dsimp only
  repeat' first
    | (with_reducible first
      | exact Keeps.refl | assumption | refine State.vdeRow_keeps (by decide) ?_)
    | dsimp only)

theorem vdeFence_keeps {w : List Fld} {s t : State} {a0 a1} (hw : [.regs, .host, .stack, .tileW, .tileA,
    .ledge, .ue, .weak, .stackSt, .pba, .msixHeld, .outs, .units, .summit, .rings, .adminEvents, .parts, .ctl,
    .kernels, .vdes, .rope] ⊆ w) (h : Keeps w s t) :
    Keeps w s (vdeFence a0 a1 t) := h.lift hw (by
  unfold vdeFence
  try dsimp only
  repeat' first
    | (with_reducible first
      | exact Keeps.refl | assumption | refine State.vdeRow_keeps (by decide) ?_)
    | dsimp only)

theorem vdeBrk_keeps {w : List Fld} {s t : State} {a0 a1} (hw : [.regs, .host, .stack, .tileW, .tileA, .ledge,
    .ue, .weak, .stackSt, .pba, .msixHeld, .outs, .units, .summit, .rings, .adminEvents, .parts, .ctl,
    .kernels, .vdes, .rope] ⊆ w) (h : Keeps w s t) :
    Keeps w s (vdeBrk a0 a1 t) := h.lift hw (by
  unfold vdeBrk
  try dsimp only
  repeat' first
    | (with_reducible first
      | exact Keeps.refl | assumption | refine State.vdeRow_keeps (by decide) ?_)
    | dsimp only)

theorem vdeFreezeEnd_keeps {w : List Fld} {s t : State} {a0 a1} (hw : [.regs, .host, .stack, .tileW, .tileA,
    .ledge, .ue, .weak, .stackSt, .pba, .msixHeld, .outs, .units, .summit, .rings, .adminEvents, .parts, .ctl,
    .kernels, .vdes, .rope] ⊆ w) (h : Keeps w s t) :
    Keeps w s (vdeFreezeEnd a0 a1 t) := h.lift hw (by
  unfold vdeFreezeEnd
  try dsimp only
  repeat' first
    | (with_reducible first
      | exact Keeps.refl | assumption | refine State.showStores_keeps (by decide) ?_
      | refine State.listDone_keeps (by decide) ?_ | refine State.setVde_keeps (by decide) ?_
      | refine Keeps.foldl (fun _ _ _ => ?_) _ ?_)
    | dsimp only
    | split)

theorem State.vdeHaltWrite_keeps {w : List Fld} {s t : State} {a1 a2} (hw : [.regs, .host, .stack, .tileW,
    .tileA, .ledge, .ue, .weak, .stackSt, .pba, .msixHeld, .outs, .units, .summit, .rings, .adminEvents,
    .parts, .ctl, .kernels, .vdes, .rope] ⊆ w) (h : Keeps w s t) :
    Keeps w s (State.vdeHaltWrite t a1 a2) := h.lift hw (by
  unfold State.vdeHaltWrite
  try dsimp only
  repeat' first
    | (with_reducible first
      | exact Keeps.refl | assumption | refine State.setVde_keeps (by decide) ?_
      | refine State.endList_keeps (by decide) ?_ | refine Keeps.ite ?_ ?_)
    | split)

theorem State.vdeResumeWrite_keeps {w : List Fld} {s t : State} {a1 a2 a3} (hw : [.regs, .host, .stack,
    .tileW, .tileA, .ledge, .ue, .weak, .stackSt, .pba, .msixHeld, .outs, .units, .summit, .rings,
    .adminEvents, .parts, .ctl, .kernels, .vdes, .rope] ⊆ w) (h : Keeps w s t) :
    Keeps w s (State.vdeResumeWrite t a1 a2 a3) := h.lift hw (by
  unfold State.vdeResumeWrite
  try dsimp only
  repeat' first
    | (with_reducible first
      | exact Keeps.refl | assumption | refine State.endList_keeps (by decide) ?_
      | refine State.failMedia_keeps (by decide) ?_ | refine State.listDone_keeps (by decide) ?_
      | refine State.setVde_keeps (by decide) ?_ | refine State.locCorrects_keeps (by decide) ?_
      | refine Keeps.ite ?_ ?_)
    | split)

theorem vdeHalt_keeps {w : List Fld} {s t : State} {a0 a1} (hw : [.regs, .host, .stack, .tileW, .tileA,
    .ledge, .ue, .weak, .stackSt, .pba, .msixHeld, .outs, .units, .summit, .rings, .adminEvents, .parts, .ctl,
    .kernels, .vdes, .rope] ⊆ w) (h : Keeps w s t) :
    Keeps w s (vdeHalt a0 a1 t) := h.lift hw (by
  unfold vdeHalt
  try dsimp only
  repeat' first
    | (with_reducible first
      | exact Keeps.refl | assumption | refine State.haltNow_keeps (by decide) ?_ | refine Keeps.ite ?_ ?_)
    | split)

theorem State.onSel_keeps {w : List Fld} {s t : State} {a1} (hw : [] ⊆ w)
    (hk : ∀ x0 x1 x2, Keeps w s x0 → Keeps w s (a1 x0 x1 x2)) (h : Keeps w s t) :
    Keeps w s (State.onSel t a1) := by
  unfold State.onSel
  try dsimp only
  repeat' first
    | (with_reducible first
      | exact Keeps.refl | assumption | refine hk _ _ _ ?_ | refine Keeps.ite ?_ ?_)
    | split

theorem vdeHaltRequest_keeps {w : List Fld} {s t : State} (hw : [.regs, .host, .stack, .tileW, .tileA, .ledge,
    .ue, .weak, .stackSt, .pba, .msixHeld, .outs, .units, .summit, .rings, .adminEvents, .parts, .ctl,
    .kernels, .vdes, .rope] ⊆ w) (h : Keeps w s t) :
    Keeps w s (vdeHaltRequest t) := h.lift hw (by
  unfold vdeHaltRequest
  try dsimp only
  repeat' first
    | (with_reducible first
      | exact Keeps.refl | assumption | refine State.onSel_keeps (by decide) (fun _ _ _ _ => ?_) ?_
      | refine State.vdeHaltWrite_keeps (by decide) ?_ | refine Keeps.ite ?_ ?_)
    | dsimp only
    | split)

theorem vdeListEnd_keeps {w : List Fld} {s t : State} (hw : [.regs, .host, .stack, .tileW, .tileA, .ledge,
    .ue, .weak, .stackSt, .pba, .msixHeld, .outs, .units, .summit, .rings, .adminEvents, .parts, .ctl,
    .kernels, .vdes, .rope] ⊆ w) (h : Keeps w s t) :
    Keeps w s (vdeListEnd t) := h.lift hw (by
  unfold vdeListEnd
  try dsimp only
  repeat' first
    | (with_reducible first
      | exact Keeps.refl | assumption | refine State.onSel_keeps (by decide) (fun _ _ _ _ => ?_) ?_
      | refine State.vdeHaltWrite_keeps (by decide) ?_ | refine Keeps.ite ?_ ?_)
    | dsimp only
    | split)

theorem vdeStep_keeps {w : List Fld} {s t : State} (hw : [.regs, .host, .stack, .tileW, .tileA, .ledge, .ue,
    .weak, .stackSt, .pba, .msixHeld, .outs, .units, .summit, .rings, .adminEvents, .parts, .ctl, .kernels,
    .vdes, .rope] ⊆ w) (h : Keeps w s t) :
    Keeps w s (vdeStep t) := h.lift hw (by
  unfold vdeStep
  try dsimp only
  repeat' first
    | (with_reducible first
      | exact Keeps.refl | assumption | refine State.onSel_keeps (by decide) (fun _ _ _ _ => ?_) ?_
      | refine State.vdeResumeWrite_keeps (by decide) ?_)
    | dsimp only)

theorem vdeResume_keeps {w : List Fld} {s t : State} (hw : [.regs, .host, .stack, .tileW, .tileA, .ledge, .ue,
    .weak, .stackSt, .pba, .msixHeld, .outs, .units, .summit, .rings, .adminEvents, .parts, .ctl, .kernels,
    .vdes, .rope] ⊆ w) (h : Keeps w s t) :
    Keeps w s (vdeResume t) := h.lift hw (by
  unfold vdeResume
  try dsimp only
  repeat' first
    | (with_reducible first
      | exact Keeps.refl | assumption | refine State.onSel_keeps (by decide) (fun _ _ _ _ => ?_) ?_
      | refine State.vdeResumeWrite_keeps (by decide) ?_)
    | dsimp only)

theorem State.vdeRegWrite_keeps {w : List Fld} {s t : State} {a1 a2 a3 a4} (hw : [.regs, .host, .stack,
    .tileW, .tileA, .ledge, .ue, .weak, .stackSt, .pba, .msixHeld, .outs, .units, .summit, .rings,
    .adminEvents, .parts, .ctl, .kernels, .vdes, .rope] ⊆ w) (h : Keeps w s t) :
    Keeps w s (State.vdeRegWrite t a1 a2 a3 a4) := h.lift hw (by
  unfold State.vdeRegWrite
  try dsimp only
  repeat' first
    | (with_reducible first
      | exact Keeps.refl | assumption | refine State.setVde_keeps (by decide) ?_
      | refine State.vdeHaltWrite_keeps (by decide) ?_ | refine State.vdeResumeWrite_keeps (by decide) ?_
      | refine Keeps.ite ?_ ?_)
    | split)

theorem State.countNotice_keeps {w : List Fld} {s t : State} {a1} (hw : [.regs] ⊆ w) (h : Keeps w s t) :
    Keeps w s (State.countNotice t a1) := h.lift hw (by
  unfold State.countNotice
  try dsimp only
  repeat' first
    | (with_reducible first
      | exact Keeps.refl | assumption | refine State.bumpRf_keeps (by decide) ?_))

theorem State.countOverrun_keeps {w : List Fld} {s t : State} {a1} (hw : [.regs] ⊆ w) (h : Keeps w s t) :
    Keeps w s (State.countOverrun t a1) := h.lift hw (by
  unfold State.countOverrun
  try dsimp only
  repeat' first
    | (with_reducible first
      | exact Keeps.refl | assumption | refine State.bumpRf_keeps (by decide) ?_))

theorem State.releaseInds_keeps {w : List Fld} {s t : State} {a1} (hw : [.regs, .host, .pba, .msixHeld, .outs,
    .rings, .adminEvents, .parts, .ctl, .radio] ⊆ w) (h : Keeps w s t) :
    Keeps w s (State.releaseInds t a1) := h.lift hw (by
  unfold State.releaseInds
  try dsimp only
  repeat' first
    | (with_reducible first
      | exact Keeps.refl | assumption | refine State.cellInd_keeps (by decide) ?_
      | refine State.setCell_keeps (by decide) ?_ | refine Keeps.foldl (fun _ _ _ => ?_) _ ?_
      | refine Keeps.ite ?_ ?_)
    | dsimp only
    | split)

theorem State.noticeSlot_keeps {w : List Fld} {s t : State} {a1 a2 a3 a4 a5} (hw : [.regs, .host, .pba,
    .msixHeld, .outs, .summit, .rings, .adminEvents, .parts, .ctl, .radio, .ports] ⊆ w) (h : Keeps w s t) :
    Keeps w s (State.noticeSlot t a1 a2 a3 a4 a5) := h.lift hw (by
  unfold State.noticeSlot
  try dsimp only
  repeat' first
    | (with_reducible first
      | exact Keeps.refl | assumption | refine State.cellInd_keeps (by decide) ?_
      | refine State.setCell_keeps (by decide) ?_ | refine State.record_keeps (by decide) ?_
      | refine State.countNotice_keeps (by decide) ?_ | refine State.releaseInds_keeps (by decide) ?_
      | refine State.dropFrames_keeps (by decide) ?_ | refine Keeps.ite ?_ ?_)
    | dsimp only
    | split)

theorem State.noticeUnserved_keeps {w : List Fld} {s t : State} {a1 a2} (hw : [.regs, .host, .pba, .msixHeld,
    .outs, .summit, .rings, .adminEvents, .parts, .ctl, .radio, .ports] ⊆ w) (h : Keeps w s t) :
    Keeps w s (State.noticeUnserved t a1 a2) := h.lift hw (by
  unfold State.noticeUnserved
  try dsimp only
  repeat' first
    | (with_reducible first
      | exact Keeps.refl | assumption | refine State.noticeSlot_keeps (by decide) ?_
      | refine Keeps.foldl (fun _ _ _ => ?_) _ ?_ | refine Keeps.foldl_fst (fun _ _ _ => ?_) _ ?_
      | refine Keeps.ite ?_ ?_)
    | dsimp only
    | split)

theorem State.markFault_keeps {w : List Fld} {s t : State} {a1 a2} (hw : [.radio] ⊆ w) (h : Keeps w s t) :
    Keeps w s (State.markFault t a1 a2) := h.lift hw (by
  unfold State.markFault
  try dsimp only
  repeat' first
    | (with_reducible first
      | exact Keeps.refl | assumption | refine State.setCell_keeps (by decide) ?_
      | refine Keeps.foldl (fun _ _ _ => ?_) _ ?_ | refine Keeps.foldl_fst (fun _ _ _ => ?_) _ ?_)
    | dsimp only)

theorem State.markIsland_keeps {w : List Fld} {s t : State} {a1 a2} (hw : [.radio] ⊆ w) (h : Keeps w s t) :
    Keeps w s (State.markIsland t a1 a2) := h.lift hw (by
  unfold State.markIsland
  try dsimp only
  repeat' first
    | (with_reducible first
      | exact Keeps.refl | assumption | refine State.markFault_keeps (by decide) ?_
      | refine Keeps.foldl (fun _ _ _ => ?_) _ ?_ | refine Keeps.foldl_fst (fun _ _ _ => ?_) _ ?_
      | refine Keeps.ite ?_ ?_)
    | dsimp only
    | split)

theorem State.endPace_keeps {w : List Fld} {s t : State} {a1 a2} (hw : [.radio] ⊆ w) (h : Keeps w s t) :
    Keeps w s (State.endPace t a1 a2) := h.lift hw (by
  unfold State.endPace
  try dsimp only
  repeat' first
    | with_reducible exact Or.inl rfl
    | exact Or.inr (And.intro (by decide) (fun hk => by simp [hk]))
    | (with_reducible first
      | exact Or.inr (by decide) | exact Keeps.refl | assumption | refine State.setEmerg_keeps (by decide) ?_
      | refine Keeps.ite ?_ ?_)
    | split
    | with_reducible apply Keeps.update)

theorem paceSample_keeps {w : List Fld} {s t : State} {a0 a1 a2 a3} (hw : [.regs, .pba, .msixHeld, .outs,
    .islands, .ctl, .radio] ⊆ w) (h : Keeps w s t) :
    Keeps w s (paceSample a0 a1 a2 a3 t) := h.lift hw (by
  unfold paceSample
  try dsimp only
  repeat' first
    | (with_reducible first
      | exact Keeps.refl | assumption | refine State.endEmerg_keeps (by decide) ?_
      | refine State.setIsland_keeps (by decide) ?_ | refine State.endPace_keeps (by decide) ?_
      | refine Keeps.foldl (fun _ _ _ => ?_) _ ?_ | refine Keeps.ite ?_ ?_)
    | split)

theorem governorStep_keeps {w : List Fld} {s t : State} {a0 a1 a2} (hw : [.regs, .host, .pba, .msixHeld,
    .outs, .islands, .summit, .rings, .adminEvents, .parts, .ctl, .radio, .ports] ⊆ w) (h : Keeps w s t) :
    Keeps w s (governorStep a0 a1 a2 t) := h.lift hw (by
  unfold governorStep
  try dsimp only
  repeat' first
    | (with_reducible first
      | exact Keeps.refl | assumption | refine State.record_keeps (by decide) ?_
      | refine State.setIsland_keeps (by decide) ?_ | refine State.noticeUnserved_keeps (by decide) ?_
      | refine State.edge_keeps (by decide) ?_ | refine State.markIsland_keeps (by decide) ?_
      | refine Keeps.ite ?_ ?_)
    | split)

theorem paceEmergency_keeps {w : List Fld} {s t : State} {a0 a1} (hw : [.regs, .host, .pba, .msixHeld, .outs,
    .summit, .rings, .adminEvents, .parts, .ctl, .leases, .radio] ⊆ w) (h : Keeps w s t) :
    Keeps w s (paceEmergency a0 a1 t) := h.lift hw (by
  unfold paceEmergency
  try dsimp only
  repeat' first
    | (with_reducible first
      | exact Keeps.refl | assumption | refine State.declareEmerg_keeps (by decide) ?_ | refine Keeps.ite ?_ ?_)
    | split)

theorem State.limitAct_keeps {w : List Fld} {s t : State} {a1} (hw : [.power, .islands] ⊆ w) (h : Keeps w s t) :
    Keeps w s (State.limitAct t a1) := h.lift hw (by
  unfold State.limitAct
  try dsimp only
  repeat' first
    | with_reducible exact Or.inl rfl
    | exact Or.inr (And.intro (by decide) (fun hk => by simp [hk]))
    | (with_reducible first
      | exact Or.inr (by decide) | exact Keeps.refl | assumption | refine State.setIsland_keeps (by decide) ?_
      | refine Keeps.foldl (fun _ _ _ => ?_) _ ?_ | refine Keeps.foldl_fst (fun _ _ _ => ?_) _ ?_
      | refine Keeps.ite ?_ ?_)
    | dsimp only
    | split
    | with_reducible apply Keeps.update)

theorem State.markServing_keeps {w : List Fld} {s t : State} (hw : [.radio] ⊆ w) (h : Keeps w s t) :
    Keeps w s (State.markServing t) := h.lift hw (by
  unfold State.markServing
  try dsimp only
  repeat' first
    | (with_reducible first
      | exact Keeps.refl | assumption | refine State.markIsland_keeps (by decide) ?_
      | refine Keeps.foldl (fun _ _ _ => ?_) _ ?_ | refine Keeps.foldl_fst (fun _ _ _ => ?_) _ ?_)
    | dsimp only)

theorem limiterSample_keeps {w : List Fld} {s t : State} {a0 a1 a2 a3 a4} (hw : [.regs, .host, .pba,
    .msixHeld, .outs, .power, .islands, .summit, .rings, .adminEvents, .parts, .ctl, .leases, .radio, .ports]
    ⊆ w) (h : Keeps w s t) :
    Keeps w s (limiterSample a0 a1 a2 a3 a4 t) := h.lift hw (by
  unfold limiterSample
  try dsimp only
  repeat' first
    | with_reducible exact Or.inl rfl
    | exact Or.inr (And.intro (by decide) (fun hk => by simp [hk]))
    | (with_reducible first
      | exact Or.inr (by decide) | exact Keeps.refl | assumption | refine State.setReg_keeps (by decide) ?_
      | refine State.bumpRf_keeps (by decide) ?_ | refine State.limitAct_keeps (by decide) ?_
      | refine State.declareEmerg_keeps (by decide) ?_ | refine State.markServing_keeps (by decide) ?_
      | refine State.noticeUnserved_keeps (by decide) ?_ | refine State.setIsland_keeps (by decide) ?_
      | refine State.endEmerg_keeps (by decide) ?_ | refine Keeps.foldl (fun _ _ _ => ?_) _ ?_
      | refine Keeps.foldl_fst (fun _ _ _ => ?_) _ ?_ | refine Keeps.ite ?_ ?_)
    | dsimp only
    | split
    | with_reducible apply Keeps.update)

theorem throttleStep_keeps {w : List Fld} {s t : State} {a0 a1} (hw : [.islands] ⊆ w) (h : Keeps w s t) :
    Keeps w s (throttleStep a0 a1 t) := h.lift hw (by
  unfold throttleStep
  try dsimp only
  repeat' first
    | (with_reducible first
      | exact Keeps.refl | assumption | refine State.setIsland_keeps (by decide) ?_ | refine Keeps.ite ?_ ?_)
    | split)

theorem profileChange_keeps {w : List Fld} {s t : State} {a0} (hw : [.regs] ⊆ w) (h : Keeps w s t) :
    Keeps w s (profileChange a0 t) := h.lift hw (by
  unfold profileChange
  try dsimp only
  repeat' first
    | (with_reducible first
      | exact Keeps.refl | assumption | refine State.applyWrite_keeps (by decide) ?_ | refine Keeps.ite ?_ ?_)
    | split)

end Sys2Proof.Machine
end

