-- ==== Sys2Proof/Laws/KeepsRadio.lean ====
section
/-! SUPPORT. What the operations of layer 1, its slots and the engine jobs may write: for each, the parts
of the state it changes at most, and that it keeps the maps canonical. -/

-- The many lemmas below are elaborated one after another: the package is checked as one text, and fewer wait at once.
set_option Elab.async false

namespace Sys2Proof.Machine

theorem State.sendErr_keeps {w : List Fld} {s t : State} {a1 a2 a3 a4} (hw : [.regs, .host, .pba, .msixHeld,
    .outs, .rings, .adminEvents, .parts, .ctl] ⊆ w) (h : Keeps w s t) :
    Keeps w s (State.sendErr t a1 a2 a3 a4) := h.lift hw (by
  unfold State.sendErr
  try dsimp only
  repeat' first
    | (with_reducible first
      | exact Keeps.refl | assumption | refine State.sendInd_keeps (by decide) ?_))

theorem State.l1Message_keeps {w : List Fld} {s t : State} {a1 a2 a3 a4} (hw : [.regs, .host, .pba, .msixHeld,
    .outs, .rings, .adminEvents, .parts, .ctl] ⊆ w)
    (hk : ∀ x0 x1, Keeps w s x0 → Keeps w s (a4 x0 x1)) (h : Keeps w s t) :
    Keeps w s (State.l1Message t a1 a2 a3 a4) := by
  unfold State.l1Message
  try dsimp only
  repeat' first
    | (with_reducible first
      | exact Keeps.refl | assumption | refine hk _ _ ?_
      | refine State.finishDesc_keeps (List.Subset.trans (by decide) hw) ?_
      | refine State.sendErr_keeps (List.Subset.trans (by decide) hw) ?_ | refine Keeps.ite ?_ ?_)
    | split

theorem State.l1Cell_keeps {w : List Fld} {s t : State} {a1 a2 a3} (hw : [.regs, .host, .pba, .msixHeld,
    .outs, .rings, .adminEvents, .parts, .ctl] ⊆ w)
    (hk : ∀ x0, Keeps w s x0 → Keeps w s (a3 x0)) (h : Keeps w s t) :
    Keeps w s (State.l1Cell t a1 a2 a3) := by
  unfold State.l1Cell
  try dsimp only
  repeat' first
    | (with_reducible first
      | exact Keeps.refl | assumption | refine hk _ ?_
      | refine State.sendErr_keeps (List.Subset.trans (by decide) hw) ?_ | refine Keeps.ite ?_ ?_)
    | split

theorem paramRequest_keeps {w : List Fld} {s t : State} {a0 a1} (hw : [.regs, .host, .pba, .msixHeld, .outs,
    .rings, .adminEvents, .parts, .ctl] ⊆ w) (h : Keeps w s t) :
    Keeps w s (paramRequest a0 a1 t) := h.lift hw (by
  unfold paramRequest
  try dsimp only
  repeat' first
    | (with_reducible first
      | exact Keeps.refl | assumption | refine State.l1Message_keeps (by decide) (fun _ _ _ => ?_) ?_
      | refine State.sendInd_keeps (by decide) ?_ | refine State.l1Cell_keeps (by decide) (fun _ _ => ?_) ?_
      | refine State.sendErr_keeps (by decide) ?_ | refine Keeps.ite ?_ ?_)
    | dsimp only
    | split)

theorem State.bindCell_keeps {w : List Fld} {s t : State} {a1 a2} (hw : [.radio] ⊆ w) (h : Keeps w s t) :
    Keeps w s (State.bindCell t a1 a2) := h.lift hw (by
  unfold State.bindCell
  try dsimp only
  repeat' first
    | (with_reducible first
      | exact Keeps.refl | assumption | refine State.setCell_keeps (by decide) ?_ | refine Keeps.ite ?_ ?_)
    | split)

theorem State.configResponse_keeps {w : List Fld} {s t : State} {a1 a2 a3} (hw : [.regs, .host, .pba,
    .msixHeld, .outs, .rings, .adminEvents, .parts, .ctl] ⊆ w) (h : Keeps w s t) :
    Keeps w s (State.configResponse t a1 a2 a3) := h.lift hw (by
  unfold State.configResponse
  try dsimp only
  repeat' first
    | (with_reducible first
      | exact Keeps.refl | assumption | refine State.sendInd_keeps (by decide) ?_))

theorem State.clearCounters_keeps {w : List Fld} {s t : State} {a1} (hw : [.regs] ⊆ w) (h : Keeps w s t) :
    Keeps w s (State.clearCounters t a1) := h.lift hw (by
  unfold State.clearCounters
  try dsimp only
  repeat' first
    | (with_reducible first
      | exact Keeps.refl | assumption | refine State.setReg_keeps (by decide) ?_
      | refine Keeps.foldl (fun _ _ _ => ?_) _ ?_)
    | dsimp only)

theorem State.clearSeqs_keeps {w : List Fld} {s t : State} {a1} (hw : [.ports] ⊆ w) (h : Keeps w s t) :
    Keeps w s (State.clearSeqs t a1) := h.lift hw (by
  unfold State.clearSeqs
  try dsimp only
  repeat' first
    | (with_reducible first
      | exact Keeps.refl | assumption | refine State.setSub_keeps (by decide) ?_)
    | dsimp only)

theorem State.admitCell_keeps {w : List Fld} {s t : State} {a1 a2 a3} (hw : [.regs, .host, .pba, .msixHeld,
    .outs, .summit, .rings, .adminEvents, .parts, .ctl, .leases, .radio, .ports] ⊆ w) (h : Keeps w s t) :
    Keeps w s (State.admitCell t a1 a2 a3) := h.lift hw (by
  unfold State.admitCell
  try dsimp only
  repeat' first
    | with_reducible exact Or.inl rfl
    | exact Or.inr (And.intro (by decide) (fun hk => by simp [hk]))
    | (with_reducible first
      | exact Or.inr (by decide) | exact Keeps.refl | assumption | refine State.clearSeqs_keeps (by decide) ?_
      | refine State.clearCounters_keeps (by decide) ?_ | refine State.setCell_keeps (by decide) ?_
      | refine State.reclaimFor_keeps (by decide) ?_ | refine Keeps.ite ?_ ?_)
    | dsimp only
    | split
    | with_reducible apply Keeps.update)

theorem configRequest_keeps {w : List Fld} {s t : State} {a0 a1 a2} (hw : [.regs, .host, .pba, .msixHeld,
    .outs, .summit, .rings, .adminEvents, .parts, .ctl, .leases, .radio, .ports] ⊆ w) (h : Keeps w s t) :
    Keeps w s (configRequest a0 a1 a2 t) := h.lift hw (by
  unfold configRequest
  try dsimp only
  repeat' first
    | (with_reducible first
      | exact Keeps.refl | assumption | refine State.l1Message_keeps (by decide) (fun _ _ _ => ?_) ?_
      | refine State.l1Cell_keeps (by decide) (fun _ _ => ?_) ?_ | refine State.bindCell_keeps (by decide) ?_
      | refine State.configResponse_keeps (by decide) ?_ | refine State.admitCell_keeps (by decide) ?_
      | refine Keeps.ite ?_ ?_)
    | dsimp only
    | split)

theorem cellRelease_keeps {w : List Fld} {s t : State} {a0 a1} (hw : [.regs, .host, .pba, .msixHeld, .outs,
    .rings, .adminEvents, .parts, .ctl, .radio] ⊆ w) (h : Keeps w s t) :
    Keeps w s (cellRelease a0 a1 t) := h.lift hw (by
  unfold cellRelease
  try dsimp only
  repeat' first
    | (with_reducible first
      | exact Keeps.refl | assumption | refine State.l1Message_keeps (by decide) (fun _ _ _ => ?_) ?_
      | refine State.l1Cell_keeps (by decide) (fun _ _ => ?_) ?_
      | refine State.configResponse_keeps (by decide) ?_ | refine State.setCell_keeps (by decide) ?_
      | refine Keeps.ite ?_ ?_)
    | dsimp only
    | split)

theorem startRequest_keeps {w : List Fld} {s t : State} {a0 a1} (hw : [.regs, .host, .pba, .msixHeld, .outs,
    .rings, .adminEvents, .parts, .ctl, .radio] ⊆ w) (h : Keeps w s t) :
    Keeps w s (startRequest a0 a1 t) := h.lift hw (by
  unfold startRequest
  try dsimp only
  repeat' first
    | (with_reducible first
      | exact Keeps.refl | assumption | refine State.l1Message_keeps (by decide) (fun _ _ _ => ?_) ?_
      | refine State.l1Cell_keeps (by decide) (fun _ _ => ?_) ?_ | refine State.setCell_keeps (by decide) ?_
      | refine State.sendErr_keeps (by decide) ?_ | refine Keeps.ite ?_ ?_)
    | dsimp only
    | split)

theorem cellStart_keeps {w : List Fld} {s t : State} {a0} (hw : [.radio] ⊆ w) (h : Keeps w s t) :
    Keeps w s (cellStart a0 t) := h.lift hw (by
  unfold cellStart
  try dsimp only
  repeat' first
    | (with_reducible first
      | exact Keeps.refl | assumption | refine State.setCell_keeps (by decide) ?_ | refine Keeps.ite ?_ ?_)
    | split)

theorem stopRequest_keeps {w : List Fld} {s t : State} {a0 a1} (hw : [.regs, .host, .pba, .msixHeld, .outs,
    .rings, .adminEvents, .parts, .ctl, .radio] ⊆ w) (h : Keeps w s t) :
    Keeps w s (stopRequest a0 a1 t) := h.lift hw (by
  unfold stopRequest
  try dsimp only
  repeat' first
    | (with_reducible first
      | exact Keeps.refl | assumption | refine State.l1Message_keeps (by decide) (fun _ _ _ => ?_) ?_
      | refine State.l1Cell_keeps (by decide) (fun _ _ => ?_) ?_ | refine State.setCell_keeps (by decide) ?_
      | refine State.sendErr_keeps (by decide) ?_ | refine Keeps.ite ?_ ?_)
    | dsimp only
    | split)

theorem stopIndication_keeps {w : List Fld} {s t : State} {a0} (hw : [.regs, .host, .pba, .msixHeld, .outs,
    .rings, .adminEvents, .parts, .ctl, .radio] ⊆ w) (h : Keeps w s t) :
    Keeps w s (stopIndication a0 t) := h.lift hw (by
  unfold stopIndication
  try dsimp only
  repeat' first
    | (with_reducible first
      | exact Keeps.refl | assumption | refine State.cellNote_keeps (by decide) ?_
      | refine State.setCell_keeps (by decide) ?_ | refine Keeps.ite ?_ ?_)
    | split)

theorem State.p7_keeps {w : List Fld} {s t : State} {a1 a2 a3 a4} (hw : [.regs, .host, .pba, .msixHeld, .outs,
    .rings, .adminEvents, .parts, .ctl] ⊆ w)
    (hk : ∀ x0 x1 x2 x3 x4, Keeps w s x0 → Keeps w s (a4 x0 x1 x2 x3 x4)) (h : Keeps w s t) :
    Keeps w s (State.p7 t a1 a2 a3 a4) := by
  unfold State.p7
  try dsimp only
  repeat' first
    | (with_reducible first
      | exact Keeps.refl | assumption | refine hk _ _ _ _ _ ?_
      | refine State.l1Cell_keeps (List.Subset.trans (by decide) hw) (fun _ _ => ?_) ?_
      | refine State.sendErr_keeps (List.Subset.trans (by decide) hw) ?_ | refine Keeps.ite ?_ ?_)
    | dsimp only
    | split

theorem State.takeWork_keeps {w : List Fld} {s t : State} {a1 a2 a3 a4 a5} (hw : [.regs, .host, .pba,
    .msixHeld, .outs, .rings, .adminEvents, .parts, .ctl, .radio] ⊆ w) (h : Keeps w s t) :
    Keeps w s (State.takeWork t a1 a2 a3 a4 a5) := h.lift hw (by
  unfold State.takeWork
  try dsimp only
  repeat' first
    | (with_reducible first
      | exact Keeps.refl | assumption | refine State.setCell_keeps (by decide) ?_
      | refine State.sendErr_keeps (by decide) ?_ | refine Keeps.ite ?_ ?_)
    | split)

theorem State.lateDl_keeps {w : List Fld} {s t : State} {a1 a2 a3 a4} (hw : [.regs, .host, .pba, .msixHeld,
    .outs, .rings, .adminEvents, .parts, .ctl, .radio, .ports] ⊆ w) (h : Keeps w s t) :
    Keeps w s (State.lateDl t a1 a2 a3 a4) := h.lift hw (by
  unfold State.lateDl
  try dsimp only
  repeat' first
    | (with_reducible first
      | exact Keeps.refl | assumption | refine State.sendErr_keeps (by decide) ?_
      | refine State.dropFrames_keeps (by decide) ?_ | refine State.setCell_keeps (by decide) ?_)
    | dsimp only
    | split)

theorem dlTtiRequest_keeps {w : List Fld} {s t : State} {a0 a1 a2} (hw : [.regs, .host, .pba, .msixHeld,
    .outs, .rings, .adminEvents, .parts, .ctl, .radio, .ports] ⊆ w) (h : Keeps w s t) :
    Keeps w s (dlTtiRequest a0 a1 a2 t) := h.lift hw (by
  unfold dlTtiRequest
  try dsimp only
  repeat' first
    | (with_reducible first
      | exact Keeps.refl | assumption | refine State.l1Message_keeps (by decide) (fun _ _ _ => ?_) ?_
      | refine State.p7_keeps (by decide) (fun _ _ _ _ _ _ => ?_) ?_
      | refine State.takeWork_keeps (by decide) ?_ | refine State.lateDl_keeps (by decide) ?_
      | refine Keeps.ite ?_ ?_)
    | dsimp only
    | split)

theorem ulDciRequest_keeps {w : List Fld} {s t : State} {a0 a1 a2} (hw : [.regs, .host, .pba, .msixHeld,
    .outs, .rings, .adminEvents, .parts, .ctl, .radio, .ports] ⊆ w) (h : Keeps w s t) :
    Keeps w s (ulDciRequest a0 a1 a2 t) := h.lift hw (by
  unfold ulDciRequest
  try dsimp only
  repeat' first
    | (with_reducible first
      | exact Keeps.refl | assumption | refine State.l1Message_keeps (by decide) (fun _ _ _ => ?_) ?_
      | refine State.p7_keeps (by decide) (fun _ _ _ _ _ _ => ?_) ?_
      | refine State.takeWork_keeps (by decide) ?_ | refine State.lateDl_keeps (by decide) ?_
      | refine Keeps.ite ?_ ?_)
    | dsimp only
    | split)

theorem ulTtiRequest_keeps {w : List Fld} {s t : State} {a0 a1 a2} (hw : [.regs, .host, .pba, .msixHeld,
    .outs, .rings, .adminEvents, .parts, .ctl, .radio, .ports] ⊆ w) (h : Keeps w s t) :
    Keeps w s (ulTtiRequest a0 a1 a2 t) := h.lift hw (by
  unfold ulTtiRequest
  try dsimp only
  repeat' first
    | (with_reducible first
      | exact Keeps.refl | assumption | refine State.l1Message_keeps (by decide) (fun _ _ _ => ?_) ?_
      | refine State.p7_keeps (by decide) (fun _ _ _ _ _ _ => ?_) ?_
      | refine State.takeWork_keeps (by decide) ?_ | refine State.sendErr_keeps (by decide) ?_
      | refine State.dropFrames_keeps (by decide) ?_ | refine State.setCell_keeps (by decide) ?_
      | refine Keeps.ite ?_ ?_)
    | dsimp only
    | split)

theorem txDataRequest_keeps {w : List Fld} {s t : State} {a0 a1 a2} (hw : [.regs, .host, .pba, .msixHeld,
    .outs, .rings, .adminEvents, .parts, .ctl, .radio] ⊆ w) (h : Keeps w s t) :
    Keeps w s (txDataRequest a0 a1 a2 t) := h.lift hw (by
  unfold txDataRequest
  try dsimp only
  repeat' first
    | (with_reducible first
      | exact Keeps.refl | assumption | refine State.l1Message_keeps (by decide) (fun _ _ _ => ?_) ?_
      | refine State.p7_keeps (by decide) (fun _ _ _ _ _ _ => ?_) ?_
      | refine State.sendErr_keeps (by decide) ?_ | refine State.setCell_keeps (by decide) ?_
      | refine Keeps.ite ?_ ?_)
    | dsimp only
    | split)

theorem State.decideBooking_keeps {w : List Fld} {s t : State} {a1 a2 a3 a4} (hw : [.regs, .host, .pba,
    .msixHeld, .outs, .summit, .rings, .adminEvents, .parts, .ctl, .leases, .radio] ⊆ w) (h : Keeps w s t) (r
    : _)
    (hr : State.decideBooking t a1 a2 a3 a4 = r) : Keeps w s r.2 := h.lift hw (by
  subst hr
  unfold State.decideBooking
  try dsimp only
  repeat' first
    | (with_reducible first
      | exact Keeps.refl | assumption | refine State.setCell_keeps (by decide) ?_
      | refine State.reclaimFor_keeps (by decide) ?_ | refine Keeps.ite ?_ ?_ | refine Keeps.ite_snd ?_ ?_)
    | dsimp only
    | split)

theorem State.bookEntries_keeps {w : List Fld} {s t : State} {a0 a1 a2} (hw : [.regs, .host, .pba, .msixHeld,
    .outs, .summit, .rings, .adminEvents, .parts, .ctl, .leases, .radio] ⊆ w) (h : Keeps w s t) :
    Keeps w s (State.bookEntries a0 a1 a2 t) := by
  induction a2 generalizing t with
  | nil => exact h
  | cons e es ih =>
    unfold State.bookEntries
    dsimp only
    split
    · exact h
    · refine ih (Keeps.ite ?_ (State.sendInd_keeps (List.Subset.trans (by decide) hw) ?_))
      all_goals exact State.decideBooking_keeps (List.Subset.trans (by decide) hw) h _ rfl

theorem slotBookRequest_keeps {w : List Fld} {s t : State} {a0 a1 a2} (hw : [.regs, .host, .pba, .msixHeld,
    .outs, .summit, .rings, .adminEvents, .parts, .ctl, .leases, .radio] ⊆ w) (h : Keeps w s t) :
    Keeps w s (slotBookRequest a0 a1 a2 t) := h.lift hw (by
  unfold slotBookRequest
  try dsimp only
  repeat' first
    | (with_reducible first
      | exact Keeps.refl | assumption | refine State.l1Message_keeps (by decide) (fun _ _ _ => ?_) ?_
      | refine State.l1Cell_keeps (by decide) (fun _ _ => ?_) ?_
      | refine State.bookEntries_keeps (by decide) ?_ | refine State.sendErr_keeps (by decide) ?_
      | refine Keeps.ite ?_ ?_)
    | dsimp only
    | split)

theorem ssbSearchRequest_keeps {w : List Fld} {s t : State} {a0 a1 a2 a3 a4} (hw : [.regs, .host, .pba,
    .msixHeld, .outs, .rings, .adminEvents, .parts, .ctl, .radio] ⊆ w) (h : Keeps w s t) :
    Keeps w s (ssbSearchRequest a0 a1 a2 a3 a4 t) := h.lift hw (by
  unfold ssbSearchRequest
  try dsimp only
  repeat' first
    | (with_reducible first
      | exact Keeps.refl | assumption | refine State.l1Message_keeps (by decide) (fun _ _ _ => ?_) ?_
      | refine State.l1Cell_keeps (by decide) (fun _ _ => ?_) ?_ | refine State.sendErr_keeps (by decide) ?_
      | refine State.setCell_keeps (by decide) ?_ | refine Keeps.ite ?_ ?_)
    | dsimp only
    | split)

theorem ssbSearchIndication_keeps {w : List Fld} {s t : State} {a0} (hw : [.regs, .host, .pba, .msixHeld,
    .outs, .rings, .adminEvents, .parts, .ctl, .radio] ⊆ w) (h : Keeps w s t) :
    Keeps w s (ssbSearchIndication a0 t) := h.lift hw (by
  unfold ssbSearchIndication
  try dsimp only
  repeat' first
    | (with_reducible first
      | exact Keeps.refl | assumption | refine State.cellInd_keeps (by decide) ?_
      | refine State.setCell_keeps (by decide) ?_ | refine Keeps.ite ?_ ?_)
    | split)

theorem State.captured_keeps {w : List Fld} {s t : State} {a1 a2} (hw : [.regs, .ports] ⊆ w) (h : Keeps w s t) :
    Keeps w s (State.captured t a1 a2) := h.lift hw (by
  unfold State.captured
  try dsimp only
  repeat' first
    | with_reducible exact Or.inl rfl
    | exact Or.inr (And.intro (by decide) (fun hk => by simp [hk]))
    | (with_reducible first
      | exact Or.inr (by decide) | exact Keeps.refl | assumption | refine State.setRbit_keeps (by decide) ?_
      | refine State.setReg_keeps (by decide) ?_)
    | dsimp only
    | with_reducible apply Keeps.update)

theorem State.capture_keeps {w : List Fld} {s t : State} {a1 a2 a3 a4} (hw : [.regs, .ports] ⊆ w) (h : Keeps w
    s t) :
    Keeps w s (State.capture t a1 a2 a3 a4) := h.lift hw (by
  unfold State.capture
  try dsimp only
  repeat' first
    | (with_reducible first
      | exact Keeps.refl | assumption | refine State.captured_keeps (by decide) ?_
      | refine Keeps.foldl (fun _ _ _ => ?_) _ ?_ | refine Keeps.foldl_fst (fun _ _ _ => ?_) _ ?_
      | refine Keeps.ite ?_ ?_)
    | dsimp only
    | split)

theorem State.queueFrame_keeps {w : List Fld} {s t : State} {a1 a2 a3} (hw : [.ports] ⊆ w) (h : Keeps w s t) :
    Keeps w s (State.queueFrame t a1 a2 a3) := h.lift hw (by
  unfold State.queueFrame
  try dsimp only
  repeat' first
    | (with_reducible first
      | exact Keeps.refl | assumption | refine State.setSub_keeps (by decide) ?_))

theorem State.nextSeq_keeps {w : List Fld} {s t : State} {a1 a2 a3 a4} (hw : [.ports] ⊆ w) (h : Keeps w s t)
    (r : _)
    (hr : State.nextSeq t a1 a2 a3 a4 = r) : Keeps w s r.2 := by
  subst hr
  exact State.setSub_keeps hw h

theorem State.queueEcpri_keeps {w : List Fld} {s t : State} {a1 a2 a3 a4 a5 a6 a7} (hw : [.ports] ⊆ w) (h :
    Keeps w s t) :
    Keeps w s (State.queueEcpri t a1 a2 a3 a4 a5 a6 a7) := h.lift hw (by
  unfold State.queueEcpri
  try dsimp only
  repeat' first
    | (with_reducible first
      | exact Keeps.refl | assumption | refine State.nextSeq_keeps (by decide) ?_ _ rfl
      | refine State.nextSeq_keeps (by decide) ?_ _ (by assumption)
      | refine State.queueFrame_keeps (by decide) ?_ | refine Keeps.ite ?_ ?_ | refine Keeps.ite_snd ?_ ?_)
    | split)

theorem State.queueCplane_keeps {w : List Fld} {s t : State} {a1 a2 a3 a4 a5 a6 a7 a8} (hw : [.ports] ⊆ w) (h
    : Keeps w s t) :
    Keeps w s (State.queueCplane t a1 a2 a3 a4 a5 a6 a7 a8) := h.lift hw (by
  unfold State.queueCplane
  try dsimp only
  repeat' first
    | (with_reducible first
      | exact Keeps.refl | assumption | refine State.queueEcpri_keeps (by decide) ?_
      | refine Keeps.foldl (fun _ _ _ => ?_) _ ?_)
    | dsimp only)

theorem slotIndication_keeps {w : List Fld} {s t : State} {a0} (hw : [.regs, .host, .pba, .msixHeld, .outs,
    .rings, .adminEvents, .parts, .ctl, .radio] ⊆ w) (h : Keeps w s t) :
    Keeps w s (slotIndication a0 t) := h.lift hw (by
  unfold slotIndication
  try dsimp only
  repeat' first
    | (with_reducible first
      | exact Keeps.refl | assumption | refine State.cellInd_keeps (by decide) ?_
      | refine State.setCell_keeps (by decide) ?_ | refine Keeps.ite ?_ ?_)
    | split)

theorem State.l1Encode_keeps {w : List Fld} {s t : State} {a1 a2} (hw : [.radio] ⊆ w) (h : Keeps w s t) :
    Keeps w s (State.l1Encode t a1 a2) := h.lift hw (by
  unfold State.l1Encode
  try dsimp only
  repeat' first
    | (with_reducible first
      | exact Keeps.refl | assumption | refine State.setCell_keeps (by decide) ?_ | refine Keeps.ite ?_ ?_)
    | dsimp only
    | split)

theorem downlinkProcessing_keeps {w : List Fld} {s t : State} {a0 a1} (hw : [.regs, .host, .pba, .msixHeld,
    .outs, .summit, .rings, .adminEvents, .parts, .ctl, .radio, .ports] ⊆ w) (h : Keeps w s t) :
    Keeps w s (downlinkProcessing a0 a1 t) := h.lift hw (by
  unfold downlinkProcessing
  try dsimp only
  repeat' first
    | (with_reducible first
      | exact Keeps.refl | assumption | refine State.failUe_keeps (by decide) ?_
      | refine State.setCell_keeps (by decide) ?_ | refine State.capture_keeps (by decide) ?_
      | refine State.cellInd_keeps (by decide) ?_ | refine Keeps.foldl (fun _ _ _ => ?_) _ ?_
      | refine Keeps.foldl_fst (fun _ _ _ => ?_) _ ?_ | refine Keeps.ite ?_ ?_)
    | dsimp only
    | split)

theorem State.noticeGone_keeps {w : List Fld} {s t : State} {a1 a2 a3 a4} (hw : [.regs, .host, .pba,
    .msixHeld, .outs, .summit, .rings, .adminEvents, .parts, .ctl, .radio, .ports] ⊆ w) (h : Keeps w s t) :
    Keeps w s (State.noticeGone t a1 a2 a3 a4) := h.lift hw (by
  unfold State.noticeGone
  try dsimp only
  repeat' first
    | (with_reducible first
      | exact Keeps.refl | assumption | refine State.noticeSlot_keeps (by decide) ?_ | refine Keeps.ite ?_ ?_)
    | split)

theorem State.noticePassed_keeps {w : List Fld} {s t : State} {a1 a2 a3} (hw : [.regs, .host, .pba, .msixHeld,
    .outs, .summit, .rings, .adminEvents, .parts, .ctl, .radio, .ports] ⊆ w) (h : Keeps w s t) :
    Keeps w s (State.noticePassed t a1 a2 a3) := h.lift hw (by
  unfold State.noticePassed
  try dsimp only
  repeat' first
    | (with_reducible first
      | exact Keeps.refl | assumption | refine State.noticeGone_keeps (by decide) ?_
      | refine Keeps.foldl (fun _ _ _ => ?_) _ ?_ | refine Keeps.foldl_fst (fun _ _ _ => ?_) _ ?_
      | refine Keeps.ite ?_ ?_)
    | dsimp only
    | split)

theorem cPlaneLaunch_keeps {w : List Fld} {s t : State} {a0 a1} (hw : [.regs, .host, .pba, .msixHeld, .outs,
    .summit, .rings, .adminEvents, .parts, .ctl, .radio, .ports] ⊆ w) (h : Keeps w s t) :
    Keeps w s (cPlaneLaunch a0 a1 t) := h.lift hw (by
  unfold cPlaneLaunch
  try dsimp only
  repeat' first
    | (with_reducible first
      | exact Keeps.refl | assumption | refine State.noticeGone_keeps (by decide) ?_
      | refine State.queueCplane_keeps (by decide) ?_ | refine State.setCell_keeps (by decide) ?_
      | refine Keeps.ite ?_ ?_)
    | split)

theorem State.queueUplane_keeps {w : List Fld} {s t : State} {a1 a2 a3 a4 a5} (hw : [.regs, .ports] ⊆ w) (h :
    Keeps w s t) :
    Keeps w s (State.queueUplane t a1 a2 a3 a4 a5) := h.lift hw (by
  unfold State.queueUplane
  try dsimp only
  repeat' first
    | (with_reducible first
      | exact Keeps.refl | assumption | refine State.queueEcpri_keeps (by decide) ?_
      | refine State.bumpRf_keeps (by decide) ?_ | refine Keeps.foldl (fun _ _ _ => ?_) _ ?_
      | refine Keeps.foldl_fst (fun _ _ _ => ?_) _ ?_)
    | dsimp only)

theorem uPlaneLaunch_keeps {w : List Fld} {s t : State} {a0 a1 a2} (hw : [.regs, .radio, .ports] ⊆ w) (h :
    Keeps w s t) :
    Keeps w s (uPlaneLaunch a0 a1 a2 t) := h.lift hw (by
  unfold uPlaneLaunch
  try dsimp only
  repeat' first
    | (with_reducible first
      | exact Keeps.refl | assumption | refine State.queueUplane_keeps (by decide) ?_
      | refine State.setCell_keeps (by decide) ?_ | refine Keeps.foldl (fun _ _ _ => ?_) _ ?_
      | refine Keeps.ite ?_ ?_)
    | dsimp only
    | split)

theorem State.loseFrame_keeps {w : List Fld} {s t : State} {a1 a2} (hw : [.radio] ⊆ w) (h : Keeps w s t) :
    Keeps w s (State.loseFrame t a1 a2) := h.lift hw (by
  unfold State.loseFrame
  try dsimp only
  repeat' first
    | (with_reducible first
      | exact Keeps.refl | assumption | refine State.setCell_keeps (by decide) ?_ | refine Keeps.ite ?_ ?_)
    | dsimp only
    | split)

theorem State.missFrame_keeps {w : List Fld} {s t : State} {a0 a2} (hw : [.regs, .radio] ⊆ w) (h : Keeps w s
    t) :
    Keeps w s (State.missFrame a0 t a2) := h.lift hw (by
  unfold State.missFrame
  try dsimp only
  repeat' first
    | (with_reducible first
      | exact Keeps.refl | assumption | refine State.bumpRf_keeps (by decide) ?_
      | refine State.loseFrame_keeps (by decide) ?_)
    | split)

theorem uPlaneDiscard_keeps {w : List Fld} {s t : State} {a0 a1} (hw : [.regs, .radio, .ports] ⊆ w) (h : Keeps
    w s t) :
    Keeps w s (uPlaneDiscard a0 a1 t) := h.lift hw (by
  unfold uPlaneDiscard
  try dsimp only
  repeat' first
    | (with_reducible first
      | exact Keeps.refl | assumption | refine State.missFrame_keeps (by decide) ?_
      | refine State.setSub_keeps (by decide) ?_ | refine Keeps.foldl (fun _ _ _ => ?_) _ ?_)
    | dsimp only
    | split)

theorem uplinkCPlaneLaunch_keeps {w : List Fld} {s t : State} {a0 a1} (hw : [.radio, .ports] ⊆ w) (h : Keeps w
    s t) :
    Keeps w s (uplinkCPlaneLaunch a0 a1 t) := h.lift hw (by
  unfold uplinkCPlaneLaunch
  try dsimp only
  repeat' first
    | (with_reducible first
      | exact Keeps.refl | assumption | refine State.queueCplane_keeps (by decide) ?_
      | refine State.setCell_keeps (by decide) ?_ | refine Keeps.ite ?_ ?_)
    | dsimp only
    | split)

theorem symbolWindowClose_keeps {w : List Fld} {s t : State} {a0 a1 a2} (hw : [.regs, .host, .pba, .msixHeld,
    .outs, .summit, .rings, .adminEvents, .parts, .ctl, .radio, .ports] ⊆ w) (h : Keeps w s t) :
    Keeps w s (symbolWindowClose a0 a1 a2 t) := h.lift hw (by
  unfold symbolWindowClose
  try dsimp only
  repeat' first
    | (with_reducible first
      | exact Keeps.refl | assumption | refine State.bumpRf_keeps (by decide) ?_
      | refine State.setCell_keeps (by decide) ?_ | refine State.noticeGone_keeps (by decide) ?_
      | refine Keeps.ite ?_ ?_)
    | dsimp only
    | split)

theorem channelEstimation_keeps {w : List Fld} {s t : State} {a0 a1 a2} (hw : [.radio] ⊆ w) (h : Keeps w s t) :
    Keeps w s (channelEstimation a0 a1 a2 t) := h.lift hw (by
  unfold channelEstimation
  try dsimp only
  repeat' first
    | (with_reducible first
      | exact Keeps.refl | assumption | refine State.setCell_keeps (by decide) ?_ | refine Keeps.ite ?_ ?_)
    | split)

theorem mmseWeights_keeps {w : List Fld} {s t : State} {a0 a1} (hw : [.radio] ⊆ w) (h : Keeps w s t) :
    Keeps w s (mmseWeights a0 a1 t) := h.lift hw (by
  unfold mmseWeights
  try dsimp only
  repeat' first
    | (with_reducible first
      | exact Keeps.refl | assumption | refine State.setCell_keeps (by decide) ?_ | refine Keeps.ite ?_ ?_)
    | dsimp only
    | split)

theorem equalisation_keeps {w : List Fld} {s t : State} {a0 a1 a2} (hw : [.radio] ⊆ w) (h : Keeps w s t) :
    Keeps w s (equalisation a0 a1 a2 t) := h.lift hw (by
  unfold equalisation
  try dsimp only
  repeat' first
    | (with_reducible first
      | exact Keeps.refl | assumption | refine State.setCell_keeps (by decide) ?_ | refine Keeps.ite ?_ ?_)
    | dsimp only
    | split)

theorem State.l1Dft_keeps {w : List Fld} {s t : State} {a1 a2} (hw : [.regs, .host, .pba, .msixHeld, .outs,
    .rings, .adminEvents, .parts, .ctl, .radio] ⊆ w) (h : Keeps w s t) :
    Keeps w s (State.l1Dft t a1 a2) := h.lift hw (by
  unfold State.l1Dft
  try dsimp only
  repeat' first
    | (with_reducible first
      | exact Keeps.refl | assumption | refine State.setCell_keeps (by decide) ?_
      | refine State.releaseInds_keeps (by decide) ?_ | refine Keeps.ite ?_ ?_)
    | dsimp only
    | split)

theorem harqCombining_keeps {w : List Fld} {s t : State} {a0 a1 a2} (hw : [.regs, .pba, .msixHeld, .outs,
    .summit, .ctl, .radio] ⊆ w) (h : Keeps w s t) :
    Keeps w s (harqCombining a0 a1 a2 t) := h.lift hw (by
  unfold harqCombining
  try dsimp only
  repeat' first
    | (with_reducible first
      | exact Keeps.refl | assumption | refine State.setCell_keeps (by decide) ?_
      | refine State.failUe_keeps (by decide) ?_ | refine Keeps.foldl (fun _ _ _ => ?_) _ ?_
      | refine Keeps.foldl_fst (fun _ _ _ => ?_) _ ?_ | refine Keeps.ite ?_ ?_)
    | dsimp only
    | split)

theorem State.l1Decode_keeps {w : List Fld} {s t : State} {a1 a2} (hw : [.radio] ⊆ w) (h : Keeps w s t) :
    Keeps w s (State.l1Decode t a1 a2) := h.lift hw (by
  unfold State.l1Decode
  try dsimp only
  repeat' first
    | (with_reducible first
      | exact Keeps.refl | assumption | refine State.setCell_keeps (by decide) ?_ | refine Keeps.ite ?_ ?_)
    | dsimp only
    | split)

theorem State.l1Uci_keeps {w : List Fld} {s t : State} {a1 a2} (hw : [.radio] ⊆ w) (h : Keeps w s t) :
    Keeps w s (State.l1Uci t a1 a2) := h.lift hw (by
  unfold State.l1Uci
  try dsimp only
  repeat' first
    | (with_reducible first
      | exact Keeps.refl | assumption | refine State.setCell_keeps (by decide) ?_ | refine Keeps.ite ?_ ?_)
    | dsimp only
    | split)

theorem State.rachIndication_keeps {w : List Fld} {s t : State} {a1 a2 a3} (hw : [.regs, .host, .pba,
    .msixHeld, .outs, .rings, .adminEvents, .parts, .ctl, .radio] ⊆ w) (h : Keeps w s t) :
    Keeps w s (State.rachIndication t a1 a2 a3) := h.lift hw (by
  unfold State.rachIndication
  try dsimp only
  repeat' first
    | (with_reducible first
      | exact Keeps.refl | assumption | refine State.releaseInds_keeps (by decide) ?_
      | refine State.setCell_keeps (by decide) ?_ | refine Keeps.ite ?_ ?_)
    | dsimp only
    | split)

theorem State.countOverruns_keeps {w : List Fld} {s t : State} {a1 a2} (hw : [.regs, .pba, .msixHeld, .outs,
    .summit, .ctl] ⊆ w) (h : Keeps w s t) :
    Keeps w s (State.countOverruns t a1 a2) := h.lift hw (by
  unfold State.countOverruns
  try dsimp only
  repeat' first
    | (with_reducible first
      | exact Keeps.refl | assumption | refine State.record_keeps (by decide) ?_
      | refine State.countOverrun_keeps (by decide) ?_ | refine Keeps.foldl (fun _ _ _ => ?_) _ ?_
      | refine Keeps.foldl_fst (fun _ _ _ => ?_) _ ?_)
    | dsimp only)

theorem State.settleCell_keeps {w : List Fld} {s t : State} {a1 a2} (hw : [.regs, .host, .pba, .msixHeld,
    .outs, .rings, .adminEvents, .parts, .ctl, .radio] ⊆ w) (h : Keeps w s t) :
    Keeps w s (State.settleCell t a1 a2) := h.lift hw (by
  unfold State.settleCell
  try dsimp only
  repeat' first
    | (with_reducible first
      | exact Keeps.refl | assumption | refine State.releaseInds_keeps (by decide) ?_
      | refine State.setCell_keeps (by decide) ?_))

theorem State.writeResults_keeps {w : List Fld} {s t : State} {a1 a2 a3 a4} (hw : [.regs, .host, .pba,
    .msixHeld, .outs, .rings, .adminEvents, .parts, .ctl] ⊆ w) (h : Keeps w s t) :
    Keeps w s (State.writeResults t a1 a2 a3 a4) := h.lift hw (by
  unfold State.writeResults
  try dsimp only
  repeat' first
    | (with_reducible first
      | exact Keeps.refl | assumption | refine State.cellInd_keeps (by decide) ?_ | refine Keeps.ite ?_ ?_)
    | dsimp only
    | split)

theorem uplinkResults_keeps {w : List Fld} {s t : State} {a0 a1} (hw : [.regs, .host, .pba, .msixHeld, .outs,
    .summit, .rings, .adminEvents, .parts, .ctl, .radio] ⊆ w) (h : Keeps w s t) :
    Keeps w s (uplinkResults a0 a1 t) := h.lift hw (by
  unfold uplinkResults
  try dsimp only
  repeat' first
    | (with_reducible first
      | exact Keeps.refl | assumption | refine State.setCell_keeps (by decide) ?_
      | refine State.countOverruns_keeps (by decide) ?_ | refine State.settleCell_keeps (by decide) ?_
      | refine State.writeResults_keeps (by decide) ?_ | refine Keeps.ite ?_ ?_)
    | split)

theorem commitPoint_keeps {w : List Fld} {s t : State} {a0 a1 a2} (hw : [.regs, .host, .pba, .msixHeld, .outs,
    .summit, .rings, .adminEvents, .parts, .ctl, .radio, .ports] ⊆ w) (h : Keeps w s t) :
    Keeps w s (commitPoint a0 a1 a2 t) := h.lift hw (by
  unfold commitPoint
  try dsimp only
  repeat' first
    | (with_reducible first
      | exact Keeps.refl | assumption | refine State.setCell_keeps (by decide) ?_
      | refine State.noticeGone_keeps (by decide) ?_ | refine State.record_keeps (by decide) ?_
      | refine State.settleCell_keeps (by decide) ?_ | refine Keeps.ite ?_ ?_)
    | split)

theorem State.startKernel_keeps {w : List Fld} {s t : State} {a1} (hw : [.rings, .parts, .kernels,
    .nextKernel] ⊆ w) (h : Keeps w s t) :
    Keeps w s (State.startKernel t a1) := h.lift hw (by
  unfold State.startKernel
  try dsimp only
  repeat' first
    | with_reducible exact Or.inl rfl
    | exact Or.inr (And.intro (by decide) (fun hk => by simp [hk]))
    | (with_reducible first
      | exact Or.inr (by decide) | exact Keeps.refl | assumption | refine State.startDesc_keeps (by decide) ?_
      | refine State.setCtx_keeps (by decide) ?_ | refine State.setPart_keeps (by decide) ?_)
    | split
    | with_reducible apply Keeps.update)

theorem kernelStart_keeps {w : List Fld} {s t : State} {a0} (hw : [.rings, .parts, .kernels, .nextKernel] ⊆ w)
    (h : Keeps w s t) :
    Keeps w s (kernelStart a0 t) := h.lift hw (by
  unfold kernelStart
  try dsimp only
  repeat' first
    | (with_reducible first
      | exact Keeps.refl | assumption | refine State.startKernel_keeps (by decide) ?_
      | refine State.updDesc_keeps (by decide) ?_ | refine Keeps.ite ?_ ?_)
    | dsimp only
    | split)

theorem State.unitJob_keeps {w : List Fld} {s t : State} {a1 a2 a3 a4 a5 a6 a7} (hw : [.rings] ⊆ w)
    (hk : ∀ x0 x1 x2, Keeps w s x0 → Keeps w s (a7 x0 x1 x2)) (h : Keeps w s t) :
    Keeps w s (State.unitJob t a1 a2 a3 a4 a5 a6 a7) := by
  unfold State.unitJob
  try dsimp only
  repeat' first
    | (with_reducible first
      | exact Keeps.refl | assumption | refine hk _ _ _ ?_
      | refine State.finishDesc_keeps (List.Subset.trans (by decide) hw) ?_
      | refine State.updDesc_keeps (List.Subset.trans (by decide) hw) ?_ | refine Keeps.ite ?_ ?_)
    | dsimp only
    | split

theorem mlist_keeps {w : List Fld} {s t : State} {a0} (hw : [.regs, .host, .pba, .msixHeld, .outs, .summit,
    .rings, .adminEvents, .parts, .ctl, .kernels, .nextKernel] ⊆ w) (h : Keeps w s t) :
    Keeps w s (mlist a0 t) := h.lift hw (by
  unfold mlist
  try dsimp only
  repeat' first
    | (with_reducible first
      | exact Keeps.refl | assumption | refine State.admitJob_keeps (by decide) (fun _ _ _ _ => ?_) ?_
      | refine State.unitJob_keeps (by decide) (fun _ _ _ _ => ?_) ?_
      | refine State.startKernel_keeps (by decide) ?_)
    | dsimp only)

theorem oplist_keeps {w : List Fld} {s t : State} {a0} (hw : [.regs, .host, .weak, .stackSt, .pba, .msixHeld,
    .outs, .units, .summit, .rings, .adminEvents, .parts, .ctl, .kernels, .nextKernel, .vdes] ⊆ w) (h : Keeps
    w s t) :
    Keeps w s (oplist a0 t) := h.lift hw (by
  unfold oplist
  try dsimp only
  repeat' first
    | (with_reducible first
      | exact Keeps.refl | assumption | refine State.admitJob_keeps (by decide) (fun _ _ _ _ => ?_) ?_
      | refine State.unitJob_keeps (by decide) (fun _ _ _ _ => ?_) ?_
      | refine State.finishDesc_keeps (by decide) ?_ | refine State.failMedia_keeps (by decide) ?_
      | refine State.setVde_keeps (by decide) ?_ | refine State.startKernel_keeps (by decide) ?_
      | refine State.locCorrects_keeps (by decide) ?_)
    | dsimp only
    | split)

theorem State.writeRecord_keeps {w : List Fld} {s t : State} {a1 a2 a3} (hw : [.regs, .stack, .tileW, .tileA,
    .ledge, .ue, .weak, .stackSt, .pba, .msixHeld, .outs, .units, .summit, .ctl] ⊆ w) (h : Keeps w s t) :
    Keeps w s (State.writeRecord t a1 a2 a3) := h.lift hw (by
  unfold State.writeRecord
  try dsimp only
  repeat' first
    | (with_reducible first
      | exact Keeps.refl | assumption | refine State.noteFail_keeps (by decide) ?_
      | refine State.locWrite_keeps (by decide) ?_)
    | split)

theorem accel_keeps {w : List Fld} {s t : State} {a0} (hw : [.regs, .host, .stack, .tileW, .tileA, .ledge,
    .ue, .weak, .stackSt, .pba, .msixHeld, .outs, .units, .summit, .rings, .adminEvents, .parts, .ctl,
    .kernels, .nextKernel] ⊆ w) (h : Keeps w s t) :
    Keeps w s (accel a0 t) := h.lift hw (by
  unfold accel
  try dsimp only
  repeat' first
    | (with_reducible first
      | exact Keeps.refl | assumption | refine State.admitJob_keeps (by decide) (fun _ _ _ _ => ?_) ?_
      | refine State.finishDesc_keeps (by decide) ?_ | refine State.failMedia_keeps (by decide) ?_
      | refine State.writeRecord_keeps (by decide) ?_
      | refine State.unitJob_keeps (by decide) (fun _ _ _ _ => ?_) ?_
      | refine State.startKernel_keeps (by decide) ?_ | refine State.locCorrects_keeps (by decide) ?_)
    | dsimp only
    | split)

theorem State.accelRow_keeps {w : List Fld} {s t : State} {a0 a1 a2 a3 a4 a5 a6} (hw : [.regs, .stack, .tileW,
    .tileA, .ledge, .ue, .weak, .stackSt, .pba, .msixHeld, .outs, .units, .summit, .parts, .ctl, .kernels] ⊆
    w) (h : Keeps w s t) :
    Keeps w s (State.accelRow a0 a1 a2 a3 a4 a5 a6 t) := h.lift hw (by
  unfold State.accelRow
  try dsimp only
  repeat' first
    | (with_reducible first
      | exact Keeps.refl | assumption | refine State.updKernel_keeps (by decide) ?_
      | refine State.noteFail_keeps (by decide) ?_ | refine State.locWrite_keeps (by decide) ?_
      | refine State.locCorrects_keeps (by decide) ?_ | refine State.meterHs_keeps (by decide) ?_
      | refine State.account_keeps (by decide) ?_ | refine Keeps.foldl (fun _ _ _ => ?_) _ ?_
      | refine Keeps.foldl_fst (fun _ _ _ => ?_) _ ?_ | refine Keeps.ite ?_ ?_)
    | dsimp only
    | split)

theorem fft_keeps {w : List Fld} {s t : State} {a0 a1} (hw : [.regs, .stack, .tileW, .tileA, .ledge, .ue,
    .weak, .stackSt, .pba, .msixHeld, .outs, .units, .summit, .parts, .ctl, .kernels] ⊆ w) (h : Keeps w s t) :
    Keeps w s (fft a0 a1 t) := h.lift hw (by
  unfold fft
  try dsimp only
  repeat' first
    | (with_reducible first
      | exact Keeps.refl | assumption | refine State.accelRow_keeps (by decide) ?_))

theorem ldpcDecode_keeps {w : List Fld} {s t : State} {a0 a1} (hw : [.regs, .stack, .tileW, .tileA, .ledge,
    .ue, .weak, .stackSt, .pba, .msixHeld, .outs, .units, .summit, .parts, .ctl, .kernels] ⊆ w) (h : Keeps w s
    t) :
    Keeps w s (ldpcDecode a0 a1 t) := h.lift hw (by
  unfold ldpcDecode
  try dsimp only
  repeat' first
    | (with_reducible first
      | exact Keeps.refl | assumption | refine State.accelRow_keeps (by decide) ?_))

theorem ldpcEncode_keeps {w : List Fld} {s t : State} {a0 a1} (hw : [.regs, .stack, .tileW, .tileA, .ledge,
    .ue, .weak, .stackSt, .pba, .msixHeld, .outs, .units, .summit, .parts, .ctl, .kernels] ⊆ w) (h : Keeps w s
    t) :
    Keeps w s (ldpcEncode a0 a1 t) := h.lift hw (by
  unfold ldpcEncode
  try dsimp only
  repeat' first
    | (with_reducible first
      | exact Keeps.refl | assumption | refine State.accelRow_keeps (by decide) ?_))

theorem polarEncode_keeps {w : List Fld} {s t : State} {a0 a1} (hw : [.regs, .stack, .tileW, .tileA, .ledge,
    .ue, .weak, .stackSt, .pba, .msixHeld, .outs, .units, .summit, .parts, .ctl, .kernels] ⊆ w) (h : Keeps w s
    t) :
    Keeps w s (polarEncode a0 a1 t) := h.lift hw (by
  unfold polarEncode
  try dsimp only
  repeat' first
    | (with_reducible first
      | exact Keeps.refl | assumption | refine State.accelRow_keeps (by decide) ?_))

theorem polarDecode_keeps {w : List Fld} {s t : State} {a0 a1} (hw : [.regs, .stack, .tileW, .tileA, .ledge,
    .ue, .weak, .stackSt, .pba, .msixHeld, .outs, .units, .summit, .parts, .ctl, .kernels] ⊆ w) (h : Keeps w s
    t) :
    Keeps w s (polarDecode a0 a1 t) := h.lift hw (by
  unfold polarDecode
  try dsimp only
  repeat' first
    | (with_reducible first
      | exact Keeps.refl | assumption | refine State.accelRow_keeps (by decide) ?_))

theorem prachDetect_keeps {w : List Fld} {s t : State} {a0 a1} (hw : [.regs, .stack, .tileW, .tileA, .ledge,
    .ue, .weak, .stackSt, .pba, .msixHeld, .outs, .units, .summit, .parts, .ctl, .kernels] ⊆ w) (h : Keeps w s
    t) :
    Keeps w s (prachDetect a0 a1 t) := h.lift hw (by
  unfold prachDetect
  try dsimp only
  repeat' first
    | (with_reducible first
      | exact Keeps.refl | assumption | refine State.accelRow_keeps (by decide) ?_))

theorem accelResult_keeps {w : List Fld} {s t : State} {a0} (hw : [.regs, .host, .stack, .tileW, .tileA,
    .ledge, .ue, .weak, .stackSt, .pba, .msixHeld, .outs, .units, .summit, .rings, .adminEvents, .parts, .ctl,
    .kernels, .rope] ⊆ w) (h : Keeps w s t) :
    Keeps w s (accelResult a0 t) := h.lift hw (by
  unfold accelResult
  try dsimp only
  repeat' first
    | (with_reducible first
      | exact Keeps.refl | assumption | refine State.finishUnit_keeps (by decide) ?_
      | refine State.noteFail_keeps (by decide) ?_ | refine State.locWrite_keeps (by decide) ?_
      | refine Keeps.ite ?_ ?_)
    | dsimp only
    | split)

theorem forRadio_keeps {w : List Fld} {s t : State} {a0 a1} (hr : ∀ j, Keeps w s (a1 j)) (h : Keeps w s t) :
    Keeps w s (forRadio a0 a1 t) := by
  unfold forRadio
  split
  · exact hr _
  · exact h

theorem prach_keeps {w : List Fld} {s t : State} {a0 a1 a2} (hw : [.regs, .host, .stack, .tileW, .tileA,
    .ledge, .ue, .weak, .stackSt, .pba, .msixHeld, .outs, .units, .summit, .rings, .adminEvents, .parts, .ctl,
    .kernels, .radio] ⊆ w) (h : Keeps w s t) :
    Keeps w s (prach a0 a1 a2 t) := h.lift hw (by
  unfold prach
  try dsimp only
  repeat' first
    | (with_reducible first
      | exact Keeps.refl | assumption | refine State.rachIndication_keeps (by decide) ?_
      | refine prachDetect_keeps (by decide) ?_ | refine Keeps.ite ?_ ?_)
    | split)

end Sys2Proof.Machine
end

