-- ==== Sys2Proof/Laws/KeepsMatrix.lean ====
section
/-! SUPPORT. What the operations of faults, tile instructions and stack memory may write: for each, the parts
of the state it changes at most, and that it keeps the maps canonical. -/

-- The many lemmas below are elaborated one after another: the package is checked as one text, and fewer wait at once.
set_option Elab.async false

namespace Sys2Proof.Machine

theorem State.abandonList_keeps {w : List Fld} {s t : State} {a1 a2} (hw : [.regs, .stack, .tileW, .tileA,
    .ledge, .ue, .weak, .stackSt, .pba, .msixHeld, .outs, .units, .summit, .ctl, .vdes] ⊆ w) (h : Keeps w s t)
    :
    Keeps w s (State.abandonList t a1 a2) := h.lift hw (by
  unfold State.abandonList
  try dsimp only
  repeat' first
    | (with_reducible first
      | exact Keeps.refl | assumption | refine State.setVde_keeps (by decide) ?_
      | refine State.applyStore_keeps (by decide) ?_ | refine Keeps.foldl (fun _ _ _ => ?_) _ ?_)
    | dsimp only
    | split)

theorem State.fence_keeps {w : List Fld} {s t : State} {a1} (hw : [.regs, .stack, .tileW, .tileA, .ledge, .ue,
    .weak, .stackSt, .pba, .msixHeld, .outs, .units, .summit, .ctl, .kernels, .vdes] ⊆ w) (h : Keeps w s t) :
    Keeps w s (State.fence t a1) := h.lift hw (by
  unfold State.fence
  try dsimp only
  repeat' first
    | with_reducible exact Or.inl rfl
    | exact Or.inr (And.intro (by decide) (fun hk => by simp [hk]))
    | (with_reducible first
      | exact Or.inr (by decide) | exact Keeps.refl | assumption
      | refine State.abandonList_keeps (by decide) ?_ | refine Keeps.ite ?_ ?_)
    | dsimp only
    | split
    | with_reducible apply Keeps.update)

theorem State.copyTile_keeps {w : List Fld} {s t : State} {a1 a2 a3} (hw : [.stack, .tileW, .tileA, .ledge,
    .ue, .weak] ⊆ w) (h : Keeps w s t) :
    Keeps w s (State.copyTile t a1 a2 a3) := h.lift hw (by
  unfold State.copyTile
  try dsimp only
  repeat' first
    | with_reducible exact Or.inl rfl
    | exact Or.inr (And.intro (by decide) (fun hk => by simp [hk]))
    | (with_reducible first
      | exact Or.inr (by decide) | exact Keeps.refl | assumption | refine State.writeMem_keeps (by decide) ?_
      | refine Keeps.ite ?_ ?_)
    | split
    | with_reducible apply Keeps.update)

theorem State.endKernelsOn_keeps {w : List Fld} {s t : State} {a1 a2} (hw : [.regs, .stack, .tileW, .tileA,
    .ledge, .ue, .weak, .stackSt, .pba, .msixHeld, .outs, .units, .summit, .rings, .parts, .ctl, .kernels,
    .rope] ⊆ w) (h : Keeps w s t) :
    Keeps w s (State.endKernelsOn t a1 a2) := h.lift hw (by
  unfold State.endKernelsOn
  try dsimp only
  repeat' first
    | (with_reducible first
      | exact Keeps.refl | assumption | refine State.endKernel_keeps (by decide) ?_
      | refine Keeps.foldl (fun _ _ _ => ?_) _ ?_)
    | dsimp only)

theorem State.partLosesTile_keeps {w : List Fld} {s t : State} {a1 a2 a3 a4} (hw : [.regs, .stack, .tileW,
    .tileA, .ledge, .ue, .weak, .stackSt, .pba, .msixHeld, .outs, .units, .summit, .rings, .parts, .ctl,
    .kernels, .rope] ⊆ w) (h : Keeps w s t) :
    Keeps w s (State.partLosesTile t a1 a2 a3 a4) := h.lift hw (by
  unfold State.partLosesTile
  try dsimp only
  repeat' first
    | with_reducible exact Or.inl rfl
    | exact Or.inr (And.intro (by decide) (fun hk => by simp [hk]))
    | (with_reducible first
      | exact Or.inr (by decide) | exact Keeps.refl | assumption | refine State.copyTile_keeps (by decide) ?_
      | refine State.moveTile_keeps (by decide) ?_ | refine State.setPart_keeps (by decide) ?_
      | refine State.setVecBit_keeps (by decide) ?_ | refine State.endKernelsOn_keeps (by decide) ?_
      | refine Keeps.ite ?_ ?_)
    | dsimp only
    | split
    | with_reducible apply Keeps.update)

theorem State.retireUnit_keeps {w : List Fld} {s t : State} {a1 a2} (hw : [.regs, .host, .stack, .tileW,
    .tileA, .ledge, .ue, .weak, .stackSt, .pba, .msixHeld, .outs, .islands, .units, .summit, .rings,
    .adminEvents, .parts, .ctl, .kernels, .leases, .radio, .rope] ⊆ w) (h : Keeps w s t) :
    Keeps w s (State.retireUnit t a1 a2) := h.lift hw (by
  unfold State.retireUnit
  try dsimp only
  repeat' first
    | (with_reducible first
      | exact Keeps.refl | assumption | refine State.retire_keeps (by decide) ?_
      | refine State.capacityLost_keeps (by decide) ?_ | refine State.endKernelsOn_keeps (by decide) ?_
      | refine State.partLosesTile_keeps (by decide) ?_ | refine Keeps.ite ?_ ?_)
    | split)

theorem State.beginSubst_keeps {w : List Fld} {s t : State} {a1} (hw : [.regs, .host, .stack, .tileW, .tileA,
    .ledge, .ue, .weak, .stackSt, .pba, .msixHeld, .outs, .islands, .units, .summit, .rings, .adminEvents,
    .parts, .ctl, .kernels, .leases, .radio, .rope] ⊆ w) (h : Keeps w s t) :
    Keeps w s (State.beginSubst t a1) := h.lift hw (by
  unfold State.beginSubst
  try dsimp only
  repeat' first
    | with_reducible exact Or.inl rfl
    | exact Or.inr (And.intro (by decide) (fun hk => by simp [hk]))
    | (with_reducible first
      | exact Or.inr (by decide) | exact Keeps.refl | assumption | refine State.mapSpare_keeps (by decide) ?_
      | refine State.retireUnit_keeps (by decide) ?_ | refine Keeps.ite ?_ ?_)
    | dsimp only
    | split
    | with_reducible apply Keeps.update)

theorem State.nextSubst_keeps {w : List Fld} {s t : State} {a0 a1} (hw : [.regs, .host, .stack, .tileW,
    .tileA, .ledge, .ue, .weak, .stackSt, .pba, .msixHeld, .outs, .islands, .units, .summit, .rings,
    .adminEvents, .parts, .ctl, .kernels, .leases, .radio, .rope] ⊆ w) (h : Keeps w s t) :
    Keeps w s (State.nextSubst a0 a1 t) := by
  induction a1 generalizing t with
  | zero => exact h
  | succ k ih =>
    unfold State.nextSubst
    split
    · exact h
    · split
      · exact h
      · exact ih (State.beginSubst_keeps hw h)

theorem State.yieldSubst_keeps {w : List Fld} {s t : State} {a1} (hw : [.islands, .units] ⊆ w) (h : Keeps w s
    t) :
    Keeps w s (State.yieldSubst t a1) := h.lift hw (by
  unfold State.yieldSubst
  try dsimp only
  repeat' first
    | with_reducible exact Or.inl rfl
    | exact Or.inr (And.intro (by decide) (fun hk => by simp [hk]))
    | (with_reducible first
      | exact Or.inr (by decide) | exact Keeps.refl | assumption | refine State.unmapSpare_keeps (by decide) ?_
      | refine Keeps.ite ?_ ?_)
    | dsimp only
    | split
    | with_reducible apply Keeps.update)

theorem State.substitute_keeps {w : List Fld} {s t : State} {a1} (hw : [.regs, .host, .stack, .tileW, .tileA,
    .ledge, .ue, .weak, .stackSt, .pba, .msixHeld, .outs, .islands, .units, .summit, .rings, .adminEvents,
    .parts, .ctl, .kernels, .vdes, .leases, .radio, .rope] ⊆ w) (h : Keeps w s t) :
    Keeps w s (State.substitute t a1) := h.lift hw (by
  unfold State.substitute
  try dsimp only
  repeat' first
    | with_reducible exact Or.inl rfl
    | exact Or.inr (And.intro (by decide) (fun hk => by simp [hk]))
    | (with_reducible first
      | exact Or.inr (by decide) | exact Keeps.refl | assumption | refine State.yieldSubst_keeps (by decide) ?_
      | refine State.fence_keeps (by decide) ?_ | refine State.markFault_keeps (by decide) ?_
      | refine State.nextSubst_keeps (by decide) ?_ | refine Keeps.ite ?_ ?_)
    | split
    | with_reducible apply Keeps.update)

theorem State.declareUnit_keeps {w : List Fld} {s t : State} {a1} (hw : [.regs, .host, .stack, .tileW, .tileA,
    .ledge, .ue, .weak, .stackSt, .pba, .msixHeld, .outs, .islands, .units, .summit, .rings, .adminEvents,
    .parts, .ctl, .kernels, .vdes, .leases, .radio, .rope] ⊆ w) (h : Keeps w s t) :
    Keeps w s (State.declareUnit t a1) := h.lift hw (by
  unfold State.declareUnit
  try dsimp only
  repeat' first
    | (with_reducible first
      | exact Keeps.refl | assumption | refine State.substitute_keeps (by decide) ?_
      | refine State.markTests_keeps (by decide) ?_ | refine State.noteDeclared_keeps (by decide) ?_
      | refine Keeps.ite ?_ ?_)
    | dsimp only
    | split)

theorem State.countUnit_keeps {w : List Fld} {s t : State} {a1 a2} (hw : [.regs, .host, .stack, .tileW,
    .tileA, .ledge, .ue, .weak, .stackSt, .pba, .msixHeld, .outs, .islands, .units, .summit, .rings,
    .adminEvents, .parts, .ctl, .kernels, .vdes, .leases, .radio, .rope] ⊆ w) (h : Keeps w s t) :
    Keeps w s (State.countUnit t a1 a2) := h.lift hw (by
  unfold State.countUnit
  try dsimp only
  repeat' first
    | (with_reducible first
      | exact Keeps.refl | assumption | refine State.addFault_keeps (by decide) ?_
      | refine State.declareUnit_keeps (by decide) ?_ | refine Keeps.ite ?_ ?_)
    | split)

theorem State.unitFault_keeps {w : List Fld} {s t : State} {a1 a2} (hw : [.regs, .host, .stack, .tileW,
    .tileA, .ledge, .ue, .weak, .stackSt, .pba, .msixHeld, .outs, .islands, .units, .summit, .rings,
    .adminEvents, .parts, .ctl, .kernels, .vdes, .leases, .radio, .rope] ⊆ w) (h : Keeps w s t) :
    Keeps w s (State.unitFault t a1 a2) := h.lift hw (by
  unfold State.unitFault
  try dsimp only
  repeat' first
    | (with_reducible first
      | exact Keeps.refl | assumption | refine State.countUnit_keeps (by decide) ?_
      | refine State.record_keeps (by decide) ?_))

theorem State.sramCorrected_keeps {w : List Fld} {s t : State} {a1 a2 a3} (hw : [.regs, .pba, .msixHeld,
    .outs, .units, .summit, .ctl] ⊆ w) (h : Keeps w s t) :
    Keeps w s (State.sramCorrected t a1 a2 a3) := h.lift hw (by
  unfold State.sramCorrected
  try dsimp only
  repeat' first
    | with_reducible exact Or.inl rfl
    | exact Or.inr (And.intro (by decide) (fun hk => by simp [hk]))
    | (with_reducible first
      | exact Or.inr (by decide) | exact Keeps.refl | assumption | refine State.record_keeps (by decide) ?_
      | refine State.addFault_keeps (by decide) ?_ | refine State.noteDeclared_keeps (by decide) ?_
      | refine Keeps.ite ?_ ?_)
    | split
    | with_reducible apply Keeps.update)

theorem State.wireCrc_keeps {w : List Fld} {s t : State} {a1} (hw : [.units] ⊆ w) (h : Keeps w s t) :
    Keeps w s (State.wireCrc t a1) := h.lift hw (by
  unfold State.wireCrc
  try dsimp only
  repeat' first
    | (with_reducible first
      | exact Keeps.refl | assumption | refine State.replaceWire_keeps (by decide) ?_
      | refine State.addFault_keeps (by decide) ?_ | refine Keeps.ite ?_ ?_)
    | split)

theorem State.fetchErrors_keeps {w : List Fld} {s t : State} {a1 a2 a3} (hw : [.regs, .ue, .weak, .stackSt,
    .pba, .msixHeld, .outs, .units, .summit, .ctl] ⊆ w) (h : Keeps w s t) :
    Keeps w s (State.fetchErrors t a1 a2 a3) := h.lift hw (by
  unfold State.fetchErrors
  try dsimp only
  repeat' first
    | with_reducible exact Or.inl rfl
    | exact Or.inr (And.intro (by decide) (fun hk => by simp [hk]))
    | (with_reducible first
      | exact Or.inr (by decide) | exact Keeps.refl | assumption | refine State.wireCrc_keeps (by decide) ?_
      | refine State.stackCorrected_keeps (by decide) ?_ | refine State.sramCorrected_keeps (by decide) ?_
      | refine Keeps.foldl (fun _ _ _ => ?_) _ ?_ | refine Keeps.ite ?_ ?_)
    | dsimp only
    | split
    | with_reducible apply Keeps.update)

theorem State.tileMedia_keeps {w : List Fld} {s t : State} {a1} (hw : [.regs, .host, .stack, .tileW, .tileA,
    .ledge, .ue, .weak, .stackSt, .pba, .msixHeld, .outs, .islands, .units, .summit, .rings, .adminEvents,
    .parts, .ctl, .kernels, .vdes, .leases, .radio, .rope] ⊆ w) (h : Keeps w s t) :
    Keeps w s (State.tileMedia t a1) := h.lift hw (by
  unfold State.tileMedia
  try dsimp only
  repeat' first
    | (with_reducible first
      | exact Keeps.refl | assumption | refine State.failMedia_keeps (by decide) ?_
      | refine State.countUnit_keeps (by decide) ?_ | refine Keeps.ite ?_ ?_)
    | split)

theorem State.checksumEvent_keeps {w : List Fld} {s t : State} {a1 a2} (hw : [.regs, .host, .stack, .tileW,
    .tileA, .ledge, .ue, .weak, .stackSt, .pba, .msixHeld, .outs, .islands, .units, .summit, .rings,
    .adminEvents, .parts, .ctl, .kernels, .vdes, .leases, .radio, .rope] ⊆ w) (h : Keeps w s t) :
    Keeps w s (State.checksumEvent t a1 a2) := h.lift hw (by
  unfold State.checksumEvent
  try dsimp only
  repeat' first
    | (with_reducible first
      | exact Keeps.refl | assumption | refine State.unitFault_keeps (by decide) ?_
      | refine State.record_keeps (by decide) ?_ | refine Keeps.ite ?_ ?_)
    | split)

theorem stall_keeps {w : List Fld} {s t : State} {a0 a1} (hw : [.regs, .host, .stack, .tileW, .tileA, .ledge,
    .ue, .weak, .stackSt, .pba, .msixHeld, .outs, .islands, .units, .summit, .rings, .adminEvents, .parts,
    .ctl, .kernels, .vdes, .leases, .radio, .ports, .rope] ⊆ w) (h : Keeps w s t) :
    Keeps w s (stall a0 a1 t) := h.lift hw (by
  unfold stall
  try dsimp only
  repeat' first
    | (with_reducible first
      | exact Keeps.refl | assumption | refine State.record_keeps (by decide) ?_
      | refine State.declareUnit_keeps (by decide) ?_ | refine State.noticeUnserved_keeps (by decide) ?_
      | refine Keeps.ite ?_ ?_)
    | split)

theorem State.gateNow_keeps {w : List Fld} {s t : State} {a1 a2} (hw : [.ports] ⊆ w) (h : Keeps w s t) :
    Keeps w s (State.gateNow t a1 a2) := h.lift hw (by
  unfold State.gateNow
  try dsimp only
  repeat' first
    | (with_reducible first
      | exact Keeps.refl | assumption | refine State.setSub_keeps (by decide) ?_)
    | split)

theorem gclChange_keeps {w : List Fld} {s t : State} {a0 a1 a2} (hw : [.regs, .ports] ⊆ w) (h : Keeps w s t) :
    Keeps w s (gclChange a0 a1 a2 t) := h.lift hw (by
  unfold gclChange
  try dsimp only
  repeat' first
    | (with_reducible first
      | exact Keeps.refl | assumption | refine State.setRbit_keeps (by decide) ?_
      | refine State.applyWrite_keeps (by decide) ?_ | refine State.setSub_keeps (by decide) ?_
      | refine Keeps.ite ?_ ?_)
    | split)

theorem gclTakeEffect_keeps {w : List Fld} {s t : State} {a0 a1} (hw : [.regs, .ports] ⊆ w) (h : Keeps w s t) :
    Keeps w s (gclTakeEffect a0 a1 t) := h.lift hw (by
  unfold gclTakeEffect
  try dsimp only
  repeat' first
    | (with_reducible first
      | exact Keeps.refl | assumption | refine State.setSub_keeps (by decide) ?_
      | refine State.setRbit_keeps (by decide) ?_ | refine Keeps.ite ?_ ?_)
    | dsimp only
    | split)

theorem gateIntervalEnd_keeps {w : List Fld} {s t : State} {a0 a1} (hw : [.ports] ⊆ w) (h : Keeps w s t) :
    Keeps w s (gateIntervalEnd a0 a1 t) := h.lift hw (by
  unfold gateIntervalEnd
  try dsimp only
  repeat' first
    | (with_reducible first
      | exact Keeps.refl | assumption | refine State.gateNow_keeps (by decide) ?_ | refine Keeps.ite ?_ ?_)
    | split)

theorem State.dropQueued_keeps {w : List Fld} {s t : State} {a1} (hw : [.regs, .stack, .tileW, .tileA, .ledge,
    .ue, .weak, .stackSt, .pba, .msixHeld, .outs, .units, .summit, .ctl, .radio] ⊆ w) (h : Keeps w s t) :
    Keeps w s (State.dropQueued t a1) := h.lift hw (by
  unfold State.dropQueued
  try dsimp only
  repeat' first
    | (with_reducible first
      | exact Keeps.refl | assumption | refine State.txDone_keeps (by decide) ?_
      | refine State.loseFrame_keeps (by decide) ?_)
    | split)

theorem State.linkChange_keeps {w : List Fld} {s t : State} {a1 a2 a3} (hw : [.regs, .host, .stack, .tileW,
    .tileA, .ledge, .ue, .weak, .stackSt, .pba, .msixHeld, .outs, .units, .summit, .rings, .adminEvents,
    .parts, .ctl, .radio, .ports] ⊆ w) (h : Keeps w s t) :
    Keeps w s (State.linkChange t a1 a2 a3) := h.lift hw (by
  unfold State.linkChange
  try dsimp only
  repeat' first
    | (with_reducible first
      | exact Keeps.refl | assumption | refine State.edge_keeps (by decide) ?_
      | refine State.setRbit_keeps (by decide) ?_ | refine State.noticePassed_keeps (by decide) ?_
      | refine State.dropQueued_keeps (by decide) ?_ | refine State.setSub_keeps (by decide) ?_
      | refine Keeps.foldl (fun _ _ _ => ?_) _ ?_ | refine Keeps.ite ?_ ?_)
    | dsimp only
    | split)

theorem portLinkChange_keeps {w : List Fld} {s t : State} {a0 a1 a2} (hw : [.regs, .host, .stack, .tileW,
    .tileA, .ledge, .ue, .weak, .stackSt, .pba, .msixHeld, .outs, .units, .summit, .rings, .adminEvents,
    .parts, .ctl, .radio, .ports] ⊆ w) (h : Keeps w s t) :
    Keeps w s (portLinkChange a0 a1 a2 t) := h.lift hw (by
  unfold portLinkChange
  try dsimp only
  repeat' first
    | (with_reducible first
      | exact Keeps.refl | assumption | refine State.linkChange_keeps (by decide) ?_ | refine Keeps.ite ?_ ?_)
    | split)

theorem portEnable_keeps {w : List Fld} {s t : State} {a0 a1} (hw : [.regs, .host, .stack, .tileW, .tileA,
    .ledge, .ue, .weak, .stackSt, .pba, .msixHeld, .outs, .units, .summit, .rings, .adminEvents, .parts, .ctl,
    .radio, .ports] ⊆ w) (h : Keeps w s t) :
    Keeps w s (portEnable a0 a1 t) := h.lift hw (by
  unfold portEnable
  try dsimp only
  repeat' first
    | (with_reducible first
      | exact Keeps.refl | assumption | refine State.setRbit_keeps (by decide) ?_
      | refine State.setRf_keeps (by decide) ?_ | refine State.applyWrite_keeps (by decide) ?_
      | refine State.linkChange_keeps (by decide) ?_ | refine Keeps.foldl (fun _ _ _ => ?_) _ ?_
      | refine Keeps.ite ?_ ?_)
    | dsimp only
    | split)

theorem State.fillSub_keeps {w : List Fld} {s t : State} {a1 a2} (hw : [.ports] ⊆ w) (h : Keeps w s t) :
    Keeps w s (State.fillSub t a1 a2) := h.lift hw (by
  unfold State.fillSub
  try dsimp only
  repeat' first
    | (with_reducible first
      | exact Keeps.refl | assumption | refine State.setSub_keeps (by decide) ?_)
    | dsimp only)

theorem State.chargePart_keeps {w : List Fld} {s t : State} {a1 a2} (hw : [.parts] ⊆ w) (h : Keeps w s t) (r :
    State)
    (hr : State.chargePart t a1 a2 = some r) : Keeps w s r := by
  unfold State.chargePart at hr
  split at hr
  · exact State.takeShare_keeps hw h _ hr
  · injection hr with hr
    subst hr
    exact h

theorem State.refuseFrame_keeps {w : List Fld} {s t : State} {a1 a2 a3} (hw : [.regs, .stack, .tileW, .tileA,
    .ledge, .ue, .weak, .stackSt, .pba, .msixHeld, .outs, .units, .summit, .ctl, .radio] ⊆ w) (h : Keeps w s
    t) :
    Keeps w s (State.refuseFrame t a1 a2 a3) := h.lift hw (by
  unfold State.refuseFrame
  try dsimp only
  repeat' first
    | (with_reducible first
      | exact Keeps.refl | assumption | refine State.record_keeps (by decide) ?_
      | refine State.bumpRf_keeps (by decide) ?_ | refine State.txDone_keeps (by decide) ?_
      | refine State.loseFrame_keeps (by decide) ?_)
    | split)

theorem State.frameLeft_keeps {w : List Fld} {s t : State} {a1 a2} (hw : [.regs, .ports] ⊆ w) (h : Keeps w s
    t) :
    Keeps w s (State.frameLeft t a1 a2) := h.lift hw (by
  unfold State.frameLeft
  try dsimp only
  repeat' first
    | with_reducible exact Or.inl rfl
    | exact Or.inr (And.intro (by decide) (fun hk => by simp [hk]))
    | (with_reducible first
      | exact Or.inr (by decide) | exact Keeps.refl | assumption | refine State.capture_keeps (by decide) ?_)
    | split
    | with_reducible apply Keeps.update)

theorem State.startFrame_keeps {w : List Fld} {s t : State} {a1 a2 a3} (hw : [.regs, .stack, .tileW, .tileA,
    .ledge, .ue, .weak, .stackSt, .pba, .msixHeld, .outs, .units, .summit, .parts, .ctl, .ports] ⊆ w) (h :
    Keeps w s t) :
    Keeps w s (State.startFrame t a1 a2 a3) := h.lift hw (by
  unfold State.startFrame
  try dsimp only
  repeat' first
    | with_reducible exact Or.inl rfl
    | exact Or.inr (And.intro (by decide) (fun hk => by simp [hk]))
    | (with_reducible first
      | exact Or.inr (by decide) | exact Keeps.refl | assumption
      | refine State.chargePart_keeps (by decide) ?_ _ (by assumption)
      | refine State.bumpRf_keeps (by decide) ?_ | refine State.setSub_keeps (by decide) ?_
      | refine State.frameLeft_keeps (by decide) ?_ | refine State.txDone_keeps (by decide) ?_
      | refine State.account_keeps (by decide) ?_ | refine Keeps.mapGetD ?_ (fun _ _ => ?_)
      | refine Keeps.getD ?_ (fun _ _ => ?_) | refine Keeps.ite ?_ ?_)
    | dsimp only
    | split
    | with_reducible apply Keeps.update)

theorem frameTransmit_keeps {w : List Fld} {s t : State} {a0 a1} (hw : [.regs, .stack, .tileW, .tileA, .ledge,
    .ue, .weak, .stackSt, .pba, .msixHeld, .outs, .units, .summit, .parts, .ctl, .radio, .ports] ⊆ w) (h :
    Keeps w s t) :
    Keeps w s (frameTransmit a0 a1 t) := h.lift hw (by
  unfold frameTransmit
  try dsimp only
  repeat' first
    | (with_reducible first
      | exact Keeps.refl | assumption | refine State.fillSub_keeps (by decide) ?_
      | refine State.setSub_keeps (by decide) ?_ | refine State.startFrame_keeps (by decide) ?_
      | refine State.refuseFrame_keeps (by decide) ?_ | refine Keeps.ite ?_ ?_)
    | split)

theorem allowLock_keeps {w : List Fld} {s t : State} (hw : [.regs] ⊆ w) (h : Keeps w s t) :
    Keeps w s (allowLock t) := h.lift hw (by
  unfold allowLock
  try dsimp only
  repeat' first
    | (with_reducible first
      | exact Keeps.refl | assumption | refine State.setRbit_keeps (by decide) ?_ | refine Keeps.ite ?_ ?_)
    | split)

theorem State.queuePtp_keeps {w : List Fld} {s t : State} {a1 a2 a3 a4 a5} (hw : [.ports] ⊆ w) (h : Keeps w s
    t) :
    Keeps w s (State.queuePtp t a1 a2 a3 a4 a5) := h.lift hw (by
  unfold State.queuePtp
  try dsimp only
  repeat' first
    | (with_reducible first
      | exact Keeps.refl | assumption | refine State.queueFrame_keeps (by decide) ?_))

theorem ptpTransmit_keeps {w : List Fld} {s t : State} {a0 a1 a2} (hw : [.ports] ⊆ w) (h : Keeps w s t) :
    Keeps w s (ptpTransmit a0 a1 a2 t) := h.lift hw (by
  unfold ptpTransmit
  try dsimp only
  repeat' first
    | (with_reducible first
      | exact Keeps.refl | assumption | refine State.queuePtp_keeps (by decide) ?_
      | refine State.setSub_keeps (by decide) ?_ | refine Keeps.ite ?_ ?_)
    | split)

theorem pqEnable_keeps {w : List Fld} {s t : State} {a0 a1} (hw : [.regs, .parts] ⊆ w) (h : Keeps w s t) :
    Keeps w s (pqEnable a0 a1 t) := h.lift hw (by
  unfold pqEnable
  try dsimp only
  repeat' first
    | (with_reducible first
      | exact Keeps.refl | assumption | refine State.setCfgError_keeps (by decide) ?_
      | refine State.setRbit_keeps (by decide) ?_ | refine State.applyWrite_keeps (by decide) ?_
      | refine Keeps.ite ?_ ?_)
    | split)

theorem State.pollTx_keeps {w : List Fld} {s t : State} {a0 a1} (hw : [.regs, .stack, .tileW, .tileA, .ledge,
    .ue, .weak, .stackSt, .pba, .msixHeld, .outs, .units, .summit, .ctl, .ports] ⊆ w) (h : Keeps w s t) :
    Keeps w s (State.pollTx a0 a1 t) := by
  induction a1 generalizing t with
  | zero => exact h
  | succ k ih =>
    unfold State.pollTx
    dsimp only
    split
    · exact h
    · split
      · split
        · exact ih (State.txDone_keeps (List.Subset.trans (by decide) hw)
            (State.pqNote_keeps (List.Subset.trans (by decide) hw) h))
        · exact h
      · exact ih (State.setSub_keeps (List.Subset.trans (by decide) hw) h)

theorem pqTxPoll_keeps {w : List Fld} {s t : State} {a0} (hw : [.regs, .stack, .tileW, .tileA, .ledge, .ue,
    .weak, .stackSt, .pba, .msixHeld, .outs, .units, .summit, .ctl, .ports] ⊆ w) (h : Keeps w s t) :
    Keeps w s (pqTxPoll a0 t) := h.lift hw (by
  unfold pqTxPoll
  try dsimp only
  repeat' first
    | (with_reducible first
      | exact Keeps.refl | assumption | refine State.pollTx_keeps (by decide) ?_
      | refine State.pqNote_keeps (by decide) ?_ | refine Keeps.ite ?_ ?_)
    | split)

theorem State.putIns_keeps {w : List Fld} {s t : State} {a1 a2} (hw : [.kernels] ⊆ w) (h : Keeps w s t) :
    Keeps w s (State.putIns t a1 a2) := h.lift hw (by
  unfold State.putIns
  try dsimp only
  repeat' first
    | (with_reducible first
      | exact Keeps.refl | assumption | refine State.updKernel_keeps (by decide) ?_)
    | dsimp only)

theorem State.settle_keeps {w : List Fld} {s t : State} {a1} (hw : [.regs, .stack, .tileW, .tileA, .ledge,
    .ue, .weak, .stackSt, .pba, .msixHeld, .outs, .units, .summit, .rings, .parts, .ctl, .kernels, .rope] ⊆ w)
    (h : Keeps w s t) :
    Keeps w s (State.settle t a1) := h.lift hw (by
  unfold State.settle
  try dsimp only
  repeat' first
    | (with_reducible first
      | exact Keeps.refl | assumption | refine State.failKernel_keeps (by decide) ?_)
    | dsimp only
    | split)

theorem State.failIns_keeps {w : List Fld} {s t : State} {a1 a2 a3} (hw : [.regs, .stack, .tileW, .tileA,
    .ledge, .ue, .weak, .stackSt, .pba, .msixHeld, .outs, .units, .summit, .rings, .parts, .ctl, .kernels,
    .rope] ⊆ w) (h : Keeps w s t) :
    Keeps w s (State.failIns t a1 a2 a3) := h.lift hw (by
  unfold State.failIns
  try dsimp only
  repeat' first
    | (with_reducible first
      | exact Keeps.refl | assumption | refine State.settle_keeps (by decide) ?_
      | refine State.putIns_keeps (by decide) ?_))

theorem State.failInsUe_keeps {w : List Fld} {s t : State} {a1 a2 a3} (hw : [.regs, .host, .stack, .tileW,
    .tileA, .ledge, .ue, .weak, .stackSt, .pba, .msixHeld, .outs, .islands, .units, .summit, .rings,
    .adminEvents, .parts, .ctl, .kernels, .vdes, .leases, .radio, .rope] ⊆ w) (h : Keeps w s t) :
    Keeps w s (State.failInsUe t a1 a2 a3) := h.lift hw (by
  unfold State.failInsUe
  try dsimp only
  repeat' first
    | (with_reducible first
      | exact Keeps.refl | assumption | refine State.failIns_keeps (by decide) ?_
      | refine State.tileMedia_keeps (by decide) ?_))

theorem State.failInsOr_keeps {w : List Fld} {s t : State} {a1 a2 a3} (hw : [.regs, .host, .stack, .tileW,
    .tileA, .ledge, .ue, .weak, .stackSt, .pba, .msixHeld, .outs, .islands, .units, .summit, .rings,
    .adminEvents, .parts, .ctl, .kernels, .vdes, .leases, .radio, .rope] ⊆ w) (h : Keeps w s t) :
    Keeps w s (State.failInsOr t a1 a2 a3) := h.lift hw (by
  unfold State.failInsOr
  try dsimp only
  repeat' first
    | (with_reducible first
      | exact Keeps.refl | assumption | refine State.failIns_keeps (by decide) ?_
      | refine State.tileMedia_keeps (by decide) ?_)
    | split)

theorem State.tileWork_keeps {w : List Fld} {s t : State} {a1 a2 a3} (hw : [.parts] ⊆ w) (h : Keeps w s t) :
    Keeps w s (State.tileWork t a1 a2 a3) := h.lift hw (by
  unfold State.tileWork
  try dsimp only
  repeat' first
    | (with_reducible first
      | exact Keeps.refl | assumption | refine State.meterHs_keeps (by decide) ?_
      | refine State.account_keeps (by decide) ?_)
    | dsimp only)

theorem State.runLoad_keeps {w : List Fld} {s t : State} {a1 a2 a3} (hw : [.regs, .host, .stack, .tileW,
    .tileA, .ledge, .ue, .weak, .stackSt, .pba, .msixHeld, .outs, .islands, .units, .summit, .rings,
    .adminEvents, .parts, .ctl, .kernels, .vdes, .leases, .radio, .rope] ⊆ w) (h : Keeps w s t) :
    Keeps w s (State.runLoad t a1 a2 a3) := h.lift hw (by
  unfold State.runLoad
  try dsimp only
  repeat' first
    | (with_reducible first
      | exact Keeps.refl | assumption | refine State.failIns_keeps (by decide) ?_
      | refine State.failInsUe_keeps (by decide) ?_ | refine State.locCorrects_keeps (by decide) ?_
      | refine State.putIns_keeps (by decide) ?_ | refine State.tileWork_keeps (by decide) ?_
      | refine State.account_keeps (by decide) ?_ | refine Keeps.ite ?_ ?_)
    | dsimp only
    | split)

theorem State.streamIns_keeps {w : List Fld} {s t : State} {a1 a2 a3} (hw : [.regs, .host, .stack, .tileW,
    .tileA, .ledge, .ue, .weak, .stackSt, .pba, .msixHeld, .outs, .islands, .units, .summit, .rings,
    .adminEvents, .parts, .ctl, .kernels, .vdes, .leases, .radio, .rope] ⊆ w) (h : Keeps w s t) :
    Keeps w s (State.streamIns t a1 a2 a3) := h.lift hw (by
  unfold State.streamIns
  try dsimp only
  repeat' first
    | (with_reducible first
      | exact Keeps.refl | assumption | refine State.failInsUe_keeps (by decide) ?_
      | refine State.failIns_keeps (by decide) ?_ | refine State.locCorrects_keeps (by decide) ?_
      | refine State.putIns_keeps (by decide) ?_ | refine State.account_keeps (by decide) ?_
      | refine State.tileWork_keeps (by decide) ?_ | refine Keeps.ite ?_ ?_)
    | dsimp only
    | split)

theorem State.startProduct_keeps {w : List Fld} {s t : State} {a1 a2 a3} (hw : [.regs, .host, .stack, .tileW,
    .tileA, .ledge, .ue, .weak, .stackSt, .pba, .msixHeld, .outs, .islands, .units, .summit, .rings,
    .adminEvents, .parts, .ctl, .kernels, .vdes, .leases, .radio, .rope] ⊆ w) (h : Keeps w s t) :
    Keeps w s (State.startProduct t a1 a2 a3) := h.lift hw (by
  unfold State.startProduct
  try dsimp only
  repeat' first
    | (with_reducible first
      | exact Keeps.refl | assumption | refine State.streamIns_keeps (by decide) ?_
      | refine State.putIns_keeps (by decide) ?_ | refine State.failIns_keeps (by decide) ?_
      | refine Keeps.ite ?_ ?_)
    | split)

theorem State.startIns_keeps {w : List Fld} {s t : State} {a1 a2 a3 a4} (hw : [.regs, .host, .stack, .tileW,
    .tileA, .ledge, .ue, .weak, .stackSt, .pba, .msixHeld, .outs, .islands, .units, .summit, .rings,
    .adminEvents, .parts, .ctl, .kernels, .vdes, .leases, .radio, .rope] ⊆ w) (h : Keeps w s t) :
    Keeps w s (State.startIns t a1 a2 a3 a4) := h.lift hw (by
  unfold State.startIns
  try dsimp only
  repeat' first
    | (with_reducible first
      | exact Keeps.refl | assumption | refine State.fetchErrors_keeps (by decide) ?_
      | refine State.runLoad_keeps (by decide) ?_ | refine State.startProduct_keeps (by decide) ?_
      | refine State.failIns_keeps (by decide) ?_ | refine State.failInsUe_keeps (by decide) ?_
      | refine Keeps.ite ?_ ?_)
    | dsimp only
    | split)

theorem State.issueRow_keeps {w : List Fld} {s t : State} {a1 a2 a3 a4 a5 a6} (hw : [.regs, .host, .stack,
    .tileW, .tileA, .ledge, .ue, .weak, .stackSt, .pba, .msixHeld, .outs, .islands, .units, .summit, .rings,
    .adminEvents, .parts, .ctl, .kernels, .vdes, .leases, .radio, .rope] ⊆ w) (h : Keeps w s t) :
    Keeps w s (State.issueRow t a1 a2 a3 a4 a5 a6) := h.lift hw (by
  unfold State.issueRow
  try dsimp only
  repeat' first
    | (with_reducible first
      | exact Keeps.refl | assumption | refine State.startIns_keeps (by decide) ?_
      | refine State.failIns_keeps (by decide) ?_ | refine State.failInsUe_keeps (by decide) ?_
      | refine State.issuerCorrects_keeps (by decide) ?_ | refine Keeps.ite ?_ ?_)
    | split)

theorem load_keeps {w : List Fld} {s t : State} {a1 a2 a3 a4 a5} (hw : [.regs, .host, .stack, .tileW, .tileA,
    .ledge, .ue, .weak, .stackSt, .pba, .msixHeld, .outs, .islands, .units, .summit, .rings, .adminEvents,
    .parts, .ctl, .kernels, .vdes, .leases, .radio, .rope] ⊆ w) (h : Keeps w s t) :
    Keeps w s (load t a1 a2 a3 a4 a5) := h.lift hw (by
  unfold load
  try dsimp only
  repeat' first
    | (with_reducible first
      | exact Keeps.refl | assumption | refine State.issueRow_keeps (by decide) ?_))

theorem mm_keeps {w : List Fld} {s t : State} {a1 a2 a3 a4 a5} (hw : [.regs, .host, .stack, .tileW, .tileA,
    .ledge, .ue, .weak, .stackSt, .pba, .msixHeld, .outs, .islands, .units, .summit, .rings, .adminEvents,
    .parts, .ctl, .kernels, .vdes, .leases, .radio, .rope] ⊆ w) (h : Keeps w s t) :
    Keeps w s (mm t a1 a2 a3 a4 a5) := h.lift hw (by
  unfold mm
  try dsimp only
  repeat' first
    | (with_reducible first
      | exact Keeps.refl | assumption | refine State.issueRow_keeps (by decide) ?_))

theorem conv_keeps {w : List Fld} {s t : State} {a1 a2 a3 a4 a5} (hw : [.regs, .host, .stack, .tileW, .tileA,
    .ledge, .ue, .weak, .stackSt, .pba, .msixHeld, .outs, .islands, .units, .summit, .rings, .adminEvents,
    .parts, .ctl, .kernels, .vdes, .leases, .radio, .rope] ⊆ w) (h : Keeps w s t) :
    Keeps w s (conv t a1 a2 a3 a4 a5) := h.lift hw (by
  unfold conv
  try dsimp only
  repeat' first
    | (with_reducible first
      | exact Keeps.refl | assumption | refine State.issueRow_keeps (by decide) ?_))

theorem gather_keeps {w : List Fld} {s t : State} {a1 a2 a3 a4 a5} (hw : [.regs, .host, .stack, .tileW,
    .tileA, .ledge, .ue, .weak, .stackSt, .pba, .msixHeld, .outs, .islands, .units, .summit, .rings,
    .adminEvents, .parts, .ctl, .kernels, .vdes, .leases, .radio, .rope] ⊆ w) (h : Keeps w s t) :
    Keeps w s (gather t a1 a2 a3 a4 a5) := h.lift hw (by
  unfold gather
  try dsimp only
  repeat' first
    | (with_reducible first
      | exact Keeps.refl | assumption | refine State.issueRow_keeps (by decide) ?_))

theorem State.rerun_keeps {w : List Fld} {s t : State} {a1 a2} (hw : [.parts] ⊆ w) (h : Keeps w s t) :
    Keeps w s (State.rerun t a1 a2) := h.lift hw (by
  unfold State.rerun
  try dsimp only
  repeat' first
    | (with_reducible first
      | exact Keeps.refl | assumption | refine State.tileWork_keeps (by decide) ?_))

theorem State.acceptRun_keeps {w : List Fld} {s t : State} {a0 a1 a2 a4} (hw : [.regs, .host, .stack, .tileW,
    .tileA, .ledge, .ue, .weak, .stackSt, .pba, .msixHeld, .outs, .islands, .units, .summit, .rings,
    .adminEvents, .parts, .ctl, .kernels, .vdes, .leases, .radio, .rope] ⊆ w) (h : Keeps w s t) :
    (∀ u, State.acceptRun a0 a1 a2 t a4 = .stop u → Keeps w s u) ∧
    (∀ u, State.acceptRun a0 a1 a2 t a4 = .mismatch u → Keeps w s u) ∧
    (∀ u r, State.acceptRun a0 a1 a2 t a4 = .ok u r → Keeps w s u) := by
  induction a2 generalizing t a4 with
  | zero =>
    refine ⟨fun u e => ?_, fun u e => ?_, fun u r e => ?_⟩ <;> simp only [State.acceptRun] at e
    · exact absurd e (by simp)
    · exact absurd e (by simp)
    · injection e with e; exact e ▸ h
  | succ n ih =>
    unfold State.acceptRun
    dsimp only
    have hv : Keeps w s (t.checksumEvent ⟨a4.die, .tile, a4.tile⟩ a4.words) :=
      State.checksumEvent_keeps (List.Subset.trans (by decide) hw) h
    split
    · split
      · split
        · split
          · exact ⟨fun u e => by injection e with e; exact e ▸ hv, fun u e => by simp at e, fun u r e => by simp at e⟩
          · split
            · exact ⟨fun u e => by simp at e, fun u e => by injection e with e; exact e ▸ hv, fun u r e => by simp at e⟩
            · exact ih (State.rerun_keeps (List.Subset.trans (by decide) hw) hv)
        · exact ⟨fun u e => by injection e with e; exact e ▸ hv, fun u e => by simp at e, fun u r e => by simp at e⟩
      · refine ⟨fun u e => by simp at e, fun u e => by simp at e, fun u r e => ?_⟩
        injection e with e
        exact e ▸ h
    · refine ⟨fun u e => by simp at e, fun u e => by simp at e, fun u r e => ?_⟩
      injection e with e
      exact e ▸ h

theorem State.applyStores_keeps {w : List Fld} {s t : State} {a1 a2} (hw : [.regs, .stack, .tileW, .tileA,
    .ledge, .ue, .weak, .stackSt, .pba, .msixHeld, .outs, .units, .summit, .parts, .ctl] ⊆ w) (h : Keeps w s
    t) :
    Keeps w s (State.applyStores t a1 a2) := h.lift hw (by
  unfold State.applyStores
  try dsimp only
  repeat' first
    | (with_reducible first
      | exact Keeps.refl | assumption | refine State.account_keeps (by decide) ?_
      | refine State.applyStore_keeps (by decide) ?_ | refine Keeps.foldl (fun _ _ _ => ?_) _ ?_)
    | dsimp only)

theorem State.hold_keeps {w : List Fld} {s t : State} {a1 a2 a3} (hw : [.parts, .kernels] ⊆ w) (h : Keeps w s
    t) :
    Keeps w s (State.hold t a1 a2 a3) := h.lift hw (by
  unfold State.hold
  try dsimp only
  repeat' first
    | (with_reducible first
      | exact Keeps.refl | assumption | refine State.putIns_keeps (by decide) ?_
      | refine State.account_keeps (by decide) ?_ | refine Keeps.ite ?_ ?_)
    | dsimp only
    | split)

theorem State.finishIns_keeps {w : List Fld} {s t : State} {a1 a2 a3} (hw : [.regs, .host, .stack, .tileW,
    .tileA, .ledge, .ue, .weak, .stackSt, .pba, .msixHeld, .outs, .islands, .units, .summit, .rings,
    .adminEvents, .parts, .ctl, .kernels, .vdes, .leases, .radio, .rope] ⊆ w) (h : Keeps w s t) :
    Keeps w s (State.finishIns t a1 a2 a3) := h.lift hw (by
  unfold State.finishIns
  try dsimp only
  repeat' first
    | (with_reducible first
      | exact Keeps.refl | assumption | refine State.failInsUe_keeps (by decide) ?_
      | refine State.failIns_keeps (by decide) ?_ | refine State.locCorrects_keeps (by decide) ?_
      | refine (State.acceptRun_keeps (by decide) ?_).1 _ (by assumption)
      | refine (State.acceptRun_keeps (by decide) ?_).2.1 _ (by assumption)
      | refine (State.acceptRun_keeps (by decide) ?_).2.2 _ _ (by assumption)
      | refine State.rerun_keeps (by decide) ?_ | refine State.hold_keeps (by decide) ?_
      | refine Keeps.ite ?_ ?_)
    | split)

theorem State.stageIns_keeps {w : List Fld} {s t : State} {a1 a2 a3} (hw : [.regs, .host, .stack, .tileW,
    .tileA, .ledge, .ue, .weak, .stackSt, .pba, .msixHeld, .outs, .islands, .units, .summit, .rings,
    .adminEvents, .parts, .ctl, .kernels, .vdes, .leases, .radio, .rope] ⊆ w) (h : Keeps w s t) :
    Keeps w s (State.stageIns t a1 a2 a3) := h.lift hw (by
  unfold State.stageIns
  try dsimp only
  repeat' first
    | (with_reducible first
      | exact Keeps.refl | assumption | refine State.putIns_keeps (by decide) ?_
      | refine State.finishIns_keeps (by decide) ?_ | refine State.failIns_keeps (by decide) ?_
      | refine Keeps.ite ?_ ?_)
    | split)

theorem State.foldPart_keeps {w : List Fld} {s t : State} {a1 a2 a3} (hw : [.regs, .host, .stack, .tileW,
    .tileA, .ledge, .ue, .weak, .stackSt, .pba, .msixHeld, .outs, .islands, .units, .summit, .rings,
    .adminEvents, .parts, .ctl, .kernels, .vdes, .leases, .radio, .rope] ⊆ w) (h : Keeps w s t) :
    Keeps w s (State.foldPart t a1 a2 a3) := h.lift hw (by
  unfold State.foldPart
  try dsimp only
  repeat' first
    | (with_reducible first
      | exact Keeps.refl | assumption | refine State.stageIns_keeps (by decide) ?_
      | refine State.failInsUe_keeps (by decide) ?_ | refine State.locCorrects_keeps (by decide) ?_
      | refine State.hold_keeps (by decide) ?_ | refine Keeps.ite ?_ ?_)
    | split)

theorem State.afterRun_keeps {w : List Fld} {s t : State} {a1 a2 a3} (hw : [.regs, .host, .stack, .tileW,
    .tileA, .ledge, .ue, .weak, .stackSt, .pba, .msixHeld, .outs, .islands, .units, .summit, .rings,
    .adminEvents, .parts, .ctl, .kernels, .vdes, .leases, .radio, .rope] ⊆ w) (h : Keeps w s t) :
    Keeps w s (State.afterRun t a1 a2 a3) := h.lift hw (by
  unfold State.afterRun
  try dsimp only
  repeat' first
    | (with_reducible first
      | exact Keeps.refl | assumption | refine State.foldPart_keeps (by decide) ?_
      | refine State.putIns_keeps (by decide) ?_ | refine State.stageIns_keeps (by decide) ?_
      | refine Keeps.ite ?_ ?_)
    | split)

theorem State.epilogueRow_keeps {w : List Fld} {s t : State} {a1 a2 a3 a4} (hw : [.regs, .host, .stack,
    .tileW, .tileA, .ledge, .ue, .weak, .stackSt, .pba, .msixHeld, .outs, .islands, .units, .summit, .rings,
    .adminEvents, .parts, .ctl, .kernels, .vdes, .leases, .radio, .rope] ⊆ w) (h : Keeps w s t) :
    Keeps w s (State.epilogueRow t a1 a2 a3 a4) := h.lift hw (by
  unfold State.epilogueRow
  try dsimp only
  repeat' first
    | (with_reducible first
      | exact Keeps.refl | assumption | refine (State.acceptRun_keeps (by decide) ?_).1 _ (by assumption)
      | refine (State.acceptRun_keeps (by decide) ?_).2.1 _ (by assumption)
      | refine (State.acceptRun_keeps (by decide) ?_).2.2 _ _ (by assumption)
      | refine State.failIns_keeps (by decide) ?_ | refine State.afterRun_keeps (by decide) ?_
      | refine Keeps.ite ?_ ?_)
    | split)

theorem epilogue_keeps {w : List Fld} {s t : State} {a1 a2 a3} (hw : [.regs, .host, .stack, .tileW, .tileA,
    .ledge, .ue, .weak, .stackSt, .pba, .msixHeld, .outs, .islands, .units, .summit, .rings, .adminEvents,
    .parts, .ctl, .kernels, .vdes, .leases, .radio, .rope] ⊆ w) (h : Keeps w s t) :
    Keeps w s (epilogue t a1 a2 a3) := h.lift hw (by
  unfold epilogue
  try dsimp only
  repeat' first
    | (with_reducible first
      | exact Keeps.refl | assumption | refine State.epilogueRow_keeps (by decide) ?_))

theorem biasAct_keeps {w : List Fld} {s t : State} {a1 a2 a3} (hw : [.regs, .host, .stack, .tileW, .tileA,
    .ledge, .ue, .weak, .stackSt, .pba, .msixHeld, .outs, .islands, .units, .summit, .rings, .adminEvents,
    .parts, .ctl, .kernels, .vdes, .leases, .radio, .rope] ⊆ w) (h : Keeps w s t) :
    Keeps w s (biasAct t a1 a2 a3) := h.lift hw (by
  unfold biasAct
  try dsimp only
  repeat' first
    | (with_reducible first
      | exact Keeps.refl | assumption | refine State.epilogueRow_keeps (by decide) ?_))

theorem biasActRes_keeps {w : List Fld} {s t : State} {a1 a2 a3} (hw : [.regs, .host, .stack, .tileW, .tileA,
    .ledge, .ue, .weak, .stackSt, .pba, .msixHeld, .outs, .islands, .units, .summit, .rings, .adminEvents,
    .parts, .ctl, .kernels, .vdes, .leases, .radio, .rope] ⊆ w) (h : Keeps w s t) :
    Keeps w s (biasActRes t a1 a2 a3) := h.lift hw (by
  unfold biasActRes
  try dsimp only
  repeat' first
    | (with_reducible first
      | exact Keeps.refl | assumption | refine State.epilogueRow_keeps (by decide) ?_))

theorem dequantAct_keeps {w : List Fld} {s t : State} {a1 a2 a3} (hw : [.regs, .host, .stack, .tileW, .tileA,
    .ledge, .ue, .weak, .stackSt, .pba, .msixHeld, .outs, .islands, .units, .summit, .rings, .adminEvents,
    .parts, .ctl, .kernels, .vdes, .leases, .radio, .rope] ⊆ w) (h : Keeps w s t) :
    Keeps w s (dequantAct t a1 a2 a3) := h.lift hw (by
  unfold dequantAct
  try dsimp only
  repeat' first
    | (with_reducible first
      | exact Keeps.refl | assumption | refine State.epilogueRow_keeps (by decide) ?_))

theorem rowStats_keeps {w : List Fld} {s t : State} {a1 a2 a3} (hw : [.regs, .host, .stack, .tileW, .tileA,
    .ledge, .ue, .weak, .stackSt, .pba, .msixHeld, .outs, .islands, .units, .summit, .rings, .adminEvents,
    .parts, .ctl, .kernels, .vdes, .leases, .radio, .rope] ⊆ w) (h : Keeps w s t) :
    Keeps w s (rowStats t a1 a2 a3) := h.lift hw (by
  unfold rowStats
  try dsimp only
  repeat' first
    | (with_reducible first
      | exact Keeps.refl | assumption | refine State.epilogueRow_keeps (by decide) ?_))

theorem layernormMm_keeps {w : List Fld} {s t : State} {a1 a2 a3} (hw : [.regs, .host, .stack, .tileW, .tileA,
    .ledge, .ue, .weak, .stackSt, .pba, .msixHeld, .outs, .islands, .units, .summit, .rings, .adminEvents,
    .parts, .ctl, .kernels, .vdes, .leases, .radio, .rope] ⊆ w) (h : Keeps w s t) :
    Keeps w s (layernormMm t a1 a2 a3) := h.lift hw (by
  unfold layernormMm
  try dsimp only
  repeat' first
    | (with_reducible first
      | exact Keeps.refl | assumption | refine State.epilogueRow_keeps (by decide) ?_))

theorem rmsnormMm_keeps {w : List Fld} {s t : State} {a1 a2 a3} (hw : [.regs, .host, .stack, .tileW, .tileA,
    .ledge, .ue, .weak, .stackSt, .pba, .msixHeld, .outs, .islands, .units, .summit, .rings, .adminEvents,
    .parts, .ctl, .kernels, .vdes, .leases, .radio, .rope] ⊆ w) (h : Keeps w s t) :
    Keeps w s (rmsnormMm t a1 a2 a3) := h.lift hw (by
  unfold rmsnormMm
  try dsimp only
  repeat' first
    | (with_reducible first
      | exact Keeps.refl | assumption | refine State.epilogueRow_keeps (by decide) ?_))

theorem gated_keeps {w : List Fld} {s t : State} {a1 a2 a3} (hw : [.regs, .host, .stack, .tileW, .tileA,
    .ledge, .ue, .weak, .stackSt, .pba, .msixHeld, .outs, .islands, .units, .summit, .rings, .adminEvents,
    .parts, .ctl, .kernels, .vdes, .leases, .radio, .rope] ⊆ w) (h : Keeps w s t) :
    Keeps w s (gated t a1 a2 a3) := h.lift hw (by
  unfold gated
  try dsimp only
  repeat' first
    | (with_reducible first
      | exact Keeps.refl | assumption | refine State.epilogueRow_keeps (by decide) ?_))

theorem attentionOnline_keeps {w : List Fld} {s t : State} {a1 a2 a3} (hw : [.regs, .host, .stack, .tileW,
    .tileA, .ledge, .ue, .weak, .stackSt, .pba, .msixHeld, .outs, .islands, .units, .summit, .rings,
    .adminEvents, .parts, .ctl, .kernels, .vdes, .leases, .radio, .rope] ⊆ w) (h : Keeps w s t) :
    Keeps w s (attentionOnline t a1 a2 a3) := h.lift hw (by
  unfold attentionOnline
  try dsimp only
  repeat' first
    | (with_reducible first
      | exact Keeps.refl | assumption | refine State.epilogueRow_keeps (by decide) ?_))

theorem attentionTwoPass_keeps {w : List Fld} {s t : State} {a1 a2 a3} (hw : [.regs, .host, .stack, .tileW,
    .tileA, .ledge, .ue, .weak, .stackSt, .pba, .msixHeld, .outs, .islands, .units, .summit, .rings,
    .adminEvents, .parts, .ctl, .kernels, .vdes, .leases, .radio, .rope] ⊆ w) (h : Keeps w s t) :
    Keeps w s (attentionTwoPass t a1 a2 a3) := h.lift hw (by
  unfold attentionTwoPass
  try dsimp only
  repeat' first
    | (with_reducible first
      | exact Keeps.refl | assumption | refine State.epilogueRow_keeps (by decide) ?_))

theorem routerTopk_keeps {w : List Fld} {s t : State} {a1 a2 a3} (hw : [.regs, .host, .stack, .tileW, .tileA,
    .ledge, .ue, .weak, .stackSt, .pba, .msixHeld, .outs, .islands, .units, .summit, .rings, .adminEvents,
    .parts, .ctl, .kernels, .vdes, .leases, .radio, .rope] ⊆ w) (h : Keeps w s t) :
    Keeps w s (routerTopk t a1 a2 a3) := h.lift hw (by
  unfold routerTopk
  try dsimp only
  repeat' first
    | (with_reducible first
      | exact Keeps.refl | assumption | refine State.epilogueRow_keeps (by decide) ?_))

theorem dynamicQuant_keeps {w : List Fld} {s t : State} {a1 a2 a3} (hw : [.regs, .host, .stack, .tileW,
    .tileA, .ledge, .ue, .weak, .stackSt, .pba, .msixHeld, .outs, .islands, .units, .summit, .rings,
    .adminEvents, .parts, .ctl, .kernels, .vdes, .leases, .radio, .rope] ⊆ w) (h : Keeps w s t) :
    Keeps w s (dynamicQuant t a1 a2 a3) := h.lift hw (by
  unfold dynamicQuant
  try dsimp only
  repeat' first
    | (with_reducible first
      | exact Keeps.refl | assumption | refine State.epilogueRow_keeps (by decide) ?_))

theorem colPool_keeps {w : List Fld} {s t : State} {a1 a2 a3} (hw : [.regs, .host, .stack, .tileW, .tileA,
    .ledge, .ue, .weak, .stackSt, .pba, .msixHeld, .outs, .islands, .units, .summit, .rings, .adminEvents,
    .parts, .ctl, .kernels, .vdes, .leases, .radio, .rope] ⊆ w) (h : Keeps w s t) :
    Keeps w s (colPool t a1 a2 a3) := h.lift hw (by
  unfold colPool
  try dsimp only
  repeat' first
    | (with_reducible first
      | exact Keeps.refl | assumption | refine State.epilogueRow_keeps (by decide) ?_))

theorem peerAccum_keeps {w : List Fld} {s t : State} {a1 a2 a3} (hw : [.regs, .host, .stack, .tileW, .tileA,
    .ledge, .ue, .weak, .stackSt, .pba, .msixHeld, .outs, .islands, .units, .summit, .rings, .adminEvents,
    .parts, .ctl, .kernels, .vdes, .leases, .radio, .rope] ⊆ w) (h : Keeps w s t) :
    Keeps w s (peerAccum t a1 a2 a3) := h.lift hw (by
  unfold peerAccum
  try dsimp only
  repeat' first
    | (with_reducible first
      | exact Keeps.refl | assumption | refine State.epilogueRow_keeps (by decide) ?_))

theorem splitPartResume_keeps {w : List Fld} {s t : State} {a0 a1 a2} (hw : [.regs, .host, .stack, .tileW,
    .tileA, .ledge, .ue, .weak, .stackSt, .pba, .msixHeld, .outs, .islands, .units, .summit, .rings,
    .adminEvents, .parts, .ctl, .kernels, .vdes, .leases, .radio, .rope] ⊆ w) (h : Keeps w s t) :
    Keeps w s (splitPartResume a0 a1 a2 t) := h.lift hw (by
  unfold splitPartResume
  try dsimp only
  repeat' first
    | (with_reducible first
      | exact Keeps.refl | assumption | refine State.foldPart_keeps (by decide) ?_ | refine Keeps.ite ?_ ?_)
    | split)

theorem State.timeoutIns_keeps {w : List Fld} {s t : State} {a1 a2 a3} (hw : [.regs, .stack, .tileW, .tileA,
    .ledge, .ue, .weak, .stackSt, .pba, .msixHeld, .outs, .units, .summit, .rings, .parts, .ctl, .kernels,
    .rope] ⊆ w) (h : Keeps w s t) :
    Keeps w s (State.timeoutIns t a1 a2 a3) := h.lift hw (by
  unfold State.timeoutIns
  try dsimp only
  repeat' first
    | (with_reducible first
      | exact Keeps.refl | assumption | refine State.failIns_keeps (by decide) ?_ | refine Keeps.ite ?_ ?_)
    | split)

theorem splitTimeout_keeps {w : List Fld} {s t : State} {a0 a1} (hw : [.regs, .stack, .tileW, .tileA, .ledge,
    .ue, .weak, .stackSt, .pba, .msixHeld, .outs, .units, .summit, .rings, .parts, .ctl, .kernels, .rope] ⊆ w)
    (h : Keeps w s t) :
    Keeps w s (splitTimeout a0 a1 t) := h.lift hw (by
  unfold splitTimeout
  try dsimp only
  repeat' first
    | (with_reducible first
      | exact Keeps.refl | assumption | refine State.timeoutIns_keeps (by decide) ?_)
    | split)

theorem chainBufferReady_keeps {w : List Fld} {s t : State} {a0 a1 a2} (hw : [.regs, .host, .stack, .tileW,
    .tileA, .ledge, .ue, .weak, .stackSt, .pba, .msixHeld, .outs, .islands, .units, .summit, .rings,
    .adminEvents, .parts, .ctl, .kernels, .vdes, .leases, .radio, .rope] ⊆ w) (h : Keeps w s t) :
    Keeps w s (chainBufferReady a0 a1 a2 t) := h.lift hw (by
  unfold chainBufferReady
  try dsimp only
  repeat' first
    | (with_reducible first
      | exact Keeps.refl | assumption | refine State.finishIns_keeps (by decide) ?_
      | refine State.failIns_keeps (by decide) ?_ | refine State.streamIns_keeps (by decide) ?_)
    | split)

theorem chainTimeout_keeps {w : List Fld} {s t : State} {a0 a1} (hw : [.regs, .stack, .tileW, .tileA, .ledge,
    .ue, .weak, .stackSt, .pba, .msixHeld, .outs, .units, .summit, .rings, .parts, .ctl, .kernels, .rope] ⊆ w)
    (h : Keeps w s t) :
    Keeps w s (chainTimeout a0 a1 t) := h.lift hw (by
  unfold chainTimeout
  try dsimp only
  repeat' first
    | (with_reducible first
      | exact Keeps.refl | assumption | refine State.timeoutIns_keeps (by decide) ?_)
    | split)

theorem State.commitIns_keeps {w : List Fld} {s t : State} {a1 a2 a3} (hw : [.regs, .host, .stack, .tileW,
    .tileA, .ledge, .ue, .weak, .stackSt, .pba, .msixHeld, .outs, .islands, .units, .summit, .rings,
    .adminEvents, .parts, .ctl, .kernels, .vdes, .leases, .radio, .rope] ⊆ w) (h : Keeps w s t) :
    Keeps w s (State.commitIns t a1 a2 a3) := h.lift hw (by
  unfold State.commitIns
  try dsimp only
  repeat' first
    | (with_reducible first
      | exact Keeps.refl | assumption | refine State.failInsOr_keeps (by decide) ?_
      | refine State.putIns_keeps (by decide) ?_ | refine State.applyStores_keeps (by decide) ?_
      | refine State.kernelBoundary_keeps (by decide) ?_ | refine State.settle_keeps (by decide) ?_
      | refine Keeps.ite ?_ ?_)
    | dsimp only
    | split)

theorem blockCommit_keeps {w : List Fld} {s t : State} {a0 a1 a2} (hw : [.regs, .host, .stack, .tileW, .tileA,
    .ledge, .ue, .weak, .stackSt, .pba, .msixHeld, .outs, .islands, .units, .summit, .rings, .adminEvents,
    .parts, .ctl, .kernels, .vdes, .leases, .radio, .rope] ⊆ w) (h : Keeps w s t) :
    Keeps w s (blockCommit a0 a1 a2 t) := h.lift hw (by
  unfold blockCommit
  try dsimp only
  repeat' first
    | (with_reducible first
      | exact Keeps.refl | assumption | refine State.commitIns_keeps (by decide) ?_ | refine Keeps.ite ?_ ?_)
    | split)

theorem State.reissueOn_keeps {w : List Fld} {s t : State} {a1} (hw : [.regs, .host, .stack, .tileW, .tileA,
    .ledge, .ue, .weak, .stackSt, .pba, .msixHeld, .outs, .islands, .units, .summit, .rings, .adminEvents,
    .parts, .ctl, .kernels, .vdes, .leases, .radio, .rope] ⊆ w) (h : Keeps w s t) :
    Keeps w s (State.reissueOn t a1) := h.lift hw (by
  unfold State.reissueOn
  try dsimp only
  repeat' first
    | (with_reducible first
      | exact Keeps.refl | assumption | refine State.putIns_keeps (by decide) ?_
      | refine State.startIns_keeps (by decide) ?_ | refine Keeps.foldl (fun _ _ _ => ?_) _ ?_
      | refine Keeps.ite ?_ ?_)
    | dsimp only
    | split)

theorem substitutionReissue_keeps {w : List Fld} {s t : State} {a0} (hw : [.regs, .host, .stack, .tileW,
    .tileA, .ledge, .ue, .weak, .stackSt, .pba, .msixHeld, .outs, .islands, .units, .summit, .rings,
    .adminEvents, .parts, .ctl, .kernels, .vdes, .leases, .radio, .rope] ⊆ w) (h : Keeps w s t) :
    Keeps w s (substitutionReissue a0 t) := h.lift hw (by
  unfold substitutionReissue
  try dsimp only
  repeat' first
    | with_reducible exact Or.inl rfl
    | exact Or.inr (And.intro (by decide) (fun hk => by simp [hk]))
    | (with_reducible first
      | exact Or.inr (by decide) | exact Keeps.refl | assumption | refine State.record_keeps (by decide) ?_
      | refine State.reissueOn_keeps (by decide) ?_ | refine State.markFault_keeps (by decide) ?_
      | refine State.nextSubst_keeps (by decide) ?_ | refine State.maybeSave_keeps (by decide) ?_
      | refine Keeps.foldl (fun _ _ _ => ?_) _ ?_ | refine Keeps.ite ?_ ?_)
    | dsimp only
    | split
    | with_reducible apply Keeps.update)

theorem State.setStackTemp_keeps {w : List Fld} {s t : State} {a1 a2} (hw : [.regs] ⊆ w) (h : Keeps w s t) :
    Keeps w s (State.setStackTemp t a1 a2) := h.lift hw (by
  unfold State.setStackTemp
  try dsimp only
  repeat' first
    | (with_reducible first
      | exact Keeps.refl | assumption | refine State.setReg_keeps (by decide) ?_))

theorem State.decay_keeps {w : List Fld} {s t : State} {a1 a2 a3 a4} (hw : [.ue, .weak] ⊆ w) (h : Keeps w s t) :
    Keeps w s (State.decay t a1 a2 a3 a4) := h.lift hw (by
  unfold State.decay
  try dsimp only
  repeat' first
    | with_reducible exact Or.inl rfl
    | exact Or.inr (And.intro (by decide) (fun hk => by simp [hk]))
    | (with_reducible first
      | exact Or.inr (by decide) | exact Keeps.refl | assumption | refine Keeps.foldl (fun _ _ _ => ?_) _ ?_
      | refine Keeps.foldl_fst (fun _ _ _ => ?_) _ ?_ | refine Keeps.ite ?_ ?_)
    | dsimp only
    | split
    | with_reducible apply Keeps.update)

theorem refresh_keeps {w : List Fld} {s t : State} {a0 a1 a2 a3 a4 a5} (hw : [.regs, .ue, .weak, .stackSt,
    .power] ⊆ w) (h : Keeps w s t) :
    Keeps w s (refresh a0 a1 a2 a3 a4 a5 t) := h.lift hw (by
  unfold refresh
  try dsimp only
  repeat' first
    | with_reducible exact Or.inl rfl
    | exact Or.inr (And.intro (by decide) (fun hk => by simp [hk]))
    | (with_reducible first
      | exact Or.inr (by decide) | exact Keeps.refl | assumption
      | refine State.setStackTemp_keeps (by decide) ?_ | refine State.decay_keeps (by decide) ?_
      | refine Keeps.ite ?_ ?_)
    | dsimp only
    | split
    | with_reducible apply Keeps.update)

theorem patrolRead_keeps {w : List Fld} {s t : State} {a0 a1} (hw : [.regs, .ue, .weak, .stackSt, .pba,
    .msixHeld, .outs, .units, .summit, .ctl] ⊆ w) (h : Keeps w s t) :
    Keeps w s (patrolRead a0 a1 t) := h.lift hw (by
  unfold patrolRead
  try dsimp only
  repeat' first
    | with_reducible exact Or.inl rfl
    | exact Or.inr (And.intro (by decide) (fun hk => by simp [hk]))
    | (with_reducible first
      | exact Or.inr (by decide) | exact Keeps.refl | assumption
      | refine State.stackCorrected_keeps (by decide) ?_ | refine State.recordUe_keeps (by decide) ?_
      | refine Keeps.ite ?_ ?_)
    | dsimp only
    | split
    | with_reducible apply Keeps.update)

theorem State.declareLine_keeps {w : List Fld} {s t : State} {a1} (hw : [.regs, .stackSt, .pba, .msixHeld,
    .outs, .summit, .ctl] ⊆ w) (h : Keeps w s t) :
    Keeps w s (State.declareLine t a1) := h.lift hw (by
  unfold State.declareLine
  try dsimp only
  repeat' first
    | with_reducible exact Or.inl rfl
    | exact Or.inr (And.intro (by decide) (fun hk => by simp [hk]))
    | (with_reducible first
      | exact Or.inr (by decide) | exact Keeps.refl | assumption
      | refine State.noteDeclared_keeps (by decide) ?_ | refine Keeps.ite ?_ ?_)
    | split
    | with_reducible apply Keeps.update)

theorem State.lineFault_keeps {w : List Fld} {s t : State} {a1 a2} (hw : [.regs, .stackSt, .pba, .msixHeld,
    .outs, .units, .summit, .ctl] ⊆ w) (h : Keeps w s t) :
    Keeps w s (State.lineFault t a1 a2) := h.lift hw (by
  unfold State.lineFault
  try dsimp only
  repeat' first
    | (with_reducible first
      | exact Keeps.refl | assumption | refine State.addFault_keeps (by decide) ?_
      | refine State.record_keeps (by decide) ?_ | refine State.declareLine_keeps (by decide) ?_
      | refine Keeps.ite ?_ ?_)
    | dsimp only
    | split)

theorem State.replaceLine_keeps {w : List Fld} {s t : State} {a1} (hw : [.stackSt] ⊆ w) (h : Keeps w s t) :
    Keeps w s (State.replaceLine t a1) := h.lift hw (by
  unfold State.replaceLine
  try dsimp only
  repeat' first
    | with_reducible exact Or.inl rfl
    | exact Or.inr (And.intro (by decide) (fun hk => by simp [hk]))
    | (with_reducible first
      | exact Or.inr (by decide) | exact Keeps.refl | assumption | refine Keeps.ite ?_ ?_)
    | dsimp only
    | split
    | with_reducible apply Keeps.update)

theorem State.trainStacks_keeps {w : List Fld} {s t : State} {a1} (hw : [.regs, .stackSt, .pba, .msixHeld,
    .outs, .units, .summit, .ctl] ⊆ w) (h : Keeps w s t) :
    Keeps w s (State.trainStacks t a1) := h.lift hw (by
  unfold State.trainStacks
  try dsimp only
  repeat' first
    | (with_reducible first
      | exact Keeps.refl | assumption | refine State.lineFault_keeps (by decide) ?_
      | refine State.replaceLine_keeps (by decide) ?_ | refine State.declareLine_keeps (by decide) ?_
      | refine Keeps.foldl (fun _ _ _ => ?_) _ ?_)
    | dsimp only)

theorem State.gxCommand_keeps {w : List Fld} {s t : State} {a1 a2 a3 a4 a5} (hw : [.regs, .host, .stack,
    .tileW, .tileA, .ledge, .ue, .weak, .stackSt, .pba, .msixHeld, .outs, .islands, .units, .summit, .rings,
    .adminEvents, .parts, .ctl, .kernels, .vdes, .leases, .radio, .rope] ⊆ w) (h : Keeps w s t) :
    Keeps w s (State.gxCommand t a1 a2 a3 a4 a5) := h.lift hw (by
  unfold State.gxCommand
  try dsimp only
  repeat' first
    | (with_reducible first
      | exact Keeps.refl | assumption | refine State.failIns_keeps (by decide) ?_
      | refine State.failInsUe_keeps (by decide) ?_ | refine State.account_keeps (by decide) ?_
      | refine State.putIns_keeps (by decide) ?_ | refine State.locCorrects_keeps (by decide) ?_
      | refine Keeps.ite ?_ ?_)
    | dsimp only
    | split)

theorem expand_keeps {w : List Fld} {s t : State} {a0 a1 a2} (hw : [.regs, .host, .stack, .tileW, .tileA,
    .ledge, .ue, .weak, .stackSt, .pba, .msixHeld, .outs, .islands, .units, .summit, .rings, .adminEvents,
    .parts, .ctl, .kernels, .vdes, .leases, .radio, .rope] ⊆ w) (h : Keeps w s t) :
    Keeps w s (expand a0 a1 a2 t) := h.lift hw (by
  unfold expand
  try dsimp only
  repeat' first
    | (with_reducible first
      | exact Keeps.refl | assumption | refine State.gxCommand_keeps (by decide) ?_)
    | dsimp only)

theorem bucket_keeps {w : List Fld} {s t : State} {a0 a1 a2} (hw : [.regs, .host, .stack, .tileW, .tileA,
    .ledge, .ue, .weak, .stackSt, .pba, .msixHeld, .outs, .islands, .units, .summit, .rings, .adminEvents,
    .parts, .ctl, .kernels, .vdes, .leases, .radio, .rope] ⊆ w) (h : Keeps w s t) :
    Keeps w s (bucket a0 a1 a2 t) := h.lift hw (by
  unfold bucket
  try dsimp only
  repeat' first
    | (with_reducible first
      | exact Keeps.refl | assumption | refine State.gxCommand_keeps (by decide) ?_))

theorem gatherRows_keeps {w : List Fld} {s t : State} {a0 a1 a2} (hw : [.regs, .host, .stack, .tileW, .tileA,
    .ledge, .ue, .weak, .stackSt, .pba, .msixHeld, .outs, .islands, .units, .summit, .rings, .adminEvents,
    .parts, .ctl, .kernels, .vdes, .leases, .radio, .rope] ⊆ w) (h : Keeps w s t) :
    Keeps w s (gatherRows a0 a1 a2 t) := h.lift hw (by
  unfold gatherRows
  try dsimp only
  repeat' first
    | (with_reducible first
      | exact Keeps.refl | assumption | refine State.gxCommand_keeps (by decide) ?_)
    | dsimp only)

end Sys2Proof.Machine
end

