-- ==== Sys2Proof/Laws/KeepsRope.lean ====
section
/-! SUPPORT. What the operations of the Rope fabric may write: for each, the parts
of the state it changes at most, and that it keeps the maps canonical. -/

-- The many lemmas below are elaborated one after another: the package is checked as one text, and fewer wait at once.
set_option Elab.async false

namespace Sys2Proof.Machine

theorem State.setRope_keeps {w : List Fld} {s t : State} {a1} (hw : [.rope] ⊆ w) (h : Keeps w s t) :
    Keeps w s (State.setRope t a1) := h.lift hw (by
  unfold State.setRope
  try dsimp only
  repeat' first
    | with_reducible exact Or.inl rfl
    | exact Or.inr (And.intro (by decide) (fun hk => by simp [hk]))
    | (with_reducible first
      | exact Or.inr (by decide) | exact Keeps.refl | assumption | apply Keeps.update))

theorem State.setWindow_keeps {w : List Fld} {s t : State} {a1 a2 a3} (hw : [.rope] ⊆ w) (h : Keeps w s t) :
    Keeps w s (State.setWindow t a1 a2 a3) := h.lift hw (by
  unfold State.setWindow
  try dsimp only
  repeat' first
    | (with_reducible first
      | exact Keeps.refl | assumption | refine State.setRope_keeps (by decide) ?_)
    | dsimp only)

theorem State.noteOp_keeps {w : List Fld} {s t : State} {a1} (hw : [.regs, .pba, .msixHeld, .outs, .ctl,
    .rope] ⊆ w) (h : Keeps w s t) :
    Keeps w s (State.noteOp t a1) := h.lift hw (by
  unfold State.noteOp
  try dsimp only
  repeat' first
    | (with_reducible first
      | exact Keeps.refl | assumption | refine State.setRope_keeps (by decide) ?_
      | refine State.edge_keeps (by decide) ?_ | refine State.setReg_keeps (by decide) ?_
      | refine Keeps.ite ?_ ?_)
    | dsimp only
    | split)

theorem State.rgnWrite_keeps {w : List Fld} {s t : State} {a1 a2 a3} (hw : [.regs, .stack, .tileW, .tileA,
    .ledge, .ue, .weak, .stackSt, .pba, .msixHeld, .outs, .units, .summit, .ctl] ⊆ w) (h : Keeps w s t) :
    Keeps w s (State.rgnWrite t a1 a2 a3) := h.lift hw (by
  unfold State.rgnWrite
  try dsimp only
  repeat' first
    | (with_reducible first
      | exact Keeps.refl | assumption | refine State.writePieces_keeps (by decide) ?_))

theorem State.homeAct_keeps {w : List Fld} {s t : State} {a1} (hw : [.regs, .stack, .tileW, .tileA, .ledge,
    .ue, .weak, .stackSt, .pba, .msixHeld, .outs, .units, .summit, .ctl] ⊆ w) (h : Keeps w s t) (r : _)
    (hr : State.homeAct t a1 = r) : Keeps w s r.1 := by
  subst hr
  unfold State.homeAct
  split
  · exact h
  · exact h
  · exact State.rgnWrite_keeps (List.Subset.trans (by decide) hw) h
  · exact State.rgnWrite_keeps (List.Subset.trans (by decide) hw) h
  · exact State.setRf_keeps (List.Subset.trans (by decide) hw) h
  · exact State.rgnWrite_keeps (List.Subset.trans (by decide) hw) h

theorem State.homeReads_keeps {w : List Fld} {s t : State} {a1} (hw : [.regs, .weak, .stackSt, .pba,
    .msixHeld, .outs, .units, .summit, .ctl] ⊆ w) (h : Keeps w s t) :
    Keeps w s (State.homeReads t a1) := h.lift hw (by
  unfold State.homeReads
  try dsimp only
  repeat' first
    | (with_reducible first
      | exact Keeps.refl | assumption | refine State.corrects_keeps (by decide) ?_)
    | split)

theorem State.homeMedia_keeps {w : List Fld} {s t : State} {a1 a2} (hw : [.regs, .pba, .msixHeld, .outs,
    .summit, .ctl] ⊆ w) (h : Keeps w s t) (r : _)
    (hr : State.homeMedia t a1 a2 = r) : Keeps w s r.1 := by
  subst hr
  exact State.failUe_keeps hw h

theorem State.homeCarry_keeps {w : List Fld} {s t : State} {a1 a2 a3} (hw : [.regs, .stack, .tileW, .tileA,
    .ledge, .ue, .weak, .stackSt, .pba, .msixHeld, .outs, .units, .summit, .ctl, .rope] ⊆ w) (h : Keeps w s t)
    (r : _)
    (hr : State.homeCarry t a1 a2 a3 = r) : Keeps w s r.1 := h.lift hw (by
  subst hr
  unfold State.homeCarry
  try dsimp only
  repeat' first
    | (with_reducible first
      | exact Keeps.refl | assumption | refine State.homeMedia_keeps (by decide) ?_ _ rfl
      | refine State.homeMedia_keeps (by decide) ?_ _ (by assumption)
      | refine State.homeAct_keeps (by decide) ?_ _ rfl
      | refine State.homeAct_keeps (by decide) ?_ _ (by assumption)
      | refine State.homeReads_keeps (by decide) ?_ | refine State.setWindow_keeps (by decide) ?_
      | refine Keeps.ite ?_ ?_ | refine Keeps.ite_fst ?_ ?_)
    | split)

theorem State.homeAccepted_keeps {w : List Fld} {s t : State} {a1} (hw : [.regs, .stack, .tileW, .tileA,
    .ledge, .ue, .weak, .stackSt, .pba, .msixHeld, .outs, .units, .summit, .ctl, .rope] ⊆ w) (h : Keeps w s t)
    (r : _)
    (hr : State.homeAccepted t a1 = r) : Keeps w s r.1 := h.lift hw (by
  subst hr
  unfold State.homeAccepted
  try dsimp only
  repeat' first
    | (with_reducible first
      | exact Keeps.refl | assumption | refine State.noteOp_keeps (by decide) ?_
      | refine State.homeCarry_keeps (by decide) ?_ _ rfl
      | refine State.homeCarry_keeps (by decide) ?_ _ (by assumption)
      | refine State.setWindow_keeps (by decide) ?_ | refine Keeps.ite ?_ ?_ | refine Keeps.ite_fst ?_ ?_)
    | split)

theorem State.homeApply_keeps {w : List Fld} {s t : State} {a1} (hw : [.regs, .stack, .tileW, .tileA, .ledge,
    .ue, .weak, .stackSt, .pba, .msixHeld, .outs, .units, .summit, .ctl, .rope] ⊆ w) (h : Keeps w s t) (r : _)
    (hr : State.homeApply t a1 = r) : Keeps w s r.1 := by
  subst hr
  unfold State.homeApply
  split
  · exact h
  · exact State.homeAccepted_keeps (List.Subset.trans (by decide) hw) h _ rfl

theorem State.ropeOut_keeps {w : List Fld} {s t : State} {a1} (hw : [.outs] ⊆ w) (h : Keeps w s t) :
    Keeps w s (State.ropeOut t a1) := h.lift hw (by
  unfold State.ropeOut
  try dsimp only
  repeat' first
    | with_reducible exact Or.inl rfl
    | exact Or.inr (And.intro (by decide) (fun hk => by simp [hk]))
    | (with_reducible first
      | exact Or.inr (by decide) | exact Keeps.refl | assumption | apply Keeps.update))

theorem State.relayAge_keeps {w : List Fld} {s t : State} (hw : [.rope] ⊆ w) (h : Keeps w s t) :
    Keeps w s (State.relayAge t) := h.lift hw (by
  unfold State.relayAge
  try dsimp only
  repeat' first
    | (with_reducible first
      | exact Keeps.refl | assumption | refine State.setRope_keeps (by decide) ?_
      | refine Keeps.foldl (fun _ _ _ => ?_) _ ?_)
    | dsimp only)

theorem State.relay_keeps {w : List Fld} {s t : State} {a1 a2 a3} (hw : [.rope] ⊆ w) (h : Keeps w s t) (r : _)
    (hr : State.relay t a1 a2 a3 = r) : Keeps w s r.1 := by
  subst hr
  have ha : Keeps w s t.relayAge := State.relayAge_keeps (List.Subset.trans (by decide) hw) h
  unfold State.relay
  dsimp only
  split
  · exact ha
  · split
    · exact ha
    · exact State.setRope_keeps (List.Subset.trans (by decide) hw) ha

theorem State.chunkOut_keeps {w : List Fld} {s t : State} {a1 a2 a3} (hw : [.outs] ⊆ w) (h : Keeps w s t) :
    Keeps w s (State.chunkOut t a1 a2 a3) := h.lift hw (by
  unfold State.chunkOut
  try dsimp only
  repeat' first
    | (with_reducible first
      | exact Keeps.refl | assumption | refine State.ropeOut_keeps (by decide) ?_))

theorem State.gatherReply_keeps {w : List Fld} {s t : State} {a1 a2} (hw : [.outs, .rope] ⊆ w) (h : Keeps w s
    t) :
    Keeps w s (State.gatherReply t a1 a2) := h.lift hw (by
  unfold State.gatherReply
  try dsimp only
  repeat' first
    | (with_reducible first
      | exact Keeps.refl | assumption | refine State.chunkOut_keeps (by decide) ?_
      | refine State.setRope_keeps (by decide) ?_ | refine Keeps.ite ?_ ?_)
    | dsimp only
    | split)

theorem State.sendBack_keeps {w : List Fld} {s t : State} {a1} (hw : [.outs, .rope] ⊆ w) (h : Keeps w s t) :
    Keeps w s (State.sendBack t a1) := h.lift hw (by
  unfold State.sendBack
  try dsimp only
  repeat' first
    | (with_reducible first
      | exact Keeps.refl | assumption | refine State.ropeOut_keeps (by decide) ?_
      | refine State.gatherReply_keeps (by decide) ?_ | refine Keeps.ite ?_ ?_)
    | dsimp only
    | split)

theorem State.sendReply_keeps {w : List Fld} {s t : State} {a1} (hw : [.outs, .rope] ⊆ w) (h : Keeps w s t) :
    Keeps w s (State.sendReply t a1) := h.lift hw (by
  unfold State.sendReply
  try dsimp only
  repeat' first
    | (with_reducible first
      | exact Keeps.refl | assumption | refine State.sendBack_keeps (by decide) ?_
      | refine State.ropeOut_keeps (by decide) ?_ | refine Keeps.ite ?_ ?_)
    | split)

theorem State.gather_keeps {w : List Fld} {s t : State} {a1 a2} (hw : [.outs, .rope] ⊆ w) (h : Keeps w s t) :
    Keeps w s (State.gather t a1 a2) := h.lift hw (by
  unfold State.gather
  try dsimp only
  repeat' first
    | (with_reducible first
      | exact Keeps.refl | assumption | refine State.relay_keeps (by decide) ?_ _ rfl
      | refine State.relay_keeps (by decide) ?_ _ (by assumption) | refine State.ropeOut_keeps (by decide) ?_
      | refine State.chunkOut_keeps (by decide) ?_ | refine State.setRope_keeps (by decide) ?_
      | refine Keeps.ite ?_ ?_ | refine Keeps.ite_fst ?_ ?_)
    | dsimp only
    | split)

theorem State.gatewayTake_keeps {w : List Fld} {s t : State} {a1 a2} (hw : [.outs, .rope] ⊆ w) (h : Keeps w s
    t) :
    Keeps w s (State.gatewayTake t a1 a2) := h.lift hw (by
  unfold State.gatewayTake
  try dsimp only
  repeat' first
    | (with_reducible first
      | exact Keeps.refl | assumption | refine State.gather_keeps (by decide) ?_
      | refine State.ropeOut_keeps (by decide) ?_ | refine Keeps.ite ?_ ?_)
    | split)

theorem State.grantCredits_keeps {w : List Fld} {s t : State} {a1} (hw : [.outs, .rope] ⊆ w) (h : Keeps w s t) :
    Keeps w s (State.grantCredits t a1) := h.lift hw (by
  unfold State.grantCredits
  try dsimp only
  repeat' first
    | (with_reducible first
      | exact Keeps.refl | assumption | refine State.ropeOut_keeps (by decide) ?_
      | refine State.setRope_keeps (by decide) ?_ | refine Keeps.ite ?_ ?_)
    | dsimp only
    | split)

theorem State.homeReceive_keeps {w : List Fld} {s t : State} {a1} (hw : [.regs, .stack, .tileW, .tileA,
    .ledge, .ue, .weak, .stackSt, .pba, .msixHeld, .outs, .units, .summit, .ctl, .rope] ⊆ w) (h : Keeps w s t)
    :
    Keeps w s (State.homeReceive t a1) := h.lift hw (by
  unfold State.homeReceive
  try dsimp only
  repeat' first
    | (with_reducible first
      | exact Keeps.refl | assumption | refine State.setRope_keeps (by decide) ?_
      | refine State.homeApply_keeps (by decide) ?_ _ rfl
      | refine State.homeApply_keeps (by decide) ?_ _ (by assumption)
      | refine State.grantCredits_keeps (by decide) ?_ | refine State.sendReply_keeps (by decide) ?_
      | refine State.gatewayTake_keeps (by decide) ?_ | refine Keeps.ite ?_ ?_ | refine Keeps.ite_fst ?_ ?_)
    | dsimp only
    | split)

theorem State.homeAsleep_keeps {w : List Fld} {s t : State} {a1} (hw : [.regs, .stack, .tileW, .tileA, .ledge,
    .ue, .weak, .stackSt, .pba, .msixHeld, .outs, .power, .units, .summit, .ctl, .rope] ⊆ w) (h : Keeps w s t)
    :
    Keeps w s (State.homeAsleep t a1) := h.lift hw (by
  unfold State.homeAsleep
  try dsimp only
  repeat' first
    | (with_reducible first
      | exact Keeps.refl | assumption | refine State.homeReceive_keeps (by decide) ?_
      | refine State.wake_keeps (by decide) ?_ | refine State.setRope_keeps (by decide) ?_
      | refine Keeps.ite ?_ ?_)
    | dsimp only
    | split)

theorem ropeHomeRequest_keeps {w : List Fld} {s t : State} {a0} (hw : [.regs, .stack, .tileW, .tileA, .ledge,
    .ue, .weak, .stackSt, .pba, .msixHeld, .outs, .power, .units, .summit, .ctl, .rope] ⊆ w) (h : Keeps w s t)
    :
    Keeps w s (ropeHomeRequest a0 t) := h.lift hw (by
  unfold ropeHomeRequest
  try dsimp only
  repeat' first
    | (with_reducible first
      | exact Keeps.refl | assumption | refine State.homeReceive_keeps (by decide) ?_
      | refine State.homeAsleep_keeps (by decide) ?_ | refine Keeps.ite ?_ ?_)
    | split)

theorem replayWindowAgeout_keeps {w : List Fld} {s t : State} {a0 a1} (hw : [.rope] ⊆ w) (h : Keeps w s t) :
    Keeps w s (replayWindowAgeout a0 a1 t) := h.lift hw (by
  unfold replayWindowAgeout
  try dsimp only
  repeat' first
    | (with_reducible first
      | exact Keeps.refl | assumption | refine State.setWindow_keeps (by decide) ?_))

theorem State.mapCmds_keeps {w : List Fld} {s t : State} {a1} (hw : [.rope] ⊆ w) (h : Keeps w s t) :
    Keeps w s (State.mapCmds t a1) := h.lift hw (by
  unfold State.mapCmds
  try dsimp only
  repeat' first
    | (with_reducible first
      | exact Keeps.refl | assumption | refine State.setRope_keeps (by decide) ?_)
    | dsimp only)

theorem State.updCmd_keeps {w : List Fld} {s t : State} {a1 a2} (hw : [.rope] ⊆ w) (h : Keeps w s t) :
    Keeps w s (State.updCmd t a1 a2) := h.lift hw (by
  unfold State.updCmd
  try dsimp only
  repeat' first
    | (with_reducible first
      | exact Keeps.refl | assumption | refine State.mapCmds_keeps (by decide) ?_ | refine Keeps.ite ?_ ?_)
    | dsimp only
    | split)

theorem State.failCmd_keeps {w : List Fld} {s t : State} {a1 a2} (hw : [.regs, .stack, .tileW, .tileA, .ledge,
    .ue, .weak, .stackSt, .pba, .msixHeld, .outs, .units, .summit, .rings, .parts, .ctl, .kernels, .rope] ⊆ w)
    (h : Keeps w s t) :
    Keeps w s (State.failCmd t a1 a2) := h.lift hw (by
  unfold State.failCmd
  try dsimp only
  repeat' first
    | (with_reducible first
      | exact Keeps.refl | assumption | refine State.keepCmds_keeps (by decide) ?_
      | refine State.failIns_keeps (by decide) ?_ | refine State.updCmd_keeps (by decide) ?_
      | refine Keeps.ite ?_ ?_)
    | dsimp only
    | split)

theorem State.ackLine_keeps {w : List Fld} {s t : State} {a1 a2} (hw : [.rope] ⊆ w) (h : Keeps w s t) :
    Keeps w s (State.ackLine t a1 a2) := h.lift hw (by
  unfold State.ackLine
  try dsimp only
  repeat' first
    | (with_reducible first
      | exact Keeps.refl | assumption | refine State.updCmd_keeps (by decide) ?_)
    | dsimp only)

theorem State.landData_keeps {w : List Fld} {s t : State} {a1 a2 a3} (hw : [.regs, .stack, .tileW, .tileA,
    .ledge, .ue, .weak, .stackSt, .pba, .msixHeld, .outs, .units, .summit, .rings, .parts, .ctl, .kernels,
    .rope] ⊆ w) (h : Keeps w s t) :
    Keeps w s (State.landData t a1 a2 a3) := h.lift hw (by
  unfold State.landData
  try dsimp only
  repeat' first
    | (with_reducible first
      | exact Keeps.refl | assumption | refine State.ackLine_keeps (by decide) ?_
      | refine State.updCmd_keeps (by decide) ?_ | refine State.failCmd_keeps (by decide) ?_
      | refine State.noteFail_keeps (by decide) ?_ | refine State.applyStores_keeps (by decide) ?_
      | refine Keeps.ite ?_ ?_)
    | dsimp only
    | split)

theorem State.answer_keeps {w : List Fld} {s t : State} {a1 a2 a3} (hw : [.regs, .stack, .tileW, .tileA,
    .ledge, .ue, .weak, .stackSt, .pba, .msixHeld, .outs, .units, .summit, .rings, .parts, .ctl, .kernels,
    .rope] ⊆ w) (h : Keeps w s t) :
    Keeps w s (State.answer t a1 a2 a3) := h.lift hw (by
  unfold State.answer
  try dsimp only
  repeat' first
    | (with_reducible first
      | exact Keeps.refl | assumption | refine State.landData_keeps (by decide) ?_
      | refine State.updCmd_keeps (by decide) ?_ | refine State.failCmd_keeps (by decide) ?_
      | refine Keeps.ite ?_ ?_)
    | dsimp only
    | split)

theorem State.failJob_keeps {w : List Fld} {s t : State} {a1 a2} (hw : [.regs, .stack, .tileW, .tileA, .ledge,
    .ue, .weak, .stackSt, .pba, .msixHeld, .outs, .units, .summit, .rings, .parts, .ctl, .kernels, .rope] ⊆ w)
    (h : Keeps w s t) :
    Keeps w s (State.failJob t a1 a2) := h.lift hw (by
  unfold State.failJob
  try dsimp only
  repeat' first
    | (with_reducible first
      | exact Keeps.refl | assumption | refine State.concludeJob_keeps (by decide) ?_
      | refine State.dropKernel_keeps (by decide) ?_ | refine State.maybeSave_keeps (by decide) ?_)
    | split)

theorem State.settleFence_keeps {w : List Fld} {s t : State} {a1 a2} (hw : [.regs, .stack, .tileW, .tileA,
    .ledge, .ue, .weak, .stackSt, .pba, .msixHeld, .outs, .units, .summit, .rings, .parts, .ctl, .kernels,
    .rope] ⊆ w) (h : Keeps w s t) :
    Keeps w s (State.settleFence t a1 a2) := h.lift hw (by
  unfold State.settleFence
  try dsimp only
  repeat' first
    | (with_reducible first
      | exact Keeps.refl | assumption | refine State.failJob_keeps (by decide) ?_
      | refine State.putIns_keeps (by decide) ?_ | refine Keeps.ite ?_ ?_)
    | dsimp only
    | split)

theorem State.settlePeer_keeps {w : List Fld} {s t : State} {a1} (hw : [.kernels] ⊆ w) (h : Keeps w s t) :
    Keeps w s (State.settlePeer t a1) := h.lift hw (by
  unfold State.settlePeer
  try dsimp only
  repeat' first
    | (with_reducible first
      | exact Keeps.refl | assumption | refine State.putIns_keeps (by decide) ?_ | refine Keeps.ite ?_ ?_)
    | dsimp only
    | split)

theorem State.settleRope_keeps {w : List Fld} {s t : State} (hw : [.regs, .stack, .tileW, .tileA, .ledge, .ue,
    .weak, .stackSt, .pba, .msixHeld, .outs, .units, .summit, .rings, .parts, .ctl, .kernels, .rope] ⊆ w) (h :
    Keeps w s t) :
    Keeps w s (State.settleRope t) := h.lift hw (by
  unfold State.settleRope
  try dsimp only
  repeat' first
    | (with_reducible first
      | exact Keeps.refl | assumption | refine State.settlePeer_keeps (by decide) ?_
      | refine State.keepCmds_keeps (by decide) ?_ | refine State.settleFence_keeps (by decide) ?_
      | refine State.settleJob_keeps (by decide) ?_ | refine Keeps.foldl (fun _ _ _ => ?_) _ ?_)
    | dsimp only)

theorem State.ropeShare_keeps {w : List Fld} {s t : State} {a1 a2} (hw : [.parts] ⊆ w) (h : Keeps w s t) (r :
    State)
    (hr : State.ropeShare t a1 a2 = some r) : Keeps w s r := by
  have one : ∀ (u v : State) (out : Bool) (n : Nat), Keeps w s u →
      (if n = 0 then some u else u.takeShare a1 .rope out n n) = some v → Keeps w s v := by
    intro u v out n hu hv
    split at hv
    · injection hv with hv; exact hv ▸ hu
    · exact State.takeShare_keeps hw hu _ hv
  unfold State.ropeShare at hr
  dsimp only at hr
  obtain ⟨u, hu, hv⟩ := Option.bind_eq_some_iff.mp hr
  exact one _ _ _ _ (one _ _ _ _ h hu) hv

theorem State.sendReq_keeps {w : List Fld} {s t : State} {a1} (hw : [.outs, .rope] ⊆ w) (h : Keeps w s t) :
    Keeps w s (State.sendReq t a1) := h.lift hw (by
  unfold State.sendReq
  try dsimp only
  repeat' first
    | (with_reducible first
      | exact Keeps.refl | assumption | refine State.ropeOut_keeps (by decide) ?_
      | refine State.gather_keeps (by decide) ?_ | refine Keeps.ite ?_ ?_)
    | split)

theorem State.sendRemote_keeps {w : List Fld} {s t : State} {a1 a2} (hw : [.outs, .parts, .rope] ⊆ w) (h :
    Keeps w s t) (r : State)
    (hr : State.sendRemote t a1 a2 = some r) : Keeps w s r := by
  have out : ∀ (x : Option State), (∀ v, x = some v → Keeps w s v) → ∀ g : State → State,
      (∀ v, Keeps w s v → Keeps w s (g v)) → x.map g = some r → Keeps w s r := by
    intro x hx g hg e
    obtain ⟨v, hv, rfl⟩ := Option.map_eq_some_iff.mp e
    exact hg v (hx v hv)
  unfold State.sendRemote at hr
  dsimp only at hr
  split at hr
  · refine out _ (fun v hv => ?_) _ (fun v hv => ?_) hr
    · split at hv
      · injection hv with hv; exact hv ▸ h
      · obtain ⟨x, hx, rfl⟩ := Option.map_eq_some_iff.mp hv
        exact State.account_keeps (List.Subset.trans (by decide) hw)
          (State.ropeShare_keeps (List.Subset.trans (by decide) hw) h _ hx)
    · exact State.sendReq_keeps (List.Subset.trans (by decide) hw)
        (State.updCmd_keeps (List.Subset.trans (by decide) hw) hv)
  · exact absurd hr (by simp)

theorem State.trySend_keeps {w : List Fld} {s t : State} {a1} (hw : [.regs, .stack, .tileW, .tileA, .ledge,
    .ue, .weak, .stackSt, .pba, .msixHeld, .outs, .units, .summit, .rings, .parts, .ctl, .kernels, .rope] ⊆ w)
    (h : Keeps w s t) (r : State)
    (hr : State.trySend t a1 = some r) : Keeps w s r := by
  unfold State.trySend at hr
  dsimp only at hr
  split at hr
  · exact absurd hr (by simp)
  · split at hr
    · injection hr with hr
      subst hr
      exact State.failCmd_keeps (List.Subset.trans (by decide) hw) h
    · split at hr
      · injection hr with hr
        subst hr
        exact State.answer_keeps (List.Subset.trans (by decide) hw)
          (State.homeApply_keeps (List.Subset.trans (by decide) hw) h _ rfl)
      · exact State.sendRemote_keeps (List.Subset.trans (by decide) hw) h _ hr

theorem State.pump_keeps {w : List Fld} {s t : State} {a0} (hw : [.regs, .stack, .tileW, .tileA, .ledge, .ue,
    .weak, .stackSt, .pba, .msixHeld, .outs, .units, .summit, .rings, .parts, .ctl, .kernels, .rope] ⊆ w) (h :
    Keeps w s t) :
    Keeps w s (State.pump a0 t) := by
  induction a0 generalizing t with
  | zero => exact h
  | succ n ih =>
    unfold State.pump
    split
    · next u hu =>
      obtain ⟨e, _, he⟩ := List.exists_of_findSome?_eq_some hu
      exact ih (State.trySend_keeps hw h _ he)
    · exact h

theorem State.ropeGo_keeps {w : List Fld} {s t : State} (hw : [.regs, .stack, .tileW, .tileA, .ledge, .ue,
    .weak, .stackSt, .pba, .msixHeld, .outs, .units, .summit, .rings, .parts, .ctl, .kernels, .rope] ⊆ w) (h :
    Keeps w s t) :
    Keeps w s (State.ropeGo t) := h.lift hw (by
  unfold State.ropeGo
  try dsimp only
  repeat' first
    | (with_reducible first
      | exact Keeps.refl | assumption | refine State.settleRope_keeps (by decide) ?_
      | refine State.pump_keeps (by decide) ?_ | refine Keeps.ite ?_ ?_)
    | split)

theorem State.numberLines_keeps {w : List Fld} {s t : State} {a1 a2} (hw : [.rope] ⊆ w) (h : Keeps w s t) (r :
    _)
    (hr : State.numberLines t a1 a2 = r) : Keeps w s r.1 := by
  subst hr
  unfold State.numberLines
  refine Keeps.foldl_fst (fun u l hu => ?_) _ h
  exact State.setRope_keeps (List.Subset.trans (by decide) hw) hu

theorem State.addCmd_keeps {w : List Fld} {s t : State} {a1 a2 a3 a4 a5 a6 a7 a8} (hw : [.parts, .rope] ⊆ w)
    (h : Keeps w s t) :
    Keeps w s (State.addCmd t a1 a2 a3 a4 a5 a6 a7 a8) := by
  unfold State.addCmd
  dsimp only
  exact State.setRope_keeps (List.Subset.trans (by decide) hw)
    (State.setCtx_keeps (List.Subset.trans (by decide) hw)
      (State.numberLines_keeps (List.Subset.trans (by decide) hw) h _ rfl))

theorem State.rcReads_keeps {w : List Fld} {s t : State} {a1 a2 a3 a4} (hw : [.regs, .weak, .stackSt, .pba,
    .msixHeld, .outs, .units, .summit, .ctl] ⊆ w) (h : Keeps w s t) :
    Keeps w s (State.rcReads t a1 a2 a3 a4) := h.lift hw (by
  unfold State.rcReads
  try dsimp only
  repeat' first
    | (with_reducible first
      | exact Keeps.refl | assumption | refine State.locCorrects_keeps (by decide) ?_
      | refine State.corrects_keeps (by decide) ?_)
    | split)

theorem State.ropeIssue_keeps {w : List Fld} {s t : State} {a1 a2 a3 a4 a5 a6} (hw : [.regs, .stack, .tileW,
    .tileA, .ledge, .ue, .weak, .stackSt, .pba, .msixHeld, .outs, .units, .summit, .rings, .parts, .ctl,
    .kernels, .rope] ⊆ w) (h : Keeps w s t) :
    Keeps w s (State.ropeIssue t a1 a2 a3 a4 a5 a6) := h.lift hw (by
  unfold State.ropeIssue
  try dsimp only
  repeat' first
    | (with_reducible first
      | exact Keeps.refl | assumption | refine State.settleRope_keeps (by decide) ?_
      | refine State.addCmd_keeps (by decide) ?_ | refine State.putIns_keeps (by decide) ?_
      | refine State.failMedia_keeps (by decide) ?_ | refine State.rcReads_keeps (by decide) ?_
      | refine State.account_keeps (by decide) ?_ | refine State.ropeGo_keeps (by decide) ?_
      | refine Keeps.ite ?_ ?_)
    | dsimp only
    | split)

theorem State.peerStore_keeps {w : List Fld} {s t : State} {a1 a2 a3 a4 a5 a6} (hw : [.regs, .stack, .tileW,
    .tileA, .ledge, .ue, .weak, .stackSt, .pba, .msixHeld, .outs, .units, .summit, .rings, .parts, .ctl,
    .kernels, .rope] ⊆ w) (h : Keeps w s t) :
    Keeps w s (State.peerStore t a1 a2 a3 a4 a5 a6) := h.lift hw (by
  unfold State.peerStore
  try dsimp only
  repeat' first
    | (with_reducible first
      | exact Keeps.refl | assumption | refine State.failIns_keeps (by decide) ?_
      | refine State.failUe_keeps (by decide) ?_ | refine State.ropeGo_keeps (by decide) ?_
      | refine State.addCmd_keeps (by decide) ?_ | refine State.keepCmds_keeps (by decide) ?_
      | refine Keeps.optElim ?_ (fun _ => ?_) | refine Keeps.ite ?_ ?_)
    | dsimp only
    | split)

theorem State.peerSend_keeps {w : List Fld} {s t : State} {a1 a2 a3} (hw : [.regs, .host, .stack, .tileW,
    .tileA, .ledge, .ue, .weak, .stackSt, .pba, .msixHeld, .outs, .islands, .units, .summit, .rings,
    .adminEvents, .parts, .ctl, .kernels, .vdes, .leases, .radio, .rope] ⊆ w) (h : Keeps w s t) :
    Keeps w s (State.peerSend t a1 a2 a3) := h.lift hw (by
  unfold State.peerSend
  try dsimp only
  repeat' first
    | (with_reducible first
      | exact Keeps.refl | assumption | refine State.failIns_keeps (by decide) ?_
      | refine State.failInsUe_keeps (by decide) ?_ | refine State.peerStore_keeps (by decide) ?_
      | refine State.putIns_keeps (by decide) ?_ | refine Keeps.ite ?_ ?_)
    | split)

theorem peerSendRow_keeps {w : List Fld} {s t : State} {a0 a1 a2 a3} (hw : [.regs, .host, .stack, .tileW,
    .tileA, .ledge, .ue, .weak, .stackSt, .pba, .msixHeld, .outs, .islands, .units, .summit, .rings,
    .adminEvents, .parts, .ctl, .kernels, .vdes, .leases, .radio, .rope] ⊆ w) (h : Keeps w s t) :
    Keeps w s (peerSendRow a0 a1 a2 a3 t) := h.lift hw (by
  unfold peerSendRow
  try dsimp only
  repeat' first
    | (with_reducible first
      | exact Keeps.refl | assumption | refine (State.acceptRun_keeps (by decide) ?_).1 _ (by assumption)
      | refine (State.acceptRun_keeps (by decide) ?_).2.1 _ (by assumption)
      | refine (State.acceptRun_keeps (by decide) ?_).2.2 _ _ (by assumption)
      | refine State.failIns_keeps (by decide) ?_ | refine State.afterRun_keeps (by decide) ?_
      | refine State.peerSend_keeps (by decide) ?_ | refine Keeps.ite ?_ ?_)
    | split)

theorem peerSendPayloadAcked_keeps {w : List Fld} {s t : State} {a0 a1 a2} (hw : [.regs, .stack, .tileW,
    .tileA, .ledge, .ue, .weak, .stackSt, .pba, .msixHeld, .outs, .units, .summit, .rings, .parts, .ctl,
    .kernels, .rope] ⊆ w) (h : Keeps w s t) :
    Keeps w s (peerSendPayloadAcked a0 a1 a2 t) := h.lift hw (by
  unfold peerSendPayloadAcked
  try dsimp only
  repeat' first
    | (with_reducible first
      | exact Keeps.refl | assumption | refine State.peerStore_keeps (by decide) ?_
      | refine State.putIns_keeps (by decide) ?_ | refine Keeps.ite ?_ ?_)
    | split)

theorem peerSendCommit_keeps {w : List Fld} {s t : State} {a0 a1 a2} (hw : [.regs, .host, .stack, .tileW,
    .tileA, .ledge, .ue, .weak, .stackSt, .pba, .msixHeld, .outs, .islands, .units, .summit, .rings,
    .adminEvents, .parts, .ctl, .kernels, .vdes, .leases, .radio, .rope] ⊆ w) (h : Keeps w s t) :
    Keeps w s (peerSendCommit a0 a1 a2 t) := h.lift hw (by
  unfold peerSendCommit
  try dsimp only
  repeat' first
    | (with_reducible first
      | exact Keeps.refl | assumption | refine State.commitIns_keeps (by decide) ?_ | refine Keeps.ite ?_ ?_)
    | split)

theorem State.replyOwn_keeps {w : List Fld} {s t : State} {a1} (hw : [.regs, .stack, .tileW, .tileA, .ledge,
    .ue, .weak, .stackSt, .pba, .msixHeld, .outs, .units, .summit, .rings, .parts, .ctl, .kernels, .rope] ⊆ w)
    (h : Keeps w s t) :
    Keeps w s (State.replyOwn t a1) := h.lift hw (by
  unfold State.replyOwn
  try dsimp only
  repeat' first
    | (with_reducible first
      | exact Keeps.refl | assumption | refine State.ropeGo_keeps (by decide) ?_
      | refine State.answer_keeps (by decide) ?_ | refine Keeps.ite ?_ ?_)
    | split)

theorem ropeReply_keeps {w : List Fld} {s t : State} {a0} (hw : [.regs, .stack, .tileW, .tileA, .ledge, .ue,
    .weak, .stackSt, .pba, .msixHeld, .outs, .units, .summit, .rings, .parts, .ctl, .kernels, .rope] ⊆ w) (h :
    Keeps w s t) :
    Keeps w s (ropeReply a0 t) := h.lift hw (by
  unfold ropeReply
  try dsimp only
  repeat' first
    | (with_reducible first
      | exact Keeps.refl | assumption | refine State.replyOwn_keeps (by decide) ?_
      | refine State.sendBack_keeps (by decide) ?_ | refine Keeps.ite ?_ ?_)
    | dsimp only
    | split)

theorem ropeRetry_keeps {w : List Fld} {s t : State} {a0 a1 a2} (hw : [.regs, .stack, .tileW, .tileA, .ledge,
    .ue, .weak, .stackSt, .pba, .msixHeld, .outs, .units, .summit, .rings, .parts, .ctl, .kernels, .rope] ⊆ w)
    (h : Keeps w s t) :
    Keeps w s (ropeRetry a0 a1 a2 t) := h.lift hw (by
  unfold ropeRetry
  try dsimp only
  repeat' first
    | (with_reducible first
      | exact Keeps.refl | assumption | refine State.ropeGo_keeps (by decide) ?_
      | refine State.updCmd_keeps (by decide) ?_ | refine State.sendReq_keeps (by decide) ?_
      | refine State.failCmd_keeps (by decide) ?_ | refine Keeps.ite ?_ ?_)
    | dsimp only
    | split)

theorem remoteTimeout_keeps {w : List Fld} {s t : State} {a0 a1 a2} (hw : [.regs, .stack, .tileW, .tileA,
    .ledge, .ue, .weak, .stackSt, .pba, .msixHeld, .outs, .units, .summit, .rings, .parts, .ctl, .kernels,
    .rope] ⊆ w) (h : Keeps w s t) :
    Keeps w s (remoteTimeout a0 a1 a2 t) := h.lift hw (by
  unfold remoteTimeout
  try dsimp only
  repeat' first
    | (with_reducible first
      | exact Keeps.refl | assumption | refine State.ropeGo_keeps (by decide) ?_
      | refine State.failCmd_keeps (by decide) ?_ | refine Keeps.ite ?_ ?_)
    | split)

theorem ropeCreditGrant_keeps {w : List Fld} {s t : State} {a0 a1 a2} (hw : [.regs, .stack, .tileW, .tileA,
    .ledge, .ue, .weak, .stackSt, .pba, .msixHeld, .outs, .units, .summit, .rings, .parts, .ctl, .kernels,
    .rope] ⊆ w) (h : Keeps w s t) :
    Keeps w s (ropeCreditGrant a0 a1 a2 t) := h.lift hw (by
  unfold ropeCreditGrant
  try dsimp only
  repeat' first
    | (with_reducible first
      | exact Keeps.refl | assumption | refine State.ropeGo_keeps (by decide) ?_
      | refine State.setRope_keeps (by decide) ?_ | refine Keeps.ite ?_ ?_)
    | dsimp only
    | split)

theorem State.setRopeState_keeps {w : List Fld} {s t : State} {a1} (hw : [.regs] ⊆ w) (h : Keeps w s t) :
    Keeps w s (State.setRopeState t a1) := h.lift hw (by
  unfold State.setRopeState
  try dsimp only
  repeat' first
    | (with_reducible first
      | exact Keeps.refl | assumption | refine State.setRf_keeps (by decide) ?_))

theorem State.ropeStage_keeps {w : List Fld} {s t : State} {a1} (hw : [.regs, .rope] ⊆ w) (h : Keeps w s t) :
    Keeps w s (State.ropeStage t a1) := h.lift hw (by
  unfold State.ropeStage
  try dsimp only
  repeat' first
    | (with_reducible first
      | exact Keeps.refl | assumption | refine State.setRf_keeps (by decide) ?_
      | refine State.setRope_keeps (by decide) ?_)
    | dsimp only)

theorem State.ropeStart_keeps {w : List Fld} {s t : State} {a1} (hw : [.regs, .rope] ⊆ w) (h : Keeps w s t) :
    Keeps w s (State.ropeStart t a1) := h.lift hw (by
  unfold State.ropeStart
  try dsimp only
  repeat' first
    | (with_reducible first
      | exact Keeps.refl | assumption | refine State.ropeStage_keeps (by decide) ?_
      | refine State.setRope_keeps (by decide) ?_ | refine State.setRopeState_keeps (by decide) ?_)
    | dsimp only)

theorem State.ropePort_keeps {w : List Fld} {s t : State} {a1 a2} (hw : [.regs, .pba, .msixHeld, .outs, .ctl]
    ⊆ w) (h : Keeps w s t) :
    Keeps w s (State.ropePort t a1 a2) := h.lift hw (by
  unfold State.ropePort
  try dsimp only
  repeat' first
    | (with_reducible first
      | exact Keeps.refl | assumption | refine State.edge_keeps (by decide) ?_
      | refine State.setRbit_keeps (by decide) ?_ | refine Keeps.ite ?_ ?_)
    | split)

theorem State.setNumbers_keeps {w : List Fld} {s t : State} {a1 a2} (hw : [.regs] ⊆ w) (h : Keeps w s t) :
    Keeps w s (State.setNumbers t a1 a2) := h.lift hw (by
  unfold State.setNumbers
  try dsimp only
  repeat' first
    | (with_reducible first
      | exact Keeps.refl | assumption | refine State.setRf_keeps (by decide) ?_))

theorem State.ropeTrained_keeps {w : List Fld} {s t : State} {a1 a2 a3} (hw : [.regs, .pba, .msixHeld, .outs,
    .ctl, .rope] ⊆ w) (h : Keeps w s t) :
    Keeps w s (State.ropeTrained t a1 a2 a3) := h.lift hw (by
  unfold State.ropeTrained
  try dsimp only
  repeat' first
    | (with_reducible first
      | exact Keeps.refl | assumption | refine State.setRope_keeps (by decide) ?_
      | refine State.ropePort_keeps (by decide) ?_ | refine State.setNumbers_keeps (by decide) ?_
      | refine State.ropeStage_keeps (by decide) ?_ | refine Keeps.foldl (fun _ _ _ => ?_) _ ?_
      | refine Keeps.foldl_fst (fun _ _ _ => ?_) _ ?_ | refine Keeps.ite ?_ ?_)
    | dsimp only
    | split)

theorem ropePortChange_keeps {w : List Fld} {s t : State} {a0 a1 a2 a3} (hw : [.regs, .stack, .tileW, .tileA,
    .ledge, .ue, .weak, .stackSt, .pba, .msixHeld, .outs, .units, .summit, .rings, .parts, .ctl, .kernels,
    .rope] ⊆ w) (h : Keeps w s t) :
    Keeps w s (ropePortChange a0 a1 a2 a3 t) := h.lift hw (by
  unfold ropePortChange
  try dsimp only
  repeat' first
    | (with_reducible first
      | exact Keeps.refl | assumption | refine State.ropeGo_keeps (by decide) ?_
      | refine State.ropeTrained_keeps (by decide) ?_ | refine State.ropePort_keeps (by decide) ?_
      | refine State.setRope_keeps (by decide) ?_ | refine Keeps.ite ?_ ?_)
    | dsimp only
    | split)

theorem ropeEnableWrite_keeps {w : List Fld} {s t : State} {a0 a1} (hw : [.regs, .stack, .tileW, .tileA,
    .ledge, .ue, .weak, .stackSt, .pba, .msixHeld, .outs, .units, .summit, .rings, .parts, .ctl, .kernels,
    .rope] ⊆ w) (h : Keeps w s t) :
    Keeps w s (ropeEnableWrite a0 a1 t) := h.lift hw (by
  unfold ropeEnableWrite
  try dsimp only
  repeat' first
    | (with_reducible first
      | exact Keeps.refl | assumption | refine State.applyWrite_keeps (by decide) ?_
      | refine State.ropeStart_keeps (by decide) ?_ | refine State.ropeGo_keeps (by decide) ?_
      | refine State.ropeTrained_keeps (by decide) ?_ | refine State.setRope_keeps (by decide) ?_
      | refine State.setRopeState_keeps (by decide) ?_ | refine State.ropePort_keeps (by decide) ?_
      | refine Keeps.foldl (fun _ _ _ => ?_) _ ?_ | refine Keeps.foldl_fst (fun _ _ _ => ?_) _ ?_
      | refine Keeps.ite ?_ ?_)
    | dsimp only
    | split)

theorem State.formEpoch_keeps {w : List Fld} {s t : State} {a1} (hw : [.outs, .rope] ⊆ w) (h : Keeps w s t) :
    Keeps w s (State.formEpoch t a1) := h.lift hw (by
  unfold State.formEpoch
  try dsimp only
  repeat' first
    | with_reducible exact Or.inl rfl
    | exact Or.inr (And.intro (by decide) (fun hk => by simp [hk]))
    | (with_reducible first
      | exact Or.inr (by decide) | exact Keeps.refl | assumption | refine State.ropeOut_keeps (by decide) ?_
      | refine State.setRope_keeps (by decide) ?_)
    | dsimp only
    | with_reducible apply Keeps.update)

theorem State.declareDead_keeps {w : List Fld} {s t : State} {a1} (hw : [.outs, .rope] ⊆ w) (h : Keeps w s t) :
    Keeps w s (State.declareDead t a1) := h.lift hw (by
  unfold State.declareDead
  try dsimp only
  repeat' first
    | (with_reducible first
      | exact Keeps.refl | assumption | refine State.formEpoch_keeps (by decide) ?_ | refine Keeps.ite ?_ ?_)
    | dsimp only
    | split)

theorem State.failAllStale_keeps {w : List Fld} {s t : State} (hw : [.regs, .stack, .tileW, .tileA, .ledge,
    .ue, .weak, .stackSt, .pba, .msixHeld, .outs, .units, .summit, .rings, .parts, .ctl, .kernels, .rope] ⊆ w)
    (h : Keeps w s t) :
    Keeps w s (State.failAllStale t) := h.lift hw (by
  unfold State.failAllStale
  try dsimp only
  repeat' first
    | (with_reducible first
      | exact Keeps.refl | assumption | refine State.settleRope_keeps (by decide) ?_
      | refine State.failCmd_keeps (by decide) ?_ | refine Keeps.foldl (fun _ _ _ => ?_) _ ?_)
    | dsimp only
    | split)

theorem State.exclude_keeps {w : List Fld} {s t : State} (hw : [.regs, .stack, .tileW, .tileA, .ledge, .ue,
    .weak, .stackSt, .pba, .msixHeld, .outs, .units, .summit, .rings, .parts, .ctl, .kernels, .rope] ⊆ w) (h :
    Keeps w s t) :
    Keeps w s (State.exclude t) := h.lift hw (by
  unfold State.exclude
  try dsimp only
  repeat' first
    | (with_reducible first
      | exact Keeps.refl | assumption | refine State.edge_keeps (by decide) ?_
      | refine State.failAllStale_keeps (by decide) ?_ | refine State.setRope_keeps (by decide) ?_
      | refine State.setRbit_keeps (by decide) ?_ | refine State.setRopeState_keeps (by decide) ?_
      | refine Keeps.ite ?_ ?_)
    | dsimp only
    | split)

theorem ropeHeartbeat_keeps {w : List Fld} {s t : State} {a0 a1} (hw : [.outs, .rope] ⊆ w) (h : Keeps w s t) :
    Keeps w s (ropeHeartbeat a0 a1 t) := h.lift hw (by
  unfold ropeHeartbeat
  try dsimp only
  repeat' first
    | (with_reducible first
      | exact Keeps.refl | assumption | refine State.ropeOut_keeps (by decide) ?_
      | refine State.setRope_keeps (by decide) ?_ | refine Keeps.ite ?_ ?_)
    | dsimp only
    | split)

theorem memberDead_keeps {w : List Fld} {s t : State} {a0} (hw : [.outs, .rope] ⊆ w) (h : Keeps w s t) :
    Keeps w s (memberDead a0 t) := h.lift hw (by
  unfold memberDead
  try dsimp only
  repeat' first
    | (with_reducible first
      | exact Keeps.refl | assumption | refine State.declareDead_keeps (by decide) ?_ | refine Keeps.ite ?_ ?_)
    | split)

theorem ropeEvict_keeps {w : List Fld} {s t : State} {a0} (hw : [.outs, .rope] ⊆ w) (h : Keeps w s t) :
    Keeps w s (ropeEvict a0 t) := h.lift hw (by
  unfold ropeEvict
  try dsimp only
  repeat' first
    | (with_reducible first
      | exact Keeps.refl | assumption | refine State.declareDead_keeps (by decide) ?_
      | refine State.ropeOut_keeps (by decide) ?_ | refine Keeps.ite ?_ ?_)
    | split)

theorem selfExclude_keeps {w : List Fld} {s t : State} (hw : [.regs, .stack, .tileW, .tileA, .ledge, .ue,
    .weak, .stackSt, .pba, .msixHeld, .outs, .units, .summit, .rings, .parts, .ctl, .kernels, .rope] ⊆ w) (h :
    Keeps w s t) :
    Keeps w s (selfExclude t) := h.lift hw (by
  unfold selfExclude
  try dsimp only
  repeat' first
    | (with_reducible first
      | exact Keeps.refl | assumption | refine State.exclude_keeps (by decide) ?_ | refine Keeps.ite ?_ ?_)
    | split)

theorem coordinatorLoss_keeps {w : List Fld} {s t : State} (hw : [.outs, .rope] ⊆ w) (h : Keeps w s t) :
    Keeps w s (coordinatorLoss t) := h.lift hw (by
  unfold coordinatorLoss
  try dsimp only
  repeat' first
    | (with_reducible first
      | exact Keeps.refl | assumption | refine State.declareDead_keeps (by decide) ?_
      | refine State.setRope_keeps (by decide) ?_ | refine Keeps.ite ?_ ?_)
    | dsimp only
    | split)

theorem epochReceive_keeps {w : List Fld} {s t : State} {a0 a1} (hw : [.outs, .rope] ⊆ w) (h : Keeps w s t) :
    Keeps w s (epochReceive a0 a1 t) := h.lift hw (by
  unfold epochReceive
  try dsimp only
  repeat' first
    | with_reducible exact Or.inl rfl
    | exact Or.inr (And.intro (by decide) (fun hk => by simp [hk]))
    | (with_reducible first
      | exact Or.inr (by decide) | exact Keeps.refl | assumption | refine State.ropeOut_keeps (by decide) ?_
      | refine State.setRope_keeps (by decide) ?_ | refine Keeps.ite ?_ ?_)
    | dsimp only
    | split
    | with_reducible apply Keeps.update)

theorem State.setMembers_keeps {w : List Fld} {s t : State} {a1} (hw : [.regs] ⊆ w) (h : Keeps w s t) :
    Keeps w s (State.setMembers t a1) := h.lift hw (by
  unfold State.setMembers
  try dsimp only
  repeat' first
    | (with_reducible first
      | exact Keeps.refl | assumption | refine State.setReg_keeps (by decide) ?_
      | refine Keeps.foldl (fun _ _ _ => ?_) _ ?_)
    | dsimp only)

theorem State.clearWindows_keeps {w : List Fld} {s t : State} {a1} (hw : [.rope] ⊆ w) (h : Keeps w s t) :
    Keeps w s (State.clearWindows t a1) := h.lift hw (by
  unfold State.clearWindows
  try dsimp only
  repeat' first
    | (with_reducible first
      | exact Keeps.refl | assumption | refine State.setRope_keeps (by decide) ?_)
    | dsimp only)

theorem State.releaseHeld_keeps {w : List Fld} {s t : State} (hw : [.regs, .stack, .tileW, .tileA, .ledge,
    .ue, .weak, .stackSt, .pba, .msixHeld, .outs, .units, .summit, .ctl, .rope] ⊆ w) (h : Keeps w s t) :
    Keeps w s (State.releaseHeld t) := h.lift hw (by
  unfold State.releaseHeld
  try dsimp only
  repeat' first
    | (with_reducible first
      | exact Keeps.refl | assumption | refine State.homeReceive_keeps (by decide) ?_
      | refine State.setRope_keeps (by decide) ?_ | refine Keeps.foldl (fun _ _ _ => ?_) _ ?_)
    | dsimp only)

theorem State.setGateways_keeps {w : List Fld} {s t : State} {a1 a2} (hw : [.regs, .rope] ⊆ w) (h : Keeps w s
    t) :
    Keeps w s (State.setGateways t a1 a2) := h.lift hw (by
  unfold State.setGateways
  try dsimp only
  repeat' first
    | (with_reducible first
      | exact Keeps.refl | assumption | refine State.setRope_keeps (by decide) ?_
      | refine State.clearWindows_keeps (by decide) ?_ | refine State.setRbit_keeps (by decide) ?_
      | refine Keeps.foldl (fun _ _ _ => ?_) _ ?_ | refine Keeps.foldl_fst (fun _ _ _ => ?_) _ ?_
      | refine Keeps.ite ?_ ?_)
    | dsimp only
    | split)

theorem State.applyGlobal_keeps {w : List Fld} {s t : State} {a1 a2} (hw : [.regs, .pba, .msixHeld, .outs,
    .ctl, .rope] ⊆ w) (h : Keeps w s t) :
    Keeps w s (State.applyGlobal t a1 a2) := h.lift hw (by
  unfold State.applyGlobal
  try dsimp only
  repeat' first
    | (with_reducible first
      | exact Keeps.refl | assumption | refine State.setGateways_keeps (by decide) ?_
      | refine State.setReg_keeps (by decide) ?_ | refine State.edge_keeps (by decide) ?_
      | refine State.ropeOut_keeps (by decide) ?_ | refine Keeps.ite ?_ ?_)
    | split)

theorem State.gatewaysLeft_keeps {w : List Fld} {s t : State} (hw : [.regs, .pba, .msixHeld, .outs, .ctl,
    .rope] ⊆ w) (h : Keeps w s t) :
    Keeps w s (State.gatewaysLeft t) := h.lift hw (by
  unfold State.gatewaysLeft
  try dsimp only
  repeat' first
    | (with_reducible first
      | exact Keeps.refl | assumption | refine State.applyGlobal_keeps (by decide) ?_
      | refine State.ropeOut_keeps (by decide) ?_ | refine Keeps.ite ?_ ?_)
    | dsimp only
    | split)

theorem State.formFirst_keeps {w : List Fld} {s t : State} (hw : [.outs, .rope] ⊆ w) (h : Keeps w s t) :
    Keeps w s (State.formFirst t) := h.lift hw (by
  unfold State.formFirst
  try dsimp only
  repeat' first
    | (with_reducible first
      | exact Keeps.refl | assumption | refine State.formEpoch_keeps (by decide) ?_ | refine Keeps.ite ?_ ?_)
    | dsimp only
    | split)

theorem epochCommit_keeps {w : List Fld} {s t : State} (hw : [.regs, .stack, .tileW, .tileA, .ledge, .ue,
    .weak, .stackSt, .pba, .msixHeld, .outs, .units, .summit, .rings, .parts, .ctl, .kernels, .rope] ⊆ w) (h :
    Keeps w s t) :
    Keeps w s (epochCommit t) := h.lift hw (by
  unfold epochCommit
  try dsimp only
  repeat' first
    | with_reducible exact Or.inl rfl
    | exact Or.inr (And.intro (by decide) (fun hk => by simp [hk]))
    | (with_reducible first
      | exact Or.inr (by decide) | exact Keeps.refl | assumption | refine State.formFirst_keeps (by decide) ?_
      | refine State.setMembers_keeps (by decide) ?_ | refine State.clearWindows_keeps (by decide) ?_
      | refine State.setRope_keeps (by decide) ?_ | refine State.setReg_keeps (by decide) ?_
      | refine State.ropeStage_keeps (by decide) ?_ | refine State.setRbit_keeps (by decide) ?_
      | refine State.setRopeState_keeps (by decide) ?_ | refine State.ropeGo_keeps (by decide) ?_
      | refine State.releaseHeld_keeps (by decide) ?_ | refine State.gatewaysLeft_keeps (by decide) ?_
      | refine State.edge_keeps (by decide) ?_ | refine State.exclude_keeps (by decide) ?_
      | refine Keeps.foldl (fun _ _ _ => ?_) _ ?_ | refine Keeps.ite ?_ ?_)
    | dsimp only
    | split
    | with_reducible apply Keeps.update)

theorem epochAckTimeout_keeps {w : List Fld} {s t : State} {a0} (hw : [.outs, .rope] ⊆ w) (h : Keeps w s t) :
    Keeps w s (epochAckTimeout a0 t) := h.lift hw (by
  unfold epochAckTimeout
  try dsimp only
  repeat' first
    | (with_reducible first
      | exact Keeps.refl | assumption | refine State.declareDead_keeps (by decide) ?_ | refine Keeps.ite ?_ ?_)
    | split)

theorem State.dropKeyTables_keeps {w : List Fld} {s t : State} {a1} (hw : [.regs, .stack, .tileW, .tileA,
    .ledge, .ue, .weak, .stackSt, .pba, .msixHeld, .outs, .units, .summit, .ctl] ⊆ w) (h : Keeps w s t) :
    Keeps w s (State.dropKeyTables t a1) := h.lift hw (by
  unfold State.dropKeyTables
  try dsimp only
  repeat' first
    | (with_reducible first
      | exact Keeps.refl | assumption | refine State.issuerWrite_keeps (by decide) ?_
      | refine Keeps.foldl (fun _ _ _ => ?_) _ ?_ | refine Keeps.foldl_fst (fun _ _ _ => ?_) _ ?_)
    | dsimp only)

theorem State.addMember_keeps {w : List Fld} {s t : State} {a1} (hw : [.outs, .rope] ⊆ w) (h : Keeps w s t) :
    Keeps w s (State.addMember t a1) := h.lift hw (by
  unfold State.addMember
  try dsimp only
  repeat' first
    | (with_reducible first
      | exact Keeps.refl | assumption | refine State.formEpoch_keeps (by decide) ?_ | refine Keeps.ite ?_ ?_)
    | split)

theorem State.startRejoin_keeps {w : List Fld} {s t : State} (hw : [.regs, .stack, .tileW, .tileA, .ledge,
    .ue, .weak, .stackSt, .pba, .msixHeld, .outs, .units, .summit, .ctl, .rope] ⊆ w) (h : Keeps w s t) :
    Keeps w s (State.startRejoin t) := h.lift hw (by
  unfold State.startRejoin
  try dsimp only
  repeat' first
    | (with_reducible first
      | exact Keeps.refl | assumption | refine State.clearRegion_keeps (by decide) ?_
      | refine State.keepCmds_keeps (by decide) ?_ | refine State.dropKeyTables_keeps (by decide) ?_
      | refine State.ropeOut_keeps (by decide) ?_ | refine State.setRbit_keeps (by decide) ?_
      | refine State.setRopeState_keeps (by decide) ?_ | refine Keeps.foldl (fun _ _ _ => ?_) _ ?_
      | refine Keeps.ite ?_ ?_)
    | dsimp only
    | split)

theorem rejoin_keeps {w : List Fld} {s t : State} {a0} (hw : [.regs, .stack, .tileW, .tileA, .ledge, .ue,
    .weak, .stackSt, .pba, .msixHeld, .outs, .units, .summit, .ctl, .rope] ⊆ w) (h : Keeps w s t) :
    Keeps w s (rejoin a0 t) := h.lift hw (by
  unfold rejoin
  try dsimp only
  repeat' first
    | (with_reducible first
      | exact Keeps.refl | assumption | refine State.startRejoin_keeps (by decide) ?_
      | refine State.addMember_keeps (by decide) ?_)
    | split)

theorem globalEpochChange_keeps {w : List Fld} {s t : State} {a0 a1} (hw : [.regs, .stack, .tileW, .tileA,
    .ledge, .ue, .weak, .stackSt, .pba, .msixHeld, .outs, .units, .summit, .rings, .parts, .ctl, .kernels,
    .rope] ⊆ w) (h : Keeps w s t) :
    Keeps w s (globalEpochChange a0 a1 t) := h.lift hw (by
  unfold globalEpochChange
  try dsimp only
  repeat' first
    | (with_reducible first
      | exact Keeps.refl | assumption | refine State.ropeStage_keeps (by decide) ?_
      | refine State.setGateways_keeps (by decide) ?_ | refine State.ropeGo_keeps (by decide) ?_
      | refine State.setReg_keeps (by decide) ?_ | refine State.setRopeState_keeps (by decide) ?_
      | refine State.applyGlobal_keeps (by decide) ?_ | refine Keeps.ite ?_ ?_)
    | split)

theorem chunkSend_keeps {w : List Fld} {s t : State} {a0 a1} (hw : [.outs, .rope] ⊆ w) (h : Keeps w s t) :
    Keeps w s (chunkSend a0 a1 t) := h.lift hw (by
  unfold chunkSend
  try dsimp only
  repeat' first
    | (with_reducible first
      | exact Keeps.refl | assumption | refine State.chunkOut_keeps (by decide) ?_
      | refine State.setRope_keeps (by decide) ?_ | refine Keeps.ite ?_ ?_)
    | dsimp only
    | split)

theorem State.chunkRequest_keeps {w : List Fld} {s t : State} {a1 a2 a3} (hw : [.regs, .stack, .tileW, .tileA,
    .ledge, .ue, .weak, .stackSt, .pba, .msixHeld, .outs, .units, .summit, .ctl, .rope] ⊆ w) (h : Keeps w s t)
    :
    Keeps w s (State.chunkRequest t a1 a2 a3) := h.lift hw (by
  unfold State.chunkRequest
  try dsimp only
  repeat' first
    | (with_reducible first
      | exact Keeps.refl | assumption | refine State.relay_keeps (by decide) ?_ _ rfl
      | refine State.relay_keeps (by decide) ?_ _ (by assumption)
      | refine State.gatherReply_keeps (by decide) ?_ | refine State.homeReceive_keeps (by decide) ?_
      | refine State.ropeOut_keeps (by decide) ?_ | refine Keeps.ite ?_ ?_ | refine Keeps.ite_fst ?_ ?_)
    | split)

theorem State.chunkReply_keeps {w : List Fld} {s t : State} {a1 a2} (hw : [.regs, .stack, .tileW, .tileA,
    .ledge, .ue, .weak, .stackSt, .pba, .msixHeld, .outs, .units, .summit, .rings, .parts, .ctl, .kernels,
    .rope] ⊆ w) (h : Keeps w s t) :
    Keeps w s (State.chunkReply t a1 a2) := h.lift hw (by
  unfold State.chunkReply
  try dsimp only
  repeat' first
    | (with_reducible first
      | exact Keeps.refl | assumption | refine State.replyOwn_keeps (by decide) ?_
      | refine State.ropeOut_keeps (by decide) ?_ | refine Keeps.ite ?_ ?_)
    | dsimp only
    | split)

theorem chunkReceive_keeps {w : List Fld} {s t : State} {a0} (hw : [.regs, .stack, .tileW, .tileA, .ledge,
    .ue, .weak, .stackSt, .pba, .msixHeld, .outs, .units, .summit, .rings, .parts, .ctl, .kernels, .rope] ⊆ w)
    (h : Keeps w s t) :
    Keeps w s (chunkReceive a0 t) := h.lift hw (by
  unfold chunkReceive
  try dsimp only
  repeat' first
    | (with_reducible first
      | exact Keeps.refl | assumption | refine State.chunkRequest_keeps (by decide) ?_
      | refine State.gatherReply_keeps (by decide) ?_ | refine State.chunkReply_keeps (by decide) ?_
      | refine Keeps.foldl (fun _ _ _ => ?_) _ ?_ | refine Keeps.ite ?_ ?_)
    | dsimp only
    | split)

theorem launchGateArm_keeps {w : List Fld} {s t : State} {a0 a1} (hw : [.regs] ⊆ w) (h : Keeps w s t) :
    Keeps w s (launchGateArm a0 a1 t) := h.lift hw (by
  unfold launchGateArm
  try dsimp only
  repeat' first
    | (with_reducible first
      | exact Keeps.refl | assumption | refine State.applyWrite_keeps (by decide) ?_
      | refine State.setRbit_keeps (by decide) ?_ | refine Keeps.ite ?_ ?_)
    | split)

theorem launchGateFire_keeps {w : List Fld} {s t : State} {a0} (hw : [.regs] ⊆ w) (h : Keeps w s t) :
    Keeps w s (launchGateFire a0 t) := h.lift hw (by
  unfold launchGateFire
  try dsimp only
  repeat' first
    | (with_reducible first
      | exact Keeps.refl | assumption | refine State.setRbit_keeps (by decide) ?_ | refine Keeps.ite ?_ ?_)
    | split)

theorem State.ropeLocked_keeps {w : List Fld} {s t : State} (hw : [.regs, .rope] ⊆ w) (h : Keeps w s t) :
    Keeps w s (State.ropeLocked t) := h.lift hw (by
  unfold State.ropeLocked
  try dsimp only
  repeat' first
    | (with_reducible first
      | exact Keeps.refl | assumption | refine State.ropeStage_keeps (by decide) ?_ | refine Keeps.ite ?_ ?_)
    | split)

theorem State.rerunStage_keeps {w : List Fld} {s t : State} (hw : [.regs, .rope] ⊆ w) (h : Keeps w s t) :
    Keeps w s (State.rerunStage t) := h.lift hw (by
  unfold State.rerunStage
  try dsimp only
  repeat' first
    | (with_reducible first
      | exact Keeps.refl | assumption | refine State.bumpRf_keeps (by decide) ?_
      | refine State.setRope_keeps (by decide) ?_)
    | dsimp only)

theorem coldStartStageTimeout_keeps {w : List Fld} {s t : State} (hw : [.regs, .stack, .tileW, .tileA, .ledge,
    .ue, .weak, .stackSt, .pba, .msixHeld, .outs, .units, .summit, .rings, .parts, .ctl, .kernels, .rope] ⊆ w)
    (h : Keeps w s t) :
    Keeps w s (coldStartStageTimeout t) := h.lift hw (by
  unfold coldStartStageTimeout
  try dsimp only
  repeat' first
    | (with_reducible first
      | exact Keeps.refl | assumption | refine State.rerunStage_keeps (by decide) ?_
      | refine State.exclude_keeps (by decide) ?_ | refine Keeps.ite ?_ ?_)
    | split)

theorem regionEnable_keeps {w : List Fld} {s t : State} {a0} (hw : [.regs] ⊆ w) (h : Keeps w s t) :
    Keeps w s (regionEnable a0 t) := h.lift hw (by
  unfold regionEnable
  try dsimp only
  repeat' first
    | (with_reducible first
      | exact Keeps.refl | assumption | refine State.setRbit_keeps (by decide) ?_ | refine Keeps.ite ?_ ?_)
    | split)

end Sys2Proof.Machine
end

