-- ==== Sys2Proof/Laws/KeepsTime.lean ====
section
/-! SUPPORT. What the operations of time and ingress may write: for each, the parts
of the state it changes at most, and that it keeps the maps canonical. -/

-- The many lemmas below are elaborated one after another: the package is checked as one text, and fewer wait at once.
set_option Elab.async false

namespace Sys2Proof.Machine

theorem State.stepClock_keeps {w : List Fld} {s t : State} {a1} (hw : [.clk, .ports] ⊆ w) (h : Keeps w s t) :
    Keeps w s (State.stepClock t a1) := h.lift hw (by
  unfold State.stepClock
  try dsimp only
  repeat' first
    | with_reducible exact Or.inl rfl
    | exact Or.inr (And.intro (by decide) (fun hk => by simp [hk]))
    | (with_reducible first
      | exact Or.inr (by decide) | exact Keeps.refl | assumption | refine State.gateNow_keeps (by decide) ?_
      | refine Keeps.foldl (fun _ _ _ => ?_) _ ?_)
    | dsimp only
    | with_reducible apply Keeps.update)

theorem todRead_keeps {w : List Fld} {s t : State} (hw : [.regs, .rdata] ⊆ w) (h : Keeps w s t) :
    Keeps w s (todRead t) := h.lift hw (by
  unfold todRead
  try dsimp only
  repeat' first
    | with_reducible exact Or.inl rfl
    | exact Or.inr (And.intro (by decide) (fun hk => by simp [hk]))
    | (with_reducible first
      | exact Or.inr (by decide) | exact Keeps.refl | assumption | refine State.setReg_keeps (by decide) ?_
      | refine Keeps.ite ?_ ?_)
    | split
    | with_reducible apply Keeps.update)

theorem State.setServo_keeps {w : List Fld} {s t : State} {a1} (hw : [.ports] ⊆ w) (h : Keeps w s t) :
    Keeps w s (State.setServo t a1) := h.lift hw (by
  unfold State.setServo
  try dsimp only
  repeat' first
    | with_reducible exact Or.inl rfl
    | exact Or.inr (And.intro (by decide) (fun hk => by simp [hk]))
    | (with_reducible first
      | exact Or.inr (by decide) | exact Keeps.refl | assumption | apply Keeps.update))

theorem State.timeCtrl_keeps {w : List Fld} {s t : State} {a1} (hw : [.regs, .clk, .ports] ⊆ w) (h : Keeps w s
    t) :
    Keeps w s (State.timeCtrl t a1) := h.lift hw (by
  unfold State.timeCtrl
  try dsimp only
  repeat' first
    | (with_reducible first
      | exact Keeps.refl | assumption | refine State.setRf_keeps (by decide) ?_
      | refine State.applyWrite_keeps (by decide) ?_ | refine State.setServo_keeps (by decide) ?_
      | refine State.stepClock_keeps (by decide) ?_ | refine Keeps.ite ?_ ?_)
    | split)

theorem ptpEnableWrite_keeps {w : List Fld} {s t : State} {a0} (hw : [.regs, .clk, .ports] ⊆ w) (h : Keeps w s
    t) :
    Keeps w s (ptpEnableWrite a0 t) := h.lift hw (by
  unfold ptpEnableWrite
  try dsimp only
  repeat' first
    | (with_reducible first
      | exact Keeps.refl | assumption | refine State.timeCtrl_keeps (by decide) ?_ | refine Keeps.ite ?_ ?_)
    | split)

theorem timeSetWrite_keeps {w : List Fld} {s t : State} {a0} (hw : [.regs, .clk, .ports] ⊆ w) (h : Keeps w s
    t) :
    Keeps w s (timeSetWrite a0 t) := h.lift hw (by
  unfold timeSetWrite
  try dsimp only
  repeat' first
    | (with_reducible first
      | exact Keeps.refl | assumption | refine State.timeCtrl_keeps (by decide) ?_ | refine Keeps.ite ?_ ?_)
    | split)

theorem State.selectMaster_keeps {w : List Fld} {s t : State} {a1 a2} (hw : [.ports] ⊆ w) (h : Keeps w s t) :
    Keeps w s (State.selectMaster t a1 a2) := h.lift hw (by
  unfold State.selectMaster
  try dsimp only
  repeat' first
    | (with_reducible first
      | exact Keeps.refl | assumption | refine State.setServo_keeps (by decide) ?_ | refine Keeps.ite ?_ ?_)
    | split)

theorem State.takeSync_keeps {w : List Fld} {s t : State} {a1} (hw : [.regs, .clk, .host, .pba, .msixHeld,
    .outs, .summit, .rings, .adminEvents, .parts, .ctl, .radio, .ports, .rope] ⊆ w) (h : Keeps w s t) :
    Keeps w s (State.takeSync t a1) := h.lift hw (by
  unfold State.takeSync
  try dsimp only
  repeat' first
    | (with_reducible first
      | exact Keeps.refl | assumption | refine State.setReg_keeps (by decide) ?_
      | refine State.stepClock_keeps (by decide) ?_ | refine State.setServo_keeps (by decide) ?_
      | refine State.ropeLocked_keeps (by decide) ?_ | refine State.noticePassed_keeps (by decide) ?_
      | refine State.edge_keeps (by decide) ?_ | refine Keeps.ite ?_ ?_)
    | dsimp only
    | split)

theorem State.syncDiff_keeps {w : List Fld} {s t : State} {a1 a2 a3 a4 a5} (hw : [.regs, .clk, .host, .pba,
    .msixHeld, .outs, .summit, .rings, .adminEvents, .parts, .ctl, .radio, .ports, .rope] ⊆ w) (h : Keeps w s
    t) :
    Keeps w s (State.syncDiff t a1 a2 a3 a4 a5) := h.lift hw (by
  unfold State.syncDiff
  try dsimp only
  repeat' first
    | (with_reducible first
      | exact Keeps.refl | assumption | refine State.setServo_keeps (by decide) ?_
      | refine State.takeSync_keeps (by decide) ?_)
    | split)

theorem State.takePtp_keeps {w : List Fld} {s t : State} {a1 a2} (hw : [.regs, .clk, .host, .pba, .msixHeld,
    .outs, .summit, .rings, .adminEvents, .parts, .ctl, .radio, .ports, .rope] ⊆ w) (h : Keeps w s t) :
    Keeps w s (State.takePtp t a1 a2) := h.lift hw (by
  unfold State.takePtp
  try dsimp only
  repeat' first
    | (with_reducible first
      | exact Keeps.refl | assumption | refine State.selectMaster_keeps (by decide) ?_
      | refine State.syncDiff_keeps (by decide) ?_ | refine State.setServo_keeps (by decide) ?_
      | refine State.queuePtp_keeps (by decide) ?_ | refine Keeps.ite ?_ ?_)
    | split)

theorem announceTimeout_keeps {w : List Fld} {s t : State} (hw : [.regs, .pba, .msixHeld, .outs, .ctl, .ports]
    ⊆ w) (h : Keeps w s t) :
    Keeps w s (announceTimeout t) := h.lift hw (by
  unfold announceTimeout
  try dsimp only
  repeat' first
    | (with_reducible first
      | exact Keeps.refl | assumption | refine State.edge_keeps (by decide) ?_
      | refine State.setServo_keeps (by decide) ?_ | refine Keeps.ite ?_ ?_)
    | split)

theorem holdoverExceeded_keeps {w : List Fld} {s t : State} (hw : [.regs, .pba, .msixHeld, .outs, .ctl,
    .ports] ⊆ w) (h : Keeps w s t) :
    Keeps w s (holdoverExceeded t) := h.lift hw (by
  unfold holdoverExceeded
  try dsimp only
  repeat' first
    | (with_reducible first
      | exact Keeps.refl | assumption | refine State.edge_keeps (by decide) ?_
      | refine State.setServo_keeps (by decide) ?_ | refine Keeps.ite ?_ ?_)
    | split)

theorem cmpArm_keeps {w : List Fld} {s t : State} {a0 a1} (hw : [.regs] ⊆ w) (h : Keeps w s t) :
    Keeps w s (cmpArm a0 a1 t) := h.lift hw (by
  unfold cmpArm
  try dsimp only
  repeat' first
    | (with_reducible first
      | exact Keeps.refl | assumption | refine State.applyWrite_keeps (by decide) ?_
      | refine State.setRbit_keeps (by decide) ?_ | refine Keeps.ite ?_ ?_)
    | split)

theorem State.pulse_keeps {w : List Fld} {s t : State} {a1 a2} (hw : [.ports] ⊆ w) (h : Keeps w s t) :
    Keeps w s (State.pulse t a1 a2) := h.lift hw (by
  unfold State.pulse
  try dsimp only
  repeat' first
    | with_reducible exact Or.inl rfl
    | exact Or.inr (And.intro (by decide) (fun hk => by simp [hk]))
    | (with_reducible first
      | exact Or.inr (by decide) | exact Keeps.refl | assumption | refine Keeps.ite ?_ ?_)
    | split
    | with_reducible apply Keeps.update)

theorem cmpFire_keeps {w : List Fld} {s t : State} {a0} (hw : [.regs, .pba, .msixHeld, .outs, .ctl, .ports] ⊆
    w) (h : Keeps w s t) :
    Keeps w s (cmpFire a0 t) := h.lift hw (by
  unfold cmpFire
  try dsimp only
  repeat' first
    | (with_reducible first
      | exact Keeps.refl | assumption | refine State.pulse_keeps (by decide) ?_
      | refine State.edge_keeps (by decide) ?_ | refine State.setRbit_keeps (by decide) ?_
      | refine State.setReg_keeps (by decide) ?_ | refine Keeps.ite ?_ ?_)
    | split)

theorem ppsPulseEnd_keeps {w : List Fld} {s t : State} {a0} (hw : [.ports] ⊆ w) (h : Keeps w s t) :
    Keeps w s (ppsPulseEnd a0 t) := h.lift hw (by
  unfold ppsPulseEnd
  try dsimp only
  repeat' first
    | with_reducible exact Or.inl rfl
    | exact Or.inr (And.intro (by decide) (fun hk => by simp [hk]))
    | (with_reducible first
      | exact Or.inr (by decide) | exact Keeps.refl | assumption | refine Keeps.ite ?_ ?_)
    | split
    | with_reducible apply Keeps.update)

theorem captureArm_keeps {w : List Fld} {s t : State} {a0 a1} (hw : [.regs, .ports] ⊆ w) (h : Keeps w s t) :
    Keeps w s (captureArm a0 a1 t) := h.lift hw (by
  unfold captureArm
  try dsimp only
  repeat' first
    | with_reducible exact Or.inl rfl
    | exact Or.inr (And.intro (by decide) (fun hk => by simp [hk]))
    | (with_reducible first
      | exact Or.inr (by decide) | exact Keeps.refl | assumption | refine State.applyWrite_keeps (by decide) ?_
      | refine State.setRbit_keeps (by decide) ?_ | refine Keeps.ite ?_ ?_)
    | dsimp only
    | split
    | with_reducible apply Keeps.update)

theorem captureEvent_keeps {w : List Fld} {s t : State} {a0} (hw : [.regs, .ports] ⊆ w) (h : Keeps w s t) :
    Keeps w s (captureEvent a0 t) := h.lift hw (by
  unfold captureEvent
  try dsimp only
  repeat' first
    | (with_reducible first
      | exact Keeps.refl | assumption | refine State.captured_keeps (by decide) ?_ | refine Keeps.ite ?_ ?_)
    | dsimp only
    | split)

theorem State.tick_keeps {w : List Fld} {s t : State} (hw : [.now, .clk] ⊆ w) (h : Keeps w s t) :
    Keeps w s (State.tick t) := h.lift hw (by
  unfold State.tick
  try dsimp only
  repeat' first
    | with_reducible exact Or.inl rfl
    | exact Or.inr (And.intro (by decide) (fun hk => by simp [hk]))
    | (with_reducible first
      | exact Or.inr (by decide) | exact Keeps.refl | assumption | refine Keeps.ite ?_ ?_)
    | split
    | with_reducible apply Keeps.update)

theorem State.portCount_keeps {w : List Fld} {s t : State} {a1 a2} (hw : [.regs] ⊆ w) (h : Keeps w s t) :
    Keeps w s (State.portCount t a1 a2) := h.lift hw (by
  unfold State.portCount
  try dsimp only
  repeat' first
    | (with_reducible first
      | exact Keeps.refl | assumption | refine State.bumpRf_keeps (by decide) ?_))

theorem State.cellCount_keeps {w : List Fld} {s t : State} {a1 a2 a3} (hw : [.regs] ⊆ w) (h : Keeps w s t) :
    Keeps w s (State.cellCount t a1 a2 a3) := h.lift hw (by
  unfold State.cellCount
  try dsimp only
  repeat' first
    | (with_reducible first
      | exact Keeps.refl | assumption | refine State.bumpRf_keeps (by decide) ?_))

theorem State.takeSection_keeps {w : List Fld} {s t : State} {a1 a2 a3 a4 a5 a6 a7} (hw : [.regs, .radio] ⊆ w)
    (h : Keeps w s t) (r : _)
    (hr : State.takeSection t a1 a2 a3 a4 a5 a6 a7 = r) : Keeps w s r.1 := h.lift hw (by
  subst hr
  unfold State.takeSection
  try dsimp only
  repeat' first
    | (with_reducible first
      | exact Keeps.refl | assumption | refine State.cellCount_keeps (by decide) ?_
      | refine State.setCell_keeps (by decide) ?_ | refine Keeps.ite ?_ ?_ | refine Keeps.ite_fst ?_ ?_)
    | dsimp only
    | split)

theorem State.takeFronthaul_keeps {w : List Fld} {s t : State} {a1 a2 a3} (hw : [.regs, .radio, .ports] ⊆ w)
    (h : Keeps w s t) :
    Keeps w s (State.takeFronthaul t a1 a2 a3) := h.lift hw (by
  unfold State.takeFronthaul
  try dsimp only
  repeat' first
    | (with_reducible first
      | exact Keeps.refl | assumption | refine State.portCount_keeps (by decide) ?_
      | refine State.cellCount_keeps (by decide) ?_ | refine State.takeSection_keeps (by decide) ?_ _ rfl
      | refine State.takeSection_keeps (by decide) ?_ _ (by assumption)
      | refine State.capture_keeps (by decide) ?_ | refine Keeps.foldl (fun _ _ _ => ?_) _ ?_
      | refine Keeps.foldl_fst (fun _ _ _ => ?_) _ ?_ | refine Keeps.ite ?_ ?_ | refine Keeps.ite_fst ?_ ?_)
    | dsimp only
    | split)

theorem State.dropPart_keeps {w : List Fld} {s t : State} {a1 a2} (hw : [.regs] ⊆ w) (h : Keeps w s t) :
    Keeps w s (State.dropPart t a1 a2) := h.lift hw (by
  unfold State.dropPart
  try dsimp only
  repeat' first
    | (with_reducible first
      | exact Keeps.refl | assumption | refine State.bumpRf_keeps (by decide) ?_
      | refine State.portCount_keeps (by decide) ?_))

theorem State.takePart_keeps {w : List Fld} {s t : State} {a1 a2} (hw : [.regs, .stack, .tileW, .tileA,
    .ledge, .ue, .weak, .stackSt, .pba, .msixHeld, .outs, .units, .summit, .parts, .ctl] ⊆ w) (h : Keeps w s
    t) :
    Keeps w s (State.takePart t a1 a2) := h.lift hw (by
  unfold State.takePart
  try dsimp only
  repeat' first
    | (with_reducible first
      | exact Keeps.refl | assumption | refine State.dropPart_keeps (by decide) ?_
      | refine State.pqNote_keeps (by decide) ?_
      | refine State.takeShare_keeps (by decide) ?_ _ (by assumption)
      | refine State.account_keeps (by decide) ?_ | refine State.pqWrite_keeps (by decide) ?_
      | refine Keeps.ite ?_ ?_)
    | dsimp only
    | split)

theorem frameReceive_keeps {w : List Fld} {s t : State} {a0} (hw : [.regs, .clk, .host, .stack, .tileW,
    .tileA, .ledge, .ue, .weak, .stackSt, .pba, .msixHeld, .outs, .units, .summit, .rings, .adminEvents,
    .parts, .ctl, .radio, .ports, .rope] ⊆ w) (h : Keeps w s t) :
    Keeps w s (frameReceive a0 t) := h.lift hw (by
  unfold frameReceive
  try dsimp only
  repeat' first
    | (with_reducible first
      | exact Keeps.refl | assumption | refine State.portCount_keeps (by decide) ?_
      | refine State.takePart_keeps (by decide) ?_ | refine State.takePtp_keeps (by decide) ?_
      | refine State.takeFronthaul_keeps (by decide) ?_ | refine Keeps.ite ?_ ?_)
    | dsimp only
    | split)

end Sys2Proof.Machine
end

