-- ==== Sys2Proof/Laws/KeepsSystem.lean ====
section
/-! SUPPORT. What the operations of self-tests, security, power and register access may write: for each, the parts
of the state it changes at most, and that it keeps the maps canonical. -/

-- The many lemmas below are elaborated one after another: the package is checked as one text, and fewer wait at once.
set_option Elab.async false

namespace Sys2Proof.Machine

theorem State.notePass_keeps {w : List Fld} {s t : State} {a1} (hw : [.units] ⊆ w) (h : Keeps w s t) :
    Keeps w s (State.notePass t a1) := h.lift hw (by
  unfold State.notePass
  try dsimp only
  repeat' first
    | with_reducible exact Or.inl rfl
    | exact Or.inr (And.intro (by decide) (fun hk => by simp [hk]))
    | (with_reducible first
      | exact Or.inr (by decide) | exact Keeps.refl | assumption)
    | dsimp only
    | with_reducible apply Keeps.update)

theorem State.countKat_keeps {w : List Fld} {s t : State} {a1} (hw : [.regs] ⊆ w) (h : Keeps w s t) :
    Keeps w s (State.countKat t a1) := h.lift hw (by
  unfold State.countKat
  try dsimp only
  repeat' first
    | (with_reducible first
      | exact Keeps.refl | assumption | refine State.bumpRf_keeps (by decide) ?_ | refine Keeps.ite ?_ ?_)
    | split)

theorem State.failSpare_keeps {w : List Fld} {s t : State} {a1} (hw : [.regs, .pba, .msixHeld, .outs, .units,
    .summit, .ctl] ⊆ w) (h : Keeps w s t) :
    Keeps w s (State.failSpare t a1) := h.lift hw (by
  unfold State.failSpare
  try dsimp only
  repeat' first
    | with_reducible exact Or.inl rfl
    | exact Or.inr (And.intro (by decide) (fun hk => by simp [hk]))
    | (with_reducible first
      | exact Or.inr (by decide) | exact Keeps.refl | assumption
      | refine State.noteDeclared_keeps (by decide) ?_ | refine State.markTests_keeps (by decide) ?_)
    | dsimp only
    | with_reducible apply Keeps.update)

theorem State.katMismatch_keeps {w : List Fld} {s t : State} {a1} (hw : [.regs, .host, .stack, .tileW, .tileA,
    .ledge, .ue, .weak, .stackSt, .pba, .msixHeld, .outs, .islands, .units, .summit, .rings, .adminEvents,
    .parts, .ctl, .kernels, .vdes, .leases, .radio, .rope] ⊆ w) (h : Keeps w s t) :
    Keeps w s (State.katMismatch t a1) := h.lift hw (by
  unfold State.katMismatch
  try dsimp only
  repeat' first
    | (with_reducible first
      | exact Keeps.refl | assumption | refine State.countKat_keeps (by decide) ?_
      | refine State.unitFault_keeps (by decide) ?_ | refine State.addFault_keeps (by decide) ?_
      | refine State.record_keeps (by decide) ?_ | refine State.failSpare_keeps (by decide) ?_
      | refine Keeps.ite ?_ ?_)
    | split)

theorem State.katRun_keeps {w : List Fld} {s t : State} {a1 a2} (hw : [.regs, .host, .stack, .tileW, .tileA,
    .ledge, .ue, .weak, .stackSt, .pba, .msixHeld, .outs, .islands, .units, .summit, .rings, .adminEvents,
    .parts, .ctl, .kernels, .vdes, .leases, .radio, .rope] ⊆ w) (h : Keeps w s t) :
    Keeps w s (State.katRun t a1 a2) := h.lift hw (by
  unfold State.katRun
  try dsimp only
  repeat' first
    | (with_reducible first
      | exact Keeps.refl | assumption | refine State.notePass_keeps (by decide) ?_
      | refine State.countKat_keeps (by decide) ?_ | refine State.katMismatch_keeps (by decide) ?_)
    | split)

theorem backgroundKat_keeps {w : List Fld} {s t : State} {a0 a1} (hw : [.regs, .host, .stack, .tileW, .tileA,
    .ledge, .ue, .weak, .stackSt, .pba, .msixHeld, .outs, .islands, .units, .summit, .rings, .adminEvents,
    .parts, .ctl, .kernels, .vdes, .leases, .radio, .rope] ⊆ w) (h : Keeps w s t) :
    Keeps w s (backgroundKat a0 a1 t) := h.lift hw (by
  unfold backgroundKat
  try dsimp only
  repeat' first
    | (with_reducible first
      | exact Keeps.refl | assumption | refine State.katRun_keeps (by decide) ?_ | refine Keeps.ite ?_ ?_)
    | split)

theorem State.finishTest_keeps {w : List Fld} {s t : State} {a1 a2 a3} (hw : [.regs, .host, .pba, .msixHeld,
    .outs, .units, .rings, .adminEvents, .parts, .ctl] ⊆ w) (h : Keeps w s t) :
    Keeps w s (State.finishTest t a1 a2 a3) := h.lift hw (by
  unfold State.finishTest
  try dsimp only
  repeat' first
    | with_reducible exact Or.inl rfl
    | exact Or.inr (And.intro (by decide) (fun hk => by simp [hk]))
    | (with_reducible first
      | exact Or.inr (by decide) | exact Keeps.refl | assumption | refine State.finishDesc_keeps (by decide) ?_
      | refine State.putHost_keeps (by decide) ?_ | refine State.refuseWrite_keeps (by decide) ?_
      | refine Keeps.ite ?_ ?_)
    | dsimp only
    | split
    | with_reducible apply Keeps.update)

theorem State.putTest_keeps {w : List Fld} {s t : State} {a1} (hw : [.units] ⊆ w) (h : Keeps w s t) :
    Keeps w s (State.putTest t a1) := h.lift hw (by
  unfold State.putTest
  try dsimp only
  repeat' first
    | with_reducible exact Or.inl rfl
    | exact Or.inr (And.intro (by decide) (fun hk => by simp [hk]))
    | (with_reducible first
      | exact Or.inr (by decide) | exact Keeps.refl | assumption | refine Keeps.ite ?_ ?_)
    | dsimp only
    | split
    | with_reducible apply Keeps.update)

theorem State.endTest_keeps {w : List Fld} {s t : State} {a1} (hw : [.regs, .host, .pba, .msixHeld, .outs,
    .units, .rings, .adminEvents, .parts, .ctl] ⊆ w) (h : Keeps w s t) :
    Keeps w s (State.endTest t a1) := h.lift hw (by
  unfold State.endTest
  try dsimp only
  repeat' first
    | (with_reducible first
      | exact Keeps.refl | assumption | refine State.finishTest_keeps (by decide) ?_ | refine Keeps.ite ?_ ?_)
    | split)

theorem State.startTest_keeps {w : List Fld} {s t : State} {a1 a2} (hw : [.regs, .host, .pba, .msixHeld,
    .outs, .units, .rings, .adminEvents, .parts, .ctl] ⊆ w) (h : Keeps w s t) :
    Keeps w s (State.startTest t a1 a2) := h.lift hw (by
  unfold State.startTest
  try dsimp only
  repeat' first
    | with_reducible exact Or.inl rfl
    | exact Or.inr (And.intro (by decide) (fun hk => by simp [hk]))
    | (with_reducible first
      | exact Or.inr (by decide) | exact Keeps.refl | assumption
      | refine State.admitAdmin_keeps (by decide) (fun _ _ _ => ?_) ?_
      | refine State.finishDesc_keeps (by decide) ?_ | refine State.startDesc_keeps (by decide) ?_
      | refine State.endTest_keeps (by decide) ?_ | refine Keeps.ite ?_ ?_)
    | dsimp only
    | split
    | with_reducible apply Keeps.update)

theorem State.testRun_keeps {w : List Fld} {s t : State} {a1 a2} (hw : [.regs, .host, .stack, .tileW, .tileA,
    .ledge, .ue, .weak, .stackSt, .pba, .msixHeld, .outs, .islands, .units, .summit, .rings, .adminEvents,
    .parts, .ctl, .kernels, .vdes, .leases, .radio, .rope] ⊆ w) (h : Keeps w s t) :
    Keeps w s (State.testRun t a1 a2) := h.lift hw (by
  unfold State.testRun
  try dsimp only
  repeat' first
    | (with_reducible first
      | exact Keeps.refl | assumption | refine State.katRun_keeps (by decide) ?_
      | refine State.endTest_keeps (by decide) ?_ | refine State.putTest_keeps (by decide) ?_
      | refine Keeps.ite ?_ ?_)
    | split)

theorem katUnit_keeps {w : List Fld} {s t : State} {a0 a1} (hw : [.regs, .host, .stack, .tileW, .tileA,
    .ledge, .ue, .weak, .stackSt, .pba, .msixHeld, .outs, .islands, .units, .summit, .rings, .adminEvents,
    .parts, .ctl, .kernels, .vdes, .leases, .radio, .rope] ⊆ w) (h : Keeps w s t) :
    Keeps w s (katUnit a0 a1 t) := h.lift hw (by
  unfold katUnit
  try dsimp only
  repeat' first
    | (with_reducible first
      | exact Keeps.refl | assumption | refine State.startTest_keeps (by decide) ?_
      | refine State.testRun_keeps (by decide) ?_ | refine Keeps.foldl (fun _ _ _ => ?_) _ ?_
      | refine Keeps.ite ?_ ?_)
    | dsimp only
    | split)

theorem katClass_keeps {w : List Fld} {s t : State} {a0 a1} (hw : [.regs, .host, .stack, .tileW, .tileA,
    .ledge, .ue, .weak, .stackSt, .pba, .msixHeld, .outs, .islands, .units, .summit, .rings, .adminEvents,
    .parts, .ctl, .kernels, .vdes, .leases, .radio, .rope] ⊆ w) (h : Keeps w s t) :
    Keeps w s (katClass a0 a1 t) := h.lift hw (by
  unfold katClass
  try dsimp only
  repeat' first
    | (with_reducible first
      | exact Keeps.refl | assumption | refine State.startTest_keeps (by decide) ?_
      | refine State.testRun_keeps (by decide) ?_ | refine Keeps.foldl (fun _ _ _ => ?_) _ ?_
      | refine Keeps.ite ?_ ?_)
    | dsimp only
    | split)

theorem State.monitorRun_keeps {w : List Fld} {s t : State} {a1 a2} (hw : [.regs, .host, .pba, .msixHeld,
    .outs, .units, .summit, .rings, .adminEvents, .parts, .ctl, .leases, .radio] ⊆ w) (h : Keeps w s t) :
    Keeps w s (State.monitorRun t a1 a2) := h.lift hw (by
  unfold State.monitorRun
  try dsimp only
  repeat' first
    | (with_reducible first
      | exact Keeps.refl | assumption | refine State.edge_keeps (by decide) ?_
      | refine State.record_keeps (by decide) ?_ | refine State.declareEmerg_keeps (by decide) ?_
      | refine State.setEmerg_keeps (by decide) ?_ | refine State.endTest_keeps (by decide) ?_
      | refine State.putTest_keeps (by decide) ?_ | refine Keeps.ite ?_ ?_)
    | split)

theorem monitorCheck_keeps {w : List Fld} {s t : State} {a0 a1} (hw : [.regs, .host, .pba, .msixHeld, .outs,
    .units, .summit, .rings, .adminEvents, .parts, .ctl, .leases, .radio] ⊆ w) (h : Keeps w s t) :
    Keeps w s (monitorCheck a0 a1 t) := h.lift hw (by
  unfold monitorCheck
  try dsimp only
  repeat' first
    | (with_reducible first
      | exact Keeps.refl | assumption | refine State.startTest_keeps (by decide) ?_
      | refine State.monitorRun_keeps (by decide) ?_ | refine Keeps.foldl (fun _ _ _ => ?_) _ ?_
      | refine Keeps.ite ?_ ?_)
    | dsimp only
    | split)

theorem State.marginRun_keeps {w : List Fld} {s t : State} {a1 a2} (hw : [.regs, .host, .stackSt, .pba,
    .msixHeld, .outs, .units, .summit, .rings, .adminEvents, .parts, .ctl] ⊆ w) (h : Keeps w s t) :
    Keeps w s (State.marginRun t a1 a2) := h.lift hw (by
  unfold State.marginRun
  try dsimp only
  repeat' first
    | (with_reducible first
      | exact Keeps.refl | assumption | refine State.lineFault_keeps (by decide) ?_
      | refine State.endTest_keeps (by decide) ?_ | refine State.putTest_keeps (by decide) ?_
      | refine Keeps.foldl (fun _ _ _ => ?_) _ ?_ | refine Keeps.foldl_fst (fun _ _ _ => ?_) _ ?_
      | refine Keeps.ite ?_ ?_)
    | dsimp only
    | split)

theorem marginCheck_keeps {w : List Fld} {s t : State} {a0 a1} (hw : [.regs, .host, .stackSt, .pba, .msixHeld,
    .outs, .units, .summit, .rings, .adminEvents, .parts, .ctl] ⊆ w) (h : Keeps w s t) :
    Keeps w s (marginCheck a0 a1 t) := h.lift hw (by
  unfold marginCheck
  try dsimp only
  repeat' first
    | (with_reducible first
      | exact Keeps.refl | assumption | refine State.startTest_keeps (by decide) ?_
      | refine State.marginRun_keeps (by decide) ?_ | refine Keeps.foldl (fun _ _ _ => ?_) _ ?_
      | refine Keeps.ite ?_ ?_)
    | dsimp only
    | split)

theorem selftestDeferred_keeps {w : List Fld} {s t : State} {a0} (hw : [.regs, .host, .pba, .msixHeld, .outs,
    .units, .summit, .rings, .adminEvents, .parts, .ctl] ⊆ w) (h : Keeps w s t) :
    Keeps w s (selftestDeferred a0 t) := h.lift hw (by
  unfold selftestDeferred
  try dsimp only
  repeat' first
    | (with_reducible first
      | exact Keeps.refl | assumption | refine State.finishTest_keeps (by decide) ?_
      | refine State.record_keeps (by decide) ?_ | refine Keeps.ite ?_ ?_)
    | dsimp only
    | split)

theorem State.startupFail_keeps {w : List Fld} {s t : State} {a1} (hw : [.regs, .host, .stack, .tileW, .tileA,
    .ledge, .ue, .weak, .stackSt, .pba, .msixHeld, .outs, .islands, .units, .summit, .rings, .adminEvents,
    .parts, .ctl, .kernels, .vdes, .leases, .radio, .rope] ⊆ w) (h : Keeps w s t) :
    Keeps w s (State.startupFail t a1) := h.lift hw (by
  unfold State.startupFail
  try dsimp only
  repeat' first
    | with_reducible exact Or.inl rfl
    | exact Or.inr (And.intro (by decide) (fun hk => by simp [hk]))
    | (with_reducible first
      | exact Or.inr (by decide) | exact Keeps.refl | assumption
      | refine State.declareUnit_keeps (by decide) ?_ | refine State.record_keeps (by decide) ?_
      | refine State.failSpare_keeps (by decide) ?_ | refine Keeps.foldl (fun _ _ _ => ?_) _ ?_)
    | dsimp only
    | split
    | with_reducible apply Keeps.update)

theorem evrFreeze_keeps {w : List Fld} {s t : State} (hw : [.regs] ⊆ w) (h : Keeps w s t) :
    Keeps w s (evrFreeze t) := h.lift hw (by
  unfold evrFreeze
  try dsimp only
  repeat' first
    | (with_reducible first
      | exact Keeps.refl | assumption | refine State.setRbit_keeps (by decide) ?_ | refine Keeps.ite ?_ ?_)
    | split)

theorem evrUnfreeze_keeps {w : List Fld} {s t : State} (hw : [.regs, .pba, .msixHeld, .outs, .summit, .ctl] ⊆
    w) (h : Keeps w s t) :
    Keeps w s (evrUnfreeze t) := h.lift hw (by
  unfold evrUnfreeze
  try dsimp only
  repeat' first
    | (with_reducible first
      | exact Keeps.refl | assumption | refine State.applyHeld_keeps (by decide) ?_
      | refine State.setRbit_keeps (by decide) ?_ | refine Keeps.ite ?_ ?_)
    | split)

theorem evrClear_keeps {w : List Fld} {s t : State} (hw : [.summit] ⊆ w) (h : Keeps w s t) :
    Keeps w s (evrClear t) := h.lift hw (by
  unfold evrClear
  try dsimp only
  repeat' first
    | with_reducible exact Or.inl rfl
    | exact Or.inr (And.intro (by decide) (fun hk => by simp [hk]))
    | (with_reducible first
      | exact Or.inr (by decide) | exact Keeps.refl | assumption | refine Keeps.ite ?_ ?_)
    | split
    | with_reducible apply Keeps.update)

theorem State.setSec_keeps {w : List Fld} {s t : State} {a1} (hw : [.sec] ⊆ w) (h : Keeps w s t) :
    Keeps w s (State.setSec t a1) := h.lift hw (by
  unfold State.setSec
  try dsimp only
  repeat' first
    | with_reducible exact Or.inl rfl
    | exact Or.inr (And.intro (by decide) (fun hk => by simp [hk]))
    | (with_reducible first
      | exact Or.inr (by decide) | exact Keeps.refl | assumption | apply Keeps.update))

theorem ryrnHeartbeat_keeps {w : List Fld} {s t : State} (hw : [.sec] ⊆ w) (h : Keeps w s t) :
    Keeps w s (ryrnHeartbeat t) := h.lift hw (by
  unfold ryrnHeartbeat
  try dsimp only
  repeat' first
    | (with_reducible first
      | exact Keeps.refl | assumption | refine State.setSec_keeps (by decide) ?_ | refine Keeps.ite ?_ ?_)
    | dsimp only
    | split)

theorem watchdogQuiesce_keeps {w : List Fld} {s t : State} (hw : [.regs, .pba, .msixHeld, .outs, .summit,
    .ctl, .sec] ⊆ w) (h : Keeps w s t) :
    Keeps w s (watchdogQuiesce t) := h.lift hw (by
  unfold watchdogQuiesce
  try dsimp only
  repeat' first
    | (with_reducible first
      | exact Keeps.refl | assumption | refine State.setSec_keeps (by decide) ?_
      | refine State.record_keeps (by decide) ?_ | refine State.edge_keeps (by decide) ?_
      | refine Keeps.ite ?_ ?_)
    | dsimp only
    | split)

theorem State.setFw_keeps {w : List Fld} {s t : State} {a1} (hw : [.regs, .pba, .msixHeld, .outs, .ctl, .sec]
    ⊆ w) (h : Keeps w s t) :
    Keeps w s (State.setFw t a1) := h.lift hw (by
  unfold State.setFw
  try dsimp only
  repeat' first
    | (with_reducible first
      | exact Keeps.refl | assumption | refine State.edge_keeps (by decide) ?_
      | refine State.setSec_keeps (by decide) ?_)
    | dsimp only)

theorem State.fwUpdate_keeps {w : List Fld} {s t : State} {a1 a2} (hw : [.rings] ⊆ w)
    (hk : ∀ x0 x1, Keeps w s x0 → Keeps w s (a2 x0 x1)) (h : Keeps w s t) :
    Keeps w s (State.fwUpdate t a1 a2) := by
  unfold State.fwUpdate
  try dsimp only
  repeat' first
    | (with_reducible first
      | exact Keeps.refl | assumption | refine hk _ _ ?_
      | refine State.admitAdmin_keeps (List.Subset.trans (by decide) hw) (fun _ _ _ => ?_) ?_
      | refine State.finishDesc_keeps (List.Subset.trans (by decide) hw) ?_ | refine Keeps.ite ?_ ?_)
    | dsimp only
    | split

theorem fwStage_keeps {w : List Fld} {s t : State} {a0} (hw : [.regs, .pba, .msixHeld, .outs, .rings, .ctl,
    .sec] ⊆ w) (h : Keeps w s t) :
    Keeps w s (fwStage a0 t) := h.lift hw (by
  unfold fwStage
  try dsimp only
  repeat' first
    | (with_reducible first
      | exact Keeps.refl | assumption | refine State.fwUpdate_keeps (by decide) (fun _ _ _ => ?_) ?_
      | refine State.setFw_keeps (by decide) ?_ | refine State.setSec_keeps (by decide) ?_
      | refine State.startDesc_keeps (by decide) ?_ | refine State.finishDesc_keeps (by decide) ?_
      | refine Keeps.ite ?_ ?_)
    | dsimp only
    | split)

theorem fwDiscard_keeps {w : List Fld} {s t : State} (hw : [.regs, .pba, .msixHeld, .outs, .rings, .ctl, .sec]
    ⊆ w) (h : Keeps w s t) :
    Keeps w s (fwDiscard t) := h.lift hw (by
  unfold fwDiscard
  try dsimp only
  repeat' first
    | (with_reducible first
      | exact Keeps.refl | assumption | refine State.fwUpdate_keeps (by decide) (fun _ _ _ => ?_) ?_
      | refine State.finishDesc_keeps (by decide) ?_ | refine State.setFw_keeps (by decide) ?_
      | refine State.setSec_keeps (by decide) ?_)
    | dsimp only
    | split)

theorem fwActivate_keeps {w : List Fld} {s t : State} (hw : [.regs, .pba, .msixHeld, .outs, .rings, .ctl,
    .sec] ⊆ w) (h : Keeps w s t) :
    Keeps w s (fwActivate t) := h.lift hw (by
  unfold fwActivate
  try dsimp only
  repeat' first
    | (with_reducible first
      | exact Keeps.refl | assumption | refine State.fwUpdate_keeps (by decide) (fun _ _ _ => ?_) ?_
      | refine State.setFw_keeps (by decide) ?_ | refine State.setSec_keeps (by decide) ?_
      | refine State.startDesc_keeps (by decide) ?_)
    | dsimp only)

theorem State.spdmOut_keeps {w : List Fld} {s t : State} {a1 a2} (hw : [.outs] ⊆ w) (h : Keeps w s t) :
    Keeps w s (State.spdmOut t a1 a2) := h.lift hw (by
  unfold State.spdmOut
  try dsimp only
  repeat' first
    | with_reducible exact Or.inl rfl
    | exact Or.inr (And.intro (by decide) (fun hk => by simp [hk]))
    | (with_reducible first
      | exact Or.inr (by decide) | exact Keeps.refl | assumption | apply Keeps.update))

theorem State.mailbox_keeps {w : List Fld} {s t : State} {a1 a2} (hw : [.outs] ⊆ w)
    (hk : ∀ x0, Keeps w s x0 → Keeps w s (a2 x0)) (h : Keeps w s t) :
    Keeps w s (State.mailbox t a1 a2) := by
  unfold State.mailbox
  try dsimp only
  repeat' first
    | (with_reducible first
      | exact Keeps.refl | assumption | refine hk _ ?_
      | refine State.configured_keeps (List.Subset.trans (by decide) hw) (fun _ _ => ?_) ?_
      | refine Keeps.ite ?_ ?_)
    | dsimp only
    | split

theorem State.spdm_keeps {w : List Fld} {s t : State} {a1 a2} (hw : [.outs] ⊆ w)
    (hk : ∀ x0, Keeps w s x0 → Keeps w s (a2 x0)) (h : Keeps w s t) :
    Keeps w s (State.spdm t a1 a2) := by
  unfold State.spdm
  try dsimp only
  repeat' first
    | (with_reducible first
      | exact Keeps.refl | assumption | refine hk _ ?_
      | refine State.mailbox_keeps (List.Subset.trans (by decide) hw) (fun _ _ => ?_) ?_
      | refine State.spdmOut_keeps (List.Subset.trans (by decide) hw) ?_ | refine Keeps.ite ?_ ?_)
    | dsimp only
    | split

theorem getVersion_keeps {w : List Fld} {s t : State} {a0} (hw : [.outs, .sec] ⊆ w) (h : Keeps w s t) :
    Keeps w s (getVersion a0 t) := h.lift hw (by
  unfold getVersion
  try dsimp only
  repeat' first
    | (with_reducible first
      | exact Keeps.refl | assumption | refine State.mailbox_keeps (by decide) (fun _ _ => ?_) ?_
      | refine State.spdmOut_keeps (by decide) ?_ | refine State.setBox_keeps (by decide) ?_)
    | dsimp only)

theorem getCapabilities_keeps {w : List Fld} {s t : State} {a0} (hw : [.outs, .sec] ⊆ w) (h : Keeps w s t) :
    Keeps w s (getCapabilities a0 t) := h.lift hw (by
  unfold getCapabilities
  try dsimp only
  repeat' first
    | (with_reducible first
      | exact Keeps.refl | assumption | refine State.mailbox_keeps (by decide) (fun _ _ => ?_) ?_
      | refine State.spdmOut_keeps (by decide) ?_ | refine State.setBox_keeps (by decide) ?_
      | refine Keeps.ite ?_ ?_)
    | dsimp only
    | split)

theorem negotiate_keeps {w : List Fld} {s t : State} {a0 a1} (hw : [.outs, .sec] ⊆ w) (h : Keeps w s t) :
    Keeps w s (negotiate a0 a1 t) := h.lift hw (by
  unfold negotiate
  try dsimp only
  repeat' first
    | (with_reducible first
      | exact Keeps.refl | assumption | refine State.mailbox_keeps (by decide) (fun _ _ => ?_) ?_
      | refine State.spdmOut_keeps (by decide) ?_ | refine State.setBox_keeps (by decide) ?_
      | refine Keeps.ite ?_ ?_)
    | dsimp only
    | split)

theorem getDigests_keeps {w : List Fld} {s t : State} {a0} (hw : [.outs] ⊆ w) (h : Keeps w s t) :
    Keeps w s (getDigests a0 t) := h.lift hw (by
  unfold getDigests
  try dsimp only
  repeat' first
    | (with_reducible first
      | exact Keeps.refl | assumption | refine State.spdm_keeps (by decide) (fun _ _ => ?_) ?_
      | refine State.spdmOut_keeps (by decide) ?_)
    | dsimp only)

theorem getCertificate_keeps {w : List Fld} {s t : State} {a0 a1 a2 a3} (hw : [.outs] ⊆ w) (h : Keeps w s t) :
    Keeps w s (getCertificate a0 a1 a2 a3 t) := h.lift hw (by
  unfold getCertificate
  try dsimp only
  repeat' first
    | (with_reducible first
      | exact Keeps.refl | assumption | refine State.spdm_keeps (by decide) (fun _ _ => ?_) ?_
      | refine State.spdmOut_keeps (by decide) ?_ | refine Keeps.ite ?_ ?_)
    | dsimp only
    | split)

theorem State.attestOrHold_keeps {w : List Fld} {s t : State} {a1 a2} (hw : [.outs, .sec] ⊆ w) (h : Keeps w s
    t) :
    Keeps w s (State.attestOrHold t a1 a2) := h.lift hw (by
  unfold State.attestOrHold
  try dsimp only
  repeat' first
    | (with_reducible first
      | exact Keeps.refl | assumption | refine State.spdm_keeps (by decide) (fun _ _ => ?_) ?_
      | refine State.setSec_keeps (by decide) ?_ | refine State.spdmOut_keeps (by decide) ?_
      | refine Keeps.ite ?_ ?_)
    | dsimp only
    | split)

theorem challenge_keeps {w : List Fld} {s t : State} {a0 a1 a2} (hw : [.outs, .sec] ⊆ w) (h : Keeps w s t) :
    Keeps w s (challenge a0 a1 a2 t) := h.lift hw (by
  unfold challenge
  try dsimp only
  repeat' first
    | (with_reducible first
      | exact Keeps.refl | assumption | refine State.attestOrHold_keeps (by decide) ?_))

theorem getMeasurements_keeps {w : List Fld} {s t : State} {a0 a1 a2 a3} (hw : [.outs, .sec] ⊆ w) (h : Keeps w
    s t) :
    Keeps w s (getMeasurements a0 a1 a2 a3 t) := h.lift hw (by
  unfold getMeasurements
  try dsimp only
  repeat' first
    | (with_reducible first
      | exact Keeps.refl | assumption | refine State.attestOrHold_keeps (by decide) ?_))

theorem State.answerHeld_keeps {w : List Fld} {s t : State} (hw : [.outs, .sec] ⊆ w) (h : Keeps w s t) :
    Keeps w s (State.answerHeld t) := h.lift hw (by
  unfold State.answerHeld
  try dsimp only
  repeat' first
    | (with_reducible first
      | exact Keeps.refl | assumption | refine State.spdmOut_keeps (by decide) ?_
      | refine State.setSec_keeps (by decide) ?_ | refine Keeps.foldl (fun _ _ _ => ?_) _ ?_
      | refine Keeps.foldl_fst (fun _ _ _ => ?_) _ ?_)
    | dsimp only)

theorem keyExchange_keeps {w : List Fld} {s t : State} {a0 a1} (hw : [.free, .outs, .sec] ⊆ w) (h : Keeps w s
    t) :
    Keeps w s (keyExchange a0 a1 t) := h.lift hw (by
  unfold keyExchange
  try dsimp only
  repeat' first
    | (with_reducible first
      | exact Keeps.refl | assumption | refine State.spdm_keeps (by decide) (fun _ _ => ?_) ?_
      | refine State.spdmOut_keeps (by decide) ?_ | refine State.setBox_keeps (by decide) ?_
      | refine State.drawn_keeps (by decide) ?_)
    | dsimp only
    | split)

theorem State.inSession_keeps {w : List Fld} {s t : State} {a1 a2 a3 a4 a5} (hw : [.outs, .sec] ⊆ w) (h :
    Keeps w s t) :
    Keeps w s (State.inSession t a1 a2 a3 a4 a5) := h.lift hw (by
  unfold State.inSession
  try dsimp only
  repeat' first
    | (with_reducible first
      | exact Keeps.refl | assumption | refine State.spdm_keeps (by decide) (fun _ _ => ?_) ?_
      | refine State.spdmOut_keeps (by decide) ?_ | refine State.setBox_keeps (by decide) ?_)
    | dsimp only
    | split)

theorem finish_keeps {w : List Fld} {s t : State} {a0 a1} (hw : [.outs, .sec] ⊆ w) (h : Keeps w s t) :
    Keeps w s (finish a0 a1 t) := h.lift hw (by
  unfold finish
  try dsimp only
  repeat' first
    | (with_reducible first
      | exact Keeps.refl | assumption | refine State.inSession_keeps (by decide) ?_)
    | dsimp only)

theorem spdmHeartbeat_keeps {w : List Fld} {s t : State} {a0 a1} (hw : [.outs, .sec] ⊆ w) (h : Keeps w s t) :
    Keeps w s (spdmHeartbeat a0 a1 t) := h.lift hw (by
  unfold spdmHeartbeat
  try dsimp only
  repeat' first
    | (with_reducible first
      | exact Keeps.refl | assumption | refine State.inSession_keeps (by decide) ?_)
    | dsimp only)

theorem keyUpdate_keeps {w : List Fld} {s t : State} {a0 a1} (hw : [.outs, .sec] ⊆ w) (h : Keeps w s t) :
    Keeps w s (keyUpdate a0 a1 t) := h.lift hw (by
  unfold keyUpdate
  try dsimp only
  repeat' first
    | (with_reducible first
      | exact Keeps.refl | assumption | refine State.inSession_keeps (by decide) ?_)
    | dsimp only)

theorem endSession_keeps {w : List Fld} {s t : State} {a0 a1} (hw : [.outs, .sec] ⊆ w) (h : Keeps w s t) :
    Keeps w s (endSession a0 a1 t) := h.lift hw (by
  unfold endSession
  try dsimp only
  repeat' first
    | (with_reducible first
      | exact Keeps.refl | assumption | refine State.inSession_keeps (by decide) ?_)
    | dsimp only)

theorem ideKm_keeps {w : List Fld} {s t : State} {a0 a1 a2} (hw : [.outs, .sec] ⊆ w) (h : Keeps w s t) :
    Keeps w s (ideKm a0 a1 a2 t) := h.lift hw (by
  unfold ideKm
  try dsimp only
  repeat' first
    | (with_reducible first
      | exact Keeps.refl | assumption | refine State.spdm_keeps (by decide) (fun _ _ => ?_) ?_
      | refine State.spdmOut_keeps (by decide) ?_ | refine State.setSec_keeps (by decide) ?_
      | refine Keeps.ite ?_ ?_)
    | dsimp only
    | split)

theorem ideFailure_keeps {w : List Fld} {s t : State} (hw : [.regs, .pba, .msixHeld, .outs, .ctl, .sec] ⊆ w)
    (h : Keeps w s t) :
    Keeps w s (ideFailure t) := h.lift hw (by
  unfold ideFailure
  try dsimp only
  repeat' first
    | (with_reducible first
      | exact Keeps.refl | assumption | refine State.edge_keeps (by decide) ?_
      | refine State.setSec_keeps (by decide) ?_ | refine Keeps.ite ?_ ?_)
    | dsimp only
    | split)

theorem fwCommit_keeps {w : List Fld} {s t : State} (hw : [.fuses, .regs, .pba, .msixHeld, .outs, .rings,
    .ctl, .sec] ⊆ w) (h : Keeps w s t) :
    Keeps w s (fwCommit t) := h.lift hw (by
  unfold fwCommit
  try dsimp only
  repeat' first
    | with_reducible exact Or.inl rfl
    | exact Or.inr (And.intro (by decide) (fun hk => by simp [hk]))
    | (with_reducible first
      | exact Or.inr (by decide) | exact Keeps.refl | assumption | refine State.setSec_keeps (by decide) ?_
      | refine State.answerHeld_keeps (by decide) ?_ | refine State.finishDesc_keeps (by decide) ?_
      | refine State.setFw_keeps (by decide) ?_ | refine State.endSessions_keeps (by decide) ?_
      | refine Keeps.ite ?_ ?_)
    | dsimp only
    | split
    | with_reducible apply Keeps.update)

theorem fwRollback_keeps {w : List Fld} {s t : State} (hw : [.regs, .pba, .msixHeld, .outs, .rings, .ctl,
    .sec] ⊆ w) (h : Keeps w s t) :
    Keeps w s (fwRollback t) := h.lift hw (by
  unfold fwRollback
  try dsimp only
  repeat' first
    | (with_reducible first
      | exact Keeps.refl | assumption | refine State.setSec_keeps (by decide) ?_
      | refine State.answerHeld_keeps (by decide) ?_ | refine State.finishDesc_keeps (by decide) ?_
      | refine State.setFw_keeps (by decide) ?_ | refine Keeps.ite ?_ ?_)
    | dsimp only
    | split)

theorem State.tspMove_keeps {w : List Fld} {s t : State} {a1 a2 a3} (hw : [.outs, .parts] ⊆ w) (h : Keeps w s
    t) :
    Keeps w s (State.tspMove t a1 a2 a3) := h.lift hw (by
  unfold State.tspMove
  try dsimp only
  repeat' first
    | (with_reducible first
      | exact Keeps.refl | assumption | refine State.spdmOut_keeps (by decide) ?_
      | refine State.setPart_keeps (by decide) ?_ | refine Keeps.ite ?_ ?_)
    | dsimp only
    | split)

theorem tspLock_keeps {w : List Fld} {s t : State} {a0} (hw : [.outs, .parts] ⊆ w) (h : Keeps w s t) :
    Keeps w s (tspLock a0 t) := h.lift hw (by
  unfold tspLock
  try dsimp only
  repeat' first
    | (with_reducible first
      | exact Keeps.refl | assumption | refine State.tspMove_keeps (by decide) ?_)
    | dsimp only)

theorem tspRun_keeps {w : List Fld} {s t : State} {a0 a1} (hw : [.outs, .parts] ⊆ w) (h : Keeps w s t) :
    Keeps w s (tspRun a0 a1 t) := h.lift hw (by
  unfold tspRun
  try dsimp only
  repeat' first
    | (with_reducible first
      | exact Keeps.refl | assumption | refine State.tspMove_keeps (by decide) ?_)
    | dsimp only)

theorem tspError_keeps {w : List Fld} {s t : State} {a0} (hw : [.parts] ⊆ w) (h : Keeps w s t) :
    Keeps w s (tspError a0 t) := h.lift hw (by
  unfold tspError
  try dsimp only
  repeat' first
    | (with_reducible first
      | exact Keeps.refl | assumption | refine State.setPart_keeps (by decide) ?_ | refine Keeps.ite ?_ ?_)
    | split)

theorem State.setIslandMv_keeps {w : List Fld} {s t : State} {a1} (hw : [.islands] ⊆ w) (h : Keeps w s t) :
    Keeps w s (State.setIslandMv t a1) := h.lift hw (by
  unfold State.setIslandMv
  try dsimp only
  repeat' first
    | (with_reducible first
      | exact Keeps.refl | assumption | refine State.setIsland_keeps (by decide) ?_
      | refine Keeps.foldl (fun _ _ _ => ?_) _ ?_ | refine Keeps.foldl_fst (fun _ _ _ => ?_) _ ?_)
    | dsimp only)

theorem State.afterReset_keeps {w : List Fld} {s t : State} {a1} (hw : [.regs, .staged, .latched, .rdata,
    .clk, .stack, .tileW, .tileA, .ledge, .ue, .weak, .stackSt, .msixT, .pba, .msixHeld, .cxlLink, .power,
    .islands, .units, .summit, .rings, .adminEvents, .parts, .ctl, .kernels, .nextKernel, .vdes, .leases,
    .radio, .ports, .rope, .sec, .withheldUnits, .withheldHalves, .withheldLedge, .numVfs] ⊆ w) (h : Keeps w s
    t) :
    Keeps w s (State.afterReset t a1) := h.lift hw (by
  unfold State.afterReset
  dsimp only
  refine Keeps.ite ?_ ?_
  · refine State.setIslandMv_keeps (by decide) (State.setRbit_keeps (by decide) ?_)
    apply Keeps.update
    · exact Keeps.refl
    all_goals first
      | with_reducible exact Or.inl rfl
      | exact Or.inr (And.intro (by decide) (fun hk => by first | exact SMap.wf_filter _ _ hk | rfl))
      | with_reducible exact Or.inr (by decide)
  · refine State.setRbit_keeps (by decide) ?_
    apply Keeps.update
    · exact Keeps.refl
    all_goals first
      | with_reducible exact Or.inl rfl
      | exact Or.inr (And.intro (by decide) (fun hk => by first | exact SMap.wf_filter _ _ hk | rfl))
      | with_reducible exact Or.inr (by decide))

theorem State.loadFuses_keeps {w : List Fld} {s t : State} (hw : [.power] ⊆ w) (h : Keeps w s t) :
    Keeps w s (State.loadFuses t) := h.lift hw (by
  unfold State.loadFuses
  try dsimp only
  repeat' first
    | with_reducible exact Or.inl rfl
    | exact Or.inr (And.intro (by decide) (fun hk => by simp [hk]))
    | (with_reducible first
      | exact Or.inr (by decide) | exact Keeps.refl | assumption)
    | split
    | with_reducible apply Keeps.update)

theorem State.coldReset_keeps {w : List Fld} {s t : State} {a1} (hw : [.regs, .staged, .latched, .rdata, .clk,
    .stack, .tileW, .tileA, .ledge, .ue, .weak, .stackSt, .msixT, .pba, .msixHeld, .cxlLink, .power, .islands,
    .units, .summit, .rings, .adminEvents, .parts, .ctl, .kernels, .nextKernel, .vdes, .leases, .radio,
    .ports, .rope, .sec, .withheldUnits, .withheldHalves, .withheldLedge, .numVfs] ⊆ w) (h : Keeps w s t) :
    Keeps w s (State.coldReset t a1) := h.lift hw (by
  unfold State.coldReset
  try dsimp only
  repeat' first
    | with_reducible exact Or.inl rfl
    | exact Or.inr (And.intro (by decide) (fun hk => by simp [hk]))
    | (with_reducible first
      | exact Or.inr (by decide) | exact Keeps.refl | assumption | refine State.afterReset_keeps (by decide) ?_
      | refine State.loadFuses_keeps (by decide) ?_)
    | dsimp only
    | with_reducible apply Keeps.update)

theorem State.warmReset_keeps {w : List Fld} {s t : State} {a1} (hw : [.regs, .staged, .latched, .rdata, .clk,
    .stack, .tileW, .tileA, .ledge, .ue, .weak, .stackSt, .msixT, .pba, .msixHeld, .outs, .cxlLink, .power,
    .islands, .units, .summit, .rings, .adminEvents, .parts, .ctl, .kernels, .nextKernel, .vdes, .leases,
    .radio, .ports, .rope, .sec, .withheldUnits, .withheldHalves, .withheldLedge, .numVfs] ⊆ w) (h : Keeps w s
    t) :
    Keeps w s (State.warmReset t a1) := h.lift hw (by
  unfold State.warmReset
  try dsimp only
  repeat' first
    | with_reducible exact Or.inl rfl
    | exact Or.inr (And.intro (by decide) (fun hk => by simp [hk]))
    | (with_reducible first
      | exact Or.inr (by decide) | exact Keeps.refl | assumption | refine State.applyHeld_keeps (by decide) ?_
      | refine State.setRbit_keeps (by decide) ?_ | refine State.afterReset_keeps (by decide) ?_
      | refine State.setRopeState_keeps (by decide) ?_ | refine State.scrubRecord_keeps (by decide) ?_
      | refine Keeps.foldl (fun _ _ _ => ?_) _ ?_ | refine Keeps.ite ?_ ?_)
    | dsimp only
    | split
    | with_reducible apply Keeps.update)

theorem State.warmCause_keeps {w : List Fld} {s t : State} {a1} (hw : [.regs, .staged, .latched, .rdata, .clk,
    .stack, .tileW, .tileA, .ledge, .ue, .weak, .stackSt, .msixT, .pba, .msixHeld, .outs, .cxlLink, .power,
    .islands, .units, .summit, .rings, .adminEvents, .parts, .ctl, .kernels, .nextKernel, .vdes, .leases,
    .radio, .ports, .rope, .sec, .withheldUnits, .withheldHalves, .withheldLedge, .numVfs] ⊆ w) (h : Keeps w s
    t) :
    Keeps w s (State.warmCause t a1) := h.lift hw (by
  unfold State.warmCause
  try dsimp only
  repeat' first
    | (with_reducible first
      | exact Keeps.refl | assumption | refine State.warmReset_keeps (by decide) ?_ | refine Keeps.ite ?_ ?_)
    | split)

theorem auxPowerUp_keeps {w : List Fld} {s t : State} (hw : [.regs, .staged, .latched, .rdata, .clk, .stack,
    .tileW, .tileA, .ledge, .ue, .weak, .stackSt, .msixT, .pba, .msixHeld, .cxlLink, .power, .islands, .units,
    .summit, .rings, .adminEvents, .parts, .ctl, .kernels, .nextKernel, .vdes, .leases, .radio, .ports, .rope,
    .sec, .withheldUnits, .withheldHalves, .withheldLedge, .numVfs] ⊆ w) (h : Keeps w s t) :
    Keeps w s (auxPowerUp t) := h.lift hw (by
  unfold auxPowerUp
  try dsimp only
  repeat' first
    | with_reducible exact Or.inl rfl
    | exact Or.inr (And.intro (by decide) (fun hk => by simp [hk]))
    | (with_reducible first
      | exact Or.inr (by decide) | exact Keeps.refl | assumption | refine State.coldReset_keeps (by decide) ?_
      | refine Keeps.ite ?_ ?_)
    | split
    | with_reducible apply Keeps.update)

theorem regulatorStart_keeps {w : List Fld} {s t : State} (hw : [.power, .islands] ⊆ w) (h : Keeps w s t) :
    Keeps w s (regulatorStart t) := h.lift hw (by
  unfold regulatorStart
  try dsimp only
  repeat' first
    | with_reducible exact Or.inl rfl
    | exact Or.inr (And.intro (by decide) (fun hk => by simp [hk]))
    | (with_reducible first
      | exact Or.inr (by decide) | exact Keeps.refl | assumption
      | refine State.setIslandMv_keeps (by decide) ?_ | refine Keeps.ite ?_ ?_)
    | split
    | with_reducible apply Keeps.update)

theorem powerGoodUp_keeps {w : List Fld} {s t : State} (hw : [.power] ⊆ w) (h : Keeps w s t) :
    Keeps w s (powerGoodUp t) := h.lift hw (by
  unfold powerGoodUp
  try dsimp only
  repeat' first
    | with_reducible exact Or.inl rfl
    | exact Or.inr (And.intro (by decide) (fun hk => by simp [hk]))
    | (with_reducible first
      | exact Or.inr (by decide) | exact Keeps.refl | assumption | refine Keeps.ite ?_ ?_)
    | split
    | with_reducible apply Keeps.update)

theorem resetRelease_keeps {w : List Fld} {s t : State} {a0 a1} (hw : [.regs, .power, .rope] ⊆ w) (h : Keeps w
    s t) :
    Keeps w s (resetRelease a0 a1 t) := h.lift hw (by
  unfold resetRelease
  try dsimp only
  repeat' first
    | with_reducible exact Or.inl rfl
    | exact Or.inr (And.intro (by decide) (fun hk => by simp [hk]))
    | (with_reducible first
      | exact Or.inr (by decide) | exact Keeps.refl | assumption | refine State.setRbit_keeps (by decide) ?_
      | refine State.ropeStart_keeps (by decide) ?_ | refine Keeps.ite ?_ ?_)
    | split
    | with_reducible apply Keeps.update)

theorem startupSelftest_keeps {w : List Fld} {s t : State} {a0 a1 a2 a3 a4} (hw : [.regs, .host, .stack,
    .tileW, .tileA, .ledge, .ue, .weak, .stackSt, .pba, .msixHeld, .outs, .power, .islands, .units, .summit,
    .rings, .adminEvents, .parts, .ctl, .kernels, .vdes, .leases, .radio, .rope] ⊆ w) (h : Keeps w s t) :
    Keeps w s (startupSelftest a0 a1 a2 a3 a4 t) := h.lift hw (by
  unfold startupSelftest
  try dsimp only
  repeat' first
    | with_reducible exact Or.inl rfl
    | exact Or.inr (And.intro (by decide) (fun hk => by simp [hk]))
    | (with_reducible first
      | exact Or.inr (by decide) | exact Keeps.refl | assumption | refine State.rerunStage_keeps (by decide) ?_
      | refine State.repairSram_keeps (by decide) ?_ | refine State.replaceWire_keeps (by decide) ?_
      | refine State.startupFail_keeps (by decide) ?_ | refine State.trainStacks_keeps (by decide) ?_
      | refine State.ropeStage_keeps (by decide) ?_ | refine Keeps.foldl (fun _ _ _ => ?_) _ ?_
      | refine Keeps.foldl_fst (fun _ _ _ => ?_) _ ?_ | refine Keeps.ite ?_ ?_)
    | dsimp only
    | split
    | with_reducible apply Keeps.update)

theorem boot_keeps {w : List Fld} {s t : State} {a0 a1} (hw : [.power, .sec] ⊆ w) (h : Keeps w s t) :
    Keeps w s (boot a0 a1 t) := h.lift hw (by
  unfold boot
  try dsimp only
  repeat' first
    | with_reducible exact Or.inl rfl
    | exact Or.inr (And.intro (by decide) (fun hk => by simp [hk]))
    | (with_reducible first
      | exact Or.inr (by decide) | exact Keeps.refl | assumption | refine Keeps.ite ?_ ?_)
    | dsimp only
    | split
    | with_reducible apply Keeps.update)

theorem State.railsOff_keeps {w : List Fld} {s t : State} {a1} (hw : [.power] ⊆ w) (h : Keeps w s t) :
    Keeps w s (State.railsOff t a1) := h.lift hw (by
  unfold State.railsOff
  try dsimp only
  repeat' first
    | with_reducible exact Or.inl rfl
    | exact Or.inr (And.intro (by decide) (fun hk => by simp [hk]))
    | (with_reducible first
      | exact Or.inr (by decide) | exact Keeps.refl | assumption | apply Keeps.update))

theorem brownOut_keeps {w : List Fld} {s t : State} (hw : [.regs, .staged, .latched, .rdata, .clk, .stack,
    .tileW, .tileA, .ledge, .ue, .weak, .stackSt, .msixT, .pba, .msixHeld, .cxlLink, .power, .islands, .units,
    .summit, .rings, .adminEvents, .parts, .ctl, .kernels, .nextKernel, .vdes, .leases, .radio, .ports, .rope,
    .sec, .withheldUnits, .withheldHalves, .withheldLedge, .numVfs] ⊆ w) (h : Keeps w s t) :
    Keeps w s (brownOut t) := h.lift hw (by
  unfold brownOut
  try dsimp only
  repeat' first
    | (with_reducible first
      | exact Keeps.refl | assumption | refine State.coldReset_keeps (by decide) ?_
      | refine State.railsOff_keeps (by decide) ?_)
    | split)

theorem auxBrownOut_keeps {w : List Fld} {s t : State} (hw : [.regs, .staged, .latched, .rdata, .clk, .stack,
    .tileW, .tileA, .ledge, .ue, .weak, .stackSt, .msixT, .pba, .msixHeld, .cxlLink, .power, .islands, .units,
    .summit, .rings, .adminEvents, .parts, .ctl, .kernels, .nextKernel, .vdes, .leases, .radio, .ports, .rope,
    .sec, .withheldUnits, .withheldHalves, .withheldLedge, .numVfs] ⊆ w) (h : Keeps w s t) :
    Keeps w s (auxBrownOut t) := h.lift hw (by
  unfold auxBrownOut
  try dsimp only
  repeat' first
    | with_reducible exact Or.inl rfl
    | exact Or.inr (And.intro (by decide) (fun hk => by simp [hk]))
    | (with_reducible first
      | exact Or.inr (by decide) | exact Keeps.refl | assumption | refine State.coldReset_keeps (by decide) ?_
      | refine State.railsOff_keeps (by decide) ?_ | refine Keeps.ite ?_ ?_)
    | split
    | with_reducible apply Keeps.update)

theorem coldRstN_keeps {w : List Fld} {s t : State} {a0} (hw : [.regs, .staged, .latched, .rdata, .clk,
    .stack, .tileW, .tileA, .ledge, .ue, .weak, .stackSt, .msixT, .pba, .msixHeld, .cxlLink, .power, .islands,
    .units, .summit, .rings, .adminEvents, .parts, .ctl, .kernels, .nextKernel, .vdes, .leases, .radio,
    .ports, .rope, .sec, .withheldUnits, .withheldHalves, .withheldLedge, .numVfs] ⊆ w) (h : Keeps w s t) :
    Keeps w s (coldRstN a0 t) := h.lift hw (by
  unfold coldRstN
  try dsimp only
  repeat' first
    | with_reducible exact Or.inl rfl
    | exact Or.inr (And.intro (by decide) (fun hk => by simp [hk]))
    | (with_reducible first
      | exact Or.inr (by decide) | exact Keeps.refl | assumption | refine State.coldReset_keeps (by decide) ?_
      | refine Keeps.ite ?_ ?_)
    | split
    | with_reducible apply Keeps.update)

theorem perstN_keeps {w : List Fld} {s t : State} (hw : [.regs, .staged, .latched, .rdata, .clk, .stack,
    .tileW, .tileA, .ledge, .ue, .weak, .stackSt, .msixT, .pba, .msixHeld, .cxlLink, .power, .islands, .units,
    .summit, .rings, .adminEvents, .parts, .ctl, .kernels, .nextKernel, .vdes, .leases, .radio, .ports, .rope,
    .sec, .withheldUnits, .withheldHalves, .withheldLedge, .numVfs] ⊆ w) (h : Keeps w s t) :
    Keeps w s (perstN t) := h.lift hw (by
  unfold perstN
  try dsimp only
  repeat' first
    | with_reducible exact Or.inl rfl
    | exact Or.inr (And.intro (by decide) (fun hk => by simp [hk]))
    | (with_reducible first
      | exact Or.inr (by decide) | exact Keeps.refl | assumption | refine State.coldReset_keeps (by decide) ?_
      | refine Keeps.ite ?_ ?_)
    | split
    | with_reducible apply Keeps.update)

theorem warmRstN_keeps {w : List Fld} {s t : State} (hw : [.regs, .staged, .latched, .rdata, .clk, .stack,
    .tileW, .tileA, .ledge, .ue, .weak, .stackSt, .msixT, .pba, .msixHeld, .outs, .cxlLink, .power, .islands,
    .units, .summit, .rings, .adminEvents, .parts, .ctl, .kernels, .nextKernel, .vdes, .leases, .radio,
    .ports, .rope, .sec, .withheldUnits, .withheldHalves, .withheldLedge, .numVfs] ⊆ w) (h : Keeps w s t) :
    Keeps w s (warmRstN t) := h.lift hw (by
  unfold warmRstN
  try dsimp only
  repeat' first
    | with_reducible exact Or.inl rfl
    | exact Or.inr (And.intro (by decide) (fun hk => by simp [hk]))
    | (with_reducible first
      | exact Or.inr (by decide) | exact Keeps.refl | assumption | refine State.warmReset_keeps (by decide) ?_
      | refine Keeps.ite ?_ ?_)
    | split
    | with_reducible apply Keeps.update)

theorem warmRstNRelease_keeps {w : List Fld} {s t : State} (hw : [.power] ⊆ w) (h : Keeps w s t) :
    Keeps w s (warmRstNRelease t) := h.lift hw (by
  unfold warmRstNRelease
  try dsimp only
  repeat' first
    | with_reducible exact Or.inl rfl
    | exact Or.inr (And.intro (by decide) (fun hk => by simp [hk]))
    | (with_reducible first
      | exact Or.inr (by decide) | exact Keeps.refl | assumption | apply Keeps.update))

theorem pwrReset_keeps {w : List Fld} {s t : State} {a0} (hw : [.regs, .staged, .latched, .rdata, .clk,
    .stack, .tileW, .tileA, .ledge, .ue, .weak, .stackSt, .msixT, .pba, .msixHeld, .outs, .cxlLink, .power,
    .islands, .units, .summit, .rings, .adminEvents, .parts, .ctl, .kernels, .nextKernel, .vdes, .leases,
    .radio, .ports, .rope, .sec, .withheldUnits, .withheldHalves, .withheldLedge, .numVfs] ⊆ w) (h : Keeps w s
    t) :
    Keeps w s (pwrReset a0 t) := h.lift hw (by
  unfold pwrReset
  try dsimp only
  repeat' first
    | (with_reducible first
      | exact Keeps.refl | assumption | refine State.warmCause_keeps (by decide) ?_ | refine Keeps.ite ?_ ?_)
    | split)

theorem pfFlr_keeps {w : List Fld} {s t : State} (hw : [.regs, .staged, .latched, .rdata, .clk, .stack,
    .tileW, .tileA, .ledge, .ue, .weak, .stackSt, .msixT, .pba, .msixHeld, .outs, .cxlLink, .power, .islands,
    .units, .summit, .rings, .adminEvents, .parts, .ctl, .kernels, .nextKernel, .vdes, .leases, .radio,
    .ports, .rope, .sec, .withheldUnits, .withheldHalves, .withheldLedge, .numVfs] ⊆ w) (h : Keeps w s t) :
    Keeps w s (pfFlr t) := h.lift hw (by
  unfold pfFlr
  try dsimp only
  repeat' first
    | (with_reducible first
      | exact Keeps.refl | assumption | refine State.configured_keeps (by decide) (fun _ _ => ?_) ?_
      | refine State.warmCause_keeps (by decide) ?_)
    | dsimp only)

theorem cxlHotReset_keeps {w : List Fld} {s t : State} (hw : [.regs, .staged, .latched, .rdata, .clk, .stack,
    .tileW, .tileA, .ledge, .ue, .weak, .stackSt, .msixT, .pba, .msixHeld, .outs, .cxlLink, .power, .islands,
    .units, .summit, .rings, .adminEvents, .parts, .ctl, .kernels, .nextKernel, .vdes, .leases, .radio,
    .ports, .rope, .sec, .withheldUnits, .withheldHalves, .withheldLedge, .numVfs] ⊆ w) (h : Keeps w s t) :
    Keeps w s (cxlHotReset t) := h.lift hw (by
  unfold cxlHotReset
  try dsimp only
  repeat' first
    | (with_reducible first
      | exact Keeps.refl | assumption | refine State.warmCause_keeps (by decide) ?_))

theorem thermalTrip_keeps {w : List Fld} {s t : State} {a0 a1} (hw : [.regs, .staged, .latched, .rdata, .clk,
    .stack, .tileW, .tileA, .ledge, .ue, .weak, .stackSt, .msixT, .pba, .msixHeld, .cxlLink, .power, .islands,
    .units, .summit, .rings, .adminEvents, .parts, .ctl, .kernels, .nextKernel, .vdes, .leases, .radio,
    .ports, .rope, .sec, .withheldUnits, .withheldHalves, .withheldLedge, .numVfs] ⊆ w) (h : Keeps w s t) :
    Keeps w s (thermalTrip a0 a1 t) := h.lift hw (by
  unfold thermalTrip
  try dsimp only
  repeat' first
    | with_reducible exact Or.inl rfl
    | exact Or.inr (And.intro (by decide) (fun hk => by simp [hk]))
    | (with_reducible first
      | exact Or.inr (by decide) | exact Keeps.refl | assumption | refine State.coldReset_keeps (by decide) ?_
      | refine State.railsOff_keeps (by decide) ?_ | refine Keeps.ite ?_ ?_)
    | split
    | with_reducible apply Keeps.update)

theorem standbyRequest_keeps {w : List Fld} {s t : State} {a0} (hw : [.regs, .power] ⊆ w) (h : Keeps w s t) :
    Keeps w s (standbyRequest a0 t) := h.lift hw (by
  unfold standbyRequest
  try dsimp only
  repeat' first
    | with_reducible exact Or.inl rfl
    | exact Or.inr (And.intro (by decide) (fun hk => by simp [hk]))
    | (with_reducible first
      | exact Or.inr (by decide) | exact Keeps.refl | assumption | refine State.applyWrite_keeps (by decide) ?_
      | refine State.setRbit_keeps (by decide) ?_ | refine Keeps.ite ?_ ?_)
    | split
    | with_reducible apply Keeps.update)

theorem standbyEntered_keeps {w : List Fld} {s t : State} (hw : [.free, .tileW, .tileA, .ledge, .power,
    .islands, .vdes] ⊆ w) (h : Keeps w s t) :
    Keeps w s (standbyEntered t) := h.lift hw (by
  unfold standbyEntered
  try dsimp only
  repeat' first
    | with_reducible exact Or.inl rfl
    | exact Or.inr (And.intro (by decide) (fun hk => by simp [hk]))
    | (with_reducible first
      | exact Or.inr (by decide) | exact Keeps.refl | assumption | refine State.setIsland_keeps (by decide) ?_
      | refine State.drawn_keeps (by decide) ?_ | refine State.setVde_keeps (by decide) ?_
      | refine Keeps.foldl (fun _ _ _ => ?_) _ ?_ | refine Keeps.foldl_fst (fun _ _ _ => ?_) _ ?_
      | refine Keeps.ite ?_ ?_)
    | dsimp only
    | split
    | with_reducible apply Keeps.update)

theorem standbyWakeWrite_keeps {w : List Fld} {s t : State} {a0} (hw : [.regs, .power] ⊆ w) (h : Keeps w s t) :
    Keeps w s (standbyWakeWrite a0 t) := h.lift hw (by
  unfold standbyWakeWrite
  try dsimp only
  repeat' first
    | (with_reducible first
      | exact Keeps.refl | assumption | refine State.applyWrite_keeps (by decide) ?_
      | refine State.wake_keeps (by decide) ?_ | refine Keeps.ite ?_ ?_)
    | split)

theorem wakeN_keeps {w : List Fld} {s t : State} (hw : [.regs, .power] ⊆ w) (h : Keeps w s t) :
    Keeps w s (wakeN t) := h.lift hw (by
  unfold wakeN
  try dsimp only
  repeat' first
    | (with_reducible first
      | exact Keeps.refl | assumption | refine State.wake_keeps (by decide) ?_ | refine Keeps.ite ?_ ?_)
    | split)

theorem wakeComplete_keeps {w : List Fld} {s t : State} {a0} (hw : [.regs, .stack, .tileW, .tileA, .ledge,
    .ue, .weak, .stackSt, .pba, .msixHeld, .outs, .power, .islands, .units, .summit, .ctl, .rope] ⊆ w) (h :
    Keeps w s t) :
    Keeps w s (wakeComplete a0 t) := h.lift hw (by
  unfold wakeComplete
  try dsimp only
  repeat' first
    | with_reducible exact Or.inl rfl
    | exact Or.inr (And.intro (by decide) (fun hk => by simp [hk]))
    | (with_reducible first
      | exact Or.inr (by decide) | exact Keeps.refl | assumption
      | refine State.trainStacks_keeps (by decide) ?_ | refine State.setIslandMv_keeps (by decide) ?_
      | refine State.edge_keeps (by decide) ?_ | refine State.homeReceive_keeps (by decide) ?_
      | refine State.setRope_keeps (by decide) ?_ | refine Keeps.foldl (fun _ _ _ => ?_) _ ?_
      | refine Keeps.foldl_fst (fun _ _ _ => ?_) _ ?_ | refine Keeps.ite ?_ ?_)
    | dsimp only
    | split
    | with_reducible apply Keeps.update)

theorem mgmtRead_keeps {w : List Fld} {s t : State} {a0 a1} (hw : [.outs] ⊆ w) (h : Keeps w s t) :
    Keeps w s (mgmtRead a0 a1 t) := h.lift hw (by
  unfold mgmtRead
  try dsimp only
  repeat' first
    | with_reducible exact Or.inl rfl
    | exact Or.inr (And.intro (by decide) (fun hk => by simp [hk]))
    | (with_reducible first
      | exact Or.inr (by decide) | exact Keeps.refl | assumption | refine Keeps.ite ?_ ?_)
    | split
    | with_reducible apply Keeps.update)

theorem State.readClear_keeps {w : List Fld} {s t : State} {a1} (hw : [.regs, .islands] ⊆ w) (h : Keeps w s t) :
    Keeps w s (State.readClear t a1) := h.lift hw (by
  unfold State.readClear
  try dsimp only
  repeat' first
    | (with_reducible first
      | exact Keeps.refl | assumption | refine State.setIsland_keeps (by decide) ?_
      | refine State.clearRC_keeps (by decide) ?_ | refine Keeps.ite ?_ ?_)
    | split)

theorem State.readWord_keeps {w : List Fld} {s t : State} {a1} (hw : [.latched] ⊆ w) (h : Keeps w s t) (r : _)
    (hr : State.readWord t a1 = r) : Keeps w s r.2 := by
  subst hr
  unfold State.readWord
  split
  · refine h.lift hw ?_
    apply Keeps.update
    · exact Keeps.refl
    all_goals first
      | with_reducible exact Or.inl rfl
      | exact Or.inr (And.intro (by decide) (fun hk => SMap.wf_put _ _ _ hk))
  · exact h

theorem State.pfRead_keeps {w : List Fld} {s t : State} {a1} (hw : [.regs, .latched, .rdata, .islands] ⊆ w) (h
    : Keeps w s t) :
    Keeps w s (State.pfRead t a1) := h.lift hw (by
  unfold State.pfRead
  try dsimp only
  repeat' first
    | with_reducible exact Or.inl rfl
    | exact Or.inr (And.intro (by decide) (fun hk => by simp [hk]))
    | (with_reducible first
      | exact Or.inr (by decide) | exact Keeps.refl | assumption
      | refine State.readWord_keeps (by decide) ?_ _ rfl
      | refine State.readWord_keeps (by decide) ?_ _ (by assumption) | refine todRead_keeps (by decide) ?_
      | refine State.readClear_keeps (by decide) ?_ | refine Keeps.ite ?_ ?_ | refine Keeps.ite_snd ?_ ?_)
    | dsimp only
    | split
    | with_reducible apply Keeps.update)

theorem State.plain_keeps {w : List Fld} {s t : State} {a1 a2} (hw : [.regs] ⊆ w) (h : Keeps w s t) :
    Keeps w s (State.plain t a1 a2) := h.lift hw (by
  unfold State.plain
  try dsimp only
  repeat' first
    | (with_reducible first
      | exact Keeps.refl | assumption | refine State.applyWrite_keeps (by decide) ?_))

theorem State.partWrite_keeps {w : List Fld} {s t : State} {a1 a2} (hw : [.regs, .parts] ⊆ w) (h : Keeps w s
    t) :
    Keeps w s (State.partWrite t a1 a2) := h.lift hw (by
  unfold State.partWrite
  try dsimp only
  repeat' first
    | (with_reducible first
      | exact Keeps.refl | assumption | refine State.applyWrite_keeps (by decide) ?_
      | refine State.setCfgError_keeps (by decide) ?_ | refine State.fillShares_keeps (by decide) ?_
      | refine State.setPart_keeps (by decide) ?_ | refine Keeps.ite ?_ ?_)
    | dsimp only
    | split)

theorem State.partCtrlWrite_keeps {w : List Fld} {s t : State} {a1 a2} (hw : [.regs, .host, .stack, .tileW,
    .tileA, .ledge, .ue, .weak, .stackSt, .pba, .msixHeld, .outs, .power, .units, .summit, .rings,
    .adminEvents, .parts, .ctl, .kernels, .vdes, .ports, .rope, .sec] ⊆ w) (h : Keeps w s t) :
    Keeps w s (State.partCtrlWrite t a1 a2) := h.lift hw (by
  unfold State.partCtrlWrite
  try dsimp only
  repeat' first
    | (with_reducible first
      | exact Keeps.refl | assumption | refine State.setCfgError_keeps (by decide) ?_
      | refine State.setRbit_keeps (by decide) ?_ | refine State.setPart_keeps (by decide) ?_
      | refine partitionEnable_keeps (by decide) ?_ | refine partitionRelease_keeps (by decide) ?_
      | refine State.resetWrite_keeps (by decide) ?_ | refine partitionResume_keeps (by decide) ?_
      | refine Keeps.ite ?_ ?_)
    | split)

theorem State.ringCfgWrite_keeps {w : List Fld} {s t : State} {a1 a2 a3} (hw : [.regs, .host, .pba, .msixHeld,
    .outs, .rings, .adminEvents, .parts, .ctl] ⊆ w) (h : Keeps w s t) :
    Keeps w s (State.ringCfgWrite t a1 a2 a3) := h.lift hw (by
  unfold State.ringCfgWrite
  try dsimp only
  repeat' first
    | (with_reducible first
      | exact Keeps.refl | assumption | refine ringDisable_keeps (by decide) ?_
      | refine ringEnable_keeps (by decide) ?_ | refine State.applyWrite_keeps (by decide) ?_
      | refine Keeps.ite ?_ ?_)
    | split)

theorem State.rgnCtrlWrite_keeps {w : List Fld} {s t : State} {a1 a2} (hw : [.regs] ⊆ w) (h : Keeps w s t) :
    Keeps w s (State.rgnCtrlWrite t a1 a2) := h.lift hw (by
  unfold State.rgnCtrlWrite
  try dsimp only
  repeat' first
    | (with_reducible first
      | exact Keeps.refl | assumption | refine State.setRbit_keeps (by decide) ?_
      | refine State.applyWrite_keeps (by decide) ?_ | refine regionEnable_keeps (by decide) ?_
      | refine Keeps.ite ?_ ?_)
    | split)

theorem State.ropeCtrlWrite_keeps {w : List Fld} {s t : State} {a1} (hw : [.regs, .stack, .tileW, .tileA,
    .ledge, .ue, .weak, .stackSt, .pba, .msixHeld, .outs, .units, .summit, .rings, .parts, .ctl, .kernels,
    .rope] ⊆ w) (h : Keeps w s t) :
    Keeps w s (State.ropeCtrlWrite t a1) := h.lift hw (by
  unfold State.ropeCtrlWrite
  try dsimp only
  repeat' first
    | (with_reducible first
      | exact Keeps.refl | assumption | refine ropeEnableWrite_keeps (by decide) ?_
      | refine rejoin_keeps (by decide) ?_ | refine Keeps.ite ?_ ?_)
    | split)

theorem State.gateCtrlWrite_keeps {w : List Fld} {s t : State} {a1 a2} (hw : [.regs] ⊆ w) (h : Keeps w s t) :
    Keeps w s (State.gateCtrlWrite t a1 a2) := h.lift hw (by
  unfold State.gateCtrlWrite
  try dsimp only
  repeat' first
    | (with_reducible first
      | exact Keeps.refl | assumption | refine launchGateArm_keeps (by decide) ?_
      | refine State.applyWrite_keeps (by decide) ?_ | refine Keeps.ite ?_ ?_)
    | split)

theorem State.gclCtrlWrite_keeps {w : List Fld} {s t : State} {a1 a2 a3} (hw : [.regs, .ports] ⊆ w) (h : Keeps
    w s t) :
    Keeps w s (State.gclCtrlWrite t a1 a2 a3) := h.lift hw (by
  unfold State.gclCtrlWrite
  try dsimp only
  repeat' first
    | (with_reducible first
      | exact Keeps.refl | assumption | refine gclChange_keeps (by decide) ?_
      | refine State.setRbit_keeps (by decide) ?_ | refine State.applyWrite_keeps (by decide) ?_
      | refine Keeps.ite ?_ ?_)
    | split)

theorem State.evrCtrlWrite_keeps {w : List Fld} {s t : State} {a1} (hw : [.regs, .pba, .msixHeld, .outs,
    .summit, .ctl] ⊆ w) (h : Keeps w s t) :
    Keeps w s (State.evrCtrlWrite t a1) := h.lift hw (by
  unfold State.evrCtrlWrite
  try dsimp only
  repeat' first
    | (with_reducible first
      | exact Keeps.refl | assumption | refine State.setRbit_keeps (by decide) ?_
      | refine evrFreeze_keeps (by decide) ?_ | refine evrUnfreeze_keeps (by decide) ?_
      | refine evrClear_keeps (by decide) ?_ | refine Keeps.ite ?_ ?_)
    | split)

theorem State.cfgWrite_keeps {w : List Fld} {s t : State} {a1 a2} (hw : [.regs, .host, .stack, .tileW, .tileA,
    .ledge, .ue, .weak, .stackSt, .pba, .msixHeld, .outs, .units, .summit, .rings, .adminEvents, .parts, .ctl,
    .kernels, .vdes, .rope] ⊆ w) (h : Keeps w s t) :
    Keeps w s (State.cfgWrite t a1 a2) := h.lift hw (by
  unfold State.cfgWrite
  try dsimp only
  repeat' first
    | (with_reducible first
      | exact Keeps.refl | assumption | refine State.onSel_keeps (by decide) (fun _ _ _ _ => ?_) ?_
      | refine State.vdeRegWrite_keeps (by decide) ?_ | refine State.plain_keeps (by decide) ?_
      | refine Keeps.ite ?_ ?_)
    | dsimp only
    | split)

theorem State.pwrWrite_keeps {w : List Fld} {s t : State} {a1 a2} (hw : [.regs, .staged, .latched, .rdata,
    .clk, .stack, .tileW, .tileA, .ledge, .ue, .weak, .stackSt, .msixT, .pba, .msixHeld, .outs, .cxlLink,
    .power, .islands, .units, .summit, .rings, .adminEvents, .parts, .ctl, .kernels, .nextKernel, .vdes,
    .leases, .radio, .ports, .rope, .sec, .withheldUnits, .withheldHalves, .withheldLedge, .numVfs] ⊆ w) (h :
    Keeps w s t) :
    Keeps w s (State.pwrWrite t a1 a2) := h.lift hw (by
  unfold State.pwrWrite
  try dsimp only
  repeat' first
    | (with_reducible first
      | exact Keeps.refl | assumption | refine profileChange_keeps (by decide) ?_
      | refine standbyRequest_keeps (by decide) ?_ | refine standbyWakeWrite_keeps (by decide) ?_
      | refine pwrReset_keeps (by decide) ?_ | refine State.plain_keeps (by decide) ?_ | refine Keeps.ite ?_ ?_)
    | split)

theorem State.intcWrite_keeps {w : List Fld} {s t : State} {a1 a2} (hw : [.regs, .pba, .msixHeld, .outs, .ctl]
    ⊆ w) (h : Keeps w s t) :
    Keeps w s (State.intcWrite t a1 a2) := h.lift hw (by
  unfold State.intcWrite
  try dsimp only
  repeat' first
    | (with_reducible first
      | exact Keeps.refl | assumption | refine intcSetWrite_keeps (by decide) ?_
      | refine intcEnWrite_keeps (by decide) ?_ | refine State.plain_keeps (by decide) ?_
      | refine Keeps.ite ?_ ?_)
    | split)

theorem State.timeWrite_keeps {w : List Fld} {s t : State} {a1 a2} (hw : [.regs, .clk, .ports] ⊆ w) (h : Keeps
    w s t) :
    Keeps w s (State.timeWrite t a1 a2) := h.lift hw (by
  unfold State.timeWrite
  try dsimp only
  repeat' first
    | (with_reducible first
      | exact Keeps.refl | assumption | refine State.timeCtrl_keeps (by decide) ?_
      | refine cmpArm_keeps (by decide) ?_ | refine State.plain_keeps (by decide) ?_
      | refine captureArm_keeps (by decide) ?_ | refine Keeps.ite ?_ ?_)
    | split)

theorem State.portWrite_keeps {w : List Fld} {s t : State} {a1 a2} (hw : [.regs, .host, .stack, .tileW,
    .tileA, .ledge, .ue, .weak, .stackSt, .pba, .msixHeld, .outs, .units, .summit, .rings, .adminEvents,
    .parts, .ctl, .radio, .ports] ⊆ w) (h : Keeps w s t) :
    Keeps w s (State.portWrite t a1 a2) := h.lift hw (by
  unfold State.portWrite
  try dsimp only
  repeat' first
    | (with_reducible first
      | exact Keeps.refl | assumption | refine portEnable_keeps (by decide) ?_
      | refine State.gclCtrlWrite_keeps (by decide) ?_ | refine State.plain_keeps (by decide) ?_
      | refine State.fillSub_keeps (by decide) ?_ | refine pqEnable_keeps (by decide) ?_
      | refine State.setCfgError_keeps (by decide) ?_ | refine Keeps.ite ?_ ?_)
    | split)

theorem State.ropeWrite_keeps {w : List Fld} {s t : State} {a1 a2} (hw : [.regs, .stack, .tileW, .tileA,
    .ledge, .ue, .weak, .stackSt, .pba, .msixHeld, .outs, .units, .summit, .rings, .parts, .ctl, .kernels,
    .rope] ⊆ w) (h : Keeps w s t) :
    Keeps w s (State.ropeWrite t a1 a2) := h.lift hw (by
  unfold State.ropeWrite
  try dsimp only
  repeat' first
    | (with_reducible first
      | exact Keeps.refl | assumption | refine State.ropeCtrlWrite_keeps (by decide) ?_
      | refine ropeEvict_keeps (by decide) ?_ | refine State.gateCtrlWrite_keeps (by decide) ?_
      | refine State.rgnCtrlWrite_keeps (by decide) ?_ | refine State.plain_keeps (by decide) ?_
      | refine Keeps.ite ?_ ?_)
    | split)

theorem State.belayWrite_keeps {w : List Fld} {s t : State} {a1 a2} (hw : [.regs, .host, .pba, .msixHeld,
    .outs, .islands, .summit, .rings, .adminEvents, .parts, .ctl, .leases] ⊆ w) (h : Keeps w s t) :
    Keeps w s (State.belayWrite t a1 a2) := h.lift hw (by
  unfold State.belayWrite
  try dsimp only
  repeat' first
    | (with_reducible first
      | exact Keeps.refl | assumption | refine islandRemove_keeps (by decide) ?_
      | refine islandAdd_keeps (by decide) ?_ | refine belayRadioMemWrite_keeps (by decide) ?_
      | refine State.plain_keeps (by decide) ?_ | refine Keeps.ite ?_ ?_)
    | split)

theorem State.secWrite_keeps {w : List Fld} {s t : State} {a1 a2} (hw : [.regs, .parts] ⊆ w) (h : Keeps w s t) :
    Keeps w s (State.secWrite t a1 a2) := h.lift hw (by
  unfold State.secWrite
  try dsimp only
  repeat' first
    | (with_reducible first
      | exact Keeps.refl | assumption | refine windowLock_keeps (by decide) ?_
      | refine allowLock_keeps (by decide) ?_ | refine State.setCfgError_keeps (by decide) ?_
      | refine State.plain_keeps (by decide) ?_ | refine Keeps.ite ?_ ?_)
    | split)

theorem State.pfWrite_keeps {w : List Fld} {s t : State} {a1 a2 a3} (hw : [.regs, .staged, .latched, .rdata,
    .clk, .host, .stack, .tileW, .tileA, .ledge, .ue, .weak, .stackSt, .msixT, .pba, .msixHeld, .outs,
    .cxlLink, .power, .islands, .units, .summit, .rings, .adminEvents, .parts, .ctl, .kernels, .nextKernel,
    .vdes, .leases, .radio, .ports, .rope, .sec, .withheldUnits, .withheldHalves, .withheldLedge, .numVfs] ⊆
    w) (h : Keeps w s t) :
    Keeps w s (State.pfWrite t a1 a2 a3) := h.lift hw (by
  unfold State.pfWrite
  try dsimp only
  repeat' first
    | (with_reducible first
      | exact Keeps.refl | assumption | refine State.cfgWrite_keeps (by decide) ?_
      | refine State.pwrWrite_keeps (by decide) ?_ | refine State.intcWrite_keeps (by decide) ?_
      | refine State.timeWrite_keeps (by decide) ?_ | refine State.portWrite_keeps (by decide) ?_
      | refine State.ropeWrite_keeps (by decide) ?_ | refine State.partCtrlWrite_keeps (by decide) ?_
      | refine State.partWrite_keeps (by decide) ?_ | refine State.ringCfgWrite_keeps (by decide) ?_
      | refine State.plain_keeps (by decide) ?_ | refine State.belayWrite_keeps (by decide) ?_
      | refine State.evrCtrlWrite_keeps (by decide) ?_ | refine State.secWrite_keeps (by decide) ?_
      | refine adminDbWrite_keeps (by decide) ?_ | refine Keeps.ite ?_ ?_)
    | split)

theorem State.pairWrite_keeps {w : List Fld} {s t : State} {a1 a2 a3 a4} (hw : [.regs, .staged, .latched,
    .rdata, .clk, .host, .stack, .tileW, .tileA, .ledge, .ue, .weak, .stackSt, .msixT, .pba, .msixHeld, .outs,
    .cxlLink, .power, .islands, .units, .summit, .rings, .adminEvents, .parts, .ctl, .kernels, .nextKernel,
    .vdes, .leases, .radio, .ports, .rope, .sec, .withheldUnits, .withheldHalves, .withheldLedge, .numVfs] ⊆
    w) (h : Keeps w s t) :
    Keeps w s (State.pairWrite t a1 a2 a3 a4) := h.lift hw (by
  unfold State.pairWrite
  try dsimp only
  repeat' first
    | with_reducible exact Or.inl rfl
    | exact Or.inr (And.intro (by decide) (fun hk => by simp [hk]))
    | (with_reducible first
      | exact Or.inr (by decide) | exact Keeps.refl | assumption | refine State.pfWrite_keeps (by decide) ?_
      | refine Keeps.ite ?_ ?_)
    | dsimp only
    | split
    | with_reducible apply Keeps.update)

theorem State.stageLow_keeps {w : List Fld} {s t : State} {a1 a2} (hw : [.staged] ⊆ w) (h : Keeps w s t) :
    Keeps w s (State.stageLow t a1 a2) := h.lift hw (by
  unfold State.stageLow
  try dsimp only
  repeat' first
    | with_reducible exact Or.inl rfl
    | exact Or.inr (And.intro (by decide) (fun hk => by simp [hk]))
    | (with_reducible first
      | exact Or.inr (by decide) | exact Keeps.refl | assumption)
    | dsimp only
    | with_reducible apply Keeps.update)

theorem State.applyHigh_keeps {w : List Fld} {s t : State} {a1 a2 a3} (hw : [.regs, .staged, .latched, .rdata,
    .clk, .host, .stack, .tileW, .tileA, .ledge, .ue, .weak, .stackSt, .msixT, .pba, .msixHeld, .outs,
    .cxlLink, .power, .islands, .units, .summit, .rings, .adminEvents, .parts, .ctl, .kernels, .nextKernel,
    .vdes, .leases, .radio, .ports, .rope, .sec, .withheldUnits, .withheldHalves, .withheldLedge, .numVfs] ⊆
    w) (h : Keeps w s t) :
    Keeps w s (State.applyHigh t a1 a2 a3) := h.lift hw (by
  unfold State.applyHigh
  try dsimp only
  repeat' first
    | with_reducible exact Or.inl rfl
    | exact Or.inr (And.intro (by decide) (fun hk => by simp [hk]))
    | (with_reducible first
      | exact Or.inr (by decide) | exact Keeps.refl | assumption | refine State.pairWrite_keeps (by decide) ?_)
    | dsimp only
    | with_reducible apply Keeps.update)

theorem State.lowRefused_keeps {w : List Fld} {s t : State} {a1} (hw : [.parts] ⊆ w) (h : Keeps w s t) :
    Keeps w s (State.lowRefused t a1) := h.lift hw (by
  unfold State.lowRefused
  try dsimp only
  repeat' first
    | (with_reducible first
      | exact Keeps.refl | assumption | refine State.setCfgError_keeps (by decide) ?_)
    | split)

theorem State.tableWrite_keeps {w : List Fld} {s t : State} {a1 a2 a3} (hw : [.regs, .msixT, .pba, .msixHeld,
    .outs, .ctl] ⊆ w) (h : Keeps w s t) :
    Keeps w s (State.tableWrite t a1 a2 a3) := h.lift hw (by
  unfold State.tableWrite
  try dsimp only
  repeat' first
    | with_reducible exact Or.inl rfl
    | exact Or.inr (And.intro (by decide) (fun hk => by simp [hk]))
    | (with_reducible first
      | exact Or.inr (by decide) | exact Keeps.refl | assumption | refine msixUnmask_keeps (by decide) ?_
      | refine Keeps.ite ?_ ?_)
    | split
    | with_reducible apply Keeps.update)

theorem State.hostRead_keeps {w : List Fld} {s t : State} {a1 a2} (hw : [.regs, .latched, .rdata, .islands] ⊆
    w) (h : Keeps w s t) :
    Keeps w s (State.hostRead t a1 a2) := h.lift hw (by
  unfold State.hostRead
  try dsimp only
  repeat' first
    | with_reducible exact Or.inl rfl
    | exact Or.inr (And.intro (by decide) (fun hk => by simp [hk]))
    | (with_reducible first
      | exact Or.inr (by decide) | exact Keeps.refl | assumption | refine State.pfRead_keeps (by decide) ?_
      | refine Keeps.ite ?_ ?_)
    | split
    | with_reducible apply Keeps.update)

theorem State.hostWrite_keeps {w : List Fld} {s t : State} {a1 a2 a3 a4} (hw : [.regs, .staged, .latched,
    .rdata, .clk, .host, .stack, .tileW, .tileA, .ledge, .ue, .weak, .stackSt, .msixT, .pba, .msixHeld, .outs,
    .cxlLink, .power, .islands, .units, .summit, .rings, .adminEvents, .parts, .ctl, .kernels, .nextKernel,
    .vdes, .leases, .radio, .ports, .rope, .sec, .withheldUnits, .withheldHalves, .withheldLedge, .numVfs] ⊆
    w) (h : Keeps w s t) :
    Keeps w s (State.hostWrite t a1 a2 a3 a4) := h.lift hw (by
  unfold State.hostWrite
  try dsimp only
  repeat' first
    | (with_reducible first
      | exact Keeps.refl | assumption | refine State.tableWrite_keeps (by decide) ?_
      | refine State.lowRefused_keeps (by decide) ?_ | refine State.stageLow_keeps (by decide) ?_
      | refine State.applyHigh_keeps (by decide) ?_ | refine State.pfWrite_keeps (by decide) ?_
      | refine Keeps.ite ?_ ?_)
    | split)

end Sys2Proof.Machine
end

