-- ==== Sys2Proof/Laws/State.lean ====
section
/-! SUPPORT. What each update of the state leaves in each field, and what a read of a register or of a
numbered unit answers after one. -/

-- The many lemmas below are elaborated one after another: the package is checked as one text, and fewer wait at once.
set_option Elab.async false

namespace Sys2Proof.Machine

@[simp] theorem State.setReg_pending (s : State) (a : Nat) (v : W32) : (s.setReg a v).pending = s.pending := rfl
@[simp] theorem State.setReg_fuses (s : State) (a : Nat) (v : W32) : (s.setReg a v).fuses = s.fuses := rfl
@[simp] theorem State.setReg_staged (s : State) (a : Nat) (v : W32) : (s.setReg a v).staged = s.staged := rfl
@[simp] theorem State.setReg_latched (s : State) (a : Nat) (v : W32) : (s.setReg a v).latched = s.latched := rfl
@[simp] theorem State.setReg_rdata (s : State) (a : Nat) (v : W32) : (s.setReg a v).rdata = s.rdata := rfl
@[simp] theorem State.setReg_now (s : State) (a : Nat) (v : W32) : (s.setReg a v).now = s.now := rfl
@[simp] theorem State.setReg_clk (s : State) (a : Nat) (v : W32) : (s.setReg a v).clk = s.clk := rfl
@[simp] theorem State.setReg_free (s : State) (a : Nat) (v : W32) : (s.setReg a v).free = s.free := rfl
@[simp] theorem State.setReg_host (s : State) (a : Nat) (v : W32) : (s.setReg a v).host = s.host := rfl
@[simp] theorem State.setReg_stack (s : State) (a : Nat) (v : W32) : (s.setReg a v).stack = s.stack := rfl
@[simp] theorem State.setReg_tileW (s : State) (a : Nat) (v : W32) : (s.setReg a v).tileW = s.tileW := rfl
@[simp] theorem State.setReg_tileA (s : State) (a : Nat) (v : W32) : (s.setReg a v).tileA = s.tileA := rfl
@[simp] theorem State.setReg_ledge (s : State) (a : Nat) (v : W32) : (s.setReg a v).ledge = s.ledge := rfl
@[simp] theorem State.setReg_ue (s : State) (a : Nat) (v : W32) : (s.setReg a v).ue = s.ue := rfl
@[simp] theorem State.setReg_weak (s : State) (a : Nat) (v : W32) : (s.setReg a v).weak = s.weak := rfl
@[simp] theorem State.setReg_stackSt (s : State) (a : Nat) (v : W32) : (s.setReg a v).stackSt = s.stackSt := rfl
@[simp] theorem State.setReg_msixT (s : State) (a : Nat) (v : W32) : (s.setReg a v).msixT = s.msixT := rfl
@[simp] theorem State.setReg_pba (s : State) (a : Nat) (v : W32) : (s.setReg a v).pba = s.pba := rfl
@[simp] theorem State.setReg_msixHeld (s : State) (a : Nat) (v : W32) : (s.setReg a v).msixHeld = s.msixHeld := rfl
@[simp] theorem State.setReg_outs (s : State) (a : Nat) (v : W32) : (s.setReg a v).outs = s.outs := rfl
@[simp] theorem State.setReg_cxlLink (s : State) (a : Nat) (v : W32) : (s.setReg a v).cxlLink = s.cxlLink := rfl
@[simp] theorem State.setReg_power (s : State) (a : Nat) (v : W32) : (s.setReg a v).power = s.power := rfl
@[simp] theorem State.setReg_islands (s : State) (a : Nat) (v : W32) : (s.setReg a v).islands = s.islands := rfl
@[simp] theorem State.setReg_units (s : State) (a : Nat) (v : W32) : (s.setReg a v).units = s.units := rfl
@[simp] theorem State.setReg_summit (s : State) (a : Nat) (v : W32) : (s.setReg a v).summit = s.summit := rfl
@[simp] theorem State.setReg_rings (s : State) (a : Nat) (v : W32) : (s.setReg a v).rings = s.rings := rfl
@[simp] theorem State.setReg_adminEvents (s : State) (a : Nat) (v : W32) : (s.setReg a v).adminEvents = s.adminEvents := rfl
@[simp] theorem State.setReg_parts (s : State) (a : Nat) (v : W32) : (s.setReg a v).parts = s.parts := rfl
@[simp] theorem State.setReg_ctl (s : State) (a : Nat) (v : W32) : (s.setReg a v).ctl = s.ctl := rfl
@[simp] theorem State.setReg_kernels (s : State) (a : Nat) (v : W32) : (s.setReg a v).kernels = s.kernels := rfl
@[simp] theorem State.setReg_nextKernel (s : State) (a : Nat) (v : W32) : (s.setReg a v).nextKernel = s.nextKernel := rfl
@[simp] theorem State.setReg_vdes (s : State) (a : Nat) (v : W32) : (s.setReg a v).vdes = s.vdes := rfl
@[simp] theorem State.setReg_leases (s : State) (a : Nat) (v : W32) : (s.setReg a v).leases = s.leases := rfl
@[simp] theorem State.setReg_radio (s : State) (a : Nat) (v : W32) : (s.setReg a v).radio = s.radio := rfl
@[simp] theorem State.setReg_ports (s : State) (a : Nat) (v : W32) : (s.setReg a v).ports = s.ports := rfl
@[simp] theorem State.setReg_rope (s : State) (a : Nat) (v : W32) : (s.setReg a v).rope = s.rope := rfl
@[simp] theorem State.setReg_sec (s : State) (a : Nat) (v : W32) : (s.setReg a v).sec = s.sec := rfl
@[simp] theorem State.setReg_withheldUnits (s : State) (a : Nat) (v : W32) : (s.setReg a v).withheldUnits = s.withheldUnits := rfl
@[simp] theorem State.setReg_withheldHalves (s : State) (a : Nat) (v : W32) : (s.setReg a v).withheldHalves = s.withheldHalves := rfl
@[simp] theorem State.setReg_withheldLedge (s : State) (a : Nat) (v : W32) : (s.setReg a v).withheldLedge = s.withheldLedge := rfl
@[simp] theorem State.setReg_numVfs (s : State) (a : Nat) (v : W32) : (s.setReg a v).numVfs = s.numVfs := rfl

@[simp] theorem State.setRf_pending (s : State) (a hi lo v : Nat) : (s.setRf a hi lo v).pending = s.pending := rfl
@[simp] theorem State.setRf_fuses (s : State) (a hi lo v : Nat) : (s.setRf a hi lo v).fuses = s.fuses := rfl
@[simp] theorem State.setRf_staged (s : State) (a hi lo v : Nat) : (s.setRf a hi lo v).staged = s.staged := rfl
@[simp] theorem State.setRf_latched (s : State) (a hi lo v : Nat) : (s.setRf a hi lo v).latched = s.latched := rfl
@[simp] theorem State.setRf_rdata (s : State) (a hi lo v : Nat) : (s.setRf a hi lo v).rdata = s.rdata := rfl
@[simp] theorem State.setRf_now (s : State) (a hi lo v : Nat) : (s.setRf a hi lo v).now = s.now := rfl
@[simp] theorem State.setRf_clk (s : State) (a hi lo v : Nat) : (s.setRf a hi lo v).clk = s.clk := rfl
@[simp] theorem State.setRf_free (s : State) (a hi lo v : Nat) : (s.setRf a hi lo v).free = s.free := rfl
@[simp] theorem State.setRf_host (s : State) (a hi lo v : Nat) : (s.setRf a hi lo v).host = s.host := rfl
@[simp] theorem State.setRf_stack (s : State) (a hi lo v : Nat) : (s.setRf a hi lo v).stack = s.stack := rfl
@[simp] theorem State.setRf_tileW (s : State) (a hi lo v : Nat) : (s.setRf a hi lo v).tileW = s.tileW := rfl
@[simp] theorem State.setRf_tileA (s : State) (a hi lo v : Nat) : (s.setRf a hi lo v).tileA = s.tileA := rfl
@[simp] theorem State.setRf_ledge (s : State) (a hi lo v : Nat) : (s.setRf a hi lo v).ledge = s.ledge := rfl
@[simp] theorem State.setRf_ue (s : State) (a hi lo v : Nat) : (s.setRf a hi lo v).ue = s.ue := rfl
@[simp] theorem State.setRf_weak (s : State) (a hi lo v : Nat) : (s.setRf a hi lo v).weak = s.weak := rfl
@[simp] theorem State.setRf_stackSt (s : State) (a hi lo v : Nat) : (s.setRf a hi lo v).stackSt = s.stackSt := rfl
@[simp] theorem State.setRf_msixT (s : State) (a hi lo v : Nat) : (s.setRf a hi lo v).msixT = s.msixT := rfl
@[simp] theorem State.setRf_pba (s : State) (a hi lo v : Nat) : (s.setRf a hi lo v).pba = s.pba := rfl
@[simp] theorem State.setRf_msixHeld (s : State) (a hi lo v : Nat) : (s.setRf a hi lo v).msixHeld = s.msixHeld := rfl
@[simp] theorem State.setRf_outs (s : State) (a hi lo v : Nat) : (s.setRf a hi lo v).outs = s.outs := rfl
@[simp] theorem State.setRf_cxlLink (s : State) (a hi lo v : Nat) : (s.setRf a hi lo v).cxlLink = s.cxlLink := rfl
@[simp] theorem State.setRf_power (s : State) (a hi lo v : Nat) : (s.setRf a hi lo v).power = s.power := rfl
@[simp] theorem State.setRf_islands (s : State) (a hi lo v : Nat) : (s.setRf a hi lo v).islands = s.islands := rfl
@[simp] theorem State.setRf_units (s : State) (a hi lo v : Nat) : (s.setRf a hi lo v).units = s.units := rfl
@[simp] theorem State.setRf_summit (s : State) (a hi lo v : Nat) : (s.setRf a hi lo v).summit = s.summit := rfl
@[simp] theorem State.setRf_rings (s : State) (a hi lo v : Nat) : (s.setRf a hi lo v).rings = s.rings := rfl
@[simp] theorem State.setRf_adminEvents (s : State) (a hi lo v : Nat) : (s.setRf a hi lo v).adminEvents = s.adminEvents := rfl
@[simp] theorem State.setRf_parts (s : State) (a hi lo v : Nat) : (s.setRf a hi lo v).parts = s.parts := rfl
@[simp] theorem State.setRf_ctl (s : State) (a hi lo v : Nat) : (s.setRf a hi lo v).ctl = s.ctl := rfl
@[simp] theorem State.setRf_kernels (s : State) (a hi lo v : Nat) : (s.setRf a hi lo v).kernels = s.kernels := rfl
@[simp] theorem State.setRf_nextKernel (s : State) (a hi lo v : Nat) : (s.setRf a hi lo v).nextKernel = s.nextKernel := rfl
@[simp] theorem State.setRf_vdes (s : State) (a hi lo v : Nat) : (s.setRf a hi lo v).vdes = s.vdes := rfl
@[simp] theorem State.setRf_leases (s : State) (a hi lo v : Nat) : (s.setRf a hi lo v).leases = s.leases := rfl
@[simp] theorem State.setRf_radio (s : State) (a hi lo v : Nat) : (s.setRf a hi lo v).radio = s.radio := rfl
@[simp] theorem State.setRf_ports (s : State) (a hi lo v : Nat) : (s.setRf a hi lo v).ports = s.ports := rfl
@[simp] theorem State.setRf_rope (s : State) (a hi lo v : Nat) : (s.setRf a hi lo v).rope = s.rope := rfl
@[simp] theorem State.setRf_sec (s : State) (a hi lo v : Nat) : (s.setRf a hi lo v).sec = s.sec := rfl
@[simp] theorem State.setRf_withheldUnits (s : State) (a hi lo v : Nat) : (s.setRf a hi lo v).withheldUnits = s.withheldUnits := rfl
@[simp] theorem State.setRf_withheldHalves (s : State) (a hi lo v : Nat) : (s.setRf a hi lo v).withheldHalves = s.withheldHalves := rfl
@[simp] theorem State.setRf_withheldLedge (s : State) (a hi lo v : Nat) : (s.setRf a hi lo v).withheldLedge = s.withheldLedge := rfl
@[simp] theorem State.setRf_numVfs (s : State) (a hi lo v : Nat) : (s.setRf a hi lo v).numVfs = s.numVfs := rfl

@[simp] theorem State.setRbit_pending (s : State) (a i : Nat) (b : Bool) : (s.setRbit a i b).pending = s.pending := rfl
@[simp] theorem State.setRbit_fuses (s : State) (a i : Nat) (b : Bool) : (s.setRbit a i b).fuses = s.fuses := rfl
@[simp] theorem State.setRbit_staged (s : State) (a i : Nat) (b : Bool) : (s.setRbit a i b).staged = s.staged := rfl
@[simp] theorem State.setRbit_latched (s : State) (a i : Nat) (b : Bool) : (s.setRbit a i b).latched = s.latched := rfl
@[simp] theorem State.setRbit_rdata (s : State) (a i : Nat) (b : Bool) : (s.setRbit a i b).rdata = s.rdata := rfl
@[simp] theorem State.setRbit_now (s : State) (a i : Nat) (b : Bool) : (s.setRbit a i b).now = s.now := rfl
@[simp] theorem State.setRbit_clk (s : State) (a i : Nat) (b : Bool) : (s.setRbit a i b).clk = s.clk := rfl
@[simp] theorem State.setRbit_free (s : State) (a i : Nat) (b : Bool) : (s.setRbit a i b).free = s.free := rfl
@[simp] theorem State.setRbit_host (s : State) (a i : Nat) (b : Bool) : (s.setRbit a i b).host = s.host := rfl
@[simp] theorem State.setRbit_stack (s : State) (a i : Nat) (b : Bool) : (s.setRbit a i b).stack = s.stack := rfl
@[simp] theorem State.setRbit_tileW (s : State) (a i : Nat) (b : Bool) : (s.setRbit a i b).tileW = s.tileW := rfl
@[simp] theorem State.setRbit_tileA (s : State) (a i : Nat) (b : Bool) : (s.setRbit a i b).tileA = s.tileA := rfl
@[simp] theorem State.setRbit_ledge (s : State) (a i : Nat) (b : Bool) : (s.setRbit a i b).ledge = s.ledge := rfl
@[simp] theorem State.setRbit_ue (s : State) (a i : Nat) (b : Bool) : (s.setRbit a i b).ue = s.ue := rfl
@[simp] theorem State.setRbit_weak (s : State) (a i : Nat) (b : Bool) : (s.setRbit a i b).weak = s.weak := rfl
@[simp] theorem State.setRbit_stackSt (s : State) (a i : Nat) (b : Bool) : (s.setRbit a i b).stackSt = s.stackSt := rfl
@[simp] theorem State.setRbit_msixT (s : State) (a i : Nat) (b : Bool) : (s.setRbit a i b).msixT = s.msixT := rfl
@[simp] theorem State.setRbit_pba (s : State) (a i : Nat) (b : Bool) : (s.setRbit a i b).pba = s.pba := rfl
@[simp] theorem State.setRbit_msixHeld (s : State) (a i : Nat) (b : Bool) : (s.setRbit a i b).msixHeld = s.msixHeld := rfl
@[simp] theorem State.setRbit_outs (s : State) (a i : Nat) (b : Bool) : (s.setRbit a i b).outs = s.outs := rfl
@[simp] theorem State.setRbit_cxlLink (s : State) (a i : Nat) (b : Bool) : (s.setRbit a i b).cxlLink = s.cxlLink := rfl
@[simp] theorem State.setRbit_power (s : State) (a i : Nat) (b : Bool) : (s.setRbit a i b).power = s.power := rfl
@[simp] theorem State.setRbit_islands (s : State) (a i : Nat) (b : Bool) : (s.setRbit a i b).islands = s.islands := rfl
@[simp] theorem State.setRbit_units (s : State) (a i : Nat) (b : Bool) : (s.setRbit a i b).units = s.units := rfl
@[simp] theorem State.setRbit_summit (s : State) (a i : Nat) (b : Bool) : (s.setRbit a i b).summit = s.summit := rfl
@[simp] theorem State.setRbit_rings (s : State) (a i : Nat) (b : Bool) : (s.setRbit a i b).rings = s.rings := rfl
@[simp] theorem State.setRbit_adminEvents (s : State) (a i : Nat) (b : Bool) : (s.setRbit a i b).adminEvents = s.adminEvents := rfl
@[simp] theorem State.setRbit_parts (s : State) (a i : Nat) (b : Bool) : (s.setRbit a i b).parts = s.parts := rfl
@[simp] theorem State.setRbit_ctl (s : State) (a i : Nat) (b : Bool) : (s.setRbit a i b).ctl = s.ctl := rfl
@[simp] theorem State.setRbit_kernels (s : State) (a i : Nat) (b : Bool) : (s.setRbit a i b).kernels = s.kernels := rfl
@[simp] theorem State.setRbit_nextKernel (s : State) (a i : Nat) (b : Bool) : (s.setRbit a i b).nextKernel = s.nextKernel := rfl
@[simp] theorem State.setRbit_vdes (s : State) (a i : Nat) (b : Bool) : (s.setRbit a i b).vdes = s.vdes := rfl
@[simp] theorem State.setRbit_leases (s : State) (a i : Nat) (b : Bool) : (s.setRbit a i b).leases = s.leases := rfl
@[simp] theorem State.setRbit_radio (s : State) (a i : Nat) (b : Bool) : (s.setRbit a i b).radio = s.radio := rfl
@[simp] theorem State.setRbit_ports (s : State) (a i : Nat) (b : Bool) : (s.setRbit a i b).ports = s.ports := rfl
@[simp] theorem State.setRbit_rope (s : State) (a i : Nat) (b : Bool) : (s.setRbit a i b).rope = s.rope := rfl
@[simp] theorem State.setRbit_sec (s : State) (a i : Nat) (b : Bool) : (s.setRbit a i b).sec = s.sec := rfl
@[simp] theorem State.setRbit_withheldUnits (s : State) (a i : Nat) (b : Bool) : (s.setRbit a i b).withheldUnits = s.withheldUnits := rfl
@[simp] theorem State.setRbit_withheldHalves (s : State) (a i : Nat) (b : Bool) : (s.setRbit a i b).withheldHalves = s.withheldHalves := rfl
@[simp] theorem State.setRbit_withheldLedge (s : State) (a i : Nat) (b : Bool) : (s.setRbit a i b).withheldLedge = s.withheldLedge := rfl
@[simp] theorem State.setRbit_numVfs (s : State) (a i : Nat) (b : Bool) : (s.setRbit a i b).numVfs = s.numVfs := rfl

@[simp] theorem State.setRing_pending (s : State) (n : Nat) (r : Ring) : (s.setRing n r).pending = s.pending := rfl
@[simp] theorem State.setRing_fuses (s : State) (n : Nat) (r : Ring) : (s.setRing n r).fuses = s.fuses := rfl
@[simp] theorem State.setRing_regs (s : State) (n : Nat) (r : Ring) : (s.setRing n r).regs = s.regs := rfl
@[simp] theorem State.setRing_staged (s : State) (n : Nat) (r : Ring) : (s.setRing n r).staged = s.staged := rfl
@[simp] theorem State.setRing_latched (s : State) (n : Nat) (r : Ring) : (s.setRing n r).latched = s.latched := rfl
@[simp] theorem State.setRing_rdata (s : State) (n : Nat) (r : Ring) : (s.setRing n r).rdata = s.rdata := rfl
@[simp] theorem State.setRing_now (s : State) (n : Nat) (r : Ring) : (s.setRing n r).now = s.now := rfl
@[simp] theorem State.setRing_clk (s : State) (n : Nat) (r : Ring) : (s.setRing n r).clk = s.clk := rfl
@[simp] theorem State.setRing_free (s : State) (n : Nat) (r : Ring) : (s.setRing n r).free = s.free := rfl
@[simp] theorem State.setRing_host (s : State) (n : Nat) (r : Ring) : (s.setRing n r).host = s.host := rfl
@[simp] theorem State.setRing_stack (s : State) (n : Nat) (r : Ring) : (s.setRing n r).stack = s.stack := rfl
@[simp] theorem State.setRing_tileW (s : State) (n : Nat) (r : Ring) : (s.setRing n r).tileW = s.tileW := rfl
@[simp] theorem State.setRing_tileA (s : State) (n : Nat) (r : Ring) : (s.setRing n r).tileA = s.tileA := rfl
@[simp] theorem State.setRing_ledge (s : State) (n : Nat) (r : Ring) : (s.setRing n r).ledge = s.ledge := rfl
@[simp] theorem State.setRing_ue (s : State) (n : Nat) (r : Ring) : (s.setRing n r).ue = s.ue := rfl
@[simp] theorem State.setRing_weak (s : State) (n : Nat) (r : Ring) : (s.setRing n r).weak = s.weak := rfl
@[simp] theorem State.setRing_stackSt (s : State) (n : Nat) (r : Ring) : (s.setRing n r).stackSt = s.stackSt := rfl
@[simp] theorem State.setRing_msixT (s : State) (n : Nat) (r : Ring) : (s.setRing n r).msixT = s.msixT := rfl
@[simp] theorem State.setRing_pba (s : State) (n : Nat) (r : Ring) : (s.setRing n r).pba = s.pba := rfl
@[simp] theorem State.setRing_msixHeld (s : State) (n : Nat) (r : Ring) : (s.setRing n r).msixHeld = s.msixHeld := rfl
@[simp] theorem State.setRing_outs (s : State) (n : Nat) (r : Ring) : (s.setRing n r).outs = s.outs := rfl
@[simp] theorem State.setRing_cxlLink (s : State) (n : Nat) (r : Ring) : (s.setRing n r).cxlLink = s.cxlLink := rfl
@[simp] theorem State.setRing_power (s : State) (n : Nat) (r : Ring) : (s.setRing n r).power = s.power := rfl
@[simp] theorem State.setRing_islands (s : State) (n : Nat) (r : Ring) : (s.setRing n r).islands = s.islands := rfl
@[simp] theorem State.setRing_units (s : State) (n : Nat) (r : Ring) : (s.setRing n r).units = s.units := rfl
@[simp] theorem State.setRing_summit (s : State) (n : Nat) (r : Ring) : (s.setRing n r).summit = s.summit := rfl
@[simp] theorem State.setRing_adminEvents (s : State) (n : Nat) (r : Ring) : (s.setRing n r).adminEvents = s.adminEvents := rfl
@[simp] theorem State.setRing_parts (s : State) (n : Nat) (r : Ring) : (s.setRing n r).parts = s.parts := rfl
@[simp] theorem State.setRing_ctl (s : State) (n : Nat) (r : Ring) : (s.setRing n r).ctl = s.ctl := rfl
@[simp] theorem State.setRing_kernels (s : State) (n : Nat) (r : Ring) : (s.setRing n r).kernels = s.kernels := rfl
@[simp] theorem State.setRing_nextKernel (s : State) (n : Nat) (r : Ring) : (s.setRing n r).nextKernel = s.nextKernel := rfl
@[simp] theorem State.setRing_vdes (s : State) (n : Nat) (r : Ring) : (s.setRing n r).vdes = s.vdes := rfl
@[simp] theorem State.setRing_leases (s : State) (n : Nat) (r : Ring) : (s.setRing n r).leases = s.leases := rfl
@[simp] theorem State.setRing_radio (s : State) (n : Nat) (r : Ring) : (s.setRing n r).radio = s.radio := rfl
@[simp] theorem State.setRing_ports (s : State) (n : Nat) (r : Ring) : (s.setRing n r).ports = s.ports := rfl
@[simp] theorem State.setRing_rope (s : State) (n : Nat) (r : Ring) : (s.setRing n r).rope = s.rope := rfl
@[simp] theorem State.setRing_sec (s : State) (n : Nat) (r : Ring) : (s.setRing n r).sec = s.sec := rfl
@[simp] theorem State.setRing_withheldUnits (s : State) (n : Nat) (r : Ring) : (s.setRing n r).withheldUnits = s.withheldUnits := rfl
@[simp] theorem State.setRing_withheldHalves (s : State) (n : Nat) (r : Ring) : (s.setRing n r).withheldHalves = s.withheldHalves := rfl
@[simp] theorem State.setRing_withheldLedge (s : State) (n : Nat) (r : Ring) : (s.setRing n r).withheldLedge = s.withheldLedge := rfl
@[simp] theorem State.setRing_numVfs (s : State) (n : Nat) (r : Ring) : (s.setRing n r).numVfs = s.numVfs := rfl

@[simp] theorem State.setPart_pending (s : State) (p : Nat) (x : Part) : (s.setPart p x).pending = s.pending := rfl
@[simp] theorem State.setPart_fuses (s : State) (p : Nat) (x : Part) : (s.setPart p x).fuses = s.fuses := rfl
@[simp] theorem State.setPart_regs (s : State) (p : Nat) (x : Part) : (s.setPart p x).regs = s.regs := rfl
@[simp] theorem State.setPart_staged (s : State) (p : Nat) (x : Part) : (s.setPart p x).staged = s.staged := rfl
@[simp] theorem State.setPart_latched (s : State) (p : Nat) (x : Part) : (s.setPart p x).latched = s.latched := rfl
@[simp] theorem State.setPart_rdata (s : State) (p : Nat) (x : Part) : (s.setPart p x).rdata = s.rdata := rfl
@[simp] theorem State.setPart_now (s : State) (p : Nat) (x : Part) : (s.setPart p x).now = s.now := rfl
@[simp] theorem State.setPart_clk (s : State) (p : Nat) (x : Part) : (s.setPart p x).clk = s.clk := rfl
@[simp] theorem State.setPart_free (s : State) (p : Nat) (x : Part) : (s.setPart p x).free = s.free := rfl
@[simp] theorem State.setPart_host (s : State) (p : Nat) (x : Part) : (s.setPart p x).host = s.host := rfl
@[simp] theorem State.setPart_stack (s : State) (p : Nat) (x : Part) : (s.setPart p x).stack = s.stack := rfl
@[simp] theorem State.setPart_tileW (s : State) (p : Nat) (x : Part) : (s.setPart p x).tileW = s.tileW := rfl
@[simp] theorem State.setPart_tileA (s : State) (p : Nat) (x : Part) : (s.setPart p x).tileA = s.tileA := rfl
@[simp] theorem State.setPart_ledge (s : State) (p : Nat) (x : Part) : (s.setPart p x).ledge = s.ledge := rfl
@[simp] theorem State.setPart_ue (s : State) (p : Nat) (x : Part) : (s.setPart p x).ue = s.ue := rfl
@[simp] theorem State.setPart_weak (s : State) (p : Nat) (x : Part) : (s.setPart p x).weak = s.weak := rfl
@[simp] theorem State.setPart_stackSt (s : State) (p : Nat) (x : Part) : (s.setPart p x).stackSt = s.stackSt := rfl
@[simp] theorem State.setPart_msixT (s : State) (p : Nat) (x : Part) : (s.setPart p x).msixT = s.msixT := rfl
@[simp] theorem State.setPart_pba (s : State) (p : Nat) (x : Part) : (s.setPart p x).pba = s.pba := rfl
@[simp] theorem State.setPart_msixHeld (s : State) (p : Nat) (x : Part) : (s.setPart p x).msixHeld = s.msixHeld := rfl
@[simp] theorem State.setPart_outs (s : State) (p : Nat) (x : Part) : (s.setPart p x).outs = s.outs := rfl
@[simp] theorem State.setPart_cxlLink (s : State) (p : Nat) (x : Part) : (s.setPart p x).cxlLink = s.cxlLink := rfl
@[simp] theorem State.setPart_power (s : State) (p : Nat) (x : Part) : (s.setPart p x).power = s.power := rfl
@[simp] theorem State.setPart_islands (s : State) (p : Nat) (x : Part) : (s.setPart p x).islands = s.islands := rfl
@[simp] theorem State.setPart_units (s : State) (p : Nat) (x : Part) : (s.setPart p x).units = s.units := rfl
@[simp] theorem State.setPart_summit (s : State) (p : Nat) (x : Part) : (s.setPart p x).summit = s.summit := rfl
@[simp] theorem State.setPart_rings (s : State) (p : Nat) (x : Part) : (s.setPart p x).rings = s.rings := rfl
@[simp] theorem State.setPart_adminEvents (s : State) (p : Nat) (x : Part) : (s.setPart p x).adminEvents = s.adminEvents := rfl
@[simp] theorem State.setPart_ctl (s : State) (p : Nat) (x : Part) : (s.setPart p x).ctl = s.ctl := rfl
@[simp] theorem State.setPart_kernels (s : State) (p : Nat) (x : Part) : (s.setPart p x).kernels = s.kernels := rfl
@[simp] theorem State.setPart_nextKernel (s : State) (p : Nat) (x : Part) : (s.setPart p x).nextKernel = s.nextKernel := rfl
@[simp] theorem State.setPart_vdes (s : State) (p : Nat) (x : Part) : (s.setPart p x).vdes = s.vdes := rfl
@[simp] theorem State.setPart_leases (s : State) (p : Nat) (x : Part) : (s.setPart p x).leases = s.leases := rfl
@[simp] theorem State.setPart_radio (s : State) (p : Nat) (x : Part) : (s.setPart p x).radio = s.radio := rfl
@[simp] theorem State.setPart_ports (s : State) (p : Nat) (x : Part) : (s.setPart p x).ports = s.ports := rfl
@[simp] theorem State.setPart_rope (s : State) (p : Nat) (x : Part) : (s.setPart p x).rope = s.rope := rfl
@[simp] theorem State.setPart_sec (s : State) (p : Nat) (x : Part) : (s.setPart p x).sec = s.sec := rfl
@[simp] theorem State.setPart_withheldUnits (s : State) (p : Nat) (x : Part) : (s.setPart p x).withheldUnits = s.withheldUnits := rfl
@[simp] theorem State.setPart_withheldHalves (s : State) (p : Nat) (x : Part) : (s.setPart p x).withheldHalves = s.withheldHalves := rfl
@[simp] theorem State.setPart_withheldLedge (s : State) (p : Nat) (x : Part) : (s.setPart p x).withheldLedge = s.withheldLedge := rfl
@[simp] theorem State.setPart_numVfs (s : State) (p : Nat) (x : Part) : (s.setPart p x).numVfs = s.numVfs := rfl

@[simp] theorem State.setCtx_pending (s : State) (p c : Nat) (y : Ctx) : (s.setCtx p c y).pending = s.pending := rfl
@[simp] theorem State.setCtx_fuses (s : State) (p c : Nat) (y : Ctx) : (s.setCtx p c y).fuses = s.fuses := rfl
@[simp] theorem State.setCtx_regs (s : State) (p c : Nat) (y : Ctx) : (s.setCtx p c y).regs = s.regs := rfl
@[simp] theorem State.setCtx_staged (s : State) (p c : Nat) (y : Ctx) : (s.setCtx p c y).staged = s.staged := rfl
@[simp] theorem State.setCtx_latched (s : State) (p c : Nat) (y : Ctx) : (s.setCtx p c y).latched = s.latched := rfl
@[simp] theorem State.setCtx_rdata (s : State) (p c : Nat) (y : Ctx) : (s.setCtx p c y).rdata = s.rdata := rfl
@[simp] theorem State.setCtx_now (s : State) (p c : Nat) (y : Ctx) : (s.setCtx p c y).now = s.now := rfl
@[simp] theorem State.setCtx_clk (s : State) (p c : Nat) (y : Ctx) : (s.setCtx p c y).clk = s.clk := rfl
@[simp] theorem State.setCtx_free (s : State) (p c : Nat) (y : Ctx) : (s.setCtx p c y).free = s.free := rfl
@[simp] theorem State.setCtx_host (s : State) (p c : Nat) (y : Ctx) : (s.setCtx p c y).host = s.host := rfl
@[simp] theorem State.setCtx_stack (s : State) (p c : Nat) (y : Ctx) : (s.setCtx p c y).stack = s.stack := rfl
@[simp] theorem State.setCtx_tileW (s : State) (p c : Nat) (y : Ctx) : (s.setCtx p c y).tileW = s.tileW := rfl
@[simp] theorem State.setCtx_tileA (s : State) (p c : Nat) (y : Ctx) : (s.setCtx p c y).tileA = s.tileA := rfl
@[simp] theorem State.setCtx_ledge (s : State) (p c : Nat) (y : Ctx) : (s.setCtx p c y).ledge = s.ledge := rfl
@[simp] theorem State.setCtx_ue (s : State) (p c : Nat) (y : Ctx) : (s.setCtx p c y).ue = s.ue := rfl
@[simp] theorem State.setCtx_weak (s : State) (p c : Nat) (y : Ctx) : (s.setCtx p c y).weak = s.weak := rfl
@[simp] theorem State.setCtx_stackSt (s : State) (p c : Nat) (y : Ctx) : (s.setCtx p c y).stackSt = s.stackSt := rfl
@[simp] theorem State.setCtx_msixT (s : State) (p c : Nat) (y : Ctx) : (s.setCtx p c y).msixT = s.msixT := rfl
@[simp] theorem State.setCtx_pba (s : State) (p c : Nat) (y : Ctx) : (s.setCtx p c y).pba = s.pba := rfl
@[simp] theorem State.setCtx_msixHeld (s : State) (p c : Nat) (y : Ctx) : (s.setCtx p c y).msixHeld = s.msixHeld := rfl
@[simp] theorem State.setCtx_outs (s : State) (p c : Nat) (y : Ctx) : (s.setCtx p c y).outs = s.outs := rfl
@[simp] theorem State.setCtx_cxlLink (s : State) (p c : Nat) (y : Ctx) : (s.setCtx p c y).cxlLink = s.cxlLink := rfl
@[simp] theorem State.setCtx_power (s : State) (p c : Nat) (y : Ctx) : (s.setCtx p c y).power = s.power := rfl
@[simp] theorem State.setCtx_islands (s : State) (p c : Nat) (y : Ctx) : (s.setCtx p c y).islands = s.islands := rfl
@[simp] theorem State.setCtx_units (s : State) (p c : Nat) (y : Ctx) : (s.setCtx p c y).units = s.units := rfl
@[simp] theorem State.setCtx_summit (s : State) (p c : Nat) (y : Ctx) : (s.setCtx p c y).summit = s.summit := rfl
@[simp] theorem State.setCtx_rings (s : State) (p c : Nat) (y : Ctx) : (s.setCtx p c y).rings = s.rings := rfl
@[simp] theorem State.setCtx_adminEvents (s : State) (p c : Nat) (y : Ctx) : (s.setCtx p c y).adminEvents = s.adminEvents := rfl
@[simp] theorem State.setCtx_ctl (s : State) (p c : Nat) (y : Ctx) : (s.setCtx p c y).ctl = s.ctl := rfl
@[simp] theorem State.setCtx_kernels (s : State) (p c : Nat) (y : Ctx) : (s.setCtx p c y).kernels = s.kernels := rfl
@[simp] theorem State.setCtx_nextKernel (s : State) (p c : Nat) (y : Ctx) : (s.setCtx p c y).nextKernel = s.nextKernel := rfl
@[simp] theorem State.setCtx_vdes (s : State) (p c : Nat) (y : Ctx) : (s.setCtx p c y).vdes = s.vdes := rfl
@[simp] theorem State.setCtx_leases (s : State) (p c : Nat) (y : Ctx) : (s.setCtx p c y).leases = s.leases := rfl
@[simp] theorem State.setCtx_radio (s : State) (p c : Nat) (y : Ctx) : (s.setCtx p c y).radio = s.radio := rfl
@[simp] theorem State.setCtx_ports (s : State) (p c : Nat) (y : Ctx) : (s.setCtx p c y).ports = s.ports := rfl
@[simp] theorem State.setCtx_rope (s : State) (p c : Nat) (y : Ctx) : (s.setCtx p c y).rope = s.rope := rfl
@[simp] theorem State.setCtx_sec (s : State) (p c : Nat) (y : Ctx) : (s.setCtx p c y).sec = s.sec := rfl
@[simp] theorem State.setCtx_withheldUnits (s : State) (p c : Nat) (y : Ctx) : (s.setCtx p c y).withheldUnits = s.withheldUnits := rfl
@[simp] theorem State.setCtx_withheldHalves (s : State) (p c : Nat) (y : Ctx) : (s.setCtx p c y).withheldHalves = s.withheldHalves := rfl
@[simp] theorem State.setCtx_withheldLedge (s : State) (p c : Nat) (y : Ctx) : (s.setCtx p c y).withheldLedge = s.withheldLedge := rfl
@[simp] theorem State.setCtx_numVfs (s : State) (p c : Nat) (y : Ctx) : (s.setCtx p c y).numVfs = s.numVfs := rfl

@[simp] theorem State.setIsland_pending (s : State) (d i : Nat) (x : Island) : (s.setIsland d i x).pending = s.pending := rfl
@[simp] theorem State.setIsland_fuses (s : State) (d i : Nat) (x : Island) : (s.setIsland d i x).fuses = s.fuses := rfl
@[simp] theorem State.setIsland_regs (s : State) (d i : Nat) (x : Island) : (s.setIsland d i x).regs = s.regs := rfl
@[simp] theorem State.setIsland_staged (s : State) (d i : Nat) (x : Island) : (s.setIsland d i x).staged = s.staged := rfl
@[simp] theorem State.setIsland_latched (s : State) (d i : Nat) (x : Island) : (s.setIsland d i x).latched = s.latched := rfl
@[simp] theorem State.setIsland_rdata (s : State) (d i : Nat) (x : Island) : (s.setIsland d i x).rdata = s.rdata := rfl
@[simp] theorem State.setIsland_now (s : State) (d i : Nat) (x : Island) : (s.setIsland d i x).now = s.now := rfl
@[simp] theorem State.setIsland_clk (s : State) (d i : Nat) (x : Island) : (s.setIsland d i x).clk = s.clk := rfl
@[simp] theorem State.setIsland_free (s : State) (d i : Nat) (x : Island) : (s.setIsland d i x).free = s.free := rfl
@[simp] theorem State.setIsland_host (s : State) (d i : Nat) (x : Island) : (s.setIsland d i x).host = s.host := rfl
@[simp] theorem State.setIsland_stack (s : State) (d i : Nat) (x : Island) : (s.setIsland d i x).stack = s.stack := rfl
@[simp] theorem State.setIsland_tileW (s : State) (d i : Nat) (x : Island) : (s.setIsland d i x).tileW = s.tileW := rfl
@[simp] theorem State.setIsland_tileA (s : State) (d i : Nat) (x : Island) : (s.setIsland d i x).tileA = s.tileA := rfl
@[simp] theorem State.setIsland_ledge (s : State) (d i : Nat) (x : Island) : (s.setIsland d i x).ledge = s.ledge := rfl
@[simp] theorem State.setIsland_ue (s : State) (d i : Nat) (x : Island) : (s.setIsland d i x).ue = s.ue := rfl
@[simp] theorem State.setIsland_weak (s : State) (d i : Nat) (x : Island) : (s.setIsland d i x).weak = s.weak := rfl
@[simp] theorem State.setIsland_stackSt (s : State) (d i : Nat) (x : Island) : (s.setIsland d i x).stackSt = s.stackSt := rfl
@[simp] theorem State.setIsland_msixT (s : State) (d i : Nat) (x : Island) : (s.setIsland d i x).msixT = s.msixT := rfl
@[simp] theorem State.setIsland_pba (s : State) (d i : Nat) (x : Island) : (s.setIsland d i x).pba = s.pba := rfl
@[simp] theorem State.setIsland_msixHeld (s : State) (d i : Nat) (x : Island) : (s.setIsland d i x).msixHeld = s.msixHeld := rfl
@[simp] theorem State.setIsland_outs (s : State) (d i : Nat) (x : Island) : (s.setIsland d i x).outs = s.outs := rfl
@[simp] theorem State.setIsland_cxlLink (s : State) (d i : Nat) (x : Island) : (s.setIsland d i x).cxlLink = s.cxlLink := rfl
@[simp] theorem State.setIsland_power (s : State) (d i : Nat) (x : Island) : (s.setIsland d i x).power = s.power := rfl
@[simp] theorem State.setIsland_units (s : State) (d i : Nat) (x : Island) : (s.setIsland d i x).units = s.units := rfl
@[simp] theorem State.setIsland_summit (s : State) (d i : Nat) (x : Island) : (s.setIsland d i x).summit = s.summit := rfl
@[simp] theorem State.setIsland_rings (s : State) (d i : Nat) (x : Island) : (s.setIsland d i x).rings = s.rings := rfl
@[simp] theorem State.setIsland_adminEvents (s : State) (d i : Nat) (x : Island) : (s.setIsland d i x).adminEvents = s.adminEvents := rfl
@[simp] theorem State.setIsland_parts (s : State) (d i : Nat) (x : Island) : (s.setIsland d i x).parts = s.parts := rfl
@[simp] theorem State.setIsland_ctl (s : State) (d i : Nat) (x : Island) : (s.setIsland d i x).ctl = s.ctl := rfl
@[simp] theorem State.setIsland_kernels (s : State) (d i : Nat) (x : Island) : (s.setIsland d i x).kernels = s.kernels := rfl
@[simp] theorem State.setIsland_nextKernel (s : State) (d i : Nat) (x : Island) : (s.setIsland d i x).nextKernel = s.nextKernel := rfl
@[simp] theorem State.setIsland_vdes (s : State) (d i : Nat) (x : Island) : (s.setIsland d i x).vdes = s.vdes := rfl
@[simp] theorem State.setIsland_leases (s : State) (d i : Nat) (x : Island) : (s.setIsland d i x).leases = s.leases := rfl
@[simp] theorem State.setIsland_radio (s : State) (d i : Nat) (x : Island) : (s.setIsland d i x).radio = s.radio := rfl
@[simp] theorem State.setIsland_ports (s : State) (d i : Nat) (x : Island) : (s.setIsland d i x).ports = s.ports := rfl
@[simp] theorem State.setIsland_rope (s : State) (d i : Nat) (x : Island) : (s.setIsland d i x).rope = s.rope := rfl
@[simp] theorem State.setIsland_sec (s : State) (d i : Nat) (x : Island) : (s.setIsland d i x).sec = s.sec := rfl
@[simp] theorem State.setIsland_withheldUnits (s : State) (d i : Nat) (x : Island) : (s.setIsland d i x).withheldUnits = s.withheldUnits := rfl
@[simp] theorem State.setIsland_withheldHalves (s : State) (d i : Nat) (x : Island) : (s.setIsland d i x).withheldHalves = s.withheldHalves := rfl
@[simp] theorem State.setIsland_withheldLedge (s : State) (d i : Nat) (x : Island) : (s.setIsland d i x).withheldLedge = s.withheldLedge := rfl
@[simp] theorem State.setIsland_numVfs (s : State) (d i : Nat) (x : Island) : (s.setIsland d i x).numVfs = s.numVfs := rfl

@[simp] theorem State.setVde_pending (s : State) (d n : Nat) (e : Vde) : (s.setVde d n e).pending = s.pending := rfl
@[simp] theorem State.setVde_fuses (s : State) (d n : Nat) (e : Vde) : (s.setVde d n e).fuses = s.fuses := rfl
@[simp] theorem State.setVde_regs (s : State) (d n : Nat) (e : Vde) : (s.setVde d n e).regs = s.regs := rfl
@[simp] theorem State.setVde_staged (s : State) (d n : Nat) (e : Vde) : (s.setVde d n e).staged = s.staged := rfl
@[simp] theorem State.setVde_latched (s : State) (d n : Nat) (e : Vde) : (s.setVde d n e).latched = s.latched := rfl
@[simp] theorem State.setVde_rdata (s : State) (d n : Nat) (e : Vde) : (s.setVde d n e).rdata = s.rdata := rfl
@[simp] theorem State.setVde_now (s : State) (d n : Nat) (e : Vde) : (s.setVde d n e).now = s.now := rfl
@[simp] theorem State.setVde_clk (s : State) (d n : Nat) (e : Vde) : (s.setVde d n e).clk = s.clk := rfl
@[simp] theorem State.setVde_free (s : State) (d n : Nat) (e : Vde) : (s.setVde d n e).free = s.free := rfl
@[simp] theorem State.setVde_host (s : State) (d n : Nat) (e : Vde) : (s.setVde d n e).host = s.host := rfl
@[simp] theorem State.setVde_stack (s : State) (d n : Nat) (e : Vde) : (s.setVde d n e).stack = s.stack := rfl
@[simp] theorem State.setVde_tileW (s : State) (d n : Nat) (e : Vde) : (s.setVde d n e).tileW = s.tileW := rfl
@[simp] theorem State.setVde_tileA (s : State) (d n : Nat) (e : Vde) : (s.setVde d n e).tileA = s.tileA := rfl
@[simp] theorem State.setVde_ledge (s : State) (d n : Nat) (e : Vde) : (s.setVde d n e).ledge = s.ledge := rfl
@[simp] theorem State.setVde_ue (s : State) (d n : Nat) (e : Vde) : (s.setVde d n e).ue = s.ue := rfl
@[simp] theorem State.setVde_weak (s : State) (d n : Nat) (e : Vde) : (s.setVde d n e).weak = s.weak := rfl
@[simp] theorem State.setVde_stackSt (s : State) (d n : Nat) (e : Vde) : (s.setVde d n e).stackSt = s.stackSt := rfl
@[simp] theorem State.setVde_msixT (s : State) (d n : Nat) (e : Vde) : (s.setVde d n e).msixT = s.msixT := rfl
@[simp] theorem State.setVde_pba (s : State) (d n : Nat) (e : Vde) : (s.setVde d n e).pba = s.pba := rfl
@[simp] theorem State.setVde_msixHeld (s : State) (d n : Nat) (e : Vde) : (s.setVde d n e).msixHeld = s.msixHeld := rfl
@[simp] theorem State.setVde_outs (s : State) (d n : Nat) (e : Vde) : (s.setVde d n e).outs = s.outs := rfl
@[simp] theorem State.setVde_cxlLink (s : State) (d n : Nat) (e : Vde) : (s.setVde d n e).cxlLink = s.cxlLink := rfl
@[simp] theorem State.setVde_power (s : State) (d n : Nat) (e : Vde) : (s.setVde d n e).power = s.power := rfl
@[simp] theorem State.setVde_islands (s : State) (d n : Nat) (e : Vde) : (s.setVde d n e).islands = s.islands := rfl
@[simp] theorem State.setVde_units (s : State) (d n : Nat) (e : Vde) : (s.setVde d n e).units = s.units := rfl
@[simp] theorem State.setVde_summit (s : State) (d n : Nat) (e : Vde) : (s.setVde d n e).summit = s.summit := rfl
@[simp] theorem State.setVde_rings (s : State) (d n : Nat) (e : Vde) : (s.setVde d n e).rings = s.rings := rfl
@[simp] theorem State.setVde_adminEvents (s : State) (d n : Nat) (e : Vde) : (s.setVde d n e).adminEvents = s.adminEvents := rfl
@[simp] theorem State.setVde_parts (s : State) (d n : Nat) (e : Vde) : (s.setVde d n e).parts = s.parts := rfl
@[simp] theorem State.setVde_ctl (s : State) (d n : Nat) (e : Vde) : (s.setVde d n e).ctl = s.ctl := rfl
@[simp] theorem State.setVde_kernels (s : State) (d n : Nat) (e : Vde) : (s.setVde d n e).kernels = s.kernels := rfl
@[simp] theorem State.setVde_nextKernel (s : State) (d n : Nat) (e : Vde) : (s.setVde d n e).nextKernel = s.nextKernel := rfl
@[simp] theorem State.setVde_leases (s : State) (d n : Nat) (e : Vde) : (s.setVde d n e).leases = s.leases := rfl
@[simp] theorem State.setVde_radio (s : State) (d n : Nat) (e : Vde) : (s.setVde d n e).radio = s.radio := rfl
@[simp] theorem State.setVde_ports (s : State) (d n : Nat) (e : Vde) : (s.setVde d n e).ports = s.ports := rfl
@[simp] theorem State.setVde_rope (s : State) (d n : Nat) (e : Vde) : (s.setVde d n e).rope = s.rope := rfl
@[simp] theorem State.setVde_sec (s : State) (d n : Nat) (e : Vde) : (s.setVde d n e).sec = s.sec := rfl
@[simp] theorem State.setVde_withheldUnits (s : State) (d n : Nat) (e : Vde) : (s.setVde d n e).withheldUnits = s.withheldUnits := rfl
@[simp] theorem State.setVde_withheldHalves (s : State) (d n : Nat) (e : Vde) : (s.setVde d n e).withheldHalves = s.withheldHalves := rfl
@[simp] theorem State.setVde_withheldLedge (s : State) (d n : Nat) (e : Vde) : (s.setVde d n e).withheldLedge = s.withheldLedge := rfl
@[simp] theorem State.setVde_numVfs (s : State) (d n : Nat) (e : Vde) : (s.setVde d n e).numVfs = s.numVfs := rfl

@[simp] theorem State.setSub_pending (s : State) (p n : Nat) (x : SubPort) : (s.setSub p n x).pending = s.pending := rfl
@[simp] theorem State.setSub_fuses (s : State) (p n : Nat) (x : SubPort) : (s.setSub p n x).fuses = s.fuses := rfl
@[simp] theorem State.setSub_regs (s : State) (p n : Nat) (x : SubPort) : (s.setSub p n x).regs = s.regs := rfl
@[simp] theorem State.setSub_staged (s : State) (p n : Nat) (x : SubPort) : (s.setSub p n x).staged = s.staged := rfl
@[simp] theorem State.setSub_latched (s : State) (p n : Nat) (x : SubPort) : (s.setSub p n x).latched = s.latched := rfl
@[simp] theorem State.setSub_rdata (s : State) (p n : Nat) (x : SubPort) : (s.setSub p n x).rdata = s.rdata := rfl
@[simp] theorem State.setSub_now (s : State) (p n : Nat) (x : SubPort) : (s.setSub p n x).now = s.now := rfl
@[simp] theorem State.setSub_clk (s : State) (p n : Nat) (x : SubPort) : (s.setSub p n x).clk = s.clk := rfl
@[simp] theorem State.setSub_free (s : State) (p n : Nat) (x : SubPort) : (s.setSub p n x).free = s.free := rfl
@[simp] theorem State.setSub_host (s : State) (p n : Nat) (x : SubPort) : (s.setSub p n x).host = s.host := rfl
@[simp] theorem State.setSub_stack (s : State) (p n : Nat) (x : SubPort) : (s.setSub p n x).stack = s.stack := rfl
@[simp] theorem State.setSub_tileW (s : State) (p n : Nat) (x : SubPort) : (s.setSub p n x).tileW = s.tileW := rfl
@[simp] theorem State.setSub_tileA (s : State) (p n : Nat) (x : SubPort) : (s.setSub p n x).tileA = s.tileA := rfl
@[simp] theorem State.setSub_ledge (s : State) (p n : Nat) (x : SubPort) : (s.setSub p n x).ledge = s.ledge := rfl
@[simp] theorem State.setSub_ue (s : State) (p n : Nat) (x : SubPort) : (s.setSub p n x).ue = s.ue := rfl
@[simp] theorem State.setSub_weak (s : State) (p n : Nat) (x : SubPort) : (s.setSub p n x).weak = s.weak := rfl
@[simp] theorem State.setSub_stackSt (s : State) (p n : Nat) (x : SubPort) : (s.setSub p n x).stackSt = s.stackSt := rfl
@[simp] theorem State.setSub_msixT (s : State) (p n : Nat) (x : SubPort) : (s.setSub p n x).msixT = s.msixT := rfl
@[simp] theorem State.setSub_pba (s : State) (p n : Nat) (x : SubPort) : (s.setSub p n x).pba = s.pba := rfl
@[simp] theorem State.setSub_msixHeld (s : State) (p n : Nat) (x : SubPort) : (s.setSub p n x).msixHeld = s.msixHeld := rfl
@[simp] theorem State.setSub_outs (s : State) (p n : Nat) (x : SubPort) : (s.setSub p n x).outs = s.outs := rfl
@[simp] theorem State.setSub_cxlLink (s : State) (p n : Nat) (x : SubPort) : (s.setSub p n x).cxlLink = s.cxlLink := rfl
@[simp] theorem State.setSub_power (s : State) (p n : Nat) (x : SubPort) : (s.setSub p n x).power = s.power := rfl
@[simp] theorem State.setSub_islands (s : State) (p n : Nat) (x : SubPort) : (s.setSub p n x).islands = s.islands := rfl
@[simp] theorem State.setSub_units (s : State) (p n : Nat) (x : SubPort) : (s.setSub p n x).units = s.units := rfl
@[simp] theorem State.setSub_summit (s : State) (p n : Nat) (x : SubPort) : (s.setSub p n x).summit = s.summit := rfl
@[simp] theorem State.setSub_rings (s : State) (p n : Nat) (x : SubPort) : (s.setSub p n x).rings = s.rings := rfl
@[simp] theorem State.setSub_adminEvents (s : State) (p n : Nat) (x : SubPort) : (s.setSub p n x).adminEvents = s.adminEvents := rfl
@[simp] theorem State.setSub_parts (s : State) (p n : Nat) (x : SubPort) : (s.setSub p n x).parts = s.parts := rfl
@[simp] theorem State.setSub_ctl (s : State) (p n : Nat) (x : SubPort) : (s.setSub p n x).ctl = s.ctl := rfl
@[simp] theorem State.setSub_kernels (s : State) (p n : Nat) (x : SubPort) : (s.setSub p n x).kernels = s.kernels := rfl
@[simp] theorem State.setSub_nextKernel (s : State) (p n : Nat) (x : SubPort) : (s.setSub p n x).nextKernel = s.nextKernel := rfl
@[simp] theorem State.setSub_vdes (s : State) (p n : Nat) (x : SubPort) : (s.setSub p n x).vdes = s.vdes := rfl
@[simp] theorem State.setSub_leases (s : State) (p n : Nat) (x : SubPort) : (s.setSub p n x).leases = s.leases := rfl
@[simp] theorem State.setSub_radio (s : State) (p n : Nat) (x : SubPort) : (s.setSub p n x).radio = s.radio := rfl
@[simp] theorem State.setSub_rope (s : State) (p n : Nat) (x : SubPort) : (s.setSub p n x).rope = s.rope := rfl
@[simp] theorem State.setSub_sec (s : State) (p n : Nat) (x : SubPort) : (s.setSub p n x).sec = s.sec := rfl
@[simp] theorem State.setSub_withheldUnits (s : State) (p n : Nat) (x : SubPort) : (s.setSub p n x).withheldUnits = s.withheldUnits := rfl
@[simp] theorem State.setSub_withheldHalves (s : State) (p n : Nat) (x : SubPort) : (s.setSub p n x).withheldHalves = s.withheldHalves := rfl
@[simp] theorem State.setSub_withheldLedge (s : State) (p n : Nat) (x : SubPort) : (s.setSub p n x).withheldLedge = s.withheldLedge := rfl
@[simp] theorem State.setSub_numVfs (s : State) (p n : Nat) (x : SubPort) : (s.setSub p n x).numVfs = s.numVfs := rfl

@[simp] theorem State.setBox_pending (s : State) (fn : Nat) (m : Mailbox) : (s.setBox fn m).pending = s.pending := rfl
@[simp] theorem State.setBox_fuses (s : State) (fn : Nat) (m : Mailbox) : (s.setBox fn m).fuses = s.fuses := rfl
@[simp] theorem State.setBox_regs (s : State) (fn : Nat) (m : Mailbox) : (s.setBox fn m).regs = s.regs := rfl
@[simp] theorem State.setBox_staged (s : State) (fn : Nat) (m : Mailbox) : (s.setBox fn m).staged = s.staged := rfl
@[simp] theorem State.setBox_latched (s : State) (fn : Nat) (m : Mailbox) : (s.setBox fn m).latched = s.latched := rfl
@[simp] theorem State.setBox_rdata (s : State) (fn : Nat) (m : Mailbox) : (s.setBox fn m).rdata = s.rdata := rfl
@[simp] theorem State.setBox_now (s : State) (fn : Nat) (m : Mailbox) : (s.setBox fn m).now = s.now := rfl
@[simp] theorem State.setBox_clk (s : State) (fn : Nat) (m : Mailbox) : (s.setBox fn m).clk = s.clk := rfl
@[simp] theorem State.setBox_free (s : State) (fn : Nat) (m : Mailbox) : (s.setBox fn m).free = s.free := rfl
@[simp] theorem State.setBox_host (s : State) (fn : Nat) (m : Mailbox) : (s.setBox fn m).host = s.host := rfl
@[simp] theorem State.setBox_stack (s : State) (fn : Nat) (m : Mailbox) : (s.setBox fn m).stack = s.stack := rfl
@[simp] theorem State.setBox_tileW (s : State) (fn : Nat) (m : Mailbox) : (s.setBox fn m).tileW = s.tileW := rfl
@[simp] theorem State.setBox_tileA (s : State) (fn : Nat) (m : Mailbox) : (s.setBox fn m).tileA = s.tileA := rfl
@[simp] theorem State.setBox_ledge (s : State) (fn : Nat) (m : Mailbox) : (s.setBox fn m).ledge = s.ledge := rfl
@[simp] theorem State.setBox_ue (s : State) (fn : Nat) (m : Mailbox) : (s.setBox fn m).ue = s.ue := rfl
@[simp] theorem State.setBox_weak (s : State) (fn : Nat) (m : Mailbox) : (s.setBox fn m).weak = s.weak := rfl
@[simp] theorem State.setBox_stackSt (s : State) (fn : Nat) (m : Mailbox) : (s.setBox fn m).stackSt = s.stackSt := rfl
@[simp] theorem State.setBox_msixT (s : State) (fn : Nat) (m : Mailbox) : (s.setBox fn m).msixT = s.msixT := rfl
@[simp] theorem State.setBox_pba (s : State) (fn : Nat) (m : Mailbox) : (s.setBox fn m).pba = s.pba := rfl
@[simp] theorem State.setBox_msixHeld (s : State) (fn : Nat) (m : Mailbox) : (s.setBox fn m).msixHeld = s.msixHeld := rfl
@[simp] theorem State.setBox_outs (s : State) (fn : Nat) (m : Mailbox) : (s.setBox fn m).outs = s.outs := rfl
@[simp] theorem State.setBox_cxlLink (s : State) (fn : Nat) (m : Mailbox) : (s.setBox fn m).cxlLink = s.cxlLink := rfl
@[simp] theorem State.setBox_power (s : State) (fn : Nat) (m : Mailbox) : (s.setBox fn m).power = s.power := rfl
@[simp] theorem State.setBox_islands (s : State) (fn : Nat) (m : Mailbox) : (s.setBox fn m).islands = s.islands := rfl
@[simp] theorem State.setBox_units (s : State) (fn : Nat) (m : Mailbox) : (s.setBox fn m).units = s.units := rfl
@[simp] theorem State.setBox_summit (s : State) (fn : Nat) (m : Mailbox) : (s.setBox fn m).summit = s.summit := rfl
@[simp] theorem State.setBox_rings (s : State) (fn : Nat) (m : Mailbox) : (s.setBox fn m).rings = s.rings := rfl
@[simp] theorem State.setBox_adminEvents (s : State) (fn : Nat) (m : Mailbox) : (s.setBox fn m).adminEvents = s.adminEvents := rfl
@[simp] theorem State.setBox_parts (s : State) (fn : Nat) (m : Mailbox) : (s.setBox fn m).parts = s.parts := rfl
@[simp] theorem State.setBox_ctl (s : State) (fn : Nat) (m : Mailbox) : (s.setBox fn m).ctl = s.ctl := rfl
@[simp] theorem State.setBox_kernels (s : State) (fn : Nat) (m : Mailbox) : (s.setBox fn m).kernels = s.kernels := rfl
@[simp] theorem State.setBox_nextKernel (s : State) (fn : Nat) (m : Mailbox) : (s.setBox fn m).nextKernel = s.nextKernel := rfl
@[simp] theorem State.setBox_vdes (s : State) (fn : Nat) (m : Mailbox) : (s.setBox fn m).vdes = s.vdes := rfl
@[simp] theorem State.setBox_leases (s : State) (fn : Nat) (m : Mailbox) : (s.setBox fn m).leases = s.leases := rfl
@[simp] theorem State.setBox_radio (s : State) (fn : Nat) (m : Mailbox) : (s.setBox fn m).radio = s.radio := rfl
@[simp] theorem State.setBox_ports (s : State) (fn : Nat) (m : Mailbox) : (s.setBox fn m).ports = s.ports := rfl
@[simp] theorem State.setBox_rope (s : State) (fn : Nat) (m : Mailbox) : (s.setBox fn m).rope = s.rope := rfl
@[simp] theorem State.setBox_withheldUnits (s : State) (fn : Nat) (m : Mailbox) : (s.setBox fn m).withheldUnits = s.withheldUnits := rfl
@[simp] theorem State.setBox_withheldHalves (s : State) (fn : Nat) (m : Mailbox) : (s.setBox fn m).withheldHalves = s.withheldHalves := rfl
@[simp] theorem State.setBox_withheldLedge (s : State) (fn : Nat) (m : Mailbox) : (s.setBox fn m).withheldLedge = s.withheldLedge := rfl
@[simp] theorem State.setBox_numVfs (s : State) (fn : Nat) (m : Mailbox) : (s.setBox fn m).numVfs = s.numVfs := rfl

@[simp] theorem State.putHost_pending (s : State) (a : Nat) (bs : List Byte) : (s.putHost a bs).pending = s.pending := rfl
@[simp] theorem State.putHost_fuses (s : State) (a : Nat) (bs : List Byte) : (s.putHost a bs).fuses = s.fuses := rfl
@[simp] theorem State.putHost_regs (s : State) (a : Nat) (bs : List Byte) : (s.putHost a bs).regs = s.regs := rfl
@[simp] theorem State.putHost_staged (s : State) (a : Nat) (bs : List Byte) : (s.putHost a bs).staged = s.staged := rfl
@[simp] theorem State.putHost_latched (s : State) (a : Nat) (bs : List Byte) : (s.putHost a bs).latched = s.latched := rfl
@[simp] theorem State.putHost_rdata (s : State) (a : Nat) (bs : List Byte) : (s.putHost a bs).rdata = s.rdata := rfl
@[simp] theorem State.putHost_now (s : State) (a : Nat) (bs : List Byte) : (s.putHost a bs).now = s.now := rfl
@[simp] theorem State.putHost_clk (s : State) (a : Nat) (bs : List Byte) : (s.putHost a bs).clk = s.clk := rfl
@[simp] theorem State.putHost_free (s : State) (a : Nat) (bs : List Byte) : (s.putHost a bs).free = s.free := rfl
@[simp] theorem State.putHost_stack (s : State) (a : Nat) (bs : List Byte) : (s.putHost a bs).stack = s.stack := rfl
@[simp] theorem State.putHost_tileW (s : State) (a : Nat) (bs : List Byte) : (s.putHost a bs).tileW = s.tileW := rfl
@[simp] theorem State.putHost_tileA (s : State) (a : Nat) (bs : List Byte) : (s.putHost a bs).tileA = s.tileA := rfl
@[simp] theorem State.putHost_ledge (s : State) (a : Nat) (bs : List Byte) : (s.putHost a bs).ledge = s.ledge := rfl
@[simp] theorem State.putHost_ue (s : State) (a : Nat) (bs : List Byte) : (s.putHost a bs).ue = s.ue := rfl
@[simp] theorem State.putHost_weak (s : State) (a : Nat) (bs : List Byte) : (s.putHost a bs).weak = s.weak := rfl
@[simp] theorem State.putHost_stackSt (s : State) (a : Nat) (bs : List Byte) : (s.putHost a bs).stackSt = s.stackSt := rfl
@[simp] theorem State.putHost_msixT (s : State) (a : Nat) (bs : List Byte) : (s.putHost a bs).msixT = s.msixT := rfl
@[simp] theorem State.putHost_pba (s : State) (a : Nat) (bs : List Byte) : (s.putHost a bs).pba = s.pba := rfl
@[simp] theorem State.putHost_msixHeld (s : State) (a : Nat) (bs : List Byte) : (s.putHost a bs).msixHeld = s.msixHeld := rfl
@[simp] theorem State.putHost_outs (s : State) (a : Nat) (bs : List Byte) : (s.putHost a bs).outs = s.outs := rfl
@[simp] theorem State.putHost_cxlLink (s : State) (a : Nat) (bs : List Byte) : (s.putHost a bs).cxlLink = s.cxlLink := rfl
@[simp] theorem State.putHost_power (s : State) (a : Nat) (bs : List Byte) : (s.putHost a bs).power = s.power := rfl
@[simp] theorem State.putHost_islands (s : State) (a : Nat) (bs : List Byte) : (s.putHost a bs).islands = s.islands := rfl
@[simp] theorem State.putHost_units (s : State) (a : Nat) (bs : List Byte) : (s.putHost a bs).units = s.units := rfl
@[simp] theorem State.putHost_summit (s : State) (a : Nat) (bs : List Byte) : (s.putHost a bs).summit = s.summit := rfl
@[simp] theorem State.putHost_rings (s : State) (a : Nat) (bs : List Byte) : (s.putHost a bs).rings = s.rings := rfl
@[simp] theorem State.putHost_adminEvents (s : State) (a : Nat) (bs : List Byte) : (s.putHost a bs).adminEvents = s.adminEvents := rfl
@[simp] theorem State.putHost_parts (s : State) (a : Nat) (bs : List Byte) : (s.putHost a bs).parts = s.parts := rfl
@[simp] theorem State.putHost_ctl (s : State) (a : Nat) (bs : List Byte) : (s.putHost a bs).ctl = s.ctl := rfl
@[simp] theorem State.putHost_kernels (s : State) (a : Nat) (bs : List Byte) : (s.putHost a bs).kernels = s.kernels := rfl
@[simp] theorem State.putHost_nextKernel (s : State) (a : Nat) (bs : List Byte) : (s.putHost a bs).nextKernel = s.nextKernel := rfl
@[simp] theorem State.putHost_vdes (s : State) (a : Nat) (bs : List Byte) : (s.putHost a bs).vdes = s.vdes := rfl
@[simp] theorem State.putHost_leases (s : State) (a : Nat) (bs : List Byte) : (s.putHost a bs).leases = s.leases := rfl
@[simp] theorem State.putHost_radio (s : State) (a : Nat) (bs : List Byte) : (s.putHost a bs).radio = s.radio := rfl
@[simp] theorem State.putHost_ports (s : State) (a : Nat) (bs : List Byte) : (s.putHost a bs).ports = s.ports := rfl
@[simp] theorem State.putHost_rope (s : State) (a : Nat) (bs : List Byte) : (s.putHost a bs).rope = s.rope := rfl
@[simp] theorem State.putHost_sec (s : State) (a : Nat) (bs : List Byte) : (s.putHost a bs).sec = s.sec := rfl
@[simp] theorem State.putHost_withheldUnits (s : State) (a : Nat) (bs : List Byte) : (s.putHost a bs).withheldUnits = s.withheldUnits := rfl
@[simp] theorem State.putHost_withheldHalves (s : State) (a : Nat) (bs : List Byte) : (s.putHost a bs).withheldHalves = s.withheldHalves := rfl
@[simp] theorem State.putHost_withheldLedge (s : State) (a : Nat) (bs : List Byte) : (s.putHost a bs).withheldLedge = s.withheldLedge := rfl
@[simp] theorem State.putHost_numVfs (s : State) (a : Nat) (bs : List Byte) : (s.putHost a bs).numVfs = s.numVfs := rfl

@[simp] theorem State.setCell_pending (s : State) (c : Nat) (x : Cell) : (s.setCell c x).pending = s.pending := rfl
@[simp] theorem State.setCell_fuses (s : State) (c : Nat) (x : Cell) : (s.setCell c x).fuses = s.fuses := rfl
@[simp] theorem State.setCell_regs (s : State) (c : Nat) (x : Cell) : (s.setCell c x).regs = s.regs := rfl
@[simp] theorem State.setCell_staged (s : State) (c : Nat) (x : Cell) : (s.setCell c x).staged = s.staged := rfl
@[simp] theorem State.setCell_latched (s : State) (c : Nat) (x : Cell) : (s.setCell c x).latched = s.latched := rfl
@[simp] theorem State.setCell_rdata (s : State) (c : Nat) (x : Cell) : (s.setCell c x).rdata = s.rdata := rfl
@[simp] theorem State.setCell_now (s : State) (c : Nat) (x : Cell) : (s.setCell c x).now = s.now := rfl
@[simp] theorem State.setCell_clk (s : State) (c : Nat) (x : Cell) : (s.setCell c x).clk = s.clk := rfl
@[simp] theorem State.setCell_free (s : State) (c : Nat) (x : Cell) : (s.setCell c x).free = s.free := rfl
@[simp] theorem State.setCell_host (s : State) (c : Nat) (x : Cell) : (s.setCell c x).host = s.host := rfl
@[simp] theorem State.setCell_stack (s : State) (c : Nat) (x : Cell) : (s.setCell c x).stack = s.stack := rfl
@[simp] theorem State.setCell_tileW (s : State) (c : Nat) (x : Cell) : (s.setCell c x).tileW = s.tileW := rfl
@[simp] theorem State.setCell_tileA (s : State) (c : Nat) (x : Cell) : (s.setCell c x).tileA = s.tileA := rfl
@[simp] theorem State.setCell_ledge (s : State) (c : Nat) (x : Cell) : (s.setCell c x).ledge = s.ledge := rfl
@[simp] theorem State.setCell_ue (s : State) (c : Nat) (x : Cell) : (s.setCell c x).ue = s.ue := rfl
@[simp] theorem State.setCell_weak (s : State) (c : Nat) (x : Cell) : (s.setCell c x).weak = s.weak := rfl
@[simp] theorem State.setCell_stackSt (s : State) (c : Nat) (x : Cell) : (s.setCell c x).stackSt = s.stackSt := rfl
@[simp] theorem State.setCell_msixT (s : State) (c : Nat) (x : Cell) : (s.setCell c x).msixT = s.msixT := rfl
@[simp] theorem State.setCell_pba (s : State) (c : Nat) (x : Cell) : (s.setCell c x).pba = s.pba := rfl
@[simp] theorem State.setCell_msixHeld (s : State) (c : Nat) (x : Cell) : (s.setCell c x).msixHeld = s.msixHeld := rfl
@[simp] theorem State.setCell_outs (s : State) (c : Nat) (x : Cell) : (s.setCell c x).outs = s.outs := rfl
@[simp] theorem State.setCell_cxlLink (s : State) (c : Nat) (x : Cell) : (s.setCell c x).cxlLink = s.cxlLink := rfl
@[simp] theorem State.setCell_power (s : State) (c : Nat) (x : Cell) : (s.setCell c x).power = s.power := rfl
@[simp] theorem State.setCell_islands (s : State) (c : Nat) (x : Cell) : (s.setCell c x).islands = s.islands := rfl
@[simp] theorem State.setCell_units (s : State) (c : Nat) (x : Cell) : (s.setCell c x).units = s.units := rfl
@[simp] theorem State.setCell_summit (s : State) (c : Nat) (x : Cell) : (s.setCell c x).summit = s.summit := rfl
@[simp] theorem State.setCell_rings (s : State) (c : Nat) (x : Cell) : (s.setCell c x).rings = s.rings := rfl
@[simp] theorem State.setCell_adminEvents (s : State) (c : Nat) (x : Cell) : (s.setCell c x).adminEvents = s.adminEvents := rfl
@[simp] theorem State.setCell_parts (s : State) (c : Nat) (x : Cell) : (s.setCell c x).parts = s.parts := rfl
@[simp] theorem State.setCell_ctl (s : State) (c : Nat) (x : Cell) : (s.setCell c x).ctl = s.ctl := rfl
@[simp] theorem State.setCell_kernels (s : State) (c : Nat) (x : Cell) : (s.setCell c x).kernels = s.kernels := rfl
@[simp] theorem State.setCell_nextKernel (s : State) (c : Nat) (x : Cell) : (s.setCell c x).nextKernel = s.nextKernel := rfl
@[simp] theorem State.setCell_vdes (s : State) (c : Nat) (x : Cell) : (s.setCell c x).vdes = s.vdes := rfl
@[simp] theorem State.setCell_leases (s : State) (c : Nat) (x : Cell) : (s.setCell c x).leases = s.leases := rfl
@[simp] theorem State.setCell_ports (s : State) (c : Nat) (x : Cell) : (s.setCell c x).ports = s.ports := rfl
@[simp] theorem State.setCell_rope (s : State) (c : Nat) (x : Cell) : (s.setCell c x).rope = s.rope := rfl
@[simp] theorem State.setCell_sec (s : State) (c : Nat) (x : Cell) : (s.setCell c x).sec = s.sec := rfl
@[simp] theorem State.setCell_withheldUnits (s : State) (c : Nat) (x : Cell) : (s.setCell c x).withheldUnits = s.withheldUnits := rfl
@[simp] theorem State.setCell_withheldHalves (s : State) (c : Nat) (x : Cell) : (s.setCell c x).withheldHalves = s.withheldHalves := rfl
@[simp] theorem State.setCell_withheldLedge (s : State) (c : Nat) (x : Cell) : (s.setCell c x).withheldLedge = s.withheldLedge := rfl
@[simp] theorem State.setCell_numVfs (s : State) (c : Nat) (x : Cell) : (s.setCell c x).numVfs = s.numVfs := rfl

@[simp] theorem State.setRope_pending (s : State) (f : Rope → Rope) : (s.setRope f).pending = s.pending := rfl
@[simp] theorem State.setRope_fuses (s : State) (f : Rope → Rope) : (s.setRope f).fuses = s.fuses := rfl
@[simp] theorem State.setRope_regs (s : State) (f : Rope → Rope) : (s.setRope f).regs = s.regs := rfl
@[simp] theorem State.setRope_staged (s : State) (f : Rope → Rope) : (s.setRope f).staged = s.staged := rfl
@[simp] theorem State.setRope_latched (s : State) (f : Rope → Rope) : (s.setRope f).latched = s.latched := rfl
@[simp] theorem State.setRope_rdata (s : State) (f : Rope → Rope) : (s.setRope f).rdata = s.rdata := rfl
@[simp] theorem State.setRope_now (s : State) (f : Rope → Rope) : (s.setRope f).now = s.now := rfl
@[simp] theorem State.setRope_clk (s : State) (f : Rope → Rope) : (s.setRope f).clk = s.clk := rfl
@[simp] theorem State.setRope_free (s : State) (f : Rope → Rope) : (s.setRope f).free = s.free := rfl
@[simp] theorem State.setRope_host (s : State) (f : Rope → Rope) : (s.setRope f).host = s.host := rfl
@[simp] theorem State.setRope_stack (s : State) (f : Rope → Rope) : (s.setRope f).stack = s.stack := rfl
@[simp] theorem State.setRope_tileW (s : State) (f : Rope → Rope) : (s.setRope f).tileW = s.tileW := rfl
@[simp] theorem State.setRope_tileA (s : State) (f : Rope → Rope) : (s.setRope f).tileA = s.tileA := rfl
@[simp] theorem State.setRope_ledge (s : State) (f : Rope → Rope) : (s.setRope f).ledge = s.ledge := rfl
@[simp] theorem State.setRope_ue (s : State) (f : Rope → Rope) : (s.setRope f).ue = s.ue := rfl
@[simp] theorem State.setRope_weak (s : State) (f : Rope → Rope) : (s.setRope f).weak = s.weak := rfl
@[simp] theorem State.setRope_stackSt (s : State) (f : Rope → Rope) : (s.setRope f).stackSt = s.stackSt := rfl
@[simp] theorem State.setRope_msixT (s : State) (f : Rope → Rope) : (s.setRope f).msixT = s.msixT := rfl
@[simp] theorem State.setRope_pba (s : State) (f : Rope → Rope) : (s.setRope f).pba = s.pba := rfl
@[simp] theorem State.setRope_msixHeld (s : State) (f : Rope → Rope) : (s.setRope f).msixHeld = s.msixHeld := rfl
@[simp] theorem State.setRope_outs (s : State) (f : Rope → Rope) : (s.setRope f).outs = s.outs := rfl
@[simp] theorem State.setRope_cxlLink (s : State) (f : Rope → Rope) : (s.setRope f).cxlLink = s.cxlLink := rfl
@[simp] theorem State.setRope_power (s : State) (f : Rope → Rope) : (s.setRope f).power = s.power := rfl
@[simp] theorem State.setRope_islands (s : State) (f : Rope → Rope) : (s.setRope f).islands = s.islands := rfl
@[simp] theorem State.setRope_units (s : State) (f : Rope → Rope) : (s.setRope f).units = s.units := rfl
@[simp] theorem State.setRope_summit (s : State) (f : Rope → Rope) : (s.setRope f).summit = s.summit := rfl
@[simp] theorem State.setRope_rings (s : State) (f : Rope → Rope) : (s.setRope f).rings = s.rings := rfl
@[simp] theorem State.setRope_adminEvents (s : State) (f : Rope → Rope) : (s.setRope f).adminEvents = s.adminEvents := rfl
@[simp] theorem State.setRope_parts (s : State) (f : Rope → Rope) : (s.setRope f).parts = s.parts := rfl
@[simp] theorem State.setRope_ctl (s : State) (f : Rope → Rope) : (s.setRope f).ctl = s.ctl := rfl
@[simp] theorem State.setRope_kernels (s : State) (f : Rope → Rope) : (s.setRope f).kernels = s.kernels := rfl
@[simp] theorem State.setRope_nextKernel (s : State) (f : Rope → Rope) : (s.setRope f).nextKernel = s.nextKernel := rfl
@[simp] theorem State.setRope_vdes (s : State) (f : Rope → Rope) : (s.setRope f).vdes = s.vdes := rfl
@[simp] theorem State.setRope_leases (s : State) (f : Rope → Rope) : (s.setRope f).leases = s.leases := rfl
@[simp] theorem State.setRope_radio (s : State) (f : Rope → Rope) : (s.setRope f).radio = s.radio := rfl
@[simp] theorem State.setRope_ports (s : State) (f : Rope → Rope) : (s.setRope f).ports = s.ports := rfl
@[simp] theorem State.setRope_sec (s : State) (f : Rope → Rope) : (s.setRope f).sec = s.sec := rfl
@[simp] theorem State.setRope_withheldUnits (s : State) (f : Rope → Rope) : (s.setRope f).withheldUnits = s.withheldUnits := rfl
@[simp] theorem State.setRope_withheldHalves (s : State) (f : Rope → Rope) : (s.setRope f).withheldHalves = s.withheldHalves := rfl
@[simp] theorem State.setRope_withheldLedge (s : State) (f : Rope → Rope) : (s.setRope f).withheldLedge = s.withheldLedge := rfl
@[simp] theorem State.setRope_numVfs (s : State) (f : Rope → Rope) : (s.setRope f).numVfs = s.numVfs := rfl


-- Reads of registers after a write.

theorem State.reg_setReg_self (s : State) (a : Nat) (v : W32) (h : SMap.wf regReset s.regs = true) :
    (s.setReg a v).reg a = v := SMap.get_put_self _ _ _ h

@[simp] theorem State.reg_setReg_other (s : State) (a b : Nat) (v : W32) (h : b ≠ a) :
    (s.setReg a v).reg b = s.reg b := SMap.get_put_other _ _ _ _ h

@[simp] theorem State.setRing_reg (s : State) (n : Nat) (r : Ring) (k : Nat) : (s.setRing n r).reg k = s.reg k := rfl

@[simp] theorem State.setPart_reg (s : State) (p : Nat) (x : Part) (k : Nat) : (s.setPart p x).reg k = s.reg k := rfl

@[simp] theorem State.setCtx_reg (s : State) (p c : Nat) (y : Ctx) (k : Nat) : (s.setCtx p c y).reg k = s.reg k := rfl

@[simp] theorem State.setIsland_reg (s : State) (d i : Nat) (x : Island) (k : Nat) : (s.setIsland d i x).reg k = s.reg k := rfl

@[simp] theorem State.setVde_reg (s : State) (d n : Nat) (e : Vde) (k : Nat) : (s.setVde d n e).reg k = s.reg k := rfl

@[simp] theorem State.setSub_reg (s : State) (p n : Nat) (x : SubPort) (k : Nat) : (s.setSub p n x).reg k = s.reg k := rfl

@[simp] theorem State.setBox_reg (s : State) (fn : Nat) (m : Mailbox) (k : Nat) : (s.setBox fn m).reg k = s.reg k := rfl

@[simp] theorem State.putHost_reg (s : State) (a : Nat) (bs : List Byte) (k : Nat) : (s.putHost a bs).reg k = s.reg k := rfl

@[simp] theorem State.setCell_reg (s : State) (c : Nat) (x : Cell) (k : Nat) : (s.setCell c x).reg k = s.reg k := rfl

@[simp] theorem State.setRope_reg (s : State) (f : Rope → Rope) (k : Nat) : (s.setRope f).reg k = s.reg k := rfl

-- Reads of numbered units after a write.

theorem State.ring_setRing_self (s : State) (n : Nat) (r : Ring) (h : SMap.wf (fun _ => Ring.reset) s.rings = true) :
    (s.setRing n r).ring n = r := SMap.get_put_self _ _ _ h

@[simp] theorem State.ring_setRing_other (s : State) (n m : Nat) (r : Ring) (h : m ≠ n) :
    (s.setRing n r).ring m = s.ring m := SMap.get_put_other _ _ _ _ h

theorem State.part_setPart_self (s : State) (p : Nat) (x : Part) (h : SMap.wf (fun _ => Part.reset) s.parts = true) :
    (s.setPart p x).part p = x := SMap.get_put_self _ _ _ h

@[simp] theorem State.part_setPart_other (s : State) (p q : Nat) (x : Part) (h : q ≠ p) :
    (s.setPart p x).part q = s.part q := SMap.get_put_other _ _ _ _ h

theorem State.vde_setVde_self (s : State) (d n : Nat) (e : Vde) (h : SMap.wf (fun _ => Vde.reset) s.vdes = true) :
    (s.setVde d n e).vde d n = e := SMap.get_put_self _ _ _ h

theorem State.island_setIsland_self (s : State) (d i : Nat) (x : Island)
    (h : SMap.wf (fun _ => Island.reset) s.islands = true) : (s.setIsland d i x).island d i = x :=
  SMap.get_put_self _ _ _ h

end Sys2Proof.Machine
end

