-- ==== Sys2Proof/WellFormed.lean ====
section
/-! DEFINITION. Well-formed commands: every operand that names an object of the device names one that
the spec gives it. A command that names none has no effect in the machine, so no run depends on this. -/

namespace Sys2Proof

open Machine

/-- Bytes that the space of a view has (09 R308). -/
def View.bytes : View → Nat
  | .pf => 8_388_608 | .vf _ => 262_144 | .pfTable => 65_536 | .vfTable _ => 65_536

/-- The offset is that of a register word of the view (00 R14, 09 R308). -/
def View.holds (v : View) (off : Nat) : Bool := decide (off % 4 = 0) && decide (off < v.bytes)

/-- The ring entry n lies in the view: 65,536 in BAR 0 of the physical function and 32 bytes each in that of a
virtual function (09 R308, R309). -/
def View.hasRing (v : View) (n : Nat) : Bool :=
  match v with
  | .pf => decide (n < 65_536)
  | .vf _ => decide (n < 8_192)
  | _ => false

/-- The operands name objects that exist. -/
def Instr.wf : Instr → Bool
  | .registerWrite v off _ _ | .rcRegisterRead v off | .lowWordWrite v off _ _ | .highWordWrite v off _ _
  | .lowWordRead v off => v.holds off
  | .stall u _ | .substitutionReissue u => u.exists'
  | .partitionStopTileLost p | .partitionEnable p | .partitionResume p | .quiesceReset p | .resetDrainDone p _
  | .generationDiscard p | .partitionRelease p | .scrubDone p _ _ _ _ | .vfFlr p | .kernelStart p
  | .quantumExpiry p | .contextSaveDone p | .contextResumeDone p _ | .accountingUpdate p | .pqEnable p _
  | .pqTxPoll p | .tspLock p | .tspRun p _ | .tspError p => decide (p < 64)
  | .paceSample d i _ _ | .islandRemovalDone d i | .governorStep d i _ | .paceEmergency d i | .throttleStep d i =>
    decide (d < 2) && decide (i < 8)
  | .load .. | .mm .. | .conv .. | .gather .. | .epilogue .. | .blockCommit .. | .splitPartResume ..
  | .splitTimeout .. | .biasAct .. | .biasActRes .. | .dequantAct .. | .rowStats .. | .layernormMm ..
  | .rmsnormMm .. | .gated .. | .attentionOnline .. | .attentionTwoPass .. | .routerTopk .. | .dynamicQuant ..
  | .colPool .. | .peerSend .. | .peerSendPayloadAcked .. | .peerSendCommit .. | .peerAccum ..
  | .chainBufferReady .. | .chainTimeout .. | .vdeHaltRequest | .vdeStep | .vdeResume | .vdeListEnd
  | .accelResult .. | .islandAdd .. | .islandRemove .. | .belayRadioMemWrite .. | .limiterSample ..
  | .leaseGrant | .leaseRevoke | .leaseReclaimSave .. | .leaseLayerAbandon .. | .leaseEnd ..
  | .kernelOverrun .. | .kernelAbandon .. | .energyAttribution .. | .paceBlindRelease | .cxlMemWrite ..
  | .cxlMemRead .. | .windowLock | .cxlLinkTrained .. | .ideFailure | .patrolRead .. | .expand .. | .bucket ..
  | .gatherRows .. | .ropeLoad .. | .ropeStore .. | .addI32 .. | .addI64 .. | .minI64 .. | .maxI64 ..
  | .and64 .. | .or64 .. | .xor64 .. | .swap64 .. | .cas64 .. | .addF32 .. | .publish .. | .digest ..
  | .genFence .. | .ropeFence .. | .ropeHomeRequest .. | .ropeReply .. | .ropeEnableWrite ..
  | .ropeHeartbeat .. | .memberDead .. | .ropeEvict .. | .selfExclude | .coordinatorLoss | .epochReceive ..
  | .epochCommit | .epochAckTimeout .. | .rejoin .. | .globalEpochChange .. | .chunkSend .. | .chunkReceive ..
  | .coldStartStageTimeout | .frameReceive .. | .allowLock | .todRead | .timeSet .. | .announceTimeout
  | .holdoverExceeded | .ryrnHeartbeat | .watchdogQuiesce | .stage .. | .activate | .discard | .fwCommit
  | .fwRollback | .ideKm .. | .backgroundKat .. | .katUnit .. | .katClass .. | .monitorCheck ..
  | .marginCheck .. | .selftestDeferred .. | .startupSelftest .. | .evrFreeze | .evrUnfreeze | .evrClear
  | .auxPowerUp | .regulatorStart | .powerGood | .boot .. | .brownOut | .auxBrownOut | .coldRstN .. | .perstN
  | .warmRstN | .pwrReset .. | .pfFlr | .cxlHotReset | .thermalTrip .. | .profileChange .. | .standbyRequest ..
  | .standbyEntered | .standbyWakeWrite .. | .wakeN | .wakeComplete .. | .mgmtRead .. | .ptpEnableWrite ..
  | .warmRstNRelease => true
  | .paramRequest n _ | .configRequest n _ _ | .cellRelease n _ | .startRequest n _ | .stopRequest n _
  | .dlTtiRequest n _ _ | .ulDciRequest n _ _ | .txDataRequest n _ _
  | .slotBookRequest n _ _ | .ssbSearchRequest n _ _ _ _ | .semSet n | .semAcquire n | .semRelease n
  | .loadImage n _ _ | .unloadImage n | .unloadSlotIdle n | .run n | .mlist n | .oplist n | .accel n
  | .copy n _ | .l1Buf n | .indicationDrop n | .ringDisableComplete n | .doorbellReacquireTimeout n
  | .descriptorFetch n _ | .descriptorCompletion n => decide (n < 65536)
  | .ulTtiRequest n _ pdus => decide (n < 65536) && pdus.all (fun p => decide (p.harq < 16))
  | .cellStart c | .stopIndication c | .ssbSearchIndication c | .slotIndication c | .downlinkProcessing c _
  | .cPlaneLaunch c _ | .uplinkCPlaneLaunch c _ | .mmseWeights c _ | .harqCombining c _ _ | .uplinkResults c _
  | .shedSlot c | .cellShedComplete c | .commitPoint c _ _ => decide (c < 384)
  | .uPlaneLaunch c _ k | .symbolWindowClose c _ k | .channelEstimation c _ k | .equalisation c _ k =>
    decide (c < 384) && decide (k < 14)
  | .uPlaneDiscard port sub => decide (port < 8) && decide (sub < 4)
  | .vLdv die n | .vStv die n | .vLdx die n | .vSts die n | .vExpb die n | .vCmpb die n | .vAgld die n
  | .vMov die n | .vSplat die n | .vSets die n | .vPerm die n | .vAdd die n | .vSub die n | .vMul die n
  | .vConj die n | .vAbs2 die n | .vShr die n | .vCvt die n | .vMaxv die n | .vMinv die n | .vAnd die n
  | .vXor die n | .vRecip die n | .vMacz die n | .vMac die n | .vMsc die n | .vNarrow die n | .vGold die n
  | .vCrc die n | .vQmap die n | .vDemap die n | .vFht die n | .vMaxs die n | .vMins die n | .vRsum die n
  | .vAmm die n | .vArd die n | .vLoop die n | .vNop die n | .vFence die n | .vBrk die n | .vdeFreezeEnd die n
  | .vdeHalt die n => decide (die < 2) && decide (n < EngineClass.vde.perDie)
  | .fft die n _ => decide (die < 2) && decide (n < EngineClass.fft.perDie)
  | .ldpcDecode die n _ => decide (die < 2) && decide (n < EngineClass.ldpcDec.perDie)
  | .ldpcEncode die n _ => decide (die < 2) && decide (n < EngineClass.ldpcEnc.perDie)
  | .polarEncode die n _ | .polarDecode die n _ => decide (die < 2) && decide (n < EngineClass.polar.perDie)
  | .prach die n _ => decide (die < 2) && decide (n < EngineClass.prach.perDie)
  | .thermalWarning d | .thermalEmergency d | .shedStepRepeat d => decide (d < 2)
  | .vfEnableCleared n => decide (n ≤ 64)
  | .batchCloseTimeout p c | .holdExceeded p c => decide (p < 64) && decide (c < 4096)
  | .ringEnable v n _ _ _ | .ringDisable v n => v.hasRing n
  | .doorbellEvent line words => decide (line % 64 = 0) && decide (words.length = 16)
  | .adminDbWrite word _ _ => decide (word < 2)
  | .intcSetWrite n _ | .intcEnWrite n _ => decide (n < 128)
  | .msixUnmask fn entry => decide (fn ≤ 64) && decide (entry < 2048)
  | .refresh stack channel bank _ _ _ => decide (stack < 24) && decide (channel < 32) && decide (bank < 48)
  | .ropeRetry _ stack _ | .remoteTimeout _ stack _ | .replayWindowAgeout stack _ | .ropeCreditGrant _ stack _ =>
    decide (stack < 24)
  | .ropePortChange p _ _ _ => decide (p < 16)
  | .launchGateArm g _ | .launchGateFire g => decide (g < 16)
  | .frameTransmit n sub | .ptpTransmit n sub _ | .portLinkChange n sub _ | .gclChange n sub _
  | .gclTakeEffect n sub | .gateIntervalEnd n sub => decide (n < 8) && decide (sub < 4)
  | .portEnable n _ => decide (n < 8)
  | .cmpArm u _ | .cmpFire u => decide (u < 16)
  | .ppsPulseEnd i => decide (i < 2)
  | .captureArm c _ | .captureEvent c => decide (c < 8)
  | .getVersion fn | .getCapabilities fn | .negotiateAlgorithms fn _ | .getDigests fn | .keyExchange fn _
  | .finish fn _ | .spdmHeartbeat fn _ | .keyUpdate fn _ | .endSession fn _ => decide (fn ≤ 64)
  | .getCertificate fn slot _ _ => decide (fn ≤ 64) && decide (slot < 8)
  | .challenge fn slot nonce => decide (fn ≤ 64) && decide (slot < 8) && decide (nonce.length = 32)
  | .getMeasurements fn _ _ nonce => decide (fn ≤ 64) && decide (nonce.length = 32)
  | .resetRelease addr _ => decide (addr < 4)
  | .regionEnable i => decide (i < 2048)

/-- A well-formed command. -/
abbrev WellFormed (i : Instr) : Prop := i.wf = true

end Sys2Proof
end

