-- ==== Sys2Proof/Tests/Slice0.lean ====
section
/-! SUPPORT. Tests: ill-formed commands that the check refuses, worked examples of the spec, and for each statement
concrete states and operands that meet its hypotheses. -/

-- The many lemmas below are elaborated one after another: the package is checked as one text, and fewer wait at once.
set_option Elab.async false

namespace Sys2Proof.Tests

open Machine

/-- A running device, 1 s after its build. -/
def live : State :=
  { State.reset with
    now := 1_000_000_000
    power := { Power.reset with
      phase := .good, auxOk := true, stage := .running, inReset := false, powerGood := true, coldRstN := true, perstN := true } }

-- Ill-formed commands, one for each check, and their neighbours in range.

/-- Register accesses off a word, past a view, and of a ring entry that a view does not have. -/
theorem test_wf_views :
    (Instr.registerWrite .pf 2 0 0xF).wf = false ∧ (Instr.registerWrite .pf 0x80_0000 0 0xF).wf = false ∧
    (Instr.rcRegisterRead (.vf 0) 0x4_0000).wf = false ∧ (Instr.lowWordRead (.vfTable 0) 0x1_0000).wf = false ∧
    (Instr.ringEnable (.vf 0) 8_192 0 0 0).wf = false ∧ (Instr.ringDisable .pf 65_536).wf = false ∧
    (Instr.registerWrite .pf 0x7F_FFFC 0 0xF).wf = true ∧ (Instr.ringEnable (.vf 0) 8_191 0 0 0).wf = true := by decide

/-- A unit, a partition, an island, an engine of each class that the device does not have. -/
theorem test_wf_units :
    (Instr.stall ⟨0, .tile, 192⟩ []).wf = false ∧ (Instr.stall ⟨2, .vde, 0⟩ []).wf = false ∧ (Instr.partitionEnable 64).wf = false ∧
    (Instr.throttleStep 2 0).wf = false ∧ (Instr.throttleStep 0 8).wf = false ∧ (Instr.vMac 0 96).wf = false ∧
    (Instr.vMac 2 0).wf = false ∧ (Instr.fft 0 32 none).wf = false ∧ (Instr.ldpcDecode 0 24 none).wf = false ∧
    (Instr.ldpcEncode 0 24 none).wf = false ∧ (Instr.polarDecode 1 8 none).wf = false ∧ (Instr.prach 1 4 none).wf = false ∧
    (Instr.thermalWarning 2).wf = false ∧ (Instr.stall ⟨1, .tile, 191⟩ []).wf = true ∧ (Instr.vMac 1 95).wf = true ∧
    (Instr.partitionEnable 63).wf = true := by decide

/-- A ring, a cell, a symbol, a port, a stream of frames, and a count of partitions, contexts or functions out of range. -/
theorem test_wf_queues :
    (Instr.run 65_536).wf = false ∧ (Instr.cellStart 384).wf = false ∧ (Instr.uPlaneLaunch 0 0 14).wf = false ∧
    (Instr.uPlaneDiscard 8 0).wf = false ∧ (Instr.frameTransmit 0 4).wf = false ∧ (Instr.portEnable 8 0).wf = false ∧
    (Instr.vfEnableCleared 65).wf = false ∧ (Instr.batchCloseTimeout 0 4_096).wf = false ∧
    (Instr.doorbellEvent 4 (List.replicate 16 0)).wf = false ∧ (Instr.doorbellEvent 64 []).wf = false ∧
    (Instr.adminDbWrite 2 0 0xF).wf = false ∧ (Instr.intcSetWrite 128 0).wf = false ∧ (Instr.msixUnmask 65 0).wf = false ∧
    (Instr.msixUnmask 0 2_048).wf = false ∧ (Instr.cellStart 383).wf = true ∧ (Instr.msixUnmask 64 2_047).wf = true := by
  decide

/-- A stack, a channel, a bank, a Rope port, a gate, a clock unit, a mailbox, a nonce, an address and a region out of range. -/
theorem test_wf_system :
    (Instr.refresh 24 0 0 0 0 []).wf = false ∧ (Instr.refresh 0 32 0 0 0 []).wf = false ∧ (Instr.refresh 0 0 48 0 0 []).wf = false ∧
    (Instr.ropeRetry 0 24 0).wf = false ∧ (Instr.ropePortChange 16 true 0 0).wf = false ∧ (Instr.launchGateFire 16).wf = false ∧
    (Instr.cmpFire 16).wf = false ∧ (Instr.ppsPulseEnd 2).wf = false ∧ (Instr.captureEvent 8).wf = false ∧
    (Instr.getVersion 65).wf = false ∧ (Instr.getCertificate 0 8 0 0).wf = false ∧ (Instr.challenge 0 0 []).wf = false ∧
    (Instr.getMeasurements 0 1 false []).wf = false ∧ (Instr.resetRelease 4 false).wf = false ∧
    (Instr.regionEnable 2_048).wf = false ∧ (Instr.refresh 23 31 47 0 0 []).wf = true ∧ (Instr.regionEnable 2_047).wf = true := by
  decide

/-- No row of the table of operations gives bits. -/
theorem test_no_word : decodeTableWord 32 0 = none := rfl

-- The block as a whole, registers and units (O1 to O12).

/-- O1, O2: a command waits, or none does. -/
theorem test_hyps_steps : ({ live with pending := [.todRead] } : State).pending = .todRead :: [] ∧ live.pending = [] := by
  decide +kernel

/-- O7: an access past the stack memory. -/
theorem test_hyps_missing_address : live.memBytes < live.memBytes + 1 ∧ live.memBytes = 24 * 48 * 2 ^ 30 := by decide +kernel

/-- O8: a write with a byte enable missing, and a read at the last word of the space. -/
theorem test_hyps_byte_enables : (0x7 : BitVec 4) ≠ 0xF ∧ live.up = true ∧ 0x7F_FFFC < 0x80_0000 ∧ 0x7F_FFFC % 4 = 0 := by
  decide +kernel

/-- O9: a 32-bit register, the low and the high word of a 64-bit one, a latched word, and an MSI-X table. -/
theorem test_hyps_registers : live.canon = true ∧ live.reached .pf = true ∧
    (bar2 .pf = none ∧ live.viewAddr .pf (aPWR + 0x10) = some (aPWR + 0x10) ∧ pairLow (aPWR + 0x10) = false ∧
      pairHigh (aPWR + 0x10) = false) ∧
    (live.viewAddr .pf (aWIN 0) = some (aWIN 0) ∧ pairLow (aWIN 0) = true ∧ live.lowHeld (aWIN 0) = false) ∧
    (pairLow (aWIN 0 + 4) = false ∧ pairHigh (aWIN 0 + 4) = true) ∧
    SMap.get (fun _ => none) ({ live with latched := [(aWIN 0 + 4, some 7)] } : State).latched (aWIN 0 + 4) =
      some (7 : W32) ∧
    (bar2 .pfTable = some 0 ∧ live.reached .pfTable = true) := by decide +kernel

/-- O10: the last island. -/
theorem test_hyps_pace : live.canon = true ∧ live.awake = true ∧ 1 < 2 ∧ 7 < 8 := by decide +kernel

def vde5 : UnitId := ⟨1, .vde, 5⟩
def tile3 : UnitId := ⟨0, .tile, 3⟩
def withSubst (u : UnitId) : State :=
  { live with units := { live.units with substs := [⟨u, 0, some ⟨u.die, u.cls, true, 0, u.island⟩, false, ⟨u.die, u.cls, false, u.num, u.island⟩⟩] } }

/-- O11: a working unit, a substituted engine and tile, and a running partition that lost a tile. -/
theorem test_hyps_units : (live.awake = true ∧ vde5.exists' = true ∧ live.isRetired vde5 = false ∧
      live.underSubst vde5 = false) ∧
    (vde5.cls ≠ .tile ∧ ((withSubst vde5).units.substs.find? (fun x => decide (x.unit = vde5) &&
      (x.spare.isSome || x.moved))).bind Subst.spare = some ⟨1, .vde, true, 0, vde5.island⟩) ∧
    ((withSubst tile3).units.substs.find? (fun x => decide (x.unit = tile3) &&
      (x.spare.isSome || x.moved))).isSome = true ∧ (withSubst tile3).underSubst tile3 = true ∧
    (let s : State := { live with
       units := { live.units with tilesLost := [(0, 0, 3)] }, parts := [(0, { Part.reset with state := .running })] }
     s.units.tilesLost.find? (fun e => decide (e.1 = 0)) = some (0, 0, 3) ∧ (s.partKernels 0).isEmpty = true ∧
       (s.part 0).state = .running) := by decide +kernel

def mismatch (s : State) (u : UnitId) : State :=
  (s.countKat true).record 0x0102 (siteUnit u) (lo32 u.island) ((s.countKat true).unitTemp u)

/-- O12: a first mismatch that is transient, and one that two events of the last 10 s make lasting. -/
theorem test_hyps_mismatch : live.awake = true ∧ vde5.exists' = true ∧ live.isRetired vde5 = false ∧
    live.underSubst vde5 = false ∧ live.power.withheld = false ∧ live.oldest (.unit vde5) = true ∧
    (mismatch live vde5).lastingWith ((mismatch live vde5).unitEvt vde5 0x0102) = false ∧
    (let s := (live.addFault (live.unitEvt vde5 0x0101)).addFault (live.unitEvt vde5 0x0103)
     (mismatch s vde5).lastingWith ((mismatch s vde5).unitEvt vde5 0x0102) = true) := by decide +kernel

-- Matrix tiles (O13 to O15).

/-- A kernel of a RUN job on tile 0 of M0, of the physical function's issuer, with the given instructions. -/
def kern (ins : List InsRec) : Kernel :=
  { id := 0, kind := .run, ring := 0, desc := 0, part := none, ctx := 0, slot := 0, kidx := 0, tiles := [(0, 0)], unit := none,
    bases := List.replicate 8 0, listOff := 0, count := 4, maxUs := 100, start := 0, overrun := false, cmd := [], res := none,
    ins := ins }
def withKern (k : Kernel) : State := { live with kernels := [k] }

/-- Words of an instruction: the given ones by number, every other 0. -/
def mi (ws : List (Nat × Nat)) : List W32 :=
  (List.range 32).map (fun i => lo32 (((ws.find? (fun e => decide (e.1 = i))).map Prod.snd).getD 0))

/-- A LOAD of 64 bytes from stack offset 0 to the weight store (03 R97). -/
def miLoad : List W32 := mi [(0, 0x01), (9, 0x0008_0000), (27, 2)]

/-- O13: each of the four opcodes is issued to a free tile, and a LOAD of 64 bytes passes its checks. -/
theorem test_hyps_tile_rows : ((withKern (kern [])).kernel 0 = some (kern []) ∧ (kern []).tiles[0]? = some (0, 0) ∧
      live.awake = true ∧ (withKern (kern [])).underSubst ⟨0, .tile, 0⟩ = false ∧ (kern []).clean 0 = true ∧
      (kern []).insAt 0 = none) ∧
    (∀ op ∈ [0x01, 0x10, 0x11, 0x12], (withKern (kern [])).fetchIns (kern []) 0 (mi [(0, op)]) = .words (mi [(0, op)]) ∧
      (kern []).tileReady 0 0 0 (mi [(0, op)]) = true ∧ miOp (mi [(0, op)]) = op) ∧
    (let r := InsRec.fresh 0 0 0 miLoad 0
     miBad r.words = none ∧ (withKern (kern [])).regionFail ((kern []).site 0 0) [(11, miCode r.words .aData,
       miOff r.words .aData, ldBytes r.words), (15, miCode r.words .outData, miOff r.words .outData, ldBytes r.words)] =
         none ∧
     (withKern (kern [])).locUe ((kern []).site 0 0) (miCode r.words .aData) (miOff r.words .aData) (ldBytes r.words) =
       none ∧ r.counted = false ∧ ldBytes r.words = 64) := by decide +kernel

/-- The words of an exact 1 × 1 block with its checksum, and its drained record. -/
def miCk : List W32 := mi [(0, 0x4000_1110), (1, 0x8181), (2, 8)]
def drained (w : List W32) : InsRec := { InsRec.fresh 0 0 0 w 0 with phase := .drained, re := [.ofInt 5], im := [.zero] }
def upset (run : Nat) : CellFlip := ⟨run, 0, 0, false, .ofInt 7⟩

/-- O14: each chain drains; without a checksum a run is accepted; with one a clean run is, an upset run repeats, and a
second upset run is a mismatch where it is no fault event (14 R463). -/
theorem test_hyps_epilogue :
    (∀ c ∈ [0, 1, 2, 3, 4, 5, 6, 7, 8, 9, 10, 11, 12, 14], miChain (mi [(0, 0x10), (1, c * 2 ^ 16)]) = c ∧
      (match State.acceptRun (kern []) [] 2 live (drained (mi [(0, 0x10), (1, c * 2 ^ 16)])) with
        | .ok _ _ => true | _ => false) = true) ∧
    (let r := drained miCk
     let s := withKern (kern [r])
     s.recIn 0 0 .drained = some (kern [r], r) ∧ (kern [r]).epilogueFree r = true ∧ miCheck r.words = true ∧
     miExact r.words = true ∧ miCheck (mi [(0, 0x10)]) = false ∧
     (ckCompare r.words r.block (flipRun 1 0 [] false [] r.re) (flipRun 1 0 [] true [] r.im)).bad = false ∧
     (ckCompare r.words r.block (flipRun 1 0 [] false [upset 0] r.re) (flipRun 1 0 [] true [upset 0] r.im)).bad = true ∧
     r.rerun = false ∧
     ((s.checksumEvent ⟨0, .tile, 0⟩ r.words).kernel 0).bind (fun y => y.insAt 0) = some r ∧
     (let q := drained (mi [(0, 0x4000_1110), (1, 0x8181), (2, 0x2_0008)])
      match State.acceptRun (kern [q]) [upset 0, upset 1] 2 (withKern (kern [q])) q with
        | .mismatch _ => true | _ => false) = true) := by
  decide +kernel

def inPhase (w : List W32) (p : InsPhase) : InsRec := { InsRec.fresh 0 0 0 w 0 with phase := p }

/-- O15: a held block may commit; a split part's turn has come, a chain buffer is ready, or shows a later kernel, each past
the layer time too; and a GATHER, EXPAND and BUCKET of the gather engine of good words. -/
theorem test_hyps_commit :
    (let r := inPhase (mi [(0, 0x10)]) .held
     (withKern (kern [r])).recIn 0 0 .held = some (kern [r], r) ∧ (kern [r]).committedTo 0 = true ∧
       miStatsEn r.words = false ∧ (withKern (kern [r])).storesFail none r.stores = none) ∧
    (let r := inPhase (mi [(0, 0x10), (5, 0x2_0000)]) .waitSplit
     (withKern (kern [r])).recIn 0 0 .waitSplit = some (kern [r], r) ∧
       (withKern (kern [r])).partialHeader ((kern [r]).site 0 0) r.words = (miSplitIdx r.words, miGenOut r.words) ∧
       r.since + (kern [r]).maxUs * 1000 < (withKern (kern [r])).now) ∧
    (let r := inPhase (mi [(0, 0x10)]) .waitChain
     (withKern (kern [r])).recIn 0 0 .waitChain = some (kern [r], r) ∧
       (withKern (kern [r])).waitsReady ((kern [r]).site 0 0) r.chain (chainWaits r.words r.chain) = .yes) ∧
    (let r := inPhase (mi [(0, 0x10)]) .waitPrologue
     (withKern (kern [r])).recIn 0 0 .waitChain = none ∧ (withKern (kern [r])).recIn 0 0 .waitPrologue = some (kern [r], r) ∧
       (withKern (kern [r])).waitsReady ((kern [r]).site 0 0) r.chain (prologueWaits r.words r.chain) = .yes) := by
  decide +kernel

/-- Write window 0 opens the first 64 KiB of host memory to the physical function. -/
def windowed (s : State) : State := ((s.setReg (aWIN 0 + 16) (lo32 (2 ^ 31 + 0x7F))).setReg (aWIN 0 + 8) 0xF000)

/-- O15: a GATHER, an EXPAND and a BUCKET of the gather engine with nothing to move have good words and pass their checks. -/
theorem test_hyps_gather :
    let s := withKern (kern [])
    let x := (kern []).site 0 noTile
    let g : Nat → Nat → List W32 := fun w0 sz => (List.range 16).map (wordAt (mi [(0, w0), (6, sz)]))
    s.kernel 0 = some (kern []) ∧ s.awake = true ∧ (kern []).kind = .run ∧ (kern []).clean 0 = true ∧
    (gxBad (g 0x11 0) = none ∧ gxCmd (g 0x11 0) = 1 ∧ s.gxExpand x (g 0x11 0) 0 0 = .ok [] []) ∧
    (gxBad (g 2 1) = none ∧ gxCmd (g 2 1) = 2 ∧ s.gxBucket x (g 2 1) = .ok [⟨.stack, 0, 0, [0, 0, 0, 0]⟩] [(0, 0, 0)] ∧
      s.gxStoreFail x ⟨.stack, 0, 0, [0, 0, 0, 0]⟩ = none) ∧
    (gxBad (g 3 0) = none ∧ gxCmd (g 3 0) = 3 ∧ s.gxGather x (g 3 0) 0 0 = .ok [] []) := by
  decide +kernel

-- Radio layer 1 (O16 to O20).

/-- The reference cell of 100 MHz at 30 kHz with four antennas (07 R238), pinned to M0. -/
def fapi0 : FapiCfg :=
  { scs := 30, fr2 := false, bwMhz := 100, grid := 273, tdd := true,
    pattern := [(14, 0), (14, 0), (14, 0), (10, 2), (0, 14)], ssbScs := 30, extendedCp := false, above52GHz := false,
    nonTerrestrial := false, multiTrp := false, prachLens := [839], prach := ⟨0, 0, 1, 13, 0, 64⟩,
    precoding := [], tx := 4, rx := 4, dlLayers := 4, ulLayers := 2,
    dlLayersUe := 4, ulLayersUe := 2, ulStreams := 4 }
def tlvs0 : DevTlvs :=
  { fhPort := some (0, 0), fhPeer := some (7, 5, 0), compUl := none, compDl := none, ta4Max := none, t1aMaxUp := none,
    t1aMinUp := none, tcpAdvDl := none, eqGroup := none, nsSteps := none, ldpcIter := none, harqBytes := some 0x100000,
    pduMax := none, frameOffset := none, slotIndLead := none, prachThresh := none, uciDtxThresh := none,
    diePin := some 0 }
def g0 : CellCfg := (resolveCfg fapi0 tlvs0).getD
  { fapi := fapi0, port := 0, sub := 0, peer := 0, vlan := 0, eaxc := 0, compUl := (0, 0), compDl := (0, 0), ta4Max := 0,
    t1aMaxUp := 0, t1aMinUp := 0, tcpAdvDl := 0, eqGroup := 0, nsSteps := 0, ldpcIter := 0, harqBytes := none, pduMax := [],
    frameOffset := 0, lead := 0, prachThresh := 0, uciDtxThresh := 0, diePin := 0 }

/-- 10 s of PTP time, in which slot 20,000 of the cell begins; cell 5; a message descriptor at the front of ring 3. -/
def radioOn : State :=
  { live with clk := 10_000_000_000, ports := { live.ports with servo := { Servo.reset with state := .locked } } }
def withCell (x : Cell) : State := radioOn.setCell 5 { x with ring := some 3, cfg := some g0 }
def l1Desc (arrival : Nat) (len : Nat) : Desc :=
  { idx := 0, words := mi [(0, 0x20), (6, 16 + len)], arrival := arrival, started := false, result := none, job := none }
def withMsg (s : State) (arrival : Nat) : State := s.setRing 3 { s.ring 3 with descs := [l1Desc arrival 8] }
def hdr (id : Nat) : RadioHdr := ⟨id, 5, 8, 1000, 3, 0, 0⟩
def running : Cell := { Cell.reset with state := .running, begun := true, nextInd := 20_003, nextDl := 20_001 }

/-- A message of each request's number is taken from the ring and is of a cell bound to it. -/
theorem test_l1_taken : ∀ x ∈ [Cell.reset, { Cell.reset with state := .configured }, running],
    ∀ id ∈ [0x0000, 0x0002, 0x0004, 0x0005, 0x0080, 0x0081, 0x0083, 0x0084, 0x00C0, 0x00C3], ∀ cell ∈ [5, 0xFFFF],
    L1Taken (withMsg (withCell x) 0) 3 { hdr id with cell := cell } id (l1Desc 0 8)
      ((withMsg (withCell x) 0).finishDesc 3 0 (Result.of .success)) ∧
    L1OfCell ((withMsg (withCell x) 0).finishDesc 3 0 (Result.of .success)) 3 (hdr id) := by
  intro x hx id hid cell hc
  have h3 : ((((withMsg (withCell x) 0).finishDesc 3 0 (Result.of .success)).cell 5).ring) = some 3 := by
    revert x; decide +kernel
  refine ⟨⟨?_, ?_, rfl, ?_, rfl, rfl⟩, by simp [hdr], fun m hm => ?_⟩
  · revert x; decide +kernel
  · revert x; decide +kernel
  · revert id cell; decide +kernel
  · exact (Option.some.inj (h3.symm.trans hm)).symm

/-- Islands of a die in the radio pool and in the hold, and the allow list with the radio unit of the cell. -/
def heldIsland : Island := { Island.reset with
  radio := true, counted := true, held := true, hold := true, mv := 800, pace := 1500, temp := 640 }
def pooled (s : State) : State :=
  let t := (List.range 4).foldl (fun t i => t.setIsland 0 i heldIsland) s
  ((t.setReg (aALLOW 0 + 8) 0x8005_0001).setReg (aALLOW 0) 7).setReg (aBELAY + 8) 0x0404_3C3C

/-- O16: a cell that is idle, configured or running answers by its state, and a configuration passes every check, the
terms that no rule computes (07 R237) given. -/
theorem test_hyps_cells :
    resolveCfg fapi0 tlvs0 = some g0 ∧ ((withCell Cell.reset).bindCell 5 3).cell 5 = (withCell Cell.reset).cell 5 ∧
    (pooled radioOn).configOk 5 g0 = true ∧ (radioOn.cell 5).live = false ∧ ((withCell running).cell 5).live = true ∧
    radioOn.ports.servo.state = .locked ∧ live.ports.servo.state ≠ .locked ∧
    (∀ k < 7, g0.prices.bu.getD k 0 ≤ (pooled radioOn).cap 0 k []) ∧
    (let s := withCell { Cell.reset with state := .configured, startAt := some 20_002 }
     s.awake = true ∧ g0.air 20_002 ≤ s.clk + g0.lead * slotNs g0.scs) ∧
    (let s := withCell { running with state := .stopping, stopAt := some 19_990 }
     g0.slotEnd 19_989 ≤ s.clk) ∧
    (let s := withCell running
     beforeBound (s.cell 5).bound 20_003 = true ∧ g0.air 20_003 ≤ s.clk + g0.lead * slotNs g0.scs) ∧
    (let s := withCell { running with state := .stopping, stopAt := some 20_004 }
     g0.slotEnd ((s.cell 5).stopAt.getD 0 - 1) > s.clk) := by decide +kernel

/-- A cell alone on its die and sub-port, pinned to M0, is admitted there where its sums and terms fit. -/
theorem terms_alone (s : State) (c port sub : Nat) (p : Prices)
    (hd : (s.dieCells 0).filter (fun e => decide (e.1 ≠ c)) = []) (hs : s.subCells port sub c = [])
    (h : (decide (p.ledge ≤ s.radioLedgeKib 0) && decide (p.harq ≤ s.radioStackMib 0)
      && decide (p.fhDl * 100 ≤ 95 * s.subRate port) && decide (p.fhUl * 100 ≤ 95 * s.subRate port)
      && decide (p.fhDl ≤ s.ceilingShare port)
      && decide (p.trafficDl ≤ 820_000) && decide (p.trafficUl ≤ 820_000)
      && (List.range 12).all (fun i => decide (p.paths.getD i 0 ≤ 615_000))
      && (List.range 2).all (fun i => decide (p.paths.getD (12 + i) 0 ≤ 1_640_000))
      && (List.range Config.arbiters).all (fun i => decide (p.grants.getD i 0 ≤ 5000))) = true)
    (hr : s.radio.cells.filter (fun e => decide (e.1 ≠ c)) = []) : s.termsFit 0 c port sub p = true := by
  simp only [State.termsFit, hd, hs, hr, List.map_nil, List.map_cons, List.sum_cons, List.sum_nil, Nat.add_zero]
  exact h
theorem fits_alone (s : State) (c : Nat) (g : CellCfg)
    (he : (decide (s.emergNow 0 = .none) && (List.range 7).all (fun k =>
      decide (s.pricedBut 0 k c + g.prices.bu.getD k 0 ≤ s.cap 0 k [])
        && decide (s.bookedBut 0 k c + g.prices.bu.getD k 0 + s.lentIf 0 k (s.isLate (16 * slotNs g.scs)) ≤
          s.cap 0 k []))) = true) (ht : s.termsFit 0 c g.port g.sub g.prices = true) : s.dieFits 0 c g = true := by
  unfold State.dieFits
  exact Bool.and_eq_true_iff.2 ⟨he, ht⟩
theorem pinned_alone (s : State) (c : Nat) (g : CellCfg) (hpin : g.diePin = 0) (hf : s.dieFits 0 c g = true) :
    s.chooseDie c g = some 0 := by
  simp only [State.chooseDie, hpin, hf, if_true]
theorem prices_small (g : CellCfg) (hb : g.harqBytes = some 0x100000) (h2 : Config.term g.key 2 ≤ 0x100000)
    (h5 : ∀ i < 16, Config.term g.key (5 + i) ≤ 1000) :
    g.prices.harq ≤ 98304 ∧ g.prices.trafficDl ≤ 1000 ∧ g.prices.trafficUl ≤ 1000 ∧
      ∀ i < 14, g.prices.paths.getD i 0 ≤ 1000 := by
  have e : g.prices.harq = (g.harqBytes.getD (Config.term g.key 1) + Config.term g.key 2 + 1_048_575) / 1_048_576 := rfl
  rw [hb, Option.getD_some] at e
  refine ⟨by omega, h5 0 (by decide), h5 1 (by decide), fun i hi => ?_⟩
  have p : g.prices.paths = (List.range 14).map (fun i => Config.term g.key (7 + i)) := rfl
  have q := h5 (2 + i) (by omega)
  rw [show 5 + (2 + i) = 7 + i by omega] at q
  simpa [p, List.getD_eq_getElem?_getD, hi] using q
theorem ands (a b c d x y z v w u : Bool) (h : (a && b && c && d) = true) (hx : x = true) (hy : y = true) (hz : z = true)
    (hv : v = true) (hw : w = true) (hu : u = true) : (a && x && b && c && d && y && z && v && w && u) = true := by
  subst hx hy hz hv hw hu; simpa using h

/-- O16: a die takes the cell: BU and fronthaul are those of R238; ledge, soft buffers and traffic fit where the terms that
no rule computes are small. -/
theorem test_hyps_config (h2 : Config.term g0.key 2 ≤ 0x100000) (h5 : ∀ i < 16, Config.term g0.key (5 + i) ≤ 1000)
    (hg : ∀ i < Config.arbiters, Config.term g0.key (21 + i) ≤ 1000) :
    (pooled radioOn).configDie 5 g0 = some 0 := by
  have h := prices_small g0 (by decide +kernel) h2 h5
  have e : (pooled radioOn).configDie 5 g0 = (pooled radioOn).chooseDie 5 g0 := by
    have : ((pooled radioOn).cell 5).state = .idle := by decide +kernel
    simp only [State.configDie, this, if_true]
  rw [e]
  refine pinned_alone _ _ _ (by decide +kernel) (fits_alone _ _ _ (by decide +kernel) (terms_alone _ _ _ _ _
    (by decide +kernel) (by decide +kernel) (ands _ _ _ _ _ _ _ _ _ _ (by decide +kernel) ?_ ?_ ?_ ?_ ?_ ?_)
    (by decide +kernel)))
  · exact decide_eq_true (Nat.le_trans h.1 (by decide +kernel))
  · exact decide_eq_true (Nat.le_trans h.2.1 (by decide +kernel))
  · exact decide_eq_true (Nat.le_trans h.2.2.1 (by decide +kernel))
  · simp only [List.all_eq_true, List.mem_range, decide_eq_true_eq]
    exact fun i hi => Nat.le_trans (h.2.2.2 i (by omega)) (by decide)
  · simp only [List.all_eq_true, List.mem_range, decide_eq_true_eq]
    exact fun i hi => Nat.le_trans (h.2.2.2 (12 + i) (by omega)) (by decide)
  · simp only [List.all_eq_true, List.mem_range, decide_eq_true_eq]
    intro i hi
    have p : g0.prices.grants = (List.range Config.arbiters).map (fun i => Config.term g0.key (21 + i)) := rfl
    simpa [p, List.getD_eq_getElem?_getD, hi] using Nat.le_trans (hg i hi) (by decide : 1000 ≤ 5000)

/-- The device TLVs of `tlvs0`: fh_port, fh_peer, harq_bytes and die_pin. -/
def body0 : ConfigBody :=
  { fapi := some fapi0, device := [0x00, 0xA0, 2, 0, 0, 0, 0, 0, 0x01, 0xA0, 4, 0, 7, 5, 0, 0,
      0x0A, 0xA0, 4, 0, 0, 0, 0x10, 0, 0x10, 0xA0, 1, 0, 0, 0, 0, 0] }

/-- O16: a body whose TLVs have the values of `tlvs0`, given how a value's fields lie in its bytes, and the release. -/
theorem test_hyps_body (ha : Config.tlvFields 0xA000 [0, 0] = [0, 0]) (hb : Config.tlvFields 0xA001 [7, 5, 0, 0] = [7, 5, 0])
    (hc : Config.tlvFields 0xA00A [0, 0, 0x10, 0] = [0x100000]) (hd : Config.tlvFields 0xA010 [0] = [0]) :
    body0.isRelease = false ∧ body0.cfg = some g0 ∧
    ({ fapi := none, device := [0xFF, 0xA0, 0, 0] } : ConfigBody).isRelease = true := by
  refine ⟨by decide +kernel, ?_, by decide +kernel⟩
  have h : tlvsOf body0.device = some [(0xA000, [0, 0]), (0xA001, [7, 5, 0, 0]), (0xA00A, [0, 0, 0x10, 0]), (0xA010, [0])] := by
    decide +kernel
  have e : devTlvs [(0xA000, [0, 0]), (0xA001, [7, 5, 0, 0]), (0xA00A, [0, 0, 0x10, 0]), (0xA010, [0])] = tlvs0 := by
    simp only [BitVec.ofNat_eq_ofNat] at ha hb hc hd
    simp [devTlvs, ha, hb, hc, hd, tlvs0]
  have f : body0.fapi = some fapi0 := rfl
  simp only [ConfigBody.cfg, h, f, e, releaseTag]
  decide +kernel

def pusch0 : UlPdu :=
  { kind := .pusch, index := 0, prb := (0, 10), sym := (0, 14), dmrs := [2], layers := 1, qm := 2, ue := 1, harq := 0, ndi := true,
    rv := 0, bg := 1, tbBytes := 100, gold := 0, transform := false, dmrsType := 1, dmrsLen := 1, cdmNoData := 2, dmrsId := 0,
    nscid := 0, ports := [0], beam := 0, resource := 0, uciBits := 0, params := [] }
def pdsch0 : DlPdu :=
  { kind := .pdsch, index := 0, prb := (0, 10), sym := (0, 14), layers := 1, qm := 2, precoding := 0, srsHandles := [], beam := 0,
    rnti := 1, ports := [0], cws := [⟨1, 2, 0, 100, 0, (0, 0)⟩], bits := [], params := [] }
def slotOf (n : Nat) : SlotWork := SlotWork.fresh n
def withWork (w : SlotWork) : Cell := { running with slots := [w] }
def quant0 : Quant := ⟨1, 1, 1, 1, 1, 1, 1, 1, 1, 1, 1, 1, 1⟩

/-- O17: a slot in the window, its requests in time and late, work that stays within the limits and that does not, and
booking entries of each outcome that no price decides. -/
theorem test_hyps_requests :
    (let t := withCell running
     (t.cell 5).cfg = some g0 ∧ 20_003 = g0.resolve t.clk 1000 3 ∧ beforeBound (t.cell 5).bound 20_003 = true ∧
       t.clk < g0.air 20_004 ∧ 20_003 ≤ g0.slotAt t.clk + 20 ∧ (t.cell 5).busy = true ∧
       running.allowsWork g0 { slotOf 20_003 with ul := some [pusch0] } = true ∧
       running.allowsWork g0 { slotOf 20_003 with ul := some (List.replicate 33 pusch0) } = false ∧
       (∀ v ∈ [5, 20_002, 20_029], (t.decideBooking 5 (t.cell 5) g0 ⟨v / 20, v % 20, 0, quant0⟩).1 ≠ .ok) ∧
       (t.decideBooking 5 (t.cell 5) g0 ⟨1000, 10, 0, { quant0 with dlLayers := 5 }⟩).1 = .pduOverDeclared) ∧
    (l1Desc 10_000_750_000 8).arrival + submitLead g0.scs ≤ g0.air 20_003 ∧
    ¬(l1Desc 10_000_750_001 8).arrival + submitLead g0.scs ≤ g0.air 20_003 ∧
    (let x := withWork { slotOf 20_003 with dl := some [pdsch0] }
     (x.work 20_003).dl.isSome = true ∧ (x.work 20_003).lateDl = false) ∧
    bookBody [1, 0, 0, 0, 0] = some [bookEntry [0, 0, 0, 0]] ∧ bookBody [0] = none ∧ 0 < 12 * g0.fapi.grid ∧
    (let q : SsbSearch := ⟨0, 19_990, 5, [], 0, []⟩
     let s := withCell { running with searches := [q] }
     g0.air (q.first + q.count) ≤ s.clk) := by decide +kernel

theorem booked_one (s : State) (d k c : Nat) (x : Cell)
    (hd : (s.dieCells d).filter (fun e => decide (e.1 ≠ noCell)) = [(c, x)]) :
    s.booked d k = x.bookedPrice (s.curSlot x) k + x.searchPrice k := by
  simp only [State.booked, State.bookedBut, hd, List.map_cons, List.map_nil, List.sum_cons, List.sum_nil, Nat.add_zero]
theorem search_one (x : Cell) (k : Nat) (g : CellCfg) (q : SsbSearch) (hx : x.searches = [q]) (hc : x.cfg = some g) :
    x.searchPrice k = Config.searchPrice g.key (q.count * 2048 + q.pcis.length) k := by
  simp [Cell.searchPrice, hx, hc]

def searching : Cell := { running with searches := [⟨0, 20_005, 1, [], 0, []⟩], ring := some 3, cfg := some g0 }

/-- O17: a search fits where its price, which no rule states, is small. -/
theorem test_hyps_search (h : ∀ k < 7, Config.searchPrice g0.key 2048 k ≤ 1000) : ∀ k < 7,
    ((pooled radioOn).setCell 5 searching).booked 0 k + ((pooled radioOn).setCell 5 searching).lent 0 k ≤
      ((pooled radioOn).setCell 5 searching).cap 0 k [] := by
  intro k hk
  have hb : searching.bookedPrice (((pooled radioOn).setCell 5 searching).curSlot searching) k = 0 ∧
      ((pooled radioOn).setCell 5 searching).lent 0 k = 0 ∧
      1000 ≤ ((pooled radioOn).setCell 5 searching).cap 0 k [] := by revert k; decide +kernel
  rw [booked_one _ 0 k 5 searching (by decide +kernel), hb.1, hb.2.1, search_one searching k g0 _ rfl rfl]
  exact Nat.le_trans (by simpa using h k hk) hb.2.2

/-- O18: a slot due without requests and with them, codewords for the engines of both kinds, a C-plane and symbols that
queue. -/
theorem test_hyps_downlink :
    (let s := (withCell running).setReg (aPORTn 0 + 4) 1
     s.awake = true ∧ (s.cell 5).live = true ∧ (s.cell 5).nextDl = 20_001 ∧ beforeBound (s.cell 5).bound 20_001 = true ∧
       g0.air 20_001 ≤ s.clk + submitLead g0.scs ∧ ((s.cell 5).work 20_001).dlPdus.isEmpty = true ∧
       s.ports.servo.lost = false ∧ s.linkUp g0.port g0.sub = true) ∧
    (let s := withCell (withWork { slotOf 20_001 with dl := some [pdsch0] })
     (((s.cell 5).work 20_001).lateDl || ((s.cell 5).work 20_001).dlPdus.isEmpty) = false ∧
       ∀ p ∈ ((s.cell 5).work 20_001).dlPdus, (s.cell 5).handlesOk s.now p = true) ∧
    (∀ e ∈ [(DlKind.pdsch, EngineClass.ldpcEnc), (.pdcch, .polar), (.ssb, .polar)],
     let p : DlPdu := { pdsch0 with kind := e.1 }
     let w := { slotOf 20_001 with dl := some [p], data := [(0, [1])], started := true }
     let s := pooled (withCell (withWork w))
     let u : UnitId := ⟨0, e.2, 0⟩
     w.dlPdus[0]? = some p ∧ p.cws[0]? = some ⟨1, 2, 0, 100, 0, (0, 0)⟩ ∧ s.l1Engine u = true ∧ (s.cell 5).die = u.die ∧
       w.started = true ∧ w.cplane = false ∧ w.active p = true ∧ p.codes = true ∧ w.coded = [] ∧ u.cls = e.2) ∧
    (let w := { slotOf 20_001 with dl := some [pdsch0], data := [(0, [1])], started := true, coded := [(0, 0, 0)] }
     w.codedAll = true ∧ w.cplane = false ∧ w.lateDl = false ∧ w.dlDone = false) ∧
    (let w := { slotOf 20_000 with dl := some [pdsch0], started := true, cplane := true, queued := [0, 1, 2] }
     ∀ k ∈ [3], k ∈ w.dlSyms ∧ w.dlDone = false ∧ k ∉ w.queued ∧ (∀ j ∈ w.dlSyms, j < k → j ∈ w.queued) ∧
       g0.airSym 20_000 k ≤ (withCell running).clk + g0.t1aMaxUp * 1000) := by decide +kernel

/-- O19: a slot with a PUSCH of 14 symbols at each of its steps. -/
theorem test_hyps_uplink :
    (let w := { slotOf 20_003 with ul := some [pusch0] }
     w.ul.isSome = true ∧ w.lateUl = false ∧ w.ulCplane = false ∧ w.ulDone = false ∧
       (withCell (withWork w)).ports.servo.lost = false) ∧
    (let w := { slotOf 19_998 with ul := some [pusch0], ulCplane := true }
     (withCell (withWork w)).awake = true ∧ ((withCell (withWork w)).cell 5).live = true ∧
       (∀ k ∈ [0, 12], k ∉ w.closed ∧ k < 14 ∧ g0.closeTime 19_998 k < (withCell (withWork w)).clk ∧ k ≠ w.lastUl)) ∧
    (let w := { slotOf 19_998 with ul := some [pusch0], ulCplane := true, closed := [2] }
     w.ready g0 2 = true ∧ 2 ∈ w.dmrsSyms ∧ 2 ∉ w.estSyms ∧
       10_000_000_000 ≤ w.arrived g0 2 + byScs g0.scs 80_000 40_000 10_000 + 10_000_000_000) ∧
    (let w := { slotOf 19_998 with ul := some [pusch0], estSyms := [2] }
     w.dmrsSyms ≠ [] ∧ w.weights = none ∧ ∀ j ∈ w.dmrsSyms, j ∈ w.estSyms) ∧
    (let w := { slotOf 19_998 with ul := some [pusch0], weights := some [], closed := [3],
                                   erased := (List.range 4).map (fun st => (3, st)) }
     w.ready g0 3 = true ∧ w.pusch.filter (fun p => decide (3 ∈ p.dataSyms)) ≠ [] ∧ (∀ l ∈ w.llrs, l.sym ≠ 3) ∧
       ∀ st < g0.ulStreams, (3, st) ∈ w.erased) := by decide +kernel

/-- O19: soft bits to combine, blocks and UCI to decode, and results to write. -/
theorem test_hyps_results :
    (let w := { slotOf 19_998 with ul := some [pusch0], closed := List.range 14,
                                   llrs := (List.range 14).map (fun k => ⟨0, k, [1]⟩) }
     w.soft = none ∧ (∀ p ∈ w.pusch, ∀ j ∈ p.dataSyms, ∃ l ∈ w.llrs, l.sym = j) ∧
       ∀ p ∈ w.ulPdus, ∀ j ∈ symRange p.sym, w.ready g0 j = true) ∧
    (let p := { pusch0 with uciBits := 12 }
     let q : SoftPdu := ⟨0, [[1]], false⟩
     let w := { slotOf 19_998 with ul := some [p], soft := some [q] }
     let s := pooled (withCell (withWork w))
     w.lateUl = false ∧ w.ul.isSome = true ∧ s.l1Engine ⟨0, .ldpcDec, 0⟩ = true ∧ s.l1Engine ⟨0, .polar, 0⟩ = true ∧
       (s.cell 5).die = 0 ∧ w.results = false ∧ [q].find? (fun q => decide (q.index = 0)) = some q ∧
       w.pusch.find? (fun p => decide (p.index = 0)) = some p ∧ q.soft[0]? = some [1] ∧ w.decoded = [] ∧
       w.ulPdus.find? (fun p => (decide (p.kind = .pucch) || decide (p.kind = .pusch)) && decide (p.index = 0)) = some p ∧
       12 ≤ p.uciBits ∧ w.uci = []) ∧
    (let w := { slotOf 19_998 with ul := some [pusch0], soft := some [⟨0, [], false⟩], noticedUl := true }
     w.decodedAll = true ∧ (withWork w).ulInOrder 19_998 = true ∧ w.results = false ∧ w.noticedUl = true ∧
       g0.deadline { slotOf 20_003 with ul := some [pusch0] } true ≥ (withCell running).clk) := by decide +kernel

/-- O20: a retransmission and a new transmission, and a process within the budget. -/
theorem test_hyps_harq :
    (let e : HarqProc := ⟨1, 0, true, [[100, -100]], 2, false⟩
     let x := { running with harq := [e] }
     x.harq.find? (fun e => decide (e.ue = pusch0.ue) && decide (e.proc = pusch0.harq % 16)) = some e ∧ e.ndi = pusch0.ndi ∧
       e.ndi ≠ { pusch0 with ndi := false }.ndi ∧ e.overflow = false ∧ e.soft.length = [[100, -100]].length ∧
       (x.combine 100000 pusch0 [[100, -100]]).2.overflow = false ∧
       (x.combine 100000 pusch0 [[100, -100]]).2.soft = [[127, -128]]) := by decide +kernel

-- Vector engines, accelerators and jobs (O21 to O25).

def opWord (op fmt : Nat) : VOp := (lo32 (op + fmt * 256), 0)
def engineWith (o : VOp) (f : Vde → Vde) : State :=
  (withKern { kern [] with kind := .oplist, tiles := [], unit := some (0, 1, 3) }).setVde 0 3 (f { Vde.reset with
    run := some { kernel := 0, ops := [o], table := [mi []], listId := 0, saveEn := false, saveLoc := 0, saveOff := 0 } })

def vdeOps : List (Nat × (VIn → VRes)) :=
  [(0x01, vLdv), (0x02, vStv), (0x03, vLdx), (0x04, vSts), (0x05, vExpb), (0x06, vCmpb), (0x07, vAgld [mi []]), (0x10, vMov),
   (0x11, vSplat), (0x12, vSets), (0x13, vPerm), (0x20, vAdd), (0x21, vSub), (0x22, vMul), (0x23, vConj), (0x24, vAbs2),
   (0x25, vShr), (0x27, vMaxv), (0x28, vMinv), (0x29, vAnd), (0x2A, vXor), (0x2B, vRecip), (0x30, vMacz), (0x31, vMac),
   (0x32, vMsc), (0x33, vNarrow), (0x40, vGold), (0x41, vCrc), (0x42, vQmap), (0x43, vDemap), (0x44, vFht), (0x50, vMaxs),
   (0x51, vMins), (0x52, vRsum), (0x59, vArd), (0x70, vLoop), (0x71, vNop), (0x72, vFence), (0x73, vBrk), (0x26, vCvt),
   (0x58, vAmm)]

/-- O21: every op in INT32 (of BFP where it takes no other) on a working engine is due and has an effect. -/
theorem test_hyps_vector_ops : ∀ e ∈ vdeOps, let s := engineWith (opWord e.1 4) id
    (s.vde 0 3).run.isSome = true ∧ s.vdeKernel (s.vde 0 3) = s.kernel 0 ∧ voOp (opWord e.1 4) = e.1 ∧ s.awake = true ∧
      s.underSubst ⟨0, .vde, 3⟩ = false ∧ (VdeSeen (s.vde 0 3)).arrayBusy = false ∧
      ((s.vde 0 3).run.bind (fun r => r.ops[(s.vde 0 3).pc]?)) = some (opWord e.1 4) ∧
      (match e.2 ⟨s, (kern []).site 0 3, VdeSeen (s.vde 0 3), opWord e.1 4⟩ with | .ok _ => true | _ => false) = true := by
  decide +kernel

/-- O22: lanes of full width, and a write that waits for the end of its latency. -/
theorem test_hyps_vector_writes :
    (let i : VIn := ⟨live, (kern []).site 0 3, Vde.reset, opWord 0x20 4⟩
     i.va.length = 32 ∧ i.vb.length = 32 ∧ voFmt i.o = 4 ∧ voNeg i.o = false) ∧
    (let l : List W64 := List.replicate 32 7
     let e : Vde := { Vde.reset with pend := [⟨3 + 2 - 1, .vec 15 l⟩] }
     e.pend = [⟨3 + 2 - 1, .vec 15 l⟩] ∧ 15 < e.v.length) := by decide +kernel

/-- O22: a list of two ops goes on after the first, whose stores wait; and a state whose engine has a store waiting. -/
theorem test_hyps_stores :
    (let s := engineWith (opWord 0x71 0) id
     let e := s.vde 0 3
     let f : VEff := { ags := e.ag, stores := [(0x200, 0, [7])] }
     let r : VRun :=
      { kernel := 0, ops := [opWord 0x71 0, opWord 0x71 0], table := [mi []], listId := 0, saveEn := false,
        saveLoc := 0, saveOff := 0 }
     let g : Vde := { e with run := some r }
     s.canon = true ∧ g.run = some r ∧ g.stepping = false ∧ f.ctl ≠ .brk ∧ (g.after f).pc < r.ops.length) ∧
    (let s := engineWith (opWord 0x71 0) (fun e => { e with stores := [⟨.stack, 0, 64, [7]⟩] })
     s.canon = true ∧ (s.vde 0 3).stores.length = 1 ∧ s.readMem .stack 64 1 = [0] ∧
       (s.vdeView (kern []) (s.vde 0 3)).stack ≠ s.stack) := by decide +kernel

def selected (s : State) : State := s.setReg (aCFG + 0x200) 3

/-- O23: a frozen engine, one whose halt is due at an HB op, a halted one with good and with bad loop state; outside a radio
island and in one. -/
theorem test_hyps_engines :
    (let s := selected (engineWith (opWord 0x72 0) (fun e => { e with freeze := .fence }))
     s.up = true ∧ s.vdeSel = some (0, 3) ∧ s.vdeKernel (s.vde 0 3) = s.kernel 0 ∧ (s.kernel 0).isSome = true ∧
       (s.vde 0 3).freeze = .fence ∧ s.vdeRadio 0 3 = false ∧
       (s.setIsland 0 0 heldIsland).vdeRadio 0 3 = true ∧ (s.vde 0 3).halted = false) ∧
    (let o : VOp := (lo32 0x71, lo32 (2 ^ 24))
     let s := selected (engineWith o (fun e => { e with haltReq := true }))
     (s.vde 0 3).run.bind (fun r => r.ops[(s.vde 0 3).pc]?) = some o ∧ voHb o = true ∧ (s.vde 0 3).haltReq = true ∧
       (s.vde 0 3).freeze = .none ∧ s.vdeRadio 0 3 = false) ∧
    (let s := selected (engineWith (opWord 0x71 0) (fun e => { e with halted := true }))
     (s.vde 0 3).halted = true ∧ (s.vde 0 3).loopsOk 1 = true ∧
       s.locUe ((kern []).site 0 3) 0 0 8448 = none ∧
       ({ s.vde 0 3 with loops := [⟨0, true, 0, 0⟩] } : Vde).loopsOk 1 = false) := by decide +kernel

def accelKern (c : EngineClass) (cmd : List W32) : Kernel :=
  { kern [] with kind := .accel, tiles := [], unit := some (0, c.code, 0), cmd := cmd }
/-- A command with input and output in the ledge region. -/
def accelCmd (e : Nat) (ws : List (Nat × Nat)) : List W32 := (mi ([(0, e), (1, 0xAAA), (3, 0x1_0000)] ++ ws)).take 16
def accelCmds : List (Nat × EngineClass × List W32 × (List W32 → List (Nat × Bool)) × (List W32 → List (Nat × Nat)) ×
    (List W32 → List (List Byte) → AccelDone)) :=
  [(2, .fft, accelCmd 1 [(5, 0x1_000C)], fftChecks, fftReads, fftRun),
   (2, .ldpcDec, accelCmd 2 [(5, 0x1_1002), (6, 10)], ldpcDecChecks, ldpcDecReads, ldpcDecRun),
   (2, .ldpcEnc, accelCmd 3 [(5, 0x1002), (6, 10), (7, 0x100_0000)], ldpcEncChecks, ldpcEncReads, ldpcEncRun),
   (0, .polar, accelCmd 4 [(5, 0x60), (6, 108)], polarEncChecks, polarEncReads, polarEncRun),
   (1, .polar, accelCmd 4 [(5, 0x61), (6, 108)], polarDecChecks, polarDecReads, polarDecRun)]

/-- What the command reads and writes is good. -/
def fits (k : Kernel) (rd : List W32 → List (Nat × Nat)) (run : List W32 → List (List Byte) → AccelDone) : Prop :=
  let s := withKern k
  let x := k.site 0 0
  let i := cmdIn k.cmd
  s.cmdFail x ((rd k.cmd).map (fun r => (i.1, i.2 + r.1, r.2)))
    ((run k.cmd ((rd k.cmd).map (fun r => s.locRead x i.1 (i.2 + r.1) r.2))).out.map
      (fun w => ((cmdOut k.cmd).1, (cmdOut k.cmd).2 + w.1, w.2))) = none
def accelAt (op : Nat) (c : EngineClass) (k : Kernel) : Prop :=
  (withKern k).kernels.find? (fun k => decide (k.unit = some (0, c.code, 0)) && decide (k.kind = .accel)
    && k.res.isNone && decide (wfield k.cmd 5 0 0 = op ∨ op = 2)) = some k ∧ (withKern k).underSubst ⟨0, c, 0⟩ = false

theorem leBytes_len (n v : Nat) : (leBytes n v).length = n := by
  induction n generalizing v with
  | zero => rfl
  | succ n ih => simp [leBytes, ih]

/-- One write of a good length after good reads. -/
theorem fits_one (k : Kernel) (rd : List W32 → List (Nat × Nat)) (run : List W32 → List (List Byte) → AccelDone)
    (ns : List Nat) (ho : ∀ data, ∃ bs, (run k.cmd data).out = [(0, bs)] ∧ bs.length ∈ ns) (hc : (cmdOut k.cmd).1 = 10)
    (hv : ∀ n ∈ ns, (withKern k).verdict (k.site 0 0) 10 ((cmdOut k.cmd).2 + 0) n = .ok)
    (hr : (withKern k).cmdFail (k.site 0 0) ((rd k.cmd).map (fun r => ((cmdIn k.cmd).1, (cmdIn k.cmd).2 + r.1, r.2))) [] =
      none) (hi : k.part = none) : fits k rd run := by
  obtain ⟨bs, ha, hb⟩ := ho ((rd k.cmd).map (fun r => (withKern k).locRead (k.site 0 0) (cmdIn k.cmd).1
    ((cmdIn k.cmd).2 + r.1) r.2))
  unfold fits
  simp only [ha, List.map_cons, List.map_nil, hc]
  unfold State.cmdFail at hr ⊢
  split at hr
  · cases hr
  · simp only [List.findSome?_cons, List.findSome?_nil]
    unfold State.writeFail
    rw [hv _ hb]
    rfl

theorem fft_len (inv : Bool) (l : List (Nat × Nat)) (x : List Pair) :
    (fftFreq inv l x).1.length = x.length ∧ (fftTime inv l x).1.length = x.length := by
  cases l <;> simp [fftFreq, fftTime]

/-- O24: a command of each engine in the ledge region is taken and passes its checks. -/
theorem test_hyps_accels : live.awake = true ∧ ∀ e ∈ accelCmds, let k := accelKern e.2.1 e.2.2.1
    accelAt e.1 e.2.1 k ∧ cmdBad k.cmd (e.2.2.2.1 k.cmd) = none := by
  unfold accelAt; decide +kernel

/-- O24: and what it reads and writes is good, whatever the data. -/
theorem test_hyps_accels_fit : ∀ e ∈ accelCmds, fits (accelKern e.2.1 e.2.2.1) e.2.2.2.2.1 e.2.2.2.2.2 := by
  have hf : fftN (accelCmd 1 [(5, 0x1_000C)]) = 12 ∧ wfield (accelCmd 1 [(5, 0x1_000C)]) 5 31 16 = 1 := by decide +kernel
  have hd : fftReads (accelCmd 1 [(5, 0x1_000C)]) = [(0, 48)] := by decide +kernel
  simp only [accelCmds, List.forall_mem_cons, List.not_mem_nil, false_implies, implies_true, and_true]
  refine ⟨?_, ?_, ?_, ?_, ?_⟩
  · have e : (accelKern .fft (accelCmd 1 [(5, 0x1_000C)])).cmd = accelCmd 1 [(5, 0x1_000C)] := rfl
    have hv : (withKern (accelKern .fft (accelCmd 1 [(5, 0x1_000C)]))).verdict
        ((accelKern .fft (accelCmd 1 [(5, 0x1_000C)])).site 0 0) 10 ((cmdOut (accelCmd 1 [(5, 0x1_000C)])).2 + 0) 48 = .ok := by
      decide +kernel
    have hc : (cmdOut (accelCmd 1 [(5, 0x1_000C)])).1 = 10 := by decide +kernel
    have hr : (withKern (accelKern .fft (accelCmd 1 [(5, 0x1_000C)]))).cmdFail
        ((accelKern .fft (accelCmd 1 [(5, 0x1_000C)])).site 0 0) [((cmdIn (accelCmd 1 [(5, 0x1_000C)])).1,
          (cmdIn (accelCmd 1 [(5, 0x1_000C)])).2 + 0, 48)] [] = none := by decide +kernel
    have hl : ∀ (l : List Pair) (g : Pair → List Byte), (∀ p, (g p).length = 4) → (l.flatMap g).length = 4 * l.length := by
      intro l g h; induction l with
      | nil => rfl
      | cons a t ih => simp [h, ih, Nat.mul_add, Nat.add_comm]
    unfold fits
    simp only [e, hd, List.map_cons, List.map_nil, hc, fftRun, List.zipIdx_cons, List.zipIdx_nil, Nat.zero_mul]
    unfold State.cmdFail at hr ⊢
    split at hr
    · cases hr
    · rename_i h1
      simp only [h1, List.findSome?_cons, List.findSome?_nil]
      have len : ∀ z : List Pair, z.length = 12 → ∀ inv sched, ((fftRunPoints inv sched z).1).length = 12 := by
        intro z hz inv sched
        unfold fftRunPoints
        split
        · rw [(fft_len inv _ z).2, hz]
        · rw [(fft_len inv _ z).1, hz]
      have c12 : ∀ bs, (ci16s 12 bs).length = 12 := by intro bs; simp [ci16s]
      simp only [State.writeFail, List.flatMap_assoc, List.flatMap_cons, List.flatMap_nil, List.append_nil]
      rw [hl _ _ (fun p => by simp [leBytes_len]), hf.1, len _ (c12 _), hv]
      rfl
  · exact fits_one _ _ _ [2] (fun data => ⟨_, rfl, by simp only [seqBytes, leBytes_len]; decide +kernel⟩)
      (by decide +kernel) (by decide +kernel) (by decide +kernel) rfl
  · exact fits_one _ _ _ [0] (fun data => ⟨_, rfl, by simp only [seqBytes, leBytes_len]; decide +kernel⟩)
      (by decide +kernel) (by decide +kernel) (by decide +kernel) rfl
  · exact fits_one _ _ _ [14] (fun data => ⟨_, rfl, by simp only [seqBytes, leBytes_len]; decide +kernel⟩)
      (by decide +kernel) (by decide +kernel) (by decide +kernel) rfl
  · exact fits_one _ _ _ [2] (fun data => ⟨_, rfl, by simp only [seqBytes, leBytes_len]; decide +kernel⟩)
      (by decide +kernel) (by decide +kernel) (by decide +kernel) rfl

def prachKern : Kernel := accelKern .prach (accelCmd 5 [(5, 0x102), (7, 0x1_0000)])

/-- O24: so does one of a PRACH detector with one preamble, found or not. -/
theorem test_hyps_prach_engine :
    accelAt 2 .prach prachKern ∧ cmdBad prachKern.cmd (prachChecks prachKern.cmd) = none ∧ fits prachKern prachReads prachRun := by
  refine ⟨by unfold accelAt; decide +kernel, by decide +kernel, fits_one _ _ _ [0, 8] (fun data => ⟨_, rfl, ?_⟩)
    (by decide +kernel) (by decide +kernel) (by decide +kernel) rfl⟩
  have hl : ∀ l : List (Nat × Nat × Int), l.length ≤ 1 → ∀ g : Nat × Nat × Int → List Byte, (∀ h, (g h).length = 8) →
      (l.flatMap g).length ∈ [0, 8] := by
    intro l h g hg
    match l, h with
    | [], _ => simp
    | [a], _ => simp [hg]
  refine hl _ ?_ _ (fun h => by simp [leBytes_len])
  unfold Prach.detect
  refine Nat.le_trans (List.length_filterMap_le _ _) ?_
  rw [List.length_zipIdx]
  exact Nat.le_trans (List.length_take_le _ _) (by decide +kernel)

/-- O24: a result that is due, and a PRACH occasion whose symbols are ready. -/
theorem test_hyps_accel_results :
    (let k := { accelKern .fft (accelCmd 1 [(5, 0x1_000C)]) with res := some (mi [], Result.of .success) }
     (withKern k).kernel 0 = some k ∧
       (withKern k).writeFail (k.site 0 0) (cmdRes k.cmd).1 (cmdRes k.cmd).2 (wordsBytes (mi [])) = none) ∧
    (let p := { pusch0 with kind := .prach, sym := (0, 4) }
     let w := { slotOf 19_998 with ul := some [p], closed := List.range 14 }
     let s := pooled (withCell (withWork w))
     (s.cell 5).cfg = some g0 ∧ ((s.cell 5).work 19_998).ulPdus.find? (fun p => decide (p.kind = .prach) &&
       decide (p.index = 0)) = some p ∧ s.awake = true ∧ (s.cell 5).live = true ∧ w.lateUl = false ∧ 0 ∉ w.rached ∧
       (∀ j ∈ symRange p.sym, w.ready g0 j = true) ∧ s.l1Engine ⟨0, .prach, 0⟩ = true ∧ (s.cell 5).die = 0 ∧
       w.ulChannels.testBit UlKind.prach.bit = false) := by decide +kernel

/-- Partition 3: tile 0 and engine 0 of M0, half-stack 0, a ledge unit, rings 10 to 17, and one context with a window of
4 MiB at 1 MiB and rings of its own. -/
def parted : State :=
  let a := aPARTp 3
  let s := [(0x08, 1), (0x0C, 0), (0x10, 2000), (0x14, 0x8_000A), (0x18, 0x4_0004), (0x1C, 0x100), (0x20, 1), (0x2C, 1),
    (0x40, 3), (0x80, 1)].foldl (fun t (e : Nat × Nat) => t.setReg (a + e.1) (lo32 e.2)) { live with numVfs := 4 }
  s.writeMem .stack 0 (wordsBytes [lo32 0xA_0001, lo32 1000, lo32 0x100, lo32 0x400, lo32 0x1000, lo32 0x8_0000,
    lo32 0x2_0001])
def ctx0 : Ctx := { Ctx.reset with checked := some true }
def part3 : Part := { Part.reset with state := .running, ctxs := [(0, ctx0)] }
def running3 (x : Part) : State := parted.setPart 3 x
def jobDesc (ws : List (Nat × Nat)) : Desc :=
  { idx := 0, words := (mi ws).take 16, arrival := 0, started := false, result := none, job := none }
def onRing (s : State) (n : Nat) (d : Desc) : State := s.setRing n { s.ring n with descs := [d] }

/-- A job descriptor is admitted on ring 9 of the physical function and on ring 12 of partition 3. -/
theorem test_admitted : ∀ op ∈ [0x01, 0x02, 0x03, 0x04, 0x05, 0x06, 0x07, 0x08],
    (let s := onRing live 9 (jobDesc [(0, op)])
     s.awake = true ∧ s.gated 9 = false ∧ s.nextStart 9 = some (jobDesc [(0, op)]) ∧ (jobDesc [(0, op)]).op = op ∧
       s.ringOwner 9 = none) ∧
    (let s := onRing (running3 part3) 12 (jobDesc [(0, op)])
     s.awake = true ∧ s.gated 12 = false ∧ s.nextStart 12 = some (jobDesc [(0, op)]) ∧ s.ringOwner 12 = some 3 ∧
       s.ringCtx 3 12 = some 0 ∧ s.ctxRuns 3 0 = true ∧ (s.checkCtx 3 0).ring 12 = s.ring 12 ∧
       ((s.checkCtx 3 0).ctx 3 0).checked = some true) := by decide +kernel


def stackWords (s : State) (a : Nat) (ws : List W32) : State := s.writeMem .stack a (wordsBytes ws)
def kdecl : KernelDecl := ⟨1000, 1, 100, []⟩
def image0 : Image :=
  { kernels := [kdecl], manifest := [], rowIndep := true, rowBytes := 4096, indexOff := 0, programDigest := [],
    weightDigest := [], loadedBy := (0, 0), unloading := false }
def withImage (s : State) : State := s.setPart 3 { part3 with ctxs := [(0, { ctx0 with images := [(0, image0)] })] }

/-- O25: unit jobs of the physical function on a free, a busy and a reserved tile, an op list of one NOP, an FFT command. -/
theorem test_hyps_unit_jobs :
    (let ws := (mi [(0, 0x04), (1, 3), (13, 1), (14, 1000)]).take 16
     live.unitDescBad none ws true = none ∧ live.unitRef none (wordAt ws 1) .tile = .unit ⟨0, .tile, 3⟩ ∧
       live.unitTakes none .mlist ⟨0, .tile, 3⟩ = true ∧ live.served none 9 = true ∧
       (withKern { kern [] with tiles := [(0, 3)] }).unitTakes none .mlist ⟨0, .tile, 3⟩ = false ∧
       (live.setIsland 0 0 heldIsland).unitRef none (wordAt ws 1) .tile = .reserved) ∧
    (let ws := (mi [(0, 0x05), (1, 3), (14, 1000)]).take 16
     let s := stackWords live 0 [1, 0, 0, 0, 0, 0, 0, 0, 0x71, 0]
     s.unitDescBad none ws false = none ∧ s.unitRef none (wordAt ws 1) .vde = .unit ⟨0, .vde, 3⟩ ∧
       s.unitTakes none .oplist ⟨0, .vde, 3⟩ = true ∧
       (match s.readList ((kern []).site 0 3) 0 0 with | .run _ => true | _ => false) = true) ∧
    (let ws := (mi [(0, 0x06), (1, 3), (14, 1000)]).take 16
     let s := stackWords live 0 [1]
     let x : Site := ⟨none, jobBases ws, 0, 0⟩
     s.unitDescBad none ws false = none ∧ s.verdict x 0 0 64 = .ok ∧ s.locUe x 0 0 64 = none ∧
       accelClass (s.locWords x 0 0 16) = some .fft ∧ s.unitRef none (wordAt ws 1) .fft = .unit ⟨0, .fft, 3⟩ ∧
       s.unitTakes none .accel ⟨0, .fft, 3⟩ = true) := by decide +kernel

/-- O25: RUN alone and in batches, LOAD_IMAGE, UNLOAD_IMAGE and its end, and COPY in both directions. -/
theorem test_hyps_image_jobs :
    (let s := withImage parted
     let ws := (mi [(0, 0x03), (1, 0x1_0000)]).take 16
     runBad ws (s.ctx 3 0) (s.batchMax 3 0) = none ∧ s.batchMax 3 0 < 2) ∧
    (let s := withImage (stackWords parted 0 [0xA_0401])
     let ws := (mi [(0, 0x03), (1, 0x1_0000), (12, 1)]).take 16
     runBad ws (s.ctx 3 0) (s.batchMax 3 0) = none ∧ 2 ≤ s.batchMax 3 0) ∧
    (let s := running3 part3
     let d := jobDesc [(0, 0x1_0001), (6, 4096)]
     let im : ImageInfo := ⟨[kdecl], [(4096, 64)], false, 0, 0⟩
     descFail d.words [(0, d.slotOk && ((s.ctx 3 0).image d.arg).isNone), (4, decide (wpair d.words 4 % 4096 = 0))] = none ∧
       s.issuerAllows (some (3, 0)) (s.windowOff (some (3, 0)) 0) 4096 = true ∧
       s.issuerUeRead (some (3, 0)) (s.windowOff (some (3, 0)) 0) 4096 = none ∧
       kernelRefused (s.maxLayer 3) im.kernels = none ∧
       im.manifest.find? (fun r => !(s.issuerAllows (some (3, 0)) (s.windowOff (some (3, 0)) r.1) r.2)) = none) ∧
    (let s := withImage parted
     descFail (jobDesc [(0, 0x02)]).words [(0, (jobDesc [(0, 0x02)]).slotOk)] = none ∧
       (s.ctx 3 0).image (jobDesc [(0, 0x02)]).arg = some image0 ∧ (s.ctx 3 0).image (jobDesc [(0, 0x1_0002)]).arg = none) ∧
    (let d := { jobDesc [(0, 0x02)] with started := true }
     let s := onRing (withImage parted) 12 d
     (s.ring 12).descs.find? (fun d => d.started && !d.done && decide (d.op = 0x02)) = some d ∧
       s.ringOwner 12 = some 3 ∧ s.ringCtx 3 12 = some 0 ∧ s.slotBusy 3 0 d.arg = false) ∧
    (let d (dir : Nat) := jobDesc [(0, 0x07), (1, dir), (8, 32)]
     let s (dir : Nat) := onRing (windowed live) 9 (d dir)
     (∀ dir < 2, ((s dir).ring 9).descs.find? (fun d => d.started && !d.done && decide (d.op = 0x07)) = none ∧
       (s dir).copyFail (d dir) none none = none) ∧
     live.copyFail (d 1) none none ≠ none ∧
     (let u := onRing live 9 { d 1 with started := true }
      (u.ring 9).descs.find? (fun d => d.started && !d.done && decide (d.op = 0x07)) = some { d 1 with started := true } ∧
        u.awake = true) ∧
     (d 0).moved = 0 ∧ (s 0).copyFail (d 0) none (some (List.replicate 32 1)) = none ∧
     ((running3 part3).takeShare 3 .cxl true 32 32).isNone = true ∧
     (((running3 part3).setReg (Link.cxl.reg 3) 0x1_0064).takeShare 3 .cxl true 32 32).isSome = true) := by decide +kernel

-- The Belay pool, its governor, leases and emergencies (O26 to O31).

/-- O26: islands that join, that a partition holds, and that are in the pool; a removal that leaves sums met, one that does
not, and one that is over; memory sizes that fit and that do not. -/
theorem test_hyps_islands :
    live.up = true ∧ live.activating = false ∧ islandBits (field (1 : W32) 15 0) = [(0, 0)] ∧
    ((live.setReg aBELAY (live.reg aBELAY ||| 1)).island 0 0).radio = false ∧
    (live.setReg aBELAY (live.reg aBELAY ||| 1)).ownedIsland 0 0 = false ∧
    ((running3 part3).setReg aBELAY ((running3 part3).reg aBELAY ||| 1)).ownedIsland 0 0 = true ∧
    (let s := pooled radioOn
     ((s.setReg aBELAY (s.reg aBELAY ||| 1)).island 0 0).radio = true ∧
       (List.range 16).filter (fun b => !(bitOf (0xE : W32) b) && (s.island (b / 8) (b % 8)).radio &&
         !(s.island (b / 8) (b % 8)).removing) = [8 * 0 + 0] ∧
       (let t := s.setReg aBELAY (s.reg aBELAY &&& 0xE)
        let out := 0 :: (List.range 8).filter (fun j => (t.island 0 j).removing)
        t.fitsWithout 0 out = true ∧ t.leases = []) ∧
       (let s := s.setCell 5 { running with price := { Prices.zero with bu := [0, 61_000, 0, 0, 0, 0, 0] } }
        let t := s.setReg aBELAY (s.reg aBELAY &&& 0xE)
        t.fitsWithout 0 (0 :: (List.range 8).filter (fun j => (t.island 0 j).removing)) = false)) ∧
    (let s := (pooled radioOn).setIsland 0 7 { heldIsland with removing := true, removeAt := 5 }
     (s.island 0 7).radio = true ∧ (s.island 0 7).removing = true ∧ (s.island 0 7).removeAt ≤ s.now ∧ s.leases = []) ∧
    field (0x1818_6060 : W32) 6 0 ≤ 96 ∧ field (0x1818_6060 : W32) 14 8 ≤ 96 ∧ field (0x1818_6060 : W32) 20 16 ≤ 24 ∧
    field (0x1818_6060 : W32) 28 24 ≤ 24 ∧ live.enabledParts = [] ∧ (∀ d < 2, live.dieCells d = []) ∧
    96 < field (0x61 : W32) 6 0 ∧ 96 < field (0x6100 : W32) 14 8 ∧ 24 < field (0x19_0000 : W32) 20 16 ∧
    24 < field (0x1900_0000 : W32) 28 24 ∧ live.radioMemFits 0x1818_6060 = true ∧
    live.radioMemFits 0x61 = false := by decide +kernel

/-- O27: all half-stacks of each die, none, and those at the bounds. -/
theorem test_hyps_half_stacks : ∀ k ∈ [0, 1, 24], let s := live.setReg (aBELAY + 8) (lo32 (k * 2 ^ 16 + k * 2 ^ 24))
    k = s.rf (aBELAY + 8) 20 16 ∧ k = s.rf (aBELAY + 8) 28 24 ∧ k ≤ 24 := by decide +kernel

def islandIs (x : Island) : State := live.setIsland 1 7 x

/-- O28: the last island below and above the governor's thresholds, low for 100 µs, above and below the ceiling of its
profile; samples of power at the limit and below it, at every step. -/
theorem test_hyps_governor :
    live.awake = true ∧ live.power.phase = .good ∧ live.canon = true ∧
    (let x := { heldIsland with pace := raisePace - 1, mv := 799, held := false }
     (islandIs x).island 1 7 = x ∧ x.hold = true ∧ x.serves = true ∧ x.pace < raisePace ∧ x.mv < 800 ∧ floorPace ≤ x.pace) ∧
    (let x := { heldIsland with pace := lowerPace, mv := 601, highRun := 1000 }
     raisePace ≤ x.pace ∧ lowerPace ≤ x.pace ∧ 600 < x.mv ∧ x.loweredAt = 0 ∧ floorPace ≤ x.pace) ∧
    (let x := { heldIsland with pace := raisePace, highRun := 999, lowSince := some 0 }
     raisePace ≤ x.pace ∧ floorPace ≤ x.pace ∧ x.radio = true ∧ ((islandIs x).emerg 1).islands.testBit 7 = false ∧
       0 + 100_000 ≤ (islandIs x).now) ∧
    (let x := { Island.reset with mv := live.profile.1 + 1 }
     ((islandIs x).island 1 7).hold = false ∧ live.profile.1 < x.mv) ∧
    (let x := { Island.reset with mv := 605, temp := live.profile.2.2 + 1 }
     x.mv ≤ live.profile.1 ∧ live.profile.2.2 < x.temp ∧ x.loweredAt + 10_000 ≤ live.now) ∧
    (let x := { Island.reset with mv := live.profile.1 - 1 }
     x.mv < live.profile.1 ∧ ¬(live.profile.2.1 < live.rf aPWR 15 0 ∨ live.profile.2.2 < x.temp) ∧
       live.power.limitStep = 0 ∧ max x.raisedAt x.loweredAt + 1_000_000 ≤ live.now) ∧
    field (3 : W32) 1 0 = 3 ∧ field (1 : W32) 1 0 ≠ 3 ∧
    (∀ k ∈ [0, 1], ({ live with power := { live.power with limitStep := k } } : State).power.limitStep < 2) ∧
    (islandIs { Island.reset with mv := 601 }).nextLimit = 1 ∧ ({ live with power := { live.power with limitStep := 1 } } : State).nextLimit = 2 := by decide +kernel

/-- A lease block of operation `op` on partition 3 and M0, lease 7, one tile. -/
def leaseDesc (op : Nat) : Desc := jobDesc [(0, 0x30), (4, op + 0x300), (5, 7), (6, 1)]
def lease7 (st : LeaseStage) : Lease :=
  { id := 7, part := 3, die := 0, units := [⟨0, .tile, 5⟩], noticeUs := 3000, granted := 0, stage := st, t0 := 0, cause := 0, endPtp := 0 }
def lending (x : Part) : State := (pooled (running3 x)).setReg (aBELAY + 0xC) 50

/-- O29: a grant that is allowed, one that is not, a revocation, and a lease under notice without and with a running layer. -/
theorem test_hyps_leases :
    (let s := onRing (lending part3) 0 (leaseDesc 1)
     s.awake = true ∧ s.nextStart 0 = some (leaseDesc 1) ∧ (leaseDesc 1).op = 0x30 ∧ s.leaseBad (leaseDesc 1).words = none ∧
       wfield (leaseDesc 1).words 4 7 0 = 1 ∧ (s.grantable (leaseDesc 1).words).isSome = true) ∧
    (let s := lending Part.reset
     s.leaseBad (leaseDesc 1).words = none ∧ s.grantable (leaseDesc 1).words = none) ∧
    (let s := { lending part3 with leases := [lease7 .active] }
     s.leaseBad (leaseDesc 2).words = none ∧ wfield (leaseDesc 2).words 4 7 0 = 2 ∧
       s.namedLease (leaseDesc 2).words = some (lease7 .active)) ∧
    (let l := lease7 .notice
     let s := { lending part3 with leases := [l] }
     s.leases.find? (fun l => decide (l.id = 7) && decide (l.stage = .notice)) = some l ∧ s.leaseKernels l = [] ∧ s.substHeld 3 = false ∧
       (s.part 3).switch = .none ∧ s.leaseUsed l = false ∧ ({ s with parts := [(3, { part3 with
         switch := .scrubbing })] } : State).substHeld 3 = false ∧
       ({ s with parts := [(3, { part3 with ctxs := [(0, { ctx0 with used := [(0, 5)] })] })] } : State).leaseUsed l = true ∧
       (s.ctx l.part (s.part l.part).resident).sectionAt = none ∧ l.t0 + l.noticeUs * 1000 ≤ s.now + 500_000 ∧
       ({ s with kernels := [{ kern [] with tiles := [(0, 5)] }] } : State).leaseKernels l ≠ [] ∧ (lease7 .scrubbed).stage = .scrubbed ∧
       l.t0 + l.noticeUs * 1000 ≤ s.now) := by decide +kernel

/-- O30: a die above each temperature, a step that repeats, a cell that sheds; and cells to shed. -/
theorem test_hyps_emergencies :
    (let s := islandIs { heldIsland with temp := 900, hotSince := some 0 }
     s.awake = true ∧ s.tempOver 1 s.warnTemp = true ∧ s.emergIn 1 .warning = false ∧ (s.island 1 7).radio = true ∧
       0 + 1_000_000 ≤ s.now ∧ s.emergIn 1 .thermal = false) ∧
    (let s := { radioOn.setEmerg 1 { radioOn.emerg 1 with kind := .power } with
       power := { radioOn.power with limitStep := 3 } }
     s.shedsDue 1 = [.power] ∧ (s.emerg 1).shedEnd .power + 10_000_000 ≤ s.clk) ∧
    (let x := { running with state := .shedding, shedAt := some 19_990 }
     let s := withCell x
     (s.cell 5).state = .shedding ∧ (s.cell 5).shedAt = some 19_990 ∧ (s.cell 5).cfg = some g0 ∧
       g0.air 19_990 ≤ s.clk + submitLead g0.scs ∧ g0.slotEnd 19_989 ≤ s.clk ∧ (s.cell 5).stopAt = none) ∧
    ([(5, running), (6, running)].map Prod.fst).Nodup := by decide +kernel

/-- O31: a direction of which nothing is missing, and one that lacks its channel for a fault of a unit or a late input. -/
theorem test_hyps_commit_points :
    (let w := { slotOf 19_996 with ul := some [pusch0], results := true }
     let s := withCell (withWork w)
     (s.cell 5).cfg = some g0 ∧ s.awake = true ∧ (s.cell 5).live = true ∧ g0.deadline w true ≤ s.clk + 20_000 ∧
       (w.ul.isSome && !w.lateUl && !w.ulDone) = true) ∧
    (let w := { slotOf 19_998 with ul := some [pusch0], fault := true }
     maskOf w.ulMissing ≠ 0 ∧ live.missFault w = true ∧ (w.ul.isSome && !w.lateUl && !w.ulDone) = true) ∧
    (let w := { slotOf 19_998 with dl := some [pdsch0], cplane := true, queued := List.range 14 }
     maskOf w.dlMissing = 0 ∧ (!w.dlPdus.isEmpty && !w.lateDl && !w.dlDone) = true ∧
       g0.deadline w false ≤ (withCell (withWork w)).clk + 20_000) ∧
    (let w := { slotOf 19_998 with dl := some [pdsch0], lost := [2], linkLost := true }
     maskOf w.dlMissing ≠ 0 ∧ (withCell (withWork w)).missCause g0 w false ≠ 1 ∧ live.missFault w = false ∧
       ((withCell (withWork w)).setReg (aPORTn 0 + 4) 1).missCause g0 { w with linkLost := false } false = 1) := by
  decide +kernel

-- Partitions and their contexts (O32 to O37).

/-- O32: a partition whose checks pass, running in and out of standby; one that a check fails; stopped and locked. -/
theorem test_hyps_partition_start :
    parted.up = true ∧ parted.activating = false ∧ (parted.part 3).state = .disabled ∧ parted.power.standby = .running ∧
    parted.partError 3 = 0 ∧ ({ parted with numVfs := 3 } : State).numVfs < 3 + 1 ∧
    ({ parted with numVfs := 3 } : State).partError 3 = 10 ∧
    ({ parted with power := { parted.power with standby := .standby } } : State).power.standby ≠ .running ∧
    (let s := running3 { part3 with state := .stopped }
     s.locked 3 = false ∧ s.awake = true ∧ (s.part 3).state = .stopped ∧ s.partError 3 = 0 ∧
       (s.setReg (aPARTp 3 + 8) 3).partError 3 = 6) ∧
    (running3 { part3 with tsp := 1 }).locked 3 = true := by decide +kernel

/-- O33: a running and a stopped partition in both reset modes, a drained reset, and VFs cleared above 2. -/
theorem test_hyps_partition_reset :
    (∀ st ∈ [PartState.running, .stopped], let s := running3 { part3 with state := st }
      s.up = true ∧ s.awake = true ∧ s.locked 3 = false ∧ s.resetMode 3 = false ∧ 3 < s.numVfs) ∧
    ((running3 part3).setReg (aPARTp 3) 4).resetMode 3 = true ∧
    (let s := running3 { part3 with state := .resetting, stage := .draining }
     (s.part 3).stage = .draining ∧ s.partKernels 3 = [] ∧ s.substHeld 3 = false) ∧
    (∀ q < 64, 4 ≤ q → (running3 part3).enabled q = false) := by decide +kernel

/-- O34: scrubs of each kind under way and not, over a tile, an engine and a ledge unit. -/
theorem test_hyps_scrubs :
    (let s := running3 { part3 with switch := .scrubbing }
     (s.part 3).switch = .scrubbing ∧ s.substHeld 3 = false) ∧
    (let s := running3 { part3 with stage := .scrubbing }
     (s.part 3).stage = .scrubbing ∧ s.resetSettled 3 = true) ∧
    (∃ l ∈ ({ lending part3 with leases := [lease7 .scrubbing] } : State).leases,
      l.id = 7 ∧ l.part = 3 ∧ l.stage = .scrubbing) ∧
    ((running3 { part3 with stage := .releaseScrub }).part 3).stage = .releaseScrub ∧
    ((running3 part3).part 3).switch ≠ .scrubbing ∧ ((running3 part3).part 3).stage ≠ .scrubbing ∧
    (running3 part3).canon = true ∧ (running3 part3).heldUnits 3 = [⟨0, .tile, 0⟩, ⟨0, .tile, 1⟩, ⟨0, .vde, 0⟩] ∧
    (running3 part3).ledgeRange 3 0 = (0, 1) := by decide +kernel

def runDesc : Desc := { jobDesc [(0, 0x03)] with started := true, job := some ⟨0, 0, 1, 0, false, false⟩ }
def timed : Kernel := { kern [] with part := some 3, maxUs := 1000, start := 0 }
def late3 (x : Part) : State := { running3 x with kernels := [timed], clk := 1_300_000 }

/-- O35: a kernel that is ready and whose turn it is; one past its time, outside a section and in one; and widths. -/
theorem test_hyps_kernels :
    (let s := onRing (withImage parted) 12 runDesc
     s.awake = true ∧ s.ctxRuns 3 0 = true ∧ s.startsNone 3 = false ∧ (s.ctx 3 0).checked = some true ∧
       s.turn 3 0 = some 12 ∧ s.runFits 3 0 12 = some (runDesc, ⟨0, 0, 1, 0, false, false⟩, kdecl, 1)) ∧
    (let s := late3 part3
     s.kernel 0 = some timed ∧ timed.overrun = false ∧ queuedIn s.kernels timed = false ∧
       timed.maxUs * 1000 < s.layerNs timed ∧ timed.maxUs * 1000 + 300_000 ≤ s.layerNs timed ∧ s.inSection timed = false ∧
       (late3 { part3 with ctxs := [(0, { ctx0 with sectionAt := some 0 })] }).inSection timed = true) ∧
    kernelWidth 4 0 { kdecl with wMax := 3 } = 3 ∧ kernelWidth 4 2 { kdecl with wMax := 3 } = 2 := by decide +kernel

/-- Two contexts, of which the second has a descriptor. -/
def twoCtxs : State :=
  let s := stackWords ((running3 part3).setReg (aPARTp 3 + 0x2C) 2) 64 [lo32 0xA_0001, lo32 1000, lo32 0x800, lo32 0x400,
    lo32 0x2000, lo32 0x4_0004, lo32 0x2_0001]
  onRing (stackWords s 20 [lo32 0x4_0000]) 14 (jobDesc [(0, 0x03)])

/-- A switch to context 0, which is saved: its save area begins at byte 16 Mi of the stack memory. -/
def resuming3 : State := running3 { part3 with switch := .resuming, ctxs := [(0, { ctx0 with saved := true })] }

theorem length_shaRounds (ks win v : List Nat) (h : v.length = 8) : (shaRounds ks win v).length = 8 := by
  induction ks generalizing win v with
  | nil => exact h
  | cons k ks ih => exact ih _ _ (by simp [shaRound, h])

theorem length_shaBlocks (n : Nat) (bs : List Byte) (v : List Nat) (h : v.length = 8) : (shaBlocks n bs v).length = 8 := by
  induction n generalizing bs v with
  | zero => exact h
  | succ n ih => exact ih _ _ (by simp [shaBlock, length_shaRounds _ _ _ h, h])

theorem length_leBytes (n v : Nat) : (leBytes n v).length = n := by
  induction n generalizing v with
  | zero => rfl
  | succ n ih => simp [leBytes, ih]

theorem length_flatMap_be (l : List Nat) : (l.flatMap (beBytes 4)).length = 4 * l.length := by
  induction l with
  | nil => rfl
  | cons a l ih => simp [beBytes, length_leBytes, ih]; omega

theorem length_sha256 (msg : List Byte) : (sha256 msg).length = 32 := by
  unfold sha256
  rw [length_flatMap_be, length_shaBlocks _ _ shaInit (by decide +kernel)]

theorem getList_putList_apart (d : Nat → Byte) (m : SMap Byte) (vs : List Byte) (k l n : Nat)
    (h : l + n ≤ k ∨ k + vs.length ≤ l) : SMap.getList d (SMap.putList d m k vs) l n = SMap.getList d m l n := by
  induction n generalizing l with
  | zero => rfl
  | succ n ih =>
    simp only [SMap.getList]
    rw [SMap.get_putList_other _ _ _ _ (by omega), ih (l + 1) (by omega)]

theorem ctxWord_apart (s : State) (k : Nat) (vs : List Byte) (p c i a : Nat)
    (hu : s.ue = []) (ha : s.partAddr p ((s.reg (aPARTp p + 0x28)).toNat * 4096 + 64 * c + 4 * i) = some a)
    (h : a + 4 ≤ k) :
    (s.writeMem .stack k vs).ctxWord p c i = s.ctxWord p c i := by
  have hb : (s.writeMem .stack k vs).partAddr p (((s.writeMem .stack k vs).reg (aPARTp p + 0x28)).toNat * 4096 + 64 * c + 4 * i) =
    some a := ha
  have h0 (t : State) (ht : t.ue = []) (x : Nat) : t.ueInRead x 4 = none := by unfold State.ueInRead; rw [ht]; rfl
  unfold State.ctxWord
  rw [ha, hb]
  simp only [h0 s hu, h0 (s.writeMem .stack k vs) (by simp [State.writeMem, hu]), Option.isSome_none]
  exact congrArg (fun l => BitVec.ofNat 32 (fromLE l)) (getList_putList_apart _ _ _ _ _ _ (by omega))

/-- Where the save area lies apart from the context table, 32 bytes written at its beginning make it good where they are
the digest of its rest. -/
theorem saveGood_of_digest (s : State) (p c a b k n : Nat) (bs : List Byte) (hl : bs.length = 32) (hw : SMap.wf byteZero s.stack = true)
    (hs : s.ue = [] ∧
      s.partAddr p ((s.reg (aPARTp p + 0x28)).toNat * 4096 + 64 * c + 4 * 4) = some a ∧ a + 4 ≤ k ∧
      s.partAddr p ((s.reg (aPARTp p + 0x28)).toNat * 4096 + 64 * c + 4 * 6) = some b ∧ b + 4 ≤ k ∧
      s.issuerPieces (some (p, c)) (s.saveRange p c).1 32 = [(k, 32)] ∧
      s.issuerPieces (some (p, c)) ((s.saveRange p c).1 + 32) ((s.saveRange p c).2 - 32) = [(k + 32, n)]) :
    (s.writeMem .stack k bs).saveGood p c = decide (bs = s.saveDigest p c) := by
  obtain ⟨hu, ha, hak, hb, hbk, h1, h2⟩ := hs
  have hr : (s.writeMem .stack k bs).saveRange p c = s.saveRange p c := by
    unfold State.saveRange State.saveTiles State.ledgeSave
    rw [ctxWord_apart s k _ p c 4 a hu ha hak, ctxWord_apart s k _ p c 6 b hu hb hbk]
  have hp (i : Issuer) (o m : Nat) : (s.writeMem .stack k bs).issuerPieces i o m = s.issuerPieces i o m := rfl
  have he : (s.writeMem .stack k bs).ue = [] := by simp [State.writeMem, hu]
  have hn : ∀ x m, (s.writeMem .stack k bs).ueInRead x m = none := by
    intro x m; unfold State.ueInRead; rw [he]; rfl
  have hf : ∀ l : List Range, (l.findSome? fun r => (s.writeMem .stack k bs).ueInRead r.1 r.2) = none := by
    intro l
    induction l with
    | nil => rfl
    | cons r l ih => rw [List.findSome?_cons, hn]; exact ih
  have hd : (s.writeMem .stack k bs).saveDigest p c = s.saveDigest p c := by
    unfold State.saveDigest State.issuerRead
    simp only [hr, hp, h2, List.flatMap_cons, List.flatMap_nil, List.append_nil]
    have h3 : (s.writeMem .stack k bs).readMem .stack (k + 32) n = s.readMem .stack (k + 32) n :=
      getList_putList_apart _ _ _ _ _ _ (Or.inr (by omega))
    rw [h3]
  have hg : (s.writeMem .stack k bs).issuerRead (some (p, c)) (s.saveRange p c).1 32 = bs := by
    have h := SMap.getList_putList (d := byteZero) bs s.stack k hw
    rw [hl] at h
    unfold State.issuerRead
    rw [hp, h1]
    exact (List.append_nil _).trans h
  unfold State.saveGood State.issuerUeRead
  simp only [hr, hd, hf, hg]
  simp

/-- O36: a save area that begins with the digest of its rest is good, and one that begins with another is not. -/
theorem test_save_good : ∀ good : Bool, ∃ s : State, ((s.part 3).switch = .resuming ∧ s.substHeld 3 = false ∧
    (s.part 3).incoming = 0 ∧ ((s.part 3).ctx (s.part 3).incoming).saved = true) ∧ s.ue = [] ∧ s.saveGood 3 0 = good := by
  intro good
  have hs : (resuming3.part 3).switch = .resuming ∧ resuming3.substHeld 3 = false ∧ (resuming3.part 3).incoming = 0 ∧
    ((resuming3.part 3).ctx (resuming3.part 3).incoming).saved = true := by decide +kernel
  have hk (t : State) (bs : List Byte) : ((t.writeMem .stack 0x100_0000 bs).part 3 = t.part 3) ∧
    ((t.writeMem .stack 0x100_0000 bs).substHeld 3 = t.substHeld 3) := ⟨rfl, rfl⟩
  have hd : (resuming3.saveDigest 3 0).length = 32 := length_sha256 _
  have go (bs : List Byte) (hl : bs.length = 32) := saveGood_of_digest resuming3 3 0 16 24 0x100_0000
    (4096 + 4 * 2 ^ 20 - 32) bs hl (by decide +kernel) (by decide +kernel)
  have hn (l : List Byte) (h : l ≠ []) : l.map (fun b => b + 1) ≠ l := by
    cases l with
    | nil => exact absurd rfl h
    | cons a r => simp [List.map_cons]
  have he : (resuming3.saveDigest 3 0) ≠ [] := fun h => by rw [h] at hd; exact absurd hd (by decide)
  cases good with
  | true => exact ⟨resuming3.writeMem .stack 0x100_0000 (resuming3.saveDigest 3 0), by
      rw [(hk resuming3 _).1, (hk resuming3 _).2]; exact hs, rfl, by rw [go _ hd]; simp⟩
  | false => exact ⟨resuming3.writeMem .stack 0x100_0000 ((resuming3.saveDigest 3 0).map (fun b => b + 1)), by
      rw [(hk resuming3 _).1, (hk resuming3 _).2]; exact hs, rfl, by
      rw [go _ (by rw [List.length_map, hd])]; exact decide_eq_false (hn _ he)⟩

/-- O36: a quantum that has run out, the stages of a switch, a batch that is due, and the records. -/
theorem test_hyps_switch :
    (let s := twoCtxs
     s.awake = true ∧ (s.part 3).state = .running ∧ (s.part 3).switch = .none ∧
       ((s.part 3).ctx (s.part 3).resident).sectionAt = none ∧
       (s.part 3).quantumAt + s.quantumUs 3 (s.part 3).resident * 1000 ≤ s.now ∧
       (s.part 3).reclaiming = false ∧ s.substHeld 3 = false ∧ (State.pickCtx 3 (s.readyCtxs 3) s).2 = some 1) ∧
    ((running3 { part3 with switch := .saving }).part 3).switch = .saving ∧
    (let s := { resuming3 with ue := [0x4_0000] }
     (s.part 3).switch = .resuming ∧ s.substHeld 3 = false ∧ (s.part 3).incoming = 0 ∧
       ((s.part 3).ctx (s.part 3).incoming).saved = true ∧ s.saveGood 3 0 = false) ∧
    ((running3 { part3 with switch := .resuming }).part 3).ctx 0 = ctx0 ∧ ctx0.saved = false ∧
    (let s := running3 { part3 with ctxs := [(0, { ctx0 with batch := some ⟨0, []⟩ })] }
     (s.ctx 3 0).batch = some ⟨0, []⟩ ∧ 0 + s.batchWaitUs 3 0 * 1000 ≤ s.now ∧ s.awake = true ∧
       (s.part 3).state = .running) ∧
    (running3 part3).enabled 3 = true ∧ radioOn.clkNs % 10000 = 0 := by decide +kernel

/-- O37: each semaphore command, and a hold past its end; waiters of two semaphores. -/
theorem test_hyps_semaphores :
    (let ws (op v h : Nat) := (mi [(0, 0x08), (4, op + 0xF00), (5, v), (6, h)]).take 16
     semBad (ws 0 65535 0) ctx0 = none ∧ semBad (ws 1 1 300) ctx0 = none ∧ semBad (ws 2 1 0) ctx0 = none ∧
       wfield (ws 0 65535 0) 4 1 0 = 0 ∧ wfield (ws 1 1 300) 4 1 0 = 1 ∧ wfield (ws 2 1 0) 4 1 0 = 2 ∧
       (⟨12, 0, 15, 1, 300⟩ : SemWait) ∉ ctx0.waits ∧ ((running3 part3).part 3).switch = .none ∧
       ((running3 part3).part 3).reclaiming = false) ∧
    (let h : Acquired := ⟨12, 15, 1, 7⟩
     let s := running3 { part3 with ctxs := [(0, { ctx0 with held := [h], sectionAt := some 0 })] }
     (s.ctx 3 0).held.find? (fun h => decide (h.deadline ≤ s.now)) = some h ∧ (s.part 3).state = .running ∧
       (s.ctx 3 0).sectionAt.isSome = true ∧ s.kernels = [] ∧
       ∀ g ∈ (s.ctx 3 0).held, ∀ e ∈ (s.ring g.ring).descs, e.job = none) ∧
    ([⟨12, 0, 0, 1, 1⟩, ⟨13, 0, 1, 1, 1⟩] : List SemWait).Nodup := by decide +kernel

-- Rings, windows, interrupts and stack memory (O38 to O43).

/-- Ring 9 of the physical function with queues of 16 in the window: enabled, with line 0x1_0000 held. -/
def ringed (r : Ring) : State := ((windowed live).setReg (aRINGn 9 + 0x18) (lo32 (2 ^ 31))).setRing 9 r
def held9 : Ring := { Ring.reset with line := some 0x1_0000 }

/-- O38: rings that pass and that fail the checks of an enable, one that stops, and doorbells in and out of range. -/
theorem test_hyps_rings :
    (let s := windowed live
     let t := (s.applyWrite (aRINGn 9 + 0x18) 0x8000_0000).setRbit (aRINGn 9 + 0x18) 31 false
     let u := (s.applyWrite (aRINGn 9 + 0x18) 0x8000_001A).setRbit (aRINGn 9 + 0x18) 31 false
     s.reached .pf = true ∧ s.viewHasRing .pf 9 = true ∧ s.ringOn 9 = false ∧ bitOf (0x8000_0000 : W32) 31 = true ∧
       t.ringEnableError 9 (decide (View.pf = .pf)) = 0 ∧ u.ringEnableError 9 (decide (View.pf = .pf)) ≠ 0) ∧
    (let s := ringed held9
     s.up = true ∧ s.ringOn 9 = true ∧ (s.ring 9).disabling = false ∧ (s.ring 9).line.isSome = true ∧
       SMap.keysWhere (fun _ r => decide (r.line = some 0x1_0000)) s.rings = [9] ∧
       field (15 : W32) 15 0 < s.sqSize 9 ∧ field (0 : W32) 15 0 = (s.ring 9).cqHead ∧ (s.ring 9).cqHead < s.cqSize 9 ∧
       s.sqSize 9 ≤ field (16 : W32) 15 0 ∧ s.cqSize 9 ≤ field (16 : W32) 15 0) ∧
    (let s := (windowed live).setReg (aRINGn 0 + 0x18) 0x8000_0000
     (s.applyWrite (aADMIN + 4 * 1) 3).ringOn 0 = true) ∧
    (let s := ringed { held9 with disabling := true }
     (s.ring 9).disabling = true ∧ (s.ring 9).descs = []) := by decide +kernel

def doneDesc : Desc := { jobDesc [(0, 0x07)] with started := true, result := some (Result.of .success) }
def bufDesc (a : Nat) : Desc := jobDesc [(0, 0x21), (4, a), (6, 4096)]

/-- O39: a ring that may fetch, with an opcode its kind allows and one it does not; a completion that is due; an entry in
and out of a window; a buffer in and out of one; an indication that has waited 10 ms. -/
theorem test_hyps_descriptors :
    (let s := ringed { held9 with sqTail := 1 }
     s.mayFetch 9 = true ∧ opAllowed (wfield (mi [(0, 0x07)]) 0 7 0) (s.ringKind 9) (s.ringOwner 9).isNone = true ∧
       opAllowed (wfield (mi [(0, 0x20)]) 0 7 0) (s.ringKind 9) (s.ringOwner 9).isNone = false) ∧
    (let s := ringed { held9 with descs := [doneDesc] }
     s.completionDue 9 = true ∧ (s.ring 9).descs = [doneDesc] ∧ doneDesc.result = some (Result.of .success) ∧
       (s.ring 9).muted = false ∧ s.cqRoom 9 = true ∧ s.canon = true ∧
       s.windowOk (ownerFn (s.ringOwner 9)) (s.cqBase 9 + 32 * (s.ring 9).cqTail) 32 = true ∧
       live.windowOk (ownerFn (live.ringOwner 9)) 0 32 = false) ∧
    (∀ a ∈ [0, 0xF000, 0x1_0000], descFail (bufDesc a).words [(4, decide (wpair (bufDesc a).words 4 % 64 = 0)),
      (6, decide ((wordAt (bufDesc a).words 6).toNat % 64 = 0) && decide (4096 ≤ (wordAt (bufDesc a).words 6).toNat) &&
        decide ((wordAt (bufDesc a).words 6).toNat ≤ 2_097_152))] = none ∧ (bufDesc a).op = 0x21 ∧
      (ringed { held9 with descs := [bufDesc a] }).nextStart 9 = some (bufDesc a) ∧
      (windowed live).windowOk 0x7F a 4096 = decide (a ≤ 0xF000)) ∧
    (let i : Indication := ⟨0x82, 5, [], live.now - 10_000_000⟩
     ((ringed { held9 with inds := [i] }).ring 9).inds = [i] ∧ i.since + 10_000_000 ≤ live.now) := by decide +kernel

/-- O40: windows that are locked, and one of a bound partition; a completion that changes a byte of one. -/
theorem test_hyps_windows :
    (live.setRbit aSEC 0 true).rbit aSEC 0 = true ∧ live.up = true ∧ aWIN 0 ≤ aWIN 63 + 0x1C ∧ aWIN 63 + 0x1C < aWIN 64 ∧
    (let s := (running3 { part3 with tsp := 1 }).setReg (aWIN 63 + 0x10) 3
     63 < 64 ∧ s.rbit aSEC 0 = false ∧ s.rf (aWIN 63 + 0x10) 6 0 = 3 ∧ s.locked 3 = true) ∧
    (let s := ringed held9
     s.canon = true ∧ SMap.get byteZero (s.writeEntry 9 ((Result.of .badDescriptor).entry 0 0) false).host 0 ≠
       SMap.get byteZero s.host 0) := by decide +kernel

/-- O41: sources at the bounds of those that never fire; one that is off, one that is on with its vector masked and not. -/
theorem test_hyps_sources :
    (∀ n ∈ [0, 57, 63, 4096], sourceLive n = false) ∧ (∀ n ∈ [1, 56, 64, 4095], sourceLive n = true) ∧
    live.enBit 4095 = false ∧ live.canon = true ∧
    (let s := live.setReg (aEN 127) 0x8000_0000
     s.enBit 4095 = true ∧ s.pendBit 4095 = false ∧ s.sec.quiesced = false ∧ s.masked 0 0 = true ∧
       s.vectorEntry (s.sourceVector 4095) = (0, 0)) ∧
    ({ live with msixT := SMap.put msixReset live.msixT (msixKey 0 0 + 12) 0 } : State).masked 0 0 = false ∧
    live.pbaBit 64 2047 = false ∧ (live.setPba 64 2047 true).pbaBit 64 2047 = true ∧
    ({ live with sec := { live.sec with ideMem := some 0 } } : State).sec.ideMem.isSome = true := by decide +kernel

/-- O42: a line of the last block, of no partition; a line of a bound environment from outside it. -/
theorem test_hyps_cxl_mem :
    live.awake = true ∧ live.canon = true ∧ live.memBytes - 64 + (List.replicate 64 (1 : Byte)).length ≤ live.memBytes ∧
    live.tspBlocks (live.memBytes - 64) none false = false ∧ live.ueInWrite (live.memBytes - 64) 64 = none ∧
    live.ueInRead (live.memBytes - 64) 64 = none ∧ live.halfOwner ((live.memBytes - 64) / live.halfBytes) = none ∧
    (running3 { part3 with tsp := 2 }).tspBlocks 0 none true = true := by decide +kernel

/-- O43: the last bank due and not, blocks at the end of memory, and rows with and without a spare. -/
theorem test_hyps_stacks :
    live.up = true ∧ (live.bankRefresh (bankKey 23 31 47)).time + refreshNs (live.bankRefresh (bankKey 23 31 47)).band ≤ live.now ∧
    (let s := { live with now := 3899 }
     s.now < (s.bankRefresh (bankKey 23 31 47)).time + refreshNs (s.bankRefresh (bankKey 23 31 47)).band) ∧
    64 * (live.memBytes / 64 - 1) < live.memBytes ∧
    (let r : RowId := ⟨23, 31, 47, 0⟩
     0 < live.rowsLeft r ∧ ({ live with stackSt := { live.stackSt with repaired := List.replicate 16 r } } : State).rowsLeft r = 0) := by
  decide +kernel

-- Rope (O44 to O48).

/-- Member 1 of pod 0 with members 0 to 2, pod epoch 5, and port 0 up. -/
def roped (s : State) : State :=
  [(0, 1), (4, 1), (8, 2), (0xC, 1), (0x10, 5), (0x14, 9), (0x200, 7)].foldl
    (fun t (e : Nat × Nat) => t.setReg (aROPE + e.1) (lo32 e.2)) s
/-- Region 5 of this device: the first 4 KiB of partition 3's window, with every permission; then with other bits. -/
def region5 (bits : Nat) (s : State) : State :=
  ((s.setReg (aRGN 5) (lo32 (bits + 0x33F))).setReg (aRGN 5 + 4) 0x100).setReg (aRGN 5 + 8) 1
/-- Partition 3 with a key table of two entries: region 4 of device 2, and region 5 of this device. -/
def keyed : State :=
  let s := (running3 part3).writeMem .stack 0 (wordsBytes [lo32 0xA_0001, lo32 1000, lo32 0x100, lo32 0x400, lo32 0x1000,
    lo32 0x8_0000, lo32 0x2_0001, 0, lo32 0x2000, lo32 0x3000, 2])
  region5 0 (roped (stackWords s (0x3000 * 4096) [0x4_8002, 0, 0, 0, 0x5_8001, 0, 0, 0]))
def kern3 (ins : List InsRec) : Kernel := { kern ins with part := some 3 }
/-- A command of an operation and atomic operation, of 64 bytes at 1 MiB where it has a length. -/
def rc (op aop : Nat) : List W32 :=
  let bare := decide (op = 3) || decide (6 ≤ op)
  mi [(0, op + aop * 16 + (if bare then 0x1000 else 0) + (if op = 4 then 0x1_0000 else 0)), (4, if bare then 0 else 0x8000),
    (5, if bare then 0 else 64)]
def homes0 : RopeHomes := ⟨0, 0, 0⟩


/-- O44: every Rope command passes at its source; a FENCE with a port up. -/
theorem test_hyps_rope_rows :
    (let s := { keyed with kernels := [kern3 []] }
     s.kernel 0 = some (kern3 []) ∧ (kern3 []).part = some 3 ∧ s.awake = true ∧ (kern3 []).kind = .run ∧
       (kern3 []).clean 0 = true ∧ (kern3 []).committedTo 0 = true ∧ (kern3 []).insAt 0 = none ∧ s.ropeBusy 3 0 < 256 ∧
       s.ropeUp = true) ∧
    (∀ e ∈ ([(1, 0), (2, 0), (3, 1), (3, 2), (3, 3), (3, 4), (3, 5), (3, 6), (3, 7), (3, 8), (3, 9), (3, 10), (4, 0), (5, 0),
        (6, 0), (7, 0)] : List (Nat × Nat)), let c := (rc e.1 e.2).take 16
      rcBad c = none ∧ rcOp c = e.1 ∧ rcAop c = e.2 ∧
        (match keyed.rcStart ((kern3 []).site 0 noTile) 3 0 c homes0 with | .lines _ _ => true | _ => false) = true) := by
  decide +kernel

def peerRec (p : InsPhase) : InsRec := { drained (mi [(0, 0x10), (1, 0xD_0000)]) with phase := p, accRe := [.zero] }
def line0 : RopeLine :=
  { seq := 0, id := 7, stack := 0, off := 0, len := 64, act := .load, data := [], sent := some 0, epoch := 5, globalEpoch := 9, under := none, stale := false }
def cmdTo (dev : Nat) : RopeCmd :=
  { seq := 0, part := 3, ctx := 0, ring := 12, desc := 0, kernel := 0, kidx := 0, idx := 0, peer := false, device := dev,
    region := 4, key := 0, ctxRegion := 0, gen := 0, off := 0, bases := [], die := 0, local' := none, first := 0,
    lines := [line0], fail := none, saved := false, slot := [] }

/-- O44: a block for another device at each of its steps; a line that was sent, to a member and to no member, at 1 s. -/
theorem test_hyps_rope_sources :
    (∀ p ∈ [InsPhase.drained, .sending, .sendingHeader], let r := peerRec p
      let s := { keyed with kernels := [kern3 [r]] }
      s.recIn 0 0 p = some (kern3 [r], r) ∧ miChain r.words = 13 ∧ (kern3 [r]).epilogueFree r = true ∧ r.accRe ≠ [] ∧
        r.outstanding = 0) ∧
    (let r := { peerRec .sendingHeader with outstanding := 1 }
     ({ keyed with kernels := [kern3 [r]] } : State).recIn 0 0 .sendingHeader = some (kern3 [r], r) ∧ r.outstanding ≠ 0) ∧
    (∀ dev ∈ [2, 3], let s := keyed.setRope (fun x => { x with cmds := [cmdTo dev] })
      s.awake = true ∧ s.lineOf dev 0 7 = some (cmdTo dev, line0) ∧ line0.sent = some 0 ∧ 0 + 100_000 ≤ s.now ∧
        s.targetIn dev = decide (dev = 2) ∧ s.ropeUp = true ∧ dev / 512 = s.ropePod) ∧
    (let s := { keyed with now := 50_000_000 }
     (cmdTo 2).first + 50_000_000 ≤ s.now) := by decide +kernel

/-- A request of member 0 to region 5 of this device. -/
def req (act : RopeAct) : RopeReq :=
  { source := 0, origin := 0, epoch := 5, globalEpoch := 9, under := none, device := 1, region := 5, key := 0, gen := 0, off := 0, len := 64, act := act,
    data := [], id := 7, stack := 0 }

/-- O45: a request that each check refuses, one that all pass; at a home that is asleep, of the next epoch, to another pod. -/
theorem test_hyps_homes :
    keyed.sameEpoch { req .load with epoch := 4 } = false ∧ keyed.sameEpoch (req .store) = true ∧
    keyed.rgnGrants { req .store with key := 1 } = false ∧ keyed.rgnGrants (req .store) = true ∧
    keyed.rgnProtected (req .store) = false ∧
    (let m := [(0, 64)]
     (keyed.setPart 3 { part3 with ctxs := [(0, { ctx0 with images := [(0, { image0 with manifest := m })] })] }).rgnProtected
       (req .store) = true) ∧
    (region5 0x40 keyed).rgnCairn (req .store) = some .cairnWriteFault ∧ (region5 0x40 keyed).rbit (aRGN 5) 6 = true ∧
    keyed.rgnCairn (req .store) = none ∧ keyed.rgnGenStale (req .store) = false ∧
    (region5 0x1_0080 keyed).rgnGenStale (req .store) = true ∧
    keyed.portsLive = true ∧ keyed.ropeUp = true ∧ (req .store).device = keyed.ropeDevice ∧ keyed.awake = true ∧
    (req .store).epoch ≠ (keyed.podEpoch + 1) % 2 ^ 32 ∧ 6 = (keyed.podEpoch + 1) % 2 ^ 32 ∧
    (let s := { keyed with power := { keyed.power with standby := .standby } }
     s.portsLive = true ∧ s.ropeUp = true ∧ s.awake = false) ∧
    (let s := keyed.setRope (fun x => { x with gateways := [(0, [1])] })
     512 ≠ s.ropeDevice ∧ s.gwIndex = some 0 ∧ 512 / 512 ≠ s.ropePod ∧ s.gwOut (512 / 512) = some s.ropeMember) := by
  decide +kernel

/-- O46: a window that has not seen an identifier, one that answers it and one that no longer knows it; a region of the
physical function; atomics at the bounds of their numbers. -/
theorem test_hyps_applied_once :
    (ReplayWindow.reset.verdict 7 = .fresh ∧ ReplayWindow.reset.entries.length < 4096) ∧
    (let s := keyed.setRope (fun x => { x with windows := [(0, ⟨[(7, 42, 1_000_000_000)], 0⟩)] })
     (req .store).act.writes = true ∧ (req (.atomic 9 1 2)).act.writes = true ∧
     ((s.window (s.rgnStack 5 0) 0).age s.now).verdict 7 = .answered 42) ∧
    (let s := keyed.setRope (fun x => { x with windows := [(0, ⟨[], 8⟩)] })
     ((s.window (s.rgnStack 5 0) 0).age s.now).verdict 7 = .unknown) ∧
    (region5 0x7C00 keyed).canon = true ∧ 64 ≤ (region5 0x7C00 keyed).rgnOwner 5 ∧
    (∀ op ∈ [1, 9], 1 ≤ op ∧ op ≤ 9 ∧ 2 ^ (8 * atomicSize op) - 1 < 2 ^ (8 * atomicSize op)) := by decide +kernel


/-- Member 0, which has just heard member 2; and the device with a state of its own. -/
def coord : State := ((roped live).setReg aROPE 0).setRope (fun x => { x with beats := [(2, 1_000_000_000)] })
def ropeAt (st : Nat) (s : State) : State := s.setReg (aROPE + 8) (lo32 st)

/-- O47: ports, a silent member under a coordinator with a majority, one that cannot reach any, a later epoch, an excluded
device, heartbeats, and an epoch received with this device and without it. -/
theorem test_hyps_membership :
    live.up = true ∧ (roped live).rbit (aROPE + 4) 0 = true ∧ (live.setReg (aROPE + 4) 0).rbit (aROPE + 4) 0 = false ∧ (roped live).ropeUp = true ∧
    0 = (roped live).ropePod ∧ 2 ≠ (roped live).ropeMember ∧ bitOf (0 : W32) 0 = false ∧ bitOf (1 : W32) 0 = true ∧
    coord.portsLive = true ∧ coord.coordinates = true ∧ coord.majority 5_000_000 = true ∧ 1 ∈ coord.nextMembers ∧
    1 ≠ coord.ropeMember ∧ coord.heard 1 + 5_000_000 ≤ coord.now ∧ coord.ropeIn = true ∧
    (let s := coord.setRope (fun x => { x with declaredAt := some 0, acks := [0] })
     s.coordinates = true ∧ s.majority 5_000_000 = true ∧ 1 ∈ s.nextMembers ∧ s.rope.declaredAt = some 0 ∧
       0 + 1_000_000 ≤ s.now ∧ 1 ∉ s.rope.acks) ∧
    (roped live).ropeIn = true ∧ (roped live).coordinates = false ∧ (roped live).majority 10_000_000 = false ∧
    (roped live).coordinator = some 0 ∧ 0 ≠ (roped live).ropeMember ∧ (roped live).heard 0 + 5_000_000 ≤ live.now ∧
    0 < idDiff 6 (((roped live).rope.pending.map (fun x => x.number)).getD (roped live).podEpoch) ∧
    (roped live).ropeState ≠ 0 ∧ (ropeAt 3 (roped live)).ropeState = 3 ∧ (ropeAt 3 (roped live)).portsLive = true ∧
    (roped live).heard 1 + 100_000 ≤ live.now ∧
    (∀ ms ∈ [[0, 1], [0, 2]], let e : PendingEpoch := ⟨6, ms, 0⟩
      let s := (roped live).setRope (fun x => { x with pending := some e })
      s.portsLive = true ∧ s.rope.pending = some e ∧ s.ropeState = 2 ∧
        ((s.ropeMember ∈ e.members) ↔ ms = [0, 1])) := by decide +kernel

/-- O48: a gateway with a chunk that is due, chunks of the same and another global epoch; gates ahead of and past the count;
a stage past its bound with and without budget; regions that the rules allow and refuse. -/
theorem test_hyps_pods :
    (let q := { req .store with device := 512 }
     let s := (roped live).setRope (fun x => { x with gateways := [(0, [1])], chunks := [(1, (0, [q]))] })
     s.portsLive = true ∧ s.ropeIn = true ∧ s.gwIndex = some 0 ∧ s.awake = true ∧
       (SMap.get (fun _ => (0, [])) s.rope.chunks 1).2 ≠ [] ∧ (SMap.get (fun _ => (0, [])) s.rope.chunks 1).1 + 4_000 ≤ s.now ∧
       (0 : Nat) = s.ropePod ∧ 9 = s.globalEpoch ∧ 8 ≠ s.globalEpoch) ∧
    (let v : W32 := 0x1_0009
     bitOf v 16 = true ∧ live.rbit (aGATE 15 + 8) 16 = false ∧ live.gateCount 15 ≤ live.launchCount ∧
       live.launchCount < (live.setReg (aGATE 15 + 4) 1).gateCount 15 ∧
       (live.setReg (aGATE 15 + 8) v).rbit (aGATE 15 + 8) 16 = true) ∧
    (let s := ropeAt 1 { (roped live) with now := 5_000_000_000 }
     s.ropeState = 1 ∧ s.rope.stageAt + stageBound s.rope.stage ≤ s.now ∧ s.rope.again = false ∧
       stageBound s.rope.stage ≤ s.rope.budget ∧ (s.setRope (fun x => { x with again := true })).rope.again = true) ∧
    (keyed.setRbit (aRGN 5) 0 false).rbit (aRGN 5) 0 = false ∧ (keyed.setRbit (aRGN 5) 0 false).rgnLocked 5 = false ∧
    (keyed.setRbit (aRGN 5) 0 false).rgnOk 5 = true ∧ keyed.rbit (aRGN 2047) 0 = false ∧ keyed.rgnOk 2047 = false ∧
    keyed.up = true := by decide +kernel

-- Ports and time (O49 to O51).

/-- Port 0 enabled with its sub-port 0 up, PTP on it; the allow list has the radio unit of the reference cell. -/
def linked (s : State) : State :=
  [(aPORTn 0, 1), (aPORTn 0 + 4, 1), (aPORTn 0 + 0x18, 1), (aTIME + 0x2C, 0x1801), (aALLOW 0 + 8, 0x8005_0001), (aALLOW 0, 7)].foldl
    (fun t (e : Nat × Nat) => t.setReg e.1 (lo32 e.2)) s
def rx (len et : Nat) (vlan : Option Nat) (body : FrameIn) : RxFrame :=
  { port := 0, sub := 0, fcsOk := true, len := len, dst := 0x0180_C200_000E, src := 7, vlan := vlan, stacked := false, skew := 0,
    etherType := et, body := body, raw := [] }
def ecpri0 : EcpriIn :=
  { rev := 1, concat := false, type' := 0, size := 38, eaxc := 0, ebit := true, subseq := 0, frameId := 0, subframe := 0, slotId := 0, sym := 0,
    filterIndex := 0, sections := [] }
def tx (dst q : Nat) : Frame :=
  { what := .uplane 5 20_003 0 0, dst := dst, src := 9, vlan := some 5, queue := q, len := 64, data := [], seq := 0, after := 0, by' := none }
def withFrames (fs : List Frame) : State := (linked radioOn).setSub 0 0 { SubPort.reset with frames := fs }
/-- Partition 3 with a queue on sub-port 0 of port 0 and VLAN 9, rings of 16. -/
def queued3 (s : State) : State :=
  [(0, 0x8000_0009), (4, 0x100), (8, 0x200), (0xC, 0x10_0010)].foldl (fun t (e : Nat × Nat) => t.setReg (aPQ 3 + e.1) (lo32 e.2)) s

/-- O49: frames at the bounds of their length, of PTP, of a cell and of none, of a partition, untagged and of no queue; a
sub-port with nothing to send, with two frames of which the higher queue goes, and with one that the list refuses. -/
theorem test_hyps_frames :
    (let s := queued3 (linked (running3 part3))
     s.portsLive = true ∧ s.hasSub 0 0 = true ∧ s.linkUp 0 0 = true ∧
       (let t := s.portCount 0 0
        let m : PtpIn := .sync 24 none 0
        (∀ n ∈ [63, 9217], (rx n 0x88F7 none .other).len < 64 ∨ 9216 < (rx n 0x88F7 none .other).len) ∧
        (∀ n ∈ [64, 9216], t.destOk (rx n 0x88F7 none (.ptp m)) = true) ∧
        t.destOk { rx 64 0x88F7 none .other with dst := 5 } = false ∧
        t.rbit (aPORTn 0 + 0x18) 0 = true ∧ 24 = t.rf (aTIME + 0x2C) 15 8 ∧
        t.frameCell (rx 64 0xAEFE (some 5) (.ecpri ecpri0)) 5 0 = none ∧
        t.queueOf 0 0 9 = some 3 ∧ t.queueOf 0 0 8 = none)) ∧
    ((linked (withCell running)).frameCell (rx 64 0xAEFE (some 5) (.ecpri ecpri0)) 5 0 = some (5, g0)) ∧
    (let s := withFrames []
     s.portsLive = true ∧ s.hasSub 0 0 = true ∧ s.linkUp 0 0 = true ∧ (s.sub 0 0).busy ≤ s.now ∧
       (s.fillSub 0 0).nextFrame 0 0 = none) ∧
    (let s := withFrames [tx 7 5, tx 7 6, tx 8 5]
     (s.fillSub 0 0).nextFrame 0 0 = some ([tx 7 5], tx 7 6, [tx 8 5]) ∧ s.allows 0 7 (some 5) = true ∧
       s.allows 0 8 (some 5) = false) := by decide +kernel

/-- O50: a port that is off, on, and bound; a link that changes and that stays; PTP messages of a master and a slave port. -/
theorem test_hyps_ports :
    (let s := linked live
     s.up = true ∧ s.canon = true ∧ live.rbit (aPORTn 0) 0 = false ∧ field (0x5 : W32) 2 1 ≠ 3 ∧ s.rbit (aPORTn 0) 0 = true ∧
       bitOf (0x4 : W32) 0 = false ∧ s.portBound 0 = false ∧ (linked (withCell running)).portBound 0 = true ∧
       s.hasSub 0 0 = true ∧ s.linkUp 0 0 = true ∧ (s.setReg (aPORTn 0 + 4) 0).linkUp 0 0 = false ∧ s.portsLive = true ∧
       s.ptpOn 0 0 = true ∧ s.ports.servo.slave = none ∧
       (∀ k ∈ [PtpKind.sync, .delayReq, .announce], (s.sub 0 0).sentAt k + k.every ≤ s.now)) := by decide +kernel

/-- O50: lists that are pending, whose length and cycle are at their bounds and beyond them, and that take effect. -/
theorem test_hyps_gates :
    (let a := aGCL 7 3
     let s := live.setReg (a + 4) 1_000
     live.up = true ∧ bitOf (0x1_0002 : W32) 1 = true ∧ s.gclPending 7 3 = false ∧ (s.setReg a 0x8001_0000).gclPending 7 3 = true ∧
       ((s.applyWrite a 0x1_0002).rf a 23 16 = 1 ∧ ((s.applyWrite a 0x1_0002).reg (a + 4)).toNat = 1_000) ∧
       ((s.applyWrite a 0x40_0002).rf a 23 16 = 64 ∧ (s.applyWrite a 0x41_0002).rf a 23 16 = 65 ∧
         (s.applyWrite a 2).rf a 23 16 = 0) ∧
       (let t := (s.setReg a 0x8001_0000).setSub 7 3 { SubPort.reset with pend := some 0 }
        (t.sub 7 3).pend = some 0 ∧ t.gclPending 7 3 = true ∧ ((0 : Nat) : Int) ≤ timeDiff t.clk (t.reg (a + 0xC)).toNat
          (t.rf (a + 8) 29 0)) ∧
       (let g : GateList := ⟨[(0xFF, 1_000)], 1_000, 0, 0⟩
        let t := (s.setReg a 1).setSub 7 3 { SubPort.reset with oper := some g }
        (t.sub 7 3).oper = some g ∧ t.gclOn 7 3 = true ∧ s.gclOn 7 3 = false)) := by decide +kernel

/-- O50: a partition's queue that is on, off and bound, whose checks pass and fail, and whose rings hold nothing new. -/
theorem test_hyps_queues :
    (let s := queued3 (linked (running3 part3))
     s.up = true ∧ s.pqOn 3 = true ∧ s.portsLive = true ∧ s.awake = true ∧ (s.part 3).state = .running ∧
       s.linkUp (s.pqPort 3).1 (s.pqPort 3).2 = true ∧
       (s.pqRead 3 (s.txRing 3).1 2 % 16 + 16 - s.pqRead 3 ((s.txRing 3).1 + 4) 2 % 16) % 16 ≤ s.pqWaiting 3) ∧
    (let s := (queued3 (linked (running3 part3))).setReg (aPQ 3) 0
     let t := (s.applyWrite (aPQ 3) 0x8000_0009).setRbit (aPQ 3) 31 false
     s.pqOn 3 = false ∧ (s.part 3).tsp = 0 ∧ bitOf (0x8000_0009 : W32) 31 = true ∧ t.pqOk 3 = true ∧
       (t.setReg (aPQ 3 + 0xC) 0x11_0010).pqOk 3 = false ∧ ((running3 { part3 with tsp := 1 }).part 3).tsp ≠ 0) := by
  decide +kernel

def servoAt (v : Servo) : State := { linked live with ports := { live.ports with servo := v } }

/-- O51: a servo that loses its master, one past its holdover, a clock that may be set and one that may not; compare units
before and past their targets, pulses that end, and captures that are armed. -/
theorem test_hyps_time :
    live.up = true ∧ live.canon = true ∧ bitOf (2 : W32) 1 = true ∧ bitOf (1 : W32) 1 = false ∧ live.anyRunning = false ∧
    (withCell running).anyRunning = true ∧
    (let s := servoAt { Servo.reset with state := .locked, slave := some (0, 0) }
     s.portsLive = true ∧ s.ptpEnabled = true ∧ s.ports.servo.slave = some (0, 0) ∧
       s.ports.servo.heardAt + announceNs ≤ s.now ∧ s.ports.servo.state = .locked) ∧
    (let s := (servoAt { Servo.reset with state := .holdover, holdAt := some 0 }).setReg (aTIME + 0x28) 999
     s.ports.servo.holdAt = some 0 ∧ s.ports.servo.lost = false ∧ s.ports.servo.state = .holdover ∧
       0 + (s.reg (aTIME + 0x28)).toNat * 1_000_000 < s.now) ∧
    (let a := aCMP 15
     live.rbit (a + 0xC) 0 = false ∧ (live.applyWrite (a + 0xC) 1).cmpDiff 15 ≤ 0 ∧
       0 < (({ live with clk := 1 } : State).applyWrite (a + 0xC) 1).cmpDiff 15 ∧
       (live.setReg (a + 0xC) 1).rbit (a + 0xC) 0 = true ∧ 0 ≤ live.cmpDiff 15 ∧ (live.setReg a 1).cmpDiff 15 < 0 ∧
       live.rf (a + 8) 29 0 = 0 ∧ (live.setReg (a + 8) 1).rf (a + 8) 29 0 ≠ 0) ∧
    (let s := { live with ports := { live.ports with pps0 := some 5, pps1 := some 6, armed := [(7, 0)] } }
     s.ports.pps0 = some 5 ∧ s.ports.pps1 = some 6 ∧ 6 ≤ s.now ∧ (7, 0) ∈ s.ports.armed ∧
       (s.setReg (aCAP 7 + 8) 2).rf (aCAP 7 + 8) 3 1 = 1) := by decide +kernel

-- Firmware, mailboxes, tests, the Summit register, starts and resets (O52 to O60).

def image (svn : Nat) : FwImage := ⟨List.replicate 48 7, svn⟩
def banked (v : FwState) : State :=
  { live with sec := { live.sec with bankB := some (image 3), activeB := false, fw := v, actAt := 990_000_000 } }
/-- A FW_UPDATE of an action on the admin ring. -/
def update (act : Nat) (size : Nat) : Desc := jobDesc [(0, 0x32), (4, act), (7, size)]

/-- O52: the watchdog is past 4 ms and within it; STAGE, ACTIVATE and DISCARD pass their checks. -/
theorem test_hyps_watchdog : (live.portsLive = true ∧ live.activating = false ∧ live.sec.heartbeatAt + 4_000_000 ≤ live.now ∧
      (let s := live.setSec (fun x => { x with heartbeatAt := live.now - 3_999_999 })
       s.now < s.sec.heartbeatAt + 4_000_000)) ∧
    (∀ e ∈ [(1, 4096, FwState.idle), (1, 33_554_432, .staged), (2, 0, .staged), (3, 0, .staged), (3, 0, .idle)],
      let d := update e.1 e.2.1
      let s := onRing (banked e.2.2) 0 d
      s.awake = true ∧ s.nextStart 0 = some d ∧ d.op = 0x32 ∧ s.fwBad d.words = none ∧ wfield d.words 4 7 0 = e.1) := by
  decide +kernel

/-- An image of no bytes as it is read, of a security version number. -/
def read0 (svn : Nat) : FwRead := ⟨true, ⟨sha256 [], 0, svn, [], [], []⟩, []⟩
/-- O52: an image that is staged where its signature verifies, and one rejected with each cause; an activation in time and
past 250 ms. -/
theorem test_hyps_read (hc : Config.certified live.fuses.rootKey [] [] = true)
    (hv : ∀ n, Config.ecdsaVerify [] (Config.signedHeader (sha256 []) 0 n) [] = true) :
    (read0 63).cause live.fuses = 0 ∧ ({ read0 3 with body := [1], header := { (read0 3).header with size := 1, digest := [] } }
      : FwRead).cause live.fuses = 1 ∧ (read0 3).cause { live.fuses with minSvn := 4 } = 2 := by
  have h (f : Fuses) (n : Nat) (hf : f.rootKey = live.fuses.rootKey) : (read0 n).header.signed f.rootKey = true := by
    simp only [FwHeader.signed, hf, read0, hc, hv, Bool.and_self]
  have g (n : Nat) (hn : n ≤ 63) : (read0 n).formOk = true := by simp [FwRead.formOk, read0, hn]
  have e (f : Fuses) (n : Nat) (hf : f.rootKey = live.fuses.rootKey) (hn : n ≤ 63) :
      (read0 n).cause f = if n < f.minSvn then 2 else 0 := by
    have r : (read0 n).readOk = true := rfl
    have d : (decide ((read0 n).header.digest = sha256 (read0 n).body)) = true := decide_eq_true rfl
    simp only [FwRead.cause, r, g n hn, h f n hf, d]
    rfl
  refine ⟨?_, ?_, ?_⟩
  · rw [e live.fuses 63 rfl (by decide)]; decide +kernel
  · have d : ¬[] = sha256 [1] := by
      intro x
      have := congrArg List.length x
      rw [length_sha256] at this
      exact absurd this (by decide)
    simp only [FwRead.cause, FwRead.formOk, read0, decide_eq_false d, Bool.and_false]
    rfl
  · exact (e { live.fuses with minSvn := 4 } 3 rfl (by decide)).trans rfl
theorem test_hyps_updates : ((banked .staging).sec.fw = .staging ∧ (banked .staging).fuses.minSvn = 0 ∧
      (read0 64).cause live.fuses = 3 ∧ ({ read0 3 with body := [0] } : FwRead).cause live.fuses = 3 ∧
      ({ read0 3 with readOk := false } : FwRead).cause live.fuses = 4) ∧
    (let s := banked .activating
     s.awake = true ∧ s.activating = true ∧ s.sec.inactive = some (image 3) ∧ s.now ≤ s.sec.actAt + 250_000_000 ∧
       (let t := { s with now := 1_240_000_000 }; t.sec.actAt + 250_000_000 ≤ t.now)) ∧
    (banked .staged).sec.fw ≠ .activating := by decide +kernel

def boxed (fn : Nat) (v : SpdmStage) (l : List Session) : State := { live with numVfs := 64 }.setBox fn ⟨v, l⟩
def sess (i : Nat) (e : Bool) : Session := ⟨i, e, 0, 0⟩

/-- O54: mailboxes of the physical function and of the last virtual one at each stage, with no session, with one of either
kind, and with four; a partition's environment at each state. -/
theorem test_hyps_mailboxes :
    ((boxed 64 .start []).up = true ∧ (boxed 64 .start []).numVfs = 64 ∧ ((boxed 0 .versioned []).box 0).stage = .versioned ∧
      ((boxed 64 .capable []).box 64).stage = .capable ∧ ((boxed 64 .negotiated []).box 64).stage = .negotiated ∧
      (boxed 0 .negotiated []).activating = false ∧ (banked .activating).activating = true ∧
      (live.part 0).state ≠ .running ∧ (live.part 0).state ≠ .stopped) ∧
    (let m := (boxed 64 .negotiated ((List.range 4).map (fun i => sess i true))).box 64
     (∀ i < 4, m.sessions.any (fun x => decide (x.id = i)) = true)) ∧
    (let m := (boxed 64 .negotiated [sess 0 false, sess 1 true]).box 64
     (m.sessions.any (fun x => decide (x.id = 2)) = false ∧ (∀ j < 2, m.sessions.any (fun x => decide (x.id = j)) = true) ∧
       m.sessions.find? (fun y => decide (y.id = 0) && decide (y.established = false)) = some (sess 0 false) ∧
       m.sessions.find? (fun y => decide (y.id = 1) && decide (y.established = true)) = some (sess 1 true))) ∧
    (boxed 0 .negotiated [sess 3 true]).hasSession 0 3 = true ∧ (boxed 0 .negotiated [sess 3 false]).hasSession 0 3 = false ∧
    (∀ v ∈ [0, 1, 2, 3], let s := (running3 { part3 with tsp := v }).setBox 4 ⟨.negotiated, [sess 0 true]⟩
      s.up = true ∧ (s.part 3).state = .running ∧ (s.box (3 + 1)).sessions.any (fun x => x.established) = true ∧
        (s.part 3).tsp = v) := by decide +kernel

/-- O54: the image a measurement of a virtual function's mailbox shows is its own partition's. -/
theorem test_hyps_attest : 0 < 64 ∧
    (match (boxed 64 .negotiated []).attest 64 (.measurements 1 false []) with | .measurements _ _ => true | _ => false) =
      true := by decide +kernel

/-- O55: the oldest unit of its island, a spare, and a unit that a partition owns. -/
theorem test_hyps_background : live.awake = true ∧ live.power.withheld = false ∧ live.oldest (.unit vde5) = true ∧
    live.eligible (.unit vde5) = true ∧ (running3 part3).eligible (.unit ⟨0, .tile, 0⟩) = false := by decide +kernel

/-- A SELFTEST of a kind, of class 0 and number 5, for one run, with its result at host address 0. -/
def selfTest (kind : Nat) : Desc := jobDesc [(0, 0x31), (4, kind), (5, if kind = 2 then 0 else 5), (6, 1)]
def testing (kind : Nat) (l : List KatTarget) : SelfTest :=
  { idx := 0, kind := kind, targets := l, runs := 1, done := 0, total := 1, passed := 0, failed := 0, abandoned := 0, declared := false,
    retired := false, vbin := 0, tbin := 0, margin := none }

/-- O55: each kind of SELFTEST starts; one under way on an eligible unit and on one that is not; and one past 60 s. -/
theorem test_hyps_selftests :
    (∀ k ∈ [1, 2, 3, 4], let d := selfTest k
      let s := onRing (windowed live) 0 d
      s.awake = true ∧ s.nextStart 0 = some d ∧ d.op = 0x31 ∧ d.idx = 0 ∧ descFail d.words (s.selfTestChecks d.words) = none ∧
        wfield d.words 4 7 0 = k ∧ s.requestRetired d.words = false ∧ s.windowOk 0x7F (wpair d.words 8) 32 = true ∧
        s.units.selfTests.length < 16) ∧
    (∀ k ∈ [1, 2, 3, 4], ∀ p ∈ [Part.reset, part3], let g := KatTarget.unit ⟨0, .tile, 0⟩
      let q := testing k [g]
      let s := onRing ({ running3 p with now := 61_000_000_000, clk := 61_000_000_000, units :=
        { live.units with selfTests := [q] } } : State) 0 { selfTest k with started := true }
      s.nextStart 0 = none ∧ s.selfTest 0 = some q ∧ q.targets[q.done / q.runs]? = some g ∧
        (s.eligible g = true ↔ p.state = .disabled) ∧
        (s.ring 0).descs.find? (fun d => decide (d.idx = 0) && decide (d.op = 0x31) && !d.done) =
          some { selfTest k with started := true } ∧
        (selfTest k).arrival + 60_000_000_000 ≤ s.ptp) := by decide +kernel

def evt (code : Nat) : SummitEvt := ⟨code, 1, 2, -5, 9⟩
def summitOf (l : List SummitRec) (h : List SummitEvt) : State :=
  { live with summit := ⟨l, false, h⟩ }

/-- O56: a register that is off, on, frozen, frozen with as many events as it holds, with a record like an event and with
one unlike it. -/
theorem test_hyps_summit : live.up = true ∧ (live.setReg aEVR 0).rbit aEVR 0 = false ∧ live.rbit aEVR 1 = false ∧
    ((live.setReg aEVR 3).rbit aEVR 0 = true ∧ (live.setReg aEVR 3).rbit aEVR 1 = true) ∧
    (summitOf [] []).summit.held.length < 256 ∧ 256 ≤ (summitOf [] (List.replicate 256 (evt 1))).summit.held.length ∧
    (summitOf [SummitRec.first1 (evt 1)] []).summit.recs = [] ++ [SummitRec.first1 (evt 1)] ∧
    (SummitRec.first1 (evt 1)).same (evt 1) = true ∧ (SummitRec.first1 (evt 1)).same (evt 2) = false := by decide +kernel

/-- O56: the records may fill the register. -/
theorem test_hyps_summit_full (l : List SummitRec) (h : l.length = 262_143) :
    (summitOf (l ++ [SummitRec.first1 (evt 1)]) []).summit.recs = l ++ [SummitRec.first1 (evt 1)] ∧
      262_144 ≤ (summitOf (l ++ [SummitRec.first1 (evt 1)]) []).summit.recs.length ∧ ∃ k : List SummitRec, k.length = 262_143 := by
  refine ⟨rfl, ?_, List.replicate 262_143 (SummitRec.first1 (evt 1)), List.length_replicate⟩
  show 262_144 ≤ (l ++ [SummitRec.first1 (evt 1)]).length
  rw [List.length_append, h]; decide

def poweredAt (p : PowerPhase) (b : BootStage) : State :=
  { live with power := { live.power with phase := p, stage := b, inReset := false, coldRstN := false, perstN := false } }

/-- O57: the states of a start, in order, with a good bank, with only the other bank good, and with none. -/
theorem test_hyps_start : State.reset.power.auxOk = false ∧
    (let s := poweredAt .auxUp .fuseLoad; s.power.phase = .auxUp ∧ s.power.fail = 0 ∧ s.power.thermTrip = false) ∧
    (poweredAt .regulating .fuseLoad).power.phase = .regulating ∧
    (let s := { live with power := { (poweredAt .good .fuseLoad).power with inReset := true } }
     s.power.phase = .good ∧ s.power.stage = .fuseLoad ∧ s.power.inReset = true ∧ s.power.warmRstN = true) ∧
    (let s := poweredAt .good .selfTest
     s.power.stage = .selfTest ∧ s.power.inReset = false ∧ s.power.fail = 0 ∧ s.ropeState ≠ 1) ∧
    (∀ v ∈ [false, true], ∀ a ∈ [none, some (image 3)], ∀ b ∈ [none, some (image 63)],
      let s := poweredAt .good .boot
      let t := { s with sec := { s.sec with bankA := a, bankB := b, activeB := v } }
      t.power.stage = .boot ∧ t.power.inReset = false ∧ t.sec.activeB = v ∧ t.sec.bankA = a ∧ t.sec.bankB = b ∧
        t.fuses.minSvn ≤ 3 ∧ 63 ≤ 63) := by decide +kernel

/-- O57, O58, O59: a running device, which may be reset for any cause; a trip just at its limits and just below them; a pulse
just below 95 °C and at it. -/
theorem test_hyps_resets : (live.power.phase = .good ∧ live.power.auxOk = true ∧ live.power.thermTrip = false ∧
      live.power.stage = .running ∧ live.up = true ∧ live.canon = true ∧
      ({ live with power := { live.power with thermTrip := true } } : State).power.thermTrip = true) ∧
    ((8 * 115 ≤ (920 : Int) ∨ 8 * 110 ≤ (0 : Int)) ∧ (8 * 115 ≤ (0 : Int) ∨ 8 * 110 ≤ (880 : Int)) ∧
      (919 : Int) < 8 * 115 ∧ (879 : Int) < 8 * 110 ∧ 8 * 95 ≤ (760 : Int) ∧ (759 : Int) < 8 * 95) ∧
    ((roped live).ropeState ≠ 0 ∧ (roped live).power.strapRopeOff = false) ∧
    (aSEC + 0x100 ≤ aWIN 0 ∧ aWIN 0 < aSEC + 0x5000 ∧ live.enabled 63 = false) := by decide +kernel

def standing (v : StandbyState) : State := { live with power := { live.power with standby := v } }

/-- O60: a request that is quiet and one that is not, the entry, standby, the wake, and words the management interface reads. -/
theorem test_hyps_standby : live.up = true ∧ bitOf (0x10 : W32) 4 = true ∧ live.power.standby = .running ∧ live.allQuiet = true ∧
    (running3 part3).power.standby = .running ∧ (running3 part3).allQuiet = false ∧
    (∀ v ∈ [StandbyState.entering, .standby, .waking], (standing v).up = true ∧ (standing v).power.standby = v) ∧
    bitOf (0x2 : W32) 4 = false ∧ live.power.auxOk = true ∧ live.mgmtWord 0 = some live.idPart ∧ 0x59 ≠ 0x58 + live.power.strapAddr := by
  decide +kernel

-- Worked examples of the spec.

/-- 02 R69: 2.70, −2.70, 0.03 and 1.00 in FP32 stored to INT8 with scale 2⁻⁴, toward zero. -/
theorem test_store_int8 : (([0x402C_CCCD, 0xC02C_CCCD, 0x3CF5_C28F, 0x3F80_0000].map (fun w => (storeElem 2 (-4) (f32 w)).bits)) =
    [43, wrapOf 8 (-43), 0, 16]) := by decide +kernel

/-- 02 R69: 24, 40, 56, −24 and 41 narrowed by a right shift of 4, nearest even. -/
theorem test_narrow : [(24 : Int), 40, 56, -24, 41].map (fun v => roundInt .near (decide (v < 0)) v.natAbs (-4)) = [2, 2, 4, -2, 3] := by
  decide +kernel

/-- 02 R69, R71: FP32 to BF16 by nearest even, and 65,510 to FP16, which is not a saturation. -/
theorem test_store_near : [0x3F80_8000, 0x3F81_8000, 0x3F80_8001].map (fun w => (bf16.store .near (f32 w)).bits) =
      [0x3F80, 0x3F82, 0x3F81] ∧
    fp16.store .near (.fin false 65_510 0) = ⟨0x7BFF, false, false⟩ := by decide +kernel

/-- 02 R75: an E4M3 group of max-abs 150 rescales from 2⁻² to 2⁻¹, and 150 is then stored as 288. -/
theorem test_rescale : (fp8e4m3.store .zero (FVal.scale (.fin false 150 0) 2)).sat = true ∧ fitExp 150 0 448 0 = -1 ∧ expCode (-1) = 0x7E ∧
    fp8e4m3.decode (fp8e4m3.store .zero (FVal.scale (.fin false 150 0) 1)).bits = .fin false 9 5 := by decide +kernel

/-- Compare unit 3 with a target and a period of 1,000 ns. -/
def unit3 (sec ns clk : Nat) : State :=
  let a := aCMP 3
  { (((live.setReg a (lo32 ns)).setReg (a + 4) (lo32 sec)).setReg (a + 8) 1_000).setReg (a + 0xC) 1 with clk := clk }
/-- What a CMP_FIRE of unit 3 leaves as its target. -/
def target3 (s : State) : Option (Nat × Nat) :=
  match exec (.cmpFire 3) s with
  | .next t => some ((t.reg (aCMP 3 + 4)).toNat, (t.reg (aCMP 3)).toNat)
  | _ => none

/-- 12 R427: a period across the seconds carry waits, fires, waits and fires. -/
theorem test_period_carry : target3 (unit3 0x41 999_999_500 (0x41 * 10 ^ 9 + 999_999_499)) = some (0x41, 999_999_500) ∧
    target3 (unit3 0x41 999_999_500 (0x41 * 10 ^ 9 + 999_999_500)) = some (0x42, 500) ∧
    target3 (unit3 0x42 500 (0x42 * 10 ^ 9 + 499)) = some (0x42, 500) ∧
    target3 (unit3 0x42 500 (0x42 * 10 ^ 9 + 500)) = some (0x42, 1_500) := by decide +kernel

-- Further hypotheses of O12 to O31.

/-- A BF16 product of one row, one column and eight elements. -/
def miMM : List W32 := mi [(0, 0xC_AA10), (1, 0x101), (2, 8)]

/-- O13: a product that decodes and streams, one whose format no rule allows, and a list that issues in order. -/
theorem test_hyps_products :
    live.power.withheld = false ∧ (kern []).kind = .run ∧ miOp miMM ≠ 0x01 ∧ miChained miMM = false ∧
    (InsRec.fresh 0 0 0 miMM 0).counted = false ∧
    (match (withKern (kern [])).decodeIns ((kern []).site 0 0) miMM with
      | .ok _ ix e => decide (ix = []) && decide (e = 0) | _ => false) = true ∧
    (withKern (kern [])).streamFail ((kern []).site 0 0) miMM ⟨[], 0, miFmtA miMM⟩ [] = none ∧
    (match (withKern (kern [])).decodeIns ((kern []).site 0 0) (mi [(0, 0x10), (1, 0x101)]) with
      | .fail _ => true | _ => false) = true ∧
    (let k : Kernel := { kern [InsRec.fresh 0 0 0 miMM 0] with kind := .mlist }
     k.tiles[0]? = some (0, 0) ∧ (0 < k.count ∧ (0 = 0 ∨ (k.insAt 0).isSome = true)) ∧ 1 < k.count ∧
       (k.insAt (1 - 1)).isSome = true) := by decide +kernel

/-- O14, O15: a second mismatch of a run already repeated; a unit whose second mismatch is lasting, which takes its run
with it; the commit that ends a program, one that does not, and a statistics record that is due. -/
theorem test_hyps_boundaries :
    (let q : InsRec := { drained (mi [(0, 0x4000_1110), (1, 0x8181), (2, 0x2_0008)]) with rerun := true, runs := 1 }
     let s := withKern (kern [q])
     (ckCompare q.words q.block (flipRun 1 1 [] false [upset 1] q.re) (flipRun 1 1 [] true [upset 1] q.im)).bad = true ∧
       (match (((s.checksumEvent ⟨0, .tile, 0⟩ q.words).kernel 0).bind (fun y => y.insAt 0)) with
        | some p => decide (p.phase ≠ .abandoned) && decide (p.phase ≠ .queued) && decide (p.tile = q.tile)
        | none => false) = true) ∧
    (let r := inPhase miMM .held
     let k := kern [r]
     let s := withKern k
     k.turnOf r = true ∧ statsDue r.words r.chain = false ∧ s.storesFail none (r.stores ++ s.statStores (k.site 0 0) r) = none ∧
       (match ((s.applyStores none r.stores).putIns 0 { r with phase := .committed, stores := [] }).kernel 0 with
        | some y => decide (y.kind ≠ .mlist) && y.ins.all (fun q => decide (q.phase = .committed))
        | none => false) = true) ∧
    (let r := inPhase (mi [(0, 0x10), (1, 0x200_0101)]) .held
     statsDue r.words r.chain = true ∧ (withKern (kern [r])).locUe ((kern [r]).site 0 0) (miCode r.words .stats)
       (miOff r.words .stats) 32 = none) ∧
    (let r := inPhase miMM .held
     let s : State := { withKern (kern [r]) with ue := [0] }
     s.storesFail none [⟨.stack, 0, 0, [1]⟩] ≠ none) := by decide +kernel

/-- The servo has been past its holdover since an instant of the local clock. -/
def lostSince (t : Nat) (s : State) : State :=
  { s with ports := { s.ports with servo := { s.ports.servo with lost := true, lostAt := t } } }

/-- O16: a body that no TLV fills, a configuration with a subcarrier spacing that no cell has, one that no die of an empty
pool takes; cells in each state that START and STOP find, a START while one is pending. -/
theorem test_hyps_cell_refusals :
    ({ fapi := none, device := [] } : ConfigBody).isRelease = false ∧ ({ fapi := none, device := [] } : ConfigBody).cfg = none ∧
    (pooled radioOn).configOk 5 { g0 with fapi := { fapi0 with scs := 45 } } = false ∧
    (let s := ((radioOn.setReg (aALLOW 0 + 8) 0x8005_0001).setReg (aALLOW 0) 7)
     s.configOk 5 g0 = true ∧ (∃ k < 7, s.cap 0 k [] < g0.prices.bu.getD k 0)) ∧
    (let s := withCell { Cell.reset with state := .configured, startAt := some 20_002 }
     (s.cell 5).state = .configured ∧ (s.cell 5).startAt.getD (g0.slotAhead s.clk 16) = 20_002 ∧ s.ports.servo.state = .locked) ∧
    ((withCell Cell.reset).cell 5).state ≠ .configured ∧ ((withCell running).cell 5).state = .running ∧
    (let x : Cell := { Cell.reset with state := .configured }
     x.state ≠ .running ∧ x.state ≠ .shedding ∧ x.busy = false ∧ running.busy = true) := by decide +kernel

/-- O18: a slot whose requests came late, one whose handles no estimate serves, a C-plane time that holdover exceeded or a
link that is down reaches, with all of the slot to come and with nothing of it. -/
theorem test_hyps_downlink_gone :
    (let w := { slotOf 20_001 with dl := some [pdsch0], lateDl := true }
     (w.lateDl || w.dlPdus.isEmpty) = true) ∧
    (let p : DlPdu := { pdsch0 with precoding := 0xFFFF, srsHandles := [3] }
     running.handlesOk 0 p = false) ∧
    (let w := { slotOf 20_001 with dl := some [pdsch0], data := [(0, [1])], started := true }
     let s := (withCell (withWork w)).setReg (aPORTn 0 + 4) 1
     s.outage g0 (g0.cplaneTime 20_001) = none ∧ (lostSince 0 s).outage g0 (g0.cplaneTime 20_001) = none ∧
       (lostSince 0 { s with clk := g0.cplaneTime 20_001 }).outage g0 (g0.cplaneTime 20_001) = some 3 ∧
       ({ s with clk := g0.cplaneTime 20_001 }.setReg (aPORTn 0 + 4) 0).outage g0 (g0.cplaneTime 20_001) = some 2 ∧
       s.unserved 5 w false ≠ 0 ∧ s.unserved 5 (slotOf 20_001) false = 0) := by decide +kernel

/-- O19: the last window of a slot closes, in an outage or not; steps within their bounds and past them; a symbol of which
some estimate or some transform waits, and one of which none does. -/
theorem test_hyps_uplink_ends :
    (let w := { slotOf 19_998 with ul := some [pusch0], closed := List.range 13 }
     13 ∉ w.closed ∧ g0.closeTime 19_998 13 < radioOn.clk ∧ 13 = w.lastUl ∧ w.ulDone = false ∧
       (lostSince 0 (withCell (withWork w))).outage g0 (g0.closeTime 19_998 13) = some 3 ∧
       ((withCell (withWork w)).setReg (aPORTn 0 + 4) 1).outage g0 (g0.closeTime 19_998 13) = none) ∧
    (let e : LsEst := ⟨0, 2, some 0, 12, []⟩
     let w := { slotOf 19_998 with ul := some [pusch0], ls := [e] }
     (∃ e ∈ w.ls, e.sym = 2) ∧ ∀ e ∈ w.ls, e.sym ≠ 5) ∧
    (let w := { slotOf 19_998 with ul := some [pusch0], closed := [2] }
     w.lateUl = false ∧ 2 ∉ w.lsSyms ∧ 2 ∈ w.dmrsSyms ∧
       w.arrived g0 2 + byScs g0.scs 80_000 40_000 10_000 < 20_000_000_000 ∧
       ¬w.arrived g0 2 + byScs g0.scs 80_000 40_000 10_000 < 1) ∧
    (let w := { slotOf 19_998 with ul := some [pusch0], estSyms := [2], estAt := 5 }
     w.estAt + byScs g0.scs 120_000 60_000 15_000 < radioOn.clk) ∧
    (let w := { slotOf 19_998 with ul := some [pusch0], weights := some [], weightsAt := radioOn.clk, closed := [3] }
     3 ∉ w.eqSyms ∧ radioOn.clk ≤ max w.weightsAt (w.arrived g0 3) + byScs g0.scs 80_000 40_000 10_000 ∧
       max { w with weightsAt := 0 }.weightsAt (w.arrived g0 3) + byScs g0.scs 80_000 40_000 10_000 < 20_000_000_000) := by
  decide +kernel

/-- O19: estimates of a PUSCH and of an SRS and rows of a transform-precoded PUSCH wait for an FFT engine; all symbols
combined, with soft bits lost and not; results of a slot that was noticed. -/
theorem test_hyps_uplink_engines :
    (let e : LsEst := ⟨0, 2, some 0, 12, []⟩
     let f : LsEst := ⟨0, 13, none, 12, []⟩
     let q : EqRows := ⟨0, 3, []⟩
     let w := { slotOf 19_998 with ul := some [pusch0], ls := [e, f], eqRows := [q] }
     (pooled (withCell (withWork w))).l1Engine ⟨0, .fft, 0⟩ = true ∧ w.lateUl = false ∧
       w.ulPdus.find? (fun p => decide (p.index = 0)) = some pusch0 ∧
       w.ls.find? (fun e => decide (e.index = 0) && decide (e.sym = 2)) = some e ∧ e.occ = some 0 ∧
       w.ls.find? (fun e => decide (e.index = 0) && decide (e.sym = 13)) = some f ∧ f.occ = none ∧
       w.ls.find? (fun e => decide (e.index = 0) && decide (e.sym = 3)) = none ∧
       w.eqRows.find? (fun e => decide (e.index = 0) && decide (e.sym = 3)) = some q) ∧
    (let w := { slotOf 19_998 with ul := some [pusch0], closed := List.range 14, eqSyms := List.range 14 }
     w.ul.isSome = true ∧ w.soft = none ∧ w.eqRows = [] ∧ (∀ p ∈ w.pusch, ∀ k ∈ p.dataSyms, k ∈ w.eqSyms) ∧
       (∀ p ∈ w.ulPdus, ∀ k ∈ symRange p.sym, w.ready g0 k = true) ∧
       g0.closeTime 19_998 w.lastUl + byScs g0.scs 150_000 100_000 50_000 < 20_000_000_000) ∧
    (let w := { slotOf 19_998 with ul := some [pusch0], soft := some [⟨0, [], false⟩] }
     w.decodedAll = true ∧ (withWork w).ulInOrder 19_998 = true ∧ w.noticedUl = false ∧
       w.softAt + byScs g0.scs 900_000 600_000 300_000 < radioOn.clk) := by decide +kernel

/-- O20: a first transmission that the budget holds and one that it does not, and a process of which nothing was stored. -/
theorem test_hyps_harq_overflow :
    (let x := { running with harq := [(⟨2, 0, true, [[1]], 90, false⟩ : HarqProc)] }
     let mine : HarqProc → Bool := fun e => decide (e.ue = pusch0.ue) && decide (e.proc = pusch0.harq % 16)
     x.harq.find? mine = none ∧ (((x.harq.filter (fun e => !(mine e))).map (fun e => e.bytes)).sum = 90) ∧
       90 + pusch0.softBytes ≤ 100_000 ∧ 100 < 90 + pusch0.softBytes) ∧
    (let e : HarqProc := ⟨1, 0, true, [], 0, true⟩
     ({ running with harq := [e] }.harq.find? (fun e => decide (e.ue = pusch0.ue) && decide (e.proc = pusch0.harq % 16)))
       = some e ∧ e.ndi = pusch0.ndi ∧ e.overflow = true) := by decide +kernel

/-- O31: a downlink whose C-plane waits on an outage; missing channels with holdover exceeded, a link down, a frame lost
with its link, and none of these. -/
theorem test_hyps_commit_causes :
    (let w := { slotOf 19_990 with ul := some [pusch0] }
     let s := (withCell (withWork w)).setReg (aPORTn 0 + 4) 1
     g0.closeTime 19_990 w.lastUl ≤ s.clk ∧ (lostSince 7 s).ports.servo.lost = true ∧ 7 ≤ g0.closeTime 19_990 w.lastUl ∧
       s.ports.servo.lost = false ∧ (s.setReg (aPORTn 0 + 4) 0).linkUp g0.port g0.sub = false ∧
       (s.sub g0.port g0.sub).downAt ≤ g0.closeTime 19_990 w.lastUl ∧ s.linkUp g0.port g0.sub = true ∧
       s.missCause g0 w true = 1 ∧ s.missCause g0 { w with linkLost := true } true = 2 ∧
       s.clk + 20_000 < g0.deadline { slotOf 20_003 with ul := some [pusch0] } true) := by decide +kernel

-- Further hypotheses of O23 to O30: the clauses of failures, waits and bounds.

/-- O23: an engine whose save area meets an uncorrectable block. -/
theorem test_hyps_resume_media :
    (let s := { selected (engineWith (opWord 0x71 0) (fun e => { e with halted := true })) with ue := [0] }
     (s.vde 0 3).halted = true ∧ (s.vde 0 3).loopsOk 1 = true ∧ (s.locUe ((kern []).site 0 3) 0 0 8448).isSome = true) := by
  decide +kernel

/-- O24: words that fail, an access past the ledge region, and a record that no access reaches. -/
theorem test_hyps_accel_failures :
    (let k := accelKern .fft (accelCmd 1 [])
     accelAt 2 .fft k ∧ (cmdBad k.cmd (fftChecks k.cmd)).isSome = true) ∧
    (let k := accelKern .fft (accelCmd 1 [(2, 0xFFFF_FFFF), (5, 0x1_000C)])
     let s := withKern k
     let x := k.site 0 0
     cmdBad k.cmd (fftChecks k.cmd) = none ∧
       (s.cmdFail x ((fftReads k.cmd).map (fun r => ((cmdIn k.cmd).1, (cmdIn k.cmd).2 + r.1, r.2))) []).isSome = true) ∧
    (let k := { accelKern .fft (accelCmd 1 [(4, 0xFFFF_FFFF), (5, 0x1_000C)]) with res := some (mi [], Result.of .success) }
     ((withKern k).writeFail (k.site 0 0) (cmdRes k.cmd).1 (cmdRes k.cmd).2 (wordsBytes (mi []))).isSome = true) := by
  unfold accelAt; decide +kernel

/-- O25: words that fail, a unit that the device does not have, units that are taken, a slot without an image, a package
that does not open, and a slot with a request that was not yet started. -/
theorem test_hyps_job_failures :
    (let ws := (mi [(0, 0x04), (1, 3), (13, 1)]).take 16
     live.unitDescBad none ws true = some 14 ∧
       (match live.unitRef none 192 .tile with | .bad => true | _ => false) = true ∧
       (engineWith (opWord 0x71 0) id).unitTakes none .oplist ⟨0, .vde, 3⟩ = false) ∧
    (let s := withImage parted
     runBad ((mi [(0, 0x2_0003), (1, 0x1_0000)]).take 16) (s.ctx 3 0) (s.batchMax 3 0) = some 0 ∧
       runBad ((mi [(0, 0x03), (1, 0x2_0000)]).take 16) (s.ctx 3 0) (s.batchMax 3 0) = some 1) ∧
    (live.fuses.unseal live.sec.running []).good = false ∧ (live.fuses.unseal live.sec.running []).unwrapped = false ∧
    (running3 part3).weightsUe (some (3, 0)) [(4096, 64)] = none ∧
    (running3 part3).weightsFail (some (3, 0)) [(4096, 64)] (List.replicate 64 1) = none ∧
    (let d := { jobDesc [(0, 0x02)] with started := true }
     let s := (withImage parted).setRing 12 { (withImage parted).ring 12 with descs := [runDesc, { d with idx := 1 }] }
     s.slotBusy 3 0 d.arg = true) := by decide +kernel

/-- O28: a sample within 100 µs of the first low one, an island outside the hold, an island lowered less than 1 ms ago, a
throttled one lowered less than 10 µs ago, one at its ceiling, and samples on both sides of the limit in each step. -/
theorem test_hyps_governor_waits :
    (let x := { heldIsland with lowSince := some (live.now - 99_999) }
     x.serves = true ∧ ((islandIs x).emerg 1).islands.testBit 7 = false ∧ live.now < live.now - 99_999 + 100_000) ∧
    (islandIs Island.reset).island 1 7 = Island.reset ∧ Island.reset.hold = false ∧
    (let x := { heldIsland with pace := lowerPace, highRun := 1000, loweredAt := live.now - 999_999 }
     ¬(x.pace < raisePace ∧ x.mv < 800) ∧ ¬(x.loweredAt = 0 ∨ x.loweredAt + 1_000_000 ≤ live.now)) ∧
    (let x := { Island.reset with mv := 605, temp := live.profile.2.2 + 1, loweredAt := live.now - 9_999 }
     x.mv ≤ live.profile.1 ∧ live.now < x.loweredAt + 10_000) ∧
    (let x := { Island.reset with mv := live.profile.1 }
     x.mv ≤ live.profile.1 ∧ ¬(live.profile.2.1 < live.rf aPWR 15 0 ∨ live.profile.2.2 < x.temp)) ∧
    (∀ k ∈ [2, 3], let s : State := { pooled live with power := { live.power with limitStep := k } }
      s.power.phase = .good ∧ s.canon = true ∧ 2 ≤ s.power.limitStep ∧ (s.island 0 0).serves = true) ∧
    (live.canon = true ∧ 14_999 < 15_000 ∧ 15_000 ≤ 15_000) := by decide +kernel

/-- With no weak and no uncorrectable block a save leaves none. -/
theorem save_clean (s : State) (p c : Nat) (h : s.ue = [] ∧ s.weak = []) : (s.saveContext p c).ue = [] := by
  have w : ∀ (ps : List Range) (t : State) (bs : List Byte), t.ue = [] ∧ t.weak = [] →
      (t.writePieces ps bs).ue = [] ∧ (t.writePieces ps bs).weak = [] := by
    intro ps
    induction ps with
    | nil => exact fun t bs h => h
    | cons r rs ih => exact fun t bs h => ih _ _ (by simp [State.putStack, State.writeMem, h])
  have c1 : ∀ (ps : List Range) (src : SMap Byte) (a : State × Nat), a.1.ue = [] ∧ a.1.weak = [] →
      let f := fun (acc : State × Nat) (r : Range) =>
        ({ acc.1 with
          stack := SMap.copyIn byteZero acc.1.stack r.1 src acc.2 r.2
          ue := acc.1.ue.filter (fun b => !(decide (r.1 ≤ 64 * b) && decide (64 * b + 64 ≤ r.1 + r.2)))
          weak := acc.1.weak.filter (fun b => !(blockIn b r.1 r.2)) }, acc.2 + r.2)
      (ps.foldl f a).1.ue = [] ∧ (ps.foldl f a).1.weak = [] := by
    intro ps src
    induction ps with
    | nil => exact fun a h => h
    | cons r rs ih => exact fun a h => ih _ (by simp [h])
  have d : ∀ (t : State) (p o : Nat) (src : SMap Byte) (a n : Nat), t.ue = [] ∧ t.weak = [] →
      (t.copyToPart p o src a n).ue = [] ∧ (t.copyToPart p o src a n).weak = [] := fun t p o src a n h => c1 _ src (t, a) h
  have e : ∀ (l : List (Nat × Nat)) (o : Nat) (a : State × Nat), a.1.ue = [] ∧ a.1.weak = [] →
      let f := fun (acc : State × Nat) (tl : Nat × Nat) =>
        (acc.1.copyToPart p (o + saveStageOff acc.2) acc.1.tileA (stageKey tl.1 tl.2 0) stageBytes, acc.2 + 1)
      (l.foldl f a).1.ue = [] ∧ (l.foldl f a).1.weak = [] := by
    intro l o
    induction l with
    | nil => exact fun a h => h
    | cons r rs ih => exact fun a h => ih _ (d _ _ _ _ _ _ h)
  have f : ∀ (x : State) (y : Ctx) (n : Nat), (((x.setCtx p c y).saveCmds p c).chargeMoves p c n).ue = x.ue := fun _ _ _ => rfl
  have i : ∀ (x : State) (o : Nat) (bs : List Byte), x.ue = [] ∧ x.weak = [] → (x.issuerWrite (some (p, c)) o bs).ue = [] ∧
      (x.issuerWrite (some (p, c)) o bs).weak = [] := fun _ _ _ h => w _ _ _ h
  simp only [State.saveContext]
  rw [f]
  refine (i _ _ _ ?_).1
  refine d _ _ _ _ _ _ ?_
  refine d _ _ _ _ _ _ ?_
  refine e _ _ _ ?_
  exact i _ _ _ h

/-- Where no block is uncorrectable a resume reads all it needs. -/
theorem resume_clean (s : State) (p c : Nat) (h : s.ue = []) : s.resumeUe p c = none := by
  have r : ∀ o n, s.issuerUeRead (some (p, c)) o n = none := by
    intro o n
    unfold State.issuerUeRead State.ueInRead
    rw [h]
    exact List.findSome?_eq_none_iff.2 (fun _ _ => rfl)
  simp [State.resumeUe, r]

/-- O29: a block with a reserved class of counts, a context that is being scrubbed, a used context with a kernel and with none
where every block can be read (`save_clean`, `resume_clean`), and ends that are still to come. -/
theorem test_hyps_lease_waits :
    (lending part3).leaseBad (jobDesc [(0, 0x30), (4, 0x303), (5, 7)]).words = some 4 ∧
    ({ lending part3 with leases := [lease7 .active] } : State).leaseBad (leaseDesc 1).words = some 5 ∧
    (let s : State := { lending { part3 with switch := .scrubbing } with leases := [lease7 .notice] }
     (s.part 3).switch = .scrubbing ∧ s.leaseKernels (lease7 .notice) = [] ∧ s.substHeld 3 = false) ∧
    (let s : State := { lending { part3 with ctxs := [(0, { ctx0 with used := [(0, 5)] })] } with leases := [lease7 .notice] }
     s.leaseUsed (lease7 .notice) = true ∧ s.partKernels 3 = [] ∧ s.ue = [] ∧ s.weak = [] ∧
       ({ s with kernels := [timed] } : State).partKernels 3 ≠ [] ∧
       ({ s with kernels := [timed] } : State).leaseKernels (lease7 .notice) = []) ∧
    (let l := { lease7 .notice with t0 := 1_000_000_000 }
     live.now + 500_000 < l.t0 + l.noticeUs * 1000 ∧ live.now < l.t0 + l.noticeUs * 1000) ∧
    (let s : State := { lending part3 with leases := [lease7 .scrubbed] }
     s.leases.find? (fun l => decide (l.id = 7)) = some (lease7 .scrubbed) ∧ s.leaseKernels (lease7 .scrubbed) = []) := by
  decide +kernel

/-- O30: an island hot for less than 1 ms, a shed slot that is still far, and a shed cell whose last slot has not ended. -/
theorem test_hyps_emergency_waits :
    (let s := islandIs { heldIsland with temp := 900, hotSince := some (live.now - 999_999) }
     (s.island 1 7).hotSince = some (live.now - 999_999) ∧ live.now < live.now - 999_999 + 1_000_000) ∧
    (let x := { running with state := .shedding, shedAt := some 20_100 }
     let s := withCell x
     s.clk + submitLead g0.scs < g0.air 20_100 ∧ s.clk < g0.slotEnd 20_099 ∧ (s.cell 5).stopAt = none) ∧
    (let s := (islandIs { heldIsland with temp := 900 }).setEmerg 1 { live.emerg 1 with kind := .warning }
     s.emergIn 1 .warning = true ∧ s.emergIn 1 .thermal = false ∧ s.shedsDue 1 = [] ∧ live.tempOver 1 live.warnTemp = false) := by decide +kernel

-- Further hypotheses of O33 to O43: the clauses of failures, waits and bounds.

/-- O33, O34: a partition without its virtual function, a device before the end of its boot, a bound partition, a reset that
drains with a kernel; a release that waits for its rings, and scrubs that are not under way. -/
theorem test_hyps_partition_waits :
    (let s : State := { parted with numVfs := 4 }
     3 < s.numVfs ∧ (s.part 3).state = .disabled) ∧
    (let u : State := { live with power := { live.power with stage := .boot } }
     u.up = false ∧ u.power.stage = .boot ∧ u.power.inReset = false) ∧
    (running3 { part3 with state := .running, tsp := 1 }).locked 3 = true ∧
    ((running3 { part3 with state := .resetting }).part 3).state = .resetting ∧
    (let s : State := { running3 { part3 with state := .resetting, stage := .draining } with kernels := [timed] }
     (s.part 3).stage = .draining ∧ s.substHeld 3 = false ∧ s.partKernels 3 ≠ []) ∧
    (let s := running3 { part3 with stage := .releaseScrub }
     (∀ n ∈ s.partRings 3, s.ringOn n = false) ∧
       (let t := (s.setRing 12 { Ring.reset with error := 1 }).setReg (aRINGn 12 + 0x18) (lo32 (2 ^ 31))
        12 ∈ t.partRings 3 ∧ t.ringOn 12 = true)) ∧
    ((running3 part3).part 3).switch ≠ .scrubbing ∧ ((running3 part3).part 3).stage ≠ .scrubbing := by decide +kernel

/-- O35: a kernel of the physical function past its time, one within it, and one within the 300 µs after it. -/
theorem test_hyps_kernel_times :
    (let k := { timed with part := none }
     let s : State := { late3 part3 with kernels := [k] }
     k.part = none ∧ k.overrun = false ∧ queuedIn s.kernels k = false ∧ k.maxUs * 1000 < s.layerNs k) ∧
    (let s : State := { late3 part3 with clk := 1_000_000 }
     s.layerNs timed ≤ timed.maxUs * 1000) ∧
    (let s : State := { late3 part3 with clk := 1_299_999 }
     s.layerNs timed < timed.maxUs * 1000 + 300_000) := by decide +kernel

/-- O36: a quantum that still runs, no save under way, a save that cannot be read, a batch that
still waits, a partition that is not enabled, and a time between two grid points. -/
theorem test_hyps_switch_waits :
    (let s := onRing (running3 { part3 with quantumAt := live.now }) 12 (jobDesc [(0, 0x03)])
     s.now < (s.part 3).quantumAt + s.quantumUs 3 (s.part 3).resident * 1000 ∧ s.ctxReady 3 (s.part 3).resident = true) ∧
    ((running3 part3).part 3).switch ≠ .saving ∧
    (let s := { resuming3 with ue := [0x4_0000] }
     (s.resumeUe 3 0).isSome = true) ∧
    (let s := stackWords (running3 { part3 with ctxs := [(0, { ctx0 with batch := some ⟨live.now, []⟩ })] }) 20 [lo32 0x14_0000]
     (s.ctx 3 0).batch = some ⟨live.now, []⟩ ∧ s.now < live.now + s.batchWaitUs 3 0 * 1000) ∧
    live.enabled 3 = false ∧ ({ radioOn with clk := 10_000_000_001 } : State).clkNs % 10000 ≠ 0 := by decide +kernel

/-- O37: a command whose words fail. -/
theorem test_hyps_semaphore_words : (semBad ((mi [(0, 0x08), (4, 3)]).take 16) ctx0).isSome = true := by decide +kernel

/-- O38: a ring that stops with a descriptor left, and doorbells at the bounds. -/
theorem test_hyps_ring_waits :
    (let s := ringed { held9 with disabling := true, descs := [doneDesc] }
     (s.ring 9).disabling = true ∧ (s.ring 9).descs ≠ []) ∧
    (let s := ringed { held9 with disabling := true, descs := [] }
     s.eventsOwed 9 = false) ∧
    (let s := ringed held9
     s.cqUsed 9 < (field (1 : W32) 15 0 + s.cqSize 9 - (s.ring 9).cqHead) % s.cqSize 9 ∧
       (∀ v ∈ [15, 16], (field (lo32 v) 15 0 < s.sqSize 9 ↔ v = 15))) := by decide +kernel

/-- O39: a ring that may not fetch, a completion of a pace-blind partition between two grid points, one without room in its queue, and an indication that has
waited less than 10 ms. -/
theorem test_hyps_descriptor_waits :
    live.mayFetch 9 = false ∧
    ({ running3 { part3 with blind := true } with clk := 1 } : State).completionDue 12 = false ∧
    (let s := ringed { held9 with descs := [doneDesc], cqTail := 15 }
     s.completionDue 9 = true ∧ s.cqRoom 9 = false) ∧
    (let i : Indication := ⟨0x82, 5, [], live.now - 9_999_999⟩
     live.now < i.since + 10_000_000) := by decide +kernel

/-- O41, O42, O43: links at the bounds; lines of the stack memory with errors; blocks with and without lost bits. -/
theorem test_hyps_links_and_blocks :
    (8 ≤ 8 ∧ 64 ≤ 64 ∧ (4 < 8 ∨ 64 < 64) ∧ (8 < 8 ∨ 32 < 64)) ∧
    (let s : State := { live with ue := [3] }
     s.ueInWrite 192 8 = some 3 ∧ s.ueInWrite 192 64 = none ∧ s.ueInRead 192 8 = some 3 ∧ s.awake = true ∧ s.canon = true ∧
       192 + (List.replicate 8 (1 : Byte)).length ≤ s.memBytes ∧ s.tspBlocks 192 none false = false) ∧
    (let s := withImage (running3 part3)
     let t := s.setPart 3 { part3 with ctxs := [(0, { ctx0 with images := [(0, { image0 with manifest := [(0, 64)] })] })] }
     t.halfOwner (0 / t.halfBytes) = some 3 ∧ (t.protectedHit 3 (t.partOffset 3 0x10_0000) [1]).isSome = true) ∧
    (let s : State := { live with ue := [3], weak := [4] }
     3 ∈ s.ue ∧ 4 ∉ s.ue ∧ 4 ∈ s.weak ∧ 5 ∉ s.ue ∧ 5 ∉ s.weak ∧ 64 * 5 < s.memBytes) := by decide +kernel

-- Further hypotheses of O44 to O48: the clauses of failures, waits and bounds.

/-- O44: words that fail, no port up, a local address past the ledge region and one outside the window, a key table entry that
cannot be read, one that is not valid, a device that is no member, and data that cannot be read. -/
theorem test_hyps_rope_failures :
    (let c := (mi [(0, 8)]).take 16
     (rcBad c).isSome = true) ∧ (rcBad ((mi [(0, 0x17)]).take 16)).isSome = true ∧ (keyed.setReg (aROPE + 0xC) 0).ropeUp = false ∧
    (let x := (kern3 []).site 0 noTile
     (match (keyed.verdict x 10 (2 ^ 31) 64) with | .bad => true | _ => false) = true ∧
     (match (keyed.verdict x 0 (2 ^ 31) 64) with | .fault _ => true | _ => false) = true ∧
     (({ keyed with ue := [0xC0000] } : State).keyUe 3 0 0).isSome = true ∧
     keyed.keyUe 3 0 0 = none ∧ keyed.keyValid 3 0 0 = true ∧ keyed.keyValid 3 0 7 = false ∧
     keyed.targetIn (keyed.keyTarget 3 0 0).device = true ∧
     (keyed.setReg (aROPE + 0x200) 3).targetIn (keyed.keyTarget 3 0 0).device = false ∧
     (let c := (rc 2 0).take 16
      let o := 64 * 0x4000
      (({ keyed with ue := [o / 64] } : State).locUe x (rcLoc c) (rcLocal c) (rcLen c)).isSome = true)) := by decide +kernel

/-- O44: a run that the epilogue accepts, and a block that waits for an earlier commit; replies of each kind to a line that
was sent and to one that was not, to none, and within the 100 µs and the 50 ms. -/
theorem test_hyps_rope_replies :
    (let r := { peerRec .drained with accRe := [] }
     let s := { keyed with kernels := [kern3 [r]] }
     s.recIn 0 0 .drained = some (kern3 [r], r) ∧
       (match State.acceptRun (kern3 [r]) [] 2 s r with
        | .ok u q => (match (u.afterRun (kern3 [r]) q []).recIn 0 0 .drained with
          | some (_, q) => decide (q.accRe ≠ []) | none => false)
        | _ => false) = true) ∧
    (kern3 [{ peerRec .held with idx := 0 }, { peerRec .drained with idx := 1 }]).committedTo 1 = false ∧
    (let rep (st : Status) : RopeReply := (req .load).reply st true []
     let rep' (st : Status) : RopeReply := { rep st with source := 1, device := 2, stack := 0, id := 7 }
     let s := keyed.setRope (fun x => { x with cmds := [cmdTo 2] })
     (∀ st ∈ [Status.success, .staleEpoch, .keyFault], (rep' st).source = s.ropeMember ∧ (rep' st).status = st ∧
       (rep' st).byEpoch = true) ∧
     s.lineOf 2 0 7 = some (cmdTo 2, line0) ∧ line0.sent.isSome = true ∧ (cmdTo 2).device ≠ s.ropeDevice ∧
     s.targetKnown 2 = true ∧ s.targetKnown 3 = false ∧
     s.lineOf 2 0 8 = none) ∧
    (let l := { line0 with sent := none }
     let c := { cmdTo 2 with lines := [l] }
     (keyed.setRope (fun x => { x with cmds := [c] })).lineOf 2 0 7 = some (c, l)) ∧
    live.now < live.now - 99_999 + 100_000 ∧ live.now < live.now - 49_999_999 + 50_000_000 := by decide +kernel

/-- O45: homes in standby whose window holds the answer and whose window does not; a gateway that a stale request reaches. -/
theorem test_hyps_homes_asleep :
    (let s := { keyed with power := { keyed.power with standby := .standby } }
     s.wake.awake = false ∧ (∀ old < 64, (s.window 0 0).verdict 7 ≠ .answered old) ∧ s.awake = false) ∧
    (let s := { (keyed.setRope (fun x => { x with windows := [(0, ⟨[(7, 42, 0)], 0⟩)] })) with
       power := { keyed.power with standby := .standby } }
     (s.window 0 0).verdict 7 = .answered 42) ∧
    (let s := keyed.setRope (fun x => { x with gateways := [(0, [1])] })
     s.ropeIn = true ∧ s.sameEpoch { req .store with device := 512 } = true ∧ (req .store).globalEpoch = s.globalEpoch ∧
       s.sameEpoch { req .store with device := 512, epoch := 4 } = false) := by decide +kernel

/-- O46: an entry at the bound of the age and one past it, identifiers on both sides of the floor, and pieces of a region. -/
theorem test_hyps_windows_age :
    (0 ≤ idDiff 5 5 ∧ idDiff 4 5 < 0 ∧ 0 ≤ idDiff 0 (2 ^ 32 - 1)) ∧
    (let w : ReplayWindow := ⟨[(7, 42, 0), (8, 43, 1)], 0⟩
     (w.age 10_000_000).entries.length = 2 ∧ (w.age 10_000_001).entries.length = 1 ∧ (w.age 10_000_001).floor = 8) ∧
    (let s := region5 0x7C00 keyed
     s.rgnPieces 5 0 64 = [(s.rgnBase 5, 64)] ∧ s.canon = true) := by decide +kernel

/-- O47: a device that is no member and one that is, ports with the numbers it holds and with others, a device that does not
coordinate, one heard in time, one that starts a membership, one whose number may not follow, and an excluded device that
another asks to add. -/
theorem test_hyps_membership_bounds :
    (let s := (ropeAt 1 (roped live)).setRope (fun x => { x with stage := 2 })
     s.ropeState = 1 ∧ s.rope.stage ≤ 2 ∧ lowestPlane [(4, 0, 1), (3, 0, 2)] = some (3, 0, 2)) ∧
    (let s := roped live
     ¬((s.ropeState = 1 ∧ s.rope.stage ≤ 2) ∨ s.ropeState = 3) ∧ s.ropePod = 0 ∧ s.ropeMember = 1 ∧
       s.rbit (aROPE + 0xC) 0 = true ∧ s.rbit (aROPE + 0xC) 15 = false ∧ s.coordinates = false ∧ 9 ∉ s.nextMembers ∧
       idDiff 5 s.podEpoch ≤ 0 ∧ s.ropeState ≠ 3) ∧
    (coord.now < coord.heard 2 + 5_000_000 ∧ coord.majority 10_000_000 = true ∧ 9 / 512 = coord.ropePod ∧
      9 % 512 ∉ coord.nextMembers ∧ coord.majority 5_000_000 = true) ∧
    (let s := (roped live).setRope (fun x => { x with beats := [(1, live.now - 99_999)] })
     s.now < s.heard 1 + 100_000) ∧
    (let s := ((ropeAt 1 (roped live)).setReg (aROPE + 0x10) 0).setRope (fun x => { x with stage := 2 })
     s.ropeState = 1 ∧ s.rope.stage = 2 ∧ s.podEpoch = 0) := by decide +kernel

/-- O47: an epoch that reaches a starting device, a rejoining and an excluded one; a first epoch that this device forms, and
one that it leaves to a lower-numbered device. -/
theorem test_hyps_epochs :
    (∀ st ∈ [1, 3, 4], let e : PendingEpoch := ⟨6, [0, 1], 0⟩
      let s := (ropeAt st (roped live)).setRope (fun x => { x with stage := 2, pending := some e })
      s.portsLive = true ∧ s.rope.pending = some e ∧ s.ropeMember ∈ e.members ∧ s.ropeState = st ∧ s.rope.stage = 2) ∧
    (∀ heard ∈ [0, 500], let s := ((ropeAt 1 (roped live)).setReg (aROPE + 0x10) 0).setRope (fun x =>
        { x with stage := 2, beats := [(0, heard), (2, 500)] })
      let answered := (List.range 512).filter (fun m => decide (m = s.ropeMember)
        || (decide (0 < s.heard m) && decide (s.rope.stageAt ≤ s.heard m)))
      s.rope.pending = none ∧ s.joining = true ∧ (answered.head? = some s.ropeMember ↔ heard = 0)) := by decide +kernel

/-- O48: sets of gateways that are allowed and not, in the stages of a cold start and after it, with a number that may follow
and one that may not; chunks that are not due, that enter here, and that enter elsewhere; relayed requests; gates that are
armed and count still; stages within their bound and out of budget. -/
theorem test_hyps_pods_bounds :
    (((roped live).setReg (aROPE + 4) 5).gatewaysOk [(0, [1])] = true ∧ (roped live).gatewaysOk [(0, [9])] = false) ∧
    (∀ st ∈ [4, 5], let s := (ropeAt 1 (roped live)).setRope (fun x => { x with stage := st })
      s.portsLive = true ∧ s.ropeIn = true ∧ s.ropeState = 1 ∧ s.rope.stage = st) ∧
    (let s := roped live
     s.nextGlobal 10 [(0, [1])] = true ∧ s.nextGlobal 8 [(0, [1])] = false ∧ [(0, [1])] ≠ s.podGateways) ∧
    (let s := (roped live).setRope (fun x => { x with gateways := [(0, [1])] })
     s.gwIndex = some 0 ∧ 0 = 1 % max 1 (s.gateways s.ropePod).length ∧ (1 : Nat) ≠ 0 ∧
       (SMap.get (fun _ => ((0, []) : Nat × List RopeReq)) s.rope.chunks 1).2.isEmpty = true ∧
       (s.relay 0 1 (req .store)).2.isSome = true ∧
       ((s.setRope (fun x => { x with gwFloor := [(relayKey 1 0 1 0, 8)] })).relay 0 1 (req .store)).2 = none) ∧
    (let s := live.setReg (aGATE 15 + 8) 0x1_0009
     s.rbit (aGATE 15 + 8) 16 = true ∧ s.gateCount 15 ≤ s.launchCount ∧
       s.launchCount < (s.setReg (aGATE 15 + 4) 1).gateCount 15) ∧
    (let s := ropeAt 1 { (roped live) with now := 5_000_000_000 }
     (s.setRope (fun x => { x with budget := 0 })).rope.budget < stageBound s.rope.stage ∧
       live.now < live.rope.stageAt + stageBound live.rope.stage) := by decide +kernel

-- Further hypotheses of O49 to O60: the clauses of failures, waits and bounds.

/-- O49: fronthaul frames of a cell with each field of the framing wrong, and of another message type; sections that are bad
for each cause, early, at their symbol's start, at the close of its window and past it, and repeated. -/
theorem test_hyps_sections :
    (let e := ecpri0
     ({ e with rev := 2 }.rev ≠ 1 ∧ { e with concat := true }.concat = true ∧ { e with size := 37 }.size ≠ 64 - 26 ∧
       e.size = 64 - 26 ∧ { e with ebit := false }.ebit = false ∧ { e with subseq := 1 }.subseq ≠ 0 ∧
       { e with type' := 2 }.type' ≠ 0 ∧ e.type' = 0)) ∧
    (let x : SectionIn := ⟨0, 10, 1, 9, []⟩
     let t0 := g0.airSym 20_000 3
     let c := g0.airSym 20_000 4 + g0.ta4Max * 1000
     (x.compMeth, x.width) = g0.compUl ∧ ({ x with width := 8 }.compMeth, { x with width := 8 }.width) ≠ g0.compUl ∧
       0 + 10 ≤ g0.fapi.grid ∧ g0.fapi.grid < 264 + 10 ∧ 0 < g0.ulStreams ∧ g0.ulStreams ≤ 4 ∧
       t0 - 1 < t0 ∧ t0 ≤ c ∧ c < c + 1 ∧
       (let w := { slotOf 20_000 with rx := [⟨3, 0, 0, (0, 10), [], t0⟩] }
        (((withCell (withWork w)).cell 5).work 20_000).rx.any (fun r => decide (r.sym = 3) && decide (r.stream = 0)
          && decide (r.filter = 0) && prbsMeet r.prb (9, 1)) = true ∧
        (((withCell (withWork w)).cell 5).work 20_000).rx.any (fun r => decide (r.sym = 3) && decide (r.stream = 0)
          && decide (r.filter = 0) && prbsMeet r.prb (10, 1)) = false)) ∧
    (let s := (withFrames []).setSub 0 0 { SubPort.reset with busy := radioOn.now + 1 }
     s.now < (s.sub 0 0).busy) := by decide +kernel

/-- O50: a port that is enabled with the reserved mode, a link of a disabled port, messages that are not due, a gate list that
is off, a poll with an entry that is bad and one that is good. -/
theorem test_hyps_ports_waits :
    field (0x7 : W32) 2 1 = 3 ∧ live.rbit (aPORTn 0) 0 = false ∧ (live.linkUp 0 0 ≠ true) ∧
    (let s := (linked live).setSub 0 0 ({ SubPort.reset with frames := [] }.setSentAt .sync live.now)
     s.now < (s.sub 0 0).sentAt .sync + PtpKind.sync.every) ∧
    (let s := { linked live with ports := { (linked live).ports with servo := { Servo.reset with slave := some (0, 0) } } }
     s.ports.servo.slave = some (0, 0) ∧ s.ptpOn 0 0 = true) ∧
    (let s := queued3 (linked (running3 part3))
     let entry (len : Nat) := stackWords (stackWords s (s.txRing 3).1 [1]) ((s.txRing 3).1 + 64)
       [0x10_0000, 0, lo32 len]
     (∀ e ∈ [(55, true), (56, false), (9208, false), (9209, true)], let t := entry e.1
       t.pqWaiting 3 = 0 ∧ t.pqRead 3 (t.txRing 3).1 2 = 1 ∧ t.pqRead 3 ((t.txRing 3).1 + 64 + 8) 4 = e.1 ∧
         (decide (e.1 + 8 < 64) || decide (9216 < e.1 + 8)) = e.2)) := by decide +kernel

/-- O51: a master heard in time, one lost while ACQUIRING from each state, a holdover at its bound, offsets at the bounds of
the servo with the counts at theirs, and a path delay that has been measured. -/
theorem test_hyps_servo :
    (let s := servoAt { Servo.reset with state := .locked, slave := some (0, 0), heardAt := live.now - announceNs + 1 }
     s.now < s.ports.servo.heardAt + announceNs) ∧
    (∀ v ∈ [{ Servo.reset with lost := true }, { Servo.reset with holdAt := some 0 }, Servo.reset],
      let s := servoAt { v with state := .acquiring, slave := some (0, 0) }
      s.ports.servo.state = .acquiring ∧ s.ports.servo.slave = some (0, 0) ∧ s.ports.servo.heardAt + announceNs ≤ s.now ∧
        (s.ports.servo.lost = true ∨ s.ports.servo.holdAt.isSome = true ∨ s.ports.servo.everLocked = false)) ∧
    (let s := (servoAt { Servo.reset with state := .holdover, holdAt := some 0 }).setReg (aTIME + 0x28) 1000
     s.now ≤ 0 + (s.reg (aTIME + 0x28)).toNat * 1_000_000) ∧
    (∀ o ∈ [((50 : Int), true, true), (-50, true, true), (51, false, true), (1000, false, true), (-1000, false, true),
        (1001, false, false)], decide (o.1.natAbs ≤ 50) = o.2.1 ∧ decide (o.1.natAbs ≤ 1000) = o.2.2) ∧
    (∀ st ∈ [ServoState.acquiring, .locked], ∀ n ∈ [14, 15], ∀ step ∈ [true, false],
      let s := servoAt { Servo.reset with state := st, good := n, bad := n, mayStep := step, path := some 500 }
      let t := s.setReg (aTIME + 0x24) 50
      t.ports.servo.state = st ∧ t.ports.servo.good = n ∧ t.ports.servo.lost = false ∧ t.ports.servo.path = some 500 ∧
        t.ports.servo.mayStep = step ∧ t.anyRunning = false) ∧
    (let s := { live with ports := { live.ports with pps0 := some (live.now + 1), armed := [(7, 4)] } }
     s.now < live.now + 1 ∧ 6 ∉ s.ports.armed.map Prod.fst ∧ s.rf (aCAP 7 + 8) 3 1 ≠ 1 ∧ s.rf (aCAP 7 + 8) 3 1 = 0 ∧
       s.rf (aCAP 7 + 8) 24 16 = 0 ∧ 4 ≤ 4) := by decide +kernel

/-- O52: an update with a word that fails; O54: a mailbox before the boot ends, one that the device does not have, an
algorithm that is not offered, a session that is unknown, an environment that is running and one without its session. -/
theorem test_hyps_boxes :
    (live.fwBad (update 4 0).words).isSome = true ∧
    (let u : State := { live with power := { live.power with stage := .boot } }
     u.up = false ∧ u.power.inReset = false) ∧
    live.numVfs < 64 ∧
    ((∃ a ∈ [SpdmAlg.ecdsaP256, .sha256, .secp256r1, .aes256Gcm], a ∉ [SpdmAlg.ecdsaP256, .sha256, .secp256r1]) ∧
      ∀ a ∈ [SpdmAlg.ecdsaP256, .sha256, .secp256r1, .aes256Gcm], a ∈ [SpdmAlg.aes256Gcm, .secp256r1, .sha256, .ecdsaP256]) ∧
    (let m := (boxed 64 .negotiated [sess 0 false, sess 1 true]).box 64
     m.sessions.find? (fun y => decide (y.id = 1) && decide (y.established = false)) = none ∧
       m.sessions.find? (fun y => decide (y.id = 0) && decide (y.established = true)) = none) ∧
    ((running3 { part3 with tsp := 3 }).box 4).sessions.any (fun x => x.established) = false ∧
    ((running3 { part3 with tsp := 3 }).part 3).tsp = 3 ∧ (parted.part 3).state ≠ .running ∧
    (∀ i ∈ [1, 5, 0x10, 0x4F], 1 ≤ i ∧ i ≤ 5 ∨ 0x10 ≤ i ∧ i < 0x50) ∧ (5 < 6 ∧ 6 ≠ 0x10 + (64 - 1) ∧ 6 ≠ 0xFF) := by
  decide +kernel

/-- O55: tests while the limiter withholds work, of a spare that has failed before and that has not; requests whose words
fail, of a retired unit, with their record outside the windows and with 16 under way; monitors and margins at their bounds
on an island in the radio pool and out of it, and on a half-stack that no one owns. -/
theorem test_hyps_requests_refused :
    ({ live with power := { live.power with withheld := true } } : State).power.withheld = true ∧
    (let p : PhysId := ⟨0, .tile, true, 0, 0⟩
     let e (s : State) : FaultEvt := ⟨.unit p, 0x0102, (s.physBins p).1, (s.physBins p).2, s.now⟩
     let w := live.countKat true
     p ∉ w.units.lostSpares ∧ w.lastingWith (e w) = false ∧
       (let v := ((live.countKat true).addFault (e w)).addFault { e w with kind := 0x0103 }
        v.lastingWith (e v) = true)) ∧
    (let d := jobDesc [(0, 0x31), (4, 5), (6, 1)]
     let s := onRing (windowed live) 0 d
     s.nextStart 0 = some d ∧ (descFail d.words (s.selfTestChecks d.words)).isSome = true) ∧
    (let d := selfTest 1
     ({ live with units := { live.units with retired := [⟨0, .tile, 5⟩] } } : State).requestRetired d.words = true ∧
       live.windowOk 0x7F (wpair d.words 8) 32 = false ∧
       16 ≤ ({ live with units := { live.units with selfTests := List.replicate 16 (testing 1 []) } } : State).units.selfTests.length) ∧
    (∀ k ∈ [3, 4], let q := testing k []
      let s := onRing ({ live with units := { live.units with selfTests := [q] } } : State) 0 { selfTest k with started := true }
      s.selfTest 0 = some q ∧ q.done < q.total ∧ s.power.withheld = false ∧ wfield (s.testWords 0) 4 16 16 = 0 ∧
        s.islandTestable 0 (wfield (s.testWords 0) 5 2 0) = true ∧ s.halfOwner (wfield (s.testWords 0) 5 5 0) = none ∧
        s.radioHalf (wfield (s.testWords 0) 5 5 0) = false ∧ (s.island 0 5).radio = false ∧
        ((s.setIsland 0 5 { heldIsland with pace := 1500 }).island 0 5).radio = true) ∧
    ([(0, 0, 99), (1, 0, 100)] : List (Nat × Nat × Nat)).filter (fun l => decide (l.2.2 < 100)) = [(0, 0, 99)] := by
  decide +kernel

/-- O57, O58, O60: a start with a bad die, with a fuse that failed, a self-test that Rope's cold start may run again and one
that it may not; warm causes in a cold start and in a warm one; standby in each state; words that the management interface
has at the bounds, and words that it has not. -/
theorem test_hyps_starts_bounds :
    (let f := { live.fuses with dies := live.fuses.dies.set 26 ⟨0, 0, 0, 0, 0, false⟩ }
     f.badDie = some 26 ∧ ({ live with power := { live.power with fail := 1 } } : State).power.fail ≠ 0) ∧
    (∀ b ∈ [22_000_000_000, 0], let s := (ropeAt 1 (roped (poweredAt .good .selfTest))).setRope (fun x => { x with budget := b })
      s.power.stage = .selfTest ∧ s.ropeState = 1 ∧ s.rope.stage = 0 ∧ (s.mayRerun = true ↔ b ≠ 0)) ∧
    (∀ c ∈ [ResetCause.powerUp, .pfReset], let s : State := { live with power := { live.power with stage := .boot, cause := c } }
      s.power.stage = .boot ∧ s.power.inReset = false ∧ (s.power.cause ∈ [.warmRstN, .pwrReset, .pfReset] ↔ c = .pfReset)) ∧
    (live.mgmtWord (aDIE 26 + 12)).isSome = true ∧ live.mgmtWord (aDIE 27) = none ∧ live.mgmtWord 4 = none ∧
    aPWR + 0x18 ≠ 0 ∧ aPWR + 4 ∉ [aPWR, aPWR + 0x18, aPWR + 0x1C] ∧ aDIE 27 ≤ aPWR + 4 ∧
    live.mgmtWord (aPWR + 4) = none := by decide +kernel

/-- O57: a failing row whose bank has a redundant row left, and one whose bank has none, in a bank that is built with one. -/
theorem test_hyps_sram_rows (h : Config.sramSpares 1 (Config.sramBank 1 0) = 1) :
    let r : SramRow := ⟨0, 1, 0, 0⟩
    live.sramLeft r ≠ 0 ∧ ({ live with units := { live.units with sramRepaired := [r] } } : State).sramLeft r = 0 := by
  constructor
  · show Config.sramSpares 1 (Config.sramBank 1 0) - 0 ≠ 0
    rw [h]; decide
  · simp [State.sramLeft, h]

end Sys2Proof.Tests
end

section
/-! O8, the byte enables of host accesses (00 R15): what each host write and the host read of PF BAR 0 leave, and
the statement. -/

namespace Sys2Proof.Machine

-- The commands of a host access.

@[simp] theorem exec_registerWrite (v : View) (off : Nat) (value : W32) (be : BitVec 4) (s : State) :
    exec (.registerWrite v off value be) s = .next (s.hostWrite v off value be) := rfl

@[simp] theorem exec_lowWordWrite (v : View) (off : Nat) (value : W32) (be : BitVec 4) (s : State) :
    exec (.lowWordWrite v off value be) s =
      .next (if s.isLow v off then s.hostWrite v off value be else s) := rfl

@[simp] theorem exec_highWordWrite (v : View) (off : Nat) (value : W32) (be : BitVec 4) (s : State) :
    exec (.highWordWrite v off value be) s =
      .next (if s.isHigh v off then s.hostWrite v off value be else s) := rfl

@[simp] theorem exec_adminDbWrite (word : Nat) (value : W32) (be : BitVec 4) (s : State) :
    exec (.adminDbWrite word value be) s = .next (adminDbWrite word value be s) := rfl

@[simp] theorem exec_rcRegisterRead (v : View) (off : Nat) (s : State) :
    exec (.rcRegisterRead v off) s = .next (s.hostRead v off) := rfl

-- Writes with fewer than four byte enables.

theorem State.hostWrite_of_be_ne (s : State) (v : View) (off : Nat) (value : W32) {be : BitVec 4}
    (hbe : be ≠ 0xF) : s.hostWrite v off value be = s := by
  rw [State.hostWrite, decide_eq_false hbe, Bool.and_false, if_neg Bool.false_ne_true]

theorem adminDbWrite_of_be_ne (word : Nat) (value : W32) (s : State) {be : BitVec 4}
    (hbe : be ≠ 0xF) : adminDbWrite word value be s = s := by
  rw [adminDbWrite, decide_eq_false hbe, Bool.and_false, Bool.false_and, if_neg Bool.false_ne_true]

-- Reads of PF BAR 0.

@[simp] theorem State.viewAddr_pf (s : State) {off : Nat} (hoff : off < 0x80_0000) :
    s.viewAddr .pf off = some off := if_pos hoff

/-- The RC fields that the read clears and the time that it latches do not change the word it returns. -/
@[simp] theorem State.pfRead_rdata (s : State) (a : Nat) : (s.pfRead a).rdata = (s.readWord a).1 := rfl

theorem State.hostRead_pf {s : State} {off : Nat} (hup : s.up = true) (hoff : off < 0x80_0000)
    (hword : off % 4 = 0) : s.hostRead .pf off = s.pfRead off := by
  have hreached : s.reached .pf = true := hup
  simp [State.hostRead, bar2, hreached, hoff, hword]

/-- Settles O8: every host write asks for all four byte enables before it acts, and a read has none to ask for. -/
theorem byteEnables : Obligations.ByteEnables := by
  unfold Obligations.ByteEnables
  constructor
  · intro s v off word value be hbe
    refine ⟨?_, ?_, ?_, ?_⟩
    · rw [exec_registerWrite, State.hostWrite_of_be_ne s v off value hbe]
    · rw [exec_lowWordWrite, State.hostWrite_of_be_ne s v off value hbe, ite_self]
    · rw [exec_highWordWrite, State.hostWrite_of_be_ne s v off value hbe, ite_self]
    · rw [exec_adminDbWrite, adminDbWrite_of_be_ne word value s hbe]
  · intro s off hup hoff hword
    refine ⟨s.pfRead off, ?_, s.pfRead_rdata off⟩
    rw [exec_rcRegisterRead, State.hostRead_pf hup hoff hword]

end Sys2Proof.Machine
end

section
/-! O27, the half-stacks held for radio (10 R345): which numbers `State.radioHalf` holds on each die, and the
statement. -/

namespace Sys2Proof.Machine

/-- On M0, whose half-stacks are 0 to 23. -/
theorem State.radioHalf_iff_of_lt (s : State) {h : Nat} (hm0 : h < 24) :
    s.radioHalf h = true ↔ 24 - s.rf (aBELAY + 8) 20 16 ≤ h := by
  simp only [State.radioHalf, State.rf, if_pos hm0, decide_eq_true_iff]

/-- On M1, whose half-stacks are 24 to 47. -/
theorem State.radioHalf_iff_of_not_lt (s : State) {h : Nat} (hm1 : ¬h < 24) :
    s.radioHalf h = true ↔ 48 - s.rf (aBELAY + 8) 28 24 ≤ h := by
  simp only [State.radioHalf, State.rf, if_neg hm1, decide_eq_true_iff]

/-- Settles O27, by the die of the half-stack: a count of at most 24 keeps the range of each die off the other die's
numbers. -/
theorem radioHalfStacks : Obligations.RadioHalfStacks := by
  unfold Obligations.RadioHalfStacks
  intro s h k0 k1 hk0 hk1 hle0 hle1 hh
  by_cases hdie : h < 24
  · rw [s.radioHalf_iff_of_lt hdie, ← hk0]
    omega
  · rw [s.radioHalf_iff_of_not_lt hdie, ← hk1]
    omega

end Sys2Proof.Machine
end

section
/-! O58, the thermal trip (15 R495, R496): what a cold reset leaves of the supplies, when `thermalTrip` trips the
device, which pulse of COLD_RST_N ends a trip, and the statement. -/

namespace Sys2Proof.Machine

-- A reset and the supplies.

@[simp] theorem State.setIslandMv_power (s : State) (v : Nat) : (s.setIslandMv v).power = s.power :=
  (State.setIslandMv_keeps (w := [.islands]) (by decide) Keeps.refl).1 .power (by decide)

/-- The supplies, the pins, the straps, the cause and a trip outlast every reset. -/
theorem State.afterReset_power (s : State) (kept : Nat → Bool) :
    (s.afterReset kept).power = { Power.reset with
      phase := s.power.phase, auxOk := s.power.auxOk, cause := s.power.cause, coldRstN := s.power.coldRstN,
      perstN := s.power.perstN, warmRstN := s.power.warmRstN, strapAddr := s.power.strapAddr,
      strapRopeOff := s.power.strapRopeOff, powerGood := s.power.powerGood, thermTrip := s.power.thermTrip } := by
  unfold State.afterReset
  dsimp only
  split
  · rw [State.setIslandMv_power, State.setRbit_power]
  · rw [State.setRbit_power]

/-- Loading the fuses writes at most the failure that a bad block records (01 R45). -/
theorem State.loadFuses_power (s : State) :
    ∃ fail die, s.loadFuses.power = { s.power with fail := fail, failDie := die } := by
  unfold State.loadFuses
  split
  · exact ⟨_, _, rfl⟩
  · exact ⟨_, _, rfl⟩

theorem State.coldReset_power (s : State) (c : ResetCause) :
    ∃ fail die, (s.coldReset c).power = { (s.afterReset (fun _ => false)).power with
      cause := c, fail := fail, failDie := die } :=
  State.loadFuses_power _

@[simp] theorem State.coldReset_cause (s : State) (c : ResetCause) : (s.coldReset c).power.cause = c := by
  obtain ⟨fail, die, hpower⟩ := s.coldReset_power c
  rw [hpower]

@[simp] theorem State.coldReset_inReset (s : State) (c : ResetCause) : (s.coldReset c).power.inReset = true := by
  obtain ⟨fail, die, hpower⟩ := s.coldReset_power c
  rw [hpower, State.afterReset_power]
  rfl

@[simp] theorem State.coldReset_phase (s : State) (c : ResetCause) :
    (s.coldReset c).power.phase = s.power.phase := by
  obtain ⟨fail, die, hpower⟩ := s.coldReset_power c
  rw [hpower, State.afterReset_power]

@[simp] theorem State.coldReset_powerGood (s : State) (c : ResetCause) :
    (s.coldReset c).power.powerGood = s.power.powerGood := by
  obtain ⟨fail, die, hpower⟩ := s.coldReset_power c
  rw [hpower, State.afterReset_power]

@[simp] theorem State.coldReset_thermTrip (s : State) (c : ResetCause) :
    (s.coldReset c).power.thermTrip = s.power.thermTrip := by
  obtain ⟨fail, die, hpower⟩ := s.coldReset_power c
  rw [hpower, State.afterReset_power]

/-- A cold reset sends no indication. -/
@[simp] theorem State.coldReset_outs (s : State) (c : ResetCause) : (s.coldReset c).outs = s.outs :=
  (State.coldReset_keeps (List.Subset.refl _) Keeps.refl).1 .outs (by decide)

-- The trip and its end.

@[simp] theorem exec_thermalTrip (j l : Int) (s : State) : exec (.thermalTrip j l) s = .next (thermalTrip j l s) := rfl

@[simp] theorem exec_coldRstN (temp : Int) (s : State) : exec (.coldRstN temp) s = .next (coldRstN temp s) := rfl

theorem exec_thermalTrip_of_limit {s : State} {j l : Int} (haux : s.power.auxOk = true)
    (htrip : s.power.thermTrip = false) (hlimit : 8 * 115 ≤ j ∨ 8 * 110 ≤ l) :
    exec (.thermalTrip j l) s =
      .next ((({ s with power := { s.power with thermTrip := true } } : State).railsOff .auxUp).coldReset
        .thermalTrip) := by
  have htaken : (s.power.auxOk && (decide (920 ≤ j) || decide (880 ≤ l)) && !s.power.thermTrip) = true := by
    simpa [haux, htrip] using hlimit
  rw [exec_thermalTrip, thermalTrip, if_pos htaken]

theorem exec_thermalTrip_of_below {s : State} {j l : Int} (hj : j < 8 * 115) (hl : l < 8 * 110) :
    exec (.thermalTrip j l) s = .next s := by
  have hleft : ¬(s.power.auxOk && (decide (920 ≤ j) || decide (880 ≤ l)) && !s.power.thermTrip) = true := by
    have hj' : ¬920 ≤ j := by omega
    have hl' : ¬880 ≤ l := by omega
    simp [hj', hl']
  rw [exec_thermalTrip, thermalTrip, if_neg hleft]

/-- The trip stands as long as one sensor reads 95 °C. -/
theorem exec_coldRstN_of_thermTrip {s : State} (htrip : s.power.thermTrip = true) (temp : Int) :
    exec (.coldRstN temp) s = .next { s with power := { s.power with
      coldRstN := false, thermTrip := decide (8 * 95 ≤ temp) } } := by
  rw [exec_coldRstN, coldRstN, if_pos htrip]
  by_cases hcool : temp < 760
  · have hends : decide (8 * 95 ≤ temp) = false := decide_eq_false (by omega)
    rw [if_pos hcool, hends]
  · have hstands : decide (8 * 95 ≤ temp) = true := decide_eq_true (by omega)
    rw [if_neg hcool, hstands, ← htrip]

/-- Settles O58: the trip is taken before the cold reset, which keeps it, so the state after it is one in which
`exec_coldRstN_of_thermTrip` tells what a pulse does. -/
theorem thermalTripIsAColdReset : Obligations.ThermalTripIsAColdReset := by
  unfold Obligations.ThermalTripIsAColdReset
  intro s j l haux htrip
  refine ⟨fun hlimit => ?_, exec_thermalTrip_of_below⟩
  have hexec := exec_thermalTrip_of_limit haux htrip hlimit
  refine ⟨hexec, fun t ht => ?_⟩
  obtain rfl := Host.Outcome.next.inj (hexec.symm.trans ht)
  have hstands := State.coldReset_thermTrip
    (({ s with power := { s.power with thermTrip := true } } : State).railsOff .auxUp) .thermalTrip
  refine ⟨hstands, State.coldReset_inReset _ _, State.coldReset_phase _ _, State.coldReset_powerGood _ _,
    State.coldReset_cause _ _, State.coldReset_outs _ _, fun temp hhot => ?_, fun temp hcool => ?_⟩
  · exact ⟨_, exec_coldRstN_of_thermTrip hstands temp, decide_eq_true hhot⟩
  · exact ⟨_, exec_coldRstN_of_thermTrip hstands temp, decide_eq_false (Int.not_le.mpr hcool)⟩

end Sys2Proof.Machine
end

section
/-! O3 to O7, O1, O2 and O53, the step as a whole: every command keeps to the parts that `writes` lists and keeps the
maps canonical, by the law of its meaning; and what follows for the queue, the canonical form and the fuses. -/

namespace Sys2Proof.Machine

theorem Keeps.of_next {w : List Fld} {s t u : State} (h : (.next u : Done) = .next t) (k : Keeps w s u) :
    Keeps w s t := Host.Outcome.next.inj h ▸ k

/-- An access that answers a next state lay within memory. -/
theorem Keeps.of_access {w : List Fld} {s t u : State} {c : Prop} [Decidable c] {a : Fault}
    (h : (if c then .next u else .fault a : Done) = .next t) (k : Keeps w s u) : Keeps w s t := by
  by_cases hc : c
  · rw [if_pos hc] at h
    exact .of_next h k
  · rw [if_neg hc] at h
    cases h

/-- What a command may write: the law of its meaning, command by command. -/
theorem exec_keeps {c : Instr} {s t : State} (h : exec c s = .next t) : Keeps (writes c) s t := by
  cases c with
  | registerWrite _ _ _ _ => exact .of_next h (State.hostWrite_keeps (List.Subset.refl _) .refl)
  | rcRegisterRead _ _ => exact .of_next h (State.hostRead_keeps (List.Subset.refl _) .refl)
  | lowWordWrite _ _ _ _ => exact .of_next h (.ite (State.hostWrite_keeps (List.Subset.refl _) .refl) .refl)
  | highWordWrite _ _ _ _ => exact .of_next h (.ite (State.hostWrite_keeps (List.Subset.refl _) .refl) .refl)
  | lowWordRead _ _ => exact .of_next h (.ite (State.hostRead_keeps (List.Subset.refl _) .refl) .refl)
  | stall _ _ => exact .of_next h (stall_keeps (List.Subset.refl _) .refl)
  | substitutionReissue _ => exact .of_next h (substitutionReissue_keeps (List.Subset.refl _) .refl)
  | partitionStopTileLost _ => exact .of_next h (partitionStopTileLost_keeps (List.Subset.refl _) .refl)
  | paceSample _ _ _ _ => exact .of_next h (paceSample_keeps (List.Subset.refl _) .refl)
  | load _ _ _ _ _ => exact .of_next h (load_keeps (List.Subset.refl _) .refl)
  | mm _ _ _ _ _ => exact .of_next h (mm_keeps (List.Subset.refl _) .refl)
  | conv _ _ _ _ _ => exact .of_next h (conv_keeps (List.Subset.refl _) .refl)
  | gather _ _ _ _ _ => exact .of_next h (gather_keeps (List.Subset.refl _) .refl)
  | epilogue _ _ _ => exact .of_next h (epilogue_keeps (List.Subset.refl _) .refl)
  | blockCommit _ _ _ => exact .of_next h (blockCommit_keeps (List.Subset.refl _) .refl)
  | splitPartResume _ _ _ => exact .of_next h (splitPartResume_keeps (List.Subset.refl _) .refl)
  | splitTimeout _ _ => exact .of_next h (splitTimeout_keeps (List.Subset.refl _) .refl)
  | biasAct _ _ _ => exact .of_next h (biasAct_keeps (List.Subset.refl _) .refl)
  | biasActRes _ _ _ => exact .of_next h (biasActRes_keeps (List.Subset.refl _) .refl)
  | dequantAct _ _ _ => exact .of_next h (dequantAct_keeps (List.Subset.refl _) .refl)
  | rowStats _ _ _ => exact .of_next h (rowStats_keeps (List.Subset.refl _) .refl)
  | layernormMm _ _ _ => exact .of_next h (layernormMm_keeps (List.Subset.refl _) .refl)
  | rmsnormMm _ _ _ => exact .of_next h (rmsnormMm_keeps (List.Subset.refl _) .refl)
  | gated _ _ _ => exact .of_next h (gated_keeps (List.Subset.refl _) .refl)
  | attentionOnline _ _ _ => exact .of_next h (attentionOnline_keeps (List.Subset.refl _) .refl)
  | attentionTwoPass _ _ _ => exact .of_next h (attentionTwoPass_keeps (List.Subset.refl _) .refl)
  | routerTopk _ _ _ => exact .of_next h (routerTopk_keeps (List.Subset.refl _) .refl)
  | dynamicQuant _ _ _ => exact .of_next h (dynamicQuant_keeps (List.Subset.refl _) .refl)
  | colPool _ _ _ => exact .of_next h (colPool_keeps (List.Subset.refl _) .refl)
  | peerSend _ _ _ _ => exact .of_next h (peerSendRow_keeps (List.Subset.refl _) .refl)
  | peerSendPayloadAcked _ _ _ => exact .of_next h (peerSendPayloadAcked_keeps (List.Subset.refl _) .refl)
  | peerSendCommit _ _ _ => exact .of_next h (peerSendCommit_keeps (List.Subset.refl _) .refl)
  | peerAccum _ _ _ => exact .of_next h (peerAccum_keeps (List.Subset.refl _) .refl)
  | chainBufferReady _ _ _ => exact .of_next h (chainBufferReady_keeps (List.Subset.refl _) .refl)
  | chainTimeout _ _ => exact .of_next h (chainTimeout_keeps (List.Subset.refl _) .refl)
  | paramRequest _ _ => exact .of_next h (paramRequest_keeps (List.Subset.refl _) .refl)
  | configRequest _ _ _ => exact .of_next h (configRequest_keeps (List.Subset.refl _) .refl)
  | cellRelease _ _ => exact .of_next h (cellRelease_keeps (List.Subset.refl _) .refl)
  | startRequest _ _ => exact .of_next h (startRequest_keeps (List.Subset.refl _) .refl)
  | cellStart _ => exact .of_next h (cellStart_keeps (List.Subset.refl _) .refl)
  | stopRequest _ _ => exact .of_next h (stopRequest_keeps (List.Subset.refl _) .refl)
  | stopIndication _ => exact .of_next h (stopIndication_keeps (List.Subset.refl _) .refl)
  | dlTtiRequest _ _ _ => exact .of_next h (dlTtiRequest_keeps (List.Subset.refl _) .refl)
  | ulTtiRequest _ _ _ => exact .of_next h (ulTtiRequest_keeps (List.Subset.refl _) .refl)
  | ulDciRequest _ _ _ => exact .of_next h (ulDciRequest_keeps (List.Subset.refl _) .refl)
  | txDataRequest _ _ _ => exact .of_next h (txDataRequest_keeps (List.Subset.refl _) .refl)
  | slotBookRequest _ _ _ => exact .of_next h (slotBookRequest_keeps (List.Subset.refl _) .refl)
  | ssbSearchRequest _ _ _ _ _ => exact .of_next h (ssbSearchRequest_keeps (List.Subset.refl _) .refl)
  | ssbSearchIndication _ => exact .of_next h (ssbSearchIndication_keeps (List.Subset.refl _) .refl)
  | slotIndication _ => exact .of_next h (slotIndication_keeps (List.Subset.refl _) .refl)
  | downlinkProcessing _ _ => exact .of_next h (downlinkProcessing_keeps (List.Subset.refl _) .refl)
  | cPlaneLaunch _ _ => exact .of_next h (cPlaneLaunch_keeps (List.Subset.refl _) .refl)
  | uPlaneLaunch _ _ _ => exact .of_next h (uPlaneLaunch_keeps (List.Subset.refl _) .refl)
  | uPlaneDiscard _ _ => exact .of_next h (uPlaneDiscard_keeps (List.Subset.refl _) .refl)
  | uplinkCPlaneLaunch _ _ => exact .of_next h (uplinkCPlaneLaunch_keeps (List.Subset.refl _) .refl)
  | symbolWindowClose _ _ _ => exact .of_next h (symbolWindowClose_keeps (List.Subset.refl _) .refl)
  | channelEstimation _ _ _ => exact .of_next h (channelEstimation_keeps (List.Subset.refl _) .refl)
  | mmseWeights _ _ => exact .of_next h (mmseWeights_keeps (List.Subset.refl _) .refl)
  | equalisation _ _ _ => exact .of_next h (equalisation_keeps (List.Subset.refl _) .refl)
  | harqCombining _ _ _ => exact .of_next h (harqCombining_keeps (List.Subset.refl _) .refl)
  | uplinkResults _ _ => exact .of_next h (uplinkResults_keeps (List.Subset.refl _) .refl)
  | vLdv _ _ => exact .of_next h (vdeLdv_keeps (List.Subset.refl _) .refl)
  | vStv _ _ => exact .of_next h (vdeStv_keeps (List.Subset.refl _) .refl)
  | vLdx _ _ => exact .of_next h (vdeLdx_keeps (List.Subset.refl _) .refl)
  | vSts _ _ => exact .of_next h (vdeSts_keeps (List.Subset.refl _) .refl)
  | vExpb _ _ => exact .of_next h (vdeExpb_keeps (List.Subset.refl _) .refl)
  | vCmpb _ _ => exact .of_next h (vdeCmpb_keeps (List.Subset.refl _) .refl)
  | vAgld _ _ => exact .of_next h (vdeAgld_keeps (List.Subset.refl _) .refl)
  | vMov _ _ => exact .of_next h (vdeMov_keeps (List.Subset.refl _) .refl)
  | vSplat _ _ => exact .of_next h (vdeSplat_keeps (List.Subset.refl _) .refl)
  | vSets _ _ => exact .of_next h (vdeSets_keeps (List.Subset.refl _) .refl)
  | vPerm _ _ => exact .of_next h (vdePerm_keeps (List.Subset.refl _) .refl)
  | vAdd _ _ => exact .of_next h (vdeAdd_keeps (List.Subset.refl _) .refl)
  | vSub _ _ => exact .of_next h (vdeSub_keeps (List.Subset.refl _) .refl)
  | vMul _ _ => exact .of_next h (vdeMul_keeps (List.Subset.refl _) .refl)
  | vConj _ _ => exact .of_next h (vdeConj_keeps (List.Subset.refl _) .refl)
  | vAbs2 _ _ => exact .of_next h (vdeAbs2_keeps (List.Subset.refl _) .refl)
  | vShr _ _ => exact .of_next h (vdeShr_keeps (List.Subset.refl _) .refl)
  | vCvt _ _ => exact .of_next h (vdeCvt_keeps (List.Subset.refl _) .refl)
  | vMaxv _ _ => exact .of_next h (vdeMaxv_keeps (List.Subset.refl _) .refl)
  | vMinv _ _ => exact .of_next h (vdeMinv_keeps (List.Subset.refl _) .refl)
  | vAnd _ _ => exact .of_next h (vdeAnd_keeps (List.Subset.refl _) .refl)
  | vXor _ _ => exact .of_next h (vdeXor_keeps (List.Subset.refl _) .refl)
  | vRecip _ _ => exact .of_next h (vdeRecip_keeps (List.Subset.refl _) .refl)
  | vMacz _ _ => exact .of_next h (vdeMacz_keeps (List.Subset.refl _) .refl)
  | vMac _ _ => exact .of_next h (vdeMac_keeps (List.Subset.refl _) .refl)
  | vMsc _ _ => exact .of_next h (vdeMsc_keeps (List.Subset.refl _) .refl)
  | vNarrow _ _ => exact .of_next h (vdeNarrow_keeps (List.Subset.refl _) .refl)
  | vGold _ _ => exact .of_next h (vdeGold_keeps (List.Subset.refl _) .refl)
  | vCrc _ _ => exact .of_next h (vdeCrc_keeps (List.Subset.refl _) .refl)
  | vQmap _ _ => exact .of_next h (vdeQmap_keeps (List.Subset.refl _) .refl)
  | vDemap _ _ => exact .of_next h (vdeDemap_keeps (List.Subset.refl _) .refl)
  | vFht _ _ => exact .of_next h (vdeFht_keeps (List.Subset.refl _) .refl)
  | vMaxs _ _ => exact .of_next h (vdeMaxs_keeps (List.Subset.refl _) .refl)
  | vMins _ _ => exact .of_next h (vdeMins_keeps (List.Subset.refl _) .refl)
  | vRsum _ _ => exact .of_next h (vdeRsum_keeps (List.Subset.refl _) .refl)
  | vAmm _ _ => exact .of_next h (vdeAmm_keeps (List.Subset.refl _) .refl)
  | vArd _ _ => exact .of_next h (vdeArd_keeps (List.Subset.refl _) .refl)
  | vLoop _ _ => exact .of_next h (vdeLoop_keeps (List.Subset.refl _) .refl)
  | vNop _ _ => exact .of_next h (vdeNop_keeps (List.Subset.refl _) .refl)
  | vFence _ _ => exact .of_next h (vdeFence_keeps (List.Subset.refl _) .refl)
  | vBrk _ _ => exact .of_next h (vdeBrk_keeps (List.Subset.refl _) .refl)
  | vdeFreezeEnd _ _ => exact .of_next h (vdeFreezeEnd_keeps (List.Subset.refl _) .refl)
  | vdeHaltRequest => exact .of_next h (vdeHaltRequest_keeps (List.Subset.refl _) .refl)
  | vdeHalt _ _ => exact .of_next h (vdeHalt_keeps (List.Subset.refl _) .refl)
  | vdeStep => exact .of_next h (vdeStep_keeps (List.Subset.refl _) .refl)
  | vdeResume => exact .of_next h (vdeResume_keeps (List.Subset.refl _) .refl)
  | vdeListEnd => exact .of_next h (vdeListEnd_keeps (List.Subset.refl _) .refl)
  | fft _ _ _ =>
    exact .of_next h (forRadio_keeps (fun _ => State.l1Dft_keeps (by simp [writes]) .refl) (fft_keeps (by simp [writes]) .refl))
  | ldpcDecode _ _ _ =>
    exact .of_next h (forRadio_keeps (fun _ => State.l1Decode_keeps (by simp [writes]) .refl) (ldpcDecode_keeps (by simp [writes]) .refl))
  | ldpcEncode _ _ _ =>
    exact .of_next h (forRadio_keeps (fun _ => State.l1Encode_keeps (by simp [writes]) .refl) (ldpcEncode_keeps (by simp [writes]) .refl))
  | polarEncode _ _ _ =>
    exact .of_next h (forRadio_keeps (fun _ => State.l1Encode_keeps (by simp [writes]) .refl) (polarEncode_keeps (by simp [writes]) .refl))
  | polarDecode _ _ _ =>
    exact .of_next h (forRadio_keeps (fun _ => State.l1Uci_keeps (by simp [writes]) .refl) (polarDecode_keeps (by simp [writes]) .refl))
  | prach _ _ _ => exact .of_next h (prach_keeps (List.Subset.refl _) .refl)
  | accelResult _ => exact .of_next h (accelResult_keeps (List.Subset.refl _) .refl)
  | islandAdd _ => exact .of_next h (islandAdd_keeps (List.Subset.refl _) .refl)
  | islandRemove _ => exact .of_next h (islandRemove_keeps (List.Subset.refl _) .refl)
  | islandRemovalDone _ _ => exact .of_next h (islandRemovalDone_keeps (List.Subset.refl _) .refl)
  | belayRadioMemWrite _ => exact .of_next h (belayRadioMemWrite_keeps (List.Subset.refl _) .refl)
  | governorStep _ _ _ => exact .of_next h (governorStep_keeps (List.Subset.refl _) .refl)
  | paceEmergency _ _ => exact .of_next h (paceEmergency_keeps (List.Subset.refl _) .refl)
  | limiterSample _ _ _ _ _ => exact .of_next h (limiterSample_keeps (List.Subset.refl _) .refl)
  | throttleStep _ _ => exact .of_next h (throttleStep_keeps (List.Subset.refl _) .refl)
  | leaseGrant => exact .of_next h (leaseGrant_keeps (List.Subset.refl _) .refl)
  | leaseRevoke => exact .of_next h (leaseRevoke_keeps (List.Subset.refl _) .refl)
  | leaseReclaimSave _ => exact .of_next h (leaseReclaimSave_keeps (List.Subset.refl _) .refl)
  | leaseLayerAbandon _ => exact .of_next h (leaseLayerAbandon_keeps (List.Subset.refl _) .refl)
  | leaseEnd _ => exact .of_next h (leaseEnd_keeps (List.Subset.refl _) .refl)
  | thermalWarning _ => exact .of_next h (thermalWarning_keeps (List.Subset.refl _) .refl)
  | thermalEmergency _ => exact .of_next h (thermalEmergency_keeps (List.Subset.refl _) .refl)
  | shedSlot _ => exact .of_next h (shedSlot_keeps (List.Subset.refl _) .refl)
  | cellShedComplete _ => exact .of_next h (cellShedComplete_keeps (List.Subset.refl _) .refl)
  | shedStepRepeat _ => exact .of_next h (shedStepRepeat_keeps (List.Subset.refl _) .refl)
  | commitPoint _ _ _ => exact .of_next h (commitPoint_keeps (List.Subset.refl _) .refl)
  | partitionEnable _ => exact .of_next h (partitionEnable_keeps (List.Subset.refl _) .refl)
  | partitionResume _ => exact .of_next h (partitionResume_keeps (List.Subset.refl _) .refl)
  | quiesceReset _ => exact .of_next h (quiesceReset_keeps (List.Subset.refl _) .refl)
  | resetDrainDone _ _ => exact .of_next h (resetDrainDone_keeps (List.Subset.refl _) .refl)
  | generationDiscard _ => exact .of_next h (generationDiscard_keeps (List.Subset.refl _) .refl)
  | partitionRelease _ => exact .of_next h (partitionRelease_keeps (List.Subset.refl _) .refl)
  | scrubDone _ _ _ _ _ => exact .of_next h (scrubDone_keeps (List.Subset.refl _) .refl)
  | vfEnableCleared _ => exact .of_next h (vfEnableCleared_keeps (List.Subset.refl _) .refl)
  | vfFlr _ => exact .of_next h (vfFlr_keeps (List.Subset.refl _) .refl)
  | kernelStart _ => exact .of_next h (kernelStart_keeps (List.Subset.refl _) .refl)
  | kernelOverrun _ => exact .of_next h (kernelOverrun_keeps (List.Subset.refl _) .refl)
  | kernelAbandon _ => exact .of_next h (kernelAbandon_keeps (List.Subset.refl _) .refl)
  | quantumExpiry _ => exact .of_next h (quantumExpiry_keeps (List.Subset.refl _) .refl)
  | contextSaveDone _ => exact .of_next h (contextSaveDone_keeps (List.Subset.refl _) .refl)
  | contextResumeDone _ _ => exact .of_next h (contextResumeDone_keeps (List.Subset.refl _) .refl)
  | batchCloseTimeout _ _ => exact .of_next h (batchCloseTimeout_keeps (List.Subset.refl _) .refl)
  | semSet _ => exact .of_next h (semSet_keeps (List.Subset.refl _) .refl)
  | semAcquire _ => exact .of_next h (semAcquire_keeps (List.Subset.refl _) .refl)
  | semRelease _ => exact .of_next h (semRelease_keeps (List.Subset.refl _) .refl)
  | holdExceeded _ _ => exact .of_next h (holdExceeded_keeps (List.Subset.refl _) .refl)
  | accountingUpdate _ => exact .of_next h (accountingUpdate_keeps (List.Subset.refl _) .refl)
  | energyAttribution _ _ _ _ _ => exact .of_next h (energyAttribution_keeps (List.Subset.refl _) .refl)
  | paceBlindRelease => exact .of_next h (paceBlindRelease_keeps (List.Subset.refl _) .refl)
  | cxlMemWrite _ _ _ _ => exact .of_access h (.ite (State.cxlWrite_keeps (List.Subset.refl _) .refl) .refl)
  | cxlMemRead _ _ _ _ => exact .of_access h (.ite (State.cxlRead_keeps (List.Subset.refl _) .refl) .refl)
  | loadImage _ _ _ => exact .of_next h (loadImage_keeps (List.Subset.refl _) .refl)
  | unloadImage _ => exact .of_next h (unloadImage_keeps (List.Subset.refl _) .refl)
  | unloadSlotIdle _ => exact .of_next h (unloadSlotIdle_keeps (List.Subset.refl _) .refl)
  | run _ => exact .of_next h (run_keeps (List.Subset.refl _) .refl)
  | mlist _ => exact .of_next h (mlist_keeps (List.Subset.refl _) .refl)
  | oplist _ => exact .of_next h (oplist_keeps (List.Subset.refl _) .refl)
  | accel _ => exact .of_next h (accel_keeps (List.Subset.refl _) .refl)
  | copy _ _ => exact .of_next h (copy_keeps (List.Subset.refl _) .refl)
  | l1Buf _ => exact .of_next h (l1Buf_keeps (List.Subset.refl _) .refl)
  | indicationDrop _ => exact .of_next h (indicationDrop_keeps (List.Subset.refl _) .refl)
  | ringEnable _ _ _ _ _ => exact .of_next h (ringEnable_keeps (List.Subset.refl _) .refl)
  | ringDisable _ _ => exact .of_next h (ringDisable_keeps (List.Subset.refl _) .refl)
  | ringDisableComplete _ => exact .of_next h (State.ringOff_keeps (List.Subset.refl _) .refl)
  | doorbellEvent _ _ => exact .of_next h (doorbellEvent_keeps (List.Subset.refl _) .refl)
  | doorbellReacquireTimeout _ => exact .of_next h (doorbellTimeout_keeps (List.Subset.refl _) .refl)
  | adminDbWrite _ _ _ => exact .of_next h (adminDbWrite_keeps (List.Subset.refl _) .refl)
  | descriptorFetch _ _ => exact .of_next h (descriptorFetch_keeps (List.Subset.refl _) .refl)
  | descriptorCompletion _ => exact .of_next h (descriptorCompletion_keeps (List.Subset.refl _) .refl)
  | windowLock => exact .of_next h (windowLock_keeps (List.Subset.refl _) .refl)
  | intcSetWrite _ _ => exact .of_next h (intcSetWrite_keeps (List.Subset.refl _) .refl)
  | intcEnWrite _ _ => exact .of_next h (intcEnWrite_keeps (List.Subset.refl _) .refl)
  | msixUnmask _ _ => exact .of_next h (msixUnmask_keeps (List.Subset.refl _) .refl)
  | cxlLinkTrained _ _ => exact .of_next h (cxlLinkTrained_keeps (List.Subset.refl _) .refl)
  | ideFailure => exact .of_next h (ideFailure_keeps (List.Subset.refl _) .refl)
  | refresh _ _ _ _ _ _ => exact .of_next h (refresh_keeps (List.Subset.refl _) .refl)
  | patrolRead _ _ => exact .of_next h (patrolRead_keeps (List.Subset.refl _) .refl)
  | expand _ _ _ => exact .of_next h (expand_keeps (List.Subset.refl _) .refl)
  | bucket _ _ _ => exact .of_next h (bucket_keeps (List.Subset.refl _) .refl)
  | gatherRows _ _ _ => exact .of_next h (gatherRows_keeps (List.Subset.refl _) .refl)
  | ropeLoad _ _ _ _ => exact .of_next h (State.ropeIssue_keeps (List.Subset.refl _) .refl)
  | ropeStore _ _ _ _ => exact .of_next h (State.ropeIssue_keeps (List.Subset.refl _) .refl)
  | addI32 _ _ _ _ => exact .of_next h (State.ropeIssue_keeps (List.Subset.refl _) .refl)
  | addI64 _ _ _ _ => exact .of_next h (State.ropeIssue_keeps (List.Subset.refl _) .refl)
  | minI64 _ _ _ _ => exact .of_next h (State.ropeIssue_keeps (List.Subset.refl _) .refl)
  | maxI64 _ _ _ _ => exact .of_next h (State.ropeIssue_keeps (List.Subset.refl _) .refl)
  | and64 _ _ _ _ => exact .of_next h (State.ropeIssue_keeps (List.Subset.refl _) .refl)
  | or64 _ _ _ _ => exact .of_next h (State.ropeIssue_keeps (List.Subset.refl _) .refl)
  | xor64 _ _ _ _ => exact .of_next h (State.ropeIssue_keeps (List.Subset.refl _) .refl)
  | swap64 _ _ _ _ => exact .of_next h (State.ropeIssue_keeps (List.Subset.refl _) .refl)
  | cas64 _ _ _ _ => exact .of_next h (State.ropeIssue_keeps (List.Subset.refl _) .refl)
  | addF32 _ _ _ _ => exact .of_next h (State.ropeIssue_keeps (List.Subset.refl _) .refl)
  | publish _ _ _ _ => exact .of_next h (State.ropeIssue_keeps (List.Subset.refl _) .refl)
  | digest _ _ _ _ => exact .of_next h (State.ropeIssue_keeps (List.Subset.refl _) .refl)
  | genFence _ _ _ _ => exact .of_next h (State.ropeIssue_keeps (List.Subset.refl _) .refl)
  | ropeFence _ _ _ _ => exact .of_next h (State.ropeIssue_keeps (List.Subset.refl _) .refl)
  | ropeHomeRequest _ => exact .of_next h (ropeHomeRequest_keeps (List.Subset.refl _) .refl)
  | ropeReply _ => exact .of_next h (ropeReply_keeps (List.Subset.refl _) .refl)
  | ropeRetry _ _ _ => exact .of_next h (ropeRetry_keeps (List.Subset.refl _) .refl)
  | remoteTimeout _ _ _ => exact .of_next h (remoteTimeout_keeps (List.Subset.refl _) .refl)
  | replayWindowAgeout _ _ => exact .of_next h (replayWindowAgeout_keeps (List.Subset.refl _) .refl)
  | ropeCreditGrant _ _ _ => exact .of_next h (ropeCreditGrant_keeps (List.Subset.refl _) .refl)
  | ropePortChange _ _ _ _ => exact .of_next h (ropePortChange_keeps (List.Subset.refl _) .refl)
  | ropeEnableWrite _ _ => exact .of_next h (ropeEnableWrite_keeps (List.Subset.refl _) .refl)
  | ropeHeartbeat _ _ => exact .of_next h (ropeHeartbeat_keeps (List.Subset.refl _) .refl)
  | memberDead _ => exact .of_next h (memberDead_keeps (List.Subset.refl _) .refl)
  | ropeEvict _ => exact .of_next h (ropeEvict_keeps (List.Subset.refl _) .refl)
  | selfExclude => exact .of_next h (selfExclude_keeps (List.Subset.refl _) .refl)
  | coordinatorLoss => exact .of_next h (coordinatorLoss_keeps (List.Subset.refl _) .refl)
  | epochReceive _ _ => exact .of_next h (epochReceive_keeps (List.Subset.refl _) .refl)
  | epochCommit => exact .of_next h (epochCommit_keeps (List.Subset.refl _) .refl)
  | epochAckTimeout _ => exact .of_next h (epochAckTimeout_keeps (List.Subset.refl _) .refl)
  | rejoin _ => exact .of_next h (rejoin_keeps (List.Subset.refl _) .refl)
  | globalEpochChange _ _ => exact .of_next h (globalEpochChange_keeps (List.Subset.refl _) .refl)
  | chunkSend _ _ => exact .of_next h (chunkSend_keeps (List.Subset.refl _) .refl)
  | chunkReceive _ => exact .of_next h (chunkReceive_keeps (List.Subset.refl _) .refl)
  | launchGateArm _ _ => exact .of_next h (launchGateArm_keeps (List.Subset.refl _) .refl)
  | launchGateFire _ => exact .of_next h (launchGateFire_keeps (List.Subset.refl _) .refl)
  | coldStartStageTimeout => exact .of_next h (coldStartStageTimeout_keeps (List.Subset.refl _) .refl)
  | frameReceive _ => exact .of_next h (frameReceive_keeps (List.Subset.refl _) .refl)
  | frameTransmit _ _ => exact .of_next h (frameTransmit_keeps (List.Subset.refl _) .refl)
  | ptpTransmit _ _ _ => exact .of_next h (ptpTransmit_keeps (List.Subset.refl _) .refl)
  | portEnable _ _ => exact .of_next h (portEnable_keeps (List.Subset.refl _) .refl)
  | portLinkChange _ _ _ => exact .of_next h (portLinkChange_keeps (List.Subset.refl _) .refl)
  | gclChange _ _ _ => exact .of_next h (gclChange_keeps (List.Subset.refl _) .refl)
  | gclTakeEffect _ _ => exact .of_next h (gclTakeEffect_keeps (List.Subset.refl _) .refl)
  | gateIntervalEnd _ _ => exact .of_next h (gateIntervalEnd_keeps (List.Subset.refl _) .refl)
  | allowLock => exact .of_next h (allowLock_keeps (List.Subset.refl _) .refl)
  | pqEnable _ _ => exact .of_next h (pqEnable_keeps (List.Subset.refl _) .refl)
  | pqTxPoll _ => exact .of_next h (pqTxPoll_keeps (List.Subset.refl _) .refl)
  | todRead => exact .of_next h (todRead_keeps (List.Subset.refl _) .refl)
  | timeSet _ => exact .of_next h (timeSetWrite_keeps (List.Subset.refl _) .refl)
  | announceTimeout => exact .of_next h (announceTimeout_keeps (List.Subset.refl _) .refl)
  | holdoverExceeded => exact .of_next h (holdoverExceeded_keeps (List.Subset.refl _) .refl)
  | cmpArm _ _ => exact .of_next h (cmpArm_keeps (List.Subset.refl _) .refl)
  | cmpFire _ => exact .of_next h (cmpFire_keeps (List.Subset.refl _) .refl)
  | ppsPulseEnd _ => exact .of_next h (ppsPulseEnd_keeps (List.Subset.refl _) .refl)
  | captureArm _ _ => exact .of_next h (captureArm_keeps (List.Subset.refl _) .refl)
  | captureEvent _ => exact .of_next h (captureEvent_keeps (List.Subset.refl _) .refl)
  | ryrnHeartbeat => exact .of_next h (ryrnHeartbeat_keeps (List.Subset.refl _) .refl)
  | watchdogQuiesce => exact .of_next h (watchdogQuiesce_keeps (List.Subset.refl _) .refl)
  | stage _ => exact .of_next h (fwStage_keeps (List.Subset.refl _) .refl)
  | activate => exact .of_next h (fwActivate_keeps (List.Subset.refl _) .refl)
  | discard => exact .of_next h (fwDiscard_keeps (List.Subset.refl _) .refl)
  | fwCommit => exact .of_next h (fwCommit_keeps (List.Subset.refl _) .refl)
  | fwRollback => exact .of_next h (fwRollback_keeps (List.Subset.refl _) .refl)
  | getVersion _ => exact .of_next h (getVersion_keeps (List.Subset.refl _) .refl)
  | getCapabilities _ => exact .of_next h (getCapabilities_keeps (List.Subset.refl _) .refl)
  | negotiateAlgorithms _ _ => exact .of_next h (negotiate_keeps (List.Subset.refl _) .refl)
  | getDigests _ => exact .of_next h (getDigests_keeps (List.Subset.refl _) .refl)
  | getCertificate _ _ _ _ => exact .of_next h (getCertificate_keeps (List.Subset.refl _) .refl)
  | challenge _ _ _ => exact .of_next h (challenge_keeps (List.Subset.refl _) .refl)
  | getMeasurements _ _ _ _ => exact .of_next h (getMeasurements_keeps (List.Subset.refl _) .refl)
  | keyExchange _ _ => exact .of_next h (keyExchange_keeps (List.Subset.refl _) .refl)
  | finish _ _ => exact .of_next h (finish_keeps (List.Subset.refl _) .refl)
  | spdmHeartbeat _ _ => exact .of_next h (spdmHeartbeat_keeps (List.Subset.refl _) .refl)
  | keyUpdate _ _ => exact .of_next h (keyUpdate_keeps (List.Subset.refl _) .refl)
  | endSession _ _ => exact .of_next h (endSession_keeps (List.Subset.refl _) .refl)
  | ideKm _ _ _ => exact .of_next h (ideKm_keeps (List.Subset.refl _) .refl)
  | tspLock _ => exact .of_next h (tspLock_keeps (List.Subset.refl _) .refl)
  | tspRun _ _ => exact .of_next h (tspRun_keeps (List.Subset.refl _) .refl)
  | backgroundKat _ _ => exact .of_next h (backgroundKat_keeps (List.Subset.refl _) .refl)
  | katUnit _ _ => exact .of_next h (katUnit_keeps (List.Subset.refl _) .refl)
  | katClass _ _ => exact .of_next h (katClass_keeps (List.Subset.refl _) .refl)
  | monitorCheck _ _ => exact .of_next h (monitorCheck_keeps (List.Subset.refl _) .refl)
  | marginCheck _ _ => exact .of_next h (marginCheck_keeps (List.Subset.refl _) .refl)
  | selftestDeferred _ => exact .of_next h (selftestDeferred_keeps (List.Subset.refl _) .refl)
  | startupSelftest _ _ _ _ _ => exact .of_next h (startupSelftest_keeps (List.Subset.refl _) .refl)
  | evrFreeze => exact .of_next h (evrFreeze_keeps (List.Subset.refl _) .refl)
  | evrUnfreeze => exact .of_next h (evrUnfreeze_keeps (List.Subset.refl _) .refl)
  | evrClear => exact .of_next h (evrClear_keeps (List.Subset.refl _) .refl)
  | auxPowerUp => exact .of_next h (auxPowerUp_keeps (List.Subset.refl _) .refl)
  | regulatorStart => exact .of_next h (regulatorStart_keeps (List.Subset.refl _) .refl)
  | powerGood => exact .of_next h (powerGoodUp_keeps (List.Subset.refl _) .refl)
  | resetRelease _ _ => exact .of_next h (resetRelease_keeps (List.Subset.refl _) .refl)
  | boot _ _ => exact .of_next h (boot_keeps (List.Subset.refl _) .refl)
  | brownOut => exact .of_next h (brownOut_keeps (List.Subset.refl _) .refl)
  | auxBrownOut => exact .of_next h (auxBrownOut_keeps (List.Subset.refl _) .refl)
  | coldRstN _ => exact .of_next h (coldRstN_keeps (List.Subset.refl _) .refl)
  | perstN => exact .of_next h (perstN_keeps (List.Subset.refl _) .refl)
  | warmRstN => exact .of_next h (warmRstN_keeps (List.Subset.refl _) .refl)
  | pwrReset _ => exact .of_next h (pwrReset_keeps (List.Subset.refl _) .refl)
  | pfFlr => exact .of_next h (pfFlr_keeps (List.Subset.refl _) .refl)
  | cxlHotReset => exact .of_next h (cxlHotReset_keeps (List.Subset.refl _) .refl)
  | thermalTrip _ _ => exact .of_next h (thermalTrip_keeps (List.Subset.refl _) .refl)
  | profileChange _ => exact .of_next h (profileChange_keeps (List.Subset.refl _) .refl)
  | standbyRequest _ => exact .of_next h (standbyRequest_keeps (List.Subset.refl _) .refl)
  | standbyEntered => exact .of_next h (standbyEntered_keeps (List.Subset.refl _) .refl)
  | standbyWakeWrite _ => exact .of_next h (standbyWakeWrite_keeps (List.Subset.refl _) .refl)
  | wakeN => exact .of_next h (wakeN_keeps (List.Subset.refl _) .refl)
  | wakeComplete _ => exact .of_next h (wakeComplete_keeps (List.Subset.refl _) .refl)
  | mgmtRead _ _ => exact .of_next h (mgmtRead_keeps (List.Subset.refl _) .refl)
  | ptpEnableWrite _ => exact .of_next h (ptpEnableWrite_keeps (List.Subset.refl _) .refl)
  | regionEnable _ => exact .of_next h (regionEnable_keeps (List.Subset.refl _) .refl)
  | warmRstNRelease => exact .of_next h (warmRstNRelease_keeps (List.Subset.refl _) .refl)
  | tspError _ => exact .of_next h (tspError_keeps (List.Subset.refl _) .refl)

/-- Settles O3. -/
theorem commandsWriteOnlyTheirParts : Obligations.CommandsWriteOnlyTheirParts := by
  unfold Obligations.CommandsWriteOnlyTheirParts
  exact fun _ _ _ h => (exec_keeps h).1

/-- A step that answers a next state ran the front command, or let a nanosecond pass. -/
theorem step_cases {s t : State} (h : step s = .next t) :
    (s.pending = [] ∧ t = s.tick) ∨
      ∃ c rest, s.pending = c :: rest ∧ exec c { s with pending := rest } = .next t := by
  cases hp : s.pending with
  | nil =>
    simp only [step, hp] at h
    exact .inl ⟨rfl, (Host.Outcome.next.inj h).symm⟩
  | cons c rest =>
    simp only [step, hp] at h
    exact .inr ⟨c, rest, rfl, h⟩

/-- No list of `writes` names the queue. -/
theorem pending_notMem_writes (c : Instr) : Fld.pending ∉ writes c := by
  unfold writes
  split <;> decide

/-- Settles O4: the front command runs on the state without it and leaves the queue as it finds it. -/
theorem stepsConsumeTheQueue : Obligations.StepsConsumeTheQueue := by
  unfold Obligations.StepsConsumeTheQueue
  intro s t h
  obtain ⟨hp, rfl⟩ | ⟨c, rest, hp, h⟩ := step_cases h
  · rw [hp]
    exact hp
  · rw [hp]
    exact (exec_keeps h).1 .pending (pending_notMem_writes c)

/-- Settles O5: dropping the front command touches no map, and the command keeps the form by its law. -/
theorem stepsKeepMapsCanonical : Obligations.StepsKeepMapsCanonical := by
  unfold Obligations.StepsKeepMapsCanonical
  intro s t hs h
  obtain ⟨-, rfl⟩ | ⟨c, rest, -, h⟩ := step_cases h
  · exact hs
  · exact (exec_keeps h).2 hs

/-- Settles O6. -/
theorem resetIsCanonical : Obligations.ResetIsCanonical := by
  unfold Obligations.ResetIsCanonical
  exact ⟨rfl, rfl⟩

/-- Settles O1. -/
theorem stepRunsTheFrontCommand : Obligations.StepRunsTheFrontCommand := by
  unfold Obligations.StepRunsTheFrontCommand
  intro c rest s hp
  constructor
  · simp only [step, hp]
  · rfl

/-- Settles O2. -/
theorem idleCountsANanosecond : Obligations.IdleCountsANanosecond := by
  unfold Obligations.IdleCountsANanosecond
  intro s hp
  refine ⟨s.tick, ?_, rfl, rfl, (State.tick_keeps (List.Subset.refl _) .refl).1⟩
  simp only [step, hp]

/-- A command stops the device only as an access of CXL.mem beyond the stack memory. -/
theorem exec_next_or_missing (c : Instr) (s : State) :
    (∃ t, exec c s = .next t) ∨
      (∃ a bs st tr, c = .cxlMemWrite a bs st tr ∧ s.memBytes < a + bs.length) ∨
      (∃ a n st tr, c = .cxlMemRead a n st tr ∧ s.memBytes < a + n) := by
  cases c
  case cxlMemWrite a bs st tr =>
    by_cases ha : a + bs.length ≤ s.memBytes
    · exact .inl ⟨_, if_pos ha⟩
    · exact .inr (.inl ⟨a, bs, st, tr, rfl, by omega⟩)
  case cxlMemRead a n st tr =>
    by_cases ha : a + n ≤ s.memBytes
    · exact .inl ⟨_, if_pos ha⟩
    · exact .inr (.inr ⟨a, n, st, tr, rfl, by omega⟩)
  all_goals exact .inl ⟨_, rfl⟩

/-- Settles O7. -/
theorem onlyMissingAddressesStop : Obligations.OnlyMissingAddressesStop := by
  unfold Obligations.OnlyMissingAddressesStop
  exact ⟨exec_next_or_missing, fun s a n bs st tr =>
    ⟨fun h => if_neg (Nat.not_le.mpr h), fun h => if_neg (Nat.not_le.mpr h)⟩⟩

/-- Of the lists of `writes`, a commit's alone names the fuses. -/
theorem fuses_notMem_writes {c : Instr} (hc : c ≠ .fwCommit) : Fld.fuses ∉ writes c := by
  cases c
  case fwCommit => exact absurd rfl hc
  all_goals simp [writes]

@[simp] theorem State.answerHeld_fuses (s : State) : s.answerHeld.fuses = s.fuses :=
  (State.answerHeld_keeps (List.Subset.refl _) .refl).1 .fuses (by decide)

@[simp] theorem State.finishDesc_fuses (s : State) (n i : Nat) (r : Result) :
    (s.finishDesc n i r).fuses = s.fuses :=
  (State.finishDesc_keeps (List.Subset.refl _) .refl).1 .fuses (by decide)

@[simp] theorem State.setFw_fuses (s : State) (f : FwState) : (s.setFw f).fuses = s.fuses :=
  (State.setFw_keeps (List.Subset.refl _) .refl).1 .fuses (by decide)

@[simp] theorem State.endSessions_fuses (s : State) (fn : Nat) : (s.endSessions fn).fuses = s.fuses :=
  (State.endSessions_keeps (List.Subset.refl _) .refl).1 .fuses (by decide)

/-- A commit leaves `min_svn` where it is or raises it to the image's. -/
theorem minSvn_le_fwCommit (s : State) : s.fuses.minSvn ≤ (fwCommit s).fuses.minSvn := by
  unfold fwCommit
  split
  · next im _ =>
    split
    · rw [State.answerHeld_fuses, State.finishDesc_fuses, State.setFw_fuses, State.endSessions_fuses]
      show s.fuses.minSvn ≤ if s.sec.raiseSvn then max s.fuses.minSvn im.svn else s.fuses.minSvn
      split
      · exact Nat.le_max_left _ _
      · exact Nat.le_refl _
    · exact Nat.le_refl _
  · exact Nat.le_refl _

/-- Settles O53. -/
theorem minSvnNeverFalls : Obligations.MinSvnNeverFalls := by
  unfold Obligations.MinSvnNeverFalls
  intro c s t h
  have hfuses : c ≠ .fwCommit → t.fuses = s.fuses := fun hc =>
    (exec_keeps h).1 .fuses (fuses_notMem_writes hc)
  refine ⟨?_, hfuses⟩
  by_cases hc : c = .fwCommit
  · subst hc
    exact Host.Outcome.next.inj h ▸ minSvn_le_fwCommit s
  · exact Nat.le_of_eq (congrArg Fuses.minSvn (hfuses hc).symm)

end Sys2Proof.Machine
end

section
/-! The maps of a canonical state are in canonical form, one by one: what the reads after a write ask for. -/

namespace Sys2Proof.Machine

theorem State.canon_iff (s : State) : s.canon = true ↔
    SMap.wf regReset s.regs = true ∧ SMap.wf (fun _ => none) s.staged = true ∧
    SMap.wf (fun _ => none) s.latched = true ∧ SMap.wf byteZero s.host = true ∧ SMap.wf byteZero s.stack = true ∧
    SMap.wf byteZero s.tileW = true ∧ SMap.wf byteZero s.tileA = true ∧ SMap.wf byteZero s.ledge = true ∧
    SMap.wf msixReset s.msixT = true ∧ SMap.wf (fun _ => false) s.pba = true ∧
    SMap.wf (fun _ => Island.reset) s.islands = true ∧ SMap.wf (fun _ => Ring.reset) s.rings = true ∧
    SMap.wf (fun _ => Part.reset) s.parts = true ∧ SMap.wf (fun _ => CtlBucket.reset) s.ctl = true ∧
    SMap.wf (fun _ => Vde.reset) s.vdes = true := by
  simp only [State.canon, Bool.and_eq_true, and_assoc]

section
variable {s : State} (h : s.canon = true)
include h

theorem State.wf_regs : SMap.wf regReset s.regs = true := by
  obtain ⟨h, _⟩ := s.canon_iff.mp h
  exact h

theorem State.wf_staged : SMap.wf (fun _ => none) s.staged = true := by
  obtain ⟨_, h, _⟩ := s.canon_iff.mp h
  exact h

theorem State.wf_latched : SMap.wf (fun _ => none) s.latched = true := by
  obtain ⟨_, _, h, _⟩ := s.canon_iff.mp h
  exact h

theorem State.wf_host : SMap.wf byteZero s.host = true := by
  obtain ⟨_, _, _, h, _⟩ := s.canon_iff.mp h
  exact h

theorem State.wf_stack : SMap.wf byteZero s.stack = true := by
  obtain ⟨_, _, _, _, h, _⟩ := s.canon_iff.mp h
  exact h

theorem State.wf_tileW : SMap.wf byteZero s.tileW = true := by
  obtain ⟨_, _, _, _, _, h, _⟩ := s.canon_iff.mp h
  exact h

theorem State.wf_tileA : SMap.wf byteZero s.tileA = true := by
  obtain ⟨_, _, _, _, _, _, h, _⟩ := s.canon_iff.mp h
  exact h

theorem State.wf_ledge : SMap.wf byteZero s.ledge = true := by
  obtain ⟨_, _, _, _, _, _, _, h, _⟩ := s.canon_iff.mp h
  exact h

theorem State.wf_msixT : SMap.wf msixReset s.msixT = true := by
  obtain ⟨_, _, _, _, _, _, _, _, h, _⟩ := s.canon_iff.mp h
  exact h

theorem State.wf_pba : SMap.wf (fun _ => false) s.pba = true := by
  obtain ⟨_, _, _, _, _, _, _, _, _, h, _⟩ := s.canon_iff.mp h
  exact h

theorem State.wf_islands : SMap.wf (fun _ => Island.reset) s.islands = true := by
  obtain ⟨_, _, _, _, _, _, _, _, _, _, h, _⟩ := s.canon_iff.mp h
  exact h

theorem State.wf_rings : SMap.wf (fun _ => Ring.reset) s.rings = true := by
  obtain ⟨_, _, _, _, _, _, _, _, _, _, _, h, _⟩ := s.canon_iff.mp h
  exact h

theorem State.wf_parts : SMap.wf (fun _ => Part.reset) s.parts = true := by
  obtain ⟨_, _, _, _, _, _, _, _, _, _, _, _, h, _⟩ := s.canon_iff.mp h
  exact h

theorem State.wf_ctl : SMap.wf (fun _ => CtlBucket.reset) s.ctl = true := by
  obtain ⟨_, _, _, _, _, _, _, _, _, _, _, _, _, h, _⟩ := s.canon_iff.mp h
  exact h

theorem State.wf_vdes : SMap.wf (fun _ => Vde.reset) s.vdes = true := by
  obtain ⟨_, _, _, _, _, _, _, _, _, _, _, _, _, _, h⟩ := s.canon_iff.mp h
  exact h

end

end Sys2Proof.Machine
end

section
/-! O9, the access codes and the host accesses (00 R14, R17, R18; 09 R342): where a host access goes, what a read
latches, and the statement. -/

namespace Sys2Proof.Machine

-- The access codes.

theorem State.applyWrite_reg_self {s : State} (hs : s.canon = true) (a : Nat) (v : W32) :
    (s.applyWrite a v).reg a =
      ((s.reg a &&& ~~~BitVec.ofNat 32 (regDesc a).rw) ||| (v &&& BitVec.ofNat 32 (regDesc a).rw)) &&&
        ~~~(v &&& BitVec.ofNat 32 (regDesc a).w1c) :=
  State.reg_setReg_self s a _ (State.wf_regs hs)

theorem State.clearRC_reg_self {s : State} (hs : s.canon = true) (a : Nat) :
    (s.clearRC a).reg a = s.reg a &&& ~~~BitVec.ofNat 32 (regDesc a).rc :=
  State.reg_setReg_self s a _ (State.wf_regs hs)

theorem accessCodes : Says.AccessCodes := by
  unfold Says.AccessCodes
  intro s a i v hs hi
  rw [State.applyWrite_reg_self hs, State.clearRC_reg_self hs]
  generalize BitVec.ofNat 32 (regDesc a).rw = rw
  generalize BitVec.ofNat 32 (regDesc a).w1c = w1c
  generalize BitVec.ofNat 32 (regDesc a).rc = rc
  simp only [BitVec.getLsbD_and, BitVec.getLsbD_or, BitVec.getLsbD_not, hi, decide_true, Bool.true_and]
  constructor
  · cases w1c.getLsbD i <;> cases rw.getLsbD i <;> cases v.getLsbD i <;> simp
  · cases rc.getLsbD i <;> simp

-- Where a host access goes.

section
variable {s : State} {v : View} {off : Nat} (hreach : s.reached v = true) (hword : off % 4 = 0)
include hreach hword

theorem State.hostWrite_bar2 {fn : Nat} (hv : bar2 v = some fn) (w : W32) :
    s.hostWrite v off w 0xF = s.tableWrite fn off w := by
  simp [State.hostWrite, hreach, hword, hv]

theorem State.hostRead_bar2 {fn : Nat} (hv : bar2 v = some fn) :
    s.hostRead v off = { s with rdata := s.tableWord fn off } := by
  simp [State.hostRead, hreach, hword, hv]

theorem State.hostWrite_bar0 {a : Nat} (hv : bar2 v = none) (ha : s.viewAddr v off = some a) (w : W32) :
    s.hostWrite v off w 0xF =
      if pairLow a then (if s.lowHeld a then s.lowRefused a else s.stageLow a w)
      else if pairHigh a then s.applyHigh v a w
      else s.pfWrite v a w := by
  simp [State.hostWrite, hreach, hword, hv, ha]

theorem State.hostRead_bar0 {a : Nat} (hv : bar2 v = none) (ha : s.viewAddr v off = some a) :
    s.hostRead v off = s.pfRead a := by
  simp [State.hostRead, hreach, hword, hv, ha]

end

-- What a read latches (00 R14).

@[simp] theorem exec_lowWordRead (v : View) (off : Nat) (s : State) :
    exec (.lowWordRead v off) s = .next (if s.isLow v off then s.hostRead v off else s) := rfl

@[simp] theorem State.readClear_latched (s : State) (a : Nat) : (s.readClear a).latched = s.latched :=
  (State.readClear_keeps (List.Subset.refl _) .refl).1 .latched (by decide)

@[simp] theorem todRead_latched (s : State) : (todRead s).latched = s.latched :=
  (todRead_keeps (List.Subset.refl _) .refl).1 .latched (by decide)

theorem State.pfRead_latched (s : State) (a : Nat) :
    (s.pfRead a).latched = if pairLow a then
        SMap.put (fun _ => none) (s.readWord a).2.latched (a + 4) (some (s.pfWord (a + 4)))
      else (s.readWord a).2.latched := by
  unfold State.pfRead
  dsimp only
  by_cases ht : a = aTIME
  · rw [if_pos ht, todRead_latched, apply_ite State.latched]
  · rw [if_neg ht, State.readClear_latched, apply_ite State.latched]

theorem State.wf_readWord_latched {s : State} (hs : s.canon = true) (a : Nat) :
    SMap.wf (fun _ => none) (s.readWord a).2.latched = true :=
  State.wf_latched ((State.readWord_keeps (List.Subset.refl _) Keeps.refl _ rfl).2 hs)

theorem State.pfRead_latched_high {s : State} (hs : s.canon = true) {a : Nat} (hlow : pairLow a = true) :
    SMap.get (fun _ => none) (s.pfRead a).latched (a + 4) = some (s.pfWord (a + 4)) := by
  rw [State.pfRead_latched, if_pos hlow, SMap.get_put_self _ _ _ (State.wf_readWord_latched hs a)]

/-- The read of a high word returns what was latched and empties the latch. -/
theorem State.readWord_of_latched {s : State} {a : Nat} {x : W32}
    (hx : SMap.get (fun _ => none) s.latched a = some x) :
    s.readWord a = (x, { s with latched := SMap.put (fun _ => none) s.latched a none }) := by
  simp only [State.readWord, hx]

theorem State.pfRead_of_latched {s : State} (hs : s.canon = true) {a : Nat} {x : W32}
    (hx : SMap.get (fun _ => none) s.latched a = some x) (hlow : pairLow a = false) :
    (s.pfRead a).rdata = x ∧ SMap.get (fun _ => none) (s.pfRead a).latched a = none := by
  constructor
  · rw [State.pfRead_rdata, State.readWord_of_latched hx]
  · rw [State.pfRead_latched, if_neg (by simp [hlow]), State.readWord_of_latched hx]
    exact SMap.get_put_self _ _ _ (State.wf_latched hs)

theorem State.stageLow_get {s : State} (hs : s.canon = true) (a : Nat) (w : W32) :
    SMap.get (fun _ => none) (s.stageLow a w).staged a = some w :=
  SMap.get_put_self _ _ _ (State.wf_staged hs)

theorem registerAccesses : Says.RegisterAccesses := by
  unfold Says.RegisterAccesses
  intro s v off w hreach hword hs
  refine ⟨fun a hv ha => ?_, fun fn hv => ?_⟩
  · have hwrite := State.hostWrite_bar0 hreach hword hv ha w
    have hread := State.hostRead_bar0 hreach hword hv ha
    have hisLow : s.isLow v off = pairLow a := by simp [State.isLow, ha]
    have hisHigh : s.isHigh v off = pairHigh a := by simp [State.isHigh, ha]
    refine ⟨fun hlow hhigh => ?_, fun hlow hfree => ?_, fun hlow hhigh => ?_, fun hlow => ?_, fun x hx hlow _ => ?_⟩
    · rw [exec_registerWrite, hwrite, hlow, hhigh, if_neg Bool.false_ne_true, if_neg Bool.false_ne_true]
    · refine ⟨s.stageLow a w, ?_, (State.stageLow_keeps (List.Subset.refl _) .refl).1, State.stageLow_get hs a w⟩
      rw [exec_lowWordWrite, hisLow, hwrite, hlow, hfree, if_pos rfl, if_pos rfl, if_neg Bool.false_ne_true]
    · rw [exec_highWordWrite, hisHigh, hwrite, hlow, hhigh, if_pos rfl, if_neg Bool.false_ne_true, if_pos rfl]
    · refine ⟨s.pfRead a, ?_, s.pfRead_rdata a, State.pfRead_latched_high hs hlow⟩
      simp [hisLow, hread, hlow]
    · obtain ⟨hdata, hlatch⟩ := State.pfRead_of_latched hs hx hlow
      exact ⟨s.pfRead a, by rw [exec_rcRegisterRead, hread], hdata, hlatch⟩
  · rw [exec_registerWrite, exec_rcRegisterRead, State.hostWrite_bar2 hreach hword hv,
      State.hostRead_bar2 hreach hword hv]
    exact ⟨rfl, rfl⟩

/-- Settles O9. -/
theorem registersRespond : Obligations.RegistersRespond := by
  unfold Obligations.RegistersRespond
  exact ⟨accessCodes, registerAccesses⟩

end Sys2Proof.Machine
end

section
/-! O10, the samples of the speed monitors (01 R34, R36; 07 R243). -/

namespace Sys2Proof.Machine

theorem State.endEmerg_islands (s : State) (d : Nat) (was : Emerg) : (s.endEmerg d was).islands = s.islands :=
  (State.endEmerg_keeps (List.Subset.refl _) .refl).1 .islands (by decide)

theorem State.endPace_islands (s : State) (d i : Nat) : (s.endPace d i).islands = s.islands :=
  (State.endPace_keeps (List.Subset.refl _) .refl).1 .islands (by decide)

/-- What is written to an island and only followed by the end of an emergency stays there. -/
theorem State.island_endEmerg_setIsland {s : State} (hs : SMap.wf (fun _ => Island.reset) s.islands = true)
    (d i d' : Nat) (was : Emerg) (x : Island) : (((s.setIsland d i x).endEmerg d' was).island d i) = x := by
  rw [State.island, State.endEmerg_islands]
  exact State.island_setIsland_self s d i x hs

/-- Settles O10: what follows the sample, the end of an emergency, leaves the island as the sample sets it. -/
theorem paceSamples : Obligations.PaceSamples := by
  unfold Obligations.PaceSamples
  intro s d i r rest temp hs hup hstandby hd hi
  have hruns : (s.up && decide (s.power.standby ≠ .standby) && decide (d < 2) && decide (i < 8)) = true := by
    simp [hup, hstandby, hd, hi]
  have hwf : ∀ low : Bool, SMap.wf (fun _ => Island.reset) (if low then s else s.endPace d i).islands = true := by
    intro low
    rw [apply_ite State.islands, State.endPace_islands, ite_self]
    exact State.wf_islands hs
  refine ⟨_, rfl, ?_⟩
  rw [paceSample, if_pos hruns]
  dsimp only
  rw [State.island_endEmerg_setIsland (hwf _)]
  exact ⟨rfl, rfl, rfl, rfl, rfl, rfl⟩

end Sys2Proof.Machine
end

section
/-! O11 and O12, stalls, re-issues, lost tiles, known-answer mismatches and declarations (01 R28, R39 to R43; 14 R465
to R474). -/

namespace Sys2Proof.Machine

theorem exec_stall_of_inService {s : State} {u : UnitId} (un : List (Nat × Nat × Bool)) (hawake : s.awake = true)
    (hexists : u.exists' = true) (hin : s.isRetired u = false) :
    exec (.stall u un) s = .next
      (if s.inRadio u then
        ((s.record 0x0101 (siteUnit u) (lo32 u.island) (s.unitTemp u)).declareUnit u).noticeUnserved u.die un
       else (s.record 0x0101 (siteUnit u) (lo32 u.island) (s.unitTemp u)).declareUnit u) := by
  show Host.Outcome.next (stall u un s) = _
  rw [stall, hawake, hexists, hin]
  rfl

theorem exec_substitutionReissue_of_find {s : State} {u : UnitId} {x : Subst}
    (hx : s.units.substs.find? (fun x => decide (x.unit = u) && (x.spare.isSome || x.moved)) = some x) :
    exec (.substitutionReissue u) s = .next
      (let t := { s with units := { s.units with substs := s.units.substs.filter (fun y => decide (y.unit ≠ u)) } }
       let v := if x.spare.isSome then t.record 0x0106 (siteUnit u) (lo32 u.island) (s.usSince x.t0) else t
       let w := if u.cls = .tile then v.reissueOn u else v
       let y := if w.inRadio u then w.markFault u.die u.island else w
       let z := State.nextSubst u.die y.units.substs.length y
       z.enabledParts.foldl State.maybeSave z) := by
  show Host.Outcome.next (substitutionReissue u s) = _
  rw [substitutionReissue, hx]

theorem exec_partitionStopTileLost_of_idle {s : State} {p d i : Nat}
    (hlost : s.units.tilesLost.find? (fun e => decide (e.1 = p)) = some (p, d, i))
    (hidle : (s.partKernels p).isEmpty = true) (hrun : (s.part p).state = .running) :
    exec (.partitionStopTileLost p) s = .next
      (((s.clearLost p).enterPart p .stopped).postPart p 0x02 (lo32 (d * 2 ^ 16 + i)) 0 0 0) := by
  show Host.Outcome.next (partitionStopTileLost p s) = _
  rw [partitionStopTileLost, hlost]
  simp [hidle, hrun]

-- Declarations.

theorem State.declareUnit_of_out {s : State} {u : UnitId} (hout : s.underSubst u = true ∨ s.isRetired u = true) :
    s.declareUnit u = s := by
  have hskip : (s.underSubst u || s.isRetired u) = true := by simpa using hout
  rw [State.declareUnit, if_pos hskip]

theorem State.declareUnit_of_in {s : State} {u : UnitId} (hsubst : s.underSubst u = false)
    (hin : s.isRetired u = false) :
    s.declareUnit u = ((s.noteDeclared (siteUnit u) (lo32 u.island) (s.unitTemp u)).markTests (.unit u)
      (fun q => { q with declared := true })).substitute u := by
  rw [State.declareUnit, hsubst, hin]
  rfl

/-- Settles O11. -/
theorem unitFaultsComplete : Obligations.UnitFaultsComplete := by
  unfold Obligations.UnitFaultsComplete Says.UnitFaultsAct Says.DeclarationsStand
  refine ⟨⟨fun s u un => exec_stall_of_inService un, fun s u x => exec_substitutionReissue_of_find,
    fun s p d i => exec_partitionStopTileLost_of_idle⟩, fun s u => ⟨State.declareUnit_of_out, ?_⟩⟩
  intro hsubst hin
  exact State.declareUnit_of_in hsubst hin

-- Known-answer mismatches.

/-- What a known-answer mismatch of a unit leaves before it is judged: its counts and its record (14 R472, R478). -/
def State.noteMismatch (s : State) (u : UnitId) : State :=
  (s.countKat true).record 0x0102 (siteUnit u) (lo32 u.island) ((s.countKat true).unitTemp u)

theorem State.noteMismatch_keeps (s : State) (u : UnitId) :
    Keeps [.regs, .pba, .msixHeld, .outs, .summit, .ctl] s (s.noteMismatch u) :=
  State.record_keeps (List.Subset.refl _) (State.countKat_keeps (by decide) .refl)

@[simp] theorem State.noteMismatch_units (s : State) (u : UnitId) : (s.noteMismatch u).units = s.units :=
  (s.noteMismatch_keeps u).1 .units (by decide)

@[simp] theorem State.noteMismatch_islands (s : State) (u : UnitId) : (s.noteMismatch u).islands = s.islands :=
  (s.noteMismatch_keeps u).1 .islands (by decide)

@[simp] theorem State.noteMismatch_now (s : State) (u : UnitId) : (s.noteMismatch u).now = s.now :=
  (s.noteMismatch_keeps u).1 .now (by decide)

/-- Units in and out of service, by the units' state alone. -/
theorem State.noteMismatch_inService {s : State} (u v : UnitId) :
    (s.noteMismatch v).underSubst u = s.underSubst u ∧ (s.noteMismatch v).isRetired u = s.isRetired u := by
  simp only [State.underSubst, State.isRetired, State.noteMismatch_units, and_self]

/-- The event that a fault of a unit is counted as depends on its site, its bins and the time alone. -/
theorem State.unitEvt_congr {s t : State} (hserved : t.units.served = s.units.served)
    (hislands : t.islands = s.islands) (hnow : t.now = s.now) (u : UnitId) (kind : Nat) :
    t.unitEvt u kind = s.unitEvt u kind := by
  simp only [State.unitEvt, State.physOf, State.physBins, State.physIsland, State.island, hserved, hislands, hnow]

theorem State.countUnit_of_in {s : State} {u : UnitId} (hsubst : s.underSubst u = false)
    (hin : s.isRetired u = false) (kind : Nat) :
    s.countUnit u kind =
      if s.lastingWith (s.unitEvt u kind) then (s.addFault (s.unitEvt u kind)).declareUnit u
      else s.addFault (s.unitEvt u kind) := by
  rw [State.countUnit, hsubst, hin]
  rfl

theorem State.katMismatch_unit {s : State} {u : UnitId} (hsubst : s.underSubst u = false)
    (hin : s.isRetired u = false) :
    s.katMismatch (.unit u) =
      if (s.noteMismatch u).lastingWith ((s.noteMismatch u).unitEvt u 0x0102) then
        ((s.noteMismatch u).addFault ((s.noteMismatch u).unitEvt u 0x0102)).declareUnit u
      else (s.noteMismatch u).addFault ((s.noteMismatch u).unitEvt u 0x0102) := by
  obtain ⟨hs, hr⟩ := s.noteMismatch_inService u u
  exact State.countUnit_of_in (hs.trans hsubst) (hr.trans hin) 0x0102

/-- The second condition of R465: the same event of the same unit in the same bins within an hour. -/
theorem State.lastingWith_of_mem {s : State} {e : FaultEvt} (h : e ∈ s.units.faults) : s.lastingWith e = true := by
  have hany : ((s.units.faults.filter (fun f => decide (f.key = e.key))).any (fun f => decide (f.kind = e.kind)
      && decide (f.vbin = e.vbin) && decide (f.tbin = e.tbin)
      && decide (e.time ≤ f.time + 3_600_000_000_000))) = true :=
    List.any_eq_true.mpr ⟨e, List.mem_filter.mpr ⟨h, by simp⟩, by simp⟩
  rw [State.lastingWith, hany, Bool.or_true]

theorem exec_backgroundKat {s : State} (t : KatTarget) (run : KatRun) (hawake : s.awake = true)
    (hwork : s.power.withheld = false) (hold : s.oldest t = true) :
    exec (.backgroundKat t run) s = .next (s.katRun t run) := by
  show Host.Outcome.next (backgroundKat t run s) = _
  rw [backgroundKat, hawake, hwork, hold]
  rfl

section
variable {s v : State} {u : UnitId} {e : FaultEvt} (hsubst : s.underSubst u = false) (hin : s.isRetired u = false)
  (he : e = (s.noteMismatch u).unitEvt u 0x0102) (hv : v = (s.noteMismatch u).addFault e)
include he hv

/-- The event of a first mismatch stands among the faults when the further run mismatches, and is the same event. -/
theorem State.second_mismatch_lasts : (v.noteMismatch u).unitEvt u 0x0102 = e ∧
    e ∈ (v.noteMismatch u).units.faults ∧ (v.noteMismatch u).lastingWith e = true := by
  have hagain : (v.noteMismatch u).unitEvt u 0x0102 = e :=
    (State.unitEvt_congr (by simp [hv, State.addFault]) (by simp [hv, State.addFault])
      (by simp [hv, State.addFault]) u 0x0102).trans he.symm
  have hmem : e ∈ (v.noteMismatch u).units.faults := by simp [hv, State.addFault]
  exact ⟨hagain, hmem, State.lastingWith_of_mem hmem⟩

include hsubst hin

theorem State.katMismatch_unit_first (hfirst : (s.noteMismatch u).lastingWith e = false) :
    s.katMismatch (.unit u) = v := by
  rw [State.katMismatch_unit hsubst hin, ← he, hfirst, if_neg Bool.false_ne_true, hv]

theorem State.katMismatch_unit_second :
    v.katMismatch (.unit u) = ((v.noteMismatch u).addFault e).declareUnit u := by
  obtain ⟨hagain, -, hlast⟩ := State.second_mismatch_lasts he hv
  have hin' : v.underSubst u = false ∧ v.isRetired u = false := by
    subst hv
    obtain ⟨hs, hr⟩ := s.noteMismatch_inService u u
    exact ⟨hs.trans hsubst, hr.trans hin⟩
  rw [State.katMismatch_unit hin'.1 hin'.2, hagain, if_pos hlast]

end

/-- Settles O12: the event of a first mismatch stands among the faults when the further run mismatches, so the second
condition of R465 holds of it. -/
theorem stallsAndMismatchesDeclare : Obligations.StallsAndMismatchesDeclare := by
  unfold Obligations.StallsAndMismatchesDeclare
  intro s u hawake hexists hin hsubst
  refine ⟨fun un => exec_stall_of_inService un hawake hexists hin, State.declareUnit_of_in hsubst hin,
    fun _ _ _ => rfl, fun hlast => ?_, fun hfirst hwork hold => ?_⟩
  · exact (State.katMismatch_unit hsubst hin).trans (if_pos hlast)
  · have hkat := State.katMismatch_unit_first hsubst hin rfl rfl hfirst
    have hrun := fun r => exec_backgroundKat (.unit u) r hawake hwork hold
    exact ⟨(hrun .mismatchPass).trans (congrArg (fun v : State => Host.Outcome.next ((v.countKat false).notePass (.unit u))) hkat),
      (hrun .mismatchTwice).trans (congrArg Host.Outcome.next
        ((congrArg (fun v : State => v.katMismatch (.unit u)) hkat).trans
          (State.katMismatch_unit_second hsubst hin rfl rfl))),
      State.second_mismatch_lasts rfl rfl⟩

end Sys2Proof.Machine
end

section
/-! O13, tile instructions issue (03 R91 to R98, R124, R125; 02 R78, R80): the row of an opcode, what a LOAD holds and
what a product leaves for its epilogue. -/

namespace Sys2Proof.Machine

/-- The row of an opcode starts the instruction that is due with a fresh record. -/
theorem State.issueRow_fresh {s : State} {k : Kernel} {op kid idx rank die tile : Nat} {words ws : List W32}
    (sram : List SramErr) (hk : s.kernel kid = some k)
    (htile : k.tiles[if k.kind = .mlist then 0 else rank]? = some (die, tile)) (hawake : s.awake = true)
    (hwork : s.power.withheld = false) (hsubst : s.underSubst ⟨die, .tile, tile⟩ = false)
    (hclean : k.clean idx = true)
    (hkind : k.kind = .run ∨ k.kind = .mlist ∧ idx < k.count ∧ (idx = 0 ∨ (k.insAt (idx - 1)).isSome = true))
    (hnew : k.insAt idx = none) (hws : s.fetchIns k idx words = .words ws)
    (hready : k.tileReady die tile idx ws = true) (hop : miOp ws = op) :
    s.issueRow op kid idx rank words sram =
      (if k.kind = .mlist then s.issuerCorrects k.issuer (k.bases.getD 0 0 + k.listOff + 128 * idx) 128 else s).startIns
        k { InsRec.fresh idx die tile [] s.now with words := ws } sram false := by
  have hdue : (s.awake && !s.power.withheld && (decide (k.kind = .run) || decide (k.kind = .mlist)) &&
      !(s.underSubst ⟨die, .tile, tile⟩) && k.clean idx && (decide (k.kind = .run) || (decide (idx < k.count)
        && (decide (idx = 0) || (k.insAt (idx - 1)).isSome)))) = true := by
    rw [hawake, hwork, hsubst, hclean]
    obtain hrun | ⟨hlist, hcount, hprev⟩ := hkind
    · simp [hrun]
    · simp only [hlist, hcount, decide_true, Bool.or_true, Bool.true_and, Bool.and_true, Bool.not_false,
        Bool.or_eq_true, decide_eq_true_eq]
      exact .inr hprev
  simp only [State.issueRow, hk, htile]
  rw [if_pos hdue, hnew]
  simp only [hws]
  rw [if_pos hop, if_pos hready]

theorem tileRowsIssue : Says.TileRowsIssue := by
  unfold Says.TileRowsIssue
  intro s k kid idx rank die tile words ws sram hk htile hawake hwork hsubst hclean hkind hnew hws hready e he hop
  have hrow : ∀ op, miOp ws = op → s.issueRow op kid idx rank words sram = _ := fun op =>
    State.issueRow_fresh sram hk htile hawake hwork hsubst hclean hkind hnew hws hready
  simp only [List.mem_cons, List.not_mem_nil, or_false] at he
  obtain rfl | rfl | rfl | rfl := he
  all_goals exact congrArg Host.Outcome.next (hrow _ hop)

theorem loadHoldsItsStore : Says.LoadHoldsItsStore := by
  unfold Says.LoadHoldsItsStore
  intro s k r hbad hregion hue hcounted
  rw [State.runLoad]
  simp only [hbad, hregion, hue, hcounted, List.find?_nil, Bool.false_eq_true, if_false]

@[simp] theorem State.fetchErrors_nil (s : State) (die tile : Nat) : s.fetchErrors die tile [] = s := rfl

theorem State.startIns_of_fail {s : State} {k : Kernel} {r : InsRec} {f : Result} (hop : miOp r.words ≠ 0x01)
    (hf : s.decodeIns (k.site r.die r.tile) r.words = .fail f) : s.startIns k r [] false = s.failIns k.id r f := by
  rw [State.startIns]
  simp only [State.fetchErrors_nil, if_neg hop, Bool.false_eq_true, if_false, hf]

/-- A product that is decoded starts with its chain block and its rows. -/
theorem State.startIns_of_ok {s : State} {k : Kernel} {r : InsRec} {b : List W32} {ix : List Nat} {e : Nat}
    (hop : miOp r.words ≠ 0x01) (hok : s.decodeIns (k.site r.die r.tile) r.words = .ok b ix e) :
    s.startIns k r [] false = s.startProduct k { r with chain := b, rows := ix, expert := e } [] := by
  rw [State.startIns]
  simp only [State.fetchErrors_nil, List.filter_nil, if_neg hop, Bool.false_eq_true, if_false, hok]

/-- A product without a chain has no prologue: it streams when it has been decoded. -/
theorem State.startProduct_unchained {s : State} {k : Kernel} {r : InsRec} (hchain : miChained r.words = false)
    (sram : List SramErr) : s.startProduct k r sram = s.streamIns k r sram := by
  rw [State.startProduct, hchain]
  rfl

theorem insLatency_unchained {w : Mi} (hchain : miChained w = false) (b : List W32) :
    insLatency w b = miLatency w 16 0 := by
  simp [insLatency, hchain]

theorem InsRec.feed_unchained {r : InsRec} (hchain : miChained r.words = false) :
    r.feed = ⟨r.rows, r.expert, miFmtA r.words⟩ := by
  simp [InsRec.feed, miSourceFmt, hchain]

/-- What a product without a chain leaves when its block has drained. -/
def InsRec.drainedFrom (q : InsRec) (blk : Block) : InsRec :=
  { q with
    phase := .drained, kind := miKind q.words, re := blk.re, im := blk.im, sats := blk.sats, satRows := blk.satRows,
    satCols := blk.satCols, clamps := blk.clamps, magRow := blk.magRow, magCol := blk.magCol,
    driftRow := blk.driftRow, driftCol := blk.driftCol,
    masked := (List.range (miM q.words)).filter (miMasked q.words q.rows), sums := [], runs := 1, rerun := false,
    counted := true }

theorem State.streamIns_unchained {s : State} {k : Kernel} {q : InsRec} (hchain : miChained q.words = false)
    (hcounted : q.counted = false)
    (hstream : s.streamFail (k.site q.die q.tile) q.words ⟨q.rows, q.expert, miFmtA q.words⟩ [] = none) :
    s.streamIns k q [] =
      (let t := s.locCorrects (k.site q.die q.tile) q.streamReads
       let blk := t.product (k.site q.die q.tile) q.words ⟨q.rows, q.expert, miFmtA q.words⟩
         (t.allA (k.site q.die q.tile) q.words ⟨q.rows, q.expert, miFmtA q.words⟩)
       ((t.putIns k.id (q.drainedFrom blk)).tileWork k q (miLatency q.words 16 0)).account k.issuer (fun a =>
         { a with
           macs := a.macs + miMacs q.words q.rows
           stackBytes := a.stackBytes + miStackBytes q.words ⟨q.rows, q.expert, miFmtA q.words⟩
             + (if miOp q.words = 0x12 ∧ miK q.words ≠ 0 then stackCost (miCode q.words .index) 288 else 0) })) := by
  rw [State.streamIns]
  simp only [InsRec.feed_unchained hchain, hchain, hcounted, hstream, insLatency_unchained hchain, Bool.false_and,
    Bool.false_eq_true, if_false, Nat.add_zero, Bool.and_eq_true, decide_eq_true_eq]
  rfl

theorem productsDrain : Says.ProductsDrain := by
  unfold Says.ProductsDrain
  intro s k r hop
  refine ⟨fun f hf => State.startIns_of_fail hop hf, fun b ix e hok hchain hcounted hstream => ?_⟩
  have hstart := State.startIns_of_ok hop hok
  rw [State.startProduct_unchained (r := { r with chain := b, rows := ix, expert := e }) hchain,
    State.streamIns_unchained (q := { r with chain := b, rows := ix, expert := e }) hchain hcounted hstream] at hstart
  refine ⟨_, ?_, ?_, ?_, ?_, ?_, hstart⟩
  all_goals rfl

/-- Settles O13. -/
theorem tileInstructionsIssue : Obligations.TileInstructionsIssue := by
  unfold Obligations.TileInstructionsIssue
  exact ⟨tileRowsIssue, loadHoldsItsStore, productsDrain⟩

end Sys2Proof.Machine
end

section
/-! O14, drained blocks enter their epilogues (03 R112, R113, R118 to R120; 04 R127; 01 R39): what a run of a block
comes to, and the row of a chain field. -/

namespace Sys2Proof.Machine

-- The runs of a block.

theorem State.acceptRun_unchecked {r : InsRec} (hcheck : miCheck r.words = false) (s : State) (k : Kernel)
    (flips : List CellFlip) (n : Nat) :
    State.acceptRun k flips (n + 1) s r = .ok s { r with
      accRe := flipRun (miN r.words) r.runs r.masked false flips r.re
      accIm := flipRun (miN r.words) r.runs r.masked true flips r.im } := by
  rw [State.acceptRun, hcheck]
  rfl

section
variable {s : State} {k : Kernel} {r : InsRec} {flips : List CellFlip} {ck : CkRun} (n : Nat)
  (hcheck : miCheck r.words = true)
  (hck : ckCompare r.words r.block (flipRun (miN r.words) r.runs r.masked false flips r.re)
    (flipRun (miN r.words) r.runs r.masked true flips r.im) = ck)
include hcheck hck

theorem State.acceptRun_of_match (hgood : ck.bad = false) :
    State.acceptRun k flips (n + 1) s r = .ok s { r with
      ck := ck
      accRe := flipRun (miN r.words) r.runs r.masked false flips r.re
      accIm := flipRun (miN r.words) r.runs r.masked true flips r.im } := by
  simp [State.acceptRun, hcheck, hck, hgood]

variable {q : InsRec} (hbad : ck.bad = true)
  (hq : ((s.checksumEvent ⟨r.die, .tile, r.tile⟩ r.words).kernel k.id).bind (fun y => y.insAt r.idx) = some q)
include hbad hq

/-- A mismatch that takes the unit out of service abandons the instruction. -/
theorem State.acceptRun_of_abandoned (hout : q.phase = .abandoned ∨ q.phase = .queued ∨ q.tile ≠ r.tile) :
    State.acceptRun k flips (n + 1) s r = .stop (s.checksumEvent ⟨r.die, .tile, r.tile⟩ r.words) := by
  simp only [State.acceptRun, hcheck, hck, hbad, hq, if_true, if_pos hout]

variable (hstays : ¬(q.phase = .abandoned ∨ q.phase = .queued ∨ q.tile ≠ r.tile))
include hstays

theorem State.acceptRun_of_second (hrerun : r.rerun = true) :
    State.acceptRun k flips (n + 1) s r = .mismatch (s.checksumEvent ⟨r.die, .tile, r.tile⟩ r.words) := by
  simp only [State.acceptRun, hcheck, hck, hbad, hq, if_true, if_neg hstays, hrerun]

theorem State.acceptRun_of_first (hrerun : r.rerun = false) :
    State.acceptRun k flips (n + 1) s r = State.acceptRun k flips n
      ((s.checksumEvent ⟨r.die, .tile, r.tile⟩ r.words).rerun k r) { r with runs := r.runs + 1, rerun := true } := by
  rw [State.acceptRun]
  simp only [hcheck, hck, hbad, hq, if_true, if_neg hstays, hrerun, Bool.false_eq_true, if_false]

end

theorem checksumRuns : Says.ChecksumRuns := by
  unfold Says.ChecksumRuns
  intro s k r flips n
  have hstays : ∀ q : InsRec, q.phase ≠ .abandoned → q.phase ≠ .queued → q.tile = r.tile →
      ¬(q.phase = .abandoned ∨ q.phase = .queued ∨ q.tile ≠ r.tile) := by
    rintro q ha hq ht (h | h | h)
    · exact ha h
    · exact hq h
    · exact h ht
  refine ⟨fun hcheck => State.acceptRun_unchecked hcheck s k flips n, fun ck hcheck hck =>
    ⟨State.acceptRun_of_match n hcheck hck, fun q hbad hrerun hq ha hqu ht => ?_,
      fun q hbad hrerun hq ha hqu ht => ?_, fun q hbad hq => State.acceptRun_of_abandoned n hcheck hck hbad hq⟩⟩
  · exact State.acceptRun_of_first n hcheck hck hbad hq (hstays q ha hqu ht) hrerun
  · exact State.acceptRun_of_second n hcheck hck hbad hq (hstays q ha hqu ht) hrerun

-- The rows.

section
variable {s : State} {k : Kernel} {r : InsRec} {kid idx chain : Nat} {flips : List CellFlip}
  (hrec : s.recIn kid idx .drained = some (k, r)) (hfree : k.epilogueFree r = true)
  (hchain : miChain r.words = chain)
include hrec hfree hchain

theorem State.epilogueRow_of_ok {t : State} {r' : InsRec} (hrun : State.acceptRun k flips 2 s r = .ok t r') :
    s.epilogueRow chain kid idx flips = t.afterRun k r' flips := by
  simp [State.epilogueRow, hrec, hfree, hchain, hrun]

theorem State.epilogueRow_of_mismatch {t : State} (hrun : State.acceptRun k flips 2 s r = .mismatch t) :
    s.epilogueRow chain kid idx flips = t.failIns kid r (Result.of .checksumMismatch) := by
  simp [State.epilogueRow, hrec, hfree, hchain, hrun]

theorem State.epilogueRow_of_stop {t : State} (hrun : State.acceptRun k flips 2 s r = .stop t) :
    s.epilogueRow chain kid idx flips = t := by
  simp [State.epilogueRow, hrec, hfree, hchain, hrun]

end

theorem epilogueRowsRun : Says.EpilogueRowsRun := by
  unfold Says.EpilogueRowsRun
  intro s k r kid idx flips hrec hfree e he hchain
  have hrow : exec e.2 s = .next (s.epilogueRow e.1 kid idx flips) := by
    simp only [List.mem_cons, List.not_mem_nil, or_false] at he
    obtain rfl | rfl | rfl | rfl | rfl | rfl | rfl | rfl | rfl | rfl | rfl | rfl | rfl | rfl := he
    all_goals rfl
  rw [hrow]
  refine ⟨fun t r' hrun => ?_, fun t hrun => ?_, fun t hrun => ?_, fun hcheck => ?_⟩
  · rw [State.epilogueRow_of_ok hrec hfree hchain hrun]
  · rw [State.epilogueRow_of_mismatch hrec hfree hchain hrun]
  · rw [State.epilogueRow_of_stop hrec hfree hchain hrun]
  · rw [State.epilogueRow_of_ok hrec hfree hchain (State.acceptRun_unchecked hcheck s k flips 1)]

/-- Settles O14. -/
theorem epilogueRows : Obligations.EpilogueRows := by
  unfold Obligations.EpilogueRows
  exact ⟨epilogueRowsRun, checksumRuns⟩

end Sys2Proof.Machine
end

section
/-! O15, blocks commit and waits end (02 R72, R79, R80; 03 R114, R115; 04 R138; 08 R278), and the commands of the
gather/expand engine (10 R346, R350, R353 to R357). -/

namespace Sys2Proof.Machine

-- Commits.

theorem Kernel.turnOf_of_committedTo {k : Kernel} {r : InsRec} (h : k.committedTo r.idx = true) :
    k.turnOf r = true := by
  rw [Kernel.turnOf, h, Bool.true_or]

theorem State.statStores_of_none {s : State} {x : Site} {r : InsRec} (h : statsDue r.words r.chain = false) :
    s.statStores x r = [] := by
  rw [State.statStores, h]
  rfl

theorem State.statStores_of_due {s : State} {x : Site} {r : InsRec} (h : statsDue r.words r.chain = true) :
    s.statStores x r = [s.locStore x (miCode r.words .stats) (miOff r.words .stats)
      (statMerge (s.locWords x (miCode r.words .stats) (miOff r.words .stats) 8) r.delta)] := by
  rw [State.statStores, h]
  rfl

/-- The state in which the stores of an instruction have taken effect. -/
def State.committed (s : State) (k : Kernel) (r : InsRec) : State :=
  (s.applyStores k.issuer (r.stores ++ s.statStores (k.site r.die r.tile) r)).putIns k.id
    { r with phase := .committed, stores := [] }

section
variable {s : State} {k : Kernel} {r : InsRec} {last : Bool}
  (hstats : statsDue r.words r.chain = false ∨
    s.locUe (k.site r.die r.tile) (miCode r.words .stats) (miOff r.words .stats) 32 = none)
include hstats

/-- The statistics record can be read, or none is due. -/
theorem State.statsRead_none :
    (if statsDue r.words r.chain then
      (s.locUe (k.site r.die r.tile) (miCode r.words .stats) (miOff r.words .stats) 32).map
        (fun b => (s.mediaOf k.part b, some b)) else none) = none := by
  obtain h | h := hstats
  · rw [h, if_neg Bool.false_ne_true]
  · rw [h, Option.map_none, ite_self]

theorem State.commitIns_of_barred {e : Result × Option Media}
    (he : s.storesFail k.issuer (r.stores ++ s.statStores (k.site r.die r.tile) r) = some e) :
    s.commitIns k r last = s.failInsOr k r e := by
  simp only [State.commitIns, State.statsRead_none hstats, he]

theorem State.commitIns_of_stored {y : Kernel}
    (hgood : s.storesFail k.issuer (r.stores ++ s.statStores (k.site r.die r.tile) r) = none)
    (hy : (s.committed k r).kernel k.id = some y) :
    s.commitIns k r last =
      if (if y.kind = .mlist then decide (y.ins.length = y.count) else last)
          && y.ins.all (fun q => decide (q.phase = .committed)) then (s.committed k r).kernelBoundary y
      else (s.committed k r).settle k.id := by
  rw [State.committed] at hy
  simp only [State.commitIns, State.statsRead_none hstats, hgood, hy]
  rfl

end

theorem heldBlocksCommit : Says.HeldBlocksCommit := by
  unfold Says.HeldBlocksCommit
  intro s k r kid idx last hrec
  refine ⟨Kernel.turnOf_of_committedTo, fun hturn => ?_, State.statStores_of_none, State.statStores_of_due,
    fun hstats => ⟨fun e he => State.commitIns_of_barred hstats he, fun hgood y hy => ?_⟩⟩
  · show Host.Outcome.next (blockCommit kid idx last s) = _
    rw [blockCommit, hrec]
    simp only [hturn, if_true]
  · have hcommit := State.commitIns_of_stored (last := last) hstats hgood hy
    refine ⟨fun hend hall => ?_, fun hkind hlast => ?_, fun ⟨q, hq, hopen⟩ => ?_⟩
    · have hdone : y.ins.all (fun q => decide (q.phase = .committed)) = true := by simpa using hall
      have hlast : (if y.kind = .mlist then decide (y.ins.length = y.count) else last) = true := by
        split at hend
        · next hk => simpa [hk] using hend
        · next hk => simpa [hk] using hend
      rw [hcommit, hlast, hdone]
      rfl
    · rw [hcommit, if_neg hkind, hlast]
      rfl
    · have hopen' : y.ins.all (fun q => decide (q.phase = .committed)) = false := by
        rw [List.all_eq_false]
        exact ⟨q, hq, by simpa using hopen⟩
      rw [hcommit, hopen', Bool.and_false]
      rfl

-- Waits.

theorem State.timeoutIns_of_past {s : State} {k : Kernel} {r : InsRec} (hpast : r.since + k.maxUs * 1000 < s.now)
    (st : Status) : s.timeoutIns k r st = s.failIns k.id r { status := st, d4 := lo32 (s.usSince r.since) } := by
  rw [State.timeoutIns, State.waitedOut, decide_eq_true hpast]
  rfl

theorem instructionWaitsEnd : Says.InstructionWaitsEnd := by
  unfold Says.InstructionWaitsEnd
  intro s k r kid idx flips
  refine ⟨fun hrec => ⟨fun hheader => ?_, fun hpast => ?_⟩,
    fun hrec => ⟨fun hready => ?_, fun horder => ?_, fun hpast => ?_⟩, fun f => rfl,
    fun hstage hrec => ⟨fun hready => ?_, fun horder => ?_, fun hpast => ?_⟩⟩
  · show Host.Outcome.next (splitPartResume kid idx flips s) = _
    simp only [splitPartResume, hrec, hheader, if_true]
  · show Host.Outcome.next (splitTimeout kid idx s) = _
    simp only [splitTimeout, hrec, State.timeoutIns_of_past hpast]
  · show Host.Outcome.next (chainBufferReady kid idx flips s) = _
    simp only [chainBufferReady, hrec, hready]
  · show Host.Outcome.next (chainBufferReady kid idx flips s) = _
    simp only [chainBufferReady, hrec, horder]
  · show Host.Outcome.next (chainTimeout kid idx s) = _
    simp only [chainTimeout, hrec, State.timeoutIns_of_past hpast]
  · show Host.Outcome.next (chainBufferReady kid idx flips s) = _
    simp only [chainBufferReady, hstage, hrec, hready]
  · show Host.Outcome.next (chainBufferReady kid idx flips s) = _
    simp only [chainBufferReady, hstage, hrec, horder]
  · show Host.Outcome.next (chainTimeout kid idx s) = _
    simp only [chainTimeout, hstage, hrec, State.timeoutIns_of_past hpast]

-- Commands of the gather/expand engine.

section
variable {s : State} {kid idx : Nat} {words : List W32} {k : Kernel} (hk : s.kernel kid = some k)
  (hawake : s.awake = true) (hkind : k.kind = .run) (hclean : k.clean idx = true) (hnew : k.insAt idx = none)
  {op : Nat} {c : List W32} (hc : (List.range 16).map (wordAt words) = c) (hop : gxCmd c = op)
  {die : Nat} (hdie : ((k.tiles.head?).map Prod.fst).getD 0 = die)
  {go : State → Site → List W32 → GxOut}
include hk hawake hkind hclean hnew hc hop hdie

theorem State.gxCommand_of_bad {w : Nat} (hw : gxBad c = some w) :
    s.gxCommand op kid idx words go =
      s.failIns kid (InsRec.fresh idx die noTile [] s.now) (Result.badIns w) := by
  simp [State.gxCommand, hk, hawake, hkind, hclean, hnew, hc, hw, hop, hdie]

variable (hgood : gxBad c = none)
include hgood

theorem State.gxCommand_of_fail {f : Result} {l : Option Nat} (hgo : go s (k.site die noTile) c = .fail f l) :
    s.gxCommand op kid idx words go =
      s.failIns kid { InsRec.fresh idx die noTile [] s.now with loc := l.getD idx } f := by
  simp [State.gxCommand, hk, hawake, hkind, hclean, hnew, hc, hgood, hop, hdie, hgo]

theorem State.gxCommand_of_ue {m : Media} (hgo : go s (k.site die noTile) c = .ue m) :
    s.gxCommand op kid idx words go = s.failInsUe k (InsRec.fresh idx die noTile [] s.now) m := by
  simp [State.gxCommand, hk, hawake, hkind, hclean, hnew, hc, hgood, hop, hdie, hgo]

variable {st : List HeldStore} {reads : List (Nat × Nat × Nat)} (hgo : go s (k.site die noTile) c = .ok st reads)
include hgo

theorem State.gxCommand_of_barred {f : Result} (hf : st.findSome? (s.gxStoreFail (k.site die noTile)) = some f) :
    s.gxCommand op kid idx words go = s.failIns kid (InsRec.fresh idx die noTile [] s.now) f := by
  simp [State.gxCommand, hk, hawake, hkind, hclean, hnew, hc, hgood, hop, hdie, hgo, hf]

theorem State.gxCommand_of_held (hf : st.findSome? (s.gxStoreFail (k.site die noTile)) = none) :
    s.gxCommand op kid idx words go =
      ((s.locCorrects (k.site die noTile) reads).putIns kid
        { InsRec.fresh idx die noTile [] s.now with phase := .held, stores := st }).account k.issuer (fun a =>
          { a with stackBytes := a.stackBytes + (reads.map (fun q => stackCost q.1 q.2.2)).sum }) := by
  simp only [State.gxCommand, hk, hawake, hkind, hclean, hnew, hc, hgood, hop, hdie, hgo, hf, decide_true,
    Option.isNone_none, Bool.and_self, if_true]

end

theorem gatherCommandsHold : Says.GatherCommandsHold := by
  unfold Says.GatherCommandsHold
  intro s kid idx words k hk hawake hkind hclean hnew c die r x e he hop
  obtain ⟨go, hexec, hgo⟩ : ∃ go, exec e.2.2 s = .next (s.gxCommand e.1 kid idx words go) ∧ go s x c = e.2.1 := by
    simp only [List.mem_cons, List.not_mem_nil, or_false] at he
    obtain rfl | rfl | rfl := he
    all_goals exact ⟨_, rfl, rfl⟩
  rw [hexec, ← hgo]
  refine ⟨fun w hw => ?_, fun hgood => ⟨fun f l hf => ?_, fun m hm => ?_, fun st reads hok =>
    ⟨fun f hf => ?_, fun hf => ?_⟩⟩⟩
  · rw [State.gxCommand_of_bad hk hawake hkind hclean hnew rfl hop rfl hw]
  · rw [State.gxCommand_of_fail hk hawake hkind hclean hnew rfl hop rfl hgood hf]
  · rw [State.gxCommand_of_ue hk hawake hkind hclean hnew rfl hop rfl hgood hm]
  · rw [State.gxCommand_of_barred hk hawake hkind hclean hnew rfl hop rfl hgood hok hf]
  · rw [State.gxCommand_of_held hk hawake hkind hclean hnew rfl hop rfl hgood hok hf]

/-- Settles O15. -/
theorem blocksCommit : Obligations.BlocksCommit := by
  unfold Obligations.BlocksCommit
  exact ⟨heldBlocksCommit, instructionWaitsEnd, gatherCommandsHold⟩

end Sys2Proof.Machine
end

section
/-! O16, the requests of a cell and its slots (05 R170, R171, R185; 09 R314): how a layer-1 message reaches its cell,
and what each request answers. -/

namespace Sys2Proof.Machine

-- A message reaches its cell.

/-- A message that is taken is handled after its completion, with its arrival time. -/
theorem State.l1Message_of_taken {s t : State} {n id : Nat} {h : RadioHdr} {d : Desc} (htaken : L1Taken s n h id d t)
    (f : State → Nat → State) : s.l1Message n h id f = f t d.arrival := by
  obtain ⟨hawake, hd, hop, hgood, hid, rfl⟩ := htaken
  simp only [State.l1Message, hawake, hd, hop, hgood, hid, if_true]

theorem State.l1Cell_of_cell {t : State} {n : Nat} {h : RadioHdr} (hcell : L1OfCell t n h) (f : State → State) :
    t.l1Cell n h f = f t := by
  obtain ⟨hnum, hring⟩ := hcell
  rw [State.l1Cell, if_neg (Nat.not_le.mpr hnum)]
  cases hm : (t.cell h.cell).ring with
  | none => rfl
  | some m => exact if_neg (not_not_intro (hring m hm))

/-- A message that names a cell is handled by the cell. -/
theorem State.l1Message_l1Cell {s t : State} {n id : Nat} {h : RadioHdr} {d : Desc} (htaken : L1Taken s n h id d t)
    (hcell : L1OfCell t n h) (f : State → State) :
    s.l1Message n h id (fun u _ => u.l1Cell n h f) = f t := by
  rw [State.l1Message_of_taken htaken, State.l1Cell_of_cell hcell]

section
variable {s t : State} {n : Nat} {h : RadioHdr} {d : Desc}

-- PARAM.

theorem exec_paramRequest_of_device (htaken : L1Taken s n h 0x0000 d t) (hdevice : h.cell = 0xFFFF) :
    exec (.paramRequest n h) s = .next (t.sendInd n ⟨0xFFFF, 0, 0, h.seq, .param paramLimits⟩) := by
  show Host.Outcome.next (paramRequest n h s) = _
  rw [paramRequest, State.l1Message_of_taken htaken, if_pos hdevice]

theorem exec_paramRequest_of_cell (htaken : L1Taken s n h 0x0000 d t) (hone : h.cell ≠ 0xFFFF)
    (hcell : L1OfCell t n h) (hidle : (t.cell h.cell).busy = false) :
    exec (.paramRequest n h) s = .next (t.sendInd n ⟨h.cell, 0, 0, h.seq, .param paramLimits⟩) := by
  show Host.Outcome.next (paramRequest n h s) = _
  rw [paramRequest, State.l1Message_of_taken htaken, if_neg hone, State.l1Cell_of_cell hcell, hidle]
  rfl

-- CONFIG and release.

theorem exec_cellRelease (htaken : L1Taken s n h 0x0002 d t) (hcell : L1OfCell t n h) :
    exec (.cellRelease n h) s = .next (if (t.cell h.cell).busy then t.configResponse n h .invalidState
      else (t.setCell h.cell Cell.reset).configResponse n h .ok) := by
  show Host.Outcome.next (cellRelease n h s) = _
  rw [cellRelease, State.l1Message_l1Cell htaken hcell]

variable {b : ConfigBody}

theorem exec_configRequest_of_bad (htaken : L1Taken s n h 0x0002 d t) (hcell : L1OfCell t n h)
    (hset : b.isRelease = false) (hidle : ((t.bindCell h.cell n).cell h.cell).busy = false)
    (hbad : b.cfg = none ∨ ∃ g, b.cfg = some g ∧ (t.bindCell h.cell n).configOk h.cell g = false) :
    exec (.configRequest n h b) s = .next ((t.bindCell h.cell n).configResponse n h .invalidConfig) := by
  show Host.Outcome.next (configRequest n h b s) = _
  rw [configRequest, hset, if_neg Bool.false_ne_true, State.l1Message_l1Cell htaken hcell]
  obtain hg | ⟨g, hg, hok⟩ := hbad
  · simp only [hidle, hg, Bool.false_eq_true, if_false]
  · simp only [hidle, hg, hok, Bool.false_eq_true, if_false]

theorem exec_configRequest_of_fit (htaken : L1Taken s n h 0x0002 d t) (hcell : L1OfCell t n h)
    (hset : b.isRelease = false) (hidle : ((t.bindCell h.cell n).cell h.cell).busy = false)
    {g : CellCfg} (hg : b.cfg = some g) (hok : (t.bindCell h.cell n).configOk h.cell g = true) {die : Nat}
    (hdie : (t.bindCell h.cell n).configDie h.cell g = some die) :
    exec (.configRequest n h b) s =
      .next (((t.bindCell h.cell n).admitCell h.cell die g).configResponse n h .ok) := by
  show Host.Outcome.next (configRequest n h b s) = _
  rw [configRequest, hset, if_neg Bool.false_ne_true, State.l1Message_l1Cell htaken hcell]
  simp only [hidle, hg, hok, hdie, Bool.false_eq_true, if_false, if_true]

theorem exec_configRequest_of_full (htaken : L1Taken s n h 0x0002 d t) (hcell : L1OfCell t n h)
    (hset : b.isRelease = false) (hidle : ((t.bindCell h.cell n).cell h.cell).busy = false)
    {g : CellCfg} (hg : b.cfg = some g) (hok : (t.bindCell h.cell n).configOk h.cell g = true)
    (hdie : (t.bindCell h.cell n).configDie h.cell g = none) :
    exec (.configRequest n h b) s = .next ((t.bindCell h.cell n).configResponse n h .belayRefused) := by
  show Host.Outcome.next (configRequest n h b s) = _
  rw [configRequest, hset, if_neg Bool.false_ne_true, State.l1Message_l1Cell htaken hcell]
  simp only [hidle, hg, hok, hdie, Bool.false_eq_true, if_false, if_true]

-- START and STOP.

theorem exec_startRequest (htaken : L1Taken s n h 0x0004 d t) (hcell : L1OfCell t n h) {g : CellCfg}
    (hg : (t.cell h.cell).cfg = some g) :
    exec (.startRequest n h) s = .next
      (if (t.cell h.cell).state = .configured ∧ t.ports.servo.state = .locked then
        t.setCell h.cell { t.cell h.cell with startAt := some ((t.cell h.cell).startAt.getD (g.slotAhead t.clk 16)) }
      else t.sendErr n h .invalidState []) := by
  show Host.Outcome.next (startRequest n h s) = _
  rw [startRequest, State.l1Message_l1Cell htaken hcell]
  simp only [hg]

theorem exec_stopRequest_of_running (htaken : L1Taken s n h 0x0005 d t) (hcell : L1OfCell t n h)
    (hrun : (t.cell h.cell).state = .running) :
    exec (.stopRequest n h) s = .next (t.setCell h.cell { t.cell h.cell with
      state := .stopping, stopAt := some ((t.cell h.cell).stopSlot (t.curSlot (t.cell h.cell))), stopSeq := h.seq }) := by
  show Host.Outcome.next (stopRequest n h s) = _
  rw [stopRequest, State.l1Message_l1Cell htaken hcell]
  simp only [hrun]

theorem exec_stopRequest_of_other (htaken : L1Taken s n h 0x0005 d t) (hcell : L1OfCell t n h)
    (hrun : (t.cell h.cell).state ≠ .running) (hshed : (t.cell h.cell).state ≠ .shedding) :
    exec (.stopRequest n h) s = .next (t.sendErr n h .invalidState []) := by
  show Host.Outcome.next (stopRequest n h s) = _
  rw [stopRequest, State.l1Message_l1Cell htaken hcell]
  cases hst : (t.cell h.cell).state with
  | running => exact absurd hst hrun
  | shedding => exact absurd hst hshed
  | idle | configured | stopping => simp only [hst]

end

theorem cellRequestsAnswer : Says.CellRequestsAnswer := by
  unfold Says.CellRequestsAnswer
  intro s t n h d
  refine ⟨exec_paramRequest_of_device, exec_paramRequest_of_cell, fun htaken hcell hidle => ⟨?_, ?_, ?_, ?_⟩,
    fun htaken hcell hbusy => ?_, fun htaken hcell g hg => ⟨fun hstate hservo => ?_, fun hnot => ?_⟩,
    fun htaken hcell => ⟨exec_stopRequest_of_running htaken hcell, exec_stopRequest_of_other htaken hcell⟩⟩
  · rw [exec_cellRelease htaken hcell, hidle]
    rfl
  · exact fun b g die hset hg hfree hok hdie => exec_configRequest_of_fit htaken hcell hset hfree hg hok hdie
  · exact fun b hset hfree hbad => exec_configRequest_of_bad htaken hcell hset hfree hbad
  · exact fun b g hset hg hfree hok hdie => exec_configRequest_of_full htaken hcell hset hfree hg hok hdie
  · rw [exec_cellRelease htaken hcell, hbusy]
    rfl
  · rw [exec_startRequest htaken hcell hg, if_pos ⟨hstate, hservo⟩]
  · rw [exec_startRequest htaken hcell hg, if_neg (fun ⟨hstate, hservo⟩ => hnot.elim (· hservo) (· hstate))]

-- Cells run by their slots.

section
variable {s : State} {c : Nat} {g : CellCfg} (hg : (s.cell c).cfg = some g) (hawake : s.awake = true)
include hg hawake

theorem exec_cellStart_of_due {m : Nat} (hm : (s.cell c).startAt = some m) (hstate : (s.cell c).state = .configured)
    (hdue : g.air m ≤ s.clk + g.lead * slotNs g.scs) :
    exec (.cellStart c) s = .next (s.setCell c { s.cell c with
      state := .running, begun := true, startAt := none, nextInd := m, nextDl := m, slots := [], book := [],
      stopAt := none, shedAt := none }) := by
  show Host.Outcome.next (cellStart c s) = _
  simp only [cellStart, hg, hm]
  rw [if_pos ⟨hawake, hstate, hdue⟩]

theorem exec_stopIndication_of_due {m : Nat} (hm : (s.cell c).stopAt = some m)
    (hstate : (s.cell c).state = .stopping) (hdue : g.slotEnd (m - 1) ≤ s.clk) :
    exec (.stopIndication c) s = .next ((s.setCell c { s.cell c with
      state := .configured, begun := false, startAt := none, stopAt := none, shedAt := none, slots := [],
      book := [], searches := [] }).cellNote c (s.cell c).stopSeq .stop) := by
  show Host.Outcome.next (stopIndication c s) = _
  simp only [stopIndication, hg, hm, hstate, hawake, decide_eq_true hdue, Bool.and_self, if_true]

theorem exec_slotIndication_of_due (hlive : (s.cell c).live = true)
    (hbound : beforeBound (s.cell c).bound (s.cell c).nextInd = true)
    (hdue : g.air (s.cell c).nextInd ≤ s.clk + g.lead * slotNs g.scs) :
    exec (.slotIndication c) s = .next ((s.setCell c { s.cell c with
      nextInd := (s.cell c).nextInd + 1 }).cellInd c (s.cell c).nextInd 0
        (.slot (g.air (s.cell c).nextInd % 2 ^ 64))) := by
  show Host.Outcome.next (slotIndication c s) = _
  simp only [slotIndication, hg, hawake, hlive, hbound, decide_eq_true hdue, Bool.and_self, if_true]

end

theorem exec_stopIndication_of_early {s : State} {c : Nat} {g : CellCfg} (hg : (s.cell c).cfg = some g)
    (hearly : s.clk < g.slotEnd ((s.cell c).stopAt.getD 0 - 1)) : exec (.stopIndication c) s = .next s := by
  show Host.Outcome.next (stopIndication c s) = _
  cases hm : (s.cell c).stopAt with
  | none => simp only [stopIndication, hg, hm]
  | some m =>
    rw [hm, Option.getD_some] at hearly
    simp only [stopIndication, hg, hm, decide_eq_false (Nat.not_le.mpr hearly), Bool.and_false, Bool.false_eq_true,
      if_false]

theorem exec_slotIndication_of_early {s : State} {c : Nat} {g : CellCfg} (hg : (s.cell c).cfg = some g)
    (hearly : s.clk + g.lead * slotNs g.scs < g.air (s.cell c).nextInd) :
    exec (.slotIndication c) s = .next s := by
  show Host.Outcome.next (slotIndication c s) = _
  simp only [slotIndication, hg, decide_eq_false (Nat.not_le.mpr hearly), Bool.and_false, Bool.false_eq_true,
    if_false]

theorem cellsRunBySlots : Says.CellsRunBySlots := by
  unfold Says.CellsRunBySlots
  intro s c g hg hawake
  exact ⟨fun m => exec_cellStart_of_due hg hawake, fun m => exec_stopIndication_of_due hg hawake,
    exec_slotIndication_of_due hg hawake, exec_stopIndication_of_early hg, exec_slotIndication_of_early hg⟩

/-- Settles O16. -/
theorem cellRequests : Obligations.CellRequests := by
  unfold Obligations.CellRequests
  exact ⟨cellRequestsAnswer, cellsRunBySlots⟩

end Sys2Proof.Machine
end

section
/-! O17, the requests of a slot, bookings and searches (05 R168, R180, R195; 07 R247 to R250). -/

namespace Sys2Proof.Machine

section
variable {s t : State} {n m id : Nat} {h : RadioHdr} {d : Desc} {g : CellCfg} (htaken : L1Taken s n h id d t)
  (hcell : L1OfCell t n h) (hslot : P7Slot t h g m)
include htaken hcell hslot

/-- A request for a slot in its window reaches the slot, with whether it arrived in time. -/
theorem State.l1Message_p7 (f : State → Cell → CellCfg → Nat → Bool → State) :
    s.l1Message n h id (fun u arrival => u.p7 n h arrival f) =
      f t (t.cell h.cell) g m (decide (d.arrival + submitLead g.scs ≤ g.air m)) := by
  obtain ⟨hg, rfl, hbusy, hbound, hlate, hahead⟩ := hslot
  have hwindow : ¬(g.air (g.resolve t.clk h.sfn h.slot + 1) ≤ t.clk ∨
      g.slotAt t.clk + 20 < g.resolve t.clk h.sfn h.slot) := by omega
  rw [State.l1Message_of_taken htaken, State.p7, State.l1Cell_of_cell hcell]
  simp only [hg, hbusy, hbound, Bool.not_true, Bool.or_self, Bool.false_eq_true, if_false, if_neg hwindow]

theorem State.l1Message_p7_early (hearly : d.arrival + submitLead g.scs ≤ g.air m)
    (f : State → Cell → CellCfg → Nat → Bool → State) :
    s.l1Message n h id (fun u arrival => u.p7 n h arrival f) = f t (t.cell h.cell) g m true := by
  rw [State.l1Message_p7 htaken hcell hslot, decide_eq_true hearly]

theorem State.l1Message_p7_late (hlate : ¬d.arrival + submitLead g.scs ≤ g.air m)
    (f : State → Cell → CellCfg → Nat → Bool → State) :
    s.l1Message n h id (fun u arrival => u.p7 n h arrival f) = f t (t.cell h.cell) g m false := by
  rw [State.l1Message_p7 htaken hcell hslot, decide_eq_false hlate]

end

theorem State.takeWork_of_allowed {t : State} {n : Nat} {h : RadioHdr} {x : Cell} {g : CellCfg} {v : SlotWork}
    (hv : x.allowsWork g v = true) : t.takeWork n h x g v = t.setCell h.cell (x.setWork v) := if_pos hv

theorem State.takeWork_of_over {t : State} {n : Nat} {h : RadioHdr} {x : Cell} {g : CellCfg} {v : SlotWork}
    (hv : x.allowsWork g v = false) : t.takeWork n h x g v = t.sendErr n h .pduOverDeclared [] :=
  if_neg (ne_true_of_eq_false hv)

theorem slotRequestsEnter : Says.SlotRequestsEnter := by
  unfold Says.SlotRequestsEnter
  intro s t n m h d g hcell hslot x w early
  refine ⟨fun htaken ps => ?_, fun htaken ps => ?_, fun htaken ps => ?_, fun htaken ps hpay => ?_,
    fun v => ⟨State.takeWork_of_allowed, State.takeWork_of_over⟩⟩
  · exact ⟨fun hearly => congrArg Host.Outcome.next (State.l1Message_p7_early htaken hcell hslot hearly _),
      fun hlate => congrArg Host.Outcome.next (State.l1Message_p7_late htaken hcell hslot hlate _)⟩
  · exact ⟨fun hearly => congrArg Host.Outcome.next (State.l1Message_p7_early htaken hcell hslot hearly _),
      fun hlate => congrArg Host.Outcome.next (State.l1Message_p7_late htaken hcell hslot hlate _)⟩
  · exact ⟨fun hearly => congrArg Host.Outcome.next (State.l1Message_p7_early htaken hcell hslot hearly _),
      fun hlate => congrArg Host.Outcome.next (State.l1Message_p7_late htaken hcell hslot hlate _)⟩
  · have hgood : ps.all (fun p => (decide (p.tag = 0) && decide (p.bytes.length ≤ 8192))
        || (decide (p.tag = 1) && t.windowOk 0x7F p.addr p.bytes.length)) = true := by
      simpa using hpay
    refine ⟨fun hearly => ?_, fun hlate hdl hnot => ?_⟩
    · refine congrArg Host.Outcome.next ((State.l1Message_p7_early htaken hcell hslot hearly _).trans ?_)
      simp only [hgood, Bool.not_true, Bool.false_eq_true, if_false, if_true]
      rfl
    · refine congrArg Host.Outcome.next ((State.l1Message_p7_late htaken hcell hslot hlate _).trans ?_)
      have hpending : (((t.cell h.cell).work m).dl.isSome && !((t.cell h.cell).work m).lateDl) = true := by
        rw [show ((t.cell h.cell).work m).dl.isSome = true from hdl,
          show ((t.cell h.cell).work m).lateDl = false from hnot]
        rfl
      simp only [hgood, hpending, Bool.not_true, Bool.false_eq_true, if_false, if_true]

-- Bookings.

theorem bookBody_of_some {ws : List W32} {es : List BookEntry} (hes : bookBody ws = some es) :
    es = (List.range (wfield ws 0 6 0)).map (fun i => bookEntry ((ws.drop (1 + 4 * i)).take 4)) ∧
      1 ≤ wfield ws 0 6 0 ∧ wfield ws 0 6 0 ≤ 64 ∧ ws.length = 1 + 4 * wfield ws 0 6 0 := by
  rw [bookBody] at hes
  split at hes
  · next hok =>
    obtain ⟨hlo, hhi, -, hlen, -⟩ := hok
    exact ⟨(Option.some.inj hes).symm, hlo, hhi, hlen⟩
  · cases hes

/-- A decision that leaves the state as it was where it refuses. -/
def Undoes (t : State) (r : MsgCode × State) : Prop := r.1 ≠ .ok → r.2 = t

theorem Undoes.refusal (t : State) (code : MsgCode) : Undoes t (code, t) := fun _ => rfl

theorem Undoes.grant (t u : State) : Undoes t (.ok, u) := fun h => absurd rfl h

theorem Undoes.ite {t : State} {c : Prop} [Decidable c] {x y : MsgCode × State} (hx : Undoes t x) (hy : Undoes t y) :
    Undoes t (if c then x else y) := by
  split <;> assumption

/-- A booking that is refused leaves everything as it was. -/
theorem State.decideBooking_undoes (t : State) (c : Nat) (x : Cell) (g : CellCfg) (e : BookEntry) :
    Undoes t (t.decideBooking c x g e) :=
  .ite (.refusal t _) (.ite (.refusal t _) (.ite (.refusal t _) (.ite (.refusal t _)
    (.ite (.grant t _) (.ite (.grant t _) (.refusal t _))))))

theorem SsbSearch.hits_length_le (q : SsbSearch) (g : CellCfg) : (q.hits g).length ≤ 32 := by
  rw [SsbSearch.hits, List.length_map, List.length_take]
  exact Nat.min_le_left _ _

theorem SsbSearch.pci_of_mem_hits {q : SsbSearch} {g : CellCfg} {e : SsbHit} (he : e ∈ q.hits g) :
    if q.pcis = [] then e.pci < 1008 else e.pci ∈ q.pcis := by
  obtain ⟨a, ha, rfl⟩ := List.mem_map.mp he
  have hfilter := (List.mem_filter.mp (List.mem_of_mem_take ha)).2
  split at hfilter
  · next hall => rw [if_pos hall]; exact of_decide_eq_true hfilter
  · next hsome => rw [if_neg hsome]; exact of_decide_eq_true hfilter

theorem exec_slotBookRequest {s t : State} {n : Nat} {h : RadioHdr} {d : Desc} (htaken : L1Taken s n h 0x00C0 d t)
    (hcell : L1OfCell t n h) (hbusy : (t.cell h.cell).busy = true) (ws : List W32) :
    (∀ es, bookBody ws = some es → exec (.slotBookRequest n h ws) s = .next (State.bookEntries n h es t)) ∧
      (bookBody ws = none → exec (.slotBookRequest n h ws) s = .next (t.sendErr n h .invalid [])) := by
  have hexec : exec (.slotBookRequest n h ws) s = .next _ :=
    congrArg Host.Outcome.next (State.l1Message_l1Cell htaken hcell _)
  rw [hexec]
  refine ⟨fun es hes => ?_, fun hes => ?_⟩
  · simp only [hbusy, hes, if_true]
  · simp only [hbusy, hes, if_true]

/-- The search is within the request's limits, its slot in the window, and every class that it raises stays within
its capacity. -/
theorem exec_ssbSearchRequest_of_fit {s t : State} {n : Nat} {h : RadioHdr} {d : Desc}
    (htaken : L1Taken s n h 0x00C3 d t) (hcell : L1OfCell t n h) {off cnt : Nat} {pcis : List Nat} {g : CellCfg}
    (hrun : (t.cell h.cell).state = .running) (hg : (t.cell h.cell).cfg = some g)
    (hlimits : ¬(cnt = 0 ∨ 40 < cnt ∨ 8 < pcis.length ∨ 12 * g.fapi.grid ≤ off))
    (hwindow : ¬(g.air (g.resolve t.clk h.sfn h.slot + 1) ≤ t.clk ∨
      g.slotAt t.clk + 20 < g.resolve t.clk h.sfn h.slot)) :
    let u := t.setCell h.cell { t.cell h.cell with searches := (t.cell h.cell).searches ++
      [⟨off, g.resolve t.clk h.sfn h.slot, cnt, pcis, h.seq, []⟩] }
    (∀ k < 7, u.booked (t.cell h.cell).die k = t.booked (t.cell h.cell).die k ∨
      u.booked (t.cell h.cell).die k + u.lent (t.cell h.cell).die k ≤ u.cap (t.cell h.cell).die k []) →
    exec (.ssbSearchRequest n h off cnt pcis) s = .next u := by
  intro u hfit
  have hall : (List.range 7).all (fun k => decide (u.booked (t.cell h.cell).die k = t.booked (t.cell h.cell).die k)
      || decide (u.booked (t.cell h.cell).die k + u.lent (t.cell h.cell).die k ≤
        u.cap (t.cell h.cell).die k [])) = true := by
    simpa using hfit
  show Host.Outcome.next (ssbSearchRequest n h off cnt pcis s) = _
  rw [ssbSearchRequest, State.l1Message_l1Cell htaken hcell]
  dsimp only
  split
  · next g' _ hg' =>
    obtain rfl : g = g' := Option.some.inj (hg.symm.trans hg')
    rw [if_neg hwindow, if_neg hlimits]
    exact congrArg Host.Outcome.next (if_pos hall)
  · next hno => exact absurd hg (hno g hrun)

theorem exec_ssbSearchIndication_of_due {s : State} {c : Nat} {q : SsbSearch} {rest : List SsbSearch} {g : CellCfg}
    (hq : (s.cell c).searches = q :: rest) (hg : (s.cell c).cfg = some g) (hawake : s.awake = true)
    (hdue : g.air (q.first + q.count) ≤ s.clk) :
    exec (.ssbSearchIndication c) s = .next
      ((s.setCell c { s.cell c with searches := rest }).cellInd c q.first q.seq (.ssb (q.hits g))) := by
  show Host.Outcome.next (ssbSearchIndication c s) = _
  simp only [ssbSearchIndication, hq, hg]
  rw [if_pos ⟨hawake, hdue⟩]

theorem bookingsAndSearches : Says.BookingsAndSearches := by
  unfold Says.BookingsAndSearches
  intro s t n h d hcell
  refine ⟨fun htaken hbusy ws => exec_slotBookRequest htaken hcell hbusy ws, fun ws es hes => ?_,
    fun e es g hg => ⟨?_, t.decideBooking_undoes _ _ g e⟩,
    fun htaken off cnt pcis g hrun hg hlo hhi hpcis hoff => ?_, fun c q rest g hq hg hawake hdue => ?_⟩
  · obtain ⟨rfl, hlo, hhi, hlen⟩ := bookBody_of_some hes
    simp only [List.length_map, List.length_range]
    refine ⟨trivial, hlo, hhi, hlen, fun i hi => ?_⟩
    rw [List.getElem?_map, List.getElem?_range hi, Option.map_some]
  · simp only [State.bookEntries, hg]
  · intro m hlate hahead
    exact exec_ssbSearchRequest_of_fit htaken hcell hrun hg (by omega)
      (not_or.mpr ⟨Nat.not_le.mpr hlate, Nat.not_lt.mpr hahead⟩)
  · exact ⟨exec_ssbSearchIndication_of_due hq hg hawake hdue, q.hits_length_le g, fun e => SsbSearch.pci_of_mem_hits⟩

/-- Settles O17. -/
theorem slotRequests : Obligations.SlotRequests := by
  unfold Obligations.SlotRequests
  exact ⟨slotRequestsEnter, bookingsAndSearches⟩

end Sys2Proof.Machine
end

section
/-! O18, the downlink of a slot (05 R183, R184, R189; 12 R404, R409, R425; 07 R262). -/

namespace Sys2Proof.Machine

-- Losing estimates leaves the rest of the cell.

@[simp] theorem Cell.loseSrs_cfg (x : Cell) (hs : List Nat) : (x.loseSrs hs).cfg = x.cfg := rfl
@[simp] theorem Cell.loseSrs_live (x : Cell) (hs : List Nat) : (x.loseSrs hs).live = x.live := rfl
@[simp] theorem Cell.loseSrs_bound (x : Cell) (hs : List Nat) : (x.loseSrs hs).bound = x.bound := rfl
@[simp] theorem Cell.loseSrs_nextDl (x : Cell) (hs : List Nat) : (x.loseSrs hs).nextDl = x.nextDl := rfl
@[simp] theorem Cell.loseSrs_work (x : Cell) (hs : List Nat) (n : Nat) : (x.loseSrs hs).work n = x.work n := rfl

section
variable {s : State} {c n : Nat} {g : CellCfg} (hg : (s.cell c).cfg = some g) (hawake : s.awake = true)
  (hlive : (s.cell c).live = true)
include hg hawake hlive

/-- Processing starts at the submission deadline of the cell's next slot. -/
theorem downlinkProcessing_of_due (lost : List (Nat × Nat)) (hnext : (s.cell c).nextDl = n)
    (hbound : beforeBound (s.cell c).bound n = true) (hdue : g.air n ≤ s.clk + submitLead g.scs) :
    let y := (s.cell c).loseSrs (lost.map Prod.fst)
    let w := (s.cell c).work n
    let t := (lost.map Prod.snd).foldl State.failUe s
    let bad := (w.dlPdus.filter (fun p => decide (p.kind = .pdsch) && !(y.handlesOk t.now p))).map (fun p => p.index)
    let csi := w.dlPdus.filterMap (fun p =>
      if p.precoding = 0xFFFF then (y.estimates t.now p).map (fun es => (p.index, es)) else none)
    let u := (t.setCell c ({ y with nextDl := n + 1 }.setWork { w with
      started := true, csi := csi, data := w.data.filter (fun e => decide (e.1 ∉ bad)) })).capture 2 c n t.clk
    downlinkProcessing c lost s =
      if w.lateDl || w.dlPdus.isEmpty then t.setCell c { y with nextDl := n + 1 }
      else if bad = [] then u else u.cellInd c n w.dlSeq (.error 0x0080 .slotErr bad) := by
  subst hnext
  dsimp only
  unfold downlinkProcessing
  dsimp only
  split
  · next g' hg' =>
    obtain rfl : g = g' := Option.some.inj (hg.symm.trans hg')
    have hruns : (s.awake && ((s.cell c).loseSrs (lost.map Prod.fst)).live
        && beforeBound ((s.cell c).loseSrs (lost.map Prod.fst)).bound ((s.cell c).loseSrs (lost.map Prod.fst)).nextDl
        && decide (g.air ((s.cell c).loseSrs (lost.map Prod.fst)).nextDl ≤ s.clk + submitLead g.scs)) = true := by
      simp [hawake, hlive, hbound, hdue]
    rw [if_pos hruns]
    rfl
  · next hnone => exact absurd hg (by simp [show (s.cell c).cfg = none from hnone])

theorem cPlaneLaunch_of_outage (hstart : ((s.cell c).work n).started = true)
    (hlate : ((s.cell c).work n).lateDl = false) (hdone : ((s.cell c).work n).dlDone = false)
    (hbound : beforeBound (s.cell c).bound n = true) {cause : Nat}
    (hout : s.outage g (g.cplaneTime n) = some cause) :
    cPlaneLaunch c n s = s.noticeGone c ((s.cell c).work n) false cause := by
  simp only [cPlaneLaunch, hg, hawake, hlive, hstart, hlate, hdone, hbound, hout, Bool.not_false, Bool.and_self,
    if_true]

theorem cPlaneLaunch_of_coded (hstart : ((s.cell c).work n).started = true)
    (hlate : ((s.cell c).work n).lateDl = false) (hdone : ((s.cell c).work n).dlDone = false)
    (hbound : beforeBound (s.cell c).bound n = true) (hout : s.outage g (g.cplaneTime n) = none)
    (hcoded : ((s.cell c).work n).codedAll = true) (hcplane : ((s.cell c).work n).cplane = false)
    (hservo : s.ports.servo.lost = false) (hlink : s.linkUp g.port g.sub = true) :
    cPlaneLaunch c n s = (s.setCell c ((s.cell c).setWork { (s.cell c).work n with cplane := true })).queueCplane c g n
      g.dlStreams s.clk (g.cplaneTime n) false (((s.cell c).work n).dlMsgs g) := by
  unfold cPlaneLaunch
  dsimp only
  split
  · next g' hg' =>
    obtain rfl : g = g' := Option.some.inj (hg.symm.trans hg')
    rw [if_pos (by simp [hawake, hlive, hstart, hlate, hdone, hbound])]
    simp only [hout]
    rw [if_pos (by simp [hcoded, hcplane, hservo, hlink])]
  · next hnone => exact absurd (hg.symm.trans hnone) (by simp)

theorem uPlaneLaunch_of_due {k : Nat} (hk : k ∈ ((s.cell c).work n).dlSyms)
    (hcplane : ((s.cell c).work n).cplane = true) (hlate : ((s.cell c).work n).lateDl = false)
    (hdone : ((s.cell c).work n).dlDone = false) (hnew : k ∉ ((s.cell c).work n).queued)
    (hearlier : ∀ j ∈ ((s.cell c).work n).dlSyms, j < k → j ∈ ((s.cell c).work n).queued)
    (hdue : g.airSym n k ≤ s.clk + g.t1aMaxUp * 1000) (hout : s.outage g (g.cplaneTime n) = none) :
    uPlaneLaunch c n k s =
      (List.range g.dlStreams).foldl (fun t st => t.queueUplane c g ((s.cell c).work n) k st)
        (s.setCell c ((s.cell c).setWork { (s.cell c).work n with
          queued := ((s.cell c).work n).queued ++ [k] })) := by
  have horder : ((s.cell c).work n).dlSyms.all
      (fun j => decide (k ≤ j) || decide (j ∈ ((s.cell c).work n).queued)) = true := by
    rw [List.all_eq_true]
    intro j hj
    by_cases hjk : j < k
    · simp [hearlier j hj hjk]
    · simp [Nat.le_of_not_lt hjk]
  unfold uPlaneLaunch
  dsimp only
  split
  · next g' hg' =>
    obtain rfl : g = g' := Option.some.inj (hg.symm.trans hg')
    rw [if_pos (by simp only [hawake, hlive, hcplane, hlate, hdone, hk, hnew, horder, hdue, hout]; decide)]
  · next hnone => exact absurd (hg.symm.trans hnone) (by simp)

end

theorem uPlaneLaunch_of_late {s : State} {c n : Nat} (hlate : ((s.cell c).work n).lateDl = true) (k : Nat) :
    uPlaneLaunch c n k s = s := by
  unfold uPlaneLaunch
  dsimp only
  split
  · rw [if_neg (by simp [hlate])]
  · rfl

/-- An encoder of the radio islands codes a codeword of a slot whose C-plane has not left. -/
theorem State.l1Encode_of_due {s : State} {j : L1Job} {p : DlPdu} {cw : Codeword} {u : UnitId}
    (hp : ((s.cell j.cell).work j.slot).dlPdus[j.pdu]? = some p) (hcw : p.cws[j.part]? = some cw)
    (hawake : s.awake = true) (hu : s.l1Engine u = true) (hdie : (s.cell j.cell).die = u.die)
    (hlive : (s.cell j.cell).live = true) (hstart : ((s.cell j.cell).work j.slot).started = true)
    (hcplane : ((s.cell j.cell).work j.slot).cplane = false)
    (hactive : ((s.cell j.cell).work j.slot).active p = true) (hcodes : p.codes = true)
    (hcls : (p.kind = .pdsch) = (u.cls = .ldpcEnc))
    (hnew : ∀ e ∈ ((s.cell j.cell).work j.slot).coded, e.1 = j.pdu → e.2.1 ≠ j.part) :
    s.l1Encode u j = s.setCell j.cell ((s.cell j.cell).setWork { (s.cell j.cell).work j.slot with
      coded := ((s.cell j.cell).work j.slot).coded ++
        [(j.pdu, j.part, ((s.cell j.cell).work j.slot).encode p j.part cw)] }) := by
  have hfirst : ((s.cell j.cell).work j.slot).coded.any
      (fun c => decide (c.1 = j.pdu) && decide (c.2.1 = j.part)) = false := by
    simpa using hnew
  simp only [State.l1Encode, hp, hcw]
  rw [if_pos (by simp only [hawake, hu, hdie, hlive, hstart, hcplane, hactive, hcodes, hcls, hfirst]; simp)]

/-- Settles O18. -/
theorem downlinkSteps : Obligations.DownlinkSteps := by
  unfold Obligations.DownlinkSteps
  intro s c n g hg hawake hlive x w
  refine ⟨fun lost => ?_, fun j p cw u hc hn hp hcw hu hdie hstart hcplane hactive hcodes hnew => ⟨fun hk hcls => ?_,
    fun hk hcls => ?_⟩, fun hstart hlate hdone hbound => ⟨fun cause hout => ?_, fun hout hcoded hcplane hservo hlink => ?_⟩,
    fun k hk hcplane hlate hdone hnew hearlier hdue hout => ?_, fun k hlate => ?_, fun port sub => rfl⟩
  · intro y t bad csi u hnext hbound hdue
    have hexec : exec (.downlinkProcessing c lost) s = .next (downlinkProcessing c lost s) := rfl
    rw [hexec, downlinkProcessing_of_due hg hawake hlive lost hnext hbound hdue]
    refine ⟨fun hnone => ?_, fun hsome => ?_⟩
    · exact congrArg Host.Outcome.next (if_pos hnone)
    · exact congrArg Host.Outcome.next (if_neg (ne_true_of_eq_false hsome))
  · subst hc hn
    obtain ⟨die, cls, num⟩ := u
    subst hcls
    exact congrArg Host.Outcome.next (State.l1Encode_of_due hp hcw hawake hu hdie hlive hstart hcplane hactive hcodes
      (by simp [hk]) hnew)
  · subst hc hn
    obtain ⟨die, cls, num⟩ := u
    subst hcls
    exact congrArg Host.Outcome.next (State.l1Encode_of_due hp hcw hawake hu hdie hlive hstart hcplane hactive hcodes
      (by simp [hk]) hnew)
  · exact congrArg Host.Outcome.next (cPlaneLaunch_of_outage hg hawake hlive hstart hlate hdone hbound hout)
  · exact congrArg Host.Outcome.next
      (cPlaneLaunch_of_coded hg hawake hlive hstart hlate hdone hbound hout hcoded hcplane hservo hlink)
  · exact congrArg Host.Outcome.next
      (uPlaneLaunch_of_due hg hawake hlive hk hcplane hlate hdone hnew hearlier hdue hout)
  · exact congrArg Host.Outcome.next (uPlaneLaunch_of_late hlate k)

end Sys2Proof.Machine
end

section
/-! O19, the uplink of a slot (05 R182, R186 to R193; 12 R408; 07 R263). -/

namespace Sys2Proof.Machine

/-- LLRs are eight-bit values without the least one. -/
theorem llrOf_bounds (q : Nat) (y : Cx) (sinr : Rat) (b : Nat) : -127 ≤ llrOf q y sinr b ∧ llrOf q y sinr b ≤ 127 := by
  unfold llrOf
  omega

theorem SlotWork.allErased_iff (w : SlotWork) (g : CellCfg) (k : Nat) :
    w.allErased g k = true ↔ ∀ st < g.ulStreams, (k, st) ∈ w.erased := by
  simp [SlotWork.allErased]

/-- A demapped value is zero, or an LLR of a symbol that is not erased. -/
theorem SlotWork.mem_demap {w : SlotWork} {g : CellCfg} {p : UlPdu} {k : Nat} {ys : List (Cx × Rat)} {v : Int}
    (hv : v ∈ (w.demap g p k ys).vals) :
    ∃ y b, v = if w.allErased g k then 0 else llrOf p.qm (Prod.fst y) (Prod.snd (α := Cx) y) b := by
  obtain ⟨y, -, hy⟩ := List.mem_flatMap.1 hv
  obtain ⟨b, -, hb⟩ := List.mem_map.1 hy
  exact ⟨y, b, hb.symm⟩

theorem SlotWork.demap_bounds {w : SlotWork} {g : CellCfg} {p : UlPdu} {k : Nat} {ys : List (Cx × Rat)} {v : Int}
    (hv : v ∈ (w.demap g p k ys).vals) : -127 ≤ v ∧ v ≤ 127 := by
  obtain ⟨y, b, rfl⟩ := SlotWork.mem_demap hv
  split
  · omega
  · exact llrOf_bounds ..

theorem SlotWork.demap_erased {w : SlotWork} {g : CellCfg} {p : UlPdu} {k : Nat} {ys : List (Cx × Rat)} {v : Int}
    (hall : ∀ st < g.ulStreams, (k, st) ∈ w.erased) (hv : v ∈ (w.demap g p k ys).vals) : v = 0 := by
  obtain ⟨y, b, rfl⟩ := SlotWork.mem_demap hv
  rw [if_pos ((w.allErased_iff g k).2 hall)]

-- What a step that ends notes.

theorem SlotWork.late_eq (w : SlotWork) (step now bound : Nat) :
    w.late step now bound = { w with
      overs := w.overs ++ (if bound < now then [(step, (now - bound + 999) / 1000)] else []) } := by
  unfold SlotWork.late
  split
  · rfl
  · rw [List.append_nil]

theorem SlotWork.endEst_of_waiting {w : SlotWork} {g : CellCfg} {clk k : Nat} (h : ∃ e ∈ w.ls, e.sym = k) :
    w.endEst g clk k = w := by
  unfold SlotWork.endEst
  rw [if_pos (by simpa using h)]

theorem SlotWork.endEst_of_last {w : SlotWork} {g : CellCfg} {clk k : Nat} (h : ∀ e ∈ w.ls, e.sym ≠ k) :
    w.endEst g clk k = { w with
      estSyms := w.estSyms ++ [k]
      overs := w.overs ++ (if k ∈ w.dmrsSyms ∧ w.arrived g k + byScs g.scs 80_000 40_000 10_000 < clk then
        [(2, (clk - (w.arrived g k + byScs g.scs 80_000 40_000 10_000) + 999) / 1000)] else []) } := by
  unfold SlotWork.endEst
  rw [if_neg (by simpa using h)]
  by_cases hk : k ∈ w.dmrsSyms
  · simp only [hk, if_true, true_and, SlotWork.late_eq]
  · simp only [hk, if_false, false_and, List.append_nil]

theorem SlotWork.endEq_of_waiting {w : SlotWork} {g : CellCfg} {clk k : Nat}
    (h : (∃ e ∈ w.eqRows, e.sym = k) ∨ clk ≤ max w.weightsAt (w.arrived g k) + byScs g.scs 80_000 40_000 10_000) :
    w.endEq g clk k = w := by
  unfold SlotWork.endEq
  rcases h with h | h
  · rw [if_pos (by simpa using h)]
  · split
    · rfl
    · exact if_neg (Nat.not_lt.2 h)

theorem SlotWork.endEq_of_late {w : SlotWork} {g : CellCfg} {clk k : Nat} (hlast : ∀ e ∈ w.eqRows, e.sym ≠ k)
    (hlate : max w.weightsAt (w.arrived g k) + byScs g.scs 80_000 40_000 10_000 < clk) :
    w.endEq g clk k = { w with overs := w.overs ++
      [(4, (clk - (max w.weightsAt (w.arrived g k) + byScs g.scs 80_000 40_000 10_000) + 999) / 1000)] } := by
  unfold SlotWork.endEq
  rw [if_neg (by simpa using hlast)]
  exact if_pos hlate

-- The steps of a slot's uplink, each when it is due.

section
variable {s : State} {c n : Nat} {g : CellCfg} (hg : (s.cell c).cfg = some g) (hawake : s.awake = true)
  (hlive : (s.cell c).live = true)
include hg hawake hlive

theorem uplinkCPlaneLaunch_of_due (hul : ((s.cell c).work n).ul.isSome = true)
    (hlate : ((s.cell c).work n).lateUl = false) (hnew : ((s.cell c).work n).ulCplane = false)
    (hdone : ((s.cell c).work n).ulDone = false) (hservo : s.ports.servo.lost = false)
    (hbound : beforeBound (s.cell c).bound n = true) :
    uplinkCPlaneLaunch c n s =
      (s.setCell c ((s.cell c).setWork { (s.cell c).work n with ulCplane := true })).queueCplane c g n g.ulStreams s.clk
        (g.airSym n ((s.cell c).work n).firstUl - g.tcpAdvDl * 1000) true (fun _ => ((s.cell c).work n).ulMsgs g) := by
  simp only [uplinkCPlaneLaunch, hg, hawake, hlive, hul, hlate, hnew, hdone, hservo, hbound, Bool.not_false,
    Bool.and_self, if_true]

theorem channelEstimation_of_due {k : Nat} (hlate : ((s.cell c).work n).lateUl = false)
    (hready : ((s.cell c).work n).ready g k = true)
    (hsym : k ∈ ((s.cell c).work n).dmrsSyms ∨ ((s.cell c).work n).srsOn k ≠ [])
    (hnew : k ∉ ((s.cell c).work n).lsSyms) :
    channelEstimation c n k s = s.setCell c ((s.cell c).setWork (({ (s.cell c).work n with
      lsSyms := ((s.cell c).work n).lsSyms ++ [k], ls := ((s.cell c).work n).ls ++ ((s.cell c).work n).newLs g k
      estAt := if k ∈ ((s.cell c).work n).dmrsSyms then max ((s.cell c).work n).estAt (((s.cell c).work n).arrived g k)
        else ((s.cell c).work n).estAt } : SlotWork).endEst g s.clk k)) := by
  have hsym' : (decide (k ∈ ((s.cell c).work n).dmrsSyms) || decide (((s.cell c).work n).srsOn k ≠ [])) = true := by
    simpa using hsym
  simp only [channelEstimation, hg]
  rw [if_pos (by simp only [hawake, hlive, hlate, hready, hsym', hnew]; rfl)]
  simp only [decide_eq_true_eq]

theorem mmseWeights_of_due (hsome : ((s.cell c).work n).dmrsSyms ≠ []) (hnew : ((s.cell c).work n).weights = none)
    (hest : ∀ j ∈ ((s.cell c).work n).dmrsSyms, j ∈ ((s.cell c).work n).estSyms) :
    mmseWeights c n s = s.setCell c ((s.cell c).setWork (({ (s.cell c).work n with
      weights := some (((s.cell c).work n).pusch.flatMap (fun p => p.occasions.flatMap (fun o =>
        (List.range (12 * p.prb.2 / g.eqGroup)).map (fun i => ((s.cell c).work n).groupW g p o i))))
      weightsAt := s.clk } : SlotWork).late 3 s.clk
        (((s.cell c).work n).estAt + byScs g.scs 120_000 60_000 15_000))) := by
  simp only [mmseWeights, hg]
  rw [if_pos (by simp [hawake, hlive, hsome, hnew]; exact hest)]

/-- The rows of a symbol's transform-precoded PUSCHs, which wait for an FFT engine. -/
def SlotWork.newRows (w : SlotWork) (g : CellCfg) (ws : List GroupW) (k : Nat) : List EqRows :=
  ((w.pusch.filter (fun p => decide (k ∈ p.dataSyms))).filter (fun p => p.transform)).map (fun p =>
    ⟨p.index, k, (List.range p.ports.length).map (fun l =>
      (w.elements g ws p k).map (fun (e : List (Cx × Rat)) => e.getD l (Cx.zero, 0)))⟩)

theorem equalisation_of_due {k : Nat} {ws : List GroupW} (hws : ((s.cell c).work n).weights = some ws)
    (hready : ((s.cell c).work n).ready g k = true) (hnew : k ∉ ((s.cell c).work n).eqSyms)
    (hps : ((s.cell c).work n).pusch.filter (fun p => decide (k ∈ p.dataSyms)) ≠ []) :
    equalisation c n k s = s.setCell c ((s.cell c).setWork (({ (s.cell c).work n with
      eqSyms := ((s.cell c).work n).eqSyms ++ [k]
      llrs := ((s.cell c).work n).llrs ++
        ((((s.cell c).work n).pusch.filter (fun p => decide (k ∈ p.dataSyms))).filter (fun p => !p.transform)).map
          (fun p => ((s.cell c).work n).demap g p k ((((s.cell c).work n).elements g ws p k).flatMap id))
      eqRows := ((s.cell c).work n).eqRows ++ ((s.cell c).work n).newRows g ws k } : SlotWork).endEq g s.clk k)) := by
  unfold equalisation
  dsimp only
  split
  · next g' ws' hg' hws' =>
    obtain rfl : g = g' := Option.some.inj (hg.symm.trans hg')
    obtain rfl : ws = ws' := Option.some.inj (hws.symm.trans hws')
    rw [if_pos (by simp only [hawake, hlive, hready, hnew, decide_eq_true hps]; rfl)]
    rfl
  · next hnone => exact absurd hws (hnone _ _ hg)

/-- A symbol's window closes: what is missing is erased and counted, and at the slot's last uplink symbol an outage is
noticed. -/
theorem symbolWindowClose_of_due {k : Nat} {w : SlotWork} (hw : (s.cell c).work n = w) (hul : w.ul.isSome = true)
    (hlate : w.lateUl = false) (hnew : k ∉ w.closed) (hk : k < 14) (hdue : g.closeTime n k < s.clk) :
    let gone := ((List.range g.ulStreams).filter (fun st => w.asks k && !(w.hasAll k st))).map (fun st => (k, st))
    let v : SlotWork := { w with closed := w.closed ++ [k], erased := w.erased ++ gone }
    let t := (s.setCell c ((s.cell c).setWork v)).bumpRf (aCELLCNT c + 16) 31 0 gone.length
    symbolWindowClose c n k s = if k = w.lastUl ∧ w.ulDone = false then
      (t.outage g (g.closeTime n k)).elim t (fun cause => t.noticeGone c v true cause) else t := by
  subst hw
  dsimp only
  unfold symbolWindowClose
  dsimp only
  split
  · next g' hg' =>
    obtain rfl : g = g' := Option.some.inj (hg.symm.trans hg')
    rw [if_pos (by simp only [hawake, hlive, hul, hlate, hnew, hk, hdue]; rfl)]
    simp only [Bool.not_eq_true', Bool.not_eq_eq_eq_not, Bool.not_true]
    split
    · split
      · next cause hout => rw [hout]; rfl
      · next hout => rw [hout]; rfl
    · rfl
  · next hnone => exact absurd (hg.symm.trans hnone) (by simp)

/-- Soft bits are combined once every LLR of the slot is there. -/
theorem harqCombining_of_due {w : SlotWork} (hw : (s.cell c).work n = w) (hul : w.ul.isSome = true)
    (hlate : w.lateUl = false) (hnew : w.soft = none) (hrows : w.eqRows = [])
    (heq : ∀ p ∈ w.pusch, ∀ k ∈ p.dataSyms, k ∈ w.eqSyms)
    (hready : ∀ p ∈ w.ulPdus, ∀ k ∈ symRange p.sym, w.ready g k = true) (lost : List (Nat × Nat)) :
    let r := w.pusch.foldl (fun (acc : Cell × List SoftPdu) p =>
      let y := if lost.any (fun e => decide (e.1 = p.index)) then acc.1.loseSoft p else acc.1
      let q := y.combine (g.harqBytes.getD (Config.term g.key 1)) p (p.softBlocks (w.tbLlrs g p))
      (q.1, acc.2 ++ [q.2])) (s.cell c, [])
    harqCombining c n lost s = ((lost.map Prod.snd).foldl State.failUe s).setCell c (r.1.setWork
      (({ w with soft := some r.2, softAt := s.clk } : SlotWork).late 5 s.clk
        (g.closeTime n w.lastUl + byScs g.scs 150_000 100_000 50_000))) := by
  subst hw
  dsimp only
  unfold harqCombining
  dsimp only
  split
  · next g' hg' =>
    obtain rfl : g = g' := Option.some.inj (hg.symm.trans hg')
    have hneed : ((((s.cell c).work n).pusch.flatMap (fun p => p.dataSyms)).eraseDups).all
        (fun k => decide (k ∈ ((s.cell c).work n).eqSyms)) = true := by
      simp only [List.all_eq_true, decide_eq_true_eq, List.mem_eraseDups, List.mem_flatMap]
      rintro k ⟨p, hp, hkp⟩
      exact heq p hp k hkp
    have hall : (((s.cell c).work n).ulPdus.all (fun p => (symRange p.sym).all
        (fun k => ((s.cell c).work n).ready g k))) = true := by
      simpa only [List.all_eq_true] using hready
    rw [if_pos (by simp only [hawake, hlive, hul, hlate, hnew, hrows, hneed, hall]; rfl)]
  · next hnone => exact absurd (hg.symm.trans hnone) (by simp)

/-- The results of a slot are written once everything is decoded, in slot order. -/
theorem uplinkResults_of_due {w : SlotWork} (hw : (s.cell c).work n = w) {qs : List SoftPdu} (hsoft : w.soft = some qs)
    (hnew : w.results = false) (hdec : w.decodedAll = true) (horder : (s.cell c).ulInOrder n = true) :
    let v := w.late 6 s.clk (w.softAt + byScs g.scs 900_000 600_000 300_000)
    let t := s.setCell c ((s.cell c).setWork { v with results := true })
    uplinkResults c n s = ((if w.noticedUl = true ∨ g.deadline w true < s.clk then t else t.countOverruns c v).writeResults
      c g w qs).settleCell c g := by
  subst hw
  dsimp only
  unfold uplinkResults
  dsimp only
  split
  · next g' qs' hg' hqs' =>
    obtain rfl : g = g' := Option.some.inj (hg.symm.trans hg')
    obtain rfl : qs = qs' := Option.some.inj (hsoft.symm.trans hqs')
    rw [if_pos (by simp only [hawake, hlive, hnew, hdec, horder]; rfl)]
  · next hnone => exact absurd hsoft (hnone _ _ hg)

end

-- The jobs of the engines, each when it waits for one.

section
variable {s : State} {j : L1Job} {u : UnitId} {g : CellCfg} {w : SlotWork} (hg : (s.cell j.cell).cfg = some g)
  (hw : (s.cell j.cell).work j.slot = w) (hawake : s.awake = true) (hlive : (s.cell j.cell).live = true)
  (hu : s.l1Engine u = true) (hdie : (s.cell j.cell).die = u.die)
include hg hw hawake hlive hu hdie

section
variable {p : UlPdu} (hp : w.ulPdus.find? (fun p => decide (p.index = j.pdu)) = some p) (hlate : w.lateUl = false)
include hp hlate

theorem State.l1Dft_of_pusch {e : LsEst} {o : Nat}
    (he : w.ls.find? (fun e => decide (e.index = j.pdu) && decide (e.sym = j.part)) = some e) (ho : e.occ = some o) :
    s.l1Dft u j = s.setCell j.cell ((s.cell j.cell).setWork (({ w with
      ls := w.ls.filter (fun q => decide (q ≠ e)), est := w.est ++ [e.est g o] } : SlotWork).endEst g s.clk e.sym)) := by
  simp only [State.l1Dft, hg, hw, hp]
  rw [if_pos (by simp only [hawake, hlive, hu, hdie, hlate]; simp)]
  simp only [he, ho]

theorem State.l1Dft_of_srs {e : LsEst}
    (he : w.ls.find? (fun e => decide (e.index = j.pdu) && decide (e.sym = j.part)) = some e) (ho : e.occ = none) :
    s.l1Dft u j = (s.setCell j.cell ((s.cell j.cell).takeSrs g
      (({ w with ls := w.ls.filter (fun q => decide (q ≠ e)) } : SlotWork).endEst g s.clk e.sym) p (e.srs p)
      s.now)).releaseInds j.cell := by
  simp only [State.l1Dft, hg, hw, hp]
  rw [if_pos (by simp only [hawake, hlive, hu, hdie, hlate]; simp)]
  simp only [he, ho]

theorem State.l1Dft_of_symbol {e : EqRows}
    (hls : w.ls.find? (fun e => decide (e.index = j.pdu) && decide (e.sym = j.part)) = none)
    (he : w.eqRows.find? (fun e => decide (e.index = j.pdu) && decide (e.sym = j.part)) = some e) :
    s.l1Dft u j = s.setCell j.cell ((s.cell j.cell).setWork (({ w with
      eqRows := w.eqRows.filter (fun q => decide (q ≠ e))
      llrs := w.llrs ++ [w.demap g p e.sym e.symbols] } : SlotWork).endEq g s.clk e.sym)) := by
  simp only [State.l1Dft, hg, hw, hp]
  rw [if_pos (by simp only [hawake, hlive, hu, hdie, hlate]; simp)]
  simp only [hls, he]

end

section
variable {qs : List SoftPdu} (hsoft : w.soft = some qs) (hres : w.results = false)
include hsoft hres

theorem State.l1Decode_of_due {q : SoftPdu} {p : UlPdu} {soft : List Int}
    (hq : qs.find? (fun q => decide (q.index = j.pdu)) = some q)
    (hp : w.pusch.find? (fun p => decide (p.index = j.pdu)) = some p) (hpart : q.soft[j.part]? = some soft)
    (hnew : ∀ d ∈ w.decoded, d.index = j.pdu → d.block ≠ j.part) :
    s.l1Decode u j = s.setCell j.cell ((s.cell j.cell).setWork { w with
      decoded := w.decoded ++ [⟨j.pdu, j.part, (p.shape.decodeBlock g.ldpcIter soft).bits,
        (p.shape.decodeBlock g.ldpcIter soft).iters, (p.shape.decodeBlock g.ldpcIter soft).ok⟩] }) := by
  have hfirst : w.decoded.any (fun d => decide (d.index = j.pdu) && decide (d.block = j.part)) = false := by
    simpa using hnew
  simp only [State.l1Decode, hg, hw, hp, show (w.soft.getD []).find? (fun q => decide (q.index = j.pdu)) = some q by
    rw [hsoft]; exact hq, hpart]
  rw [if_pos (by simp only [hawake, hlive, hu, hdie, hres, hfirst]; simp)]

theorem State.l1Uci_of_due {p : UlPdu}
    (hp : w.ulPdus.find? (fun p => (decide (p.kind = .pucch) || decide (p.kind = .pusch)) &&
      decide (p.index = j.pdu)) = some p) (hbits : 12 ≤ p.uciBits) (hnew : ∀ e ∈ w.uci, e.1 ≠ j.pdu) :
    s.l1Uci u j = s.setCell j.cell ((s.cell j.cell).setWork { w with
      uci := w.uci ++ [(j.pdu, uciPolar p.uciBits (w.uciLlrs g p))] }) := by
  have hfirst : w.uci.any (fun e => decide (e.1 = j.pdu)) = false := by simpa using hnew
  simp only [State.l1Uci, hg, hw, hp]
  rw [if_pos (by simp only [hawake, hlive, hu, hdie, hres, hsoft, hfirst, hbits]; simp)]

end
end

theorem uplinkStepsRun : Says.UplinkStepsRun := by
  unfold Says.UplinkStepsRun
  intro s c n k g hg hawake hlive x w
  refine ⟨fun hul hlate hnew hdone hservo hbound => ?_, fun hul hlate hnew hk hdue => ?_,
    fun hlate hready hsym hnew => ?_, fun v => ⟨SlotWork.endEst_of_waiting, SlotWork.endEst_of_last⟩,
    fun hsome hnew hest => ?_, fun ws hws hready hnew => ?_,
    fun p ys => ⟨rfl, rfl, fun v hv => SlotWork.demap_bounds hv, fun hall v hv => SlotWork.demap_erased hall hv⟩⟩
  · exact congrArg Host.Outcome.next (uplinkCPlaneLaunch_of_due hg hawake hlive hul hlate hnew hdone hservo hbound)
  · refine congrArg Host.Outcome.next ((symbolWindowClose_of_due hg hawake hlive rfl hul hlate hnew hk hdue).trans ?_)
    split
    · split
      · next cause hout => rw [hout]; rfl
      · next hout => rw [hout]; rfl
    · rfl
  · exact congrArg Host.Outcome.next (channelEstimation_of_due hg hawake hlive hlate hready hsym hnew)
  · refine congrArg Host.Outcome.next ((mmseWeights_of_due hg hawake hlive hsome hnew hest).trans ?_)
    rw [SlotWork.late_eq]
  · intro ps rows bound hps
    refine ⟨fun hwait => congrArg Host.Outcome.next ((equalisation_of_due hg hawake hlive hws hready hnew hps).trans ?_),
      fun hlast hlate => congrArg Host.Outcome.next ((equalisation_of_due hg hawake hlive hws hready hnew hps).trans ?_)⟩
    · exact congrArg (fun v => s.setCell c ((s.cell c).setWork v)) (SlotWork.endEq_of_waiting hwait)
    · exact congrArg (fun v => s.setCell c ((s.cell c).setWork v)) (SlotWork.endEq_of_late hlast hlate)

theorem uplinkEngines : Says.UplinkEngines := by
  unfold Says.UplinkEngines
  intro s c n g hg hawake hlive x w
  refine ⟨fun j u p hc hn hu hdie hcls hlate hp => ⟨fun e he => ⟨fun o ho => ?_, fun ho => ?_⟩, fun e hls he => ?_⟩,
    fun hul hlate hnew hrows heq hready lost => ?_,
    fun j u qs hc hn hu hdie hsoft hres => ⟨fun q p soft hq hp hpart hnew hcls => ?_, fun p hp hbits hnew hcls => ?_⟩,
    fun qs hsoft hnew hdec horder => ?_⟩
  · subst hc hn
    obtain ⟨die, cls, num⟩ := u
    subst hcls
    exact congrArg Host.Outcome.next (State.l1Dft_of_pusch hg rfl hawake hlive hu hdie hp hlate he ho)
  · subst hc hn
    obtain ⟨die, cls, num⟩ := u
    subst hcls
    exact congrArg Host.Outcome.next (State.l1Dft_of_srs hg rfl hawake hlive hu hdie hp hlate he ho)
  · subst hc hn
    obtain ⟨die, cls, num⟩ := u
    subst hcls
    exact congrArg Host.Outcome.next (State.l1Dft_of_symbol hg rfl hawake hlive hu hdie hp hlate hls he)
  · refine congrArg Host.Outcome.next
      ((harqCombining_of_due hg hawake hlive rfl hul hlate hnew hrows heq hready lost).trans ?_)
    rw [SlotWork.late_eq]
  · subst hc hn
    obtain ⟨die, cls, num⟩ := u
    subst hcls
    exact congrArg Host.Outcome.next (State.l1Decode_of_due hg rfl hawake hlive hu hdie hsoft hres hq hp hpart hnew)
  · subst hc hn
    obtain ⟨die, cls, num⟩ := u
    subst hcls
    exact congrArg Host.Outcome.next (State.l1Uci_of_due hg rfl hawake hlive hu hdie hsoft hres hp hbits hnew)
  · refine congrArg Host.Outcome.next ((uplinkResults_of_due hg hawake hlive rfl hsoft hnew hdec horder).trans ?_)
    rw [SlotWork.late_eq]

/-- Settles O19. -/
theorem uplinkSteps : Obligations.UplinkSteps := ⟨uplinkStepsRun, uplinkEngines⟩

end Sys2Proof.Machine
end

section
/-! O20, the soft bits of the HARQ processes (05 R191, R192; 10 R350). -/

namespace Sys2Proof.Machine

theorem addSoft_getElem? {a b : List Int} {j : Nat} (hj : j < max a.length b.length) :
    (addSoft a b)[j]? = some (satSigned 8 (a.getD j 0 + b.getD j 0)) := by
  simp [addSoft, hj]

theorem addBlocks_getD {a b : List (List Int)} {i : Nat} (hi : i < max a.length b.length) :
    (addBlocks a b).getD i [] = addSoft (a.getD i []) (b.getD i []) := by
  simp [addBlocks, List.getD_eq_getElem?_getD, hi]

/-- The process of a PUSCH: its UE's, by the four bits of its number. -/
def UlPdu.owns (p : UlPdu) (e : HarqProc) : Bool := decide (e.ue = p.ue) && decide (e.proc = p.harq % 16)

/-- The processes beside a PUSCH's own, and the bytes that they take. -/
def Cell.others (x : Cell) (p : UlPdu) : List HarqProc := x.harq.filter (fun e => !(p.owns e))
def Cell.othersBytes (x : Cell) (p : UlPdu) : Nat := ((x.others p).map (fun e => e.bytes)).sum

section
variable {x : Cell} {limit : Nat} {p : UlPdu} {new : List (List Int)}

theorem Cell.combine_of_fresh
    (h : x.harq.find? p.owns = none ∨ (∃ e, x.harq.find? p.owns = some e ∧ e.ndi ≠ p.ndi)) :
    x.combine limit p new = if x.othersBytes p + p.softBytes ≤ limit then
        ({ x with harq := x.others p ++ [⟨p.ue, p.harq % 16, p.ndi, new, p.softBytes, false⟩] }, ⟨p.index, new, false⟩)
      else ({ x with harq := x.others p ++ [⟨p.ue, p.harq % 16, p.ndi, [], 0, true⟩] }, ⟨p.index, new, true⟩) := by
  unfold Cell.combine
  dsimp only
  split
  · rfl
  · next e he =>
    rcases h with h | ⟨e', he', hndi⟩
    · exact absurd (h.symm.trans he) (by simp)
    · obtain rfl : e' = e := Option.some.inj (he'.symm.trans he)
      rw [if_pos hndi]
      rfl

theorem Cell.combine_of_retransmission {e : HarqProc} (he : x.harq.find? p.owns = some e) (hndi : e.ndi = p.ndi) :
    x.combine limit p new = if e.overflow then (x, ⟨p.index, new, true⟩)
      else ({ x with harq := x.others p ++ [{ e with soft := addBlocks e.soft new }] },
        ⟨p.index, addBlocks e.soft new, false⟩) := by
  unfold Cell.combine
  dsimp only
  split
  · next hnone => exact absurd (he.symm.trans hnone) (by simp)
  · next e' he' =>
    obtain rfl : e = e' := Option.some.inj (he.symm.trans he')
    rw [if_neg (not_not_intro hndi)]
    rfl

/-- A first transmission's soft bits are the new ones, stored or not. -/
theorem Cell.combine_soft_of_fresh
    (h : x.harq.find? p.owns = none ∨ (∃ e, x.harq.find? p.owns = some e ∧ e.ndi ≠ p.ndi)) :
    (x.combine limit p new).2.soft = new := by
  rw [Cell.combine_of_fresh h]
  split <;> rfl

theorem Cell.loseSoft_of_stored {e : HarqProc} (he : x.harq.find? p.owns = some e) :
    x.loseSoft p = { x with harq := x.others p, mediaErrors := x.mediaErrors + 1 } :=
  if_pos (List.any_eq_true.2 ⟨e, List.mem_of_find?_eq_some he, List.find?_some he⟩)

theorem Cell.loseSoft_find? {e : HarqProc} (he : x.harq.find? p.owns = some e) :
    (x.loseSoft p).harq.find? p.owns = none := by
  rw [Cell.loseSoft_of_stored he, List.find?_eq_none]
  intro q hq
  simpa using (List.mem_filter.1 hq).2

end

/-- Settles O20. -/
theorem harqCombines : Obligations.HarqCombines := by
  unfold Obligations.HarqCombines
  intro x limit p new mine others used
  refine ⟨fun h => ⟨fun hfit => (Cell.combine_of_fresh h).trans (if_pos hfit),
      fun hover => (Cell.combine_of_fresh h).trans (if_neg (Nat.not_le.2 hover))⟩,
    fun e he hndi => ⟨fun hover => (Cell.combine_of_retransmission he hndi).trans (if_pos hover),
      fun hfit => (Cell.combine_of_retransmission he hndi).trans (if_neg (ne_true_of_eq_false hfit))⟩,
    fun a b i j hi hj => ?_, fun e he => ⟨?_, ?_, Cell.combine_soft_of_fresh (.inl (Cell.loseSoft_find? he))⟩⟩
  · rw [addBlocks_getD hi]
    exact addSoft_getElem? hj
  · rw [Cell.loseSoft_of_stored he]
    rfl
  · rw [Cell.loseSoft_of_stored he]

end Sys2Proof.Machine
end

section
/-! O21, the issue of the vector ops (06 R205, R209). -/

namespace Sys2Proof.Machine

-- A row whose op is due takes its op's effect.

section
variable {s : State} {die n op : Nat} {r : VRun} {k : Kernel} {o : VOp} (hdue : VdeDue s die n op r k o)
include hdue

/-- What an op that is due sees. -/
theorem State.vdeRow_of_ok {f : VRun → VIn → VRes} {g : VEff}
    (hfree : op ≠ 0x58 ∨ (VdeSeen (s.vde die n)).arrayBusy = false)
    (hok : f r ⟨s.vdeView k (VdeSeen (s.vde die n)), k.site die n, VdeSeen (s.vde die n), o⟩ = .ok g) :
    State.vdeRow op f die n s =
      (s.locCorrects (k.site die n) g.reads).issueEff die n k (VdeSeen (s.vde die n)) g := by
  obtain ⟨hrun, hkernel, hop, hcode, hawake, hhalted, hfreeze, hsubst, hbreak⟩ := hdue
  have hwait : (decide (op = 0x58) && (VdeSeen (s.vde die n)).arrayBusy) = false := by
    rcases hfree with h | h <;> simp [h]
  simp only [VdeSeen] at hok hwait ⊢
  simp only [State.vdeRow, hrun, hkernel, hop]
  rw [if_pos (by simp only [hcode, hawake, hhalted, hfreeze, hsubst, hbreak]; simp), if_neg (ne_true_of_eq_false hwait),
    hok]

theorem State.vdeRow_of_busy {f : VRun → VIn → VRes} (hop : op = 0x58)
    (hbusy : (VdeSeen (s.vde die n)).arrayBusy = true) :
    State.vdeRow op f die n s = s.setVde die n { VdeSeen (s.vde die n) with freeze := .array } := by
  obtain ⟨hrun, hkernel, hnext, hcode, hawake, hhalted, hfreeze, hsubst, hbreak⟩ := hdue
  simp only [VdeSeen] at hbusy ⊢
  simp only [State.vdeRow, hrun, hkernel, hnext]
  rw [if_pos (by simp only [hcode, hawake, hhalted, hfreeze, hsubst, hbreak]; simp),
    if_pos (by simp only [hop, hbusy]; rfl)]

end

-- Ops that only compute: they have an effect on any registers, which neither reads nor stores.

/-- An effect without reads and stores. -/
def VRes.Computes (v : VRes) : Prop := ∃ g, v = .ok g ∧ g.stores = [] ∧ g.reads = []

theorem VIn.raw_computes {i : VIn} {lat : Nat} {l : List W64} : (i.raw lat l).Computes := ⟨_, rfl, rfl, rfl⟩
theorem VIn.lanes_computes {i : VIn} {lat : Nat} {l : List LaneOut} : (i.lanes lat l).Computes := ⟨_, rfl, rfl, rfl⟩
theorem VIn.scalar_computes {i : VIn} {lat : Nat} {v : W64} {more : List (Nat × VWrite)} {sat : Nat} :
    (i.scalar lat v more sat).Computes := ⟨_, rfl, rfl, rfl⟩
theorem VRes.ok_computes {f : VEff} (hstores : f.stores = []) (hreads : f.reads = []) : (VRes.ok f).Computes :=
  ⟨f, rfl, hstores, hreads⟩

theorem vCvt_computes {i : VIn} : (vCvt i).Computes := by
  unfold vCvt
  dsimp only
  split
  · exact VIn.lanes_computes
  · split
    · exact VIn.raw_computes
    · exact VIn.raw_computes

theorem vRsum_computes {i : VIn} : (vRsum i).Computes := by
  unfold vRsum
  dsimp only
  split
  · exact VIn.scalar_computes
  · split
    · exact VIn.scalar_computes
    · exact VIn.scalar_computes

theorem State.vdeRow_of_computes {s : State} {die n op : Nat} {r : VRun} {k : Kernel} {o : VOp} {f : VRun → VIn → VRes}
    {c : Instr} (hdue : VdeDue s die n op r k o) (hop : op ≠ 0x58) (hc : exec c s = .next (State.vdeRow op f die n s))
    (h : (f r ⟨s.vdeView k (VdeSeen (s.vde die n)), k.site die n, VdeSeen (s.vde die n), o⟩).Computes) :
    ∃ g, f r ⟨s.vdeView k (VdeSeen (s.vde die n)), k.site die n, VdeSeen (s.vde die n), o⟩ = .ok g ∧ g.stores = [] ∧
      g.reads = [] ∧ exec c s =
        .next ((s.locCorrects (k.site die n) []).issueEff die n k (VdeSeen (s.vde die n)) g) := by
  obtain ⟨g, hok, hstores, hreads⟩ := h
  refine ⟨g, hok, hstores, hreads, ?_⟩
  rw [hc, State.vdeRow_of_ok hdue (.inl hop) hok, hreads]

-- Ops that access memory.

theorem VIn.reading_of_reads {i : VIn} {loc : Nat} {l : List (Option Nat × Nat)} (h : VdeReads i loc l)
    (k : Unit → VRes) : i.reading loc l k = (k ()).read loc l := by
  unfold VIn.reading
  split
  · next r hr =>
    obtain ⟨p, hp, hpr⟩ := List.exists_of_findSome?_eq_some hr
    obtain ⟨a, ha, hverdict, hue⟩ := h p hp
    simp [ha, hverdict, hue] at hpr
  · rfl

/-- A write that does not fail is in its region, of nothing that is protected and of no part of a block that the code
cannot correct. -/
theorem State.verdict_of_writeFail {s : State} {x : Site} {code off : Nat} {bs : List Byte}
    (h : s.writeFail x code off bs = none) : s.verdict x code off bs.length = .ok ∧
      (code ≤ 7 → s.issuerProtected x.issuer (x.bases.getD code 0 + off) bs = false ∧
        s.issuerUeWrite x.issuer (x.bases.getD code 0 + off) bs.length = none) := by
  unfold State.writeFail at h
  split at h
  · cases h
  · cases h
  · next hverdict =>
    refine ⟨hverdict, fun hcode => ?_⟩
    rw [if_pos hcode] at h
    dsimp only at h
    split at h
    · cases h
    · next hfree => exact ⟨eq_false_of_ne_true hfree, Option.map_eq_none_iff.1 h⟩

theorem VIn.writing_of_writes {i : VIn} {loc : Nat} {l : List (Option Nat × List Byte)} (h : VdeWrites i loc l)
    (k : Unit → VRes) : i.writing loc l k = k () := by
  unfold VIn.writing
  split
  · next r hr =>
    obtain ⟨p, hp, hpr⟩ := List.exists_of_findSome?_eq_some hr
    obtain ⟨a, ha, hfail⟩ := h p hp
    obtain ⟨hverdict, hmem⟩ := State.verdict_of_writeFail hfail
    by_cases hloc : loc ≤ 7
    · obtain ⟨hprot, hue⟩ := hmem hloc
      rw [List.getD_eq_getElem?_getD] at hprot hue
      simp [ha, hverdict, hloc, hprot, hue] at hpr
    · simp [ha, hverdict, hloc] at hpr
  · rfl

/-- An effect that stores nothing, after reads of a location. -/
def VRes.Loads (v : VRes) (loc : Nat) (l : List (Option Nat × Nat)) : Prop :=
  ∃ g, v = (VRes.ok g).read loc l ∧ g.stores = [] ∧ g.reads = []

/-- An effect that writes no register, and stores to a location. -/
def VRes.Stores (v : VRes) (loc : Nat) (l : List (Option Nat × List Byte)) : Prop :=
  ∃ g, v = .ok g ∧ g.writes = [] ∧ g.reads = [] ∧ g.stores = l.map (fun a => (loc, a.1.getD 0, a.2))

/-- A vector load in reach. -/
theorem vLdv_of_reads {i : VIn} (h : VdeReads i i.ag.loc (laneIdx.map (fun j => (i.ag.lane j, i.ag.esize)))) :
    vLdv i = (VRes.ok { writes := [(8, .vec (voD i.o) (laneIdx.map (fun j => i.form.cut (laneOfBytes
        (i.s.locRead i.x i.ag.loc ((i.ag.lane j).getD 0) i.ag.esize)))))]
                        ags := i.advanced
                        bytes := stackCost i.ag.loc (32 * i.ag.esize) }).read i.ag.loc
      (laneIdx.map (fun j => (i.ag.lane j, i.ag.esize))) := by
  unfold vLdv
  exact VIn.reading_of_reads h _

theorem vLdx_loads {i : VIn} (h : VdeReads i i.ag.loc (laneIdx.map (fun j =>
    (i.ag.addr (signedOf 32 (i.va.getD j 0).toNat), i.ag.esize)))) :
    (vLdx i).Loads i.ag.loc (laneIdx.map (fun j => (i.ag.addr (signedOf 32 (i.va.getD j 0).toNat), i.ag.esize))) := by
  unfold vLdx
  exact ⟨_, VIn.reading_of_reads h _, rfl, rfl⟩

theorem vExpb_loads {i : VIn} (h : VdeReads i i.ag.loc [(i.ag.lane 0, 8 * bfpBytes (voAux i.o))]) :
    (vExpb i).Loads i.ag.loc [(i.ag.lane 0, 8 * bfpBytes (voAux i.o))] := by
  unfold vExpb
  exact ⟨_, VIn.reading_of_reads h _, rfl, rfl⟩

theorem vStv_stores {i : VIn} (h : VdeWrites i i.ag.loc (laneIdx.map (fun j =>
    (i.ag.lane j, leBytes i.ag.esize (i.form.cut (i.va.getD j 0)).toNat)))) :
    (vStv i).Stores i.ag.loc (laneIdx.map (fun j =>
      (i.ag.lane j, leBytes i.ag.esize (i.form.cut (i.va.getD j 0)).toNat))) := by
  unfold vStv
  exact ⟨_, VIn.writing_of_writes h _, rfl, rfl, rfl⟩

theorem vSts_stores {i : VIn} (h : VdeWrites i i.ag.loc [(i.ag.lane 0, leBytes 8 i.sa.toNat)]) :
    (vSts i).Stores i.ag.loc [(i.ag.lane 0, leBytes 8 i.sa.toNat)] := by
  unfold vSts
  exact ⟨_, VIn.writing_of_writes h _, rfl, rfl, rfl⟩

theorem vCmpb_stores {i : VIn} (h : VdeWrites i i.ag.loc [(i.ag.lane 0, i.blocks.flatMap Prod.fst)]) :
    (vCmpb i).Stores i.ag.loc [(i.ag.lane 0, i.blocks.flatMap Prod.fst)] := by
  unfold vCmpb
  exact ⟨_, VIn.writing_of_writes h _, rfl, rfl, rfl⟩

section
variable {s : State} {die n op : Nat} {r : VRun} {k : Kernel} {o : VOp} (hdue : VdeDue s die n op r k o) (hop : op ≠ 0x58)
  {c : Instr} {f : VRun → VIn → VRes} (hc : exec c s = .next (State.vdeRow op f die n s))
include hdue hop hc

theorem State.vdeRow_of_load {loc : Nat} {l : List (Option Nat × Nat)}
    (h : (f r ⟨s.vdeView k (VdeSeen (s.vde die n)), k.site die n, VdeSeen (s.vde die n), o⟩).Loads loc l) :
    ∃ g, f r ⟨s.vdeView k (VdeSeen (s.vde die n)), k.site die n, VdeSeen (s.vde die n), o⟩ = .ok g ∧ g.stores = [] ∧
      g.reads = l.map (fun a => (loc, a.1.getD 0, a.2)) ∧ exec c s =
        .next ((s.locCorrects (k.site die n) g.reads).issueEff die n k (VdeSeen (s.vde die n)) g) := by
  obtain ⟨g, hok, hstores, hreads⟩ := h
  refine ⟨_, hok, hstores, ?_, hc.trans (congrArg Host.Outcome.next (State.vdeRow_of_ok hdue (.inl hop) hok))⟩
  dsimp only
  rw [hreads, List.append_nil]

theorem State.vdeRow_of_store {loc : Nat} {l : List (Option Nat × List Byte)}
    (h : (f r ⟨s.vdeView k (VdeSeen (s.vde die n)), k.site die n, VdeSeen (s.vde die n), o⟩).Stores loc l) :
    ∃ g, f r ⟨s.vdeView k (VdeSeen (s.vde die n)), k.site die n, VdeSeen (s.vde die n), o⟩ = .ok g ∧ g.writes = [] ∧
      g.reads = [] ∧ g.stores = l.map (fun a => (loc, a.1.getD 0, a.2)) ∧
      exec c s =
        .next ((s.locCorrects (k.site die n) []).issueEff die n k (VdeSeen (s.vde die n)) g) := by
  obtain ⟨g, hok, hwrites, hreads, hstores⟩ := h
  refine ⟨g, hok, hwrites, hreads, hstores, ?_⟩
  rw [hc, State.vdeRow_of_ok hdue (.inl hop) hok, hreads]

end

/-- A product of the array over operands in reach: its 64 cells swap in at the end of its latency. -/
theorem vAmm_of_reads {i : VIn}
    (ha : VdeReads i i.ag.loc ((List.range 8).map (fun j => (i.ag.row j, 4 * voImm i.o))))
    (hb : VdeReads i (i.agOf ((voG i.o + 1) % 4)).loc
      ((List.range 8).map (fun j => ((i.agOf ((voG i.o + 1) % 4)).row j, 4 * voImm i.o)))) :
    ∃ g cells, vAmm i = .ok g ∧ g.writes = [(4 * voImm i.o + 22, .swap cells (decide (voFmt i.o = 14)))] ∧
      cells.length = 64 := by
  unfold vAmm
  dsimp only
  rw [VIn.reading_of_reads ha, VIn.reading_of_reads hb]
  refine ⟨_, _, rfl, rfl, ?_⟩
  simp only [List.length_map, List.length_flatMap, List.map_map, List.length_range]
  rfl

/-- Settles O21. -/
theorem vectorOpsIssue : Obligations.VectorOpsIssue := by
  unfold Obligations.VectorOpsIssue
  intro s die n op r k o hdue e i eight
  refine ⟨?_, ?_, ?_, fun hop hfree ha hb => ?_, fun hop hbusy => ?_⟩
  · simp only [List.forall_mem_cons, List.forall_mem_nil, and_true]
    exact ⟨
      fun hop => State.vdeRow_of_computes (f := fun r => vAgld r.table) hdue (by subst hop; decide) (by subst hop; rfl)
        (VRes.ok_computes rfl rfl),
      fun hop => State.vdeRow_of_computes (f := fun _ => vMov) hdue (by subst hop; decide) (by subst hop; rfl)
        VIn.raw_computes,
      fun hop => State.vdeRow_of_computes (f := fun _ => vSplat) hdue (by subst hop; decide) (by subst hop; rfl)
        VIn.raw_computes,
      fun hop => State.vdeRow_of_computes (f := fun _ => vSets) hdue (by subst hop; decide) (by subst hop; rfl)
        (VRes.ok_computes rfl rfl),
      fun hop => State.vdeRow_of_computes (f := fun _ => vPerm) hdue (by subst hop; decide) (by subst hop; rfl)
        VIn.raw_computes,
      fun hop => State.vdeRow_of_computes (f := fun _ => vAdd) hdue (by subst hop; decide) (by subst hop; rfl)
        VIn.lanes_computes,
      fun hop => State.vdeRow_of_computes (f := fun _ => vSub) hdue (by subst hop; decide) (by subst hop; rfl)
        VIn.lanes_computes,
      fun hop => State.vdeRow_of_computes (f := fun _ => vMul) hdue (by subst hop; decide) (by subst hop; rfl)
        VIn.lanes_computes,
      fun hop => State.vdeRow_of_computes (f := fun _ => vConj) hdue (by subst hop; decide) (by subst hop; rfl)
        VIn.lanes_computes,
      fun hop => State.vdeRow_of_computes (f := fun _ => vAbs2) hdue (by subst hop; decide) (by subst hop; rfl)
        VIn.lanes_computes,
      fun hop => State.vdeRow_of_computes (f := fun _ => vShr) hdue (by subst hop; decide) (by subst hop; rfl)
        VIn.lanes_computes,
      fun hop => State.vdeRow_of_computes (f := fun _ => vCvt) hdue (by subst hop; decide) (by subst hop; rfl)
        vCvt_computes,
      fun hop => State.vdeRow_of_computes (f := fun _ => vMaxv) hdue (by subst hop; decide) (by subst hop; rfl)
        VIn.lanes_computes,
      fun hop => State.vdeRow_of_computes (f := fun _ => vMinv) hdue (by subst hop; decide) (by subst hop; rfl)
        VIn.lanes_computes,
      fun hop => State.vdeRow_of_computes (f := fun _ => vAnd) hdue (by subst hop; decide) (by subst hop; rfl)
        VIn.raw_computes,
      fun hop => State.vdeRow_of_computes (f := fun _ => vXor) hdue (by subst hop; decide) (by subst hop; rfl)
        VIn.raw_computes,
      fun hop => State.vdeRow_of_computes (f := fun _ => vRecip) hdue (by subst hop; decide) (by subst hop; rfl)
        VIn.lanes_computes,
      fun hop => State.vdeRow_of_computes (f := fun _ => vMacz) hdue (by subst hop; decide) (by subst hop; rfl)
        (VRes.ok_computes rfl rfl),
      fun hop => State.vdeRow_of_computes (f := fun _ => vMac) hdue (by subst hop; decide) (by subst hop; rfl)
        (VRes.ok_computes rfl rfl),
      fun hop => State.vdeRow_of_computes (f := fun _ => vMsc) hdue (by subst hop; decide) (by subst hop; rfl)
        (VRes.ok_computes rfl rfl),
      fun hop => State.vdeRow_of_computes (f := fun _ => vNarrow) hdue (by subst hop; decide) (by subst hop; rfl)
        VIn.lanes_computes,
      fun hop => State.vdeRow_of_computes (f := fun _ => vGold) hdue (by subst hop; decide) (by subst hop; rfl)
        (VRes.ok_computes rfl rfl),
      fun hop => State.vdeRow_of_computes (f := fun _ => vCrc) hdue (by subst hop; decide) (by subst hop; rfl)
        VIn.scalar_computes,
      fun hop => State.vdeRow_of_computes (f := fun _ => vQmap) hdue (by subst hop; decide) (by subst hop; rfl)
        VIn.lanes_computes,
      fun hop => State.vdeRow_of_computes (f := fun _ => vDemap) hdue (by subst hop; decide) (by subst hop; rfl)
        (VRes.ok_computes rfl rfl),
      fun hop => State.vdeRow_of_computes (f := fun _ => vFht) hdue (by subst hop; decide) (by subst hop; rfl)
        VIn.raw_computes,
      fun hop => State.vdeRow_of_computes (f := fun _ => vMaxs) hdue (by subst hop; decide) (by subst hop; rfl)
        (VRes.ok_computes rfl rfl),
      fun hop => State.vdeRow_of_computes (f := fun _ => vMins) hdue (by subst hop; decide) (by subst hop; rfl)
        (VRes.ok_computes rfl rfl),
      fun hop => State.vdeRow_of_computes (f := fun _ => vRsum) hdue (by subst hop; decide) (by subst hop; rfl)
        vRsum_computes,
      fun hop => State.vdeRow_of_computes (f := fun _ => vArd) hdue (by subst hop; decide) (by subst hop; rfl)
        (VRes.ok_computes rfl rfl),
      fun hop => State.vdeRow_of_computes (f := fun _ => vLoop) hdue (by subst hop; decide) (by subst hop; rfl)
        (VRes.ok_computes rfl rfl),
      fun hop => State.vdeRow_of_computes (f := fun _ => vNop) hdue (by subst hop; decide) (by subst hop; rfl)
        (VRes.ok_computes rfl rfl),
      fun hop => State.vdeRow_of_computes (f := fun _ => vFence) hdue (by subst hop; decide) (by subst hop; rfl)
        (VRes.ok_computes rfl rfl),
      fun hop => State.vdeRow_of_computes (f := fun _ => vBrk) hdue (by subst hop; decide) (by subst hop; rfl)
        (VRes.ok_computes rfl rfl), List.forall_mem_nil _⟩
  · simp only [List.forall_mem_cons, List.forall_mem_nil, and_true]
    exact ⟨
      fun hop hreads => State.vdeRow_of_load (f := fun _ => vLdv) hdue (by subst hop; decide) (by subst hop; rfl)
        ⟨_, vLdv_of_reads hreads, rfl, rfl⟩,
      fun hop hreads => State.vdeRow_of_load (f := fun _ => vLdx) hdue (by subst hop; decide) (by subst hop; rfl)
        (vLdx_loads hreads),
      fun hop hreads => State.vdeRow_of_load (f := fun _ => vExpb) hdue (by subst hop; decide) (by subst hop; rfl)
        (vExpb_loads hreads), List.forall_mem_nil _⟩
  · simp only [List.forall_mem_cons, List.forall_mem_nil, and_true]
    exact ⟨
      fun hop hwrites => State.vdeRow_of_store (f := fun _ => vStv) hdue (by subst hop; decide) (by subst hop; rfl)
        (vStv_stores hwrites),
      fun hop hwrites => State.vdeRow_of_store (f := fun _ => vSts) hdue (by subst hop; decide) (by subst hop; rfl)
        (vSts_stores hwrites),
      fun hop hwrites => State.vdeRow_of_store (f := fun _ => vCmpb) hdue (by subst hop; decide) (by subst hop; rfl)
        (vCmpb_stores hwrites), List.forall_mem_nil _⟩
  · obtain ⟨g, cells, hok, hwrites, hlen⟩ := vAmm_of_reads ha hb
    subst hop
    exact ⟨g, cells, hok, hwrites, hlen,
      congrArg Host.Outcome.next (State.vdeRow_of_ok (f := fun _ => vAmm) hdue (.inr hfree) hok)⟩
  · subst hop
    exact congrArg Host.Outcome.next (State.vdeRow_of_busy (f := fun _ => vAmm) hdue rfl hbusy)

end Sys2Proof.Machine
end

section
/-! O22, what vector ops write, and when it is seen (06 R201, R204, R205, R208 to R212). -/

namespace Sys2Proof.Machine

-- Integers as values.

/-- A magnitude in whole units is not rounded. -/
theorem roundInt_whole (r : Rnd) (b : Bool) (m : Nat) : roundInt r b m 0 = if b then -(m : Int) else m := by
  simp only [roundInt, roundAt, alignTo, Int.le_refl, if_true, Int.sub_self, Int.toNat_zero, Nat.shiftLeft_zero]

@[simp] theorem roundInt_ofInt (r : Rnd) (v : Int) : roundInt r (decide (v < 0)) v.natAbs 0 = v := by
  rw [roundInt_whole, ite_cond_congr (decide_eq_true_eq (p := v < 0))]
  split <;> omega

@[simp] theorem FVal.toInt_ofInt (v : Int) : (FVal.ofInt v).toInt = v := roundInt_ofInt _ _

@[simp] theorem FVal.toInt_zero : FVal.zero.toInt = 0 := FVal.toInt_ofInt 0

theorem signedAt_zero (b : Bool) (m : Nat) : signedAt b m 0 0 = if b then -(m : Int) else m := by
  simp [signedAt, alignTo]

theorem FVal.add_ofInt (a b : Int) : (FVal.ofInt a).add (FVal.ofInt b) = FVal.ofInt (a + b) := by
  by_cases ha : a = 0
  · by_cases hb : b = 0
    · subst ha hb; rfl
    · simp [FVal.add, FVal.ofInt, ha, hb]
  · by_cases hb : b = 0
    · simp [FVal.add, FVal.ofInt, ha, hb]
    · have hsum : signedAt (decide (a < 0)) a.natAbs 0 0 + signedAt (decide (b < 0)) b.natAbs 0 0 = a + b := by
        simp only [signedAt_zero, decide_eq_true_eq]
        omega
      simp only [FVal.add, FVal.ofInt, Int.natAbs_eq_zero, ha, hb, and_self, if_false, Int.min_self, hsum]

theorem FVal.sub_ofInt (a b : Int) : (FVal.ofInt a).add (FVal.ofInt b).neg = FVal.ofInt (a - b) := by
  by_cases hb : b = 0
  · by_cases ha : a = 0
    · subst ha hb; rfl
    · simp [FVal.add, FVal.ofInt, FVal.neg, ha, hb]
  · have hneg : (FVal.ofInt b).neg = FVal.ofInt (-b) := by
      simp only [FVal.ofInt, FVal.neg, Int.natAbs_neg, Int.neg_neg_iff_pos, FVal.fin.injEq, and_true]
      rw [Bool.eq_iff_iff]
      simp only [Bool.not_eq_true', decide_eq_false_iff_not, decide_eq_true_eq]
      omega
    rw [hneg, FVal.add_ofInt, Int.sub_eq_add_neg]

theorem FVal.toInt_mul_ofInt (a b : Int) : ((FVal.ofInt a).mul (FVal.ofInt b)).toInt = a * b := by
  have habs : ∀ v : Int, (v.natAbs : Int) = if v < 0 then -v else v := fun v => by omega
  show roundInt .zero (decide (a < 0) != decide (b < 0)) (a.natAbs * b.natAbs) 0 = a * b
  rw [roundInt_whole, Int.natCast_mul, habs, habs]
  by_cases ha : a < 0 <;> by_cases hb : b < 0 <;>
    simp [ha, hb, Int.neg_mul, Int.mul_neg]

-- Lanes of a result.

theorem zip_map_getElem? {α β γ : Type} {l : List α} {m : List β} {k : Nat} (hl : l.length = 32) (hm : m.length = 32)
    (hk : k < 32) (f : α × β → γ) (a : α) (b : β) : ((l.zip m).map f)[k]? = some (f (l.getD k a, m.getD k b)) := by
  simp [List.getD_eq_getElem?_getD, hl, hm, hk]

theorem laneIdx_map_getElem? {α : Type} {k : Nat} (hk : k < 32) (f : Nat → α) : (laneIdx.map f)[k]? = some (f k) := by
  simp [laneIdx, hk]

/-- A lane of INT32 is written saturated. -/
theorem Form.write_int32 {f : Form} (hf : f.fmt = 4) (v : Int) (im : FVal) :
    (f.write ⟨.ofInt v, im⟩).lane = BitVec.ofNat 64 (wrapOf 32 (satSigned 32 v)) := by
  have hrnd := roundInt_ofInt .near v
  simp only [Form.write, hf, intStore, FVal.ofInt, LaneOut.of, hrnd]
  rfl

theorem Form.read_int32 {f : Form} (hf : f.fmt = 4) (x : W64) : f.read x = ⟨.ofInt (signedOf 32 x.toNat), .zero⟩ := by
  simp only [Form.read, hf]

theorem Form.read_int16 {f : Form} (hf : f.fmt = 3) (x : W64) : f.read x = ⟨.ofInt (signedOf 16 x.toNat), .zero⟩ := by
  simp only [Form.read, hf]

section
variable {i : VIn} (hva : i.va.length = 32) (hvb : i.vb.length = 32) {k : Nat} (hk : k < 32)
include hva hvb hk

theorem lanes2_getElem? (hneg : voNeg i.o = false) (f : Elem → Elem → Elem) :
    ((lanes2 i f).map LaneOut.lane)[k]? =
      some (i.form.write (f (i.form.read (i.va.getD k 0)) (i.form.read (i.vb.getD k 0)))).lane := by
  rw [lanes2, List.map_map, zip_map_getElem? hva hvb hk _ 0 0]
  simp only [Function.comp_apply, hneg, Elem.negIf, Bool.false_eq_true, if_false]

theorem vAdd_lane (hfmt : voFmt i.o = 4) (hneg : voNeg i.o = false) :
    ((lanes2 i Elem.add).map LaneOut.lane)[k]? = some (BitVec.ofNat 64 (wrapOf 32 (satSigned 32
      (signedOf 32 (i.va.getD k 0).toNat + signedOf 32 (i.vb.getD k 0).toNat)))) := by
  have hform : i.form.fmt = 4 := hfmt
  rw [lanes2_getElem? hva hvb hk hneg, Form.read_int32 hform, Form.read_int32 hform, Elem.add, FVal.add_ofInt,
    Form.write_int32 hform]

theorem vSub_lane (hfmt : voFmt i.o = 4) (hneg : voNeg i.o = false) :
    ((lanes2 i Elem.sub).map LaneOut.lane)[k]? = some (BitVec.ofNat 64 (wrapOf 32 (satSigned 32
      (signedOf 32 (i.va.getD k 0).toNat - signedOf 32 (i.vb.getD k 0).toNat)))) := by
  have hform : i.form.fmt = 4 := hfmt
  rw [lanes2_getElem? hva hvb hk hneg, Form.read_int32 hform, Form.read_int32 hform, Elem.sub, FVal.sub_ofInt,
    Form.write_int32 hform]

/-- A product of INT16 lanes goes to the real component. -/
theorem accProds_getElem? (hfmt : voFmt i.o = 3) (hca : voConjA i.o = false)
    (hcb : voConjB i.o = false) (neg : Bool) :
    (accProds i neg)[k]? = some (if neg then
        -(signedOf 16 (i.va.getD k 0).toNat * signedOf 16 (i.vb.getD k 0).toNat)
      else signedOf 16 (i.va.getD k 0).toNat * signedOf 16 (i.vb.getD k 0).toNat, 0) := by
  have hform : i.form.fmt = 3 := hfmt
  have hreal : i.form.complex = false := by
    simp [Form.complex, hform]
  rw [accProds, zip_map_getElem? hva hvb hk _ 0 0]
  simp only [hreal, hca, hcb, Elem.conjIf, Form.read_int16 hform, Bool.false_eq_true, if_false,
    FVal.toInt_mul_ofInt, FVal.toInt_zero]
  split <;> rfl

end

theorem vectorOpsWrite : Says.VectorOpsWrite := by
  unfold Says.VectorOpsWrite
  intro i
  refine ⟨fun hva hvb k hk => ⟨⟨_, rfl, zip_map_getElem? hva hvb hk _ 0 0⟩, ⟨_, rfl, zip_map_getElem? hva hvb hk _ 0 0⟩,
      fun hfmt hneg => ⟨⟨_, _, _, rfl, vAdd_lane hva hvb hk hfmt hneg⟩, ⟨_, _, _, rfl, vSub_lane hva hvb hk hfmt hneg⟩⟩,
      ⟨_, rfl, laneIdx_map_getElem? hk _⟩, fun hfmt _ hca hcb => ?_, fun hreads => ?_⟩,
    fun k hk => ⟨_, rfl, laneIdx_map_getElem? hk _⟩, rfl, fun _ => rfl, rfl, rfl, rfl, rfl⟩
  · have hprod := accProds_getElem? hva hvb hk hfmt hca hcb
    refine ⟨⟨_, rfl, ?_⟩, ⟨_, rfl, hprod false⟩, ⟨_, rfl, hprod true⟩⟩
    rw [List.getElem?_map, hprod false]
    rfl
  · exact ⟨_, _, vLdv_of_reads hreads, rfl, rfl, laneIdx_map_getElem? hk _⟩

-- Writes land at the end of their latency.

theorem nextLanding_single (t : Nat) (p : Pend) : nextLanding t [p] = if p.slot ≤ t then some p.slot else none := rfl

theorem Vde.land_before {e : Vde} {p : Pend} {t : Nat} (hpend : e.pend = [p]) (ht : t < p.slot) :
    Vde.land t e.pend.length e = e := by
  simp only [hpend, List.length_singleton, Vde.land, nextLanding_single, if_neg (Nat.not_le.2 ht)]

theorem Vde.land_after {e : Vde} {p : Pend} {t : Nat} (hpend : e.pend = [p]) (ht : p.slot ≤ t) :
    Vde.land t e.pend.length e = ({ e with pend := [] } : Vde).land1 p.write := by
  simp [hpend, Vde.land, nextLanding_single, ht]

theorem writesLandAtTheirLatency : Says.WritesLandAtTheirLatency := by
  unfold Says.WritesLandAtTheirLatency
  intro e u lat d l hpend hlat hd
  refine ⟨fun t ht => by rw [Vde.land_before hpend ht], fun t ht => ?_⟩
  rw [Vde.land_after hpend ht]
  exact ⟨List.getElem?_set_self hd, rfl, fun j hj => List.getElem?_set_ne (Ne.symm hj)⟩

-- Stores wait until the engine shows them.

/-- An op after which its list neither ends, breaks nor steps leaves the list as it is. -/
theorem State.listDone_of_running {s : State} {die n : Nat} {k : Kernel} {r : VRun} (hrun : (s.vde die n).run = some r)
    (hgo : (s.vde die n).pc < r.ops.length ∨ (s.vde die n).freeze ≠ .none) : s.listDone die n k = s := by
  simp only [State.listDone, hrun]
  refine if_neg (fun hend => ?_)
  simp only [Bool.and_eq_true, decide_eq_true_eq] at hend
  rcases hgo with h | h
  · exact absurd hend.1.1 (Nat.not_le.2 h)
  · exact h hend.1.2

@[simp] theorem Vde.after_run (e : Vde) (f : VEff) : (e.after f).run = e.run := by
  unfold Vde.after
  split
  · rfl
  · rfl
  · rfl
  · rfl
  · split <;> rfl

theorem State.account_vdes (s : State) (i : Issuer) (f : Acct → Acct) : (s.account i f).vdes = s.vdes :=
  (State.account_keeps (List.Subset.refl _) .refl).1 .vdes (by decide)

theorem State.account_vde (s : State) (i : Issuer) (f : Acct → Acct) (die n : Nat) :
    (s.account i f).vde die n = s.vde die n := by
  rw [State.vde, State.account_vdes]
  rfl

/-- An op that goes on only queues its writes and stores in the engine, and counts its bytes. -/
theorem State.issueEff_of_running {s : State} {die n : Nat} {k : Kernel} {e : Vde} {f : VEff} {r : VRun}
    (hc : s.canon = true) (hrun : e.run = some r) (hstep : e.stepping = false) (hbrk : f.ctl ≠ .brk)
    (hgo : (e.after f).pc < r.ops.length ∨ (e.after f).freeze ≠ .none) :
    s.issueEff die n k e f = (s.setVde die n { e.after f with
        stores := e.stores ++ f.stores.map (fun w => s.locStore (k.site die n) w.1 w.2.1 w.2.2) }).account k.issuer
      (fun a => { a with stackBytes := a.stackBytes + f.bytes }) := by
  have hself := State.vde_setVde_self s die n { e.after f with
    stores := e.stores ++ f.stores.map (fun w => s.locStore (k.site die n) w.1 w.2.1 w.2.2) } (State.wf_vdes hc)
  unfold State.issueEff
  dsimp only
  rw [if_neg (by simp [hbrk]), State.listDone_of_running (r := r), if_neg (by simp [hstep])]
  · rw [State.account_vde, hself, ← hrun]
    exact Vde.after_run e f
  · rw [State.account_vde, hself]
    exact hgo

/-- A frame read off an account's update. -/
theorem State.account_memory (s : State) (i : Issuer) (f : Acct → Acct) :
    (s.account i f).stack = s.stack ∧ (s.account i f).tileW = s.tileW ∧ (s.account i f).tileA = s.tileA ∧
      (s.account i f).ledge = s.ledge ∧ (s.account i f).ue = s.ue := by
  have keeps := (State.account_keeps (s := s) (t := s) (a1 := i) (a2 := f) (List.Subset.refl _) .refl).1
  exact ⟨keeps .stack (by decide), keeps .tileW (by decide), keeps .tileA (by decide), keeps .ledge (by decide),
    keeps .ue (by decide)⟩

/-- Showing its stores gives an engine's memory to all, and empties its queue. -/
theorem State.showStores_eq (s : State) (die n : Nat) (k : Kernel) :
    ∃ undo, s.showStores die n k = (s.vdeView k (s.vde die n)).setVde die n
      { s.vde die n with stores := [], undo := undo } := by
  have hfold : ∀ (l : List HeldStore) (t : State × List HeldStore),
      (l.foldl (fun (t : State × List HeldStore) h =>
        (t.1.applyStore k.issuer h, t.1.underStore k.issuer h :: t.2)) t).1 =
      l.foldl (fun t h => t.applyStore k.issuer h) t.1 := by
    intro l
    induction l with
    | nil => intro t; rfl
    | cons h l ih => intro t; exact ih _
  refine ⟨((s.vde die n).stores.foldl (fun (t : State × List HeldStore) h =>
    (t.1.applyStore k.issuer h, t.1.underStore k.issuer h :: t.2)) (s, (s.vde die n).undo)).2, ?_⟩
  unfold State.showStores State.vdeView
  dsimp only
  rw [hfold]

theorem State.vdeView_of_shown {s : State} {k : Kernel} {e : Vde} (h : e.stores = []) : s.vdeView k e = s := by
  rw [State.vdeView, h]
  rfl

theorem storesWaitToBeSeen : Says.StoresWaitToBeSeen := by
  unfold Says.StoresWaitToBeSeen
  intro s die n k hc
  refine ⟨fun e f r hrun hstep hbrk hgo => ?_, ?_⟩
  · intro t
    have ht := State.issueEff_of_running (die := die) (n := n) (k := k) hc hrun hstep hbrk hgo
    obtain ⟨hstack, hw, ha, hledge, hue⟩ := State.account_memory (s.setVde die n { e.after f with
      stores := e.stores ++ f.stores.map (fun w => s.locStore (k.site die n) w.1 w.2.1 w.2.2) }) k.issuer
      (fun a => { a with stackBytes := a.stackBytes + f.bytes })
    rw [← ht] at hstack hw ha hledge hue
    refine ⟨hstack, hw, ha, hledge, hue, ?_⟩
    rw [show t = _ from ht, State.account_vde, State.vde_setVde_self _ _ _ _ (State.wf_vdes hc)]
  · intro t v
    obtain ⟨undo, ht⟩ := s.showStores_eq die n k
    have hv : v.canon = true := (State.vdeView_keeps (List.Subset.refl _) .refl).2 hc
    have hstores : (t.vde die n).stores = [] := by
      rw [show t = _ from ht, State.vde_setVde_self _ _ _ _ (State.wf_vdes hv)]
    rw [show t = _ from ht] at hstores ⊢
    refine ⟨rfl, rfl, rfl, rfl, rfl, hstores, ?_⟩
    rintro e rfl
    rw [State.vdeView_of_shown hstores]
    exact ⟨rfl, rfl⟩

/-- Settles O22. -/
theorem vectorOpEffects : Obligations.VectorOpEffects :=
  ⟨vectorOpsWrite, writesLandAtTheirLatency, storesWaitToBeSeen⟩

end Sys2Proof.Machine
end

section
/-! O23, control of the vector engines (06 R207, R208, R218 to R222). -/

namespace Sys2Proof.Machine

theorem State.onSel_of_sel {s : State} {d n : Nat} (hup : s.up = true) (hsel : s.vdeSel = some (d, n))
    (f : State → Nat → Nat → State) : s.onSel f = f s d n := by
  simp only [State.onSel, hup, hsel, if_true]

section
variable {s : State} {d n : Nat} {k : Kernel} (hk : s.vdeKernel (s.vde d n) = some k)
include hk

theorem vdeFreezeEnd_of_fence (hfreeze : (s.vde d n).freeze = .fence) :
    vdeFreezeEnd d n s = ((s.showStores d n k).setVde d n
      { (s.showStores d n k).vde d n with freeze := .none }).listDone d n k := by
  simp only [vdeFreezeEnd, hk, hfreeze]

theorem vdeFreezeEnd_of_array {u : Nat} {cells : List Elem} {fp : Bool} (hfreeze : (s.vde d n).freeze = .array)
    (hpend : (s.vde d n).pend = [⟨u, .swap cells fp⟩]) :
    vdeFreezeEnd d n s = s.setVde d n
      (({ s.vde d n with freeze := .none, pend := [] } : Vde).land1 (.swap cells fp)) := by
  unfold vdeFreezeEnd
  simp [hk, hfreeze, hpend]

theorem vdeHalt_of_due {r : VRun} {o : VOp} (hrun : (s.vde d n).run = some r)
    (hop : r.ops[(s.vde d n).pc]? = some o) (hboundary : voHb o = true) (hreq : (s.vde d n).haltReq = true)
    (hhalted : (s.vde d n).halted = false) (hfreeze : (s.vde d n).freeze = .none) (hradio : s.vdeRadio d n = false) :
    vdeHalt d n s = s.haltNow d n k 1 := by
  simp [vdeHalt, hrun, hk, hop, hboundary, hreq, hhalted, hfreeze, hradio]

theorem State.vdeHaltWrite_of_running (hhalted : (s.vde d n).halted = false) (hradio : s.vdeRadio d n = false) :
    s.vdeHaltWrite d n = s.setVde d n { s.vde d n with haltReq := true } := by
  simp [State.vdeHaltWrite, hk, hhalted, hradio]

theorem State.vdeHaltWrite_of_halted (hhalted : (s.vde d n).halted = true) (hradio : s.vdeRadio d n = false) :
    s.vdeHaltWrite d n = s.endList d n k (Result.of .abandoned) := by
  simp [State.vdeHaltWrite, hk, hhalted, hradio]

theorem State.vdeHaltWrite_of_radio (hradio : s.vdeRadio d n = true) :
    s.vdeHaltWrite d n = s.setVde d n { s.vde d n with refused := true } := by
  simp [State.vdeHaltWrite, hk, hradio]

section
variable {r : VRun} (hrun : (s.vde d n).run = some r) (hhalted : (s.vde d n).halted = true)
include hrun hhalted

theorem State.vdeResumeWrite_of_good (step : Bool) (hloops : (s.vde d n).loopsOk r.ops.length = true)
    (hue : s.locUe (k.site d n) r.saveLoc r.saveOff 8448 = none) :
    s.vdeResumeWrite d n step = ((s.locCorrects (k.site d n) [(r.saveLoc, r.saveOff, 8448)]).setVde d n
      { (s.vde d n).load (s.locRead (k.site d n) r.saveLoc r.saveOff 8448) with
        halted := false, cause := 0, stepping := step }).listDone d n k := by
  simp only [State.vdeResumeWrite, hrun, hk]
  rw [if_pos hhalted, if_pos hloops, hue]

theorem State.vdeResumeWrite_of_media (step : Bool) {b : Media} (hloops : (s.vde d n).loopsOk r.ops.length = true)
    (hue : s.locUe (k.site d n) r.saveLoc r.saveOff 8448 = some b) :
    s.vdeResumeWrite d n step = (s.failMedia b).endList d n k (s.mediaOf k.part b) := by
  simp only [State.vdeResumeWrite, hrun, hk]
  rw [if_pos hhalted, if_pos hloops, hue]

theorem State.vdeResumeWrite_of_loops (step : Bool) (hloops : (s.vde d n).loopsOk r.ops.length = false) :
    s.vdeResumeWrite d n step = s.setVde d n { s.vde d n with cause := 4 } := by
  simp only [State.vdeResumeWrite, hrun, hk]
  rw [if_pos hhalted, if_neg (ne_true_of_eq_false hloops)]

end
end

/-- Settles O23. -/
theorem engineControls : Obligations.EngineControls := by
  unfold Obligations.EngineControls
  intro s d n k hup hsel hk
  have step : exec .vdeStep s = .next (s.vdeResumeWrite d n true) :=
    congrArg Host.Outcome.next (State.onSel_of_sel hup hsel _)
  have resume : exec .vdeResume s = .next (s.vdeResumeWrite d n false) :=
    congrArg Host.Outcome.next (State.onSel_of_sel hup hsel _)
  have request : exec .vdeHaltRequest s =
      .next (if (s.vde d n).halted then s else s.vdeHaltWrite d n) :=
    congrArg Host.Outcome.next (State.onSel_of_sel hup hsel _)
  have listEnd : exec .vdeListEnd s = .next (if (s.vde d n).halted then s.vdeHaltWrite d n else s) :=
    congrArg Host.Outcome.next (State.onSel_of_sel hup hsel _)
  refine ⟨fun hfreeze => congrArg Host.Outcome.next (vdeFreezeEnd_of_fence hk hfreeze),
    fun u cells fp hfreeze hpend => congrArg Host.Outcome.next (vdeFreezeEnd_of_array hk hfreeze hpend),
    fun r o hrun hop hboundary hreq hhalted hfreeze hradio =>
      congrArg Host.Outcome.next (vdeHalt_of_due hk hrun hop hboundary hreq hhalted hfreeze hradio),
    fun hhalted hradio => ?_, fun hhalted hradio => ?_, fun hhalted hradio => ?_, fun r hrun hhalted => ?_⟩
  · rw [request, if_neg (ne_true_of_eq_false hhalted), State.vdeHaltWrite_of_running hk hhalted hradio]
  · rw [request, if_neg (ne_true_of_eq_false hhalted), State.vdeHaltWrite_of_radio hk hradio]
  · rw [listEnd, if_pos hhalted, State.vdeHaltWrite_of_halted hk hhalted hradio]
  · intro x e he
    have hexec : exec e.2 s = .next (s.vdeResumeWrite d n e.1) := by
      simp only [List.mem_cons, List.not_mem_nil, or_false] at he
      rcases he with rfl | rfl
      · exact step
      · exact resume
    refine ⟨fun hloops hue => ?_, fun b hloops hue => ?_, fun hloops => ?_⟩
    · rw [hexec, State.vdeResumeWrite_of_good hk hrun hhalted e.1 hloops hue]
    · rw [hexec, State.vdeResumeWrite_of_media hk hrun hhalted e.1 hloops hue]
    · rw [hexec, State.vdeResumeWrite_of_loops hk hrun hhalted e.1 hloops]

end Sys2Proof.Machine
end

section
/-! O24, the accelerators (06 R223 to R231; 05 R179, R194). -/

namespace Sys2Proof.Machine

section
variable {s : State} {die n op : Nat} {c : EngineClass} {k : Kernel} {checks : List W32 → List (Nat × Bool)}
  {reads : List W32 → List (Nat × Nat)} {go : List W32 → List (List Byte) → AccelDone} (hawake : s.awake = true)
  (hk : s.kernels.find? (fun k => decide (k.unit = some (die, c.code, n))) = some k) (hkind : k.kind = .accel)
  (hres : k.res = none) (hop : wfield k.cmd 5 0 0 = op ∨ op = 2) (hsubst : s.underSubst ⟨die, c, n⟩ = false)
include hawake hk hkind hres hop hsubst

theorem State.accelRow_of_bad {w : Nat} (hbad : cmdBad k.cmd (checks k.cmd) = some w) :
    s.accelRow op c checks reads go die n = s.updKernel k.id (fun y => { y with
      res := some (accelRecord k.cmd (Result.badIns w).status.code { hs := 0 },
        { Result.badIns w with aux := wfield k.cmd 0 31 16 }) }) := by
  simp only [State.accelRow, hk]
  rw [if_pos (by simp [hawake, hkind, hres, hop, hsubst]), hbad]

theorem State.accelRow_of_fail {r : Result} {b : Option Media} (hgood : cmdBad k.cmd (checks k.cmd) = none)
    (hfail : s.cmdFail (k.site die n) ((reads k.cmd).map (fun r => ((cmdIn k.cmd).1, (cmdIn k.cmd).2 + r.1, r.2)))
      ((go k.cmd ((reads k.cmd).map (fun r => s.locRead (k.site die n) (cmdIn k.cmd).1 ((cmdIn k.cmd).2 + r.1) r.2))).out.map
        (fun w => ((cmdOut k.cmd).1, (cmdOut k.cmd).2 + w.1, w.2))) = some (r, b)) :
    s.accelRow op c checks reads go die n = (s.noteFail b).updKernel k.id (fun y => { y with
      res := some (accelRecord k.cmd r.status.code { hs := 0 }, { r with aux := wfield k.cmd 0 31 16 }) }) := by
  simp only [State.accelRow, hk]
  rw [if_pos (by simp [hawake, hkind, hres, hop, hsubst]), hgood]
  dsimp only
  rw [hfail]

theorem State.accelRow_of_good (hgood : cmdBad k.cmd (checks k.cmd) = none) {rds : List (Nat × Nat × Nat)}
    (hrds : rds = (reads k.cmd).map (fun r => ((cmdIn k.cmd).1, (cmdIn k.cmd).2 + r.1, r.2))) {a : AccelDone}
    (ha : a = go k.cmd ((reads k.cmd).map (fun r =>
      s.locRead (k.site die n) (cmdIn k.cmd).1 ((cmdIn k.cmd).2 + r.1) r.2))) {ws : List (Nat × Nat × List Byte)}
    (hws : ws = a.out.map (fun w => ((cmdOut k.cmd).1, (cmdOut k.cmd).2 + w.1, w.2)))
    (hfail : s.cmdFail (k.site die n) rds ws = none) :
    s.accelRow op c checks reads go die n =
      ((((ws.foldl (fun t w => t.locWrite (k.site die n) w.1 w.2.1 w.2.2) (s.locCorrects (k.site die n) rds)).account
        k.issuer (fun y => { y with
          stackBytes := y.stackBytes + ((rds.map (fun r => stackCost r.1 r.2.2)).sum
            + (ws.map (fun w => stackCost w.1 w.2.2.length)).sum)
          engineHs := y.engineHs + (if c = .fft then a.hs else 0) })).meterHs k.issuer ⟨die, c, n⟩ a.hs).updKernel k.id
        (fun y => { y with res := some (accelRecord k.cmd Status.success.code a,
          { Result.of .success with aux := wfield k.cmd 0 31 16 }) })) := by
  subst hrds ha hws
  simp only [State.accelRow, hk]
  rw [if_pos (by simp [hawake, hkind, hres, hop, hsubst]), hgood]
  dsimp only
  rw [hfail]
  rfl

end

theorem acceleratorCommandsRun : Says.AcceleratorCommandsRun := by
  unfold Says.AcceleratorCommandsRun
  intro s die n k hawake e he hk hkind hres hop hsubst id fails
  have hrow : exec e.2.2.2.2.2 s =
      .next (s.accelRow e.1 e.2.1 e.2.2.1 e.2.2.2.1 e.2.2.2.2.1 die n) := by
    simp only [List.mem_cons, List.not_mem_nil, or_false] at he
    rcases he with rfl | rfl | rfl | rfl | rfl | rfl
    · rfl
    · rfl
    · rfl
    · rfl
    · rfl
    · rfl
  refine ⟨fun w hbad => ?_, fun hgood => ⟨fun r b hfail => ?_, fun hfail => ?_⟩⟩
  · exact hrow.trans (congrArg Host.Outcome.next (State.accelRow_of_bad hawake hk hkind hres hop hsubst hbad))
  · exact hrow.trans (congrArg Host.Outcome.next (State.accelRow_of_fail hawake hk hkind hres hop hsubst hgood hfail))
  · exact hrow.trans (congrArg Host.Outcome.next
      (State.accelRow_of_good hawake hk hkind hres hop hsubst hgood rfl rfl rfl hfail))

section
variable {s : State} {id : Nat} {k : Kernel} {ws : List W32} {r : Result} (hk : s.kernel id = some k)
  (hres : k.res = some (ws, r))
include hk hres

theorem accelResult_of_written (hw : s.writeFail (k.site ((k.unit.map (fun u => u.1)).getD 0) 0) (cmdRes k.cmd).1
    (cmdRes k.cmd).2 (wordsBytes ws) = none) :
    accelResult id s = (s.locWrite (k.site ((k.unit.map (fun u => u.1)).getD 0) 0) (cmdRes k.cmd).1 (cmdRes k.cmd).2
      (wordsBytes ws)).finishUnit k r := by
  simp only [accelResult, hk, hres, hw]

theorem accelResult_of_fail {f : Result} {b : Option Media}
    (hw : s.writeFail (k.site ((k.unit.map (fun u => u.1)).getD 0) 0) (cmdRes k.cmd).1 (cmdRes k.cmd).2
      (wordsBytes ws) = some (f, b)) :
    accelResult id s = (s.noteFail b).finishUnit k (if r.status = .success then { f with aux := r.aux } else r) := by
  simp only [accelResult, hk, hres, hw]

end

/-- A detection whose symbols are ready is reported in its turn. -/
theorem State.rachIndication_of_ready {s : State} {c slot i : Nat} {g : CellCfg} {w : SlotWork} {p : UlPdu}
    (hg : (s.cell c).cfg = some g) (hw : (s.cell c).work slot = w)
    (hp : w.ulPdus.find? (fun p => decide (p.kind = .prach) && decide (p.index = i)) = some p) (hawake : s.awake = true)
    (hlive : (s.cell c).live = true) (hlate : w.lateUl = false) (hnew : i ∉ w.rached)
    (hready : ∀ j ∈ symRange p.sym, w.ready g j = true) (hnamed : w.ulChannels.testBit UlKind.prach.bit = false) :
    s.rachIndication c slot i = (s.setCell c ((s.cell c).setWork { w with
      rached := i :: w.rached, waits := w.waits ++ [.rach (w.rachOf g p)] })).releaseInds c := by
  have hall : (symRange p.sym).all (fun k => w.ready g k) = true := List.all_eq_true.2 hready
  simp only [State.rachIndication, hg, hw, hp]
  rw [if_pos (by simp only [hawake, hlive, hlate, hnew, hall, hnamed]; rfl)]

theorem resultsAreReported : Says.ResultsAreReported := by
  unfold Says.ResultsAreReported
  refine ⟨fun s id k ws r hk hres => ⟨fun hw => ?_, fun f b hw => ?_⟩,
    fun s die n c slot i g p hg hp hawake hlive hlate hnew hready hengine hdie hnamed => ?_⟩
  · exact congrArg Host.Outcome.next (accelResult_of_written hk hres hw)
  · exact congrArg Host.Outcome.next (accelResult_of_fail hk hres hw)
  · have hexec : exec (.prach die n (some (c, slot, i))) s = .next (s.rachIndication c slot i) :=
      congrArg Host.Outcome.next (if_pos (by simp [hengine, hdie]))
    rw [hexec, State.rachIndication_of_ready hg rfl hp hawake hlive hlate hnew hready hnamed]

/-- Settles O24. -/
theorem acceleratorsRun : Obligations.AcceleratorsRun := ⟨acceleratorCommandsRun, resultsAreReported⟩

end Sys2Proof.Machine
end

section
/-! O25, the jobs of units and images, and copies (09 R307, R320 to R325, R338; 13 R452 to R454). -/

namespace Sys2Proof.Machine

/-- The descriptor at the front of a ring goes to its handler once it is admitted. -/
theorem State.admitJob_of_admitted {s t : State} {n op : Nat} {d : Desc} {i : Issuer} (h : Admitted s n op t d i)
    (k : State → Desc → Issuer → State) : s.admitJob n op k = k t d i := by
  obtain ⟨hawake, hgated, hnext, hop, hissuer⟩ := h
  simp only [State.admitJob, hnext]
  rw [if_pos (by simp [hawake, hgated]), if_pos hop]
  rcases hissuer with ⟨rfl, howner, rfl⟩ | ⟨p, c, rfl, howner, hctx, hruns, rfl, hchecked⟩
  · simp only [howner]
  · simp only [howner, hctx]
    rw [if_pos, if_pos hchecked]
    rcases hruns with hruns | ⟨hreq, hrunning⟩
    · simp [hruns]
    · simp [hreq, hrunning]

-- A job of a unit.

section
variable {s : State} {n aux : Nat} {d : Desc} {i : Issuer} {kind : KernelKind} {c : EngineClass}
  {go : State → Kernel → UnitId → State}

theorem State.unitJob_of_bad {w : Nat} (hbad : firstOf (s.unitDescBad i d.words (decide (kind = .mlist)))
      (if s.unitRef i (wordAt d.words 1) c = .bad then some 1 else none) = some w) :
    s.unitJob n d i kind c aux go = s.finishDesc n d.idx { Result.bad w with aux := aux } := by
  simp only [State.unitJob, hbad]

theorem State.unitJob_of_unit {u : UnitId} (hgood : s.unitDescBad i d.words (decide (kind = .mlist)) = none)
    (href : s.unitRef i (wordAt d.words 1) c = .unit u) :
    s.unitJob n d i kind c aux go = if s.unitTakes i kind u && s.served i n then
      go (s.updDesc n d.idx (fun e => { e with aux := aux })) (s.unitKernel n d i kind u) u else s := by
  have hchecked : firstOf (s.unitDescBad i d.words (decide (kind = .mlist)))
      (if s.unitRef i (wordAt d.words 1) c = .bad then some 1 else none) = none := by
    rw [hgood, href]; rfl
  simp only [State.unitJob, hchecked]
  simp only [href]

theorem State.unitJob_of_reserved (hgood : s.unitDescBad i d.words (decide (kind = .mlist)) = none)
    (href : s.unitRef i (wordAt d.words 1) c = .reserved) :
    s.unitJob n d i kind c aux go = s.finishDesc n d.idx { Result.of .engineReserved with aux := aux } := by
  have hchecked : firstOf (s.unitDescBad i d.words (decide (kind = .mlist)))
      (if s.unitRef i (wordAt d.words 1) c = .bad then some 1 else none) = none := by
    rw [hgood, href]; rfl
  simp only [State.unitJob, hchecked]
  simp only [href]

end

theorem unitDescriptorsStart : Says.UnitDescriptorsStart := by
  unfold Says.UnitDescriptorsStart
  intro s t n d i w1 off keep
  refine ⟨fun hadm => ?_, fun hadm hgood u href => ?_, fun hadm hgood => ?_⟩
  · have hexec : exec (.mlist n) s = .next (t.unitJob n d i .mlist .tile 0 (fun v k _ => v.startKernel k)) :=
      congrArg Host.Outcome.next (State.admitJob_of_admitted hadm _)
    refine ⟨fun w hbad => hexec.trans (congrArg Host.Outcome.next (State.unitJob_of_bad hbad)),
      fun hgood => ⟨fun u href => ⟨fun htakes => ?_, fun htakes => ?_⟩, fun href =>
        hexec.trans (congrArg Host.Outcome.next (State.unitJob_of_reserved hgood href))⟩⟩
    · rw [hexec, State.unitJob_of_unit hgood href, if_pos htakes]
    · rw [hexec, State.unitJob_of_unit hgood href, if_neg (ne_true_of_eq_false htakes)]
  · intro k x v
    have hexec : exec (.oplist n) s = .next _ := congrArg Host.Outcome.next (State.admitJob_of_admitted hadm _)
    refine ⟨fun htakes => ?_, fun r htakes hlist => ?_⟩
    · rw [hexec, State.unitJob_of_unit hgood href, if_neg (ne_true_of_eq_false htakes)]
    · rw [hexec, State.unitJob_of_unit hgood href, if_pos htakes]
      simp only [show t.unitRef i (wordAt d.words 1) .vde = .unit u from href]
      rw [show State.readList _ _ _ _ = _ from hlist]
  · intro x cmd hverdict hue c u hclass href
    have hexec : exec (.accel n) s = .next (t.unitJob n d i .accel c (wfield cmd 0 31 16) (fun v k _ =>
        (v.locCorrects x [(0, off, 64)]).startKernel { k with cmd := cmd })) := by
      refine congrArg Host.Outcome.next ((State.admitJob_of_admitted hadm _).trans ?_)
      simp only [hgood, show t.verdict ⟨i, jobBases d.words, field (wordAt d.words 1) 16 16, 0⟩ 0
        ((wordAt d.words 12).toNat * 32) 64 = .ok from hverdict, show t.locUe ⟨i, jobBases d.words,
        field (wordAt d.words 1) 16 16, 0⟩ 0 ((wordAt d.words 12).toNat * 32) 64 = none from hue]
      rw [show accelClass (t.locWords ⟨i, jobBases d.words, field (wordAt d.words 1) 16 16, 0⟩ 0
        ((wordAt d.words 12).toNat * 32) 16) = some c from hclass]
    refine ⟨fun htakes => ?_, fun htakes => ?_⟩
    · rw [hexec, State.unitJob_of_unit hgood href, if_neg (ne_true_of_eq_false htakes)]
    · rw [hexec, State.unitJob_of_unit hgood href, if_pos htakes]

-- Images.

section
variable {s t : State} {n p c : Nat} {d : Desc}

theorem run_of_bad {w : Nat} (hadm : Admitted s n 0x03 t d (some (p, c)))
    (hbad : runBad d.words (t.ctx p c) (t.batchMax p c) = some w) :
    run n s = t.finishDesc n d.idx (Result.bad w) := by
  rw [run, State.admitJob_of_admitted hadm]
  simp only [hbad]

theorem run_of_good (hadm : Admitted s n 0x03 t d (some (p, c)))
    (hgood : runBad d.words (t.ctx p c) (t.batchMax p c) = none) :
    run n s = if 2 ≤ t.batchMax p c then (t.startDesc n d.idx).batchRequest n d p c
        (runRows d.words ((((t.ctx p c).image d.arg).map (fun im => im.rowBytes)).getD 1))
      else (t.startDesc n d.idx).updDesc n d.idx (fun e => { e with
        job := some ⟨d.arg, wfield d.words 1 15 0, wfield d.words 1 31 16, 0, false, false⟩ }) := by
  rw [run, State.admitJob_of_admitted hadm]
  simp only [hgood]

theorem unloadImage_of_empty (hadm : Admitted s n 0x02 t d (some (p, c)))
    (hslot : descFail d.words [(0, d.slotOk)] = none) (hnone : (t.ctx p c).image d.arg = none) :
    unloadImage n s = t.finishDesc n d.idx (Result.of .success) := by
  rw [unloadImage, State.admitJob_of_admitted hadm]
  simp only [hslot, hnone]

theorem unloadImage_of_loaded (hadm : Admitted s n 0x02 t d (some (p, c)))
    (hslot : descFail d.words [(0, d.slotOk)] = none) {im : Image} (him : (t.ctx p c).image d.arg = some im) :
    unloadImage n s = (t.setCtx p c { t.ctx p c with images := (t.ctx p c).images.map (fun e =>
      if e.1 = d.arg then (e.1, { e.2 with unloading := true }) else e) }).startDesc n d.idx := by
  rw [unloadImage, State.admitJob_of_admitted hadm]
  simp only [hslot, him]

theorem unloadSlotIdle_of_waiting
    (hd : (s.ring n).descs.find? (fun d => d.started && !d.done && decide (d.op = 0x02)) = some d)
    (howner : s.ringOwner n = some p) (hctx : s.ringCtx p n = some c) :
    unloadSlotIdle n s = if s.slotBusy p c d.arg then s
      else (s.setCtx p c { s.ctx p c with images := (s.ctx p c).images.filter (fun e => decide (e.1 ≠ d.arg)) }).finishDesc
        n d.idx { status := .success, d4 := if ((s.ctx p c).image d.arg).isSome then 1 else 0 } := by
  simp only [unloadSlotIdle, hd, howner, hctx]

/-- The checks of a LOAD_IMAGE that come before its weights. -/
def State.LoadPasses (t : State) (p c : Nat) (d : Desc) (im : ImageInfo) : Prop :=
  descFail d.words [(0, d.slotOk && ((t.ctx p c).image d.arg).isNone),
    (4, decide (wpair d.words 4 % 4096 = 0))] = none ∧
  t.issuerAllows (some (p, c)) (t.windowOff (some (p, c)) (wpair d.words 4)) (wordAt d.words 6).toNat = true ∧
  t.issuerUeRead (some (p, c)) (t.windowOff (some (p, c)) (wpair d.words 4)) (wordAt d.words 6).toNat = none ∧
  kernelRefused (t.maxLayer p) im.kernels = none ∧
  im.manifest.find? (fun r => !(t.issuerAllows (some (p, c)) (t.windowOff (some (p, c)) r.1) r.2)) = none

/-- The state after a LOAD_IMAGE has read its image. -/
def State.loadRead (t : State) (p c : Nat) (d : Desc) : State :=
  t.issuerCorrects (some (p, c)) (t.windowOff (some (p, c)) (wpair d.words 4)) (wordAt d.words 6).toNat

section
variable {im : ImageInfo} (h : t.LoadPasses p c d im)
include h

theorem State.loadRun_of_plain (hue : t.weightsUe (some (p, c)) im.manifest = none) :
    t.loadRun n d p c im .none =
      ((t.loadRead p c d).weightsRead (some (p, c)) im.manifest).installImage n d p c im := by
  obtain ⟨hwords, hallows, hread, hkernels, hmanifest⟩ := h
  simp only [State.loadRun, hwords, hread, hkernels, hmanifest, hue]
  rw [if_pos hallows]
  rfl

section
variable {bytes : List Byte} {o : Opened} (ho : (t.loadRead p c d).fuses.unseal (t.loadRead p c d).sec.running bytes = o)
include ho

theorem State.loadRun_of_sealed (hgood : o.good = true)
    (hfail : (t.loadRead p c d).weightsFail (some (p, c)) im.manifest o.plain = none) :
    t.loadRun n d p c im (.sealed bytes) =
      ((t.loadRead p c d).putWeights (some (p, c)) im.manifest o.plain).installImage n d p c im := by
  subst ho
  obtain ⟨hwords, hallows, hread, hkernels, hmanifest⟩ := h
  simp only [State.loadRead] at hgood hfail ⊢
  simp only [State.loadRun, hwords, hread, hkernels, hmanifest]
  rw [if_pos hallows]
  simp only [reduceCtorEq, if_false, Option.or_none, hgood, if_true, hfail]

theorem State.loadRun_of_rejected (hbad : o.good = false) :
    t.loadRun n d p c im (.sealed bytes) =
      (if o.unwrapped then (t.loadRead p c d).zeroWeights (some (p, c)) im.manifest
        else t.loadRead p c d).finishDesc n d.idx (Result.of .imageRejected) := by
  subst ho
  obtain ⟨hwords, hallows, hread, hkernels, hmanifest⟩ := h
  simp only [State.loadRead] at hbad ⊢
  simp only [State.loadRun, hwords, hread, hkernels, hmanifest]
  rw [if_pos hallows]
  simp only [reduceCtorEq, if_false, Option.or_none, hbad, Bool.false_eq_true]
  rfl

end
end
end

theorem imageJobs : Says.ImageJobs := by
  unfold Says.ImageJobs
  intro s t n d p c i
  refine ⟨fun hadm => ⟨fun w hbad => congrArg Host.Outcome.next (run_of_bad hadm hbad), fun hgood =>
      ⟨fun hsmall => congrArg Host.Outcome.next ((run_of_good hadm hgood).trans (if_neg (Nat.not_le.2 hsmall))),
        fun hbatch => congrArg Host.Outcome.next ((run_of_good hadm hgood).trans (if_pos hbatch))⟩⟩,
    fun hadm im pkg => ?_,
    fun hadm hslot => ⟨fun hnone => congrArg Host.Outcome.next (unloadImage_of_empty hadm hslot hnone),
      fun im him => congrArg Host.Outcome.next (unloadImage_of_loaded hadm hslot him)⟩,
    fun hd howner hctx =>
      ⟨fun hbusy => congrArg Host.Outcome.next ((unloadSlotIdle_of_waiting hd howner hctx).trans (if_pos hbusy)),
        fun hidle => congrArg Host.Outcome.next
          ((unloadSlotIdle_of_waiting hd howner hctx).trans (if_neg (ne_true_of_eq_false hidle)))⟩⟩
  intro size off v hwords hallows hread hkernels hmanifest
  have hexec : exec (.loadImage n im pkg) s = .next (t.loadRun n d p c im pkg) :=
    congrArg Host.Outcome.next (State.admitJob_of_admitted hadm _)
  have hpass : t.LoadPasses p c d im := ⟨hwords, hallows, hread, hkernels, hmanifest⟩
  refine ⟨fun hpkg hue => ?_, fun bytes hpkg => ?_⟩
  · subst hpkg
    exact hexec.trans (congrArg Host.Outcome.next (State.loadRun_of_plain hpass hue))
  · subst hpkg
    exact ⟨fun hgood hfail => hexec.trans (congrArg Host.Outcome.next (State.loadRun_of_sealed hpass rfl hgood hfail)),
      fun hbad => hexec.trans (congrArg Host.Outcome.next (State.loadRun_of_rejected hpass rfl hbad))⟩

-- Copies.

section
variable {s : State} {n : Nat} {data : List Byte}

theorem copy_of_running {d : Desc}
    (hd : (s.ring n).descs.find? (fun d => d.started && !d.done && decide (d.op = 0x07)) = some d)
    (hawake : s.awake = true) :
    copy n data s = s.copyStep n d ((s.ringOwner n).map (fun p => (p, (s.ringCtx p n).getD 0))) data := by
  simp only [copy, hd, hawake, if_true]

section
variable {t : State} {d : Desc} {i : Issuer} (hadm : Admitted s n 0x07 t d i)
  (hnone : (s.ring n).descs.find? (fun d => d.started && !d.done && decide (d.op = 0x07)) = none)
include hadm hnone

theorem copy_of_good (hgood : t.copyFail d i none = none) :
    copy n data s = (t.startDesc n d.idx).copyStep n d i data := by
  simp only [copy, hnone, State.admitJob_of_admitted hadm, hgood]

theorem copy_of_fail {u : State} {r : Result} (hfail : t.copyFail d i none = some (u, r)) :
    copy n data s = u.finishDesc n d.idx r := by
  simp only [copy, hnone, State.admitJob_of_admitted hadm, hfail]

end

section
variable {p c unit k left : Nat} {out : Bool} (hleft : 0 < left)
include hleft

theorem State.passUnits_of_none (h : s.takeShare p .cxl out (min unit left) (min unit left) = none) :
    State.passUnits (some (p, c)) out unit (k + 1) left s = (s, left) := by
  simp only [State.passUnits, Nat.pos_iff_ne_zero.1 hleft, if_false, h]

theorem State.passUnits_of_some {u : State} (h : s.takeShare p .cxl out (min unit left) (min unit left) = some u) :
    State.passUnits (some (p, c)) out unit (k + 1) left s =
      State.passUnits (some (p, c)) out unit k (left - min unit left) u := by
  simp only [State.passUnits, Nat.pos_iff_ne_zero.1 hleft, if_false, h]

end

/-- A copy of the physical function from the host, which is not metered, stores its data at once. -/
theorem State.copyStep_in {d : Desc} (hin : wfield d.words 1 0 0 = 0) (hlen : data.length = (wordAt d.words 8).toNat)
    (hgood : (s.updDesc n d.idx (fun e => { e with moved := (wordAt d.words 8).toNat })).copyFail d none (some data) =
      none) :
    s.copyStep n d none data =
      ((s.updDesc n d.idx (fun e => { e with moved := (wordAt d.words 8).toNat })).issuerWrite none
        (wpair d.words 6) data).finishDesc n d.idx { status := .success, d4 := lo32 (wordAt d.words 8).toNat } := by
  have htake : data.take (wordAt d.words 8).toNat = data := List.take_of_length_le (Nat.le_of_eq hlen)
  unfold State.copyStep
  simp only [State.passUnits, State.account, State.windowOff, hin, hlen, htake, Nat.sub_zero, Nat.le_refl, and_self,
    if_true, hgood]
  rfl

/-- A copy of the physical function to the host reads its data and puts it there at once. -/
theorem State.copyStep_out {d : Desc} (hmoved : d.moved = 0) (hout : wfield d.words 1 0 0 = 1)
    (hgood : (s.updDesc n d.idx (fun e => { e with moved := (wordAt d.words 8).toNat })).copyFail d none none = none) :
    s.copyStep n d none data =
      (((s.updDesc n d.idx (fun e => { e with moved := (wordAt d.words 8).toNat })).issuerCorrects none
        (wpair d.words 6) (wordAt d.words 8).toNat).putHost (wpair d.words 4)
          ((s.updDesc n d.idx (fun e => { e with moved := (wordAt d.words 8).toNat })).issuerRead none
            (wpair d.words 6) (wordAt d.words 8).toNat)).finishDesc n d.idx
        { status := .success, d4 := lo32 (wordAt d.words 8).toNat } := by
  unfold State.copyStep
  simp only [State.passUnits, State.account, State.windowOff, hout, hmoved, Nat.sub_zero, Nat.add_zero, decide_true,
    if_true, hgood]

end

theorem copiesMoveTheirBytes : Says.CopiesMoveTheirBytes := by
  unfold Says.CopiesMoveTheirBytes
  intro s t n d data
  refine ⟨fun i hadm hnone => ⟨fun hgood => congrArg Host.Outcome.next (copy_of_good hadm hnone hgood),
      fun u r hfail => congrArg Host.Outcome.next (copy_of_fail hadm hnone hfail)⟩,
    fun hd hawake => congrArg Host.Outcome.next (copy_of_running hd hawake),
    fun p c unit k left out hleft => ⟨State.passUnits_of_none hleft, fun u => State.passUnits_of_some hleft⟩, ?_⟩
  intro len off u ok hmoved
  exact ⟨fun hin hlen hgood => State.copyStep_in hin hlen hgood, fun hout hgood =>
    State.copyStep_out hmoved hout hgood⟩

/-- Settles O25. -/
theorem unitJobsStart : Obligations.UnitJobsStart := ⟨unitDescriptorsStart, imageJobs, copiesMoveTheirBytes⟩

end Sys2Proof.Machine
end

section
/-! O26, the islands of the radio pool and the radio memory (07 R239, R264; 15 R488). -/

namespace Sys2Proof.Machine

-- One island at a time.

theorem State.addIsland_of_radio {s : State} {d i : Nat} (h : (s.island d i).radio = true) :
    s.addIsland (d, i) = s.setIsland d i { s.island d i with removing := false } := by
  simp only [State.addIsland, h, if_true]

theorem State.addIsland_of_owned {s : State} {d i : Nat} (h : (s.island d i).radio = false)
    (howned : s.ownedIsland d i = true) : s.addIsland (d, i) = s.refuseIsland d i 1 := by
  simp only [State.addIsland, h, howned, Bool.false_eq_true, if_false, if_true]

theorem State.addIsland_of_free {s : State} {d i : Nat} (h : (s.island d i).radio = false)
    (howned : s.ownedIsland d i = false) : s.addIsland (d, i) =
      ((s.setIsland d i { (s.island d i).take s.now with
        radio := true, counted := (s.island d i).held }).syncHolds d).edge 2 := by
  simp only [State.addIsland, h, howned, Bool.false_eq_true, if_false]

section
variable {s : State} {d i : Nat}

theorem removeIsland_place (hi : i < 8) : (8 * d + i) / 8 = d ∧ (8 * d + i) % 8 = i := by omega

theorem State.removeIsland_of_unfit (hi : i < 8)
    (h : s.fitsWithout d (i :: (List.range 8).filter (fun j => (s.island d j).removing)) = false) :
    s.removeIsland (8 * d + i) = s.refuseIsland d i 2 := by
  obtain ⟨hd, hm⟩ := removeIsland_place (d := d) hi
  unfold State.removeIsland
  simp only [hd, hm]
  exact if_pos (by simp only [h, Bool.not_false])

variable (hfree : ∀ l ∈ s.leases, ∀ u ∈ l.units, ¬(u.die = d ∧ u.island = i))
include hfree

theorem unleased (l : Lease) (hl : l ∈ s.leases) :
    l.units.any (fun u => decide (u.die = d) && decide (u.island = i)) = false := by
  simpa using hfree l hl

/-- A removal that no lease holds up takes effect at once. -/
theorem State.removeIsland_of_unleased (hi : i < 8)
    (h : s.fitsWithout d (i :: (List.range 8).filter (fun j => (s.island d j).removing)) = true) :
    s.removeIsland (8 * d + i) = s.setIsland d i { s.island d i with removing := true, removeAt := s.now } := by
  obtain ⟨hd, hm⟩ := removeIsland_place (d := d) hi
  have hnone : s.leases.filter (fun l => l.units.any (fun u => decide (u.die = d) && decide (u.island = i))) = [] :=
    List.filter_eq_nil_iff.2 (fun l hl => ne_true_of_eq_false (unleased hfree l hl))
  have hno : s.leases.filter (fun _ => false) = [] := List.filter_eq_nil_iff.2 (fun _ _ => Bool.false_ne_true)
  unfold State.removeIsland
  simp only [hd, hm]
  rw [if_neg (by simp only [h]; decide), hnone]
  simp only [List.foldl_nil, List.any_nil, hno, List.map_nil]

theorem islandRemovalDone_of_due (hd : d < 2) (hi : i < 8) (hradio : (s.island d i).radio = true)
    (hremoving : (s.island d i).removing = true) (hdue : (s.island d i).removeAt ≤ s.now) {y : Island}
    (hy : y = if 0 < (s.island d i).spareHolds then s.island d i else (s.island d i).leave s.profile.1) :
    islandRemovalDone d i s = (((s.setIsland d i { y with
      radio := false, removing := false, counted := false }).syncHolds d).edge 2).islandPending := by
  subst hy
  have hnone : s.leases.any (fun l => l.units.any (fun u => decide (u.die = d) && decide (u.island = i))) = false :=
    List.any_eq_false.2 (fun l hl => ne_true_of_eq_false (unleased hfree l hl))
  unfold islandRemovalDone
  exact if_pos (by simp only [hd, hi, hradio, hremoving, hdue, hnone]; rfl)

end

theorem islandChangesAct : Says.IslandChangesAct := by
  unfold Says.IslandChangesAct
  intro s value d i
  refine ⟨fun hup hact => ⟨congrArg Host.Outcome.next (if_pos (by simp [hup, hact])),
      congrArg Host.Outcome.next (if_pos (by simp [hup, hact]))⟩,
    ⟨State.addIsland_of_radio, State.addIsland_of_owned, State.addIsland_of_free⟩,
    fun hi => ⟨State.removeIsland_of_unfit hi, fun hfits hfree => State.removeIsland_of_unleased hfree hi hfits⟩,
    fun hd hi hradio hremoving hdue hfree => ?_⟩
  exact congrArg Host.Outcome.next (islandRemovalDone_of_due hfree hd hi hradio hremoving hdue rfl)

-- Radio memory.

section
variable {s : State} {v : W32}

/-- Only sizes within the device's memory fit. -/
theorem State.radioMemFits_sizes (h : s.radioMemFits v = true) :
    field v 6 0 ≤ 96 ∧ field v 14 8 ≤ 96 ∧ field v 20 16 ≤ 24 ∧ field v 28 24 ≤ 24 := by
  simp only [State.radioMemFits, Bool.and_eq_true, decide_eq_true_eq] at h
  obtain ⟨⟨⟨⟨⟨⟨h0, h1⟩, h2⟩, h3⟩, -⟩, -⟩, -⟩ := h
  exact ⟨h0, h1, h2, h3⟩

/-- With no partition and no cell every such size fits. -/
theorem State.radioMemFits_of_empty (h0 : field v 6 0 ≤ 96) (h1 : field v 14 8 ≤ 96) (h2 : field v 20 16 ≤ 24)
    (h3 : field v 28 24 ≤ 24) (hparts : s.enabledParts = []) (hcells : ∀ d < 2, s.dieCells d = []) :
    s.radioMemFits v = true := by
  simp [State.radioMemFits, h0, h1, h2, h3, hparts, hcells 0 (by decide), hcells 1 (by decide)]

end

theorem radioMemoryIsGuarded : Says.RadioMemoryIsGuarded := by
  unfold Says.RadioMemoryIsGuarded
  intro s v hup hact
  have hexec : exec (.belayRadioMemWrite v) s = .next (if s.radioMemFits v then s.applyWrite (aBELAY + 8) v
      else s.setRbit (aBELAY + 4) 26 true) := congrArg Host.Outcome.next (if_pos (by simp [hup, hact]))
  refine ⟨fun hfits => by rw [hexec, if_pos hfits], fun hfits => by rw [hexec, if_neg (ne_true_of_eq_false hfits)],
    fun hbig => eq_false_of_ne_true (fun hfits => ?_), State.radioMemFits_of_empty⟩
  obtain ⟨h0, h1, h2, h3⟩ := State.radioMemFits_sizes hfits
  omega

/-- Settles O26. -/
theorem islandsChange : Obligations.IslandsChange := ⟨islandChangesAct, radioMemoryIsGuarded⟩

end Sys2Proof.Machine
end

section
/-! Registers below the interrupt block, which an edge leaves (09 R339 to R341); and loops over islands. -/

namespace Sys2Proof.Machine

section
variable {a : Nat} (ha : a < aINTC)
include ha

theorem State.setPend_reg_low (s : State) (src : Nat) (b : Bool) : (s.setPend src b).reg a = s.reg a :=
  State.reg_setReg_other _ _ _ _ (by unfold aPEND; omega)

theorem State.sendMsix_reg_low (s : State) (fn entry v : Nat) : (s.sendMsix fn entry v).reg a = s.reg a := by
  have hstamp : a < aSTAMP v := by unfold aSTAMP aTIME; unfold aINTC at ha; omega
  unfold State.sendMsix
  split
  · rfl
  · dsimp only
    rw [State.reg_setReg_other _ _ _ _ (by omega), State.reg_setReg_other _ _ _ _ (by omega)]
    split <;> rfl

theorem State.fireSource_reg_low (s : State) (src : Nat) : (s.fireSource src).reg a = s.reg a := by
  unfold State.fireSource
  dsimp only
  split
  · rfl
  · split
    · rw [State.setPend_reg_low ha, State.sendMsix_reg_low ha]
    · exact State.sendMsix_reg_low ha ..

theorem State.edge_reg_low (s : State) (src : Nat) : (s.edge src).reg a = s.reg a := by
  have hcnt : ((s.bumpRf (aCNT (src / 4)) (8 * (src % 4) + 7) (8 * (src % 4)) 1).setPend src true).reg a = s.reg a := by
    rw [State.setPend_reg_low ha]
    exact State.reg_setReg_other _ _ _ _ (by unfold aCNT; omega)
  unfold State.edge
  split
  · dsimp only
    split
    · rw [State.fireSource_reg_low ha, hcnt]
    · exact hcnt
  · rfl

end

theorem island_key_ne {d i e j : Nat} (hi : i < 8) (hj : j < 8) (h : (e, j) ≠ (d, i)) : 8 * d + i ≠ 8 * e + j := by
  intro hk
  have hd : e = d := by omega
  subst hd
  exact h (by rw [show j = i by omega])

@[simp] theorem State.island_setIsland_other (s : State) {d i e j : Nat} (x : Island) (hi : i < 8) (hj : j < 8)
    (h : (e, j) ≠ (d, i)) : (s.setIsland e j x).island d i = s.island d i :=
  SMap.get_put_other _ _ _ _ (island_key_ne hi hj h)

/-- A loop whose body changes one island at a time, by `g` where an invariant holds, changes each island it meets by
`g`, once. -/
theorem foldl_island {P : State → Prop} {F : State → Nat × Nat → State} {g : Island → Island}
    (hP : ∀ t e, P t → P (F t e)) (hself : ∀ t e, P t → (F t e).island e.1 e.2 = g (t.island e.1 e.2))
    (hother : ∀ t e d i, e.2 < 8 → i < 8 → e ≠ (d, i) → (F t e).island d i = t.island d i)
    {l : List (Nat × Nat)} (hl : l.Nodup) (hlt : ∀ e ∈ l, e.2 < 8) {d i : Nat} (hi : i < 8) {s : State} (hs : P s) :
    (l.foldl F s).island d i = if (d, i) ∈ l then g (s.island d i) else s.island d i := by
  induction l generalizing s with
  | nil => simp
  | cons e l ih =>
    obtain ⟨hfresh, hl'⟩ := List.nodup_cons.1 hl
    rw [List.foldl_cons, ih hl' (fun e he => hlt e (List.mem_cons_of_mem _ he)) (hP _ _ hs)]
    by_cases he : e = (d, i)
    · subst he
      rw [if_neg hfresh, if_pos List.mem_cons_self, hself _ _ hs]
    · rw [hother _ _ _ _ (hlt e List.mem_cons_self) hi he]
      exact ite_cond_congr (propext (by simp [Ne.symm he]))

theorem allIslands_nodup : allIslands.Nodup := by decide
theorem allIslands_lt : ∀ e ∈ allIslands, e.2 < 8 := by decide
theorem mem_allIslands {d i : Nat} (hd : d < 2) (hi : i < 8) : (d, i) ∈ allIslands := by
  rw [allIslands, List.mem_map]
  exact ⟨8 * d + i, List.mem_range.2 (by omega), by rw [Prod.mk.injEq]; omega⟩

end Sys2Proof.Machine
end

section
/-! O28, the governor, the throttle profile and the power limiter (07 R243, R245, R246, R256; 15 R487, R488). -/

namespace Sys2Proof.Machine

section
variable {s : State} {d i : Nat} (hawake : s.awake = true) (hd : d < 2) (hi : i < 8)
include hawake hd hi

/-- A governor step of a held island moves its voltage, then reports a sample below floor pace. -/
theorem governorStep_of_hold {un : List (Nat × Nat × Bool)} (hhold : (s.island d i).hold = true) {t : State}
    (ht : t = if (s.island d i).pace < raisePace ∧ (s.island d i).mv < 800 then
        (s.setIsland d i { s.island d i with mv := min 800 ((s.island d i).mv + 5), raisedAt := s.now }).record 0x0305
          (siteIsland d i) 0 (s.island d i).pace
      else if lowerPace ≤ (s.island d i).pace ∧ 1000 ≤ (s.island d i).highRun ∧ 600 < (s.island d i).mv
          ∧ ((s.island d i).loweredAt = 0 ∨ (s.island d i).loweredAt + 1_000_000 ≤ s.now) then
        s.setIsland d i { s.island d i with mv := max 600 ((s.island d i).mv - 5), loweredAt := s.now }
      else s) :
    governorStep d i un s = if (s.island d i).under = true then
        (((t.setIsland d i { t.island d i with under := false }).markIsland d i).edge 3).noticeUnserved d un else t := by
  subst ht
  unfold governorStep
  exact if_pos (by simp only [hawake, hd, hi, hhold]; rfl)

theorem paceEmergency_of_low {since : Nat} (hserves : (s.island d i).serves = true)
    (hnew : (s.emerg d).islands.testBit i = false) (hlow : (s.island d i).lowSince = some since) :
    paceEmergency d i s = if since + 100_000 ≤ s.now then
      s.declareEmerg d .pace ((if s.emergIn d .pace then (s.emerg d).islands else 0) + 2 ^ i) else s := by
  unfold paceEmergency
  simp [hawake, hd, hi, hserves, hnew, hlow]

/-- A step of an island outside the hold follows the profile. -/
theorem throttleStep_of_free (hhold : (s.island d i).hold = false) :
    throttleStep d i s =
      if s.profile.1 < (s.island d i).mv then
        s.setIsland d i { s.island d i with mv := s.profile.1, loweredAt := s.now }
      else if s.profile.2.1 < s.rf aPWR 15 0 ∨ s.profile.2.2 < (s.island d i).temp then
        (if (s.island d i).loweredAt + 10_000 ≤ s.now then s.setIsland d i ((s.island d i).lower s.now) else s)
      else if (s.island d i).mv < s.profile.1 ∧ s.power.limitStep = 0 ∧
          max (s.island d i).raisedAt (s.island d i).loweredAt + 1_000_000 ≤ s.now then
        s.setIsland d i { s.island d i with mv := min s.profile.1 ((s.island d i).mv + 5), raisedAt := s.now }
      else s := by
  unfold throttleStep
  dsimp only
  rw [if_pos (by simp [hawake, hd, hi, hhold])]
  simp only [Bool.or_eq_true, decide_eq_true_eq]

end

theorem governorSteps : Says.GovernorSteps := by
  unfold Says.GovernorSteps
  intro s d i un hawake hd hi x go
  refine ⟨fun hhold => ⟨fun hpace hmv => ?_, fun hpace hlower hrun hmv hlowered => ?_, fun hraise hlower => ?_⟩,
    fun hhold => ?_, fun t hserves hnew hlow hsoon => ?_, fun t hserves hnew hlow hdue => ?_⟩
  · exact congrArg Host.Outcome.next (governorStep_of_hold hawake hd hi hhold (if_pos ⟨hpace, hmv⟩).symm)
  · exact congrArg Host.Outcome.next (governorStep_of_hold hawake hd hi hhold
      ((if_neg (fun h => absurd h.1 (Nat.not_lt.2 hpace))).trans (if_pos ⟨hlower, hrun, hmv, hlowered⟩)).symm)
  · exact congrArg Host.Outcome.next (governorStep_of_hold hawake hd hi hhold
      ((if_neg hraise).trans (if_neg hlower)).symm)
  · exact congrArg Host.Outcome.next (if_neg (by simp [show (s.island d i).hold = false from hhold]))
  · exact congrArg Host.Outcome.next
      ((paceEmergency_of_low hawake hd hi hserves hnew hlow).trans (if_neg (Nat.not_le.2 hsoon)))
  · exact congrArg Host.Outcome.next ((paceEmergency_of_low hawake hd hi hserves hnew hlow).trans (if_pos hdue))

theorem throttleFollowsTheProfile : Says.ThrottleFollowsTheProfile := by
  unfold Says.ThrottleFollowsTheProfile
  intro s d i hawake hd hi hhold x c overs
  have hstep : exec (.throttleStep d i) s = .next _ :=
    congrArg Host.Outcome.next (throttleStep_of_free hawake hd hi hhold)
  refine ⟨fun habove => ?_, fun hbelow hover hmv hdue => ?_, fun hbelow hover hsoon => ?_, fun hbelow hunder hstay => ?_,
    fun hbelow hunder hlimit hdue => ?_, fun v hup => ⟨fun hcode => ?_, fun hcode => ?_⟩⟩
  · exact hstep.trans (congrArg Host.Outcome.next (if_pos habove))
  · have hlower : (s.island d i).lower s.now = { s.island d i with mv := (s.island d i).mv - 5, loweredAt := s.now } := by
      have hmv : 605 ≤ (s.island d i).mv := hmv
      unfold Island.lower
      rw [if_neg (by omega), show max 600 ((s.island d i).mv - 5) = (s.island d i).mv - 5 by omega]
    rw [hstep, if_neg (Nat.not_lt.2 hbelow), if_pos hover, if_pos hdue, hlower]
  · rw [hstep, if_neg (Nat.not_lt.2 hbelow), if_pos hover, if_neg (Nat.not_le.2 hsoon)]
  · rw [hstep, if_neg (Nat.not_lt.2 hbelow), if_neg hunder, if_neg]
    rintro ⟨hmv, hlimit, hdue⟩
    rcases hstay with hceil | hacts | hsoon
    · exact absurd hceil (Nat.ne_of_lt hmv)
    · exact hacts hlimit
    · exact absurd hdue (Nat.not_le.2 hsoon)
  · rw [hstep, if_neg (Nat.not_lt.2 (Nat.le_of_lt hbelow)), if_neg hunder, if_pos ⟨hbelow, hlimit, hdue⟩]
  · exact congrArg Host.Outcome.next (if_neg (by simp [hcode]))
  · exact congrArg Host.Outcome.next (if_pos (by simp [hup, hcode]))

end Sys2Proof.Machine
end

section
/-! O28, the power limiter (07 R246). -/

namespace Sys2Proof.Machine

/-- The state after a power sample is measured: the temperature, the average and the peak. -/
def State.measured (s : State) (sample avg volts : Nat) (temp : Int) : State :=
  (({ s with power := { s.power with basecampTemp := temp } } : State).setReg aPWR
    (lo32 (volts % 65536 * 2 ^ 16 + min avg 0xFFFF))).setReg (aPWR + 4)
      (lo32 (max (s.reg (aPWR + 4)).toNat (min sample 0xFFFF)))

/-- The limiter ends: its step is 0, nothing is withheld, and after the last step the islands that do radio work enter
their hold. -/
def State.unlimited (t : State) : State :=
  let u : State := { (if t.power.limitStep = 3 then t.markServing else t) with
    power := { (if t.power.limitStep = 3 then t.markServing else t).power with limitStep := 0, withheld := false } }
  if t.power.limitStep = 3 then
    allIslands.foldl (fun w e =>
      if (w.island e.1 e.2).serves then w.setIsland e.1 e.2 ((w.island e.1 e.2).take w.now) else w) u
  else u

/-- The limiter's next step acts. -/
def State.limited (t : State) : State :=
  let slot := t.now / 1_000_000 + 1
  let u := if t.power.limitHit = slot then t else t.bumpRf (aPWR + 0xC) 31 16 1
  { u.limitAct t.nextLimit with
    power := { (u.limitAct t.nextLimit).power with limitStep := t.nextLimit, limitAt := u.now, limitHit := slot } }

section
variable {s : State} {sample avg volts : Nat} {temp : Int} {un : List (Nat × Nat × Bool)} (hphase : s.power.phase = .good)
include hphase

theorem limiterSample_of_below (h : sample < 15_000) :
    ∃ e0 e1, limiterSample sample avg volts temp un s =
      ((s.measured sample avg volts temp).unlimited.endEmerg 0 e0).endEmerg 1 e1 := by
  unfold limiterSample
  dsimp only
  rw [if_pos hphase, if_neg (Nat.not_le.2 h)]
  exact ⟨_, _, rfl⟩

theorem limiterSample_of_early (h : 15_000 ≤ sample)
    (hstep : (s.measured sample avg volts temp).nextLimit ≠ 3) :
    limiterSample sample avg volts temp un s = (s.measured sample avg volts temp).limited := by
  unfold limiterSample
  dsimp only
  rw [if_pos hphase, if_pos h]
  exact (if_neg hstep).trans (if_neg (fun h => hstep h.1))

/-- What step 3 does beside: emergencies, faults of slots and notices. -/
theorem limiterSample_of_last (h : 15_000 ≤ sample) (hstep : (s.measured sample avg volts temp).nextLimit = 3) :
    Keeps [.regs, .host, .pba, .msixHeld, .outs, .summit, .rings, .adminEvents, .parts, .ctl, .leases, .radio, .ports]
      (s.measured sample avg volts temp).limited (limiterSample sample avg volts temp un s) := by
  unfold limiterSample
  dsimp only
  rw [if_pos hphase, if_pos h]
  refine (if_pos hstep) ▸ ?_
  refine State.noticeUnserved_keeps (by decide) (State.noticeUnserved_keeps (by decide) ?_)
  split
  · refine Keeps.foldl (fun t d ht => ?_) _ (State.markServing_keeps (by decide) .refl)
    split
    · exact State.declareEmerg_keeps (by decide) ht
    · exact ht
  · exact .refl

end

-- What a sample measures.

section
variable (s : State) (sample avg volts : Nat) (temp : Int)

theorem State.measured_power : (s.measured sample avg volts temp).power = { s.power with basecampTemp := temp } := rfl
theorem State.measured_island (d i : Nat) : (s.measured sample avg volts temp).island d i = s.island d i := rfl
theorem State.measured_nextLimit : (s.measured sample avg volts temp).nextLimit = s.nextLimit := rfl

variable {s} (hc : s.canon = true)
include hc

theorem State.measured_canon : (s.measured sample avg volts temp).canon = true := by
  have hpower : ({ s with power := { s.power with basecampTemp := temp } } : State).canon = true := hc
  exact (State.setReg_keeps (w := [.regs]) (by decide) (State.setReg_keeps (by decide) .refl)).2 hpower

theorem State.measured_volts : (s.measured sample avg volts temp).reg aPWR =
    lo32 (volts % 65536 * 2 ^ 16 + min avg 0xFFFF) := by
  have hpower : ({ s with power := { s.power with basecampTemp := temp } } : State).canon = true := hc
  rw [State.measured, State.reg_setReg_other _ _ _ _ (by decide), State.reg_setReg_self _ _ _ (State.wf_regs hpower)]

theorem State.measured_peak : (s.measured sample avg volts temp).reg (aPWR + 4) =
    lo32 (max (s.reg (aPWR + 4)).toNat (min sample 0xFFFF)) := by
  have hpower : ({ s with power := { s.power with basecampTemp := temp } } : State).canon = true := hc
  rw [State.measured, State.reg_setReg_self _ _ _
    (State.wf_regs ((State.setReg_keeps (w := [.regs]) (by decide) .refl).2 hpower))]

end

-- What the end of the limiter leaves and does.

section
variable {t : State}

theorem State.unlimited_power : t.unlimited.power = { t.power with limitStep := 0, withheld := false } := by
  have hmark : t.markServing.power = t.power :=
    (State.markServing_keeps (s := t) (w := [.radio]) (by decide) .refl).1 .power (by decide)
  unfold State.unlimited
  dsimp only
  split
  · refine Eq.trans ((Keeps.foldl (w := [.islands]) (fun u e hu => ?_) _ .refl).1 .power (by decide)) ?_
    · split
      · exact State.setIsland_keeps (by decide) hu
      · exact hu
    · dsimp only
      rw [hmark]
  · rfl

theorem State.unlimited_reg (a : Nat) : t.unlimited.reg a = t.reg a := by
  have hmark : t.markServing.reg a = t.reg a := congrArg (fun m => SMap.get regReset m a)
    ((State.markServing_keeps (s := t) (w := [.radio]) (by decide) .refl).1 .regs (by decide))
  unfold State.unlimited
  dsimp only
  split
  · refine Eq.trans (congrArg (fun m => SMap.get regReset m a)
      ((Keeps.foldl (w := [.islands]) (fun u e hu => ?_) _ .refl).1 .regs (by decide))) ?_
    · split
      · exact State.setIsland_keeps (by decide) hu
      · exact hu
    · exact hmark
  · rfl

theorem Island.take_hold (x : Island) (now : Nat) : (x.take now).hold = true := by
  unfold Island.take
  split
  · assumption
  · rfl

/-- Below the ceiling after the last step, the islands that do radio work are in their hold. -/
theorem State.unlimited_hold (hc : t.canon = true) (hstep : t.power.limitStep = 3) {d i : Nat} (hd : d < 2) (hi : i < 8)
    (hserves : (t.island d i).serves = true) : (t.unlimited.island d i).hold = true := by
  have hmark := State.markServing_keeps (s := t) (w := [.radio]) (by decide) .refl
  have hisland : t.markServing.island d i = t.island d i :=
    congrArg (fun m => SMap.get (fun _ => Island.reset) m (8 * d + i)) (hmark.1 .islands (by decide))
  have hpower : ({ t.markServing with
      power := { t.markServing.power with limitStep := 0, withheld := false } } : State).canon = true := hmark.2 hc
  unfold State.unlimited
  dsimp only
  rw [if_pos hstep, if_pos hstep]
  rw [foldl_island (P := fun u => Keeps [.islands]
      ({ t.markServing with power := { t.markServing.power with limitStep := 0, withheld := false } } : State) u)
    (g := fun x => if x.serves then x.take t.markServing.now else x) (fun u e hu => ?_) (fun u e hu => ?_)
    (fun u e d i he hi hne => ?_) allIslands_nodup allIslands_lt hi .refl, if_pos (mem_allIslands hd hi)]
  · have hserves' : (t.markServing.island d i).serves = true := by rw [hisland]; exact hserves
    exact (congrArg Island.hold (if_pos hserves')).trans (Island.take_hold _ _)
  · split
    · exact State.setIsland_keeps (by decide) hu
    · exact hu
  · have hnow : u.now = t.markServing.now := hu.1 .now (by decide)
    split
    · rw [State.island_setIsland_self _ _ _ _ (State.wf_islands (hu.2 hpower)), hnow]
    · rfl
  · split
    · exact State.island_setIsland_other _ _ hi he hne
    · rfl

end

theorem State.endEmerg_reg_low {a : Nat} (ha : a < aINTC) (s : State) (d : Nat) (was : Emerg) :
    (s.endEmerg d was).reg a = s.reg a := by
  unfold State.endEmerg
  dsimp only
  split
  · rfl
  · exact State.edge_reg_low ha ..

theorem State.endEmerg_power (s : State) (d : Nat) (was : Emerg) : (s.endEmerg d was).power = s.power :=
  (State.endEmerg_keeps (List.Subset.refl _) .refl).1 .power (by decide)

theorem State.endEmerg_island (s : State) (d : Nat) (was : Emerg) (e j : Nat) :
    (s.endEmerg d was).island e j = s.island e j :=
  congrArg (fun m => SMap.get (fun _ => Island.reset) m (8 * e + j))
    ((State.endEmerg_keeps (List.Subset.refl _) .refl).1 .islands (by decide))

-- What a step of the limiter does.

section
variable {t : State}

/-- The state on which a step acts: the first of a millisecond is counted. -/
def State.limitCounted (t : State) : State :=
  if t.power.limitHit = t.now / 1_000_000 + 1 then t else t.bumpRf (aPWR + 0xC) 31 16 1

theorem State.limitCounted_keeps : Keeps [.regs] t t.limitCounted := by
  unfold State.limitCounted
  split
  · exact .refl
  · exact State.bumpRf_keeps (by decide) .refl

theorem State.limited_eq : t.limited = { t.limitCounted.limitAct t.nextLimit with
    power := { (t.limitCounted.limitAct t.nextLimit).power with
      limitStep := t.nextLimit, limitAt := t.limitCounted.now, limitHit := t.now / 1_000_000 + 1 } } := rfl

theorem State.limitCounted_island (d i : Nat) : t.limitCounted.island d i = t.island d i :=
  congrArg (fun m => SMap.get (fun _ => Island.reset) m (8 * d + i)) (State.limitCounted_keeps.1 .islands (by decide))

theorem State.island_withPower (s : State) (p : Power) (d i : Nat) :
    ({ s with power := p } : State).island d i = s.island d i := rfl

theorem State.limitAct_one (s : State) : s.limitAct 1 = allIslands.foldl (fun t e =>
    if (t.island e.1 e.2).hold then t else t.setIsland e.1 e.2 ((t.island e.1 e.2).lower t.now)) s := rfl

theorem State.limitAct_three (s : State) : s.limitAct 3 = allIslands.foldl (fun t e =>
    t.setIsland e.1 e.2 (((t.island e.1 e.2).lower t.now).leave t.profile.1)) s := rfl

theorem State.limited_withheld (h : t.nextLimit = 2) : t.limited.power.withheld = true := by
  rw [State.limited_eq, h]
  rfl

section
variable (hc : t.canon = true) {d i : Nat} (hd : d < 2) (hi : i < 8)
include hc hd hi

theorem State.limited_lowers (h : t.nextLimit = 1) :
    (t.limited.island d i).mv = if (t.island d i).hold then (t.island d i).mv
      else if (t.island d i).mv ≤ 600 then (t.island d i).mv else max 600 ((t.island d i).mv - 5) := by
  have hcanon : t.limitCounted.canon = true := State.limitCounted_keeps.2 hc
  have hfold : (t.limitCounted.limitAct 1).island d i =
      if (t.island d i).hold then t.island d i else (t.island d i).lower t.limitCounted.now := by
    rw [State.limitAct_one, foldl_island (P := fun u => Keeps [.islands] t.limitCounted u)
      (g := fun x => if x.hold then x else x.lower t.limitCounted.now) (fun u e hu => ?_) (fun u e hu => ?_)
      (fun u e d i he hi hne => ?_) allIslands_nodup allIslands_lt hi .refl, if_pos (mem_allIslands hd hi),
      State.limitCounted_island]
    · split
      · exact hu
      · exact State.setIsland_keeps (by decide) hu
    · have hnow : u.now = t.limitCounted.now := hu.1 .now (by decide)
      split
      · rfl
      · rw [State.island_setIsland_self _ _ _ _ (State.wf_islands (hu.2 hcanon)), hnow]
    · split
      · rfl
      · exact State.island_setIsland_other _ _ hi he hne
  rw [State.limited_eq, h, State.island_withPower, hfold]
  split
  · rfl
  · rfl

theorem State.limited_releases (h : t.nextLimit = 3) :
    (t.limited.island d i).hold = false ∧ (t.limited.island d i).held = false := by
  have hcanon : t.limitCounted.canon = true := State.limitCounted_keeps.2 hc
  have hfold : (t.limitCounted.limitAct 3).island d i =
      ((t.island d i).lower t.limitCounted.now).leave t.limitCounted.profile.1 := by
    rw [State.limitAct_three, foldl_island (P := fun u => Keeps [.islands] t.limitCounted u)
      (g := fun x => (x.lower t.limitCounted.now).leave t.limitCounted.profile.1) (fun u e hu => ?_) (fun u e hu => ?_)
      (fun u e d i he hi hne => ?_) allIslands_nodup allIslands_lt hi .refl, if_pos (mem_allIslands hd hi),
      State.limitCounted_island]
    · exact State.setIsland_keeps (by decide) hu
    · have hnow : u.now = t.limitCounted.now := hu.1 .now (by decide)
      have hprofile : u.profile = t.limitCounted.profile := by
        unfold State.profile State.rf State.reg
        rw [show u.regs = t.limitCounted.regs from hu.1 .regs (by decide)]
      rw [State.island_setIsland_self _ _ _ _ (State.wf_islands (hu.2 hcanon)), hnow, hprofile]
    · exact State.island_setIsland_other _ _ hi he hne
  rw [State.limited_eq, h, State.island_withPower, hfold]
  exact ⟨rfl, rfl⟩

end
end

theorem State.nextLimit_of_late {s : State} (h : 2 ≤ s.power.limitStep) : s.nextLimit = 3 := if_pos h

theorem State.nextLimit_of_early {s : State} (h : s.power.limitStep < 2) : s.nextLimit ≠ 3 := by
  unfold State.nextLimit
  dsimp only
  rw [if_neg (by omega)]
  split
  · decide
  · decide

theorem limiterSteps : Says.LimiterSteps := by
  unfold Says.LimiterSteps
  intro s sample avg volts temp un hphase hc
  have hc' := State.measured_canon sample avg volts temp hc
  refine ⟨fun hbelow => ?_, fun hover hearly => ?_, fun hover hlate => ?_⟩
  · obtain ⟨e0, e1, hnext⟩ := limiterSample_of_below (avg := avg) (volts := volts) (temp := temp) (un := un) hphase hbelow
    refine ⟨_, congrArg Host.Outcome.next hnext, ?_, ?_, ?_, ?_, fun hstep d i hd hi hserves => ?_⟩
    · rw [State.endEmerg_power, State.endEmerg_power, State.unlimited_power]
    · rw [State.endEmerg_power, State.endEmerg_power, State.unlimited_power]
    · rw [State.endEmerg_reg_low (by decide), State.endEmerg_reg_low (by decide), State.unlimited_reg,
        State.measured_volts _ _ _ _ hc]
    · rw [State.endEmerg_reg_low (by decide), State.endEmerg_reg_low (by decide), State.unlimited_reg,
        State.measured_peak _ _ _ _ hc]
    · rw [State.endEmerg_island, State.endEmerg_island]
      exact State.unlimited_hold hc' hstep hd hi hserves
  · refine ⟨_, congrArg Host.Outcome.next (limiterSample_of_early hphase hover (State.nextLimit_of_early hearly)), rfl,
      fun h => State.limited_withheld h, fun h d i hd hi => State.limited_lowers hc' hd hi h⟩
  · have hstep : (s.measured sample avg volts temp).nextLimit = 3 := State.nextLimit_of_late hlate
    have hkeeps := limiterSample_of_last (un := un) hphase hover hstep
    refine ⟨_, rfl, ?_, fun d i hd hi => ?_⟩
    · rw [show (limiterSample sample avg volts temp un s).power = _ from hkeeps.1 .power (by decide), State.limited_eq]
      exact hstep
    · rw [show (limiterSample sample avg volts temp un s).island d i =
        (s.measured sample avg volts temp).limited.island d i from congrArg (fun m => SMap.get (fun _ => Island.reset) m
          (8 * d + i)) (hkeeps.1 .islands (by decide))]
      exact State.limited_releases hc' hd hi hstep

/-- Settles O28. -/
theorem governorActs : Obligations.GovernorActs := ⟨governorSteps, throttleFollowsTheProfile, limiterSteps⟩

end Sys2Proof.Machine
end

section
/-! O29, leases (07 R251 to R254; 09 R336). -/

namespace Sys2Proof.Machine

theorem State.admitAdmin_of_next {s : State} {op : Nat} {d : Desc} (hawake : s.awake = true)
    (hnext : s.nextStart 0 = some d) (hop : d.op = op) (f : State → Desc → State) : s.admitAdmin op f = f s d := by
  simp only [State.admitAdmin, hawake, hnext, hop, if_true]

section
variable {s : State} {d : Desc} (hawake : s.awake = true) (hnext : s.nextStart 0 = some d) (hop : d.op = 0x30)
include hawake hnext hop

theorem leaseGrant_of_bad {w : Nat} (hbad : s.leaseBad d.words = some w) :
    leaseGrant s = s.finishDesc 0 d.idx (Result.bad w) := by
  simp only [leaseGrant, State.admitAdmin_of_next hawake hnext hop, hbad]

section
variable (hgood : s.leaseBad d.words = none)
include hgood

theorem leaseGrant_of_grantable (hcode : wfield d.words 4 7 0 = 1) {l : Lease} (hl : s.grantable d.words = some l) :
    leaseGrant s = ({ s with leases := s.leases ++ [l] }.finishDesc 0 d.idx (Result.of .success)).leaseEvent l 2 := by
  simp only [leaseGrant, State.admitAdmin_of_next hawake hnext hop, hgood, hcode, hl, if_true]

theorem leaseGrant_of_refused (hcode : wfield d.words 4 7 0 = 1) (hl : s.grantable d.words = none) :
    leaseGrant s = s.finishDesc 0 d.idx (Result.of .belayRefused) := by
  simp only [leaseGrant, State.admitAdmin_of_next hawake hnext hop, hgood, hcode, hl, if_true]

theorem leaseRevoke_of_named (hcode : wfield d.words 4 7 0 = 2) {l : Lease} (hl : s.namedLease d.words = some l) :
    leaseRevoke s = (s.startReclaim l.id 5).finishDesc 0 d.idx (Result.of .success) := by
  unfold leaseRevoke
  rw [State.admitAdmin_of_next hawake hnext hop, if_pos (by simp [hgood, hcode])]
  simp only [hl]

end
end

-- A lease whose notice has started.

section
variable {s : State} {id : Nat} {l : Lease}
  (hl : s.leases.find? (fun l => decide (l.id = id) && decide (l.stage = .notice)) = some l)
include hl

section
variable (hawake : s.awake = true) (hidle : s.leaseKernels l = []) (hsubst : s.substHeld l.part = false)
include hawake hidle hsubst

/-- With its layers ended, a lease whose context is saved already, or has nothing on its units, is cleared. -/
theorem leaseReclaimSave_of_saved (h : (s.part l.part).switch = .scrubbing ∨ (s.part l.part).switch = .resuming ∨
    (s.part l.part).switch = .none ∧ s.leaseUsed l = false) : leaseReclaimSave id s = s.leaseClear l := by
  simp only [leaseReclaimSave, hl]
  rw [if_pos (by simp [hawake, hidle, hsubst])]
  rcases h with hscrub | hresume | ⟨hnone, hused⟩
  · simp only [hscrub]
  · simp only [hresume]
  · simp only [hnone, hused, Bool.not_false, if_true]

theorem leaseReclaimSave_of_used (hnone : (s.part l.part).switch = .none) (hused : s.leaseUsed l = true)
    (hsection : (s.ctx l.part (s.part l.part).resident).sectionAt = none) :
    leaseReclaimSave id s = s.leaseSave l := by
  have hsection' : ((s.part l.part).ctx (s.part l.part).resident).sectionAt = none := hsection
  simp only [leaseReclaimSave, hl]
  rw [if_pos (by simp [hawake, hidle, hsubst])]
  simp only [hnone, hused, Bool.not_true, Bool.false_eq_true, if_false, hsection', Option.isSome_none]

end

theorem leaseLayerAbandon_of_due (hdue : l.t0 + l.noticeUs * 1000 ≤ s.now + 500_000) (hruns : s.leaseKernels l ≠ []) :
    leaseLayerAbandon id s = (((s.leaseKernels l).foldl (fun t k =>
      t.abortKernel k { status := .layerTimeExceeded, d4 := lo32 (t.layerNs k / 1000) }) s).leaveLease l).leaseClear l := by
  simp only [leaseLayerAbandon, hl]
  exact if_pos ⟨hdue, hruns⟩

theorem leaseLayerAbandon_of_early (hsoon : s.now + 500_000 < l.t0 + l.noticeUs * 1000) : leaseLayerAbandon id s = s := by
  simp only [leaseLayerAbandon, hl]
  exact if_neg (fun h => absurd h.1 (Nat.not_le.2 hsoon))

end

theorem State.leaseSave_of_running {s : State} {l : Lease} (h : s.partKernels l.part ≠ []) :
    s.leaseSave l = s.setPart l.part { s.part l.part with reclaiming := true } :=
  if_neg (by simpa using h)

theorem State.leaseSave_of_idle {s : State} {l : Lease} (h : s.partKernels l.part = []) {u : State}
    (hu : u = s.saveContext l.part (s.part l.part).resident) (hue : u.resumeUe l.part (s.part l.part).resident = none)
    {t : State} (ht : t = (u.resumeReads l.part (s.part l.part).resident).resumeContext l.part (s.part l.part).resident
      (s.part l.part).resident) :
    s.leaseSave l = ((t.setPart l.part { t.part l.part with reclaiming := false }).serveSems l.part
      (s.part l.part).resident).leaseClear l := by
  subst hu ht
  unfold State.leaseSave
  simp only [h, List.isEmpty_nil, if_true, hue]

section
variable {s : State} {id : Nat} {l : Lease} (hl : s.leases.find? (fun l => decide (l.id = id)) = some l)
include hl

theorem leaseEnd_of_due (hstage : l.stage = .scrubbed) (hidle : s.leaseKernels l = [])
    (hdue : l.t0 + l.noticeUs * 1000 ≤ s.now) :
    leaseEnd id s = ({ s with leases := s.leases.filter (fun m => decide (m.id ≠ id)) }).leaseEvent l 1 := by
  simp only [leaseEnd, hl]
  exact if_pos (by simp [hstage, hidle, hdue])

theorem leaseEnd_of_early (hsoon : s.now < l.t0 + l.noticeUs * 1000) : leaseEnd id s = s := by
  simp only [leaseEnd, hl]
  exact if_neg (by simp [Nat.not_le.2 hsoon])

end

theorem State.leaseEvent_leases (s : State) (l : Lease) (kind : Nat) : (s.leaseEvent l kind).leases = s.leases :=
  (State.leaseEvent_keeps (List.Subset.refl _) .refl).1 .leases (by decide)

theorem leaseCommandsAct : Says.LeaseCommandsAct := by
  unfold Says.LeaseCommandsAct
  refine ⟨fun s d hawake hnext hop => ⟨fun w hbad => congrArg Host.Outcome.next
      (leaseGrant_of_bad hawake hnext hop hbad), fun hgood => ⟨fun hcode => ⟨fun l hl => congrArg Host.Outcome.next
        (leaseGrant_of_grantable hawake hnext hop hgood hcode hl), fun hl => congrArg Host.Outcome.next
        (leaseGrant_of_refused hawake hnext hop hgood hcode hl)⟩, fun l hcode hl => congrArg Host.Outcome.next
        (leaseRevoke_of_named hawake hnext hop hgood hcode hl)⟩⟩,
    fun s id l => ⟨fun hl => ⟨fun hawake hidle hsubst => ⟨fun h => congrArg Host.Outcome.next
        (leaseReclaimSave_of_saved hl hawake hidle hsubst h), fun hnone hused hsection => ⟨congrArg Host.Outcome.next
        (leaseReclaimSave_of_used hl hawake hidle hsubst hnone hused hsection), State.leaseSave_of_running,
        fun hk => ?_⟩⟩, fun hdue hruns => congrArg Host.Outcome.next (leaseLayerAbandon_of_due hl hdue hruns),
        fun hsoon => congrArg Host.Outcome.next (leaseLayerAbandon_of_early hl hsoon)⟩,
      fun hl hstage hidle => ⟨fun hdue => ?_, fun hsoon => congrArg Host.Outcome.next (leaseEnd_of_early hl hsoon)⟩⟩⟩
  · intro c u hue t
    exact State.leaseSave_of_idle hk rfl hue rfl
  · refine ⟨_, congrArg Host.Outcome.next (leaseEnd_of_due hl hstage hidle hdue), rfl, fun m hm => ?_⟩
    rw [State.leaseEvent_leases] at hm
    simpa using (List.mem_filter.1 hm).2

-- What may be lent.

theorem State.mem_lendable {s : State} {d : Nat} {c : EngineClass} {u : UnitId} :
    u ∈ s.lendable d c ↔ (∃ i < c.perDie, u = ⟨d, c, i⟩) ∧ (s.island d u.island).radio = true ∧
      (s.island d u.island).counted = true ∧ (s.island d u.island).removing = false ∧ s.usable u = true ∧
      ∀ m ∈ s.leases, u ∉ m.units := by
  simp only [State.lendable, List.mem_filter, List.mem_map, List.mem_range, Bool.and_eq_true, Bool.not_eq_true',
    List.any_eq_false, decide_eq_true_eq, and_assoc]
  refine and_congr_left (fun _ => exists_congr (fun i => and_congr_right (fun _ => eq_comm)))

theorem State.lendable_cls {s : State} {d : Nat} {c : EngineClass} {u : UnitId} (h : u ∈ s.lendable d c) : u.cls = c := by
  obtain ⟨⟨i, -, rfl⟩, -⟩ := State.mem_lendable.1 h
  rfl

/-- Of what is taken class by class, a class keeps its own share. -/
theorem filter_take_lendable {s : State} {d n : Nat} (c e : EngineClass) :
    ((s.lendable d e).take n).filter (fun u => decide (u.cls = c)) =
      if e = c then (s.lendable d e).take n else [] := by
  split
  · next h =>
    exact List.filter_eq_self.2 (fun u hu => by simp [State.lendable_cls (List.mem_of_mem_take hu), h])
  · next h =>
    exact List.filter_eq_nil_iff.2 (fun u hu => by simp [State.lendable_cls (List.mem_of_mem_take hu), h])

theorem grantsKeepTheirConditions : Says.GrantsKeepTheirConditions := by
  unfold Says.GrantsKeepTheirConditions
  intro s ws l hl
  simp only [State.grantable] at hl
  generalize (if wordAt ws 7 = 0 then 3000 else (wordAt ws 7).toNat) = notice at hl
  split at hl
  · next hgrant =>
    obtain rfl := Option.some.inj hl
    simp only [List.all_cons, List.all_nil, Bool.and_eq_true, Bool.or_eq_true, decide_eq_true_eq] at hgrant
    obtain ⟨⟨-, ⟨htile, htileRoom⟩, ⟨hvde, hvdeRoom⟩, ⟨hfft, hfftRoom⟩, -⟩, hnotice⟩ := hgrant
    refine ⟨rfl, hnotice, fun u hu => ?_, fun c hc => ?_⟩
    · obtain ⟨w, -, huw⟩ := List.mem_flatMap.1 hu
      obtain ⟨⟨i, -, hi⟩, hradio, hcounted, hremoving, husable, hfree⟩ := State.mem_lendable.1 (List.mem_of_mem_take huw)
      exact ⟨by rw [hi], husable, hradio, hcounted, hremoving, hfree⟩
    · simp only [List.flatMap_cons, List.flatMap_nil, List.append_nil, List.filter_append, filter_take_lendable]
      simp only [List.mem_cons, List.not_mem_nil, or_false] at hc
      rcases hc with rfl | rfl | rfl
      · simp only [if_true, reduceCtorEq, if_false, List.append_nil, List.length_take, Nat.min_eq_left htile]
        exact htileRoom.imp id (fun h => by rw [Nat.mul_comm, Nat.add_comm]; exact h)
      · simp only [if_true, reduceCtorEq, if_false, List.append_nil, List.nil_append, List.length_take,
          Nat.min_eq_left hvde]
        exact hvdeRoom.imp id (fun h => by rw [Nat.mul_comm, Nat.add_comm]; exact h)
      · simp only [if_true, reduceCtorEq, if_false, List.append_nil, List.nil_append, List.length_take,
          Nat.min_eq_left hfft]
        exact hfftRoom.imp id (fun h => by rw [Nat.mul_comm, Nat.add_comm]; exact h)
  · cases hl

/-- Settles O29. -/
theorem leasesRun : Obligations.LeasesRun := ⟨leaseCommandsAct, grantsKeepTheirConditions⟩

end Sys2Proof.Machine
end

section
/-! O30, emergencies and shedding (07 R256 to R259). -/

namespace Sys2Proof.Machine

section
variable {s : State} {d : Nat} (hawake : s.awake = true) (hd : d < 2)
include hawake hd

theorem thermalWarning_of_new (hwarn : s.emergIn d .warning = false) (hthermal : s.emergIn d .thermal = false) :
    thermalWarning d s = if s.tempOver d s.warnTemp then s.declareEmerg d .warning 0 else s := by
  unfold thermalWarning
  exact ite_cond_congr (propext (by simp [hawake, hd, hwarn, hthermal]))

theorem thermalEmergency_of_hot (hthermal : s.emergIn d .thermal = false) {i t : Nat} (hi : i < 8)
    (hradio : (s.island d i).radio = true) (hhot : (s.island d i).hotSince = some t) (hdue : t + 1_000_000 ≤ s.now) :
    thermalEmergency d s = s.declareEmerg d .thermal 0 := by
  unfold thermalEmergency
  refine if_pos ?_
  simp only [Bool.and_eq_true, decide_eq_true_eq, List.any_eq_true, Bool.not_eq_true']
  exact ⟨⟨⟨hawake, hd⟩, i, List.mem_range.2 hi, hradio, by simp only [hhot, hdue, decide_true]⟩, hthermal⟩

omit hawake hd in
theorem thermalEmergency_of_cool (hcool : ∀ i < 8, ∀ t, (s.island d i).hotSince = some t → s.now < t + 1_000_000) :
    thermalEmergency d s = s := by
  unfold thermalEmergency
  refine if_neg (fun h => ?_)
  simp only [Bool.and_eq_true, List.any_eq_true, List.mem_range] at h
  obtain ⟨⟨-, i, hi, -, hot⟩, -⟩ := h
  split at hot
  · next t ht => exact absurd (of_decide_eq_true hot) (Nat.not_le.2 (hcool i hi t ht))
  · cases hot

theorem shedStepRepeat_eq : shedStepRepeat d s = (s.shedsDue d).foldl (fun t k => t.shedStep d k) s :=
  if_pos (by simp [hawake, hd])

end

/-- An emergency repeats its step when it is in force, no mere warning, and 10 ms past its last shed slot. -/
theorem State.mem_shedsDue {s : State} {d : Nat} {k : EmergKind} : k ∈ s.shedsDue d ↔
    s.emergIn d k = true ∧ k ≠ .warning ∧ (s.emerg d).shedEnd k + 10_000_000 ≤ s.clk := by
  simp [State.shedsDue, State.emergIn]

section
variable {s : State} {c n : Nat} {g : CellCfg} (hstate : (s.cell c).state = .shedding)
  (hshed : (s.cell c).shedAt = some n) (hcfg : (s.cell c).cfg = some g)
include hstate hshed hcfg

theorem shedSlot_of_shedding : shedSlot c s = if g.air n ≤ s.clk + submitLead g.scs then
    (s.setCell c { s.cell c with slots := (s.cell c).slots.filter (fun w => decide (w.slot < n)) }).dropFrames
      (fun f => f.ofCell c (fun m => decide (n ≤ m))) else s := by
  simp only [shedSlot, hstate, hshed, hcfg]

theorem cellShedComplete_of_shedding (hawake : s.awake = true) (hstop : (s.cell c).stopAt = none) :
    cellShedComplete c s = if g.slotEnd (n - 1) ≤ s.clk then
      (s.cellInd c n 0 (.shed 1 (s.cell c).shedCause (s.cell c).shedStep (s.cell c).shedClass (s.cell c).die
        (s.cell c).shedIslands (g.air n))).setCell c { Cell.reset with ring := (s.cell c).ring } else s := by
  simp [cellShedComplete, hstate, hshed, hcfg, hawake, hstop]

end

theorem emergencyStepsAct : Says.EmergencyStepsAct := by
  unfold Says.EmergencyStepsAct
  refine ⟨fun s d hawake hd => ⟨fun hwarn hthermal => congrArg Host.Outcome.next
      (thermalWarning_of_new hawake hd hwarn hthermal), ?_,
      fun hcool => congrArg Host.Outcome.next (thermalEmergency_of_cool hcool), fun k => State.mem_shedsDue,
      congrArg Host.Outcome.next (shedStepRepeat_eq hawake hd)⟩,
    fun s c n g hstate hshed hcfg => ⟨fun hdue => congrArg Host.Outcome.next
      ((shedSlot_of_shedding hstate hshed hcfg).trans (if_pos hdue)), fun hsoon => congrArg Host.Outcome.next
      ((shedSlot_of_shedding hstate hshed hcfg).trans (if_neg (Nat.not_le.2 hsoon))), fun hawake hstop =>
      ⟨fun hdue => congrArg Host.Outcome.next
        ((cellShedComplete_of_shedding hstate hshed hcfg hawake hstop).trans (if_pos hdue)), fun hsoon =>
        congrArg Host.Outcome.next
          ((cellShedComplete_of_shedding hstate hshed hcfg hawake hstop).trans (if_neg (Nat.not_le.2 hsoon)))⟩⟩⟩
  rintro ⟨i, hi, hradio, t, hhot, hdue⟩ hthermal
  exact congrArg Host.Outcome.next (thermalEmergency_of_hot hawake hd hthermal hi hradio hhot hdue)

-- The selection of a shed step.

/-- What a selection carries: the price of the cells it names. -/
def selectedPrice (sel : List Nat) (l : List (Nat × Cell)) : Nat :=
  ((l.filter (fun e => decide (e.1 ∈ sel))).map (fun e => e.2.price.total)).sum

theorem selectedPrice_cons_of_mem {sel : List Nat} {l : List (Nat × Cell)} {e : Nat × Cell} (h : e.1 ∈ sel) :
    selectedPrice sel (e :: l) = e.2.price.total + selectedPrice sel l := by
  simp [selectedPrice, h]

theorem selectedPrice_cons_of_notMem {sel : List Nat} {l : List (Nat × Cell)} {e : Nat × Cell} (h : e.1 ∉ sel) :
    selectedPrice sel (e :: l) = selectedPrice sel l := by
  simp [selectedPrice, h]

theorem selectedPrice_insert {sel : List Nat} {l : List (Nat × Cell)} {c : Nat} (h : c ∉ l.map Prod.fst) :
    selectedPrice (c :: sel) l = selectedPrice sel l := by
  have hcongr : l.filter (fun e => decide (e.1 ∈ c :: sel)) = l.filter (fun e => decide (e.1 ∈ sel)) :=
    List.filter_congr (fun e he => by
      have hne : e.1 ≠ c := fun heq => h (heq ▸ List.mem_map_of_mem he)
      simp [hne])
  rw [selectedPrice, hcongr]
  rfl

/-- A selection is a part of the cells. -/
theorem selectQuarter_sublist (total kept : Nat) (l : List (Nat × Cell)) :
    (selectQuarter total kept l).Sublist (l.map Prod.fst) := by
  induction l generalizing kept with
  | nil => exact List.Sublist.refl _
  | cons e l ih =>
    unfold selectQuarter
    split
    · exact List.nil_sublist _
    · split
      · exact (ih kept).cons _
      · exact (ih _).cons_cons _

theorem selectQuarter_not_shedding (total kept : Nat) (l : List (Nat × Cell)) (hl : (l.map Prod.fst).Nodup) :
    ∀ e ∈ l, e.1 ∈ selectQuarter total kept l → e.2.state ≠ .shedding := by
  induction l generalizing kept with
  | nil => exact fun e he => absurd he List.not_mem_nil
  | cons e l ih =>
    obtain ⟨hfresh, hl'⟩ := List.nodup_cons.1 hl
    have hother : ∀ f ∈ l, f.1 ≠ e.1 := fun f hf heq => hfresh (heq ▸ List.mem_map_of_mem hf)
    intro f hf hsel
    unfold selectQuarter at hsel
    split at hsel
    · exact absurd hsel List.not_mem_nil
    · split at hsel
      · rcases List.mem_cons.1 hf with rfl | hf
        · exact absurd ((selectQuarter_sublist total kept l).subset hsel) hfresh
        · exact ih kept hl' f hf hsel
      · next hstate =>
        rcases List.mem_cons.1 hf with rfl | hf
        · exact hstate
        · rcases List.mem_cons.1 hsel with heq | hsel
          · exact absurd heq (hother f hf)
          · exact ih _ hl' f hf hsel

/-- It carries a quarter of the total, or takes every cell that is not shedding. -/
theorem selectQuarter_carries (total kept : Nat) (l : List (Nat × Cell)) (hl : (l.map Prod.fst).Nodup) :
    total ≤ 4 * (kept + selectedPrice (selectQuarter total kept l) l) ∨
      ∀ e ∈ l, e.2.state ≠ .shedding → e.1 ∈ selectQuarter total kept l := by
  induction l generalizing kept with
  | nil => exact .inr (fun e he => absurd he List.not_mem_nil)
  | cons e l ih =>
    obtain ⟨hfresh, hl'⟩ := List.nodup_cons.1 hl
    unfold selectQuarter
    split
    · next hdone => exact .inl (by omega)
    · split
      · next hshedding =>
        have hout : e.1 ∉ selectQuarter total kept l := fun h => hfresh ((selectQuarter_sublist total kept l).subset h)
        rw [selectedPrice_cons_of_notMem hout]
        refine (ih kept hl').imp id (fun hall f hf hstate => ?_)
        rcases List.mem_cons.1 hf with rfl | hf
        · exact absurd hshedding hstate
        · exact hall f hf hstate
      · rw [selectedPrice_cons_of_mem List.mem_cons_self, selectedPrice_insert hfresh, ← Nat.add_assoc]
        refine (ih _ hl').imp id (fun hall f hf hstate => ?_)
        rcases List.mem_cons.1 hf with rfl | hf
        · exact List.mem_cons_self
        · exact List.mem_cons_of_mem _ (hall f hf hstate)

theorem shedStepsTakeAQuarter : Says.ShedStepsTakeAQuarter := by
  unfold Says.ShedStepsTakeAQuarter
  intro total kept l hl sel
  exact ⟨selectQuarter_sublist total kept l, selectQuarter_not_shedding total kept l hl, selectQuarter_carries total kept l hl⟩

/-- Settles O30. -/
theorem emergenciesShedCells : Obligations.EmergenciesShedCells := ⟨emergencyStepsAct, shedStepsTakeAQuarter⟩

end Sys2Proof.Machine
end

section
/-! O31, the commit point of a slot (07 R260 to R262; 12 R425). -/

namespace Sys2Proof.Machine

section
variable {s : State} {c n : Nat} {ul : Bool} {g : CellCfg} {w : SlotWork} (hg : (s.cell c).cfg = some g)
  (hw : (s.cell c).work n = w) (hawake : s.awake = true) (hlive : (s.cell c).live = true)
  (hasked : (if ul then w.ul.isSome && !w.lateUl && !w.ulDone else !w.dlPdus.isEmpty && !w.lateDl && !w.dlDone) = true)
include hg hw hawake hlive hasked

omit hawake hlive in
theorem commitPoint_of_early (hsoon : s.clk + 20_000 < g.deadline w ul) : commitPoint c n ul s = s := by
  subst hw
  unfold commitPoint
  dsimp only
  split
  · next g' hg' =>
    obtain rfl : g = g' := Option.some.inj (hg.symm.trans hg')
    exact if_neg (by simp [Nat.not_le.2 hsoon])
  · rfl

theorem commitPoint_of_due (hdue : g.deadline w ul ≤ s.clk + 20_000) :
    commitPoint c n ul s = (if maskOf (if ul then w.ulMissing else w.dlMissing) = 0 ∧
        (!(!ul && (s.outage g (g.cplaneTime n)).isSome) ∨ s.unserved c w ul = 0) then
        s.setCell c ((s.cell c).setWork (if ul then { w with ulDone := true } else { w with dlDone := true }))
      else if s.missCause g w ul = 1 ∧ !(s.missFault w) then
        (s.noticeGone c w ul (s.missCause g w ul)).record 0x0303 (siteCell c) (if ul then 16 else 0)
          (((s.clk + 20_000 - g.deadline w ul) / 1000 : Nat) : Int)
      else s.noticeGone c w ul (s.missCause g w ul)).settleCell c g := by
  subst hw
  unfold commitPoint
  dsimp only
  split
  · next g' hg' =>
    obtain rfl : g = g' := Option.some.inj (hg.symm.trans hg')
    rw [if_pos (by simp only [hawake, hlive, hasked, hdue]; rfl)]
  · next hnone => exact absurd (hg.symm.trans hnone) (by simp)

end

/-- No queued downlink frame waits on an outage, in the words of the statement. -/
theorem heldNone_iff {ul : Bool} {o : Option Nat} : (!(!ul && o.isSome)) = true ↔ ul = true ∨ o = none := by
  cases ul <;> cases o <;> simp

section
variable {s : State} {g : CellCfg} {t : Nat}

theorem State.outage_of_holdover (hlost : s.ports.servo.lost = true) (hsince : s.ports.servo.lostAt ≤ t)
    (hpast : t ≤ s.clk) : s.outage g t = some 3 := by
  simp [State.outage, hlost, hsince, hpast]

theorem State.outage_of_down (hlost : s.ports.servo.lost = false) (hdown : s.linkUp g.port g.sub = false)
    (hsince : (s.sub g.port g.sub).downAt ≤ t) (hpast : t ≤ s.clk) : s.outage g t = some 2 := by
  simp [State.outage, hlost, hdown, hsince, hpast]

theorem State.outage_of_up (hlost : s.ports.servo.lost = false) (hup : s.linkUp g.port g.sub = true) :
    s.outage g t = none := by
  simp [State.outage, hlost, hup]

end

/-- Settles O31. -/
theorem commitPointsDecide : Obligations.CommitPointsDecide := by
  unfold Obligations.CommitPointsDecide
  intro s c n ul g hg hawake hlive x w cause missing done hasked
  refine ⟨fun hsoon => congrArg Host.Outcome.next (commitPoint_of_early hg rfl hasked hsoon),
    fun hdue => ?_, fun hlost hsince hpast => ?_, fun hlost hdown hsince hpast => ?_, fun hlost hup => ?_⟩
  · have hexec : exec (.commitPoint c n ul) s = .next _ :=
      congrArg Host.Outcome.next (commitPoint_of_due hg rfl hawake hlive hasked hdue)
    have hdone : done ↔ maskOf (if ul then w.ulMissing else w.dlMissing) = 0 ∧
        (!(!ul && (s.outage g (g.cplaneTime n)).isSome) ∨ s.unserved c w ul = 0) :=
      and_congr_right (fun _ => or_congr_left heldNone_iff.symm)
    refine ⟨fun h => ?_, fun h hcause => ?_, fun h hcause hfault => ?_⟩
    · rw [hexec, if_pos (hdone.1 h)]
    · rw [hexec, if_neg (fun h' => h (hdone.2 h')), if_neg]
      rintro ⟨hone, hnofault⟩
      rcases hcause with hcause | hfault
      · exact hcause hone
      · exact absurd hfault (by simpa using hnofault)
    · rw [hexec, if_neg (fun h' => h (hdone.2 h')), if_pos ⟨hcause, Eq.mpr (Bool.not_eq_true' _) hfault⟩,
        show s.missCause g _ ul = 1 from hcause]
  · show (s.outage g _).getD _ = 3
    rw [State.outage_of_holdover hlost hsince hpast]
    rfl
  · show (s.outage g _).getD _ = 2
    rw [State.outage_of_down hlost hdown hsince hpast]
    rfl
  · show (s.outage g _).getD _ = _
    rw [State.outage_of_up hlost hup]
    rfl

end Sys2Proof.Machine
end

section
/-! O32, the start of partitions, and their isolation (08 R267 to R273; 13 R450, R455; 15 R492). -/

namespace Sys2Proof.Machine

section
variable {s : State} {p : Nat}

theorem partitionEnable_of_disabled (hup : s.up = true) (hact : s.activating = false)
    (hstate : (s.part p).state = .disabled) :
    partitionEnable p s = if s.power.standby = .running then
        if s.partError p = 0 then
          ((s.zeroLost.setPart p { Part.reset with
            cfgError := (s.part p).cfgError, quantumAt := s.now, tokAt := s.now, blind := s.rbit (aPARTp p) 3 }).setRbit
            (aPARTp p) 0 true).enterPart p .running
        else s.setCfgError p (s.partError p)
      else s.setCfgError p 9 := by
  unfold partitionEnable
  exact if_pos (by simp [hup, hact, hstate])

theorem partitionResume_of_stopped (hlocked : s.locked p = false) (hawake : s.awake = true)
    (hstate : (s.part p).state = .stopped) :
    partitionResume p s = if s.partError p = 0 then (s.setPart p { s.part p with added := [] }).enterPart p .running
      else s.setCfgError p (s.partError p) := by
  unfold partitionResume
  rw [if_neg (by simp [hlocked]), if_pos (by simp [hawake, hstate])]

theorem partitionResume_of_locked (hup : s.up = true) (hlocked : s.locked p = true) :
    partitionResume p s = s.setCfgError p 9 := if_pos (by simp [hup, hlocked])

/-- A check whose code is not the result has not failed. -/
theorem of_ite_eq_zero {c : Prop} [Decidable c] {k n : Nat} (hk : k ≠ 0) (h : (if c then k else n) = 0) :
    ¬c ∧ n = 0 := by
  split at h
  · exact absurd h hk
  · exact ⟨‹_›, h⟩

/-- What holds of a partition that every check lets run. -/
theorem State.checks_of_partError (h : s.partError p = 0) : s.ownedElsewhere p = false ∧
    (∀ u ∈ s.allNamed p, s.inRadio u = false) ∧ (∀ h ∈ s.halves p, s.radioHalf h = false) ∧
    s.rf (aPARTp p + 8) 8 0 ≤ s.namedTiles p ∧ s.namedTiles p ≤ 48 * (s.halves p).length := by
  unfold State.partError at h
  dsimp only at h
  obtain ⟨-, h⟩ := of_ite_eq_zero (by decide) h
  obtain ⟨howned, h⟩ := of_ite_eq_zero (by decide) h
  obtain ⟨hradio, h⟩ := of_ite_eq_zero (by decide) h
  obtain ⟨-, h⟩ := of_ite_eq_zero (by decide) h
  obtain ⟨hhalf, h⟩ := of_ite_eq_zero (by decide) h
  obtain ⟨-, h⟩ := of_ite_eq_zero (by decide) h
  obtain ⟨htiles, h⟩ := of_ite_eq_zero (by decide) h
  obtain ⟨hmemory, -⟩ := of_ite_eq_zero (by decide) h
  refine ⟨eq_false_of_ne_true howned, fun u hu => ?_, fun k hk => ?_, Nat.not_lt.1 htiles, ?_⟩
  · exact eq_false_of_ne_true (List.any_eq_false.1 (eq_false_of_ne_true hradio) u hu)
  · exact eq_false_of_ne_true (List.any_eq_false.1 (eq_false_of_ne_true hhalf) k hk)
  · rw [Nat.mul_comm]
    exact Nat.not_lt.1 hmemory

theorem State.mem_others {q : Nat} (hq : q ∈ s.enabledParts) (hne : q ≠ p) :
    q ∈ s.enabledParts.filter (fun q => decide (q ≠ p)) := List.mem_filter.2 ⟨hq, decide_eq_true hne⟩

/-- What is not owned elsewhere is apart from every other enabled partition, and from what is withheld. -/
theorem State.apart_of_ownedElsewhere (h : s.ownedElsewhere p = false) :
    (∀ u ∈ s.allNamed p, u ∉ s.withheldUnits ∧ ∀ q ∈ s.enabledParts, q ≠ p → s.named q u = false) ∧
    (∀ e ∈ s.ledgeUnits p, e ∉ s.withheldLedge) ∧
    (∀ h ∈ s.halves p, h ∉ s.withheldHalves ∧ ∀ q ∈ s.enabledParts, q ≠ p → h ∉ s.halves q) ∧
    (∀ q ∈ s.enabledParts, q ≠ p → rangesMeet (s.ringRange p) (s.ringRange q) = false ∧
      rangesMeet (s.vecRange p) (s.vecRange q) = false ∧
      rangesMeet (s.ledgeRange p 0) (s.ledgeRange q 0) = false ∧
      rangesMeet (s.ledgeRange p 1) (s.ledgeRange q 1) = false) := by
  simp only [State.ownedElsewhere, Bool.or_eq_false_iff] at h
  obtain ⟨⟨⟨⟨hunits, hhalves⟩, hranges⟩, hledge⟩, -⟩ := h
  refine ⟨fun u hu => ?_, fun e he => ?_, fun k hk => ?_, fun q hq hne => ?_⟩
  · have hfree := eq_false_of_ne_true (List.any_eq_false.1 hunits u hu)
    rw [Bool.or_eq_false_iff] at hfree
    exact ⟨of_decide_eq_false hfree.2, fun q hq hne =>
      eq_false_of_ne_true (List.any_eq_false.1 hfree.1 q (State.mem_others hq hne))⟩
  · exact of_decide_eq_false (eq_false_of_ne_true (List.any_eq_false.1 hledge e he))
  · have hfree := eq_false_of_ne_true (List.any_eq_false.1 hhalves k hk)
    rw [Bool.or_eq_false_iff] at hfree
    exact ⟨of_decide_eq_false hfree.2, fun q hq hne =>
      of_decide_eq_false (eq_false_of_ne_true (List.any_eq_false.1 hfree.1 q (State.mem_others hq hne)))⟩
  · have hfree := eq_false_of_ne_true (List.any_eq_false.1 hranges q (State.mem_others hq hne))
    simp only [Bool.or_eq_false_iff] at hfree
    obtain ⟨⟨⟨h0, h1⟩, hring⟩, hvec⟩ := hfree
    exact ⟨hring, hvec, h0, h1⟩

end

theorem partitionEnablesAct : Says.PartitionEnablesAct := by
  unfold Says.PartitionEnablesAct
  intro s p hup
  refine ⟨fun hact hstate => ⟨fun hrun hgood => ?_, fun hrun hbad => ?_, fun hrun => ?_, fun hvf => if_pos hvf⟩,
    fun hlocked hawake hstate => ⟨fun hgood => ?_, fun hbad => ?_⟩, fun hlocked => ?_⟩
  · exact congrArg Host.Outcome.next
      ((partitionEnable_of_disabled hup hact hstate).trans ((if_pos hrun).trans (if_pos hgood)))
  · exact congrArg Host.Outcome.next
      ((partitionEnable_of_disabled hup hact hstate).trans ((if_pos hrun).trans (if_neg hbad)))
  · exact congrArg Host.Outcome.next ((partitionEnable_of_disabled hup hact hstate).trans (if_neg hrun))
  · exact congrArg Host.Outcome.next ((partitionResume_of_stopped hlocked hawake hstate).trans (if_pos hgood))
  · exact congrArg Host.Outcome.next ((partitionResume_of_stopped hlocked hawake hstate).trans (if_neg hbad))
  · exact congrArg Host.Outcome.next (partitionResume_of_locked hup hlocked)

theorem runningPartitionsAreApart : Says.RunningPartitionsAreApart := by
  unfold Says.RunningPartitionsAreApart
  intro s p h
  obtain ⟨howned, hradio, hhalf, htiles, hmemory⟩ := State.checks_of_partError h
  obtain ⟨hunits, hledge, hhalves, hranges⟩ := State.apart_of_ownedElsewhere howned
  refine ⟨fun u hu => ⟨hradio u hu, hunits u hu⟩, hledge, fun k hk => ⟨hhalf k hk, hhalves k hk⟩, fun q hq hne => ?_,
    htiles, hmemory⟩
  obtain ⟨hring, hvec, h0, h1⟩ := hranges q hq hne
  refine ⟨hring, hvec, fun d hd => ?_⟩
  obtain rfl | rfl : d = 0 ∨ d = 1 := by omega
  · exact h0
  · exact h1

/-- Settles O32. -/
theorem partitionsStart : Obligations.PartitionsStart := ⟨partitionEnablesAct, runningPartitionsAreApart⟩

end Sys2Proof.Machine
end

section
/-! O33, the resets and the release of a partition (08 R267, R292 to R297; 13 R448, R450; 15 R483). -/

namespace Sys2Proof.Machine

section
variable {s : State} {p : Nat}

theorem State.resetWrite_of_active (h : (s.part p).state = .running ∨ (s.part p).state = .stopped) (hawake : s.awake = true)
    (discard : Bool) : s.resetWrite p discard = (s.enterPart p .resetting).startReset p discard := by
  rcases h with h | h
  · simp [State.resetWrite, h, hawake]
  · simp [State.resetWrite, h, hawake]

theorem State.resetWrite_of_disabled (h : (s.part p).state = .disabled) (discard : Bool) :
    s.resetWrite p discard = s := by
  simp [State.resetWrite, h]

theorem State.release_of_active (h : (s.part p).state = .running ∨ (s.part p).state = .stopped) :
    s.release p = (s.enterPart p .releasing).startReset p (s.resetMode p) := by
  rcases h with h | h
  · simp only [State.release, h]
  · simp only [State.release, h]

theorem State.release_of_resetting (h : (s.part p).state = .resetting) :
    s.release p = s.setPart p { s.part p with releaseNext := true } := by
  simp only [State.release, h]

end

section
variable {s : State} {p : Nat} (hup : s.up = true)
include hup

theorem quiesceReset_of_locked (h : s.locked p = true) : quiesceReset p s = s.setCfgError p 9 :=
  if_pos (by simp [hup, h])

theorem generationDiscard_of_locked (h : s.locked p = true) : generationDiscard p s = s.setCfgError p 9 :=
  if_pos (by simp [hup, h])

theorem partitionRelease_of_locked (h : s.locked p = true) : partitionRelease p s = s.setCfgError p 9 :=
  if_pos (by simp [hup, h])

theorem vfFlr_of_up (hvf : p < s.numVfs) : vfFlr p s = (s.endSessions (p + 1)).resetWrite p (s.resetMode p) :=
  (if_pos hup).trans (if_pos hvf)

theorem vfEnableCleared_of_up (n : Nat) : vfEnableCleared n s =
    ((List.range 64).filter (fun q => decide (n ≤ q) && s.enabled q)).foldl
      (fun t q => (t.release q).setRbit (aPARTp q) 0 false) { s with numVfs := min totalVfs n } := if_pos hup

end

section
variable {s : State} {p : Nat} (hfree : s.locked p = false)
include hfree

theorem quiesceReset_of_free (hmode : s.resetMode p = false) : quiesceReset p s = s.resetWrite p false := by
  unfold quiesceReset
  rw [if_neg (by simp [hfree]), if_neg (ne_true_of_eq_false hmode)]

theorem generationDiscard_of_free (hmode : s.resetMode p = true) : generationDiscard p s = s.resetWrite p true := by
  unfold generationDiscard
  rw [if_neg (by simp [hfree]), if_pos hmode]

theorem partitionRelease_of_free (hawake : s.awake = true) :
    partitionRelease p s = (s.release p).setRbit (aPARTp p) 0 false := by
  unfold partitionRelease
  rw [if_neg (by simp [hfree]), if_pos hawake]

end

/-- A drain ends once the partition's kernels have. -/
theorem resetDrainDone_of_draining {s : State} {p : Nat} (hawake : s.awake = true)
    (hstage : (s.part p).stage = .draining) (hsubst : s.substHeld p = false)
    (posted : List (Nat × List (List W32))) :
    resetDrainDone p posted s = if s.partKernels p = [] then
        (((s.drainRings (s.partRings p) .partitionReset posted).clearContexts p).setPart p
          { ((s.drainRings (s.partRings p) .partitionReset posted).clearContexts p).part p with stage := .scrubbing })
      else s := by
  unfold resetDrainDone
  exact ite_cond_congr (propext (by simp [hawake, hstage, hsubst]))

theorem vfFlr_of_boot {s : State} (hup : s.up = false) (hstage : s.power.stage = .boot)
    (hreset : s.power.inReset = false) (p : Nat) : vfFlr p s = { s with outs := .configRetry :: s.outs } :=
  (if_neg (ne_true_of_eq_false hup)).trans (if_pos (by simp [hstage, hreset]))

/-- Settles O33. -/
theorem partitionsReset : Obligations.PartitionsReset := by
  unfold Obligations.PartitionsReset
  intro s p hup hawake v
  refine ⟨fun hfree hactive => ⟨fun hmode => ?_, fun hmode => ?_, ?_⟩, fun hfree hresetting => ?_,
    fun hvf => ⟨fun hactive => ?_, fun hdisabled => ?_⟩,
    fun u hu hstage hreset => congrArg Host.Outcome.next (vfFlr_of_boot hu hstage hreset p),
    fun hlocked => ⟨congrArg Host.Outcome.next (quiesceReset_of_locked hup hlocked),
      congrArg Host.Outcome.next (generationDiscard_of_locked hup hlocked),
      congrArg Host.Outcome.next (partitionRelease_of_locked hup hlocked)⟩,
    fun hstage hsubst posted => ⟨fun hidle => congrArg Host.Outcome.next
      ((resetDrainDone_of_draining hawake hstage hsubst posted).trans (if_pos hidle)), fun hruns =>
      congrArg Host.Outcome.next ((resetDrainDone_of_draining hawake hstage hsubst posted).trans (if_neg hruns))⟩,
    fun n => ?_⟩
  · refine congrArg Host.Outcome.next ((quiesceReset_of_free hfree hmode).trans ?_)
    exact State.resetWrite_of_active hactive hawake false
  · refine congrArg Host.Outcome.next ((generationDiscard_of_free hfree hmode).trans ?_)
    exact State.resetWrite_of_active hactive hawake true
  · refine congrArg Host.Outcome.next ((partitionRelease_of_free hfree hawake).trans ?_)
    rw [State.release_of_active hactive]
  · refine congrArg Host.Outcome.next ((partitionRelease_of_free hfree hawake).trans ?_)
    rw [State.release_of_resetting hresetting]
  · refine congrArg Host.Outcome.next ((vfFlr_of_up hup hvf).trans ?_)
    exact State.resetWrite_of_active (s := v) hactive hawake _
  · refine congrArg Host.Outcome.next ((vfFlr_of_up hup hvf).trans ?_)
    exact State.resetWrite_of_disabled (s := v) hdisabled _
  · intro lose u
    have hexec : exec (.vfEnableCleared n) s = .next _ := congrArg Host.Outcome.next (vfEnableCleared_of_up hup n)
    refine ⟨hexec, fun hnone => hexec.trans ?_⟩
    rw [show (List.range 64).filter (fun q => decide (n ≤ q) && s.enabled q) = [] from hnone]
    rfl

end Sys2Proof.Machine
end

section
/-! O35, kernels and their widths (08 R278 to R281; 09 R329, R336). -/

namespace Sys2Proof.Machine

@[simp] theorem State.startDesc_kernels (s : State) (n i : Nat) : (s.startDesc n i).kernels = s.kernels :=
  (State.startDesc_keeps (List.Subset.refl _) .refl).1 .kernels (by decide)
@[simp] theorem State.startDesc_nextKernel (s : State) (n i : Nat) : (s.startDesc n i).nextKernel = s.nextKernel :=
  (State.startDesc_keeps (List.Subset.refl _) .refl).1 .nextKernel (by decide)
@[simp] theorem State.updDesc_kernels (s : State) (n i : Nat) (f : Desc → Desc) : (s.updDesc n i f).kernels = s.kernels :=
  (State.updDesc_keeps (List.Subset.refl _) .refl).1 .kernels (by decide)
@[simp] theorem State.updDesc_nextKernel (s : State) (n i : Nat) (f : Desc → Desc) :
    (s.updDesc n i f).nextKernel = s.nextKernel :=
  (State.updDesc_keeps (List.Subset.refl _) .refl).1 .nextKernel (by decide)

/-- A kernel that starts comes behind the others, and takes its number. -/
theorem State.startKernel_kernels (s : State) (k : Kernel) : (s.startKernel k).kernels = s.kernels ++ [k] ∧
    (s.startKernel k).nextKernel = s.nextKernel + 1 := by
  unfold State.startKernel
  dsimp only
  split
  · exact ⟨congrArg (· ++ [k]) (State.startDesc_kernels ..), congrArg (· + 1) (State.startDesc_nextKernel ..)⟩
  · exact ⟨congrArg (· ++ [k]) (State.startDesc_kernels ..), congrArg (· + 1) (State.startDesc_nextKernel ..)⟩

/-- The kernel that a RUN starts. -/
def State.runKernel (s : State) (p n w : Nat) (d : Desc) (j : Job) (k : KernelDecl) : Kernel :=
  { id := s.nextKernel, kind := .run, ring := n, desc := d.idx, part := some p, ctx := (s.part p).resident,
    slot := j.slot, kidx := j.ran, tiles := (s.freeTiles p).take w, unit := none, bases := jobBases d.words,
    listOff := 0, count := 0, maxUs := k.maxUs, start := s.ptp, overrun := false, cmd := [], res := none, ins := [] }

theorem kernelStart_of_fits {s : State} {p n w : Nat} {d : Desc} {j : Job} {k : KernelDecl} (hawake : s.awake = true)
    (hruns : s.ctxRuns p (s.part p).resident = true) (hstarts : s.startsNone p = false)
    (hchecked : (s.ctx p (s.part p).resident).checked = some true) (hturn : s.turn p (s.part p).resident = some n)
    (hfits : s.runFits p (s.part p).resident n = some (d, j, k, w)) :
    kernelStart p s = (s.updDesc n d.idx (fun e => { e with job := some { j with running := true } })).startKernel
      (s.runKernel p n w d j k) := by
  unfold kernelStart
  dsimp only
  rw [if_pos (by simp [hawake, hruns, hstarts, hchecked])]
  simp only [hturn, hfits]
  rfl

section
variable {s : State} {id : Nat} {x : Kernel} (hx : s.kernel id = some x)
include hx

section
variable (hnew : x.overrun = false) (hrun : queuedIn s.kernels x = false) (hover : x.maxUs * 1000 < s.layerNs x)
include hnew hrun hover

theorem kernelOverrun_of_part {p : Nat} (hp : x.part = some p) :
    kernelOverrun id s = ((s.updKernel id (fun y => { y with overrun := true })).account x.issuer
      (fun a => { a with overruns := a.overruns + 1 })).postPart p 0x03 (lo32 x.ctx) (lo32 x.kidx) 0 0 := by
  simp only [kernelOverrun, hx]
  rw [if_pos (by simp [hnew, hrun, hover])]
  simp only [hp]

theorem kernelOverrun_of_pf (hp : x.part = none) :
    kernelOverrun id s = (s.updKernel id (fun y => { y with overrun := true })).postAdmin 0x05 (lo32 x.ring)
      ((((s.updKernel id (fun y => { y with overrun := true })).ring x.ring).descs.find? (fun d =>
        decide (d.idx = x.desc))).map (fun d => wordAt d.words 2) |>.getD 0) 0 := by
  simp only [kernelOverrun, hx]
  rw [if_pos (by simp [hnew, hrun, hover])]
  simp only [hp]

end

theorem kernelOverrun_of_within (hin : s.layerNs x ≤ x.maxUs * 1000) : kernelOverrun id s = s := by
  simp only [kernelOverrun, hx]
  exact if_neg (by simp [Nat.not_lt.2 hin])

theorem kernelAbandon_of_early (hsoon : s.layerNs x < x.maxUs * 1000 + 300_000) : kernelAbandon id s = s := by
  simp only [kernelAbandon, hx]
  exact if_neg (by simp [Nat.not_le.2 hsoon])

theorem kernelAbandon_of_due (hrun : queuedIn s.kernels x = false) (hdue : x.maxUs * 1000 + 300_000 ≤ s.layerNs x) :
    kernelAbandon id s = if s.inSection x = false then
      s.abortKernel x { status := .layerTimeExceeded, d4 := lo32 (s.layerNs x / 1000) } else s := by
  simp only [kernelAbandon, hx]
  exact ite_cond_congr (propext (by simp [hrun, hdue]))

end

theorem kernelCommandsAct : Says.KernelCommandsAct := by
  unfold Says.KernelCommandsAct
  refine ⟨fun s p n w d j k => ?_, fun s id x hx => ⟨fun p hp hnew hrun hover => congrArg Host.Outcome.next
      (kernelOverrun_of_part hx hnew hrun hover hp), fun hp hnew hrun hover => congrArg Host.Outcome.next
      (kernelOverrun_of_pf hx hnew hrun hover hp), fun hin => congrArg Host.Outcome.next (kernelOverrun_of_within hx hin),
      fun hsoon => congrArg Host.Outcome.next (kernelAbandon_of_early hx hsoon), fun hrun hdue =>
      ⟨fun hout => congrArg Host.Outcome.next ((kernelAbandon_of_due hx hrun hdue).trans (if_pos hout)), fun hin =>
        congrArg Host.Outcome.next ((kernelAbandon_of_due hx hrun hdue).trans (if_neg (by simp [hin])))⟩⟩⟩
  intro c hawake hruns hstarts hchecked hturn hfits
  obtain ⟨hkernels, hnext⟩ := State.startKernel_kernels
    (s.updDesc n d.idx (fun e => { e with job := some { j with running := true } })) (s.runKernel p n w d j k)
  refine ⟨_, s.runKernel p n w d j k, congrArg Host.Outcome.next
    (kernelStart_of_fits hawake hruns hstarts hchecked hturn hfits), ?_, rfl, rfl, rfl, rfl, rfl, rfl, rfl, rfl, rfl, rfl, ?_⟩
  · rw [hkernels, State.updDesc_kernels]
  · rw [hnext, State.updDesc_nextKernel]

-- Widths.

section
variable (width cap : Nat) (k : KernelDecl)

theorem one_le_kernelWidth : 1 ≤ kernelWidth width cap k := Nat.le_max_left ..

theorem kernelWidth_le (hwidth : 1 ≤ width) (hmax : 1 ≤ k.wMax) : kernelWidth width cap k ≤ min width k.wMax := by
  refine Nat.max_le.2 ⟨Nat.le_min.2 ⟨hwidth, hmax⟩, ?_⟩
  split
  · exact Nat.le_refl _
  · exact Nat.min_le_left ..

theorem kernelWidth_draw (hwide : 1 < kernelWidth width cap k) (hcap : cap ≠ 0) :
    kernelWidth width cap k * k.draw ≤ cap * 100 := by
  by_cases hdraw : k.draw = 0
  · rw [hdraw, Nat.mul_zero]
    exact Nat.zero_le _
  · have hle : kernelWidth width cap k ≤ cap * 100 / k.draw := by
      unfold kernelWidth at hwide ⊢
      dsimp only at hwide ⊢
      rw [if_neg (not_or.2 ⟨hcap, hdraw⟩)] at hwide ⊢
      omega
    exact Nat.le_trans (Nat.mul_le_mul_right _ hle) (Nat.div_mul_le_self _ _)

theorem kernelWidth_of_uncapped (hcap : cap = 0) (hwidth : 1 ≤ width) (hmax : 1 ≤ k.wMax) :
    kernelWidth width cap k = min width k.wMax := by
  unfold kernelWidth
  dsimp only
  rw [if_pos (Or.inl hcap)]
  exact Nat.max_eq_right (Nat.le_min.2 ⟨hwidth, hmax⟩)

end

theorem kernelWidths : Says.KernelWidths := by
  unfold Says.KernelWidths
  intro width cap k w
  exact ⟨one_le_kernelWidth width cap k, fun hwidth hmax => Nat.le_min.1 (kernelWidth_le width cap k hwidth hmax),
    kernelWidth_draw width cap k, kernelWidth_of_uncapped width cap k⟩

/-- Settles O35. -/
theorem kernelsRun : Obligations.KernelsRun := ⟨kernelCommandsAct, kernelWidths⟩

end Sys2Proof.Machine
end

section
/-! O36, the tenant switch, accounts and releases (08 R282, R283, R288, R290, R298 to R302; 10 R350). -/

namespace Sys2Proof.Machine

section
variable {s : State} {p : Nat}

theorem quantumExpiry_of_due (hawake : s.awake = true) (hstate : (s.part p).state = .running)
    (hswitch : (s.part p).switch = .none) (hsection : ((s.part p).ctx (s.part p).resident).sectionAt = none)
    (hdue : (s.part p).quantumAt + s.quantumUs p (s.part p).resident * 1000 ≤ s.now ∨
      s.ctxReady p (s.part p).resident = false ∧ s.partKernels p = []) (hreclaim : (s.part p).reclaiming = false)
    (hsubst : s.substHeld p = false) {t : State} {n : Nat}
    (hpick : State.pickCtx p (s.readyCtxs p) s = (t, some n)) :
    quantumExpiry p s =
      (t.setPart p { t.part p with switch := .draining, incoming := n, switchAt := t.now }).maybeSave p := by
  have hends : (!(s.ctxReady p (s.part p).resident) && (s.partKernels p).isEmpty ||
      decide ((s.part p).quantumAt + s.quantumUs p (s.part p).resident * 1000 ≤ s.now)) = true := by
    rcases hdue with hdue | ⟨hready, hidle⟩
    · simp [hdue]
    · simp [hready, hidle]
  unfold quantumExpiry
  dsimp only
  rw [if_pos (by simp only [hawake, hstate, hswitch, hsection, hends, hreclaim, hsubst]; rfl), hpick]

theorem quantumExpiry_of_early (hsoon : s.now < (s.part p).quantumAt + s.quantumUs p (s.part p).resident * 1000)
    (hready : s.ctxReady p (s.part p).resident = true) : quantumExpiry p s = s := by
  unfold quantumExpiry
  exact if_neg (by simp [hready, Nat.not_le.2 hsoon])

/-- A resume ends: the context that comes back is the resident one, and its waiters are served. -/
theorem contextResumeDone_of_resuming (hswitch : (s.part p).switch = .resuming) (hsubst : s.substHeld p = false)
    {posted : List (Nat × List (List W32))} {t : State}
    (ht : t = if ((s.part p).ctx (s.part p).incoming).saved then
        (s.resumeUe p (s.part p).incoming).elim
          (if s.saveGood p (s.part p).incoming then
            (s.resumeReads p (s.part p).incoming).resumeContext p (s.part p).incoming (s.part p).resident
          else (s.resumeReads p (s.part p).incoming).loseContext p (s.part p).incoming posted)
          (fun b => (s.failUe b).loseContext p (s.part p).incoming posted)
      else s) :
    contextResumeDone p posted s =
      (t.setPart p { t.part p with switch := .none, resident := (s.part p).incoming, quantumAt := t.now }).serveSems p
        (s.part p).incoming := by
  subst ht
  unfold contextResumeDone
  dsimp only
  rw [if_pos (by simp [hswitch, hsubst])]
  cases s.resumeUe p (s.part p).incoming <;> rfl

theorem batchCloseTimeout_of_open {c : Nat} {b : Batch} (hawake : s.awake = true) (hstate : (s.part p).state = .running)
    (hbatch : (s.ctx p c).batch = some b) :
    batchCloseTimeout p c s = if b.opened + s.batchWaitUs p c * 1000 ≤ s.now then s.closeBatch p c else s := by
  simp only [batchCloseTimeout, hbatch]
  exact ite_cond_congr (propext (by simp [hawake, hstate]))

end

theorem tenantSwitchSteps : Says.TenantSwitchSteps := by
  unfold Says.TenantSwitchSteps
  intro s p x
  refine ⟨fun hawake hstate hswitch hsection hdue hreclaim hsubst t n hpick => congrArg Host.Outcome.next
      (quantumExpiry_of_due hawake hstate hswitch hsection hdue hreclaim hsubst hpick),
    fun hsoon hready => congrArg Host.Outcome.next (quantumExpiry_of_early hsoon hready),
    fun hsaving => congrArg Host.Outcome.next (if_pos hsaving), fun hsaving => congrArg Host.Outcome.next (if_neg hsaving),
    fun hswitch hsubst posted => ?_, fun c b hawake hstate hbatch => ⟨fun hdue => congrArg Host.Outcome.next
      ((batchCloseTimeout_of_open hawake hstate hbatch).trans (if_pos hdue)), fun hsoon => congrArg Host.Outcome.next
      ((batchCloseTimeout_of_open hawake hstate hbatch).trans (if_neg (Nat.not_le.2 hsoon)))⟩⟩
  intro c ends
  have resumes : ∀ t, t = _ → ends t := fun t ht =>
    congrArg Host.Outcome.next (contextResumeDone_of_resuming (posted := posted) hswitch hsubst ht)
  refine ⟨fun hsaved => ⟨fun hue hgood => resumes _ ?_, fun hue hgood => resumes _ ?_, fun b hue => resumes _ ?_⟩,
    fun hsaved => resumes _ ?_⟩
  · rw [if_pos hsaved, show s.resumeUe p (s.part p).incoming = none from hue, Option.elim_none, if_pos hgood]
  · rw [if_pos hsaved, show s.resumeUe p (s.part p).incoming = none from hue, Option.elim_none,
      if_neg (ne_true_of_eq_false hgood)]
  · rw [if_pos hsaved, show s.resumeUe p (s.part p).incoming = some b from hue, Option.elim_some]
  · rw [if_neg (ne_true_of_eq_false hsaved)]

theorem State.splitEnergy_single (s : State) (nj p w : Nat) {total : Nat} (h : 0 < total) :
    s.splitEnergy nj [(p, w)] total = s.addEnergy p (nj * w / total) := if_neg (Nat.pos_iff_ne_zero.1 h)

theorem accountsAndReleases : Says.AccountsAndReleases := by
  unfold Says.AccountsAndReleases
  intro s p hawake
  refine ⟨fun henabled => congrArg Host.Outcome.next (if_neg (by simp [henabled])),
    fun henabled => congrArg Host.Outcome.next (if_pos (by simp [hawake, henabled])),
    fun hgrid => congrArg Host.Outcome.next (if_pos (by simp [hawake, hgrid])),
    fun hgrid => congrArg Host.Outcome.next (if_neg (by simp [hgrid])), fun _ _ _ _ _ => rfl,
    fun nj w total h => s.splitEnergy_single nj p w h⟩

/-- Settles O36. -/
theorem tenantsSwitch : Obligations.TenantsSwitch := ⟨tenantSwitchSteps, accountsAndReleases⟩

end Sys2Proof.Machine
end

section
/-! O37, the order in which waiters are served (08 R285). -/

namespace Sys2Proof.Machine

/-- The first waiters of their semaphores whose count allows them. -/
def Ctx.firsts (y : Ctx) : List SemWait :=
  y.waits.filter (fun w => decide ((y.waits.find? (fun v => decide (v.sem = w.sem))) = some w)
    && decide (w.amount ≤ y.sems.getD w.sem 0))

/-- A context after a waiter is served. -/
def Ctx.served (now : Nat) (y : Ctx) (w : SemWait) : Ctx :=
  { y with
    sems := y.sems.set w.sem (y.sems.getD w.sem 0 - w.amount)
    waits := y.waits.filter (fun v => decide (v ≠ w))
    sectionAt := some (y.sectionAt.getD now)
    held := y.held ++ [⟨w.ring, w.sem, w.amount, min (now + w.holdUs * 1000) (y.sectionAt.getD now + 300_000)⟩] }

theorem serveWaits_of_none {now k : Nat} {y : Ctx} {acc : List (Nat × Nat)} (h : y.firsts = []) :
    serveWaits now (k + 1) y acc = (y, acc) := by
  have h' : y.waits.filter (fun w => decide ((y.waits.find? (fun v => decide (v.sem = w.sem))) = some w)
    && decide (w.amount ≤ y.sems.getD w.sem 0)) = [] := h
  simp only [serveWaits, h']

theorem serveWaits_of_some {now k : Nat} {y : Ctx} {acc : List (Nat × Nat)} {w : SemWait} {ws : List SemWait}
    (h : y.firsts = w :: ws) :
    serveWaits now (k + 1) y acc = serveWaits now k (y.served now w) (acc ++ [(w.ring, w.idx)]) := by
  have h' : y.waits.filter (fun w => decide ((y.waits.find? (fun v => decide (v.sem = w.sem))) = some w)
    && decide (w.amount ≤ y.sems.getD w.sem 0)) = w :: ws := h
  simp only [serveWaits, h']
  rfl

theorem Ctx.mem_firsts {y : Ctx} {w : SemWait} : w ∈ y.firsts ↔ w ∈ y.waits ∧
    y.waits.find? (fun v => decide (v.sem = w.sem)) = some w ∧ w.amount ≤ y.sems.getD w.sem 0 := by
  simp only [Ctx.firsts, List.mem_filter, Bool.and_eq_true, decide_eq_true_eq]

section
variable {now : Nat} {y : Ctx} {w : SemWait} (hw : w ∈ y.firsts)
include hw

/-- Serving moves an amount from the count to what is held. -/
theorem Ctx.served_total (sem : Nat) (hsem : sem < y.sems.length) :
    (y.served now w).sems.getD sem 0 +
        (((y.served now w).held.filter (fun h => decide (h.sem = sem))).map (fun h => h.amount)).sum =
      y.sems.getD sem 0 + ((y.held.filter (fun h => decide (h.sem = sem))).map (fun h => h.amount)).sum := by
  obtain ⟨-, -, hamount⟩ := Ctx.mem_firsts.1 hw
  by_cases hsame : w.sem = sem
  · subst hsame
    simp only [List.getD_eq_getElem?_getD, List.getElem?_eq_getElem hsem, Option.getD_some] at hamount
    simp [Ctx.served, List.filter_append, List.getD_eq_getElem?_getD, hsem]
    omega
  · simp [Ctx.served, List.filter_append, List.getD_eq_getElem?_getD, hsame]

/-- The waiters of each semaphore lose at most the first of them. -/
theorem Ctx.served_waits_suffix (hnodup : y.waits.Nodup) (sem : Nat) :
    ((y.served now w).waits.filter (fun v => decide (v.sem = sem))) <:+
      (y.waits.filter (fun v => decide (v.sem = sem))) := by
  obtain ⟨-, hfirst, -⟩ := Ctx.mem_firsts.1 hw
  have hcomm : (y.served now w).waits.filter (fun v => decide (v.sem = sem)) =
      (y.waits.filter (fun v => decide (v.sem = sem))).filter (fun v => decide (v ≠ w)) := by
    rw [Ctx.served, List.filter_filter, List.filter_filter]
    exact List.filter_congr (fun v _ => Bool.and_comm _ _)
  rw [hcomm]
  by_cases hsame : w.sem = sem
  · subst hsame
    rw [← List.head?_filter] at hfirst
    obtain ⟨rest, hrest⟩ := List.head?_eq_some_iff.1 hfirst
    have hfresh : w ∉ rest := (List.nodup_cons.1 (hrest ▸ hnodup.filter _)).1
    have hkeep : rest.filter (fun v => decide (v ≠ w)) = rest :=
      List.filter_eq_self.2 (fun v hv => decide_eq_true (fun h => hfresh (h ▸ hv)))
    rw [hrest, List.filter_cons_of_neg (by simp), hkeep]
    exact List.suffix_cons w rest
  · have hkeep : (y.waits.filter (fun v => decide (v.sem = sem))).filter (fun v => decide (v ≠ w)) =
        y.waits.filter (fun v => decide (v.sem = sem)) :=
      List.filter_eq_self.2 (fun v hv => decide_eq_true (fun h =>
        hsame (h ▸ of_decide_eq_true (List.mem_filter.1 hv).2)))
    exact ⟨[], hkeep⟩

theorem Ctx.served_waits_length (hnodup : y.waits.Nodup) : (y.served now w).waits.length + 1 = y.waits.length := by
  obtain ⟨hmem, -, -⟩ := Ctx.mem_firsts.1 hw
  have herase : (y.served now w).waits = y.waits.erase w := by
    rw [hnodup.erase_eq_filter]
    exact List.filter_congr (fun v _ => by rw [Bool.eq_iff_iff]; simp)
  rw [herase, List.length_erase_of_mem hmem]
  have hpos := List.length_pos_of_mem hmem
  omega

end

theorem Ctx.served_waits_nodup {now : Nat} {y : Ctx} {w : SemWait} (h : y.waits.Nodup) : (y.served now w).waits.Nodup :=
  h.filter _

section
variable (now : Nat)

theorem serveWaits_total (k : Nat) (y : Ctx) (acc : List (Nat × Nat)) (sem : Nat) (hsem : sem < y.sems.length) :
    (serveWaits now k y acc).1.sems.getD sem 0 + (((serveWaits now k y acc).1.held.filter
        (fun h => decide (h.sem = sem))).map (fun h => h.amount)).sum =
      y.sems.getD sem 0 + ((y.held.filter (fun h => decide (h.sem = sem))).map (fun h => h.amount)).sum := by
  induction k generalizing y acc with
  | zero => rfl
  | succ k ih =>
    rcases hf : y.firsts with _ | ⟨w, ws⟩
    · rw [serveWaits_of_none hf]
    · have hw : w ∈ y.firsts := hf ▸ List.mem_cons_self
      rw [serveWaits_of_some hf, ih _ _ (by rw [Ctx.served, List.length_set]; exact hsem), Ctx.served_total hw sem hsem]

theorem serveWaits_suffix (k : Nat) (y : Ctx) (acc : List (Nat × Nat)) (hnodup : y.waits.Nodup) (sem : Nat) :
    ((serveWaits now k y acc).1.waits.filter (fun w => decide (w.sem = sem))) <:+
      (y.waits.filter (fun w => decide (w.sem = sem))) := by
  induction k generalizing y acc with
  | zero => exact List.suffix_refl _
  | succ k ih =>
    rcases hf : y.firsts with _ | ⟨w, ws⟩
    · exact (serveWaits_of_none hf).symm ▸ List.suffix_refl _
    · have hw : w ∈ y.firsts := hf ▸ List.mem_cons_self
      rw [serveWaits_of_some hf]
      exact (ih _ _ (Ctx.served_waits_nodup hnodup)).trans (Ctx.served_waits_suffix hw hnodup sem)

theorem serveWaits_blocked (k : Nat) (y : Ctx) (acc : List (Nat × Nat)) (hnodup : y.waits.Nodup)
    (hfuel : y.waits.length ≤ k) (w : SemWait) (hw : w ∈ (serveWaits now k y acc).1.waits)
    (hfirst : (serveWaits now k y acc).1.waits.find? (fun v => decide (v.sem = w.sem)) = some w) :
    (serveWaits now k y acc).1.sems.getD w.sem 0 < w.amount := by
  induction k generalizing y acc with
  | zero =>
    have hnil : y.waits = [] := List.eq_nil_of_length_eq_zero (Nat.le_zero.1 hfuel)
    exact absurd (show w ∈ y.waits from hw) (by simp [hnil])
  | succ k ih =>
    rcases hf : y.firsts with _ | ⟨v, vs⟩
    · rw [serveWaits_of_none hf] at hw hfirst ⊢
      refine Nat.not_le.1 (fun hle => ?_)
      exact absurd (Ctx.mem_firsts.2 ⟨hw, hfirst, hle⟩) (by simp [hf])
    · have hv : v ∈ y.firsts := hf ▸ List.mem_cons_self
      rw [serveWaits_of_some hf] at hw hfirst ⊢
      have hlen := Ctx.served_waits_length (now := now) hv hnodup
      exact ih _ _ (Ctx.served_waits_nodup hnodup) (by omega) hw hfirst

end

theorem waitersAreServedInOrder : Says.WaitersAreServedInOrder := by
  unfold Says.WaitersAreServedInOrder
  intro now y acc hnodup r
  exact ⟨serveWaits_total now _ y acc, serveWaits_suffix now _ y acc hnodup,
    serveWaits_blocked now _ y acc hnodup (Nat.le_refl _)⟩

-- The commands.

section
variable {s t : State} {n p c : Nat} {d : Desc} (hadm : Admitted s n 0x08 t d (some (p, c)))
include hadm

theorem State.semCommand_of_bad {w : Nat} (hbad : semBad d.words (t.ctx p c) = some w) (op : Nat)
    (k : State → Desc → Nat → Nat → State) : s.semCommand n op k = t.finishDesc n d.idx (Result.bad w) := by
  rw [State.semCommand, State.admitJob_of_admitted hadm]
  simp only [hbad]

theorem State.semCommand_of_good (hgood : semBad d.words (t.ctx p c) = none) {op : Nat} (hop : wfield d.words 4 1 0 = op)
    (k : State → Desc → Nat → Nat → State) : s.semCommand n op k = k t d p c := by
  rw [State.semCommand, State.admitJob_of_admitted hadm]
  simp only [hgood, hop, if_true]

end

theorem foldl_eq_self {α β : Type} {f : α → β → α} {a : α} (l : List β) (h : ∀ b ∈ l, f a b = a) : l.foldl f a = a := by
  induction l with
  | nil => rfl
  | cons b l ih =>
    rw [List.foldl_cons, h b List.mem_cons_self]
    exact ih (fun b hb => h b (List.mem_cons_of_mem _ hb))

/-- A hold past its end, with no job that holds on, gives everything back. -/
theorem holdExceeded_of_late {s : State} {p c : Nat} {h : Acquired}
    (hlate : (s.ctx p c).held.find? (fun h => decide (h.deadline ≤ s.now)) = some h)
    (hstate : (s.part p).state = .running) (hsection : (s.ctx p c).sectionAt.isSome = true) (hkernels : s.kernels = [])
    (hjobs : ∀ g ∈ (s.ctx p c).held, ∀ e ∈ (s.ring g.ring).descs, e.job = none) :
    holdExceeded p c s = ((((s.setCtx p c { s.ctx p c with
      held := [], sectionAt := none
      sems := (s.ctx p c).held.foldl (fun (m : List Nat) g =>
        m.set g.sem (min 65535 (m.getD g.sem 0 + g.amount))) (s.ctx p c).sems }).postPart p 0x06 (lo32 c)
          (lo32 h.sem) 0 0).serveSems p c).maybeSave p) := by
  have hnone : ∀ x, (s.setCtx p c x).kernels = [] := fun _ => hkernels
  have hring : ∀ x m, (s.setCtx p c x).ring m = s.ring m := fun _ _ => rfl
  simp only [holdExceeded, hlate]
  rw [if_pos (by simp [hstate, hsection])]
  simp only [hnone, List.filter_nil, List.foldl_nil, List.any_nil, Bool.false_eq_true, if_false]
  rw [foldl_eq_self _ (fun m hm => ?_)]
  obtain ⟨g, hg, hgm⟩ := List.mem_map.1 (List.mem_eraseDups.1 hm)
  have hfind : (s.ring m).descs.find? (fun d => d.started && !d.done && d.job.isSome) = none :=
    List.find?_eq_none.2 (fun e he => by simp [hjobs g hg e (by rw [hgm]; exact he)])
  simp only [hring, hfind]

theorem semaphoreCommandsAct : Says.SemaphoreCommandsAct := by
  unfold Says.SemaphoreCommandsAct
  intro s t n p c d y sem v
  refine ⟨fun hadm w hbad e he => ?_, fun hadm hgood => ⟨fun hop => ?_, fun hop hnew => ?_, fun hop => ?_⟩,
    fun h hlate hstate hsection hkernels hjobs => congrArg Host.Outcome.next
      (holdExceeded_of_late hlate hstate hsection hkernels hjobs)⟩
  · simp only [List.mem_cons, List.not_mem_nil, or_false] at he
    rcases he with rfl | rfl | rfl
    · exact congrArg Host.Outcome.next (State.semCommand_of_bad hadm hbad 0 _)
    · exact congrArg Host.Outcome.next (State.semCommand_of_bad hadm hbad 1 _)
    · exact congrArg Host.Outcome.next (State.semCommand_of_bad hadm hbad 2 _)
  · exact congrArg Host.Outcome.next (State.semCommand_of_good hadm hgood hop _)
  · refine congrArg Host.Outcome.next ((State.semCommand_of_good hadm hgood hop _).trans ?_)
    dsimp only
    rw [if_neg hnew]
  · exact congrArg Host.Outcome.next (State.semCommand_of_good hadm hgood hop _)

/-- Settles O37. -/
theorem semaphoresRun : Obligations.SemaphoresRun := ⟨semaphoreCommandsAct, waitersAreServedInOrder⟩

end Sys2Proof.Machine
end

section
/-! O38, rings and doorbells (09 R311 to R318; 08 R295). -/

namespace Sys2Proof.Machine

section
variable {s : State} {v : View} {n : Nat} (hreached : s.reached v = true) (hhas : s.viewHasRing v n = true)
include hreached hhas

theorem ringEnable_of_off {cfg : W32} (hoff : s.ringOn n = false) (hen : bitOf cfg 31 = true) (d0 d1 : W32) {t : State}
    (ht : t = (s.applyWrite (aRINGn n + 0x18) cfg).setRbit (aRINGn n + 0x18) 31 false) {u : State}
    (hu : u = (t.setRing n { t.ring n with
      descs := [], unfetched := 0, sqTail := 0, cqHead := 0, stamps := [], sqHead := 0, cqTail := 0, phase := true,
      error := 0, disabling := false, muted := false
      line := if n = 0 then none else some (t.dbAddr n / 64 * 64) }).setRbit (aRINGn n + 0x18) 31 true) :
    ringEnable v n cfg d0 d1 s = if t.ringEnableError n (decide (v = .pf)) = 0 then
        (if n = 0 then (u.applyDoorbell 0 (u.reg aADMIN) (u.reg (aADMIN + 4))).deliverAdmin
          else (u.applyDoorbell n d0 d1).deliverWaiting n)
      else t.setRing n { t.ring n with error := t.ringEnableError n (decide (v = .pf)) } := by
  subst ht hu
  unfold ringEnable
  exact if_pos (by simp only [hreached, hhas, hoff, hen]; rfl)

theorem ringDisable_of_on (hon : s.ringOn n = true) (hdis : (s.ring n).disabling = false) :
    ringDisable v n s = ((s.dropWaits n).setRing n { s.ring n with
      disabling := true, descs := (s.ring n).descs.map Desc.stopped }).ringOff n := by
  unfold ringDisable State.disableRing
  rw [if_pos (by simp [hreached, hhas]), if_pos (by simp [hon, hdis])]

end

theorem State.ringOff_of_disabling {s : State} {n : Nat} (hdis : (s.ring n).disabling = true) :
    s.ringOff n = if (s.ring n).descs = [] ∧ s.eventsOwed n = false then
      (s.setRing n { s.ring n with disabling := false, line := none }).setRbit (aRINGn n + 0x18) 31 false else s := by
  unfold State.ringOff
  exact ite_cond_congr (propext (by simp [hdis]))

theorem ringCommandsAct : Says.RingCommandsAct := by
  unfold Says.RingCommandsAct
  intro s v n cfg d0 d1 hreached hhas
  refine ⟨fun hoff hen => ?_, fun hon hdis => congrArg Host.Outcome.next (ringDisable_of_on hreached hhas hon hdis),
    fun hdis => ⟨fun hdescs howed => ?_, fun howes => ?_⟩⟩
  · intro t u
    have hexec : exec (.ringEnable v n cfg d0 d1) s = .next _ :=
      congrArg Host.Outcome.next (ringEnable_of_off hreached hhas hoff hen d0 d1 rfl rfl)
    exact ⟨fun hgood => hexec.trans (congrArg Host.Outcome.next (if_pos hgood)),
      fun hbad => hexec.trans (congrArg Host.Outcome.next (if_neg hbad))⟩
  · exact congrArg Host.Outcome.next ((State.ringOff_of_disabling hdis).trans (if_pos ⟨hdescs, howed⟩))
  · refine congrArg Host.Outcome.next ((State.ringOff_of_disabling hdis).trans (if_neg ?_))
    rintro ⟨hdescs, howed⟩
    rcases howes with h | h
    · exact h hdescs
    · exact absurd h (by simp [howed])

section
variable {s : State} {n : Nat}

theorem doorbellEvent_of_one (hup : s.up = true) (hon : s.ringOn n = true) {line : Nat} {ws : List W32}
    (hkeys : SMap.keysWhere (fun _ r => decide (r.line = some line)) s.rings = [n]) :
    doorbellEvent line ws s = s.wake.applyDoorbell n (wordAt ws ((s.dbAddr n - line) / 4))
      (wordAt ws ((s.dbAddr n - line) / 4 + 1)) := by
  unfold doorbellEvent
  rw [if_pos hup]
  simp only [hkeys, List.filter_cons, hon, if_true, List.filter_nil, List.isEmpty_cons, Bool.false_eq_true, if_false,
    List.foldl_cons, List.foldl_nil]

theorem adminDbWrite_of_on (hup : s.up = true) {w : Nat} {v : W32} (hw : w < 2)
    (hon : (s.applyWrite (aADMIN + 4 * w) v).ringOn 0 = true) :
    adminDbWrite w v 0xF s = (s.applyWrite (aADMIN + 4 * w) v).wake.applyDoorbell 0
      ((s.applyWrite (aADMIN + 4 * w) v).reg aADMIN) ((s.applyWrite (aADMIN + 4 * w) v).reg (aADMIN + 4)) := by
  unfold adminDbWrite
  rw [if_pos (by simp [hup, hw])]
  exact if_pos hon

section
variable (hon : s.ringOn n = true) {w0 w1 : W32}
include hon

theorem State.applyDoorbell_of_tail (htail : field w0 15 0 < s.sqSize n) (hhead : field w1 15 0 = (s.ring n).cqHead)
    (hin : (s.ring n).cqHead < s.cqSize n) :
    s.applyDoorbell n w0 w1 = s.setRing n { s.ring n with
      sqTail := field w0 15 0, cqHead := field w1 15 0
      stamps := if field w0 15 0 = (s.ring n).sqTail then (s.ring n).stamps
        else (s.ring n).stamps ++ [(field w0 15 0, s.ptp)] } := by
  have hgood : field w0 15 0 < s.sqSize n ∧ field w1 15 0 < s.cqSize n ∧
      (field w1 15 0 + s.cqSize n - (s.ring n).cqHead) % s.cqSize n ≤ s.cqUsed n := by
    rw [hhead, Nat.add_sub_cancel_left, Nat.mod_self]
    exact ⟨htail, hin, Nat.zero_le _⟩
  unfold State.applyDoorbell
  exact (if_pos hon).trans ((if_pos hgood).trans (if_pos hhead))

theorem State.applyDoorbell_of_out (hout : s.sqSize n ≤ field w0 15 0 ∨ s.cqSize n ≤ field w1 15 0 ∨
    s.cqUsed n < (field w1 15 0 + s.cqSize n - (s.ring n).cqHead) % s.cqSize n) :
    s.applyDoorbell n w0 w1 = s.stopRing n 4 := by
  unfold State.applyDoorbell
  refine (if_pos hon).trans (if_neg ?_)
  rintro ⟨htail, hhead, hused⟩
  rcases hout with h | h | h
  · exact absurd htail (Nat.not_lt.2 h)
  · exact absurd hhead (Nat.not_lt.2 h)
  · exact absurd hused (Nat.not_le.2 h)

end
end

theorem doorbellsAct : Says.DoorbellsAct := by
  unfold Says.DoorbellsAct
  intro s n hup hon
  exact ⟨fun line ws hkeys => congrArg Host.Outcome.next (doorbellEvent_of_one hup hon hkeys),
    fun hline => congrArg Host.Outcome.next (if_pos (by simp [hup, hon, hline])),
    fun w v hw hon => congrArg Host.Outcome.next (adminDbWrite_of_on hup hw hon),
    fun w0 w1 => ⟨State.applyDoorbell_of_tail hon, State.applyDoorbell_of_out hon⟩⟩

/-- Settles O38. -/
theorem ringsStartAndStop : Obligations.RingsStartAndStop := ⟨ringCommandsAct, doorbellsAct⟩

end Sys2Proof.Machine
end

section
/-! O39, descriptors, completion queues and indications (09 R312, R323 to R330, R333, R338). -/

namespace Sys2Proof.Machine

section
variable {s : State} {n : Nat}

theorem descriptorFetch_words (hmay : s.mayFetch n = true) (ws : List W32) {d : Desc}
    (hd : d = { idx := (s.ring n).sqHead, words := (List.range 16).map (fun i => wordAt ws i),
                arrival := ((liveStamps (s.ring n).sqHead (s.ring n).stamps).head?.map Prod.snd).getD s.ptp,
                started := (if opAllowed (wfield ((List.range 16).map (fun i => wordAt ws i)) 0 7 0) (s.ringKind n)
                  (s.ringOwner n).isNone then none else some 0).isSome,
                result := (if opAllowed (wfield ((List.range 16).map (fun i => wordAt ws i)) 0 7 0) (s.ringKind n)
                  (s.ringOwner n).isNone then none else some 0).map Result.bad,
                job := none }) :
    descriptorFetch n (.words ws) s = (match s.ringOwner n with
      | some p => s.chargeCtl p 64
      | none => s).setRing n { s.ring n with
        sqHead := ((s.ring n).sqHead + 1) % s.sqSize n, stamps := liveStamps (s.ring n).sqHead (s.ring n).stamps,
        descs := (s.ring n).descs ++ [d] } := by
  subst hd
  exact if_pos hmay

theorem wordAt_map_range (ws : List W32) {i k : Nat} (hi : i < k) :
    wordAt ((List.range k).map (fun j => wordAt ws j)) i = wordAt ws i := by
  simp [wordAt, hi]

theorem completeFront_of_finished {d : Desc} {rest : List Desc} {res : Result}
    (hdescs : (s.ring n).descs = d :: rest) (hres : d.result = some res) (hmuted : (s.ring n).muted = false) :
    s.completeFront n = if s.cqRoom n then
      ((s.setRing n ((s.ring n).popped (s.sqSize n) rest)).writeEntry n
        (res.entry (wordAt d.words 2) ((s.ring n).popped (s.sqSize n) rest).sqHead)
        (decide (wfield d.words 0 8 8 = 1))).deliverAdmin else s := by
  unfold State.completeFront
  simp only [hdescs, hres, hmuted, Bool.false_eq_true, if_false]

end

theorem descriptorsAreFetched : Says.DescriptorsAreFetched := by
  unfold Says.DescriptorsAreFetched
  intro s n
  refine ⟨fun hmay => ⟨congrArg Host.Outcome.next (if_pos hmay), fun ws => ?_⟩,
    fun hmay r => congrArg Host.Outcome.next (if_neg (by simp [hmay])), fun d rest res hdue hdescs hres hmuted => ?_,
    fun hdue => congrArg Host.Outcome.next (if_neg (by simp [hdue]))⟩
  · have hop : wfield ((List.range 16).map (fun i => wordAt ws i)) 0 7 0 = wfield ws 0 7 0 := by
      unfold wfield
      rw [wordAt_map_range ws (by decide)]
    refine ⟨_, _, congrArg Host.Outcome.next (descriptorFetch_words hmay ws rfl), rfl,
      fun i hi => wordAt_map_range ws hi, fun hallowed => ?_, fun hbad => ?_⟩
    · simp [hop, hallowed]
    · simp [hop, hbad]
  · have hfront : exec (.descriptorCompletion n) s = .next (((s.completeFront n).deliverWaiting n).ringOff n) :=
      congrArg Host.Outcome.next (if_pos hdue)
    rw [completeFront_of_finished hdescs hres hmuted] at hfront
    refine ⟨fun hroom => ?_, fun hfull => ?_⟩
    · rw [if_pos hroom] at hfront
      exact hfront
    · rw [if_neg (by simp [hfull])] at hfront
      exact hfront

theorem leBytes_length (n v : Nat) : (leBytes n v).length = n := by
  induction n generalizing v with
  | zero => rfl
  | succ n ih => exact congrArg (· + 1) (ih (v / 256))

theorem CqEntry.bytes_length (e : CqEntry) (phase : Bool) (gen : Nat) : (e.bytes phase gen).length = 32 := by
  simp [CqEntry.bytes, wordsBytes, leBytes_length]

section
variable {s : State} (n : Nat) (e : CqEntry) (irq : Bool) (hmuted : (s.ring n).muted = false)
include hmuted

theorem State.writeEntry_of_window (hok : s.windowOk (ownerFn (s.ringOwner n)) (s.cqBase n + 32 * (s.ring n).cqTail) 32 = true)
    {v t : State} (hv : v = match s.ringOwner n with
      | some p => s.chargeCtl p 32
      | none => s)
    (ht : t = (v.putHost (s.cqBase n + 32 * (s.ring n).cqTail) (e.bytes (s.ring n).phase (s.ring n).gen)).setRing n
      { s.ring n with
        cqTail := ((s.ring n).cqTail + 1) % s.cqSize n
        phase := if ((s.ring n).cqTail + 1) % s.cqSize n = 0 then !(s.ring n).phase else (s.ring n).phase }) :
    s.writeEntry n e irq = if irq && decide (s.ringSource n ≠ 0) then t.edge (s.ringSource n) else t := by
  subst ht hv
  unfold State.writeEntry
  simp only [hmuted, Bool.false_eq_true, if_false]
  exact if_pos hok

theorem State.writeEntry_of_no_window
    (hok : s.windowOk (ownerFn (s.ringOwner n)) (s.cqBase n + 32 * (s.ring n).cqTail) 32 = false) :
    s.writeEntry n e irq =
      (s.noteRefusal (ownerFn (s.ringOwner n)) (s.cqBase n + 32 * (s.ring n).cqTail)).haltRing n 5 := by
  unfold State.writeEntry
  simp only [hmuted, Bool.false_eq_true, if_false]
  exact if_neg (by simp [hok])

end

/-- A ring that is halted shows the error, and is muted by errors 5 and 6 (09 R338). -/
theorem State.haltRing_ring {s : State} (hc : s.canon = true) (n err : Nat) :
    ((s.haltRing n err).ring n).error = err ∧
      ((s.haltRing n err).ring n).muted = (decide (err = 5) || decide (err = 6)) := by
  have hwf := State.wf_rings ((State.dropWaits_keeps (a1 := n) (List.Subset.refl _) (Keeps.refl (s := s))).2 hc)
  unfold State.haltRing
  generalize hr : ({ s.ring n with
    descs := if decide (err = 5) || decide (err = 6) then (s.ring n).descs.filter (fun d => d.started)
      else (s.ring n).descs.map Desc.stopped
    error := err, muted := decide (err = 5) || decide (err = 6), line := none } : Ring) = r
  have hrings : (((((s.dropWaits n).setRing n r).setRbit (aRINGn n + 0x18) 31 false).edge 7).queueAdmin 0x03 (lo32 n)
      (lo32 err) 0).rings = ((s.dropWaits n).setRing n r).rings :=
    (State.edge_keeps (List.Subset.refl _) .refl).1 .rings (by decide)
  have hread : SMap.get (fun _ => Ring.reset) ((s.dropWaits n).setRing n r).rings n = r :=
    State.ring_setRing_self _ n r hwf
  dsimp only
  rw [hr]
  unfold State.ring
  rw [hrings, hread, ← hr]
  exact ⟨rfl, rfl⟩

section
variable {s t v : State} {n : Nat} {a : Nat} {bs : List Byte} {q : Ring}

theorem chargeCtl_elim_keeps {o : Option Nat} {k : Nat} (hv : v = match o with
      | some p => s.chargeCtl p k
      | none => s) : Keeps [.ctl] s v := by
  cases o with
  | some p => exact hv ▸ State.chargeCtl_keeps (List.Subset.refl _) .refl
  | none => exact hv ▸ Keeps.refl

theorem ring_host_of_entry (hc : s.canon = true) (hv : Keeps [.ctl] s v) (ht : t = (v.putHost a bs).setRing n q)
    (irq : Bool) (src : Nat) :
    (if irq then t.edge src else t).host = SMap.putList byteZero s.host a bs ∧
      (if irq then t.edge src else t).ring n = q := by
  have hedge : Keeps [.regs, .pba, .msixHeld, .outs, .ctl] t (if irq then t.edge src else t) :=
    Keeps.ite (State.edge_keeps (List.Subset.refl _) .refl) .refl
  have hhost : v.host = s.host := hv.1 .host (by decide)
  have hrings : SMap.wf (fun _ => Ring.reset) v.rings = true := State.wf_rings (hv.2 hc)
  constructor
  · calc (if irq then t.edge src else t).host = t.host := hedge.1 .host (by decide)
      _ = SMap.putList byteZero v.host a bs := by rw [ht]; rfl
      _ = SMap.putList byteZero s.host a bs := by rw [hhost]
  · have hr : (if irq then t.edge src else t).rings = t.rings := hedge.1 .rings (by decide)
    unfold State.ring
    rw [hr, ht]
    exact State.ring_setRing_self (v.putHost a bs) n q hrings

end

theorem State.noteRefusal_haltRing_host (s : State) (fn a n err : Nat) :
    ((s.noteRefusal fn a).haltRing n err).host = s.host :=
  Fld.same_trans (f := .host) ((State.noteRefusal_keeps (List.Subset.refl _) (Keeps.refl (s := s))).1 .host (by decide))
    ((State.haltRing_keeps (List.Subset.refl _) .refl).1 .host (by decide))

theorem entriesGoToTheQueue : Says.EntriesGoToTheQueue := by
  unfold Says.EntriesGoToTheQueue
  intro s n e irq hc hmuted t r a
  refine ⟨fun hok => ?_, fun hok => ?_⟩
  · have hwrite := State.writeEntry_of_window n e irq hmuted hok rfl rfl
    obtain ⟨hhost, hring⟩ := ring_host_of_entry hc (chargeCtl_elim_keeps rfl) rfl
      (irq && decide (s.ringSource n ≠ 0)) (s.ringSource n)
    rw [← hwrite] at hhost hring
    have hlen : (e.bytes r.phase r.gen).length = 32 := CqEntry.bytes_length e _ _
    refine ⟨?_, fun b hb => ?_, congrArg Ring.cqTail hring, congrArg Ring.phase hring⟩
    · rw [hhost]
      exact (congrArg (SMap.getList byteZero _ a) hlen.symm).trans
        (SMap.getList_putList (e.bytes r.phase r.gen) s.host a (State.wf_host hc))
    · rw [hhost]
      exact SMap.get_putList_other _ _ _ _ (by rw [hlen]; exact hb)
  · have hwrite : t = _ := State.writeEntry_of_no_window n e irq hmuted hok
    have hring := State.haltRing_ring ((State.noteRefusal_keeps (a1 := ownerFn (s.ringOwner n)) (a2 := a)
      (List.Subset.refl _) (Keeps.refl (s := s))).2 hc) n 5
    rw [hwrite]
    exact ⟨State.noteRefusal_haltRing_host s _ _ n 5, hring.1, hring.2⟩

section
variable {s : State} {n : Nat}

theorem l1Buf_of_good {d : Desc} (hawake : s.awake = true) (hnext : s.nextStart n = some d) (hop : d.op = 0x21)
    (hgood : descFail d.words [(4, decide (wpair d.words 4 % 64 = 0)),
      (6, decide ((wordAt d.words 6).toNat % 64 = 0) && decide (4096 ≤ (wordAt d.words 6).toNat) &&
        decide ((wordAt d.words 6).toNat ≤ 2_097_152))] = none) :
    l1Buf n s = if s.windowOk (ownerFn (s.ringOwner n)) (wpair d.words 4) (wordAt d.words 6).toNat then
        (s.startDesc n d.idx).deliverInds n
      else s.finishDesc n d.idx
        { status := .hostWindowFault, d4 := lo32 (wpair d.words 4), d5 := hi32 (wpair d.words 4) } := by
  unfold l1Buf
  simp only [hawake, hnext, hop, hgood, if_true]

theorem indicationDrop_cons {i : Indication} {rest : List Indication} (hinds : (s.ring n).inds = i :: rest) :
    indicationDrop n s = if i.since + 10_000_000 ≤ s.now then
      (s.setRing n { s.ring n with inds := rest }).record 0x0401 (siteRing n) 0 i.msgId else s := by
  unfold indicationDrop
  simp only [hinds]

end

theorem indicationsWait : Says.IndicationsWait := by
  unfold Says.IndicationsWait
  intro s n d
  refine ⟨fun hawake hnext hop hgood => ⟨fun hok => ?_, fun hbad => ?_⟩, fun i rest hinds hpast => ?_,
    fun i rest hinds hearly => ?_⟩
  · exact congrArg Host.Outcome.next ((l1Buf_of_good hawake hnext hop hgood).trans (if_pos hok))
  · exact congrArg Host.Outcome.next ((l1Buf_of_good hawake hnext hop hgood).trans (if_neg (by simp [hbad])))
  · exact congrArg Host.Outcome.next ((indicationDrop_cons hinds).trans (if_pos hpast))
  · exact congrArg Host.Outcome.next ((indicationDrop_cons hinds).trans (if_neg (Nat.not_le.2 hearly)))

/-- Settles O39. -/
theorem descriptorsFlow : Obligations.DescriptorsFlow :=
  ⟨descriptorsAreFetched, entriesGoToTheQueue, indicationsWait⟩

end Sys2Proof.Machine
end

section
/-! O40, writes that leave the device (09 R337, R338; 13 R450). -/

namespace Sys2Proof.Machine

section
variable {a : Nat} (ha : aPORT ≤ a)
include ha

theorem State.setPend_reg_high (s : State) {src : Nat} (hsrc : src < 4096) (b : Bool) :
    (s.setPend src b).reg a = s.reg a :=
  State.reg_setReg_other _ _ _ _ (by unfold aPEND aINTC; unfold aPORT at ha; omega)

theorem State.sendMsix_reg_high (s : State) (fn entry : Nat) {v : Nat} (hv : v < 2048) :
    (s.sendMsix fn entry v).reg a = s.reg a := by
  have hstamp : aSTAMP v + 4 < a := by unfold aSTAMP aTIME; unfold aPORT at ha; omega
  unfold State.sendMsix
  split
  · rfl
  · dsimp only
    rw [State.reg_setReg_other _ _ _ _ (by omega), State.reg_setReg_other _ _ _ _ (by omega)]
    split <;> rfl

theorem State.fireSource_reg_high (s : State) {src : Nat} (hsrc : src < 4096) : (s.fireSource src).reg a = s.reg a := by
  have hv : s.sourceVector src < 2048 := Nat.mod_lt _ (by decide)
  unfold State.fireSource
  dsimp only
  split
  · rfl
  · split
    · rw [State.setPend_reg_high ha _ hsrc, State.sendMsix_reg_high ha _ _ _ hv]
    · exact State.sendMsix_reg_high ha _ _ _ hv

theorem State.edge_reg_high (s : State) (src : Nat) : (s.edge src).reg a = s.reg a := by
  unfold State.edge
  split
  · next hlive =>
    have hsrc : src < 4096 := by
      simp only [sourceLive, Bool.and_eq_true, decide_eq_true_eq] at hlive
      exact hlive.1.2
    have hcnt : ((s.bumpRf (aCNT (src / 4)) (8 * (src % 4) + 7) (8 * (src % 4)) 1).setPend src true).reg a = s.reg a := by
      rw [State.setPend_reg_high ha _ hsrc]
      exact State.reg_setReg_other _ _ _ _ (by unfold aCNT aINTC; unfold aPORT at ha; omega)
    dsimp only
    split
    · rw [State.fireSource_reg_high ha _ hsrc, hcnt]
    · exact hcnt
  · rfl

end

theorem aPORT_le_of_window {a : Nat} (h : aWIN 0 ≤ a) : aPORT ≤ a := Nat.le_trans (by decide) h

/-- A byte of the host's memory that lies in an enabled window. -/
def State.InWindow (s : State) (b : Nat) : Prop := ∃ w < 64, ∃ fn, s.windowHolds w fn b 1 = true

/-- The windows stand as they did, and no byte of the host's memory outside them is another one. -/
structure StaysInWindows (s t : State) : Prop where
  regs : ∀ a, aWIN 0 ≤ a → a < aWIN 64 → t.reg a = s.reg a
  host : ∀ b, SMap.get byteZero t.host b ≠ SMap.get byteZero s.host b → s.InWindow b

theorem reg64_of_words {s t : State} {a : Nat} (hlo : t.reg a = s.reg a) (hhi : t.reg (a + 4) = s.reg (a + 4)) :
    t.reg64 a = s.reg64 a := by
  unfold State.reg64
  rw [hlo, hhi]

theorem windowHolds_congr {s t : State} (h : ∀ a, aWIN 0 ≤ a → a < aWIN 64 → t.reg a = s.reg a) {w : Nat} (hw : w < 64)
    (fn a len : Nat) : t.windowHolds w fn a len = s.windowHolds w fn a len := by
  have hreg : ∀ k < 0x20, t.reg (aWIN w + k) = s.reg (aWIN w + k) :=
    fun k hk => h _ (by unfold aWIN; omega) (by unfold aWIN; omega)
  have hbase : t.reg64 (aWIN w) = s.reg64 (aWIN w) := reg64_of_words (hreg 0 (by decide)) (hreg 4 (by decide))
  have hend : t.reg64 (aWIN w + 8) = s.reg64 (aWIN w + 8) :=
    reg64_of_words (hreg 8 (by decide)) (hreg 12 (by decide))
  have hen : t.rbit (aWIN w + 0x10) 31 = s.rbit (aWIN w + 0x10) 31 := congrArg (bitOf · 31) (hreg 0x10 (by decide))
  have hfn : t.rf (aWIN w + 0x10) 6 0 = s.rf (aWIN w + 0x10) 6 0 := congrArg (field · 6 0) (hreg 0x10 (by decide))
  simp only [State.windowHolds, hbase, hend, hen, hfn]

theorem windowHolds_byte {s : State} {w fn a len b : Nat} (h : s.windowHolds w fn a len = true) (hlo : a ≤ b)
    (hhi : b < a + len) : s.windowHolds w fn b 1 = true := by
  simp only [State.windowHolds, Bool.and_eq_true, decide_eq_true_eq] at h ⊢
  obtain ⟨⟨⟨hen, hfn⟩, hbase⟩, hend⟩ := h
  exact ⟨⟨⟨hen, hfn⟩, by omega⟩, by omega⟩

theorem windowHolds_of_windowOk {s : State} {fn a len b : Nat} (h : s.windowOk fn a len = true) (hlo : a ≤ b)
    (hhi : b < a + len) : ∃ w < 64, s.windowHolds w fn b 1 = true := by
  obtain ⟨w, hw, hholds⟩ := List.any_eq_true.1 h
  exact ⟨w, List.mem_range.1 hw, windowHolds_byte hholds hlo hhi⟩

theorem inWindow_of_windowOk {s : State} {fn a len b : Nat} (h : s.windowOk fn a len = true) (hlo : a ≤ b)
    (hhi : b < a + len) : s.InWindow b := by
  obtain ⟨w, hw, hholds⟩ := windowHolds_of_windowOk h hlo hhi
  exact ⟨w, hw, fn, hholds⟩

theorem StaysInWindows.refl (s : State) : StaysInWindows s s := ⟨fun _ _ _ => rfl, fun _ h => absurd rfl h⟩

theorem StaysInWindows.trans {s t u : State} (h : StaysInWindows s t) (k : StaysInWindows t u) : StaysInWindows s u where
  regs a hlo hhi := (k.regs a hlo hhi).trans (h.regs a hlo hhi)
  host b hb := by
    by_cases hst : SMap.get byteZero t.host b = SMap.get byteZero s.host b
    · obtain ⟨w, hw, fn, hholds⟩ := k.host b (by rw [hst]; exact hb)
      exact ⟨w, hw, fn, (windowHolds_congr h.regs hw fn b 1) ▸ hholds⟩
    · exact h.host b hst

/-- An operation that writes neither registers nor host memory. -/
theorem StaysInWindows.of_keeps {v : List Fld} {s t : State} (h : Keeps v s t) (hr : Fld.regs ∉ v) (hh : Fld.host ∉ v) :
    StaysInWindows s t where
  regs a _ _ := congrArg (fun m => SMap.get regReset m a) (h.1 .regs hr)
  host b hb := absurd (congrArg (fun m => SMap.get byteZero m b) (h.1 .host hh)) hb

theorem StaysInWindows.setReg (s : State) {a : Nat} (v : W32) (ha : a < aWIN 0 ∨ aWIN 64 ≤ a) :
    StaysInWindows s (s.setReg a v) := by
  refine ⟨fun b hlo hhi => State.reg_setReg_other s a b v ?_, fun b hb => absurd rfl hb⟩
  rintro rfl
  exact ha.elim (Nat.not_lt.2 hlo) (Nat.not_le.2 hhi)

theorem StaysInWindows.edge (s : State) (src : Nat) : StaysInWindows s (s.edge src) where
  regs a hlo _ := State.edge_reg_high (aPORT_le_of_window hlo) s src
  host b hb := absurd (congrArg (fun m => SMap.get byteZero m b)
    ((State.edge_keeps (List.Subset.refl _) (Keeps.refl (s := s))).1 .host (by decide))) hb

theorem StaysInWindows.queueAdmin (s : State) (kind : Nat) (d4 d5 d6 : W32) :
    StaysInWindows s (s.queueAdmin kind d4 d5 d6) :=
  ⟨fun _ _ _ => rfl, fun _ h => absurd rfl h⟩

theorem StaysInWindows.noteRefusal (s : State) (fn a : Nat) : StaysInWindows s (s.noteRefusal fn a) := by
  have hset : ∀ (u : State) (k : Nat) (v : W32), k ≤ 0xC → StaysInWindows u (u.setReg (aSEC + k) v) :=
    fun u k v hk => StaysInWindows.setReg u v (.inl (by unfold aWIN; omega))
  unfold State.noteRefusal
  dsimp only
  refine .trans (.trans (.trans ?_ (hset _ 0xC _ (by decide))) (.edge _ 6)) (.queueAdmin _ 4 _ _ _)
  split
  · exact .refl s
  · exact .trans (.trans (hset s 4 _ (by decide)) (hset _ 8 _ (by decide))) (hset _ 0xC _ (by decide))

/-- The register of a ring lies below the windows. -/
theorem StaysInWindows.haltRing (s : State) {n : Nat} (hn : aRINGn n + 0x18 < aWIN 0) (err : Nat) :
    StaysInWindows s (s.haltRing n err) := by
  unfold State.haltRing
  dsimp only
  refine .trans (.trans (.trans (.trans (t := s.dropWaits n) ?_ ?_) (.setReg _ _ (.inl hn))) (.edge _ 7))
    (.queueAdmin _ 3 _ _ _)
  · exact .of_keeps (State.dropWaits_keeps (List.Subset.refl _) .refl) (by decide) (by decide)
  · exact .of_keeps (State.setRing_keeps (List.Subset.refl _) .refl) (by decide) (by decide)

theorem host_putHost_ne {s : State} {a b : Nat} {bs : List Byte}
    (h : SMap.get byteZero (s.putHost a bs).host b ≠ SMap.get byteZero s.host b) : a ≤ b ∧ b < a + bs.length := by
  refine Decidable.byContradiction fun hout => ?_
  exact h (SMap.get_putList_other bs s.host a b (by omega))

theorem putHost_staysInWindows {s : State} {fn a : Nat} {bs : List Byte} (hok : s.windowOk fn a bs.length = true) :
    StaysInWindows s (s.putHost a bs) :=
  ⟨fun _ _ _ => rfl, fun _ hb => inWindow_of_windowOk hok (host_putHost_ne hb).1 (host_putHost_ne hb).2⟩

/-- A completion's bytes lie in a window of the ring's owner. -/
theorem writeEntry_host_ne {s : State} {n : Nat} {e : CqEntry} {irq : Bool} {b : Nat} (hc : s.canon = true)
    (hb : SMap.get byteZero (s.writeEntry n e irq).host b ≠ SMap.get byteZero s.host b) :
    ∃ w < 64, s.windowHolds w (ownerFn (s.ringOwner n)) b 1 = true := by
  cases hmuted : (s.ring n).muted with
  | true => exact absurd (by unfold State.writeEntry; simp only [hmuted, if_true]) hb
  | false =>
    obtain ⟨hin, hout⟩ := entriesGoToTheQueue s n e irq hc hmuted
    cases hok : s.windowOk (ownerFn (s.ringOwner n)) (s.cqBase n + 32 * (s.ring n).cqTail) 32 with
    | true =>
      have hframe := (hin hok).2.1 b
      by_cases hrange : b < s.cqBase n + 32 * (s.ring n).cqTail ∨ s.cqBase n + 32 * (s.ring n).cqTail + 32 ≤ b
      · exact absurd (hframe hrange) hb
      · exact windowHolds_of_windowOk hok (by omega) (by omega)
    | false => exact absurd (congrArg (fun m => SMap.get byteZero m b) (hout hok).1) hb

theorem StaysInWindows.adminEvents (s : State) (es : List EventEntry) : StaysInWindows s { s with adminEvents := es } :=
  ⟨fun _ _ _ => rfl, fun _ h => absurd rfl h⟩

theorem reg_of_entry {s t v : State} {n a : Nat} {bs : List Byte} {q : Ring} (hv : Keeps [.ctl] s v)
    (ht : t = (v.putHost a bs).setRing n q) (irq : Bool) (src : Nat) {b : Nat} (hb : aPORT ≤ b) :
    (if irq then t.edge src else t).reg b = s.reg b := by
  have hreg : t.reg b = s.reg b := by
    rw [ht]
    exact congrArg (fun m => SMap.get regReset m b) (hv.1 .regs (by decide))
  split
  · rw [State.edge_reg_high hb, hreg]
  · exact hreg

theorem StaysInWindows.writeEntry {s : State} {n : Nat} (hc : s.canon = true) (hn : aRINGn n + 0x18 < aWIN 0)
    (e : CqEntry) (irq : Bool) : StaysInWindows s (s.writeEntry n e irq) := by
  refine ⟨fun a hlo hhi => ?_, fun b hb => ?_⟩
  · cases hmuted : (s.ring n).muted with
    | true => unfold State.writeEntry; simp only [hmuted, if_true]
    | false =>
      cases hok : s.windowOk (ownerFn (s.ringOwner n)) (s.cqBase n + 32 * (s.ring n).cqTail) 32 with
      | true =>
        rw [State.writeEntry_of_window n e irq hmuted hok rfl rfl]
        exact reg_of_entry (chargeCtl_elim_keeps rfl) rfl _ _ (aPORT_le_of_window hlo)
      | false =>
        rw [State.writeEntry_of_no_window n e irq hmuted hok]
        exact (StaysInWindows.trans (.noteRefusal s _ _) (.haltRing _ hn 5)).regs a hlo hhi
  · obtain ⟨w, hw, hholds⟩ := writeEntry_host_ne hc hb
    exact ⟨w, hw, _, hholds⟩

theorem StaysInWindows.flushAdmin (k : Nat) {s : State} (hc : s.canon = true) : StaysInWindows s (State.flushAdmin k s) := by
  induction k generalizing s with
  | zero => exact .refl s
  | succ k ih =>
    unfold State.flushAdmin
    split
    · exact .refl s
    · next e rest _ =>
      split
      · have hc' : ({ s with adminEvents := rest } : State).canon = true := hc
        refine .trans (.adminEvents s rest) (.trans (.writeEntry (n := 0) hc' (by decide) (e.entry 3 0) true) (ih ?_))
        exact (State.writeEntry_keeps (List.Subset.refl _) .refl).2 hc'
      · exact .refl s

theorem StaysInWindows.refuseWrite {s : State} (hc : s.canon = true) (fn a : Nat) :
    StaysInWindows s (s.refuseWrite fn a) :=
  .trans (.noteRefusal s fn a) (.flushAdmin _ ((State.noteRefusal_keeps (List.Subset.refl _) .refl).2 hc))

theorem putAcct_staysInWindows {s : State} (hc : s.canon = true) (a : Nat) (x : Acct) :
    StaysInWindows s (s.putAcct a x) := by
  unfold State.putAcct
  split
  · exact .refl s
  · split
    · next hok =>
      refine putHost_staysInWindows (fn := 0x7F) ?_
      rw [show (x.bytes s.ptp).length = 128 by simp [Acct.bytes, leBytes_length]]
      exact hok
    · exact .refuseWrite hc 0x7F a

theorem getList_length (m : SMap Byte) (a n : Nat) : (SMap.getList byteZero m a n).length = n := by
  induction n generalizing a with
  | zero => rfl
  | succ n ih => exact congrArg (· + 1) (ih (a + 1))

theorem partPieces_total (s : State) (p off n : Nat) : ((s.partPieces p off n).map Prod.snd).sum ≤ n := by
  have hfirst : min n (s.halfBytes - off % s.halfBytes) ≤ n := Nat.min_le_left _ _
  unfold State.partPieces
  simp only [List.map_append, List.sum_append]
  generalize min n (s.halfBytes - off % s.halfBytes) = first at *
  have hpiece : ∀ (x : Nat) k, ((if k = 0 then [] else [(x, k)] : List Range).map Prod.snd).sum ≤ k := by
    intro x k
    split <;> simp
  cases s.partAddr p off <;> cases s.partAddr p (off + first)
  case none.none => simp
  case none.some y => have := hpiece y (n - first); simp only [List.map_nil, List.sum_nil]; omega
  case some.none x => have := hpiece x first; simp only [List.map_nil, List.sum_nil]; omega
  case some.some x y => have h1 := hpiece x first; have h2 := hpiece y (n - first); dsimp only; omega

theorem issuerRead_length (s : State) (i : Issuer) (off n : Nat) : (s.issuerRead i off n).length ≤ n := by
  have htotal : ((s.issuerPieces i off n).map Prod.snd).sum ≤ n := by
    unfold State.issuerPieces
    split
    · exact partPieces_total s _ off n
    · split <;> simp
  have hlen : (s.issuerRead i off n).length = ((s.issuerPieces i off n).map Prod.snd).sum := by
    unfold State.issuerRead
    rw [List.length_flatMap]
    exact congrArg List.sum (List.map_congr_left fun r _ => getList_length s.stack r.1 r.2)
  omega

theorem windowOk_sub {s : State} {fn a len b n : Nat} (h : s.windowOk fn a len = true) (hlo : a ≤ b)
    (hhi : b + n ≤ a + len) : s.windowOk fn b n = true := by
  obtain ⟨w, hw, hholds⟩ := List.any_eq_true.1 h
  refine List.any_eq_true.2 ⟨w, hw, ?_⟩
  simp only [State.windowHolds, Bool.and_eq_true, decide_eq_true_eq] at hholds ⊢
  obtain ⟨⟨⟨hen, hfn⟩, hbase⟩, hend⟩ := hholds
  exact ⟨⟨⟨hen, hfn⟩, by omega⟩, by omega⟩

/-- No byte of the host's memory outside the windows is another one. -/
def HostInWindows (s t : State) : Prop :=
  ∀ b, SMap.get byteZero t.host b ≠ SMap.get byteZero s.host b → s.InWindow b

theorem HostInWindows.of_host_eq {s t u : State} (h : HostInWindows s t) (k : u.host = t.host) : HostInWindows s u :=
  fun b hb => h b (k ▸ hb)

theorem StaysInWindows.then {s t u : State} (h : StaysInWindows s t) (k : HostInWindows t u) : HostInWindows s u := by
  intro b hb
  by_cases hst : SMap.get byteZero t.host b = SMap.get byteZero s.host b
  · obtain ⟨w, hw, fn, hholds⟩ := k b (by rw [hst]; exact hb)
    exact ⟨w, hw, fn, (windowHolds_congr h.regs hw fn b 1) ▸ hholds⟩
  · exact h.host b hst

section
variable {s : State} {d : Desc} {i : Issuer}

theorem failUe_host (b : Nat) : (s.failUe b).host = s.host :=
  (State.failUe_keeps (List.Subset.refl _) .refl).1 .host (by decide)

theorem copyFail_hostInWindows (hc : s.canon = true) {data : Option (List Byte)} {r : State × Result}
    (hfail : s.copyFail d i data = some r) : HostInWindows s r.1 := by
  have hsame : HostInWindows s s := (StaysInWindows.refl s).host
  have hmedia : ∀ o : Option Nat, o.map (fun b => (s.failUe b, s.mediaResult i.partition b)) = some r →
      HostInWindows s r.1 := by
    intro o ho
    obtain ⟨b, _, rfl⟩ := Option.map_eq_some_iff.1 ho
    exact hsame.of_host_eq (failUe_host b)
  unfold State.copyFail at hfail
  dsimp only at hfail
  split at hfail
  · exact Option.some.inj hfail ▸ hsame
  · split at hfail
    · exact Option.some.inj hfail ▸ hsame
    · split at hfail
      · split at hfail
        · cases hfail
        · split at hfail
          · exact Option.some.inj hfail ▸ hsame
          · exact hmedia _ hfail
      · split at hfail
        · exact hmedia _ hfail
        · exact Option.some.inj hfail ▸ (StaysInWindows.refuseWrite hc _ _).host

theorem windowOk_of_copyFail_none (hout : wfield d.words 1 0 0 = 1) (hfail : s.copyFail d i none = none) :
    s.windowOk (ownerFn i.partition) (wpair d.words 4) (wordAt d.words 8).toNat = true := by
  refine Decidable.byContradiction fun hno => ?_
  unfold State.copyFail at hfail
  simp only [hout, hno, Nat.one_ne_zero, if_false] at hfail
  split at hfail
  · cases hfail
  · split at hfail <;> cases hfail

/-- The bytes that a COPY to the host puts there lie within the range that its window check named. -/
theorem copyOut_hostInWindows {fn a len moved left off : Nat} (hok : s.windowOk fn a len = true) :
    HostInWindows s ((s.issuerCorrects i (off + moved) (len - moved - left)).putHost (a + moved)
      (s.issuerRead i (off + moved) (len - moved - left))) := by
  intro b hb
  have hhost : (s.issuerCorrects i (off + moved) (len - moved - left)).host = s.host :=
    (State.issuerCorrects_keeps (List.Subset.refl _) .refl).1 .host (by decide)
  rw [← hhost] at hb
  obtain ⟨hlo, hhi⟩ := host_putHost_ne hb
  have hlen := issuerRead_length s i (off + moved) (len - moved - left)
  exact inWindow_of_windowOk hok (by omega) (by omega)

theorem account_host {f : Acct → Acct} : (s.account i f).host = s.host :=
  (State.account_keeps (List.Subset.refl _) .refl).1 .host (by decide)

theorem finishDesc_host {n : Nat} {r : Result} : (s.finishDesc n d.idx r).host = s.host := rfl

theorem issuerWrite_host {off : Nat} {bs : List Byte} : (s.issuerWrite i off bs).host = s.host :=
  (State.issuerWrite_keeps (List.Subset.refl _) .refl).1 .host (by decide)

theorem copyStep_hostInWindows (hc : s.canon = true) (n : Nat) (data : List Byte) :
    HostInWindows s (s.copyStep n d i data) := by
  unfold State.copyStep
  dsimp only
  generalize hq : State.passUnits i (decide (wfield d.words 1 0 0 = 1)) _ _ _ s = q
  have hpass : Keeps [.parts] s q.1 := State.passUnits_keeps (List.Subset.refl _) .refl _ hq
  generalize ht : State.updDesc _ n d.idx (fun e => { e with moved := (wordAt d.words 8).toNat - q.2 }) = t
  have hst : Keeps [.parts, .rings] s t := by
    rw [← ht]
    exact State.updDesc_keeps (by decide) (State.account_keeps (by decide) (Keeps.refl.lift (by decide) hpass))
  have hct := hst.2 hc
  refine (StaysInWindows.of_keeps hst (by decide) (by decide)).then ?_
  have hsame : HostInWindows t t := (StaysInWindows.refl t).host
  split
  · next hout =>
    split
    · next u r hfail => exact (copyFail_hostInWindows hct hfail).of_host_eq rfl
    · next hfail =>
      have hok := windowOk_of_copyFail_none (of_decide_eq_true hout) hfail
      split
      · exact (copyOut_hostInWindows hok).of_host_eq (finishDesc_host.trans account_host)
      · exact (copyOut_hostInWindows hok).of_host_eq account_host
  · split
    · split
      · next u r hfail => exact (copyFail_hostInWindows hct hfail).of_host_eq rfl
      · exact hsame.of_host_eq (finishDesc_host.trans (account_host.trans issuerWrite_host))
    · exact hsame

end

theorem deviceWritesStayInWindows : Says.DeviceWritesStayInWindows := by
  unfold Says.DeviceWritesStayInWindows
  intro s hc
  exact ⟨fun n e irq b hb => writeEntry_host_ne hc hb, fun a x => (putAcct_staysInWindows hc a x).host,
    fun n d i data => copyStep_hostInWindows hc n data⟩

/-- A register of a window is written by the security block's rule. -/
theorem State.pfWrite_window (s : State) (v : View) {o : Nat} (w : W32) (hhi : o < 0x900) :
    s.pfWrite v (aSEC + o) w = s.secWrite o w := by
  have hnot : ∀ c ≤ aSEC, ¬ aSEC + o < c := fun c h => Nat.not_lt.2 (Nat.le_trans h (Nat.le_add_right _ _))
  have hadmin : aSEC + o < aADMIN := Nat.lt_of_lt_of_le (Nat.add_lt_add_left hhi _) (by decide)
  unfold State.pfWrite
  rw [if_neg (hnot aCFG (by decide)), if_neg (hnot aPWR (by decide)), if_neg (hnot aINTC (by decide)),
    if_neg (hnot aTIME (by decide)), if_neg (hnot aPORT (by decide)), if_neg (hnot aROPE (by decide)),
    if_neg (hnot aPART (by decide)), if_neg (hnot (aPART + 0x1_0000) (by decide)), if_neg (hnot aRING (by decide)),
    if_neg (hnot aBELAY (by decide)), if_neg (hnot aEVR (by decide)), if_neg (hnot aSEC (by decide)), if_pos hadmin,
    Nat.add_sub_cancel_left]

section
variable {s : State} {o : Nat} (hlo : 0x100 ≤ o) (hhi : o < 0x900)
include hlo hhi

theorem State.secWrite_of_locked (hlock : s.rbit aSEC 0 = true) (w : W32) : s.secWrite o w = s := by
  unfold State.secWrite
  rw [if_neg (by omega), if_neg (by omega), if_pos ⟨hlo, hhi⟩, if_pos hlock]

theorem State.secWrite_of_bound (hlock : s.rbit aSEC 0 = false) {p : Nat}
    (hbound : s.windowLocked ((o - 0x100) / 0x20) = some p) (w : W32) : s.secWrite o w = s.setCfgError p 9 := by
  unfold State.secWrite
  rw [if_neg (by omega), if_neg (by omega), if_pos ⟨hlo, hhi⟩, if_neg (by simp [hlock])]
  simp only [hbound]

end

theorem lockedWindowsHold : Says.LockedWindowsHold := by
  unfold Says.LockedWindowsHold
  intro s hup
  refine ⟨congrArg Host.Outcome.next (if_pos hup), fun hlock v a w hlo hhi => ?_,
    fun v n w p hn hlock hp hlt hbound => ?_⟩
  · obtain ⟨o, rfl⟩ := Nat.exists_eq_add_of_le (Nat.le_trans (Nat.le_add_right aSEC 0x100) hlo)
    have ho : 0x100 ≤ o := Nat.le_of_add_le_add_left hlo
    have ho' : o < 0x900 := Nat.lt_of_add_lt_add_left hhi
    rw [State.pfWrite_window s v w ho', State.secWrite_of_locked ho ho' hlock]
  · have hoffset : aWIN n + 0x10 = aSEC + (0x100 + 0x20 * n + 0x10) := by unfold aWIN; omega
    have hlocked : s.windowLocked ((0x100 + 0x20 * n + 0x10 - 0x100) / 0x20) = some p := by
      rw [show (0x100 + 0x20 * n + 0x10 - 0x100) / 0x20 = n by omega]
      subst hp
      exact if_pos ⟨hlt, hbound⟩
    rw [hoffset, State.pfWrite_window s v w (by omega),
      State.secWrite_of_bound (by omega) (by omega) hlock hlocked]

/-- Settles O40. -/
theorem hostWritesStayInWindows : Obligations.HostWritesStayInWindows :=
  ⟨deviceWritesStayInWindows, lockedWindowsHold⟩

end Sys2Proof.Machine
end

section
/-! Bits and fields of a register after a write of a field of it. -/

namespace Sys2Proof.Machine

/-- A word whose bits lo to hi are replaced. -/
theorem setField_toNat (w : W32) (hi lo v : Nat) :
    (setField w hi lo v).toNat = (2 ^ lo * (2 ^ (hi + 1 - lo) * (w.toNat / 2 ^ lo / 2 ^ (hi + 1 - lo)) +
      v % 2 ^ (hi + 1 - lo)) + w.toNat % 2 ^ lo) % 2 ^ 32 := by
  have hsplit : 2 ^ lo * (w.toNat / 2 ^ lo) + w.toNat % 2 ^ lo = w.toNat := Nat.div_add_mod _ _
  have hfield : 2 ^ (hi + 1 - lo) * (w.toNat / 2 ^ lo / 2 ^ (hi + 1 - lo)) + field w hi lo = w.toNat / 2 ^ lo := by
    unfold field natField
    rw [Nat.shiftRight_eq_div_pow]
    exact Nat.div_add_mod _ _
  have hsub : w.toNat - field w hi lo <<< lo + (v % 2 ^ (hi + 1 - lo)) <<< lo =
      2 ^ lo * (2 ^ (hi + 1 - lo) * (w.toNat / 2 ^ lo / 2 ^ (hi + 1 - lo)) + v % 2 ^ (hi + 1 - lo)) +
        w.toNat % 2 ^ lo := by
    simp only [Nat.shiftLeft_eq]
    rw [← hfield, Nat.mul_add] at hsplit
    rw [Nat.mul_comm (field w hi lo), Nat.mul_comm (v % 2 ^ (hi + 1 - lo)) (2 ^ lo), Nat.mul_add]
    omega
  unfold setField
  rw [BitVec.toNat_ofNat, hsub]

theorem bitOf_setField (w : W32) {hi lo : Nat} (hlo : lo ≤ hi) (v : Nat) {j : Nat} (hj : j < 32) :
    bitOf (setField w hi lo v) j = if lo ≤ j ∧ j ≤ hi then v.testBit (j - lo) else bitOf w j := by
  have hx : v % 2 ^ (hi + 1 - lo) < 2 ^ (hi + 1 - lo) := Nat.mod_lt _ (Nat.two_pow_pos _)
  have hl : w.toNat % 2 ^ lo < 2 ^ lo := Nat.mod_lt _ (Nat.two_pow_pos _)
  unfold bitOf
  rw [setField_toNat w, Nat.testBit_mod_two_pow, decide_eq_true hj, Bool.true_and,
    Nat.testBit_two_pow_mul_add _ hl, Nat.testBit_two_pow_mul_add _ hx]
  by_cases h1 : j < lo
  · rw [if_pos h1, if_neg (by omega), Nat.testBit_mod_two_pow, decide_eq_true h1, Bool.true_and]
  · by_cases h2 : j ≤ hi
    · rw [if_neg h1, if_pos (by omega), if_pos (by omega), Nat.testBit_mod_two_pow, decide_eq_true (by omega),
        Bool.true_and]
    · rw [if_neg h1, if_neg (by omega), if_neg (by omega), ← Nat.shiftRight_eq_div_pow, ← Nat.shiftRight_eq_div_pow,
        Nat.testBit_shiftRight, Nat.testBit_shiftRight]
      exact congrArg _ (by omega)

theorem field_testBit (w : W32) (hi lo i : Nat) :
    (field w hi lo).testBit i = (decide (i < hi + 1 - lo) && bitOf w (lo + i)) := by
  unfold field natField bitOf
  rw [Nat.testBit_mod_two_pow, Nat.testBit_shiftRight]

theorem field_setField_self (w : W32) {hi lo : Nat} (hlo : lo ≤ hi) (hhi : hi < 32) (v : Nat) :
    field (setField w hi lo v) hi lo = v % 2 ^ (hi + 1 - lo) := by
  refine Nat.eq_of_testBit_eq fun i => ?_
  rw [field_testBit, Nat.testBit_mod_two_pow]
  by_cases hi' : i < hi + 1 - lo
  · rw [bitOf_setField w hlo v (by omega), if_pos (by omega), Nat.add_sub_cancel_left]
  · rw [decide_eq_false hi', Bool.false_and, Bool.false_and]

theorem field_setField_other (w : W32) {hi lo hi' lo' : Nat} (hlo : lo ≤ hi) (hhi' : hi' < 32)
    (hapart : hi < lo' ∨ hi' < lo) (v : Nat) : field (setField w hi lo v) hi' lo' = field w hi' lo' := by
  refine Nat.eq_of_testBit_eq fun i => ?_
  rw [field_testBit, field_testBit]
  by_cases hi' : i < hi' + 1 - lo'
  · rw [bitOf_setField w hlo v (by omega), if_neg (by omega)]
  · rw [decide_eq_false hi', Bool.false_and, Bool.false_and]

@[simp] theorem bitOf_setBit_self (w : W32) {i : Nat} (hi : i < 32) (b : Bool) : bitOf (setBit w i b) i = b := by
  unfold setBit
  rw [bitOf_setField w (Nat.le_refl i) _ hi, if_pos ⟨Nat.le_refl i, Nat.le_refl i⟩, Nat.sub_self]
  cases b <;> rfl

theorem bitOf_setBit_other (w : W32) {i j : Nat} (hj : j < 32) (h : j ≠ i) (b : Bool) :
    bitOf (setBit w i b) j = bitOf w j := by
  unfold setBit
  rw [bitOf_setField w (Nat.le_refl i) _ hj, if_neg (by omega)]

section
variable {s : State} (hc : s.canon = true)
include hc

theorem State.rf_setRf_self (a : Nat) {hi lo : Nat} (hlo : lo ≤ hi) (hhi : hi < 32) (v : Nat) :
    (s.setRf a hi lo v).rf a hi lo = v % 2 ^ (hi + 1 - lo) := by
  unfold State.rf State.setRf
  rw [State.reg_setReg_self _ _ _ (State.wf_regs hc), field_setField_self _ hlo hhi]

theorem State.rf_bumpRf_self (a : Nat) {hi lo : Nat} (hlo : lo ≤ hi) (hhi : hi < 32) (n : Nat) :
    (s.bumpRf a hi lo n).rf a hi lo = min (2 ^ (hi + 1 - lo) - 1) (s.rf a hi lo + n) := by
  unfold State.bumpRf
  rw [State.rf_setRf_self hc a hlo hhi]
  have hpos : 0 < 2 ^ (hi + 1 - lo) := Nat.two_pow_pos _
  exact Nat.mod_eq_of_lt (by unfold satAdd; omega)

theorem State.rbit_setRbit_self (a : Nat) {i : Nat} (hi : i < 32) (b : Bool) : (s.setRbit a i b).rbit a i = b := by
  unfold State.rbit State.setRbit
  rw [State.reg_setReg_self _ _ _ (State.wf_regs hc), bitOf_setBit_self _ hi]

end

end Sys2Proof.Machine
end

section
/-! O41, the edges of sources and the host's interrupt accesses (09 R305, R339, R340, R342). -/

namespace Sys2Proof.Machine

section
variable {s t : State} {src : Nat}

/-- The state of an edge that has counted and pends, before it is sent. -/
theorem State.edge_of_live (hlive : sourceLive src = true)
    (ht : t = (s.bumpRf (aCNT (src / 4)) (8 * (src % 4) + 7) (8 * (src % 4)) 1).setPend src true) :
    s.edge src = if !(s.pendBit src) && s.enBit src then t.fireSource src else t := by
  subst ht
  exact if_pos hlive

theorem lt_of_sourceLive (hlive : sourceLive src = true) : src < 4096 := by
  simp only [sourceLive, Bool.and_eq_true, decide_eq_true_eq] at hlive
  exact hlive.1.2

/-- Counting and pending an edge write the count and pending registers alone. -/
theorem reg_of_counted (hsrc : src < 4096)
    (ht : t = (s.bumpRf (aCNT (src / 4)) (8 * (src % 4) + 7) (8 * (src % 4)) 1).setPend src true) {a : Nat}
    (ha : aINTC + 0x4000 ≤ a) : t.reg a = s.reg a := by
  subst ht
  exact (State.reg_setReg_other _ _ _ _ (by unfold aPEND; omega)).trans
    (State.reg_setReg_other _ _ _ _ (by unfold aCNT; omega))

theorem keeps_of_counted (ht : t = (s.bumpRf (aCNT (src / 4)) (8 * (src % 4) + 7) (8 * (src % 4)) 1).setPend src true) :
    Keeps [.regs] s t :=
  ht ▸ State.setPend_keeps (List.Subset.refl _) (State.bumpRf_keeps (List.Subset.refl _) .refl)

theorem State.pendBit_setPend_self (hc : s.canon = true) (src : Nat) (b : Bool) : (s.setPend src b).pendBit src = b :=
  State.rbit_setRbit_self hc _ (Nat.mod_lt _ (by decide)) b

theorem counted_of_edge (hc : s.canon = true)
    (ht : t = (s.bumpRf (aCNT (src / 4)) (8 * (src % 4) + 7) (8 * (src % 4)) 1).setPend src true) :
    t.rf (aCNT (src / 4)) (8 * (src % 4) + 7) (8 * (src % 4)) =
      min 255 (s.rf (aCNT (src / 4)) (8 * (src % 4) + 7) (8 * (src % 4)) + 1) := by
  have hwidth : 8 * (src % 4) + 7 + 1 - 8 * (src % 4) = 8 := by omega
  have hpend : t.reg (aCNT (src / 4)) =
      (s.bumpRf (aCNT (src / 4)) (8 * (src % 4) + 7) (8 * (src % 4)) 1).reg (aCNT (src / 4)) := by
    rw [ht]
    exact State.reg_setReg_other _ _ _ _ (by unfold aCNT aPEND; omega)
  refine (congrArg (field · _ _) hpend).trans ?_
  refine (State.rf_bumpRf_self hc (aCNT (src / 4)) (by omega) (by omega) 1).trans ?_
  exact congrArg (fun n => min (2 ^ n - 1) (s.rf (aCNT (src / 4)) (8 * (src % 4) + 7) (8 * (src % 4)) + 1)) hwidth

theorem vectorOwner_congr (hparts : t.parts = s.parts) (hreg : ∀ a, aINTC + 0x4000 ≤ a → t.reg a = s.reg a) (v : Nat) :
    t.vectorOwner v = s.vectorOwner v := by
  have hrange : ∀ p, t.vecRange p = s.vecRange p := by
    intro p
    have h : t.reg (aPARTp p + 0x18) = s.reg (aPARTp p + 0x18) := hreg _ (by unfold aINTC aPARTp aPART; omega)
    unfold State.vecRange State.rf
    rw [h]
  have henabled : t.enabledParts = s.enabledParts := by
    unfold State.enabledParts State.enabled State.part
    rw [hparts]
  unfold State.vectorOwner
  simp only [hrange, henabled]

theorem sourceVector_congr (hreg : ∀ a, aINTC + 0x4000 ≤ a → t.reg a = s.reg a) (src : Nat) :
    t.sourceVector src = s.sourceVector src :=
  congrArg (field · 10 0) (hreg _ (by unfold aMAP; omega))

theorem vectorEntry_congr (hparts : t.parts = s.parts) (hreg : ∀ a, aINTC + 0x4000 ≤ a → t.reg a = s.reg a) (v : Nat) :
    t.vectorEntry v = s.vectorEntry v := by
  have hrange : ∀ p, t.vecRange p = s.vecRange p := fun p =>
    congrArg (fun w => (field w 10 0, field w 27 16)) (hreg _ (by unfold aINTC aPARTp aPART; omega))
  unfold State.vectorEntry
  simp only [vectorOwner_congr hparts hreg, hrange]

theorem autoClear_congr (hparts : t.parts = s.parts) (hreg : ∀ a, aINTC + 0x4000 ≤ a → t.reg a = s.reg a) (src : Nat) :
    t.autoClear src = s.autoClear src := by
  unfold State.autoClear
  rw [sourceVector_congr hreg, vectorOwner_congr hparts hreg]
  exact congrArg _ (congrArg (bitOf · 16) (hreg _ (by unfold aMAP; omega)))

theorem State.sendMsix_outs (hq : s.sec.quiesced = false) (fn entry v : Nat) :
    (s.sendMsix fn entry v).outs = .msix fn entry :: s.outs := by
  unfold State.sendMsix
  rw [if_neg (by simp [hq])]
  rfl

/-- A message's time stamp lies above the registers of the interrupt block. -/
theorem State.sendMsix_reg_below (fn entry v : Nat) {a : Nat} (ha : a < aTIME + 0x8000) :
    (s.sendMsix fn entry v).reg a = s.reg a := by
  have hstamp : a < aSTAMP v := Nat.lt_of_lt_of_le ha (Nat.le_add_right _ _)
  unfold State.sendMsix
  split
  · rfl
  · dsimp only
    rw [State.reg_setReg_other _ _ _ _ (by omega), State.reg_setReg_other _ _ _ _ (by omega)]
    split <;> rfl

theorem State.sendMsix_pendBit (hsrc : src < 4096) (fn entry v : Nat) :
    (s.sendMsix fn entry v).pendBit src = s.pendBit src :=
  congrArg (bitOf · (src % 32)) (State.sendMsix_reg_below fn entry v (by unfold aPEND aINTC aTIME; omega))

theorem State.fireSource_of_masked {fn e : Nat} (hentry : s.vectorEntry (s.sourceVector src) = (fn, e))
    (hmasked : s.masked fn e = true) (hc : s.canon = true) :
    (s.fireSource src).outs = s.outs ∧ (s.fireSource src).pbaBit fn e = true := by
  unfold State.fireSource
  simp only [hentry, hmasked, if_true]
  exact ⟨rfl, SMap.get_put_self _ _ _ (State.wf_pba hc)⟩

theorem State.fireSource_of_unmasked {fn e : Nat} (hentry : s.vectorEntry (s.sourceVector src) = (fn, e))
    (hmasked : s.masked fn e = false) (hc : s.canon = true) (hq : s.sec.quiesced = false) (hsrc : src < 4096)
    (hpend : s.pendBit src = true) :
    (s.fireSource src).outs = .msix fn e :: s.outs ∧ (s.fireSource src).pendBit src = !(s.autoClear src) := by
  unfold State.fireSource
  simp only [hentry, hmasked, Bool.false_eq_true, if_false]
  have hsent := (State.sendMsix_keeps (a1 := fn) (a2 := e) (a3 := s.sourceVector src) (List.Subset.refl _)
    (Keeps.refl (s := s))).2 hc
  cases s.autoClear src with
  | true => exact ⟨State.sendMsix_outs hq .., State.pendBit_setPend_self hsent src false⟩
  | false => exact ⟨State.sendMsix_outs hq .., (State.sendMsix_pendBit hsrc ..).trans hpend⟩

end

theorem sourceEdges : Says.SourceEdges := by
  unfold Says.SourceEdges
  intro s src hc
  refine ⟨fun hdead => if_neg (by simp [hdead]), fun hlive hen => ?_, fun hlive hen hpend hq => ?_⟩
  · rw [State.edge_of_live hlive rfl, if_neg (by simp [hen])]
    have hkeeps := keeps_of_counted (s := s) (src := src) rfl
    exact ⟨State.pendBit_setPend_self ((State.bumpRf_keeps (List.Subset.refl _) .refl).2 hc) src true,
      hkeeps.1 .outs (by decide), counted_of_edge hc rfl⟩
  · intro e
    generalize ht : (s.bumpRf (aCNT (src / 4)) (8 * (src % 4) + 7) (8 * (src % 4)) 1).setPend src true = t
    have hsrc := lt_of_sourceLive hlive
    have hkeeps := keeps_of_counted ht.symm
    have hparts : t.parts = s.parts := hkeeps.1 .parts (by decide)
    have hreg : ∀ a, aINTC + 0x4000 ≤ a → t.reg a = s.reg a := fun a => reg_of_counted hsrc ht.symm
    have hmask : ∀ fn i, t.masked fn i = s.masked fn i := fun fn i =>
      congrArg (fun m => bitOf (SMap.get msixReset m (msixKey fn i + 12)) 0) (hkeeps.1 .msixT (by decide))
    have houts : t.outs = s.outs := hkeeps.1 .outs (by decide)
    have hpended : t.pendBit src = true :=
      ht ▸ State.pendBit_setPend_self ((State.bumpRf_keeps (List.Subset.refl _) .refl).2 hc) src true
    have hentry : t.vectorEntry (t.sourceVector src) = e := by
      rw [sourceVector_congr hreg, vectorEntry_congr hparts hreg]
    rw [State.edge_of_live hlive ht.symm, if_pos (by simp [hpend, hen])]
    refine ⟨fun hunmasked => ?_, fun hmasked => ?_⟩
    · have hsec : t.sec = s.sec := hkeeps.1 .sec (by decide)
      rw [← houts, ← autoClear_congr hparts hreg]
      exact State.fireSource_of_unmasked hentry ((hmask ..).trans hunmasked) (hkeeps.2 hc) (by rw [hsec, hq]) hsrc hpended
    · rw [← houts]
      exact State.fireSource_of_masked hentry ((hmask ..).trans hmasked) (hkeeps.2 hc)

section
variable {s : State} {fn e : Nat} (hup : s.up = true) (hfn : fn ≤ 64) (he : e < 2048)
include hup hfn he

theorem msixUnmask_of_in_range {t u : State}
    (ht : t = ({ s with
      msixT := SMap.put msixReset s.msixT (msixKey fn e + 12)
        (setBit (SMap.get msixReset s.msixT (msixKey fn e + 12)) 0 false) } : State))
    (hu : u = (t.setPba fn e false).sendMsix fn e (t.entryVector fn e)) :
    msixUnmask fn e s = if t.pbaBit fn e then
      (u.msixHeld.filter (fun h => decide (h.2 = t.entryVector fn e) && u.autoClear h.1)).foldl
        (fun w h => w.setPend h.1 false)
        { u with msixHeld := u.msixHeld.filter (fun h => decide (h.2 ≠ t.entryVector fn e)) }
      else t := by
  subst ht hu
  exact if_pos (by simp [hup, hfn, he])

omit hup hfn he in
theorem masked_of_unmasked (hc : s.canon = true) {t : State}
    (ht : t.msixT = SMap.put msixReset s.msixT (msixKey fn e + 12)
      (setBit (SMap.get msixReset s.msixT (msixKey fn e + 12)) 0 false)) : t.masked fn e = false := by
  unfold State.masked
  rw [ht, SMap.get_put_self _ _ _ (State.wf_msixT hc)]
  exact bitOf_setBit_self _ (by decide) false

theorem msixUnmask_quiet (hc : s.canon = true) (hpba : s.pbaBit fn e = false) :
    (msixUnmask fn e s).masked fn e = false ∧ WritesOnly [.msixT] s (msixUnmask fn e s) := by
  rw [msixUnmask_of_in_range hup hfn he rfl rfl, if_neg (by
    rw [Bool.not_eq_true]
    exact hpba)]
  refine ⟨masked_of_unmasked hc rfl, fun f hf => ?_⟩
  cases f with
  | msixT => exact absurd List.mem_cons_self hf
  | _ => rfl

theorem msixUnmask_sends (hc : s.canon = true) (hpba : s.pbaBit fn e = true) (hq : s.sec.quiesced = false) :
    (msixUnmask fn e s).masked fn e = false ∧ (msixUnmask fn e s).pbaBit fn e = false ∧
      (msixUnmask fn e s).outs = .msix fn e :: s.outs := by
  generalize ht : ({ s with
    msixT := SMap.put msixReset s.msixT (msixKey fn e + 12)
      (setBit (SMap.get msixReset s.msixT (msixKey fn e + 12)) 0 false) } : State) = t
  generalize hu : (t.setPba fn e false).sendMsix fn e (t.entryVector fn e) = u
  have hsend : Keeps [.regs, .outs, .ctl] (t.setPba fn e false) u :=
    hu ▸ State.sendMsix_keeps (List.Subset.refl _) .refl
  have hpba' : t.pbaBit fn e = true := ht ▸ hpba
  rw [msixUnmask_of_in_range hup hfn he ht.symm hu.symm, if_pos hpba']
  generalize hv : ({ u with msixHeld := u.msixHeld.filter (fun h => decide (h.2 ≠ t.entryVector fn e)) } : State) = v
  have hfold : Keeps [.regs] v ((u.msixHeld.filter (fun h => decide (h.2 = t.entryVector fn e) && u.autoClear h.1)).foldl
      (fun w h => w.setPend h.1 false) v) :=
    Keeps.foldl (fun _ _ h => State.setPend_keeps (List.Subset.refl _) h) _ .refl
  refine ⟨masked_of_unmasked hc ?_, ?_, ?_⟩
  · rw [show _ = v.msixT from hfold.1 .msixT (by decide), ← hv]
    exact (show u.msixT = t.msixT from hsend.1 .msixT (by decide)).trans (ht ▸ rfl)
  · unfold State.pbaBit
    rw [show _ = v.pba from hfold.1 .pba (by decide), ← hv, show _ = (t.setPba fn e false).pba from hsend.1 .pba (by decide)]
    have hpba : t.pba = s.pba := ht ▸ rfl
    exact SMap.get_put_self _ _ _ (hpba ▸ State.wf_pba hc)
  · rw [show _ = v.outs from hfold.1 .outs (by decide), ← hv]
    have hq' : (t.setPba fn e false).sec.quiesced = false := ht ▸ hq
    have houts : (t.setPba fn e false).outs = s.outs := ht ▸ rfl
    exact (hu ▸ State.sendMsix_outs hq' fn e (t.entryVector fn e)).trans (by rw [houts])

end

theorem interruptAccesses : Says.InterruptAccesses := by
  unfold Says.InterruptAccesses
  intro s hup
  refine ⟨fun n v hn => ⟨congrArg Host.Outcome.next (if_pos (by simp [hup, hn])),
      congrArg Host.Outcome.next (if_pos (by simp [hup, hn]))⟩, fun fn e hfn he hc => ⟨fun hpba => ?_, fun hpba hq => ?_⟩,
    fun w r hw hr => ⟨fun hw8 hr64 => ?_, fun hnarrow => ?_⟩, fun hide => ?_⟩
  · exact ⟨_, rfl, msixUnmask_quiet hup hfn he hc hpba⟩
  · exact ⟨_, rfl, msixUnmask_sends hup hfn he hc hpba hq⟩
  · exact congrArg Host.Outcome.next ((if_pos ⟨hw, hr⟩).trans (if_neg (by omega)))
  · exact congrArg Host.Outcome.next ((if_pos ⟨hw, hr⟩).trans (if_pos hnarrow))
  · exact congrArg Host.Outcome.next (if_pos (by simp [hup, hide]))

/-- Settles O41. -/
theorem interruptEdges : Obligations.InterruptEdges :=
  ⟨sourceEdges, interruptAccesses⟩

end Sys2Proof.Machine
end

section
/-! O42, CXL.mem accesses (09 R306; 08 R289; 10 R346, R350; 13 R450). -/

namespace Sys2Proof.Machine

section
variable {s : State} {a : Nat} {bs : List Byte} {st : Option Nat} {tr : Bool}

theorem State.tspBlocks_iff : s.tspBlocks a st tr = true ↔ ∃ p, s.halfOwner (a / s.halfBytes) = some p ∧
    2 ≤ (s.part p).tsp ∧ ¬(tr = true ∧ st = some (s.part p).stream) := by
  unfold State.tspBlocks
  cases s.halfOwner (a / s.halfBytes) with
  | none => simp
  | some p => cases tr <;> simp

theorem State.putStack_of_sound (hweak : s.weak = []) : s.putStack a bs = { s with
    stack := SMap.putList byteZero s.stack a bs
    ue := s.ue.filter (fun b => !(decide (a ≤ 64 * b) && decide (64 * b + 64 ≤ a + bs.length))) } := by
  unfold State.putStack State.writeMem
  simp only [hweak, List.filter_nil, List.foldl_nil]

section
variable (hfree : s.tspBlocks a st tr = false)
include hfree

theorem State.cxlWrite_of_ue {b : Nat} (hue : s.ueInWrite a bs.length = some b) : s.cxlWrite a bs st tr = s.failUe b := by
  unfold State.cxlWrite
  simp only [hfree, Bool.false_eq_true, if_false, hue]

theorem State.cxlWrite_of_clear (hue : s.ueInWrite a bs.length = none)
    (hclear : ∀ p, s.halfOwner (a / s.halfBytes) = some p → s.protectedHit p (s.partOffset p a) bs = none) :
    s.cxlWrite a bs st tr = s.putStack a bs := by
  unfold State.cxlWrite
  simp only [hfree, Bool.false_eq_true, if_false, hue]
  cases howner : s.halfOwner (a / s.halfBytes) with
  | none => rfl
  | some p => simp only [hclear p howner]

theorem State.cxlWrite_of_protected (hue : s.ueInWrite a bs.length = none) {p k : Nat}
    (howner : s.halfOwner (a / s.halfBytes) = some p) (hhit : s.protectedHit p (s.partOffset p a) bs = some k) :
    s.cxlWrite a bs st tr = s.postPart p 0x09 (lo32 (s.partOffset p a)) (hi32 (s.partOffset p a)) (lo32 k) 0 := by
  unfold State.cxlWrite
  simp only [hfree, Bool.false_eq_true, if_false, hue, howner, hhit]

theorem State.cxlRead_of_clear {n : Nat} (hue : s.ueInRead a n = none) : s.cxlRead a n st tr =
    { s.corrects [(a, n)] with outs := .memData (s.readMem .stack a n) :: (s.corrects [(a, n)]).outs } := by
  unfold State.cxlRead
  simp only [hfree, Bool.false_eq_true, if_false, hue]

theorem State.cxlRead_of_ue {n b : Nat} (hue : s.ueInRead a n = some b) :
    s.cxlRead a n st tr = { s.failUe b with outs := .cxlError :: (s.failUe b).outs } := by
  unfold State.cxlRead
  simp only [hfree, Bool.false_eq_true, if_false, hue]

end
end

/-- Settles O42. -/
theorem cxlMemAccesses : Obligations.CxlMemAccesses := by
  unfold Obligations.CxlMemAccesses
  intro s a bs st tr hawake hc hrange own
  have hwrite : exec (.cxlMemWrite a bs st tr) s = .next (s.cxlWrite a bs st tr) :=
    (if_pos hrange).trans (congrArg Host.Outcome.next (if_pos hawake))
  have hread : exec (.cxlMemRead a bs.length st tr) s = .next (s.cxlRead a bs.length st tr) :=
    (if_pos hrange).trans (congrArg Host.Outcome.next (if_pos hawake))
  rw [hwrite, hread]
  refine ⟨fun hfree => ⟨fun hue => ⟨fun hclear => ?_, fun p k howner hhit => ?_⟩, fun b hue => ?_, fun hue => ?_,
    fun b hue => ?_⟩, fun hblocked => ⟨congrArg Host.Outcome.next (if_pos hblocked),
      congrArg Host.Outcome.next (if_pos hblocked)⟩, State.tspBlocks_iff, fun hweak => ⟨?_, fun b hb => ?_, fun f hf => ?_⟩⟩
  · exact congrArg Host.Outcome.next (State.cxlWrite_of_clear hfree hue hclear)
  · exact congrArg Host.Outcome.next (State.cxlWrite_of_protected hfree hue howner hhit)
  · exact congrArg Host.Outcome.next (State.cxlWrite_of_ue hfree hue)
  · exact congrArg Host.Outcome.next (State.cxlRead_of_clear hfree hue)
  · exact congrArg Host.Outcome.next (State.cxlRead_of_ue hfree hue)
  · rw [State.putStack_of_sound hweak]
    exact SMap.getList_putList bs s.stack a (State.wf_stack hc)
  · rw [State.putStack_of_sound hweak]
    exact SMap.get_putList_other bs s.stack a b hb
  · rw [State.putStack_of_sound hweak]
    cases f with
    | stack => exact absurd (by decide) hf
    | ue => exact absurd (by decide) hf
    | _ => rfl

end Sys2Proof.Machine
end

section
/-! O43, refresh, patrol and row repair of the stacks (10 R346, R348 to R352). -/

namespace Sys2Proof.Machine

section
variable {s : State}

theorem refresh_of_in_range {st ch b : Nat} {temp base : Int} {lost : List (Nat × Bool)} (hup : s.up = true)
    (hst : st < 24) (hch : ch < 32) (hb : b < 48) {u t : State} (hu : u = s.setStackTemp st temp)
    (ht : t = ({ u with
      power := { u.power with baseTemp := SMap.put (fun _ => 0) u.power.baseTemp st base } } : State).decay st ch b lost) :
    refresh st ch b temp base lost s =
      if (s.bankRefresh (bankKey st ch b)).time + refreshNs (s.bankRefresh (bankKey st ch b)).band ≤ s.now then
        { t with
          stackSt := { t.stackSt with
            refresh := SMap.put (fun _ => ⟨0, 0⟩) t.stackSt.refresh (bankKey st ch b) ⟨s.now, bandOf temp⟩ } }
      else t := by
  subst hu ht
  exact if_pos (by simp [hup, hst, hch, hb])

theorem decayed_keeps {st ch b : Nat} {temp base : Int} {lost : List (Nat × Bool)} {u t : State}
    (hu : u = s.setStackTemp st temp)
    (ht : t = ({ u with
      power := { u.power with baseTemp := SMap.put (fun _ => 0) u.power.baseTemp st base } } : State).decay st ch b lost) :
    t.stack = s.stack ∧ t.stackSt = s.stackSt := by
  have hdecay := State.decay_keeps (a1 := st) (a2 := ch) (a3 := b) (a4 := lost) (List.Subset.refl _)
    (Keeps.refl (s := { u with power := { u.power with baseTemp := SMap.put (fun _ => 0) u.power.baseTemp st base } }))
  have hstack : t.stack = u.stack := ht ▸ hdecay.1 .stack (by decide)
  have hstackSt : t.stackSt = u.stackSt := ht ▸ hdecay.1 .stackSt (by decide)
  exact ⟨hstack.trans (hu ▸ rfl), hstackSt.trans (hu ▸ rfl)⟩

section
variable {b : Nat} (hup : s.up = true) (hb : 64 * b < s.memBytes)
include hup hb

theorem patrolRead_of_clean {w : PatrolRead} (hfinds : s.patrolFinds b w = .clean) : patrolRead b w s = s := by
  unfold patrolRead
  rw [if_pos (by simp [hup, hb])]
  simp only [hfinds]

theorem patrolRead_of_corrected {w : PatrolRead} (hfinds : s.patrolFinds b w = .corrected) : patrolRead b w s =
    { s.stackCorrected b with weak := (s.stackCorrected b).weak.filter (fun e => decide (e ≠ b)) } := by
  unfold patrolRead
  rw [if_pos (by simp [hup, hb])]
  simp only [hfinds]

theorem patrolRead_of_uncorrectable {w : PatrolRead} (hfinds : s.patrolFinds b w = .uncorrectable) {t : State}
    (ht : t = { s with
      ue := if b ∈ s.ue then s.ue else s.ue ++ [b], weak := s.weak.filter (fun e => decide (e ≠ b)) }) :
    patrolRead b w s = t.recordUe b (t.stackTemp (t.blockStack b)) := by
  subst ht
  unfold patrolRead
  rw [if_pos (by simp [hup, hb])]
  simp only [hfinds]

theorem patrolRead_notes_uncorrectable {w : PatrolRead} (hfinds : s.patrolFinds b w = .uncorrectable) {t : State}
    (ht : t = patrolRead b w s) : b ∈ t.ue ∧ b ∉ t.weak ∧
      (∀ e, e ≠ b → ((e ∈ t.ue ↔ e ∈ s.ue) ∧ (e ∈ t.weak ↔ e ∈ s.weak))) ∧ t.stack = s.stack := by
  rw [patrolRead_of_uncorrectable hup hb hfinds rfl] at ht
  generalize hu : ({ s with
    ue := if b ∈ s.ue then s.ue else s.ue ++ [b], weak := s.weak.filter (fun e => decide (e ≠ b)) } : State) = u at ht
  have hnote : Keeps _ u t := ht ▸ State.recordUe_keeps (List.Subset.refl _) .refl
  have hue : t.ue = if b ∈ s.ue then s.ue else s.ue ++ [b] := (hnote.1 .ue (by decide)).trans (hu ▸ rfl)
  have hweak : t.weak = s.weak.filter (fun e => decide (e ≠ b)) := (hnote.1 .weak (by decide)).trans (hu ▸ rfl)
  have hstack : t.stack = s.stack := (hnote.1 .stack (by decide)).trans (hu ▸ rfl)
  rw [hue, hweak]
  refine ⟨?_, by simp, fun e he => ⟨?_, by simp [he]⟩, hstack⟩
  · split
    · assumption
    · simp
  · split <;> simp [he]

end

theorem State.patrolFinds_of_ue {b : Nat} (hue : b ∈ s.ue) (w : PatrolRead) : s.patrolFinds b w = .uncorrectable :=
  if_pos hue

theorem State.patrolFinds_of_sound {b : Nat} (hue : b ∉ s.ue) (w : PatrolRead) (hw : w ≠ .clean) :
    s.patrolFinds b w = w := by
  unfold State.patrolFinds
  rw [if_neg hue]
  cases w with
  | clean => exact absurd rfl hw
  | corrected => rfl
  | uncorrectable => rfl

theorem State.patrolFinds_clean {b : Nat} (hue : b ∉ s.ue) :
    s.patrolFinds b .clean = if b ∈ s.weak then .corrected else .clean := if_neg hue

end

theorem stackCommandsAct : Says.StackCommandsAct := by
  unfold Says.StackCommandsAct
  intro s hup
  refine ⟨fun st ch b temp base lost hst hch hb => ?_, fun b hb => ?_⟩
  · intro x u t
    obtain ⟨hstack, hstackSt⟩ := decayed_keeps (s := s) (u := u) (t := t) rfl rfl
    have hrefresh := refresh_of_in_range (temp := temp) (base := base) (lost := lost) hup hst hch hb rfl rfl
    exact ⟨congrArg (fun r : Stacks => SMap.get (fun _ => (⟨0, 0⟩ : BankRefresh)) r.refresh (bankKey st ch b)) hstackSt, hstack,
      fun hdue => congrArg Host.Outcome.next (hrefresh.trans (if_pos hdue)),
      fun hearly => congrArg Host.Outcome.next (hrefresh.trans (if_neg (Nat.not_le.2 hearly)))⟩
  · intro c
    refine ⟨fun hue hweak => ?_, fun hue hweak w hw => ?_, fun hue => ?_, ?_, fun w hw => ?_⟩
    · exact congrArg Host.Outcome.next
        (patrolRead_of_clean hup hb ((State.patrolFinds_clean hue).trans (if_neg hweak)))
    · refine congrArg Host.Outcome.next (patrolRead_of_corrected hup hb ?_)
      cases w with
      | clean => exact (State.patrolFinds_clean hue).trans (if_pos hweak)
      | corrected => exact State.patrolFinds_of_sound hue _ (by decide)
      | uncorrectable => exact absurd rfl hw
    · exact congrArg Host.Outcome.next
        (patrolRead_of_corrected hup hb (State.patrolFinds_of_sound hue _ (by decide)))
    · exact (State.stackCorrected_keeps (List.Subset.refl _) .refl).1 .stack (by decide)
    · have hfinds : s.patrolFinds b w = .uncorrectable := by
        by_cases hue : b ∈ s.ue
        · exact State.patrolFinds_of_ue hue w
        · obtain rfl := hw.resolve_right hue
          exact State.patrolFinds_of_sound hue _ (by decide)
      exact ⟨_, rfl, patrolRead_notes_uncorrectable hup hb hfinds rfl⟩

theorem refreshBands : Says.RefreshBands := by
  unfold Says.RefreshBands bandOf
  intro t
  refine ⟨fun hlow => ?_, fun hlow hmid => ?_, fun hhigh => ?_⟩
  · rw [if_pos (by omega)]
    rfl
  · rw [if_neg (by omega), if_pos (by omega)]
    rfl
  · rw [if_neg (by omega), if_neg (by omega)]
    rfl

/-- A row that is repaired takes one of the spares that its bank has left. -/
theorem State.repairRow_of_left {s : State} {r : RowId} (hleft : 0 < s.rowsLeft r) {t : State}
    (ht : t = s.repairRow r) :
    t.stackSt.repaired = s.stackSt.repaired ++ [r] ∧ t.ue = s.ue ∧ t.stack = s.stack := by
  unfold State.repairRow at ht
  rw [if_neg (Nat.pos_iff_ne_zero.1 hleft)] at ht
  generalize hu : ({ s with
    stackSt := { s.stackSt with repaired := s.stackSt.repaired ++ [r] }
    weak := s.weak.filter (fun b => decide (s.blockRow b ≠ r))
    units := { s.units with
      faults := s.units.faults.filter (fun f => decide (f.key ≠ .stackRow r.stack r.channel r.bank r.row)) } } : State) = u
    at ht
  have hrecord : Keeps _ u t := ht ▸ State.record_keeps (List.Subset.refl _) .refl
  have hst : t.stackSt = u.stackSt := hrecord.1 .stackSt (by decide)
  rw [hst]
  exact ⟨hu ▸ rfl, (hrecord.1 .ue (by decide)).trans (hu ▸ rfl), (hrecord.1 .stack (by decide)).trans (hu ▸ rfl)⟩

theorem rowsAreRepaired : Says.RowsAreRepaired := by
  unfold Says.RowsAreRepaired
  intro s r
  refine ⟨fun hnone => if_pos hnone, fun hleft => ?_⟩
  obtain ⟨hrepaired, hue, hstack⟩ := State.repairRow_of_left hleft rfl
  refine ⟨?_, by rw [hrepaired]; simp, hue, hstack⟩
  unfold State.rowsLeft
  rw [hrepaired, List.filter_append, List.length_append]
  simp [Nat.sub_sub]

/-- Settles O43. -/
theorem stacksAreMaintained : Obligations.StacksAreMaintained :=
  ⟨stackCommandsAct, refreshBands, rowsAreRepaired⟩

end Sys2Proof.Machine
end

section
/-! O44, the Rope commands that a kernel issues and their checks at the source (11 R362, R366 to R371, R374, R380). -/

namespace Sys2Proof.Machine

/-- A Rope command that takes its place with a failure (11 R374). -/
def State.ropeIssueFailed (s : State) (k : Kernel) (p kid idx : Nat) (c : List W32) (r : InsRec) (g : RopeTarget)
    (e : Result) : State :=
  ((s.putIns kid r).addCmd k p idx c g [] (some (e.at' k.kidx idx)) false).settleRope

section
variable {s : State} {kid idx p op aop : Nat} {words : List W32} {h : RopeHomes} {k : Kernel} {c : List W32} {die : Nat}
  {x : Site} {r : InsRec} (hk : s.kernel kid = some k) (hp : k.part = some p)
  (hready : (s.awake && decide (k.kind = .run) && k.clean idx && k.committedTo idx && (k.insAt idx).isNone
    && decide (s.ropeBusy p k.ctx < 256)) = true)
  (hc : c = (List.range 16).map (wordAt words)) (hdie : die = ((k.tiles.head?).map Prod.fst).getD 0)
  (hx : x = k.site die noTile) (hr : r = { InsRec.fresh idx die noTile [] s.now with phase := .held })
  (hop : rcOp c = op) (haop : op ≠ 3 ∨ rcAop c = aop)
include hk hp hready hc hdie hx hr hop haop

theorem ropeIssue_of_bad {w : Nat} (hbad : rcBad c = some w) :
    s.ropeIssue op aop kid idx words h = s.ropeIssueFailed k p kid idx c r ⟨0, 0, 0⟩ (Result.badIns w) := by
  subst hc hdie hx hr
  unfold State.ropeIssue
  simp only [hk, hp]
  rw [if_pos (by simp only [hready, hop]; rcases haop with ha | ha <;> simp [ha])]
  simp only [hbad]
  rfl

theorem ropeIssue_fence (hfence : op = 7) (hbad : rcBad c = none) : s.ropeIssue op aop kid idx words h =
    if s.ropeUp then (s.putIns kid { r with phase := .ropeFence, outstanding := s.rope.nextSeq }).settleRope
    else s.ropeIssueFailed k p kid idx c r ⟨0, 0, 0⟩ (s.rcDetail c ⟨0, 0, 0⟩ h .ropeLinkDown) := by
  subst hc hdie hx hr
  unfold State.ropeIssue
  simp only [hk, hp]
  rw [if_pos (by simp only [hready, hop]; rcases haop with ha | ha <;> simp [ha])]
  simp only [hbad]
  exact if_pos hfence

section
variable (hother : op ≠ 7) (hbad : rcBad c = none)
include hother hbad

theorem ropeIssue_of_fail {g : RopeTarget} {e : Result} (hstart : s.rcStart x p k.ctx c h = .fail g e) :
    s.ropeIssue op aop kid idx words h = s.ropeIssueFailed k p kid idx c r g e := by
  subst hc hdie hx hr
  unfold State.ropeIssue
  simp only [hk, hp]
  rw [if_pos (by simp only [hready, hop]; rcases haop with ha | ha <;> simp [ha])]
  simp only [hbad, if_neg hother, hstart]
  rfl

theorem ropeIssue_of_media {g : RopeTarget} {m : Media} {e : Result} (hstart : s.rcStart x p k.ctx c h = .media g m e) :
    s.ropeIssue op aop kid idx words h = (s.failMedia m).ropeIssueFailed k p kid idx c r g e := by
  subst hc hdie hx hr
  unfold State.ropeIssue
  simp only [hk, hp]
  rw [if_pos (by simp only [hready, hop]; rcases haop with ha | ha <;> simp [ha])]
  simp only [hbad, if_neg hother, hstart]
  rfl

theorem ropeIssue_of_lines {g : RopeTarget} {ls : List RopeLine} (hstart : s.rcStart x p k.ctx c h = .lines g ls)
    {u : State} (hu : u = s.rcReads x p k.ctx c) :
    s.ropeIssue op aop kid idx words h =
      (((if op = 2 then u.account (some (p, k.ctx)) (fun a =>
        { a with stackBytes := a.stackBytes + stackCost (rcLoc c) (rcLen c) }) else u).putIns kid r).addCmd
          k p idx c g ls none false).ropeGo := by
  subst hc hdie hx hr hu
  unfold State.ropeIssue
  simp only [hk, hp]
  rw [if_pos (by simp only [hready, hop]; rcases haop with ha | ha <;> simp [ha])]
  simp only [hbad, if_neg hother, hstart, hop]

end
end

/-- The rows of the Rope commands other than the fence: the operation and the atomic operation of each. -/
def ropeRows (kid idx : Nat) (words : List W32) (h : RopeHomes) : List (Nat × Nat × Instr) :=
  [(1, 0, Instr.ropeLoad kid idx words h), (2, 0, .ropeStore kid idx words h),
    (3, 1, .addI32 kid idx words h), (3, 2, .addI64 kid idx words h), (3, 3, .minI64 kid idx words h),
    (3, 4, .maxI64 kid idx words h), (3, 5, .and64 kid idx words h), (3, 6, .or64 kid idx words h),
    (3, 7, .xor64 kid idx words h), (3, 8, .swap64 kid idx words h), (3, 9, .cas64 kid idx words h),
    (3, 10, .addF32 kid idx words h), (4, 0, .publish kid idx words h), (5, 0, .digest kid idx words h),
    (6, 0, .genFence kid idx words h)]

theorem exec_ropeRows (kid idx : Nat) (words : List W32) (h : RopeHomes) : ∀ e ∈ ropeRows kid idx words h,
    e.1 ≠ 7 ∧ ∀ s, exec e.2.2 s = .next (s.ropeIssue e.1 e.2.1 kid idx words h) := by
  simp only [ropeRows, List.forall_mem_cons, List.not_mem_nil, false_implies, implies_true, and_true]
  exact ⟨⟨by decide, fun _ => rfl⟩, ⟨by decide, fun _ => rfl⟩, ⟨by decide, fun _ => rfl⟩, ⟨by decide, fun _ => rfl⟩,
    ⟨by decide, fun _ => rfl⟩, ⟨by decide, fun _ => rfl⟩, ⟨by decide, fun _ => rfl⟩, ⟨by decide, fun _ => rfl⟩,
    ⟨by decide, fun _ => rfl⟩, ⟨by decide, fun _ => rfl⟩, ⟨by decide, fun _ => rfl⟩, ⟨by decide, fun _ => rfl⟩,
    ⟨by decide, fun _ => rfl⟩, ⟨by decide, fun _ => rfl⟩, ⟨by decide, fun _ => rfl⟩⟩

theorem ropeRowsIssue : Says.RopeRowsIssue := by
  unfold Says.RopeRowsIssue
  intro s kid idx p words h k hk hp hawake hkind hclean hcommit hins hbusy c die x r failed
  have hready : (s.awake && decide (k.kind = .run) && k.clean idx && k.committedTo idx && (k.insAt idx).isNone
      && decide (s.ropeBusy p k.ctx < 256)) = true := by simp [hawake, hkind, hclean, hcommit, hins, hbusy]
  refine ⟨fun e he hop haop => ?_, fun hop => ?_⟩
  · obtain ⟨hother, hexec⟩ := exec_ropeRows kid idx words h e he
    have ha : e.1 ≠ 3 ∨ rcAop c = e.2.1 := (Classical.em (e.1 = 3)).symm.imp_right haop
    rw [hexec]
    exact ⟨fun w hbad => congrArg Host.Outcome.next (ropeIssue_of_bad hk hp hready rfl rfl rfl rfl hop ha hbad),
      fun hgood => ⟨fun g f hstart => congrArg Host.Outcome.next
          (ropeIssue_of_fail hk hp hready rfl rfl rfl rfl hop ha hother hgood hstart),
        fun g m f hstart => congrArg Host.Outcome.next
          (ropeIssue_of_media hk hp hready rfl rfl rfl rfl hop ha hother hgood hstart),
        fun g ls hstart => congrArg Host.Outcome.next
          (ropeIssue_of_lines hk hp hready rfl rfl rfl rfl hop ha hother hgood hstart rfl)⟩⟩
  · have ha : (7 : Nat) ≠ 3 ∨ rcAop c = 0 := .inl (by decide)
    have hfence := fun hgood => ropeIssue_fence (h := h) hk hp hready rfl rfl rfl rfl hop ha rfl hgood
    exact ⟨fun w hbad => congrArg Host.Outcome.next (ropeIssue_of_bad hk hp hready rfl rfl rfl rfl hop ha hbad),
      fun hgood hup => congrArg Host.Outcome.next ((hfence hgood).trans (if_pos hup)),
      fun hgood hdown => congrArg Host.Outcome.next ((hfence hgood).trans (if_neg (by simp [hdown])))⟩

section
variable {s : State} {x : Site} {p ctx : Nat} {c : List W32} {h : RopeHomes} {t : RopeTarget}
  (ht : t = if rcRegion c < s.keyCount p ctx then s.keyTarget p ctx (rcRegion c) else ⟨0, 0, 0⟩)
include ht

theorem rcStart_of_down (hup : s.ropeUp = false) : s.rcStart x p ctx c h = s.rcFail c t h .ropeLinkDown := by
  subst ht
  exact if_pos (by simp [hup])

section
variable (hup : s.ropeUp = true)
include hup

theorem rcStart_of_bad (hv : s.verdict x (rcLoc c) (rcLocal c) (rcLocalBytes c) = .bad) :
    s.rcStart x p ctx c h = .fail t (Result.access (rcLocal c) (rcLoc c)) := by
  subst ht
  unfold State.rcStart
  simp only [hup, hv, Bool.not_true, Bool.false_eq_true, if_false]

theorem rcStart_of_fault {o : Nat} (hv : s.verdict x (rcLoc c) (rcLocal c) (rcLocalBytes c) = .fault o) :
    s.rcStart x p ctx c h = .fail t (Result.access o (rcLoc c)) := by
  subst ht
  unfold State.rcStart
  simp only [hup, hv, Bool.not_true, Bool.false_eq_true, if_false]

section
variable (hv : s.verdict x (rcLoc c) (rcLocal c) (rcLocalBytes c) = .ok)
include hv

theorem rcStart_of_keyUe {b : Nat} (hue : s.keyUe p ctx (rcRegion c) = some b) :
    s.rcStart x p ctx c h = .media t (.block b) (s.rcDetail c t h .mediaError) := by
  subst ht
  unfold State.rcStart
  simp only [hup, hv, hue, Bool.not_true, Bool.false_eq_true, if_false]

theorem rcStart_of_key (hue : s.keyUe p ctx (rcRegion c) = none) : s.rcStart x p ctx c h =
    if !(s.keyValid p ctx (rcRegion c)) then s.rcFail c t h .keyFault
    else if !(s.targetIn t.device) then s.rcFail c t h .staleEpoch else s.rcLines x p ctx c t h := by
  subst ht
  unfold State.rcStart
  simp only [hup, hv, hue, Bool.not_true, Bool.false_eq_true, if_false]

theorem rcStart_of_unkeyed (hue : s.keyUe p ctx (rcRegion c) = none) (hkey : s.keyValid p ctx (rcRegion c) = false) :
    s.rcStart x p ctx c h = s.rcFail c t h .keyFault := by
  rw [rcStart_of_key ht hup hv hue, hkey]
  rfl

theorem rcStart_of_stale (hue : s.keyUe p ctx (rcRegion c) = none) (hkey : s.keyValid p ctx (rcRegion c) = true)
    (hin : s.targetIn t.device = false) : s.rcStart x p ctx c h = s.rcFail c t h .staleEpoch := by
  rw [rcStart_of_key ht hup hv hue, hkey, hin]
  rfl

theorem rcStart_of_good (hue : s.keyUe p ctx (rcRegion c) = none) (hkey : s.keyValid p ctx (rcRegion c) = true)
    (hin : s.targetIn t.device = true) : s.rcStart x p ctx c h = s.rcLines x p ctx c t h := by
  rw [rcStart_of_key ht hup hv hue, hkey, hin]
  rfl

end
end
end

theorem sourcesCheckInOrder : Says.SourcesCheckInOrder := by
  unfold Says.SourcesCheckInOrder
  intro s x p ctx c h n t v good
  refine ⟨fun hdown => rcStart_of_down rfl hdown, fun hup => ⟨fun hv => rcStart_of_bad rfl hup hv,
    fun o hv => rcStart_of_fault rfl hup hv, fun hv => ⟨fun b hue => rcStart_of_keyUe rfl hup hv hue,
      fun hue hkey => rcStart_of_unkeyed rfl hup hv hue hkey,
      fun hue hkey hin => rcStart_of_stale rfl hup hv hue hkey hin⟩⟩, fun hgood => ?_⟩
  · obtain ⟨hup, hv, hue, hkey, hin⟩ := hgood
    rw [rcStart_of_good (t := t) rfl hup hv hue hkey hin]
    refine ⟨fun hop => ?_, fun hop => ⟨fun m hm => ?_, fun hm => ?_⟩, fun hop => ?_, fun hop => ?_, fun hop => ?_,
      fun hop => ?_⟩
    all_goals unfold State.rcLines
    · simp only [hop]
    · simp only [hop, hm]
    · simp only [hop, hm]
    · simp only [hop]
    · simp only [hop]
    · simp only [hop]
    · simp only [hop]

end Sys2Proof.Machine
end

section
/-! O44, TV-12 and what follows a Rope command at its source (04 R156; 11 R362, R367, R376, R378, R387, R392). -/

namespace Sys2Proof.Machine

section
variable {s : State} {k : Kernel} {r : InsRec} {kid idx : Nat} {h : RopeHomes} {flips : List CellFlip}

section
variable (hrec : s.recIn kid idx .drained = some (k, r)) (hchain : miChain r.words = 13)
  (hfree : k.epilogueFree r = true)
include hrec hchain hfree

theorem peerSendRow_of_accepted (hacc : r.accRe ≠ []) : peerSendRow kid idx flips h s = s.peerSend k r h := by
  have hne : r.accRe.isEmpty = false := List.isEmpty_eq_false_iff.2 hacc
  unfold peerSendRow
  simp only [hrec, hchain, hfree, hne, decide_true, Bool.and_self, if_true, Bool.false_eq_true, if_false]

section
variable (hacc : r.accRe = [])
include hacc

theorem peerSendRow_of_mismatch {u : State} (hrun : State.acceptRun k flips 2 s r = .mismatch u)
    (hgone : (u.failIns kid r (Result.of .checksumMismatch)).recIn kid idx .drained = none) :
    peerSendRow kid idx flips h s = u.failIns kid r (Result.of .checksumMismatch) := by
  unfold peerSendRow
  simp only [hrec, hchain, hfree, hacc, hrun, hgone, decide_true, Bool.and_self, if_true, List.isEmpty_nil]

theorem peerSendRow_of_stop {u : State} (hrun : State.acceptRun k flips 2 s r = .stop u)
    (hgone : u.recIn kid idx .drained = none) : peerSendRow kid idx flips h s = u := by
  unfold peerSendRow
  simp only [hrec, hchain, hfree, hacc, hrun, hgone, decide_true, Bool.and_self, if_true, List.isEmpty_nil]

section
variable {u t : State} {r' : InsRec} (hrun : State.acceptRun k flips 2 s r = .ok u r') (ht : t = u.afterRun k r' flips)
include hrun ht

theorem peerSendRow_of_ok {k' : Kernel} {q : InsRec} (hin : t.recIn kid idx .drained = some (k', q))
    (hq : q.accRe ≠ []) : peerSendRow kid idx flips h s = t.peerSend k' q h := by
  subst ht
  have hne : q.accRe.isEmpty = false := List.isEmpty_eq_false_iff.2 hq
  unfold peerSendRow
  simp only [hrec, hchain, hfree, hacc, hrun, hin, hne, decide_true, Bool.and_self, if_true, List.isEmpty_nil,
    Bool.false_eq_true, if_false]

theorem peerSendRow_of_ok_gone (hgone : t.recIn kid idx .drained = none) : peerSendRow kid idx flips h s = t := by
  subst ht
  unfold peerSendRow
  simp only [hrec, hchain, hfree, hacc, hrun, hgone, decide_true, Bool.and_self, if_true, List.isEmpty_nil]

end
end
end

section
variable {p : Nat} (hp : k.part = some p)
include hp

theorem State.peerSend_of_uncommitted (hcommit : k.committedTo r.idx = false) : s.peerSend k r h = s := by
  unfold State.peerSend
  simp only [hp, hcommit, Bool.false_eq_true, if_false]

theorem State.peerSend_of_committed (hcommit : k.committedTo r.idx = true)
    (hue : s.epilogueUe (k.site r.die r.tile) r = none) {x : Site} (hx : x = k.site r.die r.tile) {q : InsRec}
    (hq : q = { r with
      phase := .sending, outstanding := 1
      stores := s.ckStores x r ++ (if miSplit r.words then
        [s.locStore x (miCode r.words .partialBuf) (miOff r.words .partialBuf)
          (leBytes 4 (miSplitCnt r.words + 256 * miGenOut r.words))] else []) }) :
    s.peerSend k r h = (s.putIns k.id q).peerStore k p q (peerSlot r.chain + 32) (peerPayload r.words (s.total x r).1) h := by
  subst hx hq
  unfold State.peerSend
  simp only [hp, hcommit, hue, if_true]

theorem peerSendPayloadAcked_of_sending (hrec : s.recIn kid idx .sending = some (k, r)) {q : InsRec}
    (hq : q = { r with phase := .sendingHeader, outstanding := 1 }) :
    peerSendPayloadAcked kid idx h s = if r.outstanding = 0 then
      (s.putIns kid q).peerStore k p q (peerSlot r.chain) (peerHeader r.words r.chain) h else s := by
  subst hq
  unfold peerSendPayloadAcked
  simp only [hrec, hp]

end

theorem peerSendPayloadAcked_of_outstanding (hrec : s.recIn kid idx .sending = some (k, r)) (hout : r.outstanding ≠ 0) :
    peerSendPayloadAcked kid idx h s = s := by
  unfold peerSendPayloadAcked
  simp only [hrec, if_neg hout]
  split <;> rfl

theorem peerSendCommit_of_sendingHeader (hrec : s.recIn kid idx .sendingHeader = some (k, r)) (last : Bool) :
    peerSendCommit kid idx last s = if r.outstanding = 0 then s.commitIns k r last else s := by
  unfold peerSendCommit
  simp only [hrec]

section
variable {p off n : Nat} {bs : List Byte} {c : List W32} {t : RopeTarget} (hn : n = cbParam r.chain 0 % 2 ^ 16)
  (hc : c = peerWords r.words r.chain off)
  (ht : t = if n < s.keyCount p k.ctx then s.keyTarget p k.ctx n else ⟨0, 0, 0⟩)
include hn hc ht

theorem State.peerStore_of_down (hup : s.ropeUp = false) :
    s.peerStore k p r off bs h = s.failIns k.id r (s.rcDetail c t h .ropeLinkDown) := by
  subst ht hc hn
  exact if_pos (by simp [hup])

theorem State.peerStore_of_up (hup : s.ropeUp = true) (hue : s.keyUe p k.ctx n = none) :
    s.peerStore k p r off bs h =
      if !(s.keyValid p k.ctx n) then s.failIns k.id r (s.rcDetail c t h .keyFault)
      else if !(s.targetIn t.device) then s.failIns k.id r (s.rcDetail c t h .staleEpoch)
      else ((s.keepCmds (fun q => !(q.peer && decide (q.kernel = k.id) && decide (q.idx = r.idx)))).addCmd k p r.idx c t
        ((linePieces (bs.length / 64 + 2) off bs).map (fun e =>
          RopeLine.fresh (s.lineStack t h e.1) e.1 e.2.length .store e.2)) none true).ropeGo := by
  subst ht hc hn
  unfold State.peerStore
  simp only [hup, hue, Bool.not_true, Bool.false_eq_true, if_false, Option.isSome_none]

end
end

theorem peerBlocksAreSent : Says.PeerBlocksAreSent := by
  unfold Says.PeerBlocksAreSent
  intro s k r kid idx h
  refine ⟨fun hrec hchain hfree flips => ⟨fun hacc => ?_, fun hacc => ⟨fun u hrun hgone => ?_, fun u hrun hgone => ?_,
    fun u r' hrun => ?_⟩⟩, fun p hp => ⟨fun hcommit => State.peerSend_of_uncommitted hp hcommit, fun hcommit hue => ?_⟩,
    fun p off bs => ?_, fun p hrec hp hout => ?_, fun hrec hout last => ?_, fun hout => ⟨fun hrec => ?_, fun hrec last => ?_⟩⟩
  · exact congrArg Host.Outcome.next (peerSendRow_of_accepted hrec hchain hfree hacc)
  · exact congrArg Host.Outcome.next (peerSendRow_of_mismatch hrec hchain hfree hacc hrun hgone)
  · exact congrArg Host.Outcome.next (peerSendRow_of_stop hrec hchain hfree hacc hrun hgone)
  · exact ⟨fun k' q hin hq => congrArg Host.Outcome.next (peerSendRow_of_ok hrec hchain hfree hacc hrun rfl hin hq),
      fun hgone => congrArg Host.Outcome.next (peerSendRow_of_ok_gone hrec hchain hfree hacc hrun rfl hgone)⟩
  · exact State.peerSend_of_committed hp hcommit hue rfl rfl
  · intro n c t stop
    refine ⟨fun hdown => State.peerStore_of_down rfl rfl rfl hdown, fun hup hue => ?_⟩
    have hstore := State.peerStore_of_up (h := h) (bs := bs) (n := n) (c := c) (t := t) rfl rfl rfl hup hue
    refine ⟨fun hkey => ?_, fun hkey hin => ?_, fun hkey hin => ?_⟩
    · rw [hstore, hkey]
      rfl
    · rw [hstore, hkey, hin]
      rfl
    · rw [hstore, hkey, hin]
      rfl
  · intro q
    exact congrArg Host.Outcome.next ((peerSendPayloadAcked_of_sending hp hrec rfl).trans (if_pos hout))
  · exact congrArg Host.Outcome.next ((peerSendCommit_of_sendingHeader hrec last).trans (if_pos hout))
  · exact congrArg Host.Outcome.next (peerSendPayloadAcked_of_outstanding hrec hout)
  · exact congrArg Host.Outcome.next ((peerSendCommit_of_sendingHeader hrec last).trans (if_neg hout))

section
variable {s : State} {c : RopeCmd} {l : RopeLine} {rep : RopeReply}

theorem ropeReply_own (hawake : s.awake = true) (hown : rep.source = s.ropeMember) :
    ropeReply rep s = s.replyOwn rep := by
  unfold ropeReply
  rw [if_pos hawake, if_pos hown]

theorem State.replyOwn_of_line (hline : s.lineOf rep.device rep.stack rep.id = some (c, l)) :
    s.replyOwn rep = if l.sent.isSome then (s.answer c l rep).ropeGo else s := by
  unfold State.replyOwn
  simp only [hline]

theorem State.replyOwn_of_no_line (hline : s.lineOf rep.device rep.stack rep.id = none) : s.replyOwn rep = s := by
  unfold State.replyOwn
  simp only [hline]

theorem State.answer_of_success (hst : rep.status = .success) : s.answer c l rep = s.landData c l rep.data := by
  unfold State.answer
  simp only [hst]

theorem State.answer_of_epoch (hst : rep.status = .staleEpoch) (hepoch : rep.byEpoch = true)
    (hin : s.targetIn c.device = true) (hfar : c.device ≠ s.ropeDevice) : s.answer c l rep =
      s.updCmd c.seq (fun k => k.updLine l.seq (fun x => { x with sent := none, stale := true })) := by
  unfold State.answer
  simp only [hst]
  exact if_pos (by simp [hepoch, hin, hfar])

theorem State.answer_of_failure (hne : rep.status ≠ .success) (hfresh : rep.status ≠ .staleEpoch) :
    s.answer c l rep = s.failCmd c (c.detail rep.status l.id l.off) := by
  unfold State.answer
  split
  · next hst => exact absurd hst hne
  · exact if_neg (by simp [hfresh])

section
variable {dev st id : Nat} (hline : s.lineOf dev st id = some (c, l))
include hline

theorem ropeRetry_of_sent (hawake : s.awake = true) {t : Nat} (hsent : l.sent = some t) {l' : RopeLine} {u : State}
    (hl : l' = { l with
      sent := some s.now, epoch := s.podEpoch, globalEpoch := s.globalEpoch
      under := some (l.under.getD l.globalEpoch) })
    (hu : u = s.updCmd c.seq (fun k => k.updLine l.seq (fun _ => l'))) :
    ropeRetry dev st id s =
      if t + 100_000 ≤ s.now then
        if s.targetKnown dev then (if s.ropeUp then u.sendReq (s.lineReq c l') else u)
        else (s.failCmd c (c.detail .staleEpoch l.id l.off)).ropeGo
      else s := by
  subst hu hl
  unfold ropeRetry
  simp only [hawake, hline, hsent, if_true]

theorem remoteTimeout_of_line : remoteTimeout dev st id s =
    if c.first + 50_000_000 ≤ s.now then (s.failCmd c (c.detail .remoteTimeout l.id l.off)).ropeGo else s := by
  unfold remoteTimeout
  simp only [hline]

end
end

theorem sourcesFollowUp : Says.SourcesFollowUp := by
  unfold Says.SourcesFollowUp
  intro s dev st id c l hawake hline
  refine ⟨fun rep hsource hdev hst hid => ⟨fun hsent => ?_, fun hsent => ?_, State.answer_of_success,
      State.answer_of_epoch, State.answer_of_failure⟩, fun rep hsource hnone => ?_,
    fun t hsent => ⟨fun hdue => ⟨fun hknown => ?_, fun hgone => ?_⟩, fun hearly => ?_⟩, fun hpast => ?_, fun hearly => ?_,
    fun n => congrArg Host.Outcome.next (if_pos hawake)⟩
  · subst hdev hst hid
    exact congrArg Host.Outcome.next ((ropeReply_own hawake hsource).trans
      ((State.replyOwn_of_line hline).trans (if_pos hsent)))
  · subst hdev hst hid
    exact congrArg Host.Outcome.next ((ropeReply_own hawake hsource).trans
      ((State.replyOwn_of_line hline).trans (if_neg (by simp [hsent]))))
  · exact congrArg Host.Outcome.next ((ropeReply_own hawake hsource).trans (State.replyOwn_of_no_line hnone))
  · intro l' u
    have hretry := (ropeRetry_of_sent (l' := l') (u := u) hline hawake hsent rfl rfl).trans
      ((if_pos hdue).trans (if_pos hknown))
    exact ⟨rfl, fun hup => congrArg Host.Outcome.next (hretry.trans (if_pos hup)),
      fun hdown => congrArg Host.Outcome.next (hretry.trans (if_neg (by simp [hdown])))⟩
  · exact congrArg Host.Outcome.next ((ropeRetry_of_sent hline hawake hsent rfl rfl).trans
      ((if_pos hdue).trans (if_neg (by simp [hgone]))))
  · exact congrArg Host.Outcome.next ((ropeRetry_of_sent hline hawake hsent rfl rfl).trans
      (if_neg (Nat.not_le.2 hearly)))
  · exact congrArg Host.Outcome.next ((remoteTimeout_of_line hline).trans (if_pos hpast))
  · exact congrArg Host.Outcome.next ((remoteTimeout_of_line hline).trans (if_neg (Nat.not_le.2 hearly)))

/-- Settles O44. -/
theorem ropeCommandsIssue : Obligations.RopeCommandsIssue :=
  ⟨ropeRowsIssue, sourcesCheckInOrder, peerBlocksAreSent, sourcesFollowUp⟩

end Sys2Proof.Machine
end

section
/-! O45, homes check requests and answer them (11 R367, R378, R383, R387, R389; 15 R491, R492). -/

namespace Sys2Proof.Machine

section
variable {s : State} {r : RopeReq}

theorem State.homeApply_of_refusal {e : Status × Bool} (h : s.homeRefusal r = some e) :
    s.homeApply r = (s, r.reply e.1 e.2 []) := by
  unfold State.homeApply
  simp only [h]

theorem State.homeApply_of_accepted (h : s.homeRefusal r = none) : s.homeApply r = s.homeAccepted r := by
  unfold State.homeApply
  simp only [h]

section
variable (hepoch : s.sameEpoch r = true) (hgrants : s.rgnGrants r = true) (hfree : s.rgnProtected r = false)
include hepoch hgrants hfree

theorem State.homeRefusal_of_cairn {st : Status} (hcairn : s.rgnCairn r = some st) :
    s.homeRefusal r = some (st, false) := by
  unfold State.homeRefusal
  simp only [hepoch, hgrants, hfree, hcairn, Bool.not_true, Bool.false_eq_true, if_false]

theorem State.homeRefusal_of_generation (hcairn : s.rgnCairn r = none) :
    s.homeRefusal r = if s.rgnGenStale r then some (.staleEpoch, false) else none := by
  unfold State.homeRefusal
  simp only [hepoch, hgrants, hfree, hcairn, Bool.not_true, Bool.false_eq_true, if_false]

end

theorem State.homeRefusal_of_key (hepoch : s.sameEpoch r = true) (h : s.rgnGrants r = false ∨ s.rgnProtected r = true) :
    s.homeRefusal r = some (.keyFault, false) := by
  unfold State.homeRefusal
  rw [if_neg (by simp [hepoch])]
  cases hgrants : s.rgnGrants r with
  | false => rfl
  | true =>
    rw [hgrants] at h
    exact (if_neg (by decide)).trans (if_pos (h.resolve_left (by decide)))

theorem State.rgnCairn_of_write (hcopy : s.rbit (aRGN r.region) 6 = true)
    (hact : r.act = .store ∨ (∃ a x y, r.act = .atomic a x y) ∨ (∃ g, r.act = .genFence g)) :
    s.rgnCairn r = some .cairnWriteFault := by
  unfold State.rgnCairn
  simp only [hcopy, if_true]
  obtain h | ⟨a, x, y, h⟩ | ⟨g, h⟩ := hact
  · simp only [h]
  · simp only [h]
  · simp only [h]

end

theorem homesCheckInOrder : Says.HomesCheckInOrder := by
  unfold Says.HomesCheckInOrder
  intro s r
  refine ⟨fun hepoch => State.homeApply_of_refusal (e := (.staleEpoch, true)) (if_pos (by simp [hepoch])),
    fun hepoch h => State.homeApply_of_refusal (State.homeRefusal_of_key hepoch h),
    fun hepoch hgrants hfree => ⟨fun st hcairn =>
        State.homeApply_of_refusal (State.homeRefusal_of_cairn hepoch hgrants hfree hcairn), fun hcairn hstale => ?_,
      fun hcairn hfresh => ?_⟩, State.rgnCairn_of_write⟩
  · exact State.homeApply_of_refusal
      ((State.homeRefusal_of_generation hepoch hgrants hfree hcairn).trans (if_pos hstale))
  · exact State.homeApply_of_accepted
      ((State.homeRefusal_of_generation hepoch hgrants hfree hcairn).trans (if_neg (by simp [hfresh])))

section
variable {s : State} {r : RopeReq}

theorem State.homeReceive_at_home (hhome : r.device = s.ropeDevice) : s.homeReceive r =
    if r.epoch = (s.podEpoch + 1) % 2 ^ 32 then s.setRope (fun x => { x with held := x.held ++ [r] })
    else ((s.homeApply r).1.sendReply (s.homeApply r).2).grantCredits r := by
  unfold State.homeReceive
  exact ite_congr rfl (fun _ => rfl) fun _ => if_pos hhome

theorem State.homeReceive_of_relay (hfar : r.device ≠ s.ropeDevice) (hepoch : r.epoch ≠ (s.podEpoch + 1) % 2 ^ 32)
    {j : Nat} (hj : s.gwIndex = some j) : s.homeReceive r = s.gatewayTake j r := by
  unfold State.homeReceive
  rw [if_neg hepoch, if_neg hfar]
  simp only [hj]

theorem State.homeAsleep_of_answered {old : Nat}
    (h : (s.window r.stack r.source).verdict r.id = .answered old) : s.homeAsleep r = s.wake.homeReceive r := by
  unfold State.homeAsleep
  simp only [h]

theorem State.homeAsleep_of_unanswered (h : ∀ old, (s.window r.stack r.source).verdict r.id ≠ .answered old) :
    s.homeAsleep r = if s.wake.awake then s.wake.homeReceive r
      else s.wake.setRope (fun x => { x with waiting := x.waiting ++ [r] }) := by
  unfold State.homeAsleep
  split
  · next old hold => exact absurd hold (h old)
  · rfl

theorem State.homeAsleep_received (h : (∃ old, (s.window r.stack r.source).verdict r.id = .answered old) ∨
    s.wake.awake = true) : s.homeAsleep r = s.wake.homeReceive r := by
  by_cases hold : ∃ old, (s.window r.stack r.source).verdict r.id = .answered old
  · obtain ⟨old, hold⟩ := hold
    exact State.homeAsleep_of_answered hold
  · exact (State.homeAsleep_of_unanswered fun old heq => hold ⟨old, heq⟩).trans (if_pos (h.resolve_left hold))

section
variable (hlive : s.portsLive = true) (hup : s.ropeUp = true)
include hlive hup

theorem ropeHomeRequest_at_home (hhome : r.device = s.ropeDevice) :
    ropeHomeRequest r s = if s.awake then s.homeReceive r else s.homeAsleep r := by
  unfold ropeHomeRequest
  rw [if_pos (by simp [hlive, hup]), if_pos hhome]

theorem ropeHomeRequest_at_gateway (hfar : r.device ≠ s.ropeDevice) (hin : s.ropeIn = true)
    (hpod : r.device / 512 ≠ s.ropePod) (hout : s.gwOut (r.device / 512) = some s.ropeMember) :
    ropeHomeRequest r s = s.homeReceive r := by
  unfold ropeHomeRequest
  rw [if_pos (by simp [hlive, hup]), if_neg hfar, if_pos (by simp [hin, hpod, hout])]

end
end

theorem homeRequestsAct : Says.HomeRequestsAct := by
  unfold Says.HomeRequestsAct
  intro s r hlive hup
  refine ⟨fun hhome hawake => ?_, ⟨_, Nat.min_le_left _ _, rfl⟩, fun hhome hasleep => ?_,
    fun j hfar hin hj hpod hout hepoch => ?_, fun st src => rfl⟩
  · have hreceive := (ropeHomeRequest_at_home hlive hup hhome).trans
      ((if_pos hawake).trans (State.homeReceive_at_home hhome))
    exact ⟨fun hepoch => congrArg Host.Outcome.next (hreceive.trans (if_neg hepoch)),
      fun hepoch => congrArg Host.Outcome.next (hreceive.trans (if_pos hepoch))⟩
  · have hwake := (ropeHomeRequest_at_home hlive hup hhome).trans (if_neg (by simp [hasleep]))
    exact ⟨fun h => congrArg Host.Outcome.next (hwake.trans (State.homeAsleep_received h)),
      fun hnew hdown => congrArg Host.Outcome.next (hwake.trans
        ((State.homeAsleep_of_unanswered hnew).trans (if_neg (by simp [hdown]))))⟩
  · have hrelay := (ropeHomeRequest_at_gateway hlive hup hfar hin hpod hout).trans
      (State.homeReceive_of_relay hfar hepoch hj)
    refine ⟨fun hsame hglobal => congrArg Host.Outcome.next (hrelay.trans (if_pos (by simp [hsame, hglobal]))),
      fun hother => congrArg Host.Outcome.next (hrelay.trans (if_neg ?_))⟩
    simp only [Bool.and_eq_true, decide_eq_true_eq]
    rintro ⟨hsame, hglobal⟩
    exact hother.elim (fun h => absurd hsame (by simp [h])) (fun h => h hglobal)

/-- Settles O45. -/
theorem homesAnswer : Obligations.HomesAnswer := ⟨homesCheckInOrder, homeRequestsAct⟩

end Sys2Proof.Machine
end

section
/-! O46, replay windows and what a home applies (11 R370, R371, R375, R380, R390). -/

namespace Sys2Proof.Machine

theorem floorAfter_of_le {floor id : Nat} (h : 0 ≤ idDiff id floor) : floorAfter floor id = (id + 1) % 2 ^ 32 :=
  if_neg (by omega)

theorem floorAfter_of_lt {floor id : Nat} (h : idDiff id floor < 0) : floorAfter floor id = floor := if_pos h

theorem windowsAge : Says.WindowsAge := by
  unfold Says.WindowsAge
  intro w now
  refine ⟨fun e => ?_, fun floor id h => floorAfter_of_le h, fun floor id h => floorAfter_of_lt h, rfl⟩
  unfold ReplayWindow.age
  simp

section
variable {w : ReplayWindow} {id : Nat}

theorem ReplayWindow.find_of_fresh (h : w.verdict id = .fresh) :
    w.entries.find? (fun e => decide (e.1 = id)) = none := by
  unfold ReplayWindow.verdict at h
  split at h
  · cases h
  · assumption

theorem ReplayWindow.verdict_of_unseen (h : ∀ e ∈ w.entries, e.1 ≠ id) :
    w.verdict id = if idDiff id w.floor < 0 then .unknown else .fresh := by
  have hfind : w.entries.find? (fun e => decide (e.1 = id)) = none :=
    List.find?_eq_none.2 fun e he => by simp [h e he]
  unfold ReplayWindow.verdict
  simp only [hfind]

theorem ReplayWindow.record_of_room (hroom : w.entries.length < 4096) (old now : Nat) :
    w.record id old now = { w with entries := w.entries ++ [(id, old, now)] } :=
  if_pos (by rw [List.length_append]; exact hroom)

theorem ReplayWindow.verdict_record_self (hfresh : w.verdict id = .fresh) (hroom : w.entries.length < 4096)
    (old now : Nat) : (w.record id old now).verdict id = .answered old := by
  rw [ReplayWindow.record_of_room hroom]
  unfold ReplayWindow.verdict
  simp only [List.find?_append, ReplayWindow.find_of_fresh hfresh, Option.none_or, List.find?_singleton, decide_true,
    if_true]

theorem ReplayWindow.verdict_record_other (hroom : w.entries.length < 4096) (old now : Nat) {j : Nat} (hj : j ≠ id) :
    (w.record id old now).verdict j = w.verdict j := by
  rw [ReplayWindow.record_of_room hroom]
  unfold ReplayWindow.verdict
  simp only [List.find?_append, List.find?_singleton, decide_eq_false (Ne.symm hj), Bool.false_eq_true, if_false,
    Option.or_none]

end

section
variable {s t : State}

/-- Where a region's bytes lie follows from the registers from the tables on, and from the fuses. -/
theorem rgnPieces_congr (hfuses : t.fuses = s.fuses) (hreg : ∀ a, aROPE + 0x30 ≤ a → t.reg a = s.reg a) (i off n : Nat) :
    t.rgnPieces i off n = s.rgnPieces i off n := by
  have hhalf : t.halfBytes = s.halfBytes := by
    unfold State.halfBytes
    rw [hfuses]
  have howner : t.rgnOwner i = s.rgnOwner i :=
    congrArg (field · 14 8) (hreg _ (by unfold aRGN; omega))
  have hbase : t.rgnBase i = s.rgnBase i :=
    congrArg (fun w : W32 => w.toNat * 4096) (hreg _ (by unfold aRGN; omega))
  have hvec : ∀ p h, t.vecBit (aPARTp p + 0x20) h = s.vecBit (aPARTp p + 0x20) h := fun p h =>
    congrArg (bitOf · (h % 32)) (hreg _ (by unfold aROPE aPARTp aPART; omega))
  have haddr : ∀ p o, t.partAddr p o = s.partAddr p o := by
    intro p o
    unfold State.partAddr State.halves
    simp only [hhalf, hvec]
  unfold State.rgnPieces State.partPieces
  simp only [howner, hbase, hhalf, haddr]

theorem rgnStack_congr (hfuses : t.fuses = s.fuses) (hreg : ∀ a, aROPE + 0x30 ≤ a → t.reg a = s.reg a) (i off : Nat) :
    t.rgnStack i off = s.rgnStack i off := by
  unfold State.rgnStack State.rgnAddr State.halfBytes
  rw [rgnPieces_congr hfuses hreg, hfuses]

end

section
variable {s : State} {r : RopeReq}

theorem State.noteOp_stack : (s.noteOp r).stack = s.stack :=
  (State.noteOp_keeps (List.Subset.refl _) .refl).1 .stack (by decide)

theorem State.noteOp_now : (s.noteOp r).now = s.now :=
  (State.noteOp_keeps (List.Subset.refl _) .refl).1 .now (by decide)

theorem State.noteOp_fuses : (s.noteOp r).fuses = s.fuses :=
  (State.noteOp_keeps (List.Subset.refl _) .refl).1 .fuses (by decide)

theorem State.noteOp_reg {a : Nat} (ha : aROPE + 0x30 ≤ a) : (s.noteOp r).reg a = s.reg a := by
  unfold State.noteOp
  dsimp only
  split
  · rw [State.edge_reg_high (by unfold aPORT; unfold aROPE at ha; omega), State.reg_setReg_other _ _ _ _ (by omega),
      State.reg_setReg_other _ _ _ _ (by omega), State.reg_setReg_other _ _ _ _ (by omega)]
    rfl
  · rfl

theorem State.noteOp_windows : (s.noteOp r).rope.windows = s.rope.windows := by
  have hedge : ∀ u : State, (u.edge 15).rope = u.rope := fun u =>
    (State.edge_keeps (List.Subset.refl _) .refl).1 .rope (by decide)
  unfold State.noteOp
  dsimp only
  split
  · rw [hedge]
    rfl
  · rfl

theorem State.noteOp_window (stack source : Nat) : (s.noteOp r).window stack source = s.window stack source := by
  unfold State.window
  rw [State.noteOp_windows]

section
variable (hwrites : r.act.writes = true)
include hwrites

theorem State.homeAccepted_of_unknown
    (hv : ((s.window (s.rgnStack r.region r.off) r.source).age s.now).verdict r.id = .unknown) :
    (s.homeAccepted r).1.stack = s.stack ∧ (s.homeAccepted r).2.status = .outcomeUnknown := by
  rw [← rgnStack_congr State.noteOp_fuses (fun _ => State.noteOp_reg (r := r)), ← State.noteOp_now (r := r),
    ← State.noteOp_window (r := r)] at hv
  unfold State.homeAccepted
  simp only [hwrites, if_true, hv]
  exact ⟨State.noteOp_stack, rfl⟩

theorem State.homeAccepted_of_answered {old : Nat}
    (hv : ((s.window (s.rgnStack r.region r.off) r.source).age s.now).verdict r.id = .answered old) :
    (s.homeAccepted r).1.stack = s.stack ∧ (s.homeAccepted r).2.status = .success ∧
      (∀ a x y, r.act = .atomic a x y → (s.homeAccepted r).2.data = leBytes (atomicSize a) old) := by
  rw [← rgnStack_congr State.noteOp_fuses (fun _ => State.noteOp_reg (r := r)), ← State.noteOp_now (r := r),
    ← State.noteOp_window (r := r)] at hv
  unfold State.homeAccepted
  simp only [hwrites, if_true, hv]
  refine ⟨State.noteOp_stack, rfl, fun a x y hact => ?_⟩
  simp only [hact]
  rfl

end

theorem storesApplyOnce : Says.StoresApplyOnce := by
  unfold Says.StoresApplyOnce
  refine ⟨fun w id old now hfresh hroom => ⟨ReplayWindow.verdict_record_self hfresh hroom old now,
      fun j hj => ReplayWindow.verdict_record_other hroom old now hj⟩,
    fun w id hunseen => ⟨fun hlow => (ReplayWindow.verdict_of_unseen hunseen).trans (if_pos hlow),
      fun hhigh => (ReplayWindow.verdict_of_unseen hunseen).trans (if_neg (Int.not_lt.2 hhigh))⟩,
    fun s r hwrites => ⟨fun old hv => State.homeAccepted_of_answered hwrites hv,
      fun hv => State.homeAccepted_of_unknown hwrites hv⟩⟩

end

section
variable {s : State} {r : RopeReq} {a : Nat}

theorem State.rgnRead_of_piece {i off n : Nat} (h : s.rgnPieces i off n = [(a, n)]) :
    s.rgnRead i off n = s.readMem .stack a n := by
  unfold State.rgnRead
  rw [h]
  exact List.flatMap_singleton ..

theorem State.putStack_stack (bs : List Byte) : (s.putStack a bs).stack = SMap.putList byteZero s.stack a bs := by
  unfold State.putStack
  have hfold : ∀ l : List Nat, (l.foldl State.stackCorrected s).stack = s.stack := fun l =>
    (Keeps.foldl (fun _ _ h => State.stackCorrected_keeps (List.Subset.refl _) h) l .refl).1 .stack (by decide)
  exact congrArg (fun m => SMap.putList byteZero m a bs) (hfold _)

theorem State.rgnWrite_of_piece {i off : Nat} {bs : List Byte} (h : s.rgnPieces i off bs.length = [(a, bs.length)]) :
    (s.rgnWrite i off bs).stack = SMap.putList byteZero s.stack a bs := by
  unfold State.rgnWrite
  rw [h]
  exact (State.putStack_stack _).trans (by rw [List.take_length])

/-- Bytes put into stack memory are read there, and every other byte stays. -/
theorem bytes_of_put (hc : s.canon = true) {t : State} {bs : List Byte}
    (ht : t.stack = SMap.putList byteZero s.stack a bs) : t.readMem .stack a bs.length = bs ∧
      ∀ b, b < a ∨ a + bs.length ≤ b → t.byteAt .stack b = s.byteAt .stack b := by
  unfold State.readMem State.byteAt
  simp only [ht]
  exact ⟨SMap.getList_putList bs s.stack a (State.wf_stack hc), fun b hb => SMap.get_putList_other bs s.stack a b hb⟩

theorem homesAct : Says.HomesAct := by
  unfold Says.HomesAct
  intro s r a hc at'
  refine ⟨fun hpf n hn => ?_, fun hact hat => ?_, fun hact hat => ?_, fun hact hat => ?_, fun op x y hact hat => ?_,
    fun g hact => ?_⟩
  · unfold State.rgnPieces
    rw [if_neg (Nat.not_lt.2 hpf), if_neg (Nat.pos_iff_ne_zero.1 hn)]
  · unfold State.homeAct
    simp only [hact, State.rgnRead_of_piece hat]
  · unfold State.homeAct
    simp only [hact, State.rgnRead_of_piece hat]
  · have hwrite : (s.homeAct r).1.stack = SMap.putList byteZero s.stack a r.data := by
      unfold State.homeAct
      obtain h | ⟨d, o, h⟩ := hact
      · simp only [h, State.rgnWrite_of_piece hat]
      · simp only [h, State.rgnWrite_of_piece hat]
    exact bytes_of_put hc hwrite
  · intro n old
    have hlen : (leBytes n (atomicNew op old x y)).length = n := leBytes_length _ _
    have hread : fromLE (s.rgnRead r.region r.off n) = old := congrArg fromLE (State.rgnRead_of_piece hat)
    have hdo : s.homeAct r = (s.rgnWrite r.region r.off (leBytes n (atomicNew op old x y)), old, leBytes n old) := by
      rw [← hread]
      unfold State.homeAct
      simp only [hact]
      rfl
    have hbytes := bytes_of_put (a := a) hc (State.rgnWrite_of_piece (s := s) (bs := leBytes n (atomicNew op old x y))
      (by rw [hlen]; exact hat))
    rw [hlen] at hbytes
    rw [hdo]
    exact ⟨rfl, hbytes.1, hbytes.2⟩
  · have hdo : s.homeAct r = (s.setRf (aRGN r.region) 23 16 g, 0, []) := by
      unfold State.homeAct
      simp only [hact]
    rw [hdo]
    exact ⟨rfl, rfl⟩

end

theorem signedOf_mod (n v : Nat) : signedOf n (v % 2 ^ n) = signedOf n v := by
  unfold signedOf
  rw [Nat.mod_mod]

theorem signedOf_emod (n v : Nat) : signedOf n v % (2 ^ n : Nat) = (v % 2 ^ n : Nat) := by
  unfold signedOf
  dsimp only
  split
  · rw [Int.natCast_emod, Int.emod_emod]
  · rw [Int.sub_emod_right, Int.natCast_emod, Int.emod_emod]

theorem wrapOf_signed_add (n x y : Nat) : wrapOf n (signedOf n x + signedOf n y) = (x + y) % 2 ^ n := by
  unfold wrapOf
  rw [Int.add_emod, signedOf_emod, signedOf_emod, ← Int.natCast_add, ← Int.natCast_emod, Int.toNat_natCast,
    ← Nat.add_mod]

theorem atomicNew_lt {op old a b : Nat} (hlo : 1 ≤ op) (hhi : op ≤ 7) (hold : old < 2 ^ (8 * atomicSize op))
    (ha : a < 2 ^ 64) : atomicNew op old a b < 2 ^ (8 * atomicSize op) := by
  obtain rfl | rfl | rfl | rfl | rfl | rfl | rfl :
      op = 1 ∨ op = 2 ∨ op = 3 ∨ op = 4 ∨ op = 5 ∨ op = 6 ∨ op = 7 := by omega
  · exact Nat.mod_lt _ (Nat.two_pow_pos 32)
  · exact Nat.mod_lt _ (Nat.two_pow_pos 64)
  · show (if signedOf 64 a < signedOf 64 old then a else old) < 2 ^ 64
    split
    · exact ha
    · exact hold
  · show (if signedOf 64 old < signedOf 64 a then a else old) < 2 ^ 64
    split
    · exact ha
    · exact hold
  · exact Nat.and_lt_two_pow _ ha
  · exact Nat.or_lt_two_pow hold ha
  · exact Nat.xor_lt_two_pow hold ha

theorem atomicResults : Says.AtomicResults := by
  unfold Says.AtomicResults
  intro op old a b hlo hhi hold ha
  refine ⟨fun h8 h9 => atomicNew_lt hlo (by omega) hold ha, ?_, ?_, fun _ => ?_, fun _ => ?_, ?_, fun _ => rfl⟩
  · rintro rfl
    exact (Nat.add_mod_mod old a (2 ^ 32)).symm
  · rintro rfl
    rw [wrapOf_signed_add]
    rfl
  · show signedOf 64 (if signedOf 64 a < signedOf 64 old then a else old) = _
    split
    · next h => exact (Int.min_eq_right (Int.le_of_lt h)).symm
    · next h => exact (Int.min_eq_left (Int.not_lt.1 h)).symm
  · show signedOf 64 (if signedOf 64 old < signedOf 64 a then a else old) = _
    split
    · next h => exact (Int.max_eq_right (Int.le_of_lt h)).symm
    · next h => exact (Int.max_eq_left (Int.not_lt.1 h)).symm
  · rintro rfl
    rfl

/-- Settles O46. -/
theorem homesApplyOnce : Obligations.HomesApplyOnce := ⟨windowsAge, storesApplyOnce, homesAct, atomicResults⟩

end Sys2Proof.Machine
end

section
/-! O47, Rope ports, membership, heartbeats and epochs (11 R361, R362, R386 to R388, R396, R398). -/

namespace Sys2Proof.Machine

theorem lowestPlane_mem (ps : List (Nat × Nat × Nat)) : ∀ e, lowestPlane ps = some e → e ∈ ps ∧ ∀ f ∈ ps, e.1 ≤ f.1 := by
  induction ps with
  | nil =>
    intro e he
    cases he
  | cons a ps ih =>
    intro e he
    unfold lowestPlane at he
    cases hlow : lowestPlane ps with
    | none =>
      have hnil : ps = [] := by
        cases ps with
        | nil => rfl
        | cons b t =>
          unfold lowestPlane at hlow
          split at hlow <;> cases hlow
      rw [hlow] at he
      obtain rfl := Option.some.inj he
      simp [hnil]
    | some g =>
      rw [hlow] at he
      obtain rfl := Option.some.inj he
      obtain ⟨hmem, hmin⟩ := ih g hlow
      split
      · next hle =>
        refine ⟨List.mem_cons_self, List.forall_mem_cons.2 ⟨Nat.le_refl _, fun f hf => Nat.le_trans hle (hmin f hf)⟩⟩
      · next hgt =>
        refine ⟨List.mem_cons_of_mem _ hmem, List.forall_mem_cons.2 ⟨by omega, hmin⟩⟩

section
variable {s t : State} {p pod m : Nat} {ps : List (Nat × Nat × Nat)}
  (hps : ps = s.rope.planes.filter (fun e => decide (e.1 ≠ p)) ++ [(p, pod, m)])
  (ht : t = s.setRope (fun r => { r with planes := ps }))
include hps ht

theorem ropeTrained_free (hfree : (s.ropeState = 1 ∧ s.rope.stage ≤ 2) ∨ s.ropeState = 3) {n : Nat × Nat}
    (hn : (lowestPlane ps).map Prod.snd = some n) {u : State}
    (hu : u = ps.foldl (fun u e => u.ropePort e.1 (decide (e.2 = n))) (t.setNumbers n.1 n.2)) :
    s.ropeTrained p pod m = if u.ropeState = 1 ∧ u.rope.stage ≤ 1 then u.ropeStage 2 else u := by
  have hget : ((lowestPlane ps).map Prod.snd).getD (pod, m) = n := by rw [hn]; rfl
  subst hu ht hps
  unfold State.ropeTrained
  rw [if_pos (by exact hfree), hget]

theorem ropeTrained_member (hfree : ¬((s.ropeState = 1 ∧ s.rope.stage ≤ 2) ∨ s.ropeState = 3)) :
    s.ropeTrained p pod m = if pod = s.ropePod ∧ m = s.ropeMember then t.ropePort p true else t := by
  subst ht hps
  exact if_neg hfree

end

section
variable {s : State}

theorem ropePortChange_of_up (hup : s.up = true) {p : Nat} (hp : p < 16) (pod m : Nat) :
    ropePortChange p true pod m s = if s.rbit (aROPE + 4) 0 then (s.ropeTrained p pod m).ropeGo else s := by
  unfold ropePortChange
  rw [if_pos (by simp [hup, hp])]
  exact if_pos rfl

theorem ropePortChange_of_down (hup : s.up = true) {p : Nat} (hp : p < 16) (pod m : Nat) :
    ropePortChange p false pod m s =
      (s.setRope (fun r => { r with planes := r.planes.filter (fun e => decide (e.1 ≠ p)) })).ropePort p false := by
  unfold ropePortChange
  rw [if_pos (by simp [hup, hp])]
  exact if_neg (by decide)

theorem ropeEnableWrite_of_off (hup : s.up = true) {v : W32} (hv : bitOf v 0 = false) (tr : List (Nat × Nat × Nat)) :
    ropeEnableWrite v tr s = (((List.range 16).foldl (fun t p => t.ropePort p false)
      (s.applyWrite (aROPE + 4) v)).setRopeState 0).setRope (fun r => { r with planes := [] }) := by
  unfold ropeEnableWrite
  rw [if_pos hup]
  exact if_neg (by simp [hv])

theorem ropeEnableWrite_of_on (hup : s.up = true) {v : W32} (hv : bitOf v 0 = true) (tr : List (Nat × Nat × Nat)) :
    ropeEnableWrite v tr s = if s.rbit (aROPE + 4) 0 then s.applyWrite (aROPE + 4) v
      else (((List.range 16).filterMap (fun p => tr.find? (fun e => decide (e.1 = p)))).foldl
        (fun u e => u.ropeTrained e.1 e.2.1 e.2.2) ((s.applyWrite (aROPE + 4) v).ropeStart 1)).ropeGo := by
  unfold ropeEnableWrite
  rw [if_pos hup]
  exact if_pos hv

end

theorem ropePortsFollow : Says.RopePortsFollow := by
  unfold Says.RopePortsFollow
  refine ⟨lowestPlane_mem, fun s hup => ⟨fun p pod m hp => ?_, fun p b => ⟨fun hsame => if_pos hsame, fun hother => if_neg hother⟩,
    fun v tr => ⟨fun hv => congrArg Host.Outcome.next (ropeEnableWrite_of_off hup hv tr), fun hv hon => ?_,
      fun hv hoff => ?_⟩⟩⟩
  · intro ps t free
    have hchange := ropePortChange_of_up hup hp pod m
    refine ⟨fun hon => congrArg Host.Outcome.next (hchange.trans (if_pos hon)),
      fun hoff => congrArg Host.Outcome.next (hchange.trans (if_neg (by simp [hoff]))),
      congrArg Host.Outcome.next (ropePortChange_of_down hup hp pod m), fun n hfree hn => ropeTrained_free rfl rfl hfree hn rfl,
      fun hfree hpod hm => (ropeTrained_member rfl rfl hfree).trans (if_pos ⟨hpod, hm⟩),
      fun hfree hother => (ropeTrained_member rfl rfl hfree).trans (if_neg ?_)⟩
    rintro ⟨hpod, hm⟩
    exact hother.elim (fun h => h hpod) (fun h => h hm)
  · exact congrArg Host.Outcome.next ((ropeEnableWrite_of_on hup hv tr).trans (if_pos hon))
  · exact congrArg Host.Outcome.next ((ropeEnableWrite_of_on hup hv tr).trans (if_neg (by simp [hoff])))

section
variable {s : State}

theorem State.declareDead_of_known {m : Nat} (hcoord : s.coordinates = true) (hmaj : s.majority 5_000_000 = true)
    (hm : m ∈ s.nextMembers) :
    s.declareDead m = s.formEpoch (s.nextMembers.filter (fun x => decide (x ≠ m))) :=
  if_pos (by simp [hcoord, hmaj, hm])

theorem State.declareDead_of_unknown {m : Nat}
    (h : s.coordinates = false ∨ s.majority 5_000_000 = false ∨ m ∉ s.nextMembers) : s.declareDead m = s := by
  refine if_neg ?_
  simp only [Bool.and_eq_true, decide_eq_true_eq]
  rintro ⟨⟨hcoord, hmaj⟩, hm⟩
  obtain h | h | h := h
  · exact absurd hcoord (by simp [h])
  · exact absurd hmaj (by simp [h])
  · exact h hm

section
variable (hlive : s.portsLive = true)
include hlive

theorem memberDead_of_live {m : Nat} (hm : m ≠ s.ropeMember) (hsilent : s.heard m + 5_000_000 ≤ s.now) :
    memberDead m s = s.declareDead m := if_pos (by simp [hlive, hm, hsilent])

theorem ropeEvict_of_live (hin : s.ropeIn = true) (m : Nat) :
    ropeEvict m s = if s.coordinates then s.declareDead m else s.ropeOut (.evict m) := if_pos (by simp [hlive, hin])

theorem epochAckTimeout_of_live {m t : Nat} (hm : m ≠ s.ropeMember) (ht : s.rope.declaredAt = some t)
    (hdue : t + 1_000_000 ≤ s.now) (hack : m ∉ s.rope.acks) : epochAckTimeout m s = s.declareDead m := by
  unfold epochAckTimeout
  simp only [ht]
  exact if_pos (by simp [hlive, hdue, hack, hm])

theorem coordinatorLoss_of_live {m : Nat} (hin : s.ropeIn = true) (hcoord : s.coordinator = some m) (hm : m ≠ s.ropeMember)
    (hsilent : s.heard m + 5_000_000 ≤ s.now) : coordinatorLoss s =
      (s.setRope (fun r => { r with deposed := r.deposed ++ [m] })).declareDead m := by
  unfold coordinatorLoss
  simp only [hcoord]
  exact if_pos (by simp [hlive, hin, hm, hsilent])

theorem epochReceive_of_live (hup : s.ropeUp = true) (hstate : s.ropeState ≠ 0) (e : Nat) (ms : List Nat) :
    epochReceive e ms s = if 0 < idDiff e ((s.rope.pending.map (fun x => x.number)).getD s.podEpoch) then
      (s.setRope (fun r => { r with pending := some ⟨e, ms, s.now⟩ })).ropeOut (.ack e) else s := by
  unfold epochReceive
  exact ite_cond_congr (propext (by simp [hlive, hup, hstate]))

theorem selfExclude_of_live (hin : s.ropeIn = true) : selfExclude s =
    if s.majority 10_000_000 = false then s.exclude else s := by
  unfold selfExclude
  exact ite_cond_congr (propext (by simp [hlive, hin]))

theorem State.startRejoin_of_live : s.startRejoin = if s.ropeState = 3 then
    ((((s.enabledParts.foldl State.dropKeyTables ((List.range 2048).foldl State.clearRegion s)).keepCmds
      (fun c => !c.saved || c.lines.isEmpty)).setRopeState 4).setRbit (aROPE + 4) 1 true).ropeOut (.join s.ropeDevice)
    else s := by
  unfold State.startRejoin
  exact ite_cond_congr (propext (by simp [hlive]))

theorem State.addMember_of_live {d : Nat} (hcoord : s.coordinates = true) (hmaj : s.majority 5_000_000 = true)
    (hpod : d / 512 = s.ropePod) (hm : d % 512 ∉ s.nextMembers) :
    s.addMember d = s.formEpoch (withMember s.nextMembers (d % 512)) := if_pos (by simp [hlive, hcoord, hmaj, hpod, hm])

end
end

theorem membershipCommandsAct : Says.MembershipCommandsAct := by
  unfold Says.MembershipCommandsAct
  intro s hlive
  refine ⟨fun m hcoord hmaj hm => ?_, fun m h => State.declareDead_of_unknown h, fun m hearly => ?_, fun m hin hcoord => ?_,
    fun members => rfl, fun hin => ⟨fun hmaj => ?_, fun hmaj => ?_⟩, fun hstate => if_neg hstate,
    fun m hin hcoord hm hsilent => congrArg Host.Outcome.next (coordinatorLoss_of_live hlive hin hcoord hm hsilent),
    fun e ms hup hstate => ?_, fun hstate => ?_, fun hstate => ?_, fun d hcoord hmaj hpod hm => ?_⟩
  · intro without
    have hdead : s.declareDead m = s.formEpoch without := State.declareDead_of_known hcoord hmaj hm
    exact ⟨hdead, fun hin => congrArg Host.Outcome.next ((ropeEvict_of_live hlive hin m).trans ((if_pos hcoord).trans hdead)),
      fun hother => ⟨fun hsilent => congrArg Host.Outcome.next ((memberDead_of_live hlive hother hsilent).trans hdead),
        fun t ht hdue hack => congrArg Host.Outcome.next ((epochAckTimeout_of_live hlive hother ht hdue hack).trans hdead)⟩⟩
  · exact congrArg Host.Outcome.next (if_neg (by simp [Nat.not_le.2 hearly]))
  · exact congrArg Host.Outcome.next ((ropeEvict_of_live hlive hin m).trans (if_neg (by simp [hcoord])))
  · exact congrArg Host.Outcome.next ((selfExclude_of_live hlive hin).trans (if_pos hmaj))
  · exact congrArg Host.Outcome.next ((selfExclude_of_live hlive hin).trans (if_neg (by simp [hmaj])))
  · intro base
    exact ⟨fun hlater => congrArg Host.Outcome.next ((epochReceive_of_live hlive hup hstate e ms).trans (if_pos hlater)),
      fun hearlier => congrArg Host.Outcome.next
        ((epochReceive_of_live hlive hup hstate e ms).trans (if_neg (Int.not_lt.2 hearlier)))⟩
  · exact congrArg Host.Outcome.next ((State.startRejoin_of_live hlive).trans (if_pos hstate))
  · exact congrArg Host.Outcome.next ((State.startRejoin_of_live hlive).trans (if_neg hstate))
  · exact congrArg Host.Outcome.next (State.addMember_of_live hlive hcoord hmaj hpod hm)

section
variable {s : State} {m e : Nat} (hlive : s.portsLive = true) (hup : s.ropeUp = true)
include hlive hup

theorem ropeHeartbeat_own (hm : m = s.ropeMember)
    (hin : s.ropeIn = true ∨ (s.ropeState = 1 ∧ s.rope.stage = 2 ∧ s.podEpoch = 0)) :
    ropeHeartbeat m e s = if s.heard m + 100_000 ≤ s.now then
      (s.setRope (fun r => { r with beats := SMap.put (fun _ => 0) r.beats m s.now })).ropeOut
        (.heartbeat m ((s.rope.pending.map (fun x => x.number)).getD s.podEpoch)) else s := by
  have hmay : (s.ropeIn || s.joining) = true := by
    unfold State.joining
    simpa [and_assoc] using hin
  unfold ropeHeartbeat
  rw [if_pos (by simp [hlive, hup]), if_pos hm]
  exact ite_cond_congr (propext (by simp [hmay]))

theorem ropeHeartbeat_other (hm : m ≠ s.ropeMember) : ropeHeartbeat m e s = s.setRope (fun r => { r with
    beats := SMap.put (fun _ => 0) r.beats m s.now
    acks := if decide (e = ((s.rope.pending.map (fun x => x.number)).getD s.podEpoch)) && s.rope.declaredAt.isSome
      && decide (m ∉ s.rope.acks) then r.acks ++ [m] else r.acks }) := by
  unfold ropeHeartbeat
  rw [if_pos (by simp [hlive, hup]), if_neg hm]

end

theorem heartbeatsAreHeard : Says.HeartbeatsAreHeard := by
  unfold Says.HeartbeatsAreHeard
  intro s m e hlive hup
  refine ⟨fun hm hin => ⟨fun hdue => ?_, fun hearly => ?_⟩, fun hm => ?_⟩
  · exact congrArg Host.Outcome.next ((ropeHeartbeat_own hlive hup hm hin).trans (if_pos hdue))
  · exact congrArg Host.Outcome.next ((ropeHeartbeat_own hlive hup hm hin).trans (if_neg (Nat.not_le.2 hearly)))
  · refine ⟨_, congrArg Host.Outcome.next (ropeHeartbeat_other hlive hup hm),
      (State.setRope_keeps (List.Subset.refl _) .refl).1, rfl, ?_⟩
    show m ∈ (if _ then s.rope.acks ++ [m] else s.rope.acks) ↔ _
    by_cases hack : m ∈ s.rope.acks
    · simp [hack]
    · split
      · next hnew =>
        simp only [Bool.and_eq_true, decide_eq_true_eq] at hnew
        exact iff_of_true (List.mem_append_right _ (List.mem_singleton.2 rfl)) (.inr hnew.1)
      · next hnew =>
        simp only [Bool.and_eq_true, decide_eq_true_eq] at hnew
        exact iff_of_false hack fun h => h.elim hack fun hdue => hnew ⟨hdue, hack⟩

section
variable {s : State} {e : PendingEpoch} {u : State}

theorem State.formFirst_of_pending (hpending : s.rope.pending = some e) : s.formFirst = s := by
  unfold State.formFirst
  exact if_neg (by simp [hpending])

theorem epochCommit_of_pending (hlive : s.portsLive = true) (hpending : s.rope.pending = some e)
    {moved : List Nat} {t : State}
    (hmoved : moved = (s.members.filter (fun m => decide (m ∉ e.members))) ++
      e.members.filter (fun m => !(s.isMember m)))
    (ht : t = (moved.foldl State.clearWindows s).setMembers e.members)
    (hu : u = (t.setReg (aROPE + 0x10) (lo32 e.number)).setRope (fun r => { r with
      pending := none, deposed := []
      beats := e.members.foldl (fun b m => SMap.put (fun _ => 0) b m s.now) r.beats })) :
    epochCommit s = if s.ropeMember ∈ e.members ∧ s.ropeState ≠ 3 then
      (((if s.ropeState = 1 ∧ u.rope.stage = 2 then u.ropeStage 3
        else if s.ropeState = 4 then ((u.setRopeState 2).setRbit (aROPE + 4) 1 false).setRope
          (fun r => { r with nextId := [], credits := [] })
        else u).edge 14).gatewaysLeft.releaseHeld).ropeGo
      else u.exclude := by
  have hsame : (if s.portsLive then s.formFirst else s) = s :=
    (if_pos hlive).trans (State.formFirst_of_pending hpending)
  rw [hu, ht, hmoved]
  unfold epochCommit
  rw [hsame]
  dsimp only
  rw [hpending]
  exact if_pos hlive

theorem epochCommit_of_no_pending (hlive : s.portsLive = true) (hpending : s.rope.pending = none)
    (hfirst : s.formFirst = s) : epochCommit s = s := by
  unfold epochCommit
  simp only [hlive, hfirst, hpending, if_true]

end

theorem epochsComeIntoForce : Says.EpochsComeIntoForce := by
  unfold Says.EpochsComeIntoForce
  intro s hlive
  refine ⟨fun e hpending => ?_, fun hpending => ?_⟩
  · intro moved t u goes
    have hcommit := epochCommit_of_pending (u := u) hlive hpending rfl rfl rfl
    refine ⟨fun hin => ⟨fun hstate => ?_, fun hstate hstage => ?_, fun hstate => ?_⟩, fun hout => ?_⟩
    · refine congrArg Host.Outcome.next (hcommit.trans ((if_pos ⟨hin, by omega⟩).trans ?_))
      rw [if_neg (by omega), if_neg (by omega)]
    · refine congrArg Host.Outcome.next (hcommit.trans ((if_pos ⟨hin, by omega⟩).trans ?_))
      rw [if_pos ⟨hstate, hstage⟩]
    · refine congrArg Host.Outcome.next (hcommit.trans ((if_pos ⟨hin, by omega⟩).trans ?_))
      rw [if_neg (by omega), if_pos hstate]
    · refine congrArg Host.Outcome.next (hcommit.trans (if_neg ?_))
      rintro ⟨hin, hstate⟩
      exact hout.elim (fun h => h hin) hstate
  · intro answered
    refine ⟨fun hjoin hhead => if_pos (by
      simp only [hjoin, hpending, Option.isNone_none, Bool.true_and, decide_eq_true_eq]
      exact hhead), fun hnot => ?_⟩
    refine congrArg Host.Outcome.next (epochCommit_of_no_pending hlive hpending (if_neg ?_))
    simp only [Bool.and_eq_true, decide_eq_true_eq]
    rintro ⟨⟨hjoin, -⟩, hhead⟩
    exact hnot.elim (fun h => absurd hjoin (by simp [h])) (fun h => h hhead)

/-- Settles O47. -/
theorem membershipChanges : Obligations.MembershipChanges :=
  ⟨ropePortsFollow, membershipCommandsAct, heartbeatsAreHeard, epochsComeIntoForce⟩

end Sys2Proof.Machine
end

section
/-! O49 fails: a sub-port's entry is read back after a write of the default only where the sub-ports' map is in
canonical form, which `State.canon` does not ask of it. -/

namespace Sys2Proof.Machine

/-- An untagged frame of no bytes for the allow list's only address. -/
def emptyFrame : Frame :=
  { what := .delayResp, dst := 0, src := 0, vlan := none, queue := 7, len := 0, data := [], seq := 0, after := 0,
    by' := none }

/-- A running device whose port 0 counts no bytes between frames, with a frame to send. The map of its sub-ports has
three entries of one key: each write of the default uncovers the next one, and the last is busy for another
nanosecond. -/
def repeatedSubPorts : State := { State.reset with
  power := { Power.reset with stage := .running, inReset := false }
  regs := [(aPORTn 0, 0), (aPORTn 0 + 4, 1), (aALLOW 0 + 8, 0xC000_0001)]
  ports := { Ports.reset with subs :=
    [(0, { SubPort.reset with frames := [emptyFrame] }),
     (0, { SubPort.reset with ceilTok := 8000 * 16384 + 8000 * 20 }),
     (0, { SubPort.reset with busy := 1 })] } }

/-- The same device once its frame has been taken from the queue. -/
def repeatedSubPortsTaken : State :=
  let t := repeatedSubPorts.fillSub 0 0
  t.setSub 0 0 { t.sub 0 0 with frames := [] }

theorem repeatedSubPorts_sends :
    repeatedSubPorts.portsLive = true ∧ repeatedSubPorts.hasSub 0 0 = true ∧ repeatedSubPorts.linkUp 0 0 = true ∧
      (repeatedSubPorts.sub 0 0).busy ≤ repeatedSubPorts.now ∧ repeatedSubPorts.canon = true := by decide +kernel

theorem repeatedSubPorts_nextFrame :
    (repeatedSubPorts.fillSub 0 0).nextFrame 0 0 = some ([], emptyFrame, []) := by decide +kernel

theorem repeatedSubPorts_allows :
    repeatedSubPortsTaken.allows 0 emptyFrame.dst emptyFrame.vlan = true := by decide +kernel

theorem repeatedSubPorts_busy : ((repeatedSubPortsTaken.startFrame 0 0 emptyFrame).sub 0 0).busy ≠
    repeatedSubPortsTaken.now + repeatedSubPortsTaken.frameNs 0 emptyFrame.len := by decide +kernel

/-- Refutes O49: FramesLeave says until when the sub-port is busy after a frame leaves; in a state whose map of
sub-ports repeats a key, a write that leaves the default shows the entry behind it instead. -/
theorem not_framesMove : ¬ Obligations.FramesMove := by
  unfold Obligations.FramesMove Says.FramesLeave
  rintro ⟨-, -, hleave⟩
  obtain ⟨hlive, hsub, hup, hfree, hcanon⟩ := repeatedSubPorts_sends
  obtain ⟨-, hsends⟩ := (hleave repeatedSubPorts 0 0 hlive hsub hup).1 hfree
  obtain ⟨-, -, -, hallowed, -⟩ := hsends [] emptyFrame [] repeatedSubPorts_nextFrame
  obtain ⟨-, hbusy⟩ := hallowed repeatedSubPorts_allows
  exact repeatedSubPorts_busy (hbusy (fun _ _ h => FrameWhat.noConfusion h) hcanon).1

end Sys2Proof.Machine
end

section
/-! O50, ports, PTP messages, gate lists, the allow list and partition queues (12 R402, R414, R415, R418 to R422, R431). -/

namespace Sys2Proof.Machine

section
variable {s : State} {n sub : Nat}

theorem portEnable_of_up (hup : s.up = true) (hn : n < 8) (v : W32) {a : Nat} (ha : a = aPORTn n) {t : State}
    (ht : t = ((s.applyWrite a v).setRf a 2 1
      (if s.rbit a 0 || decide (field v 2 1 = 3) then s.rf a 2 1 else field v 2 1)).setRbit a 0
        (bitOf v 0 || (s.rbit a 0 && !(bitOf v 0) && s.portBound n))) :
    portEnable n v s = if s.rbit a 0 && !(t.rbit a 0) then (List.range 4).foldl (fun t i => t.linkChange n i false) t
      else t := by
  subst ht ha
  exact if_pos (by simp [hup, hn])

/-- The port's enable bit after the write of its control register. -/
theorem rbit_of_portWrite (hc : s.canon = true) (a : Nat) (v : W32) (m : Nat) (b : Bool) :
    (((s.applyWrite a v).setRf a 2 1 m).setRbit a 0 b).rbit a 0 = b :=
  State.rbit_setRbit_self ((State.setRf_keeps (List.Subset.refl _)
    (State.applyWrite_keeps (List.Subset.refl _) .refl)).2 hc) a (by decide) b

theorem portEnable_acts (hup : s.up = true) (hc : s.canon = true) (hn : n < 8) (v : W32) {a : Nat} (ha : a = aPORTn n)
    {m : Nat} {b : Bool} (hm : (if s.rbit a 0 || decide (field v 2 1 = 3) then s.rf a 2 1 else field v 2 1) = m)
    (hb : (bitOf v 0 || (s.rbit a 0 && !(bitOf v 0) && s.portBound n)) = b) {t : State}
    (ht : t = ((s.applyWrite a v).setRf a 2 1 m).setRbit a 0 b) :
    portEnable n v s = if s.rbit a 0 && !b then (List.range 4).foldl (fun t i => t.linkChange n i false) t else t := by
  have hbit : t.rbit a 0 = b := ht ▸ rbit_of_portWrite hc a v m b
  have hport := portEnable_of_up (t := t) hup hn v ha (by rw [hm, hb]; exact ht)
  rw [hbit] at hport
  exact hport

theorem State.linkChange_of_change {up : Bool} (hchange : s.linkUp n sub ≠ up) {t : State}
    (ht : t = ((s.setRbit (aPORTn n + 4) sub up).setRbit (aPORTn n + 4) (4 + sub) true).edge (32 + n)) :
    s.linkChange n sub up = if up then
      t.noticePassed (fun g => decide (g.port = n) && decide (g.sub = sub)) (t.sub n sub).downAt 2
      else (t.sub n sub).frames.foldl State.dropQueued
        (t.setSub n sub { t.sub n sub with frames := [], downAt := t.clk }) := by
  subst ht
  exact if_neg hchange

theorem portLinkChange_of_up (hup : s.up = true) (hsub : s.hasSub n sub = true) {up : Bool}
    (hmay : s.rbit (aPORTn n) 0 = true ∨ up = false) : portLinkChange n sub up s = s.linkChange n sub up :=
  if_pos (by simpa [hup, hsub] using hmay)

theorem ptpTransmit_of_due {k : PtpKind} (hlive : s.portsLive = true) (hsub : s.hasSub n sub = true)
    (hptp : s.ptpOn n sub = true) (hlink : s.linkUp n sub = true)
    (hslave : s.ports.servo.slave = some (n, sub) ↔ k = PtpKind.delayReq) :
    ptpTransmit n sub k s = if (s.sub n sub).sentAt k + k.every ≤ s.now then
      (s.setSub n sub ((s.sub n sub).setSentAt k s.now)).queuePtp n sub (.ptp k) k.type' k.body else s := by
  unfold ptpTransmit
  exact ite_cond_congr (propext (by simp [hlive, hsub, hptp, hlink, hslave]))

end

theorem portCommandsAct : Says.PortCommandsAct := by
  unfold Says.PortCommandsAct
  intro s n sub hup hc hn
  refine ⟨fun v => ?_, fun hsub => ⟨fun up hchange hmay => ?_, ?_, fun hoff => ?_⟩,
    fun k hlive hsub hptp hlink hslave => ?_, fun k => ?_⟩
  · intro a w
    refine ⟨fun hoff hmode => ?_, fun hoff hmode => ?_, fun hon hkeep => ?_, fun hon hv hfree => ?_⟩
    · refine congrArg Host.Outcome.next ((portEnable_acts hup hc hn v (a := a) rfl (by simp [hoff, hmode])
        (b := bitOf v 0) (by simp [hoff]) rfl).trans (if_neg (by simp [hoff])))
    · refine congrArg Host.Outcome.next ((portEnable_acts hup hc hn v (a := a) rfl (by simp [hmode])
        (b := bitOf v 0) (by simp [hoff]) rfl).trans (if_neg (by simp [hoff])))
    · refine congrArg Host.Outcome.next ((portEnable_acts hup hc hn v (a := a) rfl (by simp [hon])
        (b := true) ?_ rfl).trans (if_neg (by simp)))
      obtain h | h := hkeep
      · simp [h]
      · cases bitOf v 0 <;> simp [hon, h]
    · exact congrArg Host.Outcome.next ((portEnable_acts hup hc hn v (a := a) rfl (by simp [hon])
        (b := false) (by simp [hv, hfree]) rfl).trans (if_pos (by simp [hon])))
  · intro t
    have hlink := (portLinkChange_of_up hup hsub hmay).trans (State.linkChange_of_change (t := t) hchange rfl)
    refine ⟨?_, ?_⟩
    · rintro rfl
      exact congrArg Host.Outcome.next (hlink.trans (if_pos rfl))
    · rintro rfl
      exact congrArg Host.Outcome.next (hlink.trans (if_neg (by decide)))
  · refine congrArg Host.Outcome.next ?_
    unfold portLinkChange
    split
    · exact if_pos rfl
    · rfl
  · exact congrArg Host.Outcome.next (if_neg (by simp [hoff]))
  · intro u data
    have hptpTx := ptpTransmit_of_due hlive hsub hptp hlink hslave
    exact ⟨fun hdue => congrArg Host.Outcome.next (hptpTx.trans (if_pos hdue)),
      fun hearly => congrArg Host.Outcome.next (hptpTx.trans (if_neg (Nat.not_le.2 hearly)))⟩
  · cases k <;> rfl

section
variable {s : State} {n sub : Nat} (hup : s.up = true) (hn : n < 8) (hsub : sub < 4)
include hup hn hsub

theorem gclChange_of_pending {v : W32} (hv : bitOf v 1 = true) (hpend : s.gclPending n sub = true) :
    gclChange n sub v s = s.setRbit (aGCL n sub) 0 (bitOf v 0) := by
  unfold gclChange
  rw [if_pos (by simp [hup, hn, hsub, hv])]
  exact if_pos hpend

theorem gclChange_of_free {v : W32} (hv : bitOf v 1 = true) (hpend : s.gclPending n sub = false) {a cyc : Nat} {t : State}
    {d : Int} (ha : a = aGCL n sub) (ht : t = s.applyWrite a v) (hcyc : cyc = (t.reg (a + 4)).toNat)
    (hd : d = timeDiff t.clk (t.reg (a + 0xC)).toNat (t.rf (a + 8) 29 0)) :
    gclChange n sub v s = if 1 ≤ t.rf a 23 16 ∧ t.rf a 23 16 ≤ 64 ∧ 1_000 ≤ cyc ∧ cyc ≤ 1_000_000_000 then
      (t.setRbit a 31 true).setSub n sub { t.sub n sub with
        pend := some (if d ≤ 0 then 0 else (d.toNat + cyc - 1) / cyc * cyc) } else t := by
  subst hd hcyc ht ha
  unfold gclChange
  rw [if_pos (by simp [hup, hn, hsub, hv])]
  exact if_neg (by simp [hpend])

end

/-- The first cycle start that is not before a time: the least multiple of the cycle. -/
theorem exists_first_cycle (d : Int) {cyc : Nat} (hcyc : 0 < cyc) : ∃ k : Nat,
    (if d ≤ 0 then 0 else (d.toNat + cyc - 1) / cyc * cyc) = k * cyc ∧ d ≤ ((k * cyc : Nat) : Int) ∧
      ∀ j : Nat, d ≤ ((j * cyc : Nat) : Int) → k ≤ j := by
  by_cases hd : d ≤ 0
  · exact ⟨0, by rw [if_pos hd, Nat.zero_mul], by simpa using hd, fun j _ => Nat.zero_le j⟩
  · obtain ⟨m, rfl⟩ := Int.eq_ofNat_of_zero_le (Int.le_of_lt (Int.not_le.1 hd))
    refine ⟨(m + cyc - 1) / cyc, by rw [if_neg hd]; rfl, ?_, fun j hj => ?_⟩
    · have hdiv := Nat.div_add_mod (m + cyc - 1) cyc
      have hmod := Nat.mod_lt (m + cyc - 1) hcyc
      rw [Nat.mul_comm] at hdiv
      exact Int.ofNat_le.2 (by omega)
    · have hle : m ≤ j * cyc := Int.ofNat_le.1 hj
      rw [Nat.div_le_iff_le_mul_add_pred hcyc, Nat.mul_comm]
      omega

section
variable {s : State} {n sub : Nat}

theorem gclTakeEffect_of_due (hup : s.up = true) {k a : Nat} (ha : a = aGCL n sub) (hk : (s.sub n sub).pend = some k)
    (hpend : s.gclPending n sub = true) (hdue : (k : Int) ≤ timeDiff s.clk (s.reg (a + 0xC)).toNat (s.rf (a + 8) 29 0))
    {g : GateList} (hg : g = ⟨(List.range (s.rf a 23 16)).map (fun i =>
      (s.rf (aGCLE n sub i) 31 24, s.rf (aGCLE n sub i) 23 0)), (s.reg (a + 4)).toNat, (s.reg (a + 0xC)).toNat,
      s.rf (a + 8) 29 0⟩) :
    gclTakeEffect n sub s = (s.setRbit a 31 false).setSub n sub { s.sub n sub with
      oper := some g, pend := none, gates := g.states s.clk } := by
  subst hg ha
  unfold gclTakeEffect
  simp only [hk]
  exact if_pos (by simp [hup, hpend, hdue])

theorem gateIntervalEnd_of_list (hup : s.up = true) {g : GateList} (hg : (s.sub n sub).oper = some g)
    (hon : s.gclOn n sub = true) :
    gateIntervalEnd n sub s = s.setSub n sub { s.sub n sub with gates := g.states s.clk } := by
  unfold gateIntervalEnd State.gateNow
  rw [if_pos (by simp [hup, hon])]
  simp only [hg]

end

theorem gateListsRun : Says.GateListsRun := by
  unfold Says.GateListsRun
  intro s n sub hup hn hsub a
  refine ⟨fun v hv => ⟨fun hpend => ?_, fun hpend => ?_⟩, fun k hk hpend hdue => ?_, fun g hg hon => ?_,
    fun hoff q ns => if_neg (by simp [hoff])⟩
  · exact congrArg Host.Outcome.next (gclChange_of_pending hup hn hsub hv hpend)
  · intro t len cyc d
    have hchange := gclChange_of_free (cyc := cyc) (d := d) (t := t) hup hn hsub hv hpend rfl rfl rfl rfl
    refine ⟨fun hlo hhi hclo hchi => ?_, fun hout => ?_⟩
    · obtain ⟨k, hk, hle, hmin⟩ := exists_first_cycle d (cyc := cyc) (by omega)
      rw [hk] at hchange
      exact ⟨k, congrArg Host.Outcome.next (hchange.trans (if_pos ⟨hlo, hhi, hclo, hchi⟩)), hle, hmin⟩
    · refine congrArg Host.Outcome.next (hchange.trans (if_neg ?_))
      rintro ⟨hlo, hhi, hclo, hchi⟩
      have hlo' : 1 ≤ len := hlo
      have hhi' : len ≤ 64 := hhi
      omega
  · exact congrArg Host.Outcome.next (gclTakeEffect_of_due hup rfl hk hpend hdue rfl)
  · exact congrArg Host.Outcome.next (gateIntervalEnd_of_list hup hg hon)

section
variable {s : State} {p : Nat}

theorem pqEnable_of_unbound (hup : s.up = true) (hp : p < 64) (hfree : (s.part p).tsp = 0) (hoff : s.pqOn p = false)
    (v : W32) {t : State} (ht : t = (s.applyWrite (aPQ p) v).setRbit (aPQ p) 31 false) :
    pqEnable p v s = if bitOf v 31 then
      (if t.pqOk p then (t.setRbit (aPQ p) 31 true).setRbit (aPQ p) 30 false else t.setRbit (aPQ p) 30 true) else t := by
  subst ht
  unfold pqEnable
  rw [if_pos (by simp [hup, hp]), if_neg (by simp [hfree]), if_neg (by simp [hoff])]

theorem State.pqOk_parts (h : s.pqOk p = true) : s.enabled p = true ∧ s.rf (aPQ p) 24 22 ≤ 4 ∧
    (s.rxRing p).1 + 64 + (16 + 9216) * (s.rxRing p).2 ≤ s.partBytes p ∧
    (s.txRing p).1 + 64 + 16 * (s.txRing p).2 ≤ s.partBytes p ∧
    ∀ q < 64, q ≠ p → s.pqOn q = true → s.pqPort q = s.pqPort p → s.pqVlan q ≠ s.pqVlan p := by
  simp only [State.pqOk, Bool.and_eq_true, decide_eq_true_eq, Bool.not_eq_true', List.any_eq_false, List.mem_range] at h
  obtain ⟨⟨⟨⟨⟨⟨hon, hqueue⟩, -⟩, -⟩, hrx⟩, htx⟩, hother⟩ := h
  exact ⟨hon, hqueue, hrx, htx, fun q hq hne honq hport hvlan => hother q hq ⟨⟨⟨hne, honq⟩, hport⟩, hvlan⟩⟩

theorem pqTxPoll_of_running (hlive : s.portsLive = true) (hawake : s.awake = true) (hp : p < 64) (hon : s.pqOn p = true)
    (hrun : (s.part p).state = .running) : pqTxPoll p s = State.pollTx p (s.txRing p).2
      (s.pqNote (s.issuerUeRead (some (p, (s.part p).resident)) (s.txRing p).1 8)) :=
  if_pos (by simp [hlive, hawake, hp, hon, hrun])

/-- A poll of a ring that has nothing new changes nothing. -/
theorem State.pollTx_of_nothing {r : Nat × Nat} (hr : r = s.txRing p)
    (hnone : (s.pqRead p r.1 2 % r.2 + r.2 - s.pqRead p (r.1 + 4) 2 % r.2) % r.2 ≤ s.pqWaiting p) (k : Nat) :
    State.pollTx p k s = s := by
  subst hr
  cases k with
  | zero => rfl
  | succ k => exact if_pos (.inr hnone)

end

section
variable {s : State} {p w idx buf len : Nat} {r : Nat × Nat} {i : Issuer} {bs : List Byte} (hr : r = s.txRing p)
  (hw : w = s.pqWaiting p) (hidx : idx = (s.pqRead p (r.1 + 4) 2 % r.2 + w) % r.2)
  (hi : i = some (p, (s.part p).resident)) (hbuf : buf = s.pqRead p (r.1 + 64 + 16 * idx) 8)
  (hlen : len = s.pqRead p (r.1 + 64 + 16 * idx + 8) 4 % 2 ^ 14) (hbs : bs = s.issuerRead i buf len)
  (hue : s.issuerUeRead i r.1 8 = none) (hentry : s.issuerUeRead i (r.1 + 64 + 16 * idx) 16 = none)
  (hdata : s.issuerUeRead i buf len = none)
  (hnew : w < (s.pqRead p r.1 2 % r.2 + r.2 - s.pqRead p (r.1 + 4) 2 % r.2) % r.2)
include hr hw hidx hi hbuf hlen hbs hue hentry hdata hnew

theorem State.pollTx_step (k : Nat) {bad : Prop} [Decidable bad] (hbad : bad ↔ (len < 14 ∨ len + 8 < 64 ∨ 9216 < len + 8 ∨
    buf % 64 ≠ 0 ∨ s.partBytes p < buf + len ∨ beNat ((bs.drop 12).take 2) = 0xAEFE ∨
    beNat ((bs.drop 12).take 2) = 0x88F7)) :
    State.pollTx p (k + 1) s = if bad then (if w = 0 then State.pollTx p k (s.txDone p idx (some 2)) else s)
      else State.pollTx p k (s.queueFrame (s.pqPort p).1 (s.pqPort p).2
        { what := .part p idx, dst := beNat (bs.take 6), src := s.subMac (s.pqPort p).1 (s.pqPort p).2
          vlan := some (s.pqVlan p), queue := s.rf (aPQ p) 24 22, len := len + 8, data := bs.drop 12, seq := 0
          after := 0, by' := none }) := by
  subst hbs hlen hbuf hi hidx hw hr
  rw [State.pollTx]
  dsimp only
  rw [if_neg (by simp [hue]; omega), hentry, hdata]
  refine ite_cond_congr (propext ?_)
  rw [hbad]
  simp [or_assoc]

end

theorem queuesBind : Says.QueuesBind := by
  unfold Says.QueuesBind
  intro s p hup hp
  refine ⟨congrArg Host.Outcome.next (if_pos hup), fun v => ⟨fun hbound => ?_, fun hfree hon => ?_, fun hfree hoff => ?_⟩,
    State.pqOk_parts, fun hlive hawake hon hrun => ?_, fun k => ?_⟩
  · refine congrArg Host.Outcome.next ?_
    unfold pqEnable
    rw [if_pos (by simp [hup, hp]), if_pos hbound]
  · refine congrArg Host.Outcome.next ?_
    unfold pqEnable
    rw [if_pos (by simp [hup, hp]), if_neg (by simp [hfree]), if_pos hon]
  · intro t
    have henable := pqEnable_of_unbound (t := t) hup hp hfree hoff v rfl
    exact ⟨fun hv hok => congrArg Host.Outcome.next (henable.trans ((if_pos hv).trans (if_pos hok))),
      fun hv hbad => congrArg Host.Outcome.next (henable.trans ((if_pos hv).trans (if_neg (by simp [hbad])))),
      fun hv => congrArg Host.Outcome.next (henable.trans (if_neg (by simp [hv])))⟩
  · intro r ue
    have hpoll := pqTxPoll_of_running hlive hawake hp hon hrun
    refine ⟨congrArg Host.Outcome.next hpoll, fun hue hnone => congrArg Host.Outcome.next (hpoll.trans ?_)⟩
    rw [show s.issuerUeRead (some (p, (s.part p).resident)) (s.txRing p).1 8 = none from hue]
    exact State.pollTx_of_nothing rfl hnone _
  · intro r w idx i buf len bs q bad hue hentry hdata hnew
    have hstep := State.pollTx_step (bs := bs) (bad := bad) rfl rfl rfl rfl rfl rfl rfl hue hentry hdata hnew k Iff.rfl
    exact ⟨fun hbad => ⟨fun hzero => hstep.trans ((if_pos hbad).trans (if_pos hzero)),
      fun hwait => hstep.trans ((if_pos hbad).trans (if_neg hwait))⟩, fun hgood => hstep.trans (if_neg hgood)⟩

/-- Settles O50. -/
theorem portsFollow : Obligations.PortsFollow := ⟨portCommandsAct, gateListsRun, queuesBind⟩

end Sys2Proof.Machine
end

section
/-! O51, the clock and its servo (12 R421 to R424). -/

namespace Sys2Proof.Machine

/-- What no step of a loop changes the loop does not change. -/
theorem foldl_proj {σ α β : Type} {f : σ → α → σ} (g : σ → β) (h : ∀ t x, g (f t x) = g t) (l : List α) (s : σ) :
    g (l.foldl f s) = g s := by
  induction l generalizing s with
  | nil => rfl
  | cons x l ih => exact (ih (f s x)).trans (h s x)

section
variable {s : State}

/-- A bit that is RW and not W1C takes the value written. -/
theorem rbit_applyWrite (hc : s.canon = true) {a i : Nat} (hi : i < 32)
    (hrw : (BitVec.ofNat 32 (regDesc a).rw).getLsbD i = true) (hw1c : (BitVec.ofNat 32 (regDesc a).w1c).getLsbD i = false)
    (v : W32) : (s.applyWrite a v).rbit a i = bitOf v i := by
  have hbit := (accessCodes s a i v hc hi).1
  rw [hw1c, hrw, if_pos rfl] at hbit
  exact hbit

theorem State.gateNow_servo (n sub : Nat) : (s.gateNow n sub).ports.servo = s.ports.servo := by
  unfold State.gateNow
  dsimp only
  split <;> rfl

theorem State.gateNow_clk (n sub : Nat) : (s.gateNow n sub).clk = s.clk :=
  (State.gateNow_keeps (List.Subset.refl _) .refl).1 .clk (by decide)

theorem State.stepClock_servo (v : Nat) : (s.stepClock v).ports.servo = s.ports.servo := by
  unfold State.stepClock
  rw [foldl_proj (fun t : State => t.ports.servo) fun t n => foldl_proj (fun t : State => t.ports.servo)
    (fun u i => State.gateNow_servo n i) _ t]

theorem State.stepClock_clk (v : Nat) : (s.stepClock v).clk = v := by
  unfold State.stepClock
  rw [foldl_proj State.clk fun t n => foldl_proj State.clk (fun u i => State.gateNow_clk n i) _ t]

section
variable {v : W32} {t u : State}

/-- A write of the servo's control register takes its enable bit, whatever the domain written. -/
theorem ptpEnabled_of_timeCtrl (hc : s.canon = true) (ht : t = (s.applyWrite (aTIME + 0x2C) v).setRf (aTIME + 0x2C) 15 8
    (if 24 ≤ field v 15 8 ∧ field v 15 8 ≤ 43 then field v 15 8 else s.rf (aTIME + 0x2C) 15 8)) :
    t.ptpEnabled = bitOf v 0 := by
  generalize (if 24 ≤ field v 15 8 ∧ field v 15 8 ≤ 43 then field v 15 8 else s.rf (aTIME + 0x2C) 15 8) = dom at ht
  have hc' : (s.applyWrite (aTIME + 0x2C) v).canon = true := (State.applyWrite_keeps (List.Subset.refl _) .refl).2 hc
  subst ht
  unfold State.ptpEnabled State.rbit State.setRf
  rw [State.reg_setReg_self _ _ _ (State.wf_regs hc'), bitOf_setField _ (by decide) _ (by decide), if_neg (by decide)]
  exact rbit_applyWrite hc (by decide) (by decide) (by decide) v

/-- A write of the servo's control register leaves the registers of the time to be set. -/
theorem timeSet_of_timeCtrl (ht : t = (s.applyWrite (aTIME + 0x2C) v).setRf (aTIME + 0x2C) 15 8
    (if 24 ≤ field v 15 8 ∧ field v 15 8 ≤ 43 then field v 15 8 else s.rf (aTIME + 0x2C) 15 8)) :
    t.timeSet = s.timeSet := by
  have hreg : ∀ a, a ≠ aTIME + 0x2C → t.reg a = s.reg a := fun a ha => by
    rw [ht]
    exact (State.reg_setReg_other _ _ _ _ ha).trans (State.reg_setReg_other _ _ _ _ ha)
  unfold State.timeSet State.rf
  rw [hreg _ (by decide), hreg _ (by decide), hreg _ (by decide)]

theorem timeCtrl_eq (ht : t = (s.applyWrite (aTIME + 0x2C) v).setRf (aTIME + 0x2C) 15 8
      (if 24 ≤ field v 15 8 ∧ field v 15 8 ≤ 43 then field v 15 8 else s.rf (aTIME + 0x2C) 15 8))
    (hu : u = if t.ptpEnabled then t
      else t.setServo { Servo.reset with lost := t.ports.servo.lost, lostAt := t.ports.servo.lostAt }) :
    s.timeCtrl v = if bitOf v 1 && !(u.ptpEnabled) && !(u.anyRunning) then u.stepClock u.timeSet else u := by
  subst hu ht
  rfl

/-- A servo that is off is reset, but for what it lost; nothing else changes. -/
theorem servo_of_timeCtrl (hu : u = if t.ptpEnabled then t
      else t.setServo { Servo.reset with lost := t.ports.servo.lost, lostAt := t.ports.servo.lostAt }) :
    (t.ptpEnabled = false → u.ports.servo.state = .freerun) ∧ Keeps [.ports] t u := by
  subst hu
  refine ⟨fun hoff => ?_, Keeps.ite .refl (State.setServo_keeps (List.Subset.refl _) .refl)⟩
  rw [if_neg (by simp [hoff])]
  rfl

theorem ptpEnabled_congr (h : u.regs = t.regs) : u.ptpEnabled = t.ptpEnabled :=
  congrArg (fun m => bitOf (SMap.get regReset m (aTIME + 0x2C)) 0) h

theorem timeSet_congr (h : u.regs = t.regs) : u.timeSet = t.timeSet := by
  unfold State.timeSet State.rf State.reg
  rw [h]

/-- What the write makes of the servo and of the clock. -/
theorem State.timeCtrl_acts (hc : s.canon = true) (v : W32) :
    (bitOf v 0 = false → (s.timeCtrl v).ports.servo.state = .freerun ∧
      (bitOf v 1 = true → s.anyRunning = false → (s.timeCtrl v).clk = s.timeSet)) ∧
    (bitOf v 0 = true ∨ bitOf v 1 = false ∨ s.anyRunning = true → (s.timeCtrl v).clk = s.clk) := by
  generalize ht : (s.applyWrite (aTIME + 0x2C) v).setRf (aTIME + 0x2C) 15 8
    (if 24 ≤ field v 15 8 ∧ field v 15 8 ≤ 43 then field v 15 8 else s.rf (aTIME + 0x2C) 15 8) = t
  have hen := ptpEnabled_of_timeCtrl hc ht.symm
  have hset := timeSet_of_timeCtrl ht.symm
  have hwrite : Keeps [.regs] s t := ht ▸ State.setRf_keeps (List.Subset.refl _)
    (State.applyWrite_keeps (List.Subset.refl _) .refl)
  generalize hu : (if t.ptpEnabled then t
    else t.setServo { Servo.reset with lost := t.ports.servo.lost, lostAt := t.ports.servo.lostAt }) = u
  obtain ⟨hservo, hrest⟩ := servo_of_timeCtrl hu.symm
  have hclk : u.clk = s.clk := (hrest.1 .clk (by decide)).trans (hwrite.1 .clk (by decide))
  have hrun : u.anyRunning = s.anyRunning :=
    congrArg (fun r : Radio => r.cells.any (fun e => decide (e.2.state = .running)))
      ((hrest.1 .radio (by decide)).trans (hwrite.1 .radio (by decide)))
  have hregs : u.regs = t.regs := hrest.1 .regs (by decide)
  have henu : u.ptpEnabled = bitOf v 0 := (ptpEnabled_congr hregs).trans hen
  rw [timeCtrl_eq ht.symm hu.symm, henu, hrun, timeSet_congr hregs, hset]
  constructor
  · intro hoff
    have hstate := hservo (hen.trans hoff)
    simp only [hoff, Bool.not_false, Bool.and_true]
    refine ⟨?_, fun hv hidle => ?_⟩
    · split
      · rw [State.stepClock_servo, hstate]
      · exact hstate
    · rw [hv, hidle]
      exact State.stepClock_clk _
  · intro hno
    refine (congrArg State.clk (if_neg ?_)).trans hclk
    simp only [Bool.and_eq_true, Bool.not_eq_true']
    rintro ⟨⟨hv, hoff⟩, hidle⟩
    obtain h | h | h := hno
    · exact absurd h (by simp [hoff])
    · exact absurd hv (by simp [h])
    · exact absurd h (by simp [hidle])

end

theorem announceTimeout_early (hearly : s.now < s.ports.servo.heardAt + announceNs) : announceTimeout s = s :=
  if_neg (by simp [Nat.not_le.2 hearly])

section
variable {m : Nat × Nat} (hlive : s.portsLive = true) (hen : s.ptpEnabled = true) (hslave : s.ports.servo.slave = some m)
include hlive hen hslave

section
variable {w : Servo} (hw : w = { s.ports.servo with slave := none, good := 0, bad := 0 })
  (hdue : s.ports.servo.heardAt + announceNs ≤ s.now)
include hw hdue

theorem announceTimeout_locked (hst : s.ports.servo.state = .locked) :
    announceTimeout s = (s.setServo { w with state := .holdover, holdAt := some s.now }).edge 9 := by
  subst hw
  unfold announceTimeout
  dsimp only
  rw [if_pos (by simp [hlive, hen, hslave, hdue])]
  simp only [hst]

theorem announceTimeout_acquiring (hst : s.ports.servo.state = .acquiring) : announceTimeout s =
    if s.ports.servo.lost then s.setServo { w with state := .exceeded }
    else if s.ports.servo.holdAt.isSome then s.setServo { w with state := .holdover }
    else if s.ports.servo.everLocked then (s.setServo { w with state := .holdover, holdAt := some s.now }).edge 9
    else s.setServo { w with state := .freerun } := by
  subst hw
  unfold announceTimeout
  dsimp only
  rw [if_pos (by simp [hlive, hen, hslave, hdue])]
  simp only [hst]

end
end

theorem holdoverExceeded_of_running {t0 : Nat} (hlive : s.portsLive = true) (hhold : s.ports.servo.holdAt = some t0)
    (hlost : s.ports.servo.lost = false) (hst : s.ports.servo.state = .holdover ∨ s.ports.servo.state = .acquiring) :
    holdoverExceeded s = if t0 + (s.reg (aTIME + 0x28)).toNat * 1_000_000 < s.now then
      (s.setServo { s.ports.servo with
        state := .exceeded, lost := true, lostAt := s.clk, slave := none, good := 0, bad := 0 }).edge 10 else s := by
  unfold holdoverExceeded
  simp only [hhold]
  exact ite_cond_congr (propext (by simp [hlive, hlost, hst]))

theorem todRead_latches (hup : s.up = true) (hc : s.canon = true) : (todRead s).rdata = lo32 s.clkNs ∧
    (todRead s).reg (aTIME + 4) = lo32 s.clkSec ∧ (todRead s).reg (aTIME + 8) = hi32 s.clkSec ∧
    WritesOnly [.regs, .rdata] s (todRead s) := by
  have htod : todRead s = { (s.setReg (aTIME + 4) (lo32 s.clkSec)).setReg (aTIME + 8) (hi32 s.clkSec) with
      rdata := lo32 s.clkNs } := if_pos hup
  refine ⟨by rw [htod], ?_, ?_, (todRead_keeps (List.Subset.refl _) .refl).1⟩
  · rw [htod]
    exact (State.reg_setReg_other _ _ _ _ (by decide)).trans (State.reg_setReg_self _ _ _ (State.wf_regs hc))
  · rw [htod]
    exact State.reg_setReg_self _ _ _
      (State.wf_regs ((State.setReg_keeps (List.Subset.refl _) (Keeps.refl (s := s))).2 hc))

end

theorem clockAndServo : Says.ClockAndServo := by
  unfold Says.ClockAndServo
  intro s hup hc
  refine ⟨⟨_, rfl, todRead_latches hup hc⟩, fun v => ⟨fun hv => congrArg Host.Outcome.next (if_pos (by simp [hup, hv])),
      fun hv => congrArg Host.Outcome.next (if_pos (by simp [hup, hv])), State.timeCtrl_acts hc v⟩,
    fun m hlive hen hslave => ⟨fun hdue => ?_, fun hearly => ?_⟩, rfl, fun t0 hlive hhold hlost hst => ?_⟩
  · intro w
    refine ⟨fun hst => congrArg Host.Outcome.next (announceTimeout_locked hlive hen hslave rfl hdue hst), fun hst => ?_⟩
    have hacq := announceTimeout_acquiring hlive hen hslave rfl hdue hst
    exact ⟨fun hlost => congrArg Host.Outcome.next (hacq.trans (if_pos hlost)),
      fun hlost hhold => congrArg Host.Outcome.next (hacq.trans ((if_neg (by simp [hlost])).trans (if_pos hhold))),
      fun hlost hhold hever => congrArg Host.Outcome.next (hacq.trans ((if_neg (by simp [hlost])).trans
        ((if_neg (by simp [hhold])).trans (if_neg (by simp [hever])))))⟩
  · exact congrArg Host.Outcome.next (announceTimeout_early hearly)
  · have hexceeded := holdoverExceeded_of_running hlive hhold hlost hst
    exact ⟨fun hpast => congrArg Host.Outcome.next (hexceeded.trans (if_pos hpast)),
      fun hearly => congrArg Host.Outcome.next (hexceeded.trans (if_neg (Nat.not_lt.2 hearly)))⟩

end Sys2Proof.Machine
end

section
/-! O51, the servo's offsets, and compare and capture units (12 R423, R424, R426 to R428). -/

namespace Sys2Proof.Machine

section
variable {s t : State} {o : Int} (ht : t = s.setReg (aTIME + 0x24) (lo32 (wrapOf 32 (satSigned 32 o))))
include ht

section
variable (hst : t.ports.servo.state = .acquiring)
include hst

theorem takeSync_acquiring_far (hfar : 1000 < o.natAbs) : s.takeSync o =
    if !(t.anyRunning) || t.ports.servo.mayStep then
      (t.setServo { t.ports.servo with
        good := 0, mayStep := false, syncRx := none, msDiff := none, delayTx := none }).stepClock
        ((t.clk : Int) - o).toNat
    else t.setServo { t.ports.servo with good := 0 } := by
  subst ht
  unfold State.takeSync
  simp only [hst]
  exact if_pos (decide_eq_true hfar)

theorem takeSync_acquiring_near (hfar : o.natAbs ≤ 1000) : s.takeSync o =
    if nearOff o then
      if 16 ≤ t.ports.servo.good + 1 then
        (if t.ports.servo.lost then ((t.setServo { t.ports.servo with
          state := .locked, everLocked := true, good := 0, bad := 0, holdAt := none, lost := false,
          mayStep := false }).ropeLocked).noticePassed (fun _ => true) t.ports.servo.lostAt 3
        else (t.setServo { t.ports.servo with
          state := .locked, everLocked := true, good := 0, bad := 0, holdAt := none, lost := false,
          mayStep := false }).ropeLocked)
      else t.setServo { t.ports.servo with good := t.ports.servo.good + 1 }
    else t.setServo { t.ports.servo with good := 0 } := by
  have hfar' : farOff o = false := decide_eq_false (Nat.not_lt.2 hfar)
  subst ht
  unfold State.takeSync
  simp only [hst, hfar', Bool.false_eq_true, if_false]

end

theorem takeSync_locked (hst : t.ports.servo.state = .locked) : s.takeSync o =
    if 1000 < o.natAbs then
      if 16 ≤ t.ports.servo.bad + 1 then (t.setServo { t.ports.servo with
        state := .holdover, good := 0, bad := 0, holdAt := some t.now, slave := none }).edge 9
      else t.setServo { t.ports.servo with bad := t.ports.servo.bad + 1 }
    else t.setServo { t.ports.servo with bad := 0 } := by
  subst ht
  unfold State.takeSync
  simp only [hst]
  exact ite_cond_congr (propext decide_eq_true_iff)

end

theorem State.syncDiff_of_path {s : State} {d : Int} (hpath : s.ports.servo.path = some d) (n sub : Nat) (rx : Int)
    (origin : Nat) (corr : Int) {ms : Int} (hms : ms = rx - 1000 * (origin : Int) - corr - s.asym n sub) :
    s.syncDiff n sub rx origin corr = (s.setServo { s.ports.servo with syncRx := none, msDiff := some ms }).takeSync
      ((ms - d + 500) / 1000) := by
  subst hms
  unfold State.syncDiff
  simp only [hpath]

theorem servoFollows : Says.ServoFollows := by
  unfold Says.ServoFollows
  intro s o t v
  refine ⟨fun n sub rx origin corr d hpath => State.syncDiff_of_path hpath n sub rx origin corr rfl,
    fun hst => ⟨fun hfar => ?_, fun hmid hle => ?_, fun hnear hgood => ?_, fun hnear hgood hlost => ?_⟩,
    fun hst => ⟨fun hle => ?_, fun hfar hbad => ?_, fun hfar hbad => ?_⟩⟩
  · have hsync := takeSync_acquiring_far (s := s) (o := o) (t := t) rfl hst hfar
    refine ⟨fun hmay => hsync.trans (if_pos ?_), fun hrun hno => hsync.trans (if_neg ?_)⟩
    · simpa using hmay
    · simp [hrun, show t.ports.servo.mayStep = false from hno]
  · exact (takeSync_acquiring_near (t := t) rfl hst hle).trans (if_neg (by simp [nearOff, hmid]))
  · exact (takeSync_acquiring_near (t := t) rfl hst (by omega)).trans ((if_pos (by simp [nearOff, hnear])).trans
      (if_neg (by change ¬ 16 ≤ v.good + 1; omega)))
  · exact (takeSync_acquiring_near (t := t) rfl hst (by omega)).trans ((if_pos (by simp [nearOff, hnear])).trans
      ((if_pos (by change 16 ≤ v.good + 1; omega)).trans (if_neg (by simp [show t.ports.servo.lost = false from hlost]))))
  · exact (takeSync_locked (t := t) rfl hst).trans (if_neg (Nat.not_lt.2 hle))
  · exact (takeSync_locked (t := t) rfl hst).trans ((if_pos hfar).trans (if_neg (by change ¬ 16 ≤ v.bad + 1; omega)))
  · exact (takeSync_locked (t := t) rfl hst).trans ((if_pos hfar).trans (if_pos (by change 16 ≤ v.bad + 1; omega)))

section
variable {s : State} {u : Nat} (hup : s.up = true) (hu : u < 16)
include hup hu

theorem cmpArm_of_up (hc : s.canon = true) (v : W32) {t : State} (ht : t = s.applyWrite (aCMP u + 0xC) v) :
    cmpArm u v s = if !(s.rbit (aCMP u + 0xC) 0) && bitOf v 0 && decide (0 < t.cmpDiff u) then
      t.setRbit (aCMP u + 0xC) 3 true else t := by
  have hdesc : ∀ k < 16, (BitVec.ofNat 32 (regDesc (aCMP k + 0xC)).rw).getLsbD 0 = true ∧
      (BitVec.ofNat 32 (regDesc (aCMP k + 0xC)).w1c).getLsbD 0 = false := by decide
  have hbit : t.rbit (aCMP u + 0xC) 0 = bitOf v 0 :=
    ht ▸ rbit_applyWrite hc (by decide) (hdesc u hu).1 (hdesc u hu).2 v
  rw [← hbit]
  subst ht
  unfold cmpArm
  exact if_pos (by simp [hup, hu])

theorem cmpFire_of_armed (harmed : s.rbit (aCMP u + 0xC) 0 = true) {t : State} {per ns : Nat}
    (ht : t = ((s.setRbit (aCMP u + 0xC) 2 true).edge (16 + u)).pulse (s.rf (aCMP u + 0xC) 11 10)
      (s.rf (aCMP u + 0xC) 19 12)) (hper : per = s.rf (aCMP u + 8) 29 0) (hns : ns = s.rf (aCMP u) 29 0 + max 1000 per) :
    cmpFire u s = if 0 ≤ s.cmpDiff u then
      if per = 0 then t.setRbit (aCMP u + 0xC) 0 false
      else (t.setReg (aCMP u) (lo32 (ns % 1_000_000_000))).setReg (aCMP u + 4)
        (lo32 ((s.reg (aCMP u + 4)).toNat + ns / 1_000_000_000))
    else s := by
  subst hns hper ht
  unfold cmpFire
  exact ite_cond_congr (propext (by simp [hup, hu, harmed]))

end

section
variable {s : State} {e : Nat}

theorem ppsPulseEnd_zero (h : s.ports.pps0 = some e) :
    ppsPulseEnd 0 s = if e ≤ s.now then { s with ports := { s.ports with pps0 := none } } else s := by
  unfold ppsPulseEnd
  simp only [h, if_true]
  exact ite_cond_congr (propext decide_eq_true_iff)

theorem ppsPulseEnd_one (h : s.ports.pps1 = some e) :
    ppsPulseEnd 1 s = if e ≤ s.now then { s with ports := { s.ports with pps1 := none } } else s := by
  unfold ppsPulseEnd
  rw [if_neg (by decide), if_pos rfl]
  simp only [h]
  exact ite_cond_congr (propext decide_eq_true_iff)

end

section
variable {s : State} {c : Nat}

theorem captureArm_arms (hup : s.up = true) (hc : s.canon = true) (hlt : c < 8) {v : W32} (hv : bitOf v 0 = true) :
    (∃ n, (c, n) ∈ (captureArm c v s).ports.armed) ∧ (captureArm c v s).rbit (aCAP c + 8) 31 = false ∧
      WritesOnly [.regs, .ports] s (captureArm c v s) := by
  have hw := (captureArm_keeps (a0 := c) (a1 := v) (List.Subset.refl _) (Keeps.refl (s := s))).1
  have hct := (State.applyWrite_keeps (a1 := aCAP c + 8) (a2 := v) (List.Subset.refl _) (Keeps.refl (s := s))).2 hc
  unfold captureArm at hw ⊢
  rw [if_pos (by simp [hup, hlt])] at hw ⊢
  generalize s.applyWrite (aCAP c + 8) v = t at hw hct ⊢
  have hread := State.rbit_setRbit_self hct (aCAP c + 8) (i := 31) (by decide) false
  dsimp only at hw ⊢
  rw [if_pos hv] at hw ⊢
  exact ⟨⟨_, List.mem_cons_self⟩, hread, hw⟩

/-- The registers that a capture unit `c` writes when it records the time `q` s and `r` ns. -/
def State.capturedRegs (s : State) (c r q : Nat) : State :=
  ((s.setReg (aCAP c) (lo32 r)).setReg (aCAP c + 4) (lo32 q)).setRbit (aCAP c + 8) 31 true

theorem State.captured_reg (t k : Nat) :
    (s.captured c t).reg k = (s.capturedRegs c (t % 1_000_000_000) (t / 1_000_000_000)).reg k := by
  unfold State.captured State.capturedRegs State.reg
  rfl

theorem State.captured_armed (t : Nat) :
    (s.captured c t).ports.armed = s.ports.armed.filter (fun e => decide (e.1 ≠ c)) := rfl

section
variable (hc : s.canon = true)
include hc

theorem State.capturedRegs_ns (r q : Nat) : (s.capturedRegs c r q).reg (aCAP c) = lo32 r := by
  unfold State.capturedRegs State.setRbit
  rw [State.reg_setReg_other _ _ _ _ (by omega), State.reg_setReg_other _ _ _ _ (by omega),
    State.reg_setReg_self _ _ _ (State.wf_regs hc)]

theorem State.capturedRegs_sec (r q : Nat) : (s.capturedRegs c r q).reg (aCAP c + 4) = lo32 q := by
  unfold State.capturedRegs State.setRbit
  rw [State.reg_setReg_other _ _ _ _ (by omega), State.reg_setReg_self _ _ _
    (State.wf_regs ((State.setReg_keeps (List.Subset.refl _) .refl).2 hc))]

theorem State.capturedRegs_control (r q : Nat) :
    (s.capturedRegs c r q).reg (aCAP c + 8) = setBit (s.reg (aCAP c + 8)) 31 true := by
  unfold State.capturedRegs State.setRbit
  rw [State.reg_setReg_self _ _ _ (State.wf_regs ((State.setReg_keeps (List.Subset.refl _)
    (State.setReg_keeps (List.Subset.refl _) .refl)).2 hc)), State.reg_setReg_other _ _ _ _ (by omega),
    State.reg_setReg_other _ _ _ _ (by omega)]

/-- Of the control registers of the units, the one that recorded changes its done bit alone. -/
theorem State.captured_control (t k : Nat) :
    (s.captured c t).reg (aCAP k + 8) = s.reg (aCAP k + 8) ∨
      (s.captured c t).reg (aCAP k + 8) = setBit (s.reg (aCAP k + 8)) 31 true := by
  rw [State.captured_reg]
  by_cases hk : k = c
  · subst hk
    exact .inr (State.capturedRegs_control hc _ _)
  · left
    unfold State.capturedRegs State.setRbit
    rw [State.reg_setReg_other _ _ _ _ (by unfold aCAP; omega), State.reg_setReg_other _ _ _ _ (by unfold aCAP; omega),
      State.reg_setReg_other _ _ _ _ (by unfold aCAP; omega)]

/-- A capture unit that has recorded shows the time, and waits no longer. -/
theorem State.captured_shows (t : Nat) :
    (s.captured c t).reg (aCAP c) = lo32 (t % 1_000_000_000) ∧
      (s.captured c t).reg (aCAP c + 4) = lo32 (t / 1_000_000_000) ∧ (s.captured c t).rbit (aCAP c + 8) 31 = true ∧
      ∀ n, (c, n) ∉ (s.captured c t).ports.armed := by
  refine ⟨?_, ?_, ?_, fun n hn => ?_⟩
  · rw [State.captured_reg, State.capturedRegs_ns hc]
  · rw [State.captured_reg, State.capturedRegs_sec hc]
  · rw [State.rbit, State.captured_reg, State.capturedRegs_control hc, bitOf_setBit_self _ (by decide)]
  · rw [State.captured_armed] at hn
    exact absurd (List.mem_filter.1 hn).2 (by simp)

/-- A capture unit leaves the control register of another one, and of its own all but the done bit. -/
theorem State.captured_field (t k : Nat) {hi lo : Nat} (hhi : hi < 31) :
    (s.captured c t).rf (aCAP k + 8) hi lo = s.rf (aCAP k + 8) hi lo := by
  unfold State.rf
  rcases State.captured_control hc t k with hk | hk
  · rw [hk]
  · rw [hk, setBit, field_setField_other _ (Nat.le_refl 31) (by omega) (.inr hhi)]

/-- What has recorded stays recorded while other units record. -/
theorem State.captured_done (t : Nat) {k : Nat} (hbit : s.rbit (aCAP k + 8) 31 = true)
    (harm : ∀ n, (k, n) ∉ s.ports.armed) :
    (s.captured c t).rbit (aCAP k + 8) 31 = true ∧ ∀ n, (k, n) ∉ (s.captured c t).ports.armed := by
  constructor
  · unfold State.rbit at hbit ⊢
    rcases State.captured_control hc t k with hk | hk
    · rw [hk, hbit]
    · rw [hk, bitOf_setBit_self _ (by decide)]
  · intro n hn
    rw [State.captured_armed] at hn
    exact harm n (List.mem_filter.1 hn).1

end

theorem State.captured_canon (hc : s.canon = true) (t : Nat) : (s.captured c t).canon = true :=
  (State.captured_keeps (List.Subset.refl _) .refl).2 hc

end

/-- One armed unit's part of a capture: its source and its cell's slot decide whether it records. -/
def captureStep (src cell slot t : Nat) (u : State) (e : Nat × Nat) : State :=
  if u.rf (aCAP e.1 + 8) 3 1 = src ∧ u.rf (aCAP e.1 + 8) 24 16 = cell ∧ e.2 ≤ slot then u.captured e.1 t else u

section
variable {s : State} {src cell slot t k : Nat}

theorem captureStep_fields (hc : s.canon = true) (e : Nat × Nat) {hi lo : Nat} (hhi : hi < 31) :
    (captureStep src cell slot t s e).canon = true ∧
      (captureStep src cell slot t s e).rf (aCAP k + 8) hi lo = s.rf (aCAP k + 8) hi lo := by
  unfold captureStep
  split
  · exact ⟨State.captured_canon hc t, State.captured_field hc t k hhi⟩
  · exact ⟨hc, rfl⟩

/-- Once unit `k` has recorded, the rest of the units leaves it so. -/
theorem captureSteps_done (es : List (Nat × Nat)) (hc : s.canon = true) (hbit : s.rbit (aCAP k + 8) 31 = true)
    (harm : ∀ n, (k, n) ∉ s.ports.armed) :
    (es.foldl (captureStep src cell slot t) s).rbit (aCAP k + 8) 31 = true ∧
      ∀ n, (k, n) ∉ (es.foldl (captureStep src cell slot t) s).ports.armed := by
  induction es generalizing s with
  | nil => exact ⟨hbit, harm⟩
  | cons e es ih =>
    have hnext : (captureStep src cell slot t s e).rbit (aCAP k + 8) 31 = true ∧
        ∀ n, (k, n) ∉ (captureStep src cell slot t s e).ports.armed := by
      unfold captureStep
      split
      · exact State.captured_done hc t hbit harm
      · exact ⟨hbit, harm⟩
    exact ih (captureStep_fields (k := k) (hi := 0) (lo := 0) hc e (by decide)).1 hnext.1 hnext.2

/-- An armed unit whose source and slot have come records. -/
theorem captureSteps_records (es : List (Nat × Nat)) (hc : s.canon = true) {e : Nat × Nat} (he : e ∈ es)
    (hsrc : s.rf (aCAP e.1 + 8) 3 1 = src) (hcell : s.rf (aCAP e.1 + 8) 24 16 = cell) (hslot : e.2 ≤ slot) :
    (es.foldl (captureStep src cell slot t) s).rbit (aCAP e.1 + 8) 31 = true ∧
      ∀ n, (e.1, n) ∉ (es.foldl (captureStep src cell slot t) s).ports.armed := by
  induction es generalizing s with
  | nil => exact absurd he List.not_mem_nil
  | cons x es ih =>
    rcases List.mem_cons.1 he with rfl | hmem
    · obtain ⟨-, -, hbit, harm⟩ := State.captured_shows (c := e.1) hc t
      rw [List.foldl_cons, captureStep, if_pos ⟨hsrc, hcell, hslot⟩]
      exact captureSteps_done es (State.captured_canon hc t) hbit harm
    · obtain ⟨hc', hsrc'⟩ := captureStep_fields (src := src) (cell := cell) (slot := slot) (t := t) (k := e.1)
        (hi := 3) (lo := 1) hc x (by decide)
      have hcell' := (captureStep_fields (src := src) (cell := cell) (slot := slot) (t := t) (k := e.1)
        (hi := 24) (lo := 16) hc x (by decide)).2
      exact ih hc' hmem (hsrc'.trans hsrc) (hcell'.trans hcell)

theorem captureEvent_of_armed (hup : s.up = true) {c n : Nat} (harm : (c, n) ∈ s.ports.armed)
    (hsrc : s.rf (aCAP c + 8) 3 1 = 1) : captureEvent c s = s.captured c s.clk := by
  have hany : s.ports.armed.any (fun e => decide (e.1 = c)) = true :=
    List.any_eq_true.2 ⟨(c, n), harm, decide_eq_true rfl⟩
  exact if_pos (by rw [hup, hany, hsrc]; rfl)

theorem captureEvent_of_not {c : Nat} (h : (∀ n, (c, n) ∉ s.ports.armed) ∨ s.rf (aCAP c + 8) 3 1 ≠ 1) :
    captureEvent c s = s := by
  refine if_neg fun hgo => ?_
  rw [Bool.and_eq_true, Bool.and_eq_true, List.any_eq_true] at hgo
  obtain ⟨⟨-, e, he, hunit⟩, hsrc⟩ := hgo
  rcases h with harm | hother
  · exact harm e.2 (of_decide_eq_true hunit ▸ he)
  · exact hother (of_decide_eq_true hsrc)

end

theorem comparesAndCaptures : Says.ComparesAndCaptures := by
  intro s hup hc
  refine ⟨fun u v hu => ?_, fun u hu harmed => ?_, fun us => ⟨rfl, rfl, rfl⟩, fun e => ⟨fun h => ?_, fun h => ?_⟩,
    fun c v hlt hv => ?_, fun c t => State.captured_shows hc t, fun c n harm hsrc => ?_, fun c h => ?_,
    fun src cell slot t e he hsrc hcell hslot => captureSteps_records _ hc he hsrc hcell hslot⟩
  · intro t
    have harm := cmpArm_of_up hup hu hc v (t := t) rfl
    refine ⟨fun hoff hset hlater => congrArg Host.Outcome.next (harm.trans (if_pos (by simp [hoff, hset, hlater]))),
      fun hno => congrArg Host.Outcome.next (harm.trans (if_neg fun hgo => ?_))⟩
    simp only [Bool.and_eq_true, Bool.not_eq_true', decide_eq_true_eq] at hgo
    obtain ⟨⟨hoff, hset⟩, hlater⟩ := hgo
    rcases hno with h | h | h
    · exact Bool.noConfusion (hoff.symm.trans h)
    · exact Bool.noConfusion (hset.symm.trans h)
    · omega
  · intro t per ns
    have hfire := cmpFire_of_armed hup hu harmed (t := t) (per := per) (ns := ns) rfl rfl rfl
    exact ⟨fun hearly => congrArg Host.Outcome.next (hfire.trans (if_neg (Int.not_le.2 hearly))),
      fun hdue hper => congrArg Host.Outcome.next (hfire.trans ((if_pos hdue).trans (if_pos hper))),
      fun hdue hper => congrArg Host.Outcome.next (hfire.trans ((if_pos hdue).trans (if_neg hper)))⟩
  · exact ⟨fun hle => congrArg Host.Outcome.next ((ppsPulseEnd_zero h).trans (if_pos hle)),
      fun hlt => congrArg Host.Outcome.next ((ppsPulseEnd_zero h).trans (if_neg (Nat.not_le.2 hlt)))⟩
  · exact ⟨fun hle => congrArg Host.Outcome.next ((ppsPulseEnd_one h).trans (if_pos hle)),
      fun hlt => congrArg Host.Outcome.next ((ppsPulseEnd_one h).trans (if_neg (Nat.not_le.2 hlt)))⟩
  · exact ⟨_, rfl, captureArm_arms hup hc hlt hv⟩
  · exact congrArg Host.Outcome.next (captureEvent_of_armed hup harm hsrc)
  · exact congrArg Host.Outcome.next (captureEvent_of_not h)

/-- Settles O51. -/
theorem timeIsKept : Obligations.TimeIsKept := ⟨clockAndServo, servoFollows, comparesAndCaptures⟩

end Sys2Proof.Machine
end

section
/-! O52, the firmware watchdog and firmware updates (13 R433 to R440). -/

namespace Sys2Proof.Machine

section
variable {s : State}

-- The watchdog.

theorem State.awake_of_quiesced (h : s.sec.quiesced = true) : s.awake = false := by
  unfold State.awake
  rw [h, Bool.not_true, Bool.and_false]

theorem State.portsLive_of_quiesced (h : s.sec.quiesced = true) : s.portsLive = false := by
  unfold State.portsLive
  rw [h, Bool.not_true, Bool.and_false]

theorem frameTransmit_of_dead (h : s.portsLive = false) (n sub : Nat) : frameTransmit n sub s = s := by
  unfold frameTransmit
  rw [h, Bool.false_and, Bool.false_and, Bool.false_and, if_neg Bool.false_ne_true]

theorem watchdogQuiesces : Says.WatchdogQuiesces := by
  intro s hlive
  refine ⟨congrArg Host.Outcome.next (if_pos hlive), fun hidle hdue => ?_, fun hno => ?_⟩
  · refine ⟨_, rfl, if_pos (by simp [hlive, hidle, hdue]), ?_⟩
    rw [show watchdogQuiesce s = _ from if_pos (by simp [hlive, hidle, hdue])]
    have hdead := State.portsLive_of_quiesced (s := ((s.edge 11).record 0x0502 siteDevice 0 0).setSec fun x =>
      { x with quiesced := true, quiesces := satAdd 0xFFFF x.quiesces 1 }) rfl
    exact ⟨State.awake_of_quiesced rfl, hdead,
      fun n sub => congrArg Host.Outcome.next (frameTransmit_of_dead hdead n sub)⟩
  · refine congrArg Host.Outcome.next (if_neg fun hgo => ?_)
    simp only [Bool.and_eq_true, Bool.not_eq_true', decide_eq_true_eq] at hgo
    obtain ⟨⟨-, hidle⟩, hdue⟩ := hgo
    rcases hno with h | h
    · exact Bool.noConfusion (hidle.symm.trans h)
    · exact Nat.not_le.2 h hdue

-- The descriptors of an update.

section
variable {d : Desc} (hawake : s.awake = true) (hnext : s.nextStart 0 = some d) (hop : d.op = 0x32)
include hawake hnext hop

theorem State.fwUpdate_of_bad {w : Nat} (hbad : s.fwBad d.words = some w) (act : Nat) (f : State → Desc → State) :
    s.fwUpdate act f = s.finishDesc 0 d.idx (Result.bad w) := by
  simp only [State.fwUpdate, State.admitAdmin_of_next hawake hnext hop, hbad]

theorem State.fwUpdate_of_good {act : Nat} (hgood : s.fwBad d.words = none) (hact : wfield d.words 4 7 0 = act)
    (f : State → Desc → State) : s.fwUpdate act f = f s d := by
  simp only [State.fwUpdate, State.admitAdmin_of_next hawake hnext hop, hgood, hact, if_true]

end

/-- A reading that ends while its image is checked stages the image, or rejects it with its cause. -/
theorem fwStage_of_read (hawake : s.awake = true) (hfw : s.sec.fw = .staging) (r : FwRead) :
    fwStage (some r) s = if r.cause s.fuses = 0 then
        ((s.setSec (fun x => { x.setInactive (some r.image) with stagedSvn := r.image.svn })).setFw .staged).finishDesc
          0 s.sec.actIdx (Result.of .success)
      else
        ((s.setSec (fun x => { x with cause := r.cause s.fuses, last := .rejected })).setFw .idle).finishDesc
          0 s.sec.actIdx (Result.of .imageRejected) :=
  if_pos (by simp [hawake, hfw])

theorem fwStage_of_not_staging (hfw : s.sec.fw ≠ .staging) (r : FwRead) : fwStage (some r) s = s :=
  if_neg (by simp [hfw])

-- The cause of a rejection.

section
variable {r : FwRead} {f : Fuses}

theorem FwRead.formOk_iff : r.formOk = true ↔
    r.header.size = r.body.length ∧ r.header.size ≤ 33_554_432 ∧ r.header.svn ≤ 63 := by
  unfold FwRead.formOk
  rw [Bool.and_eq_true, Bool.and_eq_true, decide_eq_true_iff, decide_eq_true_iff, decide_eq_true_iff, and_assoc]
  exact and_congr_right fun hsize => by rw [hsize]

theorem FwRead.signed_iff :
    (r.header.signed f.rootKey && decide (r.header.digest = sha256 r.body)) = true ↔
      Config.certified f.rootKey r.header.cert r.header.signer = true ∧
        Config.ecdsaVerify r.header.signer (Config.signedHeader r.header.digest r.header.size r.header.svn)
          r.header.sig = true ∧ r.header.digest = sha256 r.body := by
  unfold FwHeader.signed
  rw [Bool.and_eq_true, Bool.and_eq_true, decide_eq_true_iff, and_assoc]

theorem FwRead.cause_of_unread (h : r.readOk = false) : r.cause f = 4 := if_pos (by rw [h]; rfl)

theorem FwRead.cause_of_read (h : r.readOk = true) : r.cause f =
    if !r.formOk then 3
    else if !(r.header.signed f.rootKey && decide (r.header.digest = sha256 r.body)) then 1
    else if r.header.svn < f.minSvn then 2 else 0 := if_neg (by rw [h]; exact Bool.false_ne_true)

theorem FwRead.cause_of_form (h : r.readOk = true) (hform : r.formOk = true) : r.cause f =
    if !(r.header.signed f.rootKey && decide (r.header.digest = sha256 r.body)) then 1
    else if r.header.svn < f.minSvn then 2 else 0 :=
  (FwRead.cause_of_read h).trans (if_neg (by rw [hform]; exact Bool.false_ne_true))

theorem FwRead.cause_of_signed (h : r.readOk = true) (hform : r.formOk = true)
    (hsig : (r.header.signed f.rootKey && decide (r.header.digest = sha256 r.body)) = true) :
    r.cause f = if r.header.svn < f.minSvn then 2 else 0 :=
  (FwRead.cause_of_form h hform).trans (if_neg (by rw [hsig]; exact Bool.false_ne_true))

theorem FwRead.cause_of_misformed (h : r.readOk = true) (hform : ¬r.formOk = true) : r.cause f = 3 :=
  (FwRead.cause_of_read h).trans (if_pos (by rw [Bool.eq_false_iff.2 hform]; rfl))

theorem FwRead.cause_of_unsigned (h : r.readOk = true) (hform : r.formOk = true)
    (hsig : ¬(r.header.signed f.rootKey && decide (r.header.digest = sha256 r.body)) = true) : r.cause f = 1 :=
  (FwRead.cause_of_form h hform).trans (if_pos (by rw [Bool.eq_false_iff.2 hsig]; rfl))

/-- The checks of an image run in the order of 13 R440's causes, and none fails where the cause is 0. -/
theorem FwRead.cause_zero_iff : r.cause f = 0 ↔ r.readOk = true ∧ r.formOk = true ∧
    (r.header.signed f.rootKey && decide (r.header.digest = sha256 r.body)) = true ∧ f.minSvn ≤ r.header.svn := by
  by_cases hread : r.readOk = true
  · by_cases hform : r.formOk = true
    · by_cases hsig : (r.header.signed f.rootKey && decide (r.header.digest = sha256 r.body)) = true
      · rw [FwRead.cause_of_signed hread hform hsig]
        by_cases hsvn : r.header.svn < f.minSvn
        · simp [hsvn]
        · simp only [hsvn, if_false, true_iff]
          exact ⟨hread, hform, hsig, Nat.not_lt.1 hsvn⟩
      · rw [FwRead.cause_of_unsigned hread hform hsig]
        exact ⟨fun h => absurd h (by decide), fun h => absurd h.2.2.1 hsig⟩
    · rw [FwRead.cause_of_misformed hread hform]
      exact ⟨fun h => absurd h (by decide), fun h => absurd h.2.1 hform⟩
  · rw [FwRead.cause_of_unread (Bool.eq_false_iff.2 hread)]
    exact ⟨fun h => absurd h (by decide), fun h => absurd h.1 hread⟩

end

-- The end of an activation.

theorem State.setFw_sec (v : FwState) : (s.setFw v).sec = { s.sec with fw := v } :=
  (State.edge_keeps (a1 := 12) (List.Subset.refl _) (Keeps.refl (s := s.setSec (fun x => { x with fw := v })))).1 .sec (by decide)

theorem State.finishDesc_sec (n i : Nat) (r : Result) : (s.finishDesc n i r).sec = s.sec :=
  (State.finishDesc_keeps (List.Subset.refl _) .refl).1 .sec (by decide)

theorem State.answerHeld_sec : s.answerHeld.sec = { s.sec with held := [] } :=
  foldl_proj (f := fun (t : State) (e : Nat × SpdmHeld) => t.spdmOut e.1 (t.attest e.1 e.2)) State.sec
    (fun _ _ => rfl) s.sec.held (s.setSec (fun x => { x with held := [] }))

section
variable (hup : s.up = true) (hact : s.activating = true)
include hup hact

theorem fwCommit_of_timely {im : FwImage} (him : s.sec.inactive = some im) (htime : s.now ≤ s.sec.actAt + 250_000_000) :
    (fwCommit s).sec.fw = .idle ∧ (fwCommit s).sec.last = .committed ∧ (fwCommit s).sec.running = im ∧
      (fwCommit s).sec.activeB = (!s.sec.activeB) ∧ (fwCommit s).sec.held = [] ∧
      (fwCommit s).fuses = { s.fuses with
        minSvn := if s.sec.raiseSvn then max s.fuses.minSvn im.svn else s.fuses.minSvn } := by
  simp only [fwCommit, him]
  rw [if_pos (by simp [hup, hact, htime]), State.answerHeld_sec, State.answerHeld_fuses, State.finishDesc_sec,
    State.finishDesc_fuses, State.setFw_sec, State.setFw_fuses]
  exact ⟨rfl, rfl, rfl, rfl, rfl, rfl⟩

theorem fwRollback_of_late (htime : s.sec.actAt + 250_000_000 ≤ s.now) :
    (fwRollback s).sec.fw = .idle ∧ (fwRollback s).sec.last = .rolledBack ∧ (fwRollback s).sec.cause = 5 ∧
      (fwRollback s).sec.running = s.sec.running ∧ (fwRollback s).sec.activeB = s.sec.activeB ∧
      (fwRollback s).sec.held = [] := by
  unfold fwRollback
  rw [if_pos (by simp [hup, hact, htime]), State.answerHeld_sec, State.finishDesc_sec, State.setFw_sec]
  exact ⟨rfl, rfl, rfl, rfl, rfl, rfl⟩

end

theorem State.activating_eq_false (h : s.sec.fw ≠ .activating) : s.activating = false := decide_eq_false h

theorem fwCommit_of_not_activating (h : s.sec.fw ≠ .activating) : fwCommit s = s := by
  unfold fwCommit
  split
  · exact if_neg (by simp [State.activating_eq_false h])
  · rfl

theorem fwRollback_of_not_activating (h : s.sec.fw ≠ .activating) : fwRollback s = s :=
  if_neg (by simp [State.activating_eq_false h])

theorem fwDiscard_of_update {d : Desc} (hawake : s.awake = true) (hnext : s.nextStart 0 = some d) (hop : d.op = 0x32)
    (hgood : s.fwBad d.words = none) (hact : wfield d.words 4 7 0 = 3) :
    (s.sec.fw = .staged → fwDiscard s =
      (((s.setSec (fun x => { x.setInactive none with stagedSvn := 0 })).setFw .idle).finishDesc 0 d.idx
        (Result.of .success))) ∧
      (s.sec.fw ≠ .staged → fwDiscard s = s.finishDesc 0 d.idx (Result.of .success)) := by
  unfold fwDiscard
  rw [State.fwUpdate_of_good hawake hnext hop hgood hact]
  refine ⟨fun hstaged => ?_, fun hnot => ?_⟩
  · simp only [hstaged]
  · split
    · exact absurd ‹_› hnot
    · rfl

end

theorem State.up_of_awake {s : State} (h : s.awake = true) : s.up = true := by
  unfold State.awake at h
  rw [Bool.and_eq_true, Bool.and_eq_true] at h
  exact h.1.1

theorem updatesRun : Says.UpdatesRun := by
  intro s hawake
  refine ⟨fun d w hnext hop hbad c hc => ?_, fun d act hnext hop hgood hact => ⟨?_, ?_, ?_⟩, fun hfw r => ⟨?_, ?_⟩,
    fun hfw r => congrArg Host.Outcome.next (fwStage_of_not_staging hfw r), fun r => ?_, fun hact im him => ⟨?_, ?_⟩, fun hfw =>
    ⟨congrArg Host.Outcome.next (fwCommit_of_not_activating hfw),
      congrArg Host.Outcome.next (fwRollback_of_not_activating hfw)⟩⟩
  · have hrefuse := State.fwUpdate_of_bad hawake hnext hop hbad
    simp only [List.mem_cons, List.not_mem_nil, or_false] at hc
    rcases hc with rfl | rfl | rfl
    · exact congrArg Host.Outcome.next (hrefuse 1 _)
    · exact congrArg Host.Outcome.next (hrefuse 2 _)
    · exact congrArg Host.Outcome.next (hrefuse 3 _)
  · rintro rfl
    exact congrArg Host.Outcome.next (State.fwUpdate_of_good hawake hnext hop hgood hact _)
  · rintro rfl
    exact congrArg Host.Outcome.next (State.fwUpdate_of_good hawake hnext hop hgood hact _)
  · rintro rfl
    obtain ⟨hstaged, hnot⟩ := fwDiscard_of_update hawake hnext hop hgood hact
    exact ⟨fun h => congrArg Host.Outcome.next (hstaged h), fun h => congrArg Host.Outcome.next (hnot h)⟩
  · exact fun h => congrArg Host.Outcome.next ((fwStage_of_read hawake hfw r).trans (if_pos h))
  · exact fun h => congrArg Host.Outcome.next ((fwStage_of_read hawake hfw r).trans (if_neg h))
  · intro h form signed
    have hform : r.formOk = true ↔ form := FwRead.formOk_iff
    have hsigned : (r.header.signed s.fuses.rootKey && decide (r.header.digest = sha256 r.body)) = true ↔ signed :=
      FwRead.signed_iff
    refine ⟨FwRead.cause_of_unread, fun hread hno => FwRead.cause_of_misformed hread (mt hform.1 hno),
      fun hread hf hno => FwRead.cause_of_unsigned hread (hform.2 hf) (mt hsigned.1 hno),
      fun hread hf hs hlow => (FwRead.cause_of_signed hread (hform.2 hf) (hsigned.2 hs)).trans (if_pos hlow), ?_⟩
    rw [FwRead.cause_zero_iff, hform, hsigned]
  · exact fun htime => ⟨_, rfl, fwCommit_of_timely (State.up_of_awake hawake) hact him htime⟩
  · exact fun htime => ⟨_, rfl, fwRollback_of_late (State.up_of_awake hawake) hact htime⟩

/-- Settles O52. -/
theorem watchdogAndUpdates : Obligations.WatchdogAndUpdates := ⟨watchdogQuiesces, updatesRun⟩

end Sys2Proof.Machine
end

section
/-! O54, mailboxes, keys, measurements, sessions and environments (13 R441 to R450). -/

namespace Sys2Proof.Machine

section
variable {s : State} {fn : Nat}

-- The connection.

theorem State.configured_of_starting (hup : s.up = false) (hstage : s.power.stage = .selfTest ∨ s.power.stage = .boot)
    (hreset : s.power.inReset = false) (f : State → State) :
    s.configured f = { s with outs := .configRetry :: s.outs } := by
  unfold State.configured
  rw [if_neg (by simp [hup]), if_pos]
  simpa [hreset] using hstage

theorem State.mailbox_of_absent (hup : s.up = true) (h : s.numVfs < fn ∨ 64 < fn) (f : State → State) :
    s.mailbox fn f = s := by
  unfold State.mailbox State.configured
  rw [if_pos hup]
  exact if_neg (by omega)

section
variable (hup : s.up = true) (hvf : fn ≤ s.numVfs) (hfn : fn ≤ 64)
include hup hvf hfn

theorem State.mailbox_of_enabled (f : State → State) : s.mailbox fn f = f s := by
  unfold State.mailbox State.configured
  rw [if_pos hup]
  exact if_pos ⟨hvf, hfn⟩

theorem State.spdm_of_early (h : (s.box fn).stage ≠ .negotiated) (f : State → State) :
    s.spdm fn f = s.spdmOut fn (.error .unexpectedRequest) :=
  (State.mailbox_of_enabled hup hvf hfn _).trans (if_neg h)

theorem State.attestOrHold_of_early (h : (s.box fn).stage ≠ .negotiated) (q : SpdmHeld) :
    s.attestOrHold fn q = s.spdmOut fn (.error .unexpectedRequest) := State.spdm_of_early hup hvf hfn h _

theorem State.inSession_of_early (h : (s.box fn).stage ≠ .negotiated) (id : Nat) (opened : Bool)
    (f : Session → List Session) (r : SpdmReply) :
    s.inSession fn id opened f r = s.spdmOut fn (.error .unexpectedRequest) := State.spdm_of_early hup hvf hfn h _

theorem State.spdm_of_negotiated (h : (s.box fn).stage = .negotiated) (f : State → State) : s.spdm fn f = f s :=
  (State.mailbox_of_enabled hup hvf hfn _).trans (if_pos h)

theorem negotiate_of_capable (h : (s.box fn).stage = .capable ∨ (s.box fn).stage = .negotiated) (offered : List SpdmAlg) :
    negotiate fn offered s = if spdmAlgs.all (fun a => decide (a ∈ offered)) then
        (s.setBox fn { s.box fn with stage := .negotiated }).spdmOut fn (.algorithms spdmAlgs)
      else s.spdmOut fn (.error .invalidRequest) := by
  unfold negotiate
  rw [State.mailbox_of_enabled hup hvf hfn]
  rcases h with h | h <;> simp only [h]

end

theorem mailboxesConnect : Says.MailboxesConnect := by
  intro s fn
  refine ⟨fun hup hstage hreset => congrArg Host.Outcome.next (State.configured_of_starting hup hstage hreset _),
    fun hup h => congrArg Host.Outcome.next (State.mailbox_of_absent hup h _), fun hup hvf hfn => ?_⟩
  intro m refused
  have hbox := State.mailbox_of_enabled hup hvf hfn
  refine ⟨congrArg Host.Outcome.next (hbox _), fun h => congrArg Host.Outcome.next ((hbox _).trans (if_neg h)),
    fun h => congrArg Host.Outcome.next ((hbox _).trans (if_pos h)), fun algs h => ?_, fun h => ?_, fun h c hc => ?_⟩
  · have hneg := negotiate_of_capable hup hvf hfn h algs
    refine ⟨fun hall => congrArg Host.Outcome.next (hneg.trans (if_pos ?_)),
      fun hmiss => congrArg Host.Outcome.next (hneg.trans (if_neg fun hall => ?_))⟩
    · exact List.all_eq_true.2 fun a ha => decide_eq_true (hall a ha)
    · obtain ⟨a, ha, hno⟩ := hmiss
      exact hno (of_decide_eq_true (List.all_eq_true.1 hall a ha))
  · have hrun := State.spdm_of_negotiated hup hvf hfn h
    refine ⟨congrArg Host.Outcome.next (hrun _), fun slot off len => ?_⟩
    intro ch
    refine ⟨fun hslot hoff => ?_, fun hno => ?_⟩
    · exact congrArg Host.Outcome.next ((hrun _).trans (if_pos ⟨hslot, hoff⟩))
    · exact congrArg Host.Outcome.next ((hrun _).trans (if_neg (by change ¬(slot ≤ 1 ∧ off ≤ ch.length); omega)))
  · have hearly := State.spdm_of_early hup hvf hfn h
    simp only [List.mem_cons, List.not_mem_nil, or_false] at hc
    rcases hc with rfl | rfl | rfl | rfl | rfl | rfl | rfl | rfl | rfl
    · exact congrArg Host.Outcome.next (hearly _)
    · exact congrArg Host.Outcome.next (hearly _)
    · exact congrArg Host.Outcome.next (State.attestOrHold_of_early hup hvf hfn h _)
    · exact congrArg Host.Outcome.next (State.attestOrHold_of_early hup hvf hfn h _)
    · exact congrArg Host.Outcome.next (hearly _)
    · exact congrArg Host.Outcome.next (State.inSession_of_early hup hvf hfn h _ _ _ _)
    · exact congrArg Host.Outcome.next (State.inSession_of_early hup hvf hfn h _ _ _ _)
    · exact congrArg Host.Outcome.next (State.inSession_of_early hup hvf hfn h _ _ _ _)
    · exact congrArg Host.Outcome.next (State.inSession_of_early hup hvf hfn h _ _ _ _)

-- Keys and certificates.

theorem hexDigits_length (n v : Nat) : (hexDigits n v).length = n := by
  rw [hexDigits, List.length_map, List.length_reverse, List.length_range]

theorem keysAreDerived : Says.KeysAreDerived := by
  refine ⟨fun f fw => ?_, fun d => by simp [dieSerial, hexDigits_length]⟩
  have hplain : ∀ u : KeyUse, u ≠ .leaf → f.key u fw = hmac f.secret (BitVec.ofNat 8 u.code :: Config.keyLabel u.code) := by
    intro u hu
    cases u with
    | leaf => exact absurd rfl hu
    | deviceId | binding => exact congrArg (hmac f.secret) (List.append_nil _)
  refine ⟨rfl, hplain .deviceId (by decide), hplain .binding (by decide), rfl, fun fw' => ⟨rfl, rfl⟩, fun d ds hdies => ⟨_, rfl, ?_⟩⟩
  unfold Fuses.chain
  rw [hdies]
  rfl

-- Measurements.

theorem State.attestOrHold_of_negotiated (hup : s.up = true) (hvf : fn ≤ s.numVfs) (hfn : fn ≤ 64)
    (h : (s.box fn).stage = .negotiated) (q : SpdmHeld) :
    s.attestOrHold fn q = if s.activating then s.setSec (fun x => { x with held := x.held ++ [(fn, q)] })
      else s.spdmOut fn (s.attest fn q) :=
  State.spdm_of_negotiated hup hvf hfn h _

theorem shaRounds_length (ks win : List Nat) {v : List Nat} (h : v.length = 8) : (shaRounds ks win v).length = 8 := by
  induction ks generalizing win v with
  | nil => exact h
  | cons k ks ih => exact ih _ (by simp [shaRound, h])

theorem shaBlocks_length (n : Nat) (bs : List Byte) {v : List Nat} (h : v.length = 8) :
    (shaBlocks n bs v).length = 8 := by
  induction n generalizing bs v with
  | zero => exact h
  | succ n ih => exact ih _ (by rw [shaBlock, List.length_zipWith, shaRounds_length _ _ h, h, Nat.min_self])

theorem sha256_length (msg : List Byte) : (sha256 msg).length = 32 := by
  have hword : ∀ v, (beBytes 4 v).length = 4 := fun v => by rw [beBytes, List.length_reverse, leBytes_length]
  unfold sha256
  rw [List.length_flatMap, List.map_congr_left fun v _ => hword v, List.map_const', List.sum_replicate_nat,
    shaBlocks_length _ _ (v := shaInit) (by decide +kernel)]

/-- The record of a partition that is not RUNNING or STOPPED lists no image. -/
theorem State.partRecord_of_quiet {p : Nat} (hrun : (s.part p).state ≠ .running) (hstop : (s.part p).state ≠ .stopped) :
    (s.partRecord p).length = 64 ∧ (s.partRecord p)[3]? = some 0 ∧
      (s.partRecord p)[0]? = some (BitVec.ofNat 8 (s.part p).state.code) := by
  unfold State.partRecord
  cases hst : (s.part p).state with
  | running => exact absurd hst hrun
  | stopped => exact absurd hst hstop
  | disabled | resetting | releasing =>
    simp only [hst]
    refine ⟨?_, rfl, rfl⟩
    simp only [List.length_append, sha256_length, leBytes_length, List.length_replicate, List.length_cons,
      List.length_nil, List.flatMap_nil]

theorem measIndices_of_vf (hfn : 0 < fn) : measIndices fn = [1, 2, 3, 4, 5, 0x10 + (fn - 1)] := by
  unfold measIndices
  rw [if_neg (by omega)]
  rfl

theorem State.attest_measurements (i : Nat) (signed : Bool) (nonce : List Byte) {want : List Nat}
    (hwant : want = if i = 0xFF then measIndices fn else (measIndices fn).filter (fun j => decide (j = i))) :
    s.attest fn (.measurements i signed nonce) = if i = 0 then .count (measIndices fn).length
      else if want = [] then .error .invalidRequest
      else .measurements (want.map (fun j => (j, s.measBlock j)))
        (if signed then some (s.sign ((want.map (fun j => (j, s.measBlock j))).flatMap Prod.snd ++ nonce)) else none) := by
  subst hwant
  rfl

theorem State.attest_of_vf (hfn : 0 < fn) {i : Nat} {signed : Bool} {nonce : List Byte} {bs : List (Nat × List Byte)}
    {sg : Option (List Byte)} (hatt : s.attest fn (.measurements i signed nonce) = .measurements bs sg) :
    ∀ e ∈ bs, e.2 = s.measBlock e.1 ∧ ((1 ≤ e.1 ∧ e.1 ≤ 5) ∨ e.1 = 0x10 + (fn - 1)) := by
  rw [State.attest_measurements i signed nonce rfl] at hatt
  generalize hwant : (if i = 0xFF then measIndices fn else (measIndices fn).filter (fun j => decide (j = i))) = want at hatt
  have hsub : ∀ j ∈ want, j ∈ measIndices fn := by
    intro j hj
    rw [← hwant] at hj
    split at hj
    · exact hj
    · exact (List.mem_filter.1 hj).1
  split at hatt
  · exact SpdmReply.noConfusion hatt
  · split at hatt
    · exact SpdmReply.noConfusion hatt
    · injection hatt with hbs
      intro e he
      rw [← hbs] at he
      obtain ⟨j, hj, rfl⟩ := List.mem_map.1 he
      have hmem := hsub j hj
      rw [measIndices_of_vf hfn] at hmem
      simp only [List.mem_cons, List.not_mem_nil, or_false] at hmem
      exact ⟨rfl, by omega⟩

theorem State.attest_of_foreign (hfn : 0 < fn) {i : Nat} (hbig : 5 < i) (hown : i ≠ 0x10 + (fn - 1)) (hall : i ≠ 0xFF)
    (signed : Bool) (nonce : List Byte) : s.attest fn (.measurements i signed nonce) = .error .invalidRequest := by
  have hnone : (measIndices fn).filter (fun j => decide (j = i)) = [] := by
    rw [List.filter_eq_nil_iff, measIndices_of_vf hfn]
    intro j hj
    simp only [List.mem_cons, List.not_mem_nil, or_false] at hj
    rw [decide_eq_true_iff]
    omega
  rw [State.attest_measurements i signed nonce (if_neg hall).symm, if_neg (by omega), if_pos hnone]

/-- The physical function's mailbox answers each of its indices with the block of that index. -/
theorem State.attest_of_pf {i : Nat} (hi : 1 ≤ i ∧ i ≤ 5 ∨ 0x10 ≤ i ∧ i < 0x50) (signed : Bool) (nonce : List Byte) :
    s.attest 0 (.measurements i signed nonce) = .measurements [(i, s.measBlock i)]
      (if signed then some (s.sign (s.measBlock i ++ nonce)) else none) := by
  have hone : ∀ i < 0x50, (1 ≤ i ∧ i ≤ 5 ∨ 0x10 ≤ i ∧ i < 0x50) →
      (measIndices 0).filter (fun j => decide (j = i)) = [i] := by decide
  have hwant : [i] = if i = 0xFF then measIndices 0 else (measIndices 0).filter (fun j => decide (j = i)) := by
    rw [if_neg (by omega), hone i (by omega) hi]
  rw [State.attest_measurements i signed nonce hwant, if_neg (by omega), if_neg (List.cons_ne_nil _ _)]
  simp only [List.map_cons, List.map_nil, List.flatMap_cons, List.flatMap_nil, List.append_nil]

theorem measurementsAnswer : Says.MeasurementsAnswer := by
  intro s fn hup hvf hfn hneg
  have hans := State.attestOrHold_of_negotiated hup hvf hfn hneg
  have hnow : ∀ q, s.activating = false → s.attestOrHold fn q = s.spdmOut fn (s.attest fn q) := fun q h =>
    (hans q).trans (if_neg (by rw [h]; exact Bool.false_ne_true))
  refine ⟨fun i signed nonce => ⟨fun h => congrArg Host.Outcome.next (hnow _ h),
      fun h => congrArg Host.Outcome.next ((hans _).trans (if_pos h))⟩,
    fun slot nonce => ⟨fun h => ⟨fun hslot => ?_, fun hslot => ?_⟩,
      fun h => congrArg Host.Outcome.next ((hans _).trans (if_pos h))⟩,
    fun i => rfl, rfl, fun p hrun hstop => State.partRecord_of_quiet hrun hstop,
    fun hpos i signed nonce => ⟨fun bs sg hatt => State.attest_of_vf hpos hatt,
      fun hbig hown hall => State.attest_of_foreign hpos hbig hown hall signed nonce⟩,
    fun _ i signed nonce hi => State.attest_of_pf hi signed nonce⟩
  · exact congrArg Host.Outcome.next ((hnow (.challenge slot nonce) h).trans (congrArg (s.spdmOut fn) (if_pos hslot)))
  · exact congrArg Host.Outcome.next ((hnow (.challenge slot nonce) h).trans
      (congrArg (s.spdmOut fn) (if_neg (Nat.not_le.2 hslot))))

-- Sessions.

section
variable (hup : s.up = true) (hvf : fn ≤ s.numVfs) (hfn : fn ≤ 64) (hneg : (s.box fn).stage = .negotiated)
include hup hvf hfn hneg

theorem keyExchange_of_full (share : List Byte)
    (hfull : ∀ i < 4, (s.box fn).sessions.any (fun x => decide (x.id = i)) = true) :
    keyExchange fn share s = s.spdmOut fn (.error .sessionLimit) := by
  have hnone : ([0, 1, 2, 3] : List Nat).find? (fun i => !((s.box fn).sessions.any (fun x => decide (x.id = i)))) = none := by
    simp only [List.find?_cons, hfull 0 (by decide), hfull 1 (by decide), hfull 2 (by decide), hfull 3 (by decide),
      Bool.not_true, List.find?_nil]
  unfold keyExchange
  rw [State.spdm_of_negotiated hup hvf hfn hneg]
  simp only [hnone]

theorem keyExchange_of_free (share : List Byte) {i : Nat} (hi : i < 4)
    (hfree : (s.box fn).sessions.any (fun x => decide (x.id = i)) = false)
    (hused : ∀ j < i, (s.box fn).sessions.any (fun x => decide (x.id = j)) = true) :
    keyExchange fn share s = ((s.drawn.setBox fn { s.box fn with
        sessions := (s.box fn).sessions ++ [⟨i, false, 0, s.now⟩] })).spdmOut fn
      (.keyExchange i (Config.dheShare s.free) (s.sign (share ++ Config.dheShare s.free))) := by
  have hfirst : (List.range 4).find? (fun i => !((s.box fn).sessions.any (fun x => decide (x.id = i)))) = some i := by
    rw [List.find?_range_eq_some]
    exact ⟨by rw [hfree]; rfl, List.mem_range.2 hi, fun j hj => by rw [hused j hj]; rfl⟩
  unfold keyExchange
  rw [State.spdm_of_negotiated hup hvf hfn hneg]
  simp only [show [0, 1, 2, 3] = List.range 4 from rfl, hfirst]

variable {id : Nat} {opened : Bool} (f : Session → List Session) (r : SpdmReply)

theorem State.inSession_of_none
    (hnone : (s.box fn).sessions.find? (fun y => decide (y.id = id) && decide (y.established = opened)) = none) :
    s.inSession fn id opened f r = s.spdmOut fn (.error .invalidSession) := by
  unfold State.inSession
  rw [State.spdm_of_negotiated hup hvf hfn hneg]
  simp only [hnone]

theorem State.inSession_of_found {x : Session}
    (hsome : (s.box fn).sessions.find? (fun y => decide (y.id = id) && decide (y.established = opened)) = some x) :
    s.inSession fn id opened f r = (s.setBox fn { s.box fn with
      sessions := (s.box fn).sessions.filter (fun y => decide (y.id ≠ id)) ++ f x }).spdmOut fn r := by
  unfold State.inSession
  rw [State.spdm_of_negotiated hup hvf hfn hneg]
  simp only [hsome]

end

theorem sessionsRun : Says.SessionsRun := by
  intro s fn hup hvf hfn hneg m
  refine ⟨fun share hfull => congrArg Host.Outcome.next (keyExchange_of_full hup hvf hfn hneg share hfull),
    fun share i hi hfree hused => congrArg Host.Outcome.next (keyExchange_of_free hup hvf hfn hneg share hi hfree hused),
    fun id x hx => congrArg Host.Outcome.next (State.inSession_of_found hup hvf hfn hneg _ _ hx), fun id x hx => ?_,
    fun id hno => congrArg Host.Outcome.next (State.inSession_of_none hup hvf hfn hneg _ _ hno), fun id hno c hc => ?_,
    fun h0 id key hses => ?_, fun h0 id st key hno => ?_⟩
  · intro rest
    have hin := fun f r => State.inSession_of_found hup hvf hfn hneg f r hx
    refine ⟨congrArg Host.Outcome.next (hin _ _), congrArg Host.Outcome.next (hin _ _),
      congrArg Host.Outcome.next ((hin _ _).trans ?_)⟩
    rw [List.append_nil]
  · have hin := fun f r => State.inSession_of_none hup hvf hfn hneg f r hno
    simp only [List.mem_cons, List.not_mem_nil, or_false] at hc
    rcases hc with rfl | rfl | rfl <;> exact congrArg Host.Outcome.next (hin _ _)
  · subst h0
    have hkey := fun stream => (State.spdm_of_negotiated hup hvf hfn hneg _ : ideKm id stream key s = _).trans (if_pos hses)
    exact ⟨congrArg Host.Outcome.next (hkey .io), congrArg Host.Outcome.next (hkey .cacheMem)⟩
  · subst h0
    exact congrArg Host.Outcome.next ((State.spdm_of_negotiated hup hvf hfn hneg _).trans
      (if_neg (by rw [hno]; exact Bool.false_ne_true)))

-- Environments.

section
variable {p : Nat}

theorem State.tspMove_of_running {v : Nat} (hup : s.up = true) (hp : p < 64) (hrun : (s.part p).state = .running)
    (hses : (s.box (p + 1)).sessions.any (fun x => x.established) = true) (htsp : (s.part p).tsp = v) (f : Part → Part) :
    s.tspMove p v f = (s.setPart p (f (s.part p))).spdmOut (p + 1) .tspAck :=
  if_pos (by simp only [hup, hp, hrun, htsp, hses, decide_true, Bool.and_self])

theorem State.tspMove_of_not {v : Nat} (h : (s.part p).state ≠ .running ∨ (s.part p).tsp ≠ v ∨
    (s.box (p + 1)).sessions.any (fun x => x.established) = false) (f : Part → Part) : s.tspMove p v f = s := by
  refine if_neg fun hgo => ?_
  simp only [Bool.and_eq_true, decide_eq_true_eq] at hgo
  obtain ⟨⟨⟨-, hrun⟩, htsp⟩, hses⟩ := hgo
  rcases h with h | h | h
  · exact h hrun
  · exact h htsp
  · exact Bool.noConfusion (h.symm.trans hses)

theorem tspError_of_bound (hup : s.up = true) (hp : p < 64) (h : (s.part p).tsp = 1 ∨ (s.part p).tsp = 2) :
    tspError p s = s.setPart p { s.part p with tsp := 3 } :=
  if_pos (by simpa [hup, hp] using h)

theorem tspError_of_unbound (h1 : (s.part p).tsp ≠ 1) (h2 : (s.part p).tsp ≠ 2) : tspError p s = s :=
  if_neg (by simp [h1, h2])

end

theorem environmentsBind : Says.EnvironmentsBind := by
  intro s p hup hp
  refine ⟨fun hrun hses => ⟨fun h => congrArg Host.Outcome.next (State.tspMove_of_running hup hp hrun hses h _),
      fun h stream => congrArg Host.Outcome.next (State.tspMove_of_running hup hp hrun hses h _)⟩, fun h => ?_,
    fun h => ⟨congrArg Host.Outcome.next (tspError_of_bound hup hp h),
      congrArg Host.Outcome.next (State.tspMove_of_not (.inr (.inl (by omega))) _)⟩,
    fun h => congrArg Host.Outcome.next (tspError_of_unbound (by omega) (by omega)),
    fun h => ⟨congrArg Host.Outcome.next (State.tspMove_of_not (.inr (.inl (by omega))) _),
      fun st => congrArg Host.Outcome.next (State.tspMove_of_not (.inr (.inl (by omega))) _),
      congrArg Host.Outcome.next (tspError_of_unbound (by omega) (by omega))⟩⟩
  have hno : ∀ v, (s.part p).state ≠ .running ∨ (s.part p).tsp ≠ v ∨
      (s.box (p + 1)).sessions.any (fun x => x.established) = false := fun v => h.imp_right .inr
  exact ⟨congrArg Host.Outcome.next (State.tspMove_of_not (hno _) _),
    fun stream => congrArg Host.Outcome.next (State.tspMove_of_not (hno _) _)⟩

/-- Settles O54. -/
theorem mailboxesAnswer : Obligations.MailboxesAnswer :=
  ⟨mailboxesConnect, keysAreDerived, measurementsAnswer, sessionsRun, environmentsBind⟩

end

end Sys2Proof.Machine
end

section
/-! O55, known-answer tests in the background (14 R466, R470 to R472). -/

namespace Sys2Proof.Machine

/-- A value that is not the default is read back from any map, canonical or not. -/
theorem SMap.get_put_of_ne {α : Type} [DecidableEq α] {d : Nat → α} (m : SMap α) {k : Nat} {v : α} (h : v ≠ d k) :
    SMap.get d (SMap.put d m k v) k = v := by
  induction m with
  | nil => rw [SMap.put, if_neg h, SMap.get, if_pos rfl]
  | cons e m ih =>
    obtain ⟨j, u⟩ := e
    rw [SMap.put, if_neg h, if_neg h]
    split
    · rw [SMap.get, if_pos rfl]
    · split
      · rw [SMap.get, if_pos rfl]
      · rw [SMap.get, if_neg (Ne.symm ‹_›), ih]

section
variable {s : State} {t : KatTarget}

theorem backgroundKat_of_oldest (hawake : s.awake = true) (hrun : s.power.withheld = false) (hold : s.oldest t = true)
    (r : KatRun) : backgroundKat t r s = s.katRun t r :=
  if_pos (by rw [hawake, hrun, hold]; rfl)

theorem State.oldest_iff : s.oldest t = true ↔ s.eligible t = true ∧
    ∀ q ∈ s.islandTargets (s.targetPhys t).die (s.targetPhys t).island,
      s.eligible q = true → s.lastPass t ≤ s.lastPass q := by
  unfold State.oldest
  rw [Bool.and_eq_true, List.all_eq_true]
  refine and_congr_right fun _ => forall_congr' fun q => forall_congr' fun _ => ?_
  cases s.eligible q <;> simp

theorem backgroundKat_of_not_eligible (h : s.eligible t = false) (r : KatRun) : backgroundKat t r s = s := by
  refine if_neg fun hgo => ?_
  rw [Bool.and_eq_true] at hgo
  exact Bool.noConfusion (h.symm.trans (State.oldest_iff.1 hgo.2).1)

theorem backgroundKat_of_withheld (h : s.power.withheld = true) (r : KatRun) : backgroundKat t r s = s :=
  if_neg (by rw [h, Bool.not_true, Bool.and_false, Bool.false_and]; exact Bool.false_ne_true)

/-- Nothing holds or runs on a unit that may be tested. -/
theorem State.free_of_eligible {u : UnitId} (h : s.eligible (.unit u) = true) :
    s.unitOwner u = none ∧ s.unitBusy u = false ∧ ∀ l ∈ s.leases, u ∉ l.units := by
  simp only [State.eligible, Bool.and_eq_true, Bool.not_eq_true', Option.isNone_iff_eq_none] at h
  obtain ⟨⟨⟨-, howner⟩, hlease⟩, hbusy⟩ := h
  refine ⟨howner, hbusy, fun l hl hu => ?_⟩
  exact Bool.noConfusion (hlease.symm.trans (List.any_eq_true.2 ⟨l, hl, decide_eq_true hu⟩))

/-- A pass that is noted is the last one of the unit in its present bins. -/
theorem State.lastPass_notePass : (s.notePass t).lastPass t = s.now := by
  have hphys : (s.notePass t).targetPhys t = s.targetPhys t := by cases t <;> rfl
  have hbins : (s.notePass t).physBins (s.targetPhys t) = s.physBins (s.targetPhys t) := rfl
  unfold State.lastPass
  simp only [hphys, hbins]
  simp only [State.notePass, List.find?_append]
  rw [List.find?_eq_none.2, Option.none_or]
  · simp
  · intro q hq hmatch
    have hkept := (List.mem_filter.1 hq).2
    rw [hmatch] at hkept
    exact Bool.false_ne_true hkept

end

-- Spares that are declared.

section
variable {v : State} {p : PhysId}

/-- A sum whose summands are each at most `b`. -/
theorem sum_map_le_mul_length {f : Nat → Nat} {b : Nat} (h : ∀ i, f i ≤ b) :
    ∀ l : List Nat, (l.map f).sum ≤ b * l.length
  | [] => Nat.zero_le _
  | i :: l => by
    rw [List.map_cons, List.sum_cons, List.length_cons, Nat.mul_succ, Nat.add_comm]
    exact Nat.add_le_add (sum_map_le_mul_length h l) (h i)

theorem State.allSpares_length (d : Nat) (c : EngineClass) : (v.allSpares d c).length ≤ 16 := by
  have hshipped : ∀ i, v.shippedSpares d c i ≤ 2 := by
    intro i
    unfold State.shippedSpares
    split
    · split <;> omega
    · split <;> omega
    · split <;> omega
    · split <;> omega
    · split <;> omega
    · omega
  unfold State.allSpares
  rw [List.length_flatMap]
  simp only [List.length_map, List.length_range]
  exact sum_map_le_mul_length hshipped (List.range 8)

/-- The site of a spare is never 0, the reset value of EVR_LAST_DECL. -/
theorem siteSpare_ne_zero (p : PhysId) {i : Nat} (hi : i ≤ 16) : siteSpare p i ≠ 0 := by
  intro h
  have hnat := congrArg BitVec.toNat h
  unfold siteSpare lo32 at hnat
  rw [BitVec.toNat_ofNat, show (0 : W32).toNat = 0 from rfl] at hnat
  omega

theorem State.spareIdx_le : v.spareIdx p ≤ 16 :=
  Nat.le_trans (List.takeWhile_sublist _).length_le (State.allSpares_length ..)

theorem State.failSpare_shows :
    p ∈ (v.failSpare p).units.lostSpares ∧ (v.failSpare p).reg (aEVR + 0x28) = siteSpare p (v.spareIdx p) ∧
      ∀ q ∈ (v.failSpare p).units.selfTests, .spare p ∈ q.targets → q.declared = true := by
  refine ⟨List.mem_append_right _ (List.mem_singleton.2 rfl), ?_, fun q hq htarget => ?_⟩
  · have hreset : siteSpare p (v.spareIdx p) ≠ regReset (aEVR + 0x28) := siteSpare_ne_zero p State.spareIdx_le
    exact (State.edge_reg_high (by decide) _ 3).trans (SMap.get_put_of_ne _ hreset)
  · obtain ⟨x, -, rfl⟩ := List.mem_map.1 hq
    split
    · rfl
    · rename_i hother
      rw [if_neg hother] at htarget
      exact absurd htarget hother

theorem State.katMismatch_spare {w : State} (hw : w = v.countKat true) {e : FaultEvt} {x : State}
    (he : e = ⟨.unit p, 0x0102, (w.physBins p).1, (w.physBins p).2, w.now⟩)
    (hx : x = (w.record 0x0102 (siteSpare p (w.spareIdx p)) (lo32 p.island) (degC (w.physIsland p).temp)).addFault e) :
    v.katMismatch (.spare p) = if w.lastingWith e && decide (p ∉ w.units.lostSpares) then x.failSpare p else x := by
  subst hx he hw
  rfl

end

theorem backgroundTestsRun : Says.BackgroundTestsRun := by
  intro s t hawake
  refine ⟨fun hrun hold => ?_, fun hold => State.oldest_iff.1 hold,
    fun hno r => congrArg Host.Outcome.next (backgroundKat_of_not_eligible hno r), fun u hu helig => ?_,
    State.lastPass_notePass (s := s.countKat false), fun v p => ?_,
    fun h r => congrArg Host.Outcome.next (backgroundKat_of_withheld h r)⟩
  · have hkat := fun r => (congrArg Host.Outcome.next (backgroundKat_of_oldest hawake hrun hold r) :
      exec (.backgroundKat t r) s = .next (s.katRun t r))
    exact ⟨hkat .pass, hkat .mismatchPass, hkat .mismatchTwice, hkat .mismatchAbandoned, hkat .abandoned⟩
  · subst hu
    exact State.free_of_eligible helig
  · intro w e x
    have hmis := State.katMismatch_spare (v := v) (p := p) (w := w) (e := e) (x := x) rfl rfl rfl
    refine ⟨fun h => hmis.trans (if_neg (by rw [h]; exact Bool.false_ne_true)), fun h hserves => ?_⟩
    exact ⟨hmis.trans (if_pos (by rw [h, decide_eq_true hserves]; rfl)), State.failSpare_shows⟩

end Sys2Proof.Machine
end

section
/-! O55, self-test requests (14 R473, R474). -/

namespace Sys2Proof.Machine

section
variable {s : State} {idx kind : Nat}

-- How a request starts.

section
variable {d : Desc} (hawake : s.awake = true) (hnext : s.nextStart 0 = some d) (hop : d.op = 0x31) (hidx : d.idx = idx)
include hawake hnext hop hidx

theorem State.startTest_of_bad {w : Nat} (hbad : descFail d.words (s.selfTestChecks d.words) = some w) (kind : Nat) :
    s.startTest kind idx = s.finishDesc 0 idx (Result.bad w) := by
  simp only [State.startTest, State.admitAdmin_of_next hawake hnext hop, hidx, hbad, if_true]

/-- A request whose words are good, of the command's kind: it is refused, waits, or starts (14 R473, R474). -/
theorem State.startTest_of_good (hgood : descFail d.words (s.selfTestChecks d.words) = none)
    (hkind : wfield d.words 4 7 0 = kind) {q : SelfTest}
    (hq : q = ⟨idx, kind, s.requestTargets d.words, wfield d.words 6 15 0, 0,
      if kind ≤ 2 then (s.requestTargets d.words).length * wfield d.words 6 15 0 else wfield d.words 6 15 0,
      0, 0, 0, false, false, 0, 0, none⟩) {v : State} (hv : v = s.startDesc 0 idx) :
    s.startTest kind idx = if s.requestRetired d.words then s.finishDesc 0 idx (Result.of .engineReserved)
      else if !(s.windowOk 0x7F (wpair d.words 8) 32) then s.finishDesc 0 idx
        { status := .hostWindowFault, d4 := lo32 (wpair d.words 8), d5 := hi32 (wpair d.words 8) }
      else if 16 ≤ s.units.selfTests.length then s
      else ({ v with units := { v.units with selfTests := v.units.selfTests ++ [q] } } : State).endTest idx := by
  subst hq hv
  simp only [State.startTest, State.admitAdmin_of_next hawake hnext hop, hidx, hgood, if_true]
  exact if_neg (not_not_intro hkind)

end

/-- A command of a request that has started finds no descriptor of its own to start. -/
theorem State.startTest_of_started (hnone : ∀ d, s.nextStart 0 = some d → d.idx ≠ idx) (kind : Nat) :
    s.startTest kind idx = s := by
  unfold State.startTest State.admitAdmin
  split
  · split
    · rfl
    · rename_i d hnext
      split
      · exact if_neg (hnone d hnext)
      · rfl
  · rfl

-- The runs that a command names.

section
variable (hawake : s.awake = true)
include hawake

theorem katUnit_nil : katUnit idx [] s = s.startTest 1 idx := by
  unfold katUnit
  rw [if_pos hawake]
  cases h : (s.startTest 1 idx).selfTest idx with
  | none => simp only [h]
  | some q => simp only [h, List.foldl_nil, ite_self]

theorem katClass_nil : katClass idx [] s = s.startTest 2 idx := by
  unfold katClass
  rw [if_pos hawake]
  cases h : (s.startTest 2 idx).selfTest idx with
  | none => simp only [h]
  | some q => simp only [h, List.foldl_nil, ite_self]

theorem monitorCheck_nil : monitorCheck idx [] s = s.startTest 3 idx := by
  unfold monitorCheck
  rw [if_pos hawake]
  cases h : (s.startTest 3 idx).selfTest idx with
  | none => simp only [h]
  | some q => simp only [h, List.foldl_nil, ite_self]

theorem marginCheck_nil : marginCheck idx [] s = s.startTest 4 idx := by
  unfold marginCheck
  rw [if_pos hawake]
  cases h : (s.startTest 4 idx).selfTest idx with
  | none => simp only [h]
  | some q => simp only [h, List.foldl_nil, ite_self]

/-- A command that names no run starts its request. -/
theorem exec_startTest : ∀ e ∈ [(1, Instr.katUnit idx []), (2, .katClass idx []), (3, .monitorCheck idx []),
    (4, .marginCheck idx [])], exec e.2 s = .next (s.startTest e.1 idx) := by
  intro e he
  simp only [List.mem_cons, List.not_mem_nil, or_false] at he
  rcases he with rfl | rfl | rfl | rfl
  · exact congrArg Host.Outcome.next (katUnit_nil hawake)
  · exact congrArg Host.Outcome.next (katClass_nil hawake)
  · exact congrArg Host.Outcome.next (monitorCheck_nil hawake)
  · exact congrArg Host.Outcome.next (marginCheck_nil hawake)

section
variable (hnone : ∀ d, s.nextStart 0 = some d → d.idx ≠ idx) {q : SelfTest} (hq : s.selfTest idx = some q)
include hnone hq

theorem katUnit_single (hkind : q.kind = 1) (o : KatRun) : katUnit idx [o] s = s.testRun idx o := by
  unfold katUnit
  simp only [hawake, State.startTest_of_started hnone, hq, hkind, if_true, List.foldl_cons, List.foldl_nil]

theorem katClass_single (hkind : q.kind = 2) (o : KatRun) : katClass idx [o] s = s.testRun idx o := by
  unfold katClass
  simp only [hawake, State.startTest_of_started hnone, hq, hkind, if_true, List.foldl_cons, List.foldl_nil]

theorem monitorCheck_single (hkind : q.kind = 3) (m : Int) : monitorCheck idx [m] s = s.monitorRun idx m := by
  unfold monitorCheck
  simp only [hawake, State.startTest_of_started hnone, hq, hkind, if_true, List.foldl_cons, List.foldl_nil]

theorem marginCheck_single (hkind : q.kind = 4) (ls : List (Nat × Nat × Nat)) :
    marginCheck idx [ls] s = s.marginRun idx ls := by
  unfold marginCheck
  simp only [hawake, State.startTest_of_started hnone, hq, hkind, if_true, List.foldl_cons, List.foldl_nil]

end

end

-- One run.

section
variable {q : SelfTest} (hq : s.selfTest idx = some q)
include hq

section
variable {g : KatTarget} (hg : q.targets[q.done / q.runs]? = some g)
include hg

theorem State.testRun_of_not_eligible (h : s.eligible g = false) (o : KatRun) : s.testRun idx o = s := by
  simp only [State.testRun, hq, hg, h, Bool.false_and, Bool.false_eq_true, if_false]

section
variable (hfree : s.eligible g = true) (hrun : s.power.withheld = false)
include hfree hrun

theorem State.testRun_pass : s.testRun idx .pass = ((s.katRun g .pass).putTest { q with
    passed := q.passed + 1, done := q.done + 1
    vbin := (s.physBins (s.targetPhys g)).1, tbin := (s.physBins (s.targetPhys g)).2 }).endTest idx := by
  have hkept : (s.katRun g .pass).selfTest idx = some q := hq
  simp only [State.testRun, hq, hg, hfree, hrun, hkept, Bool.not_false, Bool.and_self, if_true, Option.getD_some]

theorem State.testRun_abandoned : s.testRun idx .abandoned =
    (s.putTest { q with abandoned := q.abandoned + 1 }).endTest idx := by
  have hkept : (s.katRun g .abandoned).selfTest idx = some q := hq
  simp only [State.testRun, hq, hg, hfree, hrun, hkept, Bool.not_false, Bool.and_self, if_true, Option.getD_some]
  rfl

/-- A mismatch counts as one failed run, however it goes on. -/
theorem State.testRun_mismatch {o : KatRun} (ho : o = .mismatchPass ∨ o = .mismatchTwice ∨ o = .mismatchAbandoned)
    {x : SelfTest} (hx : x = ((s.katRun g o).selfTest idx).getD q) :
    s.testRun idx o = ((s.katRun g o).putTest { x with
      failed := x.failed + 1, done := x.done + 1
      vbin := (s.physBins (s.targetPhys g)).1, tbin := (s.physBins (s.targetPhys g)).2 }).endTest idx := by
  subst hx
  rcases ho with rfl | rfl | rfl <;>
    simp only [State.testRun, hq, hg, hfree, hrun, Bool.not_false, Bool.and_self, if_true]

end

end

section
variable {m : Int} {d i : Nat} (hd : d = wfield (s.testWords idx) 4 16 16) (hi : i = wfield (s.testWords idx) 5 2 0)
  (htest : s.islandTestable d i = true) (hleft : q.done < q.total) (hrun : s.power.withheld = false) {base : SelfTest}
  (hbase : base = { q with
    done := q.done + 1, vbin := vBin (s.island d i).mv, tbin := tBin (s.island d i).temp, margin := minMargin q.margin m })
include hd hi htest hleft hrun hbase

/-- A check of a monitor: one that reports no more than the real path passes, any other fails. -/
theorem State.monitorRun_of_testable {w : State} (hw : w = (s.record 0x0108 (siteIsland d i) 0 m).edge 3)
    {e : Emerg} (he : e = w.emerg d) {on : Bool} (hon : on = w.emergIn d .pace) :
    s.monitorRun idx m = if m < 0 then
        if (s.island d i).radio then
          (((w.setEmerg d { e with monitors := (if on then e.monitors else 0) ||| 2 ^ i }).declareEmerg d .pace
            ((if on then e.islands else 0) ||| 2 ^ i)).putTest { base with failed := q.failed + 1 }).endTest idx
        else (w.putTest { base with failed := q.failed + 1 }).endTest idx
      else (s.putTest { base with passed := q.passed + 1 }).endTest idx := by
  subst hbase he hon hw hd hi
  simp only [State.monitorRun, hq, htest, hleft, hrun, decide_true, Bool.not_false, Bool.and_self, if_true]
  by_cases hm : m < 0
  · simp only [hm, decide_true, if_true]
    split <;> rfl
  · simp only [hm, decide_false, Bool.false_eq_true, if_false]

end

theorem State.marginRun_of_free {ls : List (Nat × Nat × Nat)} {h : Nat} (hh : h = wfield (s.testWords idx) 5 5 0)
    (howner : s.halfOwner h = none) (hradio : s.radioHalf h = false) (hleft : q.done < q.total)
    (hrun : s.power.withheld = false) {low : List (Nat × Nat × Nat)} (hlow : low = ls.filter (fun l => decide (l.2.2 < 100)))
    {v : State} (hv : v = low.foldl (fun v l => v.lineFault ⟨h / 2, 16 * (h % 2) + l.1 % 16, l.2.1⟩ l.2.2) s) :
    s.marginRun idx ls = (v.putTest { q with
      done := q.done + 1
      passed := if low = [] then q.passed + 1 else q.passed
      failed := if low = [] then q.failed else q.failed + 1
      vbin := 0, tbin := tBin (s.stackT (h / 2))
      margin := ls.foldl (fun m l => minMargin m (Int.ofNat l.2.2)) q.margin }).endTest idx := by
  subst hv hh
  simp only [State.marginRun, hq, howner, hradio, hleft, hrun, ← hlow, List.isEmpty_iff, decide_true, Option.isNone_none,
    Bool.not_false, Bool.and_self, if_true]

end

-- The end of a request.

theorem selftestDeferred_of_late {d : Desc} {q : SelfTest} (hawake : s.awake = true)
    (hd : (s.ring 0).descs.find? (fun d => decide (d.idx = idx) && decide (d.op = 0x31) && !d.done) = some d)
    (hq : s.selfTest idx = some q) (hlate : d.arrival + 60_000_000_000 ≤ s.ptp) :
    selftestDeferred idx s = (s.record 0x0503 (s.testSite d.words (some q)).1 (s.testSite d.words (some q)).2
      (Int.ofNat (q.total - q.done))).finishTest q (wpair d.words 8) .deferred := by
  simp only [selftestDeferred, hd, hq, hawake, hlate, decide_true, Bool.and_self, if_true, Option.getD_some]

end

-- The record.

section
variable (q : SelfTest) (b : Bool)

/-- The word of a record with its flags and bins. -/
def SelfTest.stateWord (q : SelfTest) (b : Bool) : Nat :=
  (if q.declared then 1 else 0) + (if q.retired then 2 else 0) + (if b then 4 else 0) + q.vbin * 2 ^ 8 + q.tbin * 2 ^ 16

theorem SelfTest.bytes_eq : q.bytes b = (leBytes 4 q.passed ++ leBytes 4 q.failed ++ leBytes 4 q.abandoned) ++
    (leBytes 4 (q.stateWord b) ++ (leBytes 4 (wrapOf 32 (q.margin.getD 0)) ++ leBytes 12 0)) := by
  simp only [SelfTest.bytes, SelfTest.stateWord, List.append_assoc]

theorem SelfTest.stateWord_flags {i : Nat} (hi : i < 3) :
    (q.stateWord b).testBit i = ((if q.declared then 1 else 0) + (if q.retired then 2 else 0) + (if b then 4 else 0) : Nat).testBit i := by
  have hflags : (if q.declared then 1 else 0) + (if q.retired then 2 else 0) + (if b then 4 else 0) < 2 ^ 8 := by
    split <;> split <;> split <;> decide
  have hword : q.stateWord b = 2 ^ 8 * (q.vbin + q.tbin * 2 ^ 8) +
      ((if q.declared then 1 else 0) + (if q.retired then 2 else 0) + (if b then 4 else 0)) := by
    unfold SelfTest.stateWord
    omega
  rw [hword, Nat.testBit_two_pow_mul_add _ hflags, if_pos (by omega)]

theorem SelfTest.stateWord_fields (hv : q.vbin < 256) :
    (q.stateWord b).testBit 0 = q.declared ∧ (q.stateWord b).testBit 1 = q.retired ∧ (q.stateWord b).testBit 2 = b ∧
      q.stateWord b / 2 ^ 8 % 256 = q.vbin ∧ q.stateWord b / 2 ^ 16 = q.tbin := by
  have hbits : ∀ x y z : Bool, let n := (if x then 1 else 0) + (if y then 2 else 0) + (if z then 4 else 0)
      n.testBit 0 = x ∧ n.testBit 1 = y ∧ n.testBit 2 = z := by decide
  have hflags : (if q.declared then 1 else 0) + (if q.retired then 2 else 0) + (if b then 4 else 0) < 8 := by
    split <;> split <;> split <;> decide
  obtain ⟨h0, h1, h2⟩ := hbits q.declared q.retired b
  rw [SelfTest.stateWord_flags q b (by decide), SelfTest.stateWord_flags q b (by decide),
    SelfTest.stateWord_flags q b (by decide)]
  refine ⟨h0, h1, h2, ?_, ?_⟩ <;> unfold SelfTest.stateWord <;> omega

theorem SelfTest.bytes_fields : (q.bytes b).length = 32 ∧
    (q.bytes b).take 12 = leBytes 4 q.passed ++ leBytes 4 q.failed ++ leBytes 4 q.abandoned ∧
    ((q.bytes b).drop 12).take 4 = leBytes 4 (q.stateWord b) ∧
    ((q.bytes b).drop 16).take 4 = leBytes 4 (wrapOf 32 (q.margin.getD 0)) := by
  have hcounts : (leBytes 4 q.passed ++ leBytes 4 q.failed ++ leBytes 4 q.abandoned).length = 12 := by
    simp only [List.length_append, leBytes_length]
  have hrest : (q.bytes b).drop 12 =
      leBytes 4 (q.stateWord b) ++ (leBytes 4 (wrapOf 32 (q.margin.getD 0)) ++ leBytes 12 0) := by
    rw [SelfTest.bytes_eq, List.drop_left' hcounts]
  refine ⟨?_, ?_, ?_, ?_⟩
  · simp only [SelfTest.bytes, List.length_append, leBytes_length]
  · rw [SelfTest.bytes_eq, List.take_left' hcounts]
  · rw [hrest, List.take_left' (leBytes_length 4 _)]
  · rw [show 16 = 12 + 4 from rfl, ← List.drop_drop, hrest, List.drop_left' (leBytes_length 4 _),
      List.take_left' (leBytes_length 4 _)]

end

theorem testRequestsRun : Says.TestRequestsRun := by
  intro s idx hawake
  refine ⟨fun d kind hnext hop hidx hgood hkind hret hwin hfew => ?_, fun d hnext hop hidx e he => ?_,
    fun hnone q hq => ⟨fun hk o => congrArg Host.Outcome.next (katUnit_single hawake hnone hq hk o),
      fun hk o => congrArg Host.Outcome.next (katClass_single hawake hnone hq hk o),
      fun hk m => congrArg Host.Outcome.next (monitorCheck_single hawake hnone hq hk m),
      fun hk ls => congrArg Host.Outcome.next (marginCheck_single hawake hnone hq hk ls),
      fun g hg hfree hrun => ⟨State.testRun_pass hq hg hfree hrun, State.testRun_abandoned hq hg hfree hrun,
        fun o ho => State.testRun_mismatch hq hg hfree hrun ho rfl⟩,
      fun m d i hd hi htest hleft hrun => ?_, fun ls h hh howner hradio hleft hrun =>
        State.marginRun_of_free hq hh howner hradio hleft hrun rfl rfl,
      fun g o hg hno => State.testRun_of_not_eligible hq hg hno o⟩,
    fun d q hd hq hlate => congrArg Host.Outcome.next (selftestDeferred_of_late hawake hd hq hlate),
    fun q st hwin => if_pos hwin, fun q b => ?_⟩
  · intro runs q v t e he hke
    subst hke
    refine (exec_startTest hawake e he).trans (congrArg Host.Outcome.next ?_)
    rw [State.startTest_of_good hawake hnext hop hidx hgood hkind (q := q) rfl (v := v) rfl, if_neg (by simp [hret]),
      if_neg (by simp [hwin]), if_neg (Nat.not_le.2 hfew)]
  · have hstart := exec_startTest (idx := idx) hawake e he
    refine ⟨fun w hbad => hstart.trans (congrArg Host.Outcome.next
      (State.startTest_of_bad hawake hnext hop hidx hbad _)), fun hgood hkind => ?_⟩
    have hrun := State.startTest_of_good hawake hnext hop hidx hgood hkind rfl rfl
    refine ⟨fun hret => hstart.trans (congrArg Host.Outcome.next (hrun.trans (if_pos hret))), fun hret hwin => ?_,
      fun hret hwin hfull => hstart.trans (congrArg Host.Outcome.next (hrun.trans ((if_neg (by simp [hret])).trans
        ((if_neg (by simp [hwin])).trans (if_pos hfull)))))⟩
    exact hstart.trans (congrArg Host.Outcome.next (hrun.trans ((if_neg (by simp [hret])).trans (if_pos (by simp [hwin])))))
  · intro x base
    have hmon := fun (w : State) (hw : w = (s.record 0x0108 (siteIsland d i) 0 m).edge 3) =>
      State.monitorRun_of_testable hq hd hi htest hleft hrun (base := base) rfl hw rfl rfl
    refine ⟨fun hm => (hmon _ rfl).trans (if_neg (Int.not_lt.2 hm)), fun hm => ?_⟩
    intro w
    exact ⟨fun hx => (hmon w rfl).trans ((if_pos hm).trans (if_neg (by rw [show (s.island d i).radio = false from hx]; exact Bool.false_ne_true))),
      fun hx => (hmon w rfl).trans ((if_pos hm).trans (if_pos hx))⟩
  · obtain ⟨hlen, hcounts, hword, hmargin⟩ := SelfTest.bytes_fields q b
    exact ⟨hlen, hcounts, fun hv _ => ⟨_, hword, SelfTest.stateWord_fields q b hv⟩, hmargin⟩

/-- Settles O55. -/
theorem testsRun : Obligations.TestsRun := ⟨backgroundTestsRun, testRequestsRun⟩

end Sys2Proof.Machine
end

section
/-! O56, the Summit register (14 R476, R479, R480). -/

namespace Sys2Proof.Machine

section
variable {s : State} {e : SummitEvt}

-- What an event does to the records.

theorem mergedRecord_fields (r : SummitRec) (e : SummitEvt) :
    (r.merge e).code = r.code ∧ (r.merge e).site = r.site ∧ (r.merge e).ext = r.ext ∧ (r.merge e).first = r.first ∧
      (r.merge e).last = e.time ∧ (r.merge e).count = min 0xFFFF_FFFF (r.count + 1) ∧
      (r.merge e).min = min r.min e.value ∧ (r.merge e).max = max r.max e.value ∧
      (r.merge e).hist = r.hist.set (summitBin e.code e.value)
        (min 4095 (r.hist.getD (summitBin e.code e.value) 0 + 1)) := by
  refine ⟨rfl, rfl, rfl, rfl, rfl, rfl, ?_, ?_, rfl⟩
  · unfold SummitRec.merge
    dsimp only
    split <;> omega
  · unfold SummitRec.merge
    dsimp only
    split <;> omega

theorem SummitRec.first1_same (e : SummitEvt) : (SummitRec.first1 e).same e = true := by
  unfold SummitRec.same SummitRec.first1
  rw [decide_eq_true rfl, decide_eq_true rfl, decide_eq_true rfl]
  rfl

theorem SummitRec.first1_hist (e : SummitEvt) :
    (SummitRec.first1 e).hist = (List.replicate 16 0).set (summitBin e.code e.value) 1 := by
  have hempty : (List.replicate 16 0).getD (summitBin e.code e.value) 0 = 0 := by
    rw [List.getD_eq_getElem?_getD, List.getElem?_replicate]
    split <;> rfl
  unfold SummitRec.first1 histBump
  rw [hempty]
  rfl

theorem State.summitApply_of_empty (h : s.summit.recs = []) : (s.summitApply e).summit.recs = [SummitRec.first1 e] := by
  simp only [State.summitApply, h, List.getLast?_nil]

section
variable {rs : List SummitRec} {r : SummitRec} (hrecs : s.summit.recs = rs ++ [r])
include hrecs

theorem State.summitApply_of_same (hsame : r.same e = true) : (s.summitApply e).summit.recs = rs ++ [r.merge e] := by
  simp only [State.summitApply, hrecs, List.getLast?_concat, hsame, if_true, List.dropLast_concat]

/-- An event unlike the last record: it is appended, or missed when the register is full. -/
theorem State.summitApply_of_other (hother : r.same e = false) :
    s.summitApply e = if s.summit.recs.length < 262_144 then
        { s with summit := { s.summit with recs := s.summit.recs ++ [SummitRec.first1 e] } }
      else if s.summit.full then s.bumpRf (aEVR + 0xC) 31 0 1
      else ({ s.bumpRf (aEVR + 0xC) 31 0 1 with summit := { s.summit with full := true } } : State).edge 5 := by
  have hlast : s.summit.recs.getLast? = some r := by rw [hrecs, List.getLast?_concat]
  unfold State.summitApply
  simp only [hlast]
  exact if_neg (by rw [hother]; exact Bool.false_ne_true)

end

theorem State.edge_summit (n : Nat) : (s.edge n).summit = s.summit :=
  (State.edge_keeps (List.Subset.refl _) .refl).1 .summit (by decide)

/-- A full register keeps its records, and shows that it is full. -/
theorem State.summitApply_of_full {rs : List SummitRec} {r : SummitRec} (hrecs : s.summit.recs = rs ++ [r])
    (hother : r.same e = false) (hlen : 262_144 ≤ s.summit.recs.length) :
    (s.summitApply e).summit.recs = s.summit.recs ∧ (s.summitApply e).summit.full = true := by
  rw [State.summitApply_of_other hrecs hother, if_neg (Nat.not_lt.2 hlen)]
  split
  · exact ⟨rfl, ‹_›⟩
  · rw [State.edge_summit]
    exact ⟨rfl, rfl⟩

-- Recording.

theorem State.record_of_disabled (h : s.rbit aEVR 0 = false) (code : Nat) (site ext : W32) (v : Int) :
    s.record code site ext v = s := if_neg (by rw [h]; exact Bool.false_ne_true)

theorem State.record_of_running (hon : s.rbit aEVR 0 = true) (hrun : s.rbit aEVR 1 = false) (code : Nat) (site ext : W32)
    (v : Int) : s.record code site ext v = s.summitApply ⟨code, site, ext, v, s.ptp⟩ :=
  (if_pos hon).trans (if_neg (by rw [hrun]; exact Bool.false_ne_true))

theorem State.record_of_frozen (hon : s.rbit aEVR 0 = true) (hfrozen : s.rbit aEVR 1 = true) (code : Nat) (site ext : W32)
    (v : Int) : s.record code site ext v = if s.summit.held.length < 256 then
        { s with summit := { s.summit with held := s.summit.held ++ [⟨code, site, ext, v, s.ptp⟩] } }
      else s.bumpRf (aEVR + 0xC) 31 0 1 :=
  (if_pos hon).trans (if_pos hfrozen)

end

theorem summitEventsRecord : Says.SummitEventsRecord := by
  intro s hup
  refine ⟨congrArg Host.Outcome.next (if_pos hup), congrArg Host.Outcome.next (if_pos hup),
    fun hfrozen => congrArg Host.Outcome.next (if_pos (by rw [hup, hfrozen]; rfl)),
    fun hrun => congrArg Host.Outcome.next (if_neg (by rw [hrun, Bool.and_false]; exact Bool.false_ne_true)),
    fun hoff => State.record_of_disabled hoff, fun hon hfrozen code site ext v => ?_, fun e rs r hrecs => ⟨fun hsame => ?_,
      fun hother hroom => ?_, fun hother hlen => ?_⟩, fun e hnone => ?_,
    fun hon hrun => State.record_of_running hon hrun⟩
  · rw [State.record_of_frozen hon hfrozen]
    by_cases hroom : s.summit.held.length < 256
    · rw [if_pos hroom]
      exact ⟨rfl, fun _ => rfl, fun hfull => absurd hroom (Nat.not_lt.2 hfull)⟩
    · rw [if_neg hroom]
      exact ⟨rfl, fun h => absurd h hroom, fun _ => rfl⟩
  · exact ⟨r.merge e, State.summitApply_of_same hrecs hsame, mergedRecord_fields r e⟩
  · refine ⟨SummitRec.first1 e, ?_, SummitRec.first1_same e, rfl, rfl, rfl, rfl, rfl, SummitRec.first1_hist e⟩
    rw [State.summitApply_of_other hrecs hother, if_pos hroom, hrecs, List.append_assoc]
    rfl
  · obtain ⟨hkept, hshown⟩ := State.summitApply_of_full hrecs hother hlen
    have happly := (State.summitApply_of_other hrecs hother).trans (if_neg (Nat.not_lt.2 hlen))
    refine ⟨hkept, hshown, fun hfull => happly.trans (if_pos hfull), fun hroom =>
      ⟨{ s.bumpRf (aEVR + 0xC) 31 0 1 with summit := { s.summit with full := true } }, rfl, fun a => ?_,
        happly.trans (if_neg (by rw [hroom]; exact Bool.false_ne_true))⟩⟩
    generalize s.bumpRf (aEVR + 0xC) 31 0 1 = v
    rfl
  · exact ⟨_, State.summitApply_of_empty hnone, SummitRec.first1_same e, rfl⟩

-- The invariant of the records.

/-- Two records are of different events: their code, site or extension differs. -/
def SummitRec.Differs (a b : SummitRec) : Prop := ¬(a.code = b.code ∧ a.site = b.site ∧ a.ext = b.ext)

/-- Neighbours of a list of records are of different events. -/
def NeighboursDiffer (l : List SummitRec) : Prop :=
  ∀ i a b, l[i]? = some a → l[i + 1]? = some b → a.Differs b

/-- At most 262,144 records, neighbours among them of different events (14 R479). -/
def RecordsApart (l : List SummitRec) : Prop := l.length ≤ 262_144 ∧ NeighboursDiffer l

theorem recordsApart_iff (l : List SummitRec) : RecordsApart l ↔ l.length ≤ 262_144 ∧
    ∀ i, i + 1 < l.length → ∀ a b, l[i]? = some a → l[i + 1]? = some b →
      ¬(a.code = b.code ∧ a.site = b.site ∧ a.ext = b.ext) := by
  refine and_congr_right fun _ => ⟨fun h i _ a b ha hb => h i a b ha hb, fun h i a b ha hb => ?_⟩
  exact h i (List.getElem?_eq_some_iff.1 hb).1 a b ha hb

theorem neighboursDiffer_concat (rs : List SummitRec) (r : SummitRec) :
    NeighboursDiffer (rs ++ [r]) ↔ NeighboursDiffer rs ∧ ∀ a ∈ rs.getLast?, a.Differs r := by
  refine ⟨fun h => ⟨fun i a b ha hb => ?_, fun a ha => ?_⟩, fun ⟨hrs, hlast⟩ i a b ha hb => ?_⟩
  · have hi := (List.getElem?_eq_some_iff.1 ha).1
    have hi' := (List.getElem?_eq_some_iff.1 hb).1
    exact h i a b ((List.getElem?_append_left hi).trans ha) ((List.getElem?_append_left hi').trans hb)
  · rw [Option.mem_def, List.getLast?_eq_getElem?] at ha
    have hlt := (List.getElem?_eq_some_iff.1 ha).1
    refine h (rs.length - 1) a r ((List.getElem?_append_left hlt).trans ha) ?_
    rw [Nat.sub_add_cancel (by omega), List.getElem?_concat_length]
  · have hlen := (List.getElem?_eq_some_iff.1 hb).1
    rw [List.length_append, List.length_singleton] at hlen
    have hleft := (List.getElem?_append_left (l₂ := [r]) (Nat.lt_of_succ_lt_succ hlen)).symm.trans ha
    by_cases hi : i + 1 < rs.length
    · exact hrs i a b hleft ((List.getElem?_append_left hi).symm.trans hb)
    · have heq : i + 1 = rs.length := by omega
      rw [heq, List.getElem?_concat_length] at hb
      cases hb
      refine hlast a ?_
      rw [Option.mem_def, List.getLast?_eq_getElem?, ← heq]
      exact hleft

theorem recordsApart_concat (rs : List SummitRec) (r : SummitRec) : RecordsApart (rs ++ [r]) ↔
    rs.length < 262_144 ∧ NeighboursDiffer rs ∧ ∀ a ∈ rs.getLast?, a.Differs r := by
  unfold RecordsApart
  rw [neighboursDiffer_concat, List.length_append]
  exact Iff.rfl

theorem State.summitApply_apart {s : State} (e : SummitEvt) (h : RecordsApart s.summit.recs) :
    RecordsApart (s.summitApply e).summit.recs := by
  rcases List.eq_nil_or_concat s.summit.recs with hnone | ⟨rs, r, hrecs⟩
  · rw [State.summitApply_of_empty hnone]
    exact (recordsApart_concat [] _).2 ⟨by decide, fun _ _ _ ha => absurd ha nofun, fun _ ha => absurd ha nofun⟩
  · rw [List.concat_eq_append] at hrecs
    have hlast := (recordsApart_concat rs r).1 (hrecs ▸ h)
    cases hsame : r.same e with
    | true =>
      rw [State.summitApply_of_same hrecs hsame]
      exact (recordsApart_concat rs (r.merge e)).2 hlast
    | false =>
      by_cases hroom : s.summit.recs.length < 262_144
      · rw [State.summitApply_of_other hrecs hsame, if_pos hroom]
        refine (recordsApart_concat s.summit.recs _).2 ⟨hroom, h.2, fun a ha heq => ?_⟩
        rw [hrecs, List.getLast?_concat, Option.mem_some_iff] at ha
        subst ha
        obtain ⟨hcode, hsite, hext⟩ := heq
        refine Bool.false_ne_true (hsame.symm.trans ?_)
        rw [SummitRec.same, hcode, hsite, hext]
        exact SummitRec.first1_same e
      · rw [(State.summitApply_of_full hrecs hsame (Nat.not_lt.1 hroom)).1]
        exact h

theorem summitApplies_apart {s : State} (es : List SummitEvt) (h : RecordsApart s.summit.recs) :
    RecordsApart (es.foldl State.summitApply s).summit.recs := by
  induction es generalizing s with
  | nil => exact h
  | cons e es ih => exact ih (State.summitApply_apart e h)

theorem summitRecordsStayApart : Says.SummitRecordsStayApart := by
  intro s e ok hok
  have hapart := (recordsApart_iff s.summit.recs).2 hok
  exact ⟨(recordsApart_iff _).1 (State.summitApply_apart e hapart),
    (recordsApart_iff _).1 (summitApplies_apart s.summit.held hapart)⟩

/-- Settles O56. -/
theorem summitRecords : Obligations.SummitRecords := ⟨summitEventsRecord, summitRecordsStayApart⟩

end Sys2Proof.Machine
end

section
/-! O57, the start-up of the device, and the causes of a reset (15 R482 to R486, R495; 14 R475; 13 R435). -/

namespace Sys2Proof.Machine

section
variable {s : State}

-- Power-up.

theorem State.loadFuses_of_good (h : s.fuses.badDie = none) : s.loadFuses.power.fail = s.power.fail := by
  simp only [State.loadFuses, h]

theorem State.loadFuses_of_bad {i : Nat} (h : s.fuses.badDie = some i) :
    s.loadFuses.power.fail = 1 ∧ s.loadFuses.power.failDie = i := by
  simp only [State.loadFuses, h, and_self]

theorem State.afterReset_fuses (kept : Nat → Bool) : (s.afterReset kept).fuses = s.fuses :=
  (State.afterReset_keeps (List.Subset.refl _) .refl).1 .fuses (by decide)

section
variable (c : ResetCause)

theorem State.coldReset_auxOk : (s.coldReset c).power.auxOk = s.power.auxOk := by
  obtain ⟨fail, die, hpower⟩ := s.coldReset_power c
  rw [hpower, State.afterReset_power]

theorem State.coldReset_stage : (s.coldReset c).power.stage = .fuseLoad := by
  obtain ⟨fail, die, hpower⟩ := s.coldReset_power c
  rw [hpower, State.afterReset_power]
  rfl

theorem State.coldReset_clk : (s.coldReset c).clk = 0 :=
  (State.loadFuses_keeps (List.Subset.refl _) .refl).1 .clk (by decide)

theorem State.coldReset_fail_of_good (h : s.fuses.badDie = none) : (s.coldReset c).power.fail = 0 := by
  have hgood : (s.afterReset (fun _ => false)).fuses.badDie = none := by rw [State.afterReset_fuses, h]
  refine (State.loadFuses_of_good ?_).trans ?_
  · exact hgood
  · exact congrArg Power.fail (State.afterReset_power s (fun _ => false))

theorem State.coldReset_fail_of_bad {i : Nat} (h : s.fuses.badDie = some i) :
    (s.coldReset c).power.fail = 1 ∧ (s.coldReset c).power.failDie = i := by
  have hbad : (s.afterReset (fun _ => false)).fuses.badDie = some i := by rw [State.afterReset_fuses, h]
  refine State.loadFuses_of_bad ?_
  exact hbad

end

theorem auxPowerUp_of_off (h : s.power.auxOk = false) : auxPowerUp s =
    ({ s with power := { s.power with auxOk := true, phase := .auxUp, thermTrip := false } } : State).coldReset .powerUp :=
  if_neg (by rw [h]; exact Bool.false_ne_true)

theorem regulatorStart_of_fail (h : s.power.fail ≠ 0) : regulatorStart s = s :=
  if_neg (by simp [h])

theorem resetRelease_of_fail (h : s.power.fail ≠ 0) (addr : Nat) (ropeOff : Bool) : resetRelease addr ropeOff s = s :=
  if_neg (by simp [h])

theorem resetRelease_of_good (hphase : s.power.phase = .good) (hstage : s.power.stage = .fuseLoad)
    (hreset : s.power.inReset = true) (hfail : s.power.fail = 0) (htrip : s.power.thermTrip = false) {addr : Nat}
    (haddr : addr < 4) {ropeOff : Bool} {t : State} (ht : t = { s with power := { s.power with
      coldRstN := true, perstN := true, strapAddr := addr, strapRopeOff := ropeOff, stage := .selfTest,
      inReset := !s.power.warmRstN, warmHeld := !s.power.warmRstN } }) :
    resetRelease addr ropeOff s =
      if ropeOff then t.setRbit (aROPE + 4) 0 false else (t.setRbit (aROPE + 4) 0 true).ropeStart 0 := by
  have hgo : resetRelease addr ropeOff s =
      if ropeOff then t.setRbit (aROPE + 4) 0 (!ropeOff) else (t.setRbit (aROPE + 4) 0 (!ropeOff)).ropeStart 0 := by
    subst ht
    unfold resetRelease
    rw [if_pos (by simp [hphase, hstage, hreset, hfail, htrip]), Nat.mod_eq_of_lt haddr]
  rw [hgo]
  cases ropeOff <;> rfl

-- The start-up self-test.

section
variable (hstage : s.power.stage = .selfTest) (hreset : s.power.inReset = false) (hfail : s.power.fail = 0)
  (lines : List LineId) (units : List KatTarget) (wires : List (Nat × Nat × Nat)) (rows : List SramRow)
include hstage hreset hfail

theorem startupSelftest_late : startupSelftest lines units wires rows true s =
    if s.ropeState = 1 ∧ s.rope.stage = 0 ∧ s.mayRerun = true then s.rerunStage
    else { s with power := { s.power with fail := 3 } } := by
  unfold startupSelftest
  rw [if_pos (by simp [hstage, hreset, hfail]), if_pos rfl]
  exact ite_cond_congr (propext (by simp [and_assoc]))

theorem startupSelftest_timely {r v u w : State}
    (hr : r = if s.power.cause.code < 5 then (s.units.sramFaulty ++ rows).foldl State.repairSram s else s)
    (hv : v = (wires.foldl (fun t w => t.replaceWire (w.1 % 3) (w.2.1 % 2) w.2.2) r).trainStacks lines)
    (hu : u = (startupOrder units).foldl State.startupFail v)
    (hw : w = { u with power := { u.power with stage := .boot } }) :
    startupSelftest lines units wires rows false s = if w.ropeState = 1 then w.ropeStage 1 else w := by
  subst hw hu hv hr
  unfold startupSelftest
  rw [if_pos (by simp [hstage, hreset, hfail]), if_neg Bool.false_ne_true]

end

/-- After a unit only units come, and their numbers do not fall. -/
def UnitsRise (a b : KatTarget) : Prop := ∀ u, a = .unit u → ∃ v, b = .unit v ∧ u.num ≤ v.num

theorem startupOrder_rises (units : List KatTarget) : (startupOrder units).Pairwise UnitsRise := by
  have hspare : ∀ a ∈ units.filter (fun t => match t with | .spare _ => true | .unit _ => false), ∀ b, UnitsRise a b := by
    intro a ha b u hu
    subst hu
    exact Bool.noConfusion (List.mem_filter.1 ha).2
  have hunit : ∀ (n : Nat) (a : KatTarget), a ∈ units.filter (fun t => match t with
      | .unit u => decide (u.num = n)
      | .spare _ => false) → ∃ u, a = .unit u ∧ u.num = n := by
    intro n a ha
    cases a with
    | unit u => exact ⟨u, rfl, of_decide_eq_true (List.mem_filter.1 ha).2⟩
    | spare p => exact Bool.noConfusion (List.mem_filter.1 ha).2
  have hle : ∀ {m n : Nat}, m ≤ n → ∀ a b : KatTarget, (∃ u, a = .unit u ∧ u.num = m) → (∃ v, b = .unit v ∧ v.num = n) →
      UnitsRise a b := by
    rintro m n hmn _ _ ⟨x, rfl, rfl⟩ ⟨v, rfl, rfl⟩ u hu
    injection hu with hu
    subst hu
    exact ⟨v, rfl, hmn⟩
  unfold startupOrder
  refine List.pairwise_append.2 ⟨?_, List.pairwise_flatMap.2 ⟨fun n _ => ?_, ?_⟩, fun a ha b _ => hspare a ha b⟩
  · exact List.pairwise_of_forall_sublist fun {a b} hab => hspare a (hab.subset List.mem_cons_self) b
  · exact List.pairwise_of_forall_sublist fun {a b} hab => hle (Nat.le_refl n) a b
      (hunit n a (hab.subset List.mem_cons_self))
      (hunit n b (hab.subset (List.mem_cons_of_mem _ List.mem_cons_self)))
  · exact List.pairwise_lt_range.imp fun hmn a ha b hb => hle (Nat.le_of_lt hmn) a b (hunit _ a ha) (hunit _ b hb)

theorem startupOrder_units (units : List KatTarget) {i j : Nat} {u : UnitId} (hij : i < j)
    (hj : j < (startupOrder units).length) (hi : (startupOrder units)[i]? = some (.unit u)) :
    ∃ v, (startupOrder units)[j]? = some (.unit v) ∧ u.num ≤ v.num := by
  obtain ⟨hlt, hget⟩ := List.getElem?_eq_some_iff.1 hi
  obtain ⟨v, hv, hle⟩ := List.pairwise_iff_getElem.1 (startupOrder_rises units) i j hlt hj hij u hget
  exact ⟨v, by rw [List.getElem?_eq_getElem hj, hv], hle⟩

theorem State.repairSram_row (r : SramRow) :
    (s.sramLeft r ≠ 0 → r ∈ (s.repairSram r).units.sramRepaired) ∧
      (s.sramLeft r = 0 → r ∈ (s.repairSram r).units.sramBad) ∧ r ∉ (s.repairSram r).units.sramFaulty := by
  unfold State.repairSram
  by_cases hleft : s.sramLeft r = 0
  · rw [if_pos hleft]
    refine ⟨fun h => absurd hleft h, fun _ => ?_, fun hr => ?_⟩
    · dsimp only
      split
      · assumption
      · exact List.mem_append_right _ (List.mem_singleton.2 rfl)
    · exact of_decide_eq_true (List.mem_filter.1 hr).2 rfl
  · rw [if_neg hleft]
    refine ⟨fun _ => List.mem_append_right _ (List.mem_singleton.2 rfl), fun h => absurd h hleft, fun hr => ?_⟩
    exact of_decide_eq_true (List.mem_filter.1 hr).2 rfl

theorem State.record_units (code : Nat) (site ext : W32) (v : Int) : (s.record code site ext v).units = s.units :=
  (State.record_keeps (List.Subset.refl _) .refl).1 .units (by decide)

theorem State.startupFail_unit {u : UnitId} {v : State}
    (hv : v = (s.record 0x0102 (siteUnit u) (lo32 u.island) (s.unitTemp u)).declareUnit u) :
    (s.startupFail (.unit u)).units = { v.units with substs := [] } := by
  subst hv
  exact congrArg (fun x : Units => { x with substs := [] }) (foldl_proj State.units (fun _ _ => State.record_units ..) _ _)

-- The boot.

/-- A bank that the boot ROM starts from: one whose image can be read, is signed and is not too old (13 R434). -/
def BankBoots (minSvn : Nat) (ok : Bool) (b : Option FwImage) : Prop :=
  ∃ im, b = some im ∧ ok = true ∧ minSvn ≤ im.svn ∧ im.svn ≤ 63

theorem bankGood_of_boots {minSvn : Nat} {ok : Bool} {im : FwImage} (h : BankBoots minSvn ok (some im)) :
    bankGood minSvn ok (some im) = some im := by
  obtain ⟨x, hx, hok, hlow, hhigh⟩ := h
  obtain rfl := Option.some.inj hx
  exact if_pos (by simp [hok, hlow, hhigh])

theorem bankGood_of_not {minSvn : Nat} {ok : Bool} {b : Option FwImage} (h : ¬BankBoots minSvn ok b) :
    bankGood minSvn ok b = none := by
  cases b with
  | none => rfl
  | some im =>
    refine if_neg fun hgo => h ⟨im, rfl, ?_⟩
    simpa [and_assoc] using hgo

section
variable (hstage : s.power.stage = .boot) (hreset : s.power.inReset = false) (hfail : s.power.fail = 0) {okA okB : Bool}
include hstage hreset hfail

theorem boot_of_activeA (hact : s.sec.activeB = false) {im : FwImage}
    (hA : bankGood s.fuses.minSvn okA s.sec.bankA = some im) :
    boot okA okB s = { s with
      sec := { s.sec with activeB := false, running := im, heartbeatAt := s.now }
      power := { s.power with stage := .running } } := by
  unfold boot
  rw [if_pos (by simp [hstage, hreset, hfail])]
  simp only [hact, hA, Bool.false_eq_true, if_false]

theorem boot_of_otherB (hact : s.sec.activeB = false) {im : FwImage}
    (hA : bankGood s.fuses.minSvn okA s.sec.bankA = none) (hB : bankGood s.fuses.minSvn okB s.sec.bankB = some im) :
    boot okA okB s = { s with
      sec := { s.sec with activeB := true, running := im, heartbeatAt := s.now }
      power := { s.power with stage := .running } } := by
  unfold boot
  rw [if_pos (by simp [hstage, hreset, hfail])]
  simp only [hact, hA, hB, Bool.false_eq_true, if_false, Option.map_some]

theorem boot_of_activeB (hact : s.sec.activeB = true) {im : FwImage}
    (hB : bankGood s.fuses.minSvn okB s.sec.bankB = some im) :
    boot okA okB s = { s with
      sec := { s.sec with activeB := true, running := im, heartbeatAt := s.now }
      power := { s.power with stage := .running } } := by
  unfold boot
  rw [if_pos (by simp [hstage, hreset, hfail])]
  simp only [hact, hB, if_true]

theorem boot_of_otherA (hact : s.sec.activeB = true) {im : FwImage}
    (hB : bankGood s.fuses.minSvn okB s.sec.bankB = none) (hA : bankGood s.fuses.minSvn okA s.sec.bankA = some im) :
    boot okA okB s = { s with
      sec := { s.sec with activeB := false, running := im, heartbeatAt := s.now }
      power := { s.power with stage := .running } } := by
  unfold boot
  rw [if_pos (by simp [hstage, hreset, hfail])]
  simp only [hact, hA, hB, if_true, Option.map_some]

theorem boot_of_none (hA : bankGood s.fuses.minSvn okA s.sec.bankA = none)
    (hB : bankGood s.fuses.minSvn okB s.sec.bankB = none) :
    boot okA okB s = { s with power := { s.power with fail := 2 } } := by
  unfold boot
  rw [if_pos (by simp [hstage, hreset, hfail])]
  simp only [hA, hB, Option.map_none, ite_self]

end

end

theorem deviceStarts : Says.DeviceStarts := by
  intro s
  refine ⟨fun hoff => ?_, fun hphase hfail htrip => congrArg Host.Outcome.next (if_pos (by simp [hphase, hfail, htrip])),
    fun hphase => congrArg Host.Outcome.next (if_pos hphase),
    fun hfail => ⟨congrArg Host.Outcome.next (regulatorStart_of_fail hfail),
      fun a r => congrArg Host.Outcome.next (resetRelease_of_fail hfail a r)⟩,
    fun hphase hstage hreset hfail htrip addr ropeOff haddr => congrArg Host.Outcome.next
      (resetRelease_of_good hphase hstage hreset hfail htrip haddr rfl),
    fun hstage hreset hfail lines units wires rows => ⟨?_, congrArg Host.Outcome.next
      (startupSelftest_timely hstage hreset hfail lines units wires rows rfl rfl rfl rfl)⟩,
    fun units i j u => startupOrder_units units, fun r => State.repairSram_row r, fun u => State.startupFail_unit rfl,
    fun p => State.failSpare_shows.1, fun hstage hreset hfail okA okB => ?_⟩
  · intro t
    exact ⟨congrArg Host.Outcome.next (auxPowerUp_of_off hoff), State.coldReset_auxOk _, State.coldReset_phase _ _,
      State.coldReset_cause _ _, State.coldReset_stage _, State.coldReset_inReset _ _, State.coldReset_clk _,
      fun h => State.coldReset_fail_of_good _ h, fun i h => State.coldReset_fail_of_bad _ h⟩
  · have hlate := startupSelftest_late hstage hreset hfail lines units wires rows
    exact ⟨fun hagain => congrArg Host.Outcome.next (hlate.trans (if_pos hagain)),
      fun hno => congrArg Host.Outcome.next (hlate.trans (if_neg hno))⟩
  · intro good run
    refine ⟨fun hact => ⟨fun im him hgood => ?_, fun hbad im him hgood => ?_⟩,
      fun hact => ⟨fun im him hgood => ?_, fun hbad im him hgood => ?_⟩, fun hA hB => ?_⟩
    · exact congrArg Host.Outcome.next
        (boot_of_activeA hstage hreset hfail hact (by rw [him]; exact bankGood_of_boots hgood))
    · exact congrArg Host.Outcome.next (boot_of_otherB hstage hreset hfail hact (bankGood_of_not hbad)
        (by rw [him]; exact bankGood_of_boots hgood))
    · exact congrArg Host.Outcome.next
        (boot_of_activeB hstage hreset hfail hact (by rw [him]; exact bankGood_of_boots hgood))
    · exact congrArg Host.Outcome.next (boot_of_otherA hstage hreset hfail hact (bankGood_of_not hbad)
        (by rw [him]; exact bankGood_of_boots hgood))
    · exact congrArg Host.Outcome.next (boot_of_none hstage hreset hfail (bankGood_of_not hA) (bankGood_of_not hB))

end Sys2Proof.Machine
end

section
/-! O57, the causes of a reset (15 R482, R485, R486, R495). -/

namespace Sys2Proof.Machine

section
variable {s : State}

/-- The supplies after a warm reset: the device is in its self-test, held in reset while WARM_RST_N is. -/
theorem State.warmReset_power (c : ResetCause) : (s.warmReset c).power = { Power.reset with
    phase := s.power.phase, auxOk := s.power.auxOk, cause := c, coldRstN := s.power.coldRstN, perstN := s.power.perstN,
    warmRstN := s.power.warmRstN, strapAddr := s.power.strapAddr, strapRopeOff := s.power.strapRopeOff,
    powerGood := s.power.powerGood, thermTrip := s.power.thermTrip
    stage := .selfTest, inReset := s.power.warmHeld, warmHeld := s.power.warmHeld } := by
  have hheld : ((s.setRbit aEVR 1 false).applyHeld).power = s.power :=
    (State.applyHeld_keeps (List.Subset.refl _) .refl).1 .power (by decide)
  unfold State.warmReset
  dsimp only
  rw [foldl_proj State.power fun t p => (State.scrubRecord_keeps (List.Subset.refl _) .refl).1 .power (by decide)]
  split
  · dsimp only
    rw [State.afterReset_power, hheld]
  · rw [(State.setRopeState_keeps (List.Subset.refl _) .refl).1 .power (by decide)]
    dsimp only
    rw [State.afterReset_power, hheld]

-- Supplies and the pins of a cold reset.

theorem brownOut_of_rails (h : s.power.phase = .good ∨ s.power.phase = .regulating) :
    brownOut s = (s.railsOff .auxUp).coldReset .brownOut := by
  unfold brownOut
  rcases h with h | h <;> simp only [h]

theorem brownOut_of_not (hgood : s.power.phase ≠ .good) (hreg : s.power.phase ≠ .regulating) : brownOut s = s := by
  unfold brownOut
  split
  · exact absurd ‹_› hreg
  · exact absurd ‹_› hgood
  · rfl

/-- A pulse of COLD_RST_N on a device that has tripped: with every sensor below 95 °C it ends the trip. -/
theorem coldRstN_of_tripped (h : s.power.thermTrip = true) (temp : Int) : coldRstN temp s =
    { s with power := { s.power with coldRstN := false, thermTrip := decide (8 * 95 ≤ temp) } } := by
  unfold coldRstN
  dsimp only
  rw [if_pos h]
  by_cases hcool : temp < 760
  · rw [if_pos hcool, decide_eq_false (by omega : ¬8 * 95 ≤ temp)]
  · rw [if_neg hcool, decide_eq_true (by omega : 8 * 95 ≤ temp), h]

theorem coldRstN_of_good (hphase : s.power.phase = .good) (h : s.power.thermTrip = false) (temp : Int) :
    coldRstN temp s = ({ s with power := { s.power with coldRstN := false } } : State).coldReset .coldRstN := by
  unfold coldRstN
  dsimp only
  rw [if_neg (by rw [h]; exact Bool.false_ne_true), if_pos hphase]

theorem perstN_of_good (hphase : s.power.phase = .good) (h : s.power.thermTrip = false) :
    perstN s = ({ s with power := { s.power with perstN := false } } : State).coldReset .perstN :=
  if_pos ⟨hphase, by rw [h]; rfl⟩

-- Warm causes.

theorem ResetCause.warmCauses_iff (c : ResetCause) : c ∈ [ResetCause.warmRstN, .pwrReset, .pfReset] ↔ 5 ≤ c.code := by
  cases c <;> decide

theorem State.warmTaken_iff : s.warmTaken = true ↔ s.power.stage = .running ∨
    s.power.stage ≠ .fuseLoad ∧ s.power.cause ∈ [.warmRstN, .pwrReset, .pfReset] := by
  unfold State.warmTaken
  rw [ResetCause.warmCauses_iff, Bool.or_eq_true, Bool.and_eq_true, decide_eq_true_iff, decide_eq_true_iff, decide_eq_true_iff]

theorem State.warmCause_of_taken (h : s.warmTaken = true) (c : ResetCause) : s.warmCause c = s.warmReset c := if_pos h

theorem State.warmCause_of_not (h : ¬s.warmTaken = true) (c : ResetCause) : s.warmCause c = s := if_neg h

theorem State.warmTaken_of_up (h : s.up = true) : s.warmTaken = true := by
  unfold State.up at h
  rw [Bool.and_eq_true] at h
  exact State.warmTaken_iff.2 (.inl (of_decide_eq_true h.1))

theorem pwrReset_of_written (hup : s.up = true) {v : W32} (hv : bitOf v 0 = true) :
    pwrReset v s = s.warmReset .pwrReset :=
  (if_pos (by rw [hup, hv]; rfl)).trans (State.warmCause_of_taken (State.warmTaken_of_up hup) _)

theorem pwrReset_of_unwritten {v : W32} (hv : bitOf v 0 = false) : pwrReset v s = s :=
  if_neg (by rw [hv, Bool.and_false]; exact Bool.false_ne_true)

theorem pfFlr_of_up (hup : s.up = true) : pfFlr s = s.warmReset .pfReset :=
  (if_pos hup).trans (State.warmCause_of_taken (State.warmTaken_of_up hup) _)

theorem warmRstN_of_started (hstage : s.power.stage ≠ .fuseLoad) {t : State}
    (ht : t = { s with power := { s.power with warmRstN := false, warmHeld := true, inReset := true } }) :
    warmRstN s = if s.warmTaken then t.warmReset .warmRstN else t := by
  subst ht
  unfold warmRstN
  simp only [decide_eq_true hstage, Bool.or_true]

theorem State.up_of_starting (hstage : s.power.stage = .selfTest ∨ s.power.stage = .boot) : s.up = false := by
  unfold State.up
  rcases hstage with h | h <;> rw [h] <;> rfl

end

theorem resetsAreTaken : Says.ResetsAreTaken := by
  intro s
  refine ⟨fun h => congrArg Host.Outcome.next (brownOut_of_rails h),
    fun hgood hreg => congrArg Host.Outcome.next (brownOut_of_not hgood hreg),
    fun haux => congrArg Host.Outcome.next (if_pos haux),
    fun htrip temp => congrArg Host.Outcome.next (coldRstN_of_tripped htrip temp),
    fun hphase htrip => ⟨fun temp => congrArg Host.Outcome.next (coldRstN_of_good hphase htrip temp),
      congrArg Host.Outcome.next (perstN_of_good hphase htrip)⟩,
    fun hup => ⟨fun v hv => congrArg Host.Outcome.next (pwrReset_of_written hup hv),
      fun v hv => congrArg Host.Outcome.next (pwrReset_of_unwritten hv),
      congrArg Host.Outcome.next (pfFlr_of_up hup)⟩, fun h => ⟨?_, ?_⟩, fun hstage hcold => ?_, fun hstage hreset => ?_, rfl⟩
  · exact congrArg Host.Outcome.next (State.warmCause_of_taken (State.warmTaken_iff.2 h) _)
  · intro t
    have hstage : s.power.stage ≠ .fuseLoad := by
      rcases h with hrun | ⟨hno, -⟩
      · rw [hrun]
        exact BootStage.noConfusion
      · exact hno
    refine ⟨congrArg Host.Outcome.next ((warmRstN_of_started hstage rfl).trans (if_pos (State.warmTaken_iff.2 h))), ?_⟩
    have hpower : t.power = _ := State.warmReset_power .warmRstN
    rw [hpower]
    exact ⟨rfl, rfl, rfl, rfl, rfl⟩
  · have hno : ¬s.warmTaken = true := by
      rw [State.warmTaken_iff]
      rintro (hrun | ⟨-, hwarm⟩)
      · rcases hstage with h | h <;> exact BootStage.noConfusion (h.symm.trans hrun)
      · exact hcold hwarm
    have hnot : s.power.stage ≠ .fuseLoad := by
      rcases hstage with h | h <;> rw [h] <;> exact BootStage.noConfusion
    exact ⟨congrArg Host.Outcome.next (State.warmCause_of_not hno _),
      congrArg Host.Outcome.next ((warmRstN_of_started hnot rfl).trans (if_neg hno))⟩
  · exact congrArg Host.Outcome.next (State.configured_of_starting (State.up_of_starting hstage) hstage hreset _)

/-- Settles O57. -/
theorem startsAndResets : Obligations.StartsAndResets := ⟨deviceStarts, resetsAreTaken⟩

end Sys2Proof.Machine
end

section
/-! O60, standby (15 R489, R490). -/

namespace Sys2Proof.Machine

/-- The islands with their paces at zero and their voltages off, one after another. -/
def State.pacesZeroed (s : State) : State :=
  allIslands.foldl (fun t e => t.setIsland e.1 e.2 { t.island e.1 e.2 with pace := 0, paceLow := 0, mv := 0 }) s

theorem State.setVdes_islands (f : Nat → Vde) (engines : List Nat) (s : State) :
    (engines.foldl (fun u i => u.setVde (i / 96) (i % 96) (f i)) s).islands = s.islands := by
  induction engines generalizing s with
  | nil => rfl
  | cons i engines ih => exact ih _

theorem State.drawn_islands (s : State) : s.drawn.islands = s.islands := rfl

theorem standbyEntered_of_entering {s t lost : State} (h : s.power.standby = .entering) (ht : t = s.pacesZeroed)
    (hlost : lost = { t with
      tileW := [], tileA := [], ledge := [], vdes := [], power := { t.power with standby := .standby, lostAt := some t.free } }) :
    standbyEntered s =
      ((List.range 192).foldl (fun u i => u.setVde (i / 96) (i % 96) (Vde.lost t.free i)) lost).drawn := by
  subst hlost ht
  exact if_pos h

/-- What standby loses is not in the islands: only their paces and voltages change. -/
theorem standbyEntered_islands {s : State} (h : s.power.standby = .entering) :
    (standbyEntered s).islands = s.pacesZeroed.islands := by
  rw [standbyEntered_of_entering h rfl rfl, State.drawn_islands, State.setVdes_islands]

/-- A device that enters standby, with two entries for island 0 of die 0. -/
def twiceIsland : State :=
  { State.reset with
    power := { Power.reset with stage := .running, inReset := false, standby := .entering }
    islands := [(0, { Island.reset with pace := 1 }), (0, { Island.reset with pace := 5 })] }

/-- The zeroed first entry is the default and leaves the map, and the second one shows. -/
theorem twiceIsland_pace : ((standbyEntered twiceIsland).island 0 0).pace = 5 := by
  unfold State.island
  rw [standbyEntered_islands rfl]
  decide +kernel

/-- Refutes O60: it asks for no canonical form of the state, and where the map of the islands holds a second entry of an
island, zeroing the first one's pace to the default value uncovers the second, whose pace is not zero. -/
theorem not_standbyAndManagement : ¬ Obligations.StandbyAndManagement := by
  unfold Obligations.StandbyAndManagement
  intro h
  obtain ⟨-, -, hentered, -⟩ := h twiceIsland rfl
  obtain ⟨t, ht, -, -, -, hpace, -⟩ := hentered rfl
  injection ht with ht
  obtain ⟨hzero, -⟩ := hpace 0 0 (by decide) (by decide)
  rw [← ht, twiceIsland_pace] at hzero
  exact absurd hzero (by decide)

end Sys2Proof.Machine
end
